-- ==== Sys2Proof/Word.lean ====
section
/-! DEFINITION. The plain words of the model: bytes, 32-bit register words, and the
name of one register field. -/

namespace Sys2Proof

/-- One byte (00_scope.md, R8). -/
abbrev Byte := BitVec 8

/-- One word of the register fabric, 32 bits wide (01_architecture.md, R27). -/
abbrev Word := BitVec 32

/-- One field of one register of the address map (01_architecture.md, R33): the byte address of its
register, its lowest bit, its width in bits, and the value it has after reset (the Reset column of
the owning chapter's register map). -/
structure Fld where
  addr : Nat
  lo : Nat
  w : Nat
  rst : Nat
  deriving DecidableEq, Repr

/-- The key under which a field's present value is stored: no two fields share it. -/
abbrev Fld.key (f : Fld) : Nat := f.addr * 32 + f.lo

end Sys2Proof
end

