-- ==== Sys2Proof/Syntax.lean ====
section
/-! DEFINITION. The commands of the device, one constructor per row of the opcode table, with the operands the
spec gives them. A command of the Serair protocol carries the origin of its request (03_serair_commands.md,
R68, R75); an event carries what the outside brings with it (bytes, samples, pin levels, the FCLK cycle of
its beat). Numbers whose range is a fact of the hardware (lanes, channels, contexts) are `Fin`. -/

namespace Sys2Proof

/-- The two network paths (15_network_time_redundancy.md, R421). -/
inductive Path
  | a | b
  deriving DecidableEq, Repr

/-- Where a packet came from and where its reply goes (R67): the form, the MAC or IPv4 address, the UDP
port, and for UDP the MAC address to send to (R424). -/
structure Src where
  udp : Bool
  addr : BitVec 48
  port : BitVec 16
  mac : BitVec 48
  deriving DecidableEq, Repr

/-- Where a received frame went (R66, R67, R423, R424): the destination MAC address; of a UDP datagram the destination
IPv4 address and port, whether it is a fragment, and whether its UDP checksum is 0 or right. -/
structure Dst where
  mac : BitVec 48
  ip : BitVec 32
  port : BitVec 16
  frag : Bool
  sumOk : Bool
  deriving DecidableEq, Repr

/-- The origin of an authenticated request: its session slot, sequence number, path and claim (R68). -/
structure Origin where
  slot : Fin 8
  seq : BitVec 32
  path : Path
  claim : BitVec 16
  src : Src
  deriving DecidableEq, Repr

/-- Masters of the register fabric (01_architecture.md, R24), the SPI port, and the DMA engine. -/
inductive Master
  | mgmt | app | headgate | cal | dma | spi
  deriving DecidableEq, Repr

/-- The responses of a bus access (R26). -/
inductive Resp
  | ok | retry | targetOff | slaveErr | decodeErr
  deriving DecidableEq, Repr

/-- A device time: 48-bit seconds and 32-bit nanoseconds (R5). -/
structure DevTime where
  sec : BitVec 48
  ns : BitVec 32
  deriving DecidableEq, Repr

/-- The data of an Announce message that the best master clock algorithm compares (R428). -/
structure Announce where
  sender : BitVec 64
  port : BitVec 16
  prio1 : BitVec 8
  clockClass : BitVec 8
  accuracy : BitVec 8
  variance : BitVec 16
  prio2 : BitVec 8
  gm : BitVec 64
  steps : BitVec 16
  logInterval : BitVec 8
  deriving DecidableEq, Repr

/-- The common part of a received PTP event or general message (R427): version, domain, whether it came
over UDP, its sender, sequence id and correction in units of 0.1 ns. -/
structure PtpHead where
  version : BitVec 8
  domain : BitVec 8
  udp : Bool
  sender : BitVec 64
  port : BitVec 16
  seqId : BitVec 16
  corr : BitVec 64
  deriving DecidableEq, Repr

/-- The commands. An operand with a default stands last; the default is what the ordinary course of the event brings: a
level that is stable, a time at the opening of the beat, no error. -/
inductive Instr
  -- Serair intake and sessions (03, 16)
  | packetReceived (path : Path) (src : Src) (dst : Dst) (bytes : List Byte)
  | sessionExpiry (slot : Fin 8)
  | certPresent (path : Path) (src : Src) (claim : BitVec 16) (seq : BitVec 32) (chain : List Byte)
  | sessionOpen (path : Path) (src : Src) (claim : BitVec 16) (seq : BitVec 32) (role : BitVec 8) (keyId : BitVec 32)
      (idle : BitVec 16) (pub : List Byte) (sig : List Byte)
  | heartbeat (o : Origin)
  | sessionClose (o : Origin)
  | noticeMask (o : Origin) (mask : BitVec 16) (classes : BitVec 16)
  | resultQuery (o : Origin) (seq : BitVec 32)
  -- register window and semaphores (03)
  | regRead (o : Origin) (addr : BitVec 32) (count : BitVec 16)
  | regWrite (o : Origin) (addr : BitVec 32) (vals : List Word)
  | regModify (o : Origin) (addr : BitVec 32) (mask : BitVec 32) (value : BitVec 32)
  | semAcquire (o : Origin) (sem : BitVec 8)
  | semRelease (o : Origin) (sem : BitVec 8)
  | semStatus (o : Origin)
  -- jobs and admission (02, 03, 16)
  | jobLoad (o : Origin) (addr : BitVec 64) (len : BitVec 32)
  | prewalkDone (job : BitVec 32)
  | jobAdmit (o : Origin) (job : BitVec 32)
  | jobStart (o : Origin) (job : BitVec 32) (start : BitVec 64)
  | jobStartBeat
  | jobAbort (o : Origin) (job : BitVec 32)
  | jobDiscard (o : Origin) (job : BitVec 32)
  | jobStatus (o : Origin) (job : BitVec 32)
  | envelopeLoad (o : Origin) (addr : BitVec 64) (len : BitVec 32)
  | envelopeVerifyDone
  | envelopeStatus (o : Origin)
  -- beam channels (04)
  | chArm (o : Origin) (mask : BitVec 32)
  | chPark (o : Origin) (mask : BitVec 32)
  | chClear (o : Origin) (mask : BitVec 32)
  | chStatus (o : Origin) (mask : BitVec 32)
  | chLogRead (o : Origin) (chan : BitVec 8) (first : BitVec 32) (count : BitVec 16)
  -- axes, feedback, Kettle, Sieve, time (11, 10, 12, 07, 15)
  | axMove (o : Origin) (axis : BitVec 8) (target : BitVec 64) (speed : BitVec 32) (accel : BitVec 32)
  | axTune (o : Origin) (axis : BitVec 8) (speed : BitVec 32) (accel : BitVec 32)
  | axStop (o : Origin) (mask : BitVec 8) (mode : BitVec 8)
  | axHome (o : Origin) (axis : BitVec 8) (method : BitVec 8)
  | axGear (o : Origin) (axis : BitVec 8) (pf : BitVec 8) (arm : BitVec 8) (num : BitVec 32)
      (den : BitVec 32) (pos : BitVec 64)
  | axStatus (o : Origin) (mask : BitVec 8)
  | pfStatus (o : Origin) (mask : BitVec 8)
  | ktEnable (o : Origin) (chains : BitVec 32) (on : BitVec 8)
  | ktSwap (o : Origin) (beat : BitVec 64)
  | ktLoop (o : Origin) (on : BitVec 8) (ctx : BitVec 8) (map : BitVec 64)
  | ktStatus (o : Origin)
  | ctxBind (o : Origin) (ctx : BitVec 8) (sieve : BitVec 8)
  | ctxRun (o : Origin) (ctx : BitVec 8) (on : BitVec 8)
  | tapRead (o : Origin) (ctx : BitVec 8) (tap : BitVec 8) (off : BitVec 64) (len : BitVec 16)
  | ctxStatus (o : Origin) (ctx : BitVec 8)
  | timeStatus (o : Origin) (cycle : Fin 499)
  | pulseSet (o : Origin) (out : BitVec 8) (mode : BitVec 8) (first : DevTime) (period : BitVec 32)
      (width : BitVec 32)
  | captureRead (o : Origin) (inp : BitVec 8)
  -- Crock, calibration, snapshot, domains, firmware, maker (16, 17, 18, 13)
  | logRead (o : Origin) (first : BitVec 16) (count : BitVec 8) (badWord : Option (Fin 16384))
      (ce : Bool := false)
  | logStatus (o : Origin)
  | logClear (o : Origin)
  | logClearDone
  | lastgaspRead (o : Origin)
  | calRun (o : Origin) (items : BitVec 32)
  | calRoundDone (item : Fin 5) (inst : BitVec 16) (ok : Bool)
  | calStatus (o : Origin) (item : BitVec 8)
  | tableCommit (o : Origin) (kind : BitVec 8) (inst : BitVec 8)
  | tableCommitDone (kind : Fin 2) (inst : Fin 32)
  | snapTrigger (o : Origin)
  | snapRelease (o : Origin)
  | snapConfig (o : Origin) (src : BitVec 8) (classes : BitVec 16) (time : DevTime)
  | snapStatus (o : Origin)
  | pdOn (o : Origin) (mask : BitVec 16)
  | pdOff (o : Origin) (mask : BitVec 16) (mode : BitVec 8)
  | pdStatus (o : Origin)
  | fwStage (o : Origin) (addr : BitVec 64) (len : BitVec 32)
  | fwStageDone (badArea : Bool := false)
  | fwSwitch (o : Origin)
  | fwSwitchDone
  | fwInfo (o : Origin)
  | otpRead (o : Origin) (off : BitVec 16) (count : BitVec 16)
  | laneTest (o : Origin) (lane : BitVec 8) (mode : BitVec 8)
  | dramDiagRead (o : Origin) (chan : BitVec 8) (addr : BitVec 64) (bursts : BitVec 16)
  -- network and time (15, 02)
  | pathTimeout (path : Path)
  | pathSwitch
  | netLink (path : Path) (lock : Bool) (fault : Bool := false) (an : Bool := true)
  | arpRequest (path : Path) (target : BitVec 32) (senderMac : BitVec 48) (senderIp : BitVec 32)
  | portModeTry (path : Path)
  | ptpAnnounce (path : Path) (h : PtpHead) (a : Announce)
  | announceTimeout (path : Path)
  | ptpSync (path : Path) (h : PtpHead) (twoStep : Bool) (t1 : BitVec 96) (t2 : BitVec 96)
      (logInterval : BitVec 8)
  | ptpFollowUp (path : Path) (h : PtpHead) (t1 : BitVec 96)
  | delayReqTimer (path : Path) (t3 : BitVec 96)
  | ptpDelayResp (path : Path) (h : PtpHead) (reqPort : BitVec 16) (reqClock : BitVec 64) (t4 : BitVec 96)
      (logInterval : BitVec 8)
  | syncReceiptTimeout (path : Path)
  | stepFix
  | timeStep
  | timePulseRise (k : Fin 8)
  | timePulseFall (k : Fin 8)
  | captureEdge (k : Fin 8) (rise : Bool) (ns : Fin 499)
  -- the beat, Bed Sluice and Furrow events (02, 04, 05)
  | beatOpen (gpi : BitVec 16) (axIn : BitVec 24)
  | backoffExpiry (c : Fin 24)
  | settleExpiry (tile : Fin 65536)
  | quotaWindowEnd
  | slotTableWrap
  | vectorEnd (c : Fin 24)
  | vectorFetchDone (c : Fin 24) (ok : Bool)
  | logFlushTimeout (c : Fin 24)
  | waitInputMet (c : Fin 24)
  | waitInputTimeout (c : Fin 24)
  | waitTimeMet (c : Fin 24)
  | syncBeatMet (c : Fin 24)
  | outputPulseClear (k : Fin 16)
  | vectorRateWindow (c : Fin 24)
  | quenchConfirm (c : Fin 24)
  -- Glelin links (06)
  | uplinkFrame (c : Fin 24) (line : List Bool) (yArrival : BitVec 16)
  | markerTimeout (lane : Fin 52)
  | mbxTimeout (c : Fin 24)
  | overviewFrame (cam : Fin 2) (line0 : List Bool) (line1 : List Bool)
  | glkMbxCmdWrite (m : Master) (lane : Fin 52) (value : Word)
  | glkEnableWrite (m : Master) (lane : Fin 52) (value : Word)
  | glkTestModeWrite (m : Master) (lane : Fin 52) (value : Word)
  | glkInjectOnce (m : Master) (lane : Fin 52) (value : Word)
  -- Sieve and features (07, 08)
  | cameraFrameOpen (ctx : Fin 32)
  | frameClose (ctx : Fin 32)
  | sieveRunStart (sieve : Fin 2)
  | sieveRunDone (sieve : Fin 2)
  | featureDelivery (ctx : Fin 24)
  | overviewFrameTimeout (ctx : Fin 32)
  | overviewLineRun (ctx : Fin 32)
  | contextStart (ctx : Fin 32)
  | svaFaultClear (m : Master) (sieve : Fin 2) (ctx : Fin 32) (value : Word)
  | svaFpnCommit (m : Master) (sieve : Fin 2) (ctx : Fin 32) (value : Word)
  | svaParamWrite (m : Master) (sieve : Fin 2) (ctx : Fin 32) (off : BitVec 16) (value : Word)
  | svaExpWrite (m : Master) (sieve : Fin 2) (ctx : Fin 32) (gain : Bool) (value : Word)
  -- Ladle (09)
  | trackingSample (c : Fin 24) (y : Bool)
  | powerSample (c : Fin 24)
  | ladRcSwitchIn (m : Master) (c : Fin 24) (value : Word)
  | ladRcSwitchOut (m : Master) (c : Fin 24) (value : Word)
  | ladUcodeWrite (m : Master) (c : Fin 24) (value : Word)
  | ladLoopRegWrite (m : Master) (c : Fin 24) (off : BitVec 16) (value : Word)
  | rcSpillDone (c : Fin 24) (ok : Bool)
  -- position feedback (10)
  | pfEdge (n : Fin 8) (a : Bool) (b : Bool) (ns : Fin 499) (stable : BitVec 8 := 255)
  | indexEdge (n : Fin 8) (ns : Fin 499) (a : Bool := false) (b : Bool := false) (x : Bool := true)
      (stable : BitVec 8 := 255)
  | speedStopTimeout (n : Fin 8)
  | pfEnable (m : Master) (n : Fin 8) (value : Word)
  | pfCmpArm (m : Master) (n : Fin 8) (u : Fin 4) (value : Word)
  | capPosRead (m : Master) (n : Fin 8)
  | emuEnable (m : Master) (k : Fin 4) (value : Word)
  | emuStep (k : Fin 4) (ns : Fin 499)
  -- axes (11)
  | axInputChange (n : Fin 8) (inp : Fin 3)
  | axEnable (m : Master) (n : Fin 8) (value : Word)
  | axHoldCurrent (n : Fin 8)
  | chopperBlankEnd (n : Fin 8) (coilB : Bool) (ns : Fin 499 := 0)
  | chopperSenseTrip (n : Fin 8) (coilB : Bool) (ns : Fin 499 := 0)
  | chopperTonTimeout (n : Fin 8) (coilB : Bool) (ns : Fin 499 := 0)
  | chopperFastDecayEnd (n : Fin 8) (coilB : Bool) (ns : Fin 499 := 0)
  | chopperSlowDecayEnd (n : Fin 8) (coilB : Bool) (ns : Fin 499 := 0)
  -- Kettle (12)
  | ktReadStart
  | ktReadDone (ok : Bool) (ns : Fin 499 := 0)
  | ktShiftStart
  | ktLatch
  | ktRefresh
  | ktLineStart
  | ktReturnRecord (chain : Fin 32) (tile : Fin 32) (line : List Byte)
  | ktLoopUpdate
  -- DRAM and Memory Sluice (13)
  | dmcTrain (m : Master) (n : Fin 2) (value : Word)
  | trainDone (n : Fin 2) (fail : Option (Fin 16 × Fin 10))
  | dqsRetrain (n : Fin 2) (up : BitVec 10) (down : BitVec 10)
  | dramRefresh (n : Fin 2) (rank : Fin 2) (hot : Bool)
  | actWindowClear (n : Fin 2)
  | dramAccessDone (n : Fin 2) (ce : Option (Fin 10)) (ue : Bool) (synd : BitVec 128)
  | dramAlert (n : Fin 2)
  | weirAge (n : Fin 2)
  | memSlot
  -- DMA (14)
  | dmaStart (m : Master) (n : Fin 64) (value : Word)
  | dmaAbort (m : Master) (n : Fin 64) (value : Word)
  | dmaBurstGrant (gpi : BitVec 16 := 0)
  | dmaResponse (n : Fin 64) (k : BitVec 12) (retry : Bool)
  | dmaRetryTimer (n : Fin 64)
  | dmaStopComplete (n : Fin 64)
  -- Crock, thermal, calibration, snapshots (16, 17)
  | crockTakeEvent (badWord : Option (Fin 16384)) (ce : Bool)
  | thmConversion (readings : List (BitVec 16))
  | thermalShutdown (sensor : Fin 12) (tripped : Bool := true)
  | thermalRestart
  | calLaneStep (item : Fin 5)
  | snapInEdge (low : BitVec 8 := 255) (high : BitVec 8 := 255)
  | snapTime
  | snapshotLatch
  | snpReleaseWrite (m : Master) (value : Word)
  | snpViewWrite (m : Master) (value : Word)
  | slbSlotCommit (m : Master) (value : Word)
  | slbRcLeadWrite (m : Master) (value : Word)
  -- resets, boot, SPI, domains, quench inputs (16, 18)
  | powerOnReset
  | powerOnRelease
  | wrstPin (low : Bool)
  | pwrWarmWrite (m : Master) (value : Word) (cycle : Fin 499)
  | supplyAlarm (monitor : Fin 16) (out : Bool)
  | clockAlarm (pll : Bool) (lost : Bool)
  | mgtWdtExpiry
  | mgtWdtKick (m : Master) (value : Word)
  | motionResetHold
  | warmResetRelease
  | coreHeartbeatTimeout (core : Fin 4)
  | mgtLoadWrite (m : Master) (k : Fin 256) (value : Word)
  | mgtBootStart (m : Master) (value : Word)
  | imageVerifyDone (badArea : Bool := false)
  | spiLockWrite (m : Master) (value : Word)
  | spiWrite (bytes : List Byte) (whole : Bool)
  | spiRead (addr : BitVec 32) (count : BitVec 8)
  | spiStatus
  | pwrDomOn (m : Master) (value : Word)
  | pwrDomOff (m : Master) (value : Word)
  | pwrDomForced (m : Master) (value : Word)
  | domainOnDone (d : Fin 12)
  | quiesceAck (d : Fin 12)
  | quiesceTimeout
  | deferredDomainOff
  | quenchInput (b : Bool)
  | quenchRelease (b : Bool)
  -- register fabric (01, 00, 08, 02)
  | loRegRead (m : Master) (addr : BitVec 32) (cycle : Fin 499)
  | fxSeqRead (m : Master) (ctx : Fin 24)
  | btTimeRead (m : Master) (epoch : Bool) (cycle : Fin 499)
  | rcCounterRead (m : Master) (addr : BitVec 32)
  | genericRegWrite (m : Master) (addr : BitVec 32) (value : Word)
  -- remaining rows (02, 06, 18, 15, 19)
  | queueWaitDeferred
  | prbsSyncChange (lane : Fin 52) (sync : Bool)
  | laneRefLoss (k : Fin 5)
  | laneRefReturn (k : Fin 5)
  | rxFrameDropped (path : Path) (fcsBad : Bool)
  | jtagTck (tms : Bool) (tdi : Bool)
  | jtagTrst
  deriving DecidableEq, Repr

end Sys2Proof
end

