-- ==== Sys2Proof/Decode.lean ====
section
/-! DEFINITION. The decoder of opcode-table words. The table gives no row any bits: the commands of this device
are packets, accesses and events, not words (DESIGN CHOICE, log entry 2). -/

namespace Sys2Proof

/-- The command that a table word spells: none, since the opcode table gives no row any bits. -/
def decodeTableWord (_nbits _w : Nat) : Option Instr := none

end Sys2Proof
end

