-- ==== Sys2Proof/Machine/Num.lean ====
section
/-! DEFINITION. Numbers: signed readings of register words, clamping and rounding as the chapters state
them, bytes in both orders (00_scope.md, R8), and sequence comparison (R15). -/

namespace Sys2Proof.Machine

/-- `n` read as a two's complement number of `w` bits (00_scope.md, sN). -/
def toS (w n : Nat) : Int :=
  let m := n % 2 ^ w
  if m < 2 ^ (w - 1) then (m : Int) else (m : Int) - (2 ^ w : Nat)

/-- An s32 word as an integer. -/
def s32 (n : Nat) : Int := toS 32 n

/-- An s16 word as an integer. -/
def s16 (n : Nat) : Int := toS 16 n

/-- The two's complement bits of an integer in `w` bits. -/
def ofS (w : Nat) (i : Int) : Nat := (i % (2 ^ w : Nat)).toNat

/-- `x` limited to the range from `lo` to `hi`. -/
def clampI (lo hi x : Int) : Int := if x < lo then lo else if x > hi then hi else x

/-- Saturation of an integer to `w`-bit two's complement. -/
def satS (w : Nat) (x : Int) : Int := clampI (-(2 ^ (w - 1) : Nat)) ((2 ^ (w - 1) : Nat) - 1) x

/-- Saturation of a natural number to `w` bits. -/
def satU (w n : Nat) : Nat := if n < 2 ^ w then n else 2 ^ w - 1

/-- Quotient rounded to the nearest integer, halves away from zero; the divisor is positive. -/
def divRoundAway (a : Int) (b : Nat) : Int :=
  if a ≥ 0 then (2 * a + b) / (2 * b) else -((2 * (-a) + b) / (2 * b))

/-- Quotient rounded to the nearest integer, halves up (towards plus infinity); the divisor is positive. -/
def divRoundUp (a : Int) (b : Nat) : Int := (2 * a + b) / (2 * b)

/-- Quotient rounded towards zero. -/
def divTrunc (a : Int) (b : Int) : Int := a.tdiv b

/-- Quotient rounded up of natural numbers. -/
def ceilDiv (a b : Nat) : Nat := if b = 0 then 0 else (a + b - 1) / b

/-- Integer square root by bisection on the bits from `k` down. -/
def isqrtGo (n : Nat) : Nat → Nat → Nat
  | 0, r => r
  | k + 1, r =>
    let t := r + 2 ^ k
    isqrtGo n k (if t * t ≤ n then t else r)

/-- The largest integer whose square is at most `n` (below 2^160). -/
def isqrt (n : Nat) : Nat := isqrtGo n 80 0

/-- Bit `k` of a number. -/
def bit (n k : Nat) : Bool := n.testBit k

/-- Bits [hi:lo] of a number. -/
def bits (n hi lo : Nat) : Nat := (n >>> lo) % 2 ^ (hi - lo + 1)

/-- A number with bit `k` set or cleared. -/
def withBit (n k : Nat) (b : Bool) : Nat :=
  if b then n ||| 2 ^ k else n - (if n.testBit k then 2 ^ k else 0)

/-- 1 for true, 0 for false. -/
def b2n (b : Bool) : Nat := if b then 1 else 0

/-- The set bit numbers of `n` below `w`, ascending. -/
def bitList (w n : Nat) : List Nat := (List.range w).filter fun k => n.testBit k

/-- A mask with one bit per listed number. -/
def maskOf (l : List Nat) : Nat := l.foldl (fun m k => m ||| 2 ^ k) 0

/-- The number whose big-endian bytes are given. -/
def be (l : List Byte) : Nat := l.foldl (fun a b => a * 256 + b.toNat) 0

/-- The number whose little-endian bytes are given. -/
def le (l : List Byte) : Nat := l.foldr (fun b a => a * 256 + b.toNat) 0

/-- The `k` big-endian bytes of a number. -/
def toBE : Nat → Nat → List Byte
  | 0, _ => []
  | k + 1, n => BitVec.ofNat 8 (n / 256 ^ k) :: toBE k n

/-- The `k` little-endian bytes of a number. -/
def toLE : Nat → Nat → List Byte
  | 0, _ => []
  | k + 1, n => BitVec.ofNat 8 n :: toLE k (n / 256)

/-- Bytes `o` to `o + k − 1` of a byte string. -/
def slice (l : List Byte) (o k : Nat) : List Byte := (l.drop o).take k

/-- The big-endian field of `k` bytes at offset `o`. -/
def beAt (l : List Byte) (o k : Nat) : Nat := be (slice l o k)

/-- The little-endian field of `k` bytes at offset `o`. -/
def leAt (l : List Byte) (o k : Nat) : Nat := le (slice l o k)

/-- Whether `a` follows `b` among `n`-bit sequence numbers (00_scope.md, R15). -/
def follows (n a b : Nat) : Bool :=
  let d := (a + 2 ^ n - b % 2 ^ n) % 2 ^ n
  decide (1 ≤ d) && decide (d < 2 ^ (n - 1))

/-- Replace entry `i` of a list by a function of it. -/
def modAt {α : Type} : List α → Nat → (α → α) → List α
  | [], _, _ => []
  | a :: l, 0, f => f a :: l
  | a :: l, i + 1, f => a :: modAt l i f

/-- Replace entry `i` of a list. -/
def setAt {α : Type} (l : List α) (i : Nat) (a : α) : List α := modAt l i fun _ => a

/-- Insert into an association list with strictly rising keys. -/
def assocPut {α : Type} (k : Nat) (v : α) : List (Nat × α) → List (Nat × α)
  | [] => [(k, v)]
  | (k', v') :: l =>
    if k < k' then (k, v) :: (k', v') :: l
    else if k = k' then (k, v) :: l
    else (k', v') :: assocPut k v l

/-- The entry of an association list. -/
def assocGet {α : Type} (k : Nat) : List (Nat × α) → Option α
  | [] => none
  | (k', v) :: l => if k = k' then some v else assocGet k l

/-- An association list without key `k`. -/
def assocDel {α : Type} (k : Nat) (l : List (Nat × α)) : List (Nat × α) := l.filter fun p => p.1 != k

end Sys2Proof.Machine
end

