-- ==== Sys2Proof/Machine/Regs.lean ====
section
/-! DEFINITION. One name per register field of the device: its byte address (01_architecture.md, R33),
its place in the word and its reset value, as the register map of its owning chapter gives them.
Index arguments: v Sieve (0 SVA, 1 SVB), n instance, c chain, l loop (0 X, 1 Y, 2 power), and the inner
index of the map (k, u, t, w, r, s, p, z, b). SVX names the per-context registers SVA_n_… and SVB_n_…. -/

namespace Sys2Proof.Reg

/-- The kind code of a context (07_sieve_pipeline.md, R252): contexts 0–23 melt-pool (0), 24 and 25
overview (1), 26–31 test (2). -/
def ctxKindCode (n : Nat) : Nat := if n < 24 then 0 else if n < 26 then 1 else 2

/-! ### TOP (01_architecture.md, R37) -/

/-- TOP_PART_CODE [15:0], RO. -/
def TOP_PART_CODE_part_code : Fld := ⟨0x0, 0, 16, 0x2460⟩
/-- TOP_DIE_REV [7:4], RO. -/
def TOP_DIE_REV_major : Fld := ⟨0x4, 4, 4, 0⟩
/-- TOP_DIE_REV [3:0], RO. -/
def TOP_DIE_REV_minor : Fld := ⟨0x4, 0, 4, 0⟩
/-- TOP_DIE_ID_LO [31:0], RO. -/
def TOP_DIE_ID_LO_die_id : Fld := ⟨0x8, 0, 32, 0⟩
/-- TOP_DIE_ID_HI [31:0], RO. -/
def TOP_DIE_ID_HI_die_id : Fld := ⟨0xc, 0, 32, 0⟩
/-- TOP_DOMAIN_ON [11:0], RO. -/
def TOP_DOMAIN_ON_on : Fld := ⟨0x10, 0, 12, 1⟩
/-- TOP_SCRATCH [31:0], RW. -/
def TOP_SCRATCH_value : Fld := ⟨0x20, 0, 32, 0⟩

/-! ### PWR (18_resets_domains_faults.md, R517) -/

/-- PWR_CTL [15:0], RW. -/
def PWR_CTL_quiesce_ms : Fld := ⟨0x10000, 0, 16, 1000⟩
/-- PWR_STATUS [27:16], RO+S. -/
def PWR_STATUS_switching : Fld := ⟨0x10004, 16, 12, 0⟩
/-- PWR_STATUS [11:0], RO+S. -/
def PWR_STATUS_on : Fld := ⟨0x10004, 0, 12, 1⟩
/-- PWR_CAUSE [15:8], RO. -/
def PWR_CAUSE_monitor : Fld := ⟨0x10008, 8, 8, 0⟩
/-- PWR_CAUSE [7:0], RO. -/
def PWR_CAUSE_cause : Fld := ⟨0x10008, 0, 8, 0⟩
/-- PWR_WARM [15:0], WO. -/
def PWR_WARM_key : Fld := ⟨0x1000c, 0, 16, 0⟩
/-- PWR_RESETS [31:0], RO+S. -/
def PWR_RESETS_value : Fld := ⟨0x10010, 0, 32, 0⟩
/-- PWR_STICKY [0], W1C. -/
def PWR_STICKY_sat : Fld := ⟨0x10014, 0, 1, 0⟩
/-- PWR_SUPPLY [31:16], W1C. -/
def PWR_SUPPLY_seen : Fld := ⟨0x10018, 16, 16, 0⟩
/-- PWR_SUPPLY [15:0], RO+S. -/
def PWR_SUPPLY_out : Fld := ⟨0x10018, 0, 16, 0⟩
/-- PWR_CLOCK [22:16], W1C. -/
def PWR_CLOCK_lost : Fld := ⟨0x1001c, 16, 7, 0⟩
/-- PWR_CLOCK [6:0], RO+S. -/
def PWR_CLOCK_ok : Fld := ⟨0x1001c, 0, 7, 0⟩
/-- PWR_MGT_WDT [31], WO. -/
def PWR_MGT_WDT_kick : Fld := ⟨0x10020, 31, 1, 0⟩
/-- PWR_MGT_WDT [15:0], RW. -/
def PWR_MGT_WDT_period : Fld := ⟨0x10020, 0, 16, 100⟩
/-- PWR_DOM_CMD [17], WO. -/
def PWR_DOM_CMD_forced : Fld := ⟨0x10024, 17, 1, 0⟩
/-- PWR_DOM_CMD [16], WO. -/
def PWR_DOM_CMD_off : Fld := ⟨0x10024, 16, 1, 0⟩
/-- PWR_DOM_CMD [11:0], WO. -/
def PWR_DOM_CMD_mask : Fld := ⟨0x10024, 0, 12, 0⟩
/-- PWR_DOM_k_STATE [4], W1C. -/
def PWR_DOM_STATE_timeout (k : Nat) : Fld := ⟨0x10100 + k * 0x4, 4, 1, 0⟩
/-- PWR_DOM_k_STATE [2:0], RO+S. -/
def PWR_DOM_STATE_state (k : Nat) : Fld := ⟨0x10100 + k * 0x4, 0, 3, 0⟩

/-! ### THM (17_thermal_calibration_snapshots.md, R493) -/

/-- THM_CTL [6:0], RW. -/
def THM_CTL_start : Fld := ⟨0x20000, 0, 7, 100⟩
/-- THM_STATUS [31:16], RO+S. -/
def THM_STATUS_t_max : Fld := ⟨0x20004, 16, 16, 0⟩
/-- THM_STATUS [15:12], RO+S. -/
def THM_STATUS_hottest : Fld := ⟨0x20004, 12, 4, 0⟩
/-- THM_STATUS [10], W1C. -/
def THM_STATUS_restarted : Fld := ⟨0x20004, 10, 1, 0⟩
/-- THM_STATUS [9], RO+S. -/
def THM_STATUS_sensor_fault : Fld := ⟨0x20004, 9, 1, 0⟩
/-- THM_STATUS [8], RO+S. -/
def THM_STATUS_throttling : Fld := ⟨0x20004, 8, 1, 0⟩
/-- THM_STATUS [4:0], RO+S. -/
def THM_STATUS_x : Fld := ⟨0x20004, 0, 5, 0⟩
/-- THM_SHUTDOWNS [31:0], RO+S. -/
def THM_SHUTDOWNS_count : Fld := ⟨0x20008, 0, 32, 0⟩
/-- THM_THROTTLE_MS [31:0], RO+S. -/
def THM_THROTTLE_MS_count : Fld := ⟨0x2000c, 0, 32, 0⟩
/-- THM_STICKY [1:0], W1C. -/
def THM_STICKY_sat : Fld := ⟨0x20010, 0, 2, 0⟩
/-- THM_SENS_n [17], RO+S. -/
def THM_SENS_fault (n : Nat) : Fld := ⟨0x20100 + n * 0x4, 17, 1, 0⟩
/-- THM_SENS_n [16], RO+S. -/
def THM_SENS_stale (n : Nat) : Fld := ⟨0x20100 + n * 0x4, 16, 1, 0⟩
/-- THM_SENS_n [15:0], RO+S. -/
def THM_SENS_temp (n : Nat) : Fld := ⟨0x20100 + n * 0x4, 0, 16, 0⟩
/-- THM_PEAK_n [15:0], RC. -/
def THM_PEAK_temp (n : Nat) : Fld := ⟨0x20140 + n * 0x4, 0, 16, 0x8000⟩

/-! ### CAL (17_thermal_calibration_snapshots.md, R494) -/

/-- CAL_STATUS [14:8], RO+S. -/
def CAL_STATUS_stale : Fld := ⟨0x30000, 8, 7, 0⟩
/-- CAL_STATUS [6:0], RO+S. -/
def CAL_STATUS_running : Fld := ⟨0x30000, 0, 7, 0⟩
/-- CAL_LANE_INT [15:0], RW. -/
def CAL_LANE_INT_us : Fld := ⟨0x30004, 0, 16, 1000⟩
/-- CAL_DARK [11:8], RW. -/
def CAL_DARK_log2_frames : Fld := ⟨0x30008, 8, 4, 6⟩
/-- CAL_DARK [4:0], RW. -/
def CAL_DARK_context : Fld := ⟨0x30008, 0, 5, 0⟩
/-- CAL_FAIL [31:16], RO+S. -/
def CAL_FAIL_instance : Fld := ⟨0x3000c, 16, 16, 0⟩
/-- CAL_FAIL [15:8], RO+S. -/
def CAL_FAIL_cause : Fld := ⟨0x3000c, 8, 8, 0⟩
/-- CAL_FAIL [2:0], RO+S. -/
def CAL_FAIL_item : Fld := ⟨0x3000c, 0, 3, 0⟩
/-- CAL_STICKY [6:0], W1C. -/
def CAL_STICKY_sat : Fld := ⟨0x30010, 0, 7, 0⟩
/-- CAL_ITEM_k_COUNT [31:0], RO+S. -/
def CAL_ITEM_COUNT_value (k : Nat) : Fld := ⟨0x30100 + k * 0x10, 0, 32, 0⟩
/-- CAL_ITEM_k_NS [31:0], RO+S. -/
def CAL_ITEM_NS_value (k : Nat) : Fld := ⟨0x30104 + k * 0x10, 0, 32, 0⟩
/-- CAL_ITEM_k_SEC_LO [31:0], RO+S. -/
def CAL_ITEM_SEC_LO_value (k : Nat) : Fld := ⟨0x30108 + k * 0x10, 0, 32, 0⟩
/-- CAL_ITEM_k_SEC_HI [15:0], RO+S. -/
def CAL_ITEM_SEC_HI_value (k : Nat) : Fld := ⟨0x3010c + k * 0x10, 0, 16, 0⟩

/-! ### SNP (17_thermal_calibration_snapshots.md, R495) -/

/-- SNP_CTL [8], RW. -/
def SNP_CTL_out_en : Fld := ⟨0x40000, 8, 1, 0⟩
/-- SNP_CTL [3:1], RW. -/
def SNP_CTL_src : Fld := ⟨0x40000, 1, 3, 0⟩
/-- SNP_CTL [0], RO. -/
def SNP_CTL_opcode : Fld := ⟨0x40000, 0, 1, 1⟩
/-- SNP_FAULT_MASK [14:0], RW. -/
def SNP_FAULT_MASK_mask : Fld := ⟨0x40004, 0, 15, 0⟩
/-- SNP_TIME_NS [31:0], RW. -/
def SNP_TIME_NS_time : Fld := ⟨0x40008, 0, 32, 0⟩
/-- SNP_TIME_SEC_LO [31:0], RW. -/
def SNP_TIME_SEC_LO_time : Fld := ⟨0x4000c, 0, 32, 0⟩
/-- SNP_TIME_SEC_HI [15:0], RW. -/
def SNP_TIME_SEC_HI_time : Fld := ⟨0x40010, 0, 16, 0⟩
/-- SNP_STATUS [12:8], RO. -/
def SNP_STATUS_sources : Fld := ⟨0x40014, 8, 5, 0⟩
/-- SNP_STATUS [1], RO. -/
def SNP_STATUS_time_armed : Fld := ⟨0x40014, 1, 1, 0⟩
/-- SNP_STATUS [0], RO. -/
def SNP_STATUS_held : Fld := ⟨0x40014, 0, 1, 0⟩
/-- SNP_SEQ [31:0], RO. -/
def SNP_SEQ_value : Fld := ⟨0x40018, 0, 32, 0⟩
/-- SNP_LATCH_LO [31:0], RO. -/
def SNP_LATCH_LO_value : Fld := ⟨0x4001c, 0, 32, 0⟩
/-- SNP_LATCH_HI [31:0], RO. -/
def SNP_LATCH_HI_value : Fld := ⟨0x40020, 0, 32, 0⟩
/-- SNP_MISSED [31:0], RO. -/
def SNP_MISSED_value : Fld := ⟨0x40024, 0, 32, 0⟩
/-- SNP_DOMAINS [11:0], RO. -/
def SNP_DOMAINS_on : Fld := ⟨0x40028, 0, 12, 0⟩
/-- SNP_VIEW [0], RW. -/
def SNP_VIEW_on : Fld := ⟨0x4002c, 0, 1, 0⟩
/-- SNP_RELEASE [0], WO. -/
def SNP_RELEASE_release : Fld := ⟨0x40030, 0, 1, 0⟩

/-! ### CRK (16_management_roles_crock.md, R473) -/

/-- CRK_STATUS [26:24], RO+S. -/
def CRK_STATUS_lg_next : Fld := ⟨0x50000, 24, 3, 0⟩
/-- CRK_STATUS [18], RO+S. -/
def CRK_STATUS_clearing : Fld := ⟨0x50000, 18, 1, 0⟩
/-- CRK_STATUS [17], RO+S. -/
def CRK_STATUS_logmem_fail : Fld := ⟨0x50000, 17, 1, 0⟩
/-- CRK_STATUS [16], RO+S. -/
def CRK_STATUS_full : Fld := ⟨0x50000, 16, 1, 0⟩
/-- CRK_STATUS [14:0], RO+S. -/
def CRK_STATUS_used : Fld := ⟨0x50000, 0, 15, 0⟩
/-- CRK_LOST [31:0], RO+S. -/
def CRK_LOST_count : Fld := ⟨0x50004, 0, 32, 0⟩
/-- CRK_DROPPED [31:0], RO+S. -/
def CRK_DROPPED_count : Fld := ⟨0x50008, 0, 32, 0⟩
/-- CRK_CE [31:0], RO+S. -/
def CRK_CE_count : Fld := ⟨0x5000c, 0, 32, 0⟩
/-- CRK_FAIL_IDX [13:0], RO+S. -/
def CRK_FAIL_IDX_index : Fld := ⟨0x50010, 0, 14, 0⟩
/-- CRK_STICKY [2:0], W1C. -/
def CRK_STICKY_sat : Fld := ⟨0x50014, 0, 3, 0⟩
/-- CRK_LG_COUNT [31:0], RO+S. -/
def CRK_LG_COUNT_count : Fld := ⟨0x50018, 0, 32, 0⟩

/-! ### SEC (16_management_roles_crock.md, R472) -/

/-- SEC_STATUS [9], RO+S. -/
def SEC_STATUS_env_loaded : Fld := ⟨0x60000, 9, 1, 0⟩
/-- SEC_STATUS [8:4], RO+S. -/
def SEC_STATUS_keys : Fld := ⟨0x60000, 4, 5, 0⟩
/-- SEC_STATUS [3:0], RO+S. -/
def SEC_STATUS_sessions : Fld := ⟨0x60000, 0, 4, 0⟩
/-- SEC_ENV_ID [31:0], RO+S. -/
def SEC_ENV_ID_value : Fld := ⟨0x60004, 0, 32, 0⟩
/-- SEC_ENV_KEY [31:0], RO+S. -/
def SEC_ENV_KEY_value : Fld := ⟨0x60008, 0, 32, 0⟩
/-- SEC_REFUSED [31:0], RO+S. -/
def SEC_REFUSED_value : Fld := ⟨0x6000c, 0, 32, 0⟩
/-- SEC_STICKY [0], W1C. -/
def SEC_STICKY_refused_sat : Fld := ⟨0x60010, 0, 1, 0⟩
/-- SEC_SLOT_s_STATE [31:16], RO+S. -/
def SEC_SLOT_STATE_idle_timeout (s : Nat) : Fld := ⟨0x60100 + s * 0x10, 16, 16, 0⟩
/-- SEC_SLOT_s_STATE [8], RO+S. -/
def SEC_SLOT_STATE_last_path (s : Nat) : Fld := ⟨0x60100 + s * 0x10, 8, 1, 0⟩
/-- SEC_SLOT_s_STATE [5:4], RO+S. -/
def SEC_SLOT_STATE_role (s : Nat) : Fld := ⟨0x60100 + s * 0x10, 4, 2, 0⟩
/-- SEC_SLOT_s_STATE [1:0], RO+S. -/
def SEC_SLOT_STATE_state (s : Nat) : Fld := ⟨0x60100 + s * 0x10, 0, 2, 0⟩
/-- SEC_SLOT_s_ID [31:0], RO+S. -/
def SEC_SLOT_ID_value (s : Nat) : Fld := ⟨0x60104 + s * 0x10, 0, 32, 0⟩
/-- SEC_SLOT_s_KEY [31:0], RO+S. -/
def SEC_SLOT_KEY_value (s : Nat) : Fld := ⟨0x60108 + s * 0x10, 0, 32, 0⟩
/-- SEC_SLOT_s_IDLE [31:0], RO+S. -/
def SEC_SLOT_IDLE_value (s : Nat) : Fld := ⟨0x6010c + s * 0x10, 0, 32, 0⟩
/-- SEC_KEY_k_ID [31:0], RO+S. -/
def SEC_KEY_ID_value (k : Nat) : Fld := ⟨0x60200 + k * 0x8, 0, 32, 0⟩
/-- SEC_KEY_k_INFO [11:8], RO+S. -/
def SEC_KEY_INFO_sessions (k : Nat) : Fld := ⟨0x60204 + k * 0x8, 8, 4, 0⟩
/-- SEC_KEY_k_INFO [4], RO+S. -/
def SEC_KEY_INFO_die_bound (k : Nat) : Fld := ⟨0x60204 + k * 0x8, 4, 1, 0⟩
/-- SEC_KEY_k_INFO [1:0], RO+S. -/
def SEC_KEY_INFO_role (k : Nat) : Fld := ⟨0x60204 + k * 0x8, 0, 2, 0⟩

/-! ### MGT (16_management_roles_crock.md, R471) -/

/-- MGT_BOOT_STATUS [12], RO+S. -/
def MGT_BOOT_STATUS_active_area : Fld := ⟨0x70000, 12, 1, 0⟩
/-- MGT_BOOT_STATUS [11:8], RO+S. -/
def MGT_BOOT_STATUS_cause : Fld := ⟨0x70000, 8, 4, 0⟩
/-- MGT_BOOT_STATUS [2:0], RO+S. -/
def MGT_BOOT_STATUS_state : Fld := ⟨0x70000, 0, 3, 0⟩
/-- MGT_BOOT_CMD [8], WO. -/
def MGT_BOOT_CMD_test_ok : Fld := ⟨0x70004, 8, 1, 0⟩
/-- MGT_BOOT_CMD [0], WO. -/
def MGT_BOOT_CMD_start : Fld := ⟨0x70004, 0, 1, 0⟩
/-- MGT_LOAD_BASE [21:2], RW. -/
def MGT_LOAD_BASE_offset : Fld := ⟨0x70008, 2, 20, 0⟩
/-- MGT_IMG_k_VERSION [31:0], RO+S. -/
def MGT_IMG_VERSION_version (k : Nat) : Fld := ⟨0x70020 + k * 0x8, 0, 32, 0⟩
/-- MGT_IMG_k_INFO [3], RO+S. -/
def MGT_IMG_INFO_staged (k : Nat) : Fld := ⟨0x70024 + k * 0x8, 3, 1, 0⟩
/-- MGT_IMG_k_INFO [2], RO+S. -/
def MGT_IMG_INFO_active (k : Nat) : Fld := ⟨0x70024 + k * 0x8, 2, 1, 0⟩
/-- MGT_IMG_k_INFO [1], RO+S. -/
def MGT_IMG_INFO_kind (k : Nat) : Fld := ⟨0x70024 + k * 0x8, 1, 1, 0⟩
/-- MGT_IMG_k_INFO [0], RO+S. -/
def MGT_IMG_INFO_verified (k : Nat) : Fld := ⟨0x70024 + k * 0x8, 0, 1, 0⟩
/-- MGT_SPI_CTL [0], RW. -/
def MGT_SPI_CTL_lock : Fld := ⟨0x70040, 0, 1, 0⟩
/-- MGT_ALARM_EN [5:0], RW. -/
def MGT_ALARM_EN_src : Fld := ⟨0x70044, 0, 6, 0⟩
/-- MGT_ALARM_STATUS [5:0], RO+S. -/
def MGT_ALARM_STATUS_src : Fld := ⟨0x70048, 0, 6, 0⟩
/-- MGT_LOAD_k [31:0], WO. -/
def MGT_LOAD_data (k : Nat) : Fld := ⟨0x71000 + k * 0x4, 0, 32, 0⟩

/-! ### BT (02_beat_and_admission.md, R65) -/

/-- BT_CTL [0], RW. -/
def BT_CTL_admit_need_lock : Fld := ⟨0x80000, 0, 1, 0⟩
/-- BT_STATUS [3], RO+S. -/
def BT_STATUS_step_done : Fld := ⟨0x80004, 3, 1, 0⟩
/-- BT_STATUS [2], RO+S. -/
def BT_STATUS_pll_locked : Fld := ⟨0x80004, 2, 1, 0⟩
/-- BT_STATUS [1:0], RO+S. -/
def BT_STATUS_time_state : Fld := ⟨0x80004, 0, 2, 0⟩
/-- BT_BEAT_LO [31:0], RO+S. -/
def BT_BEAT_LO_beat : Fld := ⟨0x80008, 0, 32, 0⟩
/-- BT_BEAT_HI [31:0], RO+S. -/
def BT_BEAT_HI_beat : Fld := ⟨0x8000c, 0, 32, 0⟩
/-- BT_SEC_BEAT_LO [31:0], RO+S. -/
def BT_SEC_BEAT_LO_sec_beat : Fld := ⟨0x80010, 0, 32, 0⟩
/-- BT_SEC_BEAT_HI [31:0], RO+S. -/
def BT_SEC_BEAT_HI_sec_beat : Fld := ⟨0x80014, 0, 32, 0⟩
/-- BT_TIME_NS [29:0], RO+S. -/
def BT_TIME_NS_ns : Fld := ⟨0x80018, 0, 30, 0⟩
/-- BT_TIME_SEC_LO [31:0], RO+S. -/
def BT_TIME_SEC_LO_sec : Fld := ⟨0x8001c, 0, 32, 0⟩
/-- BT_TIME_SEC_HI [15:0], RO+S. -/
def BT_TIME_SEC_HI_sec : Fld := ⟨0x80020, 0, 16, 0⟩
/-- BT_EPOCH_NS [29:0], RO. -/
def BT_EPOCH_NS_epoch : Fld := ⟨0x80024, 0, 30, 0⟩
/-- BT_EPOCH_SEC_LO [31:0], RO. -/
def BT_EPOCH_SEC_LO_epoch : Fld := ⟨0x80028, 0, 32, 0⟩
/-- BT_EPOCH_SEC_HI [15:0], RO. -/
def BT_EPOCH_SEC_HI_epoch : Fld := ⟨0x8002c, 0, 16, 0⟩
/-- BT_STEP_BEAT_LO [31:0], RO. -/
def BT_STEP_BEAT_LO_step_beat : Fld := ⟨0x80030, 0, 32, 0⟩
/-- BT_STEP_BEAT_HI [31:0], RO. -/
def BT_STEP_BEAT_HI_step_beat : Fld := ⟨0x80034, 0, 32, 0⟩
/-- BT_STEP_STRETCH [7:0], RO. -/
def BT_STEP_STRETCH_stretch : Fld := ⟨0x80038, 0, 8, 0⟩
/-- BT_RATE_TRIM [31:0], RO+S. -/
def BT_RATE_TRIM_trim : Fld := ⟨0x8003c, 0, 32, 0⟩
/-- BT_PHASE [8:0], RO. -/
def BT_PHASE_cycle : Fld := ⟨0x80040, 0, 9, 0⟩

/-! ### PTP (15_network_time_redundancy.md, R443) -/

/-- PTP_CTL [9], RW. -/
def PTP_CTL_udp_en : Fld := ⟨0x90000, 9, 1, 1⟩
/-- PTP_CTL [8], RW. -/
def PTP_CTL_l2_en : Fld := ⟨0x90000, 8, 1, 1⟩
/-- PTP_CTL [7:0], RW. -/
def PTP_CTL_domain : Fld := ⟨0x90000, 0, 8, 0⟩
/-- PTP_THRESH [31:0], RW. -/
def PTP_THRESH_thresh : Fld := ⟨0x90004, 0, 32, 1000⟩
/-- PTP_SERVO [31:16], RW. -/
def PTP_SERVO_kp : Fld := ⟨0x90008, 16, 16, 0x8000⟩
/-- PTP_SERVO [15:0], RW. -/
def PTP_SERVO_ki : Fld := ⟨0x90008, 0, 16, 0x1000⟩
/-- PTP_STATUS [11:8], RO+S. -/
def PTP_STATUS_cause : Fld := ⟨0x9000c, 8, 4, 0⟩
/-- PTP_STATUS [5], RO+S. -/
def PTP_STATUS_master_b : Fld := ⟨0x9000c, 5, 1, 0⟩
/-- PTP_STATUS [4], RO+S. -/
def PTP_STATUS_master_a : Fld := ⟨0x9000c, 4, 1, 0⟩
/-- PTP_STATUS [1], W1C. -/
def PTP_STATUS_refused : Fld := ⟨0x9000c, 1, 1, 0⟩
/-- PTP_STATUS [0], RO+S. -/
def PTP_STATUS_lock_seen : Fld := ⟨0x9000c, 0, 1, 0⟩
/-- PTP_P_n_OFFSET [31:0], RO+S. -/
def PTP_P_OFFSET_value (n : Nat) : Fld := ⟨0x90010 + n * 0x20, 0, 32, 0⟩
/-- PTP_P_n_DELAY [31:0], RO+S. -/
def PTP_P_DELAY_value (n : Nat) : Fld := ⟨0x90014 + n * 0x20, 0, 32, 0⟩
/-- PTP_P_n_AT_LO [31:0], RO+S. -/
def PTP_P_AT_LO_value (n : Nat) : Fld := ⟨0x90018 + n * 0x20, 0, 32, 0⟩
/-- PTP_P_n_AT_HI [31:0], RO+S. -/
def PTP_P_AT_HI_value (n : Nat) : Fld := ⟨0x9001c + n * 0x20, 0, 32, 0⟩
/-- PTP_P_n_GM_LO [31:0], RO+S. -/
def PTP_P_GM_LO_value (n : Nat) : Fld := ⟨0x90020 + n * 0x20, 0, 32, 0⟩
/-- PTP_P_n_GM_HI [31:0], RO+S. -/
def PTP_P_GM_HI_value (n : Nat) : Fld := ⟨0x90024 + n * 0x20, 0, 32, 0⟩
/-- PTP_P_n_GM_PORT [15:0], RO+S. -/
def PTP_P_GM_PORT_value (n : Nat) : Fld := ⟨0x90028 + n * 0x20, 0, 16, 0⟩
/-- PTP_REFUSED [31:0], RO+S. -/
def PTP_REFUSED_count : Fld := ⟨0x90060, 0, 32, 0⟩
/-- PTP_ACCEPTED [31:0], RO+S. -/
def PTP_ACCEPTED_count : Fld := ⟨0x90064, 0, 32, 0⟩
/-- PTP_STICKY [1:0], W1C. -/
def PTP_STICKY_sat : Fld := ⟨0x90068, 0, 2, 0⟩
/-- PTP_TP_k_CTL [4], RO+S. -/
def PTP_TP_CTL_level (k : Nat) : Fld := ⟨0x90100 + k * 0x20, 4, 1, 0⟩
/-- PTP_TP_k_CTL [1:0], RW. -/
def PTP_TP_CTL_mode (k : Nat) : Fld := ⟨0x90100 + k * 0x20, 0, 2, 0⟩
/-- PTP_TP_k_NS [31:0], RW. -/
def PTP_TP_NS_value (k : Nat) : Fld := ⟨0x90104 + k * 0x20, 0, 32, 0⟩
/-- PTP_TP_k_SEC_LO [31:0], RW. -/
def PTP_TP_SEC_LO_value (k : Nat) : Fld := ⟨0x90108 + k * 0x20, 0, 32, 0⟩
/-- PTP_TP_k_SEC_HI [15:0], RW. -/
def PTP_TP_SEC_HI_value (k : Nat) : Fld := ⟨0x9010c + k * 0x20, 0, 16, 0⟩
/-- PTP_TP_k_PERIOD [31:0], RW. -/
def PTP_TP_PERIOD_value (k : Nat) : Fld := ⟨0x90110 + k * 0x20, 0, 32, 0⟩
/-- PTP_TP_k_WIDTH [31:0], RW. -/
def PTP_TP_WIDTH_value (k : Nat) : Fld := ⟨0x90114 + k * 0x20, 0, 32, 0⟩
/-- PTP_TP_k_COUNT [31:0], RO+S. -/
def PTP_TP_COUNT_value (k : Nat) : Fld := ⟨0x90118 + k * 0x20, 0, 32, 0⟩
/-- PTP_CAP_k_CTL [8], RO+S. -/
def PTP_CAP_CTL_last_edge (k : Nat) : Fld := ⟨0x90200 + k * 0x20, 8, 1, 0⟩
/-- PTP_CAP_k_CTL [1:0], RW. -/
def PTP_CAP_CTL_edge (k : Nat) : Fld := ⟨0x90200 + k * 0x20, 0, 2, 3⟩
/-- PTP_CAP_k_COUNT [31:0], RO+S. -/
def PTP_CAP_COUNT_value (k : Nat) : Fld := ⟨0x90204 + k * 0x20, 0, 32, 0⟩
/-- PTP_CAP_k_NS [31:0], RO+S. -/
def PTP_CAP_NS_value (k : Nat) : Fld := ⟨0x90208 + k * 0x20, 0, 32, 0⟩
/-- PTP_CAP_k_SEC_LO [31:0], RO+S. -/
def PTP_CAP_SEC_LO_value (k : Nat) : Fld := ⟨0x9020c + k * 0x20, 0, 32, 0⟩
/-- PTP_CAP_k_SEC_HI [15:0], RO+S. -/
def PTP_CAP_SEC_HI_value (k : Nat) : Fld := ⟨0x90210 + k * 0x20, 0, 16, 0⟩

/-! ### NET (15_network_time_redundancy.md, R442) -/

/-- NET_n_CTL [8], RW. -/
def NET_CTL_ptp_en (n : Nat) : Fld := ⟨0xa0000 + n * 0x8000, 8, 1, 1⟩
/-- NET_n_CTL [5], RW. -/
def NET_CTL_udp_en (n : Nat) : Fld := ⟨0xa0000 + n * 0x8000, 5, 1, 1⟩
/-- NET_n_CTL [4], RW. -/
def NET_CTL_raw_en (n : Nat) : Fld := ⟨0xa0000 + n * 0x8000, 4, 1, 1⟩
/-- NET_n_CTL [2], RWI. -/
def NET_CTL_an_en (n : Nat) : Fld := ⟨0xa0000 + n * 0x8000, 2, 1, 1⟩
/-- NET_n_CTL [1], RWI. -/
def NET_CTL_mode (n : Nat) : Fld := ⟨0xa0000 + n * 0x8000, 1, 1, 0⟩
/-- NET_n_CTL [0], RW. -/
def NET_CTL_enable (n : Nat) : Fld := ⟨0xa0000 + n * 0x8000, 0, 1, 0⟩
/-- NET_n_STATUS [3], W1C. -/
def NET_STATUS_link_lost (n : Nat) : Fld := ⟨0xa0004 + n * 0x8000, 3, 1, 0⟩
/-- NET_n_STATUS [2], RO+S. -/
def NET_STATUS_fault (n : Nat) : Fld := ⟨0xa0004 + n * 0x8000, 2, 1, 0⟩
/-- NET_n_STATUS [1], RO+S. -/
def NET_STATUS_an_done (n : Nat) : Fld := ⟨0xa0004 + n * 0x8000, 1, 1, 0⟩
/-- NET_n_STATUS [0], RO+S. -/
def NET_STATUS_link (n : Nat) : Fld := ⟨0xa0004 + n * 0x8000, 0, 1, 0⟩
/-- NET_n_MAC_LO [31:0], RW. -/
def NET_MAC_LO_mac (n : Nat) : Fld := ⟨0xa0008 + n * 0x8000, 0, 32, 0⟩
/-- NET_n_MAC_HI [15:0], RW. -/
def NET_MAC_HI_mac (n : Nat) : Fld := ⟨0xa000c + n * 0x8000, 0, 16, 0⟩
/-- NET_n_IP [31:0], RW. -/
def NET_IP_ip (n : Nat) : Fld := ⟨0xa0010 + n * 0x8000, 0, 32, 0⟩
/-- NET_n_UDP [15:0], RW. -/
def NET_UDP_port (n : Nat) : Fld := ⟨0xa0014 + n * 0x8000, 0, 16, 0xb87e⟩
/-- NET_n_TS_CORR [31:16], RO. -/
def NET_TS_CORR_egress (n : Nat) : Fld := ⟨0xa0018 + n * 0x8000, 16, 16, 208⟩
/-- NET_n_TS_CORR [15:0], RO. -/
def NET_TS_CORR_ingress (n : Nat) : Fld := ⟨0xa0018 + n * 0x8000, 0, 16, 272⟩
/-- NET_n_RX_FRAMES [31:0], RO+S. -/
def NET_RX_FRAMES_count (n : Nat) : Fld := ⟨0xa0020 + n * 0x8000, 0, 32, 0⟩
/-- NET_n_RX_FCS [31:0], RO+S. -/
def NET_RX_FCS_count (n : Nat) : Fld := ⟨0xa0024 + n * 0x8000, 0, 32, 0⟩
/-- NET_n_RX_DROP [31:0], RO+S. -/
def NET_RX_DROP_count (n : Nat) : Fld := ⟨0xa0028 + n * 0x8000, 0, 32, 0⟩
/-- NET_n_TX_FRAMES [31:0], RO+S. -/
def NET_TX_FRAMES_count (n : Nat) : Fld := ⟨0xa002c + n * 0x8000, 0, 32, 0⟩
/-- NET_n_RX_PTP [31:0], RO+S. -/
def NET_RX_PTP_count (n : Nat) : Fld := ⟨0xa0030 + n * 0x8000, 0, 32, 0⟩
/-- NET_n_TX_PTP [31:0], RO+S. -/
def NET_TX_PTP_count (n : Nat) : Fld := ⟨0xa0034 + n * 0x8000, 0, 32, 0⟩
/-- NET_n_STICKY [5:0], W1C. -/
def NET_STICKY_sat (n : Nat) : Fld := ⟨0xa0038 + n * 0x8000, 0, 6, 0⟩

/-! ### HG (15_network_time_redundancy.md, R444) -/

/-- HG_CTL [15:0], RW. -/
def HG_CTL_hb_timeout : Fld := ⟨0xb0000, 0, 16, 20⟩
/-- HG_STATUS [22:16], RO+S. -/
def HG_STATUS_queue : Fld := ⟨0xb0004, 16, 7, 0⟩
/-- HG_STATUS [7:6], RO+S. -/
def HG_STATUS_qual_b : Fld := ⟨0xb0004, 6, 2, 0⟩
/-- HG_STATUS [5:4], RO+S. -/
def HG_STATUS_qual_a : Fld := ⟨0xb0004, 4, 2, 0⟩
/-- HG_STATUS [2], RO+S. -/
def HG_STATUS_current_b : Fld := ⟨0xb0004, 2, 1, 0⟩
/-- HG_STATUS [1], RO+S. -/
def HG_STATUS_current_a : Fld := ⟨0xb0004, 1, 1, 0⟩
/-- HG_STATUS [0], RO+S. -/
def HG_STATUS_ctl_path : Fld := ⟨0xb0004, 0, 1, 0⟩
/-- HG_CLAIM [31:16], RO+S. -/
def HG_CLAIM_claim_b : Fld := ⟨0xb0008, 16, 16, 0⟩
/-- HG_CLAIM [15:0], RO+S. -/
def HG_CLAIM_claim_a : Fld := ⟨0xb0008, 0, 16, 0⟩
/-- HG_SWITCH_LO [31:0], RO+S. -/
def HG_SWITCH_LO_value : Fld := ⟨0xb000c, 0, 32, 0⟩
/-- HG_SWITCH_HI [31:0], RO+S. -/
def HG_SWITCH_HI_value : Fld := ⟨0xb0010, 0, 32, 0⟩
/-- HG_SWITCHES [31:0], RO+S. -/
def HG_SWITCHES_value : Fld := ⟨0xb0014, 0, 32, 0⟩
/-- HG_P_p_FORM [31:0], RO+S. -/
def HG_P_FORM_count (p : Nat) : Fld := ⟨0xb0040 + p * 0x20, 0, 32, 0⟩
/-- HG_P_p_SESSION [31:0], RO+S. -/
def HG_P_SESSION_count (p : Nat) : Fld := ⟨0xb0044 + p * 0x20, 0, 32, 0⟩
/-- HG_P_p_TAG [31:0], RO+S. -/
def HG_P_TAG_count (p : Nat) : Fld := ⟨0xb0048 + p * 0x20, 0, 32, 0⟩
/-- HG_P_p_CLAIM [31:0], RO+S. -/
def HG_P_CLAIM_count (p : Nat) : Fld := ⟨0xb004c + p * 0x20, 0, 32, 0⟩
/-- HG_P_p_BUSY [31:0], RO+S. -/
def HG_P_BUSY_count (p : Nat) : Fld := ⟨0xb0050 + p * 0x20, 0, 32, 0⟩
/-- HG_P_p_HB [31:0], RO+S. -/
def HG_P_HB_count (p : Nat) : Fld := ⟨0xb0054 + p * 0x20, 0, 32, 0⟩
/-- HG_P_p_STICKY [5:0], W1C. -/
def HG_P_STICKY_sat (p : Nat) : Fld := ⟨0xb0058 + p * 0x20, 0, 6, 0⟩

/-! ### FUR (04_furrows.md, R150) -/

/-- FUR_n_STATE [31:16], RO+S. -/
def FUR_STATE_head_seq (n : Nat) : Fld := ⟨0x100000 + n * 0x1000, 16, 16, 0⟩
/-- FUR_n_STATE [11:8], RO+S. -/
def FUR_STATE_wait_cause (n : Nat) : Fld := ⟨0x100000 + n * 0x1000, 8, 4, 0⟩
/-- FUR_n_STATE [7:4], RO+S. -/
def FUR_STATE_quench_cause (n : Nat) : Fld := ⟨0x100000 + n * 0x1000, 4, 4, 0⟩
/-- FUR_n_STATE [2:0], RO+S. -/
def FUR_STATE_state (n : Nat) : Fld := ⟨0x100000 + n * 0x1000, 0, 3, 0⟩
/-- FUR_n_FAULT [31:16], RO+S. -/
def FUR_FAULT_fault_seq (n : Nat) : Fld := ⟨0x100004 + n * 0x1000, 16, 16, 0⟩
/-- FUR_n_FAULT [7:0], RO+S. -/
def FUR_FAULT_cause (n : Nat) : Fld := ⟨0x100004 + n * 0x1000, 0, 8, 0⟩
/-- FUR_n_CMD_X [31:0], RO+S. -/
def FUR_CMD_X_pos (n : Nat) : Fld := ⟨0x100008 + n * 0x1000, 0, 32, 0⟩
/-- FUR_n_CMD_Y [31:0], RO+S. -/
def FUR_CMD_Y_pos (n : Nat) : Fld := ⟨0x10000c + n * 0x1000, 0, 32, 0⟩
/-- FUR_n_SCAN_X [31:0], RO+S. -/
def FUR_SCAN_X_scan (n : Nat) : Fld := ⟨0x100010 + n * 0x1000, 0, 32, 0⟩
/-- FUR_n_SCAN_Y [31:0], RO+S. -/
def FUR_SCAN_Y_scan (n : Nat) : Fld := ⟨0x100014 + n * 0x1000, 0, 32, 0⟩
/-- FUR_n_OUT [17], RO+S. -/
def FUR_OUT_laser_enable (n : Nat) : Fld := ⟨0x100018 + n * 0x1000, 17, 1, 0⟩
/-- FUR_n_OUT [16], RO+S. -/
def FUR_OUT_gate (n : Nat) : Fld := ⟨0x100018 + n * 0x1000, 16, 1, 0⟩
/-- FUR_n_OUT [15:0], RO+S. -/
def FUR_OUT_power (n : Nat) : Fld := ⟨0x100018 + n * 0x1000, 0, 16, 0⟩
/-- FUR_n_VSTART_LO [31:0], RO+S. -/
def FUR_VSTART_LO_beat (n : Nat) : Fld := ⟨0x100020 + n * 0x1000, 0, 32, 0⟩
/-- FUR_n_VSTART_HI [31:0], RO+S. -/
def FUR_VSTART_HI_beat (n : Nat) : Fld := ⟨0x100024 + n * 0x1000, 0, 32, 0⟩
/-- FUR_n_LIST_BASE_LO [31:0], RO. -/
def FUR_LIST_BASE_LO_base (n : Nat) : Fld := ⟨0x100028 + n * 0x1000, 0, 32, 0⟩
/-- FUR_n_LIST_BASE_HI [3:0], RO. -/
def FUR_LIST_BASE_HI_base (n : Nat) : Fld := ⟨0x10002c + n * 0x1000, 0, 4, 0⟩
/-- FUR_n_LIST_LEN [31:0], RO. -/
def FUR_LIST_LEN_length (n : Nat) : Fld := ⟨0x100030 + n * 0x1000, 0, 32, 0⟩
/-- FUR_n_RATE [31:0], RO. -/
def FUR_RATE_rate (n : Nat) : Fld := ⟨0x100034 + n * 0x1000, 0, 32, 0⟩
/-- FUR_n_PARK_X [31:0], RW. -/
def FUR_PARK_X_pos (n : Nat) : Fld := ⟨0x100038 + n * 0x1000, 0, 32, 0⟩
/-- FUR_n_PARK_Y [31:0], RW. -/
def FUR_PARK_Y_pos (n : Nat) : Fld := ⟨0x10003c + n * 0x1000, 0, 32, 0⟩
/-- FUR_n_PARK_SET [5:0], RW. -/
def FUR_PARK_SET_pset (n : Nat) : Fld := ⟨0x100040 + n * 0x1000, 0, 6, 0⟩
/-- FUR_n_DEFER_CTL [31:16], RWI. -/
def FUR_DEFER_CTL_max_beats (n : Nat) : Fld := ⟨0x100044 + n * 0x1000, 16, 16, 0⟩
/-- FUR_n_DEFER_CTL [0], RWI. -/
def FUR_DEFER_CTL_enable (n : Nat) : Fld := ⟨0x100044 + n * 0x1000, 0, 1, 0⟩
/-- FUR_n_SYNC_CTL [15:0], RWI. -/
def FUR_SYNC_CTL_out_mask (n : Nat) : Fld := ⟨0x100048 + n * 0x1000, 0, 16, 0⟩
/-- FUR_n_LOG_BASE_LO [31:6], RWI. -/
def FUR_LOG_BASE_LO_base (n : Nat) : Fld := ⟨0x10004c + n * 0x1000, 6, 26, 0⟩
/-- FUR_n_LOG_BASE_HI [3:0], RWI. -/
def FUR_LOG_BASE_HI_base (n : Nat) : Fld := ⟨0x100050 + n * 0x1000, 0, 4, 0⟩
/-- FUR_n_LOG_SIZE [4:0], RWI. -/
def FUR_LOG_SIZE_log2_entries (n : Nat) : Fld := ⟨0x100054 + n * 0x1000, 0, 5, 0⟩
/-- FUR_n_LOG_COUNT [31:0], RO+S. -/
def FUR_LOG_COUNT_count (n : Nat) : Fld := ⟨0x100058 + n * 0x1000, 0, 32, 0⟩
/-- FUR_n_VEC_COUNT [31:0], RO+S. -/
def FUR_VEC_COUNT_count (n : Nat) : Fld := ⟨0x10005c + n * 0x1000, 0, 32, 0⟩
/-- FUR_n_DEFER_COUNT [31:0], RO+S. -/
def FUR_DEFER_COUNT_count (n : Nat) : Fld := ⟨0x100060 + n * 0x1000, 0, 32, 0⟩
/-- FUR_n_WAIT_BEATS [31:0], RO+S. -/
def FUR_WAIT_BEATS_count (n : Nat) : Fld := ⟨0x100064 + n * 0x1000, 0, 32, 0⟩
/-- FUR_n_UNDERRUN [31:0], RO+S. -/
def FUR_UNDERRUN_count (n : Nat) : Fld := ⟨0x100068 + n * 0x1000, 0, 32, 0⟩
/-- FUR_n_STICKY [3], W1C. -/
def FUR_STICKY_underrun_sat (n : Nat) : Fld := ⟨0x10006c + n * 0x1000, 3, 1, 0⟩
/-- FUR_n_STICKY [2], W1C. -/
def FUR_STICKY_wait_sat (n : Nat) : Fld := ⟨0x10006c + n * 0x1000, 2, 1, 0⟩
/-- FUR_n_STICKY [1], W1C. -/
def FUR_STICKY_defer_sat (n : Nat) : Fld := ⟨0x10006c + n * 0x1000, 1, 1, 0⟩
/-- FUR_n_STICKY [0], W1C. -/
def FUR_STICKY_vec_sat (n : Nat) : Fld := ⟨0x10006c + n * 0x1000, 0, 1, 0⟩
/-- FUR_n_GRID [31:16], RO. -/
def FUR_GRID_commit_count (n : Nat) : Fld := ⟨0x100070 + n * 0x1000, 16, 16, 0⟩
/-- FUR_n_GRID [2], RO. -/
def FUR_GRID_commit_pending (n : Nat) : Fld := ⟨0x100070 + n * 0x1000, 2, 1, 0⟩
/-- FUR_n_GRID [1], RO. -/
def FUR_GRID_shadow_valid (n : Nat) : Fld := ⟨0x100070 + n * 0x1000, 1, 1, 0⟩
/-- FUR_n_GRID [0], RO. -/
def FUR_GRID_active_valid (n : Nat) : Fld := ⟨0x100070 + n * 0x1000, 0, 1, 0⟩
/-- FUR_n_PMAX [15:0], RO. -/
def FUR_PMAX_pmax (n : Nat) : Fld := ⟨0x100074 + n * 0x1000, 0, 16, 0⟩
/-- FUR_n_JOB [31:0], RO+S. -/
def FUR_JOB_job_id (n : Nat) : Fld := ⟨0x100078 + n * 0x1000, 0, 32, 0⟩
/-- FUR_n_PSET_k_DLY [31:16], RWI. -/
def FUR_PSET_DLY_off_delay (n k : Nat) : Fld := ⟨0x100800 + n * 0x1000 + k * 0x20, 16, 16, 0⟩
/-- FUR_n_PSET_k_DLY [15:0], RWI. -/
def FUR_PSET_DLY_on_delay (n k : Nat) : Fld := ⟨0x100800 + n * 0x1000 + k * 0x20, 0, 16, 0⟩
/-- FUR_n_PSET_k_JUMP [31:0], RWI. -/
def FUR_PSET_JUMP_jump_speed (n k : Nat) : Fld := ⟨0x100804 + n * 0x1000 + k * 0x20, 0, 32, 0⟩
/-- FUR_n_PSET_k_HOLD [31:16], RWI. -/
def FUR_PSET_HOLD_poly_delay (n k : Nat) : Fld := ⟨0x100808 + n * 0x1000 + k * 0x20, 16, 16, 0⟩
/-- FUR_n_PSET_k_HOLD [15:0], RWI. -/
def FUR_PSET_HOLD_jump_settle (n k : Nat) : Fld := ⟨0x100808 + n * 0x1000 + k * 0x20, 0, 16, 0⟩
/-- FUR_n_PSET_k_SKY [31:16], RWI. -/
def FUR_PSET_SKY_run_out (n k : Nat) : Fld := ⟨0x10080c + n * 0x1000 + k * 0x20, 16, 16, 0⟩
/-- FUR_n_PSET_k_SKY [15:0], RWI. -/
def FUR_PSET_SKY_run_in (n k : Nat) : Fld := ⟨0x10080c + n * 0x1000 + k * 0x20, 0, 16, 0⟩
/-- FUR_n_PSET_k_TRIM [25:24], RWI. -/
def FUR_PSET_TRIM_gain_sel (n k : Nat) : Fld := ⟨0x100810 + n * 0x1000 + k * 0x20, 24, 2, 0⟩
/-- FUR_n_PSET_k_TRIM [23:16], RWI. -/
def FUR_PSET_TRIM_poly_angle (n k : Nat) : Fld := ⟨0x100810 + n * 0x1000 + k * 0x20, 16, 8, 180⟩
/-- FUR_n_PSET_k_TRIM [15:8], RWI. -/
def FUR_PSET_TRIM_fall_trim (n k : Nat) : Fld := ⟨0x100810 + n * 0x1000 + k * 0x20, 8, 8, 0⟩
/-- FUR_n_PSET_k_TRIM [7:0], RWI. -/
def FUR_PSET_TRIM_rise_trim (n k : Nat) : Fld := ⟨0x100810 + n * 0x1000 + k * 0x20, 0, 8, 0⟩
/-- FUR_n_PSET_k_LOOP [15:0], RWI. -/
def FUR_PSET_LOOP_pwr_ref (n k : Nat) : Fld := ⟨0x100814 + n * 0x1000 + k * 0x20, 0, 16, 0⟩

/-! ### SLB (05_bed_sluice.md, R179) -/

/-- SLB_CTL [23:20], RWI. -/
def SLB_CTL_urgent_extra : Fld := ⟨0x120000, 20, 4, 2⟩
/-- SLB_CTL [19:16], RWI. -/
def SLB_CTL_k_max : Fld := ⟨0x120000, 16, 4, 4⟩
/-- SLB_CTL [9:8], RWI. -/
def SLB_CTL_halo : Fld := ⟨0x120000, 8, 2, 1⟩
/-- SLB_CTL [0], RWI. -/
def SLB_CTL_slot_en : Fld := ⟨0x120000, 0, 1, 0⟩
/-- SLB_GRID_X0 [31:0], RWI. -/
def SLB_GRID_X0_origin : Fld := ⟨0x120004, 0, 32, 0⟩
/-- SLB_GRID_Y0 [31:0], RWI. -/
def SLB_GRID_Y0_origin : Fld := ⟨0x120008, 0, 32, 0⟩
/-- SLB_GRID_EDGE [13:0], RWI. -/
def SLB_GRID_EDGE_edge : Fld := ⟨0x12000c, 0, 14, 2000⟩
/-- SLB_GRID_SIZE [24:16], RWI. -/
def SLB_GRID_SIZE_rows : Fld := ⟨0x120010, 16, 9, 256⟩
/-- SLB_GRID_SIZE [8:0], RWI. -/
def SLB_GRID_SIZE_cols : Fld := ⟨0x120010, 0, 9, 256⟩
/-- SLB_SETTLE [15:0], RWI. -/
def SLB_SETTLE_settle : Fld := ⟨0x120014, 0, 16, 0⟩
/-- SLB_CLASS_0 [31:0], RWI. -/
def SLB_CLASS_0_class : Fld := ⟨0x120018, 0, 32, 0⟩
/-- SLB_CLASS_1 [15:0], RWI. -/
def SLB_CLASS_1_class : Fld := ⟨0x12001c, 0, 16, 0⟩
/-- SLB_QUOTA_N [15:0], RO. -/
def SLB_QUOTA_N_quota : Fld := ⟨0x120020, 0, 16, 0⟩
/-- SLB_QUOTA_WIN [31:0], RO. -/
def SLB_QUOTA_WIN_window : Fld := ⟨0x120024, 0, 32, 0⟩
/-- SLB_GUARD_SEP [31:0], RO. -/
def SLB_GUARD_SEP_d_min : Fld := ⟨0x120028, 0, 32, 0⟩
/-- SLB_STATUS [12:8], RO+S. -/
def SLB_STATUS_urgent_count : Fld := ⟨0x12002c, 8, 5, 0⟩
/-- SLB_STATUS [3], RO+S. -/
def SLB_STATUS_rc_ok : Fld := ⟨0x12002c, 3, 1, 0⟩
/-- SLB_STATUS [2], RO+S. -/
def SLB_STATUS_active_table : Fld := ⟨0x12002c, 2, 1, 0⟩
/-- SLB_STATUS [1], RO+S. -/
def SLB_STATUS_commit_pending : Fld := ⟨0x12002c, 1, 1, 0⟩
/-- SLB_STATUS [0], RO+S. -/
def SLB_STATUS_grid_valid : Fld := ⟨0x12002c, 0, 1, 1⟩
/-- SLB_SLOT_COMMIT [0], WO. -/
def SLB_SLOT_COMMIT_commit : Fld := ⟨0x120030, 0, 1, 0⟩
/-- SLB_RC_CTL [6:4], RWI. -/
def SLB_RC_CTL_source : Fld := ⟨0x120040, 4, 3, 0⟩
/-- SLB_RC_CTL [3:2], RW. -/
def SLB_RC_CTL_lead : Fld := ⟨0x120040, 2, 2, 0⟩
/-- SLB_RC_CTL [1], RWI. -/
def SLB_RC_CTL_axis : Fld := ⟨0x120040, 1, 1, 0⟩
/-- SLB_RC_CTL [0], RWI. -/
def SLB_RC_CTL_enable : Fld := ⟨0x120040, 0, 1, 0⟩
/-- SLB_RC_ORIGIN [31:0], RWI. -/
def SLB_RC_ORIGIN_origin : Fld := ⟨0x120044, 0, 32, 0⟩
/-- SLB_RC_SCALE [31:0], RWI. -/
def SLB_RC_SCALE_scale : Fld := ⟨0x120048, 0, 32, 0⟩
/-- SLB_RC_NEG [31:0], RWI. -/
def SLB_RC_NEG_ext : Fld := ⟨0x12004c, 0, 32, 0⟩
/-- SLB_RC_POSX [31:0], RWI. -/
def SLB_RC_POSX_ext : Fld := ⟨0x120050, 0, 32, 0⟩
/-- SLB_RC_VMAX [31:0], RWI. -/
def SLB_RC_VMAX_vmax : Fld := ⟨0x120054, 0, 32, 0⟩
/-- SLB_RC_POS [31:0], RO+S. -/
def SLB_RC_POS_coord : Fld := ⟨0x120058, 0, 32, 0⟩
/-- SLB_RC_LO [31:0], RO+S. -/
def SLB_RC_LO_coord : Fld := ⟨0x12005c, 0, 32, 0⟩
/-- SLB_RC_HI [31:0], RO+S. -/
def SLB_RC_HI_coord : Fld := ⟨0x120060, 0, 32, 0⟩
/-- SLB_RC_INCURSION [31:0], RO+S. -/
def SLB_RC_INCURSION_count : Fld := ⟨0x120064, 0, 32, 0⟩
/-- SLB_GUARD_LAST [23:16], RO+S. -/
def SLB_GUARD_LAST_pairs : Fld := ⟨0x120070, 16, 8, 0⟩
/-- SLB_GUARD_LAST [12:8], RO+S. -/
def SLB_GUARD_LAST_chan_b : Fld := ⟨0x120070, 8, 5, 0⟩
/-- SLB_GUARD_LAST [4:0], RO+S. -/
def SLB_GUARD_LAST_chan_a : Fld := ⟨0x120070, 0, 5, 0⟩
/-- SLB_GUARD_DIST [31:0], RO+S. -/
def SLB_GUARD_DIST_dist : Fld := ⟨0x120074, 0, 32, 0⟩
/-- SLB_GUARD_BEAT_LO [31:0], RO+S. -/
def SLB_GUARD_BEAT_LO_beat : Fld := ⟨0x120078, 0, 32, 0⟩
/-- SLB_GUARD_BEAT_HI [31:0], RO+S. -/
def SLB_GUARD_BEAT_HI_beat : Fld := ⟨0x12007c, 0, 32, 0⟩
/-- SLB_GUARD_COUNT [31:0], RO+S. -/
def SLB_GUARD_COUNT_count : Fld := ⟨0x120080, 0, 32, 0⟩
/-- SLB_STICKY [1], W1C. -/
def SLB_STICKY_incursion_sat : Fld := ⟨0x120084, 1, 1, 0⟩
/-- SLB_STICKY [0], W1C. -/
def SLB_STICKY_guard_sat : Fld := ⟨0x120084, 0, 1, 0⟩
/-- SLB_CH_n_STATUS [31:24], RO+S. -/
def SLB_CH_STATUS_tiles_req (n : Nat) : Fld := ⟨0x120100 + n * 0x10, 24, 8, 0⟩
/-- SLB_CH_n_STATUS [23:16], RO+S. -/
def SLB_CH_STATUS_tiles_held (n : Nat) : Fld := ⟨0x120100 + n * 0x10, 16, 8, 0⟩
/-- SLB_CH_n_STATUS [12], RO+S. -/
def SLB_CH_STATUS_urgent (n : Nat) : Fld := ⟨0x120100 + n * 0x10, 12, 1, 0⟩
/-- SLB_CH_n_STATUS [11:8], RO+S. -/
def SLB_CH_STATUS_k (n : Nat) : Fld := ⟨0x120100 + n * 0x10, 8, 4, 0⟩
/-- SLB_CH_n_STATUS [3:0], RO+S. -/
def SLB_CH_STATUS_status (n : Nat) : Fld := ⟨0x120100 + n * 0x10, 0, 4, 0⟩
/-- SLB_CH_n_GRANTS [31:0], RO+S. -/
def SLB_CH_GRANTS_count (n : Nat) : Fld := ⟨0x120104 + n * 0x10, 0, 32, 0⟩
/-- SLB_CH_n_LOSSES [31:0], RO+S. -/
def SLB_CH_LOSSES_count (n : Nat) : Fld := ⟨0x120108 + n * 0x10, 0, 32, 0⟩
/-- SLB_CH_n_STICKY [1], W1C. -/
def SLB_CH_STICKY_losses_sat (n : Nat) : Fld := ⟨0x12010c + n * 0x10, 1, 1, 0⟩
/-- SLB_CH_n_STICKY [0], W1C. -/
def SLB_CH_STICKY_grants_sat (n : Nat) : Fld := ⟨0x12010c + n * 0x10, 0, 1, 0⟩
/-- SLB_SLOT_k [7], RWI. -/
def SLB_SLOT_valid (k : Nat) : Fld := ⟨0x121000 + k * 0x4, 7, 1, 0⟩
/-- SLB_SLOT_k [4:0], RWI. -/
def SLB_SLOT_channel (k : Nat) : Fld := ⟨0x121000 + k * 0x4, 0, 5, 0⟩
/-- SLB_SLOT_ACT_k [7], RO. -/
def SLB_SLOT_ACT_valid (k : Nat) : Fld := ⟨0x121400 + k * 0x4, 7, 1, 0⟩
/-- SLB_SLOT_ACT_k [4:0], RO. -/
def SLB_SLOT_ACT_channel (k : Nat) : Fld := ⟨0x121400 + k * 0x4, 0, 5, 0⟩

/-! ### SLM (13_dram_and_memory_sluice.md, R402) -/

/-- SLM_CLASS [31:0], RW. -/
def SLM_CLASS_class : Fld := ⟨0x130000, 0, 32, 0x26a57f⟩
/-- SLM_STATUS [24:16], RO+S. -/
def SLM_STATUS_reserved_slots : Fld := ⟨0x130004, 16, 9, 0⟩
/-- SLM_STATUS [11:8], RO+S. -/
def SLM_STATUS_period : Fld := ⟨0x130004, 8, 4, 4⟩
/-- SLM_STATUS [1], RO+S. -/
def SLM_STATUS_commit_pending : Fld := ⟨0x130004, 1, 1, 0⟩
/-- SLM_STATUS [0], RO+S. -/
def SLM_STATUS_active_table : Fld := ⟨0x130004, 0, 1, 0⟩
/-- SLM_MASK [15:0], RO+S. -/
def SLM_MASK_mask : Fld := ⟨0x13000c, 0, 16, 0⟩
/-- SLM_REQ_r_OWN [31:0], RO+S. -/
def SLM_REQ_OWN_count (r : Nat) : Fld := ⟨0x130040 + r * 0x10, 0, 32, 0⟩
/-- SLM_REQ_r_FALL [31:0], RO+S. -/
def SLM_REQ_FALL_count (r : Nat) : Fld := ⟨0x130044 + r * 0x10, 0, 32, 0⟩
/-- SLM_REQ_r_RES [8:0], RO+S. -/
def SLM_REQ_RES_n (r : Nat) : Fld := ⟨0x130048 + r * 0x10, 0, 9, 0⟩
/-- SLM_REQ_r_STICKY [1:0], W1C. -/
def SLM_REQ_STICKY_sat (r : Nat) : Fld := ⟨0x13004c + r * 0x10, 0, 2, 0⟩
/-- SLM_STREAM_s_STATUS [23:16], RO+S. -/
def SLM_STREAM_STATUS_instance (s : Nat) : Fld := ⟨0x130200 + s * 0x10, 16, 8, 0⟩
/-- SLM_STREAM_s_STATUS [9:8], RO+S. -/
def SLM_STREAM_STATUS_kind (s : Nat) : Fld := ⟨0x130200 + s * 0x10, 8, 2, 0⟩
/-- SLM_STREAM_s_STATUS [4], RO+S. -/
def SLM_STREAM_STATUS_frozen (s : Nat) : Fld := ⟨0x130200 + s * 0x10, 4, 1, 0⟩
/-- SLM_STREAM_s_STATUS [1:0], RO+S. -/
def SLM_STREAM_STATUS_cause (s : Nat) : Fld := ⟨0x130200 + s * 0x10, 0, 2, 0⟩
/-- SLM_STREAM_s_CREDIT [31:0], RO+S. -/
def SLM_STREAM_CREDIT_credit (s : Nat) : Fld := ⟨0x130204 + s * 0x10, 0, 32, 0⟩
/-- SLM_STREAM_s_BYTES_LO [31:0], RO+S. -/
def SLM_STREAM_BYTES_LO_bytes (s : Nat) : Fld := ⟨0x130208 + s * 0x10, 0, 32, 0⟩
/-- SLM_STREAM_s_BYTES_HI [31:0], RO+S. -/
def SLM_STREAM_BYTES_HI_bytes (s : Nat) : Fld := ⟨0x13020c + s * 0x10, 0, 32, 0⟩
/-- SLM_SLOT_k [7], RO. -/
def SLM_SLOT_valid (k : Nat) : Fld := ⟨0x131000 + k * 0x4, 7, 1, 0⟩
/-- SLM_SLOT_k [3:0], RO. -/
def SLM_SLOT_requester (k : Nat) : Fld := ⟨0x131000 + k * 0x4, 0, 4, 0⟩
/-- SLM_SLOT_ACT_k [7], RO. -/
def SLM_SLOT_ACT_valid (k : Nat) : Fld := ⟨0x131800 + k * 0x4, 7, 1, 0⟩
/-- SLM_SLOT_ACT_k [3:0], RO. -/
def SLM_SLOT_ACT_requester (k : Nat) : Fld := ⟨0x131800 + k * 0x4, 0, 4, 0⟩

/-! ### GLK (06_glelin_links.md, R213) -/

/-- GLK_n_CTL [19:16], RW. -/
def GLK_CTL_err_limit (n : Nat) : Fld := ⟨0x140000 + n * 0x400, 16, 4, 3⟩
/-- GLK_n_CTL [8], RWI. -/
def GLK_CTL_polarity (n : Nat) : Fld := ⟨0x140000 + n * 0x400, 8, 1, 0⟩
/-- GLK_n_CTL [2:1], RWI. -/
def GLK_CTL_rate (n : Nat) : Fld := ⟨0x140000 + n * 0x400, 1, 2, 2⟩
/-- GLK_n_CTL [0], RW. -/
def GLK_CTL_enable (n : Nat) : Fld := ⟨0x140000 + n * 0x400, 0, 1, 0⟩
/-- GLK_n_STATUS [19:16], RO+S. -/
def GLK_STATUS_loss_cause (n : Nat) : Fld := ⟨0x140004 + n * 0x400, 16, 4, 0⟩
/-- GLK_n_STATUS [9], W1C. -/
def GLK_STATUS_link_fault (n : Nat) : Fld := ⟨0x140004 + n * 0x400, 9, 1, 0⟩
/-- GLK_n_STATUS [8], RO+S. -/
def GLK_STATUS_up (n : Nat) : Fld := ⟨0x140004 + n * 0x400, 8, 1, 0⟩
/-- GLK_n_STATUS [7:4], RO+S. -/
def GLK_STATUS_bad_run (n : Nat) : Fld := ⟨0x140004 + n * 0x400, 4, 4, 0⟩
/-- GLK_n_STATUS [2:0], RO+S. -/
def GLK_STATUS_state (n : Nat) : Fld := ⟨0x140004 + n * 0x400, 0, 3, 0⟩
/-- GLK_n_FRAMES [31:0], RO+S. -/
def GLK_FRAMES_count (n : Nat) : Fld := ⟨0x140008 + n * 0x400, 0, 32, 0⟩
/-- GLK_n_CRC_ERR [31:0], RO+S. -/
def GLK_CRC_ERR_count (n : Nat) : Fld := ⟨0x14000c + n * 0x400, 0, 32, 0⟩
/-- GLK_n_MISS [31:0], RO+S. -/
def GLK_MISS_count (n : Nat) : Fld := ⟨0x140010 + n * 0x400, 0, 32, 0⟩
/-- GLK_n_STUFF_ERR [31:0], RO+S. -/
def GLK_STUFF_ERR_count (n : Nat) : Fld := ⟨0x140014 + n * 0x400, 0, 32, 0⟩
/-- GLK_n_POS_ERR [31:0], RO+S. -/
def GLK_POS_ERR_count (n : Nat) : Fld := ⟨0x140018 + n * 0x400, 0, 32, 0⟩
/-- GLK_n_ECHO_ERR [31:0], RO+S. -/
def GLK_ECHO_ERR_count (n : Nat) : Fld := ⟨0x14001c + n * 0x400, 0, 32, 0⟩
/-- GLK_n_KILLED [31:0], RO+S. -/
def GLK_KILLED_count (n : Nat) : Fld := ⟨0x140020 + n * 0x400, 0, 32, 0⟩
/-- GLK_n_DOWN_BAD [31:0], RO+S. -/
def GLK_DOWN_BAD_count (n : Nat) : Fld := ⟨0x140024 + n * 0x400, 0, 32, 0⟩
/-- GLK_n_STICKY [7:0], W1C. -/
def GLK_STICKY_sat (n : Nat) : Fld := ⟨0x140028 + n * 0x400, 0, 8, 0⟩
/-- GLK_n_FILL [31:16], RO. -/
def GLK_FILL_least (n : Nat) : Fld := ⟨0x14002c + n * 0x400, 16, 16, 0xffff⟩
/-- GLK_n_FILL [15:0], RO+S. -/
def GLK_FILL_last (n : Nat) : Fld := ⟨0x14002c + n * 0x400, 0, 16, 0⟩
/-- GLK_n_LAT [31:16], RO. -/
def GLK_LAT_worst (n : Nat) : Fld := ⟨0x140030 + n * 0x400, 16, 16, 0⟩
/-- GLK_n_LAT [15:0], RO+S. -/
def GLK_LAT_last (n : Nat) : Fld := ⟨0x140030 + n * 0x400, 0, 16, 0⟩
/-- GLK_n_HEAD [31:0], RO+S. -/
def GLK_HEAD_word3 (n : Nat) : Fld := ⟨0x140034 + n * 0x400, 0, 32, 0⟩
/-- GLK_n_MBX_CMD [31], RO. -/
def GLK_MBX_CMD_busy (n : Nat) : Fld := ⟨0x140040 + n * 0x400, 31, 1, 0⟩
/-- GLK_n_MBX_CMD [23:16], RW. -/
def GLK_MBX_CMD_op (n : Nat) : Fld := ⟨0x140040 + n * 0x400, 16, 8, 0⟩
/-- GLK_n_MBX_CMD [15:0], RW. -/
def GLK_MBX_CMD_addr (n : Nat) : Fld := ⟨0x140040 + n * 0x400, 0, 16, 0⟩
/-- GLK_n_MBX_DATA [31:0], RW. -/
def GLK_MBX_DATA_data (n : Nat) : Fld := ⟨0x140044 + n * 0x400, 0, 32, 0⟩
/-- GLK_n_MBX_RESP [31], RO. -/
def GLK_MBX_RESP_done (n : Nat) : Fld := ⟨0x140048 + n * 0x400, 31, 1, 0⟩
/-- GLK_n_MBX_RESP [23:16], RO. -/
def GLK_MBX_RESP_status (n : Nat) : Fld := ⟨0x140048 + n * 0x400, 16, 8, 0⟩
/-- GLK_n_MBX_RDATA [31:0], RO. -/
def GLK_MBX_RDATA_data (n : Nat) : Fld := ⟨0x14004c + n * 0x400, 0, 32, 0⟩
/-- GLK_n_TEST [16], WO. -/
def GLK_TEST_inject_once (n : Nat) : Fld := ⟨0x140080 + n * 0x400, 16, 1, 0⟩
/-- GLK_n_TEST [12:8], RW. -/
def GLK_TEST_inj_exp (n : Nat) : Fld := ⟨0x140080 + n * 0x400, 8, 5, 20⟩
/-- GLK_n_TEST [5:4], RW. -/
def GLK_TEST_inject (n : Nat) : Fld := ⟨0x140080 + n * 0x400, 4, 2, 0⟩
/-- GLK_n_TEST [2:0], RW. -/
def GLK_TEST_mode (n : Nat) : Fld := ⟨0x140080 + n * 0x400, 0, 3, 0⟩
/-- GLK_n_PRBS_ERR [31:0], RO+S. -/
def GLK_PRBS_ERR_count (n : Nat) : Fld := ⟨0x140084 + n * 0x400, 0, 32, 0⟩
/-- GLK_n_PRBS_BITS_LO [31:0], RO. -/
def GLK_PRBS_BITS_LO_bits (n : Nat) : Fld := ⟨0x140088 + n * 0x400, 0, 32, 0⟩
/-- GLK_n_PRBS_BITS_HI [31:0], RO. -/
def GLK_PRBS_BITS_HI_bits (n : Nat) : Fld := ⟨0x14008c + n * 0x400, 0, 32, 0⟩
/-- GLK_n_PRBS_STATUS [15:8], RO. -/
def GLK_PRBS_STATUS_sync_losses (n : Nat) : Fld := ⟨0x140090 + n * 0x400, 8, 8, 0⟩
/-- GLK_n_PRBS_STATUS [0], RO+S. -/
def GLK_PRBS_STATUS_sync (n : Nat) : Fld := ⟨0x140090 + n * 0x400, 0, 1, 0⟩

/-! ### SVA (07_sieve_pipeline.md, R252) -/

/-- SVA_STATUS [31:16], RO+S. -/
def SVA_STATUS_load (v : Nat) : Fld := ⟨0x180000 + v * 0x20000, 16, 16, 0⟩
/-- SVA_STATUS [8], RO+S. -/
def SVA_STATUS_busy (v : Nat) : Fld := ⟨0x180000 + v * 0x20000, 8, 1, 0⟩
/-- SVA_STATUS [4:0], RO+S. -/
def SVA_STATUS_context (v : Nat) : Fld := ⟨0x180000 + v * 0x20000, 0, 5, 0⟩
/-- SVA_RUNS [31:0], RO+S. -/
def SVA_RUNS_count (v : Nat) : Fld := ⟨0x180004 + v * 0x20000, 0, 32, 0⟩
/-- SVA_LATE [31:0], RO+S. -/
def SVA_LATE_count (v : Nat) : Fld := ⟨0x180008 + v * 0x20000, 0, 32, 0⟩
/-- SVA_TAP_DROP [31:0], RO+S. -/
def SVA_TAP_DROP_count (v : Nat) : Fld := ⟨0x18000c + v * 0x20000, 0, 32, 0⟩
/-- SVA_OV_SKIP [31:0], RO+S. -/
def SVA_OV_SKIP_count (v : Nat) : Fld := ⟨0x180010 + v * 0x20000, 0, 32, 0⟩
/-- SVA_STICKY [3:0], W1C. -/
def SVA_STICKY_sat (v : Nat) : Fld := ⟨0x180014 + v * 0x20000, 0, 4, 0⟩
/-- SVA_TAP_FILL [31:16], RO. -/
def SVA_TAP_FILL_worst (v : Nat) : Fld := ⟨0x180018 + v * 0x20000, 16, 16, 0⟩
/-- SVA_TAP_FILL [15:0], RO+S. -/
def SVA_TAP_FILL_now (v : Nat) : Fld := ⟨0x180018 + v * 0x20000, 0, 16, 0⟩
/-- SVA_n_CFG [18], RWI. -/
def SVX_CFG_stat_point (v n : Nat) : Fld := ⟨0x190000 + v * 0x20000 + n * 0x800, 18, 1, 1⟩
/-- SVA_n_CFG [17], RWI. -/
def SVX_CFG_bgain_en (v n : Nat) : Fld := ⟨0x190000 + v * 0x20000 + n * 0x800, 17, 1, 0⟩
/-- SVA_n_CFG [16], RWI. -/
def SVX_CFG_temp_en (v n : Nat) : Fld := ⟨0x190000 + v * 0x20000 + n * 0x800, 16, 1, 0⟩
/-- SVA_n_CFG [15], RWI. -/
def SVX_CFG_interp_en (v n : Nat) : Fld := ⟨0x190000 + v * 0x20000 + n * 0x800, 15, 1, 1⟩
/-- SVA_n_CFG [14], RWI. -/
def SVX_CFG_tnr_en (v n : Nat) : Fld := ⟨0x190000 + v * 0x20000 + n * 0x800, 14, 1, 0⟩
/-- SVA_n_CFG [13], RWI. -/
def SVX_CFG_snr_en (v n : Nat) : Fld := ⟨0x190000 + v * 0x20000 + n * 0x800, 13, 1, 0⟩
/-- SVA_n_CFG [12], RWI. -/
def SVX_CFG_fpn_en (v n : Nat) : Fld := ⟨0x190000 + v * 0x20000 + n * 0x800, 12, 1, 0⟩
/-- SVA_n_CFG [8], RWI. -/
def SVX_CFG_depth12 (v n : Nat) : Fld := ⟨0x190000 + v * 0x20000 + n * 0x800, 8, 1, 1⟩
/-- SVA_n_CFG [7], RWI. -/
def SVX_CFG_band_phase (v n : Nat) : Fld := ⟨0x190000 + v * 0x20000 + n * 0x800, 7, 1, 0⟩
/-- SVA_n_CFG [6:5], RWI. -/
def SVX_CFG_cfa (v n : Nat) : Fld := ⟨0x190000 + v * 0x20000 + n * 0x800, 5, 2, 0⟩
/-- SVA_n_CFG [4], RWI. -/
def SVX_CFG_mosaic (v n : Nat) : Fld := ⟨0x190000 + v * 0x20000 + n * 0x800, 4, 1, 0⟩
/-- SVA_n_CFG [1:0], RO. -/
def SVX_CFG_kind (v n : Nat) : Fld := ⟨0x190000 + v * 0x20000 + n * 0x800, 0, 2, ctxKindCode n⟩
/-- SVA_n_SIZE [28:16], RWI. -/
def SVX_SIZE_width (v n : Nat) : Fld := ⟨0x190004 + v * 0x20000 + n * 0x800, 16, 13, 64⟩
/-- SVA_n_SIZE [12:0], RWI. -/
def SVX_SIZE_height (v n : Nat) : Fld := ⟨0x190004 + v * 0x20000 + n * 0x800, 0, 13, 64⟩
/-- SVA_n_PERIOD [31:0], RWI. -/
def SVX_PERIOD_beats (v n : Nat) : Fld := ⟨0x190008 + v * 0x20000 + n * 0x800, 0, 32, 80⟩
/-- SVA_n_PHASE [31:0], RWI. -/
def SVX_PHASE_beats (v n : Nat) : Fld := ⟨0x19000c + v * 0x20000 + n * 0x800, 0, 32, 0⟩
/-- SVA_n_ROI_ORG [31:16], RWI. -/
def SVX_ROI_ORG_x0 (v n : Nat) : Fld := ⟨0x190010 + v * 0x20000 + n * 0x800, 16, 16, 0⟩
/-- SVA_n_ROI_ORG [15:0], RWI. -/
def SVX_ROI_ORG_y0 (v n : Nat) : Fld := ⟨0x190010 + v * 0x20000 + n * 0x800, 0, 16, 0⟩
/-- SVA_n_CTL [2], WO. -/
def SVX_CTL_fault_clear (v n : Nat) : Fld := ⟨0x190014 + v * 0x20000 + n * 0x800, 2, 1, 0⟩
/-- SVA_n_CTL [1], WO. -/
def SVX_CTL_fpn_commit (v n : Nat) : Fld := ⟨0x190014 + v * 0x20000 + n * 0x800, 1, 1, 0⟩
/-- SVA_n_CTL [0], RW. -/
def SVX_CTL_hold (v n : Nat) : Fld := ⟨0x190014 + v * 0x20000 + n * 0x800, 0, 1, 0⟩
/-- SVA_n_BLACK [11:0], RW. -/
def SVX_BLACK_black (v n : Nat) : Fld := ⟨0x190018 + v * 0x20000 + n * 0x800, 0, 12, 0⟩
/-- SVA_n_BAND_GAIN [31:16], RW. -/
def SVX_BAND_GAIN_gain_b (v n : Nat) : Fld := ⟨0x19001c + v * 0x20000 + n * 0x800, 16, 16, 0x4000⟩
/-- SVA_n_BAND_GAIN [15:0], RW. -/
def SVX_BAND_GAIN_gain_a (v n : Nat) : Fld := ⟨0x19001c + v * 0x20000 + n * 0x800, 0, 16, 0x4000⟩
/-- SVA_n_BAND_GAIN2 [15:0], RW. -/
def SVX_BAND_GAIN2_gain_a (v n : Nat) : Fld := ⟨0x190020 + v * 0x20000 + n * 0x800, 0, 16, 0x4000⟩
/-- SVA_n_SNR [15:0], RW. -/
def SVX_SNR_value (v n : Nat) : Fld := ⟨0x190024 + v * 0x20000 + n * 0x800, 0, 16, 1024⟩
/-- SVA_n_SNR_W [23:0], RW. -/
def SVX_SNR_W_w (v n : Nat) : Fld := ⟨0x190028 + v * 0x20000 + n * 0x800, 0, 24, 0x112448⟩
/-- SVA_n_TNR [31:16], RW. -/
def SVX_TNR_m (v n : Nat) : Fld := ⟨0x19002c + v * 0x20000 + n * 0x800, 16, 16, 0x1000⟩
/-- SVA_n_TNR [8:0], RW. -/
def SVX_TNR_k_static (v n : Nat) : Fld := ⟨0x19002c + v * 0x20000 + n * 0x800, 0, 9, 256⟩
/-- SVA_n_INTERP [15:0], RW. -/
def SVX_INTERP_value (v n : Nat) : Fld := ⟨0x190030 + v * 0x20000 + n * 0x800, 0, 16, 512⟩
/-- SVA_n_TEMP [15:0], RW. -/
def SVX_TEMP_value (v n : Nat) : Fld := ⟨0x190034 + v * 0x20000 + n * 0x800, 0, 16, 256⟩
/-- SVA_n_STATUS [31:16], RO+S. -/
def SVX_STATUS_flags (v n : Nat) : Fld := ⟨0x190040 + v * 0x20000 + n * 0x800, 16, 16, 0⟩
/-- SVA_n_STATUS [15:8], RO+S. -/
def SVX_STATUS_anomaly_run (v n : Nat) : Fld := ⟨0x190040 + v * 0x20000 + n * 0x800, 8, 8, 0⟩
/-- SVA_n_STATUS [5], RO+S. -/
def SVX_STATUS_tap_stopped (v n : Nat) : Fld := ⟨0x190040 + v * 0x20000 + n * 0x800, 5, 1, 0⟩
/-- SVA_n_STATUS [4], RO+S. -/
def SVX_STATUS_fault (v n : Nat) : Fld := ⟨0x190040 + v * 0x20000 + n * 0x800, 4, 1, 0⟩
/-- SVA_n_STATUS [3], RO. -/
def SVX_STATUS_bound (v n : Nat) : Fld := ⟨0x190040 + v * 0x20000 + n * 0x800, 3, 1, 0⟩
/-- SVA_n_STATUS [2:0], RO+S. -/
def SVX_STATUS_run (v n : Nat) : Fld := ⟨0x190040 + v * 0x20000 + n * 0x800, 0, 3, 0⟩
/-- SVA_n_SEQ [31:0], RO+S. -/
def SVX_SEQ_seq (v n : Nat) : Fld := ⟨0x190044 + v * 0x20000 + n * 0x800, 0, 32, 0⟩
/-- SVA_n_GEN [23:16], RO+S. -/
def SVX_GEN_temp_gen (v n : Nat) : Fld := ⟨0x190048 + v * 0x20000 + n * 0x800, 16, 8, 0⟩
/-- SVA_n_GEN [8], RO+S. -/
def SVX_GEN_pending (v n : Nat) : Fld := ⟨0x190048 + v * 0x20000 + n * 0x800, 8, 1, 0⟩
/-- SVA_n_GEN [7:0], RO+S. -/
def SVX_GEN_fpn_gen (v n : Nat) : Fld := ⟨0x190048 + v * 0x20000 + n * 0x800, 0, 8, 0⟩
/-- SVA_n_PGEN [31:16], RO+S. -/
def SVX_PGEN_shadow (v n : Nat) : Fld := ⟨0x19004c + v * 0x20000 + n * 0x800, 16, 16, 0⟩
/-- SVA_n_PGEN [15:0], RO+S. -/
def SVX_PGEN_active (v n : Nat) : Fld := ⟨0x19004c + v * 0x20000 + n * 0x800, 0, 16, 0⟩
/-- SVA_n_FRAMES [31:0], RO+S. -/
def SVX_FRAMES_count (v n : Nat) : Fld := ⟨0x190050 + v * 0x20000 + n * 0x800, 0, 32, 0⟩
/-- SVA_n_ANOMALIES [31:0], RO+S. -/
def SVX_ANOMALIES_count (v n : Nat) : Fld := ⟨0x190054 + v * 0x20000 + n * 0x800, 0, 32, 0⟩
/-- SVA_n_STRAY [31:0], RO+S. -/
def SVX_STRAY_count (v n : Nat) : Fld := ⟨0x190058 + v * 0x20000 + n * 0x800, 0, 32, 0⟩
/-- SVA_n_SKIPPED [31:0], RO+S. -/
def SVX_SKIPPED_count (v n : Nat) : Fld := ⟨0x19005c + v * 0x20000 + n * 0x800, 0, 32, 0⟩
/-- SVA_n_STICKY [3:0], W1C. -/
def SVX_STICKY_sat (v n : Nat) : Fld := ⟨0x190060 + v * 0x20000 + n * 0x800, 0, 4, 0⟩
/-- SVA_n_EXP_TIME [31:0], RW. -/
def SVX_EXP_TIME_value (v n : Nat) : Fld := ⟨0x190080 + v * 0x20000 + n * 0x800, 0, 32, 0x2710⟩
/-- SVA_n_EXP_GAIN [15:0], RW. -/
def SVX_EXP_GAIN_value (v n : Nat) : Fld := ⟨0x190084 + v * 0x20000 + n * 0x800, 0, 16, 256⟩
/-- SVA_n_EXP_STATUS [31], W1C. -/
def SVX_EXP_STATUS_error (v n : Nat) : Fld := ⟨0x190088 + v * 0x20000 + n * 0x800, 31, 1, 0⟩
/-- SVA_n_EXP_STATUS [30], RO+S. -/
def SVX_EXP_STATUS_dirty (v n : Nat) : Fld := ⟨0x190088 + v * 0x20000 + n * 0x800, 30, 1, 0⟩
/-- SVA_n_EXP_STATUS [29], RO+S. -/
def SVX_EXP_STATUS_active (v n : Nat) : Fld := ⟨0x190088 + v * 0x20000 + n * 0x800, 29, 1, 0⟩
/-- SVA_n_EXP_STATUS [23:16], RO+S. -/
def SVX_EXP_STATUS_echo_id (v n : Nat) : Fld := ⟨0x190088 + v * 0x20000 + n * 0x800, 16, 8, 0⟩
/-- SVA_n_EXP_STATUS [15:8], RO+S. -/
def SVX_EXP_STATUS_committed_id (v n : Nat) : Fld := ⟨0x190088 + v * 0x20000 + n * 0x800, 8, 8, 0⟩
/-- SVA_n_EXP_STATUS [7:0], RO. -/
def SVX_EXP_STATUS_next_id (v n : Nat) : Fld := ⟨0x190088 + v * 0x20000 + n * 0x800, 0, 8, 1⟩
/-- SVA_n_EXP_SENT_SEQ [31:0], RO+S. -/
def SVX_EXP_SENT_SEQ_seq (v n : Nat) : Fld := ⟨0x19008c + v * 0x20000 + n * 0x800, 0, 32, 0⟩
/-- SVA_n_EXP_APPLIED_SEQ [31:0], RO+S. -/
def SVX_EXP_APPLIED_SEQ_seq (v n : Nat) : Fld := ⟨0x190090 + v * 0x20000 + n * 0x800, 0, 32, 0⟩
/-- SVA_n_FPN_ADDR_LO [31:6], RW. -/
def SVX_FPN_ADDR_LO_addr (v n : Nat) : Fld := ⟨0x1900a0 + v * 0x20000 + n * 0x800, 6, 26, 0⟩
/-- SVA_n_FPN_ADDR_HI [3:0], RW. -/
def SVX_FPN_ADDR_HI_addr (v n : Nat) : Fld := ⟨0x1900a4 + v * 0x20000 + n * 0x800, 0, 4, 0⟩
/-- SVA_n_HIST_ADDR_LO [31:6], RWI. -/
def SVX_HIST_ADDR_LO_addr (v n : Nat) : Fld := ⟨0x1900a8 + v * 0x20000 + n * 0x800, 6, 26, 0⟩
/-- SVA_n_HIST_ADDR_HI [3:0], RWI. -/
def SVX_HIST_ADDR_HI_addr (v n : Nat) : Fld := ⟨0x1900ac + v * 0x20000 + n * 0x800, 0, 4, 0⟩
/-- SVA_n_TEST [31:16], RWI. -/
def SVX_TEST_constant (v n : Nat) : Fld := ⟨0x1900b0 + v * 0x20000 + n * 0x800, 16, 16, 0⟩
/-- SVA_n_TEST [15:8], RWI. -/
def SVX_TEST_count (v n : Nat) : Fld := ⟨0x1900b0 + v * 0x20000 + n * 0x800, 8, 8, 1⟩
/-- SVA_n_TEST [1:0], RWI. -/
def SVX_TEST_source (v n : Nat) : Fld := ⟨0x1900b0 + v * 0x20000 + n * 0x800, 0, 2, 0⟩
/-- SVA_n_REPLAY_LO [31:6], RWI. -/
def SVX_REPLAY_LO_addr (v n : Nat) : Fld := ⟨0x1900b4 + v * 0x20000 + n * 0x800, 6, 26, 0⟩
/-- SVA_n_REPLAY_HI [3:0], RWI. -/
def SVX_REPLAY_HI_addr (v n : Nat) : Fld := ⟨0x1900b8 + v * 0x20000 + n * 0x800, 0, 4, 0⟩
/-- SVA_n_TAP_BASE_LO [31:6], RO. -/
def SVX_TAP_BASE_LO_value (v n : Nat) : Fld := ⟨0x1900c0 + v * 0x20000 + n * 0x800, 6, 26, 0⟩
/-- SVA_n_TAP_BASE_HI [3:0], RO. -/
def SVX_TAP_BASE_HI_value (v n : Nat) : Fld := ⟨0x1900c4 + v * 0x20000 + n * 0x800, 0, 4, 0⟩
/-- SVA_n_TAP_WIN [31:0], RO. -/
def SVX_TAP_WIN_value (v n : Nat) : Fld := ⟨0x1900c8 + v * 0x20000 + n * 0x800, 0, 32, 0⟩
/-- SVA_n_TAP_k_CTL [15:8], RWI. -/
def SVX_TAP_CTL_d (v n k : Nat) : Fld := ⟨0x190100 + v * 0x20000 + n * 0x800 + k * 0x20, 8, 8, 1⟩
/-- SVA_n_TAP_k_CTL [1], RWI. -/
def SVX_TAP_CTL_mode (v n k : Nat) : Fld := ⟨0x190100 + v * 0x20000 + n * 0x800 + k * 0x20, 1, 1, 0⟩
/-- SVA_n_TAP_k_CTL [0], RWI. -/
def SVX_TAP_CTL_enable (v n k : Nat) : Fld := ⟨0x190100 + v * 0x20000 + n * 0x800 + k * 0x20, 0, 1, 0⟩
/-- SVA_n_TAP_k_OFF [31:6], RWI. -/
def SVX_TAP_OFF_bytes (v n k : Nat) : Fld := ⟨0x190104 + v * 0x20000 + n * 0x800 + k * 0x20, 6, 26, 0⟩
/-- SVA_n_TAP_k_LEN [31:6], RWI. -/
def SVX_TAP_LEN_bytes (v n k : Nat) : Fld := ⟨0x190108 + v * 0x20000 + n * 0x800 + k * 0x20, 6, 26, 0⟩
/-- SVA_n_TAP_k_WPTR [31:0], RO+S. -/
def SVX_TAP_WPTR_value (v n k : Nat) : Fld := ⟨0x19010c + v * 0x20000 + n * 0x800 + k * 0x20, 0, 32, 0⟩
/-- SVA_n_TAP_k_COUNT [31:0], RO+S. -/
def SVX_TAP_COUNT_value (v n k : Nat) : Fld := ⟨0x190110 + v * 0x20000 + n * 0x800 + k * 0x20, 0, 32, 0⟩
/-- SVA_n_TAP_k_DROP [31:0], RO+S. -/
def SVX_TAP_DROP_value (v n k : Nat) : Fld := ⟨0x190114 + v * 0x20000 + n * 0x800 + k * 0x20, 0, 32, 0⟩
/-- SVA_n_ZONE_z [31:16], RO+S. -/
def SVX_ZONE_band_1 (v n z : Nat) : Fld := ⟨0x190400 + v * 0x20000 + n * 0x800 + z * 0x4, 16, 16, 0⟩
/-- SVA_n_ZONE_z [15:0], RO+S. -/
def SVX_ZONE_band_0 (v n z : Nat) : Fld := ⟨0x190400 + v * 0x20000 + n * 0x800 + z * 0x4, 0, 16, 0⟩
/-- SVA_n_ZONE2_z [15:0], RO+S. -/
def SVX_ZONE2_band_2 (v n z : Nat) : Fld := ⟨0x190500 + v * 0x20000 + n * 0x800 + z * 0x4, 0, 16, 0⟩

/-! ### FX (08_melt_pool_features.md, R268) -/

/-- FX_n_THR_0 [31:16], RW. -/
def FX_THR_0_t1 (n : Nat) : Fld := ⟨0x1c0000 + n * 0x200, 16, 16, 0x55f0⟩
/-- FX_n_THR_0 [15:0], RW. -/
def FX_THR_0_t0 (n : Nat) : Fld := ⟨0x1c0000 + n * 0x200, 0, 16, 0x4650⟩
/-- FX_n_THR_1 [15:0], RW. -/
def FX_THR_1_t2 (n : Nat) : Fld := ⟨0x1c0004 + n * 0x200, 0, 16, 0x5dc0⟩
/-- FX_n_SPAT [27:24], RW. -/
def FX_SPAT_sp_gap (n : Nat) : Fld := ⟨0x1c0008 + n * 0x200, 24, 4, 2⟩
/-- FX_n_SPAT [23:16], RW. -/
def FX_SPAT_sp_min (n : Nat) : Fld := ⟨0x1c0008 + n * 0x200, 16, 8, 1⟩
/-- FX_n_SPAT [15:0], RW. -/
def FX_SPAT_sp_max (n : Nat) : Fld := ⟨0x1c0008 + n * 0x200, 0, 16, 64⟩
/-- FX_n_SEL [7:4], RWI. -/
def FX_SEL_feat_b (n : Nat) : Fld := ⟨0x1c000c + n * 0x200, 4, 4, 0⟩
/-- FX_n_SEL [3:0], RWI. -/
def FX_SEL_feat_a (n : Nat) : Fld := ⟨0x1c000c + n * 0x200, 0, 4, 2⟩
/-- FX_n_WEIGHT [31:16], RWI. -/
def FX_WEIGHT_w_b (n : Nat) : Fld := ⟨0x1c0010 + n * 0x200, 16, 16, 0⟩
/-- FX_n_WEIGHT [15:0], RWI. -/
def FX_WEIGHT_w_a (n : Nat) : Fld := ⟨0x1c0010 + n * 0x200, 0, 16, 0x4000⟩
/-- FX_n_REC_CTL [15:8], RWI. -/
def FX_REC_CTL_d (n : Nat) : Fld := ⟨0x1c0014 + n * 0x200, 8, 8, 1⟩
/-- FX_n_REC_CTL [0], RWI. -/
def FX_REC_CTL_enable (n : Nat) : Fld := ⟨0x1c0014 + n * 0x200, 0, 1, 0⟩
/-- FX_n_REC_OFF [31:6], RWI. -/
def FX_REC_OFF_bytes (n : Nat) : Fld := ⟨0x1c0018 + n * 0x200, 6, 26, 0⟩
/-- FX_n_REC_LEN [31:6], RWI. -/
def FX_REC_LEN_bytes (n : Nat) : Fld := ⟨0x1c001c + n * 0x200, 6, 26, 0⟩
/-- FX_n_REC_WPTR [31:0], RO+S. -/
def FX_REC_WPTR_value (n : Nat) : Fld := ⟨0x1c0020 + n * 0x200, 0, 32, 0⟩
/-- FX_n_REC_COUNT [31:0], RO+S. -/
def FX_REC_COUNT_value (n : Nat) : Fld := ⟨0x1c0024 + n * 0x200, 0, 32, 0⟩
/-- FX_n_SEQ [31:0], RO+S. -/
def FX_SEQ_seq (n : Nat) : Fld := ⟨0x1c0040 + n * 0x200, 0, 32, 0⟩
/-- FX_n_VALID [31:16], RO+S. -/
def FX_VALID_flags (n : Nat) : Fld := ⟨0x1c0044 + n * 0x200, 16, 16, 0⟩
/-- FX_n_VALID [15:0], RO+S. -/
def FX_VALID_validity (n : Nat) : Fld := ⟨0x1c0044 + n * 0x200, 0, 16, 0⟩
/-- FX_n_TEMP [31:16], RO+S. -/
def FX_TEMP_mean (n : Nat) : Fld := ⟨0x1c0048 + n * 0x200, 16, 16, 0⟩
/-- FX_n_TEMP [15:0], RO+S. -/
def FX_TEMP_peak (n : Nat) : Fld := ⟨0x1c0048 + n * 0x200, 0, 16, 0⟩
/-- FX_n_AREA0 [31:0], RO+S. -/
def FX_AREA0_pixels (n : Nat) : Fld := ⟨0x1c004c + n * 0x200, 0, 32, 0⟩
/-- FX_n_AREA1 [31:0], RO+S. -/
def FX_AREA1_pixels (n : Nat) : Fld := ⟨0x1c0050 + n * 0x200, 0, 32, 0⟩
/-- FX_n_AREA2 [31:0], RO+S. -/
def FX_AREA2_pixels (n : Nat) : Fld := ⟨0x1c0054 + n * 0x200, 0, 32, 0⟩
/-- FX_n_CENTROID [31:16], RO+S. -/
def FX_CENTROID_cy (n : Nat) : Fld := ⟨0x1c0058 + n * 0x200, 16, 16, 0⟩
/-- FX_n_CENTROID [15:0], RO+S. -/
def FX_CENTROID_cx (n : Nat) : Fld := ⟨0x1c0058 + n * 0x200, 0, 16, 0⟩
/-- FX_n_SHAPE [31:16], RO+S. -/
def FX_SHAPE_width (n : Nat) : Fld := ⟨0x1c005c + n * 0x200, 16, 16, 0⟩
/-- FX_n_SHAPE [15:0], RO+S. -/
def FX_SHAPE_length (n : Nat) : Fld := ⟨0x1c005c + n * 0x200, 0, 16, 0⟩
/-- FX_n_ORIENT [31:24], RO+S. -/
def FX_ORIENT_blobs (n : Nat) : Fld := ⟨0x1c0060 + n * 0x200, 24, 8, 0⟩
/-- FX_n_ORIENT [23:16], RO+S. -/
def FX_ORIENT_spatter (n : Nat) : Fld := ⟨0x1c0060 + n * 0x200, 16, 8, 0⟩
/-- FX_n_ORIENT [15:0], RO+S. -/
def FX_ORIENT_orientation (n : Nat) : Fld := ⟨0x1c0060 + n * 0x200, 0, 16, 0⟩
/-- FX_n_MEAS [16], RO+S. -/
def FX_MEAS_usable (n : Nat) : Fld := ⟨0x1c0064 + n * 0x200, 16, 1, 0⟩
/-- FX_n_MEAS [15:0], RO+S. -/
def FX_MEAS_m (n : Nat) : Fld := ⟨0x1c0064 + n * 0x200, 0, 16, 0⟩
/-- FX_n_DELIV_LO [31:0], RO+S. -/
def FX_DELIV_LO_beat (n : Nat) : Fld := ⟨0x1c0068 + n * 0x200, 0, 32, 0⟩
/-- FX_n_DELIV_HI [31:0], RO+S. -/
def FX_DELIV_HI_beat (n : Nat) : Fld := ⟨0x1c006c + n * 0x200, 0, 32, 0⟩
/-- FX_n_FRAMES [31:0], RO+S. -/
def FX_FRAMES_count (n : Nat) : Fld := ⟨0x1c0070 + n * 0x200, 0, 32, 0⟩
/-- FX_n_UNUSABLE [31:0], RO+S. -/
def FX_UNUSABLE_count (n : Nat) : Fld := ⟨0x1c0074 + n * 0x200, 0, 32, 0⟩
/-- FX_n_LATE [31:0], RO+S. -/
def FX_LATE_count (n : Nat) : Fld := ⟨0x1c0078 + n * 0x200, 0, 32, 0⟩
/-- FX_n_STICKY [2:0], W1C. -/
def FX_STICKY_sat (n : Nat) : Fld := ⟨0x1c007c + n * 0x200, 0, 3, 0⟩

/-! ### LAD (09_ladle_engines.md, R295, R296) -/

/-- LAD_c_UCODE [18], RWI. -/
def LAD_UCODE_ready_p (n : Nat) : Fld := ⟨0x200000 + n * 0x2000, 18, 1, 0⟩
/-- LAD_c_UCODE [17], RWI. -/
def LAD_UCODE_ready_y (n : Nat) : Fld := ⟨0x200000 + n * 0x2000, 17, 1, 0⟩
/-- LAD_c_UCODE [16], RWI. -/
def LAD_UCODE_ready_x (n : Nat) : Fld := ⟨0x200000 + n * 0x2000, 16, 1, 0⟩
/-- LAD_c_UCODE [9:8], RWI. -/
def LAD_UCODE_ucode_p (n : Nat) : Fld := ⟨0x200000 + n * 0x2000, 8, 2, 0⟩
/-- LAD_c_UCODE [5:4], RWI. -/
def LAD_UCODE_ucode_y (n : Nat) : Fld := ⟨0x200000 + n * 0x2000, 4, 2, 0⟩
/-- LAD_c_UCODE [1:0], RWI. -/
def LAD_UCODE_ucode_x (n : Nat) : Fld := ⟨0x200000 + n * 0x2000, 0, 2, 0⟩
/-- LAD_c_UCODE_VER [31:0], RO. -/
def LAD_UCODE_VER_version (n : Nat) : Fld := ⟨0x200004 + n * 0x2000, 0, 32, 0⟩
/-- LAD_c_SAMPLE [15], RO+S. -/
def LAD_SAMPLE_ctx_valid (n : Nat) : Fld := ⟨0x200008 + n * 0x2000, 15, 1, 0⟩
/-- LAD_c_SAMPLE [12:8], RO+S. -/
def LAD_SAMPLE_context (n : Nat) : Fld := ⟨0x200008 + n * 0x2000, 8, 5, 0⟩
/-- LAD_c_SAMPLE [7:4], RO+S. -/
def LAD_SAMPLE_loops (n : Nat) : Fld := ⟨0x200008 + n * 0x2000, 4, 4, 0⟩
/-- LAD_c_SAMPLE [3:0], RO+S. -/
def LAD_SAMPLE_s (n : Nat) : Fld := ⟨0x200008 + n * 0x2000, 0, 4, 0⟩
/-- LAD_c_CHECK [9:8], RO. -/
def LAD_CHECK_loop (n : Nat) : Fld := ⟨0x20000c + n * 0x2000, 8, 2, 0⟩
/-- LAD_c_CHECK [7:0], RO. -/
def LAD_CHECK_code (n : Nat) : Fld := ⟨0x20000c + n * 0x2000, 0, 8, 0⟩
/-- LAD_c_FAULT [9:8], RO+S. -/
def LAD_FAULT_loop (n : Nat) : Fld := ⟨0x200010 + n * 0x2000, 8, 2, 0⟩
/-- LAD_c_FAULT [7:0], RO+S. -/
def LAD_FAULT_cause (n : Nat) : Fld := ⟨0x200010 + n * 0x2000, 0, 8, 0⟩
/-- LAD_c_RC_CMD [6:4], WO. -/
def LAD_RC_CMD_switch_out (n : Nat) : Fld := ⟨0x200014 + n * 0x2000, 4, 3, 0⟩
/-- LAD_c_RC_CMD [2:0], WO. -/
def LAD_RC_CMD_switch_in (n : Nat) : Fld := ⟨0x200014 + n * 0x2000, 0, 3, 0⟩
/-- LAD_c_RC_CTL [0], RWI. -/
def LAD_RC_CTL_spill_en (n : Nat) : Fld := ⟨0x200018 + n * 0x2000, 0, 1, 0⟩
/-- LAD_c_RC_SPILL_LO [31:6], RWI. -/
def LAD_RC_SPILL_LO_addr (n : Nat) : Fld := ⟨0x20001c + n * 0x2000, 6, 26, 0⟩
/-- LAD_c_RC_SPILL_HI [3:0], RWI. -/
def LAD_RC_SPILL_HI_addr (n : Nat) : Fld := ⟨0x200020 + n * 0x2000, 0, 4, 0⟩
/-- LAD_c_RC_SPILL_ST [2], W1C. -/
def LAD_RC_SPILL_ST_err (n : Nat) : Fld := ⟨0x200024 + n * 0x2000, 2, 1, 0⟩
/-- LAD_c_RC_SPILL_ST [1], RO. -/
def LAD_RC_SPILL_ST_done (n : Nat) : Fld := ⟨0x200024 + n * 0x2000, 1, 1, 0⟩
/-- LAD_c_RC_SPILL_ST [0], RO. -/
def LAD_RC_SPILL_ST_busy (n : Nat) : Fld := ⟨0x200024 + n * 0x2000, 0, 1, 0⟩
/-- LAD_c_l_CTL [31:16], RWI. -/
def LAD_CTL_fe_timer (n l : Nat) : Fld := ⟨0x200100 + n * 0x2000 + l * 0x200, 16, 16, 0⟩
/-- LAD_c_l_CTL [15:8], RWI. -/
def LAD_CTL_n_miss (n l : Nat) : Fld := ⟨0x200100 + n * 0x2000 + l * 0x200, 8, 8, 3⟩
/-- LAD_c_l_CTL [6], RWI. -/
def LAD_CTL_restart (n l : Nat) : Fld := ⟨0x200100 + n * 0x2000 + l * 0x200, 6, 1, 0⟩
/-- LAD_c_l_CTL [5], RWI. -/
def LAD_CTL_fe_en (n l : Nat) : Fld := ⟨0x200100 + n * 0x2000 + l * 0x200, 5, 1, 0⟩
/-- LAD_c_l_CTL [4], RWI. -/
def LAD_CTL_rc_sync (n l : Nat) : Fld := ⟨0x200100 + n * 0x2000 + l * 0x200, 4, 1, 0⟩
/-- LAD_c_l_CTL [3], RWI. -/
def LAD_CTL_rc_arm (n l : Nat) : Fld := ⟨0x200100 + n * 0x2000 + l * 0x200, 3, 1, 0⟩
/-- LAD_c_l_CTL [1], RWI. -/
def LAD_CTL_n2_en (n l : Nat) : Fld := ⟨0x200100 + n * 0x2000 + l * 0x200, 1, 1, 0⟩
/-- LAD_c_l_CTL [0], RWI. -/
def LAD_CTL_n1_en (n l : Nat) : Fld := ⟨0x200100 + n * 0x2000 + l * 0x200, 0, 1, 0⟩
/-- LAD_c_l_FE_LIM [31:0], RWI. -/
def LAD_FE_LIM_limit (n l : Nat) : Fld := ⟨0x200104 + n * 0x2000 + l * 0x200, 0, 32, 0xffffffff⟩
/-- LAD_c_l_PW_LIM [31:0], RWI. -/
def LAD_PW_LIM_limit (n l : Nat) : Fld := ⟨0x200108 + n * 0x2000 + l * 0x200, 0, 32, 0xffffffff⟩
/-- LAD_c_l_PW_WIN [31:16], RWI. -/
def LAD_PW_WIN_win (n l : Nat) : Fld := ⟨0x20010c + n * 0x2000 + l * 0x200, 16, 16, 256⟩
/-- LAD_c_l_PW_WIN [7:0], RWI. -/
def LAD_PW_WIN_trips (n l : Nat) : Fld := ⟨0x20010c + n * 0x2000 + l * 0x200, 0, 8, 4⟩
/-- LAD_c_l_I_LO [31:0], RWI. -/
def LAD_I_LO_bound (n l : Nat) : Fld := ⟨0x200110 + n * 0x2000 + l * 0x200, 0, 32, 0x80000000⟩
/-- LAD_c_l_I_HI [31:0], RWI. -/
def LAD_I_HI_bound (n l : Nat) : Fld := ⟨0x200114 + n * 0x2000 + l * 0x200, 0, 32, 0x7fffffff⟩
/-- LAD_c_l_Y_LO [31:0], RWI. -/
def LAD_Y_LO_bound (n l : Nat) : Fld := ⟨0x200118 + n * 0x2000 + l * 0x200, 0, 32, 0x80000000⟩
/-- LAD_c_l_Y_HI [31:0], RWI. -/
def LAD_Y_HI_bound (n l : Nat) : Fld := ⟨0x20011c + n * 0x2000 + l * 0x200, 0, 32, 0x7fffffff⟩
/-- LAD_c_l_RC_PERIOD [27:16], RWI. -/
def LAD_RC_PERIOD_lead (n l : Nat) : Fld := ⟨0x200120 + n * 0x2000 + l * 0x200, 16, 12, 0⟩
/-- LAD_c_l_RC_PERIOD [12:0], RWI. -/
def LAD_RC_PERIOD_n (n l : Nat) : Fld := ⟨0x200120 + n * 0x2000 + l * 0x200, 0, 13, 0x1000⟩
/-- LAD_c_l_KN [16:0], RWI. -/
def LAD_KN_kn (n l : Nat) : Fld := ⟨0x200124 + n * 0x2000 + l * 0x200, 0, 17, 0x10000⟩
/-- LAD_c_XY_KP [31:0], RWI. -/
def LAD_XY_KP_value (n l : Nat) : Fld := ⟨0x200140 + n * 0x2000 + l * 0x200, 0, 32, 0⟩
/-- LAD_c_XY_KP_SHIFT [4:0], RWI. -/
def LAD_XY_KP_SHIFT_shift (n l : Nat) : Fld := ⟨0x200144 + n * 0x2000 + l * 0x200, 0, 5, 0⟩
/-- LAD_c_XY_KI [31:0], RWI. -/
def LAD_XY_KI_value (n l : Nat) : Fld := ⟨0x200148 + n * 0x2000 + l * 0x200, 0, 32, 0⟩
/-- LAD_c_XY_KI_SHIFT [4:0], RWI. -/
def LAD_XY_KI_SHIFT_shift (n l : Nat) : Fld := ⟨0x20014c + n * 0x2000 + l * 0x200, 0, 5, 0⟩
/-- LAD_c_XY_KD [31:0], RWI. -/
def LAD_XY_KD_value (n l : Nat) : Fld := ⟨0x200150 + n * 0x2000 + l * 0x200, 0, 32, 0⟩
/-- LAD_c_XY_KD_SHIFT [4:0], RWI. -/
def LAD_XY_KD_SHIFT_shift (n l : Nat) : Fld := ⟨0x200154 + n * 0x2000 + l * 0x200, 0, 5, 0⟩
/-- LAD_c_l_N1_B0 [31:0], RWI. -/
def LAD_N1_B0_value (n l : Nat) : Fld := ⟨0x200158 + n * 0x2000 + l * 0x200, 0, 32, 0⟩
/-- LAD_c_l_N1_B0_SHIFT [4:0], RWI. -/
def LAD_N1_B0_SHIFT_shift (n l : Nat) : Fld := ⟨0x20015c + n * 0x2000 + l * 0x200, 0, 5, 0⟩
/-- LAD_c_l_N1_B1 [31:0], RWI. -/
def LAD_N1_B1_value (n l : Nat) : Fld := ⟨0x200160 + n * 0x2000 + l * 0x200, 0, 32, 0⟩
/-- LAD_c_l_N1_B1_SHIFT [4:0], RWI. -/
def LAD_N1_B1_SHIFT_shift (n l : Nat) : Fld := ⟨0x200164 + n * 0x2000 + l * 0x200, 0, 5, 0⟩
/-- LAD_c_l_N1_B2 [31:0], RWI. -/
def LAD_N1_B2_value (n l : Nat) : Fld := ⟨0x200168 + n * 0x2000 + l * 0x200, 0, 32, 0⟩
/-- LAD_c_l_N1_B2_SHIFT [4:0], RWI. -/
def LAD_N1_B2_SHIFT_shift (n l : Nat) : Fld := ⟨0x20016c + n * 0x2000 + l * 0x200, 0, 5, 0⟩
/-- LAD_c_l_N1_A1 [31:0], RWI. -/
def LAD_N1_A1_value (n l : Nat) : Fld := ⟨0x200170 + n * 0x2000 + l * 0x200, 0, 32, 0⟩
/-- LAD_c_l_N1_A1_SHIFT [4:0], RWI. -/
def LAD_N1_A1_SHIFT_shift (n l : Nat) : Fld := ⟨0x200174 + n * 0x2000 + l * 0x200, 0, 5, 0⟩
/-- LAD_c_l_N1_A2 [31:0], RWI. -/
def LAD_N1_A2_value (n l : Nat) : Fld := ⟨0x200178 + n * 0x2000 + l * 0x200, 0, 32, 0⟩
/-- LAD_c_l_N1_A2_SHIFT [4:0], RWI. -/
def LAD_N1_A2_SHIFT_shift (n l : Nat) : Fld := ⟨0x20017c + n * 0x2000 + l * 0x200, 0, 5, 0⟩
/-- LAD_c_l_N2_B0 [31:0], RWI. -/
def LAD_N2_B0_value (n l : Nat) : Fld := ⟨0x200180 + n * 0x2000 + l * 0x200, 0, 32, 0⟩
/-- LAD_c_l_N2_B0_SHIFT [4:0], RWI. -/
def LAD_N2_B0_SHIFT_shift (n l : Nat) : Fld := ⟨0x200184 + n * 0x2000 + l * 0x200, 0, 5, 0⟩
/-- LAD_c_l_N2_B1 [31:0], RWI. -/
def LAD_N2_B1_value (n l : Nat) : Fld := ⟨0x200188 + n * 0x2000 + l * 0x200, 0, 32, 0⟩
/-- LAD_c_l_N2_B1_SHIFT [4:0], RWI. -/
def LAD_N2_B1_SHIFT_shift (n l : Nat) : Fld := ⟨0x20018c + n * 0x2000 + l * 0x200, 0, 5, 0⟩
/-- LAD_c_l_N2_B2 [31:0], RWI. -/
def LAD_N2_B2_value (n l : Nat) : Fld := ⟨0x200190 + n * 0x2000 + l * 0x200, 0, 32, 0⟩
/-- LAD_c_l_N2_B2_SHIFT [4:0], RWI. -/
def LAD_N2_B2_SHIFT_shift (n l : Nat) : Fld := ⟨0x200194 + n * 0x2000 + l * 0x200, 0, 5, 0⟩
/-- LAD_c_l_N2_A1 [31:0], RWI. -/
def LAD_N2_A1_value (n l : Nat) : Fld := ⟨0x200198 + n * 0x2000 + l * 0x200, 0, 32, 0⟩
/-- LAD_c_l_N2_A1_SHIFT [4:0], RWI. -/
def LAD_N2_A1_SHIFT_shift (n l : Nat) : Fld := ⟨0x20019c + n * 0x2000 + l * 0x200, 0, 5, 0⟩
/-- LAD_c_l_N2_A2 [31:0], RWI. -/
def LAD_N2_A2_value (n l : Nat) : Fld := ⟨0x2001a0 + n * 0x2000 + l * 0x200, 0, 32, 0⟩
/-- LAD_c_l_N2_A2_SHIFT [4:0], RWI. -/
def LAD_N2_A2_SHIFT_shift (n l : Nat) : Fld := ⟨0x2001a4 + n * 0x2000 + l * 0x200, 0, 5, 0⟩
/-- LAD_c_l_KR [31:0], RWI. -/
def LAD_KR_value (n l : Nat) : Fld := ⟨0x2001a8 + n * 0x2000 + l * 0x200, 0, 32, 0⟩
/-- LAD_c_l_KR_SHIFT [4:0], RWI. -/
def LAD_KR_SHIFT_shift (n l : Nat) : Fld := ⟨0x2001ac + n * 0x2000 + l * 0x200, 0, 5, 0⟩
/-- LAD_c_l_Q [31:0], RWI. -/
def LAD_Q_value (n l : Nat) : Fld := ⟨0x2001b0 + n * 0x2000 + l * 0x200, 0, 32, 0⟩
/-- LAD_c_l_Q_SHIFT [4:0], RWI. -/
def LAD_Q_SHIFT_shift (n l : Nat) : Fld := ⟨0x2001b4 + n * 0x2000 + l * 0x200, 0, 5, 0⟩
/-- LAD_c_l_STATE [31:16], RO+S. -/
def LAD_STATE_over_count (n l : Nat) : Fld := ⟨0x2001c0 + n * 0x2000 + l * 0x200, 16, 16, 0⟩
/-- LAD_c_l_STATE [15:8], RO+S. -/
def LAD_STATE_miss_run (n l : Nat) : Fld := ⟨0x2001c0 + n * 0x2000 + l * 0x200, 8, 8, 0⟩
/-- LAD_c_l_STATE [6], RO+S. -/
def LAD_STATE_stale (n l : Nat) : Fld := ⟨0x2001c0 + n * 0x2000 + l * 0x200, 6, 1, 0⟩
/-- LAD_c_l_STATE [5:4], RO+S. -/
def LAD_STATE_rc_state (n l : Nat) : Fld := ⟨0x2001c0 + n * 0x2000 + l * 0x200, 4, 2, 0⟩
/-- LAD_c_l_STATE [2:0], RO+S. -/
def LAD_STATE_state (n l : Nat) : Fld := ⟨0x2001c0 + n * 0x2000 + l * 0x200, 0, 3, 0⟩
/-- LAD_c_l_ERR [31:0], RO+S. -/
def LAD_ERR_value (n l : Nat) : Fld := ⟨0x2001c4 + n * 0x2000 + l * 0x200, 0, 32, 0⟩
/-- LAD_c_l_OUT [31:0], RO+S. -/
def LAD_OUT_value (n l : Nat) : Fld := ⟨0x2001c8 + n * 0x2000 + l * 0x200, 0, 32, 0⟩
/-- LAD_c_l_INT [31:0], RO+S. -/
def LAD_INT_value (n l : Nat) : Fld := ⟨0x2001cc + n * 0x2000 + l * 0x200, 0, 32, 0⟩
/-- LAD_c_l_RC_IDX [11:0], RO+S. -/
def LAD_RC_IDX_i (n l : Nat) : Fld := ⟨0x2001d0 + n * 0x2000 + l * 0x200, 0, 12, 0⟩
/-- LAD_c_l_SAMPLES [31:0], RO+S. -/
def LAD_SAMPLES_count (n l : Nat) : Fld := ⟨0x2001d4 + n * 0x2000 + l * 0x200, 0, 32, 0⟩
/-- LAD_c_l_MISSED [31:0], RO+S. -/
def LAD_MISSED_count (n l : Nat) : Fld := ⟨0x2001d8 + n * 0x2000 + l * 0x200, 0, 32, 0⟩
/-- LAD_c_l_CLAMPED [31:0], RO+S. -/
def LAD_CLAMPED_count (n l : Nat) : Fld := ⟨0x2001dc + n * 0x2000 + l * 0x200, 0, 32, 0⟩
/-- LAD_c_l_PREWARNS [31:0], RO+S. -/
def LAD_PREWARNS_count (n l : Nat) : Fld := ⟨0x2001e0 + n * 0x2000 + l * 0x200, 0, 32, 0⟩
/-- LAD_c_l_SAT [9:6], W1C. -/
def LAD_SAT_cnt_sat (n l : Nat) : Fld := ⟨0x2001e4 + n * 0x2000 + l * 0x200, 6, 4, 0⟩
/-- LAD_c_l_SAT [5], W1C. -/
def LAD_SAT_rc_sat (n l : Nat) : Fld := ⟨0x2001e4 + n * 0x2000 + l * 0x200, 5, 1, 0⟩
/-- LAD_c_l_SAT [4], W1C. -/
def LAD_SAT_notch_sat (n l : Nat) : Fld := ⟨0x2001e4 + n * 0x2000 + l * 0x200, 4, 1, 0⟩
/-- LAD_c_l_SAT [3], W1C. -/
def LAD_SAT_out_clamp (n l : Nat) : Fld := ⟨0x2001e4 + n * 0x2000 + l * 0x200, 3, 1, 0⟩
/-- LAD_c_l_SAT [2], W1C. -/
def LAD_SAT_int_clamp (n l : Nat) : Fld := ⟨0x2001e4 + n * 0x2000 + l * 0x200, 2, 1, 0⟩
/-- LAD_c_l_SAT [1], W1C. -/
def LAD_SAT_sum_sat (n l : Nat) : Fld := ⟨0x2001e4 + n * 0x2000 + l * 0x200, 1, 1, 0⟩
/-- LAD_c_l_SAT [0], W1C. -/
def LAD_SAT_e_sat (n l : Nat) : Fld := ⟨0x2001e4 + n * 0x2000 + l * 0x200, 0, 1, 0⟩
/-- LAD_c_l_LAST_LO [31:0], RO+S. -/
def LAD_LAST_LO_beat (n l : Nat) : Fld := ⟨0x2001e8 + n * 0x2000 + l * 0x200, 0, 32, 0⟩
/-- LAD_c_l_LAST_HI [31:0], RO+S. -/
def LAD_LAST_HI_beat (n l : Nat) : Fld := ⟨0x2001ec + n * 0x2000 + l * 0x200, 0, 32, 0⟩
/-- LAD_c_PWR_FRAME [31:0], RO+S. -/
def LAD_PWR_FRAME_seq (n : Nat) : Fld := ⟨0x2005f0 + n * 0x2000, 0, 32, 0⟩
/-- LAD_c_PWR_KP [31:0], RWI. -/
def LAD_PWR_KP_value (n b : Nat) : Fld := ⟨0x200600 + n * 0x2000 + b * 0x20, 0, 32, 0⟩
/-- LAD_c_PWR_KP_SHIFT [4:0], RWI. -/
def LAD_PWR_KP_SHIFT_shift (n b : Nat) : Fld := ⟨0x200604 + n * 0x2000 + b * 0x20, 0, 5, 0⟩
/-- LAD_c_PWR_KI [31:0], RWI. -/
def LAD_PWR_KI_value (n b : Nat) : Fld := ⟨0x200608 + n * 0x2000 + b * 0x20, 0, 32, 0⟩
/-- LAD_c_PWR_KI_SHIFT [4:0], RWI. -/
def LAD_PWR_KI_SHIFT_shift (n b : Nat) : Fld := ⟨0x20060c + n * 0x2000 + b * 0x20, 0, 5, 0⟩
/-- LAD_c_PWR_KD [31:0], RWI. -/
def LAD_PWR_KD_value (n b : Nat) : Fld := ⟨0x200610 + n * 0x2000 + b * 0x20, 0, 32, 0⟩
/-- LAD_c_PWR_KD_SHIFT [4:0], RWI. -/
def LAD_PWR_KD_SHIFT_shift (n b : Nat) : Fld := ⟨0x200614 + n * 0x2000 + b * 0x20, 0, 5, 0⟩

/-! ### PF (10_position_feedback.md, R320) -/

/-- PF_n_CTL [22:20], RWI. -/
def PF_CTL_cap_in (n : Nat) : Fld := ⟨0x240000 + n * 0x400, 20, 3, 0⟩
/-- PF_n_CTL [17:16], RWI. -/
def PF_CTL_cap_src (n : Nat) : Fld := ⟨0x240000 + n * 0x400, 16, 2, 0⟩
/-- PF_n_CTL [11:8], RWI. -/
def PF_CTL_filt (n : Nat) : Fld := ⟨0x240000 + n * 0x400, 8, 4, 4⟩
/-- PF_n_CTL [6], RWI. -/
def PF_CTL_inv_idx (n : Nat) : Fld := ⟨0x240000 + n * 0x400, 6, 1, 0⟩
/-- PF_n_CTL [5], RWI. -/
def PF_CTL_inv_b (n : Nat) : Fld := ⟨0x240000 + n * 0x400, 5, 1, 0⟩
/-- PF_n_CTL [4], RWI. -/
def PF_CTL_inv_a (n : Nat) : Fld := ⟨0x240000 + n * 0x400, 4, 1, 0⟩
/-- PF_n_CTL [1], RWI. -/
def PF_CTL_mode (n : Nat) : Fld := ⟨0x240000 + n * 0x400, 1, 1, 0⟩
/-- PF_n_CTL [0], RW. -/
def PF_CTL_enable (n : Nat) : Fld := ⟨0x240000 + n * 0x400, 0, 1, 0⟩
/-- PF_n_STATUS [9], RO+S. -/
def PF_STATUS_cap_pending (n : Nat) : Fld := ⟨0x240004 + n * 0x400, 9, 1, 0⟩
/-- PF_n_STATUS [8], W1C. -/
def PF_STATUS_cap_overrun (n : Nat) : Fld := ⟨0x240004 + n * 0x400, 8, 1, 0⟩
/-- PF_n_STATUS [7], W1C. -/
def PF_STATUS_ext_wrap (n : Nat) : Fld := ⟨0x240004 + n * 0x400, 7, 1, 0⟩
/-- PF_n_STATUS [6], W1C. -/
def PF_STATUS_collide (n : Nat) : Fld := ⟨0x240004 + n * 0x400, 6, 1, 0⟩
/-- PF_n_STATUS [5], W1C. -/
def PF_STATUS_fast (n : Nat) : Fld := ⟨0x240004 + n * 0x400, 5, 1, 0⟩
/-- PF_n_STATUS [4], W1C. -/
def PF_STATUS_index_mismatch (n : Nat) : Fld := ⟨0x240004 + n * 0x400, 4, 1, 0⟩
/-- PF_n_STATUS [3], RO+S. -/
def PF_STATUS_referenced (n : Nat) : Fld := ⟨0x240004 + n * 0x400, 3, 1, 0⟩
/-- PF_n_STATUS [2], RO+S. -/
def PF_STATUS_dir (n : Nat) : Fld := ⟨0x240004 + n * 0x400, 2, 1, 0⟩
/-- PF_n_STATUS [1], RO+S. -/
def PF_STATUS_moving (n : Nat) : Fld := ⟨0x240004 + n * 0x400, 1, 1, 0⟩
/-- PF_n_POS_LO [31:0], RO+S. -/
def PF_POS_LO_pos (n : Nat) : Fld := ⟨0x240008 + n * 0x400, 0, 32, 0⟩
/-- PF_n_POS_HI [15:0], RO+S. -/
def PF_POS_HI_pos (n : Nat) : Fld := ⟨0x24000c + n * 0x400, 0, 16, 0⟩
/-- PF_n_SPEED [31:0], RO+S. -/
def PF_SPEED_v (n : Nat) : Fld := ⟨0x240010 + n * 0x400, 0, 32, 0⟩
/-- PF_n_EDGE_T_LO [31:0], RO+S. -/
def PF_EDGE_T_LO_t (n : Nat) : Fld := ⟨0x240014 + n * 0x400, 0, 32, 0⟩
/-- PF_n_EDGE_T_HI [31:0], RO+S. -/
def PF_EDGE_T_HI_t (n : Nat) : Fld := ⟨0x240018 + n * 0x400, 0, 32, 0⟩
/-- PF_n_BEAT_POS_LO [31:0], RO+S. -/
def PF_BEAT_POS_LO_value (n : Nat) : Fld := ⟨0x240020 + n * 0x400, 0, 32, 0⟩
/-- PF_n_BEAT_POS_HI [15:0], RO+S. -/
def PF_BEAT_POS_HI_value (n : Nat) : Fld := ⟨0x240024 + n * 0x400, 0, 16, 0⟩
/-- PF_n_BEAT_T_LO [31:0], RO+S. -/
def PF_BEAT_T_LO_value (n : Nat) : Fld := ⟨0x240028 + n * 0x400, 0, 32, 0⟩
/-- PF_n_BEAT_T_HI [31:0], RO+S. -/
def PF_BEAT_T_HI_value (n : Nat) : Fld := ⟨0x24002c + n * 0x400, 0, 32, 0⟩
/-- PF_n_BEAT_SPEED [31:0], RO+S. -/
def PF_BEAT_SPEED_value (n : Nat) : Fld := ⟨0x240030 + n * 0x400, 0, 32, 0⟩
/-- PF_n_PRESET_LO [31:0], RWI. -/
def PF_PRESET_LO_preset (n : Nat) : Fld := ⟨0x240040 + n * 0x400, 0, 32, 0⟩
/-- PF_n_PRESET_HI [15:0], RWI. -/
def PF_PRESET_HI_preset (n : Nat) : Fld := ⟨0x240044 + n * 0x400, 0, 16, 0⟩
/-- PF_n_SPD_CTL [31:16], RWI. -/
def PF_SPD_CTL_stop_us (n : Nat) : Fld := ⟨0x240048 + n * 0x400, 16, 16, 1000⟩
/-- PF_n_SPD_CTL [2:0], RWI. -/
def PF_SPD_CTL_avg_log2 (n : Nat) : Fld := ⟨0x240048 + n * 0x400, 0, 3, 0⟩
/-- PF_n_IDX_CTL [31:16], RW. -/
def PF_IDX_CTL_tol (n : Nat) : Fld := ⟨0x240050 + n * 0x400, 16, 16, 0⟩
/-- PF_n_IDX_CTL [2], RW. -/
def PF_IDX_CTL_set_next (n : Nat) : Fld := ⟨0x240050 + n * 0x400, 2, 1, 0⟩
/-- PF_n_IDX_CTL [0], RW. -/
def PF_IDX_CTL_mode (n : Nat) : Fld := ⟨0x240050 + n * 0x400, 0, 1, 0⟩
/-- PF_n_IDX_PER [31:0], RW. -/
def PF_IDX_PER_period (n : Nat) : Fld := ⟨0x240054 + n * 0x400, 0, 32, 0⟩
/-- PF_n_IDX_REF_LO [31:0], RW. -/
def PF_IDX_REF_LO_pos (n : Nat) : Fld := ⟨0x240058 + n * 0x400, 0, 32, 0⟩
/-- PF_n_IDX_REF_HI [15:0], RW. -/
def PF_IDX_REF_HI_pos (n : Nat) : Fld := ⟨0x24005c + n * 0x400, 0, 16, 0⟩
/-- PF_n_IDX_LAST_LO [31:0], RO+S. -/
def PF_IDX_LAST_LO_pos (n : Nat) : Fld := ⟨0x240060 + n * 0x400, 0, 32, 0⟩
/-- PF_n_IDX_LAST_HI [15:0], RO+S. -/
def PF_IDX_LAST_HI_pos (n : Nat) : Fld := ⟨0x240064 + n * 0x400, 0, 16, 0⟩
/-- PF_n_IDX_DEV [31:0], RO+S. -/
def PF_IDX_DEV_d (n : Nat) : Fld := ⟨0x240068 + n * 0x400, 0, 32, 0⟩
/-- PF_n_IDX_MISS_LO [31:0], RO+S. -/
def PF_IDX_MISS_LO_pos (n : Nat) : Fld := ⟨0x24006c + n * 0x400, 0, 32, 0⟩
/-- PF_n_IDX_MISS_HI [15:0], RO+S. -/
def PF_IDX_MISS_HI_pos (n : Nat) : Fld := ⟨0x240070 + n * 0x400, 0, 16, 0⟩
/-- PF_n_IDX_COUNT [31:16], RO+S. -/
def PF_IDX_COUNT_reref (n : Nat) : Fld := ⟨0x240074 + n * 0x400, 16, 16, 0⟩
/-- PF_n_IDX_COUNT [15:0], RO+S. -/
def PF_IDX_COUNT_mismatch (n : Nat) : Fld := ⟨0x240074 + n * 0x400, 0, 16, 0⟩
/-- PF_n_CAP_POS_LO [31:0], RO+S. -/
def PF_CAP_POS_LO_value (n : Nat) : Fld := ⟨0x240080 + n * 0x400, 0, 32, 0⟩
/-- PF_n_CAP_POS_HI [15:0], RO+S. -/
def PF_CAP_POS_HI_value (n : Nat) : Fld := ⟨0x240084 + n * 0x400, 0, 16, 0⟩
/-- PF_n_CAP_T_LO [31:0], RO+S. -/
def PF_CAP_T_LO_value (n : Nat) : Fld := ⟨0x240088 + n * 0x400, 0, 32, 0⟩
/-- PF_n_CAP_T_HI [31:0], RO+S. -/
def PF_CAP_T_HI_value (n : Nat) : Fld := ⟨0x24008c + n * 0x400, 0, 32, 0⟩
/-- PF_n_CAP_COUNT [31:0], RO+S. -/
def PF_CAP_COUNT_count (n : Nat) : Fld := ⟨0x240090 + n * 0x400, 0, 32, 0⟩
/-- PF_n_EDGES [31:0], RO+S. -/
def PF_EDGES_count (n : Nat) : Fld := ⟨0x240094 + n * 0x400, 0, 32, 0⟩
/-- PF_n_COLLIDE [31:0], RO+S. -/
def PF_COLLIDE_count (n : Nat) : Fld := ⟨0x240098 + n * 0x400, 0, 32, 0⟩
/-- PF_n_STICKY [3:0], W1C. -/
def PF_STICKY_sat (n : Nat) : Fld := ⟨0x24009c + n * 0x400, 0, 4, 0⟩
/-- PF_n_CMP_u_CTL [10], RO+S. -/
def PF_CMP_CTL_gear_owned (n u : Nat) : Fld := ⟨0x240100 + n * 0x400 + u * 0x20, 10, 1, 0⟩
/-- PF_n_CMP_u_CTL [9], W1C. -/
def PF_CMP_CTL_fired (n u : Nat) : Fld := ⟨0x240100 + n * 0x400 + u * 0x20, 9, 1, 0⟩
/-- PF_n_CMP_u_CTL [8], W1C. -/
def PF_CMP_CTL_passed (n u : Nat) : Fld := ⟨0x240100 + n * 0x400 + u * 0x20, 8, 1, 0⟩
/-- PF_n_CMP_u_CTL [6:4], RW. -/
def PF_CMP_CTL_action (n u : Nat) : Fld := ⟨0x240100 + n * 0x400 + u * 0x20, 4, 3, 0⟩
/-- PF_n_CMP_u_CTL [2:1], RW. -/
def PF_CMP_CTL_dir (n u : Nat) : Fld := ⟨0x240100 + n * 0x400 + u * 0x20, 1, 2, 0⟩
/-- PF_n_CMP_u_CTL [0], RW. -/
def PF_CMP_CTL_arm (n u : Nat) : Fld := ⟨0x240100 + n * 0x400 + u * 0x20, 0, 1, 0⟩
/-- PF_n_CMP_u_VAL_LO [31:0], RW. -/
def PF_CMP_VAL_LO_val (n u : Nat) : Fld := ⟨0x240104 + n * 0x400 + u * 0x20, 0, 32, 0⟩
/-- PF_n_CMP_u_VAL_HI [15:0], RW. -/
def PF_CMP_VAL_HI_val (n u : Nat) : Fld := ⟨0x240108 + n * 0x400 + u * 0x20, 0, 16, 0⟩
/-- PF_n_CMP_u_FIRE_T_LO [31:0], RO+S. -/
def PF_CMP_FIRE_T_LO_value (n u : Nat) : Fld := ⟨0x24010c + n * 0x400 + u * 0x20, 0, 32, 0⟩
/-- PF_n_CMP_u_FIRE_T_HI [31:0], RO+S. -/
def PF_CMP_FIRE_T_HI_value (n u : Nat) : Fld := ⟨0x240110 + n * 0x400 + u * 0x20, 0, 32, 0⟩
/-- PF_n_CMP_u_COUNT [31:0], RO+S. -/
def PF_CMP_COUNT_value (n u : Nat) : Fld := ⟨0x240114 + n * 0x400 + u * 0x20, 0, 32, 0⟩
/-- PF_EMU_k_CTL [9:8], RWI. -/
def PF_EMU_CTL_z_mode (k : Nat) : Fld := ⟨0x242000 + k * 0x40, 8, 2, 0⟩
/-- PF_EMU_k_CTL [6:4], RWI. -/
def PF_EMU_CTL_source (k : Nat) : Fld := ⟨0x242000 + k * 0x40, 4, 3, 0⟩
/-- PF_EMU_k_CTL [0], RW. -/
def PF_EMU_CTL_enable (k : Nat) : Fld := ⟨0x242000 + k * 0x40, 0, 1, 0⟩
/-- PF_EMU_k_RATIO [31:16], RWI. -/
def PF_EMU_RATIO_num (k : Nat) : Fld := ⟨0x242004 + k * 0x40, 16, 16, 1⟩
/-- PF_EMU_k_RATIO [15:0], RWI. -/
def PF_EMU_RATIO_den (k : Nat) : Fld := ⟨0x242004 + k * 0x40, 0, 16, 1⟩
/-- PF_EMU_k_SPACING [13:0], RWI. -/
def PF_EMU_SPACING_ns (k : Nat) : Fld := ⟨0x242008 + k * 0x40, 0, 14, 40⟩
/-- PF_EMU_k_ZPER [31:0], RWI. -/
def PF_EMU_ZPER_period (k : Nat) : Fld := ⟨0x24200c + k * 0x40, 0, 32, 4⟩
/-- PF_EMU_k_LAG [31:0], RO+S. -/
def PF_EMU_LAG_lag (k : Nat) : Fld := ⟨0x242010 + k * 0x40, 0, 32, 0⟩
/-- PF_EMU_k_STATUS [1], W1C. -/
def PF_EMU_STATUS_overflow (k : Nat) : Fld := ⟨0x242014 + k * 0x40, 1, 1, 0⟩
/-- PF_EMU_k_STATUS [0], RO+S. -/
def PF_EMU_STATUS_running (k : Nat) : Fld := ⟨0x242014 + k * 0x40, 0, 1, 0⟩
/-- PF_EMU_k_OUT [31:0], RO+S. -/
def PF_EMU_OUT_c (k : Nat) : Fld := ⟨0x242018 + k * 0x40, 0, 32, 0⟩

/-! ### AX (11_recoat_and_build_axes.md, R348) -/

/-- AX_n_CTL [9], RW. -/
def AX_CTL_quench_stop (n : Nat) : Fld := ⟨0x250000 + n * 0x800, 9, 1, 0⟩
/-- AX_n_CTL [7:4], RWI. -/
def AX_CTL_ustep_log2 (n : Nat) : Fld := ⟨0x250000 + n * 0x800, 4, 4, 6⟩
/-- AX_n_CTL [1], RWI. -/
def AX_CTL_mode (n : Nat) : Fld := ⟨0x250000 + n * 0x800, 1, 1, 0⟩
/-- AX_n_CTL [0], RW. -/
def AX_CTL_enable (n : Nat) : Fld := ⟨0x250000 + n * 0x800, 0, 1, 0⟩
/-- AX_n_STATUS [31:24], RO+S. -/
def AX_STATUS_fault (n : Nat) : Fld := ⟨0x250004 + n * 0x800, 24, 8, 0⟩
/-- AX_n_STATUS [15], W1C. -/
def AX_STATUS_limit_hit (n : Nat) : Fld := ⟨0x250004 + n * 0x800, 15, 1, 0⟩
/-- AX_n_STATUS [14], W1C. -/
def AX_STATUS_home_limit (n : Nat) : Fld := ⟨0x250004 + n * 0x800, 14, 1, 0⟩
/-- AX_n_STATUS [13], W1C. -/
def AX_STATUS_chatter (n : Nat) : Fld := ⟨0x250004 + n * 0x800, 13, 1, 0⟩
/-- AX_n_STATUS [12], W1C. -/
def AX_STATUS_tune_kept (n : Nat) : Fld := ⟨0x250004 + n * 0x800, 12, 1, 0⟩
/-- AX_n_STATUS [11], RO+S. -/
def AX_STATUS_in_home (n : Nat) : Fld := ⟨0x250004 + n * 0x800, 11, 1, 0⟩
/-- AX_n_STATUS [10], RO+S. -/
def AX_STATUS_in_lim_p (n : Nat) : Fld := ⟨0x250004 + n * 0x800, 10, 1, 0⟩
/-- AX_n_STATUS [9], RO+S. -/
def AX_STATUS_in_lim_n (n : Nat) : Fld := ⟨0x250004 + n * 0x800, 9, 1, 0⟩
/-- AX_n_STATUS [8], RO+S. -/
def AX_STATUS_homed (n : Nat) : Fld := ⟨0x250004 + n * 0x800, 8, 1, 0⟩
/-- AX_n_STATUS [2:0], RO+S. -/
def AX_STATUS_state (n : Nat) : Fld := ⟨0x250004 + n * 0x800, 0, 3, 0⟩
/-- AX_n_POS_LO [31:0], RO+S. -/
def AX_POS_LO_pos (n : Nat) : Fld := ⟨0x250008 + n * 0x800, 0, 32, 0⟩
/-- AX_n_POS_HI [31:0], RO+S. -/
def AX_POS_HI_pos (n : Nat) : Fld := ⟨0x25000c + n * 0x800, 0, 32, 0⟩
/-- AX_n_TARGET_LO [31:0], RO+S. -/
def AX_TARGET_LO_pos (n : Nat) : Fld := ⟨0x250010 + n * 0x800, 0, 32, 0⟩
/-- AX_n_TARGET_HI [31:0], RO+S. -/
def AX_TARGET_HI_pos (n : Nat) : Fld := ⟨0x250014 + n * 0x800, 0, 32, 0⟩
/-- AX_n_SPEED [31:0], RO+S. -/
def AX_SPEED_v (n : Nat) : Fld := ⟨0x250018 + n * 0x800, 0, 32, 0⟩
/-- AX_n_PHASE [29:20], RO+S. -/
def AX_PHASE_thr_b (n : Nat) : Fld := ⟨0x25001c + n * 0x800, 20, 10, 0⟩
/-- AX_n_PHASE [19:10], RO+S. -/
def AX_PHASE_thr_a (n : Nat) : Fld := ⟨0x25001c + n * 0x800, 10, 10, 0⟩
/-- AX_n_PHASE [9:0], RO+S. -/
def AX_PHASE_i (n : Nat) : Fld := ⟨0x25001c + n * 0x800, 0, 10, 0⟩
/-- AX_n_PROF_V0 [31:0], RW. -/
def AX_PROF_V0_value (n : Nat) : Fld := ⟨0x250020 + n * 0x800, 0, 32, 0⟩
/-- AX_n_PROF_V1 [31:0], RW. -/
def AX_PROF_V1_value (n : Nat) : Fld := ⟨0x250024 + n * 0x800, 0, 32, 0⟩
/-- AX_n_PROF_VMAX [31:0], RW. -/
def AX_PROF_VMAX_value (n : Nat) : Fld := ⟨0x250028 + n * 0x800, 0, 32, 0⟩
/-- AX_n_PROF_VE [31:0], RW. -/
def AX_PROF_VE_value (n : Nat) : Fld := ⟨0x25002c + n * 0x800, 0, 32, 0⟩
/-- AX_n_PROF_A1 [31:0], RW. -/
def AX_PROF_A1_value (n : Nat) : Fld := ⟨0x250030 + n * 0x800, 0, 32, 0⟩
/-- AX_n_PROF_A2 [31:0], RW. -/
def AX_PROF_A2_value (n : Nat) : Fld := ⟨0x250034 + n * 0x800, 0, 32, 0⟩
/-- AX_n_PROF_D2 [31:0], RW. -/
def AX_PROF_D2_value (n : Nat) : Fld := ⟨0x250038 + n * 0x800, 0, 32, 0⟩
/-- AX_n_PROF_D1 [31:0], RW. -/
def AX_PROF_D1_value (n : Nat) : Fld := ⟨0x25003c + n * 0x800, 0, 32, 0⟩
/-- AX_n_PROF_DEMG [31:0], RW. -/
def AX_PROF_DEMG_value (n : Nat) : Fld := ⟨0x250040 + n * 0x800, 0, 32, 0⟩
/-- AX_n_ENV_MIN_LO [31:0], RO. -/
def AX_ENV_MIN_LO_value (n : Nat) : Fld := ⟨0x250050 + n * 0x800, 0, 32, 0⟩
/-- AX_n_ENV_MIN_HI [31:0], RO. -/
def AX_ENV_MIN_HI_value (n : Nat) : Fld := ⟨0x250054 + n * 0x800, 0, 32, 0⟩
/-- AX_n_ENV_MAX_LO [31:0], RO. -/
def AX_ENV_MAX_LO_value (n : Nat) : Fld := ⟨0x250058 + n * 0x800, 0, 32, 0⟩
/-- AX_n_ENV_MAX_HI [31:0], RO. -/
def AX_ENV_MAX_HI_value (n : Nat) : Fld := ⟨0x25005c + n * 0x800, 0, 32, 0⟩
/-- AX_n_ENV_VLIM [31:0], RO. -/
def AX_ENV_VLIM_value (n : Nat) : Fld := ⟨0x250060 + n * 0x800, 0, 32, 0⟩
/-- AX_n_ENV_CTL [25:16], RO. -/
def AX_ENV_CTL_cur_max (n : Nat) : Fld := ⟨0x250064 + n * 0x800, 16, 10, 0⟩
/-- AX_n_ENV_CTL [0], RO. -/
def AX_ENV_CTL_need_home (n : Nat) : Fld := ⟨0x250064 + n * 0x800, 0, 1, 0⟩
/-- AX_n_HOME_CTL [18:16], RW. -/
def AX_HOME_CTL_pf (n : Nat) : Fld := ⟨0x250070 + n * 0x800, 16, 3, 0⟩
/-- AX_n_HOME_CTL [8], RW. -/
def AX_HOME_CTL_dir_inv (n : Nat) : Fld := ⟨0x250070 + n * 0x800, 8, 1, 0⟩
/-- AX_n_HOME_CTL [2:0], RO+S. -/
def AX_HOME_CTL_method (n : Nat) : Fld := ⟨0x250070 + n * 0x800, 0, 3, 0⟩
/-- AX_n_HOME_VS [31:0], RW. -/
def AX_HOME_VS_v (n : Nat) : Fld := ⟨0x250074 + n * 0x800, 0, 32, 0x3200⟩
/-- AX_n_HOME_VC [31:0], RW. -/
def AX_HOME_VC_v (n : Nat) : Fld := ⟨0x250078 + n * 0x800, 0, 32, 0x3200⟩
/-- AX_n_HOME_OFF_LO [31:0], RW. -/
def AX_HOME_OFF_LO_pos (n : Nat) : Fld := ⟨0x25007c + n * 0x800, 0, 32, 0⟩
/-- AX_n_HOME_OFF_HI [31:0], RW. -/
def AX_HOME_OFF_HI_pos (n : Nat) : Fld := ⟨0x250080 + n * 0x800, 0, 32, 0⟩
/-- AX_n_INP_CTL [31:24], RW. -/
def AX_INP_CTL_chat_win (n : Nat) : Fld := ⟨0x250088 + n * 0x800, 24, 8, 4⟩
/-- AX_n_INP_CTL [23:16], RW. -/
def AX_INP_CTL_chat_n (n : Nat) : Fld := ⟨0x250088 + n * 0x800, 16, 8, 16⟩
/-- AX_n_INP_CTL [15:0], RW. -/
def AX_INP_CTL_deb (n : Nat) : Fld := ⟨0x250088 + n * 0x800, 0, 16, 4000⟩
/-- AX_n_INP_INV [2:0], RW. -/
def AX_INP_INV_inv (n : Nat) : Fld := ⟨0x25008c + n * 0x800, 0, 3, 0⟩
/-- AX_n_GEAR_CTL [6:4], RO+S. -/
def AX_GEAR_CTL_source (n : Nat) : Fld := ⟨0x250090 + n * 0x800, 4, 3, 0⟩
/-- AX_n_GEAR_CTL [1], RO+S. -/
def AX_GEAR_CTL_pending (n : Nat) : Fld := ⟨0x250090 + n * 0x800, 1, 1, 0⟩
/-- AX_n_GEAR_CTL [0], RO+S. -/
def AX_GEAR_CTL_engaged (n : Nat) : Fld := ⟨0x250090 + n * 0x800, 0, 1, 0⟩
/-- AX_n_GEAR_NUM [31:0], RO+S. -/
def AX_GEAR_NUM_value (n : Nat) : Fld := ⟨0x250094 + n * 0x800, 0, 32, 0⟩
/-- AX_n_GEAR_DEN [31:0], RO+S. -/
def AX_GEAR_DEN_value (n : Nat) : Fld := ⟨0x250098 + n * 0x800, 0, 32, 0⟩
/-- AX_n_GEAR_NEXT_NUM [31:0], RO+S. -/
def AX_GEAR_NEXT_NUM_value (n : Nat) : Fld := ⟨0x25009c + n * 0x800, 0, 32, 0⟩
/-- AX_n_GEAR_NEXT_DEN [31:0], RO+S. -/
def AX_GEAR_NEXT_DEN_value (n : Nat) : Fld := ⟨0x2500a0 + n * 0x800, 0, 32, 0⟩
/-- AX_n_GEAR_LAGMAX [31:0], RW. -/
def AX_GEAR_LAGMAX_lag (n : Nat) : Fld := ⟨0x2500a4 + n * 0x800, 0, 32, 0⟩
/-- AX_n_GEAR_LAG [31:0], RO+S. -/
def AX_GEAR_LAG_lag (n : Nat) : Fld := ⟨0x2500a8 + n * 0x800, 0, 32, 0⟩
/-- AX_n_GEAR_M0_LO [31:0], RO+S. -/
def AX_GEAR_M0_LO_pos (n : Nat) : Fld := ⟨0x2500ac + n * 0x800, 0, 32, 0⟩
/-- AX_n_GEAR_M0_HI [31:0], RO+S. -/
def AX_GEAR_M0_HI_pos (n : Nat) : Fld := ⟨0x2500b0 + n * 0x800, 0, 32, 0⟩
/-- AX_n_GEAR_F0_LO [31:0], RO+S. -/
def AX_GEAR_F0_LO_pos (n : Nat) : Fld := ⟨0x2500b4 + n * 0x800, 0, 32, 0⟩
/-- AX_n_GEAR_F0_HI [31:0], RO+S. -/
def AX_GEAR_F0_HI_pos (n : Nat) : Fld := ⟨0x2500b8 + n * 0x800, 0, 32, 0⟩
/-- AX_n_CHOP [28:24], RW. -/
def AX_CHOP_ff (n : Nat) : Fld := ⟨0x2500c0 + n * 0x800, 24, 5, 8⟩
/-- AX_n_CHOP [21:16], RW. -/
def AX_CHOP_blank (n : Nat) : Fld := ⟨0x2500c0 + n * 0x800, 16, 6, 15⟩
/-- AX_n_CHOP [15:8], RW. -/
def AX_CHOP_ton_max (n : Nat) : Fld := ⟨0x2500c0 + n * 0x800, 8, 8, 50⟩
/-- AX_n_CHOP [7:0], RW. -/
def AX_CHOP_toff (n : Nat) : Fld := ⟨0x2500c0 + n * 0x800, 0, 8, 100⟩
/-- AX_n_CUR [25:16], RW. -/
def AX_CUR_hold (n : Nat) : Fld := ⟨0x2500c4 + n * 0x800, 16, 10, 0⟩
/-- AX_n_CUR [9:0], RW. -/
def AX_CUR_run (n : Nat) : Fld := ⟨0x2500c4 + n * 0x800, 0, 10, 0⟩
/-- AX_n_HOLD_DLY [15:0], RW. -/
def AX_HOLD_DLY_ms (n : Nat) : Fld := ⟨0x2500c8 + n * 0x800, 0, 16, 500⟩
/-- AX_n_STEPS [31:0], RO+S. -/
def AX_STEPS_count (n : Nat) : Fld := ⟨0x2500d0 + n * 0x800, 0, 32, 0⟩
/-- AX_n_TIMEOUTS [31:0], RO+S. -/
def AX_TIMEOUTS_count (n : Nat) : Fld := ⟨0x2500d4 + n * 0x800, 0, 32, 0⟩
/-- AX_n_STICKY [1:0], W1C. -/
def AX_STICKY_sat (n : Nat) : Fld := ⟨0x2500d8 + n * 0x800, 0, 2, 0⟩

/-! ### KT (12_kettle_array.md, R372) -/

/-- KT_CTL [19:16], RW. -/
def KT_CTL_err_limit : Fld := ⟨0x260000, 16, 4, 3⟩
/-- KT_CTL [10:8], RWI. -/
def KT_CTL_width : Fld := ⟨0x260000, 8, 3, 2⟩
/-- KT_CTL [5:4], RWI. -/
def KT_CTL_kck : Fld := ⟨0x260000, 4, 2, 0⟩
/-- KT_LINE [31:16], RWI. -/
def KT_LINE_blank : Fld := ⟨0x260004, 16, 16, 96⟩
/-- KT_LINE [7:0], RWI. -/
def KT_LINE_pdiv : Fld := ⟨0x260004, 0, 8, 0⟩
/-- KT_LINE_BEATS [31:0], RO. -/
def KT_LINE_BEATS_beats : Fld := ⟨0x260008, 0, 32, 168⟩
/-- KT_SHIFT_BEATS [31:0], RO. -/
def KT_SHIFT_BEATS_beats : Fld := ⟨0x26000c, 0, 32, 2028⟩
/-- KT_CHAINS [31:0], RO+S. -/
def KT_CHAINS_mask : Fld := ⟨0x260010, 0, 32, 0⟩
/-- KT_FAULT [31:0], RO+S. -/
def KT_FAULT_mask : Fld := ⟨0x260014, 0, 32, 0⟩
/-- KT_STATUS [6:4], RO+S. -/
def KT_STATUS_phase : Fld := ⟨0x260018, 4, 3, 0⟩
/-- KT_STATUS [3], RO+S. -/
def KT_STATUS_frozen : Fld := ⟨0x260018, 3, 1, 0⟩
/-- KT_STATUS [2], RO+S. -/
def KT_STATUS_loop_on : Fld := ⟨0x260018, 2, 1, 0⟩
/-- KT_STATUS [1], RO+S. -/
def KT_STATUS_swap_pending : Fld := ⟨0x260018, 1, 1, 0⟩
/-- KT_STATUS [0], RO+S. -/
def KT_STATUS_active : Fld := ⟨0x260018, 0, 1, 0⟩
/-- KT_BUF0_LO [31:6], RWI. -/
def KT_BUF0_LO_addr : Fld := ⟨0x260020, 6, 26, 0⟩
/-- KT_BUF0_HI [3:0], RWI. -/
def KT_BUF0_HI_addr : Fld := ⟨0x260024, 0, 4, 0⟩
/-- KT_BUF1_LO [31:6], RWI. -/
def KT_BUF1_LO_addr : Fld := ⟨0x260028, 6, 26, 0⟩
/-- KT_BUF1_HI [3:0], RWI. -/
def KT_BUF1_HI_addr : Fld := ⟨0x26002c, 0, 4, 0⟩
/-- KT_RD_NOM [31:0], RW. -/
def KT_RD_NOM_rate : Fld := ⟨0x260030, 0, 32, 0xf4240⟩
/-- KT_REFRESH [15:0], RW. -/
def KT_REFRESH_ms : Fld := ⟨0x260034, 0, 16, 100⟩
/-- KT_LATCH_LO [31:0], RO+S. -/
def KT_LATCH_LO_beat : Fld := ⟨0x260038, 0, 32, 0⟩
/-- KT_LATCH_HI [31:0], RO+S. -/
def KT_LATCH_HI_beat : Fld := ⟨0x26003c, 0, 32, 0⟩
/-- KT_NEXT_LO [31:0], RO+S. -/
def KT_NEXT_LO_beat : Fld := ⟨0x260040, 0, 32, 0⟩
/-- KT_NEXT_HI [31:0], RO+S. -/
def KT_NEXT_HI_beat : Fld := ⟨0x260044, 0, 32, 0⟩
/-- KT_ENV [31:16], RO. -/
def KT_ENV_duty_max : Fld := ⟨0x260048, 16, 16, 0⟩
/-- KT_ENV [7:0], RO. -/
def KT_ENV_cur_max : Fld := ⟨0x260048, 0, 8, 0⟩
/-- KT_TEMP_ALARM [15:0], RW. -/
def KT_TEMP_ALARM_temp : Fld := ⟨0x26004c, 0, 16, 1600⟩
/-- KT_FRAME_ID [31:0], RO+S. -/
def KT_FRAME_ID_value : Fld := ⟨0x260050, 0, 32, 0⟩
/-- KT_OPEN_TOTAL [31:0], RO+S. -/
def KT_OPEN_TOTAL_value : Fld := ⟨0x260054, 0, 32, 0⟩
/-- KT_SHORT_TOTAL [31:0], RO+S. -/
def KT_SHORT_TOTAL_value : Fld := ⟨0x260058, 0, 32, 0⟩
/-- KT_LATCHES [31:0], RO+S. -/
def KT_LATCHES_count : Fld := ⟨0x260060, 0, 32, 0⟩
/-- KT_LATE [31:0], RO+S. -/
def KT_LATE_count : Fld := ⟨0x260064, 0, 32, 0⟩
/-- KT_CLAMPS [31:0], RO+S. -/
def KT_CLAMPS_count : Fld := ⟨0x260068, 0, 32, 0⟩
/-- KT_CRC_FAIL [31:0], RO+S. -/
def KT_CRC_FAIL_count : Fld := ⟨0x26006c, 0, 32, 0⟩
/-- KT_LOOP_SKIP [31:0], RO+S. -/
def KT_LOOP_SKIP_count : Fld := ⟨0x260070, 0, 32, 0⟩
/-- KT_LOOP_RUNS [31:0], RO+S. -/
def KT_LOOP_RUNS_count : Fld := ⟨0x260074, 0, 32, 0⟩
/-- KT_STICKY [5:0], W1C. -/
def KT_STICKY_sat : Fld := ⟨0x260078, 0, 6, 0⟩
/-- KT_LOOP_CTL [12:8], RO+S. -/
def KT_LOOP_CTL_context : Fld := ⟨0x260080, 8, 5, 0⟩
/-- KT_LOOP_CTL [0], RO+S. -/
def KT_LOOP_CTL_on : Fld := ⟨0x260080, 0, 1, 0⟩
/-- KT_LOOP_MAP_LO [31:6], RO+S. -/
def KT_LOOP_MAP_LO_addr : Fld := ⟨0x260084, 6, 26, 0⟩
/-- KT_LOOP_MAP_HI [3:0], RO+S. -/
def KT_LOOP_MAP_HI_addr : Fld := ⟨0x260088, 0, 4, 0⟩
/-- KT_CH_c_CTL [3:0], RW. -/
def KT_CH_CTL_rt_dly (c : Nat) : Fld := ⟨0x261000 + c * 0x40, 0, 4, 4⟩
/-- KT_CH_c_STATUS [7:4], RO+S. -/
def KT_CH_STATUS_bad_run (c : Nat) : Fld := ⟨0x261004 + c * 0x40, 4, 4, 0⟩
/-- KT_CH_c_STATUS [1], RO+S. -/
def KT_CH_STATUS_fault (c : Nat) : Fld := ⟨0x261004 + c * 0x40, 1, 1, 0⟩
/-- KT_CH_c_STATUS [0], RO+S. -/
def KT_CH_STATUS_enabled (c : Nat) : Fld := ⟨0x261004 + c * 0x40, 0, 1, 0⟩
/-- KT_CH_c_BAD [31:0], RO+S. -/
def KT_CH_BAD_count (c : Nat) : Fld := ⟨0x261008 + c * 0x40, 0, 32, 0⟩
/-- KT_CH_c_DOWNERR [31:0], RO+S. -/
def KT_CH_DOWNERR_count (c : Nat) : Fld := ⟨0x26100c + c * 0x40, 0, 32, 0⟩
/-- KT_CH_c_STICKY [1:0], W1C. -/
def KT_CH_STICKY_sat (c : Nat) : Fld := ⟨0x261010 + c * 0x40, 0, 2, 0⟩
/-- KT_TILE_t_STAT [31:0], RO+S. -/
def KT_TILE_STAT_word (t : Nat) : Fld := ⟨0x264000 + t * 0x8, 0, 32, 0⟩
/-- KT_TILE_t_EMIT [31:0], RO+S. -/
def KT_TILE_EMIT_word (t : Nat) : Fld := ⟨0x264004 + t * 0x8, 0, 32, 0⟩
/-- KT_TILE_t_OPEN_w [31:0], RO. -/
def KT_TILE_OPEN_map (t w : Nat) : Fld := ⟨0x270000 + t * 0x40 + w * 0x4, 0, 32, 0⟩
/-- KT_TILE_t_SHORT_w [31:0], RO. -/
def KT_TILE_SHORT_map (t w : Nat) : Fld := ⟨0x270020 + t * 0x40 + w * 0x4, 0, 32, 0⟩

/-! ### DMC (13_dram_and_memory_sluice.md, R401) -/

/-- DMC_n_CFG [10:8], RWI. -/
def DMC_CFG_rate (n : Nat) : Fld := ⟨0x280000 + n * 0x8000, 8, 3, 4⟩
/-- DMC_n_CFG [4], RWI. -/
def DMC_CFG_ranks (n : Nat) : Fld := ⟨0x280000 + n * 0x8000, 4, 1, 0⟩
/-- DMC_n_CFG [1:0], RWI. -/
def DMC_CFG_density (n : Nat) : Fld := ⟨0x280000 + n * 0x8000, 0, 2, 0⟩
/-- DMC_n_CTL [2], RW. -/
def DMC_CTL_retrain_en (n : Nat) : Fld := ⟨0x280004 + n * 0x8000, 2, 1, 1⟩
/-- DMC_n_CTL [0], WO. -/
def DMC_CTL_train (n : Nat) : Fld := ⟨0x280004 + n * 0x8000, 0, 1, 0⟩
/-- DMC_n_STATUS [23:16], RO+S. -/
def DMC_STATUS_fail_dev (n : Nat) : Fld := ⟨0x280008 + n * 0x8000, 16, 8, 255⟩
/-- DMC_n_STATUS [11:8], RO+S. -/
def DMC_STATUS_step (n : Nat) : Fld := ⟨0x280008 + n * 0x8000, 8, 4, 0⟩
/-- DMC_n_STATUS [2:0], RO+S. -/
def DMC_STATUS_state (n : Nat) : Fld := ⟨0x280008 + n * 0x8000, 0, 3, 0⟩
/-- DMC_n_WEIR [31:16], RW. -/
def DMC_WEIR_age (n : Nat) : Fld := ⟨0x28000c + n * 0x8000, 16, 16, 16⟩
/-- DMC_n_WEIR [15:8], RW. -/
def DMC_WEIR_high (n : Nat) : Fld := ⟨0x28000c + n * 0x8000, 8, 8, 48⟩
/-- DMC_n_WEIR [7:0], RW. -/
def DMC_WEIR_low (n : Nat) : Fld := ⟨0x28000c + n * 0x8000, 0, 8, 16⟩
/-- DMC_n_QUEUE [16], RO+S. -/
def DMC_QUEUE_drain (n : Nat) : Fld := ⟨0x280010 + n * 0x8000, 16, 1, 0⟩
/-- DMC_n_QUEUE [15:8], RO+S. -/
def DMC_QUEUE_wr_count (n : Nat) : Fld := ⟨0x280010 + n * 0x8000, 8, 8, 0⟩
/-- DMC_n_QUEUE [5:0], RO+S. -/
def DMC_QUEUE_rd_count (n : Nat) : Fld := ⟨0x280010 + n * 0x8000, 0, 6, 0⟩
/-- DMC_n_ACT [17:16], RWI. -/
def DMC_ACT_radius (n : Nat) : Fld := ⟨0x280014 + n * 0x8000, 16, 2, 1⟩
/-- DMC_n_ACT [15:0], RWI. -/
def DMC_ACT_thresh (n : Nat) : Fld := ⟨0x280014 + n * 0x8000, 0, 16, 0x1000⟩
/-- DMC_n_RETRAIN [15:0], RW. -/
def DMC_RETRAIN_interval (n : Nat) : Fld := ⟨0x280018 + n * 0x8000, 0, 16, 1000⟩
/-- DMC_n_TEMP [0], RO+S. -/
def DMC_TEMP_fast_refresh (n : Nat) : Fld := ⟨0x28001c + n * 0x8000, 0, 1, 0⟩
/-- DMC_n_CE [31:0], RO+S. -/
def DMC_CE_count (n : Nat) : Fld := ⟨0x280020 + n * 0x8000, 0, 32, 0⟩
/-- DMC_n_NRR [31:0], RO+S. -/
def DMC_NRR_count (n : Nat) : Fld := ⟨0x280024 + n * 0x8000, 0, 32, 0⟩
/-- DMC_n_RETRAINS [31:0], RO+S. -/
def DMC_RETRAINS_count (n : Nat) : Fld := ⟨0x280028 + n * 0x8000, 0, 32, 0⟩
/-- DMC_n_STICKY [2:0], W1C. -/
def DMC_STICKY_sat (n : Nat) : Fld := ⟨0x28002c + n * 0x8000, 0, 3, 0⟩
/-- DMC_n_CE_ADDR_LO [31:0], RO+S. -/
def DMC_CE_ADDR_LO_addr (n : Nat) : Fld := ⟨0x280030 + n * 0x8000, 0, 32, 0⟩
/-- DMC_n_CE_ADDR_HI [2:0], RO+S. -/
def DMC_CE_ADDR_HI_addr (n : Nat) : Fld := ⟨0x280034 + n * 0x8000, 0, 3, 0⟩
/-- DMC_n_CE_DEV [7:0], RO+S. -/
def DMC_CE_DEV_device (n : Nat) : Fld := ⟨0x280038 + n * 0x8000, 0, 8, 0⟩
/-- DMC_n_ERR_ADDR_LO [31:0], RO+S. -/
def DMC_ERR_ADDR_LO_addr (n : Nat) : Fld := ⟨0x280040 + n * 0x8000, 0, 32, 0⟩
/-- DMC_n_ERR_ADDR_HI [2:0], RO+S. -/
def DMC_ERR_ADDR_HI_addr (n : Nat) : Fld := ⟨0x280044 + n * 0x8000, 0, 3, 0⟩
/-- DMC_n_ERR_SYN_k [31:0], RO+S. -/
def DMC_ERR_SYN_syn (n k : Nat) : Fld := ⟨0x280048 + n * 0x8000 + k * 0x4, 0, 32, 0⟩
/-- DMC_n_ERR_CMD [27:24], RO+S. -/
def DMC_ERR_CMD_requester (n : Nat) : Fld := ⟨0x280058 + n * 0x8000, 24, 4, 0⟩
/-- DMC_n_ERR_CMD [20:16], RO+S. -/
def DMC_ERR_CMD_bank (n : Nat) : Fld := ⟨0x280058 + n * 0x8000, 16, 5, 0⟩
/-- DMC_n_ERR_CMD [12], RO+S. -/
def DMC_ERR_CMD_rank (n : Nat) : Fld := ⟨0x280058 + n * 0x8000, 12, 1, 0⟩
/-- DMC_n_ERR_CMD [8], RO+S. -/
def DMC_ERR_CMD_write (n : Nat) : Fld := ⟨0x280058 + n * 0x8000, 8, 1, 0⟩
/-- DMC_n_ERR_CMD [1:0], RO+S. -/
def DMC_ERR_CMD_cause (n : Nat) : Fld := ⟨0x280058 + n * 0x8000, 0, 2, 0⟩
/-- DMC_n_ERR_BEAT_LO [31:0], RO+S. -/
def DMC_ERR_BEAT_LO_beat (n : Nat) : Fld := ⟨0x28005c + n * 0x8000, 0, 32, 0⟩
/-- DMC_n_ERR_BEAT_HI [31:0], RO+S. -/
def DMC_ERR_BEAT_HI_beat (n : Nat) : Fld := ⟨0x280060 + n * 0x8000, 0, 32, 0⟩

/-! ### DMA (14_dma.md, R420) -/

/-- DMA_BUSY_0 [31:0], RO+S. -/
def DMA_BUSY_0_busy : Fld := ⟨0x290000, 0, 32, 0⟩
/-- DMA_BUSY_1 [31:0], RO+S. -/
def DMA_BUSY_1_busy : Fld := ⟨0x290004, 0, 32, 0⟩
/-- DMA_INFLIGHT [22:16], RO+S. -/
def DMA_INFLIGHT_transfers : Fld := ⟨0x290008, 16, 7, 0⟩
/-- DMA_INFLIGHT [12:0], RO+S. -/
def DMA_INFLIGHT_blocks : Fld := ⟨0x290008, 0, 13, 0⟩
/-- DMA_n_CTL [27:24], RWI. -/
def DMA_CTL_retry (n : Nat) : Fld := ⟨0x291000 + n * 0x100, 24, 4, 3⟩
/-- DMA_n_CTL [23:16], RWI. -/
def DMA_CTL_blocks (n : Nat) : Fld := ⟨0x291000 + n * 0x100, 16, 8, 4⟩
/-- DMA_n_CTL [12:8], RWI. -/
def DMA_CTL_req_src (n : Nat) : Fld := ⟨0x291000 + n * 0x100, 8, 5, 0⟩
/-- DMA_n_CTL [5:4], RWI. -/
def DMA_CTL_prio (n : Nat) : Fld := ⟨0x291000 + n * 0x100, 4, 2, 0⟩
/-- DMA_n_CTL [1], WO. -/
def DMA_CTL_abort (n : Nat) : Fld := ⟨0x291000 + n * 0x100, 1, 1, 0⟩
/-- DMA_n_CTL [0], WO. -/
def DMA_CTL_start (n : Nat) : Fld := ⟨0x291000 + n * 0x100, 0, 1, 0⟩
/-- DMA_n_STATUS [31:24], RO+S. -/
def DMA_STATUS_retries (n : Nat) : Fld := ⟨0x291004 + n * 0x100, 24, 8, 0⟩
/-- DMA_n_STATUS [23:16], RO+S. -/
def DMA_STATUS_response (n : Nat) : Fld := ⟨0x291004 + n * 0x100, 16, 8, 0⟩
/-- DMA_n_STATUS [11:8], RO+S. -/
def DMA_STATUS_cause (n : Nat) : Fld := ⟨0x291004 + n * 0x100, 8, 4, 0⟩
/-- DMA_n_STATUS [4], RO+S. -/
def DMA_STATUS_side (n : Nat) : Fld := ⟨0x291004 + n * 0x100, 4, 1, 0⟩
/-- DMA_n_STATUS [2:0], RO+S. -/
def DMA_STATUS_state (n : Nat) : Fld := ⟨0x291004 + n * 0x100, 0, 3, 0⟩
/-- DMA_n_DESC_LO [31:6], RWI. -/
def DMA_DESC_LO_addr (n : Nat) : Fld := ⟨0x291008 + n * 0x100, 6, 26, 0⟩
/-- DMA_n_DESC_HI [3:0], RWI. -/
def DMA_DESC_HI_addr (n : Nat) : Fld := ⟨0x29100c + n * 0x100, 0, 4, 0⟩
/-- DMA_n_CUR_LO [31:0], RO+S. -/
def DMA_CUR_LO_addr (n : Nat) : Fld := ⟨0x291010 + n * 0x100, 0, 32, 0⟩
/-- DMA_n_CUR_HI [3:0], RO+S. -/
def DMA_CUR_HI_addr (n : Nat) : Fld := ⟨0x291014 + n * 0x100, 0, 4, 0⟩
/-- DMA_n_WIN_BASE_LO [31:6], RWI. -/
def DMA_WIN_BASE_LO_value (n : Nat) : Fld := ⟨0x291018 + n * 0x100, 6, 26, 0⟩
/-- DMA_n_WIN_BASE_HI [3:0], RWI. -/
def DMA_WIN_BASE_HI_value (n : Nat) : Fld := ⟨0x29101c + n * 0x100, 0, 4, 0⟩
/-- DMA_n_WIN_LEN_LO [31:6], RWI. -/
def DMA_WIN_LEN_LO_value (n : Nat) : Fld := ⟨0x291020 + n * 0x100, 6, 26, 0⟩
/-- DMA_n_WIN_LEN_HI [4:0], RWI. -/
def DMA_WIN_LEN_HI_value (n : Nat) : Fld := ⟨0x291024 + n * 0x100, 0, 5, 0⟩
/-- DMA_n_ERR_ADDR_LO [31:0], RO+S. -/
def DMA_ERR_ADDR_LO_addr (n : Nat) : Fld := ⟨0x291028 + n * 0x100, 0, 32, 0⟩
/-- DMA_n_ERR_ADDR_HI [3:0], RO+S. -/
def DMA_ERR_ADDR_HI_addr (n : Nat) : Fld := ⟨0x29102c + n * 0x100, 0, 4, 0⟩
/-- DMA_n_POS01 [31:16], RO+S. -/
def DMA_POS01_i1 (n : Nat) : Fld := ⟨0x291030 + n * 0x100, 16, 16, 0⟩
/-- DMA_n_POS01 [15:0], RO+S. -/
def DMA_POS01_i0 (n : Nat) : Fld := ⟨0x291030 + n * 0x100, 0, 16, 0⟩
/-- DMA_n_POS2 [23:0], RO+S. -/
def DMA_POS2_i2 (n : Nat) : Fld := ⟨0x291034 + n * 0x100, 0, 24, 0⟩
/-- DMA_n_DONE_BYTES_LO [31:0], RO+S. -/
def DMA_DONE_BYTES_LO_bytes (n : Nat) : Fld := ⟨0x291038 + n * 0x100, 0, 32, 0⟩
/-- DMA_n_DONE_BYTES_HI [31:0], RO+S. -/
def DMA_DONE_BYTES_HI_bytes (n : Nat) : Fld := ⟨0x29103c + n * 0x100, 0, 32, 0⟩
/-- DMA_n_DESCS [31:0], RO+S. -/
def DMA_DESCS_count (n : Nat) : Fld := ⟨0x291040 + n * 0x100, 0, 32, 0⟩

/-! ### GIO (18_resets_domains_faults.md, R518) -/

/-- GIO_CTL [0], RW. -/
def GIO_CTL_permit_en : Fld := ⟨0x2a0000, 0, 1, 0⟩
/-- GIO_STATUS [9], W1C. -/
def GIO_STATUS_quench_b_seen : Fld := ⟨0x2a0004, 9, 1, 0⟩
/-- GIO_STATUS [8], W1C. -/
def GIO_STATUS_quench_a_seen : Fld := ⟨0x2a0004, 8, 1, 0⟩
/-- GIO_STATUS [3], RO+S. -/
def GIO_STATUS_wrst : Fld := ⟨0x2a0004, 3, 1, 0⟩
/-- GIO_STATUS [2], RO+S. -/
def GIO_STATUS_permit : Fld := ⟨0x2a0004, 2, 1, 0⟩
/-- GIO_STATUS [1], RO+S. -/
def GIO_STATUS_quench_b : Fld := ⟨0x2a0004, 1, 1, 0⟩
/-- GIO_STATUS [0], RO+S. -/
def GIO_STATUS_quench_a : Fld := ⟨0x2a0004, 0, 1, 0⟩
/-- GIO_IN [15:0], RO+S. -/
def GIO_IN_bits : Fld := ⟨0x2a0008, 0, 16, 0⟩
/-- GIO_OUT [15:0], RW. -/
def GIO_OUT_bits : Fld := ⟨0x2a000c, 0, 16, 0⟩
/-- GIO_OUT_LEVEL [15:0], RO+S. -/
def GIO_OUT_LEVEL_bits : Fld := ⟨0x2a0010, 0, 16, 0⟩
/-- GIO_OUT_OWNER [15:0], RO+S. -/
def GIO_OUT_OWNER_bits : Fld := ⟨0x2a0014, 0, 16, 0⟩
/-- GIO_QA_COUNT [31:0], RO+S. -/
def GIO_QA_COUNT_value : Fld := ⟨0x2a0018, 0, 32, 0⟩
/-- GIO_QB_COUNT [31:0], RO+S. -/
def GIO_QB_COUNT_value : Fld := ⟨0x2a001c, 0, 32, 0⟩
/-- GIO_STICKY [1:0], W1C. -/
def GIO_STICKY_sat : Fld := ⟨0x2a0020, 0, 2, 0⟩

end Sys2Proof.Reg
end

