-- ==== Sys2Proof/Config.lean ====
section
/-! DEFINITION. What the spec leaves open as a value: free values, opaque constants with no body that
anything can evaluate. Each is applied to the data it depends on, or to the state's counter of free
values (State: core.fresh). -/

namespace Sys2Proof.Config

/-- The byte that DRAM holds at an address that nothing has written since its contents were last lost
(13_dram_and_memory_sluice.md, R556: undefined). The first argument counts the losses. DESIGN CHOICE, log entry 3. -/
opaque dramUndef : Nat → Nat → BitVec 8

/-- Random numbers the device draws (16_management_roles_crock.md, R459: session id bits and X25519
private key; 15_network_time_redundancy.md, R428: spacing of Delay_Req). DESIGN CHOICE, log entry 4. -/
opaque random : Nat → Nat

/-- The part within ±1 LSB that 08_melt_pool_features.md, R257, leaves to the extractor's rounding.
DESIGN CHOICE, log entry 5. -/
opaque featRound : Nat → Nat

/-- A measured analogue quantity that the spec does not give (17_thermal_calibration_snapshots.md,
R482: trims and measurements). DESIGN CHOICE, log entry 7. -/
opaque measured : Nat → Nat

/-- The scanner command that a correction grid with pitch 0 gives (04_furrows.md, R123 divides by the pitch):
scanner axis, and bed position. DESIGN CHOICE, log entry 22. -/
opaque gridUndef : Nat → Int → Int → BitVec 32

/-- The values of a tap point whose stage a context does not run: the bands that no interpolation gives, and the
temperature without temperature stage (07_sieve_pipeline.md, R242, R235, R236). Arguments: the run's draw, the place in
the image. DESIGN CHOICE, log entry 27. -/
opaque stageUndef : Nat → Nat → BitVec 16

/-- What the balls show to the boundary cells at a capture, and the bits of the instruction register's capture beyond
IEEE 1149.1's two (19_balls_electrical_package.md, R547). Arguments: the capture, the cell. PRESUMED, log entry 8. -/
opaque captured : Nat → Nat → Bool

end Sys2Proof.Config
end

