-- ==== Sys2Proof/Machine/State.lean ====
section
/-! DEFINITION. The state of the device: every register field in one store (Machine/Regs.lean names them), and,
unit by unit, the state that no register shows whole: sessions, queues, plans, tables, buffers. Plain data. -/

namespace Sys2Proof.Machine

/-- Reasons a step can stop with a fault. No command of this device faults the model: every access the spec
forbids ends in a bus response or a refusal reply, which are next states. Safe. -/
inductive Fault
  /-- Never raised: kept so that the type of faults is inhabited. Safe. -/
  | unreachable
  deriving DecidableEq, Repr

/-- Reasons a command can be refused by the model. -/
inductive Refusal
  /-- Raised by an arm of `exec` whose command has no meaning yet. Safe. -/
  | notModelled (mnemonic : String)
  deriving DecidableEq, Repr

/-- A sparse store of naturals by key: keys strictly rising, no entry equal to what an unlisted key reads as. -/
abbrev Store := List (Nat × Nat)

/-- A packet or frame that the device sends. `out` of the state lists what the latest command sent. -/
inductive Tx
  /-- A Serair packet (R68): path, destination, flags, claim, session, sequence, opcode or notice code, status,
  parameters, and the key of its tag (none: the all-zero tag of R72). -/
  | serair (path : Path) (dst : Src) (flags claim session seq op status : Nat) (body : List Byte)
      (key : Option (List Byte))
  /-- An ARP reply (R424): path, target MAC, target IPv4. -/
  | arp (path : Path) (mac ip : Nat)
  /-- A Delay_Req (R427): path, transport, sequence id. -/
  | delayReq (path : Path) (udp : Bool) (seqId : Nat)
  /-- The bytes of an SPI transaction that the controller sends (R455). -/
  | spi (bytes : List Byte)
  /-- The answer of a register access to its master: response and data (R26). -/
  | bus (m : Master) (r : Resp) (data : List Nat)
  deriving DecidableEq, Repr

/-- The deferred final result that a session waits for (R60, R86 RESULT): slot, session id, sequence, opcode. -/
structure Pend where
  slot : Nat
  sid : Nat
  seq : Nat
  op : Nat
  deriving DecidableEq, Repr

/-! ### Sessions, Headgate, jobs (02, 03, 16) -/

/-- What the Headgate keeps of one accepted sequence (R75): 1 queued, 2 running, 3 ended, and the status. -/
structure SeqRec where
  seq : Nat
  st : Nat
  status : Nat
  deriving DecidableEq, Repr

/-- A cached reply (R77). -/
structure Reply where
  seq : Nat
  op : Nat
  claim : Nat
  status : Nat
  body : List Byte
  deriving DecidableEq, Repr

/-- A notice waiting to be sent (R85): code, status, parameters, sequence. -/
structure Notice where
  code : Nat
  status : Nat
  seq : Nat
  body : List Byte
  deriving DecidableEq, Repr

/-- One session slot beside its SEC_SLOT registers (R73, R75, R85): the key, the highest sequence accepted,
the records of sequences h − 63 to h, the 8 latest replies, the notice sequence, masks and queue, the source
address seen on each path, the beat and order of its last packet and of its end. -/
structure Session where
  id : Nat
  key : List Byte
  h : Nat
  seqs : List SeqRec
  cache : List Reply
  nseq : Nat
  nmask : Nat
  emask : Nat
  notices : List Notice
  srcA : Option Src
  srcB : Option Src
  last : Nat
  ended : Nat
  deriving DecidableEq, Repr

/-- A free session slot. -/
def Session.free : Session := ⟨0, [], 0, [], [], 1, 0, 0, [], none, none, 0, 0⟩

/-- One key slot (R458): the Ed25519 key and the order in which it was presented. -/
structure KeySlot where
  key : List Byte
  order : Nat
  deriving DecidableEq, Repr

/-- The signed envelope in force (R460): its id and signing key id, bed bounds, the guard's separation, the quota, the
Kettle limits, by channel its maximum power, mark and jump speed limits and field polygon, and by axis its travel
bounds, speed limit, largest current and whether it needs homing. -/
structure Envelope where
  id : Nat
  keyId : Nat
  xMin : Int
  yMin : Int
  xMax : Int
  yMax : Int
  sep : Nat
  quotaN : Nat
  quotaW : Nat
  duty : Nat
  cur : Nat
  pmax : List Nat
  mark : List Nat
  jump : List Nat
  poly : List (List (Int × Int))
  axes : List (Int × Int × Nat × Nat × Bool)
  deriving DecidableEq, Repr

/-- Role and session engine. -/
structure Sec where
  sessions : List Session
  keys : List KeySlot
  order : Nat
  envelope : Option Envelope
  verify : List (Pend × Nat × Nat)
  deriving DecidableEq, Repr

/-- A command in the Headgate queue, its origin, session and opcode, and whether it has had DEFERRED (R60, R83). -/
structure Queued where
  o : Origin
  cmd : Instr
  sid : Nat
  op : Nat
  arrived : Nat
  deferred : Bool
  deriving DecidableEq, Repr

/-- A command whose reply comes when its work ends, within its bound: its origin, session, opcode, and whether it
has had DEFERRED already. -/
structure Waiter where
  o : Origin
  sid : Nat
  op : Nat
  late : Bool
  deriving DecidableEq, Repr

/-- A window command on the Headgate register port that waits (R96–R98): who waits, the command, the words done, the
values read, and the beat of the first attempt of the present access. -/
structure PortCmd where
  w : Waiter
  cmd : Instr
  idx : Nat
  got : List Nat
  since : Nat
  deriving DecidableEq, Repr

/-- Headgate: the queue, the latest authenticated heartbeat of each path, and a change of control that
waits for the running command (R438): the new path, and whether by a higher claim; and the beat on which the command being
carried out was received; and the window commands on its register port, the first in progress. -/
structure Headgate where
  queue : List Queued
  hbA : Option Nat
  hbB : Option Nat
  switchTo : Option (Path × Bool)
  rcvd : Nat
  port : List PortCmd
  deriving DecidableEq, Repr

/-- A hardware semaphore (R100, R102): owner class (0 free, 1 core, 2 session), owner, broken flag. -/
structure Sem where
  cls : Nat
  owner : Nat
  broken : Bool
  deriving DecidableEq, Repr

/-- A channel entry of a job descriptor (R95). -/
structure ChanEntry where
  chan : Nat
  s : Nat
  loops : Nat
  ctx : Nat
  list : Nat
  len : Nat
  rate : Nat
  tol : Nat
  deriving DecidableEq, Repr

/-- A context entry of a job descriptor (R95). -/
structure CtxEntry where
  ctx : Nat
  sieve : Nat
  phase : Nat
  f : Nat
  w : Nat
  h : Nat
  maxD : Nat
  deriving DecidableEq, Repr

/-- A stream entry of a job descriptor (R95). -/
structure StreamEntry where
  kind : Nat
  inst : Nat
  base : Nat
  len : Nat
  rate : Nat
  deriving DecidableEq, Repr

/-- A vector record as fetched (R104), with its index in the list. -/
structure VecRec where
  idx : Nat
  x : Int
  y : Int
  speed : Nat
  power : Nat
  pset : Nat
  kind : Nat
  flags : Nat
  group : Nat
  arg : Nat
  spacing : Nat
  seq : Nat
  deriving DecidableEq, Repr

/-- A list as the pre-walk found it (R53): its channel, its records, the index of the first that breaks a rule of R105,
R109 or R110 by itself, the commanded position from which the pre-walk takes it to run, and whether DRAM gave it. -/
structure JobList where
  chan : Nat
  recs : List VecRec
  bad : Option Nat
  pos : Int × Int
  read : Bool
  deriving DecidableEq, Repr

/-- A job (R94, R95): state 0 LOADED, 1 ADMITTED, 2 RUNNING, 3 DONE, 4 ABORTED; whether its pre-walk has ended and what
it found; its entries, its start beat, the deadline offsets by context, and its frozen channels with
the sequences they reached. -/
structure Job where
  id : Nat
  layer : Nat
  st : Nat
  walked : Bool
  chans : List ChanEntry
  ctxs : List CtxEntry
  streams : List StreamEntry
  start : Option Nat
  deadlines : List (Nat × Nat)
  frozen : List (Nat × Nat)
  lists : List JobList
  deriving DecidableEq, Repr

/-- A commit of a correction or temperature table that waits or is under way (R124): kind (0 grid, 1 temperature), instance,
whether the copy has begun, whether it waits for its semaphore, and who waits for the reply. -/
structure Commit where
  kind : Nat
  inst : Nat
  begun : Bool
  bySem : Bool
  waiters : List Waiter
  deriving DecidableEq, Repr

/-! ### Network, PTP and time (15, 02) -/

/-- A foreign master of a port (R428): its Announce data and the beats of its last two Announces. -/
structure Foreign where
  a : Announce
  last : Nat
  prev : Option Nat
  deriving DecidableEq, Repr

/-- One port's slave clock (R428, R429): foreign masters, the selected master, the Sync in progress with its
times in 0.1 ns, the pending Delay_Req, the latest offsets with their receive times, intervals, and Sync age. -/
structure PtpPort where
  foreign : List Foreign
  master : Option (Nat × Nat)
  sync : Option (Nat × Int × Int × Bool)
  ms : Option (Int × Int)
  syncUdp : Bool
  req : Option (Nat × Int)
  reqSeq : Nat
  offsets : List (Int × Int)
  logSync : Int
  logDelay : Int
  lastSync : Option Nat
  nextReq : Nat
  deriving DecidableEq, Repr

/-- A port without master or exchange. -/
def PtpPort.idle : PtpPort := ⟨[], none, none, none, false, none, 0, [], 0, 0, none, 0⟩

/-- Time servo and step (R430–R433, R43, R44): integral in parts per 10^12, trim to apply at the next beat, the
fixed step (beat, stretch, device time of the opening of the beat after it, rho), and whether control has moved since the
step was fixed. -/
structure Servo where
  integ : Int
  newTrim : Option Int
  step : Option (Nat × Nat × Int × Int)
  moved : Bool
  deriving DecidableEq, Repr

/-- A time pulse output (R434): device time of the next rise, beat of the next fall, beat from which the
setting acts. -/
structure Pulse where
  next : Option Int
  fall : Option Nat
  effective : Nat
  deriving DecidableEq, Repr

/-- Ports and time. -/
structure Net where
  portA : PtpPort
  portB : PtpPort
  servo : Servo
  pulses : List Pulse
  modeTry : List Nat
  deriving DecidableEq, Repr

/-! ### Crock, boot, domains, thermal, calibration, snapshot, pins (16, 17, 18) -/

/-- An event at the Crock input (R462): code, instance, eight parameter bytes, device time in ns, beat. -/
structure Event where
  code : Nat
  inst : Nat
  par : List Byte
  time : Int
  beat : Nat
  deriving DecidableEq, Repr

/-- A Crock record (R462); `beat` is the beat of the first occurrence, on which the span rests (R463). -/
structure Rec where
  time : Int
  code : Nat
  inst : Nat
  par : List Byte
  span : Nat
  count : Nat
  beat : Nat
  deriving DecidableEq, Repr

/-- The Crock's memories (R462, R468): the array, oldest first, and the last-gasp file, oldest first. -/
structure CrockMem where
  records : List Rec
  lastGasp : List Rec
  deriving DecidableEq, Repr

/-- The Crock beside its memories: the input queue, the events dropped since the last EVENTS_DROPPED, and
the clears asked for (R466), the first in progress: who waits, and the role and key id of the session. -/
structure Crock where
  queue : List Event
  dropped : Nat
  clearing : List (Waiter × Nat × Nat)
  deriving DecidableEq, Repr

/-- What runs (R447): version, kind, and version of the Ladle microcode. -/
structure Image where
  version : Nat
  kind : Nat
  ladVer : Nat
  deriving DecidableEq, Repr

/-- Boot ROM, image memory and SPI port (R446–R456): the words of the two image areas by word offset, the running image,
where the image that is verified came from and whether a test image may start, the verification under way with the cause
of its IMAGE_STARTED, the stage under way (who waits, address, length), whether PD_FABRIC has been off since the image
last started, and what the SPI port shows of its last accesses. -/
structure Mgt where
  area0 : Store
  area1 : Store
  running : Option Image
  source : Nat
  testOk : Bool
  verify : Option Nat
  stage : Option (Pend × Nat × Nat)
  fabricOff : Bool
  spiApplied : Bool
  spiErr : Bool
  spiResp : Nat
  deriving DecidableEq, Repr

/-- A domain being switched (R504–R507): domain, action (0 on, 1 quiesced off, 2 forced off), beat at which its
own switch started. -/
structure SwDom where
  dom : Nat
  act : Nat
  started : Option Nat
  deriving DecidableEq, Repr

/-- A reset in progress (R500, R479): its first beat w, cause code, whether its beat w + 1 and its beat w + 2 have
acted, whether PD_MOTION is held, and the domains whose switch it ended (R503). -/
structure ResetRun where
  w : Nat
  cause : Nat
  quenched : Bool
  held : Bool
  motionHeld : Bool
  endOff : List Nat
  deriving DecidableEq, Repr

/-- Power-domain controller: power-on reset and the level of PORST_n behind it, the switches in progress in their order
and the requests they answer, a deferred switch-off (R508: mask, forced, beat), a reset in progress, the beat of a
commanded one, openings at which WRST_n has read low, the watchdog's last restart, the supplies out of range, and the
beats from which supplies and clock have been good for long enough (R497). -/
structure Pwr where
  porst : Bool
  pinLow : Bool
  sw : List SwDom
  swPend : List Pend
  later : Option (Nat × Bool × Nat)
  reset : Option ResetRun
  warmAt : Option Nat
  wrstLow : Nat
  wdtKick : Option Nat
  supplyOut : List Nat
  supplyGood : Nat
  clockGood : Nat
  deriving DecidableEq, Repr

/-- A pulse or level that a Furrow's SET_OUTPUT left on a general output (R126, R514). -/
structure OutPulse where
  out : Nat
  chan : Nat
  clear : Nat
  deriving DecidableEq, Repr

/-- General inputs and outputs: the sample of the inputs before the present one, pending pulse clears. -/
structure Gio where
  prevIn : Nat
  pulses : List OutPulse
  deriving DecidableEq, Repr

/-- Thermal monitor (R476–R480): the beat of the hardware shutdown in progress, the beat since which every good sensor has
read below 95 °C, the beat on which the applied reduction left 0, the readings of the latest conversion with their fault
and stale bits, until they are shown (R474), and the sensors whose shutdown comparators are tripped (R479, R480). -/
structure Thm where
  shutdown : Option Nat
  coolSince : Option Nat
  since : Option Nat
  next : List (Nat × Bool × Bool)
  tripped : List Nat
  deriving DecidableEq, Repr

/-- A forced calibration (R485): who waits, the items named, running, completed, the first failure in item
order with its cause. -/
structure CalRunState where
  pend : Pend
  items : Nat
  done : Nat
  fail : List (Nat × Nat)
  deriving DecidableEq, Repr

/-- A CAM_DARK round (R484): context, frames of the round, frames seen, frames left out, sums by pixel. -/
structure DarkRound where
  ctx : Nat
  total : Nat
  seen : Nat
  out : Nat
  sums : List Nat
  deriving DecidableEq, Repr

/-- Calibration unit: forced rounds, accumulated trim steps and steps still to apply by item × 65536 + instance, the
corrections that stand at the end of their range, the conversions of a SENSOR round so far, the CAM_DARK round, and the beat of
the latest background equaliser step. -/
structure Cal where
  runs : List CalRunState
  trims : List (Nat × Int)
  todo : List (Nat × Int)
  limit : List Nat
  sensor : Option Nat
  dark : Option DarkRound
  laneAt : Nat
  deriving DecidableEq, Repr

/-- Snapshot unit: triggers of the present beat, the copies, the level of SNAP_OUT's pulse, views per master
(R490). -/
structure Snp where
  trig : Nat
  copies : Store
  views : List Master
  outHigh : Option Nat
  deriving DecidableEq, Repr

/-! ### Furrows, Bed Sluice, head links (04, 05, 06) -/

/-- A record in the fetch buffer: the record, its start point in list order (none: the commanded position when the
first vector becomes ready, R107), and whether it has run ahead already (R135). -/
structure BufRec where
  r : VecRec
  start : Option (Int × Int)
  ahead : Bool
  deriving DecidableEq, Repr

/-- A straight segment of `n` beats from `first` on (R113): the command of beat first + i is
start + (i + 1)/n × (end − start). A hold has equal ends. -/
structure Seg where
  first : Nat
  n : Nat
  x0 : Int
  y0 : Int
  x1 : Int
  y1 : Int
  deriving DecidableEq, Repr

/-- A committed vector (R115), a control record whose beat is fixed (R126–R128), or a park move (R145): its record;
its first beat, positioning and corner hold included; its first beat s; its end beat; its segments; its start point
and the point where it leaves the beam; the wait of its log entry; its log flags; whether its positioning jump
returns from deferral; the time of its own off edge when it is lit; whether the next vector chains to it (R118);
the intermediate break points passed (R131); whether it is the first lit vector after a JUMP or positioning jump (R289);
whether it has started and ended. -/
structure Plan where
  r : VecRec
  park : Bool
  beg : Nat
  s : Nat
  endBeat : Nat
  segs : List Seg
  start : Int × Int
  endPt : Int × Int
  wait : Nat
  deferred : Bool
  positioned : Bool
  corner : Bool
  underrun : Bool
  back : Bool
  offAt : Option Int
  joined : Bool
  brk : Nat
  hatch : Bool
  started : Bool
  ended : Bool
  deriving DecidableEq, Repr

/-- A lit interval (R119), in ns from the opening of beat 0, and the own start, power and first beat of its vectors
in execution order (R120). -/
structure Lit where
  on : Int
  off : Int
  starts : List (Int × Nat × Nat)
  deriving DecidableEq, Repr

/-- A formed vector log entry (R137). -/
structure LogEnt where
  beat : Nat
  seq : Nat
  group : Nat
  wait : Nat
  kind : Nat
  flags : Nat
  deriving DecidableEq, Repr

/-- One beam channel beside its FUR registers. `running`: its list runs, or will from `startBeat` on; `ended`: it has
reached END; `loops`: the loop enables of its channel entry. The fetch: buffer, bursts asked for and arrived,
whether END has arrived, the seq that must follow, the end point of the last motion record fetched. The execution:
plans in execution order, lit intervals, direction and end beat of the running chain, position while no plan
runs, the beat on which the next vector becomes ready, the beat on which the head became ready, whether a WAIT_INPUT waits,
tile sets granted and still needed (by record index), the records among them that only a probe was granted
for, the record whose request stands, the beat at which a fetch stall began, whether a stall precedes the next vector, whether a JUMP has been
committed since the last lit vector, records
started in the present window of 1,000 beats, the beat whose window end has been carried out. The quench: sources to act (beat, cause, fault cause), the beat of
a quench not yet confirmed, the entries to form then, whether a freeze holds the channel; `armAt`: the beat on which an arming of the step beat takes
effect (R46). The log: entries of
the partial burst, entries formed, the beat of the last, whether a burst of this job has ended in an error response. -/
structure Furrow where
  running : Bool
  ended : Bool
  startBeat : Nat
  begun : Bool
  loops : Nat
  buf : List BufRec
  asked : Nat
  got : Nat
  fetchDone : Bool
  expectSeq : Option Nat
  lastPt : Option (Int × Int)
  plans : List Plan
  lits : List Lit
  chain : Option (Nat × Option (Int × Int))
  pos : Int × Int
  t : Nat
  headReady : Option Nat
  waiting : Bool
  sets : List (Nat × List Nat)
  probed : List Nat
  reqIdx : Option Nat
  stall : Option Nat
  stalledNext : Bool
  jumped : Bool
  winCount : Nat
  quenchReq : List (Nat × Nat × Nat)
  armAt : Option Nat
  quenchedAt : Option Nat
  qLog : List LogEnt
  frozen : Bool
  log : List LogEnt
  logIdx : Nat
  lastJoin : Nat
  logBad : Bool
  deriving DecidableEq, Repr

/-- A channel after reset. -/
def Furrow.init : Furrow where
  running := false
  ended := false
  startBeat := 0
  begun := false
  loops := 0
  buf := []
  asked := 0
  got := 0
  fetchDone := false
  expectSeq := none
  lastPt := none
  plans := []
  lits := []
  chain := none
  pos := (0, 0)
  t := 0
  headReady := none
  waiting := false
  sets := []
  probed := []
  reqIdx := none
  stall := none
  stalledNext := false
  jumped := false
  winCount := 0
  quenchReq := []
  armAt := none
  quenchedAt := none
  qLog := []
  frozen := false
  log := []
  logIdx := 0
  lastJoin := 0
  logBad := false

/-- A correction grid (R122): points by window word, and the geometry words, sparse by word offset; the
shadow and the active copy. -/
structure Grid where
  shadow : Store
  active : Store
  deriving DecidableEq, Repr

/-- A tile that is not FREE (R153, R158): its holder; when it has none, its last holder and the beat from which it
is FREE; whether its holder's gate has been on meanwhile; the channel it is reserved for; whether an incursion into the
band has been logged for its grant, and the number of that grant (R171). -/
structure Tile where
  holder : Option Nat
  last : Nat
  freeAt : Nat
  lit : Bool
  resFor : Option Nat
  incursion : Bool
  grant : Nat
  deriving DecidableEq, Repr

/-- A pending request (R157): path tiles, whole tile set, whether the path touches a tile outside the grid, vector
sequence, hold estimate; consecutive losses, the beat at which it became urgent, the beat of its next
evaluation, and its latest outcome (R175). -/
structure Req where
  path : List Nat
  set : List Nat
  outside : Bool
  seq : Nat
  hr : Nat
  losses : Nat
  urgent : Option Nat
  nextEval : Nat
  outcome : Option Nat
  deriving DecidableEq, Repr

/-- The tile grid in force: corner, edge in nm, columns, rows, whether valid, the bed bounds (x0, y0, x1, y1). -/
structure TileGrid where
  x0 : Int
  y0 : Int
  e : Int
  cols : Nat
  rows : Nat
  valid : Bool
  bed : Option (Int × Int × Int × Int)
  deriving DecidableEq, Repr

/-- Bed Sluice: tiles that are not FREE by number j × 256 + i, requests by channel, round-robin pointers by class,
grants in the present quota window and channels masked by the quota from a beat on, the beat from which quota
windows count, the guard's trip for a beat (pairs with their squared distance), and whether the band's source is
lost (R172), the beats whose slot-table wrap and quota-window end have been carried out, the grants made so far, and the
tiles and the grid as they stood at the opening of the present beat (R153). -/
structure Slb where
  tiles : List (Nat × Tile)
  reqs : List (Nat × Req)
  ptrs : List Nat
  counts : List (Nat × Nat)
  qmask : List (Nat × Nat)
  winStart : Nat
  trip : Option (Nat × List (Nat × Nat × Nat))
  rcLost : Bool
  wrapDone : Nat
  quotaDone : Nat
  grants : Nat
  shown : List (Nat × Tile)
  shownGrid : Option TileGrid
  deriving DecidableEq, Repr

/-- A downlink frame (R182, R192): the beat m whose marker it follows, its words before the CRC, whether it is killed,
the payload bit that an injection inverts (R211), and its length on the line from its marker to the next. -/
structure DownFrame where
  beat : Nat
  words : List Nat
  killed : Bool
  injected : Option Nat
  bits : Nat
  deriving DecidableEq, Repr

/-- A mailbox request (R199): tag, operation, address, data, whether it is the Sieve's, the beat of its latest
sending, resends, and whether the block it belonged to has been given up. -/
structure Mbx where
  tag : Nat
  op : Nat
  addr : Nat
  data : Nat
  sieve : Bool
  sent : Nat
  tries : Nat
  dead : Bool
  deriving DecidableEq, Repr

/-- A receive lane's pattern checker (R211): its shift register, the error-free bits before sync, the bits checked in
sync, and where among them the latest errors lie. -/
structure Checker where
  reg : Nat
  run : Nat
  pos : Nat
  errs : List Nat
  deriving DecidableEq, Repr

/-- A lane beside its registers: good frames and missing markers in a row (R204); whether the next frame or bit is to
carry an injected error (R211); an uplink lane's last beat with a frame, an overview camera's last beat count (R209); in
a test mode (R210) the pattern generator's shift register and bits sent, the pattern checker, and the last beat whose line
it checked. -/
structure Lane where
  good : Nat
  miss : Nat
  inject : Bool
  lastFrame : Option Nat
  gen : Nat
  sent : Nat
  chk : Checker
  checked : Option Nat
  deriving DecidableEq, Repr

/-- A lane after reset. -/
def Lane.init : Lane := ⟨0, 0, false, none, 0, 0, ⟨0, 0, 0, []⟩, none⟩

/-- One channel's link: the downlink frame of the present beat and that of the beat before, whose CRC word leaves in
the present beat (R189); the mailbox request outstanding, those that wait, the last tag; and the actual position taken
with its beat (R206). -/
structure Link where
  down : Option DownFrame
  prev : Option DownFrame
  mbx : Option Mbx
  queue : List Mbx
  tag : Nat
  actual : Option (Nat × Int × Int)
  deriving DecidableEq, Repr

/-- A link after reset. -/
def Link.init : Link := ⟨none, none, none, [], 0, none⟩

/-- Beam side. -/
structure Beam where
  fur : List Furrow
  grids : List Grid
  slb : Slb
  lanes : List Lane
  links : List Link
  deriving DecidableEq, Repr

/-! ### Sieve pipelines and features (07, 08) -/

/-- A frame header as received (R197): width, height, depth code, sequence, echoed settings id. -/
structure FrameHdr where
  w : Nat
  h : Nat
  depth : Nat
  seq : Nat
  sid : Nat
  expBeat : Nat
  deriving DecidableEq, Repr

/-- A frame being received (R225, R247): its number j, header, accepted words (newest first), whether excess
words came, whether a bad uplink frame followed the header or the frame's input has ended early, whether its end word came,
its header beat, and flags set while it was received. -/
structure RxFrame where
  j : Nat
  hdr : Option FrameHdr
  words : List Nat
  excess : Bool
  bad : Bool
  ended : Bool
  at0 : Nat
  flags : Nat
  deriving DecidableEq, Repr

/-- A closed frame (R220, R226): context, the first opening beat of the context's run that it belongs to, number,
sequence, close beat, flags, settings id, pixel words. -/
structure Closed where
  ctx : Nat
  f0 : Nat
  j : Nat
  seq : Nat
  close : Nat
  flags : Nat
  sid : Nat
  words : List Nat
  deriving DecidableEq, Repr

/-- The features of one frame (R256): values as the registers hold them, and the validity word. -/
structure Feat where
  peak : Nat
  mean : Nat
  area0 : Nat
  area1 : Nat
  area2 : Nat
  cx : Nat
  cy : Nat
  length : Nat
  width : Nat
  orient : Nat
  spatter : Nat
  blobs : Nat
  validity : Nat
  deriving DecidableEq, Repr

/-- Features on their way to FX (R260): the frame, its delivery beat, parameter generation, features. -/
structure Delivery where
  f : Closed
  beat : Nat
  pgen : Nat
  feat : Feat
  deriving DecidableEq, Repr

/-- The outcome of a run that has started (R221): the frame, the FCLK cycle at which its results are complete (counted
from the opening of beat 0 as 250 per beat), the generations, its size and bands, the payloads of the tap points in order,
zone averages, a history for DRAM with its address (R248), and the features. -/
structure RunOut where
  f : Closed
  doneAt : Nat
  pgen : Nat
  fpnGen : Nat
  tempGen : Nat
  w : Nat
  h : Nat
  payloads : List (List Byte)
  zones : List (List Nat)
  hist : Option (Nat × List Nat)
  feat : Feat
  deriving DecidableEq, Repr

/-- An exposure settings block in progress (R239–R241): its id, the sequence of the frame at whose opening it
began, the head register writes still to send (address, value), whether its COMMIT has been sent, and whether it is a
start block. -/
structure ExpBlock where
  id : Nat
  seq : Nat
  todo : List (Nat × Nat)
  committing : Bool
  start : Bool
  deriving DecidableEq, Repr

/-- One camera context beside its SVA, SVB and FX registers: the Sieve it is bound to; its first opening beat f0, and
the beat at which a context started alone will start; frames opened and frames closed since the start; the next
sequence number and that of the run's first frame; the active copy of its P registers, the active tables (words by byte offset; for an overview context the
table's DRAM address); the frame being received and the one whose window has ended but whose close beat has not come;
overview frames closed whose line runs go on; history; whether it restarts with the next frame; the settings ID of
the last closed frame; the exposure block, and whether a committed ID has yet to be echoed; decimation counts of the tap
points, records of each point in the present 16 (R477), and of the feature records; the beat of the last accepted
overview header, the line runs started of the present overview frame, the temperature table and its generation as that
frame's first line run found them (R230); deliveries to come; whether a fixed-pattern commit waits for a run. -/
structure Ctx where
  sieve : Nat
  f0 : Nat
  startAt : Option Nat
  opened : Nat
  closed : Nat
  nextSeq : Nat
  s0 : Nat
  active : Store
  fpnAct : Store
  tempAct : Store
  rx : Option RxFrame
  closing : Option RxFrame
  ovClosed : List Closed
  hist : Option (List Nat)
  restart : Bool
  lastSid : Option Nat
  block : Option ExpBlock
  applyWait : Bool
  dec : List Nat
  sixteen : List Nat
  recDec : Nat
  ovLast : Option Nat
  ovRun : Nat
  ovTab : Store × Nat
  deliveries : List Delivery
  fpnWait : Bool
  fpnUntil : Nat
  deriving DecidableEq, Repr

/-- A context after reset (R215): bound to Sieve A. -/
def Ctx.init : Ctx where
  sieve := 0
  f0 := 0
  startAt := none
  opened := 0
  closed := 0
  nextSeq := 0
  s0 := 0
  active := []
  fpnAct := []
  tempAct := []
  rx := none
  closing := none
  ovClosed := []
  hist := none
  restart := true
  lastSid := none
  block := none
  applyWait := false
  dec := [0, 0, 0, 0, 0, 0]
  sixteen := [0, 0, 0, 0, 0, 0]
  recDec := 0
  ovLast := none
  ovRun := 0
  ovTab := ([], 0)
  deliveries := []
  fpnWait := false
  fpnUntil := 0

/-- One Sieve (R221): closed frames that wait, the FCLK cycle until which a run occupies the pipeline (counted as in
`RunOut`), and runs whose results are not complete. -/
structure Sieve where
  waiting : List Closed
  busy : Nat
  runs : List RunOut
  deriving DecidableEq, Repr

/-- A Sieve with nothing to do. -/
def Sieve.init : Sieve := ⟨[], 0, []⟩

/-- Image side. -/
structure Img where
  ctxs : List Ctx
  sieves : List Sieve
  deriving DecidableEq, Repr

/-- The image side after reset. -/
def Img.init : Img := ⟨List.replicate 32 Ctx.init, [Sieve.init, Sieve.init]⟩

/-! ### Ladle engines (09) -/

/-- One loop (R271, R277, R278, R285): integrator, derivative filter, the delay lines of the two notches
(x(k−1), x(k−2), w(k−1), w(k−2)), previous error and measurement, previous output, whether no sample has
updated since the clear, whether the last updating sample was above pw_lim, the pre-warning window (enabled
samples left, trips), samples missed in fallback, a switch to make at the next sample to open (in or out, by the host,
the beat of the write or trip), the next sample number, the outputs with the beat from which each applies, whether the
last sample was idle, whether the job has had an enabled sample, and whether the repetitive stage has been other than OFF
during it (R291). -/
structure Loop where
  integ : Int
  df : Int
  n1 : Int × Int × Int × Int
  n2 : Int × Int × Int × Int
  ePrev : Int
  mPrev : Int
  yPrev : Int
  fresh : Bool
  above : Bool
  win : Option (Nat × Nat)
  fbMiss : Nat
  switch : Option (Bool × Bool × Nat)
  next : Nat
  outs : List (Nat × Int)
  idle : Bool
  begun : Bool
  rcUsed : Bool
  deriving DecidableEq, Repr

/-- A loop after a clear (R271), with nothing pending. -/
def Loop.init : Loop :=
  ⟨0, 0, (0, 0, 0, 0), (0, 0, 0, 0), 0, 0, 0, true, false, none, 0, none, 0, [], true, false, false⟩

/-- A frame of the bound context as its opening found the channel (R270): its number, whether its power sample is
enabled, the parameter set of its governing vector, whether that vector starts a hatch line. -/
structure FrameGov where
  j : Nat
  enabled : Bool
  pset : Nat
  hatch : Bool
  deriving DecidableEq, Repr

/-- A measurement handed over by FX (R261, R263): frame number, frame sequence, delivery beat, m, usable. -/
structure Meas where
  j : Nat
  seq : Nat
  beat : Nat
  m : Nat
  usable : Bool
  deriving DecidableEq, Repr

/-- One Ladle engine: its three loops, the measurements handed over, and the frames opened whose power samples are
still to come. -/
structure Ladle where
  loops : List Loop
  meas : List Meas
  frames : List FrameGov
  deriving DecidableEq, Repr

/-- An engine after reset. -/
def Ladle.init : Ladle := ⟨[Loop.init, Loop.init, Loop.init], [], []⟩

/-! ### Position feedback and axes (10, 11) -/

/-- One feedback channel (R302–R305): timestamps of the edges that bound its valid intervals, newest first, the
direction of the last counted edge (up = true), its time, the device time of the enable, the time of the latest
capture and whether a compare unit made it (R306), the beat of the latest index edge (R335), and the levels of the three
input pins as their filters last accepted them (R298). -/
structure Feedback where
  edges : List Int
  dir : Option Bool
  tLast : Option Int
  enabledAt : Int
  capAt : Option (Int × Bool)
  pinA : Bool
  pinB : Bool
  pinX : Bool
  deriving DecidableEq, Repr

/-- An encoder emulation output (R315, R316): the emitted count, whether it is frozen, the time of the last step,
and the end of a compare pulse. -/
structure Emu where
  count : Int
  frozen : Bool
  lastStep : Option Int
  zEnd : Option Int
  deriving DecidableEq, Repr

/-- A planned motion (R324): first beat, start position, direction, phases of constant acceleration (duration in
seconds, speed at its start, acceleration), the distance already covered when the plan begins (R328), and the
distance of its target if it has one. -/
structure AxPlan where
  s : Nat
  from0 : Int
  x0 : Rat
  up : Bool
  phases : List (Rat × Rat × Rat)
  dist : Option Int
  deriving DecidableEq, Repr

/-- A homing in progress (R334–R336): method, stage, direction of the search, whether it was reversed, the
latched reference position, and who waits. -/
structure HomeRun where
  method : Nat
  stage : Nat
  up : Bool
  reversed : Bool
  q : Option Int
  index : Bool
  pend : Pend
  deriving DecidableEq, Repr

/-- A coil of a chopper (R342, R344): phase 0 off, 1 blank, 2 drive, 3 fast decay, 4 slow decay; the sign of its
drive; consecutive timeouts; the beat in which the first of them began; the beat in which the present drive phase
began; the FCLK cycle since beat 0 at which the drive, fast decay or slow decay in progress began. -/
structure Coil where
  phase : Nat
  pos : Bool
  run : Nat
  steps0 : Nat
  start : Nat
  since : Nat
  deriving DecidableEq, Repr

/-- One axis beside its AX registers: the plan of its motion, the vmax, a2, d2 and d1 in force for it, the
axis state that follows an emergency stop, the homing, the gear ratio to take (arm = 1 waits for unit 3; the
position of the master to use), the last step beat, direction level and the beat since which it holds, inputs:
the last samples and how many openings each has held, debounced levels, the beats of recent changes, the coils,
the beat since which it is IDLE, whether the hold current is in force. -/
structure Axis where
  plan : Option AxPlan
  vmax : Nat
  d1 : Nat
  a2 : Nat
  d2 : Nat
  faultAfter : Bool
  home : Option HomeRun
  gearArm : Bool
  gearM0 : Option Int
  gearTake : Bool
  lastStep : Option Nat
  dirUp : Bool
  dirSince : Nat
  raw : Nat
  held : List Nat
  deb : Nat
  changes : List (List Nat)
  coils : List Coil
  idleAt : Nat
  holdCur : Bool
  deriving DecidableEq, Repr

/-- A feedback channel, an emulation output and an axis after reset. -/
def Feedback.init : Feedback := ⟨[], none, none, 0, none, false, false, false⟩
/-- An emulation output after reset. -/
def Emu.init : Emu := ⟨0, false, none, none⟩
/-- A coil that is off. -/
def Coil.off : Coil := ⟨0, true, 0, 0, 0, 0⟩
/-- An axis after reset. -/
def Axis.init : Axis :=
  ⟨none, 0, 0, 0, 0, false, none, false, none, false, none, false, 0, 0, [0, 0, 0], 0, [[], [], []],
    [Coil.off, Coil.off], 0, false⟩

/-- Motion side. -/
structure Motion where
  pf : List Feedback
  emu : List Emu
  ax : List Axis
  deriving DecidableEq, Repr

/-! ### Kettle (12) -/

/-- A swap in progress (R363): the beat of its request, the buffer, the beat its read starts, the latch beat,
whether the read has started, whether it is done, whether the shift has started, and the tile records read (clamped)
with the frame id. -/
structure KtSwap where
  a : Nat
  buf : Nat
  readAt : Nat
  lam : Nat
  reading : Bool
  readDone : Bool
  shifting : Bool
  frame : List Byte
  fid : Nat
  deriving DecidableEq, Repr

/-- The Kettle beside its KT registers: the frame store (the tile records of the latched frame, clamped; empty:
every tile dark), the swap, the latch beat of a refresh shift, the latch sequence, the beat of the last latch, the
beat of the first line start of the line cycles, the lines started and the present line, the beat at which the
latched values take effect, the chains that took part in the last latch and those of them with a bad return, the bit
times after the latch at which each chain's return stream begins, the good return records whose registers are still to
be updated (beat, tile, bytes), and the bed-temperature loop's integrals and duties by cell, its record count and the
last record it saw. -/
structure Kettle where
  store : List Byte
  swap : Option KtSwap
  refresh : Option Nat
  seq : Nat
  latched : Option Nat
  lineBase : Option Nat
  lines : Nat
  line : Nat
  effective : Option Nat
  part : Nat
  bad : Nat
  align : List (Nat × Nat)
  arrived : List (Nat × Nat × List Byte)
  loopInteg : List Int
  loopDuty : List Nat
  loopCount : Nat
  loopSeen : Option Nat
  deriving DecidableEq, Repr

/-- The Kettle after reset. -/
def Kettle.init : Kettle := ⟨[], none, none, 0, none, none, 0, 0, none, 0, 0, [], [], [], [], 0, none⟩


/-! ### DRAM, Memory Sluice, DMA (13, 14) -/

/-- A transfer of up to 64 bytes for the Memory Sluice or in a DRAM queue: requester, unit of the requester
(Furrow, context, DMA channel), write or read, DRAM address, the bytes of a write, and the beat it entered. -/
structure Xfer where
  req : Nat
  unit : Nat
  write : Bool
  addr : Nat
  data : List Byte
  at0 : Nat
  deriving DecidableEq, Repr

/-- One DRAM channel (R381–R387): read and write queues in order, whether a drain is under way, the activate
tables (rank × 32 + bank; rows with their counts), the last write issued, retraining steps since training per device, the
devices whose RETRAIN_LIMIT has been logged, the ranks that report a high temperature, the beat at which training began,
the beat from which the present retraining interval runs, and the rows (rank, bank, row) that the last neighbour refresh
activated. -/
structure DramCh where
  rq : List Xfer
  wq : List Xfer
  drain : Bool
  act : List (Nat × List (Nat × Nat))
  lastWrite : Option Xfer
  steps : List Int
  limitSeen : Nat
  hot : Nat
  trainAt : Nat
  retrainAt : Nat
  nrr : List (Nat × Nat × Nat)
  deriving DecidableEq, Repr

/-- A DRAM channel after reset. -/
def DramCh.init : DramCh := ⟨[], [], false, [], none, [], 0, 0, 0, 0, []⟩

/-- The Memory Sluice (R393–R399): transfers that are ready, round-robin pointers by class, the next slot, the
table swaps scheduled (wrap beat; whether to the shadow or to a table with every entry invalid), the part of
each stream's credit below one byte, in 1/4,000, and the streams refused in the present beat with cause and transfer. -/
structure Slm where
  ready : List Xfer
  ptrs : List Nat
  slot : Nat
  swapAt : List (Nat × Bool)
  frac : List Nat
  refused : List (Nat × Nat × Xfer)
  deriving DecidableEq, Repr

/-- A burst of a DMA channel (R406, R408): its place in copy order, descriptor loop indices, source and
destination, length, its step (0 read issued, 1 data in the buffer, 2 write issued, 3 written, 4 a read and 5 a write
issued and discarded since), responses counted, the beat
from which a retry may be issued, its data, and its place in the order in which the data of bursts completed. -/
structure Burst where
  i0 : Nat
  i1 : Nat
  i2 : Nat
  src : Int
  dst : Int
  len : Nat
  st : Nat
  retries : Nat
  again : Nat
  retryAt : Option Nat
  data : List Byte
  seq : Nat
  deriving DecidableEq, Repr

/-- A descriptor (R404). -/
structure DmaDesc where
  src : Nat
  dst : Nat
  run : Nat
  n0 : Nat
  n1 : Nat
  n2 : Nat
  s : List Int
  d : List Int
  flags : Nat
  idx : Nat
  deriving DecidableEq, Repr

/-- One DMA channel beside its DMA registers: the descriptor in force, the fetch in progress (0 none, 1 the
descriptor, 2 index entries) with its responses and retry beat, the index entries fetched from the present iteration on, the
position in copy order, whether every burst has been granted, the bursts in flight in copy order, the halt that
is pending (cause, response, failing address), and the access found outside the window in the present beat (burst, side,
address, loop indices). -/
structure DmaCh where
  desc : Option DmaDesc
  fetch : Nat
  fRetries : Nat
  fAgain : Nat
  fRetryAt : Option Nat
  entries : List Int
  pos : Nat × Nat × Nat × Nat
  granted : Bool
  bursts : List Burst
  halt : Option (Nat × Nat × Nat)
  outside : Option (Nat × Bool × Int × Nat × Nat × Nat)
  deriving DecidableEq, Repr

/-- A DMA channel after reset. -/
def DmaCh.init : DmaCh := ⟨none, 0, 0, 0, none, [], (0, 0, 0, 0), false, [], none, none⟩

/-- Memory side: DRAM channels, Memory Sluice, DMA channels, the read engine's pointers by priority, and the number of
DMA bursts whose data has completed. -/
structure Mem where
  ch : List DramCh
  slm : Slm
  dma : List DmaCh
  dmaPtr : List Nat
  dmaSeq : Nat
  deriving DecidableEq, Repr

/-! ### The whole -/

/-- The states of the IEEE 1149.1 controller (R547). -/
inductive TapState
  | reset | idle | selDr | capDr | shDr | ex1Dr | pauDr | ex2Dr | updDr
  | selIr | capIr | shIr | ex1Ir | pauIr | ex2Ir | updIr
  deriving DecidableEq, Repr

/-- The JTAG port (R547): controller state, instruction register and its shift stage, bypass bit, the shift and
update stages of the 548 boundary cells (nearest TDO first), TDO, and the captures made. -/
structure Jtag where
  tap : TapState
  ir : Nat
  irShift : Nat
  bypass : Bool
  cells : List Bool
  latch : List Bool
  tdo : Bool
  captures : Nat
  deriving DecidableEq, Repr

/-- What only its own commands change (R38–R40, R44, R445): beat counter, epoch in ns (R39: device time of the
opening of beat 0), and the OTP words by index; and the length in FCLK cycles of the present beat. -/
structure Fixed where
  beat : BitVec 64
  epoch : Int
  otp : Store
  deriving DecidableEq, Repr

/-- Host side: sessions, Headgate, semaphores, jobs and table commits. -/
structure HostSide where
  sec : Sec
  hg : Headgate
  sems : List Sem
  jobs : List Job
  commits : List Commit
  deriving DecidableEq, Repr

/-- System side. -/
structure Sys where
  net : Net
  crock : Crock
  mgt : Mgt
  pwr : Pwr
  gio : Gio
  thm : Thm
  cal : Cal
  snp : Snp
  deriving DecidableEq, Repr

/-- The device but for its JTAG port: register fields by key, table windows by byte address (unlisted words hold
their value after PD_FABRIC comes on), the fixed part, the Crock's memories, the counter of free values drawn,
DRAM bytes (an unlisted address is undefined, R556) and the losses of DRAM contents so far, what the latest
command sent, holding copies of _HI halves by master and address, FX holding copies by master and context. -/
structure Chip where
  regs : Store
  tables : Store
  fix : Fixed
  crockMem : CrockMem
  fresh : Nat
  dram : List Host.Cell
  losses : Nat
  out : List Tx
  hold : List (Master × Nat × Nat)
  fxHold : List (Master × Nat × Store)
  host : HostSide
  sys : Sys
  beam : Beam
  img : Img
  lad : List Ladle
  mot : Motion
  kt : Kettle
  mem : Mem
  deriving DecidableEq, Repr

/-- The machine: the device, its JTAG port, and the commands that wait, first in, first out. -/
structure State where
  core : Chip
  jtag : Jtag
  pending : List Instr
  deriving DecidableEq, Repr

/-! ### Reset (18, R496, R501): the machine in power-on reset -/

/-- The OTP of a unit (R445): the part code in word 0x003, the CRC in word 0x3FF, every word that the manual
leaves to manufacture 0 (DESIGN CHOICE, log entry 6). -/
def otpWords : Store := [(0x003, 0x2460), (0x3FF, 2996868686)]

/-- Host side in reset: no session, no job, every semaphore free. -/
def HostSide.init : HostSide where
  sec := ⟨List.replicate 8 Session.free, List.replicate 16 ⟨[], 0⟩, 0, none, []⟩
  hg := ⟨[], none, none, none, 0, []⟩
  sems := List.replicate 64 ⟨0, 0, false⟩
  jobs := []
  commits := []

/-- Ports and time in reset. -/
def Net.init : Net :=
  ⟨PtpPort.idle, PtpPort.idle, ⟨0, none, none, false⟩, List.replicate 8 ⟨none, none, 0⟩, [0, 0]⟩

/-- Boot ROM in reset: both image areas empty. -/
def Mgt.init : Mgt := ⟨[], [], none, 0, false, none, none, true, false, false, 0⟩

/-- Power-domain controller in power-on reset. -/
def Pwr.init : Pwr := ⟨true, true, [], [], none, none, none, 0, none, [], 0, 0⟩

/-- Thermal monitor in reset. -/
def Thm.init : Thm := ⟨none, none, none, [], []⟩

/-- Calibration unit in reset. -/
def Cal.init : Cal := ⟨[], [], [], [], none, none, 0⟩

/-- Snapshot unit in reset. -/
def Snp.init : Snp := ⟨0, [], [], none⟩

/-- System side in reset. -/
def Sys.init : Sys where
  net := Net.init
  crock := ⟨[], 0, []⟩
  mgt := Mgt.init
  pwr := Pwr.init
  gio := ⟨0, []⟩
  thm := Thm.init
  cal := Cal.init
  snp := Snp.init

/-- Bed Sluice in reset: every tile FREE. -/
def Slb.init : Slb := ⟨[], [], [0, 0, 0, 0], [], [], 0, none, false, 0, 0, 0, [], none⟩

/-- Beam side in reset. -/
def Beam.init : Beam where
  fur := List.replicate 24 Furrow.init
  grids := List.replicate 24 ⟨[], []⟩
  slb := Slb.init
  lanes := List.replicate 52 Lane.init
  links := List.replicate 24 Link.init

/-- Memory side in reset. -/
def Mem.init : Mem where
  ch := [DramCh.init, DramCh.init]
  slm := ⟨[], [0, 0, 0, 0], 0, [], List.replicate 32 0, []⟩
  dma := List.replicate 64 DmaCh.init
  dmaPtr := [0, 0, 0, 0]
  dmaSeq := 0

/-- The device in power-on reset, with a given OTP. -/
def Chip.reset (otp : Store) : Chip where
  regs := []
  tables := []
  fix := ⟨0, 0, otp⟩
  crockMem := ⟨[], []⟩
  fresh := 0
  dram := []
  losses := 0
  out := []
  hold := []
  fxHold := []
  host := HostSide.init
  sys := Sys.init
  beam := Beam.init
  img := Img.init
  lad := List.replicate 24 Ladle.init
  mot := ⟨List.replicate 8 Feedback.init, List.replicate 4 Emu.init, List.replicate 8 Axis.init⟩
  kt := Kettle.init
  mem := Mem.init

/-- The JTAG port after a TAP reset (R547): Test-Logic-Reset with BYPASS selected. The boundary cells have no
reset value in the spec: all 0 (PRESUMED, log entry 8). -/
def Jtag.reset : Jtag :=
  ⟨.reset, 0xFF, 0xFF, false, List.replicate 548 false, List.replicate 548 false, false, 0⟩

/-- The machine right after reset (R496): PORST_n has put the whole device in power-on reset, every register at
its reset value, no command waits. POWER_ON_RELEASE is what the outside does next (DESIGN CHOICE, log entry 9). -/
def State.reset : State := ⟨Chip.reset otpWords, Jtag.reset, []⟩

end Sys2Proof.Machine
end

