-- ==== Sys2Proof/Machine/Ops.lean ====
section
/-! DEFINITION. The named operations over the state that every meaning uses: register fields, counters, device
time, events, free values, DRAM bytes, domains, notices and replies. -/

/-- The claim register value and code of a path. -/
def Sys2Proof.Path.code : Sys2Proof.Path → Nat
  | .a => 0
  | .b => 1

/-- The other path. -/
def Sys2Proof.Path.other : Sys2Proof.Path → Sys2Proof.Path
  | .a => .b
  | .b => .a

/-- A device time, in ns, from its parts. -/
def Sys2Proof.DevTime.nanos (t : Sys2Proof.DevTime) : Int := (t.sec.toNat : Int) * 1000000000 + t.ns.toNat

/-- A correctionField in units of 0.1 ns. -/
def Sys2Proof.PtpHead.c (h : Sys2Proof.PtpHead) : Int := Sys2Proof.Machine.toS 64 h.corr.toNat

namespace Sys2Proof.Machine

open Sys2Proof

/-! ### Stores and register fields -/

/-- Write one entry of a store whose unlisted keys read `d`: the canonical form lists no such entry. -/
def storePut (k d v : Nat) (l : Store) : Store := if v = d then assocDel k l else assocPut k v l

/-- The present value of a register field (00_scope.md, R9): its reset value until something changes it. -/
def Chip.rd (c : Chip) (f : Fld) : Nat := (assocGet f.key c.regs).getD f.rst

/-- A register field as a truth value. -/
def Chip.flag (c : Chip) (f : Fld) : Bool := c.rd f != 0

/-- A register field given a new value, cut to its width. -/
def wr (f : Fld) (v : Nat) (c : Chip) : Chip := { c with regs := storePut f.key f.rst (v % 2 ^ f.w) c.regs }

/-- A one-bit field given a truth value. -/
def wrB (f : Fld) (b : Bool) (c : Chip) : Chip := wr f (b2n b) c

/-- A signed value written to a field in two's complement. -/
def wrS (f : Fld) (i : Int) (c : Chip) : Chip := wr f (ofS f.w i) c

/-- A field read as two's complement. -/
def Chip.rdS (c : Chip) (f : Fld) : Int := toS f.w (c.rd f)

/-- A value that spans a low and a high field (01_architecture.md, R28). -/
def Chip.rd2 (c : Chip) (lo hi : Fld) : Nat := c.rd lo + c.rd hi * 2 ^ lo.w

/-- A value written over a low and a high field. -/
def wr2 (lo hi : Fld) (v : Nat) (c : Chip) : Chip := wr hi (v / 2 ^ lo.w) (wr lo v c)

/-- A DRAM address whose low register holds bits [31:6] (or [31:lo]) and whose high register bits [35:32]. -/
def Chip.rdAddr (c : Chip) (lo hi : Fld) : Nat := c.rd lo * 2 ^ lo.lo + c.rd hi * 2 ^ 32

/-- A signed 48-bit value over a _LO and a _HI register (10_position_feedback.md, R320). -/
def Chip.rd48 (c : Chip) (lo hi : Fld) : Int := toS 48 (c.rd2 lo hi)

/-- A signed 48-bit value written over a pair, sign-extended in _HI. -/
def wr48 (lo hi : Fld) (i : Int) (c : Chip) : Chip := wr2 lo hi (ofS 64 (toS 48 (ofS 48 i))) c

/-- One event counted: the counter saturates at all ones and then sets bit `k` of its sticky field
(00_scope.md, R13). -/
def inc (f sticky : Fld) (k : Nat) (c : Chip) : Chip :=
  if c.rd f + 1 < 2 ^ f.w then wr f (c.rd f + 1) c
  else wr sticky (withBit (c.rd sticky) k true) (wr f (2 ^ f.w - 1) c)

/-- Several events counted. -/
def incBy (n : Nat) (f sticky : Fld) (k : Nat) (c : Chip) : Chip :=
  if c.rd f + n < 2 ^ f.w then wr f (c.rd f + n) c
  else wr sticky (withBit (c.rd sticky) k true) (wr f (2 ^ f.w - 1) c)

/-- A counter that wraps (00_scope.md, R15). -/
def incWrap (f : Fld) (c : Chip) : Chip := wr f (c.rd f + 1) c

/-- A counter that saturates and has no sticky bit. -/
def incSat (f : Fld) (c : Chip) : Chip := if c.rd f + 1 < 2 ^ f.w then wr f (c.rd f + 1) c else c

/-- Every register field in the address range [lo, hi) back at its reset value (18_resets_domains_faults.md,
R505). -/
def clearRange (lo hi : Nat) (c : Chip) : Chip :=
  { c with regs := c.regs.filter fun p => decide (p.1 < lo * 32) || decide (hi * 32 ≤ p.1) }

/-- A word of a table window at a byte address: `d` is what it holds when its domain comes on. -/
def Chip.word (c : Chip) (d a : Nat) : Nat := (assocGet a c.tables).getD d

/-- A word of a table window written. -/
def wrWord (d a v : Nat) (c : Chip) : Chip := { c with tables := storePut a d (v % 2 ^ 32) c.tables }

/-- Table words in [lo, hi) back at their power-on content. -/
def clearTables (lo hi : Nat) (c : Chip) : Chip :=
  { c with tables := c.tables.filter fun p => decide (p.1 < lo) || decide (hi ≤ p.1) }

/-! ### Time (02_beat_and_admission.md, R39–R41) -/

/-- The number of the present beat. -/
def Chip.now (c : Chip) : Nat := c.fix.beat.toNat

/-- Device time, in ns, of the opening of beat n (R41). -/
def Chip.timeOf (c : Chip) (n : Nat) : Int := c.fix.epoch + 250 * n

/-- Device time, in ns, of an FCLK cycle of the present beat (R39, R65). -/
def Chip.time (c : Chip) (cycle : Nat) : Int := c.timeOf c.now + cycle

/-- Nanoseconds in a second. -/
def giga : Int := 1000000000

/-- Seconds of a device time. -/
def secsOf (t : Int) : Nat := (t / giga).toNat

/-- Nanoseconds within the second of a device time. -/
def nsOf (t : Int) : Nat := (t % giga).toNat

/-- A device time in a packet: u48 seconds, u32 nanoseconds, big-endian (03_serair_commands.md, R71). -/
def timeBE (t : Int) : List Byte := toBE 6 (secsOf t) ++ toBE 4 (nsOf t)

/-! ### Free values -/

/-- The next free value's index; the counter advances. -/
def draw (c : Chip) : Nat × Chip := (c.fresh, { c with fresh := c.fresh + 1 })

/-! ### Events (16_management_roles_crock.md, R462, R464) -/

/-- Little-endian bytes of event parameters. -/
abbrev u8 (n : Nat) : List Byte := toLE 1 n
/-- Little-endian u16. -/
abbrev u16 (n : Nat) : List Byte := toLE 2 n
/-- Little-endian u32. -/
abbrev u32 (n : Nat) : List Byte := toLE 4 n
/-- Two's complement little-endian s16 and s32 are written with `ofS`. -/
abbrev s32LE (i : Int) : List Byte := toLE 4 (ofS 32 i)

/-- An event placed among the newest events of a reversed queue: behind everything but later-ranked events of
its own FCLK cycle (R462: by code, then by instance), and never ahead of an EVENTS_DROPPED event (R464). -/
def insertEvent (e : Event) : List Event → List Event
  | [] => [e]
  | x :: l =>
    if x.time = e.time ∧ x.beat = e.beat ∧ x.code ≠ 0x0E03 ∧
        (e.code < x.code ∨ (e.code = x.code ∧ e.inst < x.inst)) then
      x :: insertEvent e l
    else e :: x :: l

/-- An event reaches the Crock's queue of 256, or is dropped and counted (R464). -/
def logQueue (cycle code inst : Nat) (par : List Byte) (c : Chip) : Chip :=
  let q := c.sys.crock.queue
  if q.length < 256 then
    let e : Event := ⟨code, inst, par, c.time cycle, c.now⟩
    { c with sys := { c.sys with crock := { c.sys.crock with queue := (insertEvent e q.reverse).reverse } } }
  else
    inc Reg.CRK_DROPPED_count Reg.CRK_STICKY_sat 1
      { c with sys := { c.sys with crock := { c.sys.crock with dropped := c.sys.crock.dropped + 1 } } }

/-- A snapshot trigger (17_thermal_calibration_snapshots.md, R488, R489): it latches at the next opening, or is
counted while a snapshot is held. -/
def snapTrigger (src : Nat) (c : Chip) : Chip :=
  if c.flag Reg.SNP_STATUS_held then
    incSat Reg.SNP_MISSED_value c |> logQueue 0 0x0F02 0 (u32 (c.rd Reg.SNP_SEQ_value) ++ u8 src ++ u8 0 ++ u16 0)
  else { c with sys := { c.sys with snp := { c.sys.snp with trig := withBit c.sys.snp.trig src true } } }

/-- An event occurs: the snapshot's FAULT source sees it (R487), and it goes to the Crock. -/
def logAt (cycle code inst : Nat) (par : List Byte) (c : Chip) : Chip :=
  logQueue cycle code inst par
    (if bit (c.rd Reg.SNP_CTL_src) 2 && bit (c.rd Reg.SNP_FAULT_MASK_mask) (code / 256) then snapTrigger 3 c else c)

/-- An event at the opening of the present beat (DEDUCED, log entry 20). -/
def log (code inst : Nat) (par : List Byte) (c : Chip) : Chip := logAt 0 code inst par c

/-- Low 32 bits of a beat number, as event parameters carry it. -/
abbrev beat32 (n : Nat) : List Byte := u32 n

/-! ### Domains (01_architecture.md, R31, R32) -/

/-- Bit numbers of the power domains in TOP_DOMAIN_ON. -/
abbrev pdAON : Nat := 0
/-- PD_FABRIC. -/
abbrev pdFABRIC : Nat := 1
/-- PD_DRAM. -/
abbrev pdDRAM : Nat := 2
/-- PD_APP. -/
abbrev pdAPP : Nat := 3
/-- PD_NET. -/
abbrev pdNET : Nat := 4
/-- PD_HEADS_A. -/
abbrev pdHEADSA : Nat := 5
/-- PD_HEADS_B. -/
abbrev pdHEADSB : Nat := 6
/-- PD_SIEVE_A; PD_SIEVE_B is the next bit. -/
abbrev pdSIEVEA : Nat := 7
/-- PD_OVERVIEW. -/
abbrev pdOVERVIEW : Nat := 9
/-- PD_MOTION. -/
abbrev pdMOTION : Nat := 10
/-- PD_KETTLE. -/
abbrev pdKETTLE : Nat := 11

/-- The heads domain of a beam channel. -/
def chanDom (ch : Nat) : Nat := if ch < 12 then pdHEADSA else pdHEADSB

/-- The domain of a lane. -/
def laneDom (n : Nat) : Nat := if n < 24 then pdHEADSA else if n < 48 then pdHEADSB else pdOVERVIEW

/-- Whether a domain is shown as on. -/
def Chip.shown (c : Chip) (d : Nat) : Bool := bit (c.rd Reg.TOP_DOMAIN_ON_on) d

/-- Whether a reset in progress holds a domain in reset (R500). -/
def Chip.heldReset (c : Chip) (d : Nat) : Bool :=
  match c.sys.pwr.reset with
  | some r => d != pdAON && (if d = pdMOTION then r.motionHeld else r.held)
  | none => false

/-- Whether a domain is on, not being switched off (R32, R506: it counts as off from step 1) and not held in reset. -/
def Chip.on (c : Chip) (d : Nat) : Bool :=
  c.shown d && !c.heldReset d &&
    !(c.sys.pwr.sw.any fun w => decide (w.dom = d) && decide (w.act ≠ 0) && w.started.isSome)

/-- Whether a domain's hardware works: it is on, or its quiesced switch-off still drains it (R506, steps 1 to 3: what it
has accepted and issued completes, and its unit drains run). -/
def Chip.alive (c : Chip) (d : Nat) : Bool := c.shown d && !c.heldReset d

/-- Whether a domain is being forced off (R394, R506). -/
def Chip.forcing (c : Chip) (d : Nat) : Bool := c.sys.pwr.sw.any fun w => decide (w.dom = d) && decide (w.act = 2)

/-- The mask of domains that are on, in both registers that show it. -/
def showDomains (m : Nat) (c : Chip) : Chip := wr Reg.PWR_STATUS_on m (wr Reg.TOP_DOMAIN_ON_on m c)

/-! ### DRAM bytes (13_dram_and_memory_sluice.md, R381, R383, R556) -/

/-- The byte at a DRAM address in the components: a free value where nothing has written. -/
def Chip.cell (c : Chip) (a : Nat) : Byte := (assocGet a c.dram).getD (Config.dramUndef c.losses a)

/-- The byte a queued write would put at an address: the newest of the queue. -/
def queuedByte (a : Nat) (q : List Xfer) : Option Byte :=
  q.foldl (fun r x => if decide (x.addr ≤ a) && decide (a < x.addr + x.data.length) then x.data[a - x.addr]? else r)
    none

/-- The byte a read returns: that of a queued write to the address (R381), else the component's. -/
def Chip.dramByte (c : Chip) (a : Nat) : Byte :=
  (queuedByte a (c.mem.ch.flatMap fun h => h.wq)).getD (c.cell a)

/-- `n` bytes from DRAM. -/
def Chip.dramRead (c : Chip) (a n : Nat) : List Byte := (List.range n).map fun k => c.dramByte (a + k)

/-- Bytes written to the components. -/
def cellsPut (a : Nat) : List Byte → List Host.Cell → List Host.Cell
  | [], m => m
  | b :: l, m => cellsPut (a + 1) l (assocPut a b m)

/-- Bytes written to the components. -/
def dramWrite (a : Nat) (l : List Byte) (c : Chip) : Chip := { c with dram := cellsPut a l c.dram }

/-- DRAM contents are lost (R556). -/
def dramLose (c : Chip) : Chip := { c with dram := [], losses := c.losses + 1 }

/-- The code of a DRAM channel's state (R378–R388): 0 UNTRAINED, 1 TRAINING, 2 READY, 3 TRAIN_FAIL, 4 FROZEN. -/
def Chip.dramState (c : Chip) (n : Nat) : Nat := c.rd (Reg.DMC_STATUS_state n)

/-- Bytes of data per channel (R373, R377): 8, 12 or 16 GB per rank. -/
def Chip.dramRank (c : Chip) : Nat :=
  (match c.rd (Reg.DMC_CFG_density 0) with | 0 => 8 | 1 => 12 | _ => 16) * 2 ^ 30

/-- Bytes of data of one channel. -/
def Chip.dramChan (c : Chip) : Nat := c.dramRank * (c.rd (Reg.DMC_CFG_ranks 0) + 1)

/-- The channel of a DRAM address (R376). -/
def dramChanOf (a : Nat) : Nat := (b2n (bit a 8) + b2n (bit a 16) + b2n (bit a 24)) % 2

/-- The channel-local address (R376). -/
def dramLocal (a : Nat) : Nat := (bits a 35 9) * 256 + a % 256

/-- The DRAM address of a channel-local address (the inverse of R376). -/
def dramGlobal (ch l : Nat) : Nat :=
  let hi := (l / 256) * 512 + l % 256
  hi + 256 * ((ch + b2n (bit hi 16) + b2n (bit hi 24)) % 2)

/-- The response of a DRAM access to bytes a to a + n − 1 (R375, R379, R388). -/
def Chip.dramResp (c : Chip) (a n : Nat) : Resp :=
  if !c.on pdDRAM then .targetOff
  else if a + n > 2 * c.dramChan then .decodeErr
  else if c.dramState 0 = 2 ∧ c.dramState 1 = 2 then .ok
  else if c.dramState (dramChanOf a) = 2 ∧ n ≤ 64 then .ok
  else .slaveErr

/-- Whether bytes a to a + n − 1 of DRAM can be read now. -/
def Chip.dramOk (c : Chip) (a n : Nat) : Bool := c.dramResp a n == .ok

/-- A transfer put before the Memory Sluice (R393). -/
def sluice (req unit : Nat) (write : Bool) (a : Nat) (data : List Byte) (c : Chip) : Chip :=
  { c with mem := { c.mem with slm :=
    { c.mem.slm with ready := c.mem.slm.ready ++ [⟨req, unit, write, a, data, c.now⟩] } } }

/-- The 64-byte pieces of a byte string that starts at address a. -/
def pieces (a : Nat) (l : List Byte) : Nat → List (Nat × List Byte)
  | 0 => []
  | f + 1 =>
    match l with
    | [] => []
    | _ =>
      let k := 64 - a % 64
      (a, l.take k) :: pieces (a + k) (l.drop k) f

/-- A requester's write is carried out: the bytes are in the components, and each channel remembers the last write that
it issued (R387). -/
def dramPut (req unit a : Nat) (l : List Byte) (c : Chip) : Chip :=
  let ps := pieces a l (l.length + 1)
  let last (n : Nat) : Option Xfer :=
    (ps.reverse.find? fun p => dramChanOf p.1 == n).map fun p => ⟨req, unit, true, p.1, p.2, c.now⟩
  let seen (n : Nat) (h : DramCh) : DramCh := { h with lastWrite := (last n).orElse fun _ => h.lastWrite }
  let c := dramWrite a l c
  { c with mem := { c.mem with ch := modAt (modAt c.mem.ch 0 (seen 0)) 1 (seen 1) } }

/-- A byte string written to DRAM by a requester, as transfers of at most 64 bytes in address order. -/
def sluiceWrite (req unit a : Nat) (l : List Byte) (c : Chip) : Chip :=
  (pieces a l (l.length + 1)).foldl (fun c p => sluice req unit true p.1 p.2 c) c

/-! ### Sessions, notices and replies (03_serair_commands.md, R75–R86) -/

/-- Change one session slot. -/
def modSession (slot : Nat) (f : Session → Session) (c : Chip) : Chip :=
  { c with host := { c.host with sec := { c.host.sec with sessions := modAt c.host.sec.sessions slot f } } }

/-- A session slot. -/
def Chip.session (c : Chip) (slot : Nat) : Session := c.host.sec.sessions.getD slot Session.free

/-- Whether a session slot holds an open session (R73). -/
def Chip.sessionOpen (c : Chip) (slot : Nat) : Bool := decide (c.rd (Reg.SEC_SLOT_STATE_state slot) = 1)

/-- A notice takes the session's next sequence number; when 256 wait, the newest is discarded (R85). -/
def Session.notify (code status : Nat) (body : List Byte) (s : Session) : Session :=
  { s with
    nseq := s.nseq + 1
    notices := if s.notices.length < 256 then s.notices ++ [⟨code, status, s.nseq, body⟩] else s.notices }

/-- A notice to every open session that asks for its code (R86). The Headgate sends notices: while PD_NET is off none
arises (DESIGN CHOICE, log entry 18). -/
def noticeAll (code status : Nat) (body : List Byte) (c : Chip) : Chip :=
  if !c.on pdNET then c else (List.range 8).foldl (fun c k =>
    if c.sessionOpen k && bit (c.session k).nmask (code - 0x8001) then modSession k (Session.notify code status body) c
    else c) c

/-- What the Headgate keeps of a sequence number (R75). -/
def Session.mark (seq st status : Nat) (s : Session) : Session :=
  { s with seqs := (s.seqs.filter fun r => r.seq != seq) ++ [⟨seq, st, status⟩] }

/-- The final result of a deferred command: a RESULT notice to the session that sent it (R60, R86). -/
def result (p : Pend) (status : Nat) (body : List Byte) (c : Chip) : Chip :=
  if c.sessionOpen p.slot && decide ((c.session p.slot).id = p.sid) then
    let on := c.on pdNET
    modSession p.slot (fun s =>
      let s := s.mark p.seq 3 status
      if on then s.notify 0x8001 status (toBE 4 p.seq ++ toBE 2 p.op ++ toBE 2 0 ++ body) else s) c
  else c

/-- A status and its body. -/
abbrev Ans := Nat × List Byte

/-- DONE with a body (R80). -/
def done (body : List Byte) : Ans := (0x00, body)
/-- DEFERRED (R80). -/
def deferred : Ans := (0x08, [])
/-- A refusal: status, detail, instance, value (R79) (DEDUCED, log entry 51). -/
def refuse (status detail inst value : Nat) : Ans := (status, toBE 2 detail ++ toBE 2 inst ++ toBE 4 value)
/-- REFUSED_BUDGET: code, instance, limit, demand (R79, R51). -/
def refuseBudget (code inst limit demand : Nat) : Ans :=
  (0x14, toBE 2 code ++ toBE 2 inst ++ toBE 4 limit ++ toBE 4 demand)
/-- REFUSED_PARAM for the field at a byte offset (R80). -/
def badParam (off : Nat) : Ans := refuse 0x17 off 0 0
/-- REFUSED_STATE: detail, instance (R80). -/
def badState (detail inst : Nat) : Ans := refuse 0x16 detail inst 0
/-- REFUSED_DOMAIN_OFF (R80). -/
def domainOff (d : Nat) : Ans := refuse 0x1A d 0 0
/-- FAULT_MEMORY (R80). -/
def faultMemory : Ans := refuse 0x32 0 0 0

/-- Send a packet. -/
def send (t : Tx) (c : Chip) : Chip := { c with out := c.out ++ [t] }

/-- Who waits for a command's final result. -/
def pendOf (o : Origin) (op : Nat) (c : Chip) : Pend :=
  ⟨o.slot.val, (c.session o.slot.val).id, o.seq.toNat, op⟩

/-! ### Jobs and channels -/

/-- The RUNNING job, if any (02_beat_and_admission.md, R49). -/
def Chip.running (c : Chip) : Option Job := c.host.jobs.find? fun j => j.st == 2

/-- The ADMITTED job, if any. -/
def Chip.admitted (c : Chip) : Option Job := c.host.jobs.find? fun j => j.st == 1

/-- Change one job. -/
def modJob (id : Nat) (f : Job → Job) (c : Chip) : Chip :=
  { c with host := { c.host with jobs := c.host.jobs.map fun j => if j.id = id then f j else j } }

/-- Whether a job names a channel. -/
def Job.hasChan (j : Job) (ch : Nat) : Bool := j.chans.any fun e => e.chan == ch

/-- The channel entry of a job. -/
def Job.chanEntry (j : Job) (ch : Nat) : Option ChanEntry := j.chans.find? fun e => e.chan == ch

/-- Whether a channel is part of an ADMITTED or RUNNING job. -/
def Chip.inJob (c : Chip) (ch : Nat) : Bool := c.host.jobs.any fun j => (j.st == 1 || j.st == 2) && j.hasChan ch

/-- A Furrow. -/
def Chip.fur (c : Chip) (ch : Nat) : Furrow := c.beam.fur.getD ch Furrow.init

/-- Change one Furrow. -/
def modFur (ch : Nat) (f : Furrow → Furrow) (c : Chip) : Chip :=
  { c with beam := { c.beam with fur := modAt c.beam.fur ch f } }

/-- A quench source asks that a channel be QUENCHED at a beat, with a quench cause and, for the channel's own
fault, a fault cause (04_furrows.md, R146–R148). -/
def askQuench (ch beat cause fault : Nat) (c : Chip) : Chip :=
  modFur ch (fun f => { f with quenchReq := f.quenchReq ++ [(beat, cause, fault)] }) c

/-- A quench source that asks for every channel. -/
def askQuenchAll (beat cause : Nat) (c : Chip) : Chip :=
  (List.range 24).foldl (fun c ch => askQuench ch beat cause 0 c) c

/-- Quench causes of FUR_n_STATE (04_furrows.md, R147). -/
abbrev quenchOwnFault : Nat := 1
/-- A violation not attributable to one master. -/
abbrev quenchUnattributed : Nat := 2
/-- Separation guard. -/
abbrev quenchGuard : Nat := 3
/-- QUENCH_A; QUENCH_B is 5. -/
abbrev quenchInA : Nat := 4
/-- JOB_ABORT. -/
abbrev quenchJobAbort : Nat := 6
/-- Causes that only the Crock records (warm reset, thermal shutdown, domain off): PWR_CAUSE plus 0x100. -/
abbrev quenchReset (cause : Nat) : Nat := 0x100 + cause

/-- Fault causes of FUR_n_FAULT (R148). -/
abbrev faultFetch : Nat := 1
/-- A record's crc. -/
abbrev faultCrc : Nat := 2
/-- A record's seq. -/
abbrev faultSeq : Nat := 3
/-- A WAIT_INPUT timeout. -/
abbrev faultSync : Nat := 4
/-- A freeze of the channel. -/
abbrev faultFrozen : Nat := 5
/-- A Ladle loop fault. -/
abbrev faultLoop : Nat := 6
/-- The head link. -/
abbrev faultLink : Nat := 7

/-- A channel's state (04_furrows.md, R142). -/
def Chip.chState (c : Chip) (ch : Nat) : Nat := c.rd (Reg.FUR_STATE_state ch)

/-- A channel faults: its cause and record, the event, and the quench on the next beat. A channel that is quenched already
stays as it is; the event is logged all the same (R511). -/
def furFault (ch cause seq idx : Nat) (c : Chip) : Chip :=
  if c.rd (Reg.FUR_FAULT_cause ch) ≠ 0 then c
  else
    let c := wr (Reg.FUR_FAULT_cause ch) cause c |> wr (Reg.FUR_FAULT_fault_seq ch) seq
    let c := if c.chState ch ≥ 6 then c else askQuench ch (c.now + 1) quenchOwnFault cause c
    if cause = faultFrozen then c
    else log 0x0302 ch (u8 ch ++ u8 cause ++ u16 seq ++ u32 idx) c

/-- The head record's sequence and index, for a fault that names no record of its own. -/
def Chip.headRec (c : Chip) (ch : Nat) : Nat × Nat :=
  let f := c.fur ch
  match f.plans.find? fun p => !p.park && !p.ended with
  | some p => (p.r.seq, p.r.idx)
  | none =>
    match f.buf.find? fun b => !b.ahead with
    | some b => (b.r.seq, b.r.idx)
    | none => (c.rd (Reg.FUR_STATE_head_seq ch), 0)

/-- Apply a change for each number of a list. -/
def forEach {α : Type} (l : List α) (f : α → Chip → Chip) (c : Chip) : Chip := l.foldl (fun c a => f a c) c

/-- Apply a change only when a condition holds. -/
def when (b : Bool) (f : Chip → Chip) (c : Chip) : Chip := if b then f c else c

/-! ### What a command may change -/

/-- The conditions of BEAM_PERMIT (R513). -/
def Chip.permitOk (c : Chip) : Bool :=
  c.flag Reg.GIO_CTL_permit_en && c.host.sec.envelope.isSome && !c.flag Reg.GIO_STATUS_quench_a &&
    !c.flag Reg.GIO_STATUS_quench_b && c.dramState 0 != 4 && c.dramState 1 != 4 && c.sys.pwr.reset.isNone &&
    !c.sys.pwr.porst

/-- BEAM_PERMIT falls with the first of its conditions that ceases to hold (R513). -/
def permitFall (c : Chip) : Chip := if c.permitOk then c else wr Reg.GIO_STATUS_permit 0 c

/-- A command's effect on the device: it starts with nothing sent, and leaves the beat counter, the epoch, the
OTP and the Crock's memories as they are (02, R40, R41; 16, R445, R469). While PORST_n holds the device in
power-on reset nothing happens (18, R496). -/
def guarded (f : Chip → Chip) (c : Chip) : Chip :=
  if c.sys.pwr.porst then { c with out := [] }
  else
    let d := permitFall (f { c with out := [] })
    { d with fix := c.fix, crockMem := c.crockMem }

/-- The step of a command with such an effect. -/
def runs (f : Chip → Chip) (s : State) : Host.Outcome State Fault Refusal :=
  .next { s with core := guarded f s.core }

/-- As `guarded`, for the two commands that move device time: `k` beats open, and a time step moves the epoch
(02_beat_and_admission.md, R40, R44). -/
def guardedTime (k : Nat) (f : Chip → Chip) (c : Chip) : Chip :=
  if c.sys.pwr.porst then { c with out := [] }
  else
    let d := permitFall (f { c with out := [] })
    { d with
      fix := { beat := c.fix.beat + BitVec.ofNat 64 k, epoch := d.fix.epoch, otp := c.fix.otp }
      crockMem := c.crockMem }

/-- The step of a command that moves device time. -/
def runsTime (k : Nat) (f : Chip → Chip) (s : State) : Host.Outcome State Fault Refusal :=
  .next { s with core := guardedTime k f s.core }

/-- As `guarded`, for the commands that write the Crock's memories. -/
def guardedCrock (f : Chip → Chip) (c : Chip) : Chip :=
  if c.sys.pwr.porst then { c with out := [] }
  else { permitFall (f { c with out := [] }) with fix := c.fix }

/-- The step of a command that writes the Crock's memories. -/
def runsCrock (f : Chip → Chip) (s : State) : Host.Outcome State Fault Refusal :=
  .next { s with core := guardedCrock f s.core }

end Sys2Proof.Machine
end

