-- ==== Sys2Proof/Machine/Feedback.lean ====
section
/-! DEFINITION. Position feedback, compare units and encoder emulation (10_position_feedback.md, R297–R319): the
operations that the commands of PositionCmds.lean and the register hooks call. -/

namespace Sys2Proof.Machine

open Sys2Proof

/-- A feedback channel. -/
def Chip.pf (c : Chip) (n : Nat) : Feedback := c.mot.pf.getD n Feedback.init

/-- Change one feedback channel. -/
def modPf (n : Nat) (f : Feedback → Feedback) (c : Chip) : Chip :=
  { c with mot := { c.mot with pf := modAt c.mot.pf n f } }

/-- The extended position of a channel (R300). -/
def Chip.pfPos (c : Chip) (n : Nat) : Int := c.rd48 (Reg.PF_POS_LO_pos n) (Reg.PF_POS_HI_pos n)

/-- A 48-bit value over a 32-bit and a 16-bit field. -/
def wrPos (lo hi : Fld) (i : Int) (c : Chip) : Chip := wr2 lo hi (ofS 48 i) c

/-- A time in ns over a pair. -/
def wrTime (lo hi : Fld) (t : Int) (c : Chip) : Chip := wr2 lo hi (ofS 64 t) c

/-! ### Capture latch (R306) -/

/-- A trigger of the capture latch at a position and time; `cmp`: a compare unit made it. -/
def pfCapture (n : Nat) (pos t : Int) (cmp : Bool) (c : Chip) : Chip :=
  let set (c : Chip) : Chip :=
    modPf n (fun f => { f with capAt := some (t, cmp) })
      (wrPos (Reg.PF_CAP_POS_LO_value n) (Reg.PF_CAP_POS_HI_value n) pos c
        |> wrTime (Reg.PF_CAP_T_LO_value n) (Reg.PF_CAP_T_HI_value n) t
        |> incWrap (Reg.PF_CAP_COUNT_count n) |> wr (Reg.PF_STATUS_cap_pending n) 1)
  let lost (c : Chip) : Chip := wr (Reg.PF_STATUS_cap_overrun n) 1 c
  match (c.pf n).capAt with
  | some (t0, true) => if t0 = t then lost c else set (when (c.flag (Reg.PF_STATUS_cap_pending n)) lost c)
  | _ => set (when (c.flag (Reg.PF_STATUS_cap_pending n)) lost c)

/-! ### Compare units (R310–R313) -/

/-- The value a unit watches for. -/
def Chip.cmpVal (c : Chip) (n u : Nat) : Int := c.rd48 (Reg.PF_CMP_VAL_LO_val n u) (Reg.PF_CMP_VAL_HI_val n u)

/-- Unit 3 reports passed: the armed ratio change of an axis geared to the channel is not taken (R338). -/
def gearPassed (n : Nat) (c : Chip) : Chip :=
  forEach (List.range 8) (fun k c =>
    if (c.mot.ax.getD k Axis.init).gearArm && c.rd (Reg.AX_GEAR_CTL_source k) == n then
      wr (Reg.AX_GEAR_CTL_pending k) 0
        { c with mot := { c.mot with ax := modAt c.mot.ax k (fun a => { a with gearArm := false }) } }
    else c) c

/-- A unit is passed: it clears arm, does not fire, and takes no action (R311). -/
def cmpPass (n u : Nat) (c : Chip) : Chip :=
  when (c.flag (Reg.PF_CMP_CTL_gear_owned n u)) (gearPassed n) c |> wr (Reg.PF_CMP_CTL_passed n u) 1 |> wr (Reg.PF_CMP_CTL_arm n u) 0 |> wr (Reg.PF_CMP_CTL_gear_owned n u) 0
    |> log 0x0883 n (u8 n ++ u8 u ++ u8 (c.rd (Reg.PF_CMP_CTL_action n u)) ++ u8 0 ++ s32LE (c.cmpVal n u))

/-- Whether a unit armed at a position is passed (R311). -/
def cmpPassed (dir : Nat) (pos val : Int) : Bool :=
  match dir with
  | 0 => decide (pos ≥ val)
  | 1 => decide (pos ≤ val)
  | _ => decide (pos = val)

/-- The test of R311 on one unit. -/
def cmpTest (n u : Nat) (c : Chip) : Chip :=
  if c.flag (Reg.PF_CMP_CTL_arm n u) &&
      cmpPassed (c.rd (Reg.PF_CMP_CTL_dir n u)) (c.pfPos n) (c.cmpVal n u) then cmpPass n u c else c

/-- The test of R311 on every armed unit. -/
def cmpTestAll (n : Nat) (c : Chip) : Chip := forEach (List.range 4) (cmpTest n) c

/-- An axis whose armed gear change waits on a channel takes it at the opening of the next beat (R338). -/
def gearFired (n : Nat) (val : Int) (c : Chip) : Chip :=
  let take (p : Axis × Nat) : Axis :=
    if p.1.gearArm && c.rd (Reg.AX_GEAR_CTL_source p.2) == n then
      { p.1 with gearArm := false, gearTake := true, gearM0 := some val }
    else p.1
  { c with mot := { c.mot with ax := (c.mot.ax.zip (List.range 8)).map take } }

/-- A unit fires at time t (R310, R312). -/
def cmpFire (n u : Nat) (t : Int) (c : Chip) : Chip :=
  let c := c |> wrTime (Reg.PF_CMP_FIRE_T_LO_value n u) (Reg.PF_CMP_FIRE_T_HI_value n u) t
    |> wr (Reg.PF_CMP_CTL_fired n u) 1 |> wr (Reg.PF_CMP_CTL_arm n u) 0 |> wr (Reg.PF_CMP_CTL_gear_owned n u) 0
    |> incWrap (Reg.PF_CMP_COUNT_value n u)
  match c.rd (Reg.PF_CMP_CTL_action n u) with
  | 1 => pfCapture n (c.pfPos n) t true c
  | 2 => gearFired n (c.cmpVal n u) c
  | 3 =>
    let pulse (p : Emu × Nat) : Emu :=
      if c.rd (Reg.PF_EMU_CTL_source p.2) == n && c.rd (Reg.PF_EMU_CTL_z_mode p.2) == 2 then
        { p.1 with zEnd := some (t + c.rd (Reg.PF_EMU_SPACING_ns p.2)) }
      else p.1
    { c with mot := { c.mot with emu := (c.mot.emu.zip (List.range 4)).map pulse } }
  | _ => c

/-- An armed unit fires at a counted edge that brings the position to its value in its direction (R310). -/
def cmpEdge (n : Nat) (up : Bool) (t : Int) (u : Nat) (c : Chip) : Chip :=
  let dir := c.rd (Reg.PF_CMP_CTL_dir n u)
  if c.flag (Reg.PF_CMP_CTL_arm n u) && decide (c.pfPos n = c.cmpVal n u) &&
      (dir == 2 || (dir == 0) == up) then cmpFire n u t c else c

/-! ### Encoder emulation (R314–R316) -/

/-- An emulation output. -/
def Chip.emu (c : Chip) (k : Nat) : Emu := c.mot.emu.getD k Emu.init

/-- Change one emulation output. -/
def modEmu (k : Nat) (f : Emu → Emu) (c : Chip) : Chip :=
  { c with mot := { c.mot with emu := modAt c.mot.emu k f } }

/-- The emulated position E (R314): the product is exact, and floor rounds toward minus infinity. -/
def Chip.emuTarget (c : Chip) (k : Nat) : Int :=
  c.pfPos (c.rd (Reg.PF_EMU_CTL_source k)) * c.rd (Reg.PF_EMU_RATIO_num k) / (c.rd (Reg.PF_EMU_RATIO_den k) : Int)

/-- The lag is shown, and beyond 65,535 the output freezes (R315). -/
def emuLag (k : Nat) (c : Chip) : Chip :=
  if c.flag (Reg.PF_EMU_CTL_enable k) then
    let e := c.emu k
    let d := c.emuTarget k - e.count
    let c := wrS (Reg.PF_EMU_LAG_lag k) (satS 32 d) c
    if d.natAbs > 65535 ∧ e.frozen = false then
      modEmu k (fun e => { e with frozen := true }) c
        |> wr (Reg.PF_EMU_STATUS_overflow k) 1 |> wr (Reg.PF_EMU_STATUS_running k) 0
        |> log 0x0884 k (u8 k ++ u8 (c.rd (Reg.PF_EMU_CTL_source k)) ++ u16 0 ++ beat32 c.now)
    else c
  else c

/-- The outputs that follow a channel are brought up to its position. -/
def emuFollow (n : Nat) (c : Chip) : Chip :=
  forEach (List.range 4) (fun k c => if c.rd (Reg.PF_EMU_CTL_source k) = n then emuLag k c else c) c

/-- One step of an output toward E when its spacing has passed (R315). -/
def emuStepAt (k : Nat) (t : Int) (c : Chip) : Chip :=
  let e := c.emu k
  let d := c.emuTarget k - e.count
  let free := match e.lastStep with
    | none => true
    | some t0 => decide (t - t0 ≥ (c.rd (Reg.PF_EMU_SPACING_ns k) : Int))
  if c.flag (Reg.PF_EMU_CTL_enable k) && !e.frozen && decide (d.natAbs ≤ 65535) && decide (d ≠ 0) && free then
    let count := e.count + (if d > 0 then 1 else -1)
    modEmu k (fun e => { e with count := count, lastStep := some t }) c
      |> wrS (Reg.PF_EMU_OUT_c k) count |> emuLag k
  else emuLag k c

/-- Enabling an output sets its emitted count to E and emits nothing (R314); the freeze ends only so (R315). -/
def emuEnabled (k : Nat) (c : Chip) : Chip :=
  let e := c.emuTarget k
  modEmu k (fun x => ⟨e, false, none, x.zEnd⟩) c
    |> wrS (Reg.PF_EMU_OUT_c k) e |> wr (Reg.PF_EMU_LAG_lag k) 0 |> wr (Reg.PF_EMU_STATUS_running k) 1

/-- Disabling an output stops it. -/
def emuDisabled (k : Nat) (c : Chip) : Chip := wr (Reg.PF_EMU_STATUS_running k) 0 c

/-- The level of EMU_k_A (R315). -/
def Chip.emuA (c : Chip) (k : Nat) : Bool := let m := (c.emu k).count % 4; m == 1 || m == 2
/-- The level of EMU_k_B (R315): A counts ahead of B when c rises. -/
def Chip.emuB (c : Chip) (k : Nat) : Bool := let m := (c.emu k).count % 4; m == 2 || m == 3
/-- The level of EMU_k_Z at a device time (R316). -/
def Chip.emuZ (c : Chip) (k : Nat) (t : Int) : Bool :=
  match c.rd (Reg.PF_EMU_CTL_z_mode k) with
  | 1 => decide ((c.emu k).count % (c.rd (Reg.PF_EMU_ZPER_period k) : Int) = 0)
  | 2 => match (c.emu k).zEnd with
    | some e => decide (t < e)
    | none => false
  | _ => false

/-! ### Counted edges (R297–R304) -/

/-- The speed from the valid intervals (R302): the last a of them, rounded with halves away from zero. -/
def pfSpeed (avg : Nat) (up : Bool) (edges : List Int) : Int :=
  let m := min avg (edges.length - 1)
  match edges.head?, edges[m]? with
  | some t1, some t0 =>
    if m = 0 ∨ t1 ≤ t0 then 0
    else
      let v := divRoundAway ((m : Int) * giga) (t1 - t0).toNat
      satS 32 (if up then v else -v)
  | _, _ => 0

/-- One counted edge at a device time: position, wrap, timestamp, speed, compare units, emulation (R300–R303,
R310). A wrap of the extended position makes every armed unit PASSED (R300; R311's test is not asked first: DEDUCED,
DEDUCED, log entry 68). -/
def pfCount (n : Nat) (up : Bool) (t : Int) (c : Chip) : Chip :=
  let f := c.pf n
  let raw := c.pfPos n + (if up then 1 else -1)
  let pos := toS 48 (ofS 48 raw)
  let c := wrPos (Reg.PF_POS_LO_pos n) (Reg.PF_POS_HI_pos n) pos c
    |> inc (Reg.PF_EDGES_count n) (Reg.PF_STICKY_sat n) 2
    |> wrTime (Reg.PF_EDGE_T_LO_t n) (Reg.PF_EDGE_T_HI_t n) t
    |> wrB (Reg.PF_STATUS_dir n) (!up) |> wr (Reg.PF_STATUS_moving n) 1
  let c := match f.tLast with
    | some t0 => when (decide (t - t0 < 40)) (wr (Reg.PF_STATUS_fast n) 1) c
    | none => c
  let edges := if f.dir = some up then (t :: f.edges).take 129 else [t]
  let avg := 2 ^ c.rd (Reg.PF_SPD_CTL_avg_log2 n)
  let c := modPf n (fun f => { f with edges := edges, dir := some up, tLast := some t }) c
    |> wrS (Reg.PF_SPEED_v n) (pfSpeed avg up edges)
  let c := forEach (List.range 4) (cmpEdge n up t) c
  let c := if pos ≠ raw then
      forEach (List.range 4) (fun u c => when (c.flag (Reg.PF_CMP_CTL_arm n u)) (cmpPass n u) c)
        (wr (Reg.PF_STATUS_ext_wrap n) 1 c)
        |> log 0x0885 n (u8 n ++ u8 (b2n (!up)) ++ u16 0 ++ beat32 c.now)
    else c
  emuFollow n c

/-- Edges on the inputs of a channel (R297, R299): `a`, a rising edge of PF_n_A; `b`, the level of PF_n_B in
STEP_DIR, a rising edge of PF_n_B with the same timestamp in UP_DOWN. -/
def pfInput (n : Nat) (a b : Bool) (t : Int) (c : Chip) : Chip :=
  if c.rd (Reg.PF_CTL_mode n) = 0 then
    if a then pfCount n (!b) t c else c
  else if a && b then
    wr (Reg.PF_STATUS_collide n) 1 (inc (Reg.PF_COLLIDE_count n) (Reg.PF_STICKY_sat n) 3 c)
  else if a then pfCount n true t c
  else if b then pfCount n false t c
  else c

/-- No edge within stop_us: V and moving become 0 and every interval is discarded (R304). -/
def pfStop (n : Nat) (c : Chip) : Chip :=
  match (c.pf n).tLast with
  | none => c
  | some t0 =>
    if c.time 0 - t0 > (c.rd (Reg.PF_SPD_CTL_stop_us n) : Int) * 1000 then
      modPf n (fun f => { f with edges := f.edges.take 1 }) c
        |> wr (Reg.PF_SPEED_v n) 0 |> wr (Reg.PF_STATUS_moving n) 0
    else c

/-- At the opening of a beat the speed of a slowing encoder falls (R304). -/
def pfSlow (n : Nat) (c : Chip) : Chip :=
  match (c.pf n).edges with
  | t0 :: t1 :: _ =>
    let d := c.time 0 - t0
    let v := c.rdS (Reg.PF_SPEED_v n)
    if d > t0 - t1 ∧ v ≠ 0 then
      let r := divRoundAway giga d.toNat
      wrS (Reg.PF_SPEED_v n) (if v > 0 then r else -r) c
    else c
  | _ => c

/-- The beat latch of a channel (R305), whether it is enabled or not: position, timestamp and speed in one set. -/
def pfLatch (n : Nat) (c : Chip) : Chip :=
  let c := pfStop n (pfSlow n c)
  let f := c.pf n
  wrPos (Reg.PF_BEAT_POS_LO_value n) (Reg.PF_BEAT_POS_HI_value n) (c.pfPos n) c
    |> wrTime (Reg.PF_BEAT_T_LO_value n) (Reg.PF_BEAT_T_HI_value n) (f.tLast.getD f.enabledAt)
    |> wr (Reg.PF_BEAT_SPEED_value n) (c.rd (Reg.PF_SPEED_v n))

/-! ### Index (R307–R309) -/

/-- Quotient rounded to the nearest integer, halves toward zero; the divisor is positive. -/
def divHalfDown (a : Int) (b : Nat) : Int :=
  if a ≥ 0 then (2 * a + b - 1) / (2 * b) else -((2 * (-a) + b - 1) / (2 * b))

/-- The expected position of an index edge at p (R307). -/
def indexExpect (period : Nat) (ref p : Int) : Int :=
  if period = 0 then ref else ref + divHalfDown (p - ref) period * period

/-- An index edge sets the position: never a firing, but the test of R311 (R309). -/
def pfReref (n : Nat) (e d : Int) (cause : Nat) (c : Chip) : Chip :=
  wrPos (Reg.PF_POS_LO_pos n) (Reg.PF_POS_HI_pos n) e c |> wr (Reg.PF_STATUS_referenced n) 1
    |> log 0x0882 n (u8 n ++ u8 cause ++ u16 0 ++ s32LE (satS 32 d))
    |> cmpTestAll n |> emuFollow n

/-- Whether an axis creeps to an index edge of a feedback channel, at its last stage of method 5 (R334, R335). -/
def HomeRun.awaits (h : HomeRun) : Bool := h.method == 5 && h.stage == 4

/-- Whether an axis homes by index on a feedback channel and has come to its last creep (R335). -/
def Chip.homesBy (c : Chip) (n : Nat) : Bool :=
  (List.range 8).any fun k =>
    (c.mot.ax.getD k Axis.init).home.any fun h => h.awaits && c.rd (Reg.AX_HOME_CTL_pf k) == n

/-- The axes that creep to the index of a channel have met it; they see it at their next opening (R335). -/
def homeIndexed (n : Nat) (c : Chip) : Chip :=
  let mark (p : Axis × Nat) : Axis :=
    { p.1 with home := p.1.home.map fun h =>
        { h with index := h.index || (h.awaits && c.rd (Reg.AX_HOME_CTL_pf p.2) == n) } }
  { c with mot := { c.mot with ax := (c.mot.ax.zip (List.range 8)).map mark } }

/-- An index edge at a device time; it sets the position as set_next does when an axis homes by it (R309, R335). -/
def pfIndex (n : Nat) (t : Int) (c : Chip) : Chip :=
  let next := c.homesBy n
  let p := c.pfPos n
  let ref := c.rd48 (Reg.PF_IDX_REF_LO_pos n) (Reg.PF_IDX_REF_HI_pos n)
  let d := p - indexExpect (c.rd (Reg.PF_IDX_PER_period n)) ref p
  let c := if c.rd (Reg.PF_CTL_cap_src n) = 1 then pfCapture n p t false c else c
  let c := wrPos (Reg.PF_IDX_LAST_LO_pos n) (Reg.PF_IDX_LAST_HI_pos n) p c |> wrS (Reg.PF_IDX_DEV_d n) (satS 32 d)
    |> homeIndexed n
  if next || c.flag (Reg.PF_IDX_CTL_set_next n) then
    pfReref n ref d 1 (wr (Reg.PF_IDX_CTL_set_next n) 0 c)
  else if d.natAbs > c.rd (Reg.PF_IDX_CTL_tol n) then
    let c := inc (Reg.PF_IDX_COUNT_mismatch n) (Reg.PF_STICKY_sat n) 0 c
    wr (Reg.PF_STATUS_index_mismatch n) 1 c
      |> wrPos (Reg.PF_IDX_MISS_LO_pos n) (Reg.PF_IDX_MISS_HI_pos n) p
      |> log 0x0881 n (u8 n ++ u8 0 ++ u16 (c.rd (Reg.PF_IDX_COUNT_mismatch n)) ++ s32LE (satS 32 d))
  else if c.rd (Reg.PF_IDX_CTL_mode n) = 1 ∧ d ≠ 0 then
    pfReref n (p - d) d 0 (inc (Reg.PF_IDX_COUNT_reref n) (Reg.PF_STICKY_sat n) 1 c)
  else c

/-! ### The input pins (R297, R298, R320) -/

/-- A pin whose level after the inversion rises. -/
def pinRise (inv was is : Bool) : Bool := was == inv && is != inv

/-- New levels at PF_n_A, PF_n_B and PF_n_IDX from a device time on, which they keep for `stable` ns: the filter
takes them when that is at least filt (R298), and a channel that is on acts on the edges (R297). A counted edge of
the time of an index edge belongs to its position (R307). -/
def pfPins (n : Nat) (a b x : Bool) (stable : Nat) (t : Int) (c : Chip) : Chip :=
  if stable < c.rd (Reg.PF_CTL_filt n) then c
  else
    let f := c.pf n
    let invB := c.flag (Reg.PF_CTL_inv_b n)
    let riseA := pinRise (c.flag (Reg.PF_CTL_inv_a n)) f.pinA a
    let lineB := if c.rd (Reg.PF_CTL_mode n) = 0 then b != invB else pinRise invB f.pinB b
    let riseX := pinRise (c.flag (Reg.PF_CTL_inv_idx n)) f.pinX x
    let c := modPf n (fun f => { f with pinA := a, pinB := b, pinX := x }) c
    if !c.alive pdMOTION || !c.flag (Reg.PF_CTL_enable n) then c
    else when riseX (pfIndex n t) (pfInput n riseA lineB t c)

/-! ### Enable (R318) and arming (R311) -/

/-- Enable goes from 0 to 1 in an FCLK cycle (R318). -/
def pfEnabled (n cycle : Nat) (c : Chip) : Chip :=
  let pos := c.rd48 (Reg.PF_PRESET_LO_preset n) (Reg.PF_PRESET_HI_preset n)
  let t := c.time cycle
  let c := wrPos (Reg.PF_POS_LO_pos n) (Reg.PF_POS_HI_pos n) pos c
    |> wr (Reg.PF_SPEED_v n) 0 |> wr (Reg.PF_STATUS_moving n) 0 |> wr (Reg.PF_STATUS_referenced n) 0
    |> forEach (List.range 3) (fun u => wr (Reg.PF_CMP_CTL_arm n u) 0)
  emuFollow n (modPf n (fun f => { f with edges := [], dir := none, tLast := none, enabledAt := t }) c)

/-- Unit 3 armed by AX_GEAR (R313): at the master position, in the direction of the master's present motion, or
UP when it is still; the test of R311 applies. -/
def gearArm (n : Nat) (val : Int) (c : Chip) : Chip :=
  let dir := if c.flag (Reg.PF_STATUS_moving n) then c.rd (Reg.PF_STATUS_dir n) else 0
  wrPos (Reg.PF_CMP_VAL_LO_val n 3) (Reg.PF_CMP_VAL_HI_val n 3) val c
    |> wr (Reg.PF_CMP_CTL_action n 3) 2 |> wr (Reg.PF_CMP_CTL_dir n 3) dir
    |> wr (Reg.PF_CMP_CTL_fired n 3) 0 |> wr (Reg.PF_CMP_CTL_passed n 3) 0
    |> wr (Reg.PF_CMP_CTL_gear_owned n 3) 1 |> wr (Reg.PF_CMP_CTL_arm n 3) 1 |> cmpTest n 3

/-- The flags byte of PF_STATUS (R308, R311): bit 0 INDEX_MISMATCH, bits 4–7 the passed bits of units 0–3. -/
def Chip.pfFlags (c : Chip) (n : Nat) : Nat :=
  b2n (c.flag (Reg.PF_STATUS_index_mismatch n)) +
    ((List.range 4).map fun u => 2 ^ (4 + u) * b2n (c.flag (Reg.PF_CMP_CTL_passed n u))).sum

end Sys2Proof.Machine
end

