-- ==== Sys2Proof/Machine/Axes.lean ====
section
/-! DEFINITION. The axes (11_recoat_and_build_axes.md, R321–R346): planning, the step of one beat, stops, limits,
homing, gearing, faults and the chopper. The commands are in MotionCmds.lean. -/

namespace Sys2Proof.Machine

open Sys2Proof

/-- An axis. -/
def Chip.ax (c : Chip) (n : Nat) : Axis := c.mot.ax.getD n Axis.init

/-- Change one axis. -/
def modAx (n : Nat) (f : Axis → Axis) (c : Chip) : Chip :=
  { c with mot := { c.mot with ax := modAt c.mot.ax n f } }

/-- Axis states (R346). -/
abbrev axDisabled : Nat := 0
/-- Standstill. -/
abbrev axIdle : Nat := 1
/-- Profile move. -/
abbrev axMoving : Nat := 2
/-- Normal stop. -/
abbrev axStopping : Nat := 3
/-- Emergency deceleration. -/
abbrev axEmergency : Nat := 4
/-- Homing. -/
abbrev axHoming : Nat := 5
/-- Geared. -/
abbrev axGeared : Nat := 6
/-- Faulted. -/
abbrev axFault : Nat := 7

/-- The state of an axis. -/
def Chip.axState (c : Chip) (n : Nat) : Nat := c.rd (Reg.AX_STATUS_state n)

/-- The extended position of an axis (R323). -/
def Chip.axPos (c : Chip) (n : Nat) : Int := c.rd48 (Reg.AX_POS_LO_pos n) (Reg.AX_POS_HI_pos n)

/-- The extended position written, sign-extended in _HI. -/
def wrAxPos (n : Nat) (p : Int) (c : Chip) : Chip := wr48 (Reg.AX_POS_LO_pos n) (Reg.AX_POS_HI_pos n) p c

/-! ### Plans (R324–R326) -/

/-- Distance covered while the speed changes from u to v at acceleration a (0: no distance). -/
def rampDist (u v : Rat) (a : Nat) : Rat := if a = 0 then 0 else (v * v - u * u) / (2 * a)

/-- The phases of a rise from u to v: at a1 below v1 and at a2 from v1 on (R324). -/
def risePhases (u v v1 : Rat) (a1 a2 : Nat) : List (Rat × Rat × Rat) :=
  let m := max u (min v v1)
  (if u < m ∧ a1 ≠ 0 then [((m - u) / a1, u, (a1 : Rat))] else []) ++
    (if m < v ∧ a2 ≠ 0 then [((v - m) / a2, m, (a2 : Rat))] else [])

/-- The distance of such a rise. -/
def riseDist (u v v1 : Rat) (a1 a2 : Nat) : Rat :=
  let m := max u (min v v1)
  (if u < m then rampDist u m a1 else 0) + (if m < v then rampDist m v a2 else 0)

/-- The phases of a fall from v to e: at d2 above v1 and at d1 below (R324). -/
def fallPhases (v e v1 : Rat) (d1 d2 : Nat) : List (Rat × Rat × Rat) :=
  let m := max e (min v v1)
  (if m < v ∧ d2 ≠ 0 then [((v - m) / d2, v, -(d2 : Rat))] else []) ++
    (if e < m ∧ d1 ≠ 0 then [((m - e) / d1, m, -(d1 : Rat))] else [])

/-- The distance of such a fall. -/
def fallDist (v e v1 : Rat) (d1 d2 : Nat) : Rat :=
  let m := max e (min v v1)
  (if m < v then rampDist m v d2 else 0) + (if e < m then rampDist e m d1 else 0)

/-- A phase of constant speed over a distance; at speed 0 it does not end (DESIGN CHOICE, log entry 12). -/
def cruise (dist v : Rat) : List (Rat × Rat × Rat) :=
  if dist ≤ 0 then [] else if v = 0 then [((2 : Rat) ^ 64, 0, 0)] else [(dist / v, v, 0)]

/-- The largest integer speed from `r` up, found bit by bit, whose rise and fall fit the distance (R325). -/
def peakGo (fits : Nat → Bool) : Nat → Nat → Nat
  | 0, r => r
  | k + 1, r => peakGo fits k (if fits (r + 2 ^ k) then r + 2 ^ k else r)

/-- The phases of a move from speed u over a distance D to speed e (R324, R325, R328): `whole`, the speed of the
whole move when not even max(u, e) fits. -/
def movePhases (u vmax v1 e : Rat) (a1 a2 d1 d2 : Nat) (dist : Rat) (whole : Rat) : List (Rat × Rat × Rat) :=
  let need (v : Rat) : Rat := riseDist u v v1 a1 a2 + fallDist v e v1 d1 d2
  if u > vmax then
    let fall := fallDist u vmax v1 d1 d2
    fallPhases u vmax v1 d1 d2 ++ cruise (dist - fall - fallDist vmax e v1 d1 d2) vmax
      ++ fallPhases vmax e v1 d1 d2
  else
    let lo := max u e
    let vp : Option Rat :=
      if need vmax ≤ dist then some vmax
      else if need lo > dist then none
      else
        let base := lo.ceil.toNat
        some (if need base > dist then lo
          else (peakGo (fun v => decide ((v : Rat) ≤ vmax) && decide (need v ≤ dist)) 32 base : Nat))
    match vp with
    | some v => risePhases u v v1 a1 a2 ++ cruise (dist - need v) v ++ fallPhases v e v1 d1 d2
    | none => cruise dist whole

/-- Distance and speed of a plan a time after its start, and whether it has ended. -/
def phaseAt : List (Rat × Rat × Rat) → Rat → Rat → Rat × Rat × Bool
  | [], _, x => (x, 0, true)
  | (d, v, a) :: l, t, x =>
    if t < d then (x + v * t + a * t * t / 2, v + a * t, false)
    else phaseAt l (t - d) (x + v * d + a * d * d / 2)

/-- Distance, speed and end of a plan at the opening of a beat: 4,000,000 beats per second. -/
def AxPlan.at (p : AxPlan) (b : Nat) : Rat × Rat × Bool :=
  phaseAt p.phases (((b - p.s : Nat) : Rat) / 4000000) p.x0

/-- The gear target of a beat: from the master's beat latch of the beat before (R337). -/
def Chip.gearTarget (c : Chip) (n : Nat) : Int :=
  let src := c.rd (Reg.AX_GEAR_CTL_source n)
  let p := c.rd48 (Reg.PF_BEAT_POS_LO_value src) (Reg.PF_BEAT_POS_HI_value src)
  c.rd48 (Reg.AX_GEAR_F0_LO_pos n) (Reg.AX_GEAR_F0_HI_pos n) +
    c.rdS (Reg.AX_GEAR_NUM_value n) * (p - c.rd48 (Reg.AX_GEAR_M0_LO_pos n) (Reg.AX_GEAR_M0_HI_pos n)) /
      ((max 1 (c.rd (Reg.AX_GEAR_DEN_value n)) : Nat) : Int)

/-- The least number of beats between two microsteps of a GEARED axis (R337). -/
def Chip.gearSpace (c : Chip) (n : Nat) : Nat := ceilDiv 4000000 (max 1 (c.rd (Reg.AX_ENV_VLIM_value n)))

/-- The speed of an axis at the opening of a beat, and its direction: that of its plan, or of a GEARED axis the
master's speed through the ratio, and that of its steps while it lags more than one of them behind (DEDUCED, log
entry 41). -/
def Chip.axSpeedAt (c : Chip) (n b : Nat) : Rat × Bool :=
  match (c.ax n).plan with
  | some p => ((p.at b).2.1, p.up)
  | none =>
    if c.axState n = axGeared then
      let lag := c.gearTarget n - c.axPos n
      let src := c.rd (Reg.AX_GEAR_CTL_source n)
      let v := (c.rdS (Reg.AX_GEAR_NUM_value n) * c.rdS (Reg.PF_BEAT_SPEED_value src) : Int) /
        ((max 1 (c.rd (Reg.AX_GEAR_DEN_value n)) : Nat) : Rat)
      let lim : Rat := c.rd (Reg.AX_ENV_VLIM_value n)
      if lag.natAbs > 1 then ((4000000 : Rat) / c.gearSpace n, decide (lag > 0))
      else (min lim (if v < 0 then -v else v), decide (v ≥ 0))
    else (0, true)

/-- A signed whole speed, rounded toward 0. -/
def signedSpeed (v : Rat × Bool) : Int := if v.2 then v.1.floor else -v.1.floor

/-! ### Chopper (R340–R344) -/

/-- round(1,023 × cos(2πi ÷ 1,024)) for i from 0 to 256 (R341). -/
def cosQuarter : List Nat :=
    [1023, 1023, 1023, 1023, 1023, 1023, 1022, 1022, 1022, 1021, 1021, 1021, 1020, 1020, 1019, 1019, 1018, 1017, 1017, 1016, 1015, 1015, 1014, 1013, 1012, 1011, 1010, 1009, 1008, 1007, 1006, 1005, 1003, 1002, 1001, 999, 998, 997, 995, 994, 992, 991, 989, 988, 986, 984, 983, 981, 979, 977, 975, 973] ++
    [971, 969, 967, 965, 963, 961, 959, 957, 954, 952, 950, 948, 945, 943, 940, 938, 935, 933, 930, 927, 925, 922, 919, 917, 914, 911, 908, 905, 902, 899, 896, 893, 890, 887, 884, 881, 877, 874, 871, 868, 864, 861, 858, 854, 851, 847, 844, 840, 836, 833, 829, 825] ++
    [822, 818, 814, 810, 806, 803, 799, 795, 791, 787, 783, 779, 775, 771, 766, 762, 758, 754, 750, 745, 741, 737, 732, 728, 723, 719, 714, 710, 705, 701, 696, 692, 687, 682, 678, 673, 668, 663, 659, 654, 649, 644, 639, 634, 629, 624, 619, 614, 609, 604, 599, 594] ++
    [589, 584, 579, 574, 568, 563, 558, 553, 547, 542, 537, 531, 526, 521, 515, 510, 504, 499, 493, 488, 482, 477, 471, 466, 460, 454, 449, 443, 437, 432, 426, 420, 415, 409, 403, 397, 391, 386, 380, 374, 368, 362, 356, 351, 345, 339, 333, 327, 321, 315, 309, 303] ++
    [297, 291, 285, 279, 273, 267, 261, 255, 249, 242, 236, 230, 224, 218, 212, 206, 200, 193, 187, 181, 175, 169, 163, 156, 150, 144, 138, 131, 125, 119, 113, 107, 100, 94, 88, 82, 75, 69, 63, 56, 50, 44, 38, 31, 25, 19, 13, 6, 0]

/-- tA of phase index i (R341). -/
def cosCode (i : Nat) : Int :=
  let k := i % 1024
  if k ≤ 256 then (cosQuarter.getD k 0 : Nat)
  else if k ≤ 512 then -(cosQuarter.getD (512 - k) 0 : Nat)
  else if k ≤ 768 then -(cosQuarter.getD (k - 512) 0 : Nat)
  else (cosQuarter.getD (1024 - k) 0 : Nat)

/-- tB of phase index i: the sine, a quarter turn behind. -/
def sinCode (i : Nat) : Int := cosCode (i + 768)

/-- round(c × |t| ÷ 1,023), halves up. -/
def chopThreshold (code : Nat) (t : Int) : Nat := (2 * code * t.natAbs + 1023) / 2046

/-- A coil at a new threshold and sign (R342): off at threshold 0, a new drive when the sign reverses or the coil
leaves 0, otherwise its phase goes on; `b`: the present beat. -/
def coilSet (thr : Nat) (t : Int) (b : Nat) (k : Coil) : Coil :=
  if thr = 0 then { k with phase := 0, pos := decide (t > 0) }
  else if k.phase = 0 ∨ k.pos ≠ decide (t > 0) then { k with phase := 1, pos := decide (t > 0), start := b, since := b * 250 }
  else k

/-- Thresholds and coils follow the phase index and the current code (R341). -/
def axCoils (n : Nat) (c : Chip) : Chip :=
  let live := c.flag (Reg.AX_CTL_enable n) && decide (c.axState n ≠ axFault) && !c.flag (Reg.AX_CTL_mode n)
  let code := if (c.ax n).holdCur then c.rd (Reg.AX_CUR_hold n) else c.rd (Reg.AX_CUR_run n)
  let i := c.rd (Reg.AX_PHASE_i n)
  let a := if live then chopThreshold code (cosCode i) else 0
  let b := if live then chopThreshold code (sinCode i) else 0
  modAx n (fun x => { x with coils :=
      [coilSet a (cosCode i) c.now (x.coils.getD 0 Coil.off), coilSet b (sinCode i) c.now (x.coils.getD 1 Coil.off)] }) c
    |> wr (Reg.AX_PHASE_thr_a n) a |> wr (Reg.AX_PHASE_thr_b n) b

/-! ### Steps and states -/

/-- One microstep in a direction at a beat (R326, R341). -/
def axStep (n : Nat) (up : Bool) (b : Nat) (c : Chip) : Chip :=
  let d := 256 >>> c.rd (Reg.AX_CTL_ustep_log2 n)
  let i := c.rd (Reg.AX_PHASE_i n)
  wrAxPos n (c.axPos n + (if up then 1 else -1)) c
    |> wr (Reg.AX_PHASE_i n) (if up then i + d else i + 1024 - d)
    |> inc (Reg.AX_STEPS_count n) (Reg.AX_STICKY_sat n) 0
    |> modAx n (fun x => { x with lastStep := some b }) |> axCoils n

/-- The axis is at standstill in a state: IDLE counts its time for the hold current. -/
def axStill (n st : Nat) (c : Chip) : Chip :=
  modAx n (fun x => { x with plan := none, faultAfter := false, idleAt := c.now }) c
    |> wr (Reg.AX_STATUS_state n) st |> wr (Reg.AX_SPEED_v n) 0 |> axCoils n

/-- The axis leaves standstill: the run current applies again. -/
def axLeave (n st : Nat) (c : Chip) : Chip :=
  wr (Reg.AX_STATUS_state n) st (modAx n (fun x => { x with holdCur := false }) c) |> axCoils n

/-- A motion from the present position toward a side at a search or creep speed, without a target (R334). -/
def axRun (n : Nat) (up : Bool) (v : Nat) (c : Chip) : Chip :=
  let u : Rat := min (c.rd (Reg.AX_PROF_V0_value n)) v
  let ph := risePhases u v (c.rd (Reg.AX_PROF_V1_value n)) (c.rd (Reg.AX_PROF_A1_value n))
      (c.rd (Reg.AX_PROF_A2_value n)) ++ [((2 : Rat) ^ 64, (v : Rat), 0)]
  modAx n (fun x => { x with plan := some ⟨c.now + 1, c.axPos n, 0, up, ph, none⟩, vmax := v,
                             a2 := c.rd (Reg.AX_PROF_A2_value n), d2 := c.rd (Reg.AX_PROF_D2_value n),
                             d1 := c.rd (Reg.AX_PROF_D1_value n) }) c

/-- A deceleration from the present speed, planned from the opening of beat `b` (R329): normal at d2 and PROF_D1 to
ve, emergency at PROF_DEMG to 0. A stop that a beat opening brings is planned from that opening, one that comes later
in a beat from the next. -/
def axSlow (n : Nat) (emergency : Bool) (b : Nat) (c : Chip) : Chip :=
  let x := c.ax n
  let (v, up) := c.axSpeedAt n b
  let ph :=
    if emergency then
      let d := c.rd (Reg.AX_PROF_DEMG_value n)
      if d = 0 then [] else [(v / d, v, -(d : Rat))]
    else fallPhases v (min v (c.rd (Reg.AX_PROF_VE_value n))) (c.rd (Reg.AX_PROF_V1_value n))
      (c.rd (Reg.AX_PROF_D1_value n)) (if x.plan.isSome then x.d2 else c.rd (Reg.AX_PROF_D2_value n))
  let plan : AxPlan := match x.plan with
    | some p => ⟨b, p.from0, (p.at b).1, p.up, ph, none⟩
    | none => ⟨b, c.axPos n, 0, up, ph, none⟩
  modAx n (fun x => { x with plan := some plan }) c

/-- An end of homing without a reference (R336): the command ends with FAULT_UNIT, and homed clears. -/
def homeAbort (n detail : Nat) (c : Chip) : Chip :=
  match (c.ax n).home with
  | none => c
  | some h =>
    let c := modAx n (fun x => { x with home := none }) c |> wr (Reg.AX_STATUS_homed n) 0
    let a := refuse 0x30 detail n 0
    result h.pend a.1 a.2 c

/-- Gearing ends (R338). -/
def gearEnd (n : Nat) (c : Chip) : Chip := wr (Reg.AX_GEAR_CTL_engaged n) 0 c

/-- An emergency stop of a moving axis from the opening of beat `b` (R329, R331): its cause is logged with the speed
at its start. -/
def axEmg (n cause detail b : Nat) (c : Chip) : Chip :=
  let st := c.axState n
  if st = axMoving ∨ st = axStopping ∨ st = axHoming ∨ st = axGeared then
    let v := signedSpeed (c.axSpeedAt n b)
    axSlow n true b c |> homeAbort n detail |> gearEnd n |> wr (Reg.AX_STATUS_state n) axEmergency
      |> log 0x0805 n (u8 n ++ u8 cause ++ u16 0 ++ s32LE (satS 32 v))
  else c

/-- An axis fault (R339): an emergency stop, after which every output stays low. -/
def axFaulted (n cause b : Nat) (c : Chip) : Chip :=
  let c := wr (Reg.AX_STATUS_fault n) cause c |> wr (Reg.AX_STATUS_homed n) 0
    |> log 0x0807 n (u8 n ++ u8 cause ++ u16 0 ++ beat32 c.now)
  let c := axEmg n 5 2 b c
  if c.axState n = axEmergency then modAx n (fun x => { x with faultAfter := true }) c else axStill n axFault c

/-- An axis whose domain goes off, or whose enable goes to 0: every output low, it stops dead (R322, R331). -/
def axDead (n : Nat) (c : Chip) : Chip :=
  homeAbort n 2 c |> gearEnd n |> modAx n (fun x => { x with dirUp := false, dirSince := c.now })
    |> axStill n axDisabled

/-- The outputs of an axis (R321). -/
structure AxisPins where
  phA : Bool
  enA : Bool
  dkA : Bool
  phB : Bool
  enB : Bool
  dkB : Bool
  deriving DecidableEq, Repr

/-- The three outputs of a coil (R340, R342). -/
def Coil.pins (k : Coil) : Bool × Bool × Bool :=
  (k.phase != 0 && k.pos, k.phase == 1 || k.phase == 2 || k.phase == 4, k.phase == 4)

/-- The outputs of an axis at an FCLK cycle of the present beat (R321, R322, R340, R345): low while the axis is
disabled, in FAULT or without its domain; in step/direction mode STEP for 125 ns from the opening on which the
microstep is issued, DIR and DRV_EN; else those of the coils. -/
def Chip.axisPins (c : Chip) (n cycle : Nat) : AxisPins :=
  let x := c.ax n
  if !c.alive pdMOTION || !c.flag (Reg.AX_CTL_enable n) || c.axState n == axFault then
    ⟨false, false, false, false, false, false⟩
  else if c.flag (Reg.AX_CTL_mode n) then
    ⟨x.lastStep == some c.now && decide (cycle < 125), true, false, x.dirUp, false, false⟩
  else
    let a := (x.coils.getD 0 Coil.off).pins
    let b := (x.coils.getD 1 Coil.off).pins
    ⟨a.1, a.2.1, a.2.2, b.1, b.2.1, b.2.2⟩

/-! ### Inputs (R330, R332, R333, R336) -/

/-- The side of a limit toward which an axis moves. -/
def limitSide (up : Bool) : Nat := if up then 1 else 0

/-- Whether the debounced limit of a side is active. -/
def Chip.limitActive (c : Chip) (n : Nat) (up : Bool) : Bool :=
  if up then c.flag (Reg.AX_STATUS_in_lim_p n) else c.flag (Reg.AX_STATUS_in_lim_n n)

/-- The direction in which an axis moves, if it does: that of its plan, or toward its gear target. -/
def Chip.axToward (c : Chip) (n : Nat) : Option Bool :=
  match (c.ax n).plan with
  | some p => some p.up
  | none =>
    let g := c.gearTarget n
    if c.axState n = axGeared ∧ g ≠ c.axPos n then some (decide (g > c.axPos n)) else none

/-- A limit met outside homing (R330). -/
def axLimit (n : Nat) (up : Bool) (c : Chip) : Chip :=
  wr (Reg.AX_STATUS_limit_hit n) 1 c
    |> log 0x0801 n (u8 n ++ u8 (limitSide up) ++ u16 0 ++ beat32 c.now)

/-- A limit that aborts a homing (R336). -/
def homeLimit (n : Nat) (up : Bool) (method : Nat) (c : Chip) : Chip :=
  wr (Reg.AX_STATUS_home_limit n) 1 c
    |> log 0x0802 n (u8 n ++ u8 method ++ u8 (limitSide up) ++ u8 0 ++ beat32 c.now) |> axEmg n 1 1 c.now

/-- Outside homing an active limit toward the motion makes an emergency stop (R330). -/
def limitCheck (n : Nat) (c : Chip) : Chip :=
  let st := c.axState n
  match c.axToward n with
  | some up =>
    if (st = axMoving ∨ st = axStopping ∨ st = axGeared) ∧ c.limitActive n up then axEmg n 1 1 c.now (axLimit n up c)
    else c
  | none => c

/-- The search direction of a homing method, after dir_inv (R334). -/
def homeSearchUp (method : Nat) (inv : Bool) : Bool := (method == 1 || method == 4 || method == 5) != inv

/-- A homing begins a stage: 0 creep away, 1 search, 2 stop after it, 3 creep to the inactive edge, 4 creep to the
index on at the speed of stage 3, 5 stop after the reference edge, 6 stop before the reversed search. -/
def homeStage (n stage : Nat) (c : Chip) : Chip :=
  match (c.ax n).home with
  | none => c
  | some h =>
    let vs := c.rd (Reg.AX_HOME_VS_v n)
    let vc := c.rd (Reg.AX_HOME_VC_v n)
    let creepUp := !homeSearchUp h.method (c.flag (Reg.AX_HOME_CTL_dir_inv n))
    let c := modAx n (fun x => { x with home := some { h with stage := stage } }) c
    match stage with
    | 0 => axRun n creepUp vc c
    | 1 => axRun n h.up vs c
    | 3 => axRun n creepUp vc c
    | 4 => c
    | _ => axSlow n false c.now c

/-- The input that a homing method watches: HOME, LIM_N or LIM_P; dir_inv reverses directions only (R334). -/
def Chip.homeInput (c : Chip) (n : Nat) (h : HomeRun) : Bool :=
  if h.method = 3 ∨ h.method = 4 then c.limitActive n (h.method == 4) else c.flag (Reg.AX_STATUS_in_home n)

/-- What the debounced inputs and the index do to a homing at a beat opening (R334–R336). -/
def homeWatch (n : Nat) (c : Chip) : Chip :=
  match (c.ax n).home with
  | none => c
  | some h =>
    if c.axState n ≠ axHoming then c
    else
      let up := (c.axToward n).getD true
      let expected := (h.method = 3 ∨ h.method = 4) ∧ (h.stage = 1 ∨ h.stage = 2 ∨ h.stage = 3) ∧ up = (h.method == 4)
      let stopping := h.stage = 2 ∨ h.stage = 5 ∨ h.stage = 6
      if c.limitActive n up ∧ ¬ expected ∧ ¬ (h.stage = 6) then
        if h.stage = 1 ∧ (h.method = 1 ∨ h.method = 2 ∨ h.method = 5) ∧ h.reversed = false then
          modAx n (fun x => { x with home := some { h with reversed := true, up := !h.up } }) c |> homeStage n 6
        else homeLimit n up h.method c
      else if stopping then c
      else
        let act := c.homeInput n h
        if h.stage = 0 ∧ act = false then homeStage n 1 c
        else if h.stage = 1 ∧ act then homeStage n 2 c
        else if h.stage = 3 ∧ act = false then
          if h.method = 5 then homeStage n 4 c
          else
            modAx n (fun x => { x with home := some { h with q := some (c.axPos n) } }) c |> homeStage n 5
        else if h.stage = 4 ∧ h.index = true then
          modAx n (fun x => { x with home := some { h with q := some (c.axPos n) } }) c |> homeStage n 5
        else c

/-- The reference is taken when the axis is still (R335): q reads HOME_OFF, the axis is IDLE and homed, and the
command's RESULT carries the position at home. -/
def homeDone (n : Nat) (c : Chip) : Chip :=
  match (c.ax n).home with
  | none => c
  | some h =>
    let off := c.rd48 (Reg.AX_HOME_OFF_LO_pos n) (Reg.AX_HOME_OFF_HI_pos n)
    let c := wrAxPos n (c.axPos n - h.q.getD (c.axPos n) + off) c
    let c := modAx n (fun x => { x with home := none }) c |> axStill n axIdle |> wr (Reg.AX_STATUS_homed n) 1
      |> log 0x0804 n (u8 n ++ u8 h.method ++ u16 0 ++ s32LE off)
    result h.pend 0 (toBE 8 (ofS 64 off)) c

/-- The field that shows a debounced input: LIM_N, LIM_P, HOME. -/
def axInputFld (n k : Nat) : Fld :=
  match k with
  | 0 => Reg.AX_STATUS_in_lim_n n
  | 1 => Reg.AX_STATUS_in_lim_p n
  | _ => Reg.AX_STATUS_in_home n

/-- A debounced level changes when its sample has held the new level deb + 1 openings (R332). -/
def inputDebounce (n k : Nat) (c : Chip) : Chip :=
  let x := c.ax n
  let lvl := bit x.raw k
  if x.held.getD k 0 > c.rd (Reg.AX_INP_CTL_deb n) ∧ bit x.deb k ≠ lvl then
    modAx n (fun x => { x with deb := withBit x.deb k lvl }) c |> wrB (axInputFld n k) lvl
  else c

/-- The longest span of R333, in beats: the changes that it may still count are kept. -/
def chatterSpan : Nat := 255000

/-- The sample of one input at a beat opening: debounce counts and chatter (R332, R333). -/
def inputSample (n k : Nat) (lvl : Bool) (c : Chip) : Chip :=
  let x := c.ax n
  if bit x.raw k = lvl then
    modAx n (fun x => { x with held := modAt x.held k (fun h => min (h + 1) 65536) }) c
  else
    let span := c.rd (Reg.AX_INP_CTL_chat_win n) * 1000
    let all := (x.changes.getD k []).filter fun b => decide (c.now < b + chatterSpan)
    let count := 1 + (all.filter fun b => decide (c.now < b + span)).length
    let lim := c.rd (Reg.AX_INP_CTL_chat_n n)
    let c := modAx n (fun x => { x with raw := withBit x.raw k lvl, held := setAt x.held k 1,
                                        changes := setAt x.changes k (c.now :: all) }) c
    if lim ≠ 0 ∧ count > lim then
      wr (Reg.AX_STATUS_chatter n) 1 c
        |> log 0x0803 n (u8 n ++ u8 k ++ u16 (satU 16 count) ++ beat32 c.now) |> axEmg n 2 3 c.now
    else c

/-! ### Gearing (R337, R338) -/

/-- A ratio is taken at a beat opening (R338). -/
def gearTaken (n : Nat) (c : Chip) : Chip :=
  let x := c.ax n
  let st := c.axState n
  if x.gearTake && (st == axIdle || st == axGeared) then
    let src := c.rd (Reg.AX_GEAR_CTL_source n)
    let latch := c.rd48 (Reg.PF_BEAT_POS_LO_value src) (Reg.PF_BEAT_POS_HI_value src)
    let f0 := if st = axGeared then c.gearTarget n else c.axPos n
    let c := wr48 (Reg.AX_GEAR_F0_LO_pos n) (Reg.AX_GEAR_F0_HI_pos n) f0 c
      |> wr48 (Reg.AX_GEAR_M0_LO_pos n) (Reg.AX_GEAR_M0_HI_pos n) (x.gearM0.getD latch)
      |> wr (Reg.AX_GEAR_NUM_value n) (c.rd (Reg.AX_GEAR_NEXT_NUM_value n))
      |> wr (Reg.AX_GEAR_DEN_value n) (c.rd (Reg.AX_GEAR_NEXT_DEN_value n))
      |> wr (Reg.AX_GEAR_CTL_pending n) 0 |> wr (Reg.AX_GEAR_CTL_engaged n) 1
    let c := if st = axIdle then axLeave n axGeared c else c
    modAx n (fun x => { x with gearTake := false, gearM0 := none }) c
      |> log 0x0806 n (u8 n ++ u8 src ++ u16 0 ++ u32 (c.rd (Reg.AX_GEAR_NUM_value n)))
  else if x.gearTake && (st == axMoving || st == axStopping || st == axHoming || st == axEmergency) then
    modAx n (fun x => { x with gearM0 := none }) c
  else c

/-- DIR takes the level of a direction at the opening of a beat that issues no step (R345). -/
def dirSet (n : Nat) (up : Bool) (c : Chip) : Chip :=
  when (c.flag (Reg.AX_CTL_mode n) && (c.ax n).dirUp != up)
    (modAx n fun x => { x with dirUp := up, dirSince := c.now }) c

/-- Whether a step in a direction may be issued at this opening: in step/direction mode DIR has held its level for a
beat (R337, R345). -/
def Chip.dirReady (c : Chip) (n : Nat) (up : Bool) : Bool :=
  !c.flag (Reg.AX_CTL_mode n) || ((c.ax n).dirUp == up && decide ((c.ax n).dirSince < c.now))

/-- The step of a GEARED axis at a beat opening (R337, R339). -/
def gearBeat (n : Nat) (c : Chip) : Chip :=
  let b := c.now
  let g := c.gearTarget n
  let pos := c.axPos n
  let due := match (c.ax n).lastStep with
    | none => true
    | some b0 => decide (b ≥ b0 + c.gearSpace n)
  let up := decide (g > pos)
  let next := pos + (if up then 1 else -1)
  let travel := next < c.rd48 (Reg.AX_ENV_MIN_LO_value n) (Reg.AX_ENV_MIN_HI_value n) ∨
    next > c.rd48 (Reg.AX_ENV_MAX_LO_value n) (Reg.AX_ENV_MAX_HI_value n)
  let c := when (decide (g ≠ pos)) (dirSet n up) c
  let c :=
    if g ≠ pos ∧ due = true ∧ c.dirReady n up = true then
      if travel then axFaulted n 3 b c else axStep n up b c
    else c
  let lag := g - c.axPos n
  let c := wrS (Reg.AX_GEAR_LAG_lag n) (satS 32 lag) c
  let max := c.rd (Reg.AX_GEAR_LAGMAX_lag n)
  if c.axState n = axGeared ∧ max ≠ 0 ∧ lag.natAbs > max then axFaulted n 1 b c else c

/-! ### The beat -/

/-- The step of a planned motion at a beat opening (R326, R329): one microstep at most, and its end. DIR turns on the
first beat of a plan, which issues no step. -/
def planBeat (n : Nat) (p : AxPlan) (c : Chip) : Chip :=
  let b := c.now
  let (x, v, ended) := p.at b
  let goal := match p.dist with
    | some d => min (if ended then d else x.floor) d
    | none => x.floor
  let want := p.from0 + (if p.up then goal else -goal)
  let there (c : Chip) : Bool := decide (toS 48 (ofS 48 (c.axPos n - want)) = 0)
  let c := when (decide (p.s = b) || !there c) (dirSet n p.up) c
  let c := when (!there c && c.dirReady n p.up) (axStep n p.up b) c
  let c := wrS (Reg.AX_SPEED_v n) (signedSpeed (v, p.up)) c
  let reached := match p.dist with
    | some d => decide (goal ≥ d) && there c
    | none => ended
  if reached then
    match c.axState n with
    | 5 =>
      match (c.ax n).home with
      | some h =>
        let c := modAx n (fun x => { x with plan := none }) c
        match h.stage with
        | 2 => homeStage n 3 c
        | 6 => homeStage n 1 c
        | 5 => homeDone n c
        | _ => c
      | none => axStill n axIdle c
    | _ => axStill n (if (c.ax n).faultAfter then axFault else axIdle) c
  else c

/-- The cause, if any, that stops an axis for as long as it lasts (R331, R512): an asserted quench input, a warm reset,
a quiesced switch-off of PD_MOTION. -/
def Chip.axStopCause (c : Chip) (n : Nat) : Option Nat :=
  if c.flag (Reg.AX_CTL_quench_stop n) && (c.flag Reg.GIO_STATUS_quench_a || c.flag Reg.GIO_STATUS_quench_b) then some 3
  else if c.sys.pwr.reset.any fun r => r.quenched then some 4
  else if !c.on pdMOTION then some 6
  else none

/-- The opening of a beat on one axis: inputs, gear change, homing, and its step (R326, R330–R337). The master's
latch is still that of the beat before. -/
def axBeat (n inputs : Nat) (c : Chip) : Chip :=
  let lv (k : Nat) : Bool := bit inputs (3 * n + k) != bit (c.rd (Reg.AX_INP_INV_inv n)) k
  let c := forEach [0, 1, 2] (fun k c => inputDebounce n k (inputSample n k (lv k) c)) c
  if !c.flag (Reg.AX_CTL_enable n) then c
  else
    let c := match c.axStopCause n with
      | some cause => axEmg n cause 2 c.now c
      | none => c
    let c := limitCheck n (gearTaken n (homeWatch n c))
    match (c.ax n).plan with
    | some p => if p.s ≤ c.now then planBeat n p c else c
    | none => if c.axState n = axGeared then
        wrS (Reg.AX_SPEED_v n) (satS 32 (signedSpeed (c.axSpeedAt n c.now))) (gearBeat n c) else c

/-- Every axis is still (R331, R500). -/
def Chip.axesStill (c : Chip) : Bool :=
  (List.range 8).all fun n => let s := c.axState n; s == axDisabled || s == axIdle || s == axFault

/-! ### Enable (R322, R335, R339) and the chopper's events (R342, R344) -/

/-- Enable goes from 0 to 1: FAULT, homed and the phase index clear, and the axis is IDLE. -/
def axEnabled (n : Nat) (c : Chip) : Chip :=
  wr (Reg.AX_STATUS_fault n) 0 c |> wr (Reg.AX_STATUS_homed n) 0 |> wr (Reg.AX_PHASE_i n) 0
    |> modAx n (fun x => { x with plan := none, home := none, lastStep := none, holdCur := false })
    |> axStill n axIdle

/-- Change one coil (DEDUCED, log entry 43). -/
def modCoil (n : Nat) (coilB : Bool) (f : Coil → Coil) (c : Chip) : Chip :=
  modAx n (fun x => { x with coils := modAt x.coils (b2n coilB) f }) c

/-- A coil. -/
def Chip.coil (c : Chip) (n : Nat) (coilB : Bool) : Coil := (c.ax n).coils.getD (b2n coilB) Coil.off

/-- The drive phase of a coil ends at an FCLK cycle: fast decay, or slow decay at once when the fast share is 0 (R342,
R343). -/
def coilOff (ff t : Nat) (k : Coil) : Coil := { k with phase := if ff = 0 then 4 else 3, since := t }

/-- FCLK cycles of the fast decay (R342). -/
def Chip.fastCycles (c : Chip) (n : Nat) : Nat := c.rd (Reg.AX_CHOP_toff n) * 200 * c.rd (Reg.AX_CHOP_ff n) / 16
/-- FCLK cycles of the slow decay (R342). -/
def Chip.slowCycles (c : Chip) (n : Nat) : Nat := c.rd (Reg.AX_CHOP_toff n) * 200 - c.fastCycles n

/-- Whether a coil is in a phase whose present part has lasted some FCLK cycles at an FCLK cycle of the present beat. -/
def Chip.coilDue (c : Chip) (n : Nat) (coilB : Bool) (phase len cycle : Nat) : Bool :=
  let k := c.coil n coilB
  k.phase == phase && decide (k.since + len ≤ c.now * 250 + cycle)

/-- A drive phase that ends by ton_max (R344): it begins or goes on with a run of timeouts in which the axis issues no
microstep, or, with a microstep in it, ends one; the 64th of a run faults. -/
def chopTimeout (n : Nat) (coilB : Bool) (cycle : Nat) (c : Chip) : Chip :=
  let k := c.coil n coilB
  if c.coilDue n coilB 2 (c.rd (Reg.AX_CHOP_ton_max n) * 1000) cycle then
    let stepped (b0 : Nat) : Bool := (c.ax n).lastStep.any fun b => decide (b0 < b)
    let run := if stepped k.start then 0 else if k.run = 0 ∨ stepped k.steps0 = true then 1 else k.run + 1
    let c := inc (Reg.AX_TIMEOUTS_count n) (Reg.AX_STICKY_sat n) 1 c
    let c := modCoil n coilB (fun k => coilOff (c.rd (Reg.AX_CHOP_ff n)) (c.now * 250 + cycle)
      { k with run := run, steps0 := if run = 1 then k.start else k.steps0 }) c
    let st := c.axState n
    if run ≥ 64 ∧ (st = axIdle ∨ st = axGeared ∨ st = axHoming ∨ st = axMoving) then
      axFaulted n 2 (c.now + 1) (modCoil n coilB (fun k => { k with run := 0 }) c)
    else c
  else c

/-- The flags byte of AX_STATUS (03, R92): moving, homed, CHATTER, HOME_LIMIT, fault. -/
def Chip.axFlags (c : Chip) (n : Nat) : Nat :=
  let st := c.axState n
  b2n (decide (2 ≤ st ∧ st ≤ 6)) + 2 * b2n (c.flag (Reg.AX_STATUS_homed n)) +
    4 * b2n (c.flag (Reg.AX_STATUS_chatter n)) + 8 * b2n (c.flag (Reg.AX_STATUS_home_limit n)) +
    16 * b2n (st == axFault)

end Sys2Proof.Machine
end

