-- ==== Sys2Proof/Machine/Calib.lean ====
section
/-! DEFINITION. The calibration unit's counts and gradual corrections (17_thermal_calibration_snapshots.md, R481–R486),
which the units that are calibrated use. The commands are in CalCmds.lean. -/

namespace Sys2Proof.Machine

open Sys2Proof

/-- Change the calibration unit. -/
def modCal (f : Cal → Cal) (c : Chip) : Chip := { c with sys := { c.sys with cal := f c.sys.cal } }

/-- A round of an item is complete: counted, with its device time (R486). The unit lies in PD_FABRIC. -/
def calCount (item : Nat) (c : Chip) : Chip :=
  if !c.on pdFABRIC then c
  else
    let t := c.time 0
    inc (Reg.CAL_ITEM_COUNT_value item) Reg.CAL_STICKY_sat item c |> wr (Reg.CAL_ITEM_NS_value item) (nsOf t)
      |> wr2 (Reg.CAL_ITEM_SEC_LO_value item) (Reg.CAL_ITEM_SEC_HI_value item) (secsOf t)

/-- The accumulated steps of a correction. -/
def Chip.trimOf (c : Chip) (item inst : Nat) : Int := (assocGet (item * 65536 + inst) c.sys.cal.trims).getD 0

/-- A gradual correction moves by a step (R482, R486). Whether it stands at the end of its range is a measured quantity
(DESIGN CHOICE, log entry 7): there it stays, and TRIM_LIMIT is logged once until it moves away. -/
def trimStep (item inst : Nat) (move : Int) (c : Chip) : Chip :=
  if move = 0 then c
  else
    let key := item * 65536 + inst
    let (k, c) := draw c
    if Config.measured k % 2 = 1 then
      if c.sys.cal.limit.contains key then c
      else
        modCal (fun x => { x with limit := x.limit ++ [key] }) c
          |> log 0x0D03 inst (u8 item ++ u8 0 ++ u16 inst ++ s32LE (c.trimOf item inst))
    else
      modCal (fun x => { x with limit := x.limit.filter (· != key), trims := assocPut key (c.trimOf item inst + move) x.trims }) c

/-- The next step of a measured correction that is applied step by step. -/
def trimNext (item inst : Nat) (c : Chip) : Chip :=
  let key := item * 65536 + inst
  let t := (assocGet key c.sys.cal.todo).getD 0
  if t = 0 then c
  else
    let move : Int := if t > 0 then 1 else -1
    modCal (fun x => { x with todo := if t = move then assocDel key x.todo else assocPut key (t - move) x.todo }) c
      |> trimStep item inst move

/-- A measurement finds the steps that a correction still needs: a measured quantity of −128 to 127 (DESIGN CHOICE, log entry 7). -/
def trimMeasure (item inst : Nat) (c : Chip) : Chip :=
  let (k, c) := draw c
  modCal (fun x => { x with todo := assocPut (item * 65536 + inst) (toS 8 (Config.measured k % 256)) x.todo }) c

end Sys2Proof.Machine
end

