-- ==== Sys2Proof/Machine/Net.lean ====
section
/-! DEFINITION. Ports, PTP, the time servo, the step, time pulses, and control of the paths
(15_network_time_redundancy.md; 02_beat_and_admission.md, R38–R46). The commands are in NetCmds.lean. -/

namespace Sys2Proof.Machine

open Sys2Proof

/-- Change the ports and the servo. -/
def modNet (f : Net → Net) (c : Chip) : Chip := { c with sys := { c.sys with net := f c.sys.net } }

/-- A port's slave clock. -/
def Chip.port (c : Chip) : Path → PtpPort
  | .a => c.sys.net.portA
  | .b => c.sys.net.portB

/-- The station address of a path (R425). -/
def Chip.stationMac (c : Chip) (p : Path) : Nat := c.rd2 (Reg.NET_MAC_LO_mac p.code) (Reg.NET_MAC_HI_mac p.code)

/-- Change one port. -/
def modPort (p : Path) (f : PtpPort → PtpPort) (c : Chip) : Chip :=
  match p with
  | .a => modNet (fun n => { n with portA := f n.portA }) c
  | .b => modNet (fun n => { n with portB := f n.portB }) c

/-- Change the servo. -/
def modServo (f : Servo → Servo) (c : Chip) : Chip := modNet (fun n => { n with servo := f n.servo }) c

/-- The controlling path (R437). -/
def Chip.ctlPath (c : Chip) : Path := if c.flag Reg.HG_STATUS_ctl_path then .b else .a

/-- The claim of a path (R436). -/
def Chip.claimOf (c : Chip) : Path → Nat
  | .a => c.rd Reg.HG_CLAIM_claim_a
  | .b => c.rd Reg.HG_CLAIM_claim_b

/-- Whether a path is current (R436). -/
def Chip.current (c : Chip) : Path → Bool
  | .a => c.flag Reg.HG_STATUS_current_a
  | .b => c.flag Reg.HG_STATUS_current_b

/-- The field that says whether a path is current. -/
def currentFld : Path → Fld
  | .a => Reg.HG_STATUS_current_a
  | .b => Reg.HG_STATUS_current_b

/-- The field that counts qualifying heartbeats of a path (R437). -/
def qualFld : Path → Fld
  | .a => Reg.HG_STATUS_qual_a
  | .b => Reg.HG_STATUS_qual_b

/-- The claim field of a path. -/
def claimFld : Path → Fld
  | .a => Reg.HG_CLAIM_claim_a
  | .b => Reg.HG_CLAIM_claim_b

/-- The beat of the latest authenticated heartbeat of a path. -/
def Chip.hbAt (c : Chip) : Path → Option Nat
  | .a => c.host.hg.hbA
  | .b => c.host.hg.hbB

/-- The heartbeat timeout in beats (R436): 4,000 beats are 1 ms. -/
def Chip.hbSpan (c : Chip) : Nat := c.rd Reg.HG_CTL_hb_timeout * 4000

/-- The time state (R42). -/
def Chip.timeState (c : Chip) : Nat := c.rd Reg.BT_STATUS_time_state

/-- Beats in 2^k seconds (R427–R430: intervals are powers of two of a second). -/
def intervalBeats (k : Int) : Nat :=
  if k ≥ 0 then 4000000 * 2 ^ (min k.toNat 32) else 4000000 / 2 ^ (min (-k).toNat 32)

/-! ### Time state (R42, R430, R433) -/

/-- A change of time state: the TIME notice says on which beat it takes effect (R86). -/
def setTime (st beat : Nat) (c : Chip) : Chip :=
  wr Reg.BT_STATUS_time_state st c |> noticeAll 0x8007 0 (toBE 1 st ++ toBE 1 0 ++ toBE 8 beat)

/-- The count of four offsets of a port restarts (R430). -/
def restartCount (p : Path) (c : Chip) : Chip := modPort p (fun q => { q with offsets := [] }) c

/-- A first lock that has not been fixed into a step becomes void (R430). -/
def voidLock (c : Chip) : Chip :=
  if c.timeState = 1 ∧ c.sys.net.servo.step = none then setTime 0 c.now c |> restartCount c.ctlPath else c

/-- An entry condition of HOLDOVER (R433). -/
def holdover (cause : Nat) (c : Chip) : Chip :=
  let p := c.ctlPath.code
  let note (c : Chip) : Chip :=
    when (c.alive pdNET) (wr Reg.PTP_STATUS_cause cause) c |> log 0x0B13 p (u8 p ++ u8 cause ++ u16 0 ++ beat32 c.now)
  if c.timeState = 2 then note c |> setTime 3 c.now
  else if c.timeState = 3 ∧ c.rd Reg.PTP_STATUS_cause ≠ cause then note c
  else c

/-- The controlling path has no master, or no Sync from it (R430, R433). -/
def masterMissing (c : Chip) : Chip := holdover 2 (voidLock c)

/-! ### The servo (R430–R432) -/

/-- An offset in units of 0.1 ns as whole ns, halves away from zero (DEDUCED, log entry 13). -/
def offsetNs (o : Int) : Int := divRoundAway o 10

/-- An accepted offset (R432): the integral and the trim, for the next beat opening. -/
def offsetAccepted (o : Int) (c : Chip) : Chip :=
  let p := c.ctlPath
  let k := (c.port p).logSync
  let e : Int :=
    if k ≥ 0 then divRoundAway (o * 100) (2 ^ (min k.toNat 32)) else o * 100 * 2 ^ (min (-k).toNat 32)
  let i := clampI (-200000000) 200000000 (c.sys.net.servo.integ + divRoundAway (c.rd Reg.PTP_SERVO_ki * e) 65536)
  let trim := clampI (-200000000) 200000000 (-(divRoundAway (c.rd Reg.PTP_SERVO_kp * e) 65536 + i))
  let c := modServo (fun s => { s with integ := i, newTrim := some trim }) c
    |> inc Reg.PTP_ACCEPTED_count Reg.PTP_STICKY_sat 1
  if c.timeState = 3 then
    log 0x0B14 p.code (u8 p.code ++ u8 0 ++ u16 0 ++ s32LE (satS 32 (offsetNs o))) c |> setTime 2 c.now
  else c

/-- A refused offset (R431). -/
def offsetRefused (o : Int) (c : Chip) : Chip :=
  let p := c.ctlPath.code
  wr Reg.PTP_STATUS_refused 1 c |> inc Reg.PTP_REFUSED_count Reg.PTP_STICKY_sat 0
    |> log 0x0B12 p (u8 p ++ u8 0 ++ u16 0 ++ s32LE (satS 32 (offsetNs o))) |> holdover 1

/-- An offset tested against the jump threshold (R431). -/
def offsetTest (o : Int) (c : Chip) : Chip :=
  if o.natAbs ≤ 10 * c.rd Reg.PTP_THRESH_thresh then offsetAccepted o c else offsetRefused o c

/-- The offsets differ among themselves by at most the threshold. -/
def consistent (thresh : Nat) (l : List Int) : Bool :=
  l.all fun a => l.all fun b => decide ((a - b).natAbs ≤ 10 * thresh)

/-- The servo follows control to another path (R440): the latest offset there is tested if it is recent (R429). -/
def servoMoved (c : Chip) : Chip :=
  let p := c.ctlPath
  let q := c.port p
  let at0 := c.rd2 (Reg.PTP_P_AT_LO_value p.code) (Reg.PTP_P_AT_HI_value p.code)
  match q.offsets with
  | (o, _) :: _ => if c.now ≤ at0 + 2 * intervalBeats q.logSync then offsetTest o c else holdover 4 c
  | [] => holdover 4 c

/-- First lock (R430): STEP_PENDING; with a job RUNNING the step is deferred. -/
def firstLock (c : Chip) : Chip :=
  let p := c.ctlPath.code
  let c := wr Reg.PTP_STATUS_lock_seen 1 c |> log 0x0B11 p (u8 p ++ u8 0 ++ u16 0 ++ beat32 c.now)
    |> setTime 1 c.now
  match c.running with
  | some j => log 0x0131 0 (u32 j.id ++ u32 0) c
  | none => c

/-- A new offset of the controlling path (R430, R431). -/
def servoOffset (c : Chip) : Chip :=
  let l := (c.port c.ctlPath).offsets
  let th := c.rd Reg.PTP_THRESH_thresh
  match c.timeState with
  | 0 =>
    let l4 := (l.take 4).map fun p => p.1
    if l4.length = 4 ∧ consistent th l4 then firstLock c else c
  | 1 =>
    if c.sys.net.servo.step.isSome then c
    else match l with
      | a :: b :: _ => if (a.1 - b.1).natAbs > 10 * th then voidLock c else c
      | _ => c
  | _ =>
    match l with
    | a :: _ => offsetTest a.1 c
    | [] => c

/-! ### Best master selection (R428) -/

/-- Order of two masters by the data set comparison of IEEE 1588-2019: whether `a` is better than `b`
(PRESUMED, log entry 44). -/
def betterMaster (a b : Announce) : Bool :=
  let key (x : Announce) : List Nat :=
    [x.prio1.toNat, x.clockClass.toNat, x.accuracy.toNat, x.variance.toNat, x.prio2.toNat, x.gm.toNat]
  let path (x : Announce) : List Nat := [x.steps.toNat, x.sender.toNat, x.port.toNat]
  decide (key a ++ path a < key b ++ path b)

/-- A foreign master is qualified when two Announces came within four of its intervals, the last one within the
receipt timeout of three, and it is fewer than 255 steps away. -/
def Foreign.qualified (now : Nat) (f : Foreign) : Bool :=
  let i := intervalBeats (toS 8 f.a.logInterval.toNat)
  decide (f.a.steps.toNat < 255) && decide (now ≤ f.last + 3 * i) &&
    match f.prev with
    | some b => decide (f.last ≤ b + 4 * i)
    | none => false

/-- The best of a list of foreign masters. -/
def bestOf : List Foreign → Option Foreign
  | [] => none
  | f :: l =>
    match bestOf l with
    | none => some f
    | some g => if betterMaster g.a f.a then some g else some f

/-- Show a port's master in PTP_P_n_GM and PTP_STATUS. -/
def showMaster (p : Path) (m : Option (Nat × Nat)) (c : Chip) : Chip :=
  let (id, port) := m.getD (0, 0)
  wr2 (Reg.PTP_P_GM_LO_value p.code) (Reg.PTP_P_GM_HI_value p.code) id c
    |> wr (Reg.PTP_P_GM_PORT_value p.code) port
    |> wrB (match p with | .a => Reg.PTP_STATUS_master_a | .b => Reg.PTP_STATUS_master_b) m.isSome

/-- A port's selected master changes: its exchanges start afresh; a new master is logged (R428, R430). -/
def newMaster (p : Path) (m : Option (Nat × Nat)) (c : Chip) : Chip :=
  let now := c.now
  let c := modPort p (fun q => { q with master := m, sync := none, ms := none, req := none, offsets := [],
                                        lastSync := some now, nextReq := now }) c |> showMaster p m
  let c := match m with
    | some (id, port) => log 0x0B10 p.code (u8 p.code ++ u8 0 ++ u16 port ++ u32 id) c
    | none => c
  if p = c.ctlPath then (if m.isNone then masterMissing c else voidLock c) else c

/-- A port selects its master again. -/
def selectMaster (p : Path) (c : Chip) : Chip :=
  let q := c.port p
  let m := (bestOf (q.foreign.filter (Foreign.qualified c.now))).map fun f => (f.a.sender.toNat, f.a.port.toNat)
  if m = q.master then c else newMaster p m c

/-- The beat by which the selected master's next Announce is due, if it has one. -/
def Chip.announceDue (c : Chip) (p : Path) : Option Nat :=
  let q := c.port p
  match q.master with
  | none => none
  | some m => (q.foreign.find? fun f => f.a.sender.toNat == m.1 && f.a.port.toNat == m.2).map fun f =>
      f.last + 3 * intervalBeats (toS 8 f.a.logInterval.toNat)

/-- The announce receipt timeout (R428). -/
def announceTimeout (p : Path) (c : Chip) : Chip :=
  match c.announceDue p with
  | some b =>
    if c.now > b then
      let stays (m : Option (Nat × Nat)) (f : Foreign) : Bool := !decide (some (f.a.sender.toNat, f.a.port.toNat) = m)
      modPort p (fun q => { q with foreign := q.foreign.filter (stays q.master) }) c |> selectMaster p
    else c
  | none => c

/-- No Sync from the master within three sync intervals (R430, R433). -/
def syncTimeout (p : Path) (c : Chip) : Chip :=
  let q := c.port p
  match q.lastSync with
  | some b =>
    if q.master.isSome ∧ c.now > b + 3 * intervalBeats q.logSync ∧ p = c.ctlPath then masterMissing c else c
  | none => c

/-! ### The step (R43, R44) -/

/-- The step is fixed (R43): four exchanges of the controlling path give the drift and the master time (R430). -/
def stepFix (c : Chip) : Chip :=
  if c.timeState = 1 ∧ c.sys.net.servo.step = none ∧ c.running = none ∧
      (c.host.jobs.filter fun j => j.st == 1).all (fun j => match j.start with
        | some b => decide (b > c.now + 4)
        | none => true) then
    match (c.port c.ctlPath).offsets with
    | (ok, t2k) :: _ :: _ :: (o3, t23) :: _ =>
      let rho : Rat := if t2k = t23 then 0 else ((ok - o3 : Int) : Rat) / ((t2k - t23 : Int) : Rat)
      let ns := c.now + 4
      let ts : Int := 10 * c.timeOf ns
      let m : Rat := ((ts - ok : Int) : Rat) - rho * ((ts - t2k : Int) : Rat)
      let m0 : Int := (m / 10 + 1 / 2).floor
      let d := ((250 - m0 % 250) % 250).toNat
      let ppt : Int := let r := rho * 1000000000000; if r ≥ 0 then (r + 1 / 2).floor else -((-r + 1 / 2).floor)
      modServo (fun s => { s with step := some (ns, d, m0 + 250 + d, ppt) }) c
    | _ => c
  else c

/-- The step is taken from the opening of beat n_s + 1 on (R44): the epoch is set once, and the new time line holds. -/
def timeStep (c : Chip) : Chip :=
  match c.sys.net.servo.step with
  | some (ns, d, t, ppt) =>
    if c.timeState = 1 ∧ ns < c.now then
      let old := c.timeOf (ns + 1)
      let moved := c.sys.net.servo.moved
      let dt := t - old
      let whole := clampI (-8388608) 8388607 (divTrunc dt giga)
      let i := clampI (-200000000) 200000000 ppt
      let c := { c with fix := { c.fix with epoch := t - 250 * ((ns + 1 : Nat) : Int) } }
      let c := wr2 Reg.BT_STEP_BEAT_LO_step_beat Reg.BT_STEP_BEAT_HI_step_beat ns c
        |> wr Reg.BT_STEP_STRETCH_stretch d |> wr Reg.BT_STATUS_step_done 1
        |> wrS Reg.BT_RATE_TRIM_trim (-i)
        |> modServo (fun s => { s with step := none, integ := i, newTrim := none, moved := false })
        |> log 0x0130 0 (u32 ns ++ u8 d ++ toLE 3 (ofS 24 whole))
        |> setTime 2 (ns + 1)
      let c := when moved servoMoved c
      if (c.port c.ctlPath).master.isNone then masterMissing c else syncTimeout c.ctlPath c
    else c
  | none => c

/-! ### Control of the paths (R436–R440) -/

/-- Control moves (R438), and the servo with it (R440). -/
def pathSwitch (p : Path) (higher : Bool) (c : Chip) : Chip :=
  let claim := c.claimOf p
  let c := { c with host := { c.host with hg := { c.host.hg with switchTo := none } } }
  let c := wr Reg.HG_STATUS_ctl_path p.code c |> wr2 Reg.HG_SWITCH_LO_value Reg.HG_SWITCH_HI_value c.now
    |> incWrap Reg.HG_SWITCHES_value
    |> log 0x0B20 p.code (u8 p.code ++ u8 (b2n higher) ++ u16 claim ++ beat32 c.now)
    |> noticeAll 0x8005 0 (toBE 1 p.code ++ toBE 1 0 ++ toBE 2 claim ++ toBE 8 c.now)
  let fixed := c.sys.net.servo.step.isSome
  if c.timeState = 0 ∨ (c.timeState = 1 ∧ fixed = false) then voidLock c |> restartCount p
  else if c.timeState = 1 then modServo (fun s => { s with moved := !s.moved }) c
  else servoMoved c

/-- A change of control is decided (R437) and takes effect, or waits for the queued command that runs (R438). -/
def decideControl (c : Chip) : Chip :=
  let y := c.ctlPath
  let x := y.other
  let cond0 := !c.current y && c.current x
  let cond1 := c.current x && decide (c.claimOf x > c.claimOf y) && c.rd (qualFld x) == 3
  if cond0 || cond1 then
    if c.host.hg.queue.isEmpty then pathSwitch x (!cond0) c
    else { c with host := { c.host with hg := { c.host.hg with switchTo := some (x, !cond0) } } }
  else c

/-- A change of control that waits takes effect; what has changed since then is judged next. -/
def switchWaiting (c : Chip) : Chip :=
  match c.host.hg.switchTo with
  | some (p, h) => pathSwitch p h c |> decideControl
  | none => c

/-- A path stops being current (R436): cause 0 link, 1 timeout. -/
def pathLost (p : Path) (cause : Nat) (c : Chip) : Chip :=
  let c := wr (qualFld p) 0 c
  if c.current p then
    wr (currentFld p) 0 c
      |> log 0x0B21 p.code (u8 p.code ++ u8 cause ++ u16 (c.claimOf p) ++ beat32 c.now) |> decideControl
  else c

/-- The heartbeat timeout of a path. -/
def pathTimeout (p : Path) (c : Chip) : Chip :=
  match c.hbAt p with
  | some b => if c.current p ∧ c.now > b + c.hbSpan then pathLost p 1 c else c
  | none => c

/-- An authenticated heartbeat on a path with its claim (R436, R437). -/
def heartbeat (p : Path) (claim : Nat) (c : Chip) : Chip :=
  let consec := match c.hbAt p with
    | some b => c.current p && decide (c.now ≤ b + c.hbSpan)
    | none => false
  let q := if claim > c.claimOf p.other then min 3 ((if consec then c.rd (qualFld p) else 0) + 1) else 0
  let hg := match p with
    | .a => { c.host.hg with hbA := some c.now }
    | .b => { c.host.hg with hbB := some c.now }
  let c := { c with host := { c.host with hg := hg } }
  wr (claimFld p) claim c |> wr (qualFld p) q |> wrB (currentFld p) (c.flag (Reg.NET_STATUS_link p.code))
    |> inc (Reg.HG_P_HB_count p.code) (Reg.HG_P_STICKY_sat p.code) 5 |> decideControl

/-! ### Ports (R421–R425) -/

/-- Whether a port can receive: PD_NET on and the port enabled. -/
def Chip.portOn (c : Chip) (p : Path) : Bool := c.on pdNET && c.flag (Reg.NET_CTL_enable p.code)

/-- A received frame accepted. -/
def rxFrame (p : Path) (c : Chip) : Chip := inc (Reg.NET_RX_FRAMES_count p.code) (Reg.NET_STICKY_sat p.code) 0 c

/-- A received frame dropped (R421, R423, R424). -/
def rxDrop (p : Path) (c : Chip) : Chip := inc (Reg.NET_RX_DROP_count p.code) (Reg.NET_STICKY_sat p.code) 2 c

/-- A frame sent. -/
def txFrame (p : Path) (t : Tx) (c : Chip) : Chip :=
  send t c |> inc (Reg.NET_TX_FRAMES_count p.code) (Reg.NET_STICKY_sat p.code) 3

/-- The corrections of the present mode (R426). -/
def portCorr (p : Path) (c : Chip) : Chip :=
  let m := c.flag (Reg.NET_CTL_mode p.code)
  wr (Reg.NET_TS_CORR_ingress p.code) (if m then 1504 else 272) c
    |> wr (Reg.NET_TS_CORR_egress p.code) (if m then 1040 else 208)

/-- What a port's PCS reports of a local or remote fault and of auto-negotiation. -/
def portPcs (p : Path) (fault an : Bool) (c : Chip) : Chip :=
  wrB (Reg.NET_STATUS_fault p.code) fault c |> wrB (Reg.NET_STATUS_an_done p.code) an

/-- The link of a port is up or down (R422). A path whose link returns within the heartbeat timeout is current again
(R436). -/
def linkShow (p : Path) (up : Bool) (c : Chip) : Chip :=
  let n := p.code
  if c.flag (Reg.NET_STATUS_link n) == up then c
  else
    let c := wrB (Reg.NET_STATUS_link n) up c
      |> log 0x0B01 n (u8 n ++ u8 (b2n up) ++ u8 (c.rd (Reg.NET_CTL_mode n)) ++ u8 0 ++ beat32 c.now)
    if up then
      let fresh := match c.hbAt p with
        | some b => decide (c.now ≤ b + c.hbSpan)
        | none => false
      modNet (fun t => { t with modeTry := setAt t.modeTry n 0 }) c
        |> when fresh (fun c => wr (currentFld p) 1 c |> decideControl)
    else wr (Reg.NET_STATUS_link_lost n) 1 c |> pathLost p 0

/-- Lock, fault and auto-negotiation of a port's PCS change (R422) (DEDUCED, log entry 52). -/
def netLink (p : Path) (lock fault an : Bool) (c : Chip) : Chip :=
  let n := p.code
  let negotiates := c.flag (Reg.NET_CTL_mode n) && c.flag (Reg.NET_CTL_an_en n)
  when (c.portOn p) (fun c => portPcs p fault (an && negotiates) c
    |> linkShow p (lock && !fault && (an || !negotiates))) c

/-- The boot ROM enables a port (R450): it tries 10GBASE-R first. -/
def portBoot (p : Path) (c : Chip) : Chip :=
  wr (Reg.NET_CTL_enable p.code) 1 c |> wr (Reg.NET_CTL_mode p.code) 0 |> portCorr p
    |> modNet (fun t => { t with modeTry := setAt t.modeTry p.code (c.now + 1) })

/-- After 1 s without a link a port that the boot ROM enabled tries the other mode (R450). -/
def portTry (p : Path) (c : Chip) : Chip :=
  let n := p.code
  let t := c.sys.net.modeTry.getD n 0
  if t ≠ 0 ∧ c.now ≥ (t - 1) + 4000000 ∧ c.flag (Reg.NET_STATUS_link n) = false ∧ c.portOn p then
    let m := c.flag (Reg.NET_CTL_mode n)
    wrB (Reg.NET_CTL_mode n) (!m) c |> when (!m) (wr (Reg.NET_CTL_an_en n) 1) |> portCorr p
      |> modNet (fun t => { t with modeTry := setAt t.modeTry n (c.now + 1) })
  else c

/-! ### PTP messages (R427, R429) -/

/-- Whether a port takes a PTP frame at all (R423, R427). -/
def Chip.ptpFrame (c : Chip) (p : Path) (h : PtpHead) : Bool :=
  c.portOn p && c.flag (Reg.NET_CTL_ptp_en p.code) &&
    (if h.udp then c.flag Reg.PTP_CTL_udp_en && c.rd (Reg.NET_IP_ip p.code) != 0 else c.flag Reg.PTP_CTL_l2_en)

/-- A received PTP message: counted, and handled when its version and domain are the port's (R427). -/
def ptpRx (p : Path) (h : PtpHead) (f : Chip → Chip) (c : Chip) : Chip :=
  if !c.portOn p then c
  else if c.ptpFrame p h then
    let c := rxFrame p c
    if h.version.toNat % 16 = 2 ∧ h.domain.toNat = c.rd Reg.PTP_CTL_domain then
      f (inc (Reg.NET_RX_PTP_count p.code) (Reg.NET_STICKY_sat p.code) 4 c)
    else c
  else rxDrop p c

/-- A message from the port's selected master. -/
def Chip.fromMaster (c : Chip) (p : Path) (h : PtpHead) : Bool :=
  decide ((c.port p).master = some (h.sender.toNat, h.port.toNat))

/-- An Announce: its foreign master's record, and the selection (R428). -/
def ptpAnnounce (p : Path) (a : Announce) (c : Chip) : Chip :=
  let now := c.now
  let same (f : Foreign) : Bool := f.a.sender == a.sender && f.a.port == a.port
  let prev := ((c.port p).foreign.find? same).map fun f => f.last
  let others (f : Foreign) : Bool := !same f
  modPort p (fun q => { q with foreign := q.foreign.filter others ++ [⟨a, now, prev⟩] }) c
    |> selectMaster p

/-- A Sync of the selected master (R429). `seen`: its timestamp at the MAC/PCS boundary, from which the ingress correction
gives the receive timestamp point t2 (R426). -/
def ptpSync (p : Path) (h : PtpHead) (twoStep : Bool) (t1 seen : Int) (logInterval : Int) (c : Chip) : Chip :=
  let t2 : Int := seen - (c.rd (Reg.NET_TS_CORR_ingress p.code) : Int)
  if c.fromMaster p h then
    modPort p (fun q => { q with
      lastSync := some c.now, logSync := logInterval, syncUdp := h.udp
      sync := if twoStep then some (h.seqId.toNat, h.c, t2, true) else none
      ms := if twoStep then q.ms else some (t2 - t1 - h.c, t2) }) c
  else c

/-- A Follow_Up of the Sync in progress (R429). -/
def ptpFollowUp (p : Path) (h : PtpHead) (t1 : Int) (c : Chip) : Chip :=
  match (c.port p).sync with
  | some (seq, corr, t2, true) =>
    if c.fromMaster p h ∧ seq = h.seqId.toNat then
      modPort p (fun q => { q with sync := none, ms := some (t2 - t1 - corr - h.c, t2) }) c
    else c
  | _ => c

/-- A Delay_Req is sent when its time has come (R427, R428); the next one follows at random.
`seen`: its timestamp at the MAC/PCS boundary, to which the egress correction is added for t3 (R426). -/
def delayReq (p : Path) (seen : Int) (c : Chip) : Chip :=
  let t3 : Int := seen + (c.rd (Reg.NET_TS_CORR_egress p.code) : Int)
  let q := c.port p
  if c.portOn p ∧ q.master.isSome ∧ q.ms.isSome ∧ q.nextReq ≤ c.now then
    let (k, c) := draw c
    let span := 2 * intervalBeats q.logDelay
    modPort p (fun q => { q with req := some (q.reqSeq, t3), reqSeq := (q.reqSeq + 1) % 65536,
                                 nextReq := c.now + Config.random k % (span + 1) }) c
      |> txFrame p (.delayReq p q.syncUdp q.reqSeq)
      |> inc (Reg.NET_TX_PTP_count p.code) (Reg.NET_STICKY_sat p.code) 5
  else c

/-- The clock identity (R427): the EUI-64 of path A's station address. -/
def Chip.clockId (c : Chip) : Nat :=
  let m := c.stationMac .a
  (m / 2 ^ 24) * 2 ^ 40 + 0xFFFE * 2 ^ 24 + m % 2 ^ 24

/-- A Delay_Resp completes an exchange (R429): offset and mean path delay, in units of 0.1 ns. -/
def ptpDelayResp (p : Path) (h : PtpHead) (reqPort reqClock : Nat) (t4 : Int) (logInterval : Int) (c : Chip) :
    Chip :=
  let q := c.port p
  if c.fromMaster p h ∧ reqPort = p.code + 1 ∧ reqClock = c.clockId then
    match q.req, q.ms with
    | some (seq, t3), some (ms, t2) =>
      if seq = h.seqId.toNat then
        let sm := t4 - t3 - h.c
        let o := divRoundAway (ms - sm) 2
        let d := divRoundAway (ms + sm) 2
        let c := modPort p (fun q => { q with req := none, logDelay := logInterval,
                                              offsets := ((o, t2) :: q.offsets).take 4 }) c
          |> wrS (Reg.PTP_P_OFFSET_value p.code) (satS 32 (offsetNs o))
          |> wr (Reg.PTP_P_DELAY_value p.code) (satU 32 (offsetNs d).toNat)
          |> wr2 (Reg.PTP_P_AT_LO_value p.code) (Reg.PTP_P_AT_HI_value p.code) c.now
        if p = c.ctlPath then servoOffset c else c
      else c
    | _, _ => c
  else c

/-! ### Time pulses and captures (R434, R435) -/

/-- Change one time pulse output. -/
def modPulse (k : Nat) (f : Pulse → Pulse) (c : Chip) : Chip :=
  modNet (fun n => { n with pulses := modAt n.pulses k f }) c

/-- A time pulse output. -/
def Chip.pulse (c : Chip) (k : Nat) : Pulse := c.sys.net.pulses.getD k ⟨none, none, 0⟩

/-- The first pulse time that the registers hold. -/
def Chip.pulseFirst (c : Chip) (k : Nat) : Int :=
  (c.rd2 (Reg.PTP_TP_SEC_LO_value k) (Reg.PTP_TP_SEC_HI_value k) : Int) * giga + c.rd (Reg.PTP_TP_NS_value k)

/-- The earliest first + j × period at or after a time. -/
def pulseNext (first t : Int) (period : Nat) : Int :=
  if t ≤ first then first else first + (t - first + period - 1) / period * period

/-- The registers of an output are taken as a new setting (R434). -/
def pulseApply (k : Nat) (c : Chip) : Chip :=
  let mode := c.rd (Reg.PTP_TP_CTL_mode k)
  let first := c.pulseFirst k
  let period := max 1 (c.rd (Reg.PTP_TP_PERIOD_value k))
  let next := match mode with
    | 1 => some first
    | 2 => some (pulseNext first (c.timeOf (c.now + 1)) period)
    | _ => none
  modPulse k (fun _ => ⟨next, none, c.now + 1⟩) c |> wr (Reg.PTP_TP_CTL_level k) 0

/-- Whether the setting in the registers keeps the bounds of R434. -/
def pulseOk (mode : Nat) (ns period width : Nat) : Bool :=
  match mode with
  | 0 => true
  | 1 => decide (ns % 250 = 0) && decide (width % 250 = 0) && decide (250 ≤ width)
  | 2 => decide (ns % 250 = 0) && decide (period % 250 = 0) && decide (500 ≤ period) && decide (width % 250 = 0) &&
      decide (250 ≤ width) && decide (width < period)
  | _ => false

/-- The output rises when its time has come (R434) (DEDUCED, log entry 53). -/
def pulseRise (k : Nat) (c : Chip) : Chip :=
  let u := c.pulse k
  match u.next with
  | some t =>
    if t ≤ c.time 0 ∧ u.effective ≤ c.now then
      let next := if c.rd (Reg.PTP_TP_CTL_mode k) = 2 then
          some (pulseNext t (c.time 0 + 1) (max 1 (c.rd (Reg.PTP_TP_PERIOD_value k)))) else none
      modPulse k (fun u => { u with next := next, fall := some (c.now + c.rd (Reg.PTP_TP_WIDTH_value k) / 250) }) c
        |> wr (Reg.PTP_TP_CTL_level k) 1 |> incWrap (Reg.PTP_TP_COUNT_value k)
    else c
  | none => c

/-- The output falls after its width. -/
def pulseFall (k : Nat) (c : Chip) : Chip :=
  match (c.pulse k).fall with
  | some b =>
    if b ≤ c.now then modPulse k (fun u => { u with fall := none }) c |> wr (Reg.PTP_TP_CTL_level k) 0 else c
  | none => c

/-- A selected edge on a capture input is timestamped and counted (R435). -/
def captureEdge (k : Nat) (rise : Bool) (t : Int) (c : Chip) : Chip :=
  if bit (c.rd (Reg.PTP_CAP_CTL_edge k)) (if rise then 0 else 1) then
    incWrap (Reg.PTP_CAP_COUNT_value k) c |> wrB (Reg.PTP_CAP_CTL_last_edge k) rise
      |> wr (Reg.PTP_CAP_NS_value k) (nsOf t)
      |> wr2 (Reg.PTP_CAP_SEC_LO_value k) (Reg.PTP_CAP_SEC_HI_value k) (secsOf t)
  else c

end Sys2Proof.Machine
end

