-- ==== Sys2Proof/Machine/Serve.lean ====
section
/-! DEFINITION. How the Headgate serves a request (03_serair_commands.md, R75–R84): the opcode table, the order of
checks, the queue, and the reply. Every Serair command's meaning is one call of `serve`. -/

namespace Sys2Proof.Machine

open Sys2Proof

/-- What the opcode tables say of an opcode (R84, R87): kind (0 S, 1 R, 2 M), role, whether it enters the queue
(R82). -/
structure OpInfo where
  kind : Nat
  role : Nat
  queued : Bool
  deriving DecidableEq, Repr

/-- A status opcode. -/
abbrev opS : Option OpInfo := some ⟨0, 1, false⟩
/-- A queued read. -/
abbrev opR (role : Nat) : Option OpInfo := some ⟨1, role, true⟩
/-- A queued mutating opcode. -/
abbrev opM (role : Nat) : Option OpInfo := some ⟨2, role, true⟩

/-- The opcode tables (R88–R93); a role that depends on the request is given with it. -/
def opInfo (op : Nat) : Option OpInfo :=
  match op with
  | 0x01 => some ⟨2, 0, false⟩
  | 0x02 => some ⟨2, 0, false⟩
  | 0x03 => some ⟨0, 1, false⟩
  | 0x04 => some ⟨2, 1, false⟩
  | 0x05 => some ⟨2, 1, false⟩
  | 0x06 => opS
  | 0x10 => some ⟨1, 1, false⟩
  | 0x11 => some ⟨2, 1, false⟩
  | 0x12 => some ⟨2, 1, false⟩
  | 0x18 => some ⟨2, 1, false⟩
  | 0x19 => some ⟨2, 1, false⟩
  | 0x1A => opS
  | 0x20 => opM 1
  | 0x21 => opM 1
  | 0x22 => opM 1
  | 0x23 => opM 1
  | 0x24 => opM 1
  | 0x25 => opS
  | 0x30 => opM 1
  | 0x31 => opS
  | 0x40 => opM 1
  | 0x41 => opM 1
  | 0x42 => opM 1
  | 0x43 => opS
  | 0x44 => opR 1
  | 0x60 => opM 1
  | 0x61 => opM 1
  | 0x62 => opM 1
  | 0x63 => opM 1
  | 0x64 => opM 1
  | 0x65 => opS
  | 0x66 => opS
  | 0x70 => opM 1
  | 0x71 => opM 1
  | 0x72 => opM 1
  | 0x73 => opS
  | 0x80 => opM 1
  | 0x81 => opM 1
  | 0x82 => opR 1
  | 0x83 => opS
  | 0x90 => opS
  | 0x91 => opM 1
  | 0x92 => opS
  | 0xA0 => opR 1
  | 0xA1 => opS
  | 0xA2 => opM 2
  | 0xA3 => opR 1
  | 0xB0 => opM 2
  | 0xB1 => opS
  | 0xB2 => opM 2
  | 0xC0 => opM 1
  | 0xC1 => opM 1
  | 0xC2 => opM 1
  | 0xC3 => opS
  | 0xD0 => opM 1
  | 0xD1 => opM 1
  | 0xD2 => opS
  | 0xE0 => opM 2
  | 0xE1 => opM 2
  | 0xE2 => opS
  | 0xF0 => opR 3
  | 0xF1 => opM 3
  | 0xF2 => opR 3
  | _ => none

/-- The role a request needs (R4, R93): PD_OFF needs the installer when forced. -/
def roleFor (op : Nat) (cmd : Instr) : Nat :=
  match cmd with
  | .pdOff _ _ mode => if mode.toNat = 1 then 2 else 1
  | _ => ((opInfo op).map OpInfo.role).getD 0

/-! ### Replies (R69, R75–R77) -/

/-- The flags byte of a reply or notice (R69). -/
def txFlags (p : Path) (notice dup nodata : Bool) : Nat :=
  1 + 2 * b2n notice + 4 * b2n dup + 8 * b2n nodata + 16 * p.code

/-- A reply is sent on the path of its request, to its source (R67), under the session's key (R72). -/
def sendReply (o : Origin) (op : Nat) (dup nodata : Bool) (a : Ans) (c : Chip) : Chip :=
  let s := c.session o.slot.val
  txFrame o.path (.serair o.path o.src (txFlags o.path false dup nodata) o.claim.toNat s.id o.seq.toNat op a.1 a.2
    (some s.key)) c

/-- A sequence is accepted: h rises to it, and records older than h − 63 go (R75). -/
def Session.accept (seq st status : Nat) (s : Session) : Session :=
  let h := if follows 32 seq s.h then seq else s.h
  let s := s.mark seq st status
  { s with h := h, seqs := s.seqs.filter fun r => decide ((h + 2 ^ 32 - r.seq) % 2 ^ 32 < 64) }

/-- A reply kept among the 8 most recent (R77). -/
def Session.keep (r : Reply) (s : Session) : Session := { s with cache := (r :: s.cache).take 8 }

/-- The first reply of a request. REFUSED_CLAIM and REFUSED_BUSY do not consume the sequence (R76). -/
def answer (o : Origin) (op : Nat) (a : Ans) (c : Chip) : Chip :=
  let p := o.path.code
  let k : Reply := ⟨o.seq.toNat, op, o.claim.toNat, a.1, a.2⟩
  let takes : Bool := a.1 != 0x11 && a.1 != 0x13
  when (a.1 == 0x11) (inc (Reg.HG_P_CLAIM_count p) (Reg.HG_P_STICKY_sat p) 3) c
    |> when (a.1 == 0x13) (inc (Reg.HG_P_BUSY_count p) (Reg.HG_P_STICKY_sat p) 4)
    |> modSession o.slot.val (fun s =>
      (if takes then s.accept o.seq.toNat (if a.1 = 0x08 then 2 else 3) a.1 else s).keep k)
    |> sendReply o op false false a

/-- The waiter for a command's reply. -/
def waiterOf (o : Origin) (op : Nat) (late : Bool) (c : Chip) : Waiter :=
  ⟨o, (c.session o.slot.val).id, op, late⟩

/-- A command's reply when its work ends: the reply itself, or a RESULT notice when it has had DEFERRED (R60). -/
def finish (w : Waiter) (a : Ans) (c : Chip) : Chip :=
  if decide ((c.session w.o.slot.val).id = w.sid) then
    if w.late then (if a.1 = 0x08 then c else result ⟨w.o.slot.val, w.sid, w.o.seq.toNat, w.op⟩ a.1 a.2 c)
    else answer w.o w.op a c
  else c

/-! ### Checks (R78, R439, R450, R454) -/

/-- Steps 1 and 3 to 5 of R78: session state, role, claim, queue space. -/
def headChecks (o : Origin) (op : Nat) (info : OpInfo) (role : Nat) (c : Chip) : Option Ans :=
  if !c.sessionOpen o.slot.val then some (refuse 0x12 3 0 0)
  else if c.rd (Reg.SEC_SLOT_STATE_role o.slot.val) < role then some (refuse 0x10 role 0 0)
  else if info.kind = 2 ∧ op ≥ 0x10 ∧ (o.path ≠ c.ctlPath ∨ o.claim.toNat ≠ c.claimOf o.path) then
    some (refuse 0x11 c.ctlPath.code 0 0)
  else if info.queued ∧ c.host.hg.queue.length ≥ 64 then some (refuse 0x13 0 0 0)
  else none

/-- The power domain through which a queued command is carried out (R450, R454, R31): the application cores,
except for power-domain opcodes; while the image switches, no queued opcode is carried out. -/
def bootCheck (op : Nat) (c : Chip) : Option Ans :=
  if c.rd Reg.MGT_BOOT_STATUS_state = 5 then some (badState 5 0)
  else if op = 0xD0 ∨ op = 0xD1 ∨ c.on pdAPP then none
  else some (domainOff pdAPP)

/-- Step 7 of R78: the first domain of the target that is off. -/
def domCheck (doms : List Nat) (c : Chip) : Option Ans := (doms.find? fun d => !c.on d).map domainOff

/-- An authenticated packet from a session arrived on a path (R73, R85). -/
def arrive (o : Origin) (c : Chip) : Chip :=
  let now := c.now
  modSession o.slot.val (fun s =>
    match o.path with
    | .a => { s with last := now, srcA := some o.src }
    | .b => { s with last := now, srcB := some o.src }) c
    |> wr (Reg.SEC_SLOT_STATE_last_path o.slot.val) o.path.code

/-- A queued command leaves the head of the queue: steps 7 and 8 of R78, then its effect. -/
def carry (w : Waiter) (doms : List Nat) (f : Chip → Option Ans × Chip) (c : Chip) : Chip :=
  match bootCheck w.op c with
  | some a => finish w a c
  | none =>
    match domCheck doms c with
    | some a => finish w a c
    | none =>
      match f c with
      | (some a, c) => finish w a c
      | (none, c) =>
        modSession w.o.slot.val (fun s => s.accept w.o.seq.toNat 2 0) c

/-- Whether the Headgate works: PD_FABRIC and PD_NET are on. -/
def Chip.hgOn (c : Chip) : Bool := c.on pdFABRIC && c.on pdNET

/-- The queue's head goes. -/
def dequeue (c : Chip) : Chip := { c with host := { c.host with hg := { c.host.hg with queue := c.host.hg.queue.drop 1 } } }

/-- The beat on which the command to be carried out was received. -/
def received (b : Nat) (c : Chip) : Chip := { c with host := { c.host with hg := { c.host.hg with rcvd := b } } }

/-- A command enters the queue (R83): its sequence is accepted. -/
def enqueue (o : Origin) (op : Nat) (cmd : Instr) (c : Chip) : Chip :=
  let q : Queued := ⟨o, cmd, (c.session o.slot.val).id, op, c.now, false⟩
  modSession o.slot.val (Session.accept o.seq.toNat 1 0)
    { c with host := { c.host with hg := { c.host.hg with queue := c.host.hg.queue ++ [q] } } }

/-- A full queue is logged with the refusal (R83). -/
def queueFull (o : Origin) (op : Nat) (a : Ans) (c : Chip) : Chip :=
  when (a.1 == 0x13) (log 0x0B33 o.path.code
    (u8 o.path.code ++ u8 0 ++ u32 (c.session o.slot.val).id ++ u16 op)) c

/-- A request served. A queued command that stands at the head of the queue leaves it and is carried out; one
that meets an empty queue is checked and carried out; one that finds others waiting joins the queue. A request
that bypasses the queue is checked and carried out at once (R82, R83). `form`: the byte offset of the first
parameter field at fault (step 6 of R78); `doms`: the domains of the target; `f`: the effect, with its reply, or
none when the reply comes later (DEDUCED, log entry 16). -/
def serve (o : Origin) (op role : Nat) (cmd : Instr) (form : Option Nat) (doms : List Nat)
    (f : Chip → Option Ans × Chip) (c : Chip) : Chip :=
  if !c.hgOn then c
  else
    match opInfo op with
    | none => c
    | some info =>
      let first (k : Chip → Chip) (c : Chip) : Chip :=
        let c := arrive o c
        match headChecks o op info role c with
        | some a => answer o op a (queueFull o op a c)
        | none =>
          match form with
          | some off => answer o op (badParam off) c
          | none => k c
      if info.queued then
        match c.host.hg.queue with
        | [] => first (carry (waiterOf o op false c) doms f) (received c.now c)
        | q :: _ =>
          if q.cmd = cmd then
            carry ⟨o, q.sid, op, q.deferred⟩ doms f (received q.arrived (dequeue c)) |> switchWaiting
          else first (enqueue o op cmd) c
      else
        first (fun c =>
          match domCheck doms c with
          | some a => answer o op a c
          | none =>
            match f c with
            | (some a, c) => answer o op a c
            | (none, c) => c) c

/-- An effect whose reply is known at once. -/
def now (f : Chip → Ans × Chip) : Chip → Option Ans × Chip := fun c => let r := f c; (some r.1, r.2)

/-- An effect that only answers. -/
def tell (f : Chip → Ans) : Chip → Option Ans × Chip := fun c => (some (f c), c)

end Sys2Proof.Machine
end

