-- ==== Sys2Proof/Machine/Geometry.lean ====
section
/-! DEFINITION. Geometry of beams: segments and their beats (04_furrows.md, R112, R113), points along a line (R116,
R117), corners (R118), tiles that a segment touches (R129, R151, R154), the field-correction grid (R123). -/

namespace Sys2Proof.Machine

open Sys2Proof

/-- A point of the bed, in nm. -/
abbrev Pt := Int × Int

/-- Square of an integer's size. -/
def sq (a : Int) : Nat := a.natAbs * a.natAbs

/-- The squared distance of two points. -/
def dist2 (p q : Pt) : Nat := sq (q.1 - p.1) + sq (q.2 - p.2)

/-- The length of a segment, rounded up to a whole nanometre (R112). -/
def segLen (p q : Pt) : Nat :=
  let n := dist2 p q
  let r := isqrt n
  if r * r = n then r else r + 1

/-- The beats of a segment at a speed in µm/s (R112). -/
def segBeats (p q : Pt) (v : Nat) : Nat := ceilDiv (4000 * segLen p q) v

/-- Round to the nearest integer, halves away from zero, a quotient whose divisor is the square root of `d`. -/
def divSqrt (a : Int) (d : Nat) : Int :=
  let k : Nat := (isqrt (4 * sq a / d) + 1) / 2
  if a < 0 then -(k : Int) else k

/-- The point `d` nm from p along the unit direction of p to q, or backward when `d` is negative (R116, R117); each
axis is rounded to the nearest nanometre (DEDUCED, log entry 21). -/
def along (p q : Pt) (at0 : Pt) (d : Int) : Pt :=
  let n := dist2 p q
  if n = 0 then at0
  else (at0.1 + divSqrt (d * (q.1 - p.1)) n, at0.2 + divSqrt (d * (q.2 - p.2)) n)

/-- The command of beat first + i of a segment (R113): the position itself is rounded. -/
def Seg.at (g : Seg) (i : Nat) : Pt :=
  let one (p q : Int) : Int := divRoundAway (p * g.n + (i + 1 : Int) * (q - p)) g.n
  (one g.x0 g.x1, one g.y0 g.y1)

/-- The command of a beat under a list of segments, if one of them holds it. -/
def segsAt (l : List Seg) (b : Nat) : Option Pt :=
  (l.find? fun g => decide (g.first ≤ b) && decide (b < g.first + g.n)).map fun g => g.at (b - g.first)

/-- The k-th power of x + iy for y not below 0, and the whole half turns in k times its angle: one more each time the
power changes between the half plane of angles 0 to 180 degrees, 180 left out, and the other. -/
def halfTurns (x y : Int) : Nat → Int × Int × Nat
  | 0 => (1, 0, 0)
  | k + 1 =>
    let (u, v, h) := halfTurns x y k
    let p := u * x - v * y
    let q := u * y + v * x
    let lower := decide (q < 0) || (decide (q = 0) && decide (p < 0))
    (p, q, if lower == decide (h % 2 = 1) then h else h + 1)

/-- Whether the direction changes from a to b by more than a number of degrees (R118), exactly: 180 times the turn lies
above that number of half turns. -/
def turnExceeds (a b : Pt) (deg : Nat) : Bool :=
  let (_, q, h) := halfTurns (a.1 * b.1 + a.2 * b.2) ((a.1 * b.2 - a.2 * b.1).natAbs : Int) 180
  decide (deg < h) || (decide (h = deg) && decide (q ≠ 0))

/-! ### Tiles (05_bed_sluice.md, R151, R152, R154) -/

/-- The tile grid that the SLB registers and the loaded envelope give (R151, R152). -/
def Chip.tileGrid (c : Chip) : TileGrid :=
  let x0 := c.rdS Reg.SLB_GRID_X0_origin
  let y0 := c.rdS Reg.SLB_GRID_Y0_origin
  let e : Int := c.rd Reg.SLB_GRID_EDGE_edge * 1000
  let cols := c.rd Reg.SLB_GRID_SIZE_cols
  let rows := c.rd Reg.SLB_GRID_SIZE_rows
  { x0 := x0, y0 := y0, e := e, cols := cols, rows := rows,
    valid := decide (x0 + cols * e ≤ 2147483647) && decide (y0 + rows * e ≤ 2147483647),
    bed := c.host.sec.envelope.map fun v => (v.xMin, v.yMin, v.xMax, v.yMax) }

/-- The closed square of tile (i, j): lower and upper corner. -/
def TileGrid.square (g : TileGrid) (i j : Nat) : Pt × Pt :=
  ((g.x0 + i * g.e, g.y0 + j * g.e), (g.x0 + (i + 1) * g.e, g.y0 + (j + 1) * g.e))

/-- Whether a tile is DISABLED (R152). -/
def TileGrid.disabled (g : TileGrid) (i j : Nat) : Bool :=
  !g.valid || decide (i ≥ g.cols) || decide (j ≥ g.rows) ||
    match g.bed with
    | none => false
    | some (a, b, c, d) =>
      let s := g.square i j
      decide (s.2.1 < a) || decide (s.1.1 > c) || decide (s.2.2 < b) || decide (s.1.2 > d)

/-- The number of a tile in the owner map (R153). -/
abbrev tileNo (i j : Nat) : Nat := j * 256 + i

/-- Which side of the line from p to q a point lies on. -/
def sideOf (p q r : Pt) : Int := (q.1 - p.1) * (r.2 - p.2) - (q.2 - p.2) * (r.1 - p.1)

/-- Whether a straight segment touches a closed square: their bounding boxes meet, and the square's corners do not
all lie strictly on one side of the segment's line. -/
def segTouches (p q : Pt) (s : Pt × Pt) : Bool :=
  let (lo, hi) := s
  let corners := [sideOf p q lo, sideOf p q hi, sideOf p q (lo.1, hi.2), sideOf p q (hi.1, lo.2)]
  decide (min p.1 q.1 ≤ hi.1) && decide (lo.1 ≤ max p.1 q.1) && decide (min p.2 q.2 ≤ hi.2) &&
    decide (lo.2 ≤ max p.2 q.2) && !(corners.all fun k => decide (k > 0)) && !(corners.all fun k => decide (k < 0))

/-- The tiles of the grid, of the infinite continuation cut at 0 and 255, that a segment touches (R129), and whether
it also touches squares outside. -/
def TileGrid.path (g : TileGrid) (p q : Pt) : List Nat × Bool :=
  let lo (a o : Int) : Nat := (Int.ediv (a - o - 1) g.e).toNat
  let n (a z o : Int) (k : Nat) : List Nat := (List.range (min k (lo z o + 3))).drop (lo a o)
  let xs := n (min p.1 q.1) (max p.1 q.1) g.x0 256
  let ys := n (min p.2 q.2) (max p.2 q.2) g.y0 256
  let out := decide (min p.1 q.1 ≤ g.x0) || decide (max p.1 q.1 ≥ g.x0 + g.cols * g.e) ||
    decide (min p.2 q.2 ≤ g.y0) || decide (max p.2 q.2 ≥ g.y0 + g.rows * g.e)
  ((ys.flatMap fun j => (xs.filter fun i => segTouches p q (g.square i j)).map fun i => tileNo i j), out)

/-- A list without repeats. -/
def dedup : List Nat → List Nat
  | [] => []
  | a :: l => let r := dedup l; if r.contains a then r else a :: r

/-- Path tiles widened by the halo; tiles outside the grid or DISABLED are dropped (R154). -/
def TileGrid.widen (g : TileGrid) (h : Nat) (path : List Nat) : List Nat :=
  let around (k : Nat) : List Nat := (List.range (2 * h + 1)).filterMap fun d =>
    if k + d < h then none else some (k + d - h)
  dedup (path.flatMap fun t =>
    (around (t / 256)).flatMap fun j => ((around (t % 256)).filter fun i =>
      decide (i < 256) && decide (j < 256) && !g.disabled i j).map fun i => tileNo i j)

/-- Whether the path has a tile outside the grid or DISABLED (R156). -/
def TileGrid.badPath (g : TileGrid) (path : List Nat × Bool) : Bool :=
  path.2 || path.1.any fun t => g.disabled (t % 256) (t / 256)

/-! ### Field correction (R122, R123) -/

/-- A word of the active grid of a channel. -/
def Chip.gridWord (c : Chip) (ch off : Nat) : Nat := (assocGet off ((c.beam.grids.getD ch ⟨[], []⟩).active)).getD 0

/-- A grid coordinate with 16 fraction bits: cell and fraction, the cell clamped to 0–127. -/
def gridCell (x x0 : Int) (pitch : Nat) : Nat × Int :=
  let u := Int.ediv ((x - x0) * 65536) pitch
  let i := (clampI 0 127 (Int.ediv u 65536)).toNat
  (i, u - i * 65536)

/-- The grid-corrected scanner command of a bed position (R123). An active copy of all zeros gives 0 whatever the
cell; with other points and a pitch of 0 the value is free (DESIGN CHOICE, log entry 22). -/
def Chip.corrected (c : Chip) (ch : Nat) (p : Pt) : Pt :=
  let pitch := c.gridWord ch 0x3FFF8
  if (c.beam.grids.getD ch ⟨[], []⟩).active = [] then (0, 0)
  else if pitch = 0 then (s32 (Config.gridUndef 0 p.1 p.2).toNat, s32 (Config.gridUndef 1 p.1 p.2).toNat)
  else
    let (i, fx) := gridCell p.1 (s32 (c.gridWord ch 0x3FFF0)) pitch
    let (j, fy) := gridCell p.2 (s32 (c.gridWord ch 0x3FFF4)) pitch
    let pt (i j k : Nat) : Int := s32 (c.gridWord ch ((j * 129 + i) * 8 + k))
    let f (k : Nat) : Int :=
      satS 32 (divRoundAway
        ((65536 - fy) * ((65536 - fx) * pt i j k + fx * pt (i + 1) j k) +
          fy * ((65536 - fx) * pt i (j + 1) k + fx * pt (i + 1) (j + 1) k)) (2 ^ 32))
    (f 0, f 4)

end Sys2Proof.Machine
end

