-- ==== Sys2Proof/Machine/BedSluice.lean ====
section
/-! DEFINITION. The Bed Sluice (05_bed_sluice.md): tiles, requests, evaluation, slot table, quota, release and settle,
the recoater band, the separation guard, grant status. -/

namespace Sys2Proof.Machine

open Sys2Proof

/-- Change the Bed Sluice. -/
def modSlb (f : Slb → Slb) (c : Chip) : Chip := { c with beam := { c.beam with slb := f c.beam.slb } }

/-- A tile that is not FREE. -/
def Chip.tile (c : Chip) (k : Nat) : Option Tile := assocGet k c.beam.slb.tiles

/-- A tile written. -/
def putTile (k : Nat) (t : Tile) (c : Chip) : Chip := modSlb (fun s => { s with tiles := assocPut k t s.tiles }) c

/-- Every listed tile rewritten; a tile that ends with no holder, no settle time and no reservation is FREE. -/
def mapTiles (f : Nat → Tile → Tile) (c : Chip) : Chip :=
  let b := c.now
  modSlb (fun s => { s with tiles := (s.tiles.map fun p => (p.1, f p.1 p.2)).filter fun p =>
    p.2.holder.isSome || decide (p.2.freeAt > b) || p.2.resFor.isSome }) c

/-- The tile state and channel that the owner map shows for a tile of a grid at beat b (R153). -/
def tileState (g : TileGrid) (b k : Nat) (tile : Option Tile) : Nat × Nat :=
  if g.disabled (k % 256) (k / 256) then (4, 0x1F)
  else
    match tile with
    | none => (0, 0x1F)
    | some t =>
      match t.holder, t.resFor with
      | some h, _ => (2, h)
      | none, some r => if t.freeAt > b then (5, r) else (1, r)
      | none, none => if t.freeAt > b then (3, t.last) else (0, 0x1F)

/-- The byte of a tile in the owner map: its state at the opening of the present beat (R153). -/
def Chip.tileByte (c : Chip) (k : Nat) : Nat :=
  let s := tileState (c.beam.slb.shownGrid.getD c.tileGrid) c.now k (assocGet k c.beam.slb.shown)
  s.1 * 32 + s.2

/-- The owner map takes the state of the beat's opening. -/
def slbSnap (c : Chip) : Chip :=
  let g := c.tileGrid
  modSlb (fun s => { s with shown := s.tiles, shownGrid := some g }) c

/-- The tiles a channel holds. -/
def Chip.heldTiles (c : Chip) (ch : Nat) : List Nat :=
  (c.beam.slb.tiles.filter fun p => p.2.holder == some ch).map fun p => p.1

/-- The request of a channel. -/
def Chip.req (c : Chip) (ch : Nat) : Option Req := assocGet ch c.beam.slb.reqs

/-- MASKED_SIDEBAND (R169). -/
def Chip.sideMasked (c : Chip) (ch : Nat) : Bool := !c.on (chanDom ch) || decide (c.chState ch ≥ 6)

/-- The class of a channel (R179). -/
def Chip.slbClass (c : Chip) (ch : Nat) : Nat :=
  if ch < 16 then bits (c.rd Reg.SLB_CLASS_0_class) (2 * ch + 1) (2 * ch)
  else bits (c.rd Reg.SLB_CLASS_1_class) (2 * (ch - 16) + 1) (2 * (ch - 16))

/-- MASKED_QUOTA at beat b (R166). -/
def Chip.quotaMasked (c : Chip) (ch b : Nat) : Bool := c.beam.slb.qmask.any fun p => p.1 == ch && decide (p.2 ≤ b)

/-- Whether the urgency of channel a's request comes before that of channel b's (R159 item 1). -/
def Chip.olderUrgent (c : Chip) (a b : Nat) : Bool :=
  match (c.req a).bind Req.urgent, (c.req b).bind Req.urgent with
  | some x, some y => decide (x < y) || (decide (x = y) && decide (a < b))
  | some _, none => true
  | none, _ => false

/-- Whether a tile is grantable to a channel's request on beat b, but for the band (R158). -/
def Chip.grantable (c : Chip) (g : TileGrid) (b ch : Nat) (urgent : Bool) (k : Nat) : Bool :=
  !g.disabled (k % 256) (k / 256) &&
    match c.tile k with
    | none => true
    | some t =>
      match t.holder, t.resFor with
      | some h, _ => h == ch
      | none, some r => decide (t.freeAt ≤ b) && (r == ch || (urgent && c.olderUrgent ch r))
      | none, none => decide (t.freeAt ≤ b) || t.last == ch

/-- Reservations of a channel end (R161). -/
def endReservations (ch : Nat) (c : Chip) : Chip :=
  mapTiles (fun _ t => if t.resFor = some ch then { t with resFor := none } else t) c

/-- A channel's request is withdrawn. -/
def withdrawReq (ch : Nat) (c : Chip) : Chip :=
  modSlb (fun s => { s with reqs := assocDel ch s.reqs }) (endReservations ch c)

/-- A channel places the request for a vector's tile set (R157). -/
def placeReq (ch : Nat) (path : List Nat × Bool) (set : List Nat) (seq hr : Nat) (c : Chip) : Chip :=
  let r : Req := ⟨path.1, set, path.2, seq, min hr 16777215, 0, none, c.now, none⟩
  modSlb (fun s => { s with reqs := assocPut ch r s.reqs }) c

/-! ### The recoater band (R170–R172) -/

/-- Whether the band's source can be read (R172, R317). -/
def Chip.bandReadable (c : Chip) : Bool := c.alive pdMOTION && c.flag (Reg.PF_CTL_enable (c.rd Reg.SLB_RC_CTL_source))

/-- The recoater coordinate r of the present beat, from the latch of the beat before (R170). -/
def Chip.bandCoord (c : Chip) : Int :=
  let n := c.rd Reg.SLB_RC_CTL_source
  let p := c.rd48 (Reg.PF_BEAT_POS_LO_value n) (Reg.PF_BEAT_POS_HI_value n)
  let t : Int := toS 64 (c.rd2 (Reg.PF_BEAT_T_LO_value n) (Reg.PF_BEAT_T_HI_value n))
  let v := c.rdS (Reg.PF_BEAT_SPEED_value n)
  let r := p + divRoundAway (v * (c.timeOf c.now - t)) 1000000000
  c.rdS Reg.SLB_RC_ORIGIN_origin + Int.ediv (r * c.rdS Reg.SLB_RC_SCALE_scale) 65536

/-- The band, without its lead, of a request with a hold (R170). -/
def Chip.bandPlain (c : Chip) (r : Int) (hr : Nat) : Int × Int :=
  let s : Int := ceilDiv (c.rd Reg.SLB_RC_VMAX_vmax * (hr + 2)) 4000
  (r - c.rd Reg.SLB_RC_NEG_ext * 1000 - s, r + c.rd Reg.SLB_RC_POSX_ext * 1000 + s)

/-- Whether a tile's closed interval along the band's axis meets an interval; `lead` 1 and 2 open it upward and
downward (R170). -/
def Chip.tileMeets (c : Chip) (g : TileGrid) (lead : Nat) (band : Int × Int) (k : Nat) : Bool :=
  let s := g.square (k % 256) (k / 256)
  let (lo, hi) := if c.flag Reg.SLB_RC_CTL_axis then (s.1.2, s.2.2) else (s.1.1, s.2.1)
  (lead == 1 || decide (lo ≤ band.2)) && (lead == 2 || decide (hi ≥ band.1))

/-- Whether a tile set touches the band for a hold (R170, R172). -/
def Chip.banded (c : Chip) (g : TileGrid) (hr : Nat) (set : List Nat) : Bool :=
  if !c.flag Reg.SLB_RC_CTL_enable then false
  else if !c.bandReadable then true
  else set.any (c.tileMeets g (c.rd Reg.SLB_RC_CTL_lead) (c.bandPlain c.bandCoord hr))

/-- The band of the beat: the registers that show it, and the loss of its source, logged once (R171, R172). -/
def bandForm (c : Chip) : Chip :=
  let en := c.flag Reg.SLB_RC_CTL_enable
  if en && !c.bandReadable then
    wr Reg.SLB_STATUS_rc_ok 0 c |> when (!c.beam.slb.rcLost) (fun c =>
      log 0x0405 0 (u8 (c.rd Reg.SLB_RC_CTL_source) ++ u8 0 ++ u16 0 ++ beat32 c.now)
        (modSlb (fun s => { s with rcLost := true }) c))
  else
    let c := modSlb (fun s => { s with rcLost := false }) (wrB Reg.SLB_STATUS_rc_ok en c)
    if en then
      let r := c.bandCoord
      let p := c.bandPlain r 0
      wrS Reg.SLB_RC_POS_coord (satS 32 r) c |> wrS Reg.SLB_RC_LO_coord (satS 32 p.1)
        |> wrS Reg.SLB_RC_HI_coord (satS 32 p.2)
    else c

/-- GRANTED tiles that the present band covers: one incursion per grant, at its first tile covered (R171). -/
def bandIncursions (c : Chip) : Chip :=
  if c.flag Reg.SLB_RC_CTL_enable && c.bandReadable then
    let g := c.tileGrid
    let r := c.bandCoord
    let p := c.bandPlain r 0
    c.beam.slb.tiles.foldl (fun c q =>
      match q.2.holder with
      | some h =>
        if !((c.tile q.1).any fun t => t.incursion) && c.tileMeets g 0 p q.1 then
          mapTiles (fun _ t => if t.holder = some h ∧ t.grant = q.2.grant then { t with incursion := true } else t) c
            |> inc Reg.SLB_RC_INCURSION_count Reg.SLB_STICKY_incursion_sat 0
            |> log 0x0403 h (u8 h ++ u8 0 ++ u16 q.1 ++ s32LE (satS 32 r))
        else c
      | none => c) c
  else c

/-! ### Release and settle (R167–R169) -/

/-- A channel releases tiles at the present beat (R167). -/
def releaseTiles (ch : Nat) (gone : Nat → Bool) (c : Chip) : Chip :=
  let b := c.now
  let ts := c.rd Reg.SLB_SETTLE_settle
  mapTiles (fun k t => if t.holder = some ch ∧ gone k then
    { t with holder := none, last := ch, freeAt := if t.lit then b + ts else b, lit := false, incursion := false }
    else t) c

/-- A channel's gate is on in the present beat: every tile it holds counts as lit (R167). -/
def litTiles (ch : Nat) (c : Chip) : Chip :=
  mapTiles (fun _ t => if t.holder = some ch then { t with lit := true } else t) c

/-- A confirmed quench: every tile the channel holds settles, lit or not (R169). -/
def quenchTiles (ch : Nat) (c : Chip) : Chip :=
  let n := (c.heldTiles ch).length
  let b := c.now
  let ts := c.rd Reg.SLB_SETTLE_settle
  mapTiles (fun _ t => if t.holder = some ch then
    { t with holder := none, last := ch, freeAt := b + ts, lit := false, incursion := false } else t) (withdrawReq ch c)
    |> when (n != 0) (log 0x0406 ch (u8 ch ++ u8 n ++ u16 0 ++ beat32 b))

/-- A tile's settle time has ended: it is FREE, or RESERVED where it was reserved (R167, R161). -/
def settleEnd (k : Nat) (c : Chip) : Chip :=
  match c.tile k with
  | some t =>
    if t.holder.isNone && decide (t.freeAt ≤ c.now) && t.resFor.isNone then
      modSlb (fun s => { s with tiles := assocDel k s.tiles }) c
    else c
  | none => c

/-- Every settle time that has ended. -/
def settleEnds (c : Chip) : Chip := mapTiles (fun _ t => t) c

/-! ### Quota and slot table (R162–R166) -/

/-- A quota window ends: counts and masks start again (R166). -/
def quotaEnd (c : Chip) : Chip :=
  let w := c.rd Reg.SLB_QUOTA_WIN_window
  let b := c.now
  if c.rd Reg.SLB_QUOTA_N_quota ≠ 0 ∧ w ≠ 0 ∧ (b - c.beam.slb.winStart) % w = 0 ∧ c.beam.slb.quotaDone ≠ b then
    modSlb (fun s => { s with counts := [], qmask := [], quotaDone := b }) c
  else c

/-- The entries of the slot tables exchanged. -/
def swapEntry (k : Nat) (c : Chip) : Chip :=
  let v := c.rd (Reg.SLB_SLOT_valid k)
  let h := c.rd (Reg.SLB_SLOT_channel k)
  wr (Reg.SLB_SLOT_valid k) (c.rd (Reg.SLB_SLOT_ACT_valid k)) c
    |> wr (Reg.SLB_SLOT_channel k) (c.rd (Reg.SLB_SLOT_ACT_channel k))
    |> wr (Reg.SLB_SLOT_ACT_valid k) v |> wr (Reg.SLB_SLOT_ACT_channel k) h

/-- The slot table wraps: a swap that waits takes effect (R164). -/
def slotWrap (c : Chip) : Chip :=
  let b := c.now
  if b % 256 ≠ 0 ∨ c.beam.slb.wrapDone = b then c
  else
    let c := modSlb (fun s => { s with wrapDone := b }) c
    if !c.flag Reg.SLB_STATUS_commit_pending then c
    else
      let n := 1 - c.rd Reg.SLB_STATUS_active_table
      forEach (List.range 256) swapEntry c |> wr Reg.SLB_STATUS_active_table n
        |> wr Reg.SLB_STATUS_commit_pending 0
        |> log 0x0402 0 (u8 n ++ u8 0 ++ u16 0 ++ beat32 b)

/-- The slot owner of beat b (R163). -/
def Chip.slotOwner (c : Chip) (b : Nat) : Option Nat :=
  if c.flag Reg.SLB_CTL_slot_en && c.flag (Reg.SLB_SLOT_ACT_valid (b % 256)) then
    some (c.rd (Reg.SLB_SLOT_ACT_channel (b % 256)))
  else none

/-! ### Evaluation (R159–R161) -/

/-- The channels with requests in the precedence order of the beat, each with its item (R159)
(DEDUCED, log entry 33). -/
def Chip.precedence (c : Chip) : List (Nat × Nat) :=
  let b := c.now
  let l := c.beam.slb.reqs
  let urg := l.filter fun p => p.2.urgent.isSome
  let ins (acc : List (Nat × Req)) (p : Nat × Req) : List (Nat × Req) :=
    (acc.filter fun q => !c.olderUrgent p.1 q.1) ++ [p] ++ (acc.filter fun q => c.olderUrgent p.1 q.1)
  let one := (urg.foldl ins []).map fun p => (p.1, 1)
  let calm := l.filter fun p => p.2.urgent.isNone
  let own := match c.slotOwner b with
    | some h => if calm.any (fun p => p.1 == h) then [(h, 2)] else []
    | none => []
  let rest := [3, 2, 1, 0].flatMap fun cls =>
    let ptr := c.beam.slb.ptrs.getD cls 0
    ((List.range 24).map fun d => (ptr + d) % 24).filterMap fun ch =>
      if c.slbClass ch = cls ∧ calm.any (fun p => p.1 == ch) ∧ !own.any (fun p => p.1 == ch) then some (ch, 3)
      else none
  one ++ own ++ rest

/-- Tiles go to a channel by one grant; of one that it holds already, whether its gate has been on since stays. -/
def holdTiles (ch : Nat) (set : List Nat) (c : Chip) : Chip :=
  let n := c.beam.slb.grants + 1
  forEach set (fun k c =>
    let lit := (c.tile k).any fun t => t.holder == some ch && t.lit
    putTile k ⟨some ch, ch, 0, lit, none, false, n⟩ c) (modSlb (fun s => { s with grants := n }) c)

/-- A request is granted (R159): every tile together; its counts, urgency and reservations end. -/
def grantReq (ch item : Nat) (r : Req) (c : Chip) : Chip :=
  let b := c.now
  let cls := c.slbClass ch
  let c := holdTiles ch r.set (withdrawReq ch c) |> inc (Reg.SLB_CH_GRANTS_count ch) (Reg.SLB_CH_STICKY_grants_sat ch) 0
  let c := modSlb (fun s => if item = 3 then { s with ptrs := setAt s.ptrs cls ((ch + 1) % 24) } else s) c
  let q := c.rd Reg.SLB_QUOTA_N_quota
  let c := if q ≠ 0 ∧ cls = 3 then
      let n := (assocGet ch c.beam.slb.counts).getD 0 + 1
      modSlb (fun s => { s with
        counts := assocPut ch n s.counts
        qmask := if n ≥ q ∧ !s.qmask.any (fun p => p.1 == ch) then s.qmask ++ [(ch, b + 1)] else s.qmask }) c
    else c
  modFur ch (fun f => match f.reqIdx with
    | some i => { f with sets := f.sets ++ [(i, r.set)], reqIdx := none }
    | none => f) c

/-- Tiles that an urgent request reserves when it loses (R161). -/
def reserveFor (ch : Nat) (set : List Nat) (c : Chip) : Chip :=
  let g := c.tileGrid
  let b := c.now
  forEach set (fun k c =>
    if g.disabled (k % 256) (k / 256) then c
    else
      match c.tile k with
      | none => putTile k ⟨none, ch, 0, false, some ch, false, 0⟩ c
      | some t =>
        if t.holder.isSome then c
        else if (t.resFor.any fun r => c.olderUrgent r ch) then c
        else if t.resFor.isNone && decide (t.freeAt > b) && t.last == ch then c
        else putTile k { t with resFor := some ch } c) c

/-- A request loses (R160, R161). -/
def loseReq (ch : Nat) (r : Req) (blocking : List Nat) (c : Chip) : Chip :=
  let b := c.now
  let kmax := c.rd Reg.SLB_CTL_k_max
  let lu := max 1 (kmax + c.rd Reg.SLB_CTL_urgent_extra)
  let losses := r.losses + 1
  let k := min losses kmax
  let newly := decide (losses ≥ lu) && r.urgent.isNone
  let urgent := if newly then some b else r.urgent
  let halo := !r.outside && blocking.all fun t => !r.path.contains t
  let r' := { r with losses := losses, urgent := urgent, nextEval := b + 2 ^ k, outcome := some (if halo then 6 else 2) }
  modSlb (fun s => { s with reqs := assocPut ch r' s.reqs }) c
    |> inc (Reg.SLB_CH_LOSSES_count ch) (Reg.SLB_CH_STICKY_losses_sat ch) 0
    |> when newly (log 0x0404 ch (u8 ch ++ u8 k ++ u16 r.seq ++ beat32 b))
    |> when urgent.isSome (reserveFor ch r.set)

/-- One request evaluated (R159). A path tile outside the grid is never grantable (R152). -/
def evalReq (g : TileGrid) (ch item : Nat) (c : Chip) : Chip :=
  let b := c.now
  match c.req ch with
  | none => c
  | some r =>
    if c.sideMasked ch then withdrawReq ch c
    else if c.quotaMasked ch b then
      endReservations ch c
    else if item = 3 ∧ b < r.nextEval then c
    else if c.banded g r.hr r.set then
      modSlb (fun s => { s with reqs := assocPut ch { r with outcome := some 5 } s.reqs }) c
    else
      let bad := r.set.filter fun k => !c.grantable g b ch r.urgent.isSome k
      if bad = [] ∧ !r.outside then grantReq ch item r c else loseReq ch r bad c

/-- The requests of the beat (R159), without its probes. -/
def slbEvaluate (c : Chip) : Chip :=
  if !c.on pdFABRIC then c
  else
    let g := c.tileGrid
    (c.precedence).foldl (fun c p => evalReq g p.1 p.2 c) c

/-- A probe (R133): granted only when every tile is free for the channel, clear of the band for its hold, and asked
for by no other channel. -/
def Chip.probeOk (c : Chip) (g : TileGrid) (ch hr : Nat) (path : List Nat × Bool) (set : List Nat) : Bool :=
  c.on pdFABRIC && !c.sideMasked ch && !path.2 && !c.banded g hr set && set.all fun k =>
    !(c.beam.slb.reqs.any fun p => p.1 != ch && p.2.set.contains k) &&
      match c.tile k with
      | none => !g.disabled (k % 256) (k / 256)
      | some t =>
        match t.holder with
        | some h => h == ch
        | none => t.resFor.isNone && (decide (t.freeAt ≤ c.now) || t.last == ch)

/-! ### Status (R152, R175, R179) -/

/-- Grant status, exponent and urgency of a channel (R175). -/
def Chip.grantStatus (c : Chip) (ch : Nat) : Nat × Nat × Bool :=
  if c.sideMasked ch then (4, 0, false)
  else
    let held := if (c.heldTiles ch).isEmpty then 0 else 1
    match c.req ch with
    | none => (held, 0, false)
    | some r =>
      let k := min r.losses (c.rd Reg.SLB_CTL_k_max)
      (if c.quotaMasked ch c.now then 3 else r.outcome.getD held, k, r.urgent.isSome)

/-- The status registers brought up to date. -/
def slbShow (c : Chip) : Chip :=
  let urg := (c.beam.slb.reqs.filter fun p => p.2.urgent.isSome).length
  let c := wr Reg.SLB_STATUS_urgent_count urg c |> wrB Reg.SLB_STATUS_grid_valid c.tileGrid.valid
  forEach (List.range 24) (fun ch c =>
    let s := c.grantStatus ch
    wr (Reg.SLB_CH_STATUS_status ch) s.1 c |> wr (Reg.SLB_CH_STATUS_k ch) s.2.1
      |> wrB (Reg.SLB_CH_STATUS_urgent ch) s.2.2
      |> wr (Reg.SLB_CH_STATUS_tiles_held ch) (c.heldTiles ch).length
      |> wr (Reg.SLB_CH_STATUS_tiles_req ch) (((c.req ch).map fun r => r.set.length).getD 0)) c

/-- The counters of a job start beat (R179), and the alignment of the quota windows (R166). -/
def slbJobStart (c : Chip) : Chip :=
  forEach (List.range 24) (fun ch c => wr (Reg.SLB_CH_GRANTS_count ch) 0 c |> wr (Reg.SLB_CH_LOSSES_count ch) 0) c
    |> wr Reg.SLB_RC_INCURSION_count 0
    |> modSlb (fun s => { s with counts := [], qmask := [], winStart := c.now })

/-- The Bed Sluice reset (R169, R501): every tile FREE, no request. -/
def slbReset (c : Chip) : Chip := modSlb (fun _ => Slb.init) c

end Sys2Proof.Machine
end

