-- ==== Sys2Proof/Machine/Crypto.lean ====
section
/-! DEFINITION. The checks and ciphers the spec names: CRC-16 and CRC-32C and CRC-8 (R187, R194),
the SHA-2 hashes, HMAC-SHA-256 (R68), Ed25519 verification (RFC 8032, R447) and X25519 (RFC 7748,
R459). All are written on natural numbers, by structural recursion. -/

namespace Sys2Proof.Machine

/-! ### CRCs -/

/-- One bit of a most-significant-first CRC of width `w`. -/
def crcBitMsb (w poly crc : Nat) (b : Bool) : Nat :=
  let top := crc.testBit (w - 1)
  let s := (crc * 2) % 2 ^ w
  if top != b then s ^^^ poly else s

/-- The bits of a byte, most significant first. -/
def byteBits (x : Byte) : List Bool := [7, 6, 5, 4, 3, 2, 1, 0].map fun k => x.toNat.testBit k

/-- A most-significant-first CRC over bits. -/
def crcMsbBits (w poly init : Nat) (l : List Bool) : Nat := l.foldl (crcBitMsb w poly) init

/-- A most-significant-first CRC over bytes. -/
def crcMsb (w poly init : Nat) (l : List Byte) : Nat :=
  l.foldl (fun c x => (byteBits x).foldl (crcBitMsb w poly) c) init

/-- One bit of a reflected CRC-32. -/
def crcStepLsb (poly crc : Nat) : Nat → Nat
  | 0 => crc
  | k + 1 => crcStepLsb poly (if crc.testBit 0 then (crc >>> 1) ^^^ poly else crc >>> 1) k

/-- CRC-32C (06_glelin_links.md, R187): polynomial 0x1EDC6F41, reflected, initial and final all ones. -/
def crc32c (l : List Byte) : Nat :=
  (l.foldl (fun c x => crcStepLsb 0x82F63B78 (c ^^^ x.toNat) 8) 0xFFFFFFFF) ^^^ 0xFFFFFFFF

/-! ### SHA-2 and HMAC -/

/-- The largest r below 2 ^ bits, beside what is given, whose k-th power is at most n: bit by bit from the top. -/
def rootBits (k n : Nat) : Nat → Nat → Nat
  | 0, r => r
  | b + 1, r => rootBits k n b (if (r + 2 ^ b) ^ k ≤ n then r + 2 ^ b else r)

/-- The first `w` bits of the fraction of the k-th root of a number below 512: the constants of SHA-2 are such words. -/
def rootWord (w k n : Nat) : Nat := rootBits k (n * 2 ^ (k * w)) (w + 5) 0 % 2 ^ w

/-- The 80 primes up to 409. -/
def shaPrimes : List Nat :=
  (List.range 410).filter fun n => decide (2 ≤ n) && (List.range 21).all fun d => decide (d < 2) || decide (n ≤ d) || n % d != 0

/-- A member of the SHA-2 family: the bits of a word, the rounds of a block, and the amounts by which its two round functions and
its two schedule functions rotate (the last amount of a schedule function shifts). -/
structure ShaKind where
  w : Nat
  rounds : Nat
  roundA : Nat × Nat × Nat
  roundE : Nat × Nat × Nat
  old : Nat × Nat × Nat
  new : Nat × Nat × Nat
  deriving DecidableEq, Repr

/-- SHA-256. -/
def ShaKind.s256 : ShaKind := ⟨32, 64, (2, 13, 22), (6, 11, 25), (7, 18, 3), (17, 19, 10)⟩

/-- SHA-512. -/
def ShaKind.s512 : ShaKind := ⟨64, 80, (28, 34, 39), (14, 18, 41), (1, 8, 7), (19, 61, 6)⟩

/-- The round constants: cube roots of primes. -/
def ShaKind.consts (v : ShaKind) : List Nat := (shaPrimes.take v.rounds).map (rootWord v.w 3)

/-- The hash value before the first block: square roots of primes. -/
def ShaKind.start (v : ShaKind) : List Nat := (shaPrimes.take 8).map (rootWord v.w 2)

/-- A word turned right. -/
def ShaKind.turn (v : ShaKind) (x n : Nat) : Nat := x / 2 ^ n + x % 2 ^ n * 2 ^ (v.w - n)

/-- A round function: three turns of a word. -/
def ShaKind.mix (v : ShaKind) (n : Nat × Nat × Nat) (x : Nat) : Nat := v.turn x n.1 ^^^ v.turn x n.2.1 ^^^ v.turn x n.2.2

/-- A schedule function: two turns and a shift. -/
def ShaKind.blend (v : ShaKind) (n : Nat × Nat × Nat) (x : Nat) : Nat := v.turn x n.1 ^^^ v.turn x n.2.1 ^^^ x / 2 ^ n.2.2

/-- A round on the working words, first to last, with a constant and a schedule word added up. -/
def ShaKind.round (v : ShaKind) (s : List Nat) (kw : Nat) : List Nat :=
  let at0 (i : Nat) : Nat := s.getD i 0
  let choice := at0 6 ^^^ (at0 4 &&& (at0 5 ^^^ at0 6))
  let most := (at0 0 &&& (at0 1 ||| at0 2)) ||| (at0 1 &&& at0 2)
  let t := kw + at0 7 + choice + v.mix v.roundE (at0 4)
  ((t + most + v.mix v.roundA (at0 0)) % 2 ^ v.w) :: (s.take 3 ++ ((at0 3 + t) % 2 ^ v.w) :: (s.drop 4).take 3)

/-- The rounds of a block, over a window of the next sixteen schedule words. -/
def ShaKind.go (v : ShaKind) : List Nat → List Nat → List Nat → List Nat
  | [], _, s => s
  | k :: ks, win, s =>
    let at0 (i : Nat) : Nat := win.getD i 0
    let next := (at0 0 + v.blend v.old (at0 1) + at0 9 + v.blend v.new (at0 14)) % 2 ^ v.w
    v.go ks (win.drop 1 ++ [next]) (v.round s (k + at0 0))

/-- The hash value after each block of a padded message; the first argument bounds the blocks. -/
def ShaKind.blocks (v : ShaKind) (ks : List Nat) : Nat → List Byte → List Nat → List Nat
  | 0, _, h => h
  | n + 1, l, h =>
    if l.isEmpty then h
    else
      let win := (List.range 16).map fun i => beAt l (i * (v.w / 8)) (v.w / 8)
      v.blocks ks n (l.drop (2 * v.w)) (List.zipWith (fun a b => (a + b) % 2 ^ v.w) h (v.go ks win h))

/-- The hash of a byte string: padded with a 1 bit, zeros and its length in bits to whole blocks. -/
def ShaKind.hash (v : ShaKind) (m : List Byte) : List Byte :=
  let size := 2 * v.w
  let pad := size - (m.length + 1 + v.w / 4) % size
  let l := m ++ [0x80#8] ++ List.replicate (pad % size) 0 ++ toBE (v.w / 4) (8 * m.length)
  (v.blocks v.consts l.length l v.start).flatMap (toBE (v.w / 8))

/-- SHA-256 of a byte string. -/
def sha256 (m : List Byte) : List Byte := ShaKind.s256.hash m

/-- SHA-512 of a byte string. -/
def sha512 (m : List Byte) : List Byte := ShaKind.s512.hash m

/-- HMAC-SHA-256 (R68). -/
def hmacSha256 (key msg : List Byte) : List Byte :=
  let short := if key.length ≤ 64 then key else sha256 key
  let block := short ++ List.replicate (64 - short.length) 0
  let pass (x : Byte) (l : List Byte) : List Byte := sha256 (block.map (x ^^^ ·) ++ l)
  pass 0x5C (pass 0x36 msg)

/-! ### Curve 25519 -/

/-- The field prime 2^255 − 19. -/
def p25519 : Nat := 2 ^ 255 - 19

/-- Order of the base point of Ed25519. -/
def l25519 : Nat := 2 ^ 252 + 27742317777372353535851937790883648493

/-- `b ^ e mod m`, over the low `k` bits of `e`, most significant first. -/
def powModGo (m b e : Nat) : Nat → Nat → Nat
  | 0, acc => acc
  | k + 1, acc =>
    let sq := acc * acc % m
    powModGo m b e k (if e.testBit k then sq * b % m else sq)

/-- `b ^ e mod p`. -/
def powP (b e : Nat) : Nat := powModGo p25519 (b % p25519) e 255 1

/-- Inverse modulo p. -/
def invP (x : Nat) : Nat := powP x (p25519 - 2)

/-- Difference modulo p. -/
def subP (a b : Nat) : Nat := (a + (p25519 - b % p25519)) % p25519

/-- The constant d of the curve, −121665/121666. -/
def edD : Nat := 37095705934669439343138083508754565189542113879843219016388785533085940283555

/-- A point of the Edwards curve in extended coordinates. -/
structure EdPoint where
  x : Nat
  y : Nat
  z : Nat
  t : Nat
  deriving DecidableEq, Repr

/-- The neutral point. -/
def edZero : EdPoint := ⟨0, 1, 1, 0⟩

/-- Addition (RFC 8032, 5.1.4). -/
def edAdd (a b : EdPoint) : EdPoint :=
  let va := subP a.y a.x * subP b.y b.x % p25519
  let vb := (a.y + a.x) * (b.y + b.x) % p25519
  let vc := 2 * a.t * b.t * edD % p25519
  let vd := 2 * a.z * b.z % p25519
  let e := subP vb va
  let f := subP vd vc
  let g := (vd + vc) % p25519
  let h := (vb + va) % p25519
  ⟨e * f % p25519, g * h % p25519, f * g % p25519, e * h % p25519⟩

/-- Multiplication of a point by the low `k` bits of a scalar. -/
def edMulGo (n : Nat) (a : EdPoint) : Nat → EdPoint → EdPoint
  | 0, acc => acc
  | k + 1, acc =>
    let d := edAdd acc acc
    edMulGo n a k (if n.testBit k then edAdd d a else d)

/-- Scalar multiple of a point. -/
def edMul (n : Nat) (a : EdPoint) : EdPoint := edMulGo n a 256 edZero

/-- Recovery of x from y and its low bit (RFC 8032, 5.1.3). -/
def edRecoverX (y : Nat) (sign : Bool) : Option Nat :=
  if y ≥ p25519 then none
  else
    let u := subP (y * y) 1
    let v := (edD * y % p25519 * y + 1) % p25519
    let v3 := v * v % p25519 * v % p25519
    let v7 := v3 * v3 % p25519 * v % p25519
    let x := u * v3 % p25519 * powP (u * v7 % p25519) ((p25519 - 5) / 8) % p25519
    let vx2 := v * x % p25519 * x % p25519
    let x? : Option Nat :=
      if vx2 = u then some x
      else if vx2 = subP 0 u then some (x * powP 2 ((p25519 - 1) / 4) % p25519)
      else none
    match x? with
    | none => none
    | some x =>
      if x = 0 && sign then none
      else if x.testBit 0 = sign then some x else some (subP 0 x)

/-- Decoding of a point from 32 bytes. -/
def edDecode (l : List Byte) : Option EdPoint :=
  let n := le l
  let y := n % 2 ^ 255
  match edRecoverX y (n.testBit 255) with
  | none => none
  | some x => some ⟨x, y, 1, x * y % p25519⟩

/-- The base point. -/
def edBase : EdPoint :=
  let x := 15112221349535400772501151409588531511454012693041857206046113283949847762202
  let y := 46316835694926478169428394003475163141307993866256225615783033603165251855960
  ⟨x, y, 1, x * y % p25519⟩

/-- Equality of points given in extended coordinates. -/
def edEq (a b : EdPoint) : Bool :=
  decide (a.x * b.z % p25519 = b.x * a.z % p25519) && decide (a.y * b.z % p25519 = b.y * a.z % p25519)

/-- Ed25519 verification of a 64-byte signature (RFC 8032, 5.1.7). -/
def edVerify (key msg sig : List Byte) : Bool :=
  decide (key.length = 32) && decide (sig.length = 64) &&
  match edDecode key, edDecode (sig.take 32) with
  | some a, some r =>
    let s := le (sig.drop 32)
    let k := le (sha512 (sig.take 32 ++ key ++ msg)) % l25519
    decide (s < l25519) && edEq (edMul s edBase) (edAdd r (edMul k a))
  | _, _ => false

/-- State of the Montgomery ladder. -/
structure Ladder where
  x2 : Nat
  z2 : Nat
  x3 : Nat
  z3 : Nat
  swap : Bool
  deriving DecidableEq, Repr

/-- The ladder over the low bits of the scalar (RFC 7748, section 5). -/
def x25519Go (k u : Nat) : Nat → Ladder → Ladder
  | 0, a => a
  | t + 1, a =>
    let kt := k.testBit t
    let sw := a.swap != kt
    let x2 := if sw then a.x3 else a.x2
    let x3 := if sw then a.x2 else a.x3
    let z2 := if sw then a.z3 else a.z2
    let z3 := if sw then a.z2 else a.z3
    let va := (x2 + z2) % p25519
    let aa := va * va % p25519
    let vb := subP x2 z2
    let bb := vb * vb % p25519
    let e := subP aa bb
    let vc := (x3 + z3) % p25519
    let vd := subP x3 z3
    let da := vd * va % p25519
    let cb := vc * vb % p25519
    let nx3 := (da + cb) * (da + cb) % p25519
    let df := subP da cb
    let nz3 := u * (df * df % p25519) % p25519
    x25519Go k u t ⟨aa * bb % p25519, e * (aa + 121665 * e) % p25519, nx3, nz3, kt⟩

/-- X25519 on 32-byte strings (RFC 7748). -/
def x25519 (k u : List Byte) : List Byte :=
  let n := le k
  let n := (n % 2 ^ 254) - (n % 8) + 2 ^ 254
  let un := le u % 2 ^ 255 % p25519
  let a := x25519Go n un 255 ⟨1, 0, un, 1, false⟩
  let x := if a.swap then a.x3 else a.x2
  let z := if a.swap then a.z3 else a.z2
  toLE 32 (x * invP z % p25519)

/-- The X25519 base point, 9. -/
def x25519Base : List Byte := toLE 32 9

end Sys2Proof.Machine
end

