-- ==== Sys2Proof/Machine/FurrowPlan.lean ====
section
/-! DEFINITION. Vector records and their plans (04_furrows.md, R104–R120): parsing, durations and segments, corners,
lit intervals, power. -/

namespace Sys2Proof.Machine

open Sys2Proof

/-- The record of 32 bytes at an index of a list (R104). -/
def VecRec.ofBytes (idx : Nat) (l : List Byte) : VecRec :=
  ⟨idx, s32 (leAt l 0 4), s32 (leAt l 4 4), leAt l 8 4, leAt l 12 2, leAt l 14 1, leAt l 15 1, leAt l 16 2,
    leAt l 18 2, leAt l 20 4, leAt l 24 4, leAt l 28 2⟩

/-- Whether a record's crc holds (R105). -/
def vecCrcOk (l : List Byte) : Bool := crcMsb 16 0x1021 0xFFFF (l.take 30) == leAt l 30 2

/-- Vector kinds (R106). -/
abbrev kMark : Nat := 0x01
/-- JUMP. -/
abbrev kJump : Nat := 0x02
/-- DWELL. -/
abbrev kDwell : Nat := 0x03
/-- BREAK_MARK. -/
abbrev kBreak : Nat := 0x04
/-- WAIT_INPUT. -/
abbrev kWaitIn : Nat := 0x10
/-- SET_OUTPUT. -/
abbrev kSetOut : Nat := 0x11
/-- WAIT_TIME. -/
abbrev kWaitTime : Nat := 0x12
/-- SYNC_BEAT. -/
abbrev kSync : Nat := 0x13
/-- END. -/
abbrev kEnd : Nat := 0xFF

/-- A motion kind. -/
def VecRec.motion (r : VecRec) : Bool := decide (1 ≤ r.kind) && decide (r.kind ≤ 4)
/-- MARK or BREAK_MARK. -/
def VecRec.mark (r : VecRec) : Bool := r.kind == kMark || r.kind == kBreak
/-- Whether the record needs tiles (R129). -/
def VecRec.needs (r : VecRec) : Bool := r.mark || (r.kind == kDwell && r.power != 0)
/-- Its end point. -/
def VecRec.pt (r : VecRec) : Pt := (r.x, r.y)
/-- deferrable (R109). -/
def VecRec.deferrable (r : VecRec) : Bool := bit r.flags 0
/-- skywriting (R109). -/
def VecRec.sky (r : VecRec) : Bool := bit r.flags 1
/-- no_settle (R109). -/
def VecRec.noSettle (r : VecRec) : Bool := bit r.flags 5
/-- The device time of a WAIT_TIME, in ns (R108). -/
def VecRec.time (r : VecRec) : Int :=
  (ofS 32 r.x + ofS 32 r.y % 65536 * 2 ^ 32 : Nat) * 1000000000 + r.arg

/-- Append a segment of some beats to a plan under construction: the next beat and the segments. -/
def addSeg (p q : Pt) (n : Nat) (a : Nat × List Seg) : Nat × List Seg :=
  if n = 0 then a else (a.1 + n, a.2 ++ [⟨a.1, n, p.1, p.2, q.1, q.2⟩])

/-- The approach point of a record with a start point (R116, R117). -/
def Chip.approach (c : Chip) (ch : Nat) (r : VecRec) (start : Pt) : Pt :=
  if r.mark && r.sky then along start r.pt start (-(c.rd (Reg.FUR_PSET_SKY_run_in ch r.pset) * 1000 : Int))
  else start

/-- The settle of a record's own jump or positioning jump (R113, R116). -/
def Chip.settleOf (c : Chip) (ch : Nat) (r : VecRec) : Nat :=
  if r.noSettle then 0 else c.rd (Reg.FUR_PSET_HOLD_jump_settle ch r.pset)

/-- A positioning jump for a record, with its settle, from one point to another. -/
def Chip.addJump (c : Chip) (ch : Nat) (r : VecRec) (p q : Pt) (a : Nat × List Seg) : Nat × List Seg :=
  if p = q then a
  else addSeg q q (c.settleOf ch r) (addSeg p q (segBeats p q (c.rd (Reg.FUR_PSET_JUMP_jump_speed ch r.pset))) a)

/-- The plan of a motion record that is committed to begin at a beat, from a commanded position; `chain` is the
direction of the last mark of the running chain when it would run on without a gap (R112–R118). -/
def Chip.mkPlan (c : Chip) (ch : Nat) (r : VecRec) (start cur : Pt) (beg : Nat) (chain : Option (Option Pt)) :
    Plan :=
  let base : Plan := ⟨r, false, beg, beg, beg, [], start, cur, 0, false, false, false, false, false, none, false, 0,
    false, false, false⟩
  if r.kind = kJump then
    let v := if r.speed = 0 then c.rd (Reg.FUR_PSET_JUMP_jump_speed ch r.pset) else r.speed
    let a := if cur = r.pt then (beg, [])
      else addSeg r.pt r.pt (c.settleOf ch r) (addSeg cur r.pt (segBeats cur r.pt v) (beg, []))
    { base with endBeat := a.1, segs := a.2, endPt := r.pt }
  else
    let ap := c.approach ch r start
    let a := c.addJump ch r cur ap (beg, [])
    let dir : Pt := (r.x - start.1, r.y - start.2)
    let hold := match chain with
      | some (some d) =>
        if r.mark && !r.sky && ap == cur && turnExceeds d dir (c.rd (Reg.FUR_PSET_TRIM_poly_angle ch r.pset)) then
          c.rd (Reg.FUR_PSET_HOLD_poly_delay ch r.pset)
        else 0
      | _ => 0
    let a := addSeg start start hold a
    let on (s : Nat) : Int := s * 250
    let off (e : Nat) : Int :=
      on e + c.rd (Reg.FUR_PSET_DLY_off_delay ch r.pset) + c.rdS (Reg.FUR_PSET_TRIM_fall_trim ch r.pset)
    if r.kind = kDwell then
      let z := addSeg start start r.arg a
      { base with
        s := a.1, endBeat := z.1, segs := z.2, endPt := start, positioned := ap != cur,
        offAt := if r.power = 0 then none else some (off z.1) }
    else
      let sky := r.sky && start != r.pt
      let a := if sky then addSeg ap start (segBeats ap start r.speed) a else a
      let z := addSeg start r.pt (if start = r.pt then 1 else segBeats start r.pt r.speed) a
      let out := if sky then along start r.pt r.pt (c.rd (Reg.FUR_PSET_SKY_run_out ch r.pset) * 1000 : Int) else r.pt
      let w := if sky then addSeg r.pt out (segBeats r.pt out r.speed) z else z
      { base with
        s := a.1, endBeat := w.1, segs := w.2, endPt := out, positioned := ap != cur, corner := hold != 0,
        offAt := some (off z.1) }

/-- Whether a plan joins the chain that runs before it (R118). -/
def Plan.joins (p : Plan) (chain : Option (Option Pt)) : Bool :=
  chain.isSome && p.r.mark && !p.r.sky && !p.positioned

/-- The chain after a plan (R118): no chain after anything but a mark without skywriting; the direction stays that of
the last mark of non-zero length of the chain. -/
def Plan.chainAfter (p : Plan) (chain : Option (Option Pt)) : Option (Option Pt) :=
  if p.r.mark && !p.r.sky then
    if p.start = p.r.pt then (if p.joins chain then chain else some none)
    else some (some (p.r.x - p.start.1, p.r.y - p.start.2))
  else none

/-! ### Lit intervals (R119, R120) -/

/-- The interval of a lit plan of its own. -/
def Chip.litOf (c : Chip) (ch : Nat) (p : Plan) : Option Lit :=
  p.offAt.map fun off =>
    let on : Int := (p.s * 250 : Nat) + c.rd (Reg.FUR_PSET_DLY_on_delay ch p.r.pset) +
      c.rdS (Reg.FUR_PSET_TRIM_rise_trim ch p.r.pset)
    ⟨on, off, [(on, p.r.power, p.s)]⟩

/-- A lit vector's interval added: a chained vector moves the end of the chain's interval. -/
def addLit (joined : Bool) (l : Lit) (ls : List Lit) : List Lit :=
  if joined then
    match ls.reverse with
    | x :: rest => (rest.reverse) ++ [{ x with off := l.off, starts := x.starts ++ l.starts }]
    | [] => [l]
  else ls ++ [l]

/-- Insert an interval into intervals sorted by their beginning. -/
def insLit (l : Lit) : List Lit → List Lit
  | [] => [l]
  | x :: r => if l.on < x.on then l :: x :: r else x :: insLit l r

/-- Intervals that overlap or touch are merged. -/
def mergeLits : List Lit → List Lit → List Lit
  | acc, [] => acc
  | [], l :: r => mergeLits [l] r
  | x :: acc, l :: r =>
    if l.on ≤ x.off then mergeLits ({ x with off := max x.off l.off, starts := x.starts ++ l.starts } :: acc) r
    else mergeLits (l :: x :: acc) r

/-- The intervals in force: merged; those that the trims leave empty take part in nothing. -/
def mergedLits (ls : List Lit) : List Lit :=
  mergeLits [] (((ls.filter fun l => decide (l.on < l.off)).foldl (fun acc l => insLit l acc) []))

/-- The intervals that are lit: not shorter than 250 ns. -/
def litsOn (ls : List Lit) : List Lit := (mergedLits ls).filter fun l => decide (l.off - l.on ≥ 250)

/-- The gate at the opening of beat n: the state before any edge at offset 0 (R119). -/
def gateAt (ls : List Lit) (n : Nat) : Bool :=
  let t0 : Int := (n * 250 : Nat)
  (litsOn ls).any fun l => decide (l.on < t0) && decide (t0 ≤ l.off)

/-- Whether the gate is on at any instant of beat n. -/
def gateIn (ls : List Lit) (n : Nat) : Bool :=
  let t0 : Int := (n * 250 : Nat)
  (litsOn ls).any fun l => decide (l.on < t0 + 250) && decide (t0 < l.off)

/-- The on edge of beat n: its offset. -/
def onEdge (ls : List Lit) (n : Nat) : Option Nat :=
  let t0 : Int := (n * 250 : Nat)
  ((litsOn ls).find? fun l => decide (t0 ≤ l.on) && decide (l.on < t0 + 250)).map fun l => (l.on - t0).toNat

/-- The off edge of beat n: its offset. -/
def offEdge (ls : List Lit) (n : Nat) : Option Nat :=
  let t0 : Int := (n * 250 : Nat)
  ((litsOn ls).find? fun l => decide (t0 ≤ l.off) && decide (l.off < t0 + 250)).map fun l => (l.off - t0).toNat

/-- The vector of the greatest (or the least) first beat among own starts. -/
def pickStart (latest : Bool) (l : List (Int × Nat × Nat)) : Option (Int × Nat × Nat) :=
  l.foldl (fun m x => match m with
    | none => some x
    | some y => some (if latest then (if x.2.2 > y.2.2 then x else y) else (if x.2.2 < y.2.2 then x else y))) none

/-- The power that governs beat n, as a fraction of 65,535 (R120). -/
def powerAt (ls : List Lit) (n : Nat) : Nat :=
  let t0 : Int := (n * 250 : Nat)
  let lits := litsOn ls
  let first (l : Lit) : Nat := ((pickStart false l.starts).map fun x => x.2.1).getD 0
  match lits.find? fun l => decide (l.on ≤ t0) && decide (t0 < l.off) with
  | some l =>
    match pickStart true (l.starts.filter fun x => decide (x.1 ≤ t0)) with
    | some x => x.2.1
    | none => first l
  | none =>
    match lits.find? fun l => decide (t0 ≤ l.on) && decide (l.on < t0 + 250) with
    | some l => first l
    | none => 0

/-- GATE_EMPTY (R119): the interval of the vector with first beat s is not lit. -/
def gateEmpty (ls : List Lit) (s : Nat) : Bool :=
  !(litsOn ls).any fun l => l.starts.any fun x => x.2.2 == s

/-- The nominal power code (R120). -/
def Chip.nominalPower (c : Chip) (ch power : Nat) : Nat :=
  (divRoundAway ((power * c.rd (Reg.FUR_PMAX_pmax ch) : Nat) : Int) 65535).toNat

/-! ### Break points (R131) -/

/-- The intermediate break points passed by the command of beat b: the point k × spacing lies short of the end and
before that command. -/
def Plan.passed (p : Plan) (b : Nat) : Nat :=
  if p.r.kind = kBreak ∧ p.s ≤ b ∧ p.start ≠ p.r.pt ∧ p.r.spacing ≠ 0 then
    let n := segBeats p.start p.r.pt p.r.speed
    let d2 := dist2 p.start p.r.pt
    let q := min (b - p.s + 1) n
    let sp := p.r.spacing * 1000
    min (isqrt ((q * q * d2 - 1) / (sp * n * (sp * n)))) (isqrt ((d2 - 1) / (sp * sp)))
  else 0

/-- The start of the remaining path at break point k. -/
def Plan.breakPt (p : Plan) (k : Nat) : Pt := along p.start p.r.pt p.start (k * (p.r.spacing * 1000) : Int)

end Sys2Proof.Machine
end

