-- ==== Sys2Proof/Machine/Furrow.lean ====
section
/-! DEFINITION. The Furrows (04_furrows.md, R124–R150): fetch, requests, commits, deferral, break points, the vector log,
channel states, quench and park. -/

namespace Sys2Proof.Machine

open Sys2Proof

/-! ### Fetch stalls (R140) -/

/-- A fetch stall ends: the channel logs its length and the sequence of the record that it waited for. -/
def stallEnd (ch seq : Nat) (c : Chip) : Chip :=
  match (c.fur ch).stall with
  | some s =>
    modFur ch (fun f => { f with stall := none }) c |> log 0x0303 ch (u8 ch ++ u8 0 ++ u16 seq ++ u32 (c.now - s))
  | none => c

/-- A fetch stall ends without its record, by a quench or with the job. -/
def stallCut (ch : Nat) (c : Chip) : Chip :=
  stallEnd ch ((c.fur ch).expectSeq.getD (c.rd (Reg.FUR_STATE_head_seq ch))) c

/-! ### Position and gate of a beat -/

/-- The nominal commanded position of beat n, n not before the present beat (R113, R146). -/
def Furrow.posAt (f : Furrow) (n : Nat) : Pt :=
  match (f.plans.flatMap fun p => p.segs).find? fun g => decide (g.first ≤ n) && decide (n < g.first + g.n) with
  | some g => g.at (n - g.first)
  | none =>
    match (f.plans.filter fun p => decide (p.endBeat ≤ n)).getLast? with
    | some p => p.endPt
    | none => f.pos

/-- Where the last committed vector leaves the beam. -/
def Furrow.lastEnd (f : Furrow) : Pt := (f.plans.getLast?.map fun p => p.endPt).getD f.pos

/-- The beat from which a channel can run its next vector: that on which it becomes ready, or the end of a park move that
is under way. -/
def Furrow.freeAt (f : Furrow) : Nat := max f.t ((f.plans.getLast?.map fun p => p.endBeat).getD 0)

/-- Laser enable by state (R142). -/
def laserOn (st : Nat) : Bool := decide (1 ≤ st) && decide (st ≤ 4)

/-- The sequence of the head record (R134, R150): the first record in list order that has not started. -/
def Furrow.headSeq (f : Furrow) : Option Nat :=
  match f.plans.find? fun p => !p.started && !p.deferred && !p.park with
  | some p => some p.r.seq
  | none => (f.buf.find? fun b => !b.ahead).map fun b => b.r.seq

/-- A channel state taken, and its CHANNEL notice (R86). -/
def setChState (ch st : Nat) (c : Chip) : Chip :=
  if c.chState ch = st then c
  else
    noticeAll 0x8003 0 (toBE 1 ch ++ toBE 1 st ++ toBE 2 (c.rd (Reg.FUR_STATE_head_seq ch)) ++ toBE 8 c.now)
      (wr (Reg.FUR_STATE_state ch) st c)

/-! ### Vector log (R136–R139) -/

/-- The bytes of a log entry (R137). -/
def LogEnt.bytes (e : LogEnt) : List Byte :=
  toLE 8 e.beat ++ u16 e.seq ++ u16 e.group ++ u16 e.wait ++ u8 e.kind ++ u8 e.flags

/-- The address of entry k of a channel's log ring (R136). -/
def Chip.logAddr (c : Chip) (ch k : Nat) : Nat :=
  c.rdAddr (Reg.FUR_LOG_BASE_LO_base ch) (Reg.FUR_LOG_BASE_HI_base ch) +
    (k % 2 ^ c.rd (Reg.FUR_LOG_SIZE_log2_entries ch)) * 16

/-- The entries of the present burst are written (R139). -/
def logFlush (ch : Nat) (c : Chip) : Chip :=
  let f := c.fur ch
  if f.log.isEmpty then c
  else
    sluice 0 ch true (c.logAddr ch (f.logIdx - f.log.length)) (f.log.flatMap LogEnt.bytes)
      (modFur ch (fun f => { f with log := [] }) c)

/-- An entry joins the burst; the fourth of a ring burst sends it. -/
def logJoin (ch : Nat) (e : LogEnt) (c : Chip) : Chip :=
  let b := c.now
  let c := modFur ch (fun f => { f with log := f.log ++ [e], logIdx := f.logIdx + 1, lastJoin := b }) c
  when ((c.fur ch).logIdx % 4 == 0) (logFlush ch) c

/-- A partial burst that no entry has joined for 64 beats is written (R139). -/
def logTimeout (ch : Nat) (c : Chip) : Chip :=
  let f := c.fur ch
  when (!f.log.isEmpty && decide (c.now ≥ f.lastJoin + 64)) (logFlush ch) c

/-! ### Faults and freezes (R61, R148) -/

/-- A channel is frozen (R61, R141): violation 0 is a fetch outside the window, 1 the vector rate. -/
def furFreeze (ch violation value : Nat) (c : Chip) : Chip :=
  if c.chState ch ≥ 6 ∨ c.rd (Reg.FUR_FAULT_cause ch) ≠ 0 then c
  else
    let h := c.headRec ch
    furFault ch faultFrozen h.1 h.2 (modFur ch (fun f => { f with frozen := true }) c)
      |> log 0x0120 ch (u8 0 ++ u8 ch ++ u16 violation ++ u32 value)

/-! ### Fetch (R138, R139) -/

/-- The furrow-list address of a channel. -/
def Chip.listBase (c : Chip) (ch : Nat) : Nat := c.rd2 (Reg.FUR_LIST_BASE_LO_base ch) (Reg.FUR_LIST_BASE_HI_base ch)

/-- Bursts asked for while the buffer has room for two records (R138). -/
def furFetch (ch : Nat) : Nat → Chip → Chip
  | 0, c => c
  | k + 1, c =>
    let f := c.fur ch
    if f.running && !f.fetchDone && decide (2 * f.asked < c.rd (Reg.FUR_LIST_LEN_length ch)) &&
        decide (f.buf.length + 2 * (f.asked - f.got) + 2 ≤ 64) then
      furFetch ch k (sluice 0 ch false (c.listBase ch + 64 * f.asked) []
        (modFur ch (fun f => { f with asked := f.asked + 1 }) c))
    else c

/-- A record arrives: its crc and seq are checked; it joins the buffer. -/
def furRecord (ch : Nat) (l : List Byte) (idx : Nat) (c : Chip) : Chip :=
  let f := c.fur ch
  if f.fetchDone || !f.running || c.rd (Reg.FUR_FAULT_cause ch) != 0 then c
  else
    let r := VecRec.ofBytes idx l
    if !vecCrcOk l then furFault ch faultCrc r.seq idx c
    else if f.expectSeq.any fun e => e != r.seq then furFault ch faultSeq r.seq idx c
    else
      modFur ch (fun f => { f with
        buf := f.buf ++ [⟨r, f.lastPt, false⟩]
        expectSeq := some ((r.seq + 1) % 65536)
        lastPt := if r.motion then some (if r.kind = kDwell then f.lastPt.getD r.pt else r.pt) else f.lastPt
        fetchDone := r.kind == kEnd || decide (idx + 1 ≥ c.rd (Reg.FUR_LIST_LEN_length ch)) }) c

/-- The first transfer of a list that meets a condition is taken out. -/
def dropFirst (p : Xfer → Bool) : List Xfer → List Xfer
  | [] => []
  | x :: l => if p x then l else x :: dropFirst p l

/-- A channel's oldest fetch leaves the Memory Sluice and the DRAM queues. -/
def fetchGone (ch : Nat) (c : Chip) : Chip :=
  let p (x : Xfer) : Bool := x.req == 0 && x.unit == ch && !x.write
  if c.mem.ch.any fun h => h.rq.any p then
    let one (a : List DramCh × Bool) (h : DramCh) : List DramCh × Bool :=
      if !a.2 && h.rq.any p then (a.1 ++ [{ h with rq := dropFirst p h.rq }], true) else (a.1 ++ [h], a.2)
    { c with mem := { c.mem with ch := (c.mem.ch.foldl one ([], false)).1 } }
  else { c with mem := { c.mem with slm := { c.mem.slm with ready := dropFirst p c.mem.slm.ready } } }

/-- A channel's fetches that the Memory Sluice and the DRAM queues still hold. -/
def Chip.fetchesHeld (c : Chip) (ch : Nat) : Nat :=
  let p (x : Xfer) : Bool := x.req == 0 && x.unit == ch && !x.write
  (c.mem.ch.flatMap fun h => h.rq).countP p + c.mem.slm.ready.countP p

/-- Every fetch of a channel is given up (R146). -/
def fetchesGone (ch : Nat) (c : Chip) : Chip :=
  let keep (x : Xfer) : Bool := !(x.req == 0 && x.unit == ch && !x.write)
  { c with mem := { c.mem with
      ch := c.mem.ch.map fun h => { h with rq := h.rq.filter keep }
      slm := { c.mem.slm with ready := c.mem.slm.ready.filter keep } } }

/-- The oldest burst that a channel asked for arrives, or ends in an error response (R138). -/
def furArrive (ch : Nat) (ok : Bool) (c : Chip) : Chip :=
  let f := c.fur ch
  if !f.running || decide (f.got ≥ f.asked) then c
  else
    let a := c.listBase ch + 64 * f.got
    let idx := 2 * f.got
    let c := modFur ch (fun f => { f with got := f.got + 1 }) (when (decide (c.fetchesHeld ch ≥ f.asked - f.got)) (fetchGone ch) c)
    if !ok || !c.dramOk a 64 then
      furFault ch faultFetch (f.expectSeq.getD (c.rd (Reg.FUR_STATE_head_seq ch))) idx c
    else
      let l := c.dramRead a 64
      furRecord ch (l.take 32) idx c |> furRecord ch (l.drop 32) (idx + 1)

/-! ### General outputs (R126, R514) -/

/-- The outputs that Furrows own: those of the RUNNING job's channels, and those with a pulse to clear. -/
def Chip.ownedOutputs (c : Chip) : Nat :=
  let job := match c.running with
    | some j => j.chans.foldl (fun m e => m ||| c.rd (Reg.FUR_SYNC_CTL_out_mask e.chan)) 0
    | none => 0
  c.sys.gio.pulses.foldl (fun m p => withBit m p.out true) job

/-- Ownership brought up to date: an output that is released keeps its level, and its bit of GIO_OUT takes it. -/
def gioOwn (c : Chip) : Chip :=
  let old := c.rd Reg.GIO_OUT_OWNER_bits
  let new := c.ownedOutputs
  let out := (List.range 16).foldl (fun m k =>
    if bit old k && !bit new k then withBit m k (bit (c.rd Reg.GIO_OUT_LEVEL_bits) k) else m) (c.rd Reg.GIO_OUT_bits)
  wr Reg.GIO_OUT_OWNER_bits new (wr Reg.GIO_OUT_bits out c)

/-- Change the general inputs and outputs. -/
def modGio (f : Gio → Gio) (c : Chip) : Chip := { c with sys := { c.sys with gio := f c.sys.gio } }

/-- A pulse's clear is due on an output (R126). -/
def pulseClear (k : Nat) (c : Chip) : Chip :=
  if c.sys.gio.pulses.any fun p => p.out == k && decide (p.clear ≤ c.now) then
    modGio (fun g => { g with pulses := g.pulses.filter fun p => p.out != k }) c
      |> wr Reg.GIO_OUT_LEVEL_bits (withBit (c.rd Reg.GIO_OUT_LEVEL_bits) k false) |> gioOwn
  else c

/-- A SET_OUTPUT acts (R126): any pending clear of its output is cancelled. -/
def setOutput (ch arg : Nat) (c : Chip) : Chip :=
  let k := bits arg 3 0
  let act := bits arg 15 8
  let lvl := bit (c.rd Reg.GIO_OUT_LEVEL_bits) k
  let v := if act = 0 then false else if act = 2 then !lvl else true
  let w := bits arg 31 16
  let due := c.now + w
  modGio (fun g =>
    let rest := g.pulses.filter fun p => p.out != k
    { g with pulses := if act = 3 then rest ++ [⟨k, ch, due⟩] else rest }) (pulseClear k c)
    |> wr Reg.GIO_OUT_LEVEL_bits (withBit (c.rd Reg.GIO_OUT_LEVEL_bits) k v) |> gioOwn

/-! ### Starts, ends and break points (R114, R131, R136) -/

/-- Replace one plan. -/
def modPlan (ch i : Nat) (g : Plan → Plan) (c : Chip) : Chip :=
  modFur ch (fun f => { f with plans := modAt f.plans i g }) c

/-- The records started in the present window are held against the declared rate (R61, R141). -/
def rateCheck (ch : Nat) (c : Chip) : Chip :=
  let f := c.fur ch
  when (f.running && decide (f.winCount > c.rd (Reg.FUR_RATE_rate ch))) (furFreeze ch 1 f.winCount) c

/-- A plan's first beat opens: its record starts (R137, R141, R150). A record with a positioning jump or a run-in starts
with that (DESIGN CHOICE, log entry 63). -/
def planStart (ch i : Nat) (c : Chip) : Chip :=
  match (c.fur ch).plans[i]? with
  | none => c
  | some p =>
    let c := modPlan ch i (fun p => { p with started := true }) c
    if p.park then c
    else
      rateCheck ch (modFur ch (fun f => { f with winCount := f.winCount + 1 }) c)
        |> inc (Reg.FUR_VEC_COUNT_count ch) (Reg.FUR_STICKY_vec_sat ch) 0
        |> when p.deferred (inc (Reg.FUR_DEFER_COUNT_count ch) (Reg.FUR_STICKY_defer_sat ch) 0)
        |> wr2 (Reg.FUR_VSTART_LO_beat ch) (Reg.FUR_VSTART_HI_beat ch) p.s
        |> when (p.r.kind == kSetOut) (setOutput ch p.r.arg)

/-- The log entry of a plan, with its flags (R137). -/
def Plan.entry (p : Plan) (quenched : Bool) (lits : List Lit) : LogEnt :=
  ⟨p.s, p.r.seq, p.r.group, min p.wait 65535, p.r.kind,
    b2n p.deferred + 2 * b2n p.positioned + 4 * b2n quenched + 8 * b2n (p.offAt.isSome && gateEmpty lits p.s) +
      16 * b2n p.corner + 32 * b2n p.underrun⟩

/-- A break point: the channel releases what neither the remaining path nor a committed or requested vector needs. -/
def breakPoint (ch : Nat) (rest : List Nat) (mine : Nat) (c : Chip) : Chip :=
  let f := c.fur ch
  let loose := f.probed
  let f' := { f with sets := f.sets.filter fun s => !loose.contains s.1, probed := [] }
  let keep := rest ++ (f'.sets.filter fun s => s.1 != mine).flatMap (fun s => s.2) ++
    (((c.req ch).map fun r => r.set).getD [])
  releaseTiles ch (fun k => !keep.contains k) (modFur ch (fun _ => f') c)

/-- The beat of a plan's end-beat break point (R131): its off edge is that of its own interval, also where that is merged
with a later one (DESIGN CHOICE, log entry 63). -/
def Plan.endBreak (p : Plan) (lits : List Lit) : Nat :=
  match p.offAt with
  | some off => if p.joined || gateEmpty lits p.s then p.endBeat else max p.endBeat ((Int.ediv off 250).toNat + 1)
  | none => p.endBeat

/-- A plan at the present beat: an intermediate break point passed, or its end. -/
def planEnd (ch i : Nat) (c : Chip) : Chip :=
  match (c.fur ch).plans[i]? with
  | none => c
  | some p =>
    let b := c.now
    let k := p.passed b
    let c := if p.started && !p.ended && decide (k > p.brk) then
        let g := c.tileGrid
        breakPoint ch (g.widen (c.rd Reg.SLB_CTL_halo) (g.path (p.breakPt k) p.r.pt).1) p.r.idx
          (modPlan ch i (fun p => { p with brk := k }) c)
      else c
    if p.started && !p.ended && decide (p.endBeat ≤ b) then
      let c := modPlan ch i (fun p => { p with ended := true }) c
      if p.park then c else logJoin ch (p.entry false (c.fur ch).lits) c
    else c

/-- The first plan has ended and its last break point falls: it goes. -/
def planGone (ch : Nat) (c : Chip) : Chip :=
  let f := c.fur ch
  match f.plans with
  | p :: rest =>
    if p.ended && decide (p.endBreak f.lits ≤ c.now) then
      let c := modFur ch (fun f => { f with plans := rest, pos := p.endPt }) c
      if p.r.motion && !p.park then
        modFur ch (fun f => { f with sets := f.sets.filter fun s => s.1 != p.r.idx }) (breakPoint ch [] p.r.idx c)
      else c
    else c
  | [] => c

/-- Starts and ends of a channel at the present beat, in execution order; then the plans that are over go. -/
def furAdvance (ch : Nat) (c : Chip) : Chip :=
  let n := (c.fur ch).plans.length
  let c := forEach (List.range n) (fun i c =>
    match (c.fur ch).plans[i]? with
    | some p => planEnd ch i (when (!p.started && decide (p.beg ≤ c.now)) (planStart ch i) c)
    | none => c) c
  forEach (List.range n) (fun _ => planGone ch) c

/-! ### Requests (R130, R157) -/

/-- Motion records ahead of record i in list order walked over: the position and the chain in which it would
begin. -/
def Chip.walkTo (c : Chip) (ch idx : Nat) : List BufRec → Pt × Option (Option Pt) → Pt × Option (Option Pt)
  | [], a => a
  | x :: l, a =>
    if x.r.idx = idx then a
    else if x.ahead || !x.r.motion then c.walkTo ch idx l a
    else
      let p := c.mkPlan ch x.r (x.start.getD a.1) a.1 0 a.2
      c.walkTo ch idx l (p.endPt, p.chainAfter a.2)

/-- The chain that a vector beginning at beat t would join. -/
def Furrow.chainAt (f : Furrow) (t : Nat) : Option (Option Pt) :=
  f.chain.bind fun p => if p.1 = t then some p.2 else none

/-- The largest run time of deferral, 0 when it is off. -/
def Chip.maxDefer (c : Chip) (ch : Nat) : Nat :=
  if c.flag (Reg.FUR_DEFER_CTL_enable ch) then c.rd (Reg.FUR_DEFER_CTL_max_beats ch) else 0

/-- The path and the tile set of a record (R129, R154). -/
def Chip.tilesOf (c : Chip) (r : VecRec) (start : Pt) : (List Nat × Bool) × List Nat :=
  let g := c.tileGrid
  let p := g.path start (if r.mark then r.pt else start)
  (p, g.widen (c.rd Reg.SLB_CTL_halo) p.1)

/-- The next tile-needing vector in list order that has no tiles. -/
def Furrow.nextNeed (f : Furrow) : Option BufRec :=
  f.buf.find? fun x => !x.ahead && x.r.needs && !f.sets.any fun s => s.1 == x.r.idx

/-- The Furrow requests its next tile set as soon as it fits (R130, R144). -/
def furRequest (ch : Nat) (c : Chip) : Chip :=
  let f := c.fur ch
  if !f.begun || !f.running || f.ended || f.reqIdx.isSome || c.sideMasked ch then c
  else
    match f.nextNeed with
    | none => c
    | some x =>
      let a := c.walkTo ch x.r.idx f.buf (f.lastEnd, f.chainAt f.t)
      let start := x.start.getD a.1
      let t := c.tilesOf x.r start
      if (dedup (c.heldTiles ch ++ t.2)).length ≤ 32 then
        let h := (c.mkPlan ch x.r start a.1 0 a.2).endBeat + 3 + c.maxDefer ch
        modFur ch (fun f => { f with reqIdx := some x.r.idx }) (placeReq ch t.1 t.2 x.r.seq h c)
      else c

/-! ### Deferral (R132–R135) -/

/-- The head of a channel: the first record in list order that is not committed. -/
def Furrow.head (f : Furrow) : Option BufRec := f.buf.find? fun x => !x.ahead

/-- Whether a record's tiles are there. -/
def Furrow.granted (f : Furrow) (r : VecRec) : Bool := !r.needs || f.sets.any fun s => s.1 == r.idx

/-- Candidates of R132 but for their tiles, in list order: record, start point, run time. -/
def Chip.candidates (c : Chip) (ch : Nat) (h : BufRec) : List (BufRec × Pt × Nat) :=
  let f := c.fur ch
  if !c.flag (Reg.FUR_DEFER_CTL_enable ch) then []
  else
    let cur := f.lastEnd
    let after := (f.buf.filter fun x => decide (x.r.idx > h.r.idx)).takeWhile fun x => x.r.motion
    let hs := h.start.getD cur
    let hset := (c.tilesOf h.r hs).2
    let hap := c.approach ch h.r hs
    (after.filter fun x => decide (x.r.idx ≤ h.r.idx + 31)).filterMap fun x =>
      let start := x.start.getD cur
      let p := c.mkPlan ch x.r start cur 0 (f.chainAt (max f.freeAt (c.now + 3)))
      let back := (c.addJump ch h.r p.endPt hap (0, [])).1
      let run := p.endBeat + back
      let earlier := (f.buf.any fun y => decide (y.r.idx < x.r.idx) && !y.ahead && y.r.group == x.r.group) ||
        f.plans.any fun q => !q.started && q.r.group == x.r.group
      let fits := !x.r.needs || decide ((dedup (hset ++ (c.tilesOf x.r start).2)).length ≤ 32)
      if !x.ahead && x.r.deferrable && x.r.group != h.r.group && !earlier && fits &&
          decide (run ≤ c.maxDefer ch) then some (x, start, run) else none

/-- Whether a channel's head waits for its grant. -/
def Chip.headWaits (c : Chip) (ch : Nat) : Option BufRec :=
  let f := c.fur ch
  match f.head with
  | some h =>
    if f.begun && f.running && !f.ended && h.r.motion && !f.granted h.r && decide (f.headReady.getD f.t ≤ c.now) then
      some h
    else none
  | none => none

/-- Tiles that a channel holds or requests (R130). -/
def Chip.claimed (c : Chip) (ch : Nat) : List Nat := c.heldTiles ch ++ ((c.req ch).map fun r => r.set).getD []

/-- The probe of a channel on a beat (R133, R157): for the first candidate in list order that has no tiles and whose set
leaves the channel at most 32 (R130) (DESIGN CHOICE, log entry 63). -/
def furProbe (ch : Nat) (c : Chip) : Chip :=
  match c.headWaits ch with
  | none => c
  | some h =>
    let fits (x : BufRec × Pt × Nat) : Bool := decide ((dedup (c.claimed ch ++ (c.tilesOf x.1.r x.2.1).2)).length ≤ 32)
    match (c.candidates ch h).find? fun x => !(c.fur ch).granted x.1.r && fits x with
    | none => c
    | some (x, start, run) =>
      let t := c.tilesOf x.r start
      if c.probeOk c.tileGrid ch (run + 3) t.1 t.2 then
        modFur ch (fun f => { f with sets := f.sets ++ [(x.r.idx, t.2)], probed := f.probed ++ [x.r.idx] })
          (holdTiles ch t.2 c)
      else c

/-! ### Commits (R115, R125–R128, R134) -/

/-- A vector committed: its plan joins the execution order, its interval the gate. -/
def commit (ch : Nat) (x : BufRec) (beg : Nat) (deferred : Bool) (c : Chip) : Chip :=
  let f := c.fur ch
  let cur := f.lastEnd
  let start := x.start.getD cur
  let chain := f.chainAt beg
  let p0 := c.mkPlan ch x.r start cur beg chain
  let joined := p0.joins chain
  let afterDefer := (f.plans.getLast?.map fun q => q.deferred && q.endBeat == beg).getD false
  let p := { p0 with
    deferred := deferred, back := !deferred && afterDefer, underrun := f.stalledNext,
    hatch := p0.offAt.isSome && (p0.positioned || f.jumped),
    wait := if deferred then 0 else p0.s - f.headReady.getD f.t }
  let lits := match c.litOf ch p with
    | some l => addLit joined l f.lits
    | none => f.lits
  let plans := if joined then f.plans.map (fun q => if q.r.mark && q.endBeat == beg then { q with joined := true } else q)
    else f.plans
  let buf := if deferred then f.buf.map (fun y => if y.r.idx = x.r.idx then { y with ahead := true } else y)
    else (f.buf.filter fun y => y.r.idx != x.r.idx).dropWhile fun y => y.ahead
  modFur ch (fun _ => { f with
    plans := plans ++ [p], lits := lits, buf := buf, t := p.endBeat,
    chain := (p.chainAfter chain).map fun d => (p.endBeat, d),
    headReady := if deferred then f.headReady else none
    stalledNext := false, probed := f.probed.filter fun i => i != x.r.idx
    jumped := if p.offAt.isSome then false else f.jumped || x.r.kind == kJump }) c

/-- A control record met or acting at a beat (R126–R128): it takes no beats, and marks before and after it that run back to
back still form a chain (DESIGN CHOICE, log entry 63). -/
def commitCtl (ch : Nat) (x : BufRec) (m : Nat) (c : Chip) : Chip :=
  let f := c.fur ch
  let e := f.lastEnd
  let p : Plan := ⟨x.r, false, m, m, m, [], e, e, m - f.headReady.getD f.t, false, false, false, f.stalledNext,
    false, none, false, 0, false, false, false⟩
  modFur ch (fun f => { f with
    plans := f.plans ++ [p], t := m, headReady := none, stalledNext := false, waiting := false
    buf := (f.buf.filter fun y => y.r.idx != x.r.idx).dropWhile fun y => y.ahead }) c

/-- The END record is reached (R136, R139, R143, R149). It is no started record itself: it has no log entry and LIST_END
does not count it (DESIGN CHOICE, log entry 63). -/
def furEnd (ch : Nat) (r : VecRec) (c : Chip) : Chip :=
  let c := logFlush ch c
  modFur ch (fun f => { f with ended := true, buf := [] }) c
    |> log 0x0304 ch (u8 ch ++ u8 0 ++ u16 r.seq ++ u32 (c.rd (Reg.FUR_VEC_COUNT_count ch)))
    |> setChState ch 1

/-- The beat on which a control record of fixed outcome is met, if it becomes ready at beat t. -/
def Chip.ctlBeat (c : Chip) (ch : Nat) (r : VecRec) (t : Nat) : Nat :=
  if r.kind = kWaitTime then max t (Int.ediv (r.time - c.fix.epoch + 249) 250).toNat
  else if r.kind = kSync then
    let period := max 1 (bits r.arg 15 0)
    let phase := bits r.arg 31 16
    let d := (t + period * (c.fur ch).startBeat - (c.fur ch).startBeat) % period
    t + (phase + period - d) % period
  else t

/-- The head becomes ready at the present time of its channel; the first motion record of a list starts at the commanded
position of that beat (R107). -/
def headTake (f : Furrow) : Furrow :=
  match f.headReady, f.head with
  | none, some x => { f with
      headReady := some f.t
      buf := f.buf.map fun y => if y.r.idx = x.r.idx then { y with start := some (y.start.getD (f.posAt f.t)) } else y }
  | _, _ => f

/-- A WAIT_INPUT that waits: met, or timed out (R125). -/
def waitInput (ch : Nat) (c : Chip) : Chip :=
  let f := c.fur ch
  match f.waiting, f.head with
  | true, some x =>
    let k := bits x.r.arg 3 0
    let cond := bits x.r.arg 15 8
    let v := bit (c.rd Reg.GIO_IN_bits) k
    let u := bit c.sys.gio.prevIn k
    let met := if cond = 0 then !v else if cond = 1 then v else if cond = 2 then v && !u else u && !v
    let out := bits x.r.arg 31 16
    if met then commitCtl ch x c.now c
    else if out ≠ 0 ∧ c.now ≥ f.t + 1000 * out then
      furFault ch faultSync x.r.seq x.r.idx c
    else c
  | _, _ => c

/-- One commit, if the channel can make one on this beat (R115, R134). -/
def furTry (ch : Nat) (c : Chip) : Option Chip :=
  let open3 (f : Furrow) : Bool := f.running && !f.ended && !f.waiting && decide (f.freeAt ≤ c.now + 3) && laserOn (c.chState ch)
  let c := modFur ch (fun f => if open3 f then headTake f else f) c
  let f := c.fur ch
  let b := c.now
  if !f.running || f.ended || f.waiting || decide (f.freeAt > b + 3) || !laserOn (c.chState ch) ||
      (!f.begun && decide (b + 3 < f.startBeat)) then none
  else
    match f.head with
    | none => none
    | some x =>
      if x.r.motion then
        if f.granted x.r then some (commit ch x (max f.freeAt (b + 3)) false c)
        else
          match c.headWaits ch with
          | none => none
          | some h =>
            match (c.candidates ch h).find? fun y => f.granted y.1.r with
            | some y => some (commit ch y.1 (max f.freeAt (b + 3)) true c)
            | none => none
      else if x.r.kind = kWaitIn then
        if f.t ≤ b then some (waitInput ch (modFur ch (fun f => { f with waiting := true }) c)) else none
      else if x.r.kind = kEnd then
        if f.t ≤ b then some (furEnd ch x.r (furAdvance ch c)) else none
      else
        let m := c.ctlBeat ch x.r (max f.t b)
        if m ≤ b + 3 then some (commitCtl ch x m c) else none

/-- Commits of a beat. -/
def furCommits (ch : Nat) : Nat → Chip → Chip
  | 0, c => c
  | k + 1, c =>
    match furTry ch c with
    | some c => furCommits ch k c
    | none => c

/-- The head became ready at the present time, for a head that is not committed. -/
def headSeen (ch : Nat) (c : Chip) : Chip :=
  let f := c.fur ch
  if f.running && !f.ended && decide (f.t ≤ c.now) then modFur ch headTake c else c

/-- Fetch stalls (R140): counted when one begins, logged when it ends. -/
def furStall (ch : Nat) (c : Chip) : Chip :=
  let f := c.fur ch
  let b := c.now
  let dry := f.running && f.begun && !f.ended && f.head.isNone && !f.fetchDone && decide (f.freeAt ≤ b + 3) &&
    decide (c.chState ch < 6)
  match f.stall with
  | none =>
    if dry then
      modFur ch (fun f => { f with stall := some b, stalledNext := true }) c
        |> inc (Reg.FUR_UNDERRUN_count ch) (Reg.FUR_STICKY_underrun_sat ch) 3
    else c
  | some _ =>
    match f.head with
    | some x => stallEnd ch x.r.seq c
    | none => c

/-- A window of 1,000 beats ends, counted from the job start beat (R141). -/
def rateWindow (ch : Nat) (c : Chip) : Chip :=
  let f := c.fur ch
  if f.running && f.begun && decide (c.now > f.startBeat) && decide ((c.now - f.startBeat) % 1000 = 0) then
    modFur ch (fun f => { f with winCount := 0 }) c
  else c

/-! ### Quench, confirmation and park (R145, R146) -/

/-- The channel's RUNNING job, or the one whose start is accepted, treats it as frozen from a sequence on (R62, R146). -/
def jobLoses (ch seq : Nat) (c : Chip) : Chip :=
  match c.host.jobs.find? fun j => (j.st == 2 || (j.st == 1 && j.start.isSome)) && j.hasChan ch with
  | some j =>
    if !j.frozen.any (fun p => p.1 == ch) then
      modJob j.id (fun j => { j with frozen := j.frozen ++ [(ch, seq)] }) c
    else c
  | none => c

/-- A channel enters QUENCHED at the present beat (R146), after the records that end or begin on it. A source that finds
the channel in QUENCHED or FAULT leaves it as it is, as R511 says of QUENCHED; for FAULT that is the model's (DESIGN CHOICE, log entry 63). -/
def furQuench (ch cause : Nat) (c : Chip) : Chip :=
  if c.chState ch ≥ 6 then c
  else
    let b := c.now
    let c := stallCut ch (furAdvance ch c)
    let f := c.fur ch
    let live := f.running && !f.ended
    let seq := c.rd (Reg.FUR_STATE_head_seq ch)
    let ents := (f.plans.filter fun p => p.started && !p.ended && !p.park).map fun p => p.entry true f.lits
    let f' : Furrow := { Furrow.init with
      pos := f.posAt b, startBeat := f.startBeat, loops := f.loops, frozen := f.frozen, quenchedAt := some b,
      qLog := ents, log := f.log, logIdx := f.logIdx, lastJoin := f.lastJoin, logBad := f.logBad }
    let c := modFur ch (fun _ => f') (fetchesGone ch (withdrawReq ch c))
    let c := wr (Reg.FUR_STATE_wait_cause ch) 0 c |> setChState ch 6
    if cause ≥ 0x100 then c
    else
      wr (Reg.FUR_STATE_quench_cause ch) cause c |> log 0x0301 ch (u8 ch ++ u8 cause ++ u16 seq ++ beat32 b)
        |> when (live && decide (cause ≠ quenchUnattributed) && decide (cause ≠ quenchJobAbort)) (jobLoses ch seq)

/-- RESET_QUENCH of a reset or of a domain going off (R500, R509). -/
def resetQuenchLog (ch cause : Nat) (c : Chip) : Chip :=
  when (decide (cause = quenchReset 7) || laserOn (c.chState ch))
    (log 0x0103 ch (u8 ch ++ u8 (cause - 0x100) ++ u16 (c.rd (Reg.FUR_STATE_head_seq ch)) ++ beat32 c.now)) c

/-- The quench sources due for a channel: the lowest cause of the beat (R511). Causes that only the Crock records come
above all of R147. -/
def quenchDue (ch : Nat) (c : Chip) : Chip :=
  let f := c.fur ch
  let due := f.quenchReq.filter fun q => decide (q.1 ≤ c.now)
  match due with
  | [] => c
  | q :: l =>
    let cause := l.foldl (fun m x => min m x.2.1) q.2.1
    let keep := f.quenchReq.filter fun q => decide (q.1 > c.now)
    let off := due.any fun x => x.2.1 == quenchReset 7
    let c := forEach (due.filter fun x => decide (x.2.1 ≥ 0x100)) (fun x => resetQuenchLog ch x.2.1) c
    let c := if c.alive (chanDom ch) || off then furQuench ch cause c else c
    modFur ch (fun f => { f with quenchReq := keep }) c

/-- The park move (R145): from the present position, beginning two beats after the command or confirmation, so that a
quenched channel holds its position for the beats of R146 (DESIGN CHOICE, log entry 63). Vectors that have ended stay
until their end-beat break points have fallen. -/
def park (ch : Nat) (c : Chip) : Chip :=
  let b := c.now
  let f := c.fur ch
  let cur := f.posAt b
  let k := c.rd (Reg.FUR_PARK_SET_pset ch)
  let lim := match c.host.sec.envelope with
    | some e => e.jump.getD ch 0
    | none => 40000000
  let v0 := c.rd (Reg.FUR_PSET_JUMP_jump_speed ch k)
  let v := if v0 = 0 ∨ v0 > lim then lim else v0
  let q : Pt := (c.rdS (Reg.FUR_PARK_X_pos ch), c.rdS (Reg.FUR_PARK_Y_pos ch))
  let a := if cur = q then (b + 2, [])
    else addSeg q q (c.rd (Reg.FUR_PSET_HOLD_jump_settle ch k)) (addSeg cur q (segBeats cur q v) (b + 2, []))
  let r : VecRec := ⟨0, q.1, q.2, 0, 0, k, kJump, 0, 0, 0, 0, 0⟩
  let p : Plan := ⟨r, true, b + 2, b + 2, a.1, a.2, cur, q, 0, false, false, false, false, false, none, false, 0,
    false, false, false⟩
  modFur ch (fun f => { f with plans := (f.plans.filter fun q => q.ended) ++ [p], pos := cur, chain := none }) c
    |> setChState ch 5

/-- The quench is confirmed one beat later (R146, R143). -/
def quenchConfirm (ch : Nat) (c : Chip) : Chip :=
  let f := c.fur ch
  match f.quenchedAt with
  | none => c
  | some q =>
    if c.now < q + 1 then c
    else
      let ents := f.qLog
      let c := modFur ch (fun f => { f with quenchedAt := none, qLog := [] }) c
      let c := logFlush ch (ents.foldl (fun c e => logJoin ch e c) c) |> quenchTiles ch
      if c.chState ch ≠ 6 then c
      else if c.rd (Reg.FUR_STATE_quench_cause ch) = quenchOwnFault then setChState ch 7 c
      else if c.rd (Reg.FUR_STATE_quench_cause ch) = quenchJobAbort then park ch c
      else c

/-! ### The beat -/

/-- The cause for which a head waits that is not committed (R150). -/
def Chip.headCause (c : Chip) (ch : Nat) : Nat :=
  let f := c.fur ch
  match f.head with
  | none => 5
  | some x =>
    if x.r.motion then (if f.granted x.r then 0 else if f.reqIdx.isSome then 1 else 7)
    else if x.r.kind = kWaitIn then 2
    else if x.r.kind = kWaitTime then 3
    else if x.r.kind = kSync then 4
    else 0

/-- State and wait cause of a running list no vector of which runs on the present beat (R143, R150). A committed vector
that has not begun leaves a WAITING or DEFERRING channel so, and one that was committed before this beat leaves the state as it was:
its grant came before it was ready, so nothing holds it but R115 (DEDUCED, log entry 32). -/
def Chip.restState (c : Chip) (ch : Nat) : Nat × Nat :=
  let f := c.fur ch
  let st := c.chState ch
  match f.plans.find? fun p => decide (p.beg > c.now) with
  | none => (3, c.headCause ch)
  | some p =>
    if st = 3 then (3, c.rd (Reg.FUR_STATE_wait_cause ch))
    else if st = 4 then (4, 0)
    else if p.deferred then (3, c.headCause ch)
    else if p.r.needs && p.beg == c.now + 3 then (3, 1)
    else (2, 0)

/-- The channel state of the present beat (R143). -/
def furState (ch : Nat) (c : Chip) : Chip :=
  let f := c.fur ch
  let b := c.now
  let st := c.chState ch
  if st ≥ 6 then c
  else if !laserOn st then
    wr (Reg.FUR_STATE_wait_cause ch) (if f.running && !f.begun && decide (f.startBeat ≤ b) then 6 else 0) c
  else
    let cur := f.plans.find? fun p => decide (p.beg ≤ b) && decide (b < p.endBeat) && !p.park
    match cur with
    | some p =>
      setChState ch (if p.deferred || (p.back && decide (b < p.s)) then 4 else 2) (wr (Reg.FUR_STATE_wait_cause ch) 0 c)
    | none =>
      if f.running && !f.ended && f.begun then
        let r := c.restState ch
        setChState ch r.1 (wr (Reg.FUR_STATE_wait_cause ch) r.2 c)
          |> when (r.1 == 3) (inc (Reg.FUR_WAIT_BEATS_count ch) (Reg.FUR_STICKY_wait_sat ch) 2)
      else setChState ch 1 (wr (Reg.FUR_STATE_wait_cause ch) 0 c)

/-- Intervals that neither a beat to come nor the log entry of a vector looks at any more go. -/
def litsKept (b : Nat) (f : Furrow) : Furrow :=
  let near (l : Lit) (p : Plan) : Bool := !p.ended && p.offAt.isSome && decide (((p.beg * 250 : Nat) : Int) ≤ l.off + 500)
  let keep (l : Lit) : Bool := decide (l.off + 500 ≥ (b * 250 : Nat)) || f.plans.any (near l)
  { f with lits := f.lits.filter keep }

/-- The registers of the present beat (R150). -/
def furShow (ch : Nat) (c : Chip) : Chip :=
  let b := c.now
  let f := c.fur ch
  let p := f.posAt b
  let q := c.corrected ch p
  let le := laserOn (c.chState ch)
  wrS (Reg.FUR_CMD_X_pos ch) p.1 c |> wrS (Reg.FUR_CMD_Y_pos ch) p.2
    |> wrS (Reg.FUR_SCAN_X_scan ch) q.1 |> wrS (Reg.FUR_SCAN_Y_scan ch) q.2
    |> wrB (Reg.FUR_OUT_laser_enable ch) le |> wrB (Reg.FUR_OUT_gate ch) (le && gateAt f.lits b)
    |> wr (Reg.FUR_OUT_power ch) (if le then c.nominalPower ch (powerAt f.lits b) else 0)
    |> when f.headSeq.isSome (wr (Reg.FUR_STATE_head_seq ch) (f.headSeq.getD 0))
    |> when (gateIn f.lits b) (litTiles ch)
    |> modFur ch (litsKept b)

/-- A channel changes state by a command, with its event (R143). -/
def chEvent (ch old new op : Nat) (c : Chip) : Chip := log 0x0306 ch (u8 ch ++ u8 old ++ u8 new ++ u8 op ++ u32 0) c

/-- A channel is armed (R143); the first vector of a list that should run already becomes ready now, and the first tile
set is requested (R144). -/
def armNow (ch : Nat) (c : Chip) : Chip :=
  let old := c.chState ch
  let b := c.now
  modFur ch (fun f =>
    if f.running && !f.begun && decide (f.startBeat ≤ b) then headTake { f with begun := true, t := b, armAt := none }
    else { f with armAt := none }) c
    |> setChState ch 1 |> furRequest ch |> chEvent ch old 1 0x40

/-- An arming of the step beat takes effect (R46). -/
def armDue (ch : Nat) (c : Chip) : Chip :=
  match (c.fur ch).armAt with
  | some n => if n ≤ c.now ∧ (c.chState ch = 0 ∨ c.chState ch = 5) then armNow ch c else c
  | none => c

/-- The list of an armed channel begins at its start beat (R143, R144). -/
def furBegin (ch : Nat) (c : Chip) : Chip :=
  let f := c.fur ch
  if f.running && !f.begun && decide (f.startBeat ≤ c.now) && decide (c.chState ch = 1) then
    modFur ch (fun f => { f with begun := true }) c
  else c

/-- A channel's events at the opening of a beat, before the Bed Sluice evaluates. -/
def furOpen (ch : Nat) (c : Chip) : Chip :=
  when (c.alive (chanDom ch)) (fun c =>
    armDue ch c |> furBegin ch |> rateWindow ch |> furAdvance ch |> headSeen ch |> waitInput ch |> furAdvance ch |> logTimeout ch
      |> furFetch ch 32 |> furRequest ch) c

/-- A channel's commits of a beat and what they bring at once; then its state and registers. -/
def furClose (ch : Nat) (c : Chip) : Chip :=
  when (c.alive (chanDom ch)) (fun c =>
    furCommits ch 64 c |> headSeen ch |> furStall ch |> furAdvance ch |> furState ch |> furShow ch) c

/-- The counters of a job's start beat (R136, R150). -/
def furJobStart (ch : Nat) (c : Chip) : Chip :=
  forEach [Reg.FUR_VEC_COUNT_count ch, Reg.FUR_DEFER_COUNT_count ch, Reg.FUR_WAIT_BEATS_count ch,
    Reg.FUR_UNDERRUN_count ch, Reg.FUR_LOG_COUNT_count ch] (fun r => wr r 0) c
    |> modFur ch (fun f => { f with log := [], logIdx := 0, winCount := 0, logBad := false })

/-- A channel entry of a job whose start is accepted (R95, R150): the list it will run, from a beat on. -/
def furLoad (e : ChanEntry) (job s : Nat) (c : Chip) : Chip :=
  let ch := e.chan
  let c := wr2 (Reg.FUR_LIST_BASE_LO_base ch) (Reg.FUR_LIST_BASE_HI_base ch) e.list c
    |> wr (Reg.FUR_LIST_LEN_length ch) e.len |> wr (Reg.FUR_RATE_rate ch) e.rate |> wr (Reg.FUR_JOB_job_id ch) job
  modFur ch (fun f => { f with
    running := true, ended := false, startBeat := s, begun := false, loops := e.loops, buf := [], asked := 0, got := 0,
    fetchDone := false, expectSeq := none, lastPt := none, t := s, jumped := false, headReady := none, waiting := false,
    sets := [], probed := [], reqIdx := none, stall := none, stalledNext := false, winCount := 0, chain := none }) c
    |> furFetch ch 32

/-- The end of a job for a channel that it named: freezes end (R62), the list is no longer run. -/
def furJobEnd (ch : Nat) (c : Chip) : Chip :=
  modFur ch (fun f => { f with frozen := false, running := false, ended := false, begun := false, buf := [] })
    (fetchesGone ch (withdrawReq ch (stallCut ch c)))

/-- A Furrow reset, with its FUR block (R147, R505). A quench that is not confirmed yet is confirmed all the same, by the
sideband (R169). -/
def furReset (ch : Nat) (c : Chip) : Chip :=
  clearRange (0x100000 + ch * 0x1000) (0x100000 + (ch + 1) * 0x1000)
    (modFur ch (fun f => { Furrow.init with quenchedAt := f.quenchedAt }) (fetchesGone ch c))

/-! ### The guard (R173, R174) -/

/-- Pairs of channels lit in beat n whose squared distance is below the square of d_min. -/
def Chip.guardPairs (c : Chip) (n : Nat) : List (Nat × Nat × Nat) :=
  let d := c.rd Reg.SLB_GUARD_SEP_d_min
  let lit := (List.range 24).filter fun ch =>
    c.on (chanDom ch) && laserOn (c.chState ch) && gateIn (c.fur ch).lits n
  lit.flatMap fun a => (lit.filter fun b => decide (a < b)).filterMap fun b =>
    let k := dist2 ((c.fur a).posAt n) ((c.fur b).posAt n)
    if k < d * d then some (a, b, k) else none

/-- The guard looks at beat b + 2. -/
def guardLook (c : Chip) : Chip :=
  let n := c.now + 2
  let l := if c.on pdFABRIC && c.rd Reg.SLB_GUARD_SEP_d_min != 0 then c.guardPairs n else []
  modSlb (fun s => { s with trip := if l.isEmpty then none else some (n, l) }) c

/-- A trip for the next beat acts (R174). -/
def guardTrip (c : Chip) : Chip :=
  match c.beam.slb.trip with
  | some (n, (a, b, k) :: l) =>
    if n ≠ c.now + 1 then c
    else
      let d := isqrt k
      let pairs := l.length + 1
      modSlb (fun s => { s with trip := none }) c
        |> forEach ((a, b, k) :: l) (fun p c => askQuench p.1 c.now quenchGuard 0 c |> askQuench p.2.1 c.now quenchGuard 0)
        |> log 0x0401 a (u8 a ++ u8 b ++ u16 (min pairs 65535) ++ u32 (satU 32 d))
        |> wr Reg.SLB_GUARD_LAST_pairs (min pairs 255) |> wr Reg.SLB_GUARD_LAST_chan_a a
        |> wr Reg.SLB_GUARD_LAST_chan_b b |> wr Reg.SLB_GUARD_DIST_dist (satU 32 d)
        |> wr2 Reg.SLB_GUARD_BEAT_LO_beat Reg.SLB_GUARD_BEAT_HI_beat n
        |> inc Reg.SLB_GUARD_COUNT_count Reg.SLB_STICKY_guard_sat 0
        |> snapTrigger 4
  | _ => c

/-! ### What a channel hands to its downlink and its Ladle (R121, R270) -/

/-- The vector to which beat n belongs: the one that runs on it, or the committed one that waits for its first beat. -/
def Furrow.planOf (f : Furrow) (n : Nat) : Option Plan :=
  f.plans.find? fun p => !p.park && (decide (n < p.beg) || decide (n < p.endBeat))

/-- The head to which a running list's beats belong while nothing is committed. -/
def Furrow.waiter (f : Furrow) : Option BufRec := if f.running && !f.ended && f.begun then f.head else none

/-- The record that governs beat n (R121). -/
def Chip.governs (c : Chip) (ch n : Nat) : Option VecRec :=
  match (c.fur ch).planOf n with
  | some p => some p.r
  | none => (c.fur ch).waiter.map fun x => x.r

/-- Whether the vector that governs beat n is the first lit vector after a JUMP or a positioning jump (R289). -/
def Chip.governsHatch (c : Chip) (ch n : Nat) : Bool :=
  let f := c.fur ch
  match f.planOf n with
  | some p => p.hatch
  | none => f.waiter.any fun x => x.r.needs && (f.jumped || c.approach ch x.r (x.start.getD f.lastEnd) != f.lastEnd)

/-- The effective loop enables of beat n: bit 0 X, bit 1 Y, bit 2 power. -/
def Chip.loopEnables (c : Chip) (ch n : Nat) : Nat :=
  ((c.governs ch n).map fun r => bits r.flags 4 2 &&& (c.fur ch).loops).getD 0

end Sys2Proof.Machine
end

