-- ==== Sys2Proof/Machine/Loops.lean ====
section
/-! DEFINITION. The Ladle engines' arithmetic and loop states (09_ladle_engines.md, R271–R293): one enabled
sample of a loop, updating or missing, and the switches of the repetitive stage. The commands that run samples are
in Ladle.lean. -/

namespace Sys2Proof.Machine

open Sys2Proof

/-! ### Coefficients and sums (R275) -/

/-- Product of a coefficient and a quantity with a right shift, rounded to nearest, halves toward plus infinity. -/
def mulShift (k x : Int) (s : Nat) : Int := (k * x + (if s > 0 then (2 ^ (s - 1) : Nat) else 0)) / (2 ^ s : Nat)

/-- A sum saturated at ±(2^63 − 1). -/
def sat64 (x : Int) : Int := clampI (-(2 ^ 63 - 1)) (2 ^ 63 - 1) x

/-- A coefficient of a loop: its value word and its shift word (R296). -/
def Chip.coef (c : Chip) (v s : Fld) (x : Int) : Int := mulShift (s32 (c.rd v)) x (c.rd s)

/-- The PID products of a sample: the banks of the power loop by gain_sel (R277, R296). -/
def Chip.gainP (c : Chip) (n l b : Nat) (x : Int) : Int :=
  if l = 2 then c.coef (Reg.LAD_PWR_KP_value n b) (Reg.LAD_PWR_KP_SHIFT_shift n b) x
  else c.coef (Reg.LAD_XY_KP_value n l) (Reg.LAD_XY_KP_SHIFT_shift n l) x

/-- The integral product. -/
def Chip.gainI (c : Chip) (n l b : Nat) (x : Int) : Int :=
  if l = 2 then c.coef (Reg.LAD_PWR_KI_value n b) (Reg.LAD_PWR_KI_SHIFT_shift n b) x
  else c.coef (Reg.LAD_XY_KI_value n l) (Reg.LAD_XY_KI_SHIFT_shift n l) x

/-- The derivative product. -/
def Chip.gainD (c : Chip) (n l b : Nat) (x : Int) : Int :=
  if l = 2 then c.coef (Reg.LAD_PWR_KD_value n b) (Reg.LAD_PWR_KD_SHIFT_shift n b) x
  else c.coef (Reg.LAD_XY_KD_value n l) (Reg.LAD_XY_KD_SHIFT_shift n l) x

/-- The unclamped output of notch 1 for input x and a delay line (R278). -/
def Chip.notch1 (c : Chip) (n l : Nat) (z : Int × Int × Int × Int) (x : Int) : Int :=
  sat64 (c.coef (Reg.LAD_N1_B0_value n l) (Reg.LAD_N1_B0_SHIFT_shift n l) x
    + c.coef (Reg.LAD_N1_B1_value n l) (Reg.LAD_N1_B1_SHIFT_shift n l) z.1
    + c.coef (Reg.LAD_N1_B2_value n l) (Reg.LAD_N1_B2_SHIFT_shift n l) z.2.1
    - c.coef (Reg.LAD_N1_A1_value n l) (Reg.LAD_N1_A1_SHIFT_shift n l) z.2.2.1
    - c.coef (Reg.LAD_N1_A2_value n l) (Reg.LAD_N1_A2_SHIFT_shift n l) z.2.2.2)

/-- The unclamped output of notch 2. -/
def Chip.notch2 (c : Chip) (n l : Nat) (z : Int × Int × Int × Int) (x : Int) : Int :=
  sat64 (c.coef (Reg.LAD_N2_B0_value n l) (Reg.LAD_N2_B0_SHIFT_shift n l) x
    + c.coef (Reg.LAD_N2_B1_value n l) (Reg.LAD_N2_B1_SHIFT_shift n l) z.1
    + c.coef (Reg.LAD_N2_B2_value n l) (Reg.LAD_N2_B2_SHIFT_shift n l) z.2.1
    - c.coef (Reg.LAD_N2_A1_value n l) (Reg.LAD_N2_A1_SHIFT_shift n l) z.2.2.1
    - c.coef (Reg.LAD_N2_A2_value n l) (Reg.LAD_N2_A2_SHIFT_shift n l) z.2.2.2)

/-! ### Engines and loops -/

/-- A Ladle engine. -/
def Chip.ladle (c : Chip) (n : Nat) : Ladle := c.lad.getD n Ladle.init

/-- Change one engine. -/
def modLadle (n : Nat) (f : Ladle → Ladle) (c : Chip) : Chip := { c with lad := modAt c.lad n f }

/-- A loop. -/
def Chip.loop (c : Chip) (n l : Nat) : Loop := (c.ladle n).loops.getD l Loop.init

/-- Change one loop. -/
def modLoop (n l : Nat) (f : Loop → Loop) (c : Chip) : Chip :=
  modLadle n (fun e => { e with loops := modAt e.loops l f }) c

/-- The microcode of a loop (R272): 0 OFF, 1 PID_E, 2 PID_M. -/
def Chip.ucode (c : Chip) (n l : Nat) : Nat :=
  match l with
  | 0 => c.rd (Reg.LAD_UCODE_ucode_x n)
  | 1 => c.rd (Reg.LAD_UCODE_ucode_y n)
  | _ => c.rd (Reg.LAD_UCODE_ucode_p n)

/-- A loop's ready bit (R273). -/
def ladReadyFld (n l : Nat) : Fld :=
  match l with
  | 0 => Reg.LAD_UCODE_ready_x n
  | 1 => Reg.LAD_UCODE_ready_y n
  | _ => Reg.LAD_UCODE_ready_p n

/-- What a clear sets to 0 (R271): integrator, filter, delay lines, previous error, measurement and output. -/
def Loop.clear (s : Loop) : Loop :=
  { s with integ := 0, df := 0, n1 := (0, 0, 0, 0), n2 := (0, 0, 0, 0), ePrev := 0, mPrev := 0, yPrev := 0,
           fresh := true, above := false }

/-- A loop's state cleared (R271). -/
def ladClear (n l : Nat) (c : Chip) : Chip :=
  modLoop n l Loop.clear c |> wr (Reg.LAD_OUT_value n l) 0 |> wr (Reg.LAD_INT_value n l) 0

/-- The sticky bits of R276 that act. -/
def ladSat (n l : Nat) (e sum int out notch rc : Bool) (c : Chip) : Chip :=
  c |> when e (wr (Reg.LAD_SAT_e_sat n l) 1) |> when sum (wr (Reg.LAD_SAT_sum_sat n l) 1)
    |> when int (wr (Reg.LAD_SAT_int_clamp n l) 1) |> when out (wr (Reg.LAD_SAT_out_clamp n l) 1)
    |> when notch (wr (Reg.LAD_SAT_notch_sat n l) 1) |> when rc (wr (Reg.LAD_SAT_rc_sat n l) 1)

/-- The byte address of entry i of a loop's repetitive buffer (R290). -/
def rcAddr (n l i : Nat) : Nat := 0x01700000 + n * 0x10000 + l * 0x4000 + 4 * i

/-- A loop switches its repetitive stage (R288): the state follows the direction and rc_arm, and the event names
the cause. -/
def rcSwitch (n l : Nat) (into : Bool) (cause : Nat) (c : Chip) : Chip :=
  let st := if into then 2 else if c.flag (Reg.LAD_CTL_rc_arm n l) then 1 else 0
  modLoop n l (fun s => { s with rcUsed := s.rcUsed || into }) (wr (Reg.LAD_STATE_rc_state n l) st c)
    |> log (if into then 0x0703 else 0x0704) n (u8 n ++ u8 l ++ u8 cause ++ u8 0 ++ beat32 c.now)

/-- A sample opens at the present beat: a switch that the host wrote, or that a sample tripped, in an earlier beat takes
effect (R288). -/
def rcTake (n l : Nat) (c : Chip) : Chip :=
  match (c.loop n l).switch with
  | none => c
  | some (into, host, b) =>
    if b < c.now then modLoop n l (fun s => { s with switch := none }) (rcSwitch n l into (b2n host) c) else c

/-- The repetitive index at an enabled sample (R289): 0 at the job's first, and with rc_sync at each that the first lit
vector of a hatch line governs. -/
def Chip.rcIndex (c : Chip) (n l : Nat) (hatch : Bool) : Nat :=
  if !(c.loop n l).begun || (c.flag (Reg.LAD_CTL_rc_sync n l) && hatch) then 0 else c.rd (Reg.LAD_RC_IDX_i n l)

/-- The index moves on (R289). -/
def rcAdvance (n l i : Nat) (c : Chip) : Chip :=
  let m := c.rd (Reg.LAD_RC_PERIOD_n n l)
  modLoop n l (fun s => { s with begun := true })
    (wr (Reg.LAD_RC_IDX_i n l) (if m = 0 then 0 else (i + 1) % m) c)

/-- What the sample's window of pre-warnings becomes (R285): samples are counted as enabled samples. -/
def winStep : Option (Nat × Nat) → Option (Nat × Nat)
  | none => none
  | some (k, t) => if k ≤ 1 then none else some (k - 1, t)

/-- A pre-warning trip (R285): it opens a window or counts in one, and when the count reaches the limit while the
stage is ARMED the stage switches in at the next sample. -/
def preWarn (n l : Nat) (absE : Nat) (c : Chip) : Chip :=
  let trips := c.rd (Reg.LAD_PW_WIN_trips n l)
  let c := inc (Reg.LAD_PREWARNS_count n l) (Reg.LAD_SAT_cnt_sat n l) 3 c
  let (w, c) := match (c.loop n l).win with
    | some (k, t) => ((k, t + 1), c)
    | none => ((c.rd (Reg.LAD_PW_WIN_win n l), 1),
        log 0x0702 n (u8 n ++ u8 l ++ u16 0 ++ u32 (satU 32 absE)) c)
  let b := c.now
  if w.2 ≥ trips ∧ c.rd (Reg.LAD_STATE_rc_state n l) = 1 then
    modLoop n l (fun s => { s with win := none, switch := some (true, false, b) }) c
  else modLoop n l (fun s => { s with win := some w }) c

/-- A loop fault found in the present beat (R286): the channel is QUENCHED at the next, the lower loop is named,
and a fault takes precedence over a switch-in. The channel faults with cause LOOP (R148). -/
def loopFault (n l cause : Nat) (c : Chip) : Chip :=
  let first := c.rd (Reg.LAD_FAULT_cause n) = 0 ∨ l < c.rd (Reg.LAD_FAULT_loop n)
  let c := if first then wr (Reg.LAD_FAULT_cause n) cause (wr (Reg.LAD_FAULT_loop n) l c) else c
  wr (Reg.LAD_STATE_state n l) 6 c |> wr (Reg.LAD_STATE_stale n l) 0
    |> modLoop n l (fun s => { s with switch := s.switch.filter fun x => x.2.1 })
    |> log 0x0701 n (u8 n ++ u8 l ++ u8 cause ++ u8 0 ++ beat32 c.now)
    |> furFault n faultLoop (c.headRec n).1 (c.headRec n).2

/-- The supervision of an updating sample (R284, R285). -/
def supervise (n l : Nat) (e : Int) (c : Chip) : Chip :=
  let a := e.natAbs
  let en := c.flag (Reg.LAD_CTL_fe_en n l)
  let cnt := if a > c.rd (Reg.LAD_FE_LIM_limit n l) then satU 16 (c.rd (Reg.LAD_STATE_over_count n l) + 1) else 0
  let c := if en then wr (Reg.LAD_STATE_over_count n l) cnt c else c
  let c := modLoop n l (fun s => { s with win := winStep s.win }) c
  let lim := c.rd (Reg.LAD_PW_LIM_limit n l)
  let high := decide (lim ≠ 0xFFFFFFFF) && decide (a > lim)
  let trip := high && !(c.loop n l).above
  let c := if trip then preWarn n l a c else c
  let c := modLoop n l (fun s => { s with above := high }) c
  if en ∧ cnt > c.rd (Reg.LAD_CTL_fe_timer n l) then loopFault n l 1 c else c

/-- An updating sample of loop l of engine n (R277): reference r, measurement m, gain bank b, repetitive index i;
the output applies from beat `apply`. -/
def updateSample (n l b i : Nat) (r m : Int) (apply : Nat) (c : Chip) : Chip :=
  let s := c.loop n l
  let e := satS 32 (r - m)
  let p := c.gainP n l b e
  let yHi := s32 (c.rd (Reg.LAD_Y_HI_bound n l))
  let yLo := s32 (c.rd (Reg.LAD_Y_LO_bound n l))
  let di0 := c.gainI n l b e
  let di := if (s.yPrev = yHi ∧ di0 > 0) ∨ (s.yPrev = yLo ∧ di0 < 0) then 0 else di0
  let acc := sat64 (s.integ + di)
  let ia := clampI (s32 (c.rd (Reg.LAD_I_LO_bound n l))) (s32 (c.rd (Reg.LAD_I_HI_bound n l))) acc
  let d0 := if s.fresh then 0 else c.gainD n l b (if c.ucode n l = 1 then e - s.ePrev else s.mPrev - m)
  let d := satS 32 d0
  let df0 := s.df + ((c.rd (Reg.LAD_KN_kn n l) : Int) * (d - s.df) + 32768) / 65536
  let df := satS 32 df0
  let st := c.rd (Reg.LAD_STATE_rc_state n l)
  let period := c.rd (Reg.LAD_RC_PERIOD_n n l)
  let lead := c.rd (Reg.LAD_RC_PERIOD_lead n l)
  let rc : Int := if st = 2 ∧ period ≠ 0 then s32 (c.word 0 (rcAddr n l ((i + lead) % period))) else 0
  let v0 := sat64 (p + ia + df + rc)
  let v := satS 32 v0
  let on1 := c.flag (Reg.LAD_CTL_n1_en n l)
  let on2 := c.flag (Reg.LAD_CTL_n2_en n l)
  let w10 := if on1 then c.notch1 n l s.n1 v else v
  let w1 := satS 32 w10
  let w20 := if on2 then c.notch2 n l s.n2 w1 else w1
  let w2 := satS 32 w20
  let y := clampI yLo yHi w2
  let old := s32 (c.word 0 (rcAddr n l i))
  let learn0 := sat64 (c.coef (Reg.LAD_Q_value n l) (Reg.LAD_Q_SHIFT_shift n l) old
    + c.coef (Reg.LAD_KR_value n l) (Reg.LAD_KR_SHIFT_shift n l) e)
  let learn := satS 32 learn0
  let c := if st = 0 then c else wrWord 0 (rcAddr n l i) (ofS 32 learn) c
  let c := ladSat n l (decide (e ≠ r - m)) (decide (d ≠ d0) || decide (df ≠ df0) || decide (v ≠ v0))
    (decide (ia ≠ acc)) (decide (y ≠ w2)) (decide (w1 ≠ w10) || decide (w2 ≠ w20))
    (decide (st ≠ 0) && decide (learn ≠ learn0)) c
  let c := modLoop n l (fun s => { s with
    integ := ia, df := df, ePrev := e, mPrev := m, yPrev := y, fresh := false, idle := false, fbMiss := 0,
    n1 := if on1 then (v, s.n1.1, w1, s.n1.2.2.1) else (0, 0, 0, 0),
    n2 := if on2 then (w1, s.n2.1, w2, s.n2.2.2.1) else (0, 0, 0, 0),
    outs := (s.outs.drop (s.outs.length - 2)) ++ [(apply, y)] }) c
  let c := c |> wrS (Reg.LAD_ERR_value n l) e |> wrS (Reg.LAD_INT_value n l) (satS 32 ia)
    |> wr2 (Reg.LAD_LAST_LO_beat n l) (Reg.LAD_LAST_HI_beat n l) c.now
    |> inc (Reg.LAD_SAMPLES_count n l) (Reg.LAD_SAT_cnt_sat n l) 0
    |> when (decide (y ≠ w2)) (inc (Reg.LAD_CLAMPED_count n l) (Reg.LAD_SAT_cnt_sat n l) 2)
    |> wr (Reg.LAD_STATE_miss_run n l) 0 |> wr (Reg.LAD_STATE_stale n l) 0 |> wr (Reg.LAD_STATE_state n l) 2
  supervise n l e (rcAdvance n l i c)

/-- What every missing sample does (R282, R283): nothing is computed, the output holds, the index advances
without learning, the loop is in HOLD and stale, and the miss run counts. -/
def missSample (n l i apply : Nat) (c : Chip) : Chip :=
  let c := modLoop n l (fun s => { s with
    idle := false, win := winStep s.win
    outs := (s.outs.drop (s.outs.length - 2)) ++ [(apply, s.yPrev)] }) c
  let c := inc (Reg.LAD_MISSED_count n l) (Reg.LAD_SAT_cnt_sat n l) 1 c
  let c := wr (Reg.LAD_STATE_miss_run n l) (satU 8 (c.rd (Reg.LAD_STATE_miss_run n l) + 1)) c
    |> wr (Reg.LAD_STATE_stale n l) 1 |> wr (Reg.LAD_STATE_state n l) 3
  rcAdvance n l i c

/-- The output of a loop in force at a beat (R279, R281): that of the latest sample that applies by then. -/
def Chip.loopOut (c : Chip) (n l b : Nat) : Int :=
  (c.loop n l).outs.foldl (fun r p => if p.1 ≤ b then p.2 else r) 0

/-- Every loop of a channel that is not in FAULT stops at a quench (R292): no further sample is taken. -/
def ladStop (n : Nat) (c : Chip) : Chip :=
  forEach (List.range 3) (fun l c =>
    if c.rd (Reg.LAD_STATE_state n l) = 6 then c
    else wr (Reg.LAD_STATE_state n l) 5 c |> wr (Reg.LAD_STATE_stale n l) 0) c

/-- CH_CLEAR makes every loop OFF and clears LAD_c_FAULT (R292). -/
def ladOff (n : Nat) (c : Chip) : Chip :=
  wr (Reg.LAD_FAULT_cause n) 0 (wr (Reg.LAD_FAULT_loop n) 0 c)
    |> forEach (List.range 3) (fun l c => wr (Reg.LAD_STATE_stale n l) 0 (wr (Reg.LAD_STATE_state n l) 0 c))

/-- The saturating counters that a job start clears, on every engine (R295). -/
def ladCounters (n : Nat) (c : Chip) : Chip :=
  forEach (List.range 3) (fun l c =>
    wr (Reg.LAD_SAMPLES_count n l) 0 c |> wr (Reg.LAD_MISSED_count n l) 0 |> wr (Reg.LAD_CLAMPED_count n l) 0
      |> wr (Reg.LAD_PREWARNS_count n l) 0) c

/-- The engine of a channel that a job names, at the job's start beat (R271, R287, R292): what the channel entry gives it,
its loops cleared, its stages as rc_arm says. -/
def ladJobStart (n s loops : Nat) (ctx : Option Nat) (k0 : Nat) (c : Chip) : Chip :=
  let c := c |> wr (Reg.LAD_SAMPLE_s n) s |> wr (Reg.LAD_SAMPLE_loops n) loops
    |> wr (Reg.LAD_SAMPLE_context n) (ctx.getD 0) |> wrB (Reg.LAD_SAMPLE_ctx_valid n) ctx.isSome
  let c := modLadle n (fun e => { e with meas := [], frames := [] }) c
  forEach (List.range 3) (fun l c =>
    let c := ladClear n l c
    let arm := c.flag (Reg.LAD_CTL_rc_arm n l)
    let c := modLoop n l (fun s => { s with
      win := none, fbMiss := 0, next := if l = 2 then 0 else k0, outs := [], idle := true, begun := false,
      rcUsed := arm }) c
    c |> wr (Reg.LAD_STATE_over_count n l) 0
      |> wr (Reg.LAD_STATE_miss_run n l) 0 |> wr (Reg.LAD_STATE_stale n l) 0
      |> wr (Reg.LAD_RC_IDX_i n l) 0
      |> wr (Reg.LAD_STATE_state n l) (if bit loops l ∧ c.ucode n l ≠ 0 then 1 else 0)
      |> wr (Reg.LAD_STATE_rc_state n l) (b2n arm)) c

end Sys2Proof.Machine
end

