-- ==== Sys2Proof/Machine/Windows.lean ====
section
/-! DEFINITION. The table windows (01_architecture.md, R35–R37): 32-bit accesses to field-correction grids, the tile
owner map, repetitive-control buffers, temperature tables and fixed-pattern tables, from the register fabric and
from the DMA engine (R29). -/

namespace Sys2Proof.Machine

open Sys2Proof

/-- A table window: grid of a channel, owner map, repetitive-control buffer of a channel and loop, temperature table
of a context, fixed-pattern table of a context; each with the byte offset in it. -/
inductive Win
  | grid (ch off : Nat)
  | owner (off : Nat)
  | rc (ch loop off : Nat)
  | temp (ctx off : Nat)
  | fpn (ctx off : Nat)
  deriving DecidableEq, Repr

/-- Whether an offset of a grid window is assigned (R122). -/
def gridOffset (off : Nat) : Bool := decide (off < 0x20808) || decide (off ≥ 0x3FFF0)

/-- The window that holds a byte address; no window answers to any other address from 0x0100_0000 on. -/
def winOf (a : Nat) : Option Win :=
  if 0x01000000 ≤ a ∧ a < 0x01600000 then
    let b := a - 0x01000000
    if gridOffset (b % 0x40000) then some (.grid (b / 0x40000) (b % 0x40000)) else none
  else if 0x01600000 ≤ a ∧ a < 0x01610000 then some (.owner (a - 0x01600000))
  else if 0x01700000 ≤ a ∧ a < 0x01880000 then
    let b := a - 0x01700000
    if b % 0x10000 < 0xC000 then some (.rc (b / 0x10000) (b % 0x10000 / 0x4000) (b % 0x4000)) else none
  else if 0x01900000 ≤ a ∧ a < 0x01940000 then
    let b := a - 0x01900000
    some (.temp (b / 0x2000) (b % 0x2000))
  else if 0x02000000 ≤ a ∧ a < 0x02800000 then
    let n := (a - 0x02000000) / 0x40000
    if n = 24 ∨ n = 25 then none else some (.fpn n ((a - 0x02000000) % 0x40000))
  else none

/-- The domain of a window. -/
def Win.dom : Win → Nat
  | .grid ch _ => chanDom ch
  | .rc ch _ _ => chanDom ch
  | _ => pdFABRIC

/-- Whether a commit copies a window's shadow at present (R37). -/
def Chip.winBusy (c : Chip) : Win → Bool
  | .grid ch _ => c.host.commits.any fun k => k.begun && k.kind == 0 && k.inst == ch
  | .temp n _ => c.host.commits.any fun k => k.begun && k.kind == 1 && k.inst == n
  | .fpn n _ => decide (c.now < ((c.img.ctxs.getD n Ctx.init).fpnUntil))
  | .owner _ => false
  | .rc .. => false

/-- The word a window shows: the shadow where there is one. -/
def Chip.winWord (c : Chip) (a : Nat) : Win → Nat
  | .grid ch off => (assocGet off (c.beam.grids.getD ch ⟨[], []⟩).shadow).getD 0
  | .owner off => le ((List.range 4).map fun k => BitVec.ofNat 8 (c.tileByte (off + k)))
  | .fpn _ _ => c.word 0x40000000 a
  | _ => c.word 0 a

/-- A read of a word of a table window. -/
def winRead (a : Nat) (c : Chip) : Resp × Nat :=
  match winOf a with
  | none => (.decodeErr, 0)
  | some w =>
    if !c.on w.dom then (.targetOff, 0)
    else if a % 4 ≠ 0 then (.slaveErr, 0)
    else if c.winBusy w then (.retry, 0)
    else (.ok, c.winWord a w)

/-- Change one grid. -/
def modGrid (ch : Nat) (f : Grid → Grid) (c : Chip) : Chip :=
  { c with beam := { c.beam with grids := modAt c.beam.grids ch f } }

/-- A write of a grid word (R122): the pitch and valid words have conditions of their own. -/
def gridWrite (ch off v : Nat) (c : Chip) : Resp × Chip :=
  let s := (c.beam.grids.getD ch ⟨[], []⟩).shadow
  let put (v : Nat) : Resp × Chip := (.ok, modGrid ch (fun g => { g with shadow := storePut off 0 v g.shadow }) c)
  if off = 0x3FFF8 then if 1000 ≤ v ∧ v ≤ 16777215 then put v else (.slaveErr, c)
  else if off = 0x3FFFC then
    if v % 2 = 1 ∧ (assocGet 0x3FFF8 s).getD 0 = 0 then (.slaveErr, c)
    else
      let r := put (v % 2)
      (r.1, wr (Reg.FUR_GRID_shadow_valid ch) (v % 2) r.2)
  else put v

/-- A write of a word of a table window. -/
def winWrite (a v : Nat) (c : Chip) : Resp × Chip :=
  match winOf a with
  | none => (.decodeErr, c)
  | some w =>
    if !c.on w.dom then (.targetOff, c)
    else if a % 4 ≠ 0 then (.slaveErr, c)
    else if c.winBusy w then (.retry, c)
    else match w with
      | .grid ch off => gridWrite ch off v c
      | .owner _ => (.slaveErr, c)
      | .rc ch l _ => if c.rd (Reg.LAD_STATE_rc_state ch l) = 2 then (.slaveErr, c) else (.ok, wrWord 0 a v c)
      | .temp _ _ => (.ok, wrWord 0 a v c)
      | .fpn _ _ => (.ok, wrWord 0x40000000 a v c)

end Sys2Proof.Machine
end

