-- ==== Sys2Proof/Machine/Dma.lean ====
section
/-! DEFINITION. The DMA engine (14_dma.md, R403–R419): descriptors, bursts, the buffer, retries, halts and aborts. -/

namespace Sys2Proof.Machine

open Sys2Proof

/-- Memory Sluice requesters of the read and the write engine (R25). -/
abbrev reqDmaRd : Nat := 4
/-- DMA_WR. -/
abbrev reqDmaWr : Nat := 5

/-- A DMA channel. -/
def Chip.dma (c : Chip) (n : Nat) : DmaCh := c.mem.dma.getD n DmaCh.init

/-- Change one DMA channel. -/
def modDma (n : Nat) (f : DmaCh → DmaCh) (c : Chip) : Chip :=
  { c with mem := { c.mem with dma := modAt c.mem.dma n f } }

/-- A DMA channel's state. -/
def Chip.dmaState (c : Chip) (n : Nat) : Nat := c.rd (Reg.DMA_STATUS_state n)

/-- Codes of the responses (R26). -/
def respCode : Resp → Nat
  | .ok => 0
  | .retry => 1
  | .targetOff => 2
  | .slaveErr => 3
  | .decodeErr => 4

/-! ### Transfers -/

/-- Whether a burst's transfer is issued and not answered: a read or a write that does not wait for its retry. -/
def Burst.flying (b : Burst) : Bool := (b.st == 0 || b.st == 2 || b.st == 4 || b.st == 5) && b.retryAt.isNone

/-- Whether a burst occupies a buffer block. -/
def Burst.held (b : Burst) : Bool := b.st == 0 || b.st == 1 || b.st == 2

/-- Transfers of a channel issued and unanswered (R408). -/
def DmaCh.flying (d : DmaCh) : Nat := d.bursts.countP Burst.flying + b2n (d.fetch != 0 && d.fRetryAt.isNone)

/-- Buffer blocks of a channel. -/
def DmaCh.blocks (d : DmaCh) : Nat := d.bursts.countP Burst.held

/-- Transfers issued and unanswered over every channel. -/
def Chip.dmaFlying (c : Chip) : Nat := (c.mem.dma.map DmaCh.flying).sum

/-- Buffer blocks in use. -/
def Chip.dmaBlocks (c : Chip) : Nat := (c.mem.dma.map DmaCh.blocks).sum

/-- The block's counts and busy bits. -/
def dmaShow (c : Chip) : Chip :=
  let busy (o : Nat) : Nat :=
    maskOf ((List.range 32).filter fun k => let s := c.dmaState (o + k); s == 1 || s == 2)
  wr Reg.DMA_BUSY_0_busy (busy 0) c |> wr Reg.DMA_BUSY_1_busy (busy 32)
    |> wr Reg.DMA_INFLIGHT_transfers c.dmaFlying |> wr Reg.DMA_INFLIGHT_blocks c.dmaBlocks

/-- The first queued transfer of a requester's unit at an address is taken out; whether there was one. -/
def takeXfer (req unit a : Nat) (c : Chip) : Bool × Chip :=
  let p (x : Xfer) : Bool := x.req == req && x.unit == unit && x.addr == a
  if c.mem.slm.ready.any p then
    (true, { c with mem := { c.mem with slm := { c.mem.slm with ready := dropFirst p c.mem.slm.ready } } })
  else if c.mem.ch.any fun h => h.rq.any p || h.wq.any p then
    (true, { c with mem := { c.mem with ch := c.mem.ch.map fun h =>
      { h with rq := dropFirst p h.rq, wq := dropFirst p h.wq } } })
  else (false, c)

/-- The response of a DRAM access at a signed address (R375, R406). -/
def Chip.dmaDram (c : Chip) (a : Int) (n : Nat) : Resp :=
  if a < 0 then .decodeErr else c.dramResp a.toNat n

/-- The words of a register-side burst read in order, up to the first that does not end OK (R29, R406). -/
def regReadWords (a : Nat) : Nat → Chip → Resp × List Byte
  | 0, _ => (.ok, [])
  | k + 1, c =>
    match winRead a c with
    | (.ok, v) => let r := regReadWords (a + 4) k c; (r.1, toLE 4 v ++ r.2)
    | (r, _) => (r, [])

/-- The words of a register-side burst written in order, up to the first that does not end OK. -/
def regWriteWords (a : Nat) : Nat → List Byte → Chip → Resp × Chip
  | 0, _, c => (.ok, c)
  | k + 1, l, c =>
    match winWrite a (leAt l 0 4) c with
    | (.ok, c) => regWriteWords (a + 4) k (l.drop 4) c
    | (r, c) => (r, c)

/-- A read of a burst is answered. -/
def dmaReadNow (n : Nat) (reg : Bool) (a : Int) (len : Nat) (c : Chip) : Resp × List Byte × Chip :=
  if reg then
    if a < 0 then (.decodeErr, [], c) else let r := regReadWords a.toNat (len / 4) c; (r.1, r.2, c)
  else
    let c := if a < 0 then c else (takeXfer reqDmaRd n a.toNat c).2
    let r := c.dmaDram a len
    (r, if r = .ok then c.dramRead a.toNat len else [], c)

/-- A write of a burst is answered: what the DRAM queues have not carried out yet is carried out. -/
def dmaWriteNow (n : Nat) (reg : Bool) (a : Int) (data : List Byte) (c : Chip) : Resp × Chip :=
  if reg then
    if a < 0 then (.decodeErr, c) else regWriteWords a.toNat (data.length / 4) data c
  else
    let r := c.dmaDram a data.length
    if a < 0 then (r, c)
    else
      let t := takeXfer reqDmaWr n a.toNat c
      (r, if t.1 && r == .ok then dramPut reqDmaWr n a.toNat data t.2 else t.2)

/-- A DRAM transfer goes before the Memory Sluice; a register-side access goes to the register fabric. -/
def dmaIssue (n : Nat) (write reg : Bool) (a : Int) (data : List Byte) (c : Chip) : Chip :=
  if reg ∨ a < 0 then c else sluice (if write then reqDmaWr else reqDmaRd) n write a.toNat data c

/-- Whether bytes a to a + len − 1 lie in a channel's window; a length of 0 means the whole space (R414). -/
def Chip.dmaWin (c : Chip) (n : Nat) (a : Int) (len : Nat) : Bool :=
  let base := c.rdAddr (Reg.DMA_WIN_BASE_LO_value n) (Reg.DMA_WIN_BASE_HI_value n)
  let size := c.rdAddr (Reg.DMA_WIN_LEN_LO_value n) (Reg.DMA_WIN_LEN_HI_value n)
  size == 0 || (decide ((base : Int) ≤ a) && decide (a + len ≤ base + size))

/-! ### Halts (R413–R416) -/

/-- What stays of a channel's bursts when it halts at burst `f` in copy order: those before it; of the others, the
transfers already issued, without their data. -/
def discardFrom (f : Nat) (l : List Burst) : List Burst :=
  l.take f ++ ((l.drop f).filter fun b => b.flying && b.st != 3).map fun b =>
    { b with st := if b.st = 0 ∨ b.st = 4 then 4 else 5 }

/-- The indices of the current or failing burst (R416). -/
def dmaPos (n : Nat) (p : Nat × Nat × Nat) (c : Chip) : Chip :=
  wr (Reg.DMA_POS2_i2 n) p.1 c |> wr (Reg.DMA_POS01_i1 n) p.2.1 |> wr (Reg.DMA_POS01_i0 n) p.2.2

/-- A channel halts at burst `f` (R416): cause, side, response, retries used, failing address and loop indices. -/
def dmaHalt (n f cause resp retries : Nat) (write : Bool) (a : Int) (p : Nat × Nat × Nat) (c : Chip) : Chip :=
  modDma n (fun d => { d with
      bursts := discardFrom f d.bursts, granted := true, halt := some (cause, resp, ofS 36 a)
      fetch := if d.fRetryAt.isSome then 0 else d.fetch, fRetryAt := none, entries := [] }) c
    |> wr (Reg.DMA_STATUS_cause n) cause |> wr (Reg.DMA_STATUS_response n) resp
    |> wr (Reg.DMA_STATUS_retries n) retries |> wrB (Reg.DMA_STATUS_side n) write
    |> wr2 (Reg.DMA_ERR_ADDR_LO_addr n) (Reg.DMA_ERR_ADDR_HI_addr n) (ofS 36 a) |> dmaPos n p
    |> wr (Reg.DMA_STATUS_state n) 2

/-- An access outside the window is detected and not issued (R414): burst `f`, side, address and loop indices wait for the
freeze, and from burst `f` on nothing more is issued. -/
def dmaOutside (n f : Nat) (write : Bool) (a : Int) (p : Nat × Nat × Nat) (c : Chip) : Chip :=
  modDma n (fun d => { d with outside := some (f, write, a, p) }) c

/-- A channel is frozen on the beat after it reached outside its window (R61): it halts, and the freeze is logged. -/
def dmaWindowHalt (n : Nat) (c : Chip) : Chip :=
  match (c.dma n).outside with
  | some (f, write, a, p) =>
    let c := modDma n (fun d => { d with outside := none }) c
    if (c.dma n).halt.isSome then c
    else c |> dmaHalt n f 4 0 0 write a p |> log 0x0120 n (u8 4 ++ u8 n ++ u16 0 ++ u32 (ofS 32 a))
  | none => c

/-! ### Descriptors and index tables (R404–R407) -/

/-- A descriptor's fields. -/
def DmaDesc.ofBytes (l : List Byte) : DmaDesc where
  src := leAt l 0 8
  dst := leAt l 8 8
  run := leAt l 16 4
  n0 := leAt l 20 2
  n1 := leAt l 22 2
  n2 := leAt l 24 4
  s := [s32 (leAt l 28 4), s32 (leAt l 32 4), s32 (leAt l 36 4)]
  d := [s32 (leAt l 40 4), s32 (leAt l 44 4), s32 (leAt l 48 4)]
  flags := leAt l 52 2
  idx := leAt l 56 8

/-- idx_en. -/
def DmaDesc.idxEn (d : DmaDesc) : Bool := bit d.flags 0
/-- idx_side: true for the destination. -/
def DmaDesc.idxDst (d : DmaDesc) : Bool := bit d.flags 1
/-- src_reg. -/
def DmaDesc.srcReg (d : DmaDesc) : Bool := bit d.flags 3
/-- dst_reg. -/
def DmaDesc.dstReg (d : DmaDesc) : Bool := bit d.flags 4

/-- Whether an index entry obeys R405. -/
def DmaDesc.entryOk (d : DmaDesc) (e : Int) : Bool := !(if d.idxDst then d.dstReg else d.srcReg) || e % 4 == 0

/-- Whether a descriptor obeys R404 and R405; `l`: its bytes. -/
def DmaDesc.ok (l : List Byte) (d : DmaDesc) : Bool :=
  decide (1 ≤ d.run) && decide (d.run ≤ 1048576) && d.n0 != 0 && d.n1 != 0 && d.n2 != 0 && decide (d.n2 ≤ 16777215) &&
    d.flags / 32 == 0 && leAt l 54 2 == 0 && (if d.idxEn then d.idx % 4 == 0 else d.idx == 0) &&
    (!d.srcReg || (d.src % 4 == 0 && d.run % 4 == 0 && d.s.all fun x => x % 4 == 0)) &&
    (!d.dstReg || (d.dst % 4 == 0 && d.run % 4 == 0 && d.d.all fun x => x % 4 == 0))

/-- The address of the descriptor in progress. -/
def Chip.dmaCur (c : Chip) (n : Nat) : Nat := c.rd2 (Reg.DMA_CUR_LO_addr n) (Reg.DMA_CUR_HI_addr n)

/-- A fetch is issued, or waits while 64 transfers are issued (R408), or halts the channel when its bytes lie outside the
window. -/
def dmaFetch (n kind a len : Nat) (c : Chip) : Chip :=
  let d := c.dma n
  let p := (d.pos.1, d.pos.2.1, d.pos.2.2.1)
  if c.dmaWin n a len then
    let full : Bool := decide (64 ≤ c.dmaFlying)
    modDma n (fun d => { d with fetch := kind, fRetries := 0, fAgain := 0, fRetryAt := if full then some c.now else none }) c
      |> when (!full) (dmaIssue n false false a [])
  else dmaOutside n d.bursts.length false a p c

/-- The index entries that the next fetch reads: their address and length. -/
def DmaCh.idxFetch (d : DmaCh) (x : DmaDesc) : Nat × Nat :=
  let a := x.idx + 4 * d.pos.1
  (a, min (64 - a % 64) (4 * (x.n2 - d.pos.1)))

/-- The fetch a channel has under way: address and length. -/
def Chip.dmaFetched (c : Chip) (n : Nat) : Nat × Nat :=
  let d := c.dma n
  match d.fetch, d.desc with
  | 2, some x => d.idxFetch x
  | _, _ => (c.dmaCur n, 64)

/-! ### Bursts (R406, R409) -/

/-- Source and destination of a place in copy order. -/
def DmaDesc.addrs (x : DmaDesc) (e : Int) (p : Nat × Nat × Nat × Nat) : Int × Int :=
  let (i2, i1, i0, off) := p
  let st (l : List Int) (side : Bool) : Int :=
    (if x.idxEn && x.idxDst == side then e else (i2 : Int) * l.getD 2 0) + (i1 : Int) * l.getD 1 0 +
      (i0 : Int) * l.getD 0 0 + off
  (toS 64 (ofS 64 (toS 64 x.src + st x.s false)), toS 64 (ofS 64 (toS 64 x.dst + st x.d true)))

/-- The length of the next burst: cut at the 64-byte boundaries of each DRAM side, whole words for a register side
(DEDUCED, log entry 38). -/
def DmaDesc.burstLen (x : DmaDesc) (src dst : Int) (off : Nat) : Nat :=
  let rest := x.run - off
  let cut (reg : Bool) (a : Int) : Nat := if reg then 64 else 64 - (a % 64).toNat
  let k := min rest (min (cut x.srcReg src) (cut x.dstReg dst))
  if x.srcReg ∨ x.dstReg then max 4 (k - k % 4) else k

/-- The place after a burst of `k` bytes; none at the end of the descriptor. -/
def DmaDesc.next (x : DmaDesc) (k : Nat) (p : Nat × Nat × Nat × Nat) : Option (Nat × Nat × Nat × Nat) :=
  let (i2, i1, i0, off) := p
  if off + k < x.run then some (i2, i1, i0, off + k)
  else if i0 + 1 < x.n0 then some (i2, i1, i0 + 1, 0)
  else if i1 + 1 < x.n1 then some (i2, i1 + 1, 0, 0)
  else if i2 + 1 < x.n2 then some (i2 + 1, 0, 0, 0)
  else none

/-- Whether a channel's request input is asserted, by the input levels of the FCLK cycle of the grant (R412). -/
def Chip.dmaReq (c : Chip) (gpi n : Nat) : Bool :=
  let k := c.rd (Reg.DMA_CTL_req_src n)
  k == 0 || bit gpi (k - 1)

/-- Whether the read engine may grant a channel its next burst (R408, R409, R412). -/
def Chip.dmaEligible (c : Chip) (gpi n : Nat) : Bool :=
  let d := c.dma n
  c.dmaState n == 1 && d.outside.isNone && d.desc.isSome && d.fetch == 0 && !d.granted &&
    (match d.desc with
      | some x => !x.idxEn || !d.entries.isEmpty
      | none => false) &&
    decide (d.blocks < 16 * c.rd (Reg.DMA_CTL_blocks n)) && c.dmaReq gpi n

/-- The channel that the read engine grants: the highest priority, then round-robin in rising number. -/
def Chip.dmaWinner (c : Chip) (gpi : Nat) : Option Nat :=
  if c.dmaFlying ≥ 64 ∨ c.dmaBlocks ≥ 4096 then none
  else [3, 2, 1, 0].findSome? fun p =>
    let start := c.mem.dmaPtr.getD p 0
    ((List.range 64).map fun k => (start + k) % 64).find? fun n => c.rd (Reg.DMA_CTL_prio n) == p && c.dmaEligible gpi n

/-- The next burst of a channel is granted: its read is issued. -/
def dmaGrant (n : Nat) (c : Chip) : Chip :=
  let d := c.dma n
  match d.desc with
  | none => c
  | some x =>
    let p := d.pos
    let ix := (p.1, p.2.1, p.2.2.1)
    let e := d.entries.headD 0
    let ad := x.addrs e p
    if x.idxEn ∧ x.entryOk e = false then dmaHalt n d.bursts.length 2 0 0 x.idxDst (if x.idxDst then ad.2 else ad.1) ix c
    else
      let k := x.burstLen ad.1 ad.2 p.2.2.2
      if !x.srcReg ∧ c.dmaWin n ad.1 k = false then dmaOutside n d.bursts.length false ad.1 ix c
      else
        let nx := x.next k p
        let b : Burst := ⟨p.2.2.1, p.2.1, p.1, ad.1, ad.2, k, 0, 0, 0, none, [], 0⟩
        modDma n (fun d => { d with
            bursts := d.bursts ++ [b], pos := nx.getD p, granted := nx.isNone
            entries := if x.idxEn ∧ (nx.map fun q => q.1) = some (p.1 + 1) then d.entries.drop 1 else d.entries }) c
          |> dmaPos n ix |> dmaIssue n false x.srcReg ad.1 []

/-- DMA_BURST_GRANT (R409); `gpi`: the levels of the general inputs. -/
def dmaBurst (gpi : Nat) (c : Chip) : Chip :=
  match c.dmaWinner gpi with
  | some n =>
    { c with mem := { c.mem with dmaPtr := setAt c.mem.dmaPtr (c.rd (Reg.DMA_CTL_prio n)) ((n + 1) % 64) } } |> dmaGrant n
  | none => c

/-- The burst that a channel's write engine would write next: complete, with every burst before it written or on its
way; its index. -/
def DmaCh.writable (d : DmaCh) : Option (Nat × Burst) :=
  match (d.bursts.zip (List.range d.bursts.length)).find? fun p => p.1.st == 0 || p.1.st == 1 with
  | some (b, i) => if b.st = 1 ∧ (d.outside.all fun w => decide (i < w.1)) = true then some (i, b) else none
  | none => none

/-- One burst is written, the one whose data completed first (R409); window accesses are checked (R414). -/
def dmaWriteOne (c : Chip) : Option Chip :=
  let l := (List.range 64).filterMap fun n => ((c.dma n).writable).map fun w => (n, w)
  match l with
  | [] => none
  | a :: l =>
    if c.dmaFlying ≥ 64 then none
    else
      let (n, i, b) := l.foldl (fun m x => if x.2.2.seq < m.2.2.seq then x else m) a
      let reg := match (c.dma n).desc with
        | some x => x.dstReg
        | none => false
      if !reg ∧ c.dmaWin n b.dst b.len = false then some (dmaOutside n i true b.dst (b.i2, b.i1, b.i0) c)
      else some (modDma n (fun d => { d with bursts := modAt d.bursts i fun b => { b with st := 2, retries := 0, again := 0 } }) c
        |> dmaIssue n true reg b.dst b.data)

/-- Every burst that can be written is written. -/
def dmaWrites : Nat → Chip → Chip
  | 0, c => c
  | k + 1, c =>
    match dmaWriteOne c with
    | some c => dmaWrites k c
    | none => c

/-- Bursts written in copy order are done: their bytes count (R411). -/
def dmaCount (n : Nat) (c : Chip) : Chip :=
  let d := c.dma n
  let fin := d.bursts.takeWhile fun b => b.st == 3
  let k := (fin.map fun b => b.len).sum
  modDma n (fun d => { d with bursts := d.bursts.drop fin.length
                              outside := d.outside.map fun w => (w.1 - fin.length, w.2) }) c
    |> wr2 (Reg.DMA_DONE_BYTES_LO_bytes n) (Reg.DMA_DONE_BYTES_HI_bytes n)
        (c.rd2 (Reg.DMA_DONE_BYTES_LO_bytes n) (Reg.DMA_DONE_BYTES_HI_bytes n) + k)

/-- What a channel does next by itself: it counts, completes its descriptor, chains, or fetches index entries. -/
def dmaGo (n : Nat) (c : Chip) : Chip :=
  let c := dmaCount n c
  let d := c.dma n
  if c.dmaState n ≠ 1 ∨ d.fetch ≠ 0 ∨ d.outside.isSome then c
  else match d.desc with
    | none => c
    | some x =>
      if d.granted ∧ d.bursts.isEmpty then
        let c := incWrap (Reg.DMA_DESCS_count n) c
        if bit x.flags 2 then
          let c := modDma n (fun d => { d with desc := none, granted := false, entries := [], pos := (0, 0, 0, 0) }) c
            |> wr2 (Reg.DMA_CUR_LO_addr n) (Reg.DMA_CUR_HI_addr n) (c.dmaCur n + 64)
          dmaFetch n 1 (c.dmaCur n) 64 c
        else modDma n (fun _ => DmaCh.init) c |> wr (Reg.DMA_STATUS_state n) 3
      else if x.idxEn ∧ !d.granted ∧ d.entries.isEmpty then
        let f := d.idxFetch x
        dmaFetch n 2 f.1 f.2 c
      else c

/-- The engine after any change: writes, counts, fetches, and what its registers show. -/
def dmaPump (c : Chip) : Chip := dmaShow (forEach (List.range 64) dmaGo (dmaWrites 64 c))

/-! ### Starts, aborts, ends (R403, R416–R418) -/

/-- A channel starts at DMA_n_DESC. -/
def dmaStart (n : Nat) (c : Chip) : Chip :=
  let a := c.rdAddr (Reg.DMA_DESC_LO_addr n) (Reg.DMA_DESC_HI_addr n)
  modDma n (fun _ => DmaCh.init) c |> wr (Reg.DMA_STATUS_state n) 1 |> wr (Reg.DMA_STATUS_cause n) 0
    |> wr (Reg.DMA_STATUS_response n) 0 |> wr (Reg.DMA_STATUS_retries n) 0 |> wr (Reg.DMA_STATUS_side n) 0
    |> wr2 (Reg.DMA_DONE_BYTES_LO_bytes n) (Reg.DMA_DONE_BYTES_HI_bytes n) 0 |> wr (Reg.DMA_DESCS_count n) 0
    |> wr2 (Reg.DMA_CUR_LO_addr n) (Reg.DMA_CUR_HI_addr n) a |> dmaFetch n 1 a 64 |> dmaPump

/-- An abort of a RUNNING channel. -/
def dmaAbort (n : Nat) (c : Chip) : Chip :=
  if c.dmaState n = 1 then
    modDma n (fun d => { d with granted := true, entries := []
                                fetch := if d.fRetryAt.isSome then 0 else d.fetch, fRetryAt := none }) c
      |> wr (Reg.DMA_STATUS_state n) 2 |> dmaPump
  else c

/-- A stopping channel whose transfers are all answered ends HALTED or ABORTED. -/
def dmaStopped (n : Nat) (c : Chip) : Chip :=
  let c := dmaCount n c
  let d := c.dma n
  if c.dmaState n = 2 ∧ d.fetch = 0 ∧ d.bursts.isEmpty then
    match d.halt with
    | some (cause, resp, a) =>
      modDma n (fun _ => DmaCh.init) c |> wr (Reg.DMA_STATUS_state n) 4
        |> log 0x0A10 n (u8 n ++ u8 cause ++ u8 resp ++ u8 (c.rd (Reg.DMA_STATUS_retries n)) ++ u32 a) |> dmaShow
    | none => modDma n (fun _ => DmaCh.init) c |> wr (Reg.DMA_STATUS_state n) 5 |> dmaShow
  else c

/-- A transfer that the Memory Sluice refused freezes the stream, and the channel halts with cause STREAM (R399,
R415): at the burst refused. -/
def dmaStream (n : Nat) (x : Xfer) (c : Chip) : Chip :=
  let d := c.dma n
  if c.dmaState n ≠ 1 ∧ c.dmaState n ≠ 2 then c
  else
    let mine (b : Burst) : Bool :=
      (!x.write && b.st == 0 && b.src == (x.addr : Int)) || (x.write && b.st == 2 && b.dst == (x.addr : Int))
    match (d.bursts.zip (List.range d.bursts.length)).find? fun p => mine p.1 with
    | some (b, i) =>
      (d.bursts.drop i).foldl (fun c b =>
          if b.st = 0 then (takeXfer reqDmaRd n b.src.toNat c).2 else (takeXfer reqDmaWr n b.dst.toNat c).2)
        (modDma n (fun d => { d with bursts := d.bursts.take i }) c)
        |> dmaHalt n i 5 0 b.retries x.write x.addr (b.i2, b.i1, b.i0) |> dmaPump
    | none =>
      modDma n (fun d => { d with fetch := 0 }) (takeXfer reqDmaRd n x.addr c).2
        |> dmaHalt n d.bursts.length 5 0 0 x.write x.addr (d.pos.1, d.pos.2.1, d.pos.2.2.1) |> dmaPump

/-- PD_FABRIC is quiesced: every channel ends as an abort does (R418). -/
def dmaQuiesce (c : Chip) : Chip := forEach (List.range 64) dmaAbort c

/-- Whether every channel has ended. -/
def Chip.dmaIdle (c : Chip) : Bool := (List.range 64).all fun n => c.dmaState n != 1 && c.dmaState n != 2

/-- Every channel stops without completing (R418). -/
def dmaOff (c : Chip) : Chip :=
  let keep (x : Xfer) : Bool := x.req != reqDmaRd && x.req != reqDmaWr
  { c with mem := { c.mem with
      dma := List.replicate 64 DmaCh.init, dmaPtr := [0, 0, 0, 0]
      slm := { c.mem.slm with ready := c.mem.slm.ready.filter keep }
      ch := c.mem.ch.map fun h => { h with rq := h.rq.filter keep, wq := h.wq.filter keep } } }

/-! ### Answers (R413) -/

/-- What an answer does: goes on (OK), is repeated at once (RETRY below 64), retried after 16 beats, or is final. -/
inductive Verdict
  | good
  | again
  | later
  | final
  deriving DecidableEq, Repr

/-- The verdict on a response, with the RETRY responses in a row and the retries used so far. -/
def verdict (r : Resp) (again retries limit : Nat) : Verdict :=
  match r with
  | .ok => .good
  | .retry => if again + 1 < 64 then .again else if retries < limit then .later else .final
  | _ => if retries < limit then .later else .final

/-- A fetch is answered. -/
def dmaFetchDone (n : Nat) (retry : Bool) (c : Chip) : Chip :=
  let d := c.dma n
  let f := c.dmaFetched n
  let c := (takeXfer reqDmaRd n f.1 c).2
  let r := if retry then Resp.retry else c.dmaDram f.1 f.2
  let p := (d.pos.1, d.pos.2.1, d.pos.2.2.1)
  if c.dmaState n ≠ 1 then modDma n (fun d => { d with fetch := 0 }) c
  else match verdict r d.fAgain d.fRetries (c.rd (Reg.DMA_CTL_retry n)) with
    | .again => modDma n (fun d => { d with fAgain := d.fAgain + 1 }) c |> dmaIssue n false false f.1 []
    | .later => modDma n (fun d => { d with fAgain := 0, fRetries := d.fRetries + 1, fRetryAt := some (c.now + 16) }) c
    | .final =>
      modDma n (fun d => { d with fetch := 0 }) c
        |> dmaHalt n d.bursts.length 3 (respCode r) d.fRetries false f.1 p
    | .good =>
      let l := c.dramRead f.1 f.2
      if d.fetch = 2 then
        modDma n (fun d => { d with fetch := 0
                                    entries := (List.range (f.2 / 4)).map fun k => s32 (leAt l (4 * k) 4) }) c
      else
        let x := DmaDesc.ofBytes l
        if x.ok l then modDma n (fun d => { d with fetch := 0, desc := some x, pos := (0, 0, 0, 0), granted := false }) c
        else modDma n (fun d => { d with fetch := 0 }) c |> dmaHalt n d.bursts.length 1 0 0 false f.1 (0, 0, 0)

/-- Change burst i of a channel. -/
def modBurst (n i : Nat) (f : Burst → Burst) (c : Chip) : Chip :=
  modDma n (fun d => { d with bursts := modAt d.bursts i f }) c

/-- A data access is answered: `i`, the burst's place in copy order among those in flight. -/
def dmaDataDone (n i : Nat) (b : Burst) (retry : Bool) (c : Chip) : Chip :=
  let reg (write : Bool) : Bool := match (c.dma n).desc with
    | some x => if write then x.dstReg else x.srcReg
    | none => false
  let limit := c.rd (Reg.DMA_CTL_retry n)
  let p := (b.i2, b.i1, b.i0)
  if b.st ≥ 4 then
    let c := if b.st = 4 then (if b.src < 0 then c else (takeXfer reqDmaRd n b.src.toNat c).2)
      else (dmaWriteNow n (reg true) b.dst b.data c).2
    modDma n (fun d => { d with bursts := d.bursts.eraseIdx i }) c
  else
    let write := decide (b.st = 2)
    let (r, l, c) : Resp × List Byte × Chip :=
      if retry then
        let a := if write then b.dst else b.src
        (.retry, [], if a < 0 then c else (takeXfer (if write then reqDmaWr else reqDmaRd) n a.toNat c).2)
      else if write then let w := dmaWriteNow n (reg true) b.dst b.data c; (w.1, [], w.2)
      else dmaReadNow n (reg false) b.src b.len c
    match verdict r b.again b.retries limit with
    | .good =>
      if write then modBurst n i (fun b => { b with st := 3 }) c
      else modBurst n i (fun b => { b with st := 1, data := l, seq := c.mem.dmaSeq })
        { c with mem := { c.mem with dmaSeq := c.mem.dmaSeq + 1 } }
    | .again =>
      modBurst n i (fun b => { b with again := b.again + 1 }) c
        |> dmaIssue n write (reg write) (if write then b.dst else b.src) b.data
    | .later =>
      modBurst n i (fun b => { b with again := 0, retries := b.retries + 1, retryAt := some (c.now + 16) }) c
    | .final =>
      modBurst n i (fun b => { b with retryAt := some c.now }) c
        |> dmaHalt n i 3 (respCode r) b.retries write (if write then b.dst else b.src) p

/-- DMA_RESPONSE (R413): access `k` of those a channel has issued is answered, the fetch first, then bursts in copy
order; `retry`: with RETRY. -/
def dmaResponse (n k : Nat) (retry : Bool) (c : Chip) : Chip :=
  let d := c.dma n
  let fetching := d.fetch != 0 && d.fRetryAt.isNone
  if fetching && k == 0 then dmaPump (dmaFetchDone n retry c)
  else
    let l := (d.bursts.zip (List.range d.bursts.length)).filter fun p => p.1.flying
    match l[k - b2n fetching]? with
    | some (b, i) => dmaPump (dmaDataDone n i b retry c)
    | none => c

/-- DMA_RETRY_TIMER (R413): the accesses of a channel whose 16 beats have passed are reissued, as 64 transfers allow
(R408). -/
def dmaRetry (n : Nat) (c : Chip) : Chip :=
  let due (t : Option Nat) (c : Chip) : Bool := (t.any fun b => decide (b ≤ c.now)) && decide (c.dmaFlying < 64)
  let d := c.dma n
  let c := if d.fetch ≠ 0 ∧ due d.fRetryAt c then
      modDma n (fun d => { d with fRetryAt := none }) c |> dmaIssue n false false (c.dmaFetched n).1 []
    else c
  let reg (write : Bool) : Bool := match d.desc with
    | some x => if write then x.dstReg else x.srcReg
    | none => false
  let c := forEach (List.range d.bursts.length) (fun i c =>
    match (c.dma n).bursts[i]? with
    | some b =>
      if due b.retryAt c then
        modBurst n i (fun b => { b with retryAt := none }) c
          |> dmaIssue n (decide (b.st = 2)) (reg (decide (b.st = 2))) (if b.st = 2 then b.dst else b.src) b.data
      else c
    | none => c) c
  dmaShow c

/-! ### Events -/

/-- The engine works only while PD_FABRIC is on or being quiesced. -/
def fabDo (f : Chip → Chip) (c : Chip) : Chip := when (c.shown pdFABRIC) f c

/-- DMA_BURST_GRANT (R409, R412). -/
def execDmaBurstGrant (s : State) (gpi : BitVec 16 := 0) : Host.Outcome State Fault Refusal :=
  runs (fabDo fun c => dmaPump (dmaBurst gpi.toNat c)) s

/-- DMA_RESPONSE (R413). -/
def execDmaResponse (n : Fin 64) (k : BitVec 12) (retry : Bool) (s : State) : Host.Outcome State Fault Refusal :=
  runs (fabDo (dmaResponse n.val k.toNat retry)) s

/-- DMA_RETRY_TIMER (R413). -/
def execDmaRetryTimer (n : Fin 64) (s : State) : Host.Outcome State Fault Refusal := runs (fabDo (dmaRetry n.val)) s

/-- DMA_STOP_COMPLETE (R416, R417). -/
def execDmaStopComplete (n : Fin 64) (s : State) : Host.Outcome State Fault Refusal := runs (fabDo (dmaStopped n.val)) s

end Sys2Proof.Machine
end

