-- ==== Sys2Proof/Machine/Pixels.lean ====
section
/-! DEFINITION. What a Sieve computes on the pixels of one frame (07_sieve_pipeline.md, R225–R242): unpacking, correction,
noise reduction, interpolation, temperature, statistics. Images are lists of values in raster order. -/

namespace Sys2Proof.Machine

open Sys2Proof

/-- The parameters of a run: the RWI fields of the context and its active P registers (R229, R252). -/
structure PixCfg where
  w : Nat
  h : Nat
  depth : Nat
  bayer : Bool
  cfa : Nat
  phase : Nat
  fpnEn : Bool
  bgainEn : Bool
  snrEn : Bool
  tnrEn : Bool
  interpEn : Bool
  tempEn : Bool
  statAfterNoise : Bool
  black : Nat
  gains : List Nat
  snrT : Nat
  snrW : Nat
  tnrM : Nat
  tnrK : Nat
  edge : Nat
  floor : Nat
  deriving DecidableEq, Repr

/-! ### Unpacking (R197, R225, R227) -/

/-- The pixel words of a frame (R225). -/
def pixelWords (w h depth : Nat) : Nat := ceilDiv (w * h * depth) 32

/-- The bits of words, bit 31 first. -/
def wordBits (l : List Nat) : List Bool := l.flatMap fun x => (List.range 32).map fun k => bit x (31 - k)

/-- The number whose bits are given, most significant first. -/
def ofBits (l : List Bool) : Nat := l.foldl (fun a b => 2 * a + b2n b) 0

/-- Pixels of `depth` bits from a bit string; a pixel not wholly there takes the value `pad`. -/
def unpackGo (depth pad : Nat) : Nat → List Bool → List Nat
  | 0, _ => []
  | n + 1, l => (if l.length < depth then pad else ofBits (l.take depth)) :: unpackGo depth pad n (l.drop depth)

/-- The raw pixels of a frame from its accepted words. -/
def unpack (c : PixCfg) (words : List Nat) : List Nat := unpackGo c.depth c.black (c.w * c.h) (wordBits words)

/-! ### Bands (R231) -/

/-- The bands of a context. -/
def PixCfg.bands (c : PixCfg) : Nat := if c.bayer then 3 else 2

/-- The band of a pixel. -/
def PixCfg.band (c : PixCfg) (x y : Nat) : Nat :=
  if c.bayer then
    let a := decide (x % 2 = c.cfa % 2)
    let b := decide (y % 2 = c.cfa / 2)
    if a && b then 0 else if !a && !b then 2 else 1
  else (x + y + c.phase) % 2

/-- A new image from a function of column, row and index. -/
def PixCfg.image (c : PixCfg) (f : Nat → Nat → Nat → Nat) : List Nat :=
  (List.range (c.w * c.h)).map fun i => f (i % c.w) (i / c.w) i

/-! ### Correction (R231) -/

/-- One corrected pixel: raw value, its fixed-pattern word, its band. -/
def PixCfg.correct (c : PixCfg) (p entry k : Nat) : Nat :=
  let q : Int := (p : Int) - c.black - (if c.fpnEn then s16 (entry % 65536) else 0)
  let q := q.toNat
  let q := if c.fpnEn then (q * (entry / 65536) + 8192) / 2 ^ 14 else q
  let q := if c.bgainEn then (q * c.gains.getD k 0x4000 + 8192) / 2 ^ 14 else q
  min 65535 (q * 2 ^ (16 - c.depth))

/-- The corrected image; `fpn` gives the table word of a pixel. -/
def PixCfg.corrected (c : PixCfg) (fpn : Nat → Nat → Nat) (raw : List Nat) : List Nat :=
  c.image fun x y i => c.correct (raw.getD i 0) (fpn x y) (c.band x y)

/-! ### Noise reduction (R233, R234) -/

/-- The weight of a neighbour at squared distance d. -/
def PixCfg.weight (c : PixCfg) (d : Nat) : Nat :=
  let k := match d with
    | 0 => 0
    | 1 => 1
    | 2 => 2
    | 4 => 3
    | 5 => 4
    | _ => 5
  bits c.snrW (4 * k + 3) (4 * k)

/-- Offsets −2 to 2. -/
def nearby : List Int := [-2, -1, 0, 1, 2]

/-- Whether the neighbour at (dx, dy) of a pixel of band k takes part. -/
def PixCfg.sameBand (c : PixCfg) (k : Nat) (dx dy : Int) : Bool :=
  if c.bayer && k != 1 then decide (dx % 2 = 0) && decide (dy % 2 = 0) else decide ((dx + dy) % 2 = 0)

/-- Spatial noise reduction of one pixel. -/
def PixCfg.snr (c : PixCfg) (im : List Nat) (x y i : Nat) : Nat :=
  let p := im.getD i 0
  let k := c.band x y
  let terms := nearby.flatMap fun dy => nearby.filterMap fun dx =>
    let u := (x : Int) + dx
    let v := (y : Int) + dy
    if u < 0 ∨ v < 0 ∨ u ≥ c.w ∨ v ≥ c.h ∨ !c.sameBand k dx dy then none
    else
      let q := im.getD (v.toNat * c.w + u.toNat) 0
      let d := ((q : Int) - p).natAbs
      let r := if d ≤ c.snrT then 2 else if d ≤ 2 * c.snrT then 1 else 0
      some (c.weight (dx * dx + dy * dy).toNat * r, q)
  let den := terms.foldl (fun a t => a + t.1) 0
  let num := terms.foldl (fun a t => a + t.1 * t.2) 0
  if den = 0 then p else (2 * num + den) / (2 * den)

/-- Temporal noise reduction of one pixel with its history value. -/
def PixCfg.tnr (c : PixCfg) (x h : Nat) : Nat :=
  let d : Int := (x : Int) - h
  let k : Int := if d.natAbs > c.tnrM then 256 else c.tnrK
  ((h : Int) + (k * d + 128) / 256).toNat

/-- The image after noise reduction; `hist` is none when the history restarts. -/
def PixCfg.denoised (c : PixCfg) (hist : Option (List Nat)) (im : List Nat) : List Nat :=
  let s := if c.snrEn then c.image (c.snr im) else im
  if c.tnrEn then
    match hist with
    | some h => List.zipWith c.tnr s h
    | none => s
  else s

/-! ### Interpolation and temperature (R235, R236) -/

/-- A coordinate mirrored about the edge pixel. -/
def mirror (n : Nat) (u : Int) : Nat := if u < 0 then (-u).toNat else if u ≥ n then (2 * ((n : Int) - 1) - u).toNat else u.toNat

/-- The rule over two opposite pairs. -/
def PixCfg.fourRule (c : PixCfg) (l r u d : Nat) : Nat :=
  let gh := ((l : Int) - r).natAbs
  let gv := ((u : Int) - d).natAbs
  if gh + c.edge < gv then (l + r + 1) / 2 else if gv + c.edge < gh then (u + d + 1) / 2 else (l + r + u + d + 2) / 4

/-- The band values of one pixel, in band order. -/
def PixCfg.interp (c : PixCfg) (im : List Nat) (x y i : Nat) : List Nat :=
  let at' (dx dy : Int) : Nat := im.getD (mirror c.h ((y : Int) + dy) * c.w + mirror c.w ((x : Int) + dx)) 0
  let own := im.getD i 0
  let cross := c.fourRule (at' (-1) 0) (at' 1 0) (at' 0 (-1)) (at' 0 1)
  let k := c.band x y
  if !c.bayer then (if k = 0 then [own, cross] else [cross, own])
  else
    let diag := c.fourRule (at' (-1) (-1)) (at' 1 1) (at' 1 (-1)) (at' (-1) 1)
    let row := (at' (-1) 0 + at' 1 0 + 1) / 2
    let col := (at' 0 (-1) + at' 0 1 + 1) / 2
    if k = 0 then [own, cross, diag]
    else if k = 2 then [diag, cross, own]
    else if y % 2 = c.cfa / 2 then [row, own, col] else [col, own, row]

/-- The interpolated image; without interpolation the missing bands are free values of the run's draw. -/
def PixCfg.interpolated (c : PixCfg) (draw : Nat) (im : List Nat) : List (List Nat) :=
  (List.range (c.w * c.h)).map fun i =>
    let x := i % c.w
    let y := i / c.w
    if c.interpEn then c.interp im x y i
    else (List.range c.bands).map fun b =>
      if b = c.band x y then im.getD i 0 else (Config.stageUndef draw (i * 4 + b)).toNat

/-- The temperature of two band values; `tab` gives the entries of the table. -/
def PixCfg.temp (c : PixCfg) (tab : Nat → Nat) (a b : Nat) : Nat :=
  let s := a + b
  if s < c.floor ∨ s = 0 then 0
  else
    let q := min (2 ^ 20 - 1) (a * 2 ^ 20 / s)
    let i := q / 256
    let f : Nat := q % 256
    let t0 := tab i
    let t1 := tab (min (i + 1) 4095)
    if t0 = 0 ∨ t1 = 0 then 0 else ((t0 : Int) + (((t1 : Int) - t0) * (f : Int) + 128) / 256).toNat

/-- The temperature image. -/
def PixCfg.temps (c : PixCfg) (draw : Nat) (tab : Nat → Nat) (im : List (List Nat)) : List Nat :=
  (List.range (c.w * c.h)).map fun i =>
    if c.tempEn then c.temp tab ((im.getD i []).getD 0 0) ((im.getD i []).getD 1 0)
    else (Config.stageUndef draw (i * 4 + 3)).toNat

/-! ### Statistics (R238) -/

/-- The histogram of a band: 256 bins. -/
def PixCfg.histogram (c : PixCfg) (im : List Nat) (k : Nat) : List Nat :=
  let l := (List.range (c.w * c.h)).filterMap fun i =>
    if c.band (i % c.w) (i / c.w) = k then some (im.getD i 0 / 256) else none
  (List.range 256).map fun b => (l.filter fun p => p == b).length

/-- The 64 zone averages of a band, rounded to nearest. -/
def PixCfg.zones (c : PixCfg) (im : List Nat) (k : Nat) : List Nat :=
  let l := (List.range (c.w * c.h)).filterMap fun i =>
    let x := i % c.w
    let y := i / c.w
    if c.band x y = k then some (8 * y / c.h * 8 + 8 * x / c.w, im.getD i 0) else none
  (List.range 64).map fun z =>
    let m := l.filter fun p => p.1 == z
    if m.isEmpty then 0 else (2 * m.foldl (fun a p => a + p.2) 0 + m.length) / (2 * m.length)

/-- Histogram and zone averages of every band. -/
def PixCfg.stats (c : PixCfg) (im : List Nat) : List (List Nat × List Nat) :=
  (List.range c.bands).map fun k => (c.histogram im k, c.zones im k)

/-! ### Tap payloads (R242) -/

/-- Values as little-endian u16. -/
def u16s (l : List Nat) : List Byte := l.flatMap fun v => toLE 2 v

/-- The payload of the STATS point. -/
def statsBytes (l : List (List Nat × List Nat)) : List Byte :=
  (l.flatMap fun s => s.1.flatMap fun v => toLE 4 v) ++ l.flatMap fun s => u16s s.2

/-! ### Test sources (R249) -/

/-- The pixel of frame j of an internal pattern: 0 ramp, 1 checkerboard, 2 constant. -/
def testPixel (source constant depth j x y : Nat) : Nat :=
  match source with
  | 0 => (x + y + j) % 2 ^ depth
  | 1 => if (x + y) % 2 = 0 then 0 else 2 ^ depth - 1
  | _ => constant % 2 ^ depth

end Sys2Proof.Machine
end

