-- ==== Sys2Proof/Machine/Features.lean ====
section
/-! DEFINITION. Melt-pool features (08_melt_pool_features.md, R253–R267): components, the main pool, features, validity,
the measurement, delivery to FX and to the Ladle engines, feature records. -/

namespace Sys2Proof.Machine

open Sys2Proof

/-! ### Components (R254, R255) -/

/-- A component: its pixels as (column, row), latest first. -/
abbrev Pool := List (Nat × Nat)

/-- Whether two pixels are neighbours under 8-connectivity. -/
def touches (p q : Nat × Nat) : Bool :=
  decide (((p.1 : Int) - q.1).natAbs ≤ 1) && decide (((p.2 : Int) - q.2).natAbs ≤ 1)

/-- A hot pixel joins the components it touches; those become one, at the place of the first of them. -/
def joinPixel (p : Nat × Nat) (l : List Pool) : List Pool :=
  let near (c : Pool) : Bool := c.any (touches p)
  match l.find? near with
  | none => l ++ [[p]]
  | some _ =>
    let all := p :: (l.filter near).flatten
    let head := l.takeWhile fun c => !near c
    let rest := (l.drop head.length).filter fun c => !near c
    head ++ all :: rest

/-- The components of an image, in raster order of their first pixels. -/
def components (w t0 : Nat) (im : List Nat) : List Pool :=
  (List.range im.length).foldl (fun l i => if im.getD i 0 ≥ t0 then joinPixel (i % w, i / w) l else l) []

/-- The component with the most pixels; the earliest on a tie. -/
def mainPool (l : List Pool) : Pool :=
  l.foldl (fun m c => if c.length > m.length then c else m) []

/-- Bounding box: least and largest column, least and largest row. -/
def bbox (c : Pool) : Nat × Nat × Nat × Nat :=
  c.foldl (fun b p => (min b.1 p.1, max b.2.1 p.1, min b.2.2.1 p.2, max b.2.2.2 p.2)) (65535, 0, 65535, 0)

/-- Pixel columns (or rows) strictly between two ranges. -/
def gapBetween (a0 a1 b0 b1 : Nat) : Nat := if a1 < b0 then b0 - a1 - 1 else if b1 < a0 then a0 - b1 - 1 else 0

/-- The Chebyshev distance of two boxes. -/
def boxGap (a b : Nat × Nat × Nat × Nat) : Nat :=
  max (gapBetween a.1 a.2.1 b.1 b.2.1) (gapBetween a.2.2.1 a.2.2.2 b.2.2.1 b.2.2.2)

/-! ### Shape (R257) -/

/-- atan(2^−i) in units of π / 2^40. -/
def atanTable : List Int :=
  [274877906944, 162269903676, 85738960574, 43522435132, 21845673501, 10933486258, 5468077240, 2734205476,
   1367123598, 683564406, 341782529, 170891305, 85445658, 42722830, 21361415, 10680707, 5340354, 2670177, 1335088,
   667544, 333772, 166886, 83443, 41722, 20861, 10430, 5215, 2608, 1304, 652, 326, 163, 81, 41, 20, 10, 5, 3, 1, 1]

/-- The angle of (x, y), x not negative, in units of π / 2^40, by rotations that bring y to 0. -/
def cordic : Nat → List Int → Int → Int → Int → Int
  | _, [], _, _, z => z
  | i, t :: l, x, y, z =>
    if y ≥ 0 then cordic (i + 1) l (x + y / (2 ^ i : Nat)) (y - x / (2 ^ i : Nat)) (z + t)
    else cordic (i + 1) l (x - y / (2 ^ i : Nat)) (y + x / (2 ^ i : Nat)) (z - t)

/-- atan2 in units of π / 2^40. -/
def atan2 (y x : Int) : Int :=
  let k : Int := (2 ^ 48 : Nat)
  if y = 0 ∧ x ≥ 0 then 0
  else if y = 0 then (2 ^ 40 : Nat)
  else if x ≥ 0 then cordic 0 atanTable (x * k) (y * k) 0
  else
    let a := cordic 0 atanTable (-x * k) (y * k) 0
    (if y > 0 then ((2 ^ 40 : Nat) : Int) else -((2 ^ 40 : Nat) : Int)) - a

/-- A result within 1 LSB of the rounded value; what the extractor's rounding adds is a free value (DESIGN CHOICE, log entry 5). -/
def near1 (draw : Nat) (v : Int) : Int := v + ((Config.featRound draw % 3 : Nat) : Int) - 1

/-- 256 √λ rounded, for λ = num / (2 n²) with num carrying 16 fraction bits. -/
def axisLen (num : Int) (n : Nat) : Nat :=
  let x32 := (num.toNat * 2 ^ 32) / (2 * n * n)
  (isqrt x32 + 2 ^ 15) / 2 ^ 16

/-- Twice the orientation, halved, in units of π / 32768: from −16384 to 16383. -/
def orient (draw : Nat) (c2 d : Int) : Int :=
  let u := divRoundAway (atan2 c2 d) (2 ^ 26)
  toS 15 (ofS 15 (near1 draw u))

/-! ### The features of a frame (R256, R258, R259) -/

/-- The thresholds in force: t0, t1, t2, sp_min, sp_max, sp_gap. -/
structure FxPar where
  t0 : Nat
  t1 : Nat
  t2 : Nat
  spMin : Nat
  spMax : Nat
  spGap : Nat
  deriving DecidableEq, Repr

/-- The features of an image; `valid` is the frame's validity (R227), `temp` whether it is a temperature
(DEDUCED, log entry 28). -/
def features (p : FxPar) (w h draw : Nat) (valid temp : Bool) (im : List Nat) : Feat :=
  let comps := components w p.t0 im
  let many := decide (comps.length > 255)
  let m := mainPool (comps.take 255)
  let n := m.length
  let v (q : Nat × Nat) : Nat := im.getD (q.2 * w + q.1) 0
  let box := bbox m
  let spat := (comps.filter fun c => c != m && decide (p.spMin ≤ c.length) && decide (c.length ≤ p.spMax) &&
    decide (boxGap (bbox c) box ≥ p.spGap)).length
  let edge := m.any fun q => decide (q.1 = 0) || decide (q.2 = 0) || decide (q.1 + 1 = w) || decide (q.2 + 1 = h)
  let sum (f : Nat × Nat → Nat) : Nat := m.foldl (fun a q => a + f q) 0
  let sx : Int := sum fun q => q.1
  let sy : Int := sum fun q => q.2
  let a : Int := (n : Int) * sum (fun q => q.1 * q.1) - sx * sx
  let b : Int := (n : Int) * sum (fun q => q.2 * q.2) - sy * sy
  let c : Int := (n : Int) * sum (fun q => q.1 * q.2) - sx * sy
  let root : Int := isqrt ((((a - b) * (a - b) + 4 * c * c) * (2 ^ 32 : Nat)).toNat)
  let ok := !many && decide (n ≥ 1)
  let ok2 := !many && decide (n ≥ 2)
  let sh (x : Nat) : Nat := if ok2 then x else 0
  let valBits := b2n valid + 2 * b2n (n == 0) + 4 * b2n (n == 1) + 8 * b2n many +
    16 * b2n edge + 64 * b2n (!temp)
  { peak := if ok then m.foldl (fun x q => max x (v q)) 0 else 0
    mean := if ok then (2 * sum v + n) / (2 * n) else 0
    area0 := if many then 0 else n
    area1 := if many then 0 else (m.filter fun q => decide (v q ≥ p.t1)).length
    area2 := if many then 0 else (m.filter fun q => decide (v q ≥ p.t2)).length
    cx := if ok then ofS 16 (near1 draw (divRoundAway (256 * (2 * sx - n * ((w : Int) - 1))) (2 * n))) else 0
    cy := if ok then ofS 16 (near1 (draw + 1) (divRoundAway (256 * (2 * sy - n * ((h : Int) - 1))) (2 * n))) else 0
    length := sh (satU 16 (near1 (draw + 2) (axisLen ((a + b) * 65536 + root) n)).toNat)
    width := sh (satU 16 (near1 (draw + 3) (axisLen ((a + b) * 65536 - root) n)).toNat)
    orient := sh (ofS 16 (orient (draw + 4) (2 * c) (a - b)))
    spatter := if many then 0 else min 255 spat
    blobs := min 255 comps.length
    validity := valBits }

/-- The features of a MISSING frame. -/
def Feat.zero : Feat := ⟨0, 0, 0, 0, 0, 0, 0, 0, 0, 0, 0, 0, 0⟩

/-! ### The measurement (R263, R264) -/

/-- The value of a selected feature (R263). -/
def Feat.select (f : Feat) (code : Nat) : Nat :=
  match code with
  | 1 => f.peak
  | 2 => f.mean
  | 3 => min f.area0 65535
  | 4 => min f.area1 65535
  | 5 => min f.area2 65535
  | 6 => f.length
  | 7 => f.width
  | 8 => f.spatter
  | _ => 0

/-- Whether a selected feature is defined (R259). A reserved code names none (R265). -/
def Feat.defined (f : Feat) (code : Nat) : Bool :=
  let noPool := bit f.validity 1
  let small := bit f.validity 2
  let many := bit f.validity 3
  match code with
  | 1 | 2 => !noPool && !many
  | 6 | 7 => !noPool && !small && !many
  | 3 | 4 | 5 | 8 => !many
  | _ => true

/-- The measurement m of a context (R263). -/
def Chip.fxMeas (c : Chip) (n : Nat) (f : Feat) : Nat :=
  let s := c.rdS (Reg.FX_WEIGHT_w_a n) * f.select (c.rd (Reg.FX_SEL_feat_a n)) +
    c.rdS (Reg.FX_WEIGHT_w_b n) * f.select (c.rd (Reg.FX_SEL_feat_b n))
  (clampI 0 65535 ((s + 8192) / 2 ^ 14)).toNat

/-- Whether a measurement is usable (R264). -/
def Chip.fxUsable (c : Chip) (n : Nat) (f : Feat) : Bool :=
  bit f.validity 0 && !bit f.validity 6 && f.defined (c.rd (Reg.FX_SEL_feat_a n)) &&
    f.defined (c.rd (Reg.FX_SEL_feat_b n))

/-! ### Delivery (R260, R261, R266, R267) -/

/-- A camera context. -/
def Chip.ctx (c : Chip) (n : Nat) : Ctx := c.img.ctxs.getD n Ctx.init

/-- Change one context. -/
def modCtx (n : Nat) (f : Ctx → Ctx) (c : Chip) : Chip :=
  { c with img := { c.img with ctxs := modAt c.img.ctxs n f } }

/-- Memory Sluice requester TAP. -/
abbrev reqTap : Nat := 3

/-- The base of a context's tap window. -/
def Chip.tapBase (c : Chip) (n : Nat) : Nat :=
  let v := (c.ctx n).sieve
  c.rdAddr (Reg.SVX_TAP_BASE_LO_value v n) (Reg.SVX_TAP_BASE_HI_value v n)

/-- A feature record (R267). -/
def featRecord (n : Nat) (d : Delivery) (validity meas : Nat) (usable : Bool) : List Byte :=
  let f := d.feat
  let body := u32 d.f.seq ++ u8 n ++ u8 (if bit d.f.flags 2 then 0 else d.f.sid) ++ u16 d.f.flags ++ toLE 8 d.f.close ++
    u16 validity ++ u16 f.peak ++ u16 f.mean ++ u8 f.spatter ++ u8 f.blobs ++ u32 f.area0 ++ u32 f.area1 ++ u32 f.area2 ++
    u16 f.cx ++ u16 f.cy ++ u16 f.length ++ u16 f.width ++ u16 f.orient ++ u16 meas ++ toLE 8 d.beat ++ u16 d.pgen ++
    u8 (b2n usable) ++ u8 0
  body ++ u32 (crc32c body)

/-- A feature record written, when the ring is enabled, lies in the tap window, and the decimation takes the frame
(R266). -/
def fxRecord (n : Nat) (d : Delivery) (validity meas : Nat) (usable : Bool) (c : Chip) : Chip :=
  let len := c.rd (Reg.FX_REC_LEN_bytes n) * 64
  if !c.flag (Reg.FX_REC_CTL_enable n) || c.flag (Reg.SVX_STATUS_tap_stopped (c.ctx n).sieve n) || decide (len = 0) then c
  else
    let k := (c.ctx n).recDec
    let dd := c.rd (Reg.FX_REC_CTL_d n)
    let c := modCtx n (fun x => { x with recDec := if k + 1 ≥ dd then 0 else k + 1 }) c
    let off := c.rd (Reg.FX_REC_OFF_bytes n) * 64
    if k ≠ 0 ∨ off + len > c.rd (Reg.SVX_TAP_WIN_value (c.ctx n).sieve n) then c
    else
      let p0 := c.rd (Reg.FX_REC_WPTR_value n)
      let p := if p0 ≥ len then 0 else p0
      let a := c.tapBase n + off + p
      sluiceWrite reqTap n a (featRecord n d validity meas usable) c
        |> wr (Reg.FX_REC_WPTR_value n) ((p + 64) % len) |> incWrap (Reg.FX_REC_COUNT_value n)

/-- The feature deadline of frame j of a context of the RUNNING job (R55), if it has one. -/
def Chip.featDeadline (c : Chip) (n j : Nat) : Option Nat :=
  c.running.bind fun r =>
    (r.ctxs.find? fun e => e.ctx == n).map fun e =>
      r.start.getD 0 + e.phase + j * e.f + (assocGet n r.deadlines).getD 0

/-- The feature deadline of a frame: one of an earlier run of its context has none (R260). -/
def Chip.frameDeadline (c : Chip) (f : Closed) : Option Nat :=
  if (c.ctx f.ctx).f0 = f.f0 then c.featDeadline f.ctx f.j else none

/-- Features delivered: the FX registers, the measurement for every power loop bound to the context, of
whose present run the frame is (R261), the record. -/
def fxDeliver (n : Nat) (d : Delivery) (c : Chip) : Chip :=
  let f := d.feat
  let late := (c.frameDeadline d.f).any fun dl => decide (c.now > dl)
  let validity := f.validity ||| (if late then 32 else 0)
  let m := c.fxMeas n f
  let us := c.fxUsable n f
  let d : Delivery := { d with beat := c.now }
  let c := wr (Reg.FX_SEQ_seq n) d.f.seq c |> wr (Reg.FX_VALID_flags n) d.f.flags |> wr (Reg.FX_VALID_validity n) validity
    |> wr (Reg.FX_TEMP_mean n) f.mean |> wr (Reg.FX_TEMP_peak n) f.peak
    |> wr (Reg.FX_AREA0_pixels n) f.area0 |> wr (Reg.FX_AREA1_pixels n) f.area1 |> wr (Reg.FX_AREA2_pixels n) f.area2
    |> wr (Reg.FX_CENTROID_cx n) f.cx |> wr (Reg.FX_CENTROID_cy n) f.cy
    |> wr (Reg.FX_SHAPE_width n) f.width |> wr (Reg.FX_SHAPE_length n) f.length
    |> wr (Reg.FX_ORIENT_blobs n) f.blobs |> wr (Reg.FX_ORIENT_spatter n) f.spatter
    |> wr (Reg.FX_ORIENT_orientation n) f.orient
    |> wrB (Reg.FX_MEAS_usable n) us |> wr (Reg.FX_MEAS_m n) m
    |> wr2 (Reg.FX_DELIV_LO_beat n) (Reg.FX_DELIV_HI_beat n) c.now
    |> inc (Reg.FX_FRAMES_count n) (Reg.FX_STICKY_sat n) 0
    |> when (!us) (inc (Reg.FX_UNUSABLE_count n) (Reg.FX_STICKY_sat n) 1)
    |> when late (inc (Reg.FX_LATE_count n) (Reg.FX_STICKY_sat n) 2)
  let meas : Meas := ⟨d.f.j, d.f.seq, c.now, m, us⟩
  let c := forEach (List.range 24) (fun k c =>
    if c.flag (Reg.LAD_SAMPLE_ctx_valid k) && c.rd (Reg.LAD_SAMPLE_context k) == n && (c.ctx n).f0 == d.f.f0 then
      modLadle k (fun e => { e with meas := e.meas ++ [meas] }) c
    else c) c
  fxRecord n d validity m us c

/-- The deliveries of a context that are due at the present beat. -/
def fxDue (n : Nat) (c : Chip) : Chip :=
  let due := (c.ctx n).deliveries.filter fun d => decide (d.beat ≤ c.now)
  let c := modCtx n (fun x => { x with deliveries := x.deliveries.filter fun d => decide (d.beat > c.now) }) c
  due.foldl (fun c d => fxDeliver n d c) c

/-- FEATURE_DELIVERY (R260). -/
def execFeatureDelivery (ctx : Fin 24) (s : State) : Host.Outcome State Fault Refusal := runs (fxDue ctx.val) s

end Sys2Proof.Machine
end

