-- ==== Sys2Proof/Machine/HeadLink.lean ====
section
/-! DEFINITION. The line coding of the Glelin lanes (06_glelin_links.md, R180–R188) and the slow-control mailbox (R199–R202). -/

namespace Sys2Proof.Machine

open Sys2Proof

/-! ### Line coding (R180–R188) -/

/-- Payload words of a frame at a rate (R188). -/
def rateWords (rate : Nat) : Nat := [44, 72, 92, 118].getD rate 92

/-- Line bits of beats 0 to n − 1 at nominal clocks: 6.25, 10, 12.5 and 16 bits per ns (R180). -/
def lineBits (rate n : Nat) : Nat :=
  match rate with
  | 0 => ceilDiv (3125 * n) 2
  | 1 => 2500 * n
  | 2 => 3125 * n
  | _ => 4000 * n

/-- round(d × rate): the bits by which a stretch of d ns lengthens a gap (R190). -/
def stretchBits (rate d : Nat) : Nat :=
  match rate with
  | 0 => (50 * d + 4) / 8
  | 1 => 10 * d
  | 2 => (25 * d + 1) / 2
  | _ => 16 * d

/-- The marker's 64 bits, bit 63 first (R183). -/
def markerBits : List Bool := (List.range 64).map fun k => bit 0x5FFFFFFFFFFFF2D4 (63 - k)

/-- The bits of a payload word, bit 31 first (R182). -/
def word32 (x : Nat) : List Bool := (List.range 32).map fun k => bit x (31 - k)

/-- The additive scrambler over payload bits (R184); `st` holds s_(k−1) in bit 0 to s_(k−31) in bit 30. -/
def scramble : Nat → List Bool → List Bool
  | _, [] => []
  | st, d :: l =>
    let s := bit st 30 != bit st 27
    (d != s) :: scramble ((2 * st + b2n s) % 2 ^ 31) l

/-- A payload scrambled, or descrambled: the sequence restarts with every frame, all ones. -/
def scrambled (l : List Bool) : List Bool := scramble (2 ^ 31 - 1) l

/-- Stuffing (R185): the last bit sent and the length of its run; a bit of the opposite value after every run of 48. -/
def stuff : Bool → Nat → List Bool → List Bool
  | _, _, [] => []
  | b, n, x :: l =>
    let k := if x = b then n + 1 else 1
    if k = 48 then x :: (!x) :: stuff (!x) 1 l else x :: stuff x k l

/-- A payload as the line carries it after the marker, whose last bits are two zeros. -/
def stuffed (l : List Bool) : List Bool := stuff false 2 l

/-- Removal of the stuff bits from a line of which `n` payload bits are wanted (R185): the payload bits, whether a stuff
bit had not the opposite value, and what follows. -/
def unstuff : Nat → Bool → Nat → List Bool → List Bool × Bool × List Bool
  | 0, _, _, l => ([], false, l)
  | _, _, _, [] => ([], false, [])
  | n + 1, b, r, x :: l =>
    let k := if x = b then r + 1 else 1
    if k = 48 then
      match l with
      | [] => ([x], false, [])
      | y :: l' =>
        let a := unstuff n y 1 l'
        (x :: a.1, a.2.1 || y == x, a.2.2)
    else
      let a := unstuff n x k l
      (x :: a.1, a.2.1, a.2.2)

/-- Words from payload bits. -/
def bitsToWords : Nat → List Bool → List Nat
  | 0, _ => []
  | n + 1, l => (l.take 32).foldl (fun a b => 2 * a + b2n b) 0 :: bitsToWords n (l.drop 32)

/-- The bytes of payload words in line order. -/
def wordBytes (l : List Nat) : List Byte := l.flatMap fun w => toBE 4 w

/-- A frame as a receiver sees it: whether its marker is there, whether its stuffing holds, whether the payload is
whole, its words, and its gap. -/
structure LineFrame where
  marker : Bool
  stuffOk : Bool
  words : List Nat
  crcOk : Bool
  gap : Nat
  deriving DecidableEq, Repr

/-- What follows the first marker that starts among the first `k` bit positions of a line (R203, R204). -/
def afterMarker : Nat → List Bool → Option (List Bool)
  | 0, _ => none
  | k + 1, l => if l.take 64 = markerBits then some (l.drop 64) else afterMarker k l.tail

/-- A frame taken from the line (R182–R187) at a rate, its marker sought at the first `k` bit positions; an inverted pair
is turned back. -/
def readLine (rate : Nat) (inverted : Bool) (k : Nat) (line : List Bool) : LineFrame :=
  let n := rateWords rate
  match afterMarker k (if inverted then line.map not else line) with
  | none => ⟨false, true, [], false, 0⟩
  | some l =>
    let a := unstuff (32 * n) false 2 l
    let ws := bitsToWords n (scrambled a.1)
    let whole := decide (a.1.length = 32 * n)
    ⟨true, !a.2.1, ws, whole && decide (crc32c (wordBytes (ws.take (n - 1))) = ws.getD (n - 1) 0), a.2.2.length⟩

/-- A gap of `n` bits (R186): repetitions of 0xAAAA_AAAA, the last cut short. -/
def filler (n : Nat) : List Bool := (List.range n).map fun k => decide (k % 2 = 0)

/-- The payload bits of a downlink frame with its CRC word (R187, R192): complemented in a killed frame (R196), one bit
inverted by an injection (R211). -/
def DownFrame.payload (f : DownFrame) : List Bool :=
  let crc := crc32c (wordBytes f.words)
  let l := (f.words ++ [if f.killed then 2 ^ 32 - 1 - crc else crc]).flatMap word32
  match f.injected with
  | some k => modAt l k not
  | none => l

/-- A downlink frame's payload scrambled and stuffed (R184, R185). -/
def DownFrame.coded (f : DownFrame) : List Bool := stuffed (scrambled f.payload)

/-- The gap that puts the next marker in its place (R186). -/
def DownFrame.gap (f : DownFrame) : Nat := f.bits - 64 - f.coded.length

/-- A downlink frame as the line carries it (R182): marker, payload, gap; an inverted pair carries the opposite. -/
def DownFrame.line (f : DownFrame) (inverted : Bool) : List Bool :=
  (markerBits ++ f.coded ++ filler f.gap).map fun b => b != inverted

/-! ### Test patterns (R210, R211) -/

/-- The length and the tap of a mode's shift register: PRBS7, PRBS15, PRBS23, PRBS31. -/
def prbsTaps (mode : Nat) : Nat × Nat := [(1, 1), (7, 6), (15, 14), (23, 18), (31, 28)].getD mode (1, 1)

/-- Whether the line carries a mode's sequence inverted, as ITU-T O.150 has it (PRESUMED, log entry 64). -/
def prbsInverted (mode : Nat) : Bool := decide (2 ≤ mode) && decide (mode ≤ 4)

/-- The bit that follows the bits of a register, whose bit 0 is the latest; CLOCK alternates. -/
def prbsNext (mode reg : Nat) : Bool :=
  if mode = 5 then !bit reg 0 else bit reg ((prbsTaps mode).1 - 1) != bit reg ((prbsTaps mode).2 - 1)

/-- A bit enters a pattern register. -/
def prbsShift (reg : Nat) (b : Bool) : Nat := (2 * reg + b2n b) % 2 ^ 31

/-- The next `n` line bits of a generator, and its register after them. -/
def prbsBits (mode : Nat) : Nat → Nat → List Bool × Nat
  | reg, 0 => ([], reg)
  | reg, n + 1 =>
    let b := prbsNext mode reg
    let r := prbsBits mode (prbsShift reg b) n
    ((b != prbsInverted mode) :: r.1, r.2)

/-- A checker at work on a line: the checker, whether it is in sync, and what it has counted. -/
structure CheckRun where
  chk : Checker
  sync : Bool
  bits : Nat
  errors : Nat
  losses : Nat
  deriving DecidableEq, Repr

/-- A line bit reaches a checker (R211): in sync after 64 error-free bits, out of sync at 16 errors within 256 bits. Out
of sync it follows the bits received, in sync its own sequence; zeros alone are in no PRBS. -/
def checkBit (mode : Nat) (x : CheckRun) (line : Bool) : CheckRun :=
  let k := x.chk
  let d := line != prbsInverted mode
  let p := prbsNext mode k.reg
  let err := p != d || (decide (mode ≠ 5) && decide (k.reg % 2 ^ (prbsTaps mode).1 = 0))
  if x.sync then
    let errs := if err then k.pos :: k.errs.filter fun e => decide (k.pos < e + 256) else k.errs
    if errs.length ≥ 16 then ⟨⟨prbsShift k.reg d, 0, 0, []⟩, false, x.bits + 1, x.errors + b2n err, x.losses + 1⟩
    else ⟨⟨prbsShift k.reg p, 0, k.pos + 1, errs⟩, true, x.bits + 1, x.errors + b2n err, x.losses⟩
  else
    let run := if err then 0 else k.run + 1
    if run ≥ 64 then { x with chk := ⟨prbsShift k.reg d, 0, 0, []⟩, sync := true }
    else { x with chk := ⟨prbsShift k.reg d, run, 0, []⟩ }

/-! ### Links and lanes -/

/-- A channel's link. -/
def Chip.link (c : Chip) (ch : Nat) : Link := c.beam.links.getD ch Link.init

/-- Change one link. -/
def modLink (ch : Nat) (f : Link → Link) (c : Chip) : Chip :=
  { c with beam := { c.beam with links := modAt c.beam.links ch f } }

/-- A lane beside its registers. -/
def Chip.lane (c : Chip) (n : Nat) : Lane := c.beam.lanes.getD n Lane.init

/-- Change one lane. -/
def modLane (n : Nat) (f : Lane → Lane) (c : Chip) : Chip :=
  { c with beam := { c.beam with lanes := modAt c.beam.lanes n f } }

/-- Whether a lane receives (R17): an uplink lane or a lane of an overview camera. -/
def laneRx (n : Nat) : Bool := decide (n ≥ 48) || decide (n % 2 = 1)

/-- The lane whose rate a lane runs at (R180). -/
def rateLane (n : Nat) : Nat := if n % 2 = 1 then n - 1 else n

/-- A lane's rate. -/
def Chip.laneRate (c : Chip) (n : Nat) : Nat := c.rd (Reg.GLK_CTL_rate (rateLane n))

/-- A lane's state (R203): 0 OFF, 1 HUNT, 2 VERIFY, 3 LOCKED, 4 TEST. -/
def Chip.laneState (c : Chip) (n : Nat) : Nat := c.rd (Reg.GLK_STATUS_state n)

/-- Whether the link of a channel is UP (R205). -/
def Chip.linkUp (c : Chip) (ch : Nat) : Bool := c.flag (Reg.GLK_STATUS_up (2 * ch + 1))

/-- An event of a lane (R212). -/
def laneEvent (code lane b1 h word : Nat) (c : Chip) : Chip := log code lane (u8 lane ++ u8 b1 ++ u16 h ++ u32 word) c

/-! ### Mailbox (R199–R202) -/

/-- A mailbox request joins those that wait. -/
def mbxSend (ch op addr data : Nat) (sieve : Bool) (c : Chip) : Chip :=
  modLink ch (fun l => { l with queue := l.queue ++ [⟨0, op, addr, data, sieve, 0, 0, false⟩] }) c

/-- The request that the downlink frame of the present beat takes up: the Sieve's before the host's. -/
def mbxNext (ch : Nat) (c : Chip) : Chip :=
  let l := c.link ch
  if l.mbx.isSome then c
  else
    let pick := match l.queue.find? fun m => m.sieve with
      | some m => some m
      | none => l.queue.head?
    match pick with
    | none => c
    | some m =>
      let tag := (l.tag + 1) % 256
      let b := c.now
      let i := (l.queue.findIdx? fun x => x == m).getD 0
      modLink ch (fun l => { l with
        mbx := some { m with tag := tag, sent := b }, tag := tag, queue := l.queue.eraseIdx i }) c

/-- A host request ends (R202, R213): status, read data. -/
def mbxHostDone (ch status : Nat) (data : Option Nat) (c : Chip) : Chip :=
  let n := 2 * ch
  wr (Reg.GLK_MBX_CMD_busy n) 0 c |> wr (Reg.GLK_MBX_RESP_done n) 1 |> wr (Reg.GLK_MBX_RESP_status n) status
    |> fun c => match data with
      | some v => wr (Reg.GLK_MBX_RDATA_data n) v c
      | none => c

/-- Whether a write of GLK_n_MBX_CMD may send a request (R202, R213). -/
def Chip.mbxCmdOk (c : Chip) (lane op addr : Nat) : Bool :=
  !c.flag (Reg.GLK_MBX_CMD_busy lane) && (decide (op = 1) || decide (op = 2)) &&
    !(decide (op = 1) && decide (0x10 ≤ addr) && decide (addr ≤ 0x1F))

/-- What a write of GLK_n_MBX_CMD does: the request is sent, or ends at once when the link is not UP. -/
def mbxHost (lane op addr : Nat) (c : Chip) : Chip :=
  let ch := lane / 2
  let c := wr (Reg.GLK_MBX_RESP_done lane) 0 c
  if c.linkUp ch then mbxSend ch op addr (c.rd (Reg.GLK_MBX_DATA_data lane)) false (wr (Reg.GLK_MBX_CMD_busy lane) 1 c)
  else mbxHostDone ch 0xFE none c

end Sys2Proof.Machine
end

