-- ==== Sys2Proof/Machine/Sieve.lean ====
section
/-! DEFINITION. The Sieves (07_sieve_pipeline.md, R214–R250): contexts, frames and their windows, runs, exposure settings,
raw taps, overview and test contexts. -/

namespace Sys2Proof.Machine

open Sys2Proof

/-! ### Contexts -/

/-- A Sieve: 0 A, 1 B. -/
def Chip.sieve (c : Chip) (v : Nat) : Sieve := c.img.sieves.getD v Sieve.init

/-- Change one Sieve. -/
def modSieve (v : Nat) (f : Sieve → Sieve) (c : Chip) : Chip :=
  { c with img := { c.img with sieves := modAt c.img.sieves v f } }

/-- The Sieve a context is bound to (R215). -/
def Chip.svOf (c : Chip) (n : Nat) : Nat := (c.ctx n).sieve

/-- How a context runs (R252): 0 stopped, 1 in a job, 2 alone, 3 stopping. -/
def Chip.ctxRun (c : Chip) (n : Nat) : Nat := c.rd (Reg.SVX_STATUS_run (c.svOf n) n)

/-- Whether a context opens frames. -/
def Chip.ctxOpens (c : Chip) (n : Nat) : Bool := c.ctxRun n == 1 || c.ctxRun n == 2

/-- Frame period of a context. -/
def Chip.ctxF (c : Chip) (n : Nat) : Nat := c.rd (Reg.SVX_PERIOD_beats (c.svOf n) n)

/-- Width of a context's frames. -/
def Chip.ctxW (c : Chip) (n : Nat) : Nat := c.rd (Reg.SVX_SIZE_width (c.svOf n) n)

/-- Height of a context's frames. -/
def Chip.ctxH (c : Chip) (n : Nat) : Nat := c.rd (Reg.SVX_SIZE_height (c.svOf n) n)

/-- Whether a context is an overview context. -/
def isOverview (n : Nat) : Bool := n == 24 || n == 25

/-- The power domain of a Sieve. -/
abbrev sieveDom (v : Nat) : Nat := pdSIEVEA + v

/-- Bits per pixel of a context. -/
def Chip.ctxDepth (c : Chip) (n : Nat) : Nat := if c.flag (Reg.SVX_CFG_depth12 (c.svOf n) n) then 12 else 10

/-- The sequence number of frame j of a context's run (R218). -/
def Ctx.seqOf (x : Ctx) (j : Nat) : Nat := (x.s0 + j) % 2 ^ 32

/-- A context event: context, a byte, a u16 and a u32 (R251). -/
def ctxEvent (code n b1 h w : Nat) (c : Chip) : Chip := log code n (u8 n ++ u8 b1 ++ u16 h ++ u32 w) c

/-! ### P registers (R229, R268) -/

/-- The fields marked P of a context in a Sieve. -/
def pFields (v n : Nat) : List Fld :=
  [Reg.SVX_BLACK_black v n, Reg.SVX_BAND_GAIN_gain_a v n, Reg.SVX_BAND_GAIN_gain_b v n, Reg.SVX_BAND_GAIN2_gain_a v n,
    Reg.SVX_SNR_value v n, Reg.SVX_SNR_W_w v n, Reg.SVX_TNR_m v n, Reg.SVX_TNR_k_static v n, Reg.SVX_INTERP_value v n,
    Reg.SVX_TEMP_value v n] ++
  (if n < 24 then [Reg.FX_THR_0_t0 n, Reg.FX_THR_0_t1 n, Reg.FX_THR_1_t2 n, Reg.FX_SPAT_sp_min n, Reg.FX_SPAT_sp_max n,
    Reg.FX_SPAT_sp_gap n] else [])

/-- The active value of a P field. -/
def Chip.act (c : Chip) (n : Nat) (f : Fld) : Nat := (assocGet f.key (c.ctx n).active).getD f.rst

/-- The copy at a run start, unless hold is 1 (R229). -/
def pCopy (v n : Nat) (c : Chip) : Chip :=
  if c.flag (Reg.SVX_CTL_hold v n) then c
  else
    let l := (pFields v n).foldl (fun l f => storePut f.key f.rst (c.rd f) l) (c.ctx n).active
    modCtx n (fun x => { x with active := l }) c |> wr (Reg.SVX_PGEN_active v n) (c.rd (Reg.SVX_PGEN_shadow v n))

/-- The active copies of a context's P fields in a Sieve, but for those of other Sieves, at their reset values. -/
def pReset (v n : Nat) (c : Chip) : Chip :=
  modCtx n (fun x => { x with active := x.active.filter fun p => !(pFields v n).any fun f => f.key == p.1 }) c

/-- A write of a P register counts in the shadow generation (R229). -/
def pWritten (v n : Nat) (c : Chip) : Chip := incWrap (Reg.SVX_PGEN_shadow v n) c

/-- The parameters of a run. -/
def Chip.pixCfg (c : Chip) (n : Nat) : PixCfg :=
  let v := c.svOf n
  { w := c.ctxW n, h := c.ctxH n, depth := c.ctxDepth n
    bayer := c.flag (Reg.SVX_CFG_mosaic v n), cfa := c.rd (Reg.SVX_CFG_cfa v n), phase := c.rd (Reg.SVX_CFG_band_phase v n)
    fpnEn := c.flag (Reg.SVX_CFG_fpn_en v n), bgainEn := c.flag (Reg.SVX_CFG_bgain_en v n)
    snrEn := c.flag (Reg.SVX_CFG_snr_en v n), tnrEn := c.flag (Reg.SVX_CFG_tnr_en v n)
    interpEn := c.flag (Reg.SVX_CFG_interp_en v n), tempEn := c.flag (Reg.SVX_CFG_temp_en v n)
    statAfterNoise := c.flag (Reg.SVX_CFG_stat_point v n)
    black := c.act n (Reg.SVX_BLACK_black v n)
    gains := [c.act n (Reg.SVX_BAND_GAIN_gain_a v n), c.act n (Reg.SVX_BAND_GAIN_gain_b v n),
      c.act n (Reg.SVX_BAND_GAIN2_gain_a v n)]
    snrT := c.act n (Reg.SVX_SNR_value v n), snrW := c.act n (Reg.SVX_SNR_W_w v n)
    tnrM := c.act n (Reg.SVX_TNR_m v n), tnrK := c.act n (Reg.SVX_TNR_k_static v n)
    edge := c.act n (Reg.SVX_INTERP_value v n), floor := c.act n (Reg.SVX_TEMP_value v n) }

/-- The thresholds of a context's features. -/
def Chip.fxPar (c : Chip) (n : Nat) : FxPar :=
  ⟨c.act n (Reg.FX_THR_0_t0 n), c.act n (Reg.FX_THR_0_t1 n), c.act n (Reg.FX_THR_1_t2 n), c.act n (Reg.FX_SPAT_sp_min n),
    c.act n (Reg.FX_SPAT_sp_max n), c.act n (Reg.FX_SPAT_sp_gap n)⟩

/-! ### Tables (R230, R232, R237, R248) -/

/-- The words of a table window from a byte address on, by offset. -/
def Chip.window (c : Chip) (a len : Nat) : Store :=
  (c.tables.filter fun p => decide (a ≤ p.1) && decide (p.1 < a + len)).map fun p => (p.1 - a, p.2)

/-- SVA_n_GEN [8]: a commit of either of a context's tables waits (R124, R230). -/
def genShow (n : Nat) (c : Chip) : Chip :=
  let temp := c.host.commits.any fun k => !k.begun && k.kind == 1 && k.inst == n
  when (c.on (sieveDom (c.svOf n))) (wrB (Reg.SVX_GEN_pending (c.svOf n) n) ((c.ctx n).fpnWait || temp)) c

/-- A fixed-pattern commit is asked for (R230). -/
def fpnAsk (n : Nat) (c : Chip) : Chip := genShow n (modCtx n (fun x => { x with fpnWait := true }) c)

/-- The fixed-pattern commit that waits is made at a run start (R230). Until it has ended, after at most 8 µs, its window answers
RETRY (R37): how long it takes is a free value (DESIGN CHOICE, log entry 7). -/
def fpnCommit (v n : Nat) (c : Chip) : Chip :=
  if !(c.ctx n).fpnWait then c
  else
    let l : Store := if isOverview n then [(0, c.rdAddr (Reg.SVX_FPN_ADDR_LO_addr v n) (Reg.SVX_FPN_ADDR_HI_addr v n))]
      else c.window (0x02000000 + n * 0x40000) 0x40000
    let (k, c) := draw c
    let b := c.now + Config.measured k % 33
    genShow n (modCtx n (fun x => { x with fpnAct := l, fpnWait := false, fpnUntil := b }) c)
      |> incWrap (Reg.SVX_GEN_fpn_gen v n)

/-- The active fixed-pattern word of a pixel. -/
def Chip.fpnWord (c : Chip) (n w x y : Nat) : Nat :=
  let t := (c.ctx n).fpnAct
  if isOverview n then le (c.dramRead ((assocGet 0 t).getD 0 + (y * w + x) * 4) 4)
  else (assocGet ((y * 256 + x) * 4) t).getD 0x40000000

/-- An entry of a temperature table (R237). -/
def tempEntry (t : Store) (i : Nat) : Nat :=
  let w := (assocGet (i / 2 * 4) t).getD 0
  if i % 2 = 0 then w % 65536 else w / 65536

/-! ### Exposure settings (R239–R241) -/

/-- The next request of a block goes to the mailbox. -/
def expPump (n : Nat) (c : Chip) : Chip :=
  match (c.ctx n).block with
  | none => c
  | some b =>
    match b.todo with
    | (a, v) :: _ => mbxSend n 1 a v true c
    | [] => mbxSend n 3 0 b.id true (modCtx n (fun x => { x with block := some { b with committing := true } }) c)

/-- What a context's earlier block had in the mailbox counts no more. -/
def mailDrop (n : Nat) (c : Chip) : Chip :=
  modLink n (fun l => { l with
    queue := l.queue.filter fun m => !m.sieve
    mbx := l.mbx.map fun m => { m with dead := m.dead || m.sieve } }) c

/-- A block begins; what an earlier block had in the mailbox counts no more. -/
def expBegin (n seq : Nat) (todo : List (Nat × Nat)) (start : Bool) (c : Chip) : Chip :=
  let v := c.svOf n
  let c := mailDrop n c
  modCtx n (fun x => { x with block := some ⟨c.rd (Reg.SVX_EXP_STATUS_next_id v n), seq, todo, false, start⟩ }) c
    |> wr (Reg.SVX_EXP_STATUS_dirty v n) 0 |> wr (Reg.SVX_EXP_STATUS_active v n) 1 |> expPump n

/-- The exposure writes of a block: HR_EXPOSURE and HR_GAIN. -/
def Chip.expWrites (c : Chip) (n : Nat) : List (Nat × Nat) :=
  let v := c.svOf n
  [(0x10, c.rd (Reg.SVX_EXP_TIME_value v n)), (0x11, c.rd (Reg.SVX_EXP_GAIN_value v n))]

/-- The start block of a melt-pool context (R241). -/
def expStart (n : Nat) (c : Chip) : Chip :=
  let v := c.svOf n
  if n ≥ 24 then c
  else
    expBegin n (c.ctx n).nextSeq (c.expWrites n ++
      [(0x12, c.rd (Reg.SVX_ROI_ORG_x0 v n) * 65536 + c.rd (Reg.SVX_ROI_ORG_y0 v n)),
        (0x13, c.ctxW n * 65536 + c.ctxH n), (0x14, c.ctxDepth n)]) true c

/-- A frame opens: a dirty context forms its block (R239). -/
def expOpen (n seq : Nat) (c : Chip) : Chip :=
  let v := c.svOf n
  if n < 24 ∧ c.flag (Reg.SVX_EXP_STATUS_dirty v n) ∧ !c.flag (Reg.SVX_CTL_hold v n) ∧ (c.ctx n).block.isNone then
    expBegin n seq (c.expWrites n) false c
  else c

/-- A block fails (R240): the mailbox status, the head address. -/
def expFail (n status addr : Nat) (c : Chip) : Chip :=
  let v := c.svOf n
  match (c.ctx n).block with
  | none => c
  | some b =>
    modCtx n (fun x => { x with block := none }) c |> wr (Reg.SVX_EXP_STATUS_error v n) 1
      |> wr (Reg.SVX_EXP_STATUS_dirty v n) 0 |> wr (Reg.SVX_EXP_STATUS_active v n) 0
      |> ctxEvent 0x0603 n status addr b.seq

/-- An answer to a request of a block (R240). -/
def expAnswer (n status addr : Nat) (c : Chip) : Chip :=
  let v := c.svOf n
  match (c.ctx n).block with
  | none => c
  | some b =>
    if status ≠ 0 then expFail n status addr c
    else if b.committing then
      modCtx n (fun x => { x with block := none, applyWait := true }) c |> wr (Reg.SVX_EXP_STATUS_active v n) 0
        |> wr (Reg.SVX_EXP_STATUS_committed_id v n) b.id
        |> wr (Reg.SVX_EXP_STATUS_next_id v n) (if b.id ≥ 255 then 1 else b.id + 1)
        |> wr (Reg.SVX_EXP_SENT_SEQ_seq v n) b.seq
    else expPump n (modCtx n (fun x => { x with block := some { b with todo := b.todo.drop 1 } }) c)

/-! ### Taps (R243–R245) -/

/-- Bytes of a Sieve's records that wait in its tap buffer. -/
def Chip.tapFill (c : Chip) (v : Nat) : Nat :=
  c.mem.slm.ready.foldl (fun a x => if x.req = reqTap ∧ c.svOf x.unit = v then a + x.data.length else a) 0

/-- A record header with its CRC (R244), for a payload. -/
def tapHead (f : Closed) (point w h pgen fpn temp : Nat) (payload : List Byte) : List Byte :=
  let b := u32 f.seq ++ u8 point ++ u8 (if bit f.flags 2 then 0 else f.sid) ++ u16 f.flags ++ toLE 8 f.close ++ u16 w ++
    u16 h ++ u16 pgen ++ u8 fpn ++ u8 temp ++ u32 payload.length
  b ++ u32 (crc32c (b ++ payload))

/-- A record padded to a multiple of 64 bytes. -/
def padTo64 (l : List Byte) : List Byte := l ++ List.replicate ((64 - l.length % 64) % 64) 0

/-- A best-effort record dropped (R245). -/
def tapDrop (v n k : Nat) (c : Chip) : Chip :=
  incSat (Reg.SVX_TAP_DROP_value v n k) c |> inc (Reg.SVA_TAP_DROP_count v) (Reg.SVA_STICKY_sat v) 2

/-- The fill of a Sieve's tap buffer shown, in KiB rounded up. -/
def tapShow (v : Nat) (c : Chip) : Chip :=
  let k := ceilDiv (c.tapFill v) 1024
  wr (Reg.SVA_TAP_FILL_now v) k c |> when (decide (k > c.rd (Reg.SVA_TAP_FILL_worst v))) (wr (Reg.SVA_TAP_FILL_worst v) k)

/-- A record written to the ring of a point, with a skip record before it where it does not fit (R243). -/
def tapWrite (v n k : Nat) (f : Closed) (r : List Byte) (c : Chip) : Chip :=
  let len := c.rd (Reg.SVX_TAP_LEN_bytes v n k) * 64
  let off := c.rd (Reg.SVX_TAP_OFF_bytes v n k) * 64
  let p0 := c.rd (Reg.SVX_TAP_WPTR_value v n k)
  let p := if p0 ≥ len then 0 else p0
  if r.length > len ∨ off + len > c.rd (Reg.SVX_TAP_WIN_value v n) then c
  else
    let base := c.tapBase n + off
    let fits := decide (p + r.length ≤ len)
    let c := if fits then c
      else
        let body := List.replicate (len - p - 32) (0 : Byte)
        sluiceWrite reqTap n (base + p) (tapHead f 0xFF (c.ctxW n) (c.ctxH n) 0 0 0 body ++ body) c
    let q := if fits then p else 0
    sluiceWrite reqTap n (base + q) r c |> wr (Reg.SVX_TAP_WPTR_value v n k) (if q + r.length = len then 0 else q + r.length)
      |> incWrap (Reg.SVX_TAP_COUNT_value v n k) |> tapShow v

/-- A processed frame reaches tap point k: decimation, throttling, room, the record. -/
def tapPoint (v n k : Nat) (f : Closed) (pgen fpn temp : Nat) (payload : List Byte) (c : Chip) : Chip :=
  if !c.flag (Reg.SVX_TAP_CTL_enable v n k) || c.flag (Reg.SVX_STATUS_tap_stopped v n) then c
  else
    let x := c.ctx n
    let i := x.dec.getD k 0
    let c := modCtx n (fun x => { x with dec := setAt x.dec k (if i + 1 ≥ c.rd (Reg.SVX_TAP_CTL_d v n k) then 0 else i + 1) }) c
    let r := padTo64 (tapHead f k (c.ctxW n) (c.ctxH n) pgen fpn temp payload ++ payload)
    if i ≠ 0 then c
    else if c.flag (Reg.SVX_TAP_CTL_mode v n k) then
      let m := x.sixteen.getD k 0
      let c := modCtx n (fun x => { x with sixteen := setAt x.sixteen k ((m + 1) % 16) }) c
      if m + c.rd Reg.THM_STATUS_x ≥ 16 ∨ c.tapFill v + r.length > 2 ^ 20 then tapDrop v n k c
      else tapWrite v n k f r c
    else tapWrite v n k f r c

/-- A MISSING frame: every admitted point writes a record without payload (R227). -/
def tapMissing (v n : Nat) (f : Closed) (c : Chip) : Chip :=
  forEach (List.range 6) (fun k c =>
    if c.flag (Reg.SVX_TAP_CTL_mode v n k) then c
    else tapPoint v n k f (c.rd (Reg.SVX_PGEN_active v n)) (c.rd (Reg.SVX_GEN_fpn_gen v n)) (c.rd (Reg.SVX_GEN_temp_gen v n))
      [] c) c

/-- The taps of a context stop above the declared rate (R245). -/
def tapStop (n point : Nat) (c : Chip) : Chip :=
  let v := c.svOf n
  if c.flag (Reg.SVX_STATUS_tap_stopped v n) then c
  else
    wr (Reg.SVX_STATUS_tap_stopped v n) 1 c |> ctxEvent 0x0605 n point 0 (c.rd (Reg.SVX_SEQ_seq v n))

/-! ### Starts and stops (R216, R249, R250) -/

/-- A context starts: mode 1 in a job, 2 alone; its first frame opens at f0. -/
def ctxStart (n mode f0 : Nat) (c : Chip) : Chip :=
  let v := c.svOf n
  let c := modCtx n (fun x => { x with
    f0 := f0, s0 := x.nextSeq, startAt := none, opened := 0, closed := 0, rx := none, closing := none, ovClosed := [], hist := none,
    restart := true, lastSid := none, applyWait := x.applyWait, dec := [0, 0, 0, 0, 0, 0], sixteen := [0, 0, 0, 0, 0, 0],
    recDec := 0, ovLast := none, ovRun := 0 }) c
  let c := forEach [Reg.SVX_FRAMES_count v n, Reg.SVX_ANOMALIES_count v n, Reg.SVX_STRAY_count v n,
    Reg.SVX_SKIPPED_count v n, Reg.SVX_STATUS_anomaly_run v n, Reg.SVX_STATUS_fault v n, Reg.SVX_STATUS_tap_stopped v n]
    (fun f => wr f 0) c |> forEach (List.range 6) (fun k => wr (Reg.SVX_TAP_DROP_value v n k) 0)
  let c := if n < 24 then forEach [Reg.FX_FRAMES_count n, Reg.FX_UNUSABLE_count n, Reg.FX_LATE_count n] (fun f => wr f 0) c
    else c
  wr (Reg.SVX_STATUS_run v n) mode c

/-- Whether frames or runs of a context are still under way. -/
def Chip.ctxWork (c : Chip) (n : Nat) : Bool :=
  let x := c.ctx n
  let s := c.sieve x.sieve
  decide (x.closed < x.opened) || x.rx.isSome && isOverview n || !x.ovClosed.isEmpty || s.waiting.any (fun f => f.ctx == n) ||
    s.runs.any fun r => r.f.ctx == n

/-- A stopping context whose frames are done is stopped. -/
def ctxSettle (n : Nat) (c : Chip) : Chip :=
  if c.ctxRun n = 3 ∧ !c.ctxWork n then wr (Reg.SVX_STATUS_run (c.svOf n) n) 0 c else c

/-- A context opens no further frames; those opened are still received, closed and processed (R216). -/
def ctxEnd (n : Nat) (c : Chip) : Chip :=
  let c := modCtx n (fun x => { x with startAt := none }) c
  if c.ctxOpens n then ctxSettle n (wr (Reg.SVX_STATUS_run (c.svOf n) n) 3 c) else c

/-- A context stops at once: what it was receiving is discarded. Causes 0 job start, 1 job admitted, 2 domain off. -/
def ctxKill (n cause : Nat) (c : Chip) : Chip :=
  let v := c.svOf n
  if c.ctxRun n = 0 ∧ (c.ctx n).startAt.isNone then c
  else
    modCtx n (fun x => { x with startAt := none, rx := none, closing := none, ovClosed := [], opened := 0, closed := 0 }) c
      |> wr (Reg.SVX_STATUS_run v n) 0 |> ctxEvent 0x0606 n cause 0 c.now

/-- A context started alone starts at its first aligned beat (R216). -/
def ctxDue (n : Nat) (c : Chip) : Chip :=
  match (c.ctx n).startAt with
  | some b => if b ≤ c.now then ctxStart n 2 b c else c
  | none => c

/-- The contexts at a job's start beat (R216). -/
def sieveJobStart (j : Job) (s : Nat) (c : Chip) : Chip :=
  let alone := (List.range 32).filter fun n => c.ctxRun n == 2 || (c.ctx n).startAt.isSome
  let c := forEach alone (fun n => ctxKill n 0) c
  forEach j.ctxs (fun e c =>
    let n := e.ctx
    let v := c.svOf n
    let t := j.streams.find? fun x => x.kind == 1 && x.inst == n
    let base := (t.map fun x => x.base).getD 0
    wr (Reg.SVX_PERIOD_beats v n) e.f c |> wr (Reg.SVX_PHASE_beats v n) e.phase
      |> wr (Reg.SVX_TAP_BASE_LO_value v n) (base % 2 ^ 32 / 64) |> wr (Reg.SVX_TAP_BASE_HI_value v n) (base / 2 ^ 32)
      |> wr (Reg.SVX_TAP_WIN_value v n) ((t.map fun x => x.len).getD 0)
      |> ctxStart n 1 (s + e.phase)) c

/-- The contexts of a job that leaves RUNNING. -/
def sieveJobEnd (j : Job) (c : Chip) : Chip := forEach j.ctxs (fun e => ctxEnd e.ctx) c

/-- Every test context stops when a job is admitted (R249). -/
def sieveAdmitted (c : Chip) : Chip := forEach [26, 27, 28, 29, 30, 31] (fun n => ctxKill n 1) c

/-- The first beat from b on at which a context may start alone: b mod F = phase (R216). -/
def Chip.alignedFrom (c : Chip) (n b : Nat) : Nat :=
  let f := c.ctxF n
  b + (c.rd (Reg.SVX_PHASE_beats (c.svOf n) n) + f * (b / f + 1) - b) % f

/-- A bind (R215): the temporal history is cleared. A context that runs alone goes on under the set of its new Sieve, from
the first aligned beat on; what it was receiving is dropped (DESIGN CHOICE, log entry 65). -/
def ctxBind (n v : Nat) (c : Chip) : Chip :=
  let u := c.svOf n
  let run := c.ctxRun n
  let d := modCtx n (fun x => { x with sieve := v, hist := none, restart := true }) c
  let b := d.alignedFrom n (d.now + 1)
  let d := modCtx n (fun x => { x with startAt := x.startAt.map fun s => d.alignedFrom n s }) d
  if u = v ∨ run = 0 then d
  else
    modCtx n (fun x => { x with
        f0 := b, s0 := x.nextSeq, opened := 0, closed := 0, rx := none, closing := none, ovClosed := [], ovRun := 0, ovLast := none }) d
      |> wr (Reg.SVX_STATUS_run u n) 0 |> wr (Reg.SVX_STATUS_run v n) (if run = 2 then 2 else 0)

/-! ### Frame openings and windows (R48, R218, R220) -/

/-- The frame of a context that opens at beat b. -/
def Chip.frameAt (c : Chip) (n b : Nat) : Option Nat :=
  let x := c.ctx n
  let p := c.ctxF n
  if c.ctxOpens n && !isOverview n && c.on (sieveDom x.sieve) && decide (p ≠ 0) && decide (x.f0 ≤ b) &&
      decide ((b - x.f0) % p = 0) then some ((b - x.f0) / p)
  else none

/-- The sequence that the downlink frame before beat b announces for a melt-pool frame that opens at b (R192, R218): of
the running context, or of frame 0 of a context that starts at b. -/
def Chip.frameSeqAt (c : Chip) (n b : Nat) : Option Nat :=
  let x := c.ctx n
  let starting := c.host.jobs.find? fun j => (j.st == 1 || j.st == 2) && j.start == some b
  match starting with
  | some j =>
    if c.on (sieveDom x.sieve) && j.ctxs.any fun e => e.ctx == n && e.phase == 0 then some x.nextSeq else none
  | none =>
    if x.startAt = some b ∧ c.on (sieveDom x.sieve) then some x.nextSeq
    else (c.frameAt n b).map fun j => x.seqOf j

/-- The window of the next frame begins (R220). -/
def frameWindow (n : Nat) (c : Chip) : Chip :=
  let x := c.ctx n
  let p := c.ctxF n
  let b := c.now
  if isOverview n ∨ p = 0 ∨ b < x.f0 + p ∨ (b - x.f0) % p ≠ 0 ∨ c.ctxRun n = 0 then c
  else
    let j := (b - x.f0) / p - 1
    if (x.rx.map fun r => r.j) = some j ∨ j < x.closed then c
    else
      modCtx n (fun x => { x with
        closing := x.rx
        rx := if j < x.opened then some ⟨j, none, [], false, false, false, b, 0⟩ else none }) c

/-- A camera frame opens: its sequence is taken, a dirty context forms its settings block. -/
def frameOpen (n : Nat) (c : Chip) : Chip :=
  match c.frameAt n c.now with
  | none => c
  | some j =>
    let x := c.ctx n
    if j < x.opened then c
    else
      let seq := x.nextSeq
      modCtx n (fun x => { x with opened := j + 1, nextSeq := (x.nextSeq + 1) % 2 ^ 32 }) c |> expOpen n seq

/-! ### Pixel words (R225, R247, R248) -/

/-- Stray or excess words counted. -/
def strayWords (n k : Nat) (c : Chip) : Chip :=
  let v := c.svOf n
  when (decide (k > 0)) (incBy k (Reg.SVX_STRAY_count v n) (Reg.SVX_STICKY_sat v n) 2) c

/-- A header received: the settings ID it echoes is shown (R252). -/
def headerSeen (n : Nat) (h : FrameHdr) (c : Chip) : Chip :=
  when (decide (n < 24)) (wr (Reg.SVX_EXP_STATUS_echo_id (c.svOf n) n) h.sid) c

/-- Change the frame being received. -/
def modRx (n : Nat) (f : RxFrame → RxFrame) (c : Chip) : Chip := modCtx n (fun x => { x with rx := x.rx.map f }) c

/-- Words of frame j enter input buffer j mod 2 of a melt-pool or test context (R217): an earlier frame of that buffer
that still waits for its run is overwritten from its first word on. -/
def bufferFill (n j : Nat) (words : List Nat) (c : Chip) : Chip :=
  modSieve (c.svOf n) (fun s => { s with waiting := s.waiting.map fun f =>
    if f.ctx = n ∧ f.j < j ∧ f.j % 2 = j % 2 then
      { f with words := (words ++ f.words.drop words.length).take f.words.length }
    else f }) c

/-- Words accepted by the frame being received, up to its size; the others are excess. -/
def acceptWords (n : Nat) (px : List Nat) (c : Chip) : Chip :=
  match (c.ctx n).rx with
  | none => strayWords n px.length c
  | some r =>
    let room := pixelWords (c.ctxW n) (c.ctxH n) (c.ctxDepth n) - r.words.length
    let words := (px.take room).reverse ++ r.words
    let c := modRx n (fun r => { r with words := words, excess := r.excess || decide (px.length > room) }) c
    let c := if isOverview n then c else bufferFill n r.j words.reverse c
    strayWords n (px.length - room) c

/-- The pixel part of one uplink frame of a melt-pool context (R206, R225): whether its words can be used (its CRC-32C
holds), whether the frame is good, its header, whether it carries the end, its pixel words. -/
def camWords (n : Nat) (usable good : Bool) (hdr : Option FrameHdr) (fin : Bool) (px : List Nat) (c : Chip) : Chip :=
  if !c.on (sieveDom (c.svOf n)) || c.ctxRun n == 0 then c
  else
    match (c.ctx n).rx with
    | none => when usable (strayWords n px.length) c
    | some r =>
      if !good && r.hdr.isSome then modRx n (fun r => { r with bad := true }) c
      else if !usable then c
      else
        match r.hdr, hdr with
        | none, none => strayWords n px.length c
        | some _, some _ => strayWords n (4 + px.length) (modRx n (fun r => { r with ended := true }) c)
        | none, some h =>
          let c := modRx n (fun r => { r with hdr := some h, at0 := c.now }) c |> headerSeen n h |> acceptWords n px
          modRx n (fun r => { r with ended := fin }) c
        | some _, none =>
          if r.bad then c
          else if r.ended then strayWords n px.length c
          else modRx n (fun r => { r with ended := fin }) (acceptWords n px c)

/-! ### Closing a frame (R226–R228) -/

/-- Flags that make features invalid (R227): SHORT, MISSING, HDR_MISMATCH, SEQ_MISMATCH, CTX_FAULT. -/
def invalidFlags (f : Nat) : Bool := f &&& 0x3D != 0

/-- The flags of a frame but for HIST_RESTART (R226); `expect` is its sequence, none where none is expected
(DEDUCED, log entry 39). -/
def Chip.frameFlags (c : Chip) (n : Nat) (r : Option RxFrame) (expect : Option Nat) : Nat :=
  let fault := if c.flag (Reg.SVX_STATUS_fault (c.svOf n) n) then 32 else 0
  match r with
  | none => 4 + fault
  | some r =>
    match r.hdr with
    | none => 4 + fault
    | some h =>
      let short := decide (r.words.length < pixelWords (c.ctxW n) (c.ctxH n) (c.ctxDepth n))
      let wrong := decide (h.w ≠ c.ctxW n) || decide (h.h ≠ c.ctxH n) || decide (h.depth ≠ c.ctxDepth n)
      b2n short + 2 * b2n (!short && r.excess) + 8 * b2n wrong + 16 * b2n (expect.any fun e => e != h.seq) + fault +
        (r.flags &&& 0x80)

/-- Anomalies and the context fault (R228). -/
def frameAnomaly (n flags seq : Nat) (c : Chip) : Chip :=
  let v := c.svOf n
  if flags % 32 = 0 then wr (Reg.SVX_STATUS_anomaly_run v n) 0 c
  else
    let k := satU 8 (c.rd (Reg.SVX_STATUS_anomaly_run v n) + 1)
    wr (Reg.SVX_STATUS_anomaly_run v n) k c |> inc (Reg.SVX_ANOMALIES_count v n) (Reg.SVX_STICKY_sat v n) 1
      |> when (k == 1) (ctxEvent 0x0601 n 0 flags seq)
      |> when (k == 3 && !c.flag (Reg.SVX_STATUS_fault v n)) (fun c =>
        ctxEvent 0x0602 n 0 flags seq (wr (Reg.SVX_STATUS_fault v n) 1 c))

/-- A closed frame joins the runs that wait, in order of close beat, then of context (R221). -/
def waitInsert (f : Closed) : List Closed → List Closed
  | [] => [f]
  | x :: l => if f.close < x.close ∨ (f.close = x.close ∧ f.ctx < x.ctx) then f :: x :: l else x :: waitInsert f l

/-- A frame of the CAM_DARK round (R484): its raw values join the sums, unless one of flags [4:0] leaves it out. -/
def darkFrame (n flags : Nat) (words : List Nat) (c : Chip) : Chip :=
  match c.sys.cal.dark with
  | none => c
  | some d =>
    if d.ctx = n ∧ d.seen < d.total then
      let raw := if n ≥ 26 then words else unpack (c.pixCfg n) words
      if flags % 32 ≠ 0 then modCal (fun k => { k with dark := some { d with seen := d.seen + 1, out := d.out + 1 } }) c
      else
        let sums := if d.sums.isEmpty then raw else (d.sums.zip raw).map fun p : Nat × Nat => p.1 + p.2
        modCal (fun k => { k with dark := some { d with seen := d.seen + 1, sums := sums } }) c
    else c

/-- A frame closes: its flags, counters and history mark; what becomes of it. -/
def frameShut (n j seq flags sid : Nat) (words : List Nat) (c : Chip) : Chip :=
  let c := darkFrame n flags words c
  let v := c.svOf n
  let x := c.ctx n
  let gone := bit flags 2 || bit flags 6
  let again := !gone && (x.restart || decide (x.lastSid ≠ some sid))
  let flags := if again then flags + 0x100 else flags
  let c := modCtx n (fun x => { x with
    closed := x.closed + 1
    restart := if gone then x.restart || bit flags 2 else invalidFlags flags
    lastSid := if gone then x.lastSid else some sid }) c
  let c := wr (Reg.SVX_STATUS_flags v n) flags c |> wr (Reg.SVX_SEQ_seq v n) seq
    |> inc (Reg.SVX_FRAMES_count v n) (Reg.SVX_STICKY_sat v n) 0 |> frameAnomaly n flags seq
  let applied := decide (n < 24) && !gone && x.applyWait && decide (sid = c.rd (Reg.SVX_EXP_STATUS_committed_id v n))
  let c := if applied then wr (Reg.SVX_EXP_APPLIED_SEQ_seq v n) seq (modCtx n (fun x => { x with applyWait := false }) c) else c
  let f : Closed := ⟨n, x.f0, j, seq, c.now, flags, sid, words⟩
  if bit flags 2 then
    let c := tapMissing v n f c
    if n < 24 then
      modCtx n (fun x => { x with
        deliveries := x.deliveries ++ [⟨f, c.now + 2, c.rd (Reg.SVX_PGEN_active v n), Feat.zero⟩] }) c
    else c
  else if bit flags 6 then inc (Reg.SVX_SKIPPED_count v n) (Reg.SVX_STICKY_sat v n) 3 c
  else if isOverview n then modCtx n (fun x => { x with ovClosed := x.ovClosed ++ [f] }) c
  else modSieve v (fun s => { s with waiting := waitInsert f s.waiting }) c

/-- The pixels of frame j of a test context, if it was read by its close beat (R249)
(DESIGN CHOICE, log entry 58). -/
def Chip.testFrame (c : Chip) (n j : Nat) : Option (List Nat) :=
  let v := c.svOf n
  let w := c.ctxW n
  let h := c.ctxH n
  let src := c.rd (Reg.SVX_TEST_source v n)
  if src = 3 then
    let a := c.rdAddr (Reg.SVX_REPLAY_LO_addr v n) (Reg.SVX_REPLAY_HI_addr v n) +
      (j % max 1 (c.rd (Reg.SVX_TEST_count v n))) * (2 * w * h)
    if c.dramOk a (2 * w * h) then
      some ((List.range (w * h)).map fun i => le (c.dramRead (a + 2 * i) 2) % 2 ^ c.ctxDepth n)
    else none
  else
    some ((List.range (w * h)).map fun i =>
      testPixel src (c.rd (Reg.SVX_TEST_constant v n)) (c.ctxDepth n) j (i % w) (i / w))

/-- The frame of a melt-pool or test context whose close beat has come (R220). -/
def frameClose (n : Nat) (c : Chip) : Chip :=
  let x := c.ctx n
  let p := c.ctxF n
  let j := x.closed
  if isOverview n ∨ !c.on (sieveDom x.sieve) ∨ j ≥ x.opened ∨ c.now < x.f0 + (j + 2) * p + 1 then c
  else
    let seq := x.seqOf j
    if n ≥ 26 then
      let fault := if c.flag (Reg.SVX_STATUS_fault x.sieve n) then 32 else 0
      (match c.testFrame n j with
        | some px => frameShut n j seq fault 0 px (bufferFill n j px c)
        | none => frameShut n j seq (64 + fault) 0 [] c) |> ctxSettle n
    else
      let r := if (x.closing.map fun r => r.j) = some j then x.closing
        else if (x.rx.map fun r => r.j) = some j then x.rx else none
      let flags := c.frameFlags n r (some seq)
      let sid := ((r.bind fun r => r.hdr).map fun h => h.sid).getD 0
      let words := (r.map fun r => r.words.reverse).getD []
      frameShut n j seq flags sid words (modCtx n (fun x => { x with closing := none }) c) |> ctxSettle n

/-! ### Overview frames (R247, R248) -/

/-- A SKIPPED overview frame closes (R226, R247): its flags show, it is not processed. -/
def ovSkipped (n seq : Nat) (c : Chip) : Chip :=
  let v := c.svOf n
  let flags := if c.flag (Reg.SVX_STATUS_fault v n) then 0x60 else 0x40
  wr (Reg.SVX_STATUS_flags v n) flags c |> wr (Reg.SVX_SEQ_seq v n) seq
    |> inc (Reg.SVX_FRAMES_count v n) (Reg.SVX_STICKY_sat v n) 0 |> frameAnomaly n flags seq

/-- The overview frame being received closes. -/
def ovClose (n : Nat) (c : Chip) : Chip :=
  match (c.ctx n).rx with
  | none => c
  | some r =>
    let c := modCtx n (fun x => { x with rx := none }) c
    match r.hdr with
    | none => c
    | some h =>
      if bit r.flags 6 then ovSkipped n h.seq c
      else
        let seqBad := bit r.flags 4
        let flags := c.frameFlags n (some r) (if seqBad then some (h.seq + 1) else none)
        frameShut n r.j h.seq flags h.sid r.words.reverse c |> ctxSettle n

/-- Lines of the line store that a context holds, arrived and not run (R248): of the frame whose line runs go on, and of
the frames after it. -/
def Chip.ovHeld (c : Chip) (n : Nat) : Nat :=
  let x := c.ctx n
  let lineOf (words : Nat) : Nat := min (c.ctxH n) (words * 32 / (max 1 (c.ctxW n) * c.ctxDepth n))
  let frames := x.ovClosed.map (fun f => lineOf f.words.length) ++
    (x.rx.filter fun r => !bit r.flags 6).toList.map fun r => lineOf r.words.length
  match frames with
  | [] => 0
  | a :: l => l.foldl (fun a b => a + b) (a - x.ovRun)

/-- A line that arrives while the line store is full ends the frame's input (R248). -/
def ovStore (n : Nat) (c : Chip) : Chip :=
  let v := c.svOf n
  let held := ([24, 25].filter fun k => c.svOf k == v).foldl (fun a k => a + c.ovHeld k) 0
  match (c.ctx n).rx with
  | none => c
  | some r =>
    if held ≤ 16 then c
    else
      let bitsPerLine := c.ctxW n * c.ctxDepth n
      let line := r.words.length * 32 / max 1 bitsPerLine - (held - 16)
      modRx n (fun r => { r with
        words := r.words.drop (r.words.length - line * bitsPerLine / 32), bad := true, flags := r.flags ||| 0x80 }) c
        |> ctxEvent 0x0607 n v line ((r.hdr.map fun h => h.seq).getD 0)

/-- A header of an overview frame (R247). -/
def ovHeader (n : Nat) (h : FrameHdr) (c : Chip) : Chip :=
  let c := ovClose n c
  let x := c.ctx n
  let p := c.ctxF n
  let v := x.sieve
  let b := c.now
  let gap := ceilDiv (p * (16 + c.rd Reg.THM_STATUS_x)) 16
  let skip := x.ovLast.any fun l => decide (b < l + gap)
  let seqBad := decide (x.opened ≠ 0) && decide (h.seq ≠ x.nextSeq)
  let c := modCtx n (fun x => { x with nextSeq := (h.seq + 1) % 2 ^ 32 }) c
  if skip then
    modCtx n (fun x => { x with rx := some ⟨x.opened, some h, [], false, true, false, b, 64⟩ }) c
      |> inc (Reg.SVX_SKIPPED_count v n) (Reg.SVX_STICKY_sat v n) 3 |> inc (Reg.SVA_OV_SKIP_count v) (Reg.SVA_STICKY_sat v) 3
  else if c.ctxOpens n then
    modCtx n (fun x => { x with
      rx := some ⟨x.opened, some h, [], false, false, false, b, if seqBad then 16 else 0⟩
      opened := x.opened + 1, ovLast := some b }) c
  else c

/-- The pixel part of one lane frame of an overview context (R206, R209, R225): whether its words can be used (its
CRC-32C holds), whether the frame is good, its header, whether the end came, its pixel words. -/
def ovWords (n : Nat) (usable good : Bool) (hdr : Option FrameHdr) (fin : Bool) (px : List Nat) (c : Chip) : Chip :=
  if !c.on (sieveDom (c.svOf n)) || c.ctxRun n == 0 then c
  else if !good && (c.ctx n).rx.isSome then modRx n (fun r => { r with bad := true }) c
  else if !usable then c
  else
    let c := match hdr with
      | some h => ovHeader n h c
      | none => c
    match (c.ctx n).rx with
    | none => strayWords n px.length c
    | some r =>
      let c := if r.bad then c else ovStore n (acceptWords n px c)
      when fin (ovClose n) c

/-- An overview frame not ended within 2 × F beats of its header closes (R247). -/
def ovTimeout (n : Nat) (c : Chip) : Chip :=
  match (c.ctx n).rx with
  | some r => if isOverview n ∧ c.now ≥ r.at0 + 2 * c.ctxF n then ovClose n c else c
  | none => c

/-! ### Runs (R221, R224, R229–R238) -/

/-- What a run of a frame computes; it completes 2 beats after FCLK cycle `fin`. `tab`: the temperature table and its
generation at the run's start (R230). -/
def runFrame (v n : Nat) (f : Closed) (fin : Nat) (tab : Store × Nat) (c : Chip) : Chip :=
  let p := c.pixCfg n
  let k := c.fresh
  let histAt := c.rdAddr (Reg.SVX_HIST_ADDR_LO_addr v n) (Reg.SVX_HIST_ADDR_HI_addr v n)
  let raw := if n ≥ 26 then f.words else unpack p f.words
  let hist : Option (List Nat) :=
    if bit f.flags 8 then none
    else if isOverview n then some ((List.range (p.w * p.h)).map fun i => le (c.dramRead (histAt + 2 * i) 2))
    else (c.ctx n).hist
  let cor := p.corrected (c.fpnWord n p.w) raw
  let den := p.denoised hist cor
  let itp := p.interpolated k den
  let tmp := p.temps k (tempEntry tab.1) itp
  let st := p.stats (if p.statAfterNoise then den else cor)
  let feat := if n < 24 then features (c.fxPar n) p.w p.h (k + 1) (!invalidFlags f.flags) p.tempEn (if p.tempEn then tmp else den)
    else Feat.zero
  let o : RunOut := {
    f := { f with words := [] }, doneAt := fin + 500, pgen := c.rd (Reg.SVX_PGEN_active v n)
    fpnGen := c.rd (Reg.SVX_GEN_fpn_gen v n), tempGen := tab.2, w := p.w, h := p.h
    payloads := [u16s raw, u16s cor, u16s den, u16s itp.flatten, u16s tmp, statsBytes st]
    zones := st.map fun s => s.2
    hist := if p.tnrEn && isOverview n then some (histAt, den) else none
    feat := feat }
  let c := { c with fresh := k + 6 }
  modCtx n (fun x => { x with hist := if p.tnrEn && !isOverview n then some den else none }) c
    |> modSieve v (fun s => { s with runs := s.runs ++ [o] })

/-- The temperature table that a run starting now uses, and its generation (R230). -/
def Chip.tempTab (c : Chip) (n : Nat) : Store × Nat := ((c.ctx n).tempAct, c.rd (Reg.SVX_GEN_temp_gen (c.svOf n) n))

/-- A run is counted and shown. -/
def runCount (v n : Nat) (c : Chip) : Chip :=
  inc (Reg.SVA_RUNS_count v) (Reg.SVA_STICKY_sat v) 0 c |> wr (Reg.SVA_STATUS_context v) n

/-- The next run that waits starts, if the pipeline is free within the present beat. -/
def sieveStart (v : Nat) (c : Chip) : Chip :=
  let s := c.sieve v
  let st := max s.busy (c.now * 250)
  match s.waiting with
  | [] => c
  | f :: rest =>
    if st ≥ (c.now + 1) * 250 ∨ !c.shown (sieveDom v) then c
    else
      let n := f.ctx
      let fin := st + ceilDiv (c.ctxW n * c.ctxH n) 4 + 16
      modSieve v (fun s => { s with waiting := rest, busy := fin }) c |> pCopy v n |> fpnCommit v n |> runCount v n
        |> runFrame v n f fin (c.tempTab n)

/-- A line run of an overview context, when a line is there, no run waits and the pipeline is free within the present
beat; the last line of a closed frame completes its run. -/
def ovLine (n : Nat) (c : Chip) : Option Chip :=
  let x := c.ctx n
  let v := x.sieve
  let s := c.sieve v
  let st := max s.busy (c.now * 250)
  let h := c.ctxH n
  let arrived := match x.rx with
    | some r => if bit r.flags 6 then 0 else r.words.length * 32 / (max 1 (c.ctxW n) * c.ctxDepth n)
    | none => 0
  let ready := match x.ovClosed with
    | _ :: _ => decide (x.ovRun < h)
    | [] => decide (x.ovRun + 2 < arrived) || (decide (arrived ≥ h) && decide (x.ovRun < h))
  if !isOverview n || !s.waiting.isEmpty || decide (st ≥ (c.now + 1) * 250) || !ready || !c.shown (sieveDom v) then none
  else
    let first := decide (x.ovRun = 0)
    let tab := c.tempTab n
    let c := if first then fpnCommit v n (pCopy v n c) |> runCount v n |> modCtx n (fun x => { x with ovTab := tab }) else c
    let fin := st + ceilDiv (c.ctxW n) 4 + (if first then 16 else 0)
    some (modSieve v (fun s => { s with busy := fin }) (modCtx n (fun x => { x with ovRun := x.ovRun + 1 }) c))

/-- A closed overview frame whose lines have all run completes. -/
def ovFinish (n : Nat) (c : Chip) : Chip :=
  let x := c.ctx n
  match x.ovClosed with
  | f :: rest =>
    if x.ovRun ≥ c.ctxH n then
      runFrame x.sieve n f (c.sieve x.sieve).busy x.ovTab (modCtx n (fun x => { x with ovClosed := rest, ovRun := 0 }) c)
    else c
  | [] => c

/-- The line runs of a beat. -/
def ovLines (n : Nat) : Nat → Chip → Chip
  | 0, c => c
  | k + 1, c =>
    match ovLine n c with
    | some c => ovLines n k (ovFinish n c)
    | none => ovFinish n c

/-- The zone averages of the latest processed frame (R238). -/
def showZones (v n : Nat) (z : List (List Nat)) (c : Chip) : Chip :=
  let at' (b i : Nat) : Nat := (z.getD b []).getD i 0
  forEach (List.range 64) (fun i c =>
    wr (Reg.SVX_ZONE_band_0 v n i) (at' 0 i) c |> wr (Reg.SVX_ZONE_band_1 v n i) (at' 1 i)
      |> when (decide (z.length > 2)) (wr (Reg.SVX_ZONE2_band_2 v n i) (at' 2 i))) c

/-- The beat by whose opening the results of a frame of a context of the RUNNING job are complete (R224). -/
def Chip.runDeadline (c : Chip) (f : Closed) : Option Nat :=
  if f.ctx ≥ 24 then none else (c.frameDeadline f).map fun d => d - 2

/-- The results of a run are complete (R221, R224, R238, R242, R260). -/
def runDone (v : Nat) (o : RunOut) (c : Chip) : Chip :=
  let n := o.f.ctx
  let c := showZones v n o.zones c
  let c := match o.hist with
    | some (a, l) => dramPut (1 + v) n a (u16s l) c
    | none => c
  let c := match c.runDeadline o.f with
    | some d =>
      if o.doneAt > d * 250 then
        inc (Reg.SVA_LATE_count v) (Reg.SVA_STICKY_sat v) 1 c
          |> ctxEvent 0x0604 n v (min 65535 (ceilDiv (o.doneAt - d * 250) 250)) o.f.seq
      else c
    | none => c
  let c := forEach (List.range 6) (fun k => tapPoint v n k o.f o.pgen o.fpnGen o.tempGen (o.payloads.getD k [])) c
  let c := if n < 24 then
      modCtx n (fun x => { x with deliveries := x.deliveries ++ [⟨o.f, (o.doneAt - 1) / 250 + 2, o.pgen, o.feat⟩] }) c
    else c
  ctxSettle n c

/-- The runs whose results are complete by an FCLK cycle. -/
def sieveDone (v cycle : Nat) (c : Chip) : Chip :=
  let l := (c.sieve v).runs.filter fun o => decide (o.doneAt ≤ cycle)
  let c := modSieve v (fun s => { s with runs := s.runs.filter fun o => decide (o.doneAt > cycle) }) c
  l.foldl (fun c o => runDone v o c) c

/-- The busy bit of a Sieve (R252). -/
def sieveShow (v : Nat) (c : Chip) : Chip :=
  when (c.shown (sieveDom v)) (fun c =>
    wrB (Reg.SVA_STATUS_busy v) (decide ((c.sieve v).busy > c.now * 250)) c |> tapShow v) c

/-- A context's exposure block is given up with its Sieve: no answer to it counts any more. -/
def expGone (n : Nat) (c : Chip) : Chip :=
  modCtx n (fun x => { x with block := none, applyWait := false }) (mailDrop n c)

/-- A Sieve's domain goes off (R250): its contexts stop, runs in progress and tap writes in flight are lost, histories are
cleared, and its set of registers returns to the reset values. -/
def sieveOff (v : Nat) (c : Chip) : Chip :=
  let mine := (List.range 32).filter fun n => c.svOf n == v
  let taps := fun (x : Xfer) => x.req == reqTap && c.svOf x.unit == v
  let c := { c with mem := { c.mem with slm := { c.mem.slm with ready := c.mem.slm.ready.filter fun x => !taps x } } }
  forEach mine (fun n c => ctxKill n 2 c |> modCtx n (fun x => { x with hist := none, restart := true }) |> expGone n) c
    |> forEach (List.range 32) (pReset v) |> modSieve v (fun _ => Sieve.init)

/-- Whether a quiesced Sieve has finished its runs and tap writes (R250). -/
def Chip.sieveDrained (c : Chip) (v : Nat) : Bool :=
  let s := c.sieve v
  s.waiting.isEmpty && s.runs.isEmpty && decide (c.tapFill v = 0) &&
    !(List.range 32).any fun n => c.svOf n == v && !(c.ctx n).ovClosed.isEmpty

end Sys2Proof.Machine
end

