-- ==== Sys2Proof/Machine/Tables.lean ====
section
/-! DEFINITION. Semaphores (03_serair_commands.md, R100–R102) and the commits of correction and temperature tables
(04_furrows.md, R124). -/

namespace Sys2Proof.Machine

open Sys2Proof

/-- A semaphore. -/
def Chip.sem (c : Chip) (k : Nat) : Sem := c.host.sems.getD k ⟨0, 0, false⟩

/-- Change one semaphore. -/
def modSem (k : Nat) (f : Sem → Sem) (c : Chip) : Chip :=
  { c with host := { c.host with sems := modAt c.host.sems k f } }

/-- Whether a request that is being carried out has had DEFERRED already (R60). -/
def Chip.late (c : Chip) (o : Origin) : Bool :=
  (c.session o.slot.val).seqs.any fun r => r.seq == o.seq.toNat && r.st == 1 && r.status == 0x08

/-- The waiter for the reply of the request that is being carried out. -/
def Chip.waiter (c : Chip) (o : Origin) (op : Nat) : Waiter := waiterOf o op (c.late o) c

/-! ### Commits -/

/-- Change the list of commits. -/
def modCommits (f : List Commit → List Commit) (c : Chip) : Chip :=
  { c with host := { c.host with commits := f c.host.commits } }

/-- Whether a commit is that of a table. -/
def Commit.of (kind inst : Nat) (k : Commit) : Bool := k.kind == kind && k.inst == inst

/-- The registers that show whether a commit waits. -/
def commitShow (kind inst : Nat) (c : Chip) : Chip :=
  if kind = 0 then
    wrB (Reg.FUR_GRID_commit_pending inst) (c.host.commits.any fun k => k.of 0 inst && !k.begun) c
  else genShow inst c

/-- Whether a semaphore is free for a commit: free, held by the cores themselves, or by a session that asked for the
commit (R101, R124). -/
def Chip.semOpen (c : Chip) (k : Commit) : Bool :=
  let s := c.sem k.kind
  s.cls == 0 || s.cls == 1 || k.waiters.any fun w => w.o.slot.val == s.owner

/-- The copy of a table's shadow begins, under the cores' own hold where the semaphore is free; or it waits for the
semaphore. -/
def commitBegin (k : Commit) (c : Chip) : Chip :=
  if c.semOpen k then
    modCommits (fun l => l.map fun x => if x.of k.kind k.inst then { x with begun := true } else x) c
      |> when ((c.sem k.kind).cls == 0) (modSem k.kind fun _ => ⟨1, 0, false⟩)
      |> commitShow k.kind k.inst
  else modCommits (fun l => l.map fun x => if x.of k.kind k.inst then { x with bySem := true } else x) c

/-- The commits that wait are carried out where the condition allows. -/
def commitsBegin (p : Commit → Bool) (c : Chip) : Chip :=
  forEach (c.host.commits.filter fun k => !k.begun && p k) commitBegin c

/-- A semaphore has been released (R124): the commits that wait for it are carried out, or wait for the next JOB_START. -/
def semReleased (k : Nat) (c : Chip) : Chip :=
  if c.running.isSome then
    modCommits (fun l => l.map fun x => if x.kind = k then { x with bySem := false } else x) c
  else commitsBegin (fun x => x.kind == k && x.bySem) c

/-- A semaphore goes free; `broken`: its owner ended before releasing it (R102). -/
def semFree (broken : Bool) (k : Nat) (c : Chip) : Chip :=
  let s := c.sem k
  modSem k (fun s => ⟨0, 0, s.broken || broken⟩) c
    |> when broken (log 0x0B40 k (u8 k ++ u8 s.cls ++ u16 s.owner ++ u32 0)) |> semReleased k

/-- Every semaphore of an owner is released broken; the number released. -/
def semsBroken (cls owner : Nat) (c : Chip) : Nat × Chip :=
  let l := (List.range 64).filter fun k => (c.sem k).cls == cls && (c.sem k).owner == owner
  (l.length, forEach l (semFree true) c)

/-- Who waits is answered. -/
def commitAnswer (a : Ans) (k : Commit) (c : Chip) : Chip := forEach k.waiters (fun w => finish w a) c

/-- A commit ends (R124): the shadow is active. -/
def commitDone (kind inst : Nat) (c : Chip) : Chip :=
  match c.host.commits.find? fun k => k.of kind inst && k.begun with
  | none => c
  | some k =>
    let c := modCommits (fun l => l.filter fun x => !x.of kind inst) c
    let c :=
      if kind = 0 then
        let g := c.beam.grids.getD inst ⟨[], []⟩
        let job := ((c.running.orElse fun _ => c.admitted).map fun j => if j.start.isSome then j.id else 0).getD 0
        modGrid inst (fun g => { g with active := g.shadow }) c
          |> wrB (Reg.FUR_GRID_active_valid inst) (bit ((assocGet 0x3FFFC g.shadow).getD 0) 0)
          |> incSat (Reg.FUR_GRID_commit_count inst) |> log 0x0305 inst (u8 inst ++ u8 0 ++ u16 0 ++ u32 job)
      else
        let t := c.window (0x01900000 + inst * 0x2000) 0x2000
        let v := c.svOf inst
        modCtx inst (fun x => { x with tempAct := t }) c |> when (c.on (sieveDom v)) (incWrap (Reg.SVX_GEN_temp_gen v inst))
    let more := c.host.commits.any fun x => x.kind == kind && x.begun
    let c := when (decide ((c.sem kind).cls = 1) && !more) (semFree false kind) c
    commitAnswer (done []) k c |> commitShow kind inst |> calCount (5 + kind)

/-- Commits end refused because of a domain; the semaphores stay as they are. -/
def commitsDrop (p : Commit → Bool) (d : Nat) (c : Chip) : Chip :=
  let l := c.host.commits.filter p
  forEach l (commitAnswer (domainOff d)) (modCommits (fun l => l.filter fun k => !p k) c)

/-- Commits of tables whose domain goes off end refused. -/
def commitsOff (p : Commit → Bool) (d : Nat) (c : Chip) : Chip :=
  let c := commitsDrop p d c
  forEach [0, 1] (fun kind c =>
    when (decide ((c.sem kind).cls = 1) && !(c.host.commits.any fun x => x.kind == kind && x.begun)) (semFree false kind) c) c

/-- The domain of a table (R122, R237): a grid lies in its channel's, a temperature table in PD_FABRIC. -/
def tableDom (kind inst : Nat) : Nat := if kind = 0 then chanDom inst else pdFABRIC

/-- TABLE_COMMIT carried out: it joins the commit that waits or is under way, or makes one. -/
def tableCommit (o : Origin) (kind inst : Nat) (c : Chip) : Option Ans × Chip :=
  let w := c.waiter o 0xB2
  if !c.on (tableDom kind inst) then (some (domainOff (tableDom kind inst)), c)
  else
    let add (w : Waiter) (c : Chip) : Chip :=
      if c.host.commits.any (Commit.of kind inst) then
        modCommits (fun l => l.map fun k => if k.of kind inst then { k with waiters := k.waiters ++ [w] } else k) c
      else modCommits (fun l => l ++ [⟨kind, inst, false, false, [w]⟩]) c
    let d := add w c
    let d := if c.running.isSome then d else commitsBegin (fun k => k.of kind inst) d
    if d.host.commits.any fun k => k.of kind inst && k.begun then (none, commitShow kind inst d)
    else (some deferred, commitShow kind inst (modCommits (fun l => l.map fun k =>
      { k with waiters := k.waiters.map fun x => if x.o = o then { x with late := true } else x }) d))

/-- The parameter form of TABLE_COMMIT: kind 0 or 1, an instance that exists. -/
def commitForm (kind inst : Nat) : Option Nat :=
  if kind ≥ 2 then some 0 else if inst ≥ (if kind = 0 then 24 else 32) then some 1 else none

/-- TABLE_COMMIT (R93, R124). -/
def execTableCommit (o : Origin) (kind inst : BitVec 8) (s : State) : Host.Outcome State Fault Refusal :=
  runs (serve o 0xB2 2 (.tableCommit o kind inst) (commitForm kind.toNat inst.toNat) []
    (tableCommit o kind.toNat inst.toNat)) s

/-- TABLE_COMMIT_DONE (R37, R124): a copy that has begun ends. -/
def execTableCommitDone (kind : Fin 2) (inst : Fin 32) (s : State) : Host.Outcome State Fault Refusal :=
  runs (commitDone kind.val inst.val) s

/-! ### Semaphore commands (R89, R100–R102) -/

/-- Whether a session holds a semaphore. -/
def Chip.semMine (c : Chip) (k slot : Nat) : Bool := (c.sem k).cls == 2 && (c.sem k).owner == slot

/-- SEM_ACQUIRE: it never waits. -/
def cmdSemAcquire (o : Origin) (sem : BitVec 8) : Chip → Chip :=
  let k := sem.toNat
  serve o 0x18 (if k < 2 then 2 else 1) (.semAcquire o sem)
    (if k ≥ 64 ∨ (3 ≤ k ∧ k ≤ 7) then some 0 else none) [pdFABRIC] <| now fun c =>
      let s := c.sem k
      if s.cls ≠ 0 then (refuse 0x16 s.cls s.owner 0, c)
      else (done (toBE 1 (b2n s.broken) ++ toBE 3 0), modSem k (fun _ => ⟨2, o.slot.val, false⟩) c)

/-- SEM_ACQUIRE. -/
def execSemAcquire (o : Origin) (sem : BitVec 8) (s : State) : Host.Outcome State Fault Refusal := runs (cmdSemAcquire o sem) s

/-- SEM_RELEASE: by the owner only. -/
def cmdSemRelease (o : Origin) (sem : BitVec 8) : Chip → Chip :=
  let k := sem.toNat
  serve o 0x19 1 (.semRelease o sem) (if k ≥ 64 then some 0 else none) [pdFABRIC] <| now fun c =>
    if c.semMine k o.slot.val then (done [], semFree false k c) else (refuse 0x16 (c.sem k).cls (c.sem k).owner 0, c)

/-- SEM_RELEASE. -/
def execSemRelease (o : Origin) (sem : BitVec 8) (s : State) : Host.Outcome State Fault Refusal := runs (cmdSemRelease o sem) s

/-- SEM_STATUS. -/
def cmdSemStatus (o : Origin) : Chip → Chip :=
  serve o 0x1A 1 (.semStatus o) none [pdFABRIC] <| tell fun c =>
    done (c.host.sems.flatMap fun s => toBE 1 s.cls ++ toBE 1 s.owner ++ toBE 1 (b2n s.broken) ++ toBE 1 0)

/-- SEM_STATUS. -/
def execSemStatus (o : Origin) (s : State) : Host.Outcome State Fault Refusal := runs (cmdSemStatus o) s

end Sys2Proof.Machine
end

