-- ==== Sys2Proof/Machine/Kettle.lean ====
section
/-! DEFINITION. The Kettle (12_kettle_array.md, R349–R369, R371): chain timing, swaps, latches, lines and returns,
with the commands KT_ENABLE, KT_SWAP and KT_STATUS. The bed-temperature loop is in KettleLoop.lean. -/

namespace Sys2Proof.Machine

open Sys2Proof

/-- Change the Kettle. -/
def modKt (f : Kettle → Kettle) (c : Chip) : Chip := { c with kt := f c.kt }

/-- KCK cycles per beat (R351). -/
def Chip.ktK (c : Chip) : Nat :=
  match c.rd Reg.KT_CTL_kck with
  | 0 => 25
  | 1 => 10
  | _ => 5

/-- The PWM width w (R352). -/
def Chip.ktW (c : Chip) : Nat := 8 + 2 * c.rd Reg.KT_CTL_width

/-- L_b for given settings (R353). -/
def ktLineBeats (w p blank k : Nat) : Nat := ceilDiv (2 ^ w * (p + 1) + blank) k

/-- L_b (R353). -/
def Chip.ktLb (c : Chip) : Nat := ktLineBeats c.ktW (c.rd Reg.KT_LINE_pdiv) (c.rd Reg.KT_LINE_blank) c.ktK

/-- L_d, the bits of one down record (R355). -/
def Chip.ktLd (c : Chip) : Nat := 96 + 256 * c.ktW

/-- S_f, the beats that a frame shift spans (R363). -/
def Chip.ktSf (c : Chip) : Nat := ceilDiv (32 * c.ktLd) (2 * c.ktK)

/-- The KCK cycle of beat λ − S_f at which the shift for λ starts (R363). -/
def Chip.ktShiftCycle (c : Chip) : Nat := c.ktSf * c.ktK - 16 * c.ktLd

/-- KT_LINE_BEATS and KT_SHIFT_BEATS follow the settings. -/
def ktDerive (c : Chip) : Chip := wr Reg.KT_LINE_BEATS_beats c.ktLb c |> wr Reg.KT_SHIFT_BEATS_beats c.ktSf

/-- The stream of kind 2 that the RUNNING job declares (R56, R363). -/
def Chip.ktStream (c : Chip) : Option StreamEntry :=
  match c.running with
  | some j => j.streams.find? fun e => e.kind == 2
  | none => none

/-- T_r, the beats that the read of a frame takes (R363). -/
def Chip.ktTr (c : Chip) : Nat :=
  let r := match c.ktStream with
    | some e => e.rate
    | none => c.rd Reg.KT_RD_NOM_rate
  ceilDiv (540736 * 4000) (max 1 r)

/-- The DRAM address of a frame buffer. -/
def Chip.ktBuf (c : Chip) (k : Nat) : Nat :=
  if k = 0 then c.rdAddr Reg.KT_BUF0_LO_addr Reg.KT_BUF0_HI_addr else c.rdAddr Reg.KT_BUF1_LO_addr Reg.KT_BUF1_HI_addr

/-- Chains that run: enabled and not faulted (R360, R368). -/
def Chip.ktRunning (c : Chip) : Nat :=
  maskOf ((bitList 32 (c.rd Reg.KT_CHAINS_mask)).filter fun k => !bit (c.rd Reg.KT_FAULT_mask) k)

/-- KT_STATUS.phase and swap_pending follow the swap and the refresh (R363, R365). -/
def ktPhase (c : Chip) : Chip :=
  let ph := match c.kt.swap with
    | some w => if w.shifting then 2 else if w.reading && !w.readDone then 1 else 3
    | none => if c.kt.refresh.isSome then 4 else 0
  wr Reg.KT_STATUS_phase ph c |> wrB Reg.KT_STATUS_swap_pending c.kt.swap.isSome

/-- The cores' hold of semaphore 2 ends with the swap (R101); no commit waits for that semaphore. -/
def ktSemFree (c : Chip) : Chip :=
  when ((c.sem 2).cls == 1 && (c.sem 2).owner == 0) (modSem 2 fun s => ⟨0, 0, s.broken⟩) c

/-- A swap ends without a latch. -/
def ktSwapEnd (c : Chip) : Chip := modKt (fun k => { k with swap := none }) c |> ktSemFree |> ktPhase

/-- The swap of the inactive buffer (R363): the earliest latch beat, or a later one asked for. The cores swap under the
hold of the session that asks, or take semaphore 2 themselves until the swap ends (R101; DEDUCED, log entry 69). -/
def ktSwap (want : Nat) (c : Chip) : Nat × Chip :=
  let a := c.now
  let early := a + 4 + c.ktTr + c.ktSf
  let lam := if want < early then early else want
  let buf := 1 - c.rd Reg.KT_STATUS_active
  let w : KtSwap := ⟨a, buf, lam - c.ktSf - c.ktTr, lam, false, false, false, [], 0⟩
  (lam, modKt (fun k => { k with swap := some w, refresh := none }) c
    |> when ((c.sem 2).cls == 0) (modSem 2 fun _ => ⟨1, 0, false⟩)
    |> wr2 Reg.KT_NEXT_LO_beat Reg.KT_NEXT_HI_beat lam |> ktPhase)

/-- The Kettle's requester number at the Memory Sluice (R394). -/
abbrev reqKet : Nat := 6

/-- The read of the buffer starts (R363): its transfers go before the Memory Sluice. -/
def ktReadStart (c : Chip) : Chip :=
  match c.kt.swap with
  | some w =>
    if w.reading = false ∧ w.readAt ≤ c.now then
      let base := c.ktBuf w.buf
      let xs := (List.range 8449).map fun k => (⟨reqKet, 0, false, base + 64 * k, [], c.now⟩ : Xfer)
      let c := { c with mem := { c.mem with slm := { c.mem.slm with ready := c.mem.slm.ready ++ xs } } }
      modKt (fun k => { k with swap := some { w with reading := true } }) c |> ktPhase
    else c
  | none => c

/-- The clamped tile record, and the number of its cells that were clamped (R362). -/
def ktClampTile (cur duty w : Nat) (l : List Byte) : List Byte × Nat :=
  let s := 16 - w
  let cells := (List.range 256).map fun e => leAt l (16 + 2 * e) 2
  let cl := cells.map fun v => min (v >>> s) (duty >>> s)
  let n := (cells.zip cl).countP fun p => p.1 >>> s != p.2
  let c0 := leAt l 0 1
  (toLE 1 (min c0 cur) ++ slice l 1 15 ++ cl.flatMap (fun v => toLE 2 (v <<< s)),
    n)

/-- A frame clamped to the envelope (R362): its tile records, whether anything was clamped, the cells clamped. -/
def ktClamp (cur duty w : Nat) (l : List Byte) : List Byte × Bool × Nat :=
  let ts := (List.range 1024).map fun t => slice l (64 + t * 528) 528
  let rs := ts.map (ktClampTile cur duty w)
  (rs.flatMap (fun r => r.1), ts.any (fun t => decide (leAt t 0 1 > cur)) || rs.any (fun r => decide (r.2 > 0)),
    rs.foldl (fun n r => n + r.2) 0)

/-- The transfers of the Kettle leave the Memory Sluice and the DRAM queues. -/
def ktXfersGone (c : Chip) : Chip :=
  let keep (x : Xfer) : Bool := x.req != reqKet
  { c with mem := { c.mem with
      slm := { c.mem.slm with ready := c.mem.slm.ready.filter keep }
      ch := c.mem.ch.map fun h => { h with rq := h.rq.filter keep } } }

/-- The shift of the frame starts within beat λ − S_f (R363). -/
def ktShiftStart (c : Chip) : Chip :=
  match c.kt.swap with
  | some w =>
    if w.readDone ∧ w.shifting = false ∧ w.lam ≤ c.now + c.ktSf then
      modKt (fun k => { k with swap := some { w with shifting := true } }) c |> ktPhase
    else c
  | none => c

/-- The first beat whose shift can start once a read has completed at an FCLK cycle of the present beat (R364). -/
def Chip.ktFirstLatch (c : Chip) (cycle : Nat) : Nat :=
  c.now + c.ktSf + if cycle ≤ c.ktShiftCycle * (250 / c.ktK) then 0 else 1

/-- The frame has been read at an FCLK cycle (R362–R364): checked, clamped, and its latch kept or moved. -/
def ktReadDone (ok : Bool) (cycle : Nat) (c : Chip) : Chip :=
  match c.kt.swap with
  | some w =>
    if w.reading ∧ w.readDone = false then
      let c := ktXfersGone c
      if !ok || !c.dramOk (c.ktBuf w.buf) 540736 then ktSwapEnd c
      else
        let l := c.dramRead (c.ktBuf w.buf) 540736
        let fid := leAt l 4 4
        let cause := if leAt l 0 4 ≠ 0x3146544B then 1
          else if crc32c (slice l 0 60 ++ l.drop 64) ≠ leAt l 60 4 then 2 else 0
        if cause ≠ 0 then
          inc Reg.KT_CRC_FAIL_count Reg.KT_STICKY_sat 3 c
            |> log 0x0902 0 (u8 w.buf ++ u8 cause ++ u16 0 ++ u32 fid) |> ktSwapEnd
        else
          let r := ktClamp (c.rd Reg.KT_ENV_cur_max) (c.rd Reg.KT_ENV_duty_max) c.ktW l
          let c := when r.2.1 (fun c => inc Reg.KT_CLAMPS_count Reg.KT_STICKY_sat 2 c
            |> log 0x0907 0 (u8 w.buf ++ u8 0 ++ u16 (satU 16 r.2.2) ++ u32 fid)) c
          let lam := max w.lam (c.ktFirstLatch cycle)
          let c := when (decide (lam > w.lam)) (fun c => inc Reg.KT_LATE_count Reg.KT_STICKY_sat 1 c
            |> wr2 Reg.KT_NEXT_LO_beat Reg.KT_NEXT_HI_beat lam
            |> log 0x0901 0 (u16 (satU 16 (lam - w.lam)) ++ u16 0 ++ beat32 lam)) c
          modKt (fun k => { k with swap := some { w with readDone := true, lam := lam, frame := r.1, fid := fid } }) c
            |> ktPhase |> ktShiftStart
    else c
  | none => c

/-- The refresh: the frame store is shifted again (R365). -/
def ktRefresh (c : Chip) : Chip :=
  let ms := c.rd Reg.KT_REFRESH_ms
  match c.kt.latched with
  | some b =>
    if c.kt.swap = none ∧ c.kt.refresh = none ∧ ms ≠ 0 ∧ b + ms * 4000 ≤ c.now ∧ c.ktRunning ≠ 0 then
      modKt (fun k => { k with refresh := some (c.now + c.ktSf) }) c |> ktPhase
    else c
  | none => c

/-- The next line-cycle start at or after a beat (R354, R366). -/
def Chip.ktCycleStart (c : Chip) (b : Nat) : Option Nat :=
  match c.kt.lineBase with
  | some b0 => let n := 16 * c.ktLb; some (b0 + ceilDiv (b - b0) (max 1 n) * n)
  | none => none

/-- Every chain that took part in a latch without a bad return ends its run of bad latches (R360). -/
def ktRunsEnd (c : Chip) : Chip :=
  forEach (bitList 32 c.kt.part) (fun k c => when (!bit c.kt.bad k) (wr (Reg.KT_CH_STATUS_bad_run k) 0) c) c

/-- All running chains latch (R363, R366). -/
def ktLatch (c : Chip) : Chip :=
  let due := match c.kt.swap with
    | some w => w.shifting && decide (w.lam ≤ c.now)
    | none =>
      match c.kt.refresh with
      | some b => decide (b ≤ c.now)
      | none => false
  if due then
    let c := ktRunsEnd c
    let c := inc Reg.KT_LATCHES_count Reg.KT_STICKY_sat 0 c
      |> wr2 Reg.KT_LATCH_LO_beat Reg.KT_LATCH_HI_beat c.now
    let c := match c.kt.swap with
      | some w => modKt (fun k => { k with store := w.frame }) c |> ktSemFree |> wr Reg.KT_STATUS_active w.buf
          |> wr Reg.KT_FRAME_ID_value w.fid
      | none => c
    modKt (fun k => { k with swap := none, refresh := none, seq := k.seq + 1, latched := some c.now,
                             part := c.ktRunning, bad := 0, align := [], effective := c.ktCycleStart c.now }) c |> ktPhase
  else c

/-- The next line starts (R354); line 0 is the line-cycle start, at which latched values take effect (R366). -/
def ktLineStart (c : Chip) : Chip :=
  match c.kt.lineBase with
  | some b0 =>
    if b0 + c.kt.lines * c.ktLb ≤ c.now ∧ c.ktRunning ≠ 0 then
      let l := c.kt.lines % 16
      modKt (fun k => { k with lines := k.lines + 1, line := l, effective := if l = 0 then none else k.effective }) c
    else c
  | none => c

/-- At a beat opening chains start and stop (R354, R368): the first chain after every chain was off starts the
line cycles. -/
def ktChains (c : Chip) : Chip :=
  let run := c.ktRunning
  let c := forEach (List.range 32) (fun k c => wrB (Reg.KT_CH_STATUS_enabled k) (bit run k) c) c
  if run = 0 then modKt (fun k => { k with lineBase := none, lines := 0, line := 0, effective := none }) c
  else if c.kt.lineBase.isNone then modKt (fun k => { k with lineBase := some c.now, lines := 0 }) c
  else c

/-- A chain faults: its signals stop low (R360). -/
def ktChainFault (k : Nat) (c : Chip) : Chip :=
  wr Reg.KT_FAULT_mask (withBit (c.rd Reg.KT_FAULT_mask) k true) c |> wr (Reg.KT_CH_STATUS_fault k) 1
    |> wr (Reg.KT_CH_STATUS_enabled k) 0
    |> log 0x0906 k (u8 k ++ u8 (c.rd (Reg.KT_CH_STATUS_bad_run k)) ++ u16 0 ++ beat32 c.now)

/-- A bad or down_err return counts once for its chain and latch (R360). -/
def ktBadLatch (k : Nat) (c : Chip) : Chip :=
  if bit c.kt.bad k then c
  else
    let c := modKt (fun t => { t with bad := withBit t.bad k true }) c |> incSat (Reg.KT_CH_STATUS_bad_run k)
    if c.rd (Reg.KT_CH_STATUS_bad_run k) ≥ c.rd Reg.KT_CTL_err_limit then ktChainFault k c else c

/-- A good return record updates the tile's registers (R358, R359, R371). -/
def ktGood (t : Nat) (r : List Byte) (c : Chip) : Chip :=
  let w (i : Nat) : Nat := beAt r (4 * i) 4
  let old := c.rd (Reg.KT_TILE_EMIT_word t)
  let temp := bits (w 1) 31 16
  let opens := bits (w 1) 15 8
  let shorts := bits (w 1) 7 0
  let o0 := bits old 15 8
  let s0 := bits old 7 0
  let alarm := c.rdS Reg.KT_TEMP_ALARM_temp
  let c := wr (Reg.KT_TILE_STAT_word t) (bits temp 15 8 * 2 ^ 24 + bits (w 0) 23 0) c
    |> wr (Reg.KT_TILE_EMIT_word t) (w 1)
    |> forEach (List.range 8) (fun k c => wr (Reg.KT_TILE_OPEN_map t k) (w (2 + k)) c
        |> wr (Reg.KT_TILE_SHORT_map t k) (w (10 + k)))
    |> wr Reg.KT_OPEN_TOTAL_value (c.rd Reg.KT_OPEN_TOTAL_value + opens - o0)
    |> wr Reg.KT_SHORT_TOTAL_value (c.rd Reg.KT_SHORT_TOTAL_value + shorts - s0)
  when (decide (opens > o0)) (log 0x0903 t (u16 t ++ u8 opens ++ u8 0 ++ beat32 c.now)) c
    |> when (decide (shorts > s0)) (log 0x0904 t (u16 t ++ u8 shorts ++ u8 0 ++ beat32 c.now))
    |> when (decide (s16 temp > alarm) && !decide (s16 (bits old 31 16) > alarm))
        (log 0x0905 t (u16 t ++ u16 temp ++ beat32 c.now))

/-- The bit times after which a return magic first stands on a line of L_d + 16 bits (R359). -/
def Chip.ktAlign (c : Chip) (line : Nat) : Option Nat :=
  (List.range 17).find? fun o => line / 2 ^ (c.ktLd + 8 - o) % 256 == 0x3C

/-- Whether the return stream still runs: the 32 × L_d bit times after the latch (R359). -/
def Chip.ktReturning (c : Chip) : Bool := c.kt.latched.any fun b => decide (c.now ≤ b + c.ktSf)

/-- A return record has come in on a chain that took part in the last latch (R359, R360): the L_d bits of its place in
the stream and the 16 after them. Driver 31's, the first of the stream, aligns the chain. A good record updates its
tile's registers 1 beat on. -/
def ktReturn (k d : Nat) (line : List Byte) (c : Chip) : Chip :=
  if bit c.kt.part k && c.flag (Reg.KT_CH_STATUS_enabled k) && c.ktReturning then
    let n := c.ktLd / 8
    let x := be ((line ++ List.replicate (n + 2) 0).take (n + 2))
    let c := match if d = 31 then c.ktAlign x else none with
      | some o => modKt (fun t => { t with align := assocPut k o t.align }) c
      | none => c
    let r := (assocGet k c.kt.align).map fun o => toBE n (x / 2 ^ (16 - o))
    match r.filter fun r => beAt r 0 1 == 0x3C && beAt r (n - 4) 4 == crc32c (r.take (n - 4)) &&
        beAt r 3 1 == c.kt.seq % 256 with
    | none => inc (Reg.KT_CH_BAD_count k) (Reg.KT_CH_STICKY_sat k) 0 c |> ktBadLatch k
    | some r =>
      let c := modKt (fun t => { t with arrived := t.arrived ++ [(c.now + 1, k * 32 + d, r)] }) c
      if bit (beAt r 0 4) 20 then inc (Reg.KT_CH_DOWNERR_count k) (Reg.KT_CH_STICKY_sat k) 1 c |> ktBadLatch k else c
  else c

/-- The good return records whose beat has come show on their tiles' registers (R359). -/
def ktArrive (c : Chip) : Chip :=
  let due (x : Nat × Nat × List Byte) : Bool := decide (x.1 ≤ c.now)
  forEach (c.kt.arrived.filter due) (fun x => ktGood x.2.1 x.2.2)
    (modKt (fun k => { k with arrived := k.arrived.filter fun x => !due x }) c)

/-! ### What the chains carry (R350, R354, R355) -/

/-- A down record (R355) of a tile record: width code, w, p, latch sequence. -/
def ktDownRecord (width w p seq : Nat) (tile : List Byte) : List Byte :=
  let cells := (List.range 256).foldl (fun a e => a * 2 ^ w + leAt tile (16 + 2 * e) 2 / 2 ^ (16 - w)) 0
  let head := [0xC7, leAt tile 0 1, width * 32 + leAt tile 1 1 % 2 * 16, seq % 256,
    leAt tile 2 1, leAt tile 3 1, leAt tile 4 1, p]
  let body := head.flatMap (toBE 1) ++ toBE (32 * w) cells
  body ++ toBE 4 (crc32c body)

/-- The tile records that are being shifted, and the beat of their latch (R363, R365). -/
def Chip.ktSending (c : Chip) : Option (List Byte × Nat) :=
  match c.kt.swap with
  | some w => if w.shifting then some (w.frame, w.lam) else none
  | none => c.kt.refresh.map fun b => (c.kt.store, b)

/-- The bit on KDA of a chain in a bit time of the present beat, two of which fall in a KCK cycle: the 32 down records
end at the KLE rise, driver 31's first (R355). -/
def Chip.ktKda (c : Chip) (k j : Nat) : Bool :=
  match c.ktSending with
  | some (frame, lam) =>
    let all := 32 * c.ktLd
    let past := c.now * (2 * c.ktK) + j + all
    let stop := lam * (2 * c.ktK)
    if past < stop ∨ stop + all ≤ past then false
    else
      let i := past - stop
      let t := k * 32 + 31 - i / c.ktLd
      let r := ktDownRecord (c.rd Reg.KT_CTL_width) c.ktW (c.rd Reg.KT_LINE_pdiv) (c.kt.seq + 1) (slice frame (t * 528) 528)
      let b := i % c.ktLd
      bit (beAt r (b / 8) 1) (7 - b % 8)
  | none => false

/-- Whether a line opens with the present beat, and which. -/
def Chip.ktLineOpens (c : Chip) : Option Nat :=
  match c.kt.lineBase with
  | some b0 => if c.kt.lines ≠ 0 ∧ b0 + (c.kt.lines - 1) * c.ktLb = c.now then some c.kt.line else none
  | none => none

/-- The outputs of a chain beside its clock (R350): data, latch and line start. -/
structure KtPins where
  kda : Bool
  kle : Bool
  kls : Bool
  deriving DecidableEq, Repr

/-- The outputs of a chain in a bit time of the present beat (R354, R355, R360, R368): low while it does not run; KLE for
cycle 0 of a latch beat; KLS from cycle 1 of the beat that opens a line, for 2 cycles when it is line 0. -/
def Chip.ktPins (c : Chip) (k j : Nat) : KtPins :=
  if !c.alive pdKETTLE || !c.flag (Reg.KT_CH_STATUS_enabled k) then ⟨false, false, false⟩
  else
    let kls := match c.ktLineOpens with
      | some l => j / 2 == 1 || (l == 0 && j / 2 == 2)
      | none => false
    ⟨c.ktKda k j, bit c.kt.part k && c.kt.latched == some c.now && j / 2 == 0, kls⟩

/-- The Kettle is frozen (R61, R367): a pending swap ends; refreshes continue from the frame store. -/
def ktFreeze (c : Chip) : Chip :=
  wr Reg.KT_STATUS_frozen 1 (ktXfersGone c) |> when (!(c.kt.swap.any fun w => w.shifting)) ktSwapEnd

/-- Quiescing PD_KETTLE abandons any shift in progress (R369). -/
def ktQuiesce (c : Chip) : Chip := modKt (fun k => { k with refresh := none }) (ktXfersGone c) |> ktSwapEnd

/-- PD_KETTLE is off: the engine's state is lost (R368, R369). -/
def ktOff (c : Chip) : Chip := { ktSemFree (ktXfersGone c) with kt := Kettle.init }

/-! ### Commands -/

/-- KT_ENABLE (R368). -/
def execKtEnable (o : Origin) (chains : BitVec 32) (on : BitVec 8) (s : State) : Host.Outcome State Fault Refusal :=
  let m := chains.toNat
  runs (serve o 0x70 1 (.ktEnable o chains on) (if on.toNat ≥ 2 then some 4 else none) [pdKETTLE] <| now fun c =>
    if on.toNat = 0 then
      (done [], wr Reg.KT_CHAINS_mask (maskOf ((bitList 32 (c.rd Reg.KT_CHAINS_mask)).filter fun k => !bit m k)) c)
    else if !c.flag Reg.SEC_STATUS_env_loaded then
      (refuse 0x15 0 ((bitList 32 m).headD 0) 0, c)
    else
      (done [], wr Reg.KT_CHAINS_mask (c.rd Reg.KT_CHAINS_mask ||| m) c
        |> wr Reg.KT_FAULT_mask (maskOf ((bitList 32 (c.rd Reg.KT_FAULT_mask)).filter fun k => !bit m k))
        |> forEach (bitList 32 m) fun k c => wr (Reg.KT_CH_STATUS_fault k) 0 c |> wr (Reg.KT_CH_STATUS_bad_run k) 0)) s

/-- Whether semaphore 2 is held by another owner than a session (R101). -/
def Chip.sem2Held (c : Chip) (slot : Nat) : Bool := (c.sem 2).cls != 0 && !c.semMine 2 slot

/-- KT_SWAP (R363, R367, R101). -/
def execKtSwap (o : Origin) (beat : BitVec 64) (s : State) : Host.Outcome State Fault Refusal :=
  runs (serve o 0x71 1 (.ktSwap o beat) none [pdKETTLE] <| now fun c =>
    if c.flag Reg.KT_STATUS_frozen then (refuse 0x18 0 0 0, c)
    else if c.kt.swap.isSome || c.flag Reg.KT_STATUS_loop_on || c.sem2Held o.slot.val then
      (badState (c.rd Reg.KT_STATUS_phase) 0, c)
    else
      let r := ktSwap beat.toNat c
      (done (toBE 8 r.1), r.2)) s

/-- KT_STATUS (R92). -/
def cmdKtStatus (o : Origin) : Chip → Chip :=
  serve o 0x73 1 (.ktStatus o) none [pdKETTLE] <| tell fun c =>
    done (toBE 1 (c.rd Reg.KT_STATUS_active) ++ toBE 1 (c.rd Reg.KT_STATUS_loop_on) ++ toBE 2 0 ++
      toBE 4 (c.rd Reg.KT_FAULT_mask) ++ toBE 4 (c.rd Reg.KT_OPEN_TOTAL_value) ++
      toBE 4 (c.rd Reg.KT_SHORT_TOTAL_value))

/-- KT_STATUS. -/
def execKtStatus (o : Origin) (s : State) : Host.Outcome State Fault Refusal := runs (cmdKtStatus o) s

/-- Kettle activity happens only while PD_KETTLE is on. -/
def ktDo (f : Chip → Chip) (c : Chip) : Chip := when (c.alive pdKETTLE) f c

/-- KT_READ_START (R363). -/
def execKtReadStart (s : State) : Host.Outcome State Fault Refusal := runs (ktDo ktReadStart) s
/-- KT_READ_DONE (R362–R364). -/
def execKtReadDone (ok : Bool) (s : State) (ns : Fin 499 := 0) : Host.Outcome State Fault Refusal :=
  runs (ktDo (ktReadDone ok ns.val)) s
/-- KT_SHIFT_START (R363). -/
def execKtShiftStart (s : State) : Host.Outcome State Fault Refusal := runs (ktDo ktShiftStart) s
/-- KT_LATCH (R366). -/
def execKtLatch (s : State) : Host.Outcome State Fault Refusal := runs (ktDo ktLatch) s
/-- KT_REFRESH (R365). -/
def execKtRefresh (s : State) : Host.Outcome State Fault Refusal := runs (ktDo ktRefresh) s
/-- KT_LINE_START (R354). -/
def execKtLineStart (s : State) : Host.Outcome State Fault Refusal := runs (ktDo ktLineStart) s
/-- KT_RETURN_RECORD (R359, R360). -/
def execKtReturnRecord (chain tile : Fin 32) (line : List Byte) (s : State) : Host.Outcome State Fault Refusal :=
  runs (ktDo (ktReturn chain.val tile.val line)) s

end Sys2Proof.Machine
end

