-- ==== Sys2Proof/Machine/Ladle.lean ====
section
/-! DEFINITION. The Ladle engines (09_ladle_engines.md, R269–R295): when samples are taken, what they apply to, the host's
switches, readiness, spills. -/

namespace Sys2Proof.Machine

open Sys2Proof

/-- Whether a loop takes samples: it is neither OFF, STOPPED nor in FAULT (R292, R293). -/
def Chip.loopRuns (c : Chip) (n l : Nat) : Bool :=
  let st := c.rd (Reg.LAD_STATE_state n l)
  c.alive (chanDom n) && decide (1 ≤ st) && decide (st ≤ 4)

/-- Before an enabled sample (R271, R288, R289): a clear after idle samples, a switch of the stage, and the index
(DEDUCED, log entry 24) (DESIGN CHOICE, log entry 67). -/
def sampleOpen (n l : Nat) (hatch : Bool) (c : Chip) : Nat × Chip :=
  let c := when ((c.loop n l).idle && c.flag (Reg.LAD_CTL_restart n l)) (ladClear n l) c |> rcTake n l
  (c.rcIndex n l hatch, c)

/-- A sample that is not enabled (R270, R288, R293). FALLBACK goes on through it (R283) (DESIGN CHOICE, log entry 67). -/
def idleSample (n l : Nat) (c : Chip) : Chip :=
  let c := modLoop n l (fun s => { s with idle := true }) (rcTake n l c)
  if c.rd (Reg.LAD_STATE_state n l) = 4 then c
  else wr (Reg.LAD_STATE_state n l) 1 (wr (Reg.LAD_STATE_stale n l) 0 c)

/-- The tracking sample that opened at the present beat, if it is still to be taken (R269, R270, R277, R282). -/
def trackSample (n l : Nat) (c : Chip) : Chip :=
  let b := c.now
  let p := c.rd (Reg.LAD_SAMPLE_s n)
  if !c.loopRuns n l || decide (p = 0) || decide (b % p ≠ 0) || decide (b / p < (c.loop n l).next) then c
  else
    let c := modLoop n l (fun s => { s with next := b / p + 1 }) c
    if !bit (c.loopEnables n b) l then idleSample n l c
    else
      let (i, c) := sampleOpen n l (c.governsHatch n b) c
      match (c.beam.links.getD n Link.init).actual with
      | some (beat, x, y) =>
        if beat = b then
          let r := if l = 0 then c.rdS (Reg.FUR_SCAN_X_scan n) else c.rdS (Reg.FUR_SCAN_Y_scan n)
          updateSample n l 0 i r (if l = 0 then x else y) (b + p) c
        else
          let c := missSample n l i (b + p) c
          when (decide (c.rd (Reg.LAD_STATE_miss_run n l) ≥ c.rd (Reg.LAD_CTL_n_miss n l))) (loopFault n l 2) c
      | none =>
        let c := missSample n l i (b + p) c
        when (decide (c.rd (Reg.LAD_STATE_miss_run n l) ≥ c.rd (Reg.LAD_CTL_n_miss n l))) (loopFault n l 2) c

/-! ### The power loop (R20, R270, R281, R283) -/

/-- The context entry of the RUNNING job that a channel's power loop is bound to, and its deadline offset. -/
def Chip.powerCtx (c : Chip) (n : Nat) : Option (CtxEntry × Nat) :=
  if !c.flag (Reg.LAD_SAMPLE_ctx_valid n) then none
  else c.running.bind fun j =>
    (j.ctxs.find? fun e => e.ctx == c.rd (Reg.LAD_SAMPLE_context n)).map fun e =>
      (e, (assocGet e.ctx j.deadlines).getD 0)

/-- The opening beat of frame 0 of a context of a job (R48). -/
def Chip.frame0 (c : Chip) (e : CtxEntry) : Nat := (c.running.bind Job.start).getD 0 + e.phase

/-- A frame of the context that a power loop is bound to opens at the present beat, by the job's schedule: what its power
sample will need of the channel (R48, R270). -/
def frameSeen (n : Nat) (c : Chip) : Chip :=
  match c.powerCtx n with
  | none => c
  | some (e, _) =>
    let b := c.now
    let f0 := c.frame0 e
    if !c.loopRuns n 2 || e.f == 0 || decide (b < f0) || decide ((b - f0) % e.f ≠ 0) then c
    else
      let j := (b - f0) / e.f
      let g : FrameGov := ⟨j, bit (c.loopEnables n b) 2 && c.flag (Reg.FUR_OUT_gate n),
        ((c.governs n b).map fun r => r.pset).getD 0, c.governsHatch n b⟩
      modLadle n (fun e => { e with frames := (e.frames.filter fun x => x.j != j) ++ [g] }) c

/-- The power loop falls back to nominal power (R283): integrator, filter, delay lines and output are cleared. -/
def fallback (n seq : Nat) (c : Chip) : Chip :=
  let run := c.rd (Reg.LAD_STATE_miss_run n 2)
  modLoop n 2 (fun s => { s with
      outs := [], fbMiss := 0, integ := 0, df := 0, n1 := (0, 0, 0, 0), n2 := (0, 0, 0, 0), yPrev := 0 }) c
    |> wr (Reg.LAD_OUT_value n 2) 0 |> wr (Reg.LAD_INT_value n 2) 0
    |> wr (Reg.LAD_STATE_state n 2) 4 |> wr (Reg.LAD_STATE_stale n 2) 1
    |> log 0x0705 n (u8 n ++ u8 0 ++ u16 run ++ u32 seq)

/-- A missing power sample (R283). -/
def powerMiss (n i seq apply : Nat) (c : Chip) : Chip :=
  let fb := decide (c.rd (Reg.LAD_STATE_state n 2) = 4)
  let c := missSample n 2 i apply c
  if fb then
    modLoop n 2 (fun s => { s with fbMiss := satU 16 (s.fbMiss + 1), outs := [] }) (wr (Reg.LAD_STATE_state n 2) 4 c)
  else
    when (decide (c.rd (Reg.LAD_STATE_miss_run n 2) ≥ c.rd (Reg.LAD_CTL_n_miss n 2))) (fallback n seq) c

/-- The power sample of the next frame, when its feature deadline has come (R20, R270). -/
def powerSample (n : Nat) (c : Chip) : Chip :=
  if !c.loopRuns n 2 then c
  else
    match c.powerCtx n with
    | none => c
    | some (e, d) =>
      let j := (c.loop n 2).next
      let dead := c.frame0 e + j * e.f + d
      if e.f = 0 ∨ c.now < dead then c
      else
        let eng := c.ladle n
        let g := (eng.frames.find? fun x => x.j == j).getD ⟨j, false, 0, false⟩
        let m := eng.meas.find? fun x => x.j == j
        let c := modLadle n (fun e => { e with
          frames := e.frames.filter fun x => decide (x.j > j), meas := e.meas.filter fun x => decide (x.j > j) }) c
        let c := modLoop n 2 (fun s => { s with next := j + 1 }) c
        if !g.enabled then idleSample n 2 c
        else
          let (i, c) := sampleOpen n 2 g.hatch c
          let apply := dead + e.f
          let seq := (m.map fun x => x.seq).getD ((c.ctx e.ctx).seqOf j)
          match m with
          | some x =>
            if x.usable && decide (x.beat ≤ dead) then
              let fb := decide (c.rd (Reg.LAD_STATE_state n 2) = 4)
              let missed := (c.loop n 2).fbMiss
              updateSample n 2 (c.rd (Reg.FUR_PSET_TRIM_gain_sel n g.pset)) i
                (c.rd (Reg.FUR_PSET_LOOP_pwr_ref n g.pset) : Int) (x.m : Int) apply c
                |> wr (Reg.LAD_PWR_FRAME_seq n) x.seq
                |> when fb (log 0x0706 n (u8 n ++ u8 0 ++ u16 missed ++ u32 x.seq))
            else powerMiss n i seq apply c
          | none => powerMiss n i seq apply c

/-! ### What the loops add (R279, R281) -/

/-- The tracking correction of a beat in an axis: 0 X, 1 Y (R279). -/
def Chip.correction (c : Chip) (n l b : Nat) : Int := if bit (c.loopEnables n b) l then c.loopOut n l b else 0

/-- The power code sent for a beat with a nominal code (R281). -/
def Chip.powerSent (c : Chip) (n b nominal : Nat) : Nat :=
  if bit (c.loopEnables n b) 2 then
    let y := c.loopOut n 2 b
    min (c.rd (Reg.FUR_PMAX_pmax n)) ((nominal * (2 ^ 30 + y) + 2 ^ 29) / 2 ^ 30).toNat
  else nominal

/-- The outputs being applied in the present beat (R295). -/
def ladShow (n : Nat) (c : Chip) : Chip :=
  forEach (List.range 3) (fun l c =>
    if c.loopRuns n l then wrS (Reg.LAD_OUT_value n l) (c.loopOut n l c.now) c else c) c

/-- The samples of the present beat that are still to be taken when it ends. -/
def ladClose (n : Nat) (c : Chip) : Chip := trackSample n 0 c |> trackSample n 1

/-! ### Spills (R291) -/

/-- Memory Sluice requester RCS. -/
abbrev reqRcs : Nat := 11

/-- A spill starts: the buffers of every loop whose stage was not OFF during the job, in the window layout. -/
def spill (n : Nat) (c : Chip) : Chip :=
  let loops := (List.range 3).filter fun l => (c.loop n l).rcUsed
  if !c.flag (Reg.LAD_RC_CTL_spill_en n) || loops.isEmpty || c.flag (Reg.LAD_RC_SPILL_ST_busy n) then c
  else
    let base := c.rdAddr (Reg.LAD_RC_SPILL_LO_addr n) (Reg.LAD_RC_SPILL_HI_addr n)
    let bytes (l : Nat) : List Byte := (List.range 4096).flatMap fun i => toLE 4 (c.word 0 (rcAddr n l i))
    let c := loops.foldl (fun c l => sluiceWrite reqRcs n (base + l * 0x4000) (bytes l) c) c
    wr (Reg.LAD_RC_SPILL_ST_busy n) 1 c |> wr (Reg.LAD_RC_SPILL_ST_done n) 0

/-- The transfers of a requester's unit taken out of the Memory Sluice and the DRAM queues, in order. -/
def takeXfers (req unit : Nat) (c : Chip) : List Xfer × Chip :=
  let mine (x : Xfer) : Bool := x.req == req && x.unit == unit
  let rest (x : Xfer) : Bool := !mine x
  let l := c.mem.ch.flatMap (fun h => h.wq.filter mine) ++ c.mem.slm.ready.filter mine
  (l, { c with mem := { c.mem with
    ch := c.mem.ch.map fun h => { h with wq := h.wq.filter rest, rq := h.rq.filter rest }
    slm := { c.mem.slm with ready := c.mem.slm.ready.filter rest } } })

/-- A spill completes, or ends in an error response. -/
def spillDone (n : Nat) (ok : Bool) (c : Chip) : Chip :=
  if !c.flag (Reg.LAD_RC_SPILL_ST_busy n) then c
  else
    let (l, c) := takeXfers reqRcs n c
    let good := ok && l.all fun x => c.dramOk x.addr x.data.length
    let c := if good then l.foldl (fun c x => dramPut x.req x.unit x.addr x.data c) c else c
    wr (Reg.LAD_RC_SPILL_ST_busy n) 0 c |> wrB (Reg.LAD_RC_SPILL_ST_done n) good
      |> when (!good) (wr (Reg.LAD_RC_SPILL_ST_err n) 1)

/-- A spill that is incomplete at a job's start beat is abandoned. -/
def spillAbandon (n : Nat) (c : Chip) : Chip :=
  if !c.flag (Reg.LAD_RC_SPILL_ST_busy n) then c
  else
    let (_, c) := takeXfers reqRcs n c
    wr (Reg.LAD_RC_SPILL_ST_busy n) 0 c |> wr (Reg.LAD_RC_SPILL_ST_err n) 1
      |> log 0x0707 n (u8 n ++ u8 0 ++ u16 0 ++ beat32 c.now)

/-- The channel was quenched (R291, R292). -/
def ladQuench (n : Nat) (c : Chip) : Chip := ladStop n c |> spill n

/-- The job of a channel leaves RUNNING (R288, R291, R293): the stages switch out, the loops go OFF. -/
def ladJobEnd (n : Nat) (c : Chip) : Chip :=
  let c := spill n c
  forEach (List.range 3) (fun l c =>
    let c := if c.rd (Reg.LAD_STATE_rc_state n l) = 2 then rcSwitch n l false 2 c else c
    let st := c.rd (Reg.LAD_STATE_state n l)
    modLoop n l (fun s => { s with switch := none, outs := [], rcUsed := false })
      (if st = 5 ∨ st = 6 then c else wr (Reg.LAD_STATE_state n l) 0 (wr (Reg.LAD_STATE_stale n l) 0 c))) c

/-! ### Register writes (R273, R288) -/

/-- A write of LAD_c_RC_CMD (R288): refused when it sets both bits of a loop or names a loop with microcode OFF. -/
def rcCommand (n v : Nat) (c : Chip) : Resp × Chip :=
  let ins := bits v 2 0
  let outs := bits v 6 4
  let named := bitList 3 (ins ||| outs)
  if (List.range 3).any (fun l => bit ins l && bit outs l) || named.any (fun l => c.ucode n l == 0) then (.slaveErr, c)
  else
    let b := c.now
    (.ok, forEach named (fun l c => modLoop n l (fun s => { s with switch := some (bit ins l, true, b) }) c) c)

/-- The ready bits after a write of LAD_c_UCODE (R273): a loop whose ucode field changes ends at 0. -/
def ucodeReady (n old : Nat) (c : Chip) : Chip :=
  forEach (List.range 3) (fun l c =>
    if c.ucode n l = bits old (4 * l + 1) (4 * l) then c else wr (ladReadyFld n l) 0 c) c

/-- A write to a register of a loop clears its ready bit (R273). -/
def loopRegWritten (n l : Nat) (c : Chip) : Chip := wr (ladReadyFld n l) 0 c

/-! ### Commands -/

/-- TRACKING_SAMPLE (R269, R277, R282). -/
def execTrackingSample (c : Fin 24) (y : Bool) (s : State) : Host.Outcome State Fault Refusal :=
  runs (trackSample c (b2n y)) s

/-- POWER_SAMPLE (R20, R277, R283). -/
def execPowerSample (c : Fin 24) (s : State) : Host.Outcome State Fault Refusal := runs (powerSample c) s

/-- RC_SPILL_DONE (R291). -/
def execRcSpillDone (c : Fin 24) (ok : Bool) (s : State) : Host.Outcome State Fault Refusal := runs (spillDone c ok) s

end Sys2Proof.Machine
end

