-- ==== Sys2Proof/Machine/Sluice.lean ====
section
/-! DEFINITION. The Memory Sluice (13_dram_and_memory_sluice.md, R391–R399): its slot tables, its choice of one transfer
per slot, masks, and the policing of a job's streams. -/

namespace Sys2Proof.Machine

open Sys2Proof

/-- Change the Memory Sluice. -/
def modSlm (f : Slm → Slm) (c : Chip) : Chip := { c with mem := { c.mem with slm := f c.mem.slm } }

/-- Change one DRAM channel. -/
def modDram (n : Nat) (f : DramCh → DramCh) (c : Chip) : Chip := { c with mem := { c.mem with ch := modAt c.mem.ch n f } }

/-- A DRAM channel. -/
def Chip.dramCh (c : Chip) (n : Nat) : DramCh := c.mem.ch.getD n DramCh.init

/-- P, the beats of a table period, by data rate (R392). -/
def slmP (rate : Nat) : Nat := [8, 7, 6, 5, 4].getD rate 4

/-- P at the data rate of DMC_0_CFG (R391). -/
def Chip.slmPeriod (c : Chip) : Nat := slmP (c.rd (Reg.DMC_CFG_rate 0))

/-- SLM_STATUS.period follows the data rate. -/
def slmPeriodShow (c : Chip) : Chip := wr Reg.SLM_STATUS_period c.slmPeriod c

/-- DMC_n_QUEUE follows the queues. -/
def dramShow (n : Nat) (c : Chip) : Chip :=
  let h := c.dramCh n
  wr (Reg.DMC_QUEUE_rd_count n) h.rq.length c |> wr (Reg.DMC_QUEUE_wr_count n) h.wq.length
    |> wrB (Reg.DMC_QUEUE_drain n) h.drain

/-! ### Masks (R394) -/

/-- The requesters that are fully masked. -/
def Chip.slmMask (c : Chip) : Nat :=
  let heads := !c.on pdHEADSA && !c.on pdHEADSB
  maskOf (([(0, heads), (1, !c.on pdSIEVEA), (2, !c.on (pdSIEVEA + 1)), (3, !c.on pdSIEVEA && !c.on (pdSIEVEA + 1)),
    (4, !c.on pdFABRIC), (5, !c.on pdFABRIC), (6, !c.on pdKETTLE), (7, !c.on pdNET), (8, !c.on pdNET), (9, !c.on pdAPP),
    (11, heads)].filter fun p => p.2).map fun p => p.1)

/-- SLM_MASK follows the domains. -/
def slmMaskShow (c : Chip) : Chip := when (c.on pdFABRIC) (fun c => wr Reg.SLM_MASK_mask c.slmMask c) c

/-- Whether a domain's transfers may be granted: it is neither off nor being forced off (R394). What a domain that is
quiesced has issued still completes (R506, R250). -/
def Chip.grants (c : Chip) (d : Nat) : Bool := c.alive d && !c.forcing d

/-- Whether the domain of a transfer's requester lets it take part. -/
def Chip.xferOn (c : Chip) (x : Xfer) : Bool :=
  match x.req with
  | 0 => c.grants (chanDom x.unit)
  | 1 => c.grants pdSIEVEA
  | 2 => c.grants (pdSIEVEA + 1)
  | 3 => c.grants (sieveDom (c.svOf x.unit))
  | 6 => c.grants pdKETTLE
  | 7 => c.grants pdNET
  | 8 => c.grants pdNET
  | 9 => c.grants pdAPP
  | 10 => true
  | 11 => c.grants (chanDom x.unit)
  | _ => c.grants pdFABRIC

/-! ### Slot tables (R395, R397) -/

/-- A slot entry: its owner, or none. -/
abbrev Slot := Option Nat

/-- The first free entry at or after `k`, wrapping at 512, takes an owner. -/
def placeSlot (l : List Slot) (k r : Nat) : List Slot :=
  match ((List.range 512).map fun i => (k + i) % 512).find? fun i => (l.getD i none).isNone with
  | some i => setAt l i (some r)
  | none => l

/-- The reservations of R397: `ns` gives n_r by requester. -/
def placeSlots (ns : List Nat) : List Slot :=
  (ns.zip (List.range ns.length)).foldl (fun l p =>
    (List.range p.1).foldl (fun l i => placeSlot l ((2 * i + 1) * 256 / p.1) p.2) l) (List.replicate 512 none)

/-- The shadow table. -/
def Chip.slmShadow (c : Chip) : List Slot :=
  (List.range 512).map fun k => if c.flag (Reg.SLM_SLOT_valid k) then some (c.rd (Reg.SLM_SLOT_requester k)) else none

/-- The active table. -/
def Chip.slmActive (c : Chip) : List Slot :=
  (List.range 512).map fun k =>
    if c.flag (Reg.SLM_SLOT_ACT_valid k) then some (c.rd (Reg.SLM_SLOT_ACT_requester k)) else none

/-- The shadow table written. -/
def wrShadow (l : List Slot) (c : Chip) : Chip :=
  forEach (List.range 512) (fun k c =>
    wrB (Reg.SLM_SLOT_valid k) (l.getD k none).isSome c |> wr (Reg.SLM_SLOT_requester k) ((l.getD k none).getD 0)) c

/-- The active table written, with the counts that show it. -/
def wrActive (l : List Slot) (c : Chip) : Chip :=
  let c := forEach (List.range 512) (fun k c =>
    wrB (Reg.SLM_SLOT_ACT_valid k) (l.getD k none).isSome c
      |> wr (Reg.SLM_SLOT_ACT_requester k) ((l.getD k none).getD 0)) c
  forEach (List.range 16) (fun r => wr (Reg.SLM_REQ_RES_n r) (l.countP fun s => s == some r)) c
    |> wr Reg.SLM_STATUS_reserved_slots (l.countP fun s => s.isSome)

/-- Whether a swap to the shadow is scheduled, shown. -/
def slmPending (c : Chip) : Chip := wrB Reg.SLM_STATUS_commit_pending (!c.mem.slm.swapAt.isEmpty) c

/-- A job is ACCEPTED: its reservations are written into the shadow table. -/
def slmReserve (ns : List Nat) (c : Chip) : Chip := wrShadow (placeSlots ns) c

/-- JOB_START commits the shadow for the wrap of its start beat. -/
def slmCommit (s : Nat) (c : Chip) : Chip :=
  let w := c.slmPeriod * (s / c.slmPeriod)
  modSlm (fun m => { m with swapAt := m.swapAt ++ [(w, true)] }) c |> slmPending

/-- The shadow of an ADMITTED job that does not start is discarded. -/
def slmDiscard (c : Chip) : Chip :=
  modSlm (fun m => { m with swapAt := m.swapAt.filter fun p => !p.2 }) (wrShadow (List.replicate 512 none) c) |> slmPending

/-- A job leaves RUNNING: a table with every entry invalid becomes active at the next wrap. -/
def slmRelease (c : Chip) : Chip :=
  let p := c.slmPeriod
  modSlm (fun m => { m with swapAt := m.swapAt ++ [(p * (c.now / p) + p, false)] }) c |> slmPending

/-- A wrap of the table (R391), and the swap due at it (R395): to the shadow, whose place the old table takes, or to an
invalid table. -/
def slmWrap (c : Chip) : Chip :=
  let c := when (decide (c.now % c.slmPeriod = 0)) (modSlm fun m => { m with slot := 0 }) c
  let due := c.mem.slm.swapAt.filter fun p => decide (p.1 ≤ c.now)
  if due.isEmpty ∨ c.now % c.slmPeriod ≠ 0 then c
  else
    let old := c.slmActive
    let c := if due.any fun p => p.2 then wrShadow old (wrActive c.slmShadow c) else wrActive (List.replicate 512 none) c
    let t := 1 - c.rd Reg.SLM_STATUS_active_table
    modSlm (fun m => { m with swapAt := m.swapAt.filter fun p => decide (p.1 > c.now) }) c |> slmPending
      |> wr Reg.SLM_STATUS_active_table t
      |> log 0x0A09 0 (u8 t ++ u8 0 ++ u16 (c.rd Reg.SLM_STATUS_reserved_slots) ++ beat32 c.now)

/-! ### Streams (R398, R399) -/

/-- The streams of the RUNNING job, in descriptor order. -/
def Chip.streams (c : Chip) : List StreamEntry :=
  match c.running with
  | some j => j.streams
  | none => []

/-- The stream that a transfer draws on. -/
def Chip.streamOf (c : Chip) (x : Xfer) : Option (Nat × StreamEntry) :=
  ((c.streams.zip (List.range c.streams.length)).find? fun p =>
    (p.1.kind == 1 && x.req == reqTap && p.1.inst == x.unit) || (p.1.kind == 2 && x.req == reqKet) ||
      (p.1.kind == 3 && (x.req == reqDmaRd || x.req == reqDmaWr) && p.1.inst == x.unit)).map fun p => (p.2, p.1)

/-- The cause for which policing refuses a transfer: 1 RATE, 2 WINDOW; 0 none. A DMA channel's window is checked by the
engine itself. -/
def Chip.streamCause (c : Chip) (s : Nat) (e : StreamEntry) (x : Xfer) : Nat :=
  let n := if x.write then x.data.length else 64
  if e.kind ≠ 3 ∧ (x.addr < e.base ∨ x.addr + n > e.base + e.len) then 2
  else if c.rdS (Reg.SLM_STREAM_CREDIT_credit s) < 64 then 1
  else 0

/-- The tap point whose ring holds an address of a context's window; 0xFF for its feature records. -/
def Chip.pointAt (c : Chip) (n a : Nat) : Nat :=
  let v := c.svOf n
  ((List.range 6).find? fun k =>
    let o := c.tapBase n + c.rd (Reg.SVX_TAP_OFF_bytes v n k) * 64
    decide (o ≤ a) && decide (a < o + c.rd (Reg.SVX_TAP_LEN_bytes v n k) * 64)).getD 0xFF

/-- A stream is frozen on the beat after the refusal: its register, the event, and the effect on its master. -/
def streamFreeze (s cause : Nat) (x : Xfer) (c : Chip) : Chip :=
  match c.streams[s]? with
  | none => c
  | some e =>
    let violation := if cause = 2 then 0 else 1
    let cls := if e.kind = 1 then 1 else if e.kind = 2 then 3 else 4
    let value := if cause = 2 then x.addr % 2 ^ 32 else e.rate
    let c := wr (Reg.SLM_STREAM_STATUS_frozen s) 1 c |> wr (Reg.SLM_STREAM_STATUS_cause s) cause
      |> log 0x0120 e.inst (u8 cls ++ u8 e.inst ++ u16 violation ++ u32 value)
    if e.kind = 1 then tapStop e.inst (c.pointAt e.inst x.addr) c
    else if e.kind = 2 then ktFreeze c
    else dmaStream e.inst x c

/-- The refusals of the beat before take effect (DEDUCED, log entry 59). -/
def streamFreezes (c : Chip) : Chip :=
  let l := c.mem.slm.refused
  l.foldl (fun c p => streamFreeze p.1 p.2.1 p.2.2 c) (modSlm (fun m => { m with refused := [] }) c)

/-- Every stream gains its rate at a beat opening, up to D_s. -/
def streamCredits (c : Chip) : Chip :=
  let l := c.streams
  (l.zip (List.range l.length)).foldl (fun c p =>
    let (e, s) := p
    let full : Int := ((e.rate + 1048576) * 4000 : Nat)
    let t := min full (c.rdS (Reg.SLM_STREAM_CREDIT_credit s) * 4000 + (c.mem.slm.frac.getD s 0 : Nat) + e.rate)
    wrS (Reg.SLM_STREAM_CREDIT_credit s) (t / 4000) c
      |> modSlm (fun m => { m with frac := setAt m.frac s (t % 4000).toNat })) c

/-- At a job start beat the stream registers are cleared and show the job's streams (R398, R402). -/
def streamStart (l : List StreamEntry) (c : Chip) : Chip :=
  let c := clearRange 0x130200 0x130400 c |> modSlm (fun m => { m with frac := List.replicate 32 0, refused := [] })
  (l.zip (List.range 32)).foldl (fun c p =>
    wr (Reg.SLM_STREAM_STATUS_kind p.2) p.1.kind c |> wr (Reg.SLM_STREAM_STATUS_instance p.2) p.1.inst
      |> wr (Reg.SLM_STREAM_CREDIT_credit p.2) (p.1.rate + 1048576)) c

/-- Freezes end when the job leaves RUNNING (R62). -/
def streamEnd (l : List StreamEntry) (c : Chip) : Chip :=
  (l.zip (List.range 32)).foldl (fun c p =>
    wr (Reg.SLM_STREAM_STATUS_frozen p.2) 0 c
      |> when (p.1.kind == 1) (wr (Reg.SVX_STATUS_tap_stopped (c.svOf p.1.inst) p.1.inst) 0)
      |> when (p.1.kind == 2) (wr Reg.KT_STATUS_frozen 0)) (modSlm (fun m => { m with refused := [] }) c)

/-! ### Grants (R393) -/

/-- Whether a transfer's answer comes as an event of its own requester, and not from the DRAM queues. -/
def Xfer.byEvent (x : Xfer) : Bool := !(x.req == reqTap || (x.req == 0 && x.write))

/-- Whether a transfer's channel queue has room for it. -/
def Chip.xferRoom (c : Chip) (x : Xfer) : Bool :=
  let h := c.dramCh (dramChanOf x.addr)
  if x.write then decide (h.wq.length < 64) else decide (h.rq.length < 32)

/-- Whether a transfer is a candidate: unmasked, its stream neither frozen nor refused in this beat, room in its queue,
and a channel that answers, unless its answer rests with the Memory Sluice alone. -/
def Chip.candidate (c : Chip) (x : Xfer) : Bool :=
  c.xferOn x && c.xferRoom x && (!x.byEvent || c.dramOk x.addr 1) &&
    (match c.streamOf x with
      | some (s, _) => !c.flag (Reg.SLM_STREAM_STATUS_frozen s) && !(c.mem.slm.refused.any fun p => p.1 == s)
      | none => true)

/-- The first candidate transfer of a requester; within VEC, fetches go before log writes (R139). -/
def Chip.firstOf (c : Chip) (r : Nat) : Option Xfer :=
  let mine (x : Xfer) : Bool := x.req == r && c.candidate x
  if r = 0 then (c.mem.slm.ready.find? fun x => mine x && !x.write).or (c.mem.slm.ready.find? mine)
  else c.mem.slm.ready.find? mine

/-- The class of a requester. -/
def Chip.slmClass (c : Chip) (r : Nat) : Nat := bits (c.rd Reg.SLM_CLASS_class) (2 * r + 1) (2 * r)

/-- The winner of a slot: its transfer, and whether as the slot's owner. -/
def Chip.slmWinner (c : Chip) (slot : Nat) : Option (Xfer × Bool) :=
  let own := if c.flag (Reg.SLM_SLOT_ACT_valid slot) then c.firstOf (c.rd (Reg.SLM_SLOT_ACT_requester slot)) else none
  match own with
  | some x => some (x, true)
  | none =>
    [3, 2, 1, 0].findSome? fun k =>
      let p := c.mem.slm.ptrs.getD k 0
      (((List.range 16).map fun i => (p + i) % 16).filter fun r => c.slmClass r == k).findSome? fun r =>
        (c.firstOf r).map fun x => (x, false)

/-- What an answered write of a requester without an event of its own brings (R139, R388): log entries counted, as long as
every burst before has reached DRAM, or the channel's fault. -/
def xferDone (x : Xfer) (ok : Bool) (c : Chip) : Chip :=
  if x.req = 0 ∧ x.write = true then
    if ok then
      when (!(c.fur x.unit).logBad)
        (wr (Reg.FUR_LOG_COUNT_count x.unit) (c.rd (Reg.FUR_LOG_COUNT_count x.unit) + x.data.length / 16)) c
    else
      let h := c.headRec x.unit
      furFault x.unit faultFetch h.1 h.2 (modFur x.unit (fun f => { f with logBad := true }) c)
  else c

/-- A write enters its queue: a full write replaces a queued write to the same 64 bytes (R381); a masked one must not
lose the bytes that an earlier one wrote. -/
def enqueueWrite (x : Xfer) (l : List Xfer) : List Xfer :=
  (if x.data.length = 64 then l.filter fun y => y.addr / 64 != x.addr / 64 else l) ++ [x]

/-- A transfer is granted (R393, R398): it enters its channel's queue, or is answered with an error. -/
def slmGrant (x : Xfer) (owned : Bool) (c : Chip) : Chip :=
  let c := modSlm (fun m => { m with ready := m.ready.erase x }) c
  let c := if owned then inc (Reg.SLM_REQ_OWN_count x.req) (Reg.SLM_REQ_STICKY_sat x.req) 0 c
    else inc (Reg.SLM_REQ_FALL_count x.req) (Reg.SLM_REQ_STICKY_sat x.req) 1 c
      |> modSlm (fun m => { m with ptrs := setAt m.ptrs (c.slmClass x.req) ((x.req + 1) % 16) })
  let c := match c.streamOf x with
    | some (s, _) =>
      wrS (Reg.SLM_STREAM_CREDIT_credit s) (c.rdS (Reg.SLM_STREAM_CREDIT_credit s) - 64) c
        |> wr2 (Reg.SLM_STREAM_BYTES_LO_bytes s) (Reg.SLM_STREAM_BYTES_HI_bytes s)
            (c.rd2 (Reg.SLM_STREAM_BYTES_LO_bytes s) (Reg.SLM_STREAM_BYTES_HI_bytes s) + 64)
    | none => c
  if !c.dramOk x.addr (if x.write then x.data.length else 64) ∧ !x.byEvent then xferDone x false c
  else
    let n := dramChanOf x.addr
    let x := { x with at0 := c.now }
    modDram n (fun h => if x.write then { h with wq := enqueueWrite x h.wq } else { h with rq := h.rq ++ [x] }) c
      |> fun c => modDram n (fun h => { h with
          drain := h.drain || decide (h.wq.length ≥ c.rd (Reg.DMC_WEIR_high n)) }) c
      |> dramShow n

/-- One slot: at most one grant. A transfer that policing refuses is passed over. -/
def slmSlot (slot : Nat) : Nat → Chip → Chip
  | 0, c => c
  | k + 1, c =>
    match c.slmWinner slot with
    | none => c
    | some (x, owned) =>
      match c.streamOf x with
      | some (s, e) =>
        let cause := c.streamCause s e x
        if cause = 0 then slmGrant x owned c
        else slmSlot slot k (modSlm (fun m => { m with refused := m.refused ++ [(s, cause, x)] }) c)
      | none => slmGrant x owned c

/-- The beat after the wrap on which slot k of the table opens (R391). -/
def slotBeat (p k : Nat) : Nat := k * p * 250 / 512 / 250

/-- MEM_SLOT (R391, R393): the next slot of the present beat opens, if one is left. No slot grants while PD_DRAM is being
quiesced (R390). -/
def memSlot (c : Chip) : Chip :=
  let p := c.slmPeriod
  let j := c.now % p
  let k := max c.mem.slm.slot (ceilDiv (512 * j) p)
  if 512 ≤ k ∨ slotBeat p k ≠ j then c
  else
    let c := modSlm (fun m => { m with slot := k + 1 }) c
    if c.shown pdDRAM && !c.on pdDRAM then c else slmSlot k 33 c

/-- MEM_SLOT. -/
def execMemSlot (s : State) : Host.Outcome State Fault Refusal := runs (fun c => when (c.on pdFABRIC) memSlot c) s

end Sys2Proof.Machine
end

