-- ==== Sys2Proof/Machine/Dram.lean ====
section
/-! DEFINITION. The DRAM controller (13_dram_and_memory_sluice.md, R373–R390): training, queues and the Weir, activate
tables, check bits and the freeze, with DRAM_DIAG_READ. -/

namespace Sys2Proof.Machine

open Sys2Proof

/-! ### Addresses (R377) -/

/-- Rank, bank (bank group × 4 + bank) and row of a DRAM address. -/
def Chip.dramPlace (c : Chip) (a : Nat) : Nat × Nat × Nat :=
  let l := dramLocal a
  let rank := if l ≥ c.dramRank then 1 else 0
  let l := l - rank * c.dramRank
  (rank, bits l 16 12, l / 2 ^ 17)

/-- The devices of a channel: five per rank. -/
def Chip.dramDevices (c : Chip) (n : Nat) : Nat := 5 * (c.rd (Reg.DMC_CFG_ranks n) + 1)

/-! ### Training (R374, R378, R379) -/

/-- Whether a channel has another configuration than the other. -/
def Chip.dramMismatch (c : Chip) : Bool :=
  [Reg.DMC_CFG_rate, Reg.DMC_CFG_ranks, Reg.DMC_CFG_density].any fun f => c.rd (f 0) != c.rd (f 1)

/-- Training fails at a step (R379). -/
def trainFail (n step dev : Nat) (c : Chip) : Chip :=
  wr (Reg.DMC_STATUS_state n) 3 c |> wr (Reg.DMC_STATUS_step n) step |> wr (Reg.DMC_STATUS_fail_dev n) dev
    |> log 0x0A03 n (u8 n ++ u8 step ++ u8 dev ++ u8 0 ++ u32 0)

/-- A write of train (R378): ignored unless the channel is UNTRAINED or in TRAIN_FAIL. -/
def dramTrain (n : Nat) (c : Chip) : Chip :=
  let st := c.dramState n
  if st ≠ 0 ∧ st ≠ 3 then c
  else if c.dramMismatch then trainFail n 15 0xFF c
  else
    modDram n (fun h => { h with trainAt := c.now }) c |> wr (Reg.DMC_STATUS_state n) 1
      |> wr (Reg.DMC_STATUS_step n) 1 |> wr (Reg.DMC_STATUS_fail_dev n) 0xFF

/-- The contents of a channel are undefined after training (R556). -/
def dramLoseCh (n : Nat) (c : Chip) : Chip :=
  { c with dram := c.dram.filter fun p => dramChanOf p.1 != n, losses := c.losses + 1 }

/-- Training ends (R378): passed, or at a failing step and device. -/
def dramTrained (n : Nat) (fail : Option (Nat × Nat)) (c : Chip) : Chip :=
  if c.dramState n ≠ 1 then c
  else match fail with
    | some (step, dev) => trainFail n (max 1 (min 8 step)) dev c
    | none =>
      let ms := (c.now - (c.dramCh n).trainAt) / 4000
      dramLoseCh n (modDram n (fun h => { h with steps := [], limitSeen := 0, act := [], retrainAt := c.now }) c)
        |> wr (Reg.DMC_STATUS_state n) 2 |> wr (Reg.DMC_STATUS_step n) 8
        |> log 0x0A04 n (u8 n ++ u8 (c.rd (Reg.DMC_CFG_rate n)) ++ u16 (satU 16 ms) ++ u32 0)

/-! ### Retraining and refresh (R380, R384, R385) -/

/-- Whether a retraining interval has passed, of 4 beats per µs (R380). -/
def Chip.retrainDue (c : Chip) (n : Nat) : Bool :=
  decide ((c.dramCh n).retrainAt + c.rd (Reg.DMC_RETRAIN_interval n) * 4 ≤ c.now)

/-- One retraining interval (R380): each device moves one step toward its measured drift. -/
def dramRetrain (n up down : Nat) (c : Chip) : Chip :=
  if c.dramState n ≠ 2 ∨ !c.flag (Reg.DMC_CTL_retrain_en n) ∨ !c.retrainDue n then c
  else
    forEach (List.range (c.dramDevices n)) (fun d c =>
      let h := c.dramCh n
      let move : Int := (b2n (bit up d) : Int) - b2n (bit down d)
      let t := h.steps.getD d 0 + move
      let steps := (List.range 10).map fun k => if k = d then t else h.steps.getD k 0
      let c := modDram n (fun h => { h with steps := steps }) c
        |> when (decide (move ≠ 0)) (inc (Reg.DMC_RETRAINS_count n) (Reg.DMC_STICKY_sat n) 2)
        |> trimStep 3 (n * 10 + d) move
      if t.natAbs > 8 ∧ bit h.limitSeen d = false then
        modDram n (fun h => { h with limitSeen := withBit h.limitSeen d true }) c
          |> log 0x0A05 n (u8 n ++ u8 d ++ u16 t.natAbs ++ beat32 c.now)
      else c) (modDram n (fun h => { h with retrainAt := c.now }) c) |> when (n == 1) (calCount 3)

/-- A refresh of a rank (R384): the rank's component reports whether it is hot, and the rate follows. -/
def dramRefresh (n rank : Nat) (hot : Bool) (c : Chip) : Chip :=
  let m := withBit (c.dramCh n).hot rank hot
  modDram n (fun h => { h with hot := m }) c |> wrB (Reg.DMC_TEMP_fast_refresh n) (m != 0)

/-- A bank's table after an activate of a row (R385), and whether the row's count reached the threshold. -/
def actRow (row thresh : Nat) (l : List (Nat × Nat)) : List (Nat × Nat) × Bool :=
  let count : Nat := match l.find? fun p : Nat × Nat => p.1 == row with
    | some p => p.2 + 1
    | none => if l.length < 32 then 1 else (l.map fun p : Nat × Nat => p.2).foldl min (l.headD (0, 0)).2 + 1
  let rest :=
    if l.any fun p => p.1 == row then l.filter fun p => p.1 != row
    else if l.length < 32 then l
    else
      let m := (l.map fun p : Nat × Nat => p.2).foldl min (l.headD (0, 0)).2
      match l.find? fun p => p.2 == m with
      | some q => l.erase q
      | none => l
  let hit : Bool := decide (thresh ≤ count)
  (rest ++ [(row, if hit then 0 else count)], hit)

/-- The rows within a radius of a row, on both sides, in a bank of the rank (R385, R377). -/
def Chip.dramNeighbours (c : Chip) (radius row : Nat) : List Nat :=
  ((List.range (2 * radius + 1)).map fun k => row + k).filterMap fun x =>
    if radius ≤ x ∧ x - radius ≠ row ∧ (x - radius) * 2 ^ 17 < c.dramRank then some (x - radius) else none

/-- An activate of the row of an access; at the threshold its neighbours are activated, uncounted (R385) (DESIGN
CHOICE, DESIGN CHOICE, log entry 37). -/
def dramActivate (n a : Nat) (c : Chip) : Chip :=
  let (rank, bank, row) := c.dramPlace a
  let k := rank * 32 + bank
  let r := actRow row (c.rd (Reg.DMC_ACT_thresh n)) ((assocGet k (c.dramCh n).act).getD [])
  modDram n (fun h => { h with act := assocPut k r.1 h.act }) c
    |> when r.2 fun c => inc (Reg.DMC_NRR_count n) (Reg.DMC_STICKY_sat n) 1 c
      |> modDram n fun h => { h with nrr := (c.dramNeighbours (c.rd (Reg.DMC_ACT_radius n)) row).map fun x => (rank, bank, x) }

/-! ### The freeze (R387, R388) -/

/-- The record of a detected cause: the command, its place and its syndrome. -/
def dramErr (n cause synd : Nat) (x : Xfer) (c : Chip) : Chip :=
  let (rank, bank, _) := c.dramPlace x.addr
  let l := dramLocal (x.addr / 64 * 64)
  wr (Reg.DMC_ERR_CMD_cause n) cause c |> wr (Reg.DMC_ERR_CMD_requester n) x.req |> wr (Reg.DMC_ERR_CMD_bank n) bank
    |> wr (Reg.DMC_ERR_CMD_rank n) rank |> wrB (Reg.DMC_ERR_CMD_write n) x.write
    |> wr2 (Reg.DMC_ERR_ADDR_LO_addr n) (Reg.DMC_ERR_ADDR_HI_addr n) l
    |> forEach (List.range 4) (fun k => wr (Reg.DMC_ERR_SYN_syn n k) (bits synd (32 * k + 31) (32 * k)))
    |> wr2 (Reg.DMC_ERR_BEAT_LO_beat n) (Reg.DMC_ERR_BEAT_HI_beat n) c.now
    |> log 0x0A02 n (u8 n ++ u8 cause ++ u16 x.req ++ u32 (l / 64))

/-- The beat of a freeze as a channel records it. -/
def Chip.errBeat (c : Chip) (n : Nat) : Nat := c.rd2 (Reg.DMC_ERR_BEAT_LO_beat n) (Reg.DMC_ERR_BEAT_HI_beat n)

/-- A channel detects a cause (R387): both freeze; a second channel's cause in the same beat is recorded as its own. -/
def dramFreeze (n cause synd : Nat) (x : Xfer) (c : Chip) : Chip :=
  if c.dramState n = 4 then
    if c.rd (Reg.DMC_ERR_CMD_cause n) = 3 ∧ c.errBeat n = c.now then dramErr n cause synd x c else c
  else
    let m := 1 - n
    let c := [0, 1].foldl (fun c k => wr (Reg.DMC_STATUS_state k) 4 c) c
    wr (Reg.DMC_ERR_CMD_cause m) 3 c
      |> wr2 (Reg.DMC_ERR_BEAT_LO_beat m) (Reg.DMC_ERR_BEAT_HI_beat m) c.now
      |> dramErr n cause synd x |> askQuenchAll (c.now + 1) quenchUnattributed

/-- While the controller is frozen, from the beat after it on, every queued access is answered with an error (R388): those
without an event of their own here, the others when theirs comes. -/
def dramFrozenBeat (c : Chip) : Chip :=
  if c.dramState 0 = 4 ∧ c.errBeat 0 < c.now then
    let l := c.mem.ch.flatMap fun h => h.wq.filter fun x => !x.byEvent
    let c := { c with mem := { c.mem with ch := c.mem.ch.map fun h => { h with rq := [], wq := [], drain := false } } }
    l.foldl (fun c x => xferDone x false c) (dramShow 0 c |> dramShow 1)
  else c

/-! ### Accesses (R381–R383, R386) -/

/-- Whether two transfers lie in the same 64 bytes. -/
def Xfer.meets (x y : Xfer) : Bool := x.addr / 64 == y.addr / 64

/-- Whether a write carries a byte mask. -/
def Xfer.masked (x : Xfer) : Bool := x.data.length != 64

/-- The transfer that a channel carries out next (R381, R382). -/
def DramCh.next (h : DramCh) : Option Xfer :=
  let read := h.rq.find? fun x => !(h.wq.any fun y => y.masked && y.meets x)
  if h.drain && !h.wq.isEmpty then h.wq.head?
  else match read with
    | some x => some x
    | none => h.wq.head?

/-- A corrected error (R386). -/
def dramCe (n dev : Nat) (x : Xfer) (c : Chip) : Chip :=
  let l := dramLocal (x.addr / 64 * 64)
  let d := (c.dramPlace x.addr).1 * 5 + dev % 5
  inc (Reg.DMC_CE_count n) (Reg.DMC_STICKY_sat n) 0 c
    |> wr2 (Reg.DMC_CE_ADDR_LO_addr n) (Reg.DMC_CE_ADDR_HI_addr n) l |> wr (Reg.DMC_CE_DEV_device n) d
    |> log 0x0A01 n (u8 n ++ u8 d ++ u16 0 ++ u32 (l / 64))

/-- A read that a queued full write answers needs no access of the components. -/
def DramCh.forwarded (h : DramCh) (x : Xfer) : Bool := !x.write && h.wq.any fun y => y.meets x && !y.masked

/-- The next access of a channel completes: `ce`, the device whose error was corrected; `ue`, an error that could not be,
with its syndrome. -/
def dramAccess (n : Nat) (ce : Option Nat) (ue : Bool) (synd : Nat) (c : Chip) : Chip :=
  let h := c.dramCh n
  match h.next with
  | none => c
  | some x =>
    let reads := !x.write || x.masked
    if c.dramState n = 4 then when (ue && reads && !h.forwarded x) (dramFreeze n 1 synd x) c
    else if c.dramState n ≠ 2 then c
    else
      let c := modDram n (fun h => { h with rq := if x.write then h.rq else h.rq.erase x
                                            wq := if x.write then h.wq.erase x else h.wq }) c
      if h.forwarded x then dramShow n c
      else
        let c := dramActivate n x.addr c
        if ue && reads then
          modDram n (fun k => { k with rq := h.rq, wq := h.wq }) c |> dramFreeze n 1 synd x |> dramShow n
        else
          let c := match ce with
            | some d => when reads (dramCe n d x) c
            | none => c
          let c := if x.write then
              modDram n (fun h => { h with
                drain := h.drain && decide (h.wq.length > c.rd (Reg.DMC_WEIR_low n)) })
                (dramPut x.req x.unit x.addr x.data c) |> xferDone x true
            else c
          dramShow n c

/-- The Weir's age limit (R382). -/
def dramAge (n : Nat) (c : Chip) : Chip :=
  match (c.dramCh n).wq with
  | [] => c
  | x :: _ =>
    when (decide (x.at0 + c.rd (Reg.DMC_WEIR_age n) ≤ c.now)) (modDram n fun h => { h with drain := true }) c |> dramShow n

/-- ALERT_n of a channel (R387): the last write issued before it is recorded; with none issued, a write of requester 0 at
address 0 (DESIGN CHOICE, log entry 37). -/
def dramAlert (n : Nat) (c : Chip) : Chip :=
  if c.dramState n = 2 ∨ c.dramState n = 4 then
    dramFreeze n 2 0 ((c.dramCh n).lastWrite.getD ⟨0, 0, true, dramGlobal n 0, [], 0⟩) c
  else c

/-! ### Domain and reset (R388, R390, R501) -/

/-- Registers of a channel that a freeze holds in PD_AON. -/
def dramHeld (n : Nat) : List Fld :=
  [Reg.DMC_ERR_CMD_cause n, Reg.DMC_ERR_CMD_requester n, Reg.DMC_ERR_CMD_bank n, Reg.DMC_ERR_CMD_rank n,
    Reg.DMC_ERR_CMD_write n, Reg.DMC_ERR_ADDR_LO_addr n, Reg.DMC_ERR_ADDR_HI_addr n, Reg.DMC_ERR_BEAT_LO_beat n,
    Reg.DMC_ERR_BEAT_HI_beat n] ++ (List.range 4).map fun k => Reg.DMC_ERR_SYN_syn n k

/-- The controller without its power: queues, registers and contents are lost; a freeze and its record stay. -/
def dramOff (c : Chip) : Chip :=
  let held := ([0, 1].flatMap dramHeld).map fun f => (f, c.rd f)
  let frozen := c.dramState 0 = 4
  let c := clearRange 0x280000 0x290000 { dramLose c with mem := { c.mem with ch := [DramCh.init, DramCh.init] } }
  let c := held.foldl (fun c p => wr p.1 p.2 c) c
  slmPeriodShow (if frozen then [0, 1].foldl (fun c k => wr (Reg.DMC_STATUS_state k) 4 c) c else c)

/-- A reset of the controller, which ends a freeze. -/
def dramReset (c : Chip) : Chip :=
  slmPeriodShow (clearRange 0x280000 0x290000 { dramLose c with mem := { c.mem with ch := [DramCh.init, DramCh.init] } })

/-- Whether the queues are empty (R390). -/
def Chip.dramDrained (c : Chip) : Bool := c.mem.ch.all fun h => h.rq.isEmpty && h.wq.isEmpty

/-! ### Commands -/

/-- Activity of the controller: PD_DRAM is shown as on. -/
def dramDo (f : Chip → Chip) (c : Chip) : Chip := when (c.shown pdDRAM) f c

/-- TRAIN_DONE (R378, R379). -/
def execTrainDone (n : Fin 2) (fail : Option (Fin 16 × Fin 10)) (s : State) : Host.Outcome State Fault Refusal :=
  runs (dramDo (dramTrained n.val (fail.map fun p => (p.1.val, p.2.val)))) s

/-- DQS_RETRAIN (R380). -/
def execDqsRetrain (n : Fin 2) (up down : BitVec 10) (s : State) : Host.Outcome State Fault Refusal :=
  runs (dramDo (dramRetrain n.val up.toNat down.toNat)) s

/-- DRAM_REFRESH (R384). -/
def execDramRefresh (n rank : Fin 2) (hot : Bool) (s : State) : Host.Outcome State Fault Refusal :=
  runs (dramDo (dramRefresh n.val rank.val hot)) s

/-- ACT_WINDOW_CLEAR (R385). -/
def execActWindowClear (n : Fin 2) (s : State) : Host.Outcome State Fault Refusal :=
  runs (dramDo (modDram n.val fun h => { h with act := [] })) s

/-- DRAM_ACCESS_DONE (R383, R386, R387). -/
def execDramAccessDone (n : Fin 2) (ce : Option (Fin 10)) (ue : Bool) (synd : BitVec 128) (s : State) :
    Host.Outcome State Fault Refusal :=
  runs (dramDo (dramAccess n.val (ce.map Fin.val) ue synd.toNat)) s

/-- DRAM_ALERT (R387). -/
def execDramAlert (n : Fin 2) (s : State) : Host.Outcome State Fault Refusal := runs (dramDo (dramAlert n.val)) s

/-- WEIR_AGE (R382). -/
def execWeirAge (n : Fin 2) (s : State) : Host.Outcome State Fault Refusal := runs (dramDo (dramAge n.val)) s

/-- The check bytes of a burst, whose code the manual does not give: free values of their place (DESIGN CHOICE, log entry 3). -/
def Chip.checkBytes (c : Chip) (a : Nat) : List Byte :=
  (List.range 16).map fun k => Config.dramUndef c.losses (2 ^ 40 + a + k)

/-- Offset of the first parameter of DRAM_DIAG_READ at fault. -/
def diagForm (chan a bursts : Nat) : Option Nat :=
  if chan ≥ 2 then some 0 else if a % 64 ≠ 0 then some 4 else if bursts = 0 ∨ bursts > 16 then some 12 else none

/-- DRAM_DIAG_READ (R389, R93): raw bursts of a frozen channel. -/
def execDramDiagRead (o : Origin) (chan : BitVec 8) (addr : BitVec 64) (bursts : BitVec 16) (s : State) :
    Host.Outcome State Fault Refusal :=
  let n := chan.toNat
  let a := addr.toNat
  runs (serve o 0xF2 3 (.dramDiagRead o chan addr bursts) (diagForm n a bursts.toNat) [pdDRAM] <| tell fun c =>
    if c.dramState n ≠ 4 then badState (c.dramState n) n
    else if a + 64 * bursts.toNat > c.dramChan then badParam 4
    else done ((List.range bursts.toNat).flatMap fun k =>
      let g := dramGlobal n (a + 64 * k)
      ((List.range 64).map fun i => c.cell (g + i)) ++ c.checkBytes g)) s

end Sys2Proof.Machine
end

