-- ==== Sys2Proof/Machine/CalUnit.lean ====
section
/-! DEFINITION. Forced calibration rounds (17_thermal_calibration_snapshots.md, R482–R486): how they run, complete, fail
and end. The commands are in CalCmds.lean. -/

namespace Sys2Proof.Machine

open Sys2Proof

/-- Whether a forced round of an item runs. -/
def Chip.calRuns (c : Chip) (item : Nat) : Bool := bit (c.rd Reg.CAL_STATUS_running) item

/-- An item of the forced calibrations has ended: the RESULT of each CAL_RUN all of whose items have ended follows
(R485). `fail`: the cause of a failure. -/
def calItemEnd (item : Nat) (fail : Option Nat) (c : Chip) : Chip :=
  let take (r : CalRunState) : CalRunState :=
    if bit r.items item && !bit r.done item && !r.fail.any (fun p => p.1 == item) then
      match fail with
      | none => { r with done := withBit r.done item true }
      | some cause => { r with fail := r.fail ++ [(item, cause)] }
    else r
  let l := c.sys.cal.runs.map take
  let ended (r : CalRunState) : Bool := r.items == (r.done ||| maskOf (r.fail.map fun p => p.1))
  let firstFail (r : CalRunState) : Option (Nat × Nat) :=
    ((List.range 5).filterMap fun k => r.fail.find? fun p => p.1 == k).head?
  let tellOne (r : CalRunState) (c : Chip) : Chip :=
    match firstFail r with
    | none => result r.pend 0 (toBE 4 r.done) c
    | some (k, cause) => let a := refuse 0x30 cause k r.done; result r.pend a.1 a.2 c
  modCal (fun k => { k with runs := l.filter fun r => !ended r }) c
    |> wr Reg.CAL_STATUS_running (withBit (c.rd Reg.CAL_STATUS_running) item false)
    |> forEach (l.filter ended) tellOne

/-- The held measurement outputs end with the round of SENSOR or CAM_DARK. -/
def calClear (item : Nat) (c : Chip) : Chip :=
  match item with
  | 2 => modCal (fun k => { k with sensor := none }) c
      |> wr Reg.CAL_STATUS_stale (withBit (c.rd Reg.CAL_STATUS_stale) 2 false)
  | 4 => modCal (fun k => { k with dark := none }) c
  | _ => c

/-- A forced round fails (R486). -/
def calFail (item cause inst : Nat) (c : Chip) : Chip :=
  if !c.calRuns item then c
  else
    calClear item c |> wr Reg.CAL_FAIL_item item |> wr Reg.CAL_FAIL_cause cause |> wr Reg.CAL_FAIL_instance inst
      |> log 0x0D02 inst (u8 item ++ u8 cause ++ u16 inst ++ u32 0) |> calItemEnd item (some cause)

/-- The receive lanes that a forced LANE_EQ round adapts (R482): enabled, with the channel IDLE, PARKED or QUENCHED, or with the
overview context stopped. -/
def Chip.eqLanes (c : Chip) : List Nat :=
  (List.range 52).filter fun n => c.on (laneDom n) && c.flag (Reg.GLK_CTL_enable n) &&
    if n < 48 then n % 2 == 1 && [0, 1, 6].contains (c.chState (n / 2)) else c.ctxRun (n / 2) == 0

/-- The instances that a round of an item covers: coils of enabled chopper axes, receive lanes, sensors, DRAM devices, one
context. -/
def Chip.calInstances (c : Chip) (item : Nat) : Nat :=
  match item with
  | 0 => 2 * ((List.range 8).filter fun n => c.flag (Reg.AX_CTL_enable n) && !c.flag (Reg.AX_CTL_mode n)).length
  | 1 => c.eqLanes.length
  | 2 => 12
  | 3 => c.dramDevices 0 + c.dramDevices 1
  | _ => 1

/-- A forced round completes (R486). -/
def calDone (item : Nat) (c : Chip) : Chip :=
  if !c.calRuns item then c
  else
    let c := calClear item c |> calCount item
    log 0x0D01 item (u8 item ++ u8 0 ++ u16 (c.calInstances item) ++ u32 (c.rd (Reg.CAL_ITEM_COUNT_value item))) c
      |> calItemEnd item none

/-- Forced rounds end with cause ABORTED when the unit's domain goes off (R486). -/
def calOff (d : Nat) (c : Chip) : Chip :=
  let hit (item : Nat) : Bool :=
    d == pdFABRIC ||
      match item with
      | 0 => d == pdMOTION
      | 1 => d == pdHEADSA || d == pdHEADSB || d == pdOVERVIEW
      | 3 => d == pdDRAM
      | 4 => (c.sys.cal.dark.map fun k => sieveDom (c.svOf k.ctx)) == some d
      | _ => false
  forEach ((List.range 5).filter hit) (fun item => calFail item 4 0) c

/-- A job starts (R482, R486): LANE_EQ and CAM_DARK rounds end with cause ABORTED. -/
def calJobStart (c : Chip) : Chip := calFail 1 4 0 c |> calFail 4 4 0

end Sys2Proof.Machine
end

