-- ==== Sys2Proof/Machine/Descriptor.lean ====
section
/-! DEFINITION. The job descriptor (03_serair_commands.md, R95, R555) and the record checks of the pre-walk (02, R53;
04_furrows.md, R104–R110). -/

namespace Sys2Proof.Machine

open Sys2Proof

/-- A channel entry from its 32 bytes. -/
def ChanEntry.ofBytes (l : List Byte) : ChanEntry :=
  ⟨leAt l 0 1, leAt l 1 1, leAt l 2 1, leAt l 3 1, leAt l 4 8, leAt l 12 4, leAt l 16 4, leAt l 20 4⟩

/-- A context entry from its 16 bytes. -/
def CtxEntry.ofBytes (l : List Byte) : CtxEntry :=
  ⟨leAt l 0 1, leAt l 1 1, leAt l 2 2, leAt l 4 4, leAt l 8 2, leAt l 10 2, leAt l 12 4⟩

/-- A stream entry from its 24 bytes. -/
def StreamEntry.ofBytes (l : List Byte) : StreamEntry := ⟨leAt l 0 1, leAt l 1 1, leAt l 4 8, leAt l 12 4, leAt l 16 4⟩

/-- Whether every byte is 0. -/
def allZero (l : List Byte) : Bool := l.all fun b => b == 0

/-- The offsets of a descriptor's entries: n of `size` bytes from `base`. -/
def entryOffs (base size n : Nat) : List Nat := (List.range n).map fun i => base + size * i

/-- The first offset of a list of (fault, offset) at fault. -/
def firstFault (l : List (Bool × Nat)) : Option Nat := (l.find? fun p => p.1).map fun p => p.2

/-- The fields of the entries at fault, with their offsets (R555 step 5). -/
def entryFaults (l : List Byte) (cs xs ss : List Nat) : List (Bool × Nat) :=
  (cs.flatMap fun o => [(decide (leAt l o 1 ≥ 24), o), (decide (leAt l (o + 2) 1 ≥ 8), o + 2),
      (!allZero (slice l (o + 24) 8), o + 24)]) ++
    (xs.flatMap fun o => [(decide (leAt l o 1 > 25), o), (decide (leAt l (o + 1) 1 > 1), o + 1)]) ++
    ss.flatMap fun o =>
      let k := leAt l o 1
      let i := leAt l (o + 1) 1
      [(decide (k < 1) || decide (k > 3), o), (k == 2 && i != 0 || k == 3 && decide (i > 63), o + 1),
        (!allZero (slice l (o + 2) 2), o + 2), (!allZero (slice l (o + 20) 4), o + 20)]

/-- The offset of the first entry that repeats the key of an earlier one. -/
def repeatAt (key : Nat → Nat) : List Nat → List Nat → Option Nat
  | _, [] => none
  | seen, o :: l => if seen.contains (key o) then some o else repeatAt key (key o :: seen) l

/-- The byte offset at fault in a descriptor of an admissible length (R555 steps 2 to 6). -/
def descFault (l : List Byte) : Option Nat :=
  let n := l.length
  let nc := leAt l 8 1
  let nx := leAt l 9 1
  let ns := leAt l 10 1
  let head := [(decide (leAt l 0 4 = 0), 0), (decide (nc < 1) || decide (nc > 24), 8), (decide (nx > 26), 9),
    (decide (ns > 32), 10), (!allZero (slice l 11 5), 11)]
  let cs := entryOffs 16 32 nc
  let xs := entryOffs (16 + 32 * nc) 16 nx
  let ss := entryOffs (16 + 32 * nc + 16 * nx) 24 ns
  (firstFault head).orElse fun _ =>
    if n ≠ 16 + 32 * nc + 16 * nx + 24 * ns + 4 then some 8
    else if crc32c (l.take (n - 4)) ≠ leAt l (n - 4) 4 then some (n - 4)
    else
      (firstFault (entryFaults l cs xs ss)).orElse fun _ =>
        ((repeatAt (fun o => leAt l o 1) [] cs).orElse fun _ => repeatAt (fun o => leAt l o 1) [] xs).orElse fun _ =>
          (repeatAt (fun o => leAt l o 2) [] ss).map fun o => o + 1

/-- The job that a descriptor without fault describes. -/
def Job.ofBytes (l : List Byte) : Job :=
  let nc := leAt l 8 1
  let nx := leAt l 9 1
  { id := leAt l 0 4, layer := leAt l 4 4, st := 0, walked := false
    chans := (entryOffs 16 32 nc).map fun o => ChanEntry.ofBytes (slice l o 32)
    ctxs := (entryOffs (16 + 32 * nc) 16 nx).map fun o => CtxEntry.ofBytes (slice l o 16)
    streams := (entryOffs (16 + 32 * nc + 16 * nx) 24 (leAt l 10 1)).map fun o => StreamEntry.ofBytes (slice l o 24)
    start := none, deadlines := [], frozen := [], lists := [] }

/-! ### Records (R104–R110) -/

/-- The condition of R108 on a record's kind and fields; `start`: its start point. The envelope's speeds are held
against it at admission. -/
def VecRec.kindOk (r : VecRec) (start : Pt) : Bool :=
  let a := r.arg
  let ctl := r.speed == 0 && r.power == 0 && r.spacing == 0
  let origin := r.x == 0 && r.y == 0
  if r.kind = kMark then decide (r.speed ≥ 1) && a == 0 && r.spacing == 0
  else if r.kind = kBreak then decide (r.speed ≥ 1) && a == 0 && decide (r.spacing ≥ 1)
  else if r.kind = kJump then r.power == 0 && a == 0 && r.spacing == 0
  else if r.kind = kDwell then r.pt == start && r.speed == 0 && r.spacing == 0 && decide (a ≥ 1)
  else if r.kind = kWaitIn then ctl && origin && decide (bits a 7 0 ≤ 15) && decide (bits a 15 8 ≤ 3)
  else if r.kind = kSetOut then
    ctl && origin && decide (bits a 7 0 ≤ 15) && decide (bits a 15 8 ≤ 3) &&
      (if bits a 15 8 = 3 then bits a 31 16 != 0 else bits a 31 16 == 0)
  else if r.kind = kWaitTime then ctl && bits (ofS 32 r.y) 31 16 == 0 && decide (a ≤ 999999999)
  else if r.kind = kSync then ctl && origin && bits a 15 0 != 0 && decide (bits a 31 16 < bits a 15 0)
  else if r.kind = kEnd then ctl && origin && a == 0
  else false

/-- Whether a record's own fields hold (R104, R108, R109). -/
def VecRec.ok (r : VecRec) (start : Pt) : Bool :=
  decide (r.pset ≤ 63) && decide (r.flags < 64) && (!r.sky || r.mark) && r.kindOk start

/-- The index of the first record at fault: its crc, fields or seq, or an END that is not last (R110). `prev`: the seq
of the record before; `start`: the start point. -/
def badRecord : List (VecRec × Bool) → Option Nat → Pt → Nat → Option Nat
  | [], _, _, i => some (i - 1)
  | (r, crc) :: l, prev, start, i =>
    if !crc || !r.ok start || (prev.any fun p => r.seq != (p + 1) % 65536) then some i
    else if r.kind = kEnd then (if l.isEmpty then none else some i)
    else badRecord l (some r.seq) (if r.motion then r.pt else start) (i + 1)

/-- A list as the pre-walk finds it at the present beat (R53); `pos`: the channel's commanded position. -/
def Chip.preWalk (c : Chip) (pos : Pt) (e : ChanEntry) : JobList :=
  if c.dramOk e.list (32 * e.len) then
    let raw := c.dramRead e.list (32 * e.len)
    let rs := (List.range e.len).map fun i =>
      let b := slice raw (32 * i) 32
      (VecRec.ofBytes i b, vecCrcOk b)
    ⟨e.chan, rs.map fun p => p.1, badRecord rs none pos 0, pos, true⟩
  else ⟨e.chan, [], some 0, pos, false⟩

end Sys2Proof.Machine
end

