-- ==== Sys2Proof/Machine/SieveCmds.lean ====
section
/-! DEFINITION. Commands of the camera contexts and the Sieves (07_sieve_pipeline.md; 03_serair_commands.md, R92). -/

namespace Sys2Proof.Machine

open Sys2Proof

/-- Whether a context belongs to an ADMITTED or RUNNING job. -/
def Chip.ctxInJob (c : Chip) (n : Nat) : Bool :=
  c.host.jobs.any fun j => (j.st == 1 || j.st == 2) && j.ctxs.any fun e => e.ctx == n

/-- Whether a context runs, or has been told to (R216, R249). -/
def Chip.ctxBusy (c : Chip) (n : Nat) : Bool := c.ctxRun n != 0 || (c.ctx n).startAt.isSome

/-- The load that a frame size and period put on a Sieve, in pixels per beat (R50). -/
def sieveLoad (w h f : Nat) : Rat := if f = 0 then 0 else ((w * h + 64 : Nat) : Rat) / (f : Nat)

/-- The load of the contexts that run on a Sieve, but for one. -/
def Chip.sieveDemand (c : Chip) (v : Nat) (but : Nat) : Rat :=
  ((List.range 32).filter fun n => c.svOf n == v && c.ctxBusy n && n != but).foldl
    (fun a n => a + sieveLoad (c.ctxW n) (c.ctxH n) (c.ctxF n)) 0

/-- CTX_BIND (R92, R215): refused for a context of an ADMITTED or RUNNING job. -/
def execCtxBind (o : Origin) (ctx sieve : BitVec 8) (s : State) : Host.Outcome State Fault Refusal :=
  let n := ctx.toNat
  let v := sieve.toNat
  runs (serve o 0x80 1 (.ctxBind o ctx sieve) (if n ≥ 32 then some 0 else if v ≥ 2 then some 1 else none) [sieveDom v] <|
    now fun c => if c.ctxInJob n then (badState (c.ctxRun n) n, c) else (done [], ctxBind n v c)) s

/-- Whether the period and phase of a context allow it to run alone (R219, R252). -/
def Chip.ctxPeriodOk (c : Chip) (n : Nat) : Bool :=
  let f := c.ctxF n
  decide (40 ≤ f) && decide (f ≤ (if isOverview n then 4000000 else 40000)) &&
    decide (c.rd (Reg.SVX_PHASE_beats (c.svOf n) n) < f)

/-- A context is told to run alone (R216): capacity, then the start beat and the start block. One that still stops starts
again all the same; one that runs alone already goes on. -/
def ctxRunAlone (n : Nat) (c : Chip) : Ans × Chip :=
  let v := c.svOf n
  let f := c.ctxF n
  let demand := c.sieveDemand v n + sieveLoad (c.ctxW n) (c.ctxH n) f
  if c.ctxRun n = 2 ∨ (c.ctx n).startAt.isSome then (done [], c)
  else if !c.ctxPeriodOk n then (badParam 0, c)
  else if demand > 950 then (refuseBudget (2 + v) v 950 demand.ceil.toNat, c)
  else
    let b := c.alignedFrom n (c.host.hg.rcvd + 2000)
    (done [], expStart n (modCtx n (fun x => { x with startAt := some b }) c))

/-- CTX_RUN (R216, R249). -/
def execCtxRun (o : Origin) (ctx on : BitVec 8) (s : State) : Host.Outcome State Fault Refusal :=
  let n := ctx.toNat
  runs (serve o 0x81 1 (.ctxRun o ctx on) (if n ≥ 32 then some 0 else if on.toNat ≥ 2 then some 1 else none) [] <|
    now fun c =>
      if !c.on (sieveDom (c.svOf n)) then (domainOff (sieveDom (c.svOf n)), c)
      else if c.ctxInJob n then (badState (c.ctxRun n) n, c)
      else if on.toNat = 0 then (done [], ctxEnd n c)
      else if n ≥ 26 ∧ ((c.admitted.isSome || c.running.isSome) ∨ c.ctxBusy (n - 26)) then (badState (c.ctxRun n) n, c)
      else if n < 6 ∧ c.ctxBusy (n + 26) then (badState (c.ctxRun n) n, c)
      else ctxRunAlone n c) s

/-- The offset of the first parameter of TAP_READ that is at fault. -/
def tapReadForm (ctx tap : BitVec 8) (len : BitVec 16) : Option Nat :=
  if ctx.toNat ≥ 32 then some 0 else if tap.toNat ≥ 6 then some 1
  else if len.toNat = 0 ∨ len.toNat > 1392 then some 12 else none

/-- TAP_READ (R92): bytes of a ring. -/
def execTapRead (o : Origin) (ctx tap : BitVec 8) (off : BitVec 64) (len : BitVec 16) (s : State) :
    Host.Outcome State Fault Refusal :=
  let n := ctx.toNat
  let k := tap.toNat
  runs (serve o 0x82 1 (.tapRead o ctx tap off len) (tapReadForm ctx tap len) [pdDRAM] <| tell fun c =>
    let v := c.svOf n
    if !c.on (sieveDom v) then domainOff (sieveDom v)
    else if off.toNat + len.toNat > c.rd (Reg.SVX_TAP_LEN_bytes v n k) * 64 then badParam 4
    else
      let a := c.tapBase n + c.rd (Reg.SVX_TAP_OFF_bytes v n k) * 64 + off.toNat
      if c.dramOk a len.toNat then done (c.dramRead a len.toNat) else faultMemory) s

/-- CTX_STATUS (R92). -/
def cmdCtxStatus (o : Origin) (ctx : BitVec 8) : Chip → Chip :=
  let n := ctx.toNat
  serve o 0x83 1 (.ctxStatus o ctx) (if n ≥ 32 then some 0 else none) [] <| tell fun c =>
    let v := c.svOf n
    if !c.on (sieveDom v) then domainOff (sieveDom v)
    else
      done (toBE 4 (c.rd (Reg.SVX_SEQ_seq v n)) ++ toBE 1 ((c.ctx n).lastSid.getD 0) ++
        toBE 1 (c.rd (Reg.SVX_STATUS_anomaly_run v n)) ++ toBE 2 (c.rd (Reg.SVX_STATUS_flags v n)) ++
        toBE 4 (c.rd (Reg.SVX_FRAMES_count v n)))

/-- CTX_STATUS. -/
def execCtxStatus (o : Origin) (ctx : BitVec 8) (s : State) : Host.Outcome State Fault Refusal := runs (cmdCtxStatus o ctx) s

/-! ### Events -/

/-- CAMERA_FRAME_OPEN (R48, R218, R239). -/
def execCameraFrameOpen (ctx : Fin 32) (s : State) : Host.Outcome State Fault Refusal :=
  runs (fun c => frameOpen ctx.val c |> frameWindow ctx.val) s

/-- FRAME_CLOSE (R220, R226). -/
def execFrameClose (ctx : Fin 32) (s : State) : Host.Outcome State Fault Refusal := runs (frameClose ctx.val) s

/-- SIEVE_RUN_START (R221). -/
def execSieveRunStart (sieve : Fin 2) (s : State) : Host.Outcome State Fault Refusal := runs (sieveStart sieve.val) s

/-- SIEVE_RUN_DONE (R221): results complete within the present beat. -/
def execSieveRunDone (sieve : Fin 2) (s : State) : Host.Outcome State Fault Refusal :=
  runs (fun c => sieveDone sieve.val (c.now * 250 + 249) c) s

/-- OVERVIEW_FRAME_TIMEOUT (R247). -/
def execOverviewFrameTimeout (ctx : Fin 32) (s : State) : Host.Outcome State Fault Refusal := runs (ovTimeout ctx.val) s

/-- OVERVIEW_LINE_RUN (R221, R248). -/
def execOverviewLineRun (ctx : Fin 32) (s : State) : Host.Outcome State Fault Refusal :=
  runs (fun c => match ovLine ctx.val c with
    | some c => ovFinish ctx.val c
    | none => ovFinish ctx.val c) s

/-- CONTEXT_START (R216). -/
def execContextStart (ctx : Fin 32) (s : State) : Host.Outcome State Fault Refusal := runs (ctxDue ctx.val) s

end Sys2Proof.Machine
end

