-- ==== Sys2Proof/Machine/Admission.lean ====
section
/-! DEFINITION. The checks of admission (02_beat_and_admission.md, R50): structure, envelope, Ladle configuration,
Sieve capacity, Memory Sluice slots, feature deadlines, start bounds. -/

namespace Sys2Proof.Machine

open Sys2Proof

/-- The refusal for a structure in DRAM: a code of R81, an instance and a value. -/
def badStruct (code inst value : Nat) : Ans := refuse 0x17 (0x8000 + code) inst value

/-- The first answer of a list of checks. -/
def firstAns : List (Option Ans) → Option Ans
  | [] => none
  | some a :: _ => some a
  | none :: l => firstAns l

/-- An answer when a condition holds. -/
def ansIf (b : Bool) (a : Ans) : Option Ans := if b then some a else none

/-! ### The walk of a list (R110, R129, R156, R177) -/

/-- One record of a walked list: its beats (none: without bound), the tile sets it holds one after the other, the first
at its start, its segments, its speed parameter, and the parameter set's jump speed where it uses it. -/
structure WalkEnt where
  beats : Option Nat
  stages : List (List Nat)
  segs : List Seg
  jump : Option Nat
  deriving DecidableEq, Repr

/-- The tile set of a walked record; empty when it needs none. -/
def WalkEnt.tiles (e : WalkEnt) : List Nat := e.stages.headD []

/-- Where a walk stands: commanded position, start point of the next motion record, chain. -/
structure WalkPos where
  cur : Pt
  start : Pt
  chain : Option (Option Pt)

/-- The largest path speed the loaded envelope allows a record; none without an envelope. -/
def Chip.speedLimit (c : Chip) (ch : Nat) (r : VecRec) : Option Nat :=
  c.host.sec.envelope.map fun e => if r.kind = kJump then e.jump.getD ch 0 else e.mark.getD ch 0

/-- The tile sets of a BREAK_MARK after each of its intermediate break points (R131). -/
def Chip.breakStages (c : Chip) (r : VecRec) (start : Pt) : List (List Nat) :=
  if r.kind ≠ kBreak ∨ start = r.pt then []
  else
    let sp := r.spacing * 1000
    (List.range (isqrt ((dist2 start r.pt - 1) / (sp * sp)))).map fun (k : Nat) =>
      (c.tilesOf r (along start r.pt start (((k + 1) * sp : Nat) : Int))).2

/-- A control record of a list: its beats in a continuous hold (R177). -/
def ctlBeats (r : VecRec) (m : Nat) : Option Nat :=
  if r.kind = kWaitIn then (if bits r.arg 31 16 = 0 then none else some (bits r.arg 31 16 * 1000))
  else if r.kind = kWaitTime then none
  else if r.kind = kSync then some (bits r.arg 15 0)
  else some (3 + m)

/-- One record walked: a code of R81, or its entry and where the walk stands after it. -/
def Chip.walkRec (c : Chip) (ch : Nat) (p : WalkPos) (r : VecRec) : Except Nat (WalkEnt × WalkPos) :=
  let m := c.maxDefer ch
  if !r.motion then
    if r.kind = kSetOut ∧ bit (c.rd (Reg.FUR_SYNC_CTL_out_mask ch)) (bits r.arg 7 0) = false then .error 0
    else .ok (⟨ctlBeats r m, [], [], none⟩, p)
  else
    let jv := c.rd (Reg.FUR_PSET_JUMP_jump_speed ch r.pset)
    let jumps := if r.kind = kJump then r.speed == 0 else c.approach ch r p.start != p.cur
    if (c.speedLimit ch r).any fun v => decide (r.speed > v) then .error 0
    else if jumps ∧ jv = 0 then .error 0
    else
      let t := c.tilesOf r p.start
      if r.needs ∧ c.tileGrid.badPath t.1 then .error 2
      else if r.needs ∧ t.2.length > 32 then .error 0
      else
        let q := c.mkPlan ch r p.start p.cur 0 p.chain
        .ok (⟨some (q.endBeat + 3 + m), if r.needs then t.2 :: c.breakStages r p.start else [], q.segs,
            if jumps then some jv else none⟩,
          ⟨q.endPt, r.pt, q.chainAfter p.chain⟩)

/-- The records of a list walked up to the first at fault: index and code of the fault, and the entries. -/
def Chip.walkRecs (c : Chip) (ch : Nat) (bad : Option Nat) : WalkPos → List VecRec → Option (Nat × Nat) × List WalkEnt
  | _, [] => (bad.map fun i => (i, 0), [])
  | p, r :: l =>
    if bad = some r.idx then (some (r.idx, 0), [])
    else
      match c.walkRec ch p r with
      | .error k => (some (r.idx, k), [])
      | .ok (e, q) =>
        let z := c.walkRecs ch bad q l
        (z.1, e :: z.2)

/-- Where a list leaves the beam, walked from a position (R52). -/
def Chip.listEnd (c : Chip) (ch : Nat) (p : WalkPos) (l : List VecRec) : Pt :=
  (l.foldl (fun p r => match c.walkRec ch p r with
    | .ok a => a.2
    | .error _ => p) p).cur

/-- The commanded position from which a list of a channel will run, as admission takes it: no RUNNING job changes it
(R52, R107). For a channel that the RUNNING job names it is where the job's list ends; else where the channel rests
(DEDUCED, log entry 30). -/
def Chip.restAt (c : Chip) (ch : Nat) : Pt :=
  match c.running.bind fun j => j.lists.find? fun x => x.chan == ch with
  | some x => c.listEnd ch ⟨x.pos, x.pos, none⟩ x.recs
  | none => (c.fur ch).lastEnd

/-- A job's list of a channel walked. -/
def Chip.walkList (c : Chip) (j : Job) (ch : Nat) : Option (Nat × Nat) × List WalkEnt :=
  match j.lists.find? fun x => x.chan == ch with
  | none => (some (0, 0), [])
  | some x => c.walkRecs ch x.bad ⟨x.pos, x.pos, none⟩ x.recs

/-- Every list of a job walked, by channel (DEDUCED, log entry 30). -/
def Chip.walkJob (c : Chip) (j : Job) : List (Nat × (Option (Nat × Nat) × List WalkEnt)) :=
  j.chans.map fun e => (e.chan, c.walkList j e.chan)

/-! ### Step 1: structure -/

/-- Whether a window lies in the installed DRAM. -/
def Chip.inDram (c : Chip) (a len : Nat) : Bool := decide (a + len ≤ 2 * c.dramChan)

/-- What the job names that does not exist (R50 step 1, R81 DESCRIPTOR), in the order of the descriptor. -/
def Chip.missing (c : Chip) (j : Job) : Option Ans :=
  let nc := j.chans.length
  let cs := (j.chans.zip (entryOffs 16 32 nc)).flatMap fun p =>
    [(decide (p.1.ctx ≥ 32) && p.1.ctx != 0xFF, p.2 + 3), (!c.inDram p.1.list (32 * p.1.len), p.2 + 4)]
  let ss := (j.streams.zip (entryOffs (16 + 32 * nc + 16 * j.ctxs.length) 24 j.streams.length)).flatMap fun p =>
    [(p.1.kind == 1 && decide (p.1.inst ≥ 32), p.2 + 1), (!c.inDram p.1.base p.1.len, p.2 + 4)]
  (firstFault (cs ++ ss)).map fun o => badStruct 1 0 o

/-- Whether the grid that will be active at the job's start is valid: the shadow where a commit waits (R110, R124). -/
def Chip.gridAtStart (c : Chip) (ch : Nat) : Bool :=
  let g := c.beam.grids.getD ch ⟨[], []⟩
  let pend := c.host.commits.any fun k => k.kind == 0 && k.inst == ch
  bit ((assocGet 0x3FFFC (if pend then g.shadow else g.active)).getD 0) 0

/-- The checks of a channel's list (R110, R156). `before`: the outputs of the channels before it. -/
def Chip.chanCheck (c : Chip) (j : Job) (before : Nat) (e : ChanEntry) (walk : Option (Nat × Nat)) : Option Ans :=
  let ch := e.chan
  firstAns [
    ansIf (e.list % 64 != 0) (badStruct 0 ch 0xFFFFFFFF),
    ansIf (j.lists.any fun x => x.chan == ch && !x.read) faultMemory,
    walk.map fun p => badStruct p.2 ch p.1,
    ansIf (!c.gridAtStart ch) (badStruct 0 ch 0),
    ansIf (decide (c.rd (Reg.FUR_LOG_SIZE_log2_entries ch) < 10) || decide (c.rd (Reg.FUR_LOG_SIZE_log2_entries ch) > 24))
      (badStruct 0 ch 0),
    ansIf (c.rd (Reg.FUR_SYNC_CTL_out_mask ch) &&& before != 0) (badStruct 0 ch 0)]

/-- Every channel of a job, in descriptor order. -/
def Chip.chansCheck (c : Chip) (j : Job) : Nat → List (ChanEntry × Option (Nat × Nat)) → Option Ans
  | _, [] => none
  | m, (e, w) :: l =>
    match c.chanCheck j m e w with
    | some a => some a
    | none => c.chansCheck j (m ||| c.rd (Reg.FUR_SYNC_CTL_out_mask e.chan)) l

/-- Whether a power loop of the job uses a context. -/
def Job.powers (j : Job) (n : Nat) : Bool := j.chans.any fun e => bit e.loops 2 && e.ctx == n

/-- The codes of FX_n_SEL that R263 defines. -/
def featCode (k : Nat) : Bool := decide (k ≤ 8)

/-- The conditions of a context entry (R219, R265, R198). -/
def Chip.ctxCheck (c : Chip) (j : Job) (x : CtxEntry) : Option Ans :=
  let n := x.ctx
  let v := c.svOf n
  let lane := if n < 24 then 2 * n + 1 else 48 + 2 * (n - 24)
  let need := ceilDiv (x.w * x.h * c.ctxDepth n) 32
  let room := x.f * ((rateWords (c.laneRate lane) - 8) * (if n < 24 then 1 else 2))
  let sel := n < 24 ∧ c.rd (Reg.FX_SEL_feat_a n) ≠ 0 ∧ featCode (c.rd (Reg.FX_SEL_feat_a n)) ∧
    featCode (c.rd (Reg.FX_SEL_feat_b n))
  firstAns [
    ansIf (x.sieve != v) (badStruct 4 n 1),
    ansIf (x.w != c.ctxW n || x.h != c.ctxH n) (badStruct 4 n 2),
    ansIf (decide (x.f < 40) || decide (x.f > (if n < 24 then 40000 else 4000000)) ||
      (if n < 24 then decide (x.phase ≥ x.f) else x.phase != 0)) (badStruct 4 n 3),
    ansIf (j.powers n && !c.flag (Reg.SVX_CFG_temp_en v n)) (badStruct 4 n 4),
    ansIf (j.powers n && !decide sel) (badStruct 4 n 6),
    ansIf (decide (need + 4 > room)) (badStruct 3 n need)]

/-- Test contexts that the descriptor names: by a power loop or as a tap stream (R219 code 5). -/
def Job.testCtx (j : Job) : Option Nat :=
  ((j.chans.map fun e => e.ctx) ++ (j.streams.filter fun s => s.kind == 1).map fun s => s.inst).find? fun n =>
    decide (26 ≤ n) && decide (n < 32)

/-- The bands of a context's image. -/
def Chip.ctxBands (c : Chip) (n : Nat) : Nat := (c.pixCfg n).bands

/-- The record length of a tap point (R242, R243). -/
def Chip.tapLen (c : Chip) (n k : Nat) : Nat :=
  let px := c.ctxW n * c.ctxH n * 2
  let pay := if k = 3 then px * c.ctxBands n else if k = 5 then c.ctxBands n * (256 * 4 + 64 * 2) else px
  (32 + pay + 63) / 64 * 64

/-- The rings of a context: offset, length, record length, decimation, whether it counts as ADMITTED. -/
def Chip.tapRings (c : Chip) (n : Nat) : List (Nat × Nat × Nat × Nat × Bool) :=
  let v := c.svOf n
  let pts := ((List.range 6).filter fun k => c.flag (Reg.SVX_TAP_CTL_enable v n k)).map fun k =>
    (c.rd (Reg.SVX_TAP_OFF_bytes v n k) * 64, c.rd (Reg.SVX_TAP_LEN_bytes v n k) * 64, c.tapLen n k,
      c.rd (Reg.SVX_TAP_CTL_d v n k), !c.flag (Reg.SVX_TAP_CTL_mode v n k))
  pts ++ if n < 24 ∧ c.flag (Reg.FX_REC_CTL_enable n) then
    [(c.rd (Reg.FX_REC_OFF_bytes n) * 64, c.rd (Reg.FX_REC_LEN_bytes n) * 64, 64, c.rd (Reg.FX_REC_CTL_d n), true)]
  else []

/-- Whether two rings of a list overlap. -/
def ringsMeet : List (Nat × Nat × Nat × Nat × Bool) → Bool
  | [] => false
  | r :: l => (l.any fun q => decide (r.1 < q.1 + q.2.1) && decide (q.1 < r.1 + r.2.1)) || ringsMeet l

/-- The bytes per ms that a context's ADMITTED points write. -/
def Chip.tapRate (c : Chip) (n f : Nat) : Rat :=
  (c.tapRings n).foldl (fun a r =>
    if r.2.2.2.2 ∧ f * r.2.2.2.1 ≠ 0 then a + ((r.2.2.1 * 4000 : Nat) : Rat) / (f * r.2.2.2.1 : Nat) else a) 0

/-- The record bytes of one frame of a context's ADMITTED points. -/
def Chip.tapBytes (c : Chip) (n : Nat) : Nat :=
  ((c.tapRings n).map fun r => if r.2.2.2.2 then r.2.2.1 else 0).sum

/-- The conditions of a context's rings (R246, R266); `before`: the record bytes of the Sieve's contexts before it. -/
def Chip.tapCheck (c : Chip) (j : Job) (x : CtxEntry) (before : Nat) : Option Ans :=
  let n := x.ctx
  let s := j.streams.find? fun s => s.kind == 1 && s.inst == n
  let win := (s.map fun s => s.len).getD 0
  let rate := (s.map fun s => s.rate).getD 0
  let rs := c.tapRings n
  firstAns [
    ansIf ((rs.any fun r => decide (r.1 + r.2.1 > win)) || ringsMeet rs || (!rs.isEmpty && s.isNone)) (badStruct 5 n 1),
    ansIf (rs.any fun r => decide (r.2.1 < 2 * r.2.2.1)) (badStruct 5 n 2),
    ansIf (decide ((rate : Rat) < c.tapRate n x.f)) (badStruct 5 n 3),
    ansIf (decide (before + c.tapBytes n > 2 ^ 20)) (badStruct 5 n 4)]

/-- Every context's rings, in descriptor order; `sums`: record bytes so far by Sieve. -/
def Chip.tapsCheck (c : Chip) (j : Job) : Nat × Nat → List CtxEntry → Option Ans
  | _, [] => none
  | s, x :: l =>
    let b := if x.sieve = 0 then s.1 else s.2
    match c.tapCheck j x b with
    | some a => some a
    | none =>
      let t := b + c.tapBytes x.ctx
      c.tapsCheck j (if x.sieve = 0 then (t, s.2) else (s.1, t)) l

/-- Step 1 of R50 (DEDUCED, log entry 29). -/
def Chip.structCheck (c : Chip) (j : Job) (walks : List (Nat × (Option (Nat × Nat) × List WalkEnt))) : Option Ans :=
  firstAns [
    c.missing j,
    c.chansCheck j 0 (j.chans.zip (walks.map fun w => w.2.1)),
    j.testCtx.map fun n => badStruct 4 n 5,
    firstAns (j.ctxs.map (c.ctxCheck j)),
    c.tapsCheck j (0, 0) j.ctxs,
    (j.streams.find? fun s => s.kind == 3 && s.len == 0).map fun s => badStruct 6 s.inst 0]

/-! ### Step 2: envelope (R156, R460, R461) -/

/-- The edges of a closed polygon. -/
def edges (poly : List Pt) : List (Pt × Pt) := poly.zip (poly.drop 1 ++ poly.take 1)

/-- A point with rational coordinates. -/
abbrev QPt := Rat × Rat

/-- Whether a point lies on a closed segment. -/
def onSide (z : QPt) (e : Pt × Pt) : Bool :=
  let (p, q) := e
  decide (((q.1 - p.1 : Int) : Rat) * (z.2 - p.2) - ((q.2 - p.2 : Int) : Rat) * (z.1 - p.1) = 0) &&
    decide ((min p.1 q.1 : Rat) ≤ z.1) && decide (z.1 ≤ (max p.1 q.1 : Rat)) &&
    decide ((min p.2 q.2 : Rat) ≤ z.2) && decide (z.2 ≤ (max p.2 q.2 : Rat))

/-- Whether the ray from a point to +X crosses an edge. -/
def rayCrosses (z : QPt) (e : Pt × Pt) : Bool :=
  let (p, q) := e
  let up := decide ((p.2 : Rat) ≤ z.2) && decide (z.2 < (q.2 : Rat))
  let dn := decide ((q.2 : Rat) ≤ z.2) && decide (z.2 < (p.2 : Rat))
  let s := ((q.1 - p.1 : Int) : Rat) * (z.2 - p.2) - ((q.2 - p.2 : Int) : Rat) * (z.1 - p.1)
  (up && decide (s > 0)) || (dn && decide (s < 0))

/-- Whether a point lies inside a simple polygon or on its boundary (R460). -/
def insidePoly (poly : List Pt) (z : QPt) : Bool :=
  (edges poly).any (onSide z) || (edges poly).countP (rayCrosses z) % 2 == 1

/-- Where a segment from p to q meets an edge, as fractions of the segment. -/
def meetsAt (p q : Pt) (e : Pt × Pt) : List Rat :=
  let d : Pt := (q.1 - p.1, q.2 - p.2)
  let g : Pt := (e.2.1 - e.1.1, e.2.2 - e.1.2)
  let den := d.1 * g.2 - d.2 * g.1
  let w : Pt := (e.1.1 - p.1, e.1.2 - p.2)
  let dd := d.1 * d.1 + d.2 * d.2
  if den ≠ 0 then [((w.1 * g.2 - w.2 * g.1 : Int) : Rat) / (den : Int)]
  else if dd = 0 then []
  else
    [((w.1 * d.1 + w.2 * d.2 : Int) : Rat) / (dd : Int),
      (((e.2.1 - p.1) * d.1 + (e.2.2 - p.2) * d.2 : Int) : Rat) / (dd : Int)]

/-- Insert a fraction in rising order. -/
def insRat (t : Rat) : List Rat → List Rat
  | [] => [t]
  | x :: l => if t ≤ x then t :: x :: l else x :: insRat t l

/-- Whether a whole segment lies inside a polygon: its ends do, and so does a point between any two of the places in
which it meets the edges. -/
def segInside (poly : List Pt) (p q : Pt) : Bool :=
  let at' (t : Rat) : QPt := ((p.1 : Rat) + t * ((q.1 - p.1 : Int) : Rat), (p.2 : Rat) + t * ((q.2 - p.2 : Int) : Rat))
  let ts := ((edges poly).flatMap (meetsAt p q)).filter fun t => decide (0 < t) && decide (t < 1)
  let l := ([0, 1] ++ ts).foldl (fun a t => insRat t a) []
  insidePoly poly (at' 0) && insidePoly poly (at' 1) &&
    (l.zip (l.drop 1)).all fun s => insidePoly poly (at' ((s.1 + s.2) / 2))

/-- The bed bound that a point breaks, if any. -/
def bedBroken (e : Envelope) (p : Pt) : Option Int :=
  if p.1 < e.xMin then some e.xMin else if p.2 < e.yMin then some e.yMin
  else if p.1 > e.xMax then some e.xMax else if p.2 > e.yMax then some e.yMax else none

/-- REFUSED_ENVELOPE with a broken limit. -/
def overLimit (inst : Nat) (value : Nat) : Ans := refuse 0x15 1 inst value

/-- The envelope's limits held against a walked record of a channel. -/
def Envelope.entCheck (v : Envelope) (ch : Nat) (e : WalkEnt) : Option Ans :=
  let lim := v.jump.getD ch 0
  firstAns (ansIf (e.jump.any fun k => decide (k > lim)) (overLimit ch lim) ::
    e.segs.map fun g =>
      let p : Pt := (g.x0, g.y0)
      let q : Pt := (g.x1, g.y1)
      match (bedBroken v p).orElse fun _ => bedBroken v q with
      | some b => some (overLimit ch (ofS 32 b))
      | none => ansIf (!segInside (v.poly.getD ch []) p q) (overLimit ch 0))

/-- Step 2 of R50. A power is a fraction of the envelope's maximum; a descriptor names no axis move and no Kettle
value. -/
def Chip.envCheck (c : Chip) (j : Job) (walks : List (Nat × (Option (Nat × Nat) × List WalkEnt))) : Option Ans :=
  let first := (j.chans.map fun e => e.chan).headD 0
  match c.host.sec.envelope with
  | none => some (refuse 0x15 0 first 0)
  | some v =>
    let d := c.rd Reg.SLB_GUARD_SEP_d_min
    let gap := 2 * c.rd Reg.SLB_CTL_halo * (c.rd Reg.SLB_GRID_EDGE_edge * 1000)
    firstAns (ansIf (decide (d > gap) && walks.any fun w => w.2.2.any fun e => !e.stages.isEmpty) (overLimit first d) ::
      walks.flatMap fun w => w.2.2.map (v.entCheck w.1))

/-! ### Step 3: Ladle configuration (R274) -/

/-- The first failing condition of a loop: code, limit, demand. -/
def Chip.loopCheck (c : Chip) (j : Job) (e : ChanEntry) (l : Nat) : Option (Nat × Nat × Nat) :=
  let n := e.chan
  let x := j.ctxs.find? fun x => x.ctx == e.ctx
  let f := (x.map fun x => x.f).getD 0
  let per := c.rd (Reg.LAD_RC_PERIOD_n n l)
  let lead := c.rd (Reg.LAD_RC_PERIOD_lead n l)
  let fe := c.rd (Reg.LAD_FE_LIM_limit n l)
  let pw := c.rd (Reg.LAD_PW_LIM_limit n l)
  let order (lo hi : Fld) : Option (Nat × Nat × Nat) :=
    if c.rdS lo > c.rdS hi then some (7, c.rd hi, c.rd lo) else none
  if c.ucode n l = 0 then some (1, 2, 0)
  else if !c.flag (ladReadyFld n l) then some (2, 1, 0)
  else if e.s ≠ 2 ∧ e.s ≠ 4 ∧ e.s ≠ 8 then some (3, 8, e.s)
  else if l = 2 ∧ (x.isNone ∨ f < 2 * e.s) then some (4, f, 2 * e.s)
  else if per = 0 ∨ per > 4096 then some (5, 4096, per)
  else if lead ≥ per then some (6, per - 1, lead)
  else
    (order (Reg.LAD_I_LO_bound n l) (Reg.LAD_I_HI_bound n l)).orElse fun _ =>
      (order (Reg.LAD_Y_LO_bound n l) (Reg.LAD_Y_HI_bound n l)).orElse fun _ =>
        if c.flag (Reg.LAD_CTL_fe_en n l) ∧ pw ≥ fe then some (7, fe, pw) else none

/-- The first failing loop of a job: channel, loop, code, limit, demand. -/
def Chip.ladleCheck (c : Chip) (j : Job) : Option (Nat × Nat × Nat × Nat × Nat) :=
  ((j.chans.flatMap fun e => ([0, 1, 2].filter fun l => bit e.loops l).map fun l =>
    (c.loopCheck j e l).map fun p => (e.chan, l, p.1, p.2.1, p.2.2)).find? Option.isSome).join

/-! ### Steps 4 to 7 (R50, R55, R222, R223, R396) -/

/-- The load of a job's contexts on a Sieve, in pixels per beat. -/
def Job.sieveLoad (j : Job) (v : Nat) : Rat :=
  (j.ctxs.filter fun x => x.sieve == v).foldl (fun a x => a + Sys2Proof.Machine.sieveLoad x.w x.h x.f) 0

/-- The admitted load of a Sieve that SVA_STATUS shows (R252): of the RUNNING job, or else of the ADMITTED one, and of the
contexts that run alone (DESIGN CHOICE, log entry 66). -/
def Chip.admittedLoad (c : Chip) (v : Nat) : Rat :=
  let job := ((c.running.orElse fun _ => c.admitted).map fun j => j.sieveLoad v).getD 0
  ((List.range 32).filter fun n => c.svOf n == v && (c.ctxRun n == 2 || (c.ctx n).startAt.isSome)).foldl
    (fun a n => a + Sys2Proof.Machine.sieveLoad (c.ctxW n) (c.ctxH n) (c.ctxF n)) job

/-- SVA_STATUS.load follows. -/
def loadShow (v : Nat) (c : Chip) : Chip :=
  when (c.shown (sieveDom v)) (wr (Reg.SVA_STATUS_load v) (min 65535 (c.admittedLoad v).ceil.toNat)) c

/-- Steps 4 and 5. -/
def Job.loadCheck (j : Job) (v : Nat) : Option Ans :=
  ansIf (decide (j.sieveLoad v > 950)) (refuseBudget (2 + v) v 950 (j.sieveLoad v).ceil.toNat)

/-- The slots each requester reserves (R396). -/
def Chip.slotNeeds (c : Chip) (j : Job) : List Nat :=
  let p := c.slmPeriod
  let sumOf (l : List Rat) : Rat := l.foldl (fun a x => a + x) 0
  let stream (k : Nat) : Rat := sumOf ((j.streams.filter fun s => s.kind == k).map fun s => ((s.rate * p : Nat) : Rat) / 4000)
  let ov (v : Nat) : Rat := sumOf ((j.ctxs.filter fun x => isOverview x.ctx && x.sieve == v).map fun x =>
    ((x.w * x.h * (4 * c.rd (Reg.SVX_CFG_fpn_en v x.ctx) + 4 * c.rd (Reg.SVX_CFG_tnr_en v x.ctx)) * p : Nat) : Rat) / (x.f : Nat))
  let b : List Rat := [sumOf (j.chans.map fun e => ((e.rate * p * 48 : Nat) : Rat) / 1000), ov 0, ov 1, stream 1, stream 3,
    stream 3, stream 2]
  b.map fun x => if x > 0 then (x / 64).ceil.toNat + 1 else 0

/-- The first requester at which a running sum exceeds 448. -/
def slotOver : Nat → Nat → List Nat → Option Nat
  | _, _, [] => none
  | sum, r, n :: l => if sum + n > 448 then some r else slotOver (sum + n) (r + 1) l

/-- Step 6. -/
def Chip.slotCheck (c : Chip) (j : Job) : Option Ans :=
  let ns := c.slotNeeds j
  (slotOver 0 0 ns).map fun r => refuseBudget 4 r 448 ns.sum

/-- A run of a context: its length in FCLK cycles. -/
def CtxEntry.run (x : CtxEntry) : Nat := ceilDiv (x.w * x.h) 4 + 16

/-- Insert a close (FCLK cycle, context, run length) in the order of service. -/
def insClose (p : Nat × Nat × Nat) : List (Nat × Nat × Nat) → List (Nat × Nat × Nat)
  | [] => [p]
  | x :: l => if p.1 < x.1 ∨ (p.1 = x.1 ∧ p.2.1 < x.2.1) then p :: x :: l else x :: insClose p l

/-- Completion times of runs served in order from an empty Sieve: context, close, completion. -/
def serveRuns : Nat → List (Nat × Nat × Nat) → List (Nat × Nat × Nat)
  | _, [] => []
  | free, (close, n, len) :: l =>
    let fin := max free close + len
    (n, close, fin) :: serveRuns fin l

/-- The Sieve allowance of a melt-pool context (R222), in beats. -/
def Job.allowance (j : Job) (x : CtxEntry) : Nat :=
  let mine := j.ctxs.filter fun y => y.sieve == x.sieve
  let melt := mine.filter fun y => decide (y.ctx < 24)
  let b := (mine.filter fun y => decide (y.ctx ≥ 24)).foldl (fun a y => max a (ceilDiv y.w 4)) 0
  let a := if melt.all fun y => y.f == x.f then
      let closes := [0, 1].flatMap fun p => melt.map fun y => (((y.phase + 1) % x.f + p * x.f) * 250, y.ctx, y.run)
      let order := closes.foldl (fun l p => insClose p l) []
      ((serveRuns 0 order).filter fun r => r.1 == x.ctx && decide (r.2.1 ≥ x.f * 250)).foldl
        (fun m r => max m (r.2.2 - r.2.1)) 0
    else (melt.map CtxEntry.run).sum
  3 + ceilDiv (b + a) 250

/-- The deadline offset of a context (R55); 0 for the overview contexts (R223). -/
def Job.deadline (j : Job) (x : CtxEntry) : Nat := if x.ctx < 24 then 2 * x.f + j.allowance x + 2 else 0

/-- Step 7. -/
def Job.deadlineCheck (j : Job) (x : CtxEntry) : Option Ans :=
  if x.ctx ≥ 24 then none
  else
    let d := j.deadline x
    (ansIf (decide (j.allowance x > x.f)) (refuseBudget 5 x.ctx (3 * x.f + 2) d)).orElse fun _ =>
      ansIf (x.maxD != 0 && decide (d > x.maxD)) (refuseBudget 5 x.ctx x.maxD d)

/-! ### Step 8: start bounds (R177) -/

/-- The longest hold of each tile: the beats (none: without bound), and the tile. -/
abbrev Holds := List (Nat × Option Nat)

/-- The greater of two holds. -/
def maxHold : Option Nat → Option Nat → Option Nat
  | some a, some b => some (max a b)
  | _, _ => none

/-- The sum of two holds. -/
def addHold : Option Nat → Option Nat → Option Nat
  | some a, some b => some (a + b)
  | _, _ => none

/-- The tile sets that a channel requests in turn while it holds some tiles: each as soon as it fits (R130). -/
def aheadSets (held : List Nat) : List (List Nat) → List (List Nat)
  | [] => []
  | s :: l =>
    let u := dedup (held ++ s)
    if u.length ≤ 32 then s :: aheadSets u l else []

/-- Whether a tile is released at an intermediate break point of a record: outside the remaining path and every set
requested before (R131); `next`: the sets that follow in list order. -/
def cutAt (next : List (List Nat)) (t : Nat) : List (List Nat) → Bool
  | s :: u :: l => (s.contains t && !u.contains t && !(aheadSets s next).any fun x => x.contains t) || cutAt next t (u :: l)
  | _ => false

/-- The longest hold of each tile of a walked list. `open'`: the tiles that the records before keep, with the beats of
their holds so far. While a record runs, the channel holds its set and those that it requests ahead from its buffer of
64 records (R130, R138); at its end break point it keeps the latter (R131). -/
def holdsOf : List WalkEnt → Holds → Holds → Holds
  | [], _, best => best
  | e :: l, open', best =>
    let next := ((l.take 64).filter fun x => !x.stages.isEmpty).map WalkEnt.tiles
    let ahead := dedup (aheadSets (e.stages.getLastD []) next).flatten
    let now := (dedup (e.tiles ++ ahead)).map fun t => (t, addHold ((assocGet t open').getD (some 0)) e.beats)
    let kept := (now.filter fun p => ahead.contains p.1).map fun p => if cutAt next p.1 e.stages then (p.1, e.beats) else p
    holdsOf l kept (now.foldl (fun b p => assocPut p.1 (maxHold p.2 ((assocGet p.1 b).getD (some 0))) b) best)

/-- The tiles of a walked list. -/
def tilesWalked (l : List WalkEnt) : List Nat := dedup (l.flatMap WalkEnt.tiles)

/-- The channels linked to those of a list through common tiles, grown `fuel` times. -/
def linked (sets : List (Nat × List Nat)) : Nat → List Nat → List Nat
  | 0, l => l
  | f + 1, l =>
    linked sets f (l ++ (sets.filter fun p => !l.contains p.1 && l.any fun m =>
      ((assocGet m sets).getD []).any fun t => p.2.contains t).map fun p => p.1)

/-- U: beats from ready to urgency. -/
def Chip.urgencyBeats (c : Chip) : Nat :=
  let k := c.rd Reg.SLB_CTL_k_max
  let lu := max 1 (k + c.rd Reg.SLB_CTL_urgent_extra)
  ((List.range (lu - 1)).map fun i => 2 ^ min (i + 1) k).sum

/-- The start bound of a channel; none when it has no bound. -/
def Chip.startBound (c : Chip) (sets : List (Nat × List Nat)) (holds : List (Nat × Holds)) (ch : Nat) : Option Nat :=
  let q := c.rd Reg.SLB_QUOTA_N_quota
  let ts := c.rd Reg.SLB_SETTLE_settle
  let own := 3 + c.maxDefer ch + c.urgencyBeats + if q ≠ 0 ∧ c.slbClass ch = 3 then c.rd Reg.SLB_QUOTA_WIN_window else 0
  let comp := linked sets sets.length [ch]
  (comp.filter fun m => m != ch).foldl (fun a m =>
    let others := (comp.filter fun o => o != m).flatMap fun o => (assocGet o sets).getD []
    let h := (((assocGet m holds).getD []).filter fun p => others.contains p.1).foldl (fun a p => maxHold a p.2) (some 0)
    addHold a (h.map fun h => 2 * (h + ts))) (some own)

/-- A start bound as reported: 0xFFFF_FFFF when there is none. -/
def boundU32 (b : Option Nat) : Nat := min (b.getD 0xFFFFFFFF) 0xFFFFFFFF

/-- The start bounds of a job's channels, in descriptor order. -/
def Chip.startBounds (c : Chip) (walks : List (Nat × (Option (Nat × Nat) × List WalkEnt))) : List (Nat × Nat) :=
  let sets := walks.map fun w => (w.1, tilesWalked w.2.2)
  let holds := walks.map fun w => (w.1, holdsOf w.2.2 [] [])
  walks.map fun w => (w.1, boundU32 (c.startBound sets holds w.1))

/-- Step 8. -/
def boundCheck (j : Job) (bs : List (Nat × Nat)) : Option Ans :=
  firstAns ((j.chans.zip bs).map fun p =>
    ansIf (p.1.tol != 0 && decide (p.2.2 > p.1.tol)) (refuseBudget 6 p.1.chan p.1.tol p.2.2))

/-! ### All steps -/

/-- What admission finds: a refusal, with the Ladle failure to record, or the start bounds. -/
def Chip.admission (c : Chip) (j : Job) : Except (Ans × Option (Nat × Nat × Nat)) (List (Nat × Nat)) :=
  let walks := c.walkJob j
  match (c.structCheck j walks).orElse fun _ => c.envCheck j walks with
  | some a => .error (a, none)
  | none =>
    match c.ladleCheck j with
    | some (ch, l, code, lim, dem) => .error (refuseBudget 1 ch lim dem, some (ch, l, code))
    | none =>
      let bs := c.startBounds walks
      match firstAns [j.loadCheck 0, j.loadCheck 1, c.slotCheck j, firstAns (j.ctxs.map j.deadlineCheck), boundCheck j bs] with
      | some a => .error (a, none)
      | none => .ok bs

/-- The body of ACCEPTED (R54, R95). -/
def acceptedBody (j : Job) (bs : List (Nat × Nat)) : List Byte :=
  toBE 4 j.id ++ toBE 1 j.chans.length ++ toBE 1 j.ctxs.length ++ toBE 2 0 ++
    (bs.flatMap fun b => toBE 1 b.1 ++ toBE 3 0 ++ toBE 4 b.2) ++
    j.ctxs.flatMap fun x => toBE 1 x.ctx ++ toBE 3 0 ++ toBE 4 (j.deadline x)

end Sys2Proof.Machine
end

