-- ==== Sys2Proof/Machine/Keys.lean ====
section
/-! DEFINITION. The OTP, certificates and chains, key slots, and how sessions open and end
(16_management_roles_crock.md, R445, R457–R459; 03_serair_commands.md, R73, R74, R103). -/

namespace Sys2Proof.Machine

open Sys2Proof

/-! ### OTP (R445) -/

/-- A word of the OTP. -/
def Chip.otp (c : Chip) (k : Nat) : Nat := (assocGet k c.fix.otp).getD 0

/-- The die identity. -/
def Chip.dieId (c : Chip) : Nat := c.otp 0 + c.otp 1 * 2 ^ 32

/-- The hash of the maker's key. -/
def Chip.rootHash (c : Chip) : List Byte := (List.range 8).flatMap fun k => toLE 4 (c.otp (8 + k))

/-- The CRC computed over words 0x000–0x3FE. -/
def Chip.otpCrc (c : Chip) : Nat := crc32c ((List.range 1023).flatMap fun k => toLE 4 (c.otp k))

/-! ### Certificates and chains (R457, R458) -/

/-- A certificate. -/
structure Cert where
  form : Nat
  role : Nat
  rsv : Nat
  keyId : Nat
  issuer : Nat
  die : Nat
  key : List Byte
  sig : List Byte
  body : List Byte
  deriving DecidableEq, Repr

/-- A certificate from its 116 bytes. -/
def Cert.ofBytes (l : List Byte) : Cert :=
  ⟨beAt l 0 1, beAt l 1 1, beAt l 2 2, beAt l 4 4, beAt l 8 4, beAt l 12 8, slice l 20 32, slice l 52 64, slice l 0 52⟩

/-- The certificates of a chain. -/
def chainCerts (n : Nat) (l : List Byte) : List Cert := (List.range n).map fun i => Cert.ofBytes (slice l (116 * i) 116)

/-- The number of certificates of a chain of that many bytes. -/
def chainCount (len : Nat) : Option Nat := if len = 148 then some 1 else if len = 264 then some 2 else if len = 380 then some 3 else none

/-- The place of the first certificate that a check refuses. -/
def firstCert (f : Nat → Bool) (n : Nat) : Option Nat := (List.range n).find? fun i => !f i

/-- Why a chain is not valid: the reason, and the byte offset that the refusal names (R458). -/
def Chip.chainFault (c : Chip) (n : Nat) (l : List Byte) : Option (Nat × Nat) :=
  let cs := chainCerts n l
  let root := slice l (116 * n) 32
  let at0 (i : Nat) : Cert := cs.getD i (Cert.ofBytes [])
  let formOk (i : Nat) : Bool :=
    let x := at0 i
    x.form == 1 && decide (1 ≤ x.role) && decide (x.role ≤ 3) && x.rsv == 0 && x.keyId != 0 &&
      x.issuer == (if i + 1 < n then (at0 (i + 1)).keyId else 0)
  let sigOk (i : Nat) : Bool := edVerify (if i + 1 < n then (at0 (i + 1)).key else root) (at0 i).body (at0 i).sig
  let dieOk (i : Nat) : Bool := (at0 i).die == 0 || (at0 i).die == c.dieId
  let roleOk (i : Nat) : Bool := decide (n ≤ i + 1) || decide ((at0 i).role < (at0 (i + 1)).role)
  let fault (reason : Nat) (f : Nat → Bool) : Option (Nat × Nat) := (firstCert f n).map fun i => (reason, 116 * i)
  (fault 1 formOk).orElse fun _ =>
    (if sha256 root = c.rootHash then none else some (3, 116 * n)).orElse fun _ =>
      (fault 2 sigOk).orElse fun _ => (fault 5 dieOk).orElse fun _ => fault 4 roleOk

/-! ### Key slots (R458) -/

/-- The key slot that holds a key id. -/
def Chip.keySlot (c : Chip) (id : Nat) : Option Nat :=
  (List.range 16).find? fun k => decide (id ≠ 0) && c.rd (Reg.SEC_KEY_ID_value k) == id

/-- The open sessions that use a key. -/
def Chip.keyUses (c : Chip) (id : Nat) : Nat :=
  ((List.range 8).filter fun s => c.sessionOpen s && c.rd (Reg.SEC_SLOT_KEY_value s) == id).length

/-- The counts that SEC shows: key slots in use, sessions open, sessions of each key. -/
def secShow (c : Chip) : Chip :=
  wr Reg.SEC_STATUS_keys ((List.range 16).filter fun k => c.flag (Reg.SEC_KEY_ID_value k)).length c
    |> wr Reg.SEC_STATUS_sessions ((List.range 8).filter fun s => c.sessionOpen s).length
    |> forEach (List.range 16) fun k d =>
      wr (Reg.SEC_KEY_INFO_sessions k) (let id := c.rd (Reg.SEC_KEY_ID_value k); if id = 0 then 0 else c.keyUses id) d

/-- The slot that a new key takes: that of the same id, a free one, or the one presented longest ago that no open
session uses. -/
def Chip.slotForKey (c : Chip) (id : Nat) : Nat :=
  let ord (k : Nat) : Nat := (c.host.sec.keys.getD k ⟨[], 0⟩).order
  let idle := (List.range 16).filter fun k => c.keyUses (c.rd (Reg.SEC_KEY_ID_value k)) == 0
  match c.keySlot id with
  | some k => k
  | none =>
    match (List.range 16).find? fun k => !c.flag (Reg.SEC_KEY_ID_value k) with
    | some k => k
    | none => idle.foldl (fun m k => if ord k < ord m then k else m) (idle.headD 0)

/-- Change the role and session engine. -/
def modSec (f : Sec → Sec) (c : Chip) : Chip := { c with host := { c.host with sec := f c.host.sec } }

/-- A key is kept (R458). -/
def keepKey (x : Cert) (c : Chip) : Chip :=
  let k := c.slotForKey x.keyId
  let n := c.host.sec.order + 1
  modSec (fun s => { s with keys := setAt s.keys k ⟨x.key, n⟩, order := n }) c
    |> wr (Reg.SEC_KEY_ID_value k) x.keyId |> wr (Reg.SEC_KEY_INFO_role k) x.role
    |> wrB (Reg.SEC_KEY_INFO_die_bound k) (x.die != 0) |> secShow

/-! ### Sessions (R73, R74, R459) -/

/-- A session ends: cause 0 close, 1 expiry. Its notices and semaphores go (R74, R102); it keeps its slot, id and
key. -/
def sessionEnd (slot cause : Nat) (c : Chip) : Chip :=
  if !c.sessionOpen slot then c
  else
    let r := semsBroken 2 slot c
    modSession slot (fun s => { s with notices := [], ended := c.now }) r.2
      |> wr (Reg.SEC_SLOT_STATE_state slot) (2 + cause) |> secShow
      |> log 0x0B32 slot (u8 slot ++ u8 cause ++ u16 r.1 ++ u32 0)

/-- The slot that a new session takes: a free one, otherwise the one that closed or expired longest ago (R73); of sessions
that ended in one beat the lowest slot (DESIGN CHOICE, log entry 73). -/
def Chip.freeSlot (c : Chip) : Option Nat :=
  match (List.range 8).find? fun s => c.rd (Reg.SEC_SLOT_STATE_state s) == 0 with
  | some s => some s
  | none =>
    match (List.range 8).filter fun s => !c.sessionOpen s with
    | [] => none
    | s :: l => some (l.foldl (fun m k => if (c.session k).ended < (c.session m).ended then k else m) s)

/-- The session key K (R459). -/
def sessionKey (z : List Byte) (sid keyId : Nat) (host ctl : List Byte) : List Byte :=
  hmacSha256 z ([0x53#8, 0x45#8, 0x52#8, 0x41#8, 0x49#8, 0x52#8, 0x31#8] ++ toBE 4 sid ++ toBE 4 keyId ++ host ++ ctl)

end Sys2Proof.Machine
end

