-- ==== Sys2Proof/Machine/EnvelopeCmds.lean ====
section
/-! DEFINITION. The machine envelope (16_management_roles_crock.md, R460, R461; 03_serair_commands.md, R90). -/

namespace Sys2Proof.Machine

open Sys2Proof

/-! ### The structure (R460) -/

/-- A two's complement little-endian value of `k` bytes. -/
def leSAt (l : List Byte) (o k : Nat) : Int := toS (8 * k) (leAt l o k)

/-- The bytes of an envelope before its chain, from its vertex count. -/
def envChainAt (l : List Byte) : Nat := 1120 + 8 * leAt l 18 2

/-- Bytes 0–24 have the form of R460, and the total length is that of its parts. -/
def envForm (l : List Byte) : Bool :=
  let n := leAt l 24 1
  let v := leAt l 18 2
  let total := leAt l 20 4
  decide (1120 ≤ l.length) && leAt l 0 4 == 0x564E4558 && leAt l 16 2 == 1 && decide (3 ≤ v) && decide (v ≤ 1536) &&
    decide (1 ≤ n) && decide (n ≤ 3) && total == envChainAt l + 116 * n + 96 && decide (total ≤ 16384) &&
    decide (total ≤ l.length)

/-- The vertices of channel `c`. -/
def envPoly (l : List Byte) (c : Nat) : List (Int × Int) :=
  (List.range (leAt l (96 + 32 * c + 14) 2)).map fun k =>
    let o := 1120 + 8 * (leAt l (96 + 32 * c + 12) 2 + k)
    (leSAt l o 4, leSAt l (o + 4) 4)

/-- The channel part has its ranges: 3 to 64 vertices that the envelope holds. -/
def envChanOk (l : List Byte) (c : Nat) : Bool :=
  let first := leAt l (96 + 32 * c + 12) 2
  let n := leAt l (96 + 32 * c + 14) 2
  decide (3 ≤ n) && decide (n ≤ 64) && decide (first + n ≤ leAt l 18 2)

/-- A value lies within the signed 48-bit range. -/
def inS48 (x : Int) : Bool := decide (-(2 ^ 47) ≤ x) && decide (x < 2 ^ 47)

/-- The axis part has its ranges. -/
def envAxisOk (l : List Byte) (a : Nat) : Bool :=
  let o := 864 + 32 * a
  let v := leAt l (o + 16) 4
  inS48 (leSAt l o 8) && inS48 (leSAt l (o + 8) 8) && decide (1 ≤ v) && decide (v ≤ 2000000) &&
    decide (leAt l (o + 20) 2 ≤ 1023)

/-- Every field has its range (R460, R461). -/
def envFields (l : List Byte) : Bool :=
  leAt l 4 4 != 0 && allZero (slice l 25 39) && !(leAt l 84 2 != 0 && leAt l 88 4 == 0) &&
    (List.range 24).all (envChanOk l) && (List.range 8).all (envAxisOk l)

/-- Why an envelope is refused: 1 chain, 2 signature, 3 form, 4 die (R461, R470) (DEDUCED, log entry 23). -/
def Chip.envFault (c : Chip) (l : List Byte) : Option Nat :=
  if !envForm l then some 3
  else
    let n := leAt l 24 1
    let e := envChainAt l
    let chain := slice l e (116 * n + 32)
    let x := Cert.ofBytes chain
    if (c.chainFault n chain).isSome ∨ x.role < 2 then some 1
    else if !edVerify x.key (l.take (e + 116 * n + 32)) (slice l (e + 116 * n + 32) 64) then some 2
    else if !envFields l then some 3
    else if leAt l 8 8 ≠ 0 ∧ leAt l 8 8 ≠ c.dieId then some 4
    else none

/-- The envelope that a structure holds. -/
def Envelope.ofBytes (l : List Byte) : Envelope :=
  let ch (o k : Nat) : List Nat := (List.range 24).map fun c => leAt l (96 + 32 * c + o) k
  { id := leAt l 4 4, keyId := beAt l (envChainAt l + 4) 4
    xMin := leSAt l 64 4, yMin := leSAt l 68 4, xMax := leSAt l 72 4, yMax := leSAt l 76 4
    sep := leAt l 80 4, quotaN := leAt l 84 2, quotaW := leAt l 88 4, duty := leAt l 92 2, cur := leAt l 94 1
    pmax := ch 0 2, mark := ch 4 4, jump := ch 8 4, poly := (List.range 24).map (envPoly l)
    axes := (List.range 8).map fun a =>
      let o := 864 + 32 * a
      (leSAt l o 8, leSAt l (o + 8) 8, leAt l (o + 16) 4, leAt l (o + 20) 2, leAt l (o + 22) 1 != 0) }

/-! ### The envelope in force (R461) -/

/-- The register copies of a channel, of the Bed Sluice, of the Kettle and of an axis. -/
def envChan (e : Envelope) (ch : Nat) (c : Chip) : Chip := wr (Reg.FUR_PMAX_pmax ch) (e.pmax.getD ch 0) c

/-- The Bed Sluice's copies: guard separation and quota. -/
def envSlb (e : Envelope) (c : Chip) : Chip :=
  wr Reg.SLB_GUARD_SEP_d_min e.sep c |> wr Reg.SLB_QUOTA_N_quota e.quotaN |> wr Reg.SLB_QUOTA_WIN_window e.quotaW

/-- The Kettle's copies. -/
def envKt (e : Envelope) (c : Chip) : Chip := wr Reg.KT_ENV_duty_max e.duty c |> wr Reg.KT_ENV_cur_max e.cur

/-- An axis's copies. -/
def envAxis (e : Envelope) (n : Nat) (c : Chip) : Chip :=
  let a := e.axes.getD n (0, 0, 0, 0, false)
  wr2 (Reg.AX_ENV_MIN_LO_value n) (Reg.AX_ENV_MIN_HI_value n) (ofS 64 a.1) c
    |> wr2 (Reg.AX_ENV_MAX_LO_value n) (Reg.AX_ENV_MAX_HI_value n) (ofS 64 a.2.1)
    |> wr (Reg.AX_ENV_VLIM_value n) a.2.2.1 |> wr (Reg.AX_ENV_CTL_cur_max n) a.2.2.2.1
    |> wrB (Reg.AX_ENV_CTL_need_home n) a.2.2.2.2

/-- The register copies of the envelope in force, in the domains that are on. -/
def envCopies (c : Chip) : Chip :=
  match c.host.sec.envelope with
  | none => c
  | some e =>
    forEach (List.range 24) (fun ch => when (c.on (chanDom ch)) (envChan e ch)) c
      |> when (c.on pdFABRIC) (envSlb e) |> when (c.on pdKETTLE) (envKt e)
      |> when (c.on pdMOTION) (forEach (List.range 8) (envAxis e))

/-- An envelope replaces the previous one whole. -/
def envApply (e : Envelope) (c : Chip) : Chip :=
  modSec (fun s => { s with envelope := some e }) c |> envCopies
    |> wr Reg.SEC_ENV_ID_value e.id |> wr Reg.SEC_ENV_KEY_value e.keyId |> wr Reg.SEC_STATUS_env_loaded 1
    |> log 0x0C03 0 (u32 e.id ++ u32 e.keyId)

/-- The envelope is discarded (R461). -/
def envDiscard (c : Chip) : Chip :=
  modSec (fun s => { s with envelope := none, verify := [] }) c
    |> wr Reg.SEC_ENV_ID_value 0 |> wr Reg.SEC_ENV_KEY_value 0 |> wr Reg.SEC_STATUS_env_loaded 0

/-! ### Commands -/

/-- REFUSED_STATE while a job is ADMITTED or RUNNING (R90): its state and id. -/
def Chip.envBusy (c : Chip) : Option Ans :=
  (c.running.orElse fun _ => c.admitted).map fun j => refuse 0x16 j.st (j.id % 65536) 0

/-- ENVELOPE_LOAD (R90, R461): the structure is verified afterwards. -/
def execEnvelopeLoad (o : Origin) (addr : BitVec 64) (len : BitVec 32) (s : State) : Host.Outcome State Fault Refusal :=
  runs (serve o 0x30 1 (.envelopeLoad o addr len) (if addr.toNat ≥ 2 ^ 36 then some 0 else none) [pdDRAM] <| now fun c =>
    match c.envBusy with
    | some a => (a, c)
    | none =>
      (deferred, modSec (fun s => { s with verify := s.verify ++ [(pendOf o 0x30 c, addr.toNat, len.toNat)] }) c)) s

/-- The verification of an envelope at an address ends: its final result. -/
def envVerify (addr len : Nat) (c : Chip) : Ans × Chip :=
  match c.envBusy with
  | some a => (a, c)
  | none =>
    let refused (reason id : Nat) : Ans × Chip :=
      (badStruct 7 0 reason, log 0x0C04 0 (u8 reason ++ u8 0 ++ u16 0 ++ u32 id) c)
    if len > 16384 then refused 3 0
    else if !c.dramOk addr len then (faultMemory, c)
    else
      let l := c.dramRead addr len
      match c.envFault l with
      | some reason => refused reason (leAt l 4 4)
      | none =>
        let e := Envelope.ofBytes l
        (done (toBE 4 e.id), envApply e c)

/-- ENVELOPE_VERIFY_DONE (R461): the oldest verification ends. -/
def execEnvelopeVerifyDone (s : State) : Host.Outcome State Fault Refusal :=
  runs (fun c =>
    match c.host.sec.verify with
    | [] => c
    | (p, addr, len) :: l =>
      let r := envVerify addr len (modSec (fun s => { s with verify := l }) c)
      result p r.1.1 r.1.2 r.2) s

/-- ENVELOPE_STATUS (R90). -/
def cmdEnvelopeStatus (o : Origin) : Chip → Chip :=
  serve o 0x31 1 (.envelopeStatus o) none [] <| tell fun c =>
    done (toBE 1 (c.rd Reg.SEC_STATUS_env_loaded) ++ toBE 3 0 ++ toBE 4 (c.rd Reg.SEC_ENV_ID_value) ++
      toBE 4 (c.rd Reg.SEC_ENV_KEY_value))

/-- ENVELOPE_STATUS. -/
def execEnvelopeStatus (o : Origin) (s : State) : Host.Outcome State Fault Refusal := runs (cmdEnvelopeStatus o) s

end Sys2Proof.Machine
end

