-- ==== Sys2Proof/Machine/JobRun.lean ====
section
/-! DEFINITION. How jobs move through their states (02_beat_and_admission.md, R49, R62, R63; 03, R86, R94; 18, R509,
R516): the start beat, DONE, ABORTED. -/

namespace Sys2Proof.Machine

open Sys2Proof

/-- Change the list of jobs. -/
def modJobs (f : List Job → List Job) (c : Chip) : Chip := { c with host := { c.host with jobs := f c.host.jobs } }

/-- A job by its id. -/
def Chip.jobOf (c : Chip) (id : Nat) : Option Job := c.host.jobs.find? fun j => j.id == id

/-- The JOB notice of a new state (R86); it names the frozen channels (R62). -/
def jobNotice (j : Job) (st cause : Nat) (c : Chip) : Chip :=
  noticeAll 0x8002 0 (toBE 4 j.id ++ toBE 1 st ++ toBE 1 j.frozen.length ++ toBE 2 cause ++ toBE 8 c.now ++
    j.frozen.flatMap fun p => toBE 1 p.1 ++ toBE 1 0 ++ toBE 2 p.2) c

/-- The sequence a channel of a job has reached. -/
def Chip.seqReached (c : Chip) (j : Job) (ch : Nat) : Nat :=
  (assocGet ch j.frozen).getD (c.rd (Reg.FUR_STATE_head_seq ch))

/-- The lowest sequence reached by a job's channels (R64). -/
def Chip.lowestSeq (c : Chip) (j : Job) : Nat :=
  let l := j.chans.map fun e => c.seqReached j e.chan
  l.foldl min (l.headD 0)

/-- What ends when a job leaves RUNNING (R62, R216, R293, R395). -/
def jobLeaves (j : Job) (c : Chip) : Chip :=
  forEach j.chans (fun e c => furJobEnd e.chan c |> ladJobEnd e.chan) c
    |> sieveJobEnd j |> streamEnd j.streams |> slmRelease

/-- A RUNNING job whose channels that are not frozen have all reached their end vector is DONE (R62). -/
def jobDone (c : Chip) : Chip :=
  match c.running with
  | none => c
  | some j =>
    let ended (e : ChanEntry) : Bool :=
      let f := c.fur e.chan
      j.frozen.any (fun p => p.1 == e.chan) || (f.running && f.ended)
    if j.chans.all ended then
      jobLeaves j c |> modJob j.id (fun x => { x with st := 3 }) |> jobNotice j 3 0
    else c

/-- A job is ABORTED (R516 causes). Channels that no source has quenched are quenched with cause JOB_ABORT on the next
beat, and park (R90, R143). -/
def jobAbort (j : Job) (cause : Nat) (c : Chip) : Chip :=
  let seq := if j.st = 2 then c.lowestSeq j else 0
  let c :=
    if j.st = 2 then
      let c := jobLeaves j c
      if cause = 1 ∨ cause = 5 then forEach j.chans (fun e => askQuench e.chan (c.now + 1) quenchJobAbort 0) c else c
    else
      let c := slmDiscard c
      if j.start.isSome then forEach j.chans (fun e => furJobEnd e.chan) c else c
  modJob j.id (fun x => { x with st := 4 }) c |> jobNotice j 4 cause
    |> log 0x0111 (j.id % 65536) (u32 j.id ++ u8 cause ++ u8 0 ++ u16 seq)

/-- Every ADMITTED and RUNNING job is ABORTED (R500, R509). -/
def jobsAbort (cause : Nat) (c : Chip) : Chip :=
  forEach (c.host.jobs.filter fun j => j.st == 1 || j.st == 2) (fun j => jobAbort j cause) c

/-- Every RUNNING job is ABORTED (R63). -/
def jobsRunningAbort (cause : Nat) (c : Chip) : Chip :=
  forEach (c.host.jobs.filter fun j => j.st == 2) (fun j => jobAbort j cause) c

/-- The application cores lose their jobs (R501, R505). -/
def jobsForget (c : Chip) : Chip := modJobs (fun _ => []) c

/-- The windows that a job gives its DMA channels (R415). -/
def dmaWindows (j : Job) (c : Chip) : Chip :=
  forEach (j.streams.filter fun s => s.kind == 3) (fun s c =>
    wr (Reg.DMA_WIN_BASE_LO_value s.inst) (s.base % 2 ^ 32 / 64) c |> wr (Reg.DMA_WIN_BASE_HI_value s.inst) (s.base / 2 ^ 32)
      |> wr (Reg.DMA_WIN_LEN_LO_value s.inst) (s.len / 64) |> wr (Reg.DMA_WIN_LEN_HI_value s.inst) 0) c

/-- The Ladle engine of a channel at its job's start beat (R271, R287): its next sample, by its own period. -/
def chanLadle (e : ChanEntry) (c : Chip) : Chip :=
  ladJobStart e.chan e.s e.loops (if e.ctx = 0xFF then none else some e.ctx) (ceilDiv c.now e.s) c

/-- The start beat of the ADMITTED job (R49, R143, R216, R398). -/
def jobBegin (c : Chip) : Chip :=
  match c.admitted with
  | none => c
  | some j =>
    match j.start with
    | none => c
    | some s =>
      if c.now < s ∨ c.running.isSome then c
      else
        let lost (e : ChanEntry) : Bool := !c.on (chanDom e.chan) && !j.frozen.any fun p => p.1 == e.chan
        let off := j.frozen ++ (j.chans.filter lost).map fun e => (e.chan, 0)
        let c := modJob j.id (fun x => { x with st := 2, frozen := off }) c
        slbJobStart c |> forEach (List.range 24) furJobStart
          |> forEach (List.range 24) (fun ch c => spillAbandon ch c |> ladCounters ch) |> forEach j.chans chanLadle |> sieveJobStart j s
          |> streamStart j.streams |> dmaWindows j |> jobNotice { j with frozen := off } 2 0 |> jobDone

end Sys2Proof.Machine
end

