-- ==== Sys2Proof/Machine/KettleLoop.lean ====
section
/-! DEFINITION. The bed-temperature loop (12_kettle_array.md, R370; 03_serair_commands.md, R101). -/

namespace Sys2Proof.Machine

open Sys2Proof

/-- Number of cells of the array. -/
abbrev ktCells : Nat := 262144

/-- Bytes of a setpoint map. -/
abbrev ktMapBytes : Nat := 64 + 8 * ktCells

/-- The address of the setpoint map in force. -/
def Chip.ktMap (c : Chip) : Nat := c.rdAddr Reg.KT_LOOP_MAP_LO_addr Reg.KT_LOOP_MAP_HI_addr

/-- Whether every pixel coordinate of a map's entries lies within a context's frame. -/
def mapInside (w h : Nat) (l : List Byte) : Bool :=
  (List.range ktCells).all fun k => decide (leAt l (64 + 8 * k + 2) 2 < w) && decide (leAt l (64 + 8 * k + 4) 2 < h)

/-- What KT_LOOP needs of its context and its map: the byte offset of the parameter that lacks it. -/
def mapFault (n a : Nat) (c : Chip) : Option Nat :=
  let v := c.svOf n
  if c.flag (Reg.SVX_CFG_mosaic v n) ∨ !c.flag (Reg.SVX_CFG_temp_en v n) ∨ !c.flag (Reg.SVX_TAP_CTL_enable v n 4) then some 1
  else if !c.dramOk a ktMapBytes then some 4
  else
    let l := c.dramRead a ktMapBytes
    if leAt l 4 4 = 0 ∨ !mapInside (c.ctxW n) (c.ctxH n) l then some 4 else none

/-- Records of the TEMPERATURE point that a context has written. -/
def Chip.loopRecords (c : Chip) (n : Nat) : Nat := c.rd (Reg.SVX_TAP_COUNT_value (c.svOf n) n 4)

/-- The loop starts with every integral and duty at 0. -/
def loopStart (n a : Nat) (c : Chip) : Chip :=
  modKt (fun k => { k with loopInteg := [], loopDuty := [], loopCount := 0, loopSeen := some (c.loopRecords n) }) c
    |> wr Reg.KT_LOOP_CTL_on 1 |> wr Reg.KT_LOOP_CTL_context n |> wr Reg.KT_STATUS_loop_on 1
    |> wr Reg.KT_LOOP_MAP_LO_addr (a / 64) |> wr Reg.KT_LOOP_MAP_HI_addr (a / 2 ^ 32)

/-- The loop stops; the last latched frame stays in force. -/
def loopStop (c : Chip) : Chip := wr Reg.KT_LOOP_CTL_on 0 c |> wr Reg.KT_STATUS_loop_on 0

/-- Offset of the first parameter of KT_LOOP at fault. -/
def loopForm (on ctx a : Nat) : Option Nat :=
  if on ≥ 2 then some 0
  else if on = 1 ∧ isOverview ctx = false then some 1
  else if on = 1 ∧ (a % 64 ≠ 0 ∨ a ≥ 2 ^ 36) then some 4
  else none

/-- KT_LOOP (R370). -/
def execKtLoop (o : Origin) (on ctx : BitVec 8) (map : BitVec 64) (s : State) : Host.Outcome State Fault Refusal :=
  let n := ctx.toNat
  let a := map.toNat
  runs (serve o 0x72 1 (.ktLoop o on ctx map) (loopForm on.toNat n a) [pdKETTLE] <| now fun c =>
    if on.toNat = 0 then (done [], loopStop c)
    else if !c.on (sieveDom (c.svOf n)) then (domainOff (sieveDom (c.svOf n)), c)
    else match mapFault n a c with
      | some off => (badParam off, c)
      | none => (done [], loopStart n a c)) s

/-! ### The update -/

/-- The newest record of a context's TEMPERATURE ring: its bytes. A MISSING frame's record has no payload. -/
def Chip.tempRecord (c : Chip) (n : Nat) : List Byte :=
  let v := c.svOf n
  let len := c.rd (Reg.SVX_TAP_LEN_bytes v n 4) * 64
  let base := c.tapBase n + c.rd (Reg.SVX_TAP_OFF_bytes v n 4) * 64
  let w := c.rd (Reg.SVX_TAP_WPTR_value v n 4)
  let e := if w = 0 then len else w
  let short := c.dramRead (base + e - 64) 64
  if leAt short 4 1 = 4 ∧ leAt short 24 4 = 0 ∧ crc32c (short.take 28) = leAt short 28 4 then short
  else
    let k := 32 + 2 * c.ctxW n * c.ctxH n
    let k := k + (64 - k % 64) % 64
    c.dramRead (base + e - k) k

/-- One cell of the loop: integral in 1/256 duty LSB, and duty (DEDUCED, log entry 42). -/
def loopCell (kp ki : Nat) (dmax : Nat) (sp tp : Nat) (i : Int) (duty : Nat) : Int × Nat :=
  if sp = 0 then (0, 0)
  else if tp = 0 then (i, duty)
  else
    let err : Int := (sp : Int) - tp
    let i := clampI 0 (256 * dmax) (i + ki * err)
    (i, (clampI 0 dmax ((kp * err + i) / 256)).toNat)

/-- The cells of one update: integrals and duties in cell order. -/
def loopCells (w dmax : Nat) (map pix : List Byte) (integ : List Int) (duty : List Nat) : List (Int × Nat) :=
  let kp := leAt map 0 2
  let ki := leAt map 2 2
  (List.range ktCells).map fun k =>
    let e := 64 + 8 * k
    let p := leAt map (e + 4) 2 * w + leAt map (e + 2) 2
    let tp := if 2 * p + 2 ≤ leAt pix 24 4 then leAt pix (32 + 2 * p) 2 else 0
    loopCell kp ki dmax (leAt map e 2) tp (integ.getD k 0) (duty.getD k 0)

/-- The frame that the loop writes (R361): tile headers of the active frame, the duties, frame_id and crc. -/
def loopFrame (active : List Byte) (fid : Nat) (duty : List Nat) : List Byte :=
  let head := u32 0x3146544B ++ u32 fid ++ List.replicate 52 0
  let tiles := (List.range 1024).flatMap fun t =>
    slice active (64 + t * 528) 16 ++ (List.range 256).flatMap fun e => toLE 2 (duty.getD (t * 256 + e) 0)
  head ++ u32 (crc32c (head ++ tiles)) ++ tiles

/-- An update of the loop from the newest record. -/
def loopRun (n : Nat) (c : Chip) : Chip :=
  let act := c.rd Reg.KT_STATUS_active
  let map := c.dramRead c.ktMap ktMapBytes
  let r := c.tempRecord n
  let cells := loopCells (c.ctxW n) (c.rd Reg.KT_ENV_duty_max) map r c.kt.loopInteg c.kt.loopDuty
  let duty := cells.map fun p => p.2
  let frame := loopFrame (c.dramRead (c.ktBuf act) 540736) (leAt r 0 4) duty
  let c := modKt (fun k => { k with loopInteg := cells.map fun p => p.1, loopDuty := duty }) c
    |> dramPut 9 0 (c.ktBuf (1 - act)) frame |> inc Reg.KT_LOOP_RUNS_count Reg.KT_STICKY_sat 5
  (ktSwap 0 c).2

/-- Whether the loop cannot use a record: its last swap is pending, semaphore 2 is held, swaps are refused, or
DRAM does not answer. -/
def Chip.loopHeld (c : Chip) : Bool :=
  c.kt.swap.isSome || (c.sem 2).cls != 0 ||
    c.flag Reg.KT_STATUS_frozen || !c.dramOk c.ktMap ktMapBytes || !c.dramOk (c.ktBuf 0) 540736 ||
    !c.dramOk (c.ktBuf 1) 540736

/-- New TEMPERATURE records reach the loop once they stand in DRAM: every d-th is processed, or skipped. -/
def loopUpdate (c : Chip) : Chip :=
  let n := c.rd Reg.KT_LOOP_CTL_context
  let queued := c.mem.slm.ready.any fun x => x.req == reqTap && x.unit == n
  if !c.flag Reg.KT_STATUS_loop_on || !c.on pdAPP || !c.on (sieveDom (c.svOf n)) || queued then c
  else
    let k := c.loopRecords n
    let new := (k + 2 ^ 32 - c.kt.loopSeen.getD k) % 2 ^ 32
    if new = 0 then c
    else
      let d := max 1 (leAt (c.dramRead c.ktMap 8) 4 4)
      let t := c.kt.loopCount + new
      let due := decide (t / d > c.kt.loopCount / d)
      let c := modKt (fun q => { q with loopCount := t, loopSeen := some k }) c
      if !due then c
      else if c.loopHeld then inc Reg.KT_LOOP_SKIP_count Reg.KT_STICKY_sat 4 c
      else loopRun n c

/-- KT_LOOP_UPDATE (R370). -/
def execKtLoopUpdate (s : State) : Host.Outcome State Fault Refusal := runs (ktDo loopUpdate) s

end Sys2Proof.Machine
end

