-- ==== Sys2Proof/Machine/Links.lean ====
section
/-! DEFINITION. The Glelin head links (06_glelin_links.md, R189–R213): downlink frames, uplink frames, lock and link state,
overview camera lanes, lane enables and test modes. -/

namespace Sys2Proof.Machine

open Sys2Proof

/-! ### Lock and link state (R203–R207) -/

/-- Whether a lane's reference is present (R181, R497). -/
def Chip.laneClock (c : Chip) (n : Nat) : Bool := bit (c.rd Reg.PWR_CLOCK_ok) (2 + n / 12)

/-- The link of a channel faults (R207, R212): 1 LOCK, 2 ERRORS, 3 ECHO, 4 HEAD_DOWN, 5 HEAD_FAULT, 6 LANE_OFF. -/
def linkLost (ch cause : Nat) (c : Chip) : Chip :=
  let n := 2 * ch + 1
  if !c.linkUp ch then c
  else
    wr (Reg.GLK_STATUS_up n) 0 c |> wr (Reg.GLK_STATUS_link_fault n) 1 |> wr (Reg.GLK_STATUS_loss_cause n) cause
      |> laneEvent 0x0502 n cause (c.rd (Reg.GLK_STATUS_bad_run n)) c.now
      |> when (laserOn (c.chState ch)) (furFault ch faultLink (c.headRec ch).1 (c.headRec ch).2)

/-- A receiver goes back to HUNT; a LOCKED uplink faults its link. -/
def laneHunt (n : Nat) (c : Chip) : Chip :=
  let locked := decide (c.laneState n = 3)
  modLane n (fun l => { l with good := 0, miss := 0 }) (wr (Reg.GLK_STATUS_state n) 1 c)
    |> when (locked && decide (n < 48) && decide (n % 2 = 1)) (linkLost (n / 2) 1)

/-- A bad frame on a receive lane (R204, R206, R207). -/
def laneBad (n : Nat) (c : Chip) : Chip :=
  let c := wr (Reg.GLK_STATUS_bad_run n) (satU 4 (c.rd (Reg.GLK_STATUS_bad_run n) + 1)) c
  let c := if c.laneState n = 2 then laneHunt n c else c
  if n < 48 ∧ c.rd (Reg.GLK_STATUS_bad_run n) ≥ c.rd (Reg.GLK_CTL_err_limit n) then linkLost (n / 2) 2 c else c

/-- A marker absent from its window (R204). -/
def markerMissing (n : Nat) (c : Chip) : Chip :=
  let k := (c.lane n).miss + 1
  let c := modLane n (fun l => { l with miss := k }) c |> inc (Reg.GLK_MISS_count n) (Reg.GLK_STICKY_sat n) 2
  let c := (if n < 48 then camWords (n / 2) else ovWords (24 + (n - 48) / 2)) false false none false [] c |> laneBad n
  if k ≥ 2 ∧ c.laneState n = 3 then laneHunt n c else c

/-- A good frame on a receive lane: four in a row after the marker was found make it LOCKED (R204). -/
def laneGood (n : Nat) (c : Chip) : Chip :=
  let c := wr (Reg.GLK_STATUS_bad_run n) 0 c |> inc (Reg.GLK_FRAMES_count n) (Reg.GLK_STICKY_sat n) 0
  if c.laneState n = 2 then
    let k := (c.lane n).good + 1
    let c := modLane n (fun l => { l with good := k }) c
    if k ≥ 4 then wr (Reg.GLK_STATUS_state n) 3 c else c
  else c

/-- The marker of a frame has been found (R204) (DESIGN CHOICE, log entry 55). -/
def markerFound (n : Nat) (c : Chip) : Chip :=
  let c := modLane n (fun l => { l with miss := 0 }) c
  if c.laneState n = 1 then modLane n (fun l => { l with good := 0 }) (wr (Reg.GLK_STATUS_state n) 2 c) else c

/-- What a received frame's coding counts: its gap, its stuffing and its CRC (R213). -/
def frameCounts (n : Nat) (f : LineFrame) (c : Chip) : Chip :=
  wr (Reg.GLK_FILL_last n) (satU 16 f.gap) c
    |> fun c => wr (Reg.GLK_FILL_least n) (min (c.rd (Reg.GLK_FILL_least n)) (satU 16 f.gap)) c
    |> when (!f.stuffOk) (inc (Reg.GLK_STUFF_ERR_count n) (Reg.GLK_STICKY_sat n) 3)
    |> when (!f.crcOk) (inc (Reg.GLK_CRC_ERR_count n) (Reg.GLK_STICKY_sat n) 1)

/-- Whether a receive lane can take a frame now. -/
def Chip.laneHears (c : Chip) (n : Nat) : Bool :=
  let st := c.laneState n
  c.alive (laneDom n) && c.laneClock n && decide (1 ≤ st) && decide (st ≤ 3)

/-- The link's conditions after a good uplink frame (R205, R207). -/
def linkEval (ch word3 : Nat) (echoOk : Bool) (c : Chip) : Chip :=
  let n := 2 * ch + 1
  let down := bit word3 9
  let fault := bit word3 13 || bit word3 12 || bit word3 6
  if c.linkUp ch then
    if !down then linkLost ch 4 c else if fault then linkLost ch 5 c else c
  else if echoOk && down && !fault && c.laneState (2 * ch) == 3 && c.laneState n == 3 then
    wr (Reg.GLK_STATUS_up n) 1 c |> laneEvent 0x0501 n (c.laneRate n) 0 c.now
  else c

/-! ### Uplink frames (R194–R197, R206) -/

/-- The answer of the beam head to a mailbox request (R199, R240). -/
def mbxAnswer (ch tag status op data : Nat) (c : Chip) : Chip :=
  match (c.link ch).mbx with
  | none => c
  | some m =>
    if op = 0 ∨ m.tag ≠ tag ∨ m.op ≠ op then c
    else
      let c := modLink ch (fun l => { l with mbx := none }) c
      if m.dead then c
      else if m.sieve then expAnswer ch status m.addr c
      else mbxHostDone ch status (if m.op = 2 then some data else none) c

/-- The camera part of a payload from the word that holds hdr, end and px_words on (R194, R209): header, end, pixel
words. -/
def camPart (ws : List Nat) (k : Nat) (mayHdr : Bool) : Option FrameHdr × Bool × List Nat :=
  let w := ws.getD k 0
  let hdr := bit w 31 && mayHdr
  let h : Option FrameHdr := if hdr then
      some ⟨ws.getD (k + 3) 0 / 65536, ws.getD (k + 3) 0 % 65536, bits (ws.getD (k + 2) 0) 23 16, ws.getD (k + 1) 0,
        bits (ws.getD (k + 2) 0) 31 24, ws.getD (k + 4) 0⟩
    else none
  let from0 := if hdr then k + 5 else k + 1
  (h, bit w 30, ((ws.take (ws.length - 1)).drop from0).take (w % 256))

/-- The actual position of an uplink frame (R191, R206): its CRC-8, its echo, its arrival. -/
def uplinkPos (ch : Nat) (ws : List Nat) (y : Nat) (c : Chip) : Bool × Bool × Chip :=
  let n := 2 * ch + 1
  let w2 := ws.getD 2 0
  let posOk := decide (crcMsb 8 7 0 ((wordBytes (ws.take 3)).take 11) = w2 % 256)
  let late := decide (y > 190)
  let echoOk := decide (w2 / 256 = c.now % 2 ^ 24)
  let c := wr (Reg.GLK_LAT_last n) y c
    |> fun c => wr (Reg.GLK_LAT_worst n) (max (c.rd (Reg.GLK_LAT_worst n)) y) c
  let c := when (!posOk || late) (inc (Reg.GLK_POS_ERR_count n) (Reg.GLK_STICKY_sat n) 4) c
  let c := when (posOk && !echoOk) (inc (Reg.GLK_ECHO_ERR_count n) (Reg.GLK_STICKY_sat n) 5) c
  let b := c.now
  let c := if posOk && !late && echoOk then
      modLink ch (fun l => { l with actual := some (b, s32 (ws.getD 0 0), s32 (ws.getD 1 0)) }) c
    else c
  (posOk && !late, !posOk || echoOk, c)

/-- The status, mailbox and pixel words of an uplink frame whose CRC-32C holds (R206); `good`: whether the whole frame
is good. -/
def uplinkWords (ch : Nat) (ws : List Nat) (good : Bool) (c : Chip) : Chip :=
  let w4 := ws.getD 4 0
  let cam := camPart ws 6 true
  when (bit (ws.getD 3 0) 11) (fun c => inc (Reg.GLK_DOWN_BAD_count (2 * ch)) (Reg.GLK_STICKY_sat (2 * ch)) 7 c
      |> laneEvent 0x0503 (2 * ch) 0 0 c.now) c
    |> mbxAnswer ch (bits w4 31 24) (bits w4 23 16) (bits w4 15 8) (ws.getD 5 0)
    |> camWords ch true good cam.1 cam.2.1 cam.2.2

/-- Where a receive lane seeks the marker (R203, R204): everywhere in HUNT, else within four bits of its place. -/
def Chip.markerWindow (c : Chip) (n : Nat) (line : List Bool) : Nat := if c.laneState n = 1 then line.length else 9

/-- UPLINK_FRAME (R194, R204–R207): the frame of the present beat on lane 2c + 1. `line` begins four bits before the
marker's expected place and ends with the gap (DESIGN CHOICE, log entry 55). -/
def uplinkFrame (ch : Nat) (line : List Bool) (y : Nat) (c : Chip) : Chip :=
  let n := 2 * ch + 1
  let b := c.now
  let f := readLine (c.laneRate n) (c.flag (Reg.GLK_CTL_polarity n)) (c.markerWindow n line) line
  let c := modLane n (fun l => { l with lastFrame := some b }) c
  if !f.marker then (if c.laneState n = 1 then c else markerMissing n c)
  else
    let c := frameCounts n f (markerFound n c)
    let (posOk, echoOk, c) := uplinkPos ch f.words y c
    let c := when (!echoOk) (linkLost ch 3) c
    let good := f.stuffOk && f.crcOk && posOk
    let w3 := f.words.getD 3 0
    let c := if good then laneGood n c |> wr (Reg.GLK_HEAD_word3 n) w3 |> linkEval ch w3 echoOk else c
    let c := if f.crcOk then uplinkWords ch f.words good c else camWords ch false false none false [] c
    when (!good) (laneBad n) c

/-! ### Test patterns on the lanes (R210, R211) -/

/-- A test mode begins on an enabled lane: the generator's register holds a free value that is not zero, CLOCK begins
with 1 (R210 gives no start; DESIGN CHOICE, log entry 72). -/
def testStart (n mode : Nat) (c : Chip) : Chip :=
  let (d, c) := draw c
  let g := if mode = 5 then 0 else 1 + Config.measured d % (2 ^ (prbsTaps mode).1 - 1)
  modLane n (fun l => { l with gen := g, sent := 0, inject := false, chk := ⟨0, 0, 0, []⟩, checked := none }) c

/-- Whether a lane is in a test mode, its hardware at work. -/
def Chip.laneTests (c : Chip) (n : Nat) : Bool := c.alive (laneDom n) && c.laneClock n && c.laneState n == 4

/-- The line bits of the present beat at nominal clocks. -/
def Chip.beatBits (c : Chip) (n : Nat) : Nat := lineBits (c.laneRate n) (c.now + 1) - lineBits (c.laneRate n) c.now

/-- Whether the bit that follows `sent` others is inverted by continuous injection (R211). -/
def Chip.injects (c : Chip) (n sent : Nat) : Bool :=
  decide (c.rd (Reg.GLK_TEST_inject n) = 1) && decide ((sent + 1) % 2 ^ c.rd (Reg.GLK_TEST_inj_exp n) = 0)

/-- The test pattern that a transmit lane sends in the present beat, with its injected errors (R210, R211). -/
def Chip.testLine (c : Chip) (n : Nat) : List Bool :=
  let l := c.lane n
  let inv := c.flag (Reg.GLK_CTL_polarity n)
  (prbsBits (c.rd (Reg.GLK_TEST_mode n)) l.gen (c.beatBits n)).1.mapIdx fun i b =>
    ((b != inv) != c.injects n (l.sent + i)) != (l.inject && decide (i = 0))

/-- The ending beat's pattern has been sent. -/
def testSent (n : Nat) (c : Chip) : Chip :=
  if laneRx n || !c.laneTests n then c
  else
    let k := c.beatBits n
    let g := (prbsBits (c.rd (Reg.GLK_TEST_mode n)) (c.lane n).gen k).2
    modLane n (fun l => { l with gen := g, sent := l.sent + k, inject := false }) c

/-- A receive lane checks the line bits of the present beat (R211, R213). -/
def checkLine (n : Nat) (line : List Bool) (c : Chip) : Chip :=
  let inv := c.flag (Reg.GLK_CTL_polarity n)
  let b := c.now
  let r := line.foldl (fun x l => checkBit (c.rd (Reg.GLK_TEST_mode n)) x (l != inv))
    ⟨(c.lane n).chk, c.flag (Reg.GLK_PRBS_STATUS_sync n), 0, 0, 0⟩
  modLane n (fun l => { l with chk := r.chk, checked := some b }) c
    |> wrB (Reg.GLK_PRBS_STATUS_sync n) r.sync
    |> wr2 (Reg.GLK_PRBS_BITS_LO_bits n) (Reg.GLK_PRBS_BITS_HI_bits n)
        (c.rd2 (Reg.GLK_PRBS_BITS_LO_bits n) (Reg.GLK_PRBS_BITS_HI_bits n) + r.bits)
    |> wr (Reg.GLK_PRBS_ERR_count n) (satU 32 (c.rd (Reg.GLK_PRBS_ERR_count n) + r.errors))
    |> wr (Reg.GLK_PRBS_STATUS_sync_losses n) (min 255 (c.rd (Reg.GLK_PRBS_STATUS_sync_losses n) + r.losses))

/-- What a receive lane does with the line of a beat: a frame, a test pattern, nothing. -/
def laneLine (n : Nat) (line : List Bool) (frame : Chip → Chip) (c : Chip) : Chip :=
  if c.laneTests n then checkLine n line c else when (c.laneHears n) frame c

/-- UPLINK_FRAME on a lane in any state. -/
def uplink (ch : Nat) (line : List Bool) (y : Nat) (c : Chip) : Chip :=
  laneLine (2 * ch + 1) line (uplinkFrame ch line y) c

/-- The uplink frame of the ending beat did not come. -/
def uplinkMissed (ch : Nat) (c : Chip) : Chip :=
  let n := 2 * ch + 1
  let st := c.laneState n
  if c.alive (laneDom n) && (st == 2 || st == 3) && (c.lane n).lastFrame != some c.now then
    let b := c.now
    markerMissing n (modLane n (fun l => { l with lastFrame := some b }) c)
  else c

/-! ### Mailbox timeouts (R199) -/

/-- A request without an answer for 16 beats is sent again, up to 3 times, and then times out. -/
def mbxDue (ch : Nat) (c : Chip) : Chip :=
  match (c.link ch).mbx with
  | none => c
  | some m =>
    let b := c.now
    if b < m.sent + 16 then c
    else if m.tries < 3 then
      modLink ch (fun l => { l with mbx := some { m with sent := b, tries := m.tries + 1 } }) c
    else
      let c := modLink ch (fun l => { l with mbx := none }) c |> laneEvent 0x0504 (2 * ch) m.tag m.addr b
      if m.dead then c
      else if m.sieve then expFail ch 0xFF m.addr c
      else mbxHostDone ch 0xFF none c

/-! ### Downlink frames (R189–R193, R196) -/

/-- Whether the frame for target beat t carries quenched (R192, R196). -/
def Chip.downQuenched (c : Chip) (ch : Nat) : Bool :=
  let st := c.chState ch
  let parks := decide (st = 6) && c.rd (Reg.FUR_STATE_quench_cause ch) == quenchJobAbort &&
    (c.fur ch).quenchedAt == some c.now
  decide (st ≥ 6) && !parks

/-- The words of the downlink frame of the present beat, before its CRC (R192); the corrected command saturates (R276). -/
def Chip.downWords (c : Chip) (ch : Nat) : List Nat :=
  let t := c.now + 1
  let f := c.fur ch
  let p := c.corrected ch (f.posAt t)
  let le := laserOn (c.chState ch)
  let on := if le then onEdge f.lits t else none
  let off := if le then offEdge f.lits t else none
  let power := if le then c.powerSent ch t (c.nominalPower ch (powerAt f.lits t)) else 0
  let frame := c.frameSeqAt ch t
  let step := match c.sys.net.servo.step with
    | some (n, d, _, _) => if n = t then some d else none
    | none => none
  let m := ((c.link ch).mbx.filter fun m => m.sent == c.now)
  let w4 := b2n le * 2 ^ 31 + b2n on.isSome * 2 ^ 30 + b2n off.isSome * 2 ^ 29 + b2n (le && gateAt f.lits t) * 2 ^ 28 +
    b2n (c.downQuenched ch) * 2 ^ 27 + b2n frame.isSome * 2 ^ 26 + b2n step.isSome * 2 ^ 25 + step.getD 0 * 2 ^ 16
  let cmd (p y : Int) : Nat := ofS 32 (satS 32 (p + y))
  [t % 2 ^ 32, cmd p.1 (c.correction ch 0 t), cmd p.2 (c.correction ch 1 t),
    power * 65536 + on.getD 0 * 256 + off.getD 0, w4,
    (m.map fun m => m.tag * 2 ^ 24 + m.op * 2 ^ 16 + m.addr).getD 0, (m.map fun m => m.data).getD 0, frame.getD 0] ++
    List.replicate (rateWords (c.laneRate (2 * ch)) - 9) 0

/-- The length on the line of the downlink frame of the present beat (R186, R190): the line bits of its beat at nominal
clocks, its stretch, and what the clocks' difference adds, a free value of at most two bits (DEDUCED, log entry 25). -/
def Chip.downBits (c : Chip) (ch : Nat) : Nat :=
  let b := c.now
  let d := match c.sys.net.servo.step with
    | some (n, d, _, _) => if n = b then stretchBits (c.laneRate (2 * ch)) d else 0
    | none => 0
  c.beatBits (2 * ch) + d + Config.measured c.fresh % 5 - 2

/-- Whether a transmit lane sends frames: enabled, no test mode, its domain on, its reference there. -/
def Chip.laneSends (c : Chip) (n : Nat) : Bool := c.alive (laneDom n) && c.laneClock n && c.laneState n == 3

/-- The downlink frame of the beat before is killed (R196). -/
def downKill (ch : Nat) (c : Chip) : Chip :=
  match (c.link ch).prev with
  | some d =>
    if (c.fur ch).quenchedAt = some c.now ∧ d.beat + 1 = c.now then
      modLink ch (fun l => { l with prev := some { d with killed := true } }) c
        |> inc (Reg.GLK_KILLED_count (2 * ch)) (Reg.GLK_STICKY_sat (2 * ch)) 6
    else c
  | none => c

/-- The downlink frame of the beat before is complete with its gap (R213). -/
def downFill (ch : Nat) (c : Chip) : Chip :=
  let n := 2 * ch
  match (c.link ch).prev with
  | some d =>
    let g := satU 16 d.gap
    wr (Reg.GLK_FILL_last n) g c |> fun c => wr (Reg.GLK_FILL_least n) (min (c.rd (Reg.GLK_FILL_least n)) g) c
  | none => c

/-- The downlink frame of the present beat; an injection inverts a payload bit of its words, a free value which. -/
def downSend (ch : Nat) (c : Chip) : Chip :=
  let n := 2 * ch
  let c := mbxNext ch c
  let ws := c.downWords ch
  let k := c.downBits ch
  let b := c.now
  let inj := if (c.lane n).inject then some (Config.measured (c.fresh + 1) % (32 * ws.length)) else none
  let c := (draw (draw c).2).2
  modLink ch (fun l => { l with down := some ⟨b, ws, false, inj, k⟩ }) c
    |> modLane n (fun l => { l with inject := false })
    |> inc (Reg.GLK_FRAMES_count n) (Reg.GLK_STICKY_sat n) 0

/-- The downlink of a channel at the opening of a beat: a lane that no longer sends has cut its frame short. -/
def downlink (ch : Nat) (c : Chip) : Chip :=
  let on := c.laneSends (2 * ch)
  let c := modLink ch (fun l => { l with prev := if on then l.down else none, down := none }) c
  when on (fun c => downKill ch c |> downFill ch |> downSend ch) c

/-! ### Overview cameras (R209) -/

/-- A frame that an overview lane has heard in a camera beat (R204, R209), what its coding counts taken; none while the
lane hears none. -/
def ovHear (n : Nat) (line : List Bool) (c : Chip) : Option LineFrame × Chip :=
  if c.laneHears n then
    let f := readLine (c.laneRate n) (c.flag (Reg.GLK_CTL_polarity n)) (c.markerWindow n line) line
    if f.marker then (some f, frameCounts n f (markerFound n c))
    else (none, if c.laneState n = 1 then c else markerMissing n c)
  else (none, if c.laneTests n then checkLine n line c else c)

/-- The camera's beat count in a lane's frame, where its CRC-32C holds (R209). -/
def ovCount (f : Option LineFrame) : Option Nat := (f.filter fun f => f.crcOk).map fun f => f.words.getD 0 0 / 256

/-- A frame of an overview lane: its beat count must follow the camera's last one and equal the other lane's (R209). -/
def ovLane (cam k : Nat) (f : Option LineFrame) (other last : Option Nat) (c : Chip) : Chip :=
  let n := 48 + 2 * cam + k
  match f with
  | none => c
  | some f =>
    let seqOk := !(ovCount (some f)).any fun x =>
      other.any (fun y => y != x) || last.any fun y => (y + 1) % 2 ^ 24 != x
    let good := f.stuffOk && f.crcOk && seqOk
    let a := camPart f.words 2 (k == 0)
    when (!seqOk) (laneEvent 0x0506 n 0 0 c.now) c
      |> (if good then laneGood n else laneBad n) |> ovWords (24 + cam) f.crcOk good a.1 a.2.1 a.2.2

/-- OVERVIEW_FRAME (R209): one camera beat, a frame on each of the camera's two lanes. The pixels run through the first
lane's words and then the second's. -/
def overview (cam : Nat) (line0 line1 : List Bool) (c : Chip) : Chip :=
  let n := 48 + 2 * cam
  let last := (c.lane n).lastFrame
  let (f, c) := ovHear n line0 c
  let (g, c) := ovHear (n + 1) line1 c
  let seen := (ovCount f).orElse fun _ => ovCount g
  let c := ovLane cam 0 f (ovCount g) last c |> ovLane cam 1 g (ovCount f) last
  if seen.isSome then modLane n (fun l => { l with lastFrame := seen }) c else c

/-! ### Lane enables, references and test modes (R203, R205, R207, R210, R211, R213, R497) -/

/-- The counters that an enable clears (R213). -/
def laneClear (n : Nat) (c : Chip) : Chip :=
  forEach [Reg.GLK_FRAMES_count n, Reg.GLK_CRC_ERR_count n, Reg.GLK_MISS_count n, Reg.GLK_STUFF_ERR_count n,
    Reg.GLK_POS_ERR_count n, Reg.GLK_ECHO_ERR_count n, Reg.GLK_KILLED_count n, Reg.GLK_DOWN_BAD_count n,
    Reg.GLK_FILL_last n, Reg.GLK_LAT_worst n, Reg.GLK_LAT_last n, Reg.GLK_STATUS_bad_run n, Reg.GLK_PRBS_ERR_count n,
    Reg.GLK_PRBS_STATUS_sync_losses n] (fun f => wr f 0) c
    |> wr (Reg.GLK_FILL_least n) 0xFFFF |> modLane n (fun _ => Lane.init)

/-- The state of an enabled lane with a test mode (R203, R210). -/
def laneEnabledState (n mode : Nat) : Nat := if mode ≠ 0 then 4 else if laneRx n then 1 else 3

/-- A write of GLK_n_CTL has taken effect (R180, R205, R207, R213): the uplink's rate follows, and a change of enable
starts or stops the lane. -/
def laneCtl (n : Nat) (was : Bool) (c : Chip) : Chip :=
  let c := if n % 2 = 0 then wr (Reg.GLK_CTL_rate (n + 1)) (c.rd (Reg.GLK_CTL_rate n)) c else c
  let is := c.flag (Reg.GLK_CTL_enable n)
  if is && !was then
    let mode := c.rd (Reg.GLK_TEST_mode n)
    laneClear n c |> wr (Reg.GLK_STATUS_state n) (laneEnabledState n mode) |> when (decide (mode ≠ 0)) (testStart n mode)
  else if was && !is then
    let c := if n < 48 then linkLost (n / 2) (if n % 2 = 0 then 6 else 1) c else c
    modLane n (fun _ => Lane.init) (wr (Reg.GLK_STATUS_state n) 0 c)
  else c

/-- Whether a test mode other than OFF may be written to a lane now (R210), with the state that forbids it. -/
def Chip.laneBusy (c : Chip) (n : Nat) : Option (Nat × Nat) :=
  if n < 48 then (if c.chState (n / 2) ≠ 0 then some (c.chState (n / 2), n / 2) else none)
  else
    let k := 24 + (n - 48) / 2
    if c.ctxRun k ≠ 0 then some (c.ctxRun k, k) else none

/-- A write of a lane's test mode has taken effect (R203, R210, R211). -/
def laneTest (n : Nat) (c : Chip) : Chip :=
  let mode := c.rd (Reg.GLK_TEST_mode n)
  let c := forEach [Reg.GLK_PRBS_ERR_count n, Reg.GLK_PRBS_BITS_LO_bits n, Reg.GLK_PRBS_BITS_HI_bits n,
    Reg.GLK_PRBS_STATUS_sync n] (fun f => wr f 0) c |> laneEvent 0x0505 n mode 0 c.now
  let st := if c.flag (Reg.GLK_CTL_enable n) then laneEnabledState n mode else 0
  let c := when (decide (st = 4)) (testStart n mode) c
  if c.laneState n = st ∨ (mode = 0 ∧ c.laneState n ≠ 4) then c
  else
    let c := if c.laneState n = 3 ∧ laneRx n then laneHunt n c else c
    let c := if n < 48 ∧ n % 2 = 0 ∧ mode ≠ 0 then wr (Reg.GLK_STATUS_up (n + 1)) 0 c else c
    modLane n (fun l => { l with good := 0, miss := 0 }) (wr (Reg.GLK_STATUS_state n) st c)

/-- inject_once (R211): on a transmit lane in a test mode the next bit is inverted, which the model takes to be the first
of the next beat; in OFF mode on an IDLE channel's downlink the next frame carries an inverted payload bit. -/
def laneInject (n : Nat) (c : Chip) : Chip :=
  if !laneRx n ∧ n < 48 ∧ (c.rd (Reg.GLK_TEST_mode n) ≠ 0 ∨ c.chState (n / 2) = 0) then
    modLane n (fun l => { l with inject := true }) c
  else c

/-- A PRBS checker gains or loses sync (R211), on a lane whose line bits the rows do not give. -/
def prbsSync (n : Nat) (sync : Bool) (c : Chip) : Chip :=
  if !laneRx n || c.laneState n != 4 || !c.alive (laneDom n) || c.flag (Reg.GLK_PRBS_STATUS_sync n) == sync then c
  else
    modLane n (fun l => { l with chk := { l.chk with run := 0, pos := 0, errs := [] } }) c
      |> wrB (Reg.GLK_PRBS_STATUS_sync n) sync |> when (!sync) (incSat (Reg.GLK_PRBS_STATUS_sync_losses n))

/-- The bits that a checker in sync has checked in the ending beat, and their errors: where no row has given the line's
bits (`checkLine`), the model takes the errors as a free value (R211, R213; DESIGN CHOICE, log entry 26). -/
def prbsBeat (n : Nat) (c : Chip) : Chip :=
  if laneRx n && c.laneTests n && c.flag (Reg.GLK_PRBS_STATUS_sync n) && (c.lane n).checked != some c.now then
    let k := c.beatBits n
    let (d, c) := draw c
    wr2 (Reg.GLK_PRBS_BITS_LO_bits n) (Reg.GLK_PRBS_BITS_HI_bits n)
        (c.rd2 (Reg.GLK_PRBS_BITS_LO_bits n) (Reg.GLK_PRBS_BITS_HI_bits n) + k) c
      |> wr (Reg.GLK_PRBS_ERR_count n) (satU 32 (c.rd (Reg.GLK_PRBS_ERR_count n) + Config.measured d % (k + 1)))
  else c

/-- A lane reference is lost (R497): the lanes it clocks lose lock. -/
def lrefLost (k : Nat) (c : Chip) : Chip :=
  wr Reg.PWR_CLOCK_ok (withBit (c.rd Reg.PWR_CLOCK_ok) (2 + k) false) c
    |> wr Reg.PWR_CLOCK_lost (withBit (c.rd Reg.PWR_CLOCK_lost) (2 + k) true)
    |> log 0x0108 0 (u8 (2 + k) ++ u8 0 ++ u16 0 ++ beat32 c.now)
    |> forEach ((List.range 52).filter fun n => n / 12 == k && laneRx n)
      (fun n c => if c.laneState n = 2 ∨ c.laneState n = 3 then laneHunt n c else c)

/-! ### Commands -/

/-- UPLINK_FRAME (R206). -/
def execUplinkFrame (c : Fin 24) (line : List Bool) (yArrival : BitVec 16) (s : State) : Host.Outcome State Fault Refusal :=
  runs (uplink c.val line yArrival.toNat) s

/-- MARKER_TIMEOUT (R204). -/
def execMarkerTimeout (lane : Fin 52) (s : State) : Host.Outcome State Fault Refusal :=
  runs (fun c =>
    if !laneRx lane.val then c
    else if lane.val < 48 then uplinkMissed (lane.val / 2) c
    else if c.laneHears lane.val && c.laneState lane.val != 1 then markerMissing lane.val c else c) s

/-- MBX_TIMEOUT (R199). -/
def execMbxTimeout (c : Fin 24) (s : State) : Host.Outcome State Fault Refusal :=
  runs (fun k => when (k.alive (laneDom (2 * c.val))) (mbxDue c.val) k) s

/-- OVERVIEW_FRAME (R209). -/
def execOverviewFrame (cam : Fin 2) (line0 line1 : List Bool) (s : State) : Host.Outcome State Fault Refusal :=
  runs (overview cam.val line0 line1) s

/-- PRBS_SYNC_CHANGE (R211). -/
def execPrbsSyncChange (lane : Fin 52) (sync : Bool) (s : State) : Host.Outcome State Fault Refusal :=
  runs (prbsSync lane.val sync) s

/-- LANE_REF_LOSS (R497). -/
def execLaneRefLoss (k : Fin 5) (s : State) : Host.Outcome State Fault Refusal := runs (lrefLost k.val) s

/-- LANE_REF_RETURN (R497). -/
def execLaneRefReturn (k : Fin 5) (s : State) : Host.Outcome State Fault Refusal :=
  runs (fun c => wr Reg.PWR_CLOCK_ok (withBit (c.rd Reg.PWR_CLOCK_ok) (2 + k.val) true) c) s

/-- LANE_TEST (R93, R210). -/
def execLaneTest (o : Origin) (lane mode : BitVec 8) (s : State) : Host.Outcome State Fault Refusal :=
  let n := lane.toNat
  runs (serve o 0xF1 3 (.laneTest o lane mode) (if n ≥ 52 then some 0 else if mode.toNat ≥ 6 then some 1 else none)
    [laneDom n] <| now fun c =>
      match (if mode.toNat = 0 then none else c.laneBusy n) with
      | some (st, inst) => (badState st inst, c)
      | none => (done [], laneTest n (wr (Reg.GLK_TEST_mode n) mode.toNat c))) s

end Sys2Proof.Machine
end

