-- ==== Sys2Proof/Machine/Domains.lean ====
section
/-! DEFINITION. Power domains (01_architecture.md, R31, R32; 18_resets_domains_faults.md, R504–R509): what a domain loses,
how a switch runs, and how it is asked for. The commands are in PowerCmds.lean. -/

namespace Sys2Proof.Machine

open Sys2Proof

/-- Change the power-domain controller. -/
def modPwr (f : Pwr → Pwr) (c : Chip) : Chip := { c with sys := { c.sys with pwr := f c.sys.pwr } }

/-- Change the boot ROM, image memory and SPI port. -/
def modMgt (f : Mgt → Mgt) (c : Chip) : Chip := { c with sys := { c.sys with mgt := f c.sys.mgt } }

/-- The parents of a domain (R31). -/
def parentsOf (d : Nat) : List Nat :=
  if d = pdAON then []
  else if d = pdFABRIC then [pdAON]
  else if d = pdDRAM ∨ d = pdAPP ∨ d = pdNET ∨ d = pdOVERVIEW ∨ d = pdMOTION then [pdFABRIC]
  else [pdFABRIC, pdDRAM]

/-- Domains in an order that puts parents before children. -/
def parentsFirst : List Nat := [1, 2, 3, 4, 9, 10, 5, 6, 7, 8, 11]

/-- Domains in an order that puts children before parents. -/
def childrenFirst : List Nat := [5, 6, 7, 8, 11, 2, 3, 4, 9, 10, 1]

/-- Whether a domain is named by a mask or has a parent that is, directly or through its parents. -/
def namedOrChild (mask d : Nat) : Bool :=
  bit mask d || (parentsOf d).any fun p => bit mask p || (parentsOf p).any fun q => bit mask q

/-- The domains that a switch-off of a mask covers, children first (R31). -/
def Chip.offList (c : Chip) (mask : Nat) : List Nat := childrenFirst.filter fun d => c.shown d && namedOrChild mask d

/-! ### What a domain loses (R31, R501, R505, R509) -/

/-- The channels of a heads domain. -/
def headsOf (d : Nat) : List Nat := (List.range 24).filter fun ch => chanDom ch == d

/-- The lanes of a domain. -/
def lanesOf (d : Nat) : List Nat := (List.range 52).filter fun n => laneDom n == d

/-- Lanes in reset. -/
def lanesReset (d : Nat) (c : Chip) : Chip :=
  forEach (lanesOf d) (fun n c =>
    clearRange (0x140000 + n * 0x400) (0x140000 + (n + 1) * 0x400)
      { c with beam := { c.beam with lanes := setAt c.beam.lanes n Lane.init } }) c

/-- A heads domain in reset: Furrows, lanes, links, Ladle engines, grids and repetitive-control buffers. -/
def headsReset (d : Nat) (c : Chip) : Chip :=
  forEach (headsOf d) (fun ch c =>
    let c := spillAbandon ch c |> furReset ch
    clearRange (0x200000 + ch * 0x2000) (0x200000 + (ch + 1) * 0x2000) <|
      clearTables (rcAddr ch 0 0) (rcAddr (ch + 1) 0 0) { c with
        lad := setAt c.lad ch Ladle.init
        beam := { c.beam with grids := setAt c.beam.grids ch ⟨[], []⟩, links := setAt c.beam.links ch Link.init } }) c
    |> lanesReset d

/-- PD_FABRIC in reset: Bed Sluice, Memory Sluice, DMA, FX, CAL, tables, semaphores (R100). -/
def fabricReset (c : Chip) : Chip :=
  let c := dmaOff c |> slbReset |> clearRange 0x30000 0x40000 |> clearRange 0x120000 0x140000
    |> clearRange 0x1C0000 0x200000 |> clearRange 0x290000 0x2A0000 |> modCal (fun _ => Cal.init)
  { c with
    tables := [], fxHold := []
    img := { c.img with ctxs := c.img.ctxs.map fun x => { x with fpnAct := [], tempAct := [], fpnWait := false, fpnUntil := 0 } }
    mem := { c.mem with slm := Mem.init.slm }
    host := { c.host with sems := HostSide.init.sems } }

/-- The image memory loses its contents with PD_FABRIC (R448). -/
def imagesLost (c : Chip) : Chip :=
  modMgt (fun m => { m with area0 := [], area1 := [], stage := none, fabricOff := true }) c
    |> clearRange 0x70020 0x70030

/-- PD_NET in reset: ports, PTP, servo inputs, Headgate. The servo holds over (R433). -/
def netReset (c : Chip) : Chip :=
  let c := { c with host := { c.host with hg := HostSide.init.hg } }
  clearRange 0x90000 0x90100 c |> clearRange 0x90300 0xA0000 |> clearRange 0xA0000 0xC0000
    |> modNet (fun n => { n with portA := PtpPort.idle, portB := PtpPort.idle, modeTry := [0, 0] })

/-- PD_APP in reset: jobs, commits and the bed-temperature loop are lost with the cores' memory, and the semaphores that the
cores hold are released broken (R102). -/
def appReset (c : Chip) : Chip :=
  forEach (List.range 4) (fun k c => (semsBroken 1 k c).2) (commitsDrop (fun _ => true) pdAPP c) |> loopStop |> jobsForget

/-- PD_MOTION in reset: axes stop dead, feedback counts and emulation are lost (R318, R331); the pins keep the levels
that the outside gives them. -/
def motionReset (c : Chip) : Chip :=
  let c := forEach (List.range 8) axDead c
  let pins (f : Feedback) : Feedback := { Feedback.init with pinA := f.pinA, pinB := f.pinB, pinX := f.pinX }
  clearRange 0x240000 0x260000
    { c with mot := ⟨c.mot.pf.map pins, List.replicate 4 Emu.init, List.replicate 8 Axis.init⟩ }

/-- The registers and memories of a domain in reset. -/
def domReset (d : Nat) (c : Chip) : Chip :=
  match d with
  | 1 => fabricReset c
  | 2 => dramOff c
  | 3 => appReset c
  | 4 => netReset c
  | 5 => headsReset 5 c
  | 6 => headsReset 6 c
  | 7 => clearRange 0x180000 0x1A0000 (sieveOff 0 c)
  | 8 => clearRange 0x1A0000 0x1C0000 (sieveOff 1 c)
  | 9 => lanesReset 9 c
  | 10 => motionReset c
  | 11 => clearRange 0x260000 0x280000 (ktOff c)
  | _ => c

/-! ### Step 1 of a switch-off (R506, R509, R510) -/

/-- A domain is masked: jobs, channels and commits that need it end. -/
def domMask (d : Nat) (c : Chip) : Chip :=
  let c := when (d == pdFABRIC || d == pdDRAM || d == pdAPP) (jobsAbort 5) c
  let c := forEach (headsOf d) (fun ch c =>
    askQuench ch c.now (quenchReset 7) 0 c |> when ((c.fur ch).running && !(c.fur ch).ended)
      (jobLoses ch (c.rd (Reg.FUR_STATE_head_seq ch))) |> quenchDue ch) c
  let c := commitsOff (fun k => tableDom k.kind k.inst == d) d c
  calOff d (if d = pdNET then holdover 3 (voidLock c) else c)

/-- The drain of a quiesced domain begins (R250, R331, R369, R418). -/
def domDrain (d : Nat) (c : Chip) : Chip :=
  if d = pdFABRIC then dmaQuiesce c
  else if d = pdMOTION then forEach (List.range 8) (fun n => axEmg n 6 2 c.now) c
  else if d = pdKETTLE then ktQuiesce c
  else c

/-- Whether a quiesced domain's drain is complete (R250, R331, R390, R418); the killed frames of a
heads domain have left (R208). -/
def Chip.drained (c : Chip) (d : Nat) : Bool :=
  if d = pdFABRIC then c.dmaIdle
  else if d = pdDRAM then c.dramDrained
  else if d = pdSIEVEA then c.sieveDrained 0
  else if d = pdSIEVEA + 1 then c.sieveDrained 1
  else if d = pdMOTION then c.axesStill
  else if d = pdHEADSA ∨ d = pdHEADSB then (headsOf d).all fun ch => !(c.link ch).prev.any fun f => f.killed
  else true

/-! ### The switch (R504–R507) -/

/-- The domains that a switch in progress or deferred covers. -/
def Chip.switching (c : Chip) : Nat :=
  match c.sys.pwr.later with
  | some (mask, _, _) => maskOf (c.offList mask) ||| maskOf (c.sys.pwr.sw.map fun w => w.dom)
  | none => maskOf (c.sys.pwr.sw.map fun w => w.dom)

/-- The registers that show a domain's state: 0 OFF, 1 POWERING_UP, 2 ON, 3 QUIESCING, 4 FORCING, 5 HELD_RESET. -/
def domState (d st : Nat) (c : Chip) : Chip := wr (Reg.PWR_DOM_STATE_state d) st c

/-- PWR_STATUS.switching follows the switch. -/
def switchShow (c : Chip) : Chip := wr Reg.PWR_STATUS_switching c.switching c

/-- DOMAIN_SWITCH (R509): action 0 on, 1 quiesced off, 2 forced off. -/
def switchLog (d act : Nat) (c : Chip) : Chip := log 0x0104 0 (u16 (2 ^ d) ++ u8 act ++ u8 0 ++ beat32 c.now) c

/-- A switch has ended: the requests that wait for it are answered. -/
def switchEnd (c : Chip) : Chip :=
  if c.sys.pwr.sw.isEmpty then
    let l := c.sys.pwr.swPend
    let on := c.rd Reg.TOP_DOMAIN_ON_on
    forEach l (fun p => result p 0 (toBE 2 on)) (modPwr (fun p => { p with swPend := [] }) c)
  else c

/-- Step 4 of R506: the domain is removed. -/
def domRemove (d act : Nat) (c : Chip) : Chip :=
  let c := showDomains (withBit (c.rd Reg.TOP_DOMAIN_ON_on) d false) (domReset d c)
    |> modPwr (fun p => { p with sw := p.sw.filter fun w => w.dom != d }) |> domState d 0
  when (d == pdFABRIC) imagesLost c |> switchLog d act |> switchShow |> slmMaskShow

/-- The next domain of a switch-on starts to power up (R505). -/
def powerUpNext (c : Chip) : Chip :=
  match c.sys.pwr.sw with
  | w :: _ =>
    if w.act = 0 ∧ w.started = none then
      modPwr (fun p => { p with sw := modAt p.sw 0 fun x => { x with started := some c.now } }) c |> domState w.dom 1
    else c
  | [] => c

/-- The switch at a beat opening (R506, R507): domains forced off are masked and removed, children first; the next
domain that is to be quiesced is masked and drains. -/
def switchBeat (c : Chip) : Chip :=
  let forced := childrenFirst.filter fun d => c.sys.pwr.sw.any fun w => w.dom == d && w.act == 2
  let c := forEach forced (fun d c =>
    let begun := c.sys.pwr.sw.any fun w => w.dom == d && w.started.isSome
    let c := modPwr (fun p => { p with sw := p.sw.map fun w =>
      if w.dom = d then { w with started := w.started.orElse fun _ => some c.now } else w }) c
    when (!begun) (domMask d) c |> domRemove d 2) c
  let c := when (!forced.isEmpty) switchEnd c
  match c.sys.pwr.sw with
  | w :: _ =>
    if w.act = 1 ∧ w.started = none then
      modPwr (fun p => { p with sw := modAt p.sw 0 fun x => { x with started := some c.now } }) c
        |> domState w.dom 3 |> domMask w.dom |> domDrain w.dom |> slmMaskShow
    else c
  | [] => c

/-- A quiesced domain acknowledges (R506). -/
def quiesceAck (d : Nat) (c : Chip) : Chip :=
  match c.sys.pwr.sw with
  | w :: _ =>
    if w.dom = d ∧ w.act = 1 ∧ w.started.isSome ∧ c.drained d then domRemove d 1 c |> switchEnd else c
  | [] => c

/-- No acknowledgement in time (R506): the switch of the domain continues as a forced off. Its mask acts on the beat after
its switch has started. -/
def quiesceTimeout (c : Chip) : Chip :=
  match c.sys.pwr.sw with
  | w :: _ =>
    match w.started with
    | some s =>
      if w.act = 1 ∧ c.now + 1 ≥ s + c.rd Reg.PWR_CTL_quiesce_ms * 4000 then
        modPwr (fun p => { p with sw := modAt p.sw 0 fun x => { x with act := 2 } }) c |> domState w.dom 4
          |> wr (Reg.PWR_DOM_STATE_timeout w.dom) 1
          |> log 0x0105 0 (u16 (2 ^ w.dom) ++ u16 0 ++ beat32 c.now)
      else c
    | none => c
  | [] => c

/-! ### A domain comes on (R505, R437, R450) -/

/-- The station addresses come from the OTP (R425): path B receives that of path A plus 1. -/
def macFromOtp (c : Chip) : Chip :=
  let a := c.otp 4 + c.otp 5 % 65536 * 2 ^ 32
  let b := (a + 1) % 2 ^ 48
  wr2 (Reg.NET_MAC_LO_mac 0) (Reg.NET_MAC_HI_mac 0) a c |> wr2 (Reg.NET_MAC_LO_mac 1) (Reg.NET_MAC_HI_mac 1) b

/-- The ports as PD_NET comes on: the boot ROM, and later the management firmware, enables both. -/
def netOn (c : Chip) : Chip := macFromOtp c |> portBoot .a |> portBoot .b

/-- The running image's microcode is loaded into the engines of a channel (R450, R273): every ready bit is cleared. -/
def ucodeLoad (v ch : Nat) (c : Chip) : Chip :=
  wr (Reg.LAD_UCODE_VER_version ch) v c |> wr (Reg.LAD_UCODE_ready_x ch) 0 |> wr (Reg.LAD_UCODE_ready_y ch) 0
    |> wr (Reg.LAD_UCODE_ready_p ch) 0

/-- What a domain holds when it has come on. -/
def domOn (d : Nat) (c : Chip) : Chip :=
  let c := showDomains (withBit (c.rd Reg.TOP_DOMAIN_ON_on) d true) c |> domState d 2 |> slmMaskShow
  let c := when (d == pdNET) netOn c |> when (d == pdFABRIC) slmPeriodShow |> envCopies
  match c.sys.mgt.running with
  | some i => forEach (headsOf d) (ucodeLoad i.ladVer) c
  | none => c

/-- A domain leaves reset at a beat opening (R505); the next one follows. -/
def domainOnDone (d : Nat) (c : Chip) : Chip :=
  match c.sys.pwr.sw with
  | w :: _ =>
    if w.dom = d ∧ w.act = 0 ∧ w.started.isSome then
      let c := modPwr (fun p => { p with sw := p.sw.drop 1 }) c |> domOn d |> switchLog d 0 |> powerUpNext |> switchShow
      let c := when (c.rd Reg.MGT_BOOT_STATUS_state == 0 && c.sys.pwr.sw.isEmpty) (wr Reg.MGT_BOOT_STATUS_state 2) c
      switchEnd c
    else c
  | [] => c

/-! ### Requests (R31, R450, R504, R508) -/

/-- The first parent, named by no one, that is off. -/
def Chip.parentOff (c : Chip) (mask : Nat) : Option Nat :=
  ((bitList 12 mask).flatMap parentsOf).find? fun p => !bit mask p && !c.on p

/-- A switch-on is asked for (DEDUCED, log entry 35). -/
def switchOn (mask : Nat) (c : Chip) : Ans × Chip :=
  let st := c.rd Reg.MGT_BOOT_STATUS_state
  if bit mask pdAPP ∧ c.sys.mgt.running.isNone then (badState st pdAPP, c)
  else
    match c.parentOff mask with
    | some p => (domainOff p, c)
    | none =>
      let l := parentsFirst.filter fun d => bit mask d && !c.shown d
      if l.isEmpty then (done (toBE 2 (c.rd Reg.TOP_DOMAIN_ON_on)), c)
      else (deferred, modPwr (fun p => { p with sw := l.map fun d => ⟨d, 0, none⟩ }) c |> powerUpNext |> switchShow)

/-- A switch-off begins; its steps follow at the beat openings. -/
def switchOffStart (l : List Nat) (forced : Bool) (c : Chip) : Chip :=
  modPwr (fun p => { p with sw := l.map fun d => ⟨d, if forced then 2 else 1, none⟩, later := none }) c |> switchShow

/-- A forced off that names a domain of a running quiesce joins that switch (R504). -/
def switchForce (l : List Nat) (c : Chip) : Chip :=
  let c := forEach l (fun d c => when (c.sys.pwr.sw.any fun w => w.dom == d && w.started.isSome) (domState d 4) c) c
  modPwr (fun p =>
    let more := l.filter fun d => !p.sw.any fun w => w.dom == d
    { p with sw := (p.sw.map fun w => if l.contains w.dom then { w with act := 2 } else w) ++ more.map fun d => ⟨d, 2, none⟩ }) c
    |> switchShow

/-- A switch-off is asked for; `net`: over the network, where the reply goes before PD_NET or PD_FABRIC goes off
(R508). -/
def switchOff (mask : Nat) (forced net : Bool) (c : Chip) : Ans × Chip :=
  let l := c.offList mask
  let on := c.rd Reg.TOP_DOMAIN_ON_on
  if l.isEmpty then (done (toBE 2 on), c)
  else if net ∧ l.contains pdNET then
    (done (toBE 2 on), modPwr (fun p => { p with later := some (mask, forced, c.now + 4000) }) c |> switchShow)
  else (deferred, switchOffStart l forced c)

/-- A switch request (R504): one switch at a time, with the exception for a forced off. -/
def switchAsk (mask : Nat) (on forced net : Bool) (c : Chip) : Ans × Chip :=
  let p := c.sys.pwr
  if mask % 2 = 1 ∨ mask ≥ 4096 then (badParam 0, c)
  else if p.sw.isEmpty ∧ p.later = none ∧ p.reset = none then
    if on then switchOn mask c else switchOff mask forced net c
  else if !on && forced && p.later.isNone && p.reset.isNone &&
      p.sw.any (fun w => w.act ≠ 0 && bit mask w.dom) then
    (deferred, switchForce (c.offList mask) c)
  else (badState c.switching 0, c)

/-- 1 ms after the reply, a deferred switch-off starts (R508). -/
def deferredOff (c : Chip) : Chip :=
  match c.sys.pwr.later with
  | some (mask, forced, b) => if b ≤ c.now then switchOffStart (c.offList mask) forced c else c
  | none => c

end Sys2Proof.Machine
end

