-- ==== Sys2Proof/Machine/Boot.lean ====
section
/-! DEFINITION. OTP check, firmware images, boot, staging and switching (16_management_roles_crock.md, R445–R454). -/

namespace Sys2Proof.Machine

open Sys2Proof

/-! ### OTP check (R446) -/

/-- The boot ROM checks the OTP: on failure it logs OTP_FAIL and starts no image. -/
def otpCheck (c : Chip) : Bool × Chip :=
  let found := c.otpCrc
  let kept := c.otp 0x3FF
  if found = kept then (true, c)
  else (false, wr Reg.MGT_BOOT_STATUS_state 1 c |> log 0x0C08 0 (u32 found ++ u32 kept))

/-! ### Images (R447–R449) -/

/-- The first n bytes of an image area. -/
def areaBytes (s : Store) (n : Nat) : List Byte :=
  ((List.range (ceilDiv n 4)).flatMap fun k => toLE 4 ((assocGet k s).getD 0)).take n

/-- The words of an image area that holds a byte string. -/
def areaOf (l : List Byte) : Store :=
  ((List.range (ceilDiv l.length 4)).map fun k => (k, leAt l (4 * k) 4)).filter fun p => p.2 != 0

/-- An image area. -/
def Mgt.area (m : Mgt) (k : Nat) : Store := if k = 0 then m.area0 else m.area1

/-- An image area given new contents. -/
def setArea (k : Nat) (s : Store) (c : Chip) : Chip :=
  modMgt (fun m => if k = 0 then { m with area0 := s } else { m with area1 := s }) c

/-- The three sections of a header: offset, length, largest length. -/
def imgSections (l : List Byte) : List (Nat × Nat × Nat) :=
  [(leAt l 16 4, leAt l 20 4, 196608), (leAt l 24 4, leAt l 28 4, 2097152), (leAt l 32 4, leAt l 36 4, 65536)]

/-- Whether two sections do not overlap. -/
def apart (a b : Nat × Nat × Nat) : Bool :=
  a.2.1 == 0 || b.2.1 == 0 || decide (a.1 + a.2.1 ≤ b.1) || decide (b.1 + b.2.1 ≤ a.1)

/-- Whether a header of 256 bytes obeys R447. -/
def imgForm (l : List Byte) : Bool :=
  let len := leAt l 12 4
  let secs := imgSections l
  let fits (s : Nat × Nat × Nat) : Bool :=
    s.1 % 64 == 0 && decide (256 ≤ s.1) && decide (s.1 + s.2.1 ≤ len) && decide (s.2.1 ≤ s.2.2)
  let a := secs.getD 0 (0, 0, 0)
  let b := secs.getD 1 (0, 0, 0)
  let d := secs.getD 2 (0, 0, 0)
  leAt l 0 4 == 0x474D4958 && leAt l 4 2 == 1 && decide (leAt l 6 1 ≤ 1) && leAt l 7 1 == 0 && leAt l 8 4 != 0 &&
    decide (256 ≤ len) && decide (len ≤ 4194304) && secs.all fits && apart a b && apart a d && apart b d &&
    (slice l 48 48).all (fun x => x == 0) && (slice l 192 64).all (fun x => x == 0)

/-- Kind of an image: 0 production, 1 test. -/
def imgKind (l : List Byte) : Nat := leAt l 6 1

/-- Why an image fails its verification (R449): 1 FORMAT, 2 KEY, 3 SIGNATURE, 4 KIND. -/
def Chip.imgFault (c : Chip) (testOk : Bool) (l : List Byte) : Option Nat :=
  let key := slice l 96 32
  if !imgForm (l.take 256) then some 1
  else if sha256 key ≠ c.rootHash then some 2
  else if !edVerify key (l.take 128 ++ l.drop 256) (slice l 128 64) then some 3
  else if imgKind l = 1 ∧ !testOk then some 4
  else none

/-- The image that an area holds: as many bytes as its header says, at most 4 MiB. -/
def Chip.areaImage (c : Chip) (k : Nat) : List Byte :=
  let s := c.sys.mgt.area k
  areaBytes s (min 4194304 (max 256 (leAt (areaBytes s 16) 12 4)))

/-- MGT_IMG_k_VERSION and MGT_IMG_k_INFO of an area. -/
def imgShow (k version kind : Nat) (active staged : Bool) (c : Chip) : Chip :=
  wr (Reg.MGT_IMG_VERSION_version k) version c |> wrB (Reg.MGT_IMG_INFO_verified k) (version != 0)
    |> wr (Reg.MGT_IMG_INFO_kind k) kind |> wrB (Reg.MGT_IMG_INFO_active k) active
    |> wrB (Reg.MGT_IMG_INFO_staged k) staged

/-- IMAGE_REFUSED, and the cause shown (R449, R450). -/
def imgRefused (source cause version : Nat) (c : Chip) : Chip :=
  wr Reg.MGT_BOOT_STATUS_cause cause c |> log 0x0C05 0 (u8 source ++ u8 cause ++ u16 0 ++ u32 version)

/-! ### Starting an image (R450, R452, R454) -/

/-- The sections of a verified image are loaded and it runs: microcode into every Ladle engine whose domain is on, the SPI
port locked, the watchdog started (R456, R498). -/
def imgStart (k : Nat) (l : List Byte) (cause : Nat) (c : Chip) : Chip :=
  let i : Image := ⟨leAt l 8 4, imgKind l, leAt l 40 4⟩
  let now := c.now
  let o := 1 - k
  modMgt (fun m => { m with running := some i, fabricOff := false, testOk := m.testOk || i.kind == 1 }) c
    |> modPwr (fun p => { p with wdtKick := some now })
    |> wr Reg.MGT_BOOT_STATUS_active_area k |> imgShow k i.version i.kind true false
    |> wr (Reg.MGT_IMG_INFO_active o) 0
    |> wr Reg.MGT_BOOT_STATUS_state 4 |> wr Reg.MGT_SPI_CTL_lock 1
    |> forEach (List.range 24) (fun ch => when (c.on (chanDom ch)) (ucodeLoad i.ladVer ch))
    |> log 0x0C07 0 (u8 i.kind ++ u8 cause ++ u16 0 ++ u32 i.version)

/-- The verification at boot ends (R449, R450): the image starts and PD_APP comes on, or the ROM returns to
WAIT_IMAGE. `bad`: an uncorrectable error was found in the area, with cause FORMAT (R448). -/
def imgVerified (bad : Bool) (c : Chip) : Chip :=
  match c.sys.mgt.verify with
  | none => c
  | some cause =>
    let k := if cause = 0 then 0 else c.rd Reg.MGT_BOOT_STATUS_active_area
    let l := c.areaImage k
    let c := modMgt (fun m => { m with verify := none }) c
    match if bad then some 1 else c.imgFault c.sys.mgt.testOk l with
    | some e => imgRefused c.sys.mgt.source e (leAt l 8 4) c |> wr (Reg.MGT_IMG_INFO_verified k) 0
        |> wr Reg.MGT_BOOT_STATUS_state 2
    | none => domOn pdAPP c |> imgStart k l cause

/-- MGT_BOOT_CMD.start (R450, R451): the ROM goes from WAIT_IMAGE to VERIFYING. -/
def bootStart (source : Nat) (testOk : Bool) (c : Chip) : Chip :=
  modMgt (fun m => { m with verify := some 0, source := source, testOk := testOk }) c |> wr Reg.MGT_BOOT_STATUS_state 3

/-- A word written through the load aperture (R450, R471): what area 0 held is no verified image any more. -/
def loadWord (off v : Nat) (c : Chip) : Chip :=
  modMgt (fun m => { m with area0 := storePut (off / 4) 0 (v % 2 ^ 32) m.area0 }) c |> imgShow 0 0 0 false false

/-- After a reset that kept the image areas, the active area is verified again, or the ROM waits (R452). -/
def bootAgain (c : Chip) : Chip :=
  let was := c.sys.mgt.running.isSome
  let c := modMgt (fun m => { m with running := none }) c
  if c.sys.mgt.fabricOff ∨ was = false then wr Reg.MGT_BOOT_STATUS_state 2 c
  else modMgt (fun m => { m with verify := some 2 }) c |> wr Reg.MGT_BOOT_STATUS_state 3

/-- IMAGE_VERIFY_DONE (R449, R450, R452). -/
def execImageVerifyDone (s : State) (bad : Bool := false) : Host.Outcome State Fault Refusal :=
  runs (fun c => when c.sys.pwr.reset.isNone (imgVerified bad) c) s

/-! ### Staging (R453) -/

/-- The area that does not run. -/
def Chip.idleArea (c : Chip) : Nat := 1 - c.rd Reg.MGT_BOOT_STATUS_active_area

/-- A stage ends: the image is in the inactive area, verified or refused. `bad`: an uncorrectable error was found in the
area (R448). -/
def fwStaged (bad : Bool) (c : Chip) : Chip :=
  match c.sys.mgt.stage with
  | none => c
  | some (p, a, n) =>
    let k := c.idleArea
    let c := modMgt (fun m => { m with stage := none }) c
    if !c.dramOk a n then setArea k [] c |> result p 0x32 faultMemory.2
    else
      let l := c.dramRead a n
      let v := leAt l 8 4
      let fault := if !bad && leAt l 12 4 == n then c.imgFault true l else some 1
      let c := setArea k (areaOf l) c
      match fault with
      | some e =>
        let a := refuse 0x1C (if e = 1 then 2 else 1) 0 0
        imgRefused 2 e v c |> result p a.1 a.2
      | none =>
        imgShow k v (imgKind l) false true c |> log 0x0C06 0 (u8 (imgKind l) ++ u8 0 ++ u16 0 ++ u32 v)
          |> result p 0 (toBE 4 v)

/-- FW_STAGE: the header is read before the reply (R453) (DEDUCED, log entry 49). -/
def fwStage (o : Origin) (a n : Nat) (c : Chip) : Ans × Chip :=
  if !c.dramOk a 256 then (faultMemory, c)
  else
    let h := c.dramRead a 256
    if imgKind h = 1 ∧ c.rd (Reg.SEC_SLOT_STATE_role o.slot.val) < 3 then (refuse 0x10 3 0 0, c)
    else if !imgForm h || leAt h 12 4 != n then (refuse 0x1C 2 0 0, c)
    else
      let c := fwStaged false c
      (deferred, imgShow c.idleArea 0 0 false false
        (modMgt (fun m => { m with stage := some (pendOf o 0xE0 c, a, n) }) c))

/-- FW_STAGE (R453, R93). -/
def execFwStage (o : Origin) (addr : BitVec 64) (len : BitVec 32) (s : State) : Host.Outcome State Fault Refusal :=
  runs (serve o 0xE0 2 (.fwStage o addr len) (if addr.toNat ≥ 2 ^ 36 then some 0 else none) [pdDRAM] <|
    now (fwStage o addr.toNat len.toNat)) s

/-- FW_STAGE_DONE (R453). -/
def execFwStageDone (s : State) (bad : Bool := false) : Host.Outcome State Fault Refusal := runs (fwStaged bad) s

/-! ### Switching (R454) -/

/-- FW_SWITCH: the cores halt, every session closes, waiting commands are discarded. -/
def fwSwitch (c : Chip) : Ans × Chip :=
  match c.envBusy with
  | some a => (a, c)
  | none =>
    if !c.flag (Reg.MGT_IMG_INFO_staged c.idleArea) then
      (badState (c.rd Reg.MGT_BOOT_STATUS_state) c.idleArea, c)
    else
      let c := appReset (wr Reg.MGT_BOOT_STATUS_state 5 c)
      (done [], forEach (List.range 8) (fun k => sessionEnd k 0)
        { c with host := { c.host with hg := { c.host.hg with queue := [] } } })

/-- FW_SWITCH (R454, R93). -/
def execFwSwitch (o : Origin) (s : State) : Host.Outcome State Fault Refusal :=
  runs (serve o 0xE1 2 (.fwSwitch o) none [] <| now fwSwitch) s

/-- The staged image runs (R454): the area of the previous one is neither active nor staged. -/
def fwSwitched (c : Chip) : Chip :=
  if c.rd Reg.MGT_BOOT_STATUS_state = 5 then
    let k := c.idleArea
    imgStart k (c.areaImage k) 1 (modMgt (fun m => { m with source := 2 }) c)
  else c

/-- FW_SWITCH_DONE (R454). -/
def execFwSwitchDone (s : State) : Host.Outcome State Fault Refusal :=
  runs (fun c => when c.sys.pwr.reset.isNone fwSwitched c) s

/-- FW_INFO (R93): running and staged version, kind of the running image. -/
def cmdFwInfo (o : Origin) : Chip → Chip :=
  serve o 0xE2 1 (.fwInfo o) none [] <| tell fun c =>
    let i := c.sys.mgt.running.getD ⟨0, 0, 0⟩
    let k := c.idleArea
    let st := if c.flag (Reg.MGT_IMG_INFO_staged k) then c.rd (Reg.MGT_IMG_VERSION_version k) else 0
    done (toBE 4 i.version ++ toBE 4 st ++ toBE 1 i.kind ++ toBE 3 0)

/-- FW_INFO. -/
def execFwInfo (o : Origin) (s : State) : Host.Outcome State Fault Refusal := runs (cmdFwInfo o) s

/-- Offset of the first parameter of OTP_READ at fault. -/
def otpForm (off count : Nat) : Option Nat :=
  if off ≥ 1024 then some 0 else if count = 0 ∨ count > 256 ∨ off + count > 1024 then some 2 else none

/-- OTP_READ (R445, R93). -/
def execOtpRead (o : Origin) (off count : BitVec 16) (s : State) : Host.Outcome State Fault Refusal :=
  runs (serve o 0xF0 3 (.otpRead o off count) (otpForm off.toNat count.toNat) [] <| tell fun c =>
    done ((List.range count.toNat).flatMap fun k => toBE 4 (c.otp (off.toNat + k)))) s

end Sys2Proof.Machine
end

