-- ==== Sys2Proof/Machine/CalCmds.lean ====
section
/-! DEFINITION. Calibration commands and events (17_thermal_calibration_snapshots.md, R481–R486; 03_serair_commands.md,
R93). -/

namespace Sys2Proof.Machine

open Sys2Proof

/-- Whether CAM_DARK can run (R482): no job ADMITTED or RUNNING, its context running alone, with a fixed-pattern table. -/
def Chip.darkOk (c : Chip) : Bool :=
  let n := c.rd Reg.CAL_DARK_context
  c.running.isNone && c.admitted.isNone && c.ctxRun n == 2 && n != 24 && n != 25

/-- The first refusal of CAL_RUN (R485), by item. -/
def Chip.calRefusal (c : Chip) (items : Nat) : Option Ans :=
  (bitList 5 items).findSome? fun k =>
    if c.calRuns k then some (badState 1 k)
    else if (k = 1 ∧ c.running.isSome) ∨ (k = 4 ∧ !c.darkOk) then some (badState 2 k)
    else none

/-- A forced round starts. -/
def calStart (item : Nat) (c : Chip) : Chip :=
  let c := wr Reg.CAL_STATUS_running (withBit (c.rd Reg.CAL_STATUS_running) item true) c
  match item with
  | 2 => modCal (fun k => { k with sensor := some 0 }) c
      |> wr Reg.CAL_STATUS_stale (withBit (c.rd Reg.CAL_STATUS_stale) 2 true)
  | 4 =>
    let d : DarkRound := ⟨c.rd Reg.CAL_DARK_context, 2 ^ c.rd Reg.CAL_DARK_log2_frames, 0, 0, []⟩
    modCal (fun k => { k with dark := some d }) c
  | _ => c

/-- CAL_RUN: the rounds of the named items start (DEDUCED, log entry 46). -/
def calRun (o : Origin) (items : Nat) (c : Chip) : Ans × Chip :=
  match c.calRefusal items with
  | some a => (a, c)
  | none =>
    let p := pendOf o 0xB0 c
    if items = 0 then (deferred, result p 0 (toBE 4 0) c)
    else (deferred, forEach (bitList 5 items) calStart (modCal (fun k => { k with runs := k.runs ++ [⟨p, items, 0, []⟩] }) c))

/-- CAL_RUN (R482, R485). -/
def execCalRun (o : Origin) (items : BitVec 32) (s : State) : Host.Outcome State Fault Refusal :=
  runs (serve o 0xB0 2 (.calRun o items) (if items.toNat ≥ 32 then some 0 else none) [pdFABRIC] <|
    now (calRun o items.toNat)) s

/-- The SENSOR round's measurements: each sensor still needs its steps of trim. -/
def sensorMeasured (c : Chip) : Chip := forEach (List.range 12) (trimMeasure 2) c

/-- Dark entries written to the shadow table (R484): the gain bits stay. -/
def darkWrite (d : DarkRound) (c : Chip) : Chip :=
  let n := d.ctx
  let w := c.ctxW n
  let good := d.seen - d.out
  let black : Int := c.rd (Reg.SVX_BLACK_black (c.svOf n) n)
  let put (p : Nat × Nat) (c : Chip) : Chip :=
    let a := 0x02000000 + n * 0x40000 + ((p.1 / w) * 256 + p.1 % w) * 4
    let dark := ofS 16 (satS 16 (((2 * p.2 + good) / (2 * good) : Nat) - black))
    wrWord 0x40000000 a (c.word 0x40000000 a / 65536 * 65536 + dark) c
  fpnAsk n (forEach ((List.range d.sums.length).zip d.sums) put c)

/-- The CAM_DARK round's verdict (R484): 1 FRAMES, 2 LIGHT. -/
def Chip.darkFault (c : Chip) (d : DarkRound) : Option Nat :=
  let good := d.seen - d.out
  let limit := c.rd (Reg.SVX_BLACK_black (c.svOf d.ctx) d.ctx) + 2 ^ (c.ctxDepth d.ctx - 3)
  if d.out * 4 > d.total ∨ good = 0 then some 1 else if d.sums.any fun s => decide (s > limit * good) then some 2 else none

/-- A forced round ends (R484–R486): `ok` is false when a measurement lies outside the trim range. -/
def calRoundDone (item inst : Nat) (ok : Bool) (c : Chip) : Chip :=
  if !c.calRuns item then c
  else if !ok then calFail item 3 inst c
  else
    match item with
    | 0 => forEach (List.range 16) (fun k c =>
        when (c.flag (Reg.AX_CTL_enable (k / 2)) && !c.flag (Reg.AX_CTL_mode (k / 2))) (trimMeasure 0 k) c) c |> calDone 0
    | 1 => forEach c.eqLanes (trimMeasure 1) c |> calDone 1
    | 2 =>
      match c.sys.cal.sensor with
      | some k => if k < 48 then c else sensorMeasured c |> calDone 2
      | none => c
    | 3 => if c.dramState 0 = 2 ∧ c.dramState 1 = 2 then calDone 3 c else calFail 3 4 0 c
    | 4 =>
      match c.sys.cal.dark with
      | none => c
      | some d =>
        if d.seen < d.total then c
        else match c.darkFault d with
          | some cause => calFail 4 cause d.ctx c
          | none => darkWrite d c |> calDone 4
    | _ => c

/-- CAL_ROUND_DONE. -/
def execCalRoundDone (item : Fin 5) (inst : BitVec 16) (ok : Bool) (s : State) : Host.Outcome State Fault Refusal :=
  runs (fun c => when (c.on pdFABRIC) (calRoundDone item.val inst.toNat ok) c) s

/-- CAL_STATUS (R486, R93). -/
def cmdCalStatus (o : Origin) (item : BitVec 8) : Chip → Chip :=
  let k := item.toNat
  serve o 0xB1 1 (.calStatus o item) (if k ≥ 7 then some 0 else none) [pdFABRIC] <| tell fun c =>
    done (toBE 4 (c.rd (Reg.CAL_ITEM_COUNT_value k)) ++
      toBE 6 (c.rd2 (Reg.CAL_ITEM_SEC_LO_value k) (Reg.CAL_ITEM_SEC_HI_value k)) ++
      toBE 4 (c.rd (Reg.CAL_ITEM_NS_value k)) ++ toBE 2 0)

/-- CAL_STATUS. -/
def execCalStatus (o : Origin) (item : BitVec 8) (s : State) : Host.Outcome State Fault Refusal :=
  runs (cmdCalStatus o item) s

/-- Receive lanes that are locked: odd head lanes and the overview lanes. -/
def Chip.lockedLanes (c : Chip) : List Nat :=
  (List.range 52).filter fun n =>
    (n ≥ 48 || n % 2 == 1) && c.on (laneDom n) && c.rd (Reg.GLK_STATUS_state n) == 3

/-- One equaliser step of a lane (R482): towards what a forced round measured, otherwise in a direction that is a measured
quantity (DESIGN CHOICE, log entry 7). -/
def eqStep (n : Nat) (c : Chip) : Chip :=
  if (assocGet (65536 + n) c.sys.cal.todo).getD 0 ≠ 0 then trimNext 1 n c
  else
    let (k, c) := draw c
    trimStep 1 n ((Config.measured k % 3 : Nat) - 1) c

/-- A background interval ends (R482): after CAL_LANE_INT, one equaliser step of every locked receive lane; or a round of the
chopper's offsets. -/
def calLaneStep (item : Nat) (c : Chip) : Chip :=
  match item with
  | 1 =>
    let now := c.now
    when (decide (c.sys.cal.laneAt + 4 * c.rd Reg.CAL_LANE_INT_us ≤ now)) (fun c =>
      forEach c.lockedLanes eqStep (modCal (fun k => { k with laneAt := now }) c) |> calCount 1) c
  | 0 =>
    forEach (List.range 16) (fun k c =>
      when (c.flag (Reg.AX_CTL_enable (k / 2)) && !c.flag (Reg.AX_CTL_mode (k / 2))) (trimMeasure 0 k) c) c |> calCount 0
  | _ => c

/-- CAL_LANE_STEP. -/
def execCalLaneStep (item : Fin 5) (s : State) : Host.Outcome State Fault Refusal :=
  runs (fun c => when (c.on pdFABRIC) (calLaneStep item.val) c) s

end Sys2Proof.Machine
end

