-- ==== Sys2Proof/Machine/Crock.lean ====
section
/-! DEFINITION. The Crock (16_management_roles_crock.md, R462–R469): records, folds, the array, the last-gasp file
and EVENT notices. -/

namespace Sys2Proof.Machine

open Sys2Proof

/-- Change the Crock beside its memories. -/
def modCrock (f : Crock → Crock) (c : Chip) : Chip := { c with sys := { c.sys with crock := f c.sys.crock } }

/-- Bytes 0–27 of a record (R462). -/
def Rec.head (r : Rec) : List Byte :=
  toLE 6 (secsOf r.time) ++ toLE 4 (nsOf r.time) ++ toLE 2 r.code ++ toLE 2 r.inst ++
    (r.par ++ List.replicate 8 0).take 8 ++ toLE 4 r.span ++ toLE 2 r.count

/-- The 32 bytes of a record (R462). -/
def Rec.bytes (r : Rec) : List Byte := r.head ++ toLE 4 (crc32c r.head)

/-- The record that an occurrence opens. -/
def Event.fresh (e : Event) : Rec := ⟨e.time, e.code, e.inst, e.par, 0, 1, e.beat⟩

/-- Codes that never fold (R463). -/
def neverFolds (code : Nat) : Bool :=
  code / 256 == 0x01 || code / 256 == 0x0C || code / 256 == 0x0E || code == 0x0B31 || code == 0x0B32

/-- Whether an occurrence folds into a record (R463). -/
def Rec.takes (e : Event) (r : Rec) : Bool :=
  !neverFolds e.code && r.code == e.code && r.inst == e.inst && r.par.take 4 == e.par.take 4 &&
    decide (r.count < 65535)

/-- A record with one more occurrence folded into it (R463). -/
def Rec.fold (e : Event) (r : Rec) : Rec :=
  { r with count := r.count + 1, par := r.par.take 4 ++ (e.par.drop 4).take 4,
           span := satU 32 ((e.beat - r.beat) * 250 / 1000) }

/-- The newest of the last 16 records that takes an occurrence, as an index of the array. -/
def foldIndex (e : Event) (l : List Rec) : Option Nat :=
  (((List.range 16).map fun k => l.length - 1 - k).filter fun i => decide (l.length ≤ i + 16)).find? fun i =>
    match l[i]? with
    | some r => r.takes e
    | none => false

/-- Events that the last-gasp file keeps (R468; 17, R484; 18, R516). -/
def lastGaspCode (code : Nat) : Bool :=
  code == 0x0E04 || code == 0x0A02 || code == 0x0401 || code == 0x0203 || code == 0x0102 || code == 0x0103 ||
    code == 0x0107

/-- A record copied into the last-gasp file: the oldest of 8 is overwritten (R468). -/
def lastGasp (r : Rec) (c : Chip) : Chip :=
  let l := c.crockMem.lastGasp ++ [r]
  let c := { c with crockMem := { c.crockMem with lastGasp := l.drop (l.length - 8) } }
  let n := c.rd Reg.CRK_LG_COUNT_count + 1
  wr Reg.CRK_LG_COUNT_count n c |> wr Reg.CRK_STATUS_lg_next (n % 8)

/-- A record written or folded, sent as an EVENT notice to the sessions that ask for its class (R464, R86). -/
def noticeEvent (r : Rec) (c : Chip) : Chip :=
  if !c.on pdNET then c else (List.range 8).foldl (fun c k =>
    let s := c.session k
    if c.sessionOpen k && bit s.nmask 3 && bit s.emask (r.code / 256) then
      modSession k (Session.notify 0x8004 0 r.bytes) c
    else c) c

/-- The array as it stands, and its count shown. -/
def setRecords (l : List Rec) (c : Chip) : Chip :=
  wr Reg.CRK_STATUS_used l.length { c with crockMem := { c.crockMem with records := l } }

/-- An occurrence that the array does not store: counted in CRK_LOST, still notified (R464, R465, R467). -/
def crockLost (e : Event) (c : Chip) : Chip :=
  inc Reg.CRK_LOST_count Reg.CRK_STICKY_sat 0 c |> noticeEvent e.fresh

/-- A new record; the 16,384th is LOG_FULL (R465). -/
def crockOpen (e : Event) (c : Chip) : Chip :=
  let l := c.crockMem.records
  if l.length < 16383 then
    let c := setRecords (l ++ [e.fresh]) c |> noticeEvent e.fresh
    if l.length + 1 = 16383 then
      let f : Event := ⟨0x0E02, 0, u32 0 ++ beat32 e.beat, e.time, e.beat⟩
      setRecords (l ++ [e.fresh, f.fresh]) c |> noticeEvent f.fresh |> wr Reg.CRK_STATUS_full 1
    else c
  else crockLost e c

/-- An uncorrectable word of the array is found: writing stops for good (R467). -/
def logmemFail (i : Nat) (c : Chip) : Chip :=
  let e : Event := ⟨0x0E04, 0, u16 i ++ u16 0 ++ beat32 c.now, c.time 0, c.now⟩
  wr Reg.CRK_STATUS_logmem_fail 1 c |> wr Reg.CRK_FAIL_IDX_index i |> lastGasp e.fresh

/-- One event written or folded (R463–R468). -/
def crockWrite (e : Event) (c : Chip) : Chip :=
  let c := when (lastGaspCode e.code) (lastGasp e.fresh) c
  if c.flag Reg.CRK_STATUS_logmem_fail then crockLost e c
  else
    let l := c.crockMem.records
    match foldIndex e l with
    | some i =>
      let r := (l.getD i e.fresh).fold e
      setRecords (setAt l i r) c |> noticeEvent r
    | none => crockOpen e c

/-- The Crock takes one event from its queue (R464). An EVENTS_DROPPED event enters at the first place that frees
after a drop. `bad`: the record with an uncorrectable word that the write or fold meets; `ce`: a corrected word. -/
def crockTake (bad : Option Nat) (ce : Bool) (c : Chip) : Chip :=
  if !c.sys.crock.clearing.isEmpty then c
  else
    match c.sys.crock.queue with
    | [] => c
    | e :: q =>
      let n := c.sys.crock.dropped
      let extra : List Event :=
        if n = 0 then [] else [⟨0x0E03, 0, u32 n ++ beat32 c.now, c.time 0, c.now⟩]
      let c := modCrock (fun k => { k with queue := q ++ extra, dropped := 0 }) c
        |> when (ce && !c.flag Reg.CRK_STATUS_logmem_fail) (inc Reg.CRK_CE_count Reg.CRK_STICKY_sat 2)
      let c := match bad with
        | some i => if c.flag Reg.CRK_STATUS_logmem_fail then c else logmemFail i c
        | none => c
      crockWrite e c

/-- A clear ends (R466): every record is erased, and record 0 names who cleared. -/
def crockCleared (role slot key : Nat) (c : Chip) : Chip :=
  let n := c.crockMem.records.length
  let e : Event := ⟨0x0E01, 0, u8 role ++ u8 slot ++ u16 n ++ u32 key, c.time 0, c.now⟩
  setRecords [e.fresh] c |> noticeEvent e.fresh |> wr Reg.CRK_STATUS_full 0
    |> wrB Reg.CRK_STATUS_clearing (c.sys.crock.clearing.length > 1)
    |> wr Reg.CRK_STICKY_sat 0 |> modCrock (fun k => { k with clearing := k.clearing.drop 1 })

end Sys2Proof.Machine
end

