-- ==== Sys2Proof/Machine/CrockCmds.lean ====
section
/-! DEFINITION. The Crock's commands (16_management_roles_crock.md, R464–R469; 03_serair_commands.md, R93). -/

namespace Sys2Proof.Machine

open Sys2Proof

/-- Offset of the first parameter of LOG_READ at fault. -/
def logReadForm (count : Nat) : Option Nat := if count = 0 ∨ count > 40 then some 2 else none

/-- LOG_READ (R469): the records from an index on. `bad`: a record of those read in which the read finds an uncorrectable
word; `ce`: whether it corrects one (R467). -/
def logRead (first count : Nat) (bad : Option Nat) (ce : Bool) (c : Chip) : Ans × Chip :=
  let l := (c.crockMem.records.drop first).take count
  let found : Bool := match bad with
    | some i => decide (first ≤ i) && decide (i < first + l.length) && !c.flag Reg.CRK_STATUS_logmem_fail
    | none => false
  if c.crockMem.records.length ≤ first then (badParam 0, c)
  else
    (done (l.flatMap Rec.bytes),
      when ce (inc Reg.CRK_CE_count Reg.CRK_STICKY_sat 2) (if found then logmemFail (bad.getD 0) c else c))

/-- LOG_READ. -/
def execLogRead (o : Origin) (first : BitVec 16) (count : BitVec 8) (bad : Option (Fin 16384)) (s : State)
    (ce : Bool := false) : Host.Outcome State Fault Refusal :=
  runsCrock (serve o 0xA0 1 (.logRead o first count none false) (logReadForm count.toNat) [] <|
    now (logRead first.toNat count.toNat (bad.map Fin.val) ce)) s

/-- LOG_STATUS (R93). -/
def cmdLogStatus (o : Origin) : Chip → Chip :=
  serve o 0xA1 1 (.logStatus o) none [] <| tell fun c =>
    let n := c.rd Reg.CRK_STATUS_used
    done (toBE 2 n ++ toBE 2 n ++ toBE 1 (c.rd Reg.CRK_STATUS_full + 2 * c.rd Reg.CRK_STATUS_logmem_fail) ++ toBE 3 0)

/-- LOG_STATUS. -/
def execLogStatus (o : Origin) (s : State) : Host.Outcome State Fault Refusal := runs (cmdLogStatus o) s

/-- LOG_CLEAR (R466): the erase begins; its reply comes when it ends (DEDUCED, log entry 45). -/
def logClear (o : Origin) (c : Chip) : Option Ans × Chip :=
  if c.flag Reg.CRK_STATUS_logmem_fail then (some (badState 1 0), c)
  else
    let k := o.slot.val
    let e := (c.waiter o 0xA2, c.rd (Reg.SEC_SLOT_STATE_role k), c.rd (Reg.SEC_SLOT_KEY_value k))
    (none, modCrock (fun x => { x with clearing := x.clearing ++ [e] }) c |> wr Reg.CRK_STATUS_clearing 1)

/-- LOG_CLEAR. -/
def execLogClear (o : Origin) (s : State) : Host.Outcome State Fault Refusal :=
  runs (serve o 0xA2 2 (.logClear o) none [] (logClear o)) s

/-- LOG_CLEAR_DONE (R466). -/
def execLogClearDone (s : State) : Host.Outcome State Fault Refusal :=
  runsCrock (fun c =>
    match c.sys.crock.clearing with
    | [] => c
    | (w, role, key) :: _ => crockCleared role w.o.slot.val key c |> finish w (done [])) s

/-- LASTGASP_READ (R468): the records in use, oldest first, then all-zero ones. -/
def execLastgaspRead (o : Origin) (s : State) : Host.Outcome State Fault Refusal :=
  runs (serve o 0xA3 1 (.lastgaspRead o) none [] <| tell fun c =>
    let l := c.crockMem.lastGasp
    done (l.flatMap Rec.bytes ++ List.replicate (32 * (8 - l.length)) 0)) s

/-- CROCK_TAKE_EVENT (R464). -/
def execCrockTakeEvent (bad : Option (Fin 16384)) (ce : Bool) (s : State) : Host.Outcome State Fault Refusal :=
  runsCrock (crockTake (bad.map Fin.val) ce) s

end Sys2Proof.Machine
end

