-- ==== Sys2Proof/Machine/FurrowCmds.lean ====
section
/-! DEFINITION. Commands of the beam channels (03_serair_commands.md, R91) and the events of Furrows and Bed Sluice
(04_furrows.md, 05_bed_sluice.md). Each event acts only when what it carries out is due. -/

namespace Sys2Proof.Machine

open Sys2Proof

/-- The channels of a mask. -/
def chansOf (mask : BitVec 32) : List Nat := bitList 24 mask.toNat

/-- The parameter form of a channel mask: bits [31:24] are 0 (R71). -/
def maskForm (mask : BitVec 32) : Option Nat := if mask.toNat < 2 ^ 24 then none else some 0

/-- The domains of the named channels. -/
def maskDoms (mask : BitVec 32) : List Nat := (chansOf mask).map chanDom

/-- Whether a quench input is asserted (18_resets_domains_faults.md, R512). -/
def Chip.quenchPin (c : Chip) : Bool := c.flag Reg.GIO_STATUS_quench_a || c.flag Reg.GIO_STATUS_quench_b

/-- The first refusal of a channel-mask command, if any: it acts on all channels or on none (R91). -/
def firstRefusal (f : Nat → Option Ans) : List Nat → Option Ans
  | [] => none
  | ch :: l => match f ch with
    | some a => some a
    | none => firstRefusal f l

/-- Why CH_ARM refuses a channel (R91, R143, R205, R512). -/
def Chip.armRefusal (c : Chip) (ch : Nat) : Option Ans :=
  let st := c.chState ch
  if (c.fur ch).frozen then some (refuse 0x18 0 ch 0)
  else if (st ≠ 0 ∧ st ≠ 5) ∨ c.quenchPin ∨ !c.flag (Reg.GLK_STATUS_up (2 * ch + 1)) then some (badState st ch)
  else none

/-- A channel is to be armed: at once, or during the step beat on the next beat (R46). -/
def arm (ch : Nat) (c : Chip) : Chip :=
  match c.sys.net.servo.step with
  | some (n, _, _, _) => if n = c.now then modFur ch (fun f => { f with armAt := some (n + 1) }) c else armNow ch c
  | none => armNow ch c

/-- CH_ARM (R91, R143). -/
def execChArm (o : Origin) (mask : BitVec 32) (s : State) : Host.Outcome State Fault Refusal :=
  runs (serve o 0x40 1 (.chArm o mask) (maskForm mask) (maskDoms mask) <| now fun c =>
    match firstRefusal c.armRefusal (chansOf mask) with
    | some a => (a, c)
    | none => (done [], forEach (chansOf mask) arm c)) s

/-- Why CH_PARK refuses a channel (R143). -/
def Chip.parkRefusal (c : Chip) (ch : Nat) : Option Ans :=
  let st := c.chState ch
  let f := c.fur ch
  let busy := f.running && !f.ended && (f.begun || !f.plans.isEmpty)
  if st = 0 ∨ (st = 1 ∧ !busy) then none else some (badState st ch)

/-- CH_PARK (R91, R145). -/
def execChPark (o : Origin) (mask : BitVec 32) (s : State) : Host.Outcome State Fault Refusal :=
  runs (serve o 0x41 1 (.chPark o mask) (maskForm mask) (maskDoms mask) <| now fun c =>
    match firstRefusal c.parkRefusal (chansOf mask) with
    | some a => (a, c)
    | none => (done [], forEach (chansOf mask) (fun ch c => chEvent ch (c.chState ch) 5 0x41 (park ch c)) c)) s

/-- Why CH_CLEAR refuses a channel: it is neither QUENCHED nor FAULT, or its cause is present (R143, R145, R510). -/
def Chip.clearRefusal (c : Chip) (ch : Nat) : Option Ans :=
  let st := c.chState ch
  let dram := decide (c.rd (Reg.FUR_STATE_quench_cause ch) = quenchUnattributed) &&
    (decide (c.dramState 0 = 4) || decide (c.dramState 1 = 4))
  if st < 6 ∨ c.quenchPin ∨ (c.fur ch).frozen ∨ dram then some (badState st ch)
  else none

/-- A channel is cleared: fault and quench cause go, its loops are OFF, and it parks (R145, R147, R148, R292). -/
def chClear (ch : Nat) (c : Chip) : Chip :=
  let old := c.chState ch
  wr (Reg.FUR_FAULT_cause ch) 0 c |> wr (Reg.FUR_STATE_quench_cause ch) 0 |> ladOff ch |> park ch
    |> chEvent ch old 5 0x42

/-- CH_CLEAR (R91, R145). -/
def execChClear (o : Origin) (mask : BitVec 32) (s : State) : Host.Outcome State Fault Refusal :=
  runs (serve o 0x42 1 (.chClear o mask) (maskForm mask) (maskDoms mask) <| now fun c =>
    match firstRefusal c.clearRefusal (chansOf mask) with
    | some a => (a, c)
    | none => (done [], forEach (chansOf mask) chClear c)) s

/-- CH_STATUS (R91, R175). -/
def cmdChStatus (o : Origin) (mask : BitVec 32) : Chip → Chip :=
  serve o 0x43 1 (.chStatus o mask) (maskForm mask) (maskDoms mask) <| tell fun c =>
    done ((chansOf mask).flatMap fun ch =>
      let g := c.grantStatus ch
      toBE 1 (c.chState ch) ++ toBE 1 g.1 ++ toBE 1 g.2.1 ++ toBE 1 0 ++ toBE 2 (c.rd (Reg.FUR_STATE_head_seq ch)) ++
        toBE 2 0)

/-- CH_STATUS. -/
def execChStatus (o : Origin) (mask : BitVec 32) (s : State) : Host.Outcome State Fault Refusal :=
  runs (cmdChStatus o mask) s

/-- Whether entries first to first + count − 1 lie in the vector log of a channel (R137, R15). -/
def Chip.inVecLog (c : Chip) (ch first count : Nat) : Bool :=
  let n := c.rd (Reg.FUR_LOG_COUNT_count ch)
  let back := (n + 2 ^ 32 - first) % 2 ^ 32
  decide (count ≤ back) && decide (back ≤ 2 ^ c.rd (Reg.FUR_LOG_SIZE_log2_entries ch))

/-- CH_LOG_READ (R91, R137): the entries as they lie in DRAM. -/
def execChLogRead (o : Origin) (chan : BitVec 8) (first : BitVec 32) (count : BitVec 16) (s : State) :
    Host.Outcome State Fault Refusal :=
  let ch := chan.toNat
  let n := count.toNat
  let form := if ch ≥ 24 then some 0 else if n < 1 ∨ n > 64 then some 8 else none
  runs (serve o 0x44 1 (.chLogRead o chan first count) form [chanDom ch] <| tell fun c =>
    if !c.inVecLog ch first.toNat n then badParam 4
    else
      let at0 (k : Nat) : Nat := c.logAddr ch (first.toNat + k)
      if (List.range n).all fun k => c.dramOk (at0 k) 16 then
        done ((List.range n).flatMap fun k => c.dramRead (at0 k) 16)
      else faultMemory) s

/-! ### Events -/

/-- An effect on a channel while its domain works. -/
def chDo (ch : Nat) (f : Chip → Chip) (c : Chip) : Chip := when (c.alive (chanDom ch)) f c

/-- VECTOR_END (R114, R131, R136): the vectors of a channel whose end beat has come end. -/
def execVectorEnd (c : Fin 24) (s : State) : Host.Outcome State Fault Refusal :=
  runs (chDo c (furAdvance c)) s

/-- VECTOR_FETCH_DONE (R138): the oldest burst that the channel asked for arrives. -/
def execVectorFetchDone (c : Fin 24) (ok : Bool) (s : State) : Host.Outcome State Fault Refusal :=
  runs (chDo c (furArrive c ok)) s

/-- LOG_FLUSH_TIMEOUT (R139). -/
def execLogFlushTimeout (c : Fin 24) (s : State) : Host.Outcome State Fault Refusal :=
  runs (chDo c (logTimeout c)) s

/-- A condition of the head of a channel that waits. -/
def headIs (ch kind : Nat) (f : Chip → Chip) (c : Chip) : Chip :=
  when ((c.fur ch).head.any fun x => x.r.kind == kind) f c

/-- WAIT_INPUT_MET (R125). -/
def execWaitInputMet (c : Fin 24) (s : State) : Host.Outcome State Fault Refusal :=
  runs (chDo c (headIs c kWaitIn fun d => waitInput c d |> furAdvance c)) s

/-- WAIT_INPUT_TIMEOUT (R125). -/
def execWaitInputTimeout (c : Fin 24) (s : State) : Host.Outcome State Fault Refusal :=
  runs (chDo c (headIs c kWaitIn (waitInput c))) s

/-- WAIT_TIME_MET (R127): the WAIT_TIME at the head has its beat fixed once the time is due. -/
def execWaitTimeMet (c : Fin 24) (s : State) : Host.Outcome State Fault Refusal :=
  runs (chDo c (headIs c kWaitTime fun d => furCommits c 1 d |> furAdvance c)) s

/-- SYNC_BEAT_MET (R128). -/
def execSyncBeatMet (c : Fin 24) (s : State) : Host.Outcome State Fault Refusal :=
  runs (chDo c (headIs c kSync fun d => furCommits c 1 d |> furAdvance c)) s

/-- OUTPUT_PULSE_CLEAR (R126). -/
def execOutputPulseClear (k : Fin 16) (s : State) : Host.Outcome State Fault Refusal :=
  runs (pulseClear k) s

/-- VECTOR_RATE_WINDOW (R141). -/
def execVectorRateWindow (c : Fin 24) (s : State) : Host.Outcome State Fault Refusal :=
  runs (chDo c (rateWindow c)) s

/-- QUENCH_CONFIRM (R146, R169). -/
def execQuenchConfirm (c : Fin 24) (s : State) : Host.Outcome State Fault Refusal :=
  runs (quenchConfirm c) s

/-- BACKOFF_EXPIRY (R161): a request whose next evaluation has come is evaluated. -/
def execBackoffExpiry (c : Fin 24) (s : State) : Host.Outcome State Fault Refusal :=
  runs (fun d => when (d.on pdFABRIC && (d.req c).any fun r => decide (r.nextEval ≤ d.now))
    (evalReq d.tileGrid c 3) d |> slbShow) s

/-- SETTLE_EXPIRY (R167). -/
def execSettleExpiry (tile : Fin 65536) (s : State) : Host.Outcome State Fault Refusal :=
  runs (settleEnd tile) s

/-- QUOTA_WINDOW_END (R166). -/
def execQuotaWindowEnd (s : State) : Host.Outcome State Fault Refusal := runs quotaEnd s

/-- SLOT_TABLE_WRAP (R164). -/
def execSlotTableWrap (s : State) : Host.Outcome State Fault Refusal := runs slotWrap s

end Sys2Proof.Machine
end

