-- ==== Sys2Proof/Machine/JobCmds.lean ====
section
/-! DEFINITION. The job commands and events (02_beat_and_admission.md, R47–R55; 03_serair_commands.md, R90, R94, R95,
R555). -/

namespace Sys2Proof.Machine

open Sys2Proof

/-- A refusal for a job that is not held: its id, the first parameter. -/
def noJob : Ans := badParam 0

/-- REFUSED_STATE for a job: its state and id. -/
def jobState (j : Job) : Ans := refuse 0x16 j.st (j.id % 65536) 0

/-! ### JOB_LOAD and the pre-walk -/

/-- The offset of the first parameter of JOB_LOAD at fault (R71, R555 step 1). -/
def loadForm (addr : BitVec 64) (len : BitVec 32) : Option Nat :=
  if addr.toNat ≥ 2 ^ 36 then some 0 else if len.toNat < 52 ∨ len.toNat > 1972 then some 8 else none

/-- JOB_LOAD carried out (DEDUCED, log entry 31). -/
def jobLoad (addr len : Nat) (c : Chip) : Ans × Chip :=
  if c.flag Reg.BT_CTL_admit_need_lock ∧ c.timeState ≤ 1 then (badState c.timeState 0, c)
  else if c.host.jobs.length ≥ 4 then (badState 0 0, c)
  else if !c.dramOk addr len then (faultMemory, c)
  else
    let l := c.dramRead addr len
    match descFault l with
    | some off => (badStruct 1 0 off, c)
    | none =>
      let j := Job.ofBytes l
      match c.jobOf j.id with
      | some k => (jobState k, c)
      | none => (done (toBE 4 j.id), modJobs (fun q => q ++ [j]) c)

/-- JOB_LOAD (R90, R555). -/
def execJobLoad (o : Origin) (addr : BitVec 64) (len : BitVec 32) (s : State) : Host.Outcome State Fault Refusal :=
  runs (serve o 0x20 1 (.jobLoad o addr len) (loadForm addr len) [pdDRAM] <| now (jobLoad addr.toNat len.toNat)) s

/-- The pre-walk of a LOADED job ends (R53). -/
def preWalkDone (id : Nat) (c : Chip) : Chip :=
  match c.jobOf id with
  | none => c
  | some j =>
    if j.st ≠ 0 ∨ j.walked ∨ !c.on pdAPP then c
    else
      let ls := j.chans.map fun e => c.preWalk (c.restAt e.chan) e
      modJob id (fun x => { x with walked := true, lists := ls }) c |> jobNotice j 0 1

/-- PREWALK_DONE (R53). -/
def execPrewalkDone (job : BitVec 32) (s : State) : Host.Outcome State Fault Refusal := runs (preWalkDone job.toNat) s

/-! ### JOB_ADMIT -/

/-- A refusal of JOB_ADMIT by the checks of R50 is logged (R64). -/
def jobRefused (j : Job) (a : Ans) (c : Chip) : Chip :=
  let code := if a.1 = 0x14 then beAt a.2 0 2 else 0
  log 0x0110 (j.id % 65536) (u32 j.id ++ u8 a.1 ++ u8 code ++ u16 (beAt a.2 2 2)) c

/-- JOB_ADMIT carried out. -/
def jobAdmit (id : Nat) (c : Chip) : Ans × Chip :=
  match c.jobOf id with
  | none => (noJob, c)
  | some j =>
    if j.st ≠ 0 then (jobState j, c)
    else
      match c.admitted with
      | some k => (jobState k, c)
      | none =>
        if !j.walked then (refuse 0x16 0 (id % 65536) 1, c)
        else
          match c.admission j with
          | .error (a, lad) =>
            let c := match lad with
              | some (ch, l, code) => wr (Reg.LAD_CHECK_code ch) code (wr (Reg.LAD_CHECK_loop ch) l c)
              | none => c
            (a, jobRefused j a c)
          | .ok bs =>
            let ds := j.ctxs.map fun x => (x.ctx, j.deadline x)
            ((1, acceptedBody j bs), modJob id (fun x => { x with st := 1, deadlines := ds }) c
              |> slmReserve (c.slotNeeds j) |> sieveAdmitted |> jobNotice j 1 0)

/-- JOB_ADMIT (R50–R54, R90). -/
def execJobAdmit (o : Origin) (job : BitVec 32) (s : State) : Host.Outcome State Fault Refusal :=
  runs (serve o 0x21 1 (.jobAdmit o job) none [] <| now (jobAdmit job.toNat)) s

/-! ### JOB_START -/

/-- JOB_START carried out: the start beat, the commits that wait for it (R124), the Memory Sluice table (R395), the lists
(R138), the start blocks (R241). -/
def jobStart (id start : Nat) (c : Chip) : Ans × Chip :=
  match c.jobOf id with
  | none => (noJob, c)
  | some j =>
    if j.st ≠ 1 ∨ j.start.isSome then (jobState j, c)
    else
      match c.running with
      | some k => (jobState k, c)
      | none =>
        let first := c.host.hg.rcvd + 2000
        if start ≠ 0 ∧ start < first then (badParam 4, c)
        else
          let s := if start = 0 then first else start
          (done (toBE 8 s), modJob id (fun x => { x with start := some s }) c |> commitsBegin (fun _ => true)
            |> slmCommit s |> forEach j.chans (fun e => furLoad e id s)
            |> forEach (j.ctxs.filter fun x => decide (x.ctx < 24)) fun x => expStart x.ctx)

/-- JOB_START (R90). -/
def execJobStart (o : Origin) (job : BitVec 32) (start : BitVec 64) (s : State) : Host.Outcome State Fault Refusal :=
  runs (serve o 0x22 1 (.jobStart o job start) none [] <| now (jobStart job.toNat start.toNat)) s

/-! ### JOB_ABORT, JOB_DISCARD, JOB_STATUS -/

/-- JOB_ABORT carried out. -/
def jobAbortCmd (id : Nat) (c : Chip) : Ans × Chip :=
  match c.jobOf id with
  | none => (noJob, c)
  | some j => if j.st = 1 ∨ j.st = 2 then (done [], jobAbort j 1 c) else (jobState j, c)

/-- JOB_ABORT (R90). -/
def execJobAbort (o : Origin) (job : BitVec 32) (s : State) : Host.Outcome State Fault Refusal :=
  runs (serve o 0x23 1 (.jobAbort o job) none [] <| now (jobAbortCmd job.toNat)) s

/-- JOB_DISCARD carried out: an ADMITTED job's reservations go with it. -/
def jobDiscard (id : Nat) (c : Chip) : Ans × Chip :=
  match c.jobOf id with
  | none => (noJob, c)
  | some j =>
    if j.st = 2 then (jobState j, c)
    else
      let c := if j.st = 1 then
          slmDiscard c |> when j.start.isSome (forEach j.chans fun e => furJobEnd e.chan)
        else c
      (done [], modJobs (fun l => l.filter fun x => x.id != id) c)

/-- JOB_DISCARD (R90). -/
def execJobDiscard (o : Origin) (job : BitVec 32) (s : State) : Host.Outcome State Fault Refusal :=
  runs (serve o 0x24 1 (.jobDiscard o job) none [] <| now (jobDiscard job.toNat)) s

/-- JOB_STATUS (R90). -/
def cmdJobStatus (o : Origin) (job : BitVec 32) : Chip → Chip :=
  serve o 0x25 1 (.jobStatus o job) none [] <| tell fun c =>
    match c.jobOf job.toNat with
    | none => noJob
    | some j =>
      done (toBE 1 j.st ++ toBE 1 j.chans.length ++ toBE 1 (b2n j.walked) ++ toBE 1 0 ++ toBE 8 (j.start.getD 0) ++
        j.chans.flatMap fun e => toBE 1 e.chan ++ toBE 1 (c.chState e.chan) ++ toBE 2 (c.seqReached j e.chan))

/-- JOB_STATUS. -/
def execJobStatus (o : Origin) (job : BitVec 32) (s : State) : Host.Outcome State Fault Refusal := runs (cmdJobStatus o job) s

end Sys2Proof.Machine
end

