-- ==== Sys2Proof/Machine/PositionCmds.lean ====
section
/-! DEFINITION. Commands and events of position feedback (10_position_feedback.md). -/

namespace Sys2Proof.Machine

open Sys2Proof

/-- What belongs to PD_MOTION happens only while the domain is on. -/
def motDo (f : Chip → Chip) (c : Chip) : Chip := when (c.alive pdMOTION) f c

/-- PF_STATUS (R92, R308, R311). -/
def cmdPfStatus (o : Origin) (mask : BitVec 8) : Chip → Chip :=
  serve o 0x66 1 (.pfStatus o mask) none [pdMOTION] <| tell fun c =>
    done ((bitList 8 mask.toNat).flatMap fun n =>
      toBE 1 (c.pfFlags n) ++ toBE 1 0 ++ toBE 2 (c.rd (Reg.PF_IDX_COUNT_mismatch n)) ++
        toBE 8 (ofS 64 (c.pfPos n)) ++ toBE 4 (c.rd (Reg.PF_SPEED_v n)))

/-- PF_STATUS. -/
def execPfStatus (o : Origin) (mask : BitVec 8) (s : State) : Host.Outcome State Fault Refusal :=
  runs (cmdPfStatus o mask) s

/-- PF_EDGE (R297–R303). -/
def execPfEdge (n : Fin 8) (a b : Bool) (ns : Fin 499) (s : State) (stable : BitVec 8 := 255) :
    Host.Outcome State Fault Refusal :=
  runs (fun c => pfPins n.val a b (c.pf n.val).pinX stable.toNat (c.time ns.val) c) s

/-- INDEX_EDGE (R307–R309, R335). -/
def execIndexEdge (n : Fin 8) (ns : Fin 499) (s : State) (a b : Bool := false) (x : Bool := true)
    (stable : BitVec 8 := 255) :
    Host.Outcome State Fault Refusal :=
  runs (fun c => pfPins n.val a b x stable.toNat (c.time ns.val) c) s

/-- SPEED_STOP_TIMEOUT (R304). -/
def execSpeedStopTimeout (n : Fin 8) (s : State) : Host.Outcome State Fault Refusal := runs (motDo (pfStop n.val)) s

/-- EMU_STEP (R315). -/
def execEmuStep (k : Fin 4) (ns : Fin 499) (s : State) : Host.Outcome State Fault Refusal :=
  runs (motDo fun c => emuStepAt k.val (c.time ns.val) c) s

end Sys2Proof.Machine
end

