-- ==== Sys2Proof/Machine/MotionCmds.lean ====
section
/-! DEFINITION. Commands and events of the axes (11_recoat_and_build_axes.md; 03_serair_commands.md, R92). -/

namespace Sys2Proof.Machine

open Sys2Proof

/-! ### Moves (R324–R328) -/

/-- What R324 plans a move with: vmax, a2 and d2, and the start, switch and stop speeds lowered to vmax. -/
structure MoveArgs where
  vmax : Nat
  a2 : Nat
  d2 : Nat
  v0 : Nat
  v1 : Nat
  ve : Nat
  deriving DecidableEq, Repr

/-- The arguments of R324 from a speed and accelerations in force. -/
def Chip.moveArgs (c : Chip) (n vmax a2 d2 : Nat) : MoveArgs :=
  ⟨vmax, a2, d2, min (c.rd (Reg.AX_PROF_V0_value n)) vmax, min (c.rd (Reg.AX_PROF_V1_value n)) vmax,
    min (c.rd (Reg.AX_PROF_VE_value n)) vmax⟩

/-- `v`, or `d` when `v` is 0. -/
def orElse (v d : Nat) : Nat := if v = 0 then d else v

/-- A speed above the envelope's limit (R327 step 3). -/
def speedCheck (n v : Nat) (c : Chip) : Option Ans :=
  let lim := c.rd (Reg.AX_ENV_VLIM_value n)
  if v > lim then some (refuse 0x15 1 n lim) else none

/-- Steps 1 to 4 of R327, as far as they rest on the state. A lack of homing breaks no limit: its value is 0
(DEDUCED, log entry 41). -/
def moveChecks (n : Nat) (target : Int) (vmax : Nat) (c : Chip) : Option Ans :=
  let lo := c.rd48 (Reg.AX_ENV_MIN_LO_value n) (Reg.AX_ENV_MIN_HI_value n)
  let hi := c.rd48 (Reg.AX_ENV_MAX_LO_value n) (Reg.AX_ENV_MAX_HI_value n)
  let st := c.axState n
  if !c.flag (Reg.AX_CTL_enable n) ∨ st = axFault then some (badParam 0)
  else if c.host.sec.envelope.isNone then some (refuse 0x15 0 n 0)
  else if target < lo then some (refuse 0x15 1 n (ofS 32 lo))
  else if target > hi then some (refuse 0x15 1 n (ofS 32 hi))
  else match speedCheck n vmax c with
    | some a => some a
    | none =>
      if c.flag (Reg.AX_ENV_CTL_need_home n) ∧ !c.flag (Reg.AX_STATUS_homed n) then some (refuse 0x15 1 n 0)
      else if st ≠ axIdle then some (refuse 0x19 0 n 0)
      else none

/-- A move begins at the next opening (R324); toward an active limit it ends at once (R330). -/
def moveStart (n : Nat) (target : Int) (speed accel : Nat) (c : Chip) : Chip :=
  let pos := c.axPos n
  let up := decide (target > pos)
  let c := wr48 (Reg.AX_TARGET_LO_pos n) (Reg.AX_TARGET_HI_pos n) target c
  if target = pos then c
  else if c.limitActive n up then axLimit n up c
  else
    let m := c.moveArgs n (orElse speed (c.rd (Reg.AX_PROF_VMAX_value n)))
      (orElse accel (c.rd (Reg.AX_PROF_A2_value n))) (orElse accel (c.rd (Reg.AX_PROF_D2_value n)))
    let d1 := c.rd (Reg.AX_PROF_D1_value n)
    let dist : Int := if up then target - pos else pos - target
    let ph := movePhases m.v0 m.vmax m.v1 m.ve (c.rd (Reg.AX_PROF_A1_value n)) m.a2 d1 m.d2 dist (min m.v0 m.ve : Nat)
    modAx n (fun x => { x with plan := some ⟨c.now + 1, pos, 0, up, ph, some dist⟩,
                               vmax := m.vmax, a2 := m.a2, d2 := m.d2, d1 := d1 }) c |> axLeave n axMoving

/-- Offset of the first parameter of AX_MOVE at fault (R327 step 1): a disabled or faulted axis comes before the
target. -/
def moveForm (axis : Nat) (target : Int) (c : Chip) : Option Nat :=
  if axis ≥ 8 then some 0
  else if target = toS 48 (ofS 48 target) then none
  else if c.on pdMOTION && (!c.flag (Reg.AX_CTL_enable axis) || c.axState axis == axFault) then some 0
  else some 4

/-- AX_MOVE (R324–R327). -/
def execAxMove (o : Origin) (axis : BitVec 8) (target : BitVec 64) (speed accel : BitVec 32) (s : State) :
    Host.Outcome State Fault Refusal :=
  let n := axis.toNat
  let x := toS 64 target.toNat
  runs (fun c => serve o 0x60 1 (.axMove o axis target speed accel) (moveForm n x c) [pdMOTION] (now fun c =>
    match moveChecks n x (orElse speed.toNat (c.rd (Reg.AX_PROF_VMAX_value n))) c with
    | some a => (a, c)
    | none => (done [], moveStart n x speed.toNat accel.toNat c)) c) s

/-- A MOVING axis is replanned from its position and speed at the next opening (R328). -/
def moveTune (n speed accel : Nat) (c : Chip) : Chip :=
  let x := c.ax n
  match x.plan with
  | none => c
  | some p =>
    let b := c.now + 1
    let at1 := p.at b
    let d : Int := p.dist.getD 0
    let rest : Rat := (d : Rat) - at1.1
    let m := c.moveArgs n (orElse speed x.vmax) (orElse accel x.a2) (orElse accel x.d2)
    let d1 := c.rd (Reg.AX_PROF_D1_value n)
    let kept := decide (fallDist at1.2.1 m.ve m.v1 d1 m.d2 > rest)
    let d1 := if kept then x.d1 else d1
    let d2 := if kept then x.d2 else m.d2
    let ph := movePhases at1.2.1 m.vmax m.v1 m.ve (c.rd (Reg.AX_PROF_A1_value n)) m.a2 d1 d2 rest
      (min at1.2.1 (m.ve : Nat))
    modAx n (fun x => { x with plan := some ⟨b, p.from0, at1.1, p.up, ph, p.dist⟩,
                               vmax := m.vmax, a2 := m.a2, d2 := d2, d1 := d1 }) c
      |> when kept (wr (Reg.AX_STATUS_tune_kept n) 1)

/-- AX_TUNE (R328). -/
def execAxTune (o : Origin) (axis : BitVec 8) (speed accel : BitVec 32) (s : State) :
    Host.Outcome State Fault Refusal :=
  let n := axis.toNat
  let v := speed.toNat
  let a := accel.toNat
  runs (serve o 0x61 1 (.axTune o axis speed accel) (if n ≥ 8 then some 0 else none) [pdMOTION] <| now fun c =>
    match speedCheck n v c with
    | some r => (r, c)
    | none =>
      if c.axState n = axMoving then (done [], moveTune n v a c)
      else
        (done [], wr (Reg.AX_PROF_VMAX_value n) v c
          |> when (decide (a ≠ 0)) fun c => wr (Reg.AX_PROF_A2_value n) a c |> wr (Reg.AX_PROF_D2_value n) a)) s

/-! ### Stops (R329) -/

/-- A normal stop of a MOVING, GEARED or HOMING axis. -/
def axStop (n : Nat) (c : Chip) : Chip :=
  let st := c.axState n
  if st = axMoving ∨ st = axGeared ∨ st = axHoming then
    axSlow n false (c.now + 1) c |> homeAbort n 2 |> gearEnd n |> wr (Reg.AX_STATUS_state n) axStopping
  else c

/-- AX_STOP (R329). -/
def execAxStop (o : Origin) (mask mode : BitVec 8) (s : State) : Host.Outcome State Fault Refusal :=
  runs (serve o 0x62 1 (.axStop o mask mode) (if mode.toNat ≥ 2 then some 1 else none) [pdMOTION] <| now fun c =>
    (done [], forEach (bitList 8 mask.toNat)
      (fun n => if mode.toNat = 0 then axStop n else axEmg n 0 2 (c.now + 1)) c)) s

/-! ### Homing (R334–R336) -/

/-- A homing begins; its final result is a RESULT notice. -/
def homeStart (n method : Nat) (p : Pend) (c : Chip) : Chip :=
  let inv := c.flag (Reg.AX_HOME_CTL_dir_inv n)
  let h : HomeRun := ⟨method, 1, homeSearchUp method inv, false, none, false, p⟩
  let c := modAx n (fun x => { x with home := some h }) c |> axLeave n axHoming
  let away := (method = 1 ∨ method = 2 ∨ method = 5) ∧ c.flag (Reg.AX_STATUS_in_home n)
  homeStage n (if away then 0 else 1) c

/-- Method 6 takes the present position as the reference, without motion. -/
def homeHere (n : Nat) (c : Chip) : Ans × Chip :=
  let off := c.rd48 (Reg.AX_HOME_OFF_LO_pos n) (Reg.AX_HOME_OFF_HI_pos n)
  (done (toBE 8 (ofS 64 off)), wrAxPos n off c |> wr (Reg.AX_STATUS_homed n) 1
    |> log 0x0804 n (u8 n ++ u8 6 ++ u16 0 ++ s32LE off))

/-- AX_HOME (R334, R335, R92): refused on an axis that is not at standstill under power. -/
def execAxHome (o : Origin) (axis method : BitVec 8) (s : State) : Host.Outcome State Fault Refusal :=
  let n := axis.toNat
  let m := method.toNat
  runs (serve o 0x63 1 (.axHome o axis method)
    (if n ≥ 8 then some 0 else if m = 0 ∨ m > 6 then some 1 else none) [pdMOTION] <| now fun c =>
    if c.axState n ≠ axIdle then (badState (c.axState n) n, c)
    else
      let c := wr (Reg.AX_HOME_CTL_method n) m c
      if m = 6 then homeHere n c else (deferred, homeStart n m (pendOf o 0x63 c) c)) s

/-! ### Gearing (R338) -/

/-- Offset of the first parameter of AX_GEAR at fault. -/
def gearForm (axis pf arm den : Nat) (pos : Int) : Option Nat :=
  if axis ≥ 8 then some 0 else if pf ≥ 8 then some 1 else if arm ≥ 2 then some 2
  else if den = 0 then some 8 else if pos ≠ toS 48 (ofS 48 pos) then some 12 else none

/-- The source and ratio are placed; the ratio is taken at an opening, or when unit 3 has fired. -/
def gearSet (n pf arm num den : Nat) (pos : Int) (c : Chip) : Chip :=
  let c := wr (Reg.AX_GEAR_CTL_source n) pf c |> wr (Reg.AX_GEAR_NEXT_NUM_value n) num
    |> wr (Reg.AX_GEAR_NEXT_DEN_value n) den |> wr (Reg.AX_GEAR_CTL_pending n) 1
    |> modAx n (fun x => { x with gearTake := decide (arm = 0), gearArm := decide (arm = 1), gearM0 := none })
  when (decide (arm = 1)) (gearArm pf pos) c

/-- AX_GEAR (R338, R313). -/
def execAxGear (o : Origin) (axis pf arm : BitVec 8) (num den : BitVec 32) (pos : BitVec 64) (s : State) :
    Host.Outcome State Fault Refusal :=
  let n := axis.toNat
  let x := toS 64 pos.toNat
  runs (serve o 0x64 1 (.axGear o axis pf arm num den pos) (gearForm n pf.toNat arm.toNat den.toNat x) [pdMOTION] <|
    now fun c =>
      if c.host.sec.envelope.isNone then (refuse 0x15 0 n 0, c)
      else (done [], gearSet n pf.toNat arm.toNat num.toNat den.toNat x c)) s

/-! ### Status (R92, R346) -/

/-- AX_STATUS. -/
def cmdAxStatus (o : Origin) (mask : BitVec 8) : Chip → Chip :=
  serve o 0x65 1 (.axStatus o mask) none [pdMOTION] <| tell fun c =>
    done ((bitList 8 mask.toNat).flatMap fun n =>
      toBE 1 (c.axState n) ++ toBE 1 (c.axFlags n) ++ toBE 2 0 ++ toBE 8 (ofS 64 (c.axPos n)) ++
        toBE 4 (c.rd (Reg.AX_SPEED_v n)))

/-- AX_STATUS. -/
def execAxStatus (o : Origin) (mask : BitVec 8) (s : State) : Host.Outcome State Fault Refusal :=
  runs (cmdAxStatus o mask) s

/-! ### Events -/

/-- AX_INPUT_CHANGE (R332). -/
def execAxInputChange (n : Fin 8) (inp : Fin 3) (s : State) : Host.Outcome State Fault Refusal :=
  runs (motDo fun c => homeWatch n.val (limitCheck n.val (inputDebounce n.val inp.val c))) s

/-- The hold current applies once the axis has been IDLE for HOLD_DLY ms (R341). -/
def axHold (n : Nat) (c : Chip) : Chip :=
  let x := c.ax n
  if c.axState n = axIdle ∧ x.holdCur = false ∧ x.idleAt + c.rd (Reg.AX_HOLD_DLY_ms n) * 4000 ≤ c.now then
    axCoils n (modAx n (fun x => { x with holdCur := true }) c)
  else c

/-- AX_HOLD_CURRENT (R341). -/
def execAxHoldCurrent (n : Fin 8) (s : State) : Host.Outcome State Fault Refusal := runs (motDo (axHold n.val)) s

/-- CHOPPER_BLANK_END (R342): sensing starts once the blanking time has passed. -/
def execChopperBlankEnd (n : Fin 8) (b : Bool) (s : State) (ns : Fin 499 := 0) : Host.Outcome State Fault Refusal :=
  runs (motDo fun c => when (c.coilDue n.val b 1 (c.rd (Reg.AX_CHOP_blank n.val) * 20) ns.val)
    (modCoil n.val b fun k => { k with phase := 2 }) c) s

/-- CHOPPER_SENSE_TRIP (R342): the current has reached its threshold. -/
def execChopperSenseTrip (n : Fin 8) (b : Bool) (s : State) (ns : Fin 499 := 0) : Host.Outcome State Fault Refusal :=
  runs (motDo fun c => when (c.coilDue n.val b 2 0 ns.val)
    (modCoil n.val b fun k => coilOff (c.rd (Reg.AX_CHOP_ff n.val)) (c.now * 250 + ns.val) { k with run := 0 }) c) s

/-- CHOPPER_TON_TIMEOUT (R342, R344). -/
def execChopperTonTimeout (n : Fin 8) (b : Bool) (s : State) (ns : Fin 499 := 0) : Host.Outcome State Fault Refusal :=
  runs (motDo (chopTimeout n.val b ns.val)) s

/-- A chopper period of a coil ends and the next begins with a drive phase: the offset of its comparator moves one
step toward its correction (R342, R482). -/
def chopPeriod (n : Nat) (coilB : Bool) (cycle : Nat) (c : Chip) : Chip :=
  modCoil n coilB (fun k => { k with phase := 1, start := c.now, since := c.now * 250 + cycle }) c
    |> trimNext 0 (n * 2 + b2n coilB)

/-- CHOPPER_FAST_DECAY_END (R342, R343): with a share of sixteen sixteenths the slow decay takes no time, and the next
period begins. -/
def execChopperFastDecayEnd (n : Fin 8) (b : Bool) (s : State) (ns : Fin 499 := 0) : Host.Outcome State Fault Refusal :=
  runs (motDo fun c => when (c.coilDue n.val b 3 (c.fastCycles n.val) ns.val)
    (if c.slowCycles n.val = 0 then chopPeriod n.val b ns.val
      else modCoil n.val b fun k => { k with phase := 4, since := c.now * 250 + ns.val }) c) s

/-- CHOPPER_SLOW_DECAY_END (R342): a new drive phase begins. -/
def execChopperSlowDecayEnd (n : Fin 8) (b : Bool) (s : State) (ns : Fin 499 := 0) : Host.Outcome State Fault Refusal :=
  runs (motDo fun c => when (c.coilDue n.val b 4 (c.slowCycles n.val) ns.val) (chopPeriod n.val b ns.val) c) s

end Sys2Proof.Machine
end

