-- ==== Sys2Proof/Machine/NetCmds.lean ====
section
/-! DEFINITION. Commands of the network paths and of time (15_network_time_redundancy.md; 02, R42–R45;
03_serair_commands.md, R82, R88, R92). -/

namespace Sys2Proof.Machine

open Sys2Proof

/-! ### Commands of the Serair protocol -/

/-- HEARTBEAT (R436, R437): the path's claim, and who controls. -/
def cmdHeartbeat (o : Origin) : Chip → Chip :=
  serve o 0x03 1 (.heartbeat o) none [] <| now fun c =>
    let c := heartbeat o.path o.claim.toNat c
    (done (toBE 1 c.ctlPath.code ++ toBE 1 c.timeState ++ toBE 2 (c.claimOf .a) ++ toBE 2 (c.claimOf .b)), c)

/-- HEARTBEAT. -/
def execHeartbeat (o : Origin) (s : State) : Host.Outcome State Fault Refusal := runs (cmdHeartbeat o) s

/-- TIME_STATUS (R92). -/
def cmdTimeStatus (o : Origin) (cycle : Fin 499) : Chip → Chip :=
  serve o 0x90 1 (.timeStatus o cycle) none [] <| tell fun c =>
    done (toBE 1 c.timeState ++ toBE 1 c.ctlPath.code ++ toBE 2 0 ++ timeBE (c.time cycle.val) ++ toBE 2 0 ++
      toBE 8 c.now ++ toBE 4 (c.rd Reg.BT_RATE_TRIM_trim) ++ toBE 4 (c.rd (Reg.PTP_P_OFFSET_value c.ctlPath.code)))

/-- TIME_STATUS. -/
def execTimeStatus (o : Origin) (cycle : Fin 499) (s : State) : Host.Outcome State Fault Refusal :=
  runs (cmdTimeStatus o cycle) s

/-- The offset of the first parameter of PULSE_SET that is at fault (R434, R71). -/
def pulseForm (out mode : BitVec 8) (first : DevTime) (period width : BitVec 32) : Option Nat :=
  let m := mode.toNat
  if out.toNat ≥ 8 then some 0
  else if m ≥ 3 then some 1
  else if first.ns.toNat ≥ 1000000000 then some 4
  else if first.ns.toNat % 250 ≠ 0 then some 4
  else if m ≠ 1 ∧ period.toNat % 250 ≠ 0 ∨ m = 2 ∧ period.toNat < 500 then some 16
  else if width.toNat % 250 ≠ 0 ∨ m ≠ 0 ∧ width.toNat < 250 ∨ m = 2 ∧ width.toNat ≥ period.toNat then some 20
  else none

/-- PULSE_SET (R434): the registers of the output, taken as a new setting. -/
def execPulseSet (o : Origin) (out mode : BitVec 8) (first : DevTime) (period width : BitVec 32) (s : State) :
    Host.Outcome State Fault Refusal :=
  let k := out.toNat
  runs (serve o 0x91 1 (.pulseSet o out mode first period width) (pulseForm out mode first period width) [] <|
    now fun c =>
      (done [], wr (Reg.PTP_TP_CTL_mode k) mode.toNat c |> wr (Reg.PTP_TP_NS_value k) first.ns.toNat
        |> wr2 (Reg.PTP_TP_SEC_LO_value k) (Reg.PTP_TP_SEC_HI_value k) first.sec.toNat
        |> wr (Reg.PTP_TP_PERIOD_value k) period.toNat |> wr (Reg.PTP_TP_WIDTH_value k) width.toNat
        |> pulseApply k)) s

/-- CAPTURE_READ (R92, R435). -/
def cmdCaptureRead (o : Origin) (inp : BitVec 8) : Chip → Chip :=
  let k := inp.toNat
  serve o 0x92 1 (.captureRead o inp) (if k ≥ 8 then some 0 else none) [] <| tell fun c =>
    done (toBE 4 (c.rd (Reg.PTP_CAP_COUNT_value k)) ++
      toBE 6 (c.rd2 (Reg.PTP_CAP_SEC_LO_value k) (Reg.PTP_CAP_SEC_HI_value k)) ++
      toBE 4 (c.rd (Reg.PTP_CAP_NS_value k)) ++ toBE 1 (c.rd (Reg.PTP_CAP_CTL_last_edge k)) ++ toBE 1 0)

/-- CAPTURE_READ. -/
def execCaptureRead (o : Origin) (inp : BitVec 8) (s : State) : Host.Outcome State Fault Refusal :=
  runs (cmdCaptureRead o inp) s

/-! ### Paths and ports -/

/-- PATH_TIMEOUT (R436). -/
def execPathTimeout (p : Path) (s : State) : Host.Outcome State Fault Refusal :=
  runs (fun c => when c.hgOn (pathTimeout p) c) s

/-- PATH_SWITCH (R438): a decided change of control takes effect. -/
def execPathSwitch (s : State) : Host.Outcome State Fault Refusal :=
  runs (fun c => when c.hgOn switchWaiting c) s

/-- NET_LINK (R422): what the port's PCS reports of its lock, of a local or remote fault, and of auto-negotiation. -/
def execNetLink (p : Path) (lock : Bool) (s : State) (fault : Bool := false) (an : Bool := true) : Host.Outcome State Fault Refusal :=
  runs (netLink p lock fault an) s

/-- ARP_REQUEST (R423, R424): a request for the port's address is answered; any other frame is dropped. -/
def execArpRequest (p : Path) (target : BitVec 32) (mac : BitVec 48) (ip : BitVec 32) (s : State) :
    Host.Outcome State Fault Refusal :=
  runs (fun c =>
    if !c.portOn p then c
    else if c.rd (Reg.NET_IP_ip p.code) = target.toNat ∧ target.toNat ≠ 0 then
      rxFrame p c |> txFrame p (.arp p mac.toNat ip.toNat)
    else rxDrop p c) s

/-- PORT_MODE_TRY (R450). -/
def execPortModeTry (p : Path) (s : State) : Host.Outcome State Fault Refusal := runs (portTry p) s

/-- RX_FRAME_DROPPED (R421, R423, R424). -/
def execRxFrameDropped (p : Path) (fcsBad : Bool) (s : State) : Host.Outcome State Fault Refusal :=
  runs (fun c =>
    if !c.portOn p then c
    else if fcsBad then inc (Reg.NET_RX_FCS_count p.code) (Reg.NET_STICKY_sat p.code) 1 c
    else rxDrop p c) s

/-! ### PTP -/

/-- PTP_ANNOUNCE (R428). -/
def execPtpAnnounce (p : Path) (h : PtpHead) (a : Announce) (s : State) : Host.Outcome State Fault Refusal :=
  runs (ptpRx p h (ptpAnnounce p a)) s

/-- ANNOUNCE_TIMEOUT (R428). -/
def execAnnounceTimeout (p : Path) (s : State) : Host.Outcome State Fault Refusal :=
  runs (fun c => when c.hgOn (announceTimeout p) c) s

/-- PTP_SYNC (R429). Times come in units of 0.1 ns, the receive timestamp as the MAC/PCS boundary takes it (R426). -/
def execPtpSync (p : Path) (h : PtpHead) (twoStep : Bool) (t1 t2 : BitVec 96) (logInterval : BitVec 8) (s : State) :
    Host.Outcome State Fault Refusal :=
  runs (ptpRx p h (ptpSync p h twoStep t1.toNat t2.toNat (toS 8 logInterval.toNat))) s

/-- PTP_FOLLOW_UP (R429). -/
def execPtpFollowUp (p : Path) (h : PtpHead) (t1 : BitVec 96) (s : State) : Host.Outcome State Fault Refusal :=
  runs (ptpRx p h (ptpFollowUp p h t1.toNat)) s

/-- DELAY_REQ_TIMER (R428). -/
def execDelayReqTimer (p : Path) (t3 : BitVec 96) (s : State) : Host.Outcome State Fault Refusal :=
  runs (delayReq p t3.toNat) s

/-- PTP_DELAY_RESP (R429). -/
def execPtpDelayResp (p : Path) (h : PtpHead) (reqPort : BitVec 16) (reqClock : BitVec 64) (t4 : BitVec 96)
    (logInterval : BitVec 8) (s : State) : Host.Outcome State Fault Refusal :=
  runs (ptpRx p h (ptpDelayResp p h reqPort.toNat reqClock.toNat t4.toNat (toS 8 logInterval.toNat))) s

/-- SYNC_RECEIPT_TIMEOUT (R430, R433). -/
def execSyncReceiptTimeout (p : Path) (s : State) : Host.Outcome State Fault Refusal :=
  runs (fun c => when c.hgOn (syncTimeout p) c) s

/-! ### The step, pulses and captures -/

/-- STEP_FIX (R43). -/
def execStepFix (s : State) : Host.Outcome State Fault Refusal := runs (fun c => when c.hgOn stepFix c) s

/-- TIME_STEP (R44): the step is taken, once its beat has ended. -/
def execTimeStep (s : State) : Host.Outcome State Fault Refusal := runsTime 0 timeStep s

/-- TIME_PULSE_RISE (R434). -/
def execTimePulseRise (k : Fin 8) (s : State) : Host.Outcome State Fault Refusal := runs (pulseRise k.val) s

/-- TIME_PULSE_FALL (R434). -/
def execTimePulseFall (k : Fin 8) (s : State) : Host.Outcome State Fault Refusal := runs (pulseFall k.val) s

/-- CAPTURE_EDGE (R435, R306): the capture unit, and the feedback channels that capture on the input. -/
def execCaptureEdge (k : Fin 8) (rise : Bool) (ns : Fin 499) (s : State) : Host.Outcome State Fault Refusal :=
  runs (fun c =>
    let t := c.time ns.val
    captureEdge k.val rise t c |> forEach (List.range 8) fun n c =>
      when (c.alive pdMOTION && c.flag (Reg.PF_CTL_enable n) && c.rd (Reg.PF_CTL_cap_src n) == 2 &&
        c.rd (Reg.PF_CTL_cap_in n) == k.val) (pfCapture n (c.pfPos n) t false) c) s

end Sys2Proof.Machine
end

