-- ==== Sys2Proof/Machine/Resets.lean ====
section
/-! DEFINITION. Resets (18_resets_domains_faults.md, R496–R503; 17_thermal_calibration_snapshots.md, R479, R480): how a
warm reset and a hardware shutdown start, proceed and end, and power-on reset. The commands are in PowerCmds.lean. -/

namespace Sys2Proof.Machine

open Sys2Proof

/-- Cause codes of PWR_CAUSE (R517): 6 is THERMAL. -/
abbrev causeThermal : Nat := 6

/-- Beat w (R500): the cause is recorded and logged; BEAM_PERMIT falls by its condition. A condition that arises while a
reset is in progress only holds its release (R497) (DEDUCED, log entry 34). -/
def resetStart (cause monitor : Nat) (event : Chip → Chip) (c : Chip) : Chip :=
  if c.sys.pwr.reset.isSome then c
  else
    let run : ResetRun := ⟨c.now, cause, false, false, false, []⟩
    modPwr (fun p => { p with reset := some run, warmAt := none, wrstLow := 0, wdtKick := none }) c
      |> wr Reg.PWR_CAUSE_cause cause |> wr Reg.PWR_CAUSE_monitor monitor
      |> inc Reg.PWR_RESETS_value Reg.PWR_STICKY_sat 0 |> event

/-- A warm reset starts (R497, R500). -/
def warmReset (cause monitor : Nat) (c : Chip) : Chip :=
  resetStart cause monitor (log 0x0102 0 (u8 cause ++ u8 monitor ++ u16 0 ++ beat32 c.now)) c

/-- Change the reset in progress. -/
def modReset (f : ResetRun → ResetRun) (c : Chip) : Chip := modPwr (fun p => { p with reset := p.reset.map f }) c

/-- Beat w + 1, before the quench sources act (R500, R146): every channel is to be QUENCHED. -/
def resetAsk (c : Chip) : Chip :=
  match c.sys.pwr.reset with
  | some r => if !r.quenched && decide (r.w + 1 ≤ c.now) then askQuenchAll c.now (quenchReset r.cause) c else c
  | none => c

/-- Beat w + 1, after they have acted: jobs are ABORTED, and every moving axis starts an emergency stop. -/
def resetAbort (c : Chip) : Chip :=
  match c.sys.pwr.reset with
  | some r =>
    if !r.quenched && decide (r.w + 1 ≤ c.now) then
      jobsAbort (if r.cause = causeThermal then 4 else 3) c |> forEach (List.range 8) (fun n => axEmg n 4 2 c.now)
        |> modReset (fun x => { x with quenched := true })
    else c
  | none => c

/-- What the role and session engine, the snapshot unit, the boot ROM and GIO in PD_AON lose in a warm reset (R501, R503,
R514). -/
def aonReset (c : Chip) : Chip :=
  let c := envDiscard c |> modSec (fun s => { s with sessions := Sec.sessions HostSide.init.sec, keys := HostSide.init.sec.keys })
    |> clearRange 0x60100 0x60300 |> wr Reg.SEC_STICKY_refused_sat 0 |> secShow
  let c := wr Reg.SNP_STATUS_held 0 c |> clearSnap
  let st := c.rd Reg.MGT_BOOT_STATUS_state
  let c := when (st == 2 || c.sys.mgt.verify.isSome) (fun c => imgShow 0 0 0 false false (setArea 0 [] c)) c
  let c := when c.sys.mgt.stage.isSome (fun c => imgShow c.idleArea 0 0 false false (setArea c.idleArea [] c)) c
  let c := modMgt (fun m => { m with stage := none, verify := none }) c |> wr Reg.MGT_SPI_CTL_lock 0
    |> when (st != 1) (wr Reg.MGT_BOOT_STATUS_state 0)
  wr Reg.GIO_OUT_bits 0 c |> wr Reg.GIO_OUT_LEVEL_bits 0 |> wr Reg.GIO_OUT_OWNER_bits 0
    |> modGio (fun g => { g with pulses := [] })
where
  /-- The snapshot copies are cleared (R489). -/
  clearSnap (c : Chip) : Chip := { c with sys := { c.sys with snp := { c.sys.snp with trig := 0, copies := [] } } }

/-- A domain is held in reset. -/
def holdDomain (d : Nat) (c : Chip) : Chip :=
  (if d = pdDRAM then dramReset c else domReset d c) |> when (c.shown d) (domState d 5)

/-- Beat w + 2 (R500, R501, R503): every domain but PD_AON and PD_MOTION is held in reset; in a hardware shutdown PD_MOTION
with them. -/
def resetHold (c : Chip) : Chip :=
  match c.sys.pwr.reset with
  | some r =>
    if r.held || decide (c.now < r.w + 2) then c
    else
      let off := bitList 12 c.switching
      let th : Bool := r.cause == causeThermal
      let c := forEach (List.range 5) (fun k => calFail k 4 0) c
      let c := commitsOff (fun _ => true) pdFABRIC c
      let c := forEach [5, 6, 7, 8, 11, 2, 3, 4, 9, 1] holdDomain c |> when th (holdDomain pdMOTION) |> aonReset
      modPwr (fun p => { p with sw := [], swPend := [], later := none })
          { c with hold := [], fxHold := [], tables := [], img := Img.init }
        |> wr Reg.PWR_STATUS_switching 0
        |> modReset (fun x => { x with held := true, motionHeld := th, endOff := off })
  | none => c

/-- PD_MOTION is held in reset once every axis is still, or 1 s after w (R500, R331). -/
def motionHold (c : Chip) : Chip :=
  match c.sys.pwr.reset with
  | some r =>
    if r.held && !r.motionHeld && (c.axesStill || !c.on pdMOTION || decide (r.w + 4000000 ≤ c.now)) then
      holdDomain pdMOTION c |> modReset (fun x => { x with motionHeld := true })
    else c
  | none => c

/-- The time state after a warm reset (R502). -/
def timeRelease (c : Chip) : Chip :=
  let i := -c.rdS Reg.BT_RATE_TRIM_trim
  let c := modServo (fun s => { s with integ := i, newTrim := none, step := none, moved := false }) c
  if c.flag Reg.BT_STATUS_step_done then
    wr Reg.BT_STATUS_time_state 3 c |> wr Reg.PTP_STATUS_cause 2 |> log 0x0B13 0 (u8 0 ++ u8 2 ++ u16 0 ++ beat32 c.now)
  else wr Reg.BT_STATUS_time_state 0 c

/-- The release (R500, R452): PD_FABRIC and PD_NET leave reset and stay on, every other domain goes off; a domain whose
switch the reset ended stays off (R503). -/
def resetRelease (c : Chip) : Chip :=
  match c.sys.pwr.reset with
  | none => c
  | some r =>
    let fab := !r.endOff.contains pdFABRIC
    let net := fab && !r.endOff.contains pdNET
    let m := 1 + 2 * b2n fab + 16 * b2n net
    let c := modPwr (fun p => { p with reset := none }) c
      |> forEach (List.range 11) (fun k => domState (k + 1) (if bit m (k + 1) then 2 else 0)) |> showDomains m
    let c := timeRelease c |> when (!fab) imagesLost |> when fab slmPeriodShow |> slmMaskShow |> when net netOn
    let k := otpCheck c
    if k.1 then bootAgain k.2 else modMgt (fun x => { x with running := none }) k.2

/-- Supplies and clocks allow a release (R497). -/
def Chip.powerGood (c : Chip) : Bool :=
  let p := c.sys.pwr
  p.supplyOut.isEmpty && decide (p.supplyGood ≤ c.now) && decide (p.clockGood ≤ c.now) &&
    bit (c.rd Reg.PWR_CLOCK_ok) 0 && bit (c.rd Reg.PWR_CLOCK_ok) 1

/-- Whether the conditions that started a warm reset have all cleared and PD_MOTION is in reset (R500). -/
def Chip.releaseOk (c : Chip) : Bool :=
  match c.sys.pwr.reset with
  | some r => r.cause != causeThermal && r.held && r.motionHeld && !c.flag Reg.GIO_STATUS_wrst && c.powerGood
  | none => false

/-! ### Power-on reset (R496, R501) -/

/-- The whole device in power-on reset: what the outside world and the fuses hold stays. -/
def powerOnReset (c : Chip) : Chip :=
  let d := Chip.reset c.fix.otp
  { d with
    fresh := c.fresh, losses := c.losses + 1
    sys := { d.sys with pwr := { d.sys.pwr with supplyOut := c.sys.pwr.supplyOut } } }

/-- Power-on reset is released (R496, R450): beat 0 opens, the boot ROM checks the OTP and switches PD_FABRIC and PD_NET
on; also in OTP_FAIL, where the register window stays readable (R446) (DEDUCED, log entry 57). -/
def powerOnRelease (c : Chip) : Chip :=
  let c := modPwr (fun p => { p with porst := false }) { c with out := [] }
  let die := c.dieId
  let rev := c.otp 2 % 256
  let c := wr Reg.TOP_DIE_ID_LO_die_id (die % 2 ^ 32) c |> wr Reg.TOP_DIE_ID_HI_die_id (die / 2 ^ 32)
    |> wr Reg.TOP_DIE_REV_major (rev / 16) |> wr Reg.TOP_DIE_REV_minor (rev % 16)
    |> wr Reg.PWR_CLOCK_ok 0x7F |> wr Reg.BT_STATUS_pll_locked 1
    |> log 0x0101 0 (u32 (die % 2 ^ 32) ++ u32 0)
  modPwr (fun p => { p with sw := [⟨pdFABRIC, 0, none⟩, ⟨pdNET, 0, none⟩] }) (otpCheck c).2 |> powerUpNext |> switchShow

/-- Whether PORST_n and the monitors of the AON supplies (0, 1) let power-on reset end. -/
def Pwr.aonGood (p : Pwr) : Bool := !p.pinLow && p.supplyOut.all fun m => decide (m ≥ 2)

end Sys2Proof.Machine
end

