-- ==== Sys2Proof/Machine/PowerCmds.lean ====
section
/-! DEFINITION. Power domains, resets and the watchdog as commands and events (18_resets_domains_faults.md, R496–R514;
03_serair_commands.md, R93). -/

namespace Sys2Proof.Machine

open Sys2Proof

/-! ### Domain switches (R504–R508) -/

/-- The mask and mode of a power-domain opcode: the offset of the first field at fault. -/
def pdForm (mask mode : Nat) : Option Nat :=
  if mask % 2 = 1 ∨ mask ≥ 4096 then some 0 else if mode > 1 then some 2 else none

/-- A switch request of a session: with work to do the reply is DEFERRED, and the session waits for the end. -/
def pdRequest (o : Origin) (op mask : Nat) (on forced : Bool) (c : Chip) : Ans × Chip :=
  let r := switchAsk mask on forced true c
  if r.1.1 = 0x08 then
    (r.1, modPwr (fun p => { p with swPend := p.swPend ++ [pendOf o op c] }) r.2)
  else r

/-- PD_ON (R31, R450, R504). -/
def execPdOn (o : Origin) (mask : BitVec 16) (s : State) : Host.Outcome State Fault Refusal :=
  runs (serve o 0xD0 1 (.pdOn o mask) (pdForm mask.toNat 0) [] <| now (pdRequest o 0xD0 mask.toNat true false)) s

/-- PD_OFF (R31, R504, R506–R508): the installer's when forced. -/
def execPdOff (o : Origin) (mask : BitVec 16) (mode : BitVec 8) (s : State) : Host.Outcome State Fault Refusal :=
  runs (serve o 0xD1 (roleFor 0xD1 (.pdOff o mask mode)) (.pdOff o mask mode) (pdForm mask.toNat mode.toNat) [] <|
    now (pdRequest o 0xD1 mask.toNat false (mode == 1))) s

/-- PD_STATUS (R93). -/
def cmdPdStatus (o : Origin) : Chip → Chip :=
  serve o 0xD2 1 (.pdStatus o) none [] <| tell fun c =>
    done (toBE 2 (c.rd Reg.PWR_STATUS_on) ++ toBE 2 (c.rd Reg.PWR_STATUS_switching))

/-- PD_STATUS. -/
def execPdStatus (o : Origin) (s : State) : Host.Outcome State Fault Refusal := runs (cmdPdStatus o) s

/-- Power-domain work goes on only while no reset is in progress (R503). -/
def swDo (f : Chip → Chip) (c : Chip) : Chip := when c.sys.pwr.reset.isNone f c

/-- DOMAIN_ON_DONE (R505). -/
def execDomainOnDone (d : Fin 12) (s : State) : Host.Outcome State Fault Refusal := runs (swDo (domainOnDone d.val)) s

/-- QUIESCE_ACK (R506). -/
def execQuiesceAck (d : Fin 12) (s : State) : Host.Outcome State Fault Refusal := runs (swDo (quiesceAck d.val)) s

/-- QUIESCE_TIMEOUT (R506). -/
def execQuiesceTimeout (s : State) : Host.Outcome State Fault Refusal := runs (swDo quiesceTimeout) s

/-- DEFERRED_DOMAIN_OFF (R508). -/
def execDeferredDomainOff (s : State) : Host.Outcome State Fault Refusal := runs (swDo deferredOff) s

/-! ### Power-on reset (R496) -/

/-- POWER_ON_RESET: PORST_n goes low. -/
def execPowerOnReset (s : State) : Host.Outcome State Fault Refusal := .next { s with core := powerOnReset s.core }

/-- As `guarded`, for the commands that end power-on reset. -/
def guardedPower (f : Chip → Chip) (c : Chip) : Chip :=
  let d := permitFall (f { c with out := [] })
  { d with fix := c.fix, crockMem := c.crockMem }

/-- PORST_n goes high: the reset ends once the AON supplies are in range too. -/
def porstHigh (c : Chip) : Chip :=
  let c := modPwr (fun p => { p with pinLow := false }) c
  if c.sys.pwr.porst ∧ c.sys.pwr.aonGood then powerOnRelease c else c

/-- POWER_ON_RELEASE. -/
def execPowerOnRelease (s : State) : Host.Outcome State Fault Refusal :=
  .next { s with core := guardedPower porstHigh s.core }

/-! ### Warm reset (R497, R500) -/

/-- WRST_PIN: the level of WRST_n, which the beat openings sample. -/
def execWrstPin (low : Bool) (s : State) : Host.Outcome State Fault Refusal :=
  runs (wrB Reg.GIO_STATUS_wrst low) s

/-- A supply monitor reports out of range, or in range again (R497, R517). -/
def supplyAlarm (m : Nat) (out : Bool) (c : Chip) : Chip :=
  let l := c.sys.pwr.supplyOut.filter (· != m)
  let now := c.now
  let c := modPwr (fun p => { p with supplyOut := if out then m :: l else l }) c
    |> wr Reg.PWR_SUPPLY_out (withBit (c.rd Reg.PWR_SUPPLY_out) m out)
  if out then
    wr Reg.PWR_SUPPLY_seen (withBit (c.rd Reg.PWR_SUPPLY_seen) m true) c
      |> log 0x0107 m (u8 m ++ u8 0 ++ u16 0 ++ beat32 now) |> warmReset 4 m
  else when l.isEmpty (modPwr fun p => { p with supplyGood := now + 40000 }) c

/-- SUPPLY_ALARM while the device is in power-on reset: only the monitors follow; a monitor of an AON supply holds the
reset, and its return ends it. -/
def supplyHeld (m : Nat) (out : Bool) (c : Chip) : Chip :=
  let l := c.sys.pwr.supplyOut.filter (· != m)
  let c := modPwr (fun p => { p with supplyOut := if out then m :: l else l }) c
  if c.sys.pwr.aonGood then powerOnRelease c else c

/-- SUPPLY_ALARM (R496, R497): the monitors of VDD_AON and VDD_AON_IO (0 and 1) put the device in power-on reset; any other
starts a warm reset. -/
def execSupplyAlarm (monitor : Fin 16) (out : Bool) (s : State) : Host.Outcome State Fault Refusal :=
  let m := monitor.val
  if s.core.sys.pwr.porst then .next { s with core := guardedPower (supplyHeld m out) s.core }
  else if out ∧ m < 2 then
    let held (p : Pwr) : Pwr := { p with pinLow := false, supplyOut := m :: p.supplyOut.filter (· != m) }
    .next { s with core := modPwr held (powerOnReset s.core) }
  else runs (supplyAlarm m out) s

/-- CLOCK_ALARM: the fabric reference or the PLL lock is lost, or returns (R497). -/
def clockAlarm (pll lost : Bool) (c : Chip) : Chip :=
  let k := b2n pll
  let now := c.now
  let c := wr Reg.PWR_CLOCK_ok (withBit (c.rd Reg.PWR_CLOCK_ok) k (!lost)) c
  let c := when pll (wrB Reg.BT_STATUS_pll_locked (!lost)) c
  if lost then
    wr Reg.PWR_CLOCK_lost (withBit (c.rd Reg.PWR_CLOCK_lost) k true) c
      |> log 0x0108 k (u8 k ++ u8 0 ++ u16 0 ++ beat32 now) |> warmReset 5 k
  else modPwr (fun p => { p with clockGood := now + 4000 }) c

/-- CLOCK_ALARM. -/
def execClockAlarm (pll lost : Bool) (s : State) : Host.Outcome State Fault Refusal := runs (clockAlarm pll lost) s

/-- The management watchdog resets the device when no kick came within its period (R497, R498). -/
def wdtDue (c : Chip) : Chip :=
  match c.sys.pwr.wdtKick with
  | some b => when (decide (b + c.rd Reg.PWR_MGT_WDT_period * 4000 ≤ c.now)) (warmReset 3 0) c
  | none => c

/-- MGT_WDT_EXPIRY. -/
def execMgtWdtExpiry (s : State) : Host.Outcome State Fault Refusal := runs wdtDue s

/-- MOTION_RESET_HOLD (R500, R331). -/
def execMotionResetHold (s : State) : Host.Outcome State Fault Refusal := runs motionHold s

/-- WARM_RESET_RELEASE (R500, R502, R452). -/
def execWarmResetRelease (s : State) : Host.Outcome State Fault Refusal :=
  runs (fun c => when c.releaseOk resetRelease c) s

/-! ### Application cores (R499) -/

/-- An application core is reset alone: its semaphores are released broken, and a command that it carried out ends with
FAULT_UNIT. Table commits under way are core 0's (DEDUCED, log entry 36). -/
def coreReset (k : Nat) (c : Chip) : Chip :=
  let r := semsBroken 1 k c
  let begun := if k = 0 then r.2.host.commits.filter fun x => x.begun else []
  let a := refuse 0x30 0 k 0
  forEach begun (commitAnswer a) (modCommits (fun l => if k = 0 then l.filter fun x => !x.begun else l) r.2)
    |> log 0x0109 k (u8 k ++ u8 0 ++ u16 0 ++ beat32 c.now)

/-- CORE_HEARTBEAT_TIMEOUT (R499). -/
def execCoreHeartbeatTimeout (core : Fin 4) (s : State) : Host.Outcome State Fault Refusal :=
  runs (fun c => when (c.on pdAPP && c.sys.mgt.running.isSome) (coreReset core.val) c) s

/-! ### Quench inputs (R512) -/

/-- A quench input asserts (R22, R512): every channel is QUENCHED at the next beat; axes with quench_stop stop (R331). -/
def quenchInput (b : Bool) (c : Chip) : Chip :=
  let i := b2n b
  let st : Fld := if b then Reg.GIO_STATUS_quench_b else Reg.GIO_STATUS_quench_a
  if c.flag st then c
  else
    let seen : Fld := if b then Reg.GIO_STATUS_quench_b_seen else Reg.GIO_STATUS_quench_a_seen
    let cnt : Fld := if b then Reg.GIO_QB_COUNT_value else Reg.GIO_QA_COUNT_value
    wr st 1 c |> wr seen 1 |> inc cnt Reg.GIO_STICKY_sat i
      |> log 0x0106 i (u8 i ++ u8 0 ++ u16 0 ++ beat32 c.now) |> askQuenchAll (c.now + 1) (4 + i)
      |> forEach (List.range 8) (fun n c => when (c.alive pdMOTION && c.flag (Reg.AX_CTL_quench_stop n)) (axEmg n 3 2 (c.now + 1)) c)

/-- QUENCH_INPUT. -/
def execQuenchInput (b : Bool) (s : State) : Host.Outcome State Fault Refusal := runs (quenchInput b) s

/-- QUENCH_RELEASE (R512): a release restarts nothing; BEAM_PERMIT may rise at a beat opening. -/
def execQuenchRelease (b : Bool) (s : State) : Host.Outcome State Fault Refusal :=
  runs (wr (if b then Reg.GIO_STATUS_quench_b else Reg.GIO_STATUS_quench_a) 0) s

end Sys2Proof.Machine
end

