-- ==== Sys2Proof/Machine/BusMap.lean ====
section
/-! DEFINITION. The register maps as the register fabric sees them: for every register its offset, its
instance strides, whether it is half of a 64-bit pair (01_architecture.md, R28), and for every field its
place, reset value, access type (00_scope.md, R9), snapshot suffix and the values that are not reserved. -/

namespace Sys2Proof.Machine

/-- The access types of 00_scope.md, R9. -/
inductive FTy
  | ro | rw | rwi | wo | w1c | rc
  deriving DecidableEq, Repr

/-- Whether a register is one half of a 64-bit pair (01_architecture.md, R28). -/
inductive Pair
  | none | lo | hi
  deriving DecidableEq, Repr

/-- A field's reset value: one number, or the context's kind code (SVA_n_CFG.kind). -/
inductive Rst
  | val (v : Nat)
  | ctxKind
  deriving DecidableEq, Repr

/-- One field of a register map: lowest bit, width, reset, type, +S suffix, and, where the map marks
values reserved, the range (least, largest) of the others. -/
structure FieldDesc where
  lo : Nat
  w : Nat
  rst : Rst
  ty : FTy
  snap : Bool
  legal : Option (Nat × Nat)
  deriving DecidableEq, Repr

/-- One register of a map: its offset, (stride, count) of each inner index, its half of a pair, its
fields that are not reserved. -/
structure RegDesc where
  off : Nat
  dims : List (Nat × Nat)
  pair : Pair
  fields : List FieldDesc
  deriving DecidableEq, Repr

/-- Register map of TOP (01_architecture.md). -/
def topRegs : List RegDesc := [
  ⟨0x0, [], .none, [⟨0, 16, .val 0x2460, .ro, false, none⟩]⟩,  -- TOP_PART_CODE
  ⟨0x4, [], .none, [⟨4, 4, .val 0, .ro, false, none⟩, ⟨0, 4, .val 0, .ro, false, none⟩]⟩,  -- TOP_DIE_REV
  ⟨0x8, [], .lo, [⟨0, 32, .val 0, .ro, false, none⟩]⟩,  -- TOP_DIE_ID_LO
  ⟨0xc, [], .hi, [⟨0, 32, .val 0, .ro, false, none⟩]⟩,  -- TOP_DIE_ID_HI
  ⟨0x10, [], .none, [⟨0, 12, .val 1, .ro, false, none⟩]⟩,  -- TOP_DOMAIN_ON
  ⟨0x20, [], .none, [⟨0, 32, .val 0, .rw, false, none⟩]⟩  -- TOP_SCRATCH
]

/-- Register map of PWR (18_resets_domains_faults.md). -/
def pwrRegs : List RegDesc := [
  ⟨0x0, [], .none, [⟨0, 16, .val 1000, .rw, false, some (1, 10000)⟩]⟩,  -- PWR_CTL
  ⟨0x4, [], .none, [⟨16, 12, .val 0, .ro, true, none⟩, ⟨0, 12, .val 1, .ro, true, none⟩]⟩,  -- PWR_STATUS
  ⟨0x8, [], .none, [⟨8, 8, .val 0, .ro, false, none⟩, ⟨0, 8, .val 0, .ro, false, none⟩]⟩,  -- PWR_CAUSE
  ⟨0xc, [], .none, [⟨0, 16, .val 0, .wo, false, some (22354, 22354)⟩]⟩,  -- PWR_WARM
  ⟨0x10, [], .none, [⟨0, 32, .val 0, .ro, true, none⟩]⟩,  -- PWR_RESETS
  ⟨0x14, [], .none, [⟨0, 1, .val 0, .w1c, false, none⟩]⟩,  -- PWR_STICKY
  ⟨0x18, [], .none, [⟨16, 16, .val 0, .w1c, false, none⟩, ⟨0, 16, .val 0, .ro, true, none⟩]⟩,  -- PWR_SUPPLY
  ⟨0x1c, [], .none, [⟨16, 7, .val 0, .w1c, false, none⟩, ⟨0, 7, .val 0, .ro, true, none⟩]⟩,  -- PWR_CLOCK
  ⟨0x20, [], .none, [⟨31, 1, .val 0, .wo, false, none⟩, ⟨0, 16, .val 100, .rw, false, some (10, 60000)⟩]⟩,  -- PWR_MGT_WDT
  ⟨0x24, [], .none, [⟨17, 1, .val 0, .wo, false, none⟩, ⟨16, 1, .val 0, .wo, false, none⟩, ⟨0, 12, .val 0, .wo, false, none⟩]⟩,  -- PWR_DOM_CMD
  ⟨0x100, [(0x4, 12)], .none, [⟨4, 1, .val 0, .w1c, false, none⟩, ⟨0, 3, .val 0, .ro, true, none⟩]⟩  -- PWR_DOM_k_STATE
]

/-- Register map of THM (17_thermal_calibration_snapshots.md). -/
def thmRegs : List RegDesc := [
  ⟨0x0, [], .none, [⟨0, 7, .val 100, .rw, false, some (85, 105)⟩]⟩,  -- THM_CTL
  ⟨0x4, [], .none, [⟨16, 16, .val 0, .ro, true, none⟩, ⟨12, 4, .val 0, .ro, true, none⟩, ⟨10, 1, .val 0, .w1c, false, none⟩, ⟨9, 1, .val 0, .ro, true, none⟩, ⟨8, 1, .val 0, .ro, true, none⟩, ⟨0, 5, .val 0, .ro, true, none⟩]⟩,  -- THM_STATUS
  ⟨0x8, [], .none, [⟨0, 32, .val 0, .ro, true, none⟩]⟩,  -- THM_SHUTDOWNS
  ⟨0xc, [], .none, [⟨0, 32, .val 0, .ro, true, none⟩]⟩,  -- THM_THROTTLE_MS
  ⟨0x10, [], .none, [⟨0, 2, .val 0, .w1c, false, none⟩]⟩,  -- THM_STICKY
  ⟨0x100, [(0x4, 12)], .none, [⟨17, 1, .val 0, .ro, true, none⟩, ⟨16, 1, .val 0, .ro, true, none⟩, ⟨0, 16, .val 0, .ro, true, none⟩]⟩,  -- THM_SENS_n
  ⟨0x140, [(0x4, 12)], .none, [⟨0, 16, .val 0x8000, .rc, false, none⟩]⟩  -- THM_PEAK_n
]

/-- Register map of CAL (17_thermal_calibration_snapshots.md). -/
def calRegs : List RegDesc := [
  ⟨0x0, [], .none, [⟨8, 7, .val 0, .ro, true, none⟩, ⟨0, 7, .val 0, .ro, true, none⟩]⟩,  -- CAL_STATUS
  ⟨0x4, [], .none, [⟨0, 16, .val 1000, .rw, false, some (100, 65535)⟩]⟩,  -- CAL_LANE_INT
  ⟨0x8, [], .none, [⟨8, 4, .val 6, .rw, false, some (4, 12)⟩, ⟨0, 5, .val 0, .rw, false, none⟩]⟩,  -- CAL_DARK
  ⟨0xc, [], .none, [⟨16, 16, .val 0, .ro, true, none⟩, ⟨8, 8, .val 0, .ro, true, none⟩, ⟨0, 3, .val 0, .ro, true, none⟩]⟩,  -- CAL_FAIL
  ⟨0x10, [], .none, [⟨0, 7, .val 0, .w1c, false, none⟩]⟩,  -- CAL_STICKY
  ⟨0x100, [(0x10, 7)], .none, [⟨0, 32, .val 0, .ro, true, none⟩]⟩,  -- CAL_ITEM_k_COUNT
  ⟨0x104, [(0x10, 7)], .none, [⟨0, 32, .val 0, .ro, true, none⟩]⟩,  -- CAL_ITEM_k_NS
  ⟨0x108, [(0x10, 7)], .lo, [⟨0, 32, .val 0, .ro, true, none⟩]⟩,  -- CAL_ITEM_k_SEC_LO
  ⟨0x10c, [(0x10, 7)], .hi, [⟨0, 16, .val 0, .ro, true, none⟩]⟩  -- CAL_ITEM_k_SEC_HI
]

/-- Register map of SNP (17_thermal_calibration_snapshots.md). -/
def snpRegs : List RegDesc := [
  ⟨0x0, [], .none, [⟨8, 1, .val 0, .rw, false, none⟩, ⟨1, 3, .val 0, .rw, false, none⟩, ⟨0, 1, .val 1, .ro, false, none⟩]⟩,  -- SNP_CTL
  ⟨0x4, [], .none, [⟨0, 15, .val 0, .rw, false, none⟩]⟩,  -- SNP_FAULT_MASK
  ⟨0x8, [], .none, [⟨0, 32, .val 0, .rw, false, none⟩]⟩,  -- SNP_TIME_NS
  ⟨0xc, [], .lo, [⟨0, 32, .val 0, .rw, false, none⟩]⟩,  -- SNP_TIME_SEC_LO
  ⟨0x10, [], .hi, [⟨0, 16, .val 0, .rw, false, none⟩]⟩,  -- SNP_TIME_SEC_HI
  ⟨0x14, [], .none, [⟨8, 5, .val 0, .ro, false, none⟩, ⟨1, 1, .val 0, .ro, false, none⟩, ⟨0, 1, .val 0, .ro, false, none⟩]⟩,  -- SNP_STATUS
  ⟨0x18, [], .none, [⟨0, 32, .val 0, .ro, false, none⟩]⟩,  -- SNP_SEQ
  ⟨0x1c, [], .lo, [⟨0, 32, .val 0, .ro, false, none⟩]⟩,  -- SNP_LATCH_LO
  ⟨0x20, [], .hi, [⟨0, 32, .val 0, .ro, false, none⟩]⟩,  -- SNP_LATCH_HI
  ⟨0x24, [], .none, [⟨0, 32, .val 0, .ro, false, none⟩]⟩,  -- SNP_MISSED
  ⟨0x28, [], .none, [⟨0, 12, .val 0, .ro, false, none⟩]⟩,  -- SNP_DOMAINS
  ⟨0x2c, [], .none, [⟨0, 1, .val 0, .rw, false, none⟩]⟩,  -- SNP_VIEW
  ⟨0x30, [], .none, [⟨0, 1, .val 0, .wo, false, none⟩]⟩  -- SNP_RELEASE
]

/-- Register map of CRK (16_management_roles_crock.md). -/
def crkRegs : List RegDesc := [
  ⟨0x0, [], .none, [⟨24, 3, .val 0, .ro, true, none⟩, ⟨18, 1, .val 0, .ro, true, none⟩, ⟨17, 1, .val 0, .ro, true, none⟩, ⟨16, 1, .val 0, .ro, true, none⟩, ⟨0, 15, .val 0, .ro, true, none⟩]⟩,  -- CRK_STATUS
  ⟨0x4, [], .none, [⟨0, 32, .val 0, .ro, true, none⟩]⟩,  -- CRK_LOST
  ⟨0x8, [], .none, [⟨0, 32, .val 0, .ro, true, none⟩]⟩,  -- CRK_DROPPED
  ⟨0xc, [], .none, [⟨0, 32, .val 0, .ro, true, none⟩]⟩,  -- CRK_CE
  ⟨0x10, [], .none, [⟨0, 14, .val 0, .ro, true, none⟩]⟩,  -- CRK_FAIL_IDX
  ⟨0x14, [], .none, [⟨0, 3, .val 0, .w1c, false, none⟩]⟩,  -- CRK_STICKY
  ⟨0x18, [], .none, [⟨0, 32, .val 0, .ro, true, none⟩]⟩  -- CRK_LG_COUNT
]

/-- Register map of SEC (16_management_roles_crock.md). -/
def secRegs : List RegDesc := [
  ⟨0x0, [], .none, [⟨9, 1, .val 0, .ro, true, none⟩, ⟨4, 5, .val 0, .ro, true, none⟩, ⟨0, 4, .val 0, .ro, true, none⟩]⟩,  -- SEC_STATUS
  ⟨0x4, [], .none, [⟨0, 32, .val 0, .ro, true, none⟩]⟩,  -- SEC_ENV_ID
  ⟨0x8, [], .none, [⟨0, 32, .val 0, .ro, true, none⟩]⟩,  -- SEC_ENV_KEY
  ⟨0xc, [], .none, [⟨0, 32, .val 0, .ro, true, none⟩]⟩,  -- SEC_REFUSED
  ⟨0x10, [], .none, [⟨0, 1, .val 0, .w1c, false, none⟩]⟩,  -- SEC_STICKY
  ⟨0x100, [(0x10, 8)], .none, [⟨16, 16, .val 0, .ro, true, none⟩, ⟨8, 1, .val 0, .ro, true, none⟩, ⟨4, 2, .val 0, .ro, true, none⟩, ⟨0, 2, .val 0, .ro, true, none⟩]⟩,  -- SEC_SLOT_s_STATE
  ⟨0x104, [(0x10, 8)], .none, [⟨0, 32, .val 0, .ro, true, none⟩]⟩,  -- SEC_SLOT_s_ID
  ⟨0x108, [(0x10, 8)], .none, [⟨0, 32, .val 0, .ro, true, none⟩]⟩,  -- SEC_SLOT_s_KEY
  ⟨0x10c, [(0x10, 8)], .none, [⟨0, 32, .val 0, .ro, true, none⟩]⟩,  -- SEC_SLOT_s_IDLE
  ⟨0x200, [(0x8, 16)], .none, [⟨0, 32, .val 0, .ro, true, none⟩]⟩,  -- SEC_KEY_k_ID
  ⟨0x204, [(0x8, 16)], .none, [⟨8, 4, .val 0, .ro, true, none⟩, ⟨4, 1, .val 0, .ro, true, none⟩, ⟨0, 2, .val 0, .ro, true, none⟩]⟩  -- SEC_KEY_k_INFO
]

/-- Register map of MGT (16_management_roles_crock.md). -/
def mgtRegs : List RegDesc := [
  ⟨0x0, [], .none, [⟨12, 1, .val 0, .ro, true, none⟩, ⟨8, 4, .val 0, .ro, true, none⟩, ⟨0, 3, .val 0, .ro, true, none⟩]⟩,  -- MGT_BOOT_STATUS
  ⟨0x4, [], .none, [⟨8, 1, .val 0, .wo, false, none⟩, ⟨0, 1, .val 0, .wo, false, none⟩]⟩,  -- MGT_BOOT_CMD
  ⟨0x8, [], .none, [⟨2, 20, .val 0, .rw, false, none⟩]⟩,  -- MGT_LOAD_BASE
  ⟨0x20, [(0x8, 2)], .none, [⟨0, 32, .val 0, .ro, true, none⟩]⟩,  -- MGT_IMG_k_VERSION
  ⟨0x24, [(0x8, 2)], .none, [⟨3, 1, .val 0, .ro, true, none⟩, ⟨2, 1, .val 0, .ro, true, none⟩, ⟨1, 1, .val 0, .ro, true, none⟩, ⟨0, 1, .val 0, .ro, true, none⟩]⟩,  -- MGT_IMG_k_INFO
  ⟨0x40, [], .none, [⟨0, 1, .val 0, .rw, false, none⟩]⟩,  -- MGT_SPI_CTL
  ⟨0x44, [], .none, [⟨0, 6, .val 0, .rw, false, none⟩]⟩,  -- MGT_ALARM_EN
  ⟨0x48, [], .none, [⟨0, 6, .val 0, .ro, true, none⟩]⟩,  -- MGT_ALARM_STATUS
  ⟨0x1000, [(0x4, 256)], .none, [⟨0, 32, .val 0, .wo, false, none⟩]⟩  -- MGT_LOAD_k
]

/-- Register map of BT (02_beat_and_admission.md). -/
def btRegs : List RegDesc := [
  ⟨0x0, [], .none, [⟨0, 1, .val 0, .rw, false, none⟩]⟩,  -- BT_CTL
  ⟨0x4, [], .none, [⟨3, 1, .val 0, .ro, true, none⟩, ⟨2, 1, .val 0, .ro, true, none⟩, ⟨0, 2, .val 0, .ro, true, none⟩]⟩,  -- BT_STATUS
  ⟨0x8, [], .lo, [⟨0, 32, .val 0, .ro, true, none⟩]⟩,  -- BT_BEAT_LO
  ⟨0xc, [], .hi, [⟨0, 32, .val 0, .ro, true, none⟩]⟩,  -- BT_BEAT_HI
  ⟨0x10, [], .lo, [⟨0, 32, .val 0, .ro, true, none⟩]⟩,  -- BT_SEC_BEAT_LO
  ⟨0x14, [], .hi, [⟨0, 32, .val 0, .ro, true, none⟩]⟩,  -- BT_SEC_BEAT_HI
  ⟨0x18, [], .none, [⟨0, 30, .val 0, .ro, true, none⟩]⟩,  -- BT_TIME_NS
  ⟨0x1c, [], .lo, [⟨0, 32, .val 0, .ro, true, none⟩]⟩,  -- BT_TIME_SEC_LO
  ⟨0x20, [], .hi, [⟨0, 16, .val 0, .ro, true, none⟩]⟩,  -- BT_TIME_SEC_HI
  ⟨0x24, [], .none, [⟨0, 30, .val 0, .ro, false, none⟩]⟩,  -- BT_EPOCH_NS
  ⟨0x28, [], .lo, [⟨0, 32, .val 0, .ro, false, none⟩]⟩,  -- BT_EPOCH_SEC_LO
  ⟨0x2c, [], .hi, [⟨0, 16, .val 0, .ro, false, none⟩]⟩,  -- BT_EPOCH_SEC_HI
  ⟨0x30, [], .lo, [⟨0, 32, .val 0, .ro, false, none⟩]⟩,  -- BT_STEP_BEAT_LO
  ⟨0x34, [], .hi, [⟨0, 32, .val 0, .ro, false, none⟩]⟩,  -- BT_STEP_BEAT_HI
  ⟨0x38, [], .none, [⟨0, 8, .val 0, .ro, false, none⟩]⟩,  -- BT_STEP_STRETCH
  ⟨0x3c, [], .none, [⟨0, 32, .val 0, .ro, true, none⟩]⟩,  -- BT_RATE_TRIM
  ⟨0x40, [], .none, [⟨0, 9, .val 0, .ro, false, none⟩]⟩  -- BT_PHASE
]

/-- Register map of PTP (15_network_time_redundancy.md). -/
def ptpRegs : List RegDesc := [
  ⟨0x0, [], .none, [⟨9, 1, .val 1, .rw, false, none⟩, ⟨8, 1, .val 1, .rw, false, none⟩, ⟨0, 8, .val 0, .rw, false, none⟩]⟩,  -- PTP_CTL
  ⟨0x4, [], .none, [⟨0, 32, .val 1000, .rw, false, some (1, 1000000)⟩]⟩,  -- PTP_THRESH
  ⟨0x8, [], .none, [⟨16, 16, .val 0x8000, .rw, false, none⟩, ⟨0, 16, .val 0x1000, .rw, false, none⟩]⟩,  -- PTP_SERVO
  ⟨0xc, [], .none, [⟨8, 4, .val 0, .ro, true, none⟩, ⟨5, 1, .val 0, .ro, true, none⟩, ⟨4, 1, .val 0, .ro, true, none⟩, ⟨1, 1, .val 0, .w1c, false, none⟩, ⟨0, 1, .val 0, .ro, true, none⟩]⟩,  -- PTP_STATUS
  ⟨0x10, [(0x20, 2)], .none, [⟨0, 32, .val 0, .ro, true, none⟩]⟩,  -- PTP_P_n_OFFSET
  ⟨0x14, [(0x20, 2)], .none, [⟨0, 32, .val 0, .ro, true, none⟩]⟩,  -- PTP_P_n_DELAY
  ⟨0x18, [(0x20, 2)], .lo, [⟨0, 32, .val 0, .ro, true, none⟩]⟩,  -- PTP_P_n_AT_LO
  ⟨0x1c, [(0x20, 2)], .hi, [⟨0, 32, .val 0, .ro, true, none⟩]⟩,  -- PTP_P_n_AT_HI
  ⟨0x20, [(0x20, 2)], .lo, [⟨0, 32, .val 0, .ro, true, none⟩]⟩,  -- PTP_P_n_GM_LO
  ⟨0x24, [(0x20, 2)], .hi, [⟨0, 32, .val 0, .ro, true, none⟩]⟩,  -- PTP_P_n_GM_HI
  ⟨0x28, [(0x20, 2)], .none, [⟨0, 16, .val 0, .ro, true, none⟩]⟩,  -- PTP_P_n_GM_PORT
  ⟨0x60, [], .none, [⟨0, 32, .val 0, .ro, true, none⟩]⟩,  -- PTP_REFUSED
  ⟨0x64, [], .none, [⟨0, 32, .val 0, .ro, true, none⟩]⟩,  -- PTP_ACCEPTED
  ⟨0x68, [], .none, [⟨0, 2, .val 0, .w1c, false, none⟩]⟩,  -- PTP_STICKY
  ⟨0x100, [(0x20, 8)], .none, [⟨4, 1, .val 0, .ro, true, none⟩, ⟨0, 2, .val 0, .rw, false, some (0, 2)⟩]⟩,  -- PTP_TP_k_CTL
  ⟨0x104, [(0x20, 8)], .none, [⟨0, 32, .val 0, .rw, false, none⟩]⟩,  -- PTP_TP_k_NS
  ⟨0x108, [(0x20, 8)], .lo, [⟨0, 32, .val 0, .rw, false, none⟩]⟩,  -- PTP_TP_k_SEC_LO
  ⟨0x10c, [(0x20, 8)], .hi, [⟨0, 16, .val 0, .rw, false, none⟩]⟩,  -- PTP_TP_k_SEC_HI
  ⟨0x110, [(0x20, 8)], .none, [⟨0, 32, .val 0, .rw, false, none⟩]⟩,  -- PTP_TP_k_PERIOD
  ⟨0x114, [(0x20, 8)], .none, [⟨0, 32, .val 0, .rw, false, none⟩]⟩,  -- PTP_TP_k_WIDTH
  ⟨0x118, [(0x20, 8)], .none, [⟨0, 32, .val 0, .ro, true, none⟩]⟩,  -- PTP_TP_k_COUNT
  ⟨0x200, [(0x20, 8)], .none, [⟨8, 1, .val 0, .ro, true, none⟩, ⟨0, 2, .val 3, .rw, false, none⟩]⟩,  -- PTP_CAP_k_CTL
  ⟨0x204, [(0x20, 8)], .none, [⟨0, 32, .val 0, .ro, true, none⟩]⟩,  -- PTP_CAP_k_COUNT
  ⟨0x208, [(0x20, 8)], .none, [⟨0, 32, .val 0, .ro, true, none⟩]⟩,  -- PTP_CAP_k_NS
  ⟨0x20c, [(0x20, 8)], .lo, [⟨0, 32, .val 0, .ro, true, none⟩]⟩,  -- PTP_CAP_k_SEC_LO
  ⟨0x210, [(0x20, 8)], .hi, [⟨0, 16, .val 0, .ro, true, none⟩]⟩  -- PTP_CAP_k_SEC_HI
]

/-- Register map of NET (15_network_time_redundancy.md). -/
def netRegs : List RegDesc := [
  ⟨0x0, [], .none, [⟨8, 1, .val 1, .rw, false, none⟩, ⟨5, 1, .val 1, .rw, false, none⟩, ⟨4, 1, .val 1, .rw, false, none⟩, ⟨2, 1, .val 1, .rwi, false, none⟩, ⟨1, 1, .val 0, .rwi, false, none⟩, ⟨0, 1, .val 0, .rw, false, none⟩]⟩,  -- NET_n_CTL
  ⟨0x4, [], .none, [⟨3, 1, .val 0, .w1c, false, none⟩, ⟨2, 1, .val 0, .ro, true, none⟩, ⟨1, 1, .val 0, .ro, true, none⟩, ⟨0, 1, .val 0, .ro, true, none⟩]⟩,  -- NET_n_STATUS
  ⟨0x8, [], .lo, [⟨0, 32, .val 0, .rw, false, none⟩]⟩,  -- NET_n_MAC_LO
  ⟨0xc, [], .hi, [⟨0, 16, .val 0, .rw, false, none⟩]⟩,  -- NET_n_MAC_HI
  ⟨0x10, [], .none, [⟨0, 32, .val 0, .rw, false, none⟩]⟩,  -- NET_n_IP
  ⟨0x14, [], .none, [⟨0, 16, .val 0xb87e, .rw, false, some (1, 65535)⟩]⟩,  -- NET_n_UDP
  ⟨0x18, [], .none, [⟨16, 16, .val 208, .ro, false, none⟩, ⟨0, 16, .val 272, .ro, false, none⟩]⟩,  -- NET_n_TS_CORR
  ⟨0x20, [], .none, [⟨0, 32, .val 0, .ro, true, none⟩]⟩,  -- NET_n_RX_FRAMES
  ⟨0x24, [], .none, [⟨0, 32, .val 0, .ro, true, none⟩]⟩,  -- NET_n_RX_FCS
  ⟨0x28, [], .none, [⟨0, 32, .val 0, .ro, true, none⟩]⟩,  -- NET_n_RX_DROP
  ⟨0x2c, [], .none, [⟨0, 32, .val 0, .ro, true, none⟩]⟩,  -- NET_n_TX_FRAMES
  ⟨0x30, [], .none, [⟨0, 32, .val 0, .ro, true, none⟩]⟩,  -- NET_n_RX_PTP
  ⟨0x34, [], .none, [⟨0, 32, .val 0, .ro, true, none⟩]⟩,  -- NET_n_TX_PTP
  ⟨0x38, [], .none, [⟨0, 6, .val 0, .w1c, false, none⟩]⟩  -- NET_n_STICKY
]

/-- Register map of HG (15_network_time_redundancy.md). -/
def hgRegs : List RegDesc := [
  ⟨0x0, [], .none, [⟨0, 16, .val 20, .rw, false, some (1, 1000)⟩]⟩,  -- HG_CTL
  ⟨0x4, [], .none, [⟨16, 7, .val 0, .ro, true, none⟩, ⟨6, 2, .val 0, .ro, true, none⟩, ⟨4, 2, .val 0, .ro, true, none⟩, ⟨2, 1, .val 0, .ro, true, none⟩, ⟨1, 1, .val 0, .ro, true, none⟩, ⟨0, 1, .val 0, .ro, true, none⟩]⟩,  -- HG_STATUS
  ⟨0x8, [], .none, [⟨16, 16, .val 0, .ro, true, none⟩, ⟨0, 16, .val 0, .ro, true, none⟩]⟩,  -- HG_CLAIM
  ⟨0xc, [], .lo, [⟨0, 32, .val 0, .ro, true, none⟩]⟩,  -- HG_SWITCH_LO
  ⟨0x10, [], .hi, [⟨0, 32, .val 0, .ro, true, none⟩]⟩,  -- HG_SWITCH_HI
  ⟨0x14, [], .none, [⟨0, 32, .val 0, .ro, true, none⟩]⟩,  -- HG_SWITCHES
  ⟨0x40, [(0x20, 2)], .none, [⟨0, 32, .val 0, .ro, true, none⟩]⟩,  -- HG_P_p_FORM
  ⟨0x44, [(0x20, 2)], .none, [⟨0, 32, .val 0, .ro, true, none⟩]⟩,  -- HG_P_p_SESSION
  ⟨0x48, [(0x20, 2)], .none, [⟨0, 32, .val 0, .ro, true, none⟩]⟩,  -- HG_P_p_TAG
  ⟨0x4c, [(0x20, 2)], .none, [⟨0, 32, .val 0, .ro, true, none⟩]⟩,  -- HG_P_p_CLAIM
  ⟨0x50, [(0x20, 2)], .none, [⟨0, 32, .val 0, .ro, true, none⟩]⟩,  -- HG_P_p_BUSY
  ⟨0x54, [(0x20, 2)], .none, [⟨0, 32, .val 0, .ro, true, none⟩]⟩,  -- HG_P_p_HB
  ⟨0x58, [(0x20, 2)], .none, [⟨0, 6, .val 0, .w1c, false, none⟩]⟩  -- HG_P_p_STICKY
]

/-- Register map of FUR (04_furrows.md). -/
def furRegs : List RegDesc := [
  ⟨0x0, [], .none, [⟨16, 16, .val 0, .ro, true, none⟩, ⟨8, 4, .val 0, .ro, true, none⟩, ⟨4, 4, .val 0, .ro, true, none⟩, ⟨0, 3, .val 0, .ro, true, none⟩]⟩,  -- FUR_n_STATE
  ⟨0x4, [], .none, [⟨16, 16, .val 0, .ro, true, none⟩, ⟨0, 8, .val 0, .ro, true, none⟩]⟩,  -- FUR_n_FAULT
  ⟨0x8, [], .none, [⟨0, 32, .val 0, .ro, true, none⟩]⟩,  -- FUR_n_CMD_X
  ⟨0xc, [], .none, [⟨0, 32, .val 0, .ro, true, none⟩]⟩,  -- FUR_n_CMD_Y
  ⟨0x10, [], .none, [⟨0, 32, .val 0, .ro, true, none⟩]⟩,  -- FUR_n_SCAN_X
  ⟨0x14, [], .none, [⟨0, 32, .val 0, .ro, true, none⟩]⟩,  -- FUR_n_SCAN_Y
  ⟨0x18, [], .none, [⟨17, 1, .val 0, .ro, true, none⟩, ⟨16, 1, .val 0, .ro, true, none⟩, ⟨0, 16, .val 0, .ro, true, none⟩]⟩,  -- FUR_n_OUT
  ⟨0x20, [], .lo, [⟨0, 32, .val 0, .ro, true, none⟩]⟩,  -- FUR_n_VSTART_LO
  ⟨0x24, [], .hi, [⟨0, 32, .val 0, .ro, true, none⟩]⟩,  -- FUR_n_VSTART_HI
  ⟨0x28, [], .lo, [⟨0, 32, .val 0, .ro, false, none⟩]⟩,  -- FUR_n_LIST_BASE_LO
  ⟨0x2c, [], .hi, [⟨0, 4, .val 0, .ro, false, none⟩]⟩,  -- FUR_n_LIST_BASE_HI
  ⟨0x30, [], .none, [⟨0, 32, .val 0, .ro, false, none⟩]⟩,  -- FUR_n_LIST_LEN
  ⟨0x34, [], .none, [⟨0, 32, .val 0, .ro, false, none⟩]⟩,  -- FUR_n_RATE
  ⟨0x38, [], .none, [⟨0, 32, .val 0, .rw, false, none⟩]⟩,  -- FUR_n_PARK_X
  ⟨0x3c, [], .none, [⟨0, 32, .val 0, .rw, false, none⟩]⟩,  -- FUR_n_PARK_Y
  ⟨0x40, [], .none, [⟨0, 6, .val 0, .rw, false, none⟩]⟩,  -- FUR_n_PARK_SET
  ⟨0x44, [], .none, [⟨16, 16, .val 0, .rwi, false, none⟩, ⟨0, 1, .val 0, .rwi, false, none⟩]⟩,  -- FUR_n_DEFER_CTL
  ⟨0x48, [], .none, [⟨0, 16, .val 0, .rwi, false, none⟩]⟩,  -- FUR_n_SYNC_CTL
  ⟨0x4c, [], .lo, [⟨6, 26, .val 0, .rwi, false, none⟩]⟩,  -- FUR_n_LOG_BASE_LO
  ⟨0x50, [], .hi, [⟨0, 4, .val 0, .rwi, false, none⟩]⟩,  -- FUR_n_LOG_BASE_HI
  ⟨0x54, [], .none, [⟨0, 5, .val 0, .rwi, false, none⟩]⟩,  -- FUR_n_LOG_SIZE
  ⟨0x58, [], .none, [⟨0, 32, .val 0, .ro, true, none⟩]⟩,  -- FUR_n_LOG_COUNT
  ⟨0x5c, [], .none, [⟨0, 32, .val 0, .ro, true, none⟩]⟩,  -- FUR_n_VEC_COUNT
  ⟨0x60, [], .none, [⟨0, 32, .val 0, .ro, true, none⟩]⟩,  -- FUR_n_DEFER_COUNT
  ⟨0x64, [], .none, [⟨0, 32, .val 0, .ro, true, none⟩]⟩,  -- FUR_n_WAIT_BEATS
  ⟨0x68, [], .none, [⟨0, 32, .val 0, .ro, true, none⟩]⟩,  -- FUR_n_UNDERRUN
  ⟨0x6c, [], .none, [⟨3, 1, .val 0, .w1c, false, none⟩, ⟨2, 1, .val 0, .w1c, false, none⟩, ⟨1, 1, .val 0, .w1c, false, none⟩, ⟨0, 1, .val 0, .w1c, false, none⟩]⟩,  -- FUR_n_STICKY
  ⟨0x70, [], .none, [⟨16, 16, .val 0, .ro, false, none⟩, ⟨2, 1, .val 0, .ro, false, none⟩, ⟨1, 1, .val 0, .ro, false, none⟩, ⟨0, 1, .val 0, .ro, false, none⟩]⟩,  -- FUR_n_GRID
  ⟨0x74, [], .none, [⟨0, 16, .val 0, .ro, false, none⟩]⟩,  -- FUR_n_PMAX
  ⟨0x78, [], .none, [⟨0, 32, .val 0, .ro, true, none⟩]⟩,  -- FUR_n_JOB
  ⟨0x800, [(0x20, 64)], .none, [⟨16, 16, .val 0, .rwi, false, none⟩, ⟨0, 16, .val 0, .rwi, false, none⟩]⟩,  -- FUR_n_PSET_k_DLY
  ⟨0x804, [(0x20, 64)], .none, [⟨0, 32, .val 0, .rwi, false, none⟩]⟩,  -- FUR_n_PSET_k_JUMP
  ⟨0x808, [(0x20, 64)], .none, [⟨16, 16, .val 0, .rwi, false, none⟩, ⟨0, 16, .val 0, .rwi, false, none⟩]⟩,  -- FUR_n_PSET_k_HOLD
  ⟨0x80c, [(0x20, 64)], .none, [⟨16, 16, .val 0, .rwi, false, none⟩, ⟨0, 16, .val 0, .rwi, false, none⟩]⟩,  -- FUR_n_PSET_k_SKY
  ⟨0x810, [(0x20, 64)], .none, [⟨24, 2, .val 0, .rwi, false, none⟩, ⟨16, 8, .val 180, .rwi, false, some (0, 180)⟩, ⟨8, 8, .val 0, .rwi, false, none⟩, ⟨0, 8, .val 0, .rwi, false, none⟩]⟩,  -- FUR_n_PSET_k_TRIM
  ⟨0x814, [(0x20, 64)], .none, [⟨0, 16, .val 0, .rwi, false, none⟩]⟩  -- FUR_n_PSET_k_LOOP
]

/-- Register map of SLB (05_bed_sluice.md). -/
def slbRegs : List RegDesc := [
  ⟨0x0, [], .none, [⟨20, 4, .val 2, .rwi, false, none⟩, ⟨16, 4, .val 4, .rwi, false, some (0, 12)⟩, ⟨8, 2, .val 1, .rwi, false, none⟩, ⟨0, 1, .val 0, .rwi, false, none⟩]⟩,  -- SLB_CTL
  ⟨0x4, [], .none, [⟨0, 32, .val 0, .rwi, false, none⟩]⟩,  -- SLB_GRID_X0
  ⟨0x8, [], .none, [⟨0, 32, .val 0, .rwi, false, none⟩]⟩,  -- SLB_GRID_Y0
  ⟨0xc, [], .none, [⟨0, 14, .val 2000, .rwi, false, some (500, 16000)⟩]⟩,  -- SLB_GRID_EDGE
  ⟨0x10, [], .none, [⟨16, 9, .val 256, .rwi, false, some (1, 256)⟩, ⟨0, 9, .val 256, .rwi, false, some (1, 256)⟩]⟩,  -- SLB_GRID_SIZE
  ⟨0x14, [], .none, [⟨0, 16, .val 0, .rwi, false, none⟩]⟩,  -- SLB_SETTLE
  ⟨0x18, [], .none, [⟨0, 32, .val 0, .rwi, false, none⟩]⟩,  -- SLB_CLASS_0
  ⟨0x1c, [], .none, [⟨0, 16, .val 0, .rwi, false, none⟩]⟩,  -- SLB_CLASS_1
  ⟨0x20, [], .none, [⟨0, 16, .val 0, .ro, false, none⟩]⟩,  -- SLB_QUOTA_N
  ⟨0x24, [], .none, [⟨0, 32, .val 0, .ro, false, none⟩]⟩,  -- SLB_QUOTA_WIN
  ⟨0x28, [], .none, [⟨0, 32, .val 0, .ro, false, none⟩]⟩,  -- SLB_GUARD_SEP
  ⟨0x2c, [], .none, [⟨8, 5, .val 0, .ro, true, none⟩, ⟨3, 1, .val 0, .ro, true, none⟩, ⟨2, 1, .val 0, .ro, true, none⟩, ⟨1, 1, .val 0, .ro, true, none⟩, ⟨0, 1, .val 1, .ro, true, none⟩]⟩,  -- SLB_STATUS
  ⟨0x30, [], .none, [⟨0, 1, .val 0, .wo, false, none⟩]⟩,  -- SLB_SLOT_COMMIT
  ⟨0x40, [], .none, [⟨4, 3, .val 0, .rwi, false, none⟩, ⟨2, 2, .val 0, .rw, false, some (0, 2)⟩, ⟨1, 1, .val 0, .rwi, false, none⟩, ⟨0, 1, .val 0, .rwi, false, none⟩]⟩,  -- SLB_RC_CTL
  ⟨0x44, [], .none, [⟨0, 32, .val 0, .rwi, false, none⟩]⟩,  -- SLB_RC_ORIGIN
  ⟨0x48, [], .none, [⟨0, 32, .val 0, .rwi, false, none⟩]⟩,  -- SLB_RC_SCALE
  ⟨0x4c, [], .none, [⟨0, 32, .val 0, .rwi, false, none⟩]⟩,  -- SLB_RC_NEG
  ⟨0x50, [], .none, [⟨0, 32, .val 0, .rwi, false, none⟩]⟩,  -- SLB_RC_POSX
  ⟨0x54, [], .none, [⟨0, 32, .val 0, .rwi, false, none⟩]⟩,  -- SLB_RC_VMAX
  ⟨0x58, [], .none, [⟨0, 32, .val 0, .ro, true, none⟩]⟩,  -- SLB_RC_POS
  ⟨0x5c, [], .none, [⟨0, 32, .val 0, .ro, true, none⟩]⟩,  -- SLB_RC_LO
  ⟨0x60, [], .none, [⟨0, 32, .val 0, .ro, true, none⟩]⟩,  -- SLB_RC_HI
  ⟨0x64, [], .none, [⟨0, 32, .val 0, .ro, true, none⟩]⟩,  -- SLB_RC_INCURSION
  ⟨0x70, [], .none, [⟨16, 8, .val 0, .ro, true, none⟩, ⟨8, 5, .val 0, .ro, true, none⟩, ⟨0, 5, .val 0, .ro, true, none⟩]⟩,  -- SLB_GUARD_LAST
  ⟨0x74, [], .none, [⟨0, 32, .val 0, .ro, true, none⟩]⟩,  -- SLB_GUARD_DIST
  ⟨0x78, [], .lo, [⟨0, 32, .val 0, .ro, true, none⟩]⟩,  -- SLB_GUARD_BEAT_LO
  ⟨0x7c, [], .hi, [⟨0, 32, .val 0, .ro, true, none⟩]⟩,  -- SLB_GUARD_BEAT_HI
  ⟨0x80, [], .none, [⟨0, 32, .val 0, .ro, true, none⟩]⟩,  -- SLB_GUARD_COUNT
  ⟨0x84, [], .none, [⟨1, 1, .val 0, .w1c, false, none⟩, ⟨0, 1, .val 0, .w1c, false, none⟩]⟩,  -- SLB_STICKY
  ⟨0x100, [(0x10, 24)], .none, [⟨24, 8, .val 0, .ro, true, none⟩, ⟨16, 8, .val 0, .ro, true, none⟩, ⟨12, 1, .val 0, .ro, true, none⟩, ⟨8, 4, .val 0, .ro, true, none⟩, ⟨0, 4, .val 0, .ro, true, none⟩]⟩,  -- SLB_CH_n_STATUS
  ⟨0x104, [(0x10, 24)], .none, [⟨0, 32, .val 0, .ro, true, none⟩]⟩,  -- SLB_CH_n_GRANTS
  ⟨0x108, [(0x10, 24)], .none, [⟨0, 32, .val 0, .ro, true, none⟩]⟩,  -- SLB_CH_n_LOSSES
  ⟨0x10c, [(0x10, 24)], .none, [⟨1, 1, .val 0, .w1c, false, none⟩, ⟨0, 1, .val 0, .w1c, false, none⟩]⟩,  -- SLB_CH_n_STICKY
  ⟨0x1000, [(0x4, 256)], .none, [⟨7, 1, .val 0, .rwi, false, none⟩, ⟨0, 5, .val 0, .rwi, false, some (0, 23)⟩]⟩,  -- SLB_SLOT_k
  ⟨0x1400, [(0x4, 256)], .none, [⟨7, 1, .val 0, .ro, false, none⟩, ⟨0, 5, .val 0, .ro, false, none⟩]⟩  -- SLB_SLOT_ACT_k
]

/-- Register map of SLM (13_dram_and_memory_sluice.md). -/
def slmRegs : List RegDesc := [
  ⟨0x0, [], .none, [⟨0, 32, .val 0x26a57f, .rw, false, none⟩]⟩,  -- SLM_CLASS
  ⟨0x4, [], .none, [⟨16, 9, .val 0, .ro, true, none⟩, ⟨8, 4, .val 4, .ro, true, none⟩, ⟨1, 1, .val 0, .ro, true, none⟩, ⟨0, 1, .val 0, .ro, true, none⟩]⟩,  -- SLM_STATUS
  ⟨0xc, [], .none, [⟨0, 16, .val 0, .ro, true, none⟩]⟩,  -- SLM_MASK
  ⟨0x40, [(0x10, 16)], .none, [⟨0, 32, .val 0, .ro, true, none⟩]⟩,  -- SLM_REQ_r_OWN
  ⟨0x44, [(0x10, 16)], .none, [⟨0, 32, .val 0, .ro, true, none⟩]⟩,  -- SLM_REQ_r_FALL
  ⟨0x48, [(0x10, 16)], .none, [⟨0, 9, .val 0, .ro, true, none⟩]⟩,  -- SLM_REQ_r_RES
  ⟨0x4c, [(0x10, 16)], .none, [⟨0, 2, .val 0, .w1c, false, none⟩]⟩,  -- SLM_REQ_r_STICKY
  ⟨0x200, [(0x10, 32)], .none, [⟨16, 8, .val 0, .ro, true, none⟩, ⟨8, 2, .val 0, .ro, true, none⟩, ⟨4, 1, .val 0, .ro, true, none⟩, ⟨0, 2, .val 0, .ro, true, none⟩]⟩,  -- SLM_STREAM_s_STATUS
  ⟨0x204, [(0x10, 32)], .none, [⟨0, 32, .val 0, .ro, true, none⟩]⟩,  -- SLM_STREAM_s_CREDIT
  ⟨0x208, [(0x10, 32)], .lo, [⟨0, 32, .val 0, .ro, true, none⟩]⟩,  -- SLM_STREAM_s_BYTES_LO
  ⟨0x20c, [(0x10, 32)], .hi, [⟨0, 32, .val 0, .ro, true, none⟩]⟩,  -- SLM_STREAM_s_BYTES_HI
  ⟨0x1000, [(0x4, 512)], .none, [⟨7, 1, .val 0, .ro, false, none⟩, ⟨0, 4, .val 0, .ro, false, none⟩]⟩,  -- SLM_SLOT_k
  ⟨0x1800, [(0x4, 512)], .none, [⟨7, 1, .val 0, .ro, false, none⟩, ⟨0, 4, .val 0, .ro, false, none⟩]⟩  -- SLM_SLOT_ACT_k
]

/-- Register map of GLK (06_glelin_links.md). -/
def glkRegs : List RegDesc := [
  ⟨0x0, [], .none, [⟨16, 4, .val 3, .rw, false, some (1, 15)⟩, ⟨8, 1, .val 0, .rwi, false, none⟩, ⟨1, 2, .val 2, .rwi, false, none⟩, ⟨0, 1, .val 0, .rw, false, none⟩]⟩,  -- GLK_n_CTL
  ⟨0x4, [], .none, [⟨16, 4, .val 0, .ro, true, none⟩, ⟨9, 1, .val 0, .w1c, false, none⟩, ⟨8, 1, .val 0, .ro, true, none⟩, ⟨4, 4, .val 0, .ro, true, none⟩, ⟨0, 3, .val 0, .ro, true, none⟩]⟩,  -- GLK_n_STATUS
  ⟨0x8, [], .none, [⟨0, 32, .val 0, .ro, true, none⟩]⟩,  -- GLK_n_FRAMES
  ⟨0xc, [], .none, [⟨0, 32, .val 0, .ro, true, none⟩]⟩,  -- GLK_n_CRC_ERR
  ⟨0x10, [], .none, [⟨0, 32, .val 0, .ro, true, none⟩]⟩,  -- GLK_n_MISS
  ⟨0x14, [], .none, [⟨0, 32, .val 0, .ro, true, none⟩]⟩,  -- GLK_n_STUFF_ERR
  ⟨0x18, [], .none, [⟨0, 32, .val 0, .ro, true, none⟩]⟩,  -- GLK_n_POS_ERR
  ⟨0x1c, [], .none, [⟨0, 32, .val 0, .ro, true, none⟩]⟩,  -- GLK_n_ECHO_ERR
  ⟨0x20, [], .none, [⟨0, 32, .val 0, .ro, true, none⟩]⟩,  -- GLK_n_KILLED
  ⟨0x24, [], .none, [⟨0, 32, .val 0, .ro, true, none⟩]⟩,  -- GLK_n_DOWN_BAD
  ⟨0x28, [], .none, [⟨0, 8, .val 0, .w1c, false, none⟩]⟩,  -- GLK_n_STICKY
  ⟨0x2c, [], .none, [⟨16, 16, .val 0xffff, .ro, false, none⟩, ⟨0, 16, .val 0, .ro, true, none⟩]⟩,  -- GLK_n_FILL
  ⟨0x30, [], .none, [⟨16, 16, .val 0, .ro, false, none⟩, ⟨0, 16, .val 0, .ro, true, none⟩]⟩,  -- GLK_n_LAT
  ⟨0x34, [], .none, [⟨0, 32, .val 0, .ro, true, none⟩]⟩,  -- GLK_n_HEAD
  ⟨0x40, [], .none, [⟨31, 1, .val 0, .ro, false, none⟩, ⟨16, 8, .val 0, .rw, false, some (1, 2)⟩, ⟨0, 16, .val 0, .rw, false, none⟩]⟩,  -- GLK_n_MBX_CMD
  ⟨0x44, [], .none, [⟨0, 32, .val 0, .rw, false, none⟩]⟩,  -- GLK_n_MBX_DATA
  ⟨0x48, [], .none, [⟨31, 1, .val 0, .ro, false, none⟩, ⟨16, 8, .val 0, .ro, false, none⟩]⟩,  -- GLK_n_MBX_RESP
  ⟨0x4c, [], .none, [⟨0, 32, .val 0, .ro, false, none⟩]⟩,  -- GLK_n_MBX_RDATA
  ⟨0x80, [], .none, [⟨16, 1, .val 0, .wo, false, none⟩, ⟨8, 5, .val 20, .rw, false, some (10, 30)⟩, ⟨4, 2, .val 0, .rw, false, some (0, 1)⟩, ⟨0, 3, .val 0, .rw, false, some (0, 5)⟩]⟩,  -- GLK_n_TEST
  ⟨0x84, [], .none, [⟨0, 32, .val 0, .ro, true, none⟩]⟩,  -- GLK_n_PRBS_ERR
  ⟨0x88, [], .lo, [⟨0, 32, .val 0, .ro, false, none⟩]⟩,  -- GLK_n_PRBS_BITS_LO
  ⟨0x8c, [], .hi, [⟨0, 32, .val 0, .ro, false, none⟩]⟩,  -- GLK_n_PRBS_BITS_HI
  ⟨0x90, [], .none, [⟨8, 8, .val 0, .ro, false, none⟩, ⟨0, 1, .val 0, .ro, true, none⟩]⟩  -- GLK_n_PRBS_STATUS
]

/-- Register map of SVA, part 0 (07_sieve_pipeline.md). -/
def svaRegs0 : List RegDesc := [
  ⟨0x0, [], .none, [⟨16, 16, .val 0, .ro, true, none⟩, ⟨8, 1, .val 0, .ro, true, none⟩, ⟨0, 5, .val 0, .ro, true, none⟩]⟩,  -- SVA_STATUS
  ⟨0x4, [], .none, [⟨0, 32, .val 0, .ro, true, none⟩]⟩,  -- SVA_RUNS
  ⟨0x8, [], .none, [⟨0, 32, .val 0, .ro, true, none⟩]⟩,  -- SVA_LATE
  ⟨0xc, [], .none, [⟨0, 32, .val 0, .ro, true, none⟩]⟩,  -- SVA_TAP_DROP
  ⟨0x10, [], .none, [⟨0, 32, .val 0, .ro, true, none⟩]⟩,  -- SVA_OV_SKIP
  ⟨0x14, [], .none, [⟨0, 4, .val 0, .w1c, false, none⟩]⟩,  -- SVA_STICKY
  ⟨0x18, [], .none, [⟨16, 16, .val 0, .ro, false, none⟩, ⟨0, 16, .val 0, .ro, true, none⟩]⟩,  -- SVA_TAP_FILL
  ⟨0x10000, [(0x800, 32)], .none, [⟨18, 1, .val 1, .rwi, false, none⟩, ⟨17, 1, .val 0, .rwi, false, none⟩, ⟨16, 1, .val 0, .rwi, false, none⟩, ⟨15, 1, .val 1, .rwi, false, none⟩, ⟨14, 1, .val 0, .rwi, false, none⟩, ⟨13, 1, .val 0, .rwi, false, none⟩, ⟨12, 1, .val 0, .rwi, false, none⟩, ⟨8, 1, .val 1, .rwi, false, none⟩, ⟨7, 1, .val 0, .rwi, false, none⟩, ⟨5, 2, .val 0, .rwi, false, none⟩, ⟨4, 1, .val 0, .rwi, false, none⟩, ⟨0, 2, .ctxKind, .ro, false, none⟩]⟩,  -- SVA_n_CFG
  ⟨0x10004, [(0x800, 32)], .none, [⟨16, 13, .val 64, .rwi, false, none⟩, ⟨0, 13, .val 64, .rwi, false, none⟩]⟩,  -- SVA_n_SIZE
  ⟨0x10008, [(0x800, 32)], .none, [⟨0, 32, .val 80, .rwi, false, none⟩]⟩,  -- SVA_n_PERIOD
  ⟨0x1000c, [(0x800, 32)], .none, [⟨0, 32, .val 0, .rwi, false, none⟩]⟩,  -- SVA_n_PHASE
  ⟨0x10010, [(0x800, 32)], .none, [⟨16, 16, .val 0, .rwi, false, none⟩, ⟨0, 16, .val 0, .rwi, false, none⟩]⟩,  -- SVA_n_ROI_ORG
  ⟨0x10014, [(0x800, 32)], .none, [⟨2, 1, .val 0, .wo, false, none⟩, ⟨1, 1, .val 0, .wo, false, none⟩, ⟨0, 1, .val 0, .rw, false, none⟩]⟩,  -- SVA_n_CTL
  ⟨0x10018, [(0x800, 32)], .none, [⟨0, 12, .val 0, .rw, false, none⟩]⟩,  -- SVA_n_BLACK
  ⟨0x1001c, [(0x800, 32)], .none, [⟨16, 16, .val 0x4000, .rw, false, none⟩, ⟨0, 16, .val 0x4000, .rw, false, none⟩]⟩,  -- SVA_n_BAND_GAIN
  ⟨0x10020, [(0x800, 32)], .none, [⟨0, 16, .val 0x4000, .rw, false, none⟩]⟩,  -- SVA_n_BAND_GAIN2
  ⟨0x10024, [(0x800, 32)], .none, [⟨0, 16, .val 1024, .rw, false, none⟩]⟩,  -- SVA_n_SNR
  ⟨0x10028, [(0x800, 32)], .none, [⟨0, 24, .val 0x112448, .rw, false, none⟩]⟩,  -- SVA_n_SNR_W
  ⟨0x1002c, [(0x800, 32)], .none, [⟨16, 16, .val 0x1000, .rw, false, none⟩, ⟨0, 9, .val 256, .rw, false, some (1, 256)⟩]⟩,  -- SVA_n_TNR
  ⟨0x10030, [(0x800, 32)], .none, [⟨0, 16, .val 512, .rw, false, none⟩]⟩,  -- SVA_n_INTERP
  ⟨0x10034, [(0x800, 32)], .none, [⟨0, 16, .val 256, .rw, false, none⟩]⟩,  -- SVA_n_TEMP
  ⟨0x10040, [(0x800, 32)], .none, [⟨16, 16, .val 0, .ro, true, none⟩, ⟨8, 8, .val 0, .ro, true, none⟩, ⟨5, 1, .val 0, .ro, true, none⟩, ⟨4, 1, .val 0, .ro, true, none⟩, ⟨3, 1, .val 0, .ro, false, none⟩, ⟨0, 3, .val 0, .ro, true, none⟩]⟩,  -- SVA_n_STATUS
  ⟨0x10044, [(0x800, 32)], .none, [⟨0, 32, .val 0, .ro, true, none⟩]⟩,  -- SVA_n_SEQ
  ⟨0x10048, [(0x800, 32)], .none, [⟨16, 8, .val 0, .ro, true, none⟩, ⟨8, 1, .val 0, .ro, true, none⟩, ⟨0, 8, .val 0, .ro, true, none⟩]⟩,  -- SVA_n_GEN
  ⟨0x1004c, [(0x800, 32)], .none, [⟨16, 16, .val 0, .ro, true, none⟩, ⟨0, 16, .val 0, .ro, true, none⟩]⟩,  -- SVA_n_PGEN
  ⟨0x10050, [(0x800, 32)], .none, [⟨0, 32, .val 0, .ro, true, none⟩]⟩,  -- SVA_n_FRAMES
  ⟨0x10054, [(0x800, 32)], .none, [⟨0, 32, .val 0, .ro, true, none⟩]⟩,  -- SVA_n_ANOMALIES
  ⟨0x10058, [(0x800, 32)], .none, [⟨0, 32, .val 0, .ro, true, none⟩]⟩,  -- SVA_n_STRAY
  ⟨0x1005c, [(0x800, 32)], .none, [⟨0, 32, .val 0, .ro, true, none⟩]⟩,  -- SVA_n_SKIPPED
  ⟨0x10060, [(0x800, 32)], .none, [⟨0, 4, .val 0, .w1c, false, none⟩]⟩,  -- SVA_n_STICKY
  ⟨0x10080, [(0x800, 32)], .none, [⟨0, 32, .val 0x2710, .rw, false, none⟩]⟩,  -- SVA_n_EXP_TIME
  ⟨0x10084, [(0x800, 32)], .none, [⟨0, 16, .val 256, .rw, false, none⟩]⟩,  -- SVA_n_EXP_GAIN
  ⟨0x10088, [(0x800, 32)], .none, [⟨31, 1, .val 0, .w1c, false, none⟩, ⟨30, 1, .val 0, .ro, true, none⟩, ⟨29, 1, .val 0, .ro, true, none⟩, ⟨16, 8, .val 0, .ro, true, none⟩, ⟨8, 8, .val 0, .ro, true, none⟩, ⟨0, 8, .val 1, .ro, false, none⟩]⟩,  -- SVA_n_EXP_STATUS
  ⟨0x1008c, [(0x800, 32)], .none, [⟨0, 32, .val 0, .ro, true, none⟩]⟩,  -- SVA_n_EXP_SENT_SEQ
  ⟨0x10090, [(0x800, 32)], .none, [⟨0, 32, .val 0, .ro, true, none⟩]⟩,  -- SVA_n_EXP_APPLIED_SEQ
  ⟨0x100a0, [(0x800, 32)], .lo, [⟨6, 26, .val 0, .rw, false, none⟩]⟩,  -- SVA_n_FPN_ADDR_LO
  ⟨0x100a4, [(0x800, 32)], .hi, [⟨0, 4, .val 0, .rw, false, none⟩]⟩,  -- SVA_n_FPN_ADDR_HI
  ⟨0x100a8, [(0x800, 32)], .lo, [⟨6, 26, .val 0, .rwi, false, none⟩]⟩,  -- SVA_n_HIST_ADDR_LO
  ⟨0x100ac, [(0x800, 32)], .hi, [⟨0, 4, .val 0, .rwi, false, none⟩]⟩,  -- SVA_n_HIST_ADDR_HI
  ⟨0x100b0, [(0x800, 32)], .none, [⟨16, 16, .val 0, .rwi, false, none⟩, ⟨8, 8, .val 1, .rwi, false, some (1, 255)⟩, ⟨0, 2, .val 0, .rwi, false, none⟩]⟩  -- SVA_n_TEST
]

/-- Register map of SVA, part 1 (07_sieve_pipeline.md). -/
def svaRegs1 : List RegDesc := [
  ⟨0x100b4, [(0x800, 32)], .lo, [⟨6, 26, .val 0, .rwi, false, none⟩]⟩,  -- SVA_n_REPLAY_LO
  ⟨0x100b8, [(0x800, 32)], .hi, [⟨0, 4, .val 0, .rwi, false, none⟩]⟩,  -- SVA_n_REPLAY_HI
  ⟨0x100c0, [(0x800, 32)], .lo, [⟨6, 26, .val 0, .ro, false, none⟩]⟩,  -- SVA_n_TAP_BASE_LO
  ⟨0x100c4, [(0x800, 32)], .hi, [⟨0, 4, .val 0, .ro, false, none⟩]⟩,  -- SVA_n_TAP_BASE_HI
  ⟨0x100c8, [(0x800, 32)], .none, [⟨0, 32, .val 0, .ro, false, none⟩]⟩,  -- SVA_n_TAP_WIN
  ⟨0x10100, [(0x800, 32), (0x20, 6)], .none, [⟨8, 8, .val 1, .rwi, false, some (1, 255)⟩, ⟨1, 1, .val 0, .rwi, false, none⟩, ⟨0, 1, .val 0, .rwi, false, none⟩]⟩,  -- SVA_n_TAP_k_CTL
  ⟨0x10104, [(0x800, 32), (0x20, 6)], .none, [⟨6, 26, .val 0, .rwi, false, none⟩]⟩,  -- SVA_n_TAP_k_OFF
  ⟨0x10108, [(0x800, 32), (0x20, 6)], .none, [⟨6, 26, .val 0, .rwi, false, none⟩]⟩,  -- SVA_n_TAP_k_LEN
  ⟨0x1010c, [(0x800, 32), (0x20, 6)], .none, [⟨0, 32, .val 0, .ro, true, none⟩]⟩,  -- SVA_n_TAP_k_WPTR
  ⟨0x10110, [(0x800, 32), (0x20, 6)], .none, [⟨0, 32, .val 0, .ro, true, none⟩]⟩,  -- SVA_n_TAP_k_COUNT
  ⟨0x10114, [(0x800, 32), (0x20, 6)], .none, [⟨0, 32, .val 0, .ro, true, none⟩]⟩,  -- SVA_n_TAP_k_DROP
  ⟨0x10400, [(0x800, 32), (0x4, 64)], .none, [⟨16, 16, .val 0, .ro, true, none⟩, ⟨0, 16, .val 0, .ro, true, none⟩]⟩,  -- SVA_n_ZONE_z
  ⟨0x10500, [(0x800, 32), (0x4, 64)], .none, [⟨0, 16, .val 0, .ro, true, none⟩]⟩  -- SVA_n_ZONE2_z
]

/-- Register map of SVA. -/
def svaRegs : List RegDesc := svaRegs0 ++ svaRegs1

/-- Register map of FX (08_melt_pool_features.md). -/
def fxRegs : List RegDesc := [
  ⟨0x0, [], .none, [⟨16, 16, .val 0x55f0, .rw, false, none⟩, ⟨0, 16, .val 0x4650, .rw, false, some (1, 65535)⟩]⟩,  -- FX_n_THR_0
  ⟨0x4, [], .none, [⟨0, 16, .val 0x5dc0, .rw, false, none⟩]⟩,  -- FX_n_THR_1
  ⟨0x8, [], .none, [⟨24, 4, .val 2, .rw, false, none⟩, ⟨16, 8, .val 1, .rw, false, some (1, 255)⟩, ⟨0, 16, .val 64, .rw, false, none⟩]⟩,  -- FX_n_SPAT
  ⟨0xc, [], .none, [⟨4, 4, .val 0, .rwi, false, some (0, 8)⟩, ⟨0, 4, .val 2, .rwi, false, some (0, 8)⟩]⟩,  -- FX_n_SEL
  ⟨0x10, [], .none, [⟨16, 16, .val 0, .rwi, false, none⟩, ⟨0, 16, .val 0x4000, .rwi, false, none⟩]⟩,  -- FX_n_WEIGHT
  ⟨0x14, [], .none, [⟨8, 8, .val 1, .rwi, false, some (1, 255)⟩, ⟨0, 1, .val 0, .rwi, false, none⟩]⟩,  -- FX_n_REC_CTL
  ⟨0x18, [], .none, [⟨6, 26, .val 0, .rwi, false, none⟩]⟩,  -- FX_n_REC_OFF
  ⟨0x1c, [], .none, [⟨6, 26, .val 0, .rwi, false, none⟩]⟩,  -- FX_n_REC_LEN
  ⟨0x20, [], .none, [⟨0, 32, .val 0, .ro, true, none⟩]⟩,  -- FX_n_REC_WPTR
  ⟨0x24, [], .none, [⟨0, 32, .val 0, .ro, true, none⟩]⟩,  -- FX_n_REC_COUNT
  ⟨0x40, [], .none, [⟨0, 32, .val 0, .ro, true, none⟩]⟩,  -- FX_n_SEQ
  ⟨0x44, [], .none, [⟨16, 16, .val 0, .ro, true, none⟩, ⟨0, 16, .val 0, .ro, true, none⟩]⟩,  -- FX_n_VALID
  ⟨0x48, [], .none, [⟨16, 16, .val 0, .ro, true, none⟩, ⟨0, 16, .val 0, .ro, true, none⟩]⟩,  -- FX_n_TEMP
  ⟨0x4c, [], .none, [⟨0, 32, .val 0, .ro, true, none⟩]⟩,  -- FX_n_AREA0
  ⟨0x50, [], .none, [⟨0, 32, .val 0, .ro, true, none⟩]⟩,  -- FX_n_AREA1
  ⟨0x54, [], .none, [⟨0, 32, .val 0, .ro, true, none⟩]⟩,  -- FX_n_AREA2
  ⟨0x58, [], .none, [⟨16, 16, .val 0, .ro, true, none⟩, ⟨0, 16, .val 0, .ro, true, none⟩]⟩,  -- FX_n_CENTROID
  ⟨0x5c, [], .none, [⟨16, 16, .val 0, .ro, true, none⟩, ⟨0, 16, .val 0, .ro, true, none⟩]⟩,  -- FX_n_SHAPE
  ⟨0x60, [], .none, [⟨24, 8, .val 0, .ro, true, none⟩, ⟨16, 8, .val 0, .ro, true, none⟩, ⟨0, 16, .val 0, .ro, true, none⟩]⟩,  -- FX_n_ORIENT
  ⟨0x64, [], .none, [⟨16, 1, .val 0, .ro, true, none⟩, ⟨0, 16, .val 0, .ro, true, none⟩]⟩,  -- FX_n_MEAS
  ⟨0x68, [], .lo, [⟨0, 32, .val 0, .ro, true, none⟩]⟩,  -- FX_n_DELIV_LO
  ⟨0x6c, [], .hi, [⟨0, 32, .val 0, .ro, true, none⟩]⟩,  -- FX_n_DELIV_HI
  ⟨0x70, [], .none, [⟨0, 32, .val 0, .ro, true, none⟩]⟩,  -- FX_n_FRAMES
  ⟨0x74, [], .none, [⟨0, 32, .val 0, .ro, true, none⟩]⟩,  -- FX_n_UNUSABLE
  ⟨0x78, [], .none, [⟨0, 32, .val 0, .ro, true, none⟩]⟩,  -- FX_n_LATE
  ⟨0x7c, [], .none, [⟨0, 3, .val 0, .w1c, false, none⟩]⟩  -- FX_n_STICKY
]

/-- Register map of LAD, part 0 (09_ladle_engines.md). -/
def ladRegs0 : List RegDesc := [
  ⟨0x0, [], .none, [⟨18, 1, .val 0, .rwi, false, none⟩, ⟨17, 1, .val 0, .rwi, false, none⟩, ⟨16, 1, .val 0, .rwi, false, none⟩, ⟨8, 2, .val 0, .rwi, false, some (0, 2)⟩, ⟨4, 2, .val 0, .rwi, false, some (0, 2)⟩, ⟨0, 2, .val 0, .rwi, false, some (0, 2)⟩]⟩,  -- LAD_c_UCODE
  ⟨0x4, [], .none, [⟨0, 32, .val 0, .ro, false, none⟩]⟩,  -- LAD_c_UCODE_VER
  ⟨0x8, [], .none, [⟨15, 1, .val 0, .ro, true, none⟩, ⟨8, 5, .val 0, .ro, true, none⟩, ⟨4, 4, .val 0, .ro, true, none⟩, ⟨0, 4, .val 0, .ro, true, none⟩]⟩,  -- LAD_c_SAMPLE
  ⟨0xc, [], .none, [⟨8, 2, .val 0, .ro, false, none⟩, ⟨0, 8, .val 0, .ro, false, none⟩]⟩,  -- LAD_c_CHECK
  ⟨0x10, [], .none, [⟨8, 2, .val 0, .ro, true, none⟩, ⟨0, 8, .val 0, .ro, true, none⟩]⟩,  -- LAD_c_FAULT
  ⟨0x14, [], .none, [⟨4, 3, .val 0, .wo, false, none⟩, ⟨0, 3, .val 0, .wo, false, none⟩]⟩,  -- LAD_c_RC_CMD
  ⟨0x18, [], .none, [⟨0, 1, .val 0, .rwi, false, none⟩]⟩,  -- LAD_c_RC_CTL
  ⟨0x1c, [], .lo, [⟨6, 26, .val 0, .rwi, false, none⟩]⟩,  -- LAD_c_RC_SPILL_LO
  ⟨0x20, [], .hi, [⟨0, 4, .val 0, .rwi, false, none⟩]⟩,  -- LAD_c_RC_SPILL_HI
  ⟨0x24, [], .none, [⟨2, 1, .val 0, .w1c, false, none⟩, ⟨1, 1, .val 0, .ro, false, none⟩, ⟨0, 1, .val 0, .ro, false, none⟩]⟩,  -- LAD_c_RC_SPILL_ST
  ⟨0x100, [(0x200, 3)], .none, [⟨16, 16, .val 0, .rwi, false, none⟩, ⟨8, 8, .val 3, .rwi, false, some (1, 255)⟩, ⟨6, 1, .val 0, .rwi, false, none⟩, ⟨5, 1, .val 0, .rwi, false, none⟩, ⟨4, 1, .val 0, .rwi, false, none⟩, ⟨3, 1, .val 0, .rwi, false, none⟩, ⟨1, 1, .val 0, .rwi, false, none⟩, ⟨0, 1, .val 0, .rwi, false, none⟩]⟩,  -- LAD_c_l_CTL
  ⟨0x104, [(0x200, 3)], .none, [⟨0, 32, .val 0xffffffff, .rwi, false, none⟩]⟩,  -- LAD_c_l_FE_LIM
  ⟨0x108, [(0x200, 3)], .none, [⟨0, 32, .val 0xffffffff, .rwi, false, none⟩]⟩,  -- LAD_c_l_PW_LIM
  ⟨0x10c, [(0x200, 3)], .none, [⟨16, 16, .val 256, .rwi, false, some (1, 65535)⟩, ⟨0, 8, .val 4, .rwi, false, some (1, 255)⟩]⟩,  -- LAD_c_l_PW_WIN
  ⟨0x110, [(0x200, 3)], .none, [⟨0, 32, .val 0x80000000, .rwi, false, none⟩]⟩,  -- LAD_c_l_I_LO
  ⟨0x114, [(0x200, 3)], .none, [⟨0, 32, .val 0x7fffffff, .rwi, false, none⟩]⟩,  -- LAD_c_l_I_HI
  ⟨0x118, [(0x200, 3)], .none, [⟨0, 32, .val 0x80000000, .rwi, false, none⟩]⟩,  -- LAD_c_l_Y_LO
  ⟨0x11c, [(0x200, 3)], .none, [⟨0, 32, .val 0x7fffffff, .rwi, false, none⟩]⟩,  -- LAD_c_l_Y_HI
  ⟨0x120, [(0x200, 3)], .none, [⟨16, 12, .val 0, .rwi, false, none⟩, ⟨0, 13, .val 0x1000, .rwi, false, none⟩]⟩,  -- LAD_c_l_RC_PERIOD
  ⟨0x124, [(0x200, 3)], .none, [⟨0, 17, .val 0x10000, .rwi, false, some (1, 65536)⟩]⟩,  -- LAD_c_l_KN
  ⟨0x140, [(0x200, 2)], .none, [⟨0, 32, .val 0, .rwi, false, none⟩]⟩,  -- LAD_c_XY_KP
  ⟨0x144, [(0x200, 2)], .none, [⟨0, 5, .val 0, .rwi, false, none⟩]⟩,  -- LAD_c_XY_KP_SHIFT
  ⟨0x148, [(0x200, 2)], .none, [⟨0, 32, .val 0, .rwi, false, none⟩]⟩,  -- LAD_c_XY_KI
  ⟨0x14c, [(0x200, 2)], .none, [⟨0, 5, .val 0, .rwi, false, none⟩]⟩,  -- LAD_c_XY_KI_SHIFT
  ⟨0x150, [(0x200, 2)], .none, [⟨0, 32, .val 0, .rwi, false, none⟩]⟩,  -- LAD_c_XY_KD
  ⟨0x154, [(0x200, 2)], .none, [⟨0, 5, .val 0, .rwi, false, none⟩]⟩,  -- LAD_c_XY_KD_SHIFT
  ⟨0x158, [(0x200, 3)], .none, [⟨0, 32, .val 0, .rwi, false, none⟩]⟩,  -- LAD_c_l_N1_B0
  ⟨0x15c, [(0x200, 3)], .none, [⟨0, 5, .val 0, .rwi, false, none⟩]⟩,  -- LAD_c_l_N1_B0_SHIFT
  ⟨0x160, [(0x200, 3)], .none, [⟨0, 32, .val 0, .rwi, false, none⟩]⟩,  -- LAD_c_l_N1_B1
  ⟨0x164, [(0x200, 3)], .none, [⟨0, 5, .val 0, .rwi, false, none⟩]⟩,  -- LAD_c_l_N1_B1_SHIFT
  ⟨0x168, [(0x200, 3)], .none, [⟨0, 32, .val 0, .rwi, false, none⟩]⟩,  -- LAD_c_l_N1_B2
  ⟨0x16c, [(0x200, 3)], .none, [⟨0, 5, .val 0, .rwi, false, none⟩]⟩,  -- LAD_c_l_N1_B2_SHIFT
  ⟨0x170, [(0x200, 3)], .none, [⟨0, 32, .val 0, .rwi, false, none⟩]⟩,  -- LAD_c_l_N1_A1
  ⟨0x174, [(0x200, 3)], .none, [⟨0, 5, .val 0, .rwi, false, none⟩]⟩,  -- LAD_c_l_N1_A1_SHIFT
  ⟨0x178, [(0x200, 3)], .none, [⟨0, 32, .val 0, .rwi, false, none⟩]⟩,  -- LAD_c_l_N1_A2
  ⟨0x17c, [(0x200, 3)], .none, [⟨0, 5, .val 0, .rwi, false, none⟩]⟩,  -- LAD_c_l_N1_A2_SHIFT
  ⟨0x180, [(0x200, 3)], .none, [⟨0, 32, .val 0, .rwi, false, none⟩]⟩,  -- LAD_c_l_N2_B0
  ⟨0x184, [(0x200, 3)], .none, [⟨0, 5, .val 0, .rwi, false, none⟩]⟩,  -- LAD_c_l_N2_B0_SHIFT
  ⟨0x188, [(0x200, 3)], .none, [⟨0, 32, .val 0, .rwi, false, none⟩]⟩,  -- LAD_c_l_N2_B1
  ⟨0x18c, [(0x200, 3)], .none, [⟨0, 5, .val 0, .rwi, false, none⟩]⟩  -- LAD_c_l_N2_B1_SHIFT
]

/-- Register map of LAD, part 1 (09_ladle_engines.md). -/
def ladRegs1 : List RegDesc := [
  ⟨0x190, [(0x200, 3)], .none, [⟨0, 32, .val 0, .rwi, false, none⟩]⟩,  -- LAD_c_l_N2_B2
  ⟨0x194, [(0x200, 3)], .none, [⟨0, 5, .val 0, .rwi, false, none⟩]⟩,  -- LAD_c_l_N2_B2_SHIFT
  ⟨0x198, [(0x200, 3)], .none, [⟨0, 32, .val 0, .rwi, false, none⟩]⟩,  -- LAD_c_l_N2_A1
  ⟨0x19c, [(0x200, 3)], .none, [⟨0, 5, .val 0, .rwi, false, none⟩]⟩,  -- LAD_c_l_N2_A1_SHIFT
  ⟨0x1a0, [(0x200, 3)], .none, [⟨0, 32, .val 0, .rwi, false, none⟩]⟩,  -- LAD_c_l_N2_A2
  ⟨0x1a4, [(0x200, 3)], .none, [⟨0, 5, .val 0, .rwi, false, none⟩]⟩,  -- LAD_c_l_N2_A2_SHIFT
  ⟨0x1a8, [(0x200, 3)], .none, [⟨0, 32, .val 0, .rwi, false, none⟩]⟩,  -- LAD_c_l_KR
  ⟨0x1ac, [(0x200, 3)], .none, [⟨0, 5, .val 0, .rwi, false, none⟩]⟩,  -- LAD_c_l_KR_SHIFT
  ⟨0x1b0, [(0x200, 3)], .none, [⟨0, 32, .val 0, .rwi, false, none⟩]⟩,  -- LAD_c_l_Q
  ⟨0x1b4, [(0x200, 3)], .none, [⟨0, 5, .val 0, .rwi, false, none⟩]⟩,  -- LAD_c_l_Q_SHIFT
  ⟨0x1c0, [(0x200, 3)], .none, [⟨16, 16, .val 0, .ro, true, none⟩, ⟨8, 8, .val 0, .ro, true, none⟩, ⟨6, 1, .val 0, .ro, true, none⟩, ⟨4, 2, .val 0, .ro, true, none⟩, ⟨0, 3, .val 0, .ro, true, none⟩]⟩,  -- LAD_c_l_STATE
  ⟨0x1c4, [(0x200, 3)], .none, [⟨0, 32, .val 0, .ro, true, none⟩]⟩,  -- LAD_c_l_ERR
  ⟨0x1c8, [(0x200, 3)], .none, [⟨0, 32, .val 0, .ro, true, none⟩]⟩,  -- LAD_c_l_OUT
  ⟨0x1cc, [(0x200, 3)], .none, [⟨0, 32, .val 0, .ro, true, none⟩]⟩,  -- LAD_c_l_INT
  ⟨0x1d0, [(0x200, 3)], .none, [⟨0, 12, .val 0, .ro, true, none⟩]⟩,  -- LAD_c_l_RC_IDX
  ⟨0x1d4, [(0x200, 3)], .none, [⟨0, 32, .val 0, .ro, true, none⟩]⟩,  -- LAD_c_l_SAMPLES
  ⟨0x1d8, [(0x200, 3)], .none, [⟨0, 32, .val 0, .ro, true, none⟩]⟩,  -- LAD_c_l_MISSED
  ⟨0x1dc, [(0x200, 3)], .none, [⟨0, 32, .val 0, .ro, true, none⟩]⟩,  -- LAD_c_l_CLAMPED
  ⟨0x1e0, [(0x200, 3)], .none, [⟨0, 32, .val 0, .ro, true, none⟩]⟩,  -- LAD_c_l_PREWARNS
  ⟨0x1e4, [(0x200, 3)], .none, [⟨6, 4, .val 0, .w1c, false, none⟩, ⟨5, 1, .val 0, .w1c, false, none⟩, ⟨4, 1, .val 0, .w1c, false, none⟩, ⟨3, 1, .val 0, .w1c, false, none⟩, ⟨2, 1, .val 0, .w1c, false, none⟩, ⟨1, 1, .val 0, .w1c, false, none⟩, ⟨0, 1, .val 0, .w1c, false, none⟩]⟩,  -- LAD_c_l_SAT
  ⟨0x1e8, [(0x200, 3)], .lo, [⟨0, 32, .val 0, .ro, true, none⟩]⟩,  -- LAD_c_l_LAST_LO
  ⟨0x1ec, [(0x200, 3)], .hi, [⟨0, 32, .val 0, .ro, true, none⟩]⟩,  -- LAD_c_l_LAST_HI
  ⟨0x5f0, [], .none, [⟨0, 32, .val 0, .ro, true, none⟩]⟩,  -- LAD_c_PWR_FRAME
  ⟨0x600, [(0x20, 4)], .none, [⟨0, 32, .val 0, .rwi, false, none⟩]⟩,  -- LAD_c_PWR_KP
  ⟨0x604, [(0x20, 4)], .none, [⟨0, 5, .val 0, .rwi, false, none⟩]⟩,  -- LAD_c_PWR_KP_SHIFT
  ⟨0x608, [(0x20, 4)], .none, [⟨0, 32, .val 0, .rwi, false, none⟩]⟩,  -- LAD_c_PWR_KI
  ⟨0x60c, [(0x20, 4)], .none, [⟨0, 5, .val 0, .rwi, false, none⟩]⟩,  -- LAD_c_PWR_KI_SHIFT
  ⟨0x610, [(0x20, 4)], .none, [⟨0, 32, .val 0, .rwi, false, none⟩]⟩,  -- LAD_c_PWR_KD
  ⟨0x614, [(0x20, 4)], .none, [⟨0, 5, .val 0, .rwi, false, none⟩]⟩  -- LAD_c_PWR_KD_SHIFT
]

/-- Register map of LAD. -/
def ladRegs : List RegDesc := ladRegs0 ++ ladRegs1

/-- PF feedback channel n (R320), offsets from the channel base. -/
def pfRegs : List RegDesc := [
  ⟨0x0, [], .none, [⟨20, 3, .val 0, .rwi, false, none⟩, ⟨16, 2, .val 0, .rwi, false, some (0, 2)⟩, ⟨8, 4, .val 4, .rwi, false, none⟩, ⟨6, 1, .val 0, .rwi, false, none⟩, ⟨5, 1, .val 0, .rwi, false, none⟩, ⟨4, 1, .val 0, .rwi, false, none⟩, ⟨1, 1, .val 0, .rwi, false, none⟩, ⟨0, 1, .val 0, .rw, false, none⟩]⟩,  -- PF_n_CTL
  ⟨0x4, [], .none, [⟨9, 1, .val 0, .ro, true, none⟩, ⟨8, 1, .val 0, .w1c, false, none⟩, ⟨7, 1, .val 0, .w1c, false, none⟩, ⟨6, 1, .val 0, .w1c, false, none⟩, ⟨5, 1, .val 0, .w1c, false, none⟩, ⟨4, 1, .val 0, .w1c, false, none⟩, ⟨3, 1, .val 0, .ro, true, none⟩, ⟨2, 1, .val 0, .ro, true, none⟩, ⟨1, 1, .val 0, .ro, true, none⟩]⟩,  -- PF_n_STATUS
  ⟨0x8, [], .lo, [⟨0, 32, .val 0, .ro, true, none⟩]⟩,  -- PF_n_POS_LO
  ⟨0xc, [], .hi, [⟨0, 16, .val 0, .ro, true, none⟩]⟩,  -- PF_n_POS_HI
  ⟨0x10, [], .none, [⟨0, 32, .val 0, .ro, true, none⟩]⟩,  -- PF_n_SPEED
  ⟨0x14, [], .lo, [⟨0, 32, .val 0, .ro, true, none⟩]⟩,  -- PF_n_EDGE_T_LO
  ⟨0x18, [], .hi, [⟨0, 32, .val 0, .ro, true, none⟩]⟩,  -- PF_n_EDGE_T_HI
  ⟨0x20, [], .lo, [⟨0, 32, .val 0, .ro, true, none⟩]⟩,  -- PF_n_BEAT_POS_LO
  ⟨0x24, [], .hi, [⟨0, 16, .val 0, .ro, true, none⟩]⟩,  -- PF_n_BEAT_POS_HI
  ⟨0x28, [], .lo, [⟨0, 32, .val 0, .ro, true, none⟩]⟩,  -- PF_n_BEAT_T_LO
  ⟨0x2c, [], .hi, [⟨0, 32, .val 0, .ro, true, none⟩]⟩,  -- PF_n_BEAT_T_HI
  ⟨0x30, [], .none, [⟨0, 32, .val 0, .ro, true, none⟩]⟩,  -- PF_n_BEAT_SPEED
  ⟨0x40, [], .lo, [⟨0, 32, .val 0, .rwi, false, none⟩]⟩,  -- PF_n_PRESET_LO
  ⟨0x44, [], .hi, [⟨0, 16, .val 0, .rwi, false, none⟩]⟩,  -- PF_n_PRESET_HI
  ⟨0x48, [], .none, [⟨16, 16, .val 1000, .rwi, false, some (1, 65535)⟩, ⟨0, 3, .val 0, .rwi, false, none⟩]⟩,  -- PF_n_SPD_CTL
  ⟨0x50, [], .none, [⟨16, 16, .val 0, .rw, false, none⟩, ⟨2, 1, .val 0, .rw, false, none⟩, ⟨0, 1, .val 0, .rw, false, none⟩]⟩,  -- PF_n_IDX_CTL
  ⟨0x54, [], .none, [⟨0, 32, .val 0, .rw, false, none⟩]⟩,  -- PF_n_IDX_PER
  ⟨0x58, [], .lo, [⟨0, 32, .val 0, .rw, false, none⟩]⟩,  -- PF_n_IDX_REF_LO
  ⟨0x5c, [], .hi, [⟨0, 16, .val 0, .rw, false, none⟩]⟩,  -- PF_n_IDX_REF_HI
  ⟨0x60, [], .lo, [⟨0, 32, .val 0, .ro, true, none⟩]⟩,  -- PF_n_IDX_LAST_LO
  ⟨0x64, [], .hi, [⟨0, 16, .val 0, .ro, true, none⟩]⟩,  -- PF_n_IDX_LAST_HI
  ⟨0x68, [], .none, [⟨0, 32, .val 0, .ro, true, none⟩]⟩,  -- PF_n_IDX_DEV
  ⟨0x6c, [], .lo, [⟨0, 32, .val 0, .ro, true, none⟩]⟩,  -- PF_n_IDX_MISS_LO
  ⟨0x70, [], .hi, [⟨0, 16, .val 0, .ro, true, none⟩]⟩,  -- PF_n_IDX_MISS_HI
  ⟨0x74, [], .none, [⟨16, 16, .val 0, .ro, true, none⟩, ⟨0, 16, .val 0, .ro, true, none⟩]⟩,  -- PF_n_IDX_COUNT
  ⟨0x80, [], .lo, [⟨0, 32, .val 0, .ro, true, none⟩]⟩,  -- PF_n_CAP_POS_LO
  ⟨0x84, [], .hi, [⟨0, 16, .val 0, .ro, true, none⟩]⟩,  -- PF_n_CAP_POS_HI
  ⟨0x88, [], .lo, [⟨0, 32, .val 0, .ro, true, none⟩]⟩,  -- PF_n_CAP_T_LO
  ⟨0x8c, [], .hi, [⟨0, 32, .val 0, .ro, true, none⟩]⟩,  -- PF_n_CAP_T_HI
  ⟨0x90, [], .none, [⟨0, 32, .val 0, .ro, true, none⟩]⟩,  -- PF_n_CAP_COUNT
  ⟨0x94, [], .none, [⟨0, 32, .val 0, .ro, true, none⟩]⟩,  -- PF_n_EDGES
  ⟨0x98, [], .none, [⟨0, 32, .val 0, .ro, true, none⟩]⟩,  -- PF_n_COLLIDE
  ⟨0x9c, [], .none, [⟨0, 4, .val 0, .w1c, false, none⟩]⟩,  -- PF_n_STICKY
  ⟨0x100, [(0x20, 4)], .none, [⟨10, 1, .val 0, .ro, true, none⟩, ⟨9, 1, .val 0, .w1c, false, none⟩, ⟨8, 1, .val 0, .w1c, false, none⟩, ⟨4, 3, .val 0, .rw, false, some (0, 3)⟩, ⟨1, 2, .val 0, .rw, false, some (0, 2)⟩, ⟨0, 1, .val 0, .rw, false, none⟩]⟩,  -- PF_n_CMP_u_CTL
  ⟨0x104, [(0x20, 4)], .lo, [⟨0, 32, .val 0, .rw, false, none⟩]⟩,  -- PF_n_CMP_u_VAL_LO
  ⟨0x108, [(0x20, 4)], .hi, [⟨0, 16, .val 0, .rw, false, none⟩]⟩,  -- PF_n_CMP_u_VAL_HI
  ⟨0x10c, [(0x20, 4)], .lo, [⟨0, 32, .val 0, .ro, true, none⟩]⟩,  -- PF_n_CMP_u_FIRE_T_LO
  ⟨0x110, [(0x20, 4)], .hi, [⟨0, 32, .val 0, .ro, true, none⟩]⟩,  -- PF_n_CMP_u_FIRE_T_HI
  ⟨0x114, [(0x20, 4)], .none, [⟨0, 32, .val 0, .ro, true, none⟩]⟩  -- PF_n_CMP_u_COUNT
]

/-- PF encoder emulation (R320), offsets from the block base. -/
def pfEmuRegs : List RegDesc := [
  ⟨0x2000, [(0x40, 4)], .none, [⟨8, 2, .val 0, .rwi, false, some (0, 2)⟩, ⟨4, 3, .val 0, .rwi, false, none⟩, ⟨0, 1, .val 0, .rw, false, none⟩]⟩,  -- PF_EMU_k_CTL
  ⟨0x2004, [(0x40, 4)], .none, [⟨16, 16, .val 1, .rwi, false, some (1, 65535)⟩, ⟨0, 16, .val 1, .rwi, false, some (1, 65535)⟩]⟩,  -- PF_EMU_k_RATIO
  ⟨0x2008, [(0x40, 4)], .none, [⟨0, 14, .val 40, .rwi, false, some (40, 10000)⟩]⟩,  -- PF_EMU_k_SPACING
  ⟨0x200c, [(0x40, 4)], .none, [⟨0, 32, .val 4, .rwi, false, none⟩]⟩,  -- PF_EMU_k_ZPER
  ⟨0x2010, [(0x40, 4)], .none, [⟨0, 32, .val 0, .ro, true, none⟩]⟩,  -- PF_EMU_k_LAG
  ⟨0x2014, [(0x40, 4)], .none, [⟨1, 1, .val 0, .w1c, false, none⟩, ⟨0, 1, .val 0, .ro, true, none⟩]⟩,  -- PF_EMU_k_STATUS
  ⟨0x2018, [(0x40, 4)], .none, [⟨0, 32, .val 0, .ro, true, none⟩]⟩  -- PF_EMU_k_OUT
]

/-- Register map of AX, part 0 (11_recoat_and_build_axes.md). -/
def axRegs0 : List RegDesc := [
  ⟨0x0, [], .none, [⟨9, 1, .val 0, .rw, false, none⟩, ⟨4, 4, .val 6, .rwi, false, some (0, 8)⟩, ⟨1, 1, .val 0, .rwi, false, none⟩, ⟨0, 1, .val 0, .rw, false, none⟩]⟩,  -- AX_n_CTL
  ⟨0x4, [], .none, [⟨24, 8, .val 0, .ro, true, none⟩, ⟨15, 1, .val 0, .w1c, false, none⟩, ⟨14, 1, .val 0, .w1c, false, none⟩, ⟨13, 1, .val 0, .w1c, false, none⟩, ⟨12, 1, .val 0, .w1c, false, none⟩, ⟨11, 1, .val 0, .ro, true, none⟩, ⟨10, 1, .val 0, .ro, true, none⟩, ⟨9, 1, .val 0, .ro, true, none⟩, ⟨8, 1, .val 0, .ro, true, none⟩, ⟨0, 3, .val 0, .ro, true, none⟩]⟩,  -- AX_n_STATUS
  ⟨0x8, [], .lo, [⟨0, 32, .val 0, .ro, true, none⟩]⟩,  -- AX_n_POS_LO
  ⟨0xc, [], .hi, [⟨0, 32, .val 0, .ro, true, none⟩]⟩,  -- AX_n_POS_HI
  ⟨0x10, [], .lo, [⟨0, 32, .val 0, .ro, true, none⟩]⟩,  -- AX_n_TARGET_LO
  ⟨0x14, [], .hi, [⟨0, 32, .val 0, .ro, true, none⟩]⟩,  -- AX_n_TARGET_HI
  ⟨0x18, [], .none, [⟨0, 32, .val 0, .ro, true, none⟩]⟩,  -- AX_n_SPEED
  ⟨0x1c, [], .none, [⟨20, 10, .val 0, .ro, true, none⟩, ⟨10, 10, .val 0, .ro, true, none⟩, ⟨0, 10, .val 0, .ro, true, none⟩]⟩,  -- AX_n_PHASE
  ⟨0x20, [], .none, [⟨0, 32, .val 0, .rw, false, none⟩]⟩,  -- AX_n_PROF_V0
  ⟨0x24, [], .none, [⟨0, 32, .val 0, .rw, false, none⟩]⟩,  -- AX_n_PROF_V1
  ⟨0x28, [], .none, [⟨0, 32, .val 0, .rw, false, none⟩]⟩,  -- AX_n_PROF_VMAX
  ⟨0x2c, [], .none, [⟨0, 32, .val 0, .rw, false, none⟩]⟩,  -- AX_n_PROF_VE
  ⟨0x30, [], .none, [⟨0, 32, .val 0, .rw, false, some (1, 4294967295)⟩]⟩,  -- AX_n_PROF_A1
  ⟨0x34, [], .none, [⟨0, 32, .val 0, .rw, false, some (1, 4294967295)⟩]⟩,  -- AX_n_PROF_A2
  ⟨0x38, [], .none, [⟨0, 32, .val 0, .rw, false, some (1, 4294967295)⟩]⟩,  -- AX_n_PROF_D2
  ⟨0x3c, [], .none, [⟨0, 32, .val 0, .rw, false, some (1, 4294967295)⟩]⟩,  -- AX_n_PROF_D1
  ⟨0x40, [], .none, [⟨0, 32, .val 0, .rw, false, some (1, 4294967295)⟩]⟩,  -- AX_n_PROF_DEMG
  ⟨0x50, [], .lo, [⟨0, 32, .val 0, .ro, false, none⟩]⟩,  -- AX_n_ENV_MIN_LO
  ⟨0x54, [], .hi, [⟨0, 32, .val 0, .ro, false, none⟩]⟩,  -- AX_n_ENV_MIN_HI
  ⟨0x58, [], .lo, [⟨0, 32, .val 0, .ro, false, none⟩]⟩,  -- AX_n_ENV_MAX_LO
  ⟨0x5c, [], .hi, [⟨0, 32, .val 0, .ro, false, none⟩]⟩,  -- AX_n_ENV_MAX_HI
  ⟨0x60, [], .none, [⟨0, 32, .val 0, .ro, false, none⟩]⟩,  -- AX_n_ENV_VLIM
  ⟨0x64, [], .none, [⟨16, 10, .val 0, .ro, false, none⟩, ⟨0, 1, .val 0, .ro, false, none⟩]⟩,  -- AX_n_ENV_CTL
  ⟨0x70, [], .none, [⟨16, 3, .val 0, .rw, false, none⟩, ⟨8, 1, .val 0, .rw, false, none⟩, ⟨0, 3, .val 0, .ro, true, none⟩]⟩,  -- AX_n_HOME_CTL
  ⟨0x74, [], .none, [⟨0, 32, .val 0x3200, .rw, false, none⟩]⟩,  -- AX_n_HOME_VS
  ⟨0x78, [], .none, [⟨0, 32, .val 0x3200, .rw, false, none⟩]⟩,  -- AX_n_HOME_VC
  ⟨0x7c, [], .lo, [⟨0, 32, .val 0, .rw, false, none⟩]⟩,  -- AX_n_HOME_OFF_LO
  ⟨0x80, [], .hi, [⟨0, 32, .val 0, .rw, false, none⟩]⟩,  -- AX_n_HOME_OFF_HI
  ⟨0x88, [], .none, [⟨24, 8, .val 4, .rw, false, none⟩, ⟨16, 8, .val 16, .rw, false, none⟩, ⟨0, 16, .val 4000, .rw, false, none⟩]⟩,  -- AX_n_INP_CTL
  ⟨0x8c, [], .none, [⟨0, 3, .val 0, .rw, false, none⟩]⟩,  -- AX_n_INP_INV
  ⟨0x90, [], .none, [⟨4, 3, .val 0, .ro, true, none⟩, ⟨1, 1, .val 0, .ro, true, none⟩, ⟨0, 1, .val 0, .ro, true, none⟩]⟩,  -- AX_n_GEAR_CTL
  ⟨0x94, [], .none, [⟨0, 32, .val 0, .ro, true, none⟩]⟩,  -- AX_n_GEAR_NUM
  ⟨0x98, [], .none, [⟨0, 32, .val 0, .ro, true, none⟩]⟩,  -- AX_n_GEAR_DEN
  ⟨0x9c, [], .none, [⟨0, 32, .val 0, .ro, true, none⟩]⟩,  -- AX_n_GEAR_NEXT_NUM
  ⟨0xa0, [], .none, [⟨0, 32, .val 0, .ro, true, none⟩]⟩,  -- AX_n_GEAR_NEXT_DEN
  ⟨0xa4, [], .none, [⟨0, 32, .val 0, .rw, false, none⟩]⟩,  -- AX_n_GEAR_LAGMAX
  ⟨0xa8, [], .none, [⟨0, 32, .val 0, .ro, true, none⟩]⟩,  -- AX_n_GEAR_LAG
  ⟨0xac, [], .lo, [⟨0, 32, .val 0, .ro, true, none⟩]⟩,  -- AX_n_GEAR_M0_LO
  ⟨0xb0, [], .hi, [⟨0, 32, .val 0, .ro, true, none⟩]⟩,  -- AX_n_GEAR_M0_HI
  ⟨0xb4, [], .lo, [⟨0, 32, .val 0, .ro, true, none⟩]⟩  -- AX_n_GEAR_F0_LO
]

/-- Register map of AX, part 1 (11_recoat_and_build_axes.md). -/
def axRegs1 : List RegDesc := [
  ⟨0xb8, [], .hi, [⟨0, 32, .val 0, .ro, true, none⟩]⟩,  -- AX_n_GEAR_F0_HI
  ⟨0xc0, [], .none, [⟨24, 5, .val 8, .rw, false, some (0, 16)⟩, ⟨16, 6, .val 15, .rw, false, some (1, 63)⟩, ⟨8, 8, .val 50, .rw, false, some (1, 255)⟩, ⟨0, 8, .val 100, .rw, false, some (1, 255)⟩]⟩,  -- AX_n_CHOP
  ⟨0xc4, [], .none, [⟨16, 10, .val 0, .rw, false, none⟩, ⟨0, 10, .val 0, .rw, false, none⟩]⟩,  -- AX_n_CUR
  ⟨0xc8, [], .none, [⟨0, 16, .val 500, .rw, false, none⟩]⟩,  -- AX_n_HOLD_DLY
  ⟨0xd0, [], .none, [⟨0, 32, .val 0, .ro, true, none⟩]⟩,  -- AX_n_STEPS
  ⟨0xd4, [], .none, [⟨0, 32, .val 0, .ro, true, none⟩]⟩,  -- AX_n_TIMEOUTS
  ⟨0xd8, [], .none, [⟨0, 2, .val 0, .w1c, false, none⟩]⟩  -- AX_n_STICKY
]

/-- Register map of AX. -/
def axRegs : List RegDesc := axRegs0 ++ axRegs1

/-- Register map of KT, part 0 (12_kettle_array.md). -/
def ktRegs0 : List RegDesc := [
  ⟨0x0, [], .none, [⟨16, 4, .val 3, .rw, false, some (1, 15)⟩, ⟨8, 3, .val 2, .rwi, false, some (0, 4)⟩, ⟨4, 2, .val 0, .rwi, false, some (0, 2)⟩]⟩,  -- KT_CTL
  ⟨0x4, [], .none, [⟨16, 16, .val 96, .rwi, false, some (8, 65535)⟩, ⟨0, 8, .val 0, .rwi, false, none⟩]⟩,  -- KT_LINE
  ⟨0x8, [], .none, [⟨0, 32, .val 168, .ro, false, none⟩]⟩,  -- KT_LINE_BEATS
  ⟨0xc, [], .none, [⟨0, 32, .val 2028, .ro, false, none⟩]⟩,  -- KT_SHIFT_BEATS
  ⟨0x10, [], .none, [⟨0, 32, .val 0, .ro, true, none⟩]⟩,  -- KT_CHAINS
  ⟨0x14, [], .none, [⟨0, 32, .val 0, .ro, true, none⟩]⟩,  -- KT_FAULT
  ⟨0x18, [], .none, [⟨4, 3, .val 0, .ro, true, none⟩, ⟨3, 1, .val 0, .ro, true, none⟩, ⟨2, 1, .val 0, .ro, true, none⟩, ⟨1, 1, .val 0, .ro, true, none⟩, ⟨0, 1, .val 0, .ro, true, none⟩]⟩,  -- KT_STATUS
  ⟨0x20, [], .lo, [⟨6, 26, .val 0, .rwi, false, none⟩]⟩,  -- KT_BUF0_LO
  ⟨0x24, [], .hi, [⟨0, 4, .val 0, .rwi, false, none⟩]⟩,  -- KT_BUF0_HI
  ⟨0x28, [], .lo, [⟨6, 26, .val 0, .rwi, false, none⟩]⟩,  -- KT_BUF1_LO
  ⟨0x2c, [], .hi, [⟨0, 4, .val 0, .rwi, false, none⟩]⟩,  -- KT_BUF1_HI
  ⟨0x30, [], .none, [⟨0, 32, .val 0xf4240, .rw, false, some (1, 4294967295)⟩]⟩,  -- KT_RD_NOM
  ⟨0x34, [], .none, [⟨0, 16, .val 100, .rw, false, some (0, 1000)⟩]⟩,  -- KT_REFRESH
  ⟨0x38, [], .lo, [⟨0, 32, .val 0, .ro, true, none⟩]⟩,  -- KT_LATCH_LO
  ⟨0x3c, [], .hi, [⟨0, 32, .val 0, .ro, true, none⟩]⟩,  -- KT_LATCH_HI
  ⟨0x40, [], .lo, [⟨0, 32, .val 0, .ro, true, none⟩]⟩,  -- KT_NEXT_LO
  ⟨0x44, [], .hi, [⟨0, 32, .val 0, .ro, true, none⟩]⟩,  -- KT_NEXT_HI
  ⟨0x48, [], .none, [⟨16, 16, .val 0, .ro, false, none⟩, ⟨0, 8, .val 0, .ro, false, none⟩]⟩,  -- KT_ENV
  ⟨0x4c, [], .none, [⟨0, 16, .val 1600, .rw, false, none⟩]⟩,  -- KT_TEMP_ALARM
  ⟨0x50, [], .none, [⟨0, 32, .val 0, .ro, true, none⟩]⟩,  -- KT_FRAME_ID
  ⟨0x54, [], .none, [⟨0, 32, .val 0, .ro, true, none⟩]⟩,  -- KT_OPEN_TOTAL
  ⟨0x58, [], .none, [⟨0, 32, .val 0, .ro, true, none⟩]⟩,  -- KT_SHORT_TOTAL
  ⟨0x60, [], .none, [⟨0, 32, .val 0, .ro, true, none⟩]⟩,  -- KT_LATCHES
  ⟨0x64, [], .none, [⟨0, 32, .val 0, .ro, true, none⟩]⟩,  -- KT_LATE
  ⟨0x68, [], .none, [⟨0, 32, .val 0, .ro, true, none⟩]⟩,  -- KT_CLAMPS
  ⟨0x6c, [], .none, [⟨0, 32, .val 0, .ro, true, none⟩]⟩,  -- KT_CRC_FAIL
  ⟨0x70, [], .none, [⟨0, 32, .val 0, .ro, true, none⟩]⟩,  -- KT_LOOP_SKIP
  ⟨0x74, [], .none, [⟨0, 32, .val 0, .ro, true, none⟩]⟩,  -- KT_LOOP_RUNS
  ⟨0x78, [], .none, [⟨0, 6, .val 0, .w1c, false, none⟩]⟩,  -- KT_STICKY
  ⟨0x80, [], .none, [⟨8, 5, .val 0, .ro, true, none⟩, ⟨0, 1, .val 0, .ro, true, none⟩]⟩,  -- KT_LOOP_CTL
  ⟨0x84, [], .lo, [⟨6, 26, .val 0, .ro, true, none⟩]⟩,  -- KT_LOOP_MAP_LO
  ⟨0x88, [], .hi, [⟨0, 4, .val 0, .ro, true, none⟩]⟩,  -- KT_LOOP_MAP_HI
  ⟨0x1000, [(0x40, 32)], .none, [⟨0, 4, .val 4, .rw, false, none⟩]⟩,  -- KT_CH_c_CTL
  ⟨0x1004, [(0x40, 32)], .none, [⟨4, 4, .val 0, .ro, true, none⟩, ⟨1, 1, .val 0, .ro, true, none⟩, ⟨0, 1, .val 0, .ro, true, none⟩]⟩,  -- KT_CH_c_STATUS
  ⟨0x1008, [(0x40, 32)], .none, [⟨0, 32, .val 0, .ro, true, none⟩]⟩,  -- KT_CH_c_BAD
  ⟨0x100c, [(0x40, 32)], .none, [⟨0, 32, .val 0, .ro, true, none⟩]⟩,  -- KT_CH_c_DOWNERR
  ⟨0x1010, [(0x40, 32)], .none, [⟨0, 2, .val 0, .w1c, false, none⟩]⟩,  -- KT_CH_c_STICKY
  ⟨0x4000, [(0x8, 1024)], .none, [⟨0, 32, .val 0, .ro, true, none⟩]⟩,  -- KT_TILE_t_STAT
  ⟨0x4004, [(0x8, 1024)], .none, [⟨0, 32, .val 0, .ro, true, none⟩]⟩,  -- KT_TILE_t_EMIT
  ⟨0x10000, [(0x40, 1024), (0x4, 8)], .none, [⟨0, 32, .val 0, .ro, false, none⟩]⟩  -- KT_TILE_t_OPEN_w
]

/-- Register map of KT, part 1 (12_kettle_array.md). -/
def ktRegs1 : List RegDesc := [
  ⟨0x10020, [(0x40, 1024), (0x4, 8)], .none, [⟨0, 32, .val 0, .ro, false, none⟩]⟩  -- KT_TILE_t_SHORT_w
]

/-- Register map of KT. -/
def ktRegs : List RegDesc := ktRegs0 ++ ktRegs1

/-- Register map of DMC (13_dram_and_memory_sluice.md). -/
def dmcRegs : List RegDesc := [
  ⟨0x0, [], .none, [⟨8, 3, .val 4, .rwi, false, some (0, 4)⟩, ⟨4, 1, .val 0, .rwi, false, none⟩, ⟨0, 2, .val 0, .rwi, false, some (0, 2)⟩]⟩,  -- DMC_n_CFG
  ⟨0x4, [], .none, [⟨2, 1, .val 1, .rw, false, none⟩, ⟨0, 1, .val 0, .wo, false, none⟩]⟩,  -- DMC_n_CTL
  ⟨0x8, [], .none, [⟨16, 8, .val 255, .ro, true, none⟩, ⟨8, 4, .val 0, .ro, true, none⟩, ⟨0, 3, .val 0, .ro, true, none⟩]⟩,  -- DMC_n_STATUS
  ⟨0xc, [], .none, [⟨16, 16, .val 16, .rw, false, none⟩, ⟨8, 8, .val 48, .rw, false, none⟩, ⟨0, 8, .val 16, .rw, false, none⟩]⟩,  -- DMC_n_WEIR
  ⟨0x10, [], .none, [⟨16, 1, .val 0, .ro, true, none⟩, ⟨8, 8, .val 0, .ro, true, none⟩, ⟨0, 6, .val 0, .ro, true, none⟩]⟩,  -- DMC_n_QUEUE
  ⟨0x14, [], .none, [⟨16, 2, .val 1, .rwi, false, some (1, 2)⟩, ⟨0, 16, .val 0x1000, .rwi, false, some (256, 65535)⟩]⟩,  -- DMC_n_ACT
  ⟨0x18, [], .none, [⟨0, 16, .val 1000, .rw, false, some (100, 65535)⟩]⟩,  -- DMC_n_RETRAIN
  ⟨0x1c, [], .none, [⟨0, 1, .val 0, .ro, true, none⟩]⟩,  -- DMC_n_TEMP
  ⟨0x20, [], .none, [⟨0, 32, .val 0, .ro, true, none⟩]⟩,  -- DMC_n_CE
  ⟨0x24, [], .none, [⟨0, 32, .val 0, .ro, true, none⟩]⟩,  -- DMC_n_NRR
  ⟨0x28, [], .none, [⟨0, 32, .val 0, .ro, true, none⟩]⟩,  -- DMC_n_RETRAINS
  ⟨0x2c, [], .none, [⟨0, 3, .val 0, .w1c, false, none⟩]⟩,  -- DMC_n_STICKY
  ⟨0x30, [], .lo, [⟨0, 32, .val 0, .ro, true, none⟩]⟩,  -- DMC_n_CE_ADDR_LO
  ⟨0x34, [], .hi, [⟨0, 3, .val 0, .ro, true, none⟩]⟩,  -- DMC_n_CE_ADDR_HI
  ⟨0x38, [], .none, [⟨0, 8, .val 0, .ro, true, none⟩]⟩,  -- DMC_n_CE_DEV
  ⟨0x40, [], .lo, [⟨0, 32, .val 0, .ro, true, none⟩]⟩,  -- DMC_n_ERR_ADDR_LO
  ⟨0x44, [], .hi, [⟨0, 3, .val 0, .ro, true, none⟩]⟩,  -- DMC_n_ERR_ADDR_HI
  ⟨0x48, [(0x4, 4)], .none, [⟨0, 32, .val 0, .ro, true, none⟩]⟩,  -- DMC_n_ERR_SYN_k
  ⟨0x58, [], .none, [⟨24, 4, .val 0, .ro, true, none⟩, ⟨16, 5, .val 0, .ro, true, none⟩, ⟨12, 1, .val 0, .ro, true, none⟩, ⟨8, 1, .val 0, .ro, true, none⟩, ⟨0, 2, .val 0, .ro, true, none⟩]⟩,  -- DMC_n_ERR_CMD
  ⟨0x5c, [], .lo, [⟨0, 32, .val 0, .ro, true, none⟩]⟩,  -- DMC_n_ERR_BEAT_LO
  ⟨0x60, [], .hi, [⟨0, 32, .val 0, .ro, true, none⟩]⟩  -- DMC_n_ERR_BEAT_HI
]

/-- Register map of DMA (14_dma.md). -/
def dmaRegs : List RegDesc := [
  ⟨0x0, [], .none, [⟨0, 32, .val 0, .ro, true, none⟩]⟩,  -- DMA_BUSY_0
  ⟨0x4, [], .none, [⟨0, 32, .val 0, .ro, true, none⟩]⟩,  -- DMA_BUSY_1
  ⟨0x8, [], .none, [⟨16, 7, .val 0, .ro, true, none⟩, ⟨0, 13, .val 0, .ro, true, none⟩]⟩,  -- DMA_INFLIGHT
  ⟨0x1000, [(0x100, 64)], .none, [⟨24, 4, .val 3, .rwi, false, none⟩, ⟨16, 8, .val 4, .rwi, false, some (1, 255)⟩, ⟨8, 5, .val 0, .rwi, false, some (0, 16)⟩, ⟨4, 2, .val 0, .rwi, false, none⟩, ⟨1, 1, .val 0, .wo, false, none⟩, ⟨0, 1, .val 0, .wo, false, none⟩]⟩,  -- DMA_n_CTL
  ⟨0x1004, [(0x100, 64)], .none, [⟨24, 8, .val 0, .ro, true, none⟩, ⟨16, 8, .val 0, .ro, true, none⟩, ⟨8, 4, .val 0, .ro, true, none⟩, ⟨4, 1, .val 0, .ro, true, none⟩, ⟨0, 3, .val 0, .ro, true, none⟩]⟩,  -- DMA_n_STATUS
  ⟨0x1008, [(0x100, 64)], .lo, [⟨6, 26, .val 0, .rwi, false, none⟩]⟩,  -- DMA_n_DESC_LO
  ⟨0x100c, [(0x100, 64)], .hi, [⟨0, 4, .val 0, .rwi, false, none⟩]⟩,  -- DMA_n_DESC_HI
  ⟨0x1010, [(0x100, 64)], .lo, [⟨0, 32, .val 0, .ro, true, none⟩]⟩,  -- DMA_n_CUR_LO
  ⟨0x1014, [(0x100, 64)], .hi, [⟨0, 4, .val 0, .ro, true, none⟩]⟩,  -- DMA_n_CUR_HI
  ⟨0x1018, [(0x100, 64)], .lo, [⟨6, 26, .val 0, .rwi, false, none⟩]⟩,  -- DMA_n_WIN_BASE_LO
  ⟨0x101c, [(0x100, 64)], .hi, [⟨0, 4, .val 0, .rwi, false, none⟩]⟩,  -- DMA_n_WIN_BASE_HI
  ⟨0x1020, [(0x100, 64)], .lo, [⟨6, 26, .val 0, .rwi, false, none⟩]⟩,  -- DMA_n_WIN_LEN_LO
  ⟨0x1024, [(0x100, 64)], .hi, [⟨0, 5, .val 0, .rwi, false, none⟩]⟩,  -- DMA_n_WIN_LEN_HI
  ⟨0x1028, [(0x100, 64)], .lo, [⟨0, 32, .val 0, .ro, true, none⟩]⟩,  -- DMA_n_ERR_ADDR_LO
  ⟨0x102c, [(0x100, 64)], .hi, [⟨0, 4, .val 0, .ro, true, none⟩]⟩,  -- DMA_n_ERR_ADDR_HI
  ⟨0x1030, [(0x100, 64)], .none, [⟨16, 16, .val 0, .ro, true, none⟩, ⟨0, 16, .val 0, .ro, true, none⟩]⟩,  -- DMA_n_POS01
  ⟨0x1034, [(0x100, 64)], .none, [⟨0, 24, .val 0, .ro, true, none⟩]⟩,  -- DMA_n_POS2
  ⟨0x1038, [(0x100, 64)], .lo, [⟨0, 32, .val 0, .ro, true, none⟩]⟩,  -- DMA_n_DONE_BYTES_LO
  ⟨0x103c, [(0x100, 64)], .hi, [⟨0, 32, .val 0, .ro, true, none⟩]⟩,  -- DMA_n_DONE_BYTES_HI
  ⟨0x1040, [(0x100, 64)], .none, [⟨0, 32, .val 0, .ro, true, none⟩]⟩  -- DMA_n_DESCS
]

/-- Register map of GIO (18_resets_domains_faults.md). -/
def gioRegs : List RegDesc := [
  ⟨0x0, [], .none, [⟨0, 1, .val 0, .rw, false, none⟩]⟩,  -- GIO_CTL
  ⟨0x4, [], .none, [⟨9, 1, .val 0, .w1c, false, none⟩, ⟨8, 1, .val 0, .w1c, false, none⟩, ⟨3, 1, .val 0, .ro, true, none⟩, ⟨2, 1, .val 0, .ro, true, none⟩, ⟨1, 1, .val 0, .ro, true, none⟩, ⟨0, 1, .val 0, .ro, true, none⟩]⟩,  -- GIO_STATUS
  ⟨0x8, [], .none, [⟨0, 16, .val 0, .ro, true, none⟩]⟩,  -- GIO_IN
  ⟨0xc, [], .none, [⟨0, 16, .val 0, .rw, false, none⟩]⟩,  -- GIO_OUT
  ⟨0x10, [], .none, [⟨0, 16, .val 0, .ro, true, none⟩]⟩,  -- GIO_OUT_LEVEL
  ⟨0x14, [], .none, [⟨0, 16, .val 0, .ro, true, none⟩]⟩,  -- GIO_OUT_OWNER
  ⟨0x18, [], .none, [⟨0, 32, .val 0, .ro, true, none⟩]⟩,  -- GIO_QA_COUNT
  ⟨0x1c, [], .none, [⟨0, 32, .val 0, .ro, true, none⟩]⟩,  -- GIO_QB_COUNT
  ⟨0x20, [], .none, [⟨0, 2, .val 0, .w1c, false, none⟩]⟩  -- GIO_STICKY
]

end Sys2Proof.Machine
end

