-- ==== Sys2Proof/Machine/Fabric.lean ====
section
/-! DEFINITION. Reads on the register fabric (00_scope.md, R9–R11, R557; 01_architecture.md, R24–R36): which register
answers to an address, in which domain, what its fields read, and what a read captures or clears. -/

namespace Sys2Proof.Machine

open Sys2Proof

/-! ### The address map (R33) -/

/-- The blocks of the address map; `sv` is SVA and SVB, `emu` the encoder emulation of PF, `gap` the addresses of a
block's range beyond its last instance. -/
inductive Blk
  | top | pwr | thm | cal | snp | crk | sec | mgt | bt | ptp | net | hg | fur | slb | slm | glk | sv | fx | lad | pf | emu
  | ax | kt | dmc | dma | gio | gap
  deriving DecidableEq, Repr

/-- A row of the address map: base, end, block, instances, instance offset. -/
structure MapRow where
  base : Nat
  fin : Nat
  blk : Blk
  count : Nat
  stride : Nat

/-- The address map below the table windows. -/
def addrMap : List MapRow := [
  ⟨0x000000, 0x010000, .top, 1, 0x10000⟩, ⟨0x010000, 0x020000, .pwr, 1, 0x10000⟩,
  ⟨0x020000, 0x030000, .thm, 1, 0x10000⟩, ⟨0x030000, 0x040000, .cal, 1, 0x10000⟩,
  ⟨0x040000, 0x050000, .snp, 1, 0x10000⟩, ⟨0x050000, 0x060000, .crk, 1, 0x10000⟩,
  ⟨0x060000, 0x070000, .sec, 1, 0x10000⟩, ⟨0x070000, 0x080000, .mgt, 1, 0x10000⟩,
  ⟨0x080000, 0x090000, .bt, 1, 0x10000⟩, ⟨0x090000, 0x0A0000, .ptp, 1, 0x10000⟩,
  ⟨0x0A0000, 0x0B0000, .net, 2, 0x8000⟩, ⟨0x0B0000, 0x0C0000, .hg, 1, 0x10000⟩,
  ⟨0x100000, 0x120000, .fur, 24, 0x1000⟩, ⟨0x120000, 0x130000, .slb, 1, 0x10000⟩,
  ⟨0x130000, 0x140000, .slm, 1, 0x10000⟩, ⟨0x140000, 0x180000, .glk, 52, 0x400⟩,
  ⟨0x180000, 0x1C0000, .sv, 2, 0x20000⟩, ⟨0x1C0000, 0x200000, .fx, 24, 0x200⟩,
  ⟨0x200000, 0x240000, .lad, 24, 0x2000⟩, ⟨0x240000, 0x242000, .pf, 8, 0x400⟩,
  ⟨0x242000, 0x250000, .emu, 1, 0xE000⟩, ⟨0x250000, 0x260000, .ax, 8, 0x800⟩,
  ⟨0x260000, 0x280000, .kt, 1, 0x20000⟩, ⟨0x280000, 0x290000, .dmc, 2, 0x8000⟩,
  ⟨0x290000, 0x2A0000, .dma, 1, 0x10000⟩, ⟨0x2A0000, 0x2B0000, .gio, 1, 0x10000⟩]

/-- A place in the register space: block, instance, offset in the instance. -/
structure Place where
  blk : Blk
  inst : Nat
  off : Nat
  deriving DecidableEq, Repr

/-- The place of an address below the table windows; none in a reserved range. -/
def placeOf (a : Nat) : Option Place :=
  (addrMap.find? fun r => decide (r.base ≤ a) && decide (a < r.fin)).map fun r =>
    let i := (a - r.base) / r.stride
    if i < r.count then ⟨r.blk, i, (a - r.base) % r.stride⟩ else ⟨.gap, 0, a⟩

/-- The registers of a block. -/
def Blk.regs : Blk → List RegDesc
  | .top => topRegs | .pwr => pwrRegs | .thm => thmRegs | .cal => calRegs | .snp => snpRegs | .crk => crkRegs
  | .sec => secRegs | .mgt => mgtRegs | .bt => btRegs | .ptp => ptpRegs | .net => netRegs | .hg => hgRegs
  | .fur => furRegs | .slb => slbRegs | .slm => slmRegs | .glk => glkRegs | .sv => svaRegs | .fx => fxRegs
  | .lad => ladRegs | .pf => pfRegs | .emu => pfEmuRegs.map fun r => { r with off := r.off - 0x2000 }
  | .ax => axRegs | .kt => ktRegs | .dmc => dmcRegs | .dma => dmaRegs | .gio => gioRegs | .gap => []

/-- The power domain of a place (R31). The time pulses and captures of PTP belong to PD_AON with the beat and time base. The
addresses beyond the last instance belong to their block's domain; those of FUR, GLK and LAD, whose instances lie in several
domains, to PD_FABRIC (DESIGN CHOICE, log entry 62). -/
def Place.dom (p : Place) : Nat :=
  match p.blk with
  | .fur | .lad => chanDom p.inst
  | .glk => laneDom p.inst
  | .sv => sieveDom p.inst
  | .fx | .slb | .slm | .cal | .dma => pdFABRIC
  | .gap => if 0x250000 ≤ p.off ∧ p.off < 0x260000 then pdMOTION else pdFABRIC
  | .pf | .emu | .ax => pdMOTION
  | .kt => pdKETTLE
  | .dmc => pdDRAM
  | .ptp => if 0x100 ≤ p.off ∧ p.off < 0x300 then pdAON else pdNET
  | .net | .hg => pdNET
  | _ => pdAON

/-- Whether an offset exists on an instance where its map says that some instances lack it (R213, R252). -/
def Place.there (p : Place) : Bool :=
  match p.blk with
  | .glk =>
    let n := p.inst
    let o := p.off / 4 * 4
    if (0xC ≤ o ∧ o ≤ 0x1C) ∨ (0x84 ≤ o ∧ o ≤ 0x90) then decide (48 ≤ n) || decide (n % 2 = 1)
    else if o = 0x20 ∨ o = 0x24 ∨ (0x40 ≤ o ∧ o ≤ 0x4C) then decide (n < 48) && decide (n % 2 = 0)
    else if o = 0x30 ∨ o = 0x34 then decide (n < 48) && decide (n % 2 = 1)
    else true
  | .sv =>
    if p.off < 0x10000 ∨ 0x20000 ≤ p.off then true
    else
      let kind := Reg.ctxKindCode ((p.off - 0x10000) / 0x800)
      let o := p.off % 0x800 / 4 * 4
      if o = 0x10 then decide (kind ≠ 1)
      else if 0x80 ≤ o ∧ o ≤ 0x90 then decide (kind = 0)
      else if 0xA0 ≤ o ∧ o ≤ 0xAC then decide (kind = 1)
      else if 0xB0 ≤ o ∧ o ≤ 0xB8 then decide (kind = 2)
      else true
  | _ => true

/-- The inner indices at which a register with the given strides and counts lies `d` bytes after its first. -/
def matchDims : List (Nat × Nat) → Nat → Option (List Nat)
  | [], d => if d = 0 then some [] else none
  | (s, n) :: t, d => if d / s < n then (matchDims t (d % s)).map fun l => d / s :: l else none

/-- A register that answers to an address: its description, its inner indices. -/
structure Hit where
  addr : Nat
  p : Place
  r : RegDesc
  idx : List Nat
  deriving DecidableEq, Repr

/-- The register at a place. -/
def Place.find (p : Place) : Option (RegDesc × List Nat) :=
  p.blk.regs.findSome? fun r => if r.off ≤ p.off then (matchDims r.dims (p.off - r.off)).map fun l => (r, l) else none

/-- What answers to an address: a response that ends the access, a reserved register, or a register. -/
inductive Route
  | stop (r : Resp)
  | reserved
  | reg (h : Hit)
  deriving DecidableEq, Repr

/-- Which register answers to an address, or with what the access ends (R26, R27, R32, R33). A misaligned access to a domain
that is off ends with TARGET_OFF: no rule orders R27 and R32 (DESIGN CHOICE, log entry 62). -/
def Chip.route (c : Chip) (a : Nat) : Route :=
  match placeOf a with
  | none => .stop .decodeErr
  | some p =>
    if !p.there then .stop .decodeErr
    else if !c.on p.dom then .stop .targetOff
    else if a % 4 ≠ 0 then .stop .slaveErr
    else match p.find with
      | none => .reserved
      | some (r, l) => .reg ⟨a, p, r, l⟩

/-- A field of a register. -/
def Hit.fld (h : Hit) (f : FieldDesc) : Fld :=
  ⟨h.addr, f.lo, f.w, match f.rst with
    | .val v => v
    | .ctxKind => Reg.ctxKindCode (h.idx.getD 0 0)⟩

/-- The other half of a pair, 4 bytes on from _LO (R28). -/
def Hit.high (h : Hit) : Option Hit :=
  let p : Place := { h.p with off := h.p.off + 4 }
  p.find.map fun x => ⟨h.addr + 4, p, x.1, x.2⟩

/-! ### Fields that show other state -/

/-- The last FCLK cycle of the present beat (R38, R65). -/
def Chip.lastCycle (c : Chip) : Nat :=
  match c.sys.net.servo.step with
  | some (b, d, _, _) => if b = c.now then 249 + d else 249
  | none => 249

/-- BT in an FCLK cycle (R41, R65, R554). A second that opened before beat 0 on the new time line gives a negative number, which
the 64-bit register shows in two's complement (DESIGN CHOICE, log entry 62). -/
def viewBt (cycle : Nat) (c : Chip) : Chip :=
  let t := c.time (min cycle c.lastCycle)
  let e := c.fix.epoch
  let o := c.timeOf c.now
  wr2 Reg.BT_BEAT_LO_beat Reg.BT_BEAT_HI_beat c.now c
    |> wr2 Reg.BT_SEC_BEAT_LO_sec_beat Reg.BT_SEC_BEAT_HI_sec_beat (ofS 64 (c.now - o % giga / 250))
    |> wr Reg.BT_TIME_NS_ns (nsOf t) |> wr2 Reg.BT_TIME_SEC_LO_sec Reg.BT_TIME_SEC_HI_sec (secsOf t)
    |> wr Reg.BT_EPOCH_NS_epoch (nsOf e) |> wr2 Reg.BT_EPOCH_SEC_LO_epoch Reg.BT_EPOCH_SEC_HI_epoch (secsOf e)
    |> wr Reg.BT_PHASE_cycle (min cycle c.lastCycle)

/-- The age of each session's last packet, in ms (R472). -/
def viewSec (c : Chip) : Chip :=
  forEach (List.range 8) (fun k c =>
    wr (Reg.SEC_SLOT_IDLE_value k)
      (if c.rd (Reg.SEC_SLOT_STATE_state k) = 0 then 0 else satU 32 ((c.now - (c.session k).last) / 4000)) c) c

/-- The sources of ALARM_n (R471); events have been dropped when CRK_DROPPED says so (DEDUCED, log entry 45). -/
def viewAlarm (c : Chip) : Chip :=
  let l := [c.flag Reg.CRK_STATUS_full, c.dramState 0 == 4 || c.dramState 1 == 4,
    (List.range 24).any fun ch => c.rd (Reg.FUR_STATE_state ch) == 7, c.rd Reg.BT_STATUS_time_state == 3,
    c.sys.mgt.running.any fun i => i.kind == 1, c.rd Reg.CRK_DROPPED_count != 0]
  wr Reg.MGT_ALARM_STATUS_src (maskOf ((List.range 6).filter fun k => l.getD k false)) c

/-- Whether ALARM_n is asserted (R446, R467, R471): an enabled source, logmem_fail, or OTP_FAIL. -/
def Chip.alarm (c : Chip) : Bool :=
  ((viewAlarm c).rd Reg.MGT_ALARM_STATUS_src &&& c.rd Reg.MGT_ALARM_EN_src) != 0 ||
    c.flag Reg.CRK_STATUS_logmem_fail || c.rd Reg.MGT_BOOT_STATUS_state == 1

/-- Which Sieve each context is bound to (R215). -/
def viewSieve (v : Nat) (c : Chip) : Chip :=
  forEach (List.range 32) (fun n c => wrB (Reg.SVX_STATUS_bound v n) (c.svOf n == v) c) c

/-- The view of one master (R490). -/
def viewSnp (m : Master) (c : Chip) : Chip := wrB Reg.SNP_VIEW_on (c.sys.snp.views.contains m) c

/-- The fields of a block that show other state, as a master reads them in an FCLK cycle. -/
def refresh (b : Blk) (m : Master) (cycle : Nat) (c : Chip) : Chip :=
  match b with
  | .bt => viewBt cycle c
  | .sec => viewSec c
  | .hg => wr Reg.HG_STATUS_queue c.host.hg.queue.length c
  | .mgt => viewAlarm c
  | .snp => viewSnp m c
  | .dmc => forEach [0, 1] dramShow c
  | .sv => viewSieve 1 (viewSieve 0 c)
  | _ => c

/-- Whether a field is a status field of a context in the Sieve it is not bound to: it reads 0 there (R215). -/
def Chip.unbound (c : Chip) (h : Hit) (f : FieldDesc) : Bool :=
  let o := h.p.off % 0x800
  h.p.blk == .sv && decide (0x10000 ≤ h.p.off) && (f.ty == .ro || f.ty == .w1c) && c.svOf (h.idx.getD 0 0) != h.p.inst &&
    ((decide (0x40 ≤ o) && decide (o < 0x64)) || (decide (0x88 ≤ o) && decide (o < 0x94)) ||
      (decide (0xC0 ≤ o) && decide (o < 0xCC)) || (decide (0x100 ≤ o) && decide (0xC ≤ o % 0x20)) || decide (0x400 ≤ o))

/-! ### Words -/

/-- Whether a master reads snapshot copies (R490). -/
def Chip.viewing (c : Chip) (m : Master) : Bool := c.sys.snp.views.contains m

/-- A +S field as a master sees it: the copy in its snapshot view (R490). -/
def Chip.shownTo (c : Chip) (m : Master) (x : Fld) : Nat :=
  if c.viewing m then (assocGet x.key c.sys.snp.copies).getD x.rst else c.rd x

/-- The value of one field for a master: 0 for a write-only field, the copy for a +S field in its snapshot view, else the
live value. -/
def Chip.fieldOf (c : Chip) (m : Master) (h : Hit) (f : FieldDesc) : Nat :=
  let x := h.fld f
  if f.ty == .wo then 0
  else if f.snap && c.viewing m then c.shownTo m x
  else if c.unbound h f then 0
  else c.rd x

/-- A register's word; the 16-bit upper halves of PF read sign-extended (R320). -/
def Chip.wordOf (c : Chip) (m : Master) (h : Hit) : Nat :=
  let v := h.r.fields.foldl (fun a f => a + c.fieldOf m h f * 2 ^ f.lo) 0
  let ext : Bool := (h.p.blk == .pf && h.r.pair == .hi && h.r.fields.all fun f => f.w == 16) || (h.p.blk == .ax && h.p.off == 0x80)
  if ext then ofS 32 (toS 16 v) else v

/-- Whether a snapshot view lacks a register's copy: its domain was off at the latch (R488). -/
def Chip.noCopy (c : Chip) (m : Master) (h : Hit) : Bool :=
  c.viewing m && (h.r.fields.any fun f => f.snap) && !bit (c.rd Reg.SNP_DOMAINS_on) h.p.dom

/-! ### Holding copies (R28, R557, R262, R65) -/

/-- A holding copy. -/
def Chip.heldCopy (c : Chip) (m : Master) (k : Nat) : Option Nat :=
  (c.hold.find? fun x => x.1 == m && x.2.1 == k).map fun x => x.2.2

/-- A holding copy is dropped. -/
def holdDrop (m : Master) (k : Nat) (c : Chip) : Chip :=
  { c with hold := c.hold.filter fun x => !(x.1 == m && x.2.1 == k) }

/-- A holding copy is made. -/
def holdPut (m : Master) (k v : Nat) (c : Chip) : Chip :=
  let c := holdDrop m k c
  { c with hold := c.hold ++ [(m, k, v)] }

/-- The seconds registers of BT_TIME_NS and BT_EPOCH_NS. -/
def secOf (a : Nat) : Option Nat := if a = 0x80018 ∨ a = 0x80024 then some (a + 4) else none

/-- The words FX_n_SEQ to FX_n_DELIV_HI (R262). -/
def fxHeld (p : Place) : Bool := p.blk == .fx && decide (0x40 ≤ p.off) && decide (p.off < 0x70)

/-- A word as it stands for a master: from its capture of the frame's results where it has one (R262). -/
def Chip.freshWord (c : Chip) (m : Master) (h : Hit) : Nat :=
  match (if fxHeld h.p && h.p.off ≠ 0x40 then c.fxHold.find? fun x => x.1 == m && x.2.1 == h.p.inst else none) with
  | some x => (assocGet h.addr x.2.2).getD 0
  | none => c.wordOf m h

/-- A word as a master reads it, from its holding copies where it has them. -/
def Chip.readWord (c : Chip) (m : Master) (h : Hit) : Nat :=
  (c.heldCopy m (if h.r.pair == .hi then h.addr - 4 else h.addr + 2)).getD (c.freshWord m h)

/-- The words that a read of FX_n_SEQ captures. -/
def Chip.fxWords (c : Chip) (m : Master) (h : Hit) : Store :=
  (List.range 12).filterMap fun k =>
    let p : Place := { h.p with off := 0x40 + 4 * k }
    p.find.map fun x => (h.addr + 4 * k, c.wordOf m ⟨h.addr + 4 * k, p, x.1, x.2⟩)

/-- A read of FX_n_SEQ captures the frame's results for its master. -/
def fxCapture (m : Master) (n : Nat) (l : Store) (c : Chip) : Chip :=
  { c with fxHold := (c.fxHold.filter fun x => !(x.1 == m && x.2.1 == n)) ++ [(m, n, l)] }

/-- What a read of a register changes; `d`: the device with the fields that show other state brought up to date. -/
def readEffect (m : Master) (h : Hit) (d : Chip) (c : Chip) : Chip :=
  let c := when (h.p.blk == .fx && h.p.off == 0x40) (fxCapture m h.p.inst (d.fxWords m h)) c
  let c := match h.r.pair with
    | .lo =>
      match c.heldCopy m (h.addr + 2) with
      | some _ => holdDrop m (h.addr + 2) c
      | none =>
        match h.high with
        | some g => holdPut m h.addr (d.freshWord m g) c
        | none => c
    | .hi => holdDrop m (h.addr - 4) c
    | .none => c
  let c := match secOf h.addr with
    | some a =>
      let t := if h.addr = 0x80018 then d.shownTo m Reg.BT_TIME_SEC_LO_sec + d.shownTo m Reg.BT_TIME_SEC_HI_sec * 2 ^ 32
        else d.rd2 Reg.BT_EPOCH_SEC_LO_epoch Reg.BT_EPOCH_SEC_HI_epoch
      holdPut m (a + 2) (t % 2 ^ 32) c |> holdPut m a (t / 2 ^ 32)
    | none => c
  let c := forEach h.r.fields (fun f c => when (f.ty == .rc) (wr (h.fld f) (h.fld f).rst) c) c
  when (h.p.blk == .pf && h.p.off == 0x80) (wr (Reg.PF_STATUS_cap_pending h.p.inst) 0) c

/-- Whether the locked SPI port refuses an access (R456). -/
def Chip.spiBars (c : Chip) (a : Nat) (write : Bool) : Bool :=
  c.flag Reg.MGT_SPI_CTL_lock &&
    !(if write then a == 0x10024 && !c.on pdNET else decide (a < 0x20000))

/-- Whether a register is maker-only (R34, R213): GLK_n_TEST. -/
def makerOnly (a : Nat) : Bool :=
  match placeOf a with
  | some p => p.blk == .glk && decide (p.off / 4 * 4 = 0x80)
  | none => false

/-- A read on the register fabric in an FCLK cycle: response and data (R26). -/
def busRead (m : Master) (a cycle : Nat) (c : Chip) : Resp × Nat × Chip :=
  if m = .spi ∧ (c.spiBars a false || makerOnly a) then (.slaveErr, 0, c)
  else if 0x1000000 ≤ a then
    let r := winRead a c
    (r.1, r.2, c)
  else if m = .dma then (.decodeErr, 0, c)
  else
    match c.route a with
    | .stop r => (r, 0, c)
    | .reserved => (.ok, 0, c)
    | .reg h =>
      if c.noCopy m h then (.targetOff, 0, c)
      else
        let d := refresh h.p.blk m cycle c
        (.ok, d.readWord m h, readEffect m h d c)

/-- An access completes in an FCLK cycle that the command does not name: a free value (R65; DESIGN CHOICE, log entry 7). -/
def freeCycle (c : Chip) : Nat × Chip :=
  let (k, c) := draw c
  (Config.measured k % (c.lastCycle + 1), c)

end Sys2Proof.Machine
end

