-- ==== Sys2Proof/Machine/RegWrite.lean ====
section
/-! DEFINITION. Writes on the register fabric (00_scope.md, R9–R12, R553, R557; 01_architecture.md, R24–R37): the order of
checks, the effect by field type, and what a written value starts. -/

namespace Sys2Proof.Machine

open Sys2Proof

/-! ### Steps 2 and 3 of R553 -/

/-- The context of a Sieve or FX register. -/
def Hit.ctx (h : Hit) : Nat := if h.p.blk == .fx then h.p.inst else h.idx.getD 0 0

/-- Whether a job is ADMITTED or RUNNING. -/
def Chip.jobBusy (c : Chip) : Bool := c.running.isSome || c.admitted.isSome

/-- Whether the unit that owns a register's RWI fields is not idle, by its chapter (R150, R179, R213, R252, R268, R295,
R320, R348, R372, R401, R420, R442). -/
def Chip.unitBusy (c : Chip) (h : Hit) : Bool :=
  let n := h.p.inst
  let k := h.idx.getD 0 0
  match h.p.blk with
  | .fur | .lad => c.inJob n
  | .slb => c.jobBusy
  | .glk => c.flag (Reg.GLK_CTL_enable n)
  | .sv => c.ctxBusy k
  | .fx => c.ctxInJob n || c.ctxRun n == 2 || (c.ctx n).startAt.isSome
  | .pf => c.flag (Reg.PF_CTL_enable n)
  | .emu => c.flag (Reg.PF_EMU_CTL_enable k)
  | .ax => c.flag (Reg.AX_CTL_enable n)
  | .kt => c.rd Reg.KT_CHAINS_mask != 0 || c.flag Reg.KT_STATUS_swap_pending || c.flag Reg.KT_STATUS_loop_on
  | .dmc => c.dramState n != 0 && c.dramState n != 3
  | .dma => c.dmaState k == 1 || c.dmaState k == 2
  | .net => c.flag (Reg.NET_CTL_enable n)
  | _ => false

/-- GLK_n_CTL.rate mirrors the first lane's on the second lane of a pair (R180, R213). -/
def Hit.mirror (h : Hit) (f : FieldDesc) : Bool := h.p.blk == .glk && h.p.off == 0 && h.p.inst % 2 == 1 && f.lo == 1

/-- The part of a written word that a field takes. -/
def FieldDesc.of (f : FieldDesc) (v : Nat) : Nat := v / 2 ^ f.lo % 2 ^ f.w

/-- Whether a write would change an RWI field. -/
def Chip.rwiChange (c : Chip) (h : Hit) (v : Nat) : Bool :=
  h.r.fields.any fun f => f.ty == .rwi && !h.mirror f && f.of v != c.rd (h.fld f)

/-- Whether a written word carries a reserved value (R12); the contexts of CAL_DARK and the mosaic of SVX_CFG have
reserved values by context, w(0) = 0 of SVX_SNR_W is reserved (R252), and so is mask bit 0 of PWR_DOM_CMD (DEDUCED, log
entry 54) (DEDUCED, log entry 54). -/
def Hit.reservedValue (h : Hit) (v : Nat) : Bool :=
  (h.r.fields.any fun f => (f.ty == .rw || f.ty == .rwi || f.ty == .wo) && !h.mirror f &&
    match f.legal with
    | some (lo, hi) => decide (f.of v < lo) || decide (hi < f.of v)
    | none => false) ||
  (h.p.blk == .cal && h.p.off == 8 && (v % 32 == 24 || v % 32 == 25)) ||
  (h.p.blk == .pwr && h.p.off == 0x24 && v % 2 == 1) ||
  (h.p.blk == .sv && h.p.off % 0x800 == 0x28 && decide (0x10000 ≤ h.p.off) && v % 16 == 0) ||
  (h.p.blk == .sv && h.p.off % 0x800 == 0 && decide (0x10000 ≤ h.p.off) && bit v 4 && Reg.ctxKindCode (h.idx.getD 0 0) != 1)

/-! ### Step 4 of R553: conditions on the register alone, and on the value -/

/-- Registers that refuse every write at present: a compare value while its unit is armed, unit 3 while a gear change
owns it (R313, R320); the window of a DMA channel that an ADMITTED or RUNNING job names (R415); GLK_n_MBX_CMD while a
request is outstanding (R213); MGT_LOAD outside WAIT_IMAGE (R471); PWR_MGT_WDT for any other master than the management
core (R517). -/
def Chip.refusesWrite (c : Chip) (m : Master) (h : Hit) : Bool :=
  let n := h.p.inst
  let o := h.p.off
  match h.p.blk with
  | .pf =>
    if 0x100 ≤ o ∧ o < 0x180 then
      let u := h.idx.getD 0 0
      (u == 3 && c.flag (Reg.PF_CMP_CTL_gear_owned n 3)) ||
        ((o % 0x20 == 4 || o % 0x20 == 8) && c.flag (Reg.PF_CMP_CTL_arm n u))
    else false
  | .dma =>
    decide (0x1000 ≤ o) && decide (0x18 ≤ o % 0x100) && decide (o % 0x100 ≤ 0x24) &&
      c.host.jobs.any fun j => (j.st == 1 || j.st == 2) && j.streams.any fun e => e.kind == 3 && e.inst == h.idx.getD 0 0
  | .glk => o == 0x40 && c.flag (Reg.GLK_MBX_CMD_busy n)
  | .mgt => decide (0x1000 ≤ o) && (c.rd Reg.MGT_BOOT_STATUS_state != 2 ||
      decide (c.rd Reg.MGT_LOAD_BASE_offset * 4 + 4 * h.idx.getD 0 0 + 4 > 0x400000))
  | .pwr => o == 0x20 && m != .mgmt
  | _ => false

/-- The conditions of a register's map or chapter on what is written; `d`: the device with the fields as they would be
(R239, R236, R353, R382, R403, R434, R210, R202, R348, R450); action GEAR is AX_GEAR's alone (R313). -/
def writeOk (m : Master) (h : Hit) (v : Nat) (c d : Chip) : Bool :=
  let n := h.p.inst
  let k := h.idx.getD 0 0
  let o := h.p.off
  match h.p.blk with
  | .mgt => if o = 4 then (!bit v 0 || c.rd Reg.MGT_BOOT_STATUS_state == 2) && !(m == .spi && bit v 8) else true
  | .ptp =>
    if 0x100 ≤ o ∧ o < 0x200 ∧ o % 0x20 = 0 then
      pulseOk (d.rd (Reg.PTP_TP_CTL_mode k)) (d.rd (Reg.PTP_TP_NS_value k)) (d.rd (Reg.PTP_TP_PERIOD_value k))
        (d.rd (Reg.PTP_TP_WIDTH_value k))
    else true
  | .glk =>
    if o = 0x40 then d.mbxCmdOk n (d.rd (Reg.GLK_MBX_CMD_op n)) (d.rd (Reg.GLK_MBX_CMD_addr n))
    else if o = 0x80 then d.rd (Reg.GLK_TEST_mode n) == 0 || (c.laneBusy n).isNone
    else true
  | .sv =>
    if o < 0x10000 then true
    else if o % 0x800 = 0 then
      !d.flag (Reg.SVX_CFG_temp_en n k) || (d.flag (Reg.SVX_CFG_interp_en n k) && !d.flag (Reg.SVX_CFG_mosaic n k))
    else if o % 0x800 = 0x80 then decide (100 ≤ v) && decide (v + 100 ≤ c.rd (Reg.SVX_PERIOD_beats n k) * 250)
    else true
  | .ax =>
    if o = 0xC4 then
      decide (d.rd (Reg.AX_CUR_hold n) ≤ c.rd (Reg.AX_ENV_CTL_cur_max n)) &&
        decide (d.rd (Reg.AX_CUR_run n) ≤ c.rd (Reg.AX_ENV_CTL_cur_max n))
    else true
  | .pf => !(decide (0x100 ≤ o) && decide (o < 0x180) && o % 0x20 == 0) || d.rd (Reg.PF_CMP_CTL_action n k) != 2
  | .kt => if o = 0 ∨ o = 4 then decide (4 ≤ d.ktLb) && decide (d.ktLb ≤ 4000) else true
  | .dmc =>
    if o = 0xC then
      decide (4 ≤ d.rd (Reg.DMC_WEIR_low n)) && decide (d.rd (Reg.DMC_WEIR_low n) + 8 ≤ d.rd (Reg.DMC_WEIR_high n)) &&
        decide (d.rd (Reg.DMC_WEIR_high n) ≤ 56)
    else true
  | .dma => if 0x1000 ≤ o ∧ o % 0x100 = 0 then !bit v 0 || (c.dmaState k != 1 && c.dmaState k != 2) else true
  | _ => true

/-! ### Step 5 of R553: the fields act -/

/-- The fields of a register after a write, each as its type states. -/
def fieldsWritten (h : Hit) (v : Nat) (c : Chip) : Chip :=
  forEach h.r.fields (fun f c =>
    match f.ty with
    | .rw | .rwi => if h.mirror f then c else wr (h.fld f) (f.of v) c
    | .w1c => wr (h.fld f) (c.rd (h.fld f) &&& (f.of v ^^^ (2 ^ f.w - 1))) c
    | _ => c) c

/-- What writes of PWR registers start (R497, R498, R504, R517). -/
def pwrStarts (m : Master) (o v cycle : Nat) (c : Chip) : Resp × Chip :=
  if o = 0xC then
    let w := c.now + 80 + (min cycle c.lastCycle + 249) / 250
    (.ok, when c.sys.pwr.reset.isNone (modPwr fun p => { p with warmAt := p.warmAt.orElse fun _ => some w }) c)
  else if o = 0x20 then
    let b := c.now
    (.ok, when (bit v 31) (modPwr fun p => { p with wdtKick := p.wdtKick.map fun _ => b }) c)
  else if o = 0x24 then
    let r := switchAsk (v % 4096) (!bit v 16 && !bit v 17) (bit v 17) (m == .headgate) c
    (if r.1.1 = 0 ∨ r.1.1 = 8 then .ok else .slaveErr, r.2)
  else (.ok, c)

/-- What writes of MGT registers start (R448, R450, R451, R456). -/
def mgtStarts (m : Master) (h : Hit) (v : Nat) (c d : Chip) : Chip :=
  if h.p.off = 4 then when (bit v 0) (bootStart (if m = .spi then 0 else 1) (bit v 8)) d
  else if h.p.off = 0x40 then wrB Reg.MGT_SPI_CTL_lock (c.flag Reg.MGT_SPI_CTL_lock || bit v 0) d
  else if 0x1000 ≤ h.p.off then loadWord (d.rd Reg.MGT_LOAD_BASE_offset * 4 + 4 * h.idx.getD 0 0) v d
  else d

/-- The time of the TIME source (R487). -/
def Chip.snapTime (c : Chip) : Int :=
  c.rd2 Reg.SNP_TIME_SEC_LO_time Reg.SNP_TIME_SEC_HI_time * giga + c.rd Reg.SNP_TIME_NS_time

/-- Change the snapshot unit. -/
def modSnp (f : Snp → Snp) (c : Chip) : Chip := { c with sys := { c.sys with snp := f c.sys.snp } }

/-- A held snapshot is released (R489). -/
def snapRelease (c : Chip) : Chip := wr Reg.SNP_STATUS_held 0 c

/-- What writes of SNP registers start (R487, R489, R490). -/
def snpStarts (m : Master) (o v : Nat) (c : Chip) : Chip :=
  if o = 8 ∨ o = 0xC then wrB Reg.SNP_STATUS_time_armed (c.snapTime != 0) c
  else if o = 0x2C then
    modSnp (fun s =>
      let l := s.views.filter fun x => x != m
      { s with views := if bit v 0 then l ++ [m] else l }) (wr Reg.SNP_VIEW_on 0 c)
  else if o = 0x30 then when (bit v 0) snapRelease c
  else c

/-- What writes of GLK registers start (R202, R205, R210, R211). -/
def glkStarts (n o v : Nat) (c d : Chip) : Chip :=
  if o = 0 then laneCtl n (c.flag (Reg.GLK_CTL_enable n)) d
  else if o = 0x40 then mbxHost n (d.rd (Reg.GLK_MBX_CMD_op n)) (d.rd (Reg.GLK_MBX_CMD_addr n)) d
  else if o = 0x80 then
    when (bit v 16) (laneInject n)
      (when (!bit v 16 || d.rd (Reg.GLK_TEST_mode n) != c.rd (Reg.GLK_TEST_mode n)) (laneTest n) d)
  else d

/-- What writes of a context's Sieve registers start (R228–R230, R239); in the set of the other Sieve only the shadow
generation counts (R215). -/
def ctxStarts (v n o x : Nat) (c : Chip) : Chip :=
  if 0x18 ≤ o ∧ o ≤ 0x34 then pWritten v n c
  else if c.svOf n ≠ v then c
  else if o = 0x14 then when (bit x 2) (wr (Reg.SVX_STATUS_fault v n) 0) c |> when (bit x 1) (fpnAsk n)
  else if o = 0x80 ∨ o = 0x84 then wr (Reg.SVX_EXP_STATUS_dirty v n) 1 c
  else c

/-- The value of LAD_c_UCODE's microcode fields. -/
def Chip.ucodeWord (c : Chip) (n : Nat) : Nat := c.ucode n 0 + 16 * c.ucode n 1 + 256 * c.ucode n 2

/-- What writes of Ladle registers start (R273, R288). -/
def ladStarts (n o v : Nat) (c d : Chip) : Resp × Chip :=
  if o = 0 then (.ok, ucodeReady n (c.ucodeWord n) d)
  else if o = 0x14 then rcCommand n v d
  else if 0x100 ≤ o ∧ o < 0x700 then (.ok, loopRegWritten n ((o - 0x100) / 0x200) d)
  else (.ok, d)

/-- What writes of feedback, emulation and axis registers start (R311, R314, R318, R339, R341). -/
def motionStarts (h : Hit) (v cycle : Nat) (c d : Chip) : Chip :=
  let n := h.p.inst
  let k := h.idx.getD 0 0
  let o := h.p.off
  match h.p.blk with
  | .pf =>
    if o = 0 then when (d.flag (Reg.PF_CTL_enable n) && !c.flag (Reg.PF_CTL_enable n)) (pfEnabled n (min cycle c.lastCycle)) d
    else if 0x100 ≤ o ∧ o < 0x180 ∧ o % 0x20 = 0 then when (bit v 0) (cmpTest n k) d
    else d
  | .emu =>
    if o % 0x40 = 0 then
      when (d.flag (Reg.PF_EMU_CTL_enable k) && !c.flag (Reg.PF_EMU_CTL_enable k)) (emuEnabled k) d
        |> when (!d.flag (Reg.PF_EMU_CTL_enable k) && c.flag (Reg.PF_EMU_CTL_enable k)) (emuDisabled k)
    else d
  | _ =>
    if o = 0 then
      when (d.flag (Reg.AX_CTL_enable n) && !c.flag (Reg.AX_CTL_enable n)) (axEnabled n) d
        |> when (!d.flag (Reg.AX_CTL_enable n) && c.flag (Reg.AX_CTL_enable n)) (axDead n)
    else when (decide (o = 0xC4)) (axCoils n) d

/-- What writes of a port's registers start (R421, R422, R426): the corrections follow the mode; a disabled port has no
link. -/
def netStarts (n : Nat) (c : Chip) : Chip :=
  let p := if n = 0 then Path.a else Path.b
  portCorr p c |> when (!c.flag (Reg.NET_CTL_enable n)) (fun c => portPcs p false false c |> linkShow p false)

/-- What a written value starts; `c`: the device before the write, `d`: with its fields written. -/
def writeStarts (m : Master) (h : Hit) (v cycle : Nat) (c d : Chip) : Resp × Chip :=
  let n := h.p.inst
  let k := h.idx.getD 0 0
  let o := h.p.off
  match h.p.blk with
  | .pwr => pwrStarts m o v cycle d
  | .mgt => (.ok, mgtStarts m h v c d)
  | .snp => (.ok, snpStarts m o v d)
  | .ptp => (.ok, when (decide (0x100 ≤ o) && decide (o < 0x200) && o % 0x20 == 0) (pulseApply k) d)
  | .net => (.ok, when (o == 0) (netStarts n) d)
  | .slb => (.ok, when (o == 0x30 && bit v 0) (wr Reg.SLB_STATUS_commit_pending 1) d)
  | .glk => (.ok, glkStarts n o v c d)
  | .sv => (.ok, when (decide (0x10000 ≤ o)) (ctxStarts n k (o % 0x800) v) d)
  | .fx => (.ok, when (decide (o < 0xC)) (pWritten (c.svOf n) n) d)
  | .lad => ladStarts n o v c d
  | .pf | .emu | .ax => (.ok, motionStarts h v cycle c d)
  | .kt => (.ok, when (o == 0 || o == 4) ktDerive d)
  | .dmc => (.ok, when (o == 0) slmPeriodShow d |> when (o == 4 && bit v 0) (dramTrain n))
  | .dma =>
    (.ok, when (decide (0x1000 ≤ o) && o % 0x100 == 0) (fun c => when (bit v 0) (dmaStart k) c |> when (bit v 1) (dmaAbort k)) d)
  | _ => (.ok, d)

/-! ### The write -/

/-- Whether a pair's halves take values that software writes, so that a write of _HI is held (R28). -/
def Hit.holds (h : Hit) : Bool := h.r.pair == .hi && h.r.fields.any fun f => f.ty == .rw || f.ty == .rwi || f.ty == .wo

/-- The response of a write, whether it is refused for an RWI change (R99), and the device after it. -/
structure Written where
  resp : Resp
  rwi : Bool
  chip : Chip

/-- A write of a register (R553). A write of _HI is held for its master until that master's next write of the same
pair's _LO (R557). -/
def regWrite (m : Master) (h : Hit) (v cycle : Nat) (c : Chip) : Written :=
  if h.p.blk == .sec || h.p.blk == .crk then ⟨if m = .spi ∨ m = .headgate then .slaveErr else .ok, false, c⟩
  else if h.holds then
    if c.refusesWrite m h then ⟨.slaveErr, false, c⟩ else ⟨.ok, false, holdPut m (h.addr - 3) v c⟩
  else
    let up := if h.r.pair == .lo then h.high else none
    let uv := c.heldCopy m (h.addr + 1)
    let also (f : Hit → Nat → Bool) : Bool :=
      match up, uv with
      | some g, some w => f g w
      | _, _ => false
    if c.unitBusy h && (c.rwiChange h v || also fun g w => c.rwiChange g w) then ⟨.slaveErr, true, c⟩
    else if h.reservedValue v || also (fun g w => g.reservedValue w) || c.refusesWrite m h then ⟨.slaveErr, false, c⟩
    else
      let d := match up, uv with
        | some g, some w => fieldsWritten h v (fieldsWritten g w (holdDrop m (h.addr + 1) c))
        | _, _ => fieldsWritten h v c
      if !writeOk m h v c d then ⟨.slaveErr, false, c⟩
      else
        let r := writeStarts m h v cycle c d
        if r.1 = .ok then ⟨.ok, false, r.2⟩ else ⟨r.1, false, c⟩

/-- Whether an address lies in SEC or CRK, which accept no write through the window or the SPI port (R34). -/
def barred (a : Nat) : Bool := decide (0x50000 ≤ a) && decide (a < 0x70000)

/-- A write on the register fabric in an FCLK cycle (R24–R37, R553). -/
def busWrite (m : Master) (a v cycle : Nat) (c : Chip) : Written :=
  if m = .spi ∧ (c.spiBars a true || makerOnly a || barred a) then ⟨.slaveErr, false, c⟩
  else if 0x1000000 ≤ a then
    let r := winWrite a v c
    ⟨r.1, false, r.2⟩
  else if m = .dma then ⟨.decodeErr, false, c⟩
  else
    match c.route a with
    | .stop r => ⟨r, false, c⟩
    | .reserved => ⟨if v = 0 then .ok else .slaveErr, false, c⟩
    | .reg h => regWrite m h v cycle c

end Sys2Proof.Machine
end

