-- ==== Sys2Proof/Machine/RegCmds.lean ====
section
/-! DEFINITION. Register accesses as commands: the register window (03_serair_commands.md, R89, R96–R99; 01_architecture.md,
R34), and the accesses of every master of the register fabric. -/

namespace Sys2Proof.Machine

open Sys2Proof

/-! ### The role a window access needs (R34) -/

/-- The role that a read of a word needs. -/
def readRole (a : Nat) : Nat := if makerOnly a then 3 else 1

/-- The role that a write of a word needs. -/
def writeRole (a v : Nat) : Nat :=
  if makerOnly a ∨ (a = 0x70004 ∧ bit v 8) then 3 else if a = 0x120040 ∨ barred a then 1 else 2

/-- The largest role that any word needs. -/
def rolesOf (l : List Nat) : Nat := l.foldl max 1

/-- The roles that the words of a write need; a write of no word still names an address. -/
def writeRoles (a : Nat) (l : List Nat) : List Nat :=
  if l.isEmpty then [writeRole a 0] else (List.range l.length).map fun k => writeRole (a + 4 * k) (l.getD k 0)

/-- A write of SLB_RC_CTL with the operator role changes only lead (R34, R170). -/
def Chip.leadOnly (c : Chip) (slot a v : Nat) : Nat :=
  if a = 0x120040 ∧ c.rd (Reg.SEC_SLOT_STATE_role slot) < 2 then
    let old := c.rd Reg.SLB_RC_CTL_source * 16 + c.rd Reg.SLB_RC_CTL_axis * 2 + c.rd Reg.SLB_RC_CTL_enable
    old + v / 4 % 4 * 4
  else v

/-! ### The port (R96–R99) -/

/-- The domain of an address. -/
def domOfAddr (a : Nat) : Nat :=
  match placeOf a with
  | some p => p.dom
  | none => ((winOf a).map Win.dom).getD pdFABRIC

/-- The state of the unit that owns a register's RWI fields, in its own encoding (R80, R99). -/
def Chip.unitState (c : Chip) (h : Hit) : Nat :=
  let n := h.p.inst
  let k := h.idx.getD 0 0
  match h.p.blk with
  | .fur | .lad => c.chState n
  | .slb => if c.running.isSome then 2 else 1
  | .glk => c.rd (Reg.GLK_STATUS_state n)
  | .sv => c.ctxRun k
  | .fx => c.ctxRun n
  | .ax => c.rd (Reg.AX_STATUS_state n)
  | .dmc => c.dramState n
  | .dma => c.dmaState k
  | _ => 1

/-- The state of the unit at an address. -/
def Chip.stateAt (c : Chip) (a : Nat) : Nat :=
  match c.route a with
  | .reg h => c.unitState h
  | _ => 0

/-- The reply for an access that does not end OK (R99): the index of the word and its address. The detail is the domain, the
unit's state, or the offset in the parameters of the field at fault (R80): the address when no register takes it, else the
value written, at offset `off` (DEDUCED, log entry 50). -/
def portFail (r : Resp) (rwi : Bool) (state off idx a : Nat) : Ans :=
  match r with
  | .targetOff => refuse 0x1A (domOfAddr a) idx a
  | .retry => refuse 0x31 0 idx a
  | .slaveErr => if rwi then refuse 0x16 state idx a else refuse 0x17 (if a % 4 = 0 then off else 0) idx a
  | _ => refuse 0x17 0 idx a

/-- How far a window command has come: its reply, or what waits. -/
structure PortStep where
  ans : Option Ans
  p : PortCmd
  chip : Chip

/-- One word done: the next access begins. -/
def PortCmd.next (p : PortCmd) (v : Nat) (c : Chip) : PortCmd :=
  { p with idx := p.idx + 1, got := p.got ++ [v], since := c.now }

/-- An access that ended in RETRY is repeated until 40 µs have passed since its first attempt (R98). -/
def portRetry (p : PortCmd) (a : Nat) (c : Chip) : PortStep :=
  ⟨if p.since + 160 ≤ c.now then some (portFail .retry false 0 0 p.idx a) else none, p, c⟩

/-- The reads of REG_READ, from the present word on. -/
def portReads (a : Nat) : Nat → PortCmd → Chip → PortStep
  | 0, p, c => ⟨some (done (p.got.flatMap (toBE 4))), p, c⟩
  | n + 1, p, c =>
    let at0 := a + 4 * p.idx
    let f := freeCycle c
    let r := busRead .headgate at0 f.1 f.2
    match r.1 with
    | .ok => portReads a n (p.next r.2.1 c) r.2.2
    | .retry => portRetry p at0 r.2.2
    | e => ⟨some (portFail e false 0 0 p.idx at0), p, r.2.2⟩

/-- The writes of REG_WRITE, from the present word on. -/
def portWrites (a : Nat) : List Nat → PortCmd → Chip → PortStep
  | [], p, c => ⟨some (done []), p, c⟩
  | v :: l, p, c =>
    let at0 := a + 4 * p.idx
    if barred at0 then ⟨some (refuse 0x10 0 p.idx at0), p, c⟩
    else
      let f := freeCycle c
      let w := busWrite .headgate at0 (c.leadOnly p.w.o.slot.val at0 v) f.1 f.2
      match w.resp with
      | .ok => portWrites a l (p.next v c) w.chip
      | .retry => portRetry p at0 w.chip
      | e => ⟨some (portFail e w.rwi (c.stateAt at0) (8 + 4 * p.idx) p.idx at0), p, w.chip⟩

/-- The write of REG_MODIFY, with the value read before. -/
def portModify (a mask value old : Nat) (p : PortCmd) (c : Chip) : PortStep :=
  let v := (old &&& (mask ^^^ (2 ^ 32 - 1))) ||| (value &&& mask)
  let f := freeCycle c
  let w := busWrite .headgate a (c.leadOnly p.w.o.slot.val a v) f.1 f.2
  match w.resp with
  | .ok => ⟨some (done (toBE 4 old)), p, w.chip⟩
  | .retry => portRetry p a w.chip
  | e => ⟨some (portFail e w.rwi (c.stateAt a) 8 0 a), p, w.chip⟩

/-- A window command goes on from where it stands (DEDUCED, log entry 50). -/
def portRun (p : PortCmd) (c : Chip) : PortStep :=
  match p.cmd with
  | .regRead _ a n => portReads a.toNat (n.toNat - p.idx) p c
  | .regWrite _ a l => portWrites a.toNat ((l.map BitVec.toNat).drop p.idx) p c
  | .regModify _ a mask value =>
    match p.got with
    | old :: _ => portModify a.toNat mask.toNat value.toNat old { p with idx := 0 } c
    | [] =>
      if barred a.toNat then ⟨some (refuse 0x10 0 0 a.toNat), p, c⟩
      else
        let f := freeCycle c
        let r := busRead .headgate a.toNat f.1 f.2
        match r.1 with
        | .ok => portModify a.toNat mask.toNat value.toNat r.2.1 { p with got := [r.2.1], since := c.now } r.2.2
        | .retry => portRetry p a.toNat r.2.2
        | e => ⟨some (portFail e false 0 0 0 a.toNat), p, r.2.2⟩
  | _ => ⟨some (done []), p, c⟩

/-- Change what waits on the port. -/
def modWindow (f : List PortCmd → List PortCmd) (c : Chip) : Chip :=
  { c with host := { c.host with hg := { c.host.hg with port := f c.host.hg.port } } }

/-- A window command arrives: it is carried out at once, or waits behind the command on the port or for its own access. -/
def portTake (o : Origin) (op : Nat) (cmd : Instr) (c : Chip) : Option Ans × Chip :=
  let wait (p : PortCmd) (c : Chip) : Option Ans × Chip :=
    (none, modSession o.slot.val (Session.accept o.seq.toNat 2 0) (modWindow (fun l => l ++ [p]) c))
  let p : PortCmd := ⟨waiterOf o op false c, cmd, 0, [], c.now⟩
  if c.host.hg.port.isEmpty then
    let r := portRun p c
    match r.ans with
    | some a => (some a, r.chip)
    | none => wait r.p r.chip
  else wait p c

/-- The commands on the port go on, in order, until one must wait. -/
def portGo : Nat → Chip → Chip
  | 0, c => c
  | n + 1, c =>
    match c.host.hg.port with
    | [] => c
    | p :: l =>
      let r := portRun p c
      match r.ans with
      | some a => portGo n (finish r.p.w a (modWindow (fun _ => l) r.chip))
      | none => modWindow (fun _ => r.p :: l) r.chip

/-- The port at a beat opening: accesses that ended in RETRY are repeated. -/
def portBeat (c : Chip) : Chip :=
  if c.host.hg.port.isEmpty then c
  else if !c.hgOn then modWindow (fun _ => []) c
  else
    let b := c.now
    portGo c.host.hg.port.length (modWindow (fun l => match l with
      | [] => []
      | p :: t => p :: t.map fun x => { x with since := b }) c)

/-- REG_READ (R89). -/
def cmdRegRead (o : Origin) (addr : BitVec 32) (count : BitVec 16) : Chip → Chip :=
  let n := count.toNat
  let cmd : Instr := .regRead o addr count
  serve o 0x10 (rolesOf ((List.range (min n 256)).map fun k => readRole (addr.toNat + 4 * k))) cmd
    (if n = 0 ∨ n > 256 then some 4 else none) [] (portTake o 0x10 cmd)

/-- REG_READ. -/
def execRegRead (o : Origin) (addr : BitVec 32) (count : BitVec 16) (s : State) : Host.Outcome State Fault Refusal :=
  runs (cmdRegRead o addr count) s

/-- REG_WRITE (R89). -/
def cmdRegWrite (o : Origin) (addr : BitVec 32) (vals : List Word) : Chip → Chip :=
  let n := vals.length
  let cmd : Instr := .regWrite o addr vals
  serve o 0x11 (rolesOf (writeRoles addr.toNat (vals.map BitVec.toNat))) cmd
    (if n = 0 ∨ n > 256 then some 4 else none) [] (portTake o 0x11 cmd)

/-- REG_WRITE. -/
def execRegWrite (o : Origin) (addr : BitVec 32) (vals : List Word) (s : State) : Host.Outcome State Fault Refusal :=
  runs (cmdRegWrite o addr vals) s

/-- REG_MODIFY (R89). -/
def cmdRegModify (o : Origin) (addr mask value : BitVec 32) : Chip → Chip :=
  let cmd : Instr := .regModify o addr mask value
  serve o 0x12 (writeRole addr.toNat (value &&& mask).toNat) cmd none [] (portTake o 0x12 cmd)

/-- REG_MODIFY. -/
def execRegModify (o : Origin) (addr mask value : BitVec 32) (s : State) : Host.Outcome State Fault Refusal :=
  runs (cmdRegModify o addr mask value) s

/-! ### Accesses of a master -/

/-- A read by a master, answered to it. -/
def busReadBy (m : Master) (a cycle : Nat) (c : Chip) : Chip :=
  let r := busRead m a cycle c
  send (.bus m r.1 (if r.1 = .ok then [r.2.1] else [])) r.2.2

/-- A write by a master, answered to it. -/
def busWriteBy (m : Master) (a v cycle : Nat) (c : Chip) : Chip :=
  let w := busWrite m a v cycle c
  send (.bus m w.resp []) w.chip

/-- A read in an FCLK cycle that the command does not name. -/
def busReadAny (m : Master) (a : Nat) (c : Chip) : Chip :=
  let f := freeCycle c
  busReadBy m a f.1 f.2

/-- A write in an FCLK cycle that the command does not name. -/
def busWriteAny (m : Master) (a v : Nat) (c : Chip) : Chip :=
  let f := freeCycle c
  busWriteBy m a v f.1 f.2

/-- LO_REG_READ (R28, R557). -/
def execLoRegRead (m : Master) (addr : BitVec 32) (cycle : Fin 499) (s : State) : Host.Outcome State Fault Refusal :=
  runs (busReadBy m addr.toNat cycle.val) s

/-- FX_SEQ_READ (R262). -/
def execFxSeqRead (m : Master) (ctx : Fin 24) (s : State) : Host.Outcome State Fault Refusal :=
  runs (busReadAny m (0x1C0040 + ctx.val * 0x200)) s

/-- BT_TIME_READ (R65): BT_TIME_NS, or BT_EPOCH_NS. -/
def execBtTimeRead (m : Master) (epoch : Bool) (cycle : Fin 499) (s : State) : Host.Outcome State Fault Refusal :=
  runs (busReadBy m (if epoch then 0x80024 else 0x80018) cycle.val) s

/-- RC_COUNTER_READ (R9, R10). -/
def execRcCounterRead (m : Master) (addr : BitVec 32) (s : State) : Host.Outcome State Fault Refusal :=
  runs (busReadAny m addr.toNat) s

/-- CAP_POS_READ (R306). -/
def execCapPosRead (m : Master) (n : Fin 8) (s : State) : Host.Outcome State Fault Refusal :=
  runs (busReadAny m (0x240080 + n.val * 0x400)) s

/-- GENERIC_REG_WRITE (R553). -/
def execGenericRegWrite (m : Master) (addr value : BitVec 32) (s : State) : Host.Outcome State Fault Refusal :=
  runs (busWriteAny m addr.toNat value.toNat) s

/-- GLK_MBX_CMD_WRITE (R202). -/
def execGlkMbxCmdWrite (m : Master) (lane : Fin 52) (value : Word) (s : State) : Host.Outcome State Fault Refusal :=
  runs (busWriteAny m (0x140040 + lane.val * 0x400) value.toNat) s

/-- GLK_ENABLE_WRITE (R205, R213): a write of GLK_n_CTL. -/
def execGlkEnableWrite (m : Master) (lane : Fin 52) (value : Word) (s : State) : Host.Outcome State Fault Refusal :=
  runs (busWriteAny m (0x140000 + lane.val * 0x400) value.toNat) s

/-- GLK_TEST_MODE_WRITE (R210): a write of GLK_n_TEST. -/
def execGlkTestModeWrite (m : Master) (lane : Fin 52) (value : Word) (s : State) : Host.Outcome State Fault Refusal :=
  runs (busWriteAny m (0x140080 + lane.val * 0x400) value.toNat) s

/-- GLK_INJECT_ONCE (R211): a write of GLK_n_TEST. -/
def execGlkInjectOnce (m : Master) (lane : Fin 52) (value : Word) (s : State) : Host.Outcome State Fault Refusal :=
  runs (busWriteAny m (0x140080 + lane.val * 0x400) value.toNat) s

/-- The address of a context register of a Sieve. -/
def svAddr (v n off : Nat) : Nat := 0x190000 + v * 0x20000 + n * 0x800 + off % 0x800

/-- SVA_FAULT_CLEAR (R228): a write of the context's CTL. -/
def execSvaFaultClear (m : Master) (sieve : Fin 2) (ctx : Fin 32) (value : Word) (s : State) :
    Host.Outcome State Fault Refusal :=
  runs (busWriteAny m (svAddr sieve ctx 0x14) value.toNat) s

/-- SVA_FPN_COMMIT (R230): a write of the context's CTL. -/
def execSvaFpnCommit (m : Master) (sieve : Fin 2) (ctx : Fin 32) (value : Word) (s : State) :
    Host.Outcome State Fault Refusal :=
  runs (busWriteAny m (svAddr sieve ctx 0x14) value.toNat) s

/-- SVA_PARAM_WRITE (R229): a write of a context register. -/
def execSvaParamWrite (m : Master) (sieve : Fin 2) (ctx : Fin 32) (off : BitVec 16) (value : Word) (s : State) :
    Host.Outcome State Fault Refusal :=
  runs (busWriteAny m (svAddr sieve ctx off.toNat) value.toNat) s

/-- SVA_EXP_WRITE (R239): a write of EXP_TIME or EXP_GAIN. -/
def execSvaExpWrite (m : Master) (sieve : Fin 2) (ctx : Fin 32) (gain : Bool) (value : Word) (s : State) :
    Host.Outcome State Fault Refusal :=
  runs (busWriteAny m (svAddr sieve ctx (if gain then 0x84 else 0x80)) value.toNat) s

/-- LAD_RC_SWITCH_IN (R288): a write of LAD_c_RC_CMD. -/
def execLadRcSwitchIn (m : Master) (c : Fin 24) (value : Word) (s : State) : Host.Outcome State Fault Refusal :=
  runs (busWriteAny m (0x200014 + c.val * 0x2000) value.toNat) s

/-- LAD_RC_SWITCH_OUT (R288): a write of LAD_c_RC_CMD. -/
def execLadRcSwitchOut (m : Master) (c : Fin 24) (value : Word) (s : State) : Host.Outcome State Fault Refusal :=
  runs (busWriteAny m (0x200014 + c.val * 0x2000) value.toNat) s

/-- LAD_UCODE_WRITE (R273): a write of LAD_c_UCODE. -/
def execLadUcodeWrite (m : Master) (c : Fin 24) (value : Word) (s : State) : Host.Outcome State Fault Refusal :=
  runs (busWriteAny m (0x200000 + c.val * 0x2000) value.toNat) s

/-- LAD_LOOP_REG_WRITE (R273, R296): a write of a register of an engine. -/
def execLadLoopRegWrite (m : Master) (c : Fin 24) (off : BitVec 16) (value : Word) (s : State) :
    Host.Outcome State Fault Refusal :=
  runs (busWriteAny m (0x200000 + c.val * 0x2000 + off.toNat % 0x2000) value.toNat) s

/-- PF_ENABLE (R318): a write of PF_n_CTL. -/
def execPfEnable (m : Master) (n : Fin 8) (value : Word) (s : State) : Host.Outcome State Fault Refusal :=
  runs (busWriteAny m (0x240000 + n.val * 0x400) value.toNat) s

/-- PF_CMP_ARM (R311): a write of PF_n_CMP_u_CTL. -/
def execPfCmpArm (m : Master) (n : Fin 8) (u : Fin 4) (value : Word) (s : State) : Host.Outcome State Fault Refusal :=
  runs (busWriteAny m (0x240100 + n.val * 0x400 + u.val * 0x20) value.toNat) s

/-- EMU_ENABLE (R314): a write of PF_EMU_k_CTL. -/
def execEmuEnable (m : Master) (k : Fin 4) (value : Word) (s : State) : Host.Outcome State Fault Refusal :=
  runs (busWriteAny m (0x242000 + k.val * 0x40) value.toNat) s

/-- AX_ENABLE (R322, R339): a write of AX_n_CTL. -/
def execAxEnable (m : Master) (n : Fin 8) (value : Word) (s : State) : Host.Outcome State Fault Refusal :=
  runs (busWriteAny m (0x250000 + n.val * 0x800) value.toNat) s

/-- DMC_TRAIN (R378): a write of DMC_n_CTL. -/
def execDmcTrain (m : Master) (n : Fin 2) (value : Word) (s : State) : Host.Outcome State Fault Refusal :=
  runs (busWriteAny m (0x280004 + n.val * 0x8000) value.toNat) s

/-- DMA_START (R403): a write of DMA_n_CTL. -/
def execDmaStart (m : Master) (n : Fin 64) (value : Word) (s : State) : Host.Outcome State Fault Refusal :=
  runs (busWriteAny m (0x291000 + n.val * 0x100) value.toNat) s

/-- DMA_ABORT (R417): a write of DMA_n_CTL. -/
def execDmaAbort (m : Master) (n : Fin 64) (value : Word) (s : State) : Host.Outcome State Fault Refusal :=
  runs (busWriteAny m (0x291000 + n.val * 0x100) value.toNat) s

/-- SLB_SLOT_COMMIT (R164). -/
def execSlbSlotCommit (m : Master) (value : Word) (s : State) : Host.Outcome State Fault Refusal :=
  runs (busWriteAny m 0x120030 value.toNat) s

/-- SLB_RC_LEAD_WRITE (R170): a write of SLB_RC_CTL. -/
def execSlbRcLeadWrite (m : Master) (value : Word) (s : State) : Host.Outcome State Fault Refusal :=
  runs (busWriteAny m 0x120040 value.toNat) s

/-- SNP_RELEASE_WRITE (R489). -/
def execSnpReleaseWrite (m : Master) (value : Word) (s : State) : Host.Outcome State Fault Refusal :=
  runs (busWriteAny m 0x40030 value.toNat) s

/-- SNP_VIEW_WRITE (R490). -/
def execSnpViewWrite (m : Master) (value : Word) (s : State) : Host.Outcome State Fault Refusal :=
  runs (busWriteAny m 0x4002C value.toNat) s

/-- PWR_WARM_WRITE (R497). -/
def execPwrWarmWrite (m : Master) (value : Word) (cycle : Fin 499) (s : State) : Host.Outcome State Fault Refusal :=
  runs (busWriteBy m 0x1000C value.toNat cycle.val) s

/-- MGT_WDT_KICK (R498): a write of PWR_MGT_WDT. -/
def execMgtWdtKick (m : Master) (value : Word) (s : State) : Host.Outcome State Fault Refusal :=
  runs (busWriteAny m 0x10020 value.toNat) s

/-- MGT_LOAD_WRITE (R448, R471). -/
def execMgtLoadWrite (m : Master) (k : Fin 256) (value : Word) (s : State) : Host.Outcome State Fault Refusal :=
  runs (busWriteAny m (0x71000 + k.val * 4) value.toNat) s

/-- MGT_BOOT_START (R450, R451): a write of MGT_BOOT_CMD. -/
def execMgtBootStart (m : Master) (value : Word) (s : State) : Host.Outcome State Fault Refusal :=
  runs (busWriteAny m 0x70004 value.toNat) s

/-- SPI_LOCK_WRITE (R456): a write of MGT_SPI_CTL. -/
def execSpiLockWrite (m : Master) (value : Word) (s : State) : Host.Outcome State Fault Refusal :=
  runs (busWriteAny m 0x70040 value.toNat) s

/-- PWR_DOM_ON (R505): a write of PWR_DOM_CMD. -/
def execPwrDomOn (m : Master) (value : Word) (s : State) : Host.Outcome State Fault Refusal :=
  runs (busWriteAny m 0x10024 value.toNat) s

/-- PWR_DOM_OFF (R506): a write of PWR_DOM_CMD. -/
def execPwrDomOff (m : Master) (value : Word) (s : State) : Host.Outcome State Fault Refusal :=
  runs (busWriteAny m 0x10024 value.toNat) s

/-- PWR_DOM_FORCED (R507): a write of PWR_DOM_CMD. -/
def execPwrDomForced (m : Master) (value : Word) (s : State) : Host.Outcome State Fault Refusal :=
  runs (busWriteAny m 0x10024 value.toNat) s

end Sys2Proof.Machine
end

