-- ==== Sys2Proof/Machine/SessionCmds.lean ====
section
/-! DEFINITION. The session group (03_serair_commands.md, R72, R73, R88; 16_management_roles_crock.md, R458, R459). -/

namespace Sys2Proof.Machine

open Sys2Proof

/-- The reply to CERT_PRESENT or SESSION_OPEN: on the path of the request, in no session, tagged only when a session
has been opened (R67, R72). -/
def openReply (p : Path) (src : Src) (claim seq op : Nat) (a : Ans) (key : Option (List Byte)) (c : Chip) : Chip :=
  txFrame p (.serair p src (txFlags p false false false) claim 0 seq op a.1 a.2 key) c

/-- A refused CERT_PRESENT or SESSION_OPEN is counted (R472). -/
def secRefused (c : Chip) : Chip := inc Reg.SEC_REFUSED_value Reg.SEC_STICKY_refused_sat 0 c

/-- CERT_PRESENT (R458). -/
def cmdCertPresent (p : Path) (src : Src) (claim seq : Nat) (chain : List Byte) (c : Chip) : Chip :=
  if !c.hgOn then c
  else
    let reply (a : Ans) (c : Chip) : Chip := openReply p src claim seq 0x01 a none c
    match chainCount chain.length with
    | none => secRefused c |> reply (badParam 0)
    | some n =>
      match c.chainFault n chain with
      | some (reason, off) =>
        secRefused c |> log 0x0C01 p.code (u8 p.code ++ u8 reason ++ u16 0 ++ u32 (beAt chain 4 4))
          |> reply (badParam off)
      | none =>
        let x := Cert.ofBytes chain
        keepKey x c |> reply (done (toBE 4 x.keyId))

/-- CERT_PRESENT. -/
def execCertPresent (p : Path) (src : Src) (claim : BitVec 16) (seq : BitVec 32) (chain : List Byte) (s : State) :
    Host.Outcome State Fault Refusal := runs (cmdCertPresent p src claim.toNat seq.toNat chain) s

/-- The parameters of SESSION_OPEN that the signature covers (R88). -/
def openBytes (role keyId idle : Nat) (pub : List Byte) : List Byte :=
  toBE 1 role ++ toBE 3 0 ++ toBE 4 keyId ++ toBE 2 idle ++ toBE 2 0 ++ pub

/-- The first check of R459 and R73 that refuses a SESSION_OPEN (DEDUCED, log entry 19). -/
def Chip.openRefusal (c : Chip) (role keyId idle : Nat) (pub sig : List Byte) : Option Ans :=
  match c.keySlot keyId with
  | none => some (refuse 0x12 5 0 0)
  | some k =>
    if c.rd (Reg.SEC_KEY_INFO_role k) < role then some (refuse 0x10 role 0 0)
    else if !edVerify (c.host.sec.keys.getD k ⟨[], 0⟩).key (openBytes role keyId idle pub) sig then
      some (refuse 0x12 1 0 0)
    else if c.freeSlot.isNone then some (refuse 0x12 2 0 0)
    else none

/-- A session id: the slot in bits [2:0], the rest random, never 0 (R459). -/
def sessionId (slot r : Nat) : Nat := if (r % 2 ^ 29) * 8 + slot = 0 then 8 else (r % 2 ^ 29) * 8 + slot

/-- The session of an accepted SESSION_OPEN: its sequence is the highest accepted (R75). -/
def Session.opened (id : Nat) (key : List Byte) (seq now : Nat) (p : Path) (src : Src) : Session :=
  { Session.free with
    id := id, key := key, h := seq, seqs := [⟨seq, 3, 0⟩], last := now
    srcA := if p = .a then some src else none
    srcB := if p = .b then some src else none }

/-- A session opens (R459, R103). A slot taken from a session that closed or expired is logged, with no semaphore left to
release (DEDUCED, log entry 19). -/
def openSession (p : Path) (src : Src) (claim seq role keyId idle : Nat) (pub : List Byte) (slot : Nat) (c : Chip) : Chip :=
  let (k, c) := draw c
  let (k2, c) := draw c
  let taken := c.flag (Reg.SEC_SLOT_STATE_state slot)
  let sid := sessionId slot (Config.random k)
  let priv := toLE 32 (Config.random k2)
  let ctl := x25519 priv x25519Base
  let key := sessionKey (x25519 priv pub) sid keyId pub ctl
  modSession slot (fun _ => Session.opened sid key seq c.now p src) c
    |> wr (Reg.SEC_SLOT_STATE_state slot) 1 |> wr (Reg.SEC_SLOT_STATE_role slot) role
    |> wr (Reg.SEC_SLOT_STATE_last_path slot) p.code
    |> wr (Reg.SEC_SLOT_STATE_idle_timeout slot) (if idle = 0 then 10 else idle)
    |> wr (Reg.SEC_SLOT_ID_value slot) sid |> wr (Reg.SEC_SLOT_KEY_value slot) keyId |> secShow
    |> when taken (log 0x0B32 slot (u8 slot ++ u8 2 ++ u16 0 ++ u32 0))
    |> log 0x0B31 slot (u8 slot ++ u8 role ++ u32 keyId ++ u8 p.code ++ u8 0)
    |> openReply p src claim seq 0x02 (done (toBE 4 sid ++ ctl)) (some key)

/-- The offset of the first parameter of SESSION_OPEN at fault. -/
def openForm (role idle : Nat) (pub sig : List Byte) : Option Nat :=
  if role = 0 ∨ role > 3 then some 0 else if idle > 600 then some 8 else if pub.length ≠ 32 then some 12
  else if sig.length ≠ 64 then some 44 else none

/-- SESSION_OPEN (R459). -/
def cmdSessionOpen (p : Path) (src : Src) (claim seq role keyId idle : Nat) (pub sig : List Byte) (c : Chip) : Chip :=
  if !c.hgOn then c
  else
    let reply (a : Ans) (c : Chip) : Chip := openReply p src claim seq 0x02 a none c
    match openForm role idle pub sig with
    | some off => secRefused c |> reply (badParam off)
    | none =>
      match c.openRefusal role keyId idle pub sig with
      | some a =>
        let detail := if a.1 = 0x10 then 0x10 else beAt a.2 0 2
        secRefused c |> log 0x0C02 p.code (u8 p.code ++ u8 detail ++ u8 role ++ u8 0 ++ u32 keyId) |> reply a
      | none =>
        match c.freeSlot with
        | some slot => openSession p src claim seq role keyId idle pub slot c
        | none => c

/-- SESSION_OPEN. -/
def execSessionOpen (p : Path) (src : Src) (claim : BitVec 16) (seq : BitVec 32) (role : BitVec 8) (keyId : BitVec 32)
    (idle : BitVec 16) (pub sig : List Byte) (s : State) : Host.Outcome State Fault Refusal :=
  runs (cmdSessionOpen p src claim.toNat seq.toNat role.toNat keyId.toNat idle.toNat pub sig) s

/-- A session expires when no authenticated packet came within its idle timeout (R73). The role and session engine is in
PD_AON. -/
def sessionDue (slot : Nat) (c : Chip) : Chip :=
  when (decide ((c.session slot).last + 4000000 * c.rd (Reg.SEC_SLOT_STATE_idle_timeout slot) ≤ c.now)) (sessionEnd slot 1) c

/-- SESSION_EXPIRY. -/
def execSessionExpiry (slot : Fin 8) (s : State) : Host.Outcome State Fault Refusal := runs (sessionDue slot.val) s

/-- SESSION_CLOSE (R88). -/
def cmdSessionClose (o : Origin) : Chip → Chip :=
  serve o 0x04 1 (.sessionClose o) none [] <| now fun c => (done [], sessionEnd o.slot.val 0 c)

/-- SESSION_CLOSE. -/
def execSessionClose (o : Origin) (s : State) : Host.Outcome State Fault Refusal := runs (cmdSessionClose o) s

/-- NOTICE_MASK (R86, R88). -/
def cmdNoticeMask (o : Origin) (mask classes : BitVec 16) : Chip → Chip :=
  serve o 0x05 1 (.noticeMask o mask classes) none [] <| now fun c =>
    (done [], modSession o.slot.val (fun s => { s with nmask := mask.toNat, emask := classes.toNat }) c)

/-- NOTICE_MASK. -/
def execNoticeMask (o : Origin) (mask classes : BitVec 16) (s : State) : Host.Outcome State Fault Refusal :=
  runs (cmdNoticeMask o mask classes) s

/-- RESULT_QUERY (R75, R88): 0 unknown, 1 queued, 2 running, 3 ended. -/
def cmdResultQuery (o : Origin) (seq : BitVec 32) : Chip → Chip :=
  serve o 0x06 1 (.resultQuery o seq) none [] <| tell fun c =>
    let r := ((c.session o.slot.val).seqs.find? fun r => r.seq == seq.toNat).getD ⟨0, 0, 0⟩
    done (toBE 1 r.st ++ toBE 1 r.status ++ toBE 2 0)

/-- RESULT_QUERY. -/
def execResultQuery (o : Origin) (seq : BitVec 32) (s : State) : Host.Outcome State Fault Refusal :=
  runs (cmdResultQuery o seq) s

end Sys2Proof.Machine
end

