-- ==== Sys2Proof/Machine/Snap.lean ====
section
/-! DEFINITION. The snapshot unit (17_thermal_calibration_snapshots.md, R487–R491; 03_serair_commands.md, R93). -/

namespace Sys2Proof.Machine

open Sys2Proof

/-! ### Triggers and the latch (R487–R489, R491) -/

/-- The TIME source (R487, R489): the first beat that opens at or after SNP_TIME; it disarms, held or not. -/
def snapTimeDue (c : Chip) : Chip :=
  if c.flag Reg.SNP_STATUS_time_armed && bit (c.rd Reg.SNP_CTL_src) 1 && decide (c.snapTime ≤ c.timeOf c.now) then
    snapTrigger 2 (wr Reg.SNP_STATUS_time_armed 0 c)
  else c

/-- The SNAP_IN source (R487): the input has been low for at least 20 ns, and the filter accepts a high level of 10 ns, in whose
beat the trigger arises. -/
def snapInDue (low high : Nat) (c : Chip) : Chip :=
  when (bit (c.rd Reg.SNP_CTL_src) 0 && decide (20 ≤ low) && decide (10 ≤ high)) (snapTrigger 1) c

/-- Whether a latch is due at the next opening. -/
def Chip.snapDue (c : Chip) : Bool := c.sys.snp.trig != 0 && !c.flag Reg.SNP_STATUS_held

/-- Whether a field's copy is a status field of a context in the Sieve it is not bound to, which reads 0 (R215). -/
def Chip.foreignField (c : Chip) (key : Nat) : Bool :=
  let a := key / 32
  if 0x180000 ≤ a ∧ a < 0x1C0000 ∧ 0x10000 ≤ (a - 0x180000) % 0x20000 then
    let v := (a - 0x180000) / 0x20000
    let n := ((a - 0x180000) % 0x20000 - 0x10000) / 0x800
    let o := a % 0x800
    c.svOf n != v && ((decide (0x40 ≤ o) && decide (o < 0x60)) || (decide (0x88 ≤ o) && decide (o < 0x94)) ||
      (decide (0x100 ≤ o) && decide (0xC ≤ o % 0x20)) || decide (0x400 ≤ o))
  else false

/-- The device with every field that shows other state brought up to date, at the end of the present beat. -/
def Chip.asSeen (c : Chip) : Chip :=
  [Blk.bt, .sec, .hg, .mgt, .dmc, .sv].foldl (fun d b => refresh b .mgmt c.lastCycle d) c

/-- The latch (R488), at the end of beat L − 1: every field is copied as it stands, and the snapshot is held
(DEDUCED, log entry 47). -/
def snapCopies (c : Chip) : Chip :=
  if !c.snapDue then c
  else
    let d := c.asSeen
    let l : Store := d.regs.filter fun p => !c.foreignField p.1
    let b := c.now + 1
    wr Reg.SNP_STATUS_sources c.sys.snp.trig c |> incWrap Reg.SNP_SEQ_value
      |> wr2 Reg.SNP_LATCH_LO_value Reg.SNP_LATCH_HI_value b
      |> wr Reg.SNP_DOMAINS_on (c.rd Reg.TOP_DOMAIN_ON_on) |> wr Reg.SNP_MISSED_value 0
      |> wr Reg.SNP_STATUS_held 1
      |> modSnp (fun s => { s with trig := 0, copies := l, outHigh := if c.flag Reg.SNP_CTL_out_en then some b else s.outHigh })

/-- SNAP_LATCHED and the SNAPSHOT notice (R488, R492, R86), at an FCLK cycle of the present beat. -/
def snapTell (cycle : Nat) (c : Chip) : Chip :=
  let seq := c.rd Reg.SNP_SEQ_value
  let src := c.rd Reg.SNP_STATUS_sources
  logAt cycle 0x0F01 0 (u32 seq ++ u8 src ++ u8 0 ++ u16 0) c
    |> noticeAll 0x8006 0 (toBE 4 seq ++ toBE 8 (c.rd2 Reg.SNP_LATCH_LO_value Reg.SNP_LATCH_HI_value) ++ toBE 1 src)

/-- SNAP_OUT's pulse is over once the beat after its rise has ended (R491). -/
def snapOut (c : Chip) : Chip :=
  let b := c.now
  modSnp (fun s => { s with outHigh := s.outHigh.filter fun l => decide (b ≤ l + 1) }) c

/-- The level of SNAP_OUT in an FCLK cycle of the present beat (R491). -/
def Chip.snapOutHigh (c : Chip) (cycle : Nat) : Bool :=
  match c.sys.snp.outHigh with
  | some l => (c.now == l && decide (125 ≤ cycle)) || (c.now == l + 1 && decide (cycle < 125))
  | none => false

/-- SNAPSHOT_LATCH (R488): the latch at the opening of the next beat, if one is due. -/
def execSnapshotLatch (s : State) : Host.Outcome State Fault Refusal :=
  runs (fun c => if c.snapDue then snapTell (c.lastCycle + 1) (snapCopies c) else c) s

/-- SNAP_IN_EDGE (R487): how many ns the input was low before its rising edge and high after it, up to 255. -/
def execSnapInEdge (s : State) (low high : BitVec 8 := 255) : Host.Outcome State Fault Refusal :=
  runs (snapInDue low.toNat high.toNat) s

/-- SNAP_TIME (R487). -/
def execSnapTime (s : State) : Host.Outcome State Fault Refusal := runs snapTimeDue s

/-! ### Commands (R93) -/

/-- What SNAP_TRIGGER answers and does. -/
def snapAsk (c : Chip) : Ans × Chip :=
  let seq := c.rd Reg.SNP_SEQ_value
  if c.flag Reg.SNP_STATUS_held then
    (done (toBE 4 seq ++ toBE 8 (c.rd2 Reg.SNP_LATCH_LO_value Reg.SNP_LATCH_HI_value) ++ toBE 1 1 ++ toBE 3 0), snapTrigger 0 c)
  else (done (toBE 4 (seq + 1) ++ toBE 8 (c.now + 1) ++ toBE 1 0 ++ toBE 3 0), snapTrigger 0 c)

/-- SNAP_TRIGGER. -/
def execSnapTrigger (o : Origin) (s : State) : Host.Outcome State Fault Refusal :=
  runs (serve o 0xC0 1 (.snapTrigger o) none [] <| now snapAsk) s

/-- SNAP_RELEASE (R489). -/
def execSnapRelease (o : Origin) (s : State) : Host.Outcome State Fault Refusal :=
  runs (serve o 0xC1 1 (.snapRelease o) none [] <| now fun c =>
    if c.flag Reg.SNP_STATUS_held then (done [], snapRelease c) else (badState 0 0, c)) s

/-- The parameters of SNAP_CONFIG: the offset of the first field at fault. -/
def snapForm (src classes : Nat) (t : DevTime) : Option Nat :=
  if src ≥ 32 then some 0 else if classes ≥ 32768 then some 2 else if t.ns.toNat ≥ 1000000000 then some 4 else none

/-- What SNAP_CONFIG writes (R487). -/
def snapSet (src classes : Nat) (t : DevTime) (c : Chip) : Chip :=
  let c := wr Reg.SNP_CTL_src (src / 2) c |> wr Reg.SNP_FAULT_MASK_mask classes |> wr Reg.SNP_TIME_NS_time t.ns.toNat
    |> wr2 Reg.SNP_TIME_SEC_LO_time Reg.SNP_TIME_SEC_HI_time t.sec.toNat
  wrB Reg.SNP_STATUS_time_armed (c.snapTime != 0) c

/-- SNAP_CONFIG. -/
def execSnapConfig (o : Origin) (src : BitVec 8) (classes : BitVec 16) (time : DevTime) (s : State) :
    Host.Outcome State Fault Refusal :=
  runs (serve o 0xC2 1 (.snapConfig o src classes time) (snapForm src.toNat classes.toNat time) [] <| now fun c =>
    (done [], snapSet src.toNat classes.toNat time c)) s

/-- SNAP_STATUS. -/
def cmdSnapStatus (o : Origin) : Chip → Chip :=
  serve o 0xC3 1 (.snapStatus o) none [] <| tell fun c =>
    done (toBE 1 (c.rd Reg.SNP_STATUS_held) ++ toBE 3 0 ++ toBE 4 (c.rd Reg.SNP_SEQ_value) ++
      toBE 8 (c.rd2 Reg.SNP_LATCH_LO_value Reg.SNP_LATCH_HI_value) ++ toBE 4 (c.rd Reg.SNP_MISSED_value))

/-- SNAP_STATUS. -/
def execSnapStatus (o : Origin) (s : State) : Host.Outcome State Fault Refusal := runs (cmdSnapStatus o) s

end Sys2Proof.Machine
end

