-- ==== Sys2Proof/Machine/Packet.lean ====
section
/-! DEFINITION. A Serair packet from the line (03_serair_commands.md, R66–R78, R88–R93; 15, R423, R424): the port, the
packet's form, tag and session, its sequence, and the request it spells. A request that bypasses the queue is carried out at
once; any other joins the queue, and the command row of its opcode carries it out. -/

namespace Sys2Proof.Machine

open Sys2Proof

/-! ### Parameter forms (R71, R88–R93) -/

/-- One field of a parameter block, with its width in bytes: an integer, an integer in a range, reserved bytes, a channel
mask, a DRAM address, a byte string. -/
inductive ParField
  | int (w : Nat)
  | rng (w lo hi : Nat)
  | zero (w : Nat)
  | sem
  | mask
  | addr
  deriving DecidableEq, Repr

/-- The width of a field in bytes. -/
def ParField.size : ParField → Nat
  | .int w => w
  | .rng w _ _ => w
  | .zero w => w
  | .sem => 1
  | .mask => 4
  | .addr => 8

/-- Whether a field may hold a value. -/
def ParField.ok (n : Nat) : ParField → Bool
  | .int _ => true
  | .rng _ lo hi => decide (lo ≤ n) && decide (n ≤ hi)
  | .zero _ => n == 0
  | .sem => decide (n < 3) || (decide (8 ≤ n) && decide (n < 64))
  | .mask => decide (n < 2 ^ 24)
  | .addr => decide (n < 2 ^ 36)

/-- The offset of the first field at fault of a parameter block, or of its end when bytes are left over. -/
def formFault : List ParField → Nat → List Byte → Option Nat
  | [], off, l => if l.isEmpty then none else some off
  | f :: fs, off, l =>
    if l.length < f.size ∨ !f.ok (be (l.take f.size)) then some off
    else formFault fs (off + f.size) (l.drop f.size)

/-- The fields that an opcode defines; REG_WRITE's last field repeats by its count. -/
def opFields (op : Nat) (l : List Byte) : List ParField :=
  match op with
  | 0x02 => [.rng 1 1 3, .zero 3, .int 4, .rng 2 0 600, .zero 2, .int 32, .int 64]
  | 0x05 => [.int 2, .int 2]
  | 0x06 => [.int 4]
  | 0x10 => [.int 4, .rng 2 1 256, .zero 2]
  | 0x11 => [.int 4, .rng 2 1 256, .zero 2] ++ List.replicate (beAt l 4 2) (.int 4)
  | 0x12 => [.int 4, .int 4, .int 4]
  | 0x18 => [.sem, .zero 3]
  | 0x19 => [.rng 1 0 63, .zero 3]
  | 0x20 => [.addr, .int 4]
  | 0x21 => [.int 4]
  | 0x22 => [.int 4, .int 8]
  | 0x23 => [.int 4]
  | 0x24 => [.int 4]
  | 0x25 => [.int 4]
  | 0x30 => [.addr, .int 4]
  | 0x40 => [.mask]
  | 0x41 => [.mask]
  | 0x42 => [.mask]
  | 0x43 => [.mask]
  | 0x44 => [.rng 1 0 23, .zero 3, .int 4, .rng 2 1 64, .zero 2]
  | 0x60 => [.rng 1 0 7, .zero 3, .int 8, .int 4, .int 4]
  | 0x61 => [.rng 1 0 7, .zero 3, .int 4, .int 4]
  | 0x62 => [.int 1, .rng 1 0 1, .zero 2]
  | 0x63 => [.rng 1 0 7, .rng 1 1 6, .zero 2]
  | 0x64 => [.rng 1 0 7, .rng 1 0 7, .rng 1 0 1, .zero 1, .int 4, .int 4, .int 8]
  | 0x65 => [.int 1, .zero 3]
  | 0x66 => [.int 1, .zero 3]
  | 0x70 => [.int 4, .rng 1 0 1, .zero 3]
  | 0x71 => [.int 8]
  | 0x72 => [.rng 1 0 1, .int 1, .zero 2, .addr]
  | 0x80 => [.rng 1 0 31, .rng 1 0 1, .zero 2]
  | 0x81 => [.rng 1 0 31, .rng 1 0 1, .zero 2]
  | 0x82 => [.rng 1 0 31, .rng 1 0 5, .zero 2, .int 8, .rng 2 1 1392, .zero 2]
  | 0x83 => [.rng 1 0 31, .zero 3]
  | 0x91 => [.rng 1 0 7, .rng 1 0 2, .zero 2, .int 10, .zero 2, .int 4, .int 4]
  | 0x92 => [.rng 1 0 7, .zero 3]
  | 0xA0 => [.int 2, .rng 1 1 40, .zero 1]
  | 0xB0 => [.rng 4 0 31]
  | 0xB1 => [.rng 1 0 6, .zero 3]
  | 0xB2 => [.rng 1 0 1, .int 1, .zero 2]
  | 0xC2 => [.rng 1 0 31, .zero 1, .rng 2 0 32767, .int 10]
  | 0xD0 => [.int 2, .zero 2]
  | 0xD1 => [.int 2, .rng 1 0 1, .zero 1]
  | 0xE0 => [.addr, .int 4]
  | 0xF0 => [.int 2, .int 2]
  | 0xF1 => [.rng 1 0 51, .rng 1 0 5, .zero 2]
  | 0xF2 => [.rng 1 0 1, .zero 3, .addr, .rng 2 1 16, .zero 2]
  | _ => []

/-- The form rules of a request that one field alone does not show. -/
def rowForm (c : Chip) : Instr → Option Nat
  | .jobLoad _ a n => loadForm a n
  | .axMove _ n x _ _ => moveForm n.toNat (toS 64 x.toNat) c
  | .axGear _ n pf arm _ den x => gearForm n.toNat pf.toNat arm.toNat den.toNat (toS 64 x.toNat)
  | .ktLoop _ on ctx map => loopForm on.toNat ctx.toNat map.toNat
  | .tapRead _ ctx tap _ len => tapReadForm ctx tap len
  | .pulseSet _ out mode first period width => pulseForm out mode first period width
  | .tableCommit _ kind inst => commitForm kind.toNat inst.toNat
  | .snapConfig _ src classes t => snapForm src.toNat classes.toNat t
  | .pdOn _ mask => pdForm mask.toNat 0
  | .pdOff _ mask mode => pdForm mask.toNat mode.toNat
  | .otpRead _ off n => otpForm off.toNat n.toNat
  | .dramDiagRead _ ch a n => diagForm ch.toNat a.toNat n.toNat
  | _ => none

/-- The smaller of two offsets. -/
def formFirst : Option Nat → Option Nat → Option Nat
  | some a, some b => some (min a b)
  | some a, none => some a
  | none, b => b

/-! ### The request that a parameter block spells -/

/-- A big-endian field of a parameter block as a bit vector; bytes that are not there read 0. -/
def parAt (l : List Byte) (o w n : Nat) : BitVec n := BitVec.ofNat n (be ((slice l o w) ++ List.replicate (w - (slice l o w).length) 0))

/-- A device time at an offset (R71). -/
def parTime (l : List Byte) (o : Nat) : DevTime := ⟨parAt l o 6 48, parAt l (o + 6) 4 32⟩

/-- The request with an opcode and a parameter block, if the opcode is defined. `cycle`: the FCLK cycle that
TIME_STATUS shows. -/
def requestOf (o : Origin) (cycle : Fin 499) (op : Nat) (l : List Byte) : Option Instr :=
  let b (k : Nat) : BitVec 8 := parAt l k 1 8
  let h (k : Nat) : BitVec 16 := parAt l k 2 16
  let w (k : Nat) : BitVec 32 := parAt l k 4 32
  let d (k : Nat) : BitVec 64 := parAt l k 8 64
  match op with
  | 0x03 => some (.heartbeat o)
  | 0x04 => some (.sessionClose o)
  | 0x05 => some (.noticeMask o (h 0) (h 2))
  | 0x06 => some (.resultQuery o (w 0))
  | 0x10 => some (.regRead o (w 0) (h 4))
  | 0x11 => some (.regWrite o (w 0) ((List.range ((l.length - 8) / 4)).map fun k => w (8 + 4 * k)))
  | 0x12 => some (.regModify o (w 0) (w 4) (w 8))
  | 0x18 => some (.semAcquire o (b 0))
  | 0x19 => some (.semRelease o (b 0))
  | 0x1A => some (.semStatus o)
  | 0x20 => some (.jobLoad o (d 0) (w 8))
  | 0x21 => some (.jobAdmit o (w 0))
  | 0x22 => some (.jobStart o (w 0) (d 4))
  | 0x23 => some (.jobAbort o (w 0))
  | 0x24 => some (.jobDiscard o (w 0))
  | 0x25 => some (.jobStatus o (w 0))
  | 0x30 => some (.envelopeLoad o (d 0) (w 8))
  | 0x31 => some (.envelopeStatus o)
  | 0x40 => some (.chArm o (w 0))
  | 0x41 => some (.chPark o (w 0))
  | 0x42 => some (.chClear o (w 0))
  | 0x43 => some (.chStatus o (w 0))
  | 0x44 => some (.chLogRead o (b 0) (w 4) (h 8))
  | 0x60 => some (.axMove o (b 0) (d 4) (w 12) (w 16))
  | 0x61 => some (.axTune o (b 0) (w 4) (w 8))
  | 0x62 => some (.axStop o (b 0) (b 1))
  | 0x63 => some (.axHome o (b 0) (b 1))
  | 0x64 => some (.axGear o (b 0) (b 1) (b 2) (w 4) (w 8) (d 12))
  | 0x65 => some (.axStatus o (b 0))
  | 0x66 => some (.pfStatus o (b 0))
  | 0x70 => some (.ktEnable o (w 0) (b 4))
  | 0x71 => some (.ktSwap o (d 0))
  | 0x72 => some (.ktLoop o (b 0) (b 1) (d 4))
  | 0x73 => some (.ktStatus o)
  | 0x80 => some (.ctxBind o (b 0) (b 1))
  | 0x81 => some (.ctxRun o (b 0) (b 1))
  | 0x82 => some (.tapRead o (b 0) (b 1) (d 4) (h 12))
  | 0x83 => some (.ctxStatus o (b 0))
  | 0x90 => some (.timeStatus o cycle)
  | 0x91 => some (.pulseSet o (b 0) (b 1) (parTime l 4) (w 16) (w 20))
  | 0x92 => some (.captureRead o (b 0))
  | 0xA0 => some (.logRead o (h 0) (b 2) none false)
  | 0xA1 => some (.logStatus o)
  | 0xA2 => some (.logClear o)
  | 0xA3 => some (.lastgaspRead o)
  | 0xB0 => some (.calRun o (w 0))
  | 0xB1 => some (.calStatus o (b 0))
  | 0xB2 => some (.tableCommit o (b 0) (b 1))
  | 0xC0 => some (.snapTrigger o)
  | 0xC1 => some (.snapRelease o)
  | 0xC2 => some (.snapConfig o (b 0) (h 2) (parTime l 4))
  | 0xC3 => some (.snapStatus o)
  | 0xD0 => some (.pdOn o (h 0))
  | 0xD1 => some (.pdOff o (h 0) (b 2))
  | 0xD2 => some (.pdStatus o)
  | 0xE0 => some (.fwStage o (d 0) (w 8))
  | 0xE1 => some (.fwSwitch o)
  | 0xE2 => some (.fwInfo o)
  | 0xF0 => some (.otpRead o (h 0) (h 2))
  | 0xF1 => some (.laneTest o (b 0) (b 1))
  | 0xF2 => some (.dramDiagRead o (b 0) (d 4) (h 12))
  | _ => none

/-- What a request that bypasses the queue does (R82); none for one that enters the queue. A status opcode is answered from the
units as they stand: the status mirror is refreshed with every command (DESIGN CHOICE, log entry 71). -/
def bypass : Instr → Option (Chip → Chip)
  | .heartbeat o => some (cmdHeartbeat o)
  | .sessionClose o => some (cmdSessionClose o)
  | .noticeMask o m e => some (cmdNoticeMask o m e)
  | .resultQuery o q => some (cmdResultQuery o q)
  | .regRead o a n => some (cmdRegRead o a n)
  | .regWrite o a l => some (cmdRegWrite o a l)
  | .regModify o a m v => some (cmdRegModify o a m v)
  | .semAcquire o k => some (cmdSemAcquire o k)
  | .semRelease o k => some (cmdSemRelease o k)
  | .semStatus o => some (cmdSemStatus o)
  | .jobStatus o j => some (cmdJobStatus o j)
  | .envelopeStatus o => some (cmdEnvelopeStatus o)
  | .chStatus o m => some (cmdChStatus o m)
  | .axStatus o m => some (cmdAxStatus o m)
  | .pfStatus o m => some (cmdPfStatus o m)
  | .ktStatus o => some (cmdKtStatus o)
  | .ctxStatus o n => some (cmdCtxStatus o n)
  | .timeStatus o k => some (cmdTimeStatus o k)
  | .captureRead o k => some (cmdCaptureRead o k)
  | .logStatus o => some (cmdLogStatus o)
  | .calStatus o k => some (cmdCalStatus o k)
  | .snapStatus o => some (cmdSnapStatus o)
  | .pdStatus o => some (cmdPdStatus o)
  | .fwInfo o => some (cmdFwInfo o)
  | _ => none

/-! ### Sequence and checks (R75–R78) -/

/-- What a sequence number is to a session (R75): 0 new, 1 duplicate, 2 stale (DEDUCED, log entry 15). -/
def Session.case (q : Nat) (s : Session) : Nat :=
  let ahead := (q + 2 ^ 32 - s.h % 2 ^ 32) % 2 ^ 32
  let behind := (s.h + 2 ^ 32 - q % 2 ^ 32) % 2 ^ 32
  if 1 ≤ ahead ∧ ahead ≤ 1024 then 0
  else if behind ≤ 63 then (if s.seqs.any fun r => r.seq == q then 1 else if behind = 0 then 2 else 0)
  else 2

/-- A duplicate request (R77): no reply while its command is queued or running; else the cached reply again, or its
status alone. A reply that did not consume the sequence is no original. -/
def duplicate (o : Origin) (op : Nat) (c : Chip) : Chip :=
  let s := c.session o.slot.val
  let q := o.seq.toNat
  match s.seqs.find? fun r => r.seq == q with
  | none => c
  | some r =>
    if r.st ≠ 3 then c
    else
      match s.cache.find? fun k => k.seq == q && k.status != 0x11 && k.status != 0x13 with
      | some k =>
        txFrame o.path (.serair o.path o.src (txFlags o.path false true false) k.claim s.id q k.op k.status k.body
          (some s.key)) c
      | none => sendReply o op true true (r.status, []) c

/-- A stale request is refused; it consumes no sequence (R75). -/
def stale (o : Origin) (op : Nat) (c : Chip) : Chip :=
  let a := refuse 0x12 4 0 0
  modSession o.slot.val (Session.keep ⟨o.seq.toNat, op, o.claim.toNat, a.1, a.2⟩) c |> sendReply o op false false a

/-- The role that a request needs, whatever the form of its parameters (R4, R34, R78, R89, R101). -/
def requestRole (op : Nat) (cmd : Instr) : Nat :=
  match cmd with
  | .regRead _ a n => rolesOf ((List.range (min n.toNat 256)).map fun k => readRole (a.toNat + 4 * k))
  | .regWrite _ a l => rolesOf (writeRoles a.toNat (l.map BitVec.toNat))
  | .regModify _ a m v => writeRole a.toNat (v &&& m).toNat
  | .semAcquire _ k => if k.toNat < 2 then 2 else 1
  | _ => roleFor op cmd

/-- A new request: opcode, role, claim, queue space, form; then it is carried out, or joins the queue (R78, R82). -/
def freshRequest (o : Origin) (op flags : Nat) (l : List Byte) (c : Chip) : Chip :=
  let f := freeCycle c
  match opInfo op, requestOf o (Fin.ofNat 499 f.1) op l with
  | some info, some cmd =>
    let c := if op = 0x90 then f.2 else c
    let fault := if flags ≠ 0 then some 0 else formFirst (formFault (opFields op l) 0 l) (rowForm c cmd)
    match headChecks o op info (requestRole op cmd) c, fault, bypass cmd with
    | none, none, none => enqueue o op cmd c
    | _, none, some g => g c
    | some a, _, _ => answer o op a (queueFull o op a c)
    | none, some off, _ => answer o op (badParam off) c
  | _, _ => answer o op (refuse 0x1B 0 0 0) c

/-- An authenticated request of a session (R73, R75). -/
def sessionRequest (o : Origin) (op flags : Nat) (l : List Byte) (c : Chip) : Chip :=
  let c := arrive o c
  if !c.sessionOpen o.slot.val then answer o op (refuse 0x12 3 0 0) c
  else
    match (c.session o.slot.val).case o.seq.toNat with
    | 0 => freshRequest o op flags l c
    | 1 => duplicate o op c
    | _ => stale o op c

/-! ### The packet (R68, R70) -/

/-- A dropped packet is counted (R70): 0 form, 1 session, 2 tag (DEDUCED, log entry 14). -/
def packetDrop (p : Path) (k : Nat) (c : Chip) : Chip :=
  let f : Fld := match k with
    | 0 => Reg.HG_P_FORM_count p.code
    | 1 => Reg.HG_P_SESSION_count p.code
    | _ => Reg.HG_P_TAG_count p.code
  inc f (Reg.HG_P_STICKY_sat p.code) k c

/-- A tag failure is counted and logged (R70, R103). -/
def tagDrop (p : Path) (sid op : Nat) (c : Chip) : Chip :=
  packetDrop p 2 c |> log 0x0B30 p.code (u8 p.code ++ u8 0 ++ u32 sid ++ u16 op)

/-- The slot that holds a session id. -/
def Chip.slotOf (c : Chip) (sid : Nat) : Option (Fin 8) :=
  if sid = 0 then none else (List.finRange 8).find? fun k => c.rd (Reg.SEC_SLOT_STATE_state k.val) != 0 && (c.session k.val).id == sid

/-- Whether a packet's tag verifies under a key (R68, R70). -/
def tagOk (key bytes : List Byte) : Bool :=
  let n := 24 + beAt bytes 16 2
  slice bytes n 16 == (hmacSha256 key (bytes.take n)).take 16

/-- CERT_PRESENT and SESSION_OPEN, which carry no session and no tag (R72, R88). -/
def openingRequest (p : Path) (src : Src) (op claim seq flags : Nat) (l : List Byte) (c : Chip) : Chip :=
  let bad (off : Nat) (c : Chip) : Chip := secRefused c |> openReply p src claim seq op (badParam off) none
  if flags ≠ 0 then bad 0 c
  else if op = 0x01 then cmdCertPresent p src claim seq l c
  else
    match formFault (opFields 0x02 l) 0 l with
    | some off => bad off c
    | none =>
      cmdSessionOpen p src claim seq (beAt l 0 1) (beAt l 4 4) (beAt l 8 2) (slice l 12 32) (slice l 44 64) c

/-- A Serair packet that its port has accepted. -/
def packet (p : Path) (src : Src) (bytes : List Byte) (c : Chip) : Chip :=
  let n := beAt bytes 16 2
  let op := beAt bytes 14 2
  let sid := beAt bytes 6 4
  let seq := beAt bytes 10 4
  let claim := beAt bytes 4 2
  let flags := beAt bytes 3 1
  let l := slice bytes 24 n
  if bytes.length < 24 ∨ beAt bytes 0 2 ≠ 0x5856 ∨ beAt bytes 2 1 ≠ 1 ∨ n > 1400 ∨ bytes.length < 40 + n then
    packetDrop p 0 c
  else if op = 0x01 ∨ op = 0x02 then
    if sid ≠ 0 then packetDrop p 1 c
    else if (slice bytes (24 + n) 16).any (· != 0) then tagDrop p sid op c
    else openingRequest p src op claim seq flags l c
  else
    match c.slotOf sid with
    | none => packetDrop p 1 c
    | some k =>
      if !tagOk (c.session k.val).key bytes then
        tagDrop p sid op c
      else sessionRequest ⟨k, BitVec.ofNat 32 seq, p, BitVec.ofNat 16 claim, src⟩ op flags l c

/-- Whether a port takes a frame as Serair (R66, R67, R423, R424): it goes to the station address, and as a datagram to
NET_n_IP and NET_n_UDP, whole and with a checksum that holds. -/
def Chip.takesSerair (c : Chip) (p : Path) (src : Src) (dst : Dst) : Bool :=
  let n := p.code
  decide (dst.mac.toNat = c.stationMac p) &&
    if src.udp then
      c.flag (Reg.NET_CTL_udp_en n) && decide (c.rd (Reg.NET_IP_ip n) ≠ 0) &&
        decide (dst.ip.toNat = c.rd (Reg.NET_IP_ip n)) && decide (dst.port.toNat = c.rd (Reg.NET_UDP_port n)) &&
        !dst.frag && dst.sumOk
    else c.flag (Reg.NET_CTL_raw_en n)

/-- A frame with a Serair packet arrives at a port. -/
def packetIn (p : Path) (src : Src) (dst : Dst) (bytes : List Byte) (c : Chip) : Chip :=
  if !c.hgOn || !c.portOn p then c
  else if c.takesSerair p src dst then packet p src bytes (rxFrame p c)
  else rxDrop p c

/-- PACKET_RECEIVED. -/
def execPacketReceived (path : Path) (src : Src) (dst : Dst) (bytes : List Byte) (s : State) :
    Host.Outcome State Fault Refusal := runs (packetIn path src dst bytes) s

/-! ### The bound of a queued command (R59, R60, R87) -/

/-- The reply bound of an opcode that enters the queue, in beats (R89–R93) (DEDUCED, log entry 17). -/
def boundOf (op : Nat) : Nat :=
  if op = 0x20 then 4000
  else if op = 0x21 then 20000
  else if op = 0xA0 ∨ op = 0xA2 ∨ op = 0xA3 ∨ 0xF0 ≤ op then 4000
  else if 0xC0 ≤ op ∧ op < 0xD0 then 400
  else 800

/-- Whether a queued command's bound ends within the present beat. -/
def Queued.due (now : Nat) (q : Queued) : Bool := !q.deferred && decide (q.arrived + boundOf q.op ≤ now + 1)

/-- The first reply of a queued command whose bound runs out: DEFERRED. -/
def deferredReply (q : Queued) (c : Chip) : Chip :=
  let o := q.o
  if decide ((c.session o.slot.val).id = q.sid) then
    modSession o.slot.val (fun s => (s.mark o.seq.toNat 1 0x08).keep ⟨o.seq.toNat, q.op, o.claim.toNat, 0x08, []⟩) c
      |> sendReply o q.op false false deferred
  else c

/-- Queued commands that have waited their bound are answered DEFERRED (R60); their results follow as notices. -/
def queueDeferred (c : Chip) : Chip :=
  if !c.hgOn then c
  else
    let now := c.now
    let l := c.host.hg.queue.filter (Queued.due now)
    let hg := { c.host.hg with queue := c.host.hg.queue.map fun q => { q with deferred := q.deferred || q.due now } }
    forEach l deferredReply { c with host := { c.host with hg := hg } }

/-- QUEUE_WAIT_DEFERRED. -/
def execQueueWaitDeferred (s : State) : Host.Outcome State Fault Refusal := runs queueDeferred s

end Sys2Proof.Machine
end

