-- ==== Sys2Proof/Machine/ThermalCmds.lean ====
section
/-! DEFINITION. The thermal monitor (17_thermal_calibration_snapshots.md, R474–R480). -/

namespace Sys2Proof.Machine

open Sys2Proof

/-- Change the thermal monitor. -/
def modThm (f : Thm → Thm) (c : Chip) : Chip := { c with sys := { c.sys with thm := f c.sys.thm } }

/-- The sensor that a SENSOR round measures at present (R482, R483): each in turn for 4 conversions. -/
def Chip.sensorHeld (c : Chip) (n : Nat) : Bool :=
  match c.sys.cal.sensor with
  | some k => k < 48 && k / 4 == n
  | none => false

/-- A reading within −64 °C to +150 °C, in 1/16 °C (R475). -/
def goodReading (t : Int) : Bool := decide (-1024 ≤ t) && decide (t ≤ 2400)

/-- One sensor's conversion: what it will show (reading, fault, stale), and SENSOR_FAULT (R475, R483). A conversion without
a result has no raw value: a free value (DESIGN CHOICE, log entry 7) (DEDUCED, log entry 56)
(DEDUCED, log entry 60). -/
def sensorConvert (n : Nat) (raw : Option Nat) (c : Chip) : (Nat × Bool × Bool) × Chip :=
  let kept := c.rd (Reg.THM_SENS_temp n)
  let (k, d) := draw c
  let v : Int := toS 16 (raw.getD (Config.measured k % 65536)) + c.trimOf 2 n
  if c.sensorHeld n then ((kept, c.flag (Reg.THM_SENS_fault n), true), c)
  else if raw.isSome && goodReading v then ((ofS 16 v, false, false), c)
  else
    ((kept, true, true), log 0x0205 n (u8 n ++ u8 0 ++ u16 (ofS 16 (satS 16 v)) ++ beat32 c.now) (if raw.isSome then c else d))

/-- All sensors convert. -/
def sensorsConvert (l : List Nat) : Nat → List (Nat × Bool × Bool) → Chip → List (Nat × Bool × Bool) × Chip
  | 0, acc, c => (acc, c)
  | k + 1, acc, c =>
    let n := acc.length
    let r := sensorConvert n l[n]? c
    sensorsConvert l k (acc ++ [r.1]) r.2

/-- The hottest sensor that is not faulty, with its reading. -/
def hottest (l : List (Nat × Bool × Bool)) : Option (Nat × Int) :=
  (List.range l.length).foldl (fun m n =>
    let r := l.getD n (0, true, true)
    if r.2.1 then m
    else match m with
      | some (_, t) => if t < toS 16 r.1 then some (n, toS 16 r.1) else m
      | none => some (n, toS 16 r.1)) none

/-- The applied reduction moves (R476, R478). -/
def throttle (tmax : Option (Nat × Int)) (fault : Bool) (c : Chip) : Chip :=
  let start : Int := c.rd Reg.THM_CTL_start
  let c := match tmax with
    | some (n, t) => wrS Reg.THM_STATUS_t_max t c |> wr Reg.THM_STATUS_hottest n
    | none => c
  let t := c.rdS Reg.THM_STATUS_t_max
  let xt := if fault then 16 else (clampI 0 16 ((t - 16 * start) / 10)).toNat
  let x := c.rd Reg.THM_STATUS_x
  let x' := if x < xt then x + 1 else if xt < x then x - 1 else x
  let head := u8 (c.rd Reg.THM_STATUS_hottest) ++ u8 0 ++ u16 (c.rd Reg.THM_STATUS_t_max)
  let now := c.now
  let c := when (decide (0 < x)) (inc Reg.THM_THROTTLE_MS_count Reg.THM_STICKY_sat 1) c
    |> wr Reg.THM_STATUS_x x' |> wrB Reg.THM_STATUS_throttling (x' != 0)
  if x = 0 ∧ x' ≠ 0 then log 0x0201 0 (head ++ beat32 now) c |> modThm (fun m => { m with since := some now })
  else if x ≠ 0 ∧ x' = 0 then
    let ms := satU 32 ((now - c.sys.thm.since.getD now) / 4000)
    log 0x0202 0 (head ++ u32 ms) c |> modThm (fun m => { m with since := none })
  else c

/-- The conversion of all sensors (R474–R476, R480, R482). -/
def thmConvert (l : List Nat) (c : Chip) : Chip :=
  let r := sensorsConvert l 12 [] c
  let v := r.1
  let fault := v.any fun x => x.2.1
  let cool := v.all fun x => x.2.1 || decide (toS 16 x.1 < 1520)
  let now := c.now
  let c := wrB Reg.THM_STATUS_sensor_fault fault r.2 |> throttle (hottest v) fault
    |> modThm (fun m => { m with
      next := v
      coolSince := if cool then m.coolSince.orElse fun _ => some now else none })
    |> forEach (List.range 12) (trimNext 2)
  modCal (fun k => { k with sensor := k.sensor.map fun n => n + 1 }) c

/-- The readings of a conversion are shown from the next beat on (R474). -/
def thmShow (c : Chip) : Chip :=
  let v := c.sys.thm.next
  let one (n : Nat) (c : Chip) : Chip :=
    let r := v.getD n (0, true, true)
    let peak := c.rdS (Reg.THM_PEAK_temp n)
    wr (Reg.THM_SENS_temp n) r.1 c |> wrB (Reg.THM_SENS_fault n) r.2.1 |> wrB (Reg.THM_SENS_stale n) r.2.2
      |> when (!r.2.2 && decide (peak < toS 16 r.1)) (wr (Reg.THM_PEAK_temp n) r.1)
  if v.isEmpty then c else forEach (List.range 12) one c |> modThm (fun m => { m with next := [] })

/-- THM_CONVERSION. -/
def execThmConversion (readings : List (BitVec 16)) (s : State) : Host.Outcome State Fault Refusal :=
  runs (thmConvert (readings.map BitVec.toNat)) s

/-- The clock of the application cores in kHz (R477). -/
def Chip.appClock (c : Chip) : Nat := 1000000 * (32 - c.rd Reg.THM_STATUS_x) / 32

/-- Whether THERM_n is low (R478): while the applied reduction is above 0, and throughout a hardware shutdown. -/
def Chip.thermLow (c : Chip) : Bool := c.flag Reg.THM_STATUS_x || c.sys.thm.shutdown.isSome

/-- A shutdown comparator trips (R479): the sequence of R500 with cause THERMAL. A warm reset that is in progress becomes the
shutdown's. -/
def thermalTrip (n : Nat) (c : Chip) : Chip :=
  let c := modThm (fun m => { m with tripped := m.tripped.filter (· != n) ++ [n] }) c
  if c.sys.thm.shutdown.isSome then c
  else
    let now := c.now
    let event (c : Chip) : Chip :=
      log 0x0203 n (u8 n ++ u8 0 ++ u16 (c.rd (Reg.THM_SENS_temp n)) ++ beat32 now) c
    let c := inc Reg.THM_SHUTDOWNS_count Reg.THM_STICKY_sat 0 c
      |> modThm (fun m => { m with shutdown := some now, coolSince := none })
    if c.sys.pwr.reset.isSome then
      event c |> modReset (fun r => { r with cause := causeThermal }) |> wr Reg.PWR_CAUSE_cause causeThermal
        |> wr Reg.PWR_CAUSE_monitor 0
    else resetStart causeThermal 0 event c

/-- In a hardware shutdown PD_MOTION is held in reset from beat t + 2 (R500): for one that came upon a warm reset. -/
def thermalHold (c : Chip) : Chip :=
  match c.sys.thm.shutdown, c.sys.pwr.reset with
  | some t, some r =>
    if r.held && !r.motionHeld && decide (t + 2 ≤ c.now) then
      holdDomain pdMOTION c |> modReset (fun x => { x with motionHeld := true })
    else c
  | _, _ => c

/-- THERMAL_SHUTDOWN: the comparator of a sensor trips, or is tripped no longer. -/
def execThermalShutdown (sensor : Fin 12) (s : State) (tripped : Bool := true) : Host.Outcome State Fault Refusal :=
  runs (if tripped then thermalTrip sensor.val
    else modThm fun m => { m with tripped := m.tripped.filter (· != sensor.val) }) s

/-- Whether the sensors allow the restart (R480): every good one below 95 °C at every conversion for 1 s, and no comparator
tripped. -/
def Chip.restartOk (c : Chip) : Bool :=
  match c.sys.pwr.reset with
  | some r =>
    r.cause == causeThermal && r.held && r.motionHeld && c.sys.thm.tripped.isEmpty && !c.flag Reg.GIO_STATUS_wrst && c.powerGood &&
      (match c.sys.thm.coolSince with
      | some b => decide (b + 4000000 ≤ c.now)
      | none => false)
  | none => false

/-- THERMAL_RESTART (R480, R452). -/
def thermalRestart (c : Chip) : Chip :=
  if c.restartOk then
    let sec := satU 16 ((c.now - c.sys.thm.shutdown.getD c.now) / 4000000)
    log 0x0204 0 (u8 0 ++ u8 0 ++ u16 sec ++ beat32 c.now) c |> wr Reg.THM_STATUS_restarted 1
      |> modThm (fun m => { m with shutdown := none }) |> resetRelease
  else c

/-- THERMAL_RESTART. -/
def execThermalRestart (s : State) : Host.Outcome State Fault Refusal := runs thermalRestart s

end Sys2Proof.Machine
end

