-- ==== Sys2Proof/Machine/Beat.lean ====
section
/-! DEFINITION. The opening of a beat (02_beat_and_admission.md, R40, R48): the counter advances, and every activity that the
spec places at a beat opening, and every wait whose end has come, acts. Each group below is one place in the order of a
beat. -/

namespace Sys2Proof.Machine

open Sys2Proof

/-- All beam channels. -/
abbrev channels : List Nat := List.range 24

/-! ### The end of the ending beat -/

/-- Samples and frames that the ending beat still owes, and the snapshot's copies (R488). -/
def beatEnds (c : Chip) : Chip :=
  forEach channels ladClose c |> forEach channels uplinkMissed |> forEach (List.range 52) (fun n c => testSent n c |> prbsBeat n) |> snapCopies

/-! ### Counter, time, pins -/

/-- The servo's new trim is taken (R38, R432). -/
def trimTaken (c : Chip) : Chip :=
  match c.sys.net.servo.newTrim with
  | some t => wrS Reg.BT_RATE_TRIM_trim t c |> modServo (fun s => { s with newTrim := none })
  | none => c

/-- The general inputs are sampled, pulses end, and outputs that no Furrow owns take GIO_OUT (R126, R514). -/
def gioBeat (gpi : Nat) (c : Chip) : Chip :=
  let prev := c.rd Reg.GIO_IN_bits
  let c := modGio (fun g => { g with prevIn := prev }) c |> wr Reg.GIO_IN_bits gpi
    |> forEach (List.range 16) pulseClear |> gioOwn
  let own := c.rd Reg.GIO_OUT_OWNER_bits
  wr Reg.GIO_OUT_LEVEL_bits
    ((c.rd Reg.GIO_OUT_LEVEL_bits &&& own) ||| (c.rd Reg.GIO_OUT_bits &&& (own ^^^ 0xFFFF))) c

/-- The counter advances (R40); the step is taken at the opening of the beat after its own (R44). -/
def counted (gpi : Nat) (latched : Bool) (c : Chip) : Chip :=
  let c := { c with fix := { c.fix with beat := c.fix.beat + 1 } }
  let stepped := c.sys.net.servo.step.any fun p => decide (p.1 + 1 ≤ c.now)
  when stepped timeStep c |> trimTaken |> gioBeat gpi |> thmShow |> when latched (snapTell 0) |> snapOut

/-! ### Resets and power domains -/

/-- WRST_n sampled (R497): low at two openings in a row starts a warm reset at the second. -/
def wrstSample (c : Chip) : Chip :=
  let n := if c.flag Reg.GIO_STATUS_wrst then min 2 (c.sys.pwr.wrstLow + 1) else 0
  modPwr (fun p => { p with wrstLow := n }) c |> when (decide (n = 2)) (warmReset 1 0)

/-- A commanded warm reset whose beat has come (R497). -/
def warmDue (c : Chip) : Chip := when (c.sys.pwr.warmAt.any fun w => decide (w ≤ c.now)) (warmReset 2 0) c

/-- Resets start, proceed and end; without one, domains are switched (R497, R500, R503, R506–R508). -/
def beatPower (c : Chip) : Chip :=
  let c := wrstSample c |> warmDue |> wdtDue |> resetHold |> thermalHold |> motionHold
  let c := when c.releaseOk resetRelease c
  when c.sys.pwr.reset.isNone (fun c => quiesceTimeout c |> deferredOff |> switchBeat) c |> resetAsk

/-! ### Sessions and paths -/

/-- The paths' and masters' timeouts, the step's conditions, expired sessions, time pulses (R43, R73, R428, R433, R434,
R436). -/
def beatNet (c : Chip) : Chip :=
  let c := forEach (List.range 8) (fun k c => pulseFall k c |> pulseRise k) c |> forEach (List.range 8) sessionDue
  when c.hgOn (fun c =>
    pathTimeout .a c |> pathTimeout .b |> announceTimeout .a |> announceTimeout .b |> syncTimeout .a |> syncTimeout .b
      |> stepFix) c

/-! ### Tables, tiles, memory -/

/-- What the Bed Sluice and the Memory Sluice do first in a beat (R164, R166, R167, R395, R398, R399, R388). -/
def beatTables (c : Chip) : Chip :=
  let c := settleEnds c |> quotaEnd |> slotWrap |> slmWrap |> streamFreezes |> when (c.on pdFABRIC) (forEach (List.range 64) dmaWindowHalt)
    |> streamCredits |> dramFrozenBeat
  let frozen := c.dramState 0 == 4 && decide (c.errBeat 0 < c.now)
  when frozen (jobsRunningAbort 2) c |> when (c.on pdFABRIC) (forEach (List.range 64) dmaRetry)
    |> when (c.shown pdDRAM) (fun c => dramAge 0 c |> dramAge 1)

/-! ### Quenches and the job's start -/

/-- Every quench source of the beat acts, and the quenches of the beat before are confirmed (R146, R174, R292, R510). -/
def beatQuench (c : Chip) : Chip :=
  let b := c.now
  guardTrip c |> forEach channels quenchDue
    |> forEach channels (fun ch c => when ((c.fur ch).quenchedAt == some b) (ladQuench ch) c)
    |> forEach channels quenchConfirm |> resetAbort

/-- The ADMITTED job starts; calibration rounds that cannot run beside it end (R49, R482, R486). -/
def jobStartBeat (c : Chip) : Chip :=
  let d := when (c.on pdAPP) jobBegin c
  if c.admitted.isSome && d.admitted.isNone then calJobStart d else d

/-- JOB_START_BEAT. -/
def execJobStartBeat (s : State) : Host.Outcome State Fault Refusal := runs jobStartBeat s

/-! ### Channels and grants -/

/-- Every Furrow opens its beat, the Bed Sluice evaluates, every Furrow commits (R115, R133, R159, R170, R171, R173). -/
def beatChannels (c : Chip) : Chip :=
  let c := forEach channels furOpen c |> when (c.on pdFABRIC) bandForm
  let c := slbEvaluate c |> forEach channels (fun ch c => when (c.on (chanDom ch)) (furProbe ch) c)
  let c := when (c.on pdFABRIC) bandIncursions c
  forEach channels furClose c |> guardLook |> slbSnap

/-! ### Contexts and links -/

/-- Frames open and close, runs start and end, features are delivered (R48, R216, R220, R221, R247, R260). -/
def beatSieves (c : Chip) : Chip :=
  forEach (List.range 32) (fun n c => ctxDue n c |> frameOpen n |> frameWindow n |> frameClose n |> ovTimeout n) c
    |> forEach channels frameSeen
    |> forEach [0, 1] (fun v c => sieveDone v (c.now * 250) c |> forEach (List.range 16) (fun _ => sieveStart v))
    |> forEach [24, 25] (fun n => ovLines n 16) |> forEach channels fxDue
    |> forEach [0, 1] (fun v c => sieveShow v c |> loadShow v)

/-- Mailbox timeouts, the downlink frames of the beat, the loops' outputs, power samples (R192, R199, R270, R295). -/
def beatLinks (c : Chip) : Chip :=
  forEach channels (fun ch c => when (c.alive (chanDom ch)) (fun c => mbxDue ch c |> downlink ch) c) c |> slbShow
    |> forEach channels powerSample |> forEach channels ladShow

/-! ### Motion and Kettle -/

/-- Axis steps from the latches of the beat before, then the beat latches (R305, R326, R337, R341). -/
def beatMotion (axIn : Nat) (c : Chip) : Chip :=
  when (c.alive pdMOTION) (fun c =>
    forEach (List.range 8) (fun n c => axBeat n axIn c |> axHold n) c |> forEach (List.range 8) pfLatch) c

/-- The Kettle's chains, shifts, latch and lines, and its loop (R354, R363–R366, R370). -/
def beatKettle (c : Chip) : Chip :=
  when (c.alive pdKETTLE) (fun c =>
    ktChains c |> ktArrive |> ktReadStart |> ktShiftStart |> ktLatch |> ktRefresh |> ktLineStart |> loopUpdate) c

/-! ### What goes out -/

/-- A session's waiting notices are sent on each path on which it has sent (R85). -/
def noticesOf (k : Nat) (c : Chip) : Chip :=
  let s := c.session k
  let one (p : Path) (src : Option Src) (n : Notice) (c : Chip) : Chip :=
    match src with
    | some d => txFrame p (.serair p d (txFlags p true false false) 0 s.id n.seq n.code n.status n.body (some s.key)) c
    | none => c
  if s.notices.isEmpty || !c.sessionOpen k then c
  else
    modSession k (fun s => { s with notices := [] }) c
      |> forEach s.notices (fun n c => one .a s.srcA n c |> one .b s.srcB n)

/-- BEAM_PERMIT rises at a beat opening once its conditions hold (R513). -/
def permitRise (c : Chip) : Chip := when c.permitOk (wr Reg.GIO_STATUS_permit 1) c

/-- The register port, DEFERRED replies, the end of a job, BEAM_PERMIT, notices (R60, R62, R85, R98, R513). -/
def beatReplies (c : Chip) : Chip :=
  let c := portBeat c |> queueDeferred |> when (c.on pdAPP) jobDone |> permitRise
  when c.hgOn (forEach (List.range 8) noticesOf) c

/-! ### The beat -/

/-- A beat opens. `gpi`: the general inputs; `axIn`: the axis inputs, three for each axis
(DESIGN CHOICE, log entry 11). -/
def beatOpens (gpi axIn : Nat) (c : Chip) : Chip :=
  let latched := c.snapDue
  beatEnds c |> counted gpi latched |> beatPower |> beatNet |> beatTables |> beatQuench |> jobStartBeat |> beatChannels
    |> beatSieves |> beatLinks |> beatMotion axIn |> beatKettle |> snapTimeDue |> beatReplies

/-- BEAT_OPEN. -/
def execBeatOpen (gpi : BitVec 16) (axIn : BitVec 24) (s : State) : Host.Outcome State Fault Refusal :=
  runsTime 1 (beatOpens gpi.toNat axIn.toNat) s

end Sys2Proof.Machine
end

