-- ==== Sys2Proof/Machine/JtagPort.lean ====
section
/-! DEFINITION. The JTAG port (19_balls_electrical_package.md, R547): the controller of IEEE 1149.1, its instruction
register, and the bypass and boundary registers. -/

namespace Sys2Proof.Machine

open Sys2Proof

/-- The next state of the controller. -/
def TapState.next (s : TapState) (tms : Bool) : TapState :=
  match s, tms with
  | .reset, true => .reset
  | .reset, false => .idle
  | .idle, true => .selDr
  | .idle, false => .idle
  | .selDr, true => .selIr
  | .selDr, false => .capDr
  | .capDr, true => .ex1Dr
  | .capDr, false => .shDr
  | .shDr, true => .ex1Dr
  | .shDr, false => .shDr
  | .ex1Dr, true => .updDr
  | .ex1Dr, false => .pauDr
  | .pauDr, true => .ex2Dr
  | .pauDr, false => .pauDr
  | .ex2Dr, true => .updDr
  | .ex2Dr, false => .shDr
  | .updDr, true => .selDr
  | .updDr, false => .idle
  | .selIr, true => .reset
  | .selIr, false => .capIr
  | .capIr, true => .ex1Ir
  | .capIr, false => .shIr
  | .shIr, true => .ex1Ir
  | .shIr, false => .shIr
  | .ex1Ir, true => .updIr
  | .ex1Ir, false => .pauIr
  | .pauIr, true => .ex2Ir
  | .pauIr, false => .pauIr
  | .ex2Ir, true => .updIr
  | .ex2Ir, false => .shIr
  | .updIr, true => .selDr
  | .updIr, false => .idle

/-- Whether the boundary register is selected: EXTEST or SAMPLE/PRELOAD, while PORST_n is low. -/
def Jtag.boundary (j : Jtag) (porstLow : Bool) : Bool := porstLow && (j.ir == 0 || j.ir == 1)

/-- What the rising edge of TCK does in the present state: a capture or a shift. -/
def Jtag.rise (porstLow tdi : Bool) (j : Jtag) : Jtag :=
  match j.tap with
  | .capDr =>
    if j.boundary porstLow then
      { j with cells := (List.range 548).map (Config.captured j.captures), captures := j.captures + 1 }
    else { j with bypass := false }
  | .shDr =>
    if j.boundary porstLow then { j with cells := j.cells.drop 1 ++ [tdi] } else { j with bypass := tdi }
  | .capIr =>
    let high := maskOf ((List.range 6).filter (Config.captured j.captures))
    { j with irShift := 4 * high + 1, captures := j.captures + 1 }
  | .shIr => { j with irShift := j.irShift / 2 + 128 * b2n tdi }
  | _ => j

/-- What the falling edge of TCK does in the state reached: an update, or TDO. -/
def Jtag.fall (porstLow : Bool) (j : Jtag) : Jtag :=
  match j.tap with
  | .reset => { j with ir := 0xFF }
  | .updIr => { j with ir := j.irShift }
  | .updDr => if j.boundary porstLow then { j with latch := j.cells } else j
  | .shDr => { j with tdo := if j.boundary porstLow then j.cells.headD false else j.bypass }
  | .shIr => { j with tdo := bit j.irShift 0 }
  | _ => j

/-- One cycle of TCK. -/
def Jtag.tck (porstLow tms tdi : Bool) (j : Jtag) : Jtag :=
  let j := j.rise porstLow tdi
  Jtag.fall porstLow { j with tap := j.tap.next tms }

/-- Whether the supplies of the port are in range (R547, R527): monitors 0 and 1. -/
def Chip.jtagOn (c : Chip) : Bool := c.sys.pwr.supplyOut.all fun m => decide (m ≥ 2)

/-- JTAG_TCK. -/
def execJtagTck (tms tdi : Bool) (s : State) : Host.Outcome State Fault Refusal :=
  .next { s with jtag := if s.core.jtagOn then s.jtag.tck s.core.sys.pwr.pinLow tms tdi else s.jtag }

/-- JTAG_TRST: TRST_n is low. -/
def execJtagTrst (s : State) : Host.Outcome State Fault Refusal :=
  .next { s with jtag := { s.jtag with tap := .reset, ir := 0xFF } }

end Sys2Proof.Machine
end

