-- ==== Sys2Proof/Machine/Spi.lean ====
section
/-! DEFINITION. The SPI bring-up port (16_management_roles_crock.md, R455, R456). -/

namespace Sys2Proof.Machine

open Sys2Proof

/-- The CRC-8 of R194. -/
def crc8 (l : List Byte) : Nat := crcMsb 8 7 0 l

/-- What STATUS shows of the port's last accesses. -/
def spiShow (applied err : Bool) (c : Chip) : Chip := modMgt (fun m => { m with spiApplied := applied, spiErr := err }) c

/-- The response of an access that did not end OK. -/
def spiFail (r : Resp) (c : Chip) : Chip := modMgt (fun m => { m with spiResp := respCode r }) c

/-- The words of a WRITE, in address order, up to the first access that does not end OK: whether all were written. -/
def spiWords (a : Nat) : List Nat → Chip → Bool × Chip
  | [], c => (true, c)
  | v :: l, c =>
    let f := freeCycle c
    let w := busWrite .spi a v f.1 f.2
    if w.resp = .ok then spiWords (a + 4) l w.chip else (false, spiFail w.resp w.chip)

/-- The big-endian words of a byte string. -/
def spiData (l : List Byte) : List Nat := (List.range (l.length / 4)).map fun k => beAt l (4 * k) 4

/-- Whether the bytes of a transaction, command byte included, are a whole WRITE whose CRC matches. -/
def spiWhole (l : List Byte) : Bool :=
  let n := l.length
  decide (10 ≤ n) && decide (n ≤ 262) && (n - 6) % 4 == 0 && beAt l 0 1 == 2 && beAt l 1 4 % 4 == 0 &&
    crc8 (l.take (n - 1)) == beAt l (n - 1) 1

/-- A WRITE after its chip select has risen. -/
def spiWrite (l : List Byte) (whole : Bool) (c : Chip) : Chip :=
  if whole && spiWhole l then
    let r := spiWords (beAt l 1 4) (spiData (slice l 5 (l.length - 6))) c
    spiShow r.1 false r.2
  else spiShow false true c

/-- SPI_WRITE: the bytes of the transaction, and whether it ended on a byte boundary. -/
def execSpiWrite (bytes : List Byte) (whole : Bool) (s : State) : Host.Outcome State Fault Refusal :=
  runs (spiWrite bytes whole) s

/-- The words that a READ returns, and whether each access ended OK. -/
def spiReads (a : Nat) : Nat → List Nat → Chip → List Nat × Bool × Chip
  | 0, l, c => (l, true, c)
  | n + 1, l, c =>
    let f := freeCycle c
    let r := busRead .spi a f.1 f.2
    if r.1 = .ok then spiReads (a + 4) n (l ++ [r.2.1]) r.2.2 else (l, false, spiFail r.1 r.2.2)

/-- A READ: 0x5A, the words and their CRC-8, or 0xFF where an access did not end OK. The 0x00 bytes before are time
(DEDUCED, log entry 48). -/
def spiRead (a n : Nat) (c : Chip) : Chip :=
  if n = 0 ∨ n > 64 then modMgt (fun m => { m with spiErr := true }) c
  else
    let r := spiReads a n [] c
    let body := r.1.flatMap (toBE 4)
    let bytes := if r.2.1 then [0x5A#8] ++ body ++ toBE 1 (crc8 body) else if r.1.isEmpty then [0xFF#8] else [0x5A#8] ++ body ++ [0xFF#8]
    send (.spi bytes) r.2.2

/-- SPI_READ. -/
def execSpiRead (addr : BitVec 32) (count : BitVec 8) (s : State) : Host.Outcome State Fault Refusal :=
  runs (spiRead addr.toNat count.toNat) s

/-- A STATUS. -/
def spiStatus (c : Chip) : Chip :=
  let m := c.sys.mgt
  send (.spi (toBE 1 (b2n m.spiApplied + 2 * b2n m.spiErr + 4 * c.rd Reg.MGT_SPI_CTL_lock + 8 * m.spiResp) ++
    toBE 1 (c.rd Reg.MGT_BOOT_STATUS_state))) c

/-- SPI_STATUS. -/
def execSpiStatus (s : State) : Host.Outcome State Fault Refusal := runs spiStatus s

end Sys2Proof.Machine
end

