-- ==== Sys2Proof/Machine/Dispatch.lean ====
section
/-! DEFINITION. The meaning of every command of the opcode table: one arm per constructor. -/

namespace Sys2Proof.Machine

open Sys2Proof

def exec (i : Instr) (s : State) : Host.Outcome State Fault Refusal :=
  match i with
  | .packetReceived path src dst bytes => Sys2Proof.Machine.execPacketReceived path src dst bytes s
  | .sessionExpiry slot => Sys2Proof.Machine.execSessionExpiry slot s
  | .certPresent path src claim seq chain => Sys2Proof.Machine.execCertPresent path src claim seq chain s
  | .sessionOpen path src claim seq role keyId idle pub sig => Sys2Proof.Machine.execSessionOpen path src claim seq role keyId idle pub sig s
  | .heartbeat o => Sys2Proof.Machine.execHeartbeat o s
  | .sessionClose o => Sys2Proof.Machine.execSessionClose o s
  | .noticeMask o mask classes => Sys2Proof.Machine.execNoticeMask o mask classes s
  | .resultQuery o seq => Sys2Proof.Machine.execResultQuery o seq s
  | .regRead o addr count => Sys2Proof.Machine.execRegRead o addr count s
  | .regWrite o addr vals => Sys2Proof.Machine.execRegWrite o addr vals s
  | .regModify o addr mask value => Sys2Proof.Machine.execRegModify o addr mask value s
  | .semAcquire o sem => Sys2Proof.Machine.execSemAcquire o sem s
  | .semRelease o sem => Sys2Proof.Machine.execSemRelease o sem s
  | .semStatus o => Sys2Proof.Machine.execSemStatus o s
  | .jobLoad o addr len => Sys2Proof.Machine.execJobLoad o addr len s
  | .prewalkDone job => Sys2Proof.Machine.execPrewalkDone job s
  | .jobAdmit o job => Sys2Proof.Machine.execJobAdmit o job s
  | .jobStart o job start => Sys2Proof.Machine.execJobStart o job start s
  | .jobStartBeat => Sys2Proof.Machine.execJobStartBeat s
  | .jobAbort o job => Sys2Proof.Machine.execJobAbort o job s
  | .jobDiscard o job => Sys2Proof.Machine.execJobDiscard o job s
  | .jobStatus o job => Sys2Proof.Machine.execJobStatus o job s
  | .envelopeLoad o addr len => Sys2Proof.Machine.execEnvelopeLoad o addr len s
  | .envelopeVerifyDone => Sys2Proof.Machine.execEnvelopeVerifyDone s
  | .envelopeStatus o => Sys2Proof.Machine.execEnvelopeStatus o s
  | .chArm o mask => Sys2Proof.Machine.execChArm o mask s
  | .chPark o mask => Sys2Proof.Machine.execChPark o mask s
  | .chClear o mask => Sys2Proof.Machine.execChClear o mask s
  | .chStatus o mask => Sys2Proof.Machine.execChStatus o mask s
  | .chLogRead o chan first count => Sys2Proof.Machine.execChLogRead o chan first count s
  | .axMove o axis target speed accel => Sys2Proof.Machine.execAxMove o axis target speed accel s
  | .axTune o axis speed accel => Sys2Proof.Machine.execAxTune o axis speed accel s
  | .axStop o mask mode => Sys2Proof.Machine.execAxStop o mask mode s
  | .axHome o axis method => Sys2Proof.Machine.execAxHome o axis method s
  | .axGear o axis pf arm num den pos => Sys2Proof.Machine.execAxGear o axis pf arm num den pos s
  | .axStatus o mask => Sys2Proof.Machine.execAxStatus o mask s
  | .pfStatus o mask => Sys2Proof.Machine.execPfStatus o mask s
  | .ktEnable o chains on => Sys2Proof.Machine.execKtEnable o chains on s
  | .ktSwap o beat => Sys2Proof.Machine.execKtSwap o beat s
  | .ktLoop o on ctx map => Sys2Proof.Machine.execKtLoop o on ctx map s
  | .ktStatus o => Sys2Proof.Machine.execKtStatus o s
  | .ctxBind o ctx sieve => Sys2Proof.Machine.execCtxBind o ctx sieve s
  | .ctxRun o ctx on => Sys2Proof.Machine.execCtxRun o ctx on s
  | .tapRead o ctx tap off len => Sys2Proof.Machine.execTapRead o ctx tap off len s
  | .ctxStatus o ctx => Sys2Proof.Machine.execCtxStatus o ctx s
  | .timeStatus o cycle => Sys2Proof.Machine.execTimeStatus o cycle s
  | .pulseSet o out mode first period width => Sys2Proof.Machine.execPulseSet o out mode first period width s
  | .captureRead o inp => Sys2Proof.Machine.execCaptureRead o inp s
  | .logRead o first count badWord ce => Sys2Proof.Machine.execLogRead o first count badWord s ce
  | .logStatus o => Sys2Proof.Machine.execLogStatus o s
  | .logClear o => Sys2Proof.Machine.execLogClear o s
  | .logClearDone => Sys2Proof.Machine.execLogClearDone s
  | .lastgaspRead o => Sys2Proof.Machine.execLastgaspRead o s
  | .calRun o items => Sys2Proof.Machine.execCalRun o items s
  | .calRoundDone item inst ok => Sys2Proof.Machine.execCalRoundDone item inst ok s
  | .calStatus o item => Sys2Proof.Machine.execCalStatus o item s
  | .tableCommit o kind inst => Sys2Proof.Machine.execTableCommit o kind inst s
  | .tableCommitDone kind inst => Sys2Proof.Machine.execTableCommitDone kind inst s
  | .snapTrigger o => Sys2Proof.Machine.execSnapTrigger o s
  | .snapRelease o => Sys2Proof.Machine.execSnapRelease o s
  | .snapConfig o src classes time => Sys2Proof.Machine.execSnapConfig o src classes time s
  | .snapStatus o => Sys2Proof.Machine.execSnapStatus o s
  | .pdOn o mask => Sys2Proof.Machine.execPdOn o mask s
  | .pdOff o mask mode => Sys2Proof.Machine.execPdOff o mask mode s
  | .pdStatus o => Sys2Proof.Machine.execPdStatus o s
  | .fwStage o addr len => Sys2Proof.Machine.execFwStage o addr len s
  | .fwStageDone badArea => Sys2Proof.Machine.execFwStageDone s badArea
  | .fwSwitch o => Sys2Proof.Machine.execFwSwitch o s
  | .fwSwitchDone => Sys2Proof.Machine.execFwSwitchDone s
  | .fwInfo o => Sys2Proof.Machine.execFwInfo o s
  | .otpRead o off count => Sys2Proof.Machine.execOtpRead o off count s
  | .laneTest o lane mode => Sys2Proof.Machine.execLaneTest o lane mode s
  | .dramDiagRead o chan addr bursts => Sys2Proof.Machine.execDramDiagRead o chan addr bursts s
  | .pathTimeout path => Sys2Proof.Machine.execPathTimeout path s
  | .pathSwitch => Sys2Proof.Machine.execPathSwitch s
  | .netLink path lock fault an => Sys2Proof.Machine.execNetLink path lock s fault an
  | .arpRequest path target senderMac senderIp => Sys2Proof.Machine.execArpRequest path target senderMac senderIp s
  | .portModeTry path => Sys2Proof.Machine.execPortModeTry path s
  | .ptpAnnounce path h a => Sys2Proof.Machine.execPtpAnnounce path h a s
  | .announceTimeout path => Sys2Proof.Machine.execAnnounceTimeout path s
  | .ptpSync path h twoStep t1 t2 logInterval => Sys2Proof.Machine.execPtpSync path h twoStep t1 t2 logInterval s
  | .ptpFollowUp path h t1 => Sys2Proof.Machine.execPtpFollowUp path h t1 s
  | .delayReqTimer path t3 => Sys2Proof.Machine.execDelayReqTimer path t3 s
  | .ptpDelayResp path h reqPort reqClock t4 logInterval => Sys2Proof.Machine.execPtpDelayResp path h reqPort reqClock t4 logInterval s
  | .syncReceiptTimeout path => Sys2Proof.Machine.execSyncReceiptTimeout path s
  | .stepFix => Sys2Proof.Machine.execStepFix s
  | .timeStep => Sys2Proof.Machine.execTimeStep s
  | .timePulseRise k => Sys2Proof.Machine.execTimePulseRise k s
  | .timePulseFall k => Sys2Proof.Machine.execTimePulseFall k s
  | .captureEdge k rise ns => Sys2Proof.Machine.execCaptureEdge k rise ns s
  | .beatOpen gpi axIn => Sys2Proof.Machine.execBeatOpen gpi axIn s
  | .backoffExpiry c => Sys2Proof.Machine.execBackoffExpiry c s
  | .settleExpiry tile => Sys2Proof.Machine.execSettleExpiry tile s
  | .quotaWindowEnd => Sys2Proof.Machine.execQuotaWindowEnd s
  | .slotTableWrap => Sys2Proof.Machine.execSlotTableWrap s
  | .vectorEnd c => Sys2Proof.Machine.execVectorEnd c s
  | .vectorFetchDone c ok => Sys2Proof.Machine.execVectorFetchDone c ok s
  | .logFlushTimeout c => Sys2Proof.Machine.execLogFlushTimeout c s
  | .waitInputMet c => Sys2Proof.Machine.execWaitInputMet c s
  | .waitInputTimeout c => Sys2Proof.Machine.execWaitInputTimeout c s
  | .waitTimeMet c => Sys2Proof.Machine.execWaitTimeMet c s
  | .syncBeatMet c => Sys2Proof.Machine.execSyncBeatMet c s
  | .outputPulseClear k => Sys2Proof.Machine.execOutputPulseClear k s
  | .vectorRateWindow c => Sys2Proof.Machine.execVectorRateWindow c s
  | .quenchConfirm c => Sys2Proof.Machine.execQuenchConfirm c s
  | .uplinkFrame c line yArrival => Sys2Proof.Machine.execUplinkFrame c line yArrival s
  | .markerTimeout lane => Sys2Proof.Machine.execMarkerTimeout lane s
  | .mbxTimeout c => Sys2Proof.Machine.execMbxTimeout c s
  | .overviewFrame cam line0 line1 => Sys2Proof.Machine.execOverviewFrame cam line0 line1 s
  | .glkMbxCmdWrite m lane value => Sys2Proof.Machine.execGlkMbxCmdWrite m lane value s
  | .glkEnableWrite m lane value => Sys2Proof.Machine.execGlkEnableWrite m lane value s
  | .glkTestModeWrite m lane value => Sys2Proof.Machine.execGlkTestModeWrite m lane value s
  | .glkInjectOnce m lane value => Sys2Proof.Machine.execGlkInjectOnce m lane value s
  | .cameraFrameOpen ctx => Sys2Proof.Machine.execCameraFrameOpen ctx s
  | .frameClose ctx => Sys2Proof.Machine.execFrameClose ctx s
  | .sieveRunStart sieve => Sys2Proof.Machine.execSieveRunStart sieve s
  | .sieveRunDone sieve => Sys2Proof.Machine.execSieveRunDone sieve s
  | .featureDelivery ctx => Sys2Proof.Machine.execFeatureDelivery ctx s
  | .overviewFrameTimeout ctx => Sys2Proof.Machine.execOverviewFrameTimeout ctx s
  | .overviewLineRun ctx => Sys2Proof.Machine.execOverviewLineRun ctx s
  | .contextStart ctx => Sys2Proof.Machine.execContextStart ctx s
  | .svaFaultClear m sieve ctx value => Sys2Proof.Machine.execSvaFaultClear m sieve ctx value s
  | .svaFpnCommit m sieve ctx value => Sys2Proof.Machine.execSvaFpnCommit m sieve ctx value s
  | .svaParamWrite m sieve ctx off value => Sys2Proof.Machine.execSvaParamWrite m sieve ctx off value s
  | .svaExpWrite m sieve ctx gain value => Sys2Proof.Machine.execSvaExpWrite m sieve ctx gain value s
  | .trackingSample c y => Sys2Proof.Machine.execTrackingSample c y s
  | .powerSample c => Sys2Proof.Machine.execPowerSample c s
  | .ladRcSwitchIn m c value => Sys2Proof.Machine.execLadRcSwitchIn m c value s
  | .ladRcSwitchOut m c value => Sys2Proof.Machine.execLadRcSwitchOut m c value s
  | .ladUcodeWrite m c value => Sys2Proof.Machine.execLadUcodeWrite m c value s
  | .ladLoopRegWrite m c off value => Sys2Proof.Machine.execLadLoopRegWrite m c off value s
  | .rcSpillDone c ok => Sys2Proof.Machine.execRcSpillDone c ok s
  | .pfEdge n a b ns stable => Sys2Proof.Machine.execPfEdge n a b ns s stable
  | .indexEdge n ns a b x stable => Sys2Proof.Machine.execIndexEdge n ns s a b x stable
  | .speedStopTimeout n => Sys2Proof.Machine.execSpeedStopTimeout n s
  | .pfEnable m n value => Sys2Proof.Machine.execPfEnable m n value s
  | .pfCmpArm m n u value => Sys2Proof.Machine.execPfCmpArm m n u value s
  | .capPosRead m n => Sys2Proof.Machine.execCapPosRead m n s
  | .emuEnable m k value => Sys2Proof.Machine.execEmuEnable m k value s
  | .emuStep k ns => Sys2Proof.Machine.execEmuStep k ns s
  | .axInputChange n inp => Sys2Proof.Machine.execAxInputChange n inp s
  | .axEnable m n value => Sys2Proof.Machine.execAxEnable m n value s
  | .axHoldCurrent n => Sys2Proof.Machine.execAxHoldCurrent n s
  | .chopperBlankEnd n coilB ns => Sys2Proof.Machine.execChopperBlankEnd n coilB s ns
  | .chopperSenseTrip n coilB ns => Sys2Proof.Machine.execChopperSenseTrip n coilB s ns
  | .chopperTonTimeout n coilB ns => Sys2Proof.Machine.execChopperTonTimeout n coilB s ns
  | .chopperFastDecayEnd n coilB ns => Sys2Proof.Machine.execChopperFastDecayEnd n coilB s ns
  | .chopperSlowDecayEnd n coilB ns => Sys2Proof.Machine.execChopperSlowDecayEnd n coilB s ns
  | .ktReadStart => Sys2Proof.Machine.execKtReadStart s
  | .ktReadDone ok ns => Sys2Proof.Machine.execKtReadDone ok s ns
  | .ktShiftStart => Sys2Proof.Machine.execKtShiftStart s
  | .ktLatch => Sys2Proof.Machine.execKtLatch s
  | .ktRefresh => Sys2Proof.Machine.execKtRefresh s
  | .ktLineStart => Sys2Proof.Machine.execKtLineStart s
  | .ktReturnRecord chain tile line => Sys2Proof.Machine.execKtReturnRecord chain tile line s
  | .ktLoopUpdate => Sys2Proof.Machine.execKtLoopUpdate s
  | .dmcTrain m n value => Sys2Proof.Machine.execDmcTrain m n value s
  | .trainDone n fail => Sys2Proof.Machine.execTrainDone n fail s
  | .dqsRetrain n up down => Sys2Proof.Machine.execDqsRetrain n up down s
  | .dramRefresh n rank hot => Sys2Proof.Machine.execDramRefresh n rank hot s
  | .actWindowClear n => Sys2Proof.Machine.execActWindowClear n s
  | .dramAccessDone n ce ue synd => Sys2Proof.Machine.execDramAccessDone n ce ue synd s
  | .dramAlert n => Sys2Proof.Machine.execDramAlert n s
  | .weirAge n => Sys2Proof.Machine.execWeirAge n s
  | .memSlot => Sys2Proof.Machine.execMemSlot s
  | .dmaStart m n value => Sys2Proof.Machine.execDmaStart m n value s
  | .dmaAbort m n value => Sys2Proof.Machine.execDmaAbort m n value s
  | .dmaBurstGrant gpi => Sys2Proof.Machine.execDmaBurstGrant s gpi
  | .dmaResponse n k retry => Sys2Proof.Machine.execDmaResponse n k retry s
  | .dmaRetryTimer n => Sys2Proof.Machine.execDmaRetryTimer n s
  | .dmaStopComplete n => Sys2Proof.Machine.execDmaStopComplete n s
  | .crockTakeEvent badWord ce => Sys2Proof.Machine.execCrockTakeEvent badWord ce s
  | .thmConversion readings => Sys2Proof.Machine.execThmConversion readings s
  | .thermalShutdown sensor tripped => Sys2Proof.Machine.execThermalShutdown sensor s tripped
  | .thermalRestart => Sys2Proof.Machine.execThermalRestart s
  | .calLaneStep item => Sys2Proof.Machine.execCalLaneStep item s
  | .snapInEdge low high => Sys2Proof.Machine.execSnapInEdge s low high
  | .snapTime => Sys2Proof.Machine.execSnapTime s
  | .snapshotLatch => Sys2Proof.Machine.execSnapshotLatch s
  | .snpReleaseWrite m value => Sys2Proof.Machine.execSnpReleaseWrite m value s
  | .snpViewWrite m value => Sys2Proof.Machine.execSnpViewWrite m value s
  | .slbSlotCommit m value => Sys2Proof.Machine.execSlbSlotCommit m value s
  | .slbRcLeadWrite m value => Sys2Proof.Machine.execSlbRcLeadWrite m value s
  | .powerOnReset => Sys2Proof.Machine.execPowerOnReset s
  | .powerOnRelease => Sys2Proof.Machine.execPowerOnRelease s
  | .wrstPin low => Sys2Proof.Machine.execWrstPin low s
  | .pwrWarmWrite m value cycle => Sys2Proof.Machine.execPwrWarmWrite m value cycle s
  | .supplyAlarm monitor out => Sys2Proof.Machine.execSupplyAlarm monitor out s
  | .clockAlarm pll lost => Sys2Proof.Machine.execClockAlarm pll lost s
  | .mgtWdtExpiry => Sys2Proof.Machine.execMgtWdtExpiry s
  | .mgtWdtKick m value => Sys2Proof.Machine.execMgtWdtKick m value s
  | .motionResetHold => Sys2Proof.Machine.execMotionResetHold s
  | .warmResetRelease => Sys2Proof.Machine.execWarmResetRelease s
  | .coreHeartbeatTimeout core => Sys2Proof.Machine.execCoreHeartbeatTimeout core s
  | .mgtLoadWrite m k value => Sys2Proof.Machine.execMgtLoadWrite m k value s
  | .mgtBootStart m value => Sys2Proof.Machine.execMgtBootStart m value s
  | .imageVerifyDone badArea => Sys2Proof.Machine.execImageVerifyDone s badArea
  | .spiLockWrite m value => Sys2Proof.Machine.execSpiLockWrite m value s
  | .spiWrite bytes whole => Sys2Proof.Machine.execSpiWrite bytes whole s
  | .spiRead addr count => Sys2Proof.Machine.execSpiRead addr count s
  | .spiStatus => Sys2Proof.Machine.execSpiStatus s
  | .pwrDomOn m value => Sys2Proof.Machine.execPwrDomOn m value s
  | .pwrDomOff m value => Sys2Proof.Machine.execPwrDomOff m value s
  | .pwrDomForced m value => Sys2Proof.Machine.execPwrDomForced m value s
  | .domainOnDone d => Sys2Proof.Machine.execDomainOnDone d s
  | .quiesceAck d => Sys2Proof.Machine.execQuiesceAck d s
  | .quiesceTimeout => Sys2Proof.Machine.execQuiesceTimeout s
  | .deferredDomainOff => Sys2Proof.Machine.execDeferredDomainOff s
  | .quenchInput b => Sys2Proof.Machine.execQuenchInput b s
  | .quenchRelease b => Sys2Proof.Machine.execQuenchRelease b s
  | .loRegRead m addr cycle => Sys2Proof.Machine.execLoRegRead m addr cycle s
  | .fxSeqRead m ctx => Sys2Proof.Machine.execFxSeqRead m ctx s
  | .btTimeRead m epoch cycle => Sys2Proof.Machine.execBtTimeRead m epoch cycle s
  | .rcCounterRead m addr => Sys2Proof.Machine.execRcCounterRead m addr s
  | .genericRegWrite m addr value => Sys2Proof.Machine.execGenericRegWrite m addr value s
  | .queueWaitDeferred => Sys2Proof.Machine.execQueueWaitDeferred s
  | .prbsSyncChange lane sync => Sys2Proof.Machine.execPrbsSyncChange lane sync s
  | .laneRefLoss k => Sys2Proof.Machine.execLaneRefLoss k s
  | .laneRefReturn k => Sys2Proof.Machine.execLaneRefReturn k s
  | .rxFrameDropped path fcsBad => Sys2Proof.Machine.execRxFrameDropped path fcsBad s
  | .jtagTck tms tdi => Sys2Proof.Machine.execJtagTck tms tdi s
  | .jtagTrst => Sys2Proof.Machine.execJtagTrst s

end Sys2Proof.Machine
end

