-- ==== Sys2Proof/Safety.lean ====
section
/-! DEFINITION. What counts as safe, in the terms that the statements use: the canonical form of sparse data, BEAM_PERMIT
only under its conditions, the lengths of the JTAG registers. -/

namespace Sys2Proof

/-! ### Kinds of commands -/

/-- The commands of the JTAG port (R547). -/
def Instr.jtagRow (i : Instr) : Prop := i = .jtagTrst ∨ ∃ m d, i = .jtagTck m d

/-- The commands that act on PORST_n and the supply monitors (R496, R497). -/
def Instr.powerRow (i : Instr) : Prop := i = .powerOnReset ∨ i = .powerOnRelease ∨ ∃ k b, i = .supplyAlarm k b

/-- The commands that put the device in power-on reset: PORST_n falls, or the monitor of an AON supply reports out of range
(R496). -/
def Instr.startsReset (i : Instr) : Prop := i = .powerOnReset ∨ ∃ k : Fin 16, k.val < 2 ∧ i = .supplyAlarm k true

/-- The commands in which the Crock writes its memories (R461, R466, R467). -/
def Instr.crockRow (i : Instr) : Prop :=
  i = .logClearDone ∨ (∃ b ce, i = .crockTakeEvent b ce) ∨ ∃ o f n b ce, i = .logRead o f n b ce

/-- The origin and the opcode of a command of the Serair protocol in a session (R88–R93). -/
def Instr.request (i : Instr) : Option (Origin × Nat) :=
  match i with
  | .heartbeat o => some (o, 0x03)
  | .sessionClose o => some (o, 0x04)
  | .noticeMask o _ _ => some (o, 0x05)
  | .resultQuery o _ => some (o, 0x06)
  | .regRead o _ _ => some (o, 0x10)
  | .regWrite o _ _ => some (o, 0x11)
  | .regModify o _ _ _ => some (o, 0x12)
  | .semAcquire o _ => some (o, 0x18)
  | .semRelease o _ => some (o, 0x19)
  | .semStatus o => some (o, 0x1A)
  | .jobLoad o _ _ => some (o, 0x20)
  | .jobAdmit o _ => some (o, 0x21)
  | .jobStart o _ _ => some (o, 0x22)
  | .jobAbort o _ => some (o, 0x23)
  | .jobDiscard o _ => some (o, 0x24)
  | .jobStatus o _ => some (o, 0x25)
  | .envelopeLoad o _ _ => some (o, 0x30)
  | .envelopeStatus o => some (o, 0x31)
  | .chArm o _ => some (o, 0x40)
  | .chPark o _ => some (o, 0x41)
  | .chClear o _ => some (o, 0x42)
  | .chStatus o _ => some (o, 0x43)
  | .chLogRead o _ _ _ => some (o, 0x44)
  | .axMove o _ _ _ _ => some (o, 0x60)
  | .axTune o _ _ _ => some (o, 0x61)
  | .axStop o _ _ => some (o, 0x62)
  | .axHome o _ _ => some (o, 0x63)
  | .axGear o _ _ _ _ _ _ => some (o, 0x64)
  | .axStatus o _ => some (o, 0x65)
  | .pfStatus o _ => some (o, 0x66)
  | .ktEnable o _ _ => some (o, 0x70)
  | .ktSwap o _ => some (o, 0x71)
  | .ktLoop o _ _ _ => some (o, 0x72)
  | .ktStatus o => some (o, 0x73)
  | .ctxBind o _ _ => some (o, 0x80)
  | .ctxRun o _ _ => some (o, 0x81)
  | .tapRead o _ _ _ _ => some (o, 0x82)
  | .ctxStatus o _ => some (o, 0x83)
  | .timeStatus o _ => some (o, 0x90)
  | .pulseSet o _ _ _ _ _ => some (o, 0x91)
  | .captureRead o _ => some (o, 0x92)
  | .logRead o _ _ _ _ => some (o, 0xA0)
  | .logStatus o => some (o, 0xA1)
  | .logClear o => some (o, 0xA2)
  | .lastgaspRead o => some (o, 0xA3)
  | .calRun o _ => some (o, 0xB0)
  | .calStatus o _ => some (o, 0xB1)
  | .tableCommit o _ _ => some (o, 0xB2)
  | .snapTrigger o => some (o, 0xC0)
  | .snapRelease o => some (o, 0xC1)
  | .snapConfig o _ _ _ => some (o, 0xC2)
  | .snapStatus o => some (o, 0xC3)
  | .pdOn o _ => some (o, 0xD0)
  | .pdOff o _ _ => some (o, 0xD1)
  | .pdStatus o => some (o, 0xD2)
  | .fwStage o _ _ => some (o, 0xE0)
  | .fwSwitch o => some (o, 0xE1)
  | .fwInfo o => some (o, 0xE2)
  | .otpRead o _ _ => some (o, 0xF0)
  | .laneTest o _ _ => some (o, 0xF1)
  | .dramDiagRead o _ _ _ => some (o, 0xF2)
  | _ => none

end Sys2Proof

namespace Sys2Proof.Machine

open Sys2Proof

/-- Sparse data is canonical when its keys rise strictly, so that no key is listed twice. -/
abbrev Rising {α : Type} (l : List (Nat × α)) : Prop := l.Pairwise fun p q => p.1 < q.1

/-- The form of DRAM contents: addresses strictly rising. An address that is not listed reads as a free value (log entry
3), so no listed byte is known to equal it. -/
abbrev Memory.wf (m : List Host.Cell) : Prop := Rising m

/-- BEAM_PERMIT is high only while its conditions hold (18_resets_domains_faults.md, R513). -/
def Chip.permitSafe (c : Chip) : Prop := c.flag Reg.GIO_STATUS_permit = true → c.permitOk = true

/-- The registers of the JTAG port have their lengths: an 8-bit instruction, 548 boundary cells (19, R547, R548). -/
def Jtag.wf (j : Jtag) : Prop :=
  j.ir < 256 ∧ j.irShift < 256 ∧ j.cells.length = 548 ∧ j.latch.length = 548

/-- A state that no step may lead out of: the permit under its conditions, the JTAG port well formed. -/
def State.safe (s : State) : Prop := s.core.permitSafe ∧ s.jtag.wf

/-! ### The words of the statements -/

/-- A command completes, in a state of which `P` holds. -/
def Ends (i : Instr) (s : State) (P : State → Prop) : Prop := ∃ t, exec i s = .next t ∧ P t

/-- Every register field but the listed ones reads as before. -/
def Chip.regsKept (l : List Fld) (c d : Chip) : Prop := ∀ g : Fld, (∀ f ∈ l, g.key ≠ f.key) → d.rd g = c.rd g

/-- The parts of the device beside its register fields, the packets it sends, the beat counter, the epoch, the OTP and the
Crock's memories: table windows, the counter of free values, DRAM, holding copies, and the sides of the state. -/
inductive Part
  | tables | fresh | dram | hold | fxHold | host | sys | beam | img | lad | mot | kt | mem
  deriving DecidableEq, Repr

/-- A part is the same in two devices. -/
def Chip.same (c d : Chip) : Part → Prop
  | .tables => d.tables = c.tables
  | .fresh => d.fresh = c.fresh
  | .dram => d.dram = c.dram ∧ d.losses = c.losses
  | .hold => d.hold = c.hold
  | .fxHold => d.fxHold = c.fxHold
  | .host => d.host = c.host
  | .sys => d.sys = c.sys
  | .beam => d.beam = c.beam
  | .img => d.img = c.img
  | .lad => d.lad = c.lad
  | .mot => d.mot = c.mot
  | .kt => d.kt = c.kt
  | .mem => d.mem = c.mem

/-- Every part but the listed ones is as before. -/
def Chip.only (l : List Part) (c d : Chip) : Prop := ∀ p, p ∉ l → c.same d p

/-- The Headgate works: PORST_n is high, PD_FABRIC and PD_NET are on (03_serair_commands.md, R66, R82). -/
abbrev Chip.hears (c : Chip) : Prop := c.sys.pwr.porst = false ∧ c.hgOn = true

/-- A request comes in an open session of at least a role (R78, steps 1 and 3). -/
abbrev Chip.admits (o : Origin) (role : Nat) (c : Chip) : Prop :=
  c.hears ∧ c.sessionOpen o.slot.val = true ∧ role ≤ c.rd (Reg.SEC_SLOT_STATE_role o.slot.val)

/-- It comes on the controlling path with that path's claim (R78, step 4). -/
abbrev Chip.obeys (o : Origin) (role : Nat) (c : Chip) : Prop :=
  c.admits o role ∧ o.path = c.ctlPath ∧ o.claim.toNat = c.claimOf o.path

/-- A queued command can be carried out at once: none waits, the application cores run, and no image switches (R83, R450,
R454). -/
abbrev Chip.free (c : Chip) : Prop :=
  c.host.hg.queue = [] ∧ c.on pdAPP = true ∧ c.rd Reg.MGT_BOOT_STATUS_state ≠ 5

/-- A PTP message is one that its port takes and whose version and domain are the port's (R427). -/
abbrev Chip.ptpTaken (c : Chip) (p : Path) (h : PtpHead) : Prop :=
  c.sys.pwr.porst = false ∧ c.ptpFrame p h = true ∧ h.version.toNat % 16 = 2 ∧ h.domain.toNat = c.rd Reg.PTP_CTL_domain

/-- The device as a queued command that waits for none finds it: nothing sent yet, the session's packet noted, the beat of
receipt the present one (R73, R85). -/
def Chip.taken (o : Origin) (c : Chip) : Chip := arrive o (received c.now { c with out := [] })

/-- What is sent is one reply: on the path of the request and to its source, with its claim and sequence, the session's
id and key (R67–R69, R72). -/
def Replied (o : Origin) (op status : Nat) (body : List Byte) (c d : Chip) : Prop :=
  d.out = [.serair o.path o.src (1 + 16 * o.path.code) o.claim.toNat (c.session o.slot.val).id o.seq.toNat op status body
    (some (c.session o.slot.val).key)]

/-- The registers that a reply changes: the session's last path, the port's count of frames sent and its sticky bits; and
BEAM_PERMIT, which falls with its conditions after any command. -/
def replyRegs (o : Origin) : List Fld :=
  [Reg.GIO_STATUS_permit, Reg.SEC_SLOT_STATE_last_path o.slot.val, Reg.NET_TX_FRAMES_count o.path.code,
    Reg.NET_STICKY_sat o.path.code]

/-- The command completes with one reply and changes nothing else. -/
def Tells (i : Instr) (s : State) (o : Origin) (op status : Nat) (body : List Byte) : Prop :=
  Ends i s fun t => Replied o op status body s.core t.core ∧ Chip.only [.host] s.core t.core ∧
    Chip.regsKept (replyRegs o) s.core t.core

/-- Every register field but the listed ones, and but those of the given address ranges, reads as before. -/
def Chip.regsWithin (l : List Fld) (r : List (Nat × Nat)) (c d : Chip) : Prop :=
  ∀ g : Fld, (∀ f ∈ l, g.key ≠ f.key) → (∀ p ∈ r, g.key < p.1 * 32 ∨ p.2 * 32 ≤ g.key) → d.rd g = c.rd g

/-- An event waits for the Crock (R462, R464). -/
def Chip.logged (code inst : Nat) (par : List Byte) (c : Chip) : Prop :=
  ∃ e ∈ c.sys.crock.queue, e.code = code ∧ e.inst = inst ∧ e.par = par

/-- The Crock's queue of 256 has room for an event and for the one of a snapshot trigger missed (R464, R489). -/
abbrev Chip.roomToLog (c : Chip) : Prop := c.sys.crock.queue.length < 255

/-- An event was counted: the counter rose by one and stops at all ones, and at all ones its sticky bit is set (R13). -/
def Chip.counted (f sticky : Fld) (k : Nat) (c d : Chip) : Prop :=
  d.rd f = min (c.rd f + 1) (2 ^ f.w - 1) ∧ (2 ^ f.w ≤ c.rd f + 1 → bit (d.rd sticky) k = true)

/-- The registers that an event may change: the count of events dropped with its sticky bit, and the count of snapshot
triggers missed (R464, R489). -/
def logRegs : List Fld := [Reg.CRK_DROPPED_count, Reg.CRK_STICKY_sat, Reg.SNP_MISSED_value]

/-- BEAM_PERMIT and what an event may change. -/
def eventRegs : List Fld := Reg.GIO_STATUS_permit :: logRegs

/-- The registers in which the control of the paths and the time state show: HG_STATUS, HG_SWITCH, HG_SWITCHES, the time
state, and the servo's status and counters (R430–R438). -/
def controlRegs : List Fld :=
  [Reg.HG_STATUS_ctl_path, Reg.HG_SWITCH_LO_value, Reg.HG_SWITCH_HI_value, Reg.HG_SWITCHES_value,
    Reg.BT_STATUS_time_state, Reg.PTP_STATUS_cause, Reg.PTP_STATUS_refused, Reg.PTP_STATUS_lock_seen,
    Reg.PTP_ACCEPTED_count, Reg.PTP_REFUSED_count, Reg.PTP_STICKY_sat]

/-! ### Register accesses -/

/-- An access to the registers of a domain gets through to them (R29, R32, R34, R456): PORST_n is high, the domain is on, the
master is not the DMA engine, and the SPI port may make it. -/
abbrev Chip.lets (m : Master) (dom a : Nat) (write : Bool) (c : Chip) : Prop :=
  c.sys.pwr.porst = false ∧ c.on dom = true ∧ m ≠ .dma ∧ (m = .spi → c.spiBars a write = false ∧ makerOnly a = false)

/-- A write completes with OK, sends nothing else, and changes nothing but the listed parts and fields (and BEAM_PERMIT,
which falls with its conditions); of the device after it `P` holds. -/
def Wrote (i : Instr) (s : State) (m : Master) (parts : List Part) (regs : List Fld) (P : Chip → Prop) : Prop :=
  Ends i s fun t => t.core.out = [.bus m .ok []] ∧ Chip.only (.fresh :: parts) s.core t.core ∧
    Chip.regsKept (Reg.GIO_STATUS_permit :: regs) s.core t.core ∧ P t.core

/-- Every field of a register has acted on a written word as its type states: RW and RWI take it, W1C clears by ones, the
others keep their values (00_scope.md, R9, R553). -/
def Hit.took (h : Hit) (v : Nat) (c d : Chip) : Prop :=
  ∀ f ∈ h.r.fields, d.rd (h.fld f) = match f.ty with
    | .rw | .rwi => f.of v
    | .w1c => c.rd (h.fld f) &&& (f.of v ^^^ (2 ^ f.w - 1))
    | _ => c.rd (h.fld f)

/-- The register writes: the master, the address and the word of each. -/
def busWriteOf (i : Instr) : Option (Master × Nat × Nat) :=
  match i with
  | .glkMbxCmdWrite m n v => some (m, 0x140040 + n.val * 0x400, v.toNat)
  | .glkEnableWrite m n v => some (m, 0x140000 + n.val * 0x400, v.toNat)
  | .glkTestModeWrite m n v => some (m, 0x140080 + n.val * 0x400, v.toNat)
  | .glkInjectOnce m n v => some (m, 0x140080 + n.val * 0x400, v.toNat)
  | .svaFaultClear m k n v => some (m, svAddr k n 0x14, v.toNat)
  | .svaFpnCommit m k n v => some (m, svAddr k n 0x14, v.toNat)
  | .svaParamWrite m k n off v => some (m, svAddr k n off.toNat, v.toNat)
  | .svaExpWrite m k n gain v => some (m, svAddr k n (if gain then 0x84 else 0x80), v.toNat)
  | .ladRcSwitchIn m n v => some (m, 0x200014 + n.val * 0x2000, v.toNat)
  | .ladRcSwitchOut m n v => some (m, 0x200014 + n.val * 0x2000, v.toNat)
  | .ladUcodeWrite m n v => some (m, 0x200000 + n.val * 0x2000, v.toNat)
  | .ladLoopRegWrite m n off v => some (m, 0x200000 + n.val * 0x2000 + off.toNat % 0x2000, v.toNat)
  | .pfEnable m n v => some (m, 0x240000 + n.val * 0x400, v.toNat)
  | .pfCmpArm m n u v => some (m, 0x240100 + n.val * 0x400 + u.val * 0x20, v.toNat)
  | .emuEnable m k v => some (m, 0x242000 + k.val * 0x40, v.toNat)
  | .axEnable m n v => some (m, 0x250000 + n.val * 0x800, v.toNat)
  | .dmcTrain m n v => some (m, 0x280004 + n.val * 0x8000, v.toNat)
  | .dmaStart m n v => some (m, 0x291000 + n.val * 0x100, v.toNat)
  | .dmaAbort m n v => some (m, 0x291000 + n.val * 0x100, v.toNat)
  | .snpReleaseWrite m v => some (m, 0x40030, v.toNat)
  | .snpViewWrite m v => some (m, 0x4002C, v.toNat)
  | .slbSlotCommit m v => some (m, 0x120030, v.toNat)
  | .slbRcLeadWrite m v => some (m, 0x120040, v.toNat)
  | .pwrWarmWrite m v _ => some (m, 0x1000C, v.toNat)
  | .mgtWdtKick m v => some (m, 0x10020, v.toNat)
  | .mgtLoadWrite m k v => some (m, 0x71000 + k.val * 4, v.toNat)
  | .mgtBootStart m v => some (m, 0x70004, v.toNat)
  | .spiLockWrite m v => some (m, 0x70040, v.toNat)
  | .pwrDomOn m v => some (m, 0x10024, v.toNat)
  | .pwrDomOff m v => some (m, 0x10024, v.toNat)
  | .pwrDomForced m v => some (m, 0x10024, v.toNat)
  | .genericRegWrite m a v => some (m, a.toNat, v.toNat)
  | _ => none

/-- The register reads: the master and the address of each. -/
def busReadOf (i : Instr) : Option (Master × Nat) :=
  match i with
  | .loRegRead m a _ => some (m, a.toNat)
  | .rcCounterRead m a => some (m, a.toNat)
  | .fxSeqRead m n => some (m, 0x1C0040 + n.val * 0x200)
  | .btTimeRead m epoch _ => some (m, if epoch then 0x80024 else 0x80018)
  | .capPosRead m n => some (m, 0x240080 + n.val * 0x400)
  | _ => none

end Sys2Proof.Machine
end

