-- ==== Sys2Proof/Certificates/Slice0/Obligations.lean ====
section
/-! DEFINITION. The statements for the provers: what each command does and leaves alone, and what every command and step
keeps. The words of the statements (`Ends`, `Replied`, `Chip.only`, `Chip.regsKept`, `Chip.admits`, `Chip.obeys`,
`Chip.free`) are in Safety.lean. -/

open Sys2Proof Sys2Proof.Machine

/-! ### The queue, the step and what every command keeps -/

/-- The command at the front of the queue is carried out on the state with the queue's rest (Machine/Step.lean; the queue
itself is the model's, log entry 1). -/
def Obligations.FrontCommandRuns : Prop :=
  ∀ (i : Instr) (rest : List Instr) (s : State), s.pending = i :: rest → step s = exec i { s with pending := rest }

/-- With no command waiting the device idles (the model's choice, log entry 1); and no word spells a command, since the
opcode table gives no row any bits (the model's choice, log entry 2). -/
def Obligations.EmptyQueueIdles : Prop :=
  (∀ s : State, s.pending = [] → step s = .next s) ∧
    ∀ (s : State) (nbits w : Nat), decodeTableWord nbits w = none ∧ s.withFetchWord nbits w = s

/-- Every command completes in every state: none faults and none is refused by the model. It leaves the queue as it is;
the two commands of the JTAG port change the port alone, and no other command changes the port (R547). -/
def Obligations.EveryCommandCompletes : Prop :=
  ∀ (i : Instr) (s : State), Ends i s fun t =>
    t.pending = s.pending ∧ (i.jtagRow → t.core = s.core) ∧ (¬ i.jtagRow → t.jtag = s.jtag)

/-- The beat counter advances by one at BEAT_OPEN, is cleared by power-on reset, and no other command changes it (R40, R6).
While PORST_n is low no beat opens. -/
def Obligations.BeatCounter : Prop :=
  ∀ (i : Instr) (s t : State), exec i s = .next t →
    (s.core.sys.pwr.porst = false → (∃ g a, i = .beatOpen g a) → t.core.fix.beat = s.core.fix.beat + 1) ∧
    (i = .powerOnReset ∨ (i.startsReset ∧ s.core.sys.pwr.porst = false) → t.core.fix.beat = 0) ∧
    (i ≠ .powerOnReset → s.core.sys.pwr.porst = true → t.core.fix.beat = s.core.fix.beat) ∧
    (¬ i.startsReset → (¬ ∃ g a, i = .beatOpen g a) → t.core.fix.beat = s.core.fix.beat)

/-- Device time moves only with the step: power-on reset sets BT_EPOCH to 0, and no command but TIME_STEP and the beat
opening, which takes the step too, changes it (R41, R44). The OTP never changes (R445). The memories of the Crock change
only by its own commands and with power-on reset (R461, R466, R467). -/
def Claim.EpochOtpCrock : Prop :=
  ∀ (i : Instr) (s t : State), exec i s = .next t →
    t.core.fix.otp = s.core.fix.otp ∧
    (¬ i.startsReset → i ≠ .timeStep → (¬ ∃ g a, i = .beatOpen g a) → t.core.fix.epoch = s.core.fix.epoch) ∧
    (¬ i.startsReset → ¬ i.crockRow → t.core.crockMem = s.core.crockMem)

/-- While PORST_n holds the device in power-on reset, no command but those of PORST_n, the supplies and the JTAG port has
any effect: nothing is sent and the device stays as it is (R496; that commands given then are lost is the model's choice,
log entry 9). -/
def Claim.HeldInReset : Prop :=
  ∀ (i : Instr) (s : State), s.core.sys.pwr.porst = true → ¬ i.powerRow → ¬ i.jtagRow →
    exec i s = .next { s with core := { s.core with out := [] } }

/-- What device time, the OTP and the Crock keep, and what a device held in reset keeps. -/
def Obligations.WhatTimeAndResetKeep : Prop := Claim.EpochOtpCrock ∧ Claim.HeldInReset

/-- Right after reset: PORST_n is low, no session is open, no job is held, no envelope is in force, every semaphore is
free, the beat counter and the epoch are 0, the Crock is empty, no lane is enabled, no channel arms, DRAM lists nothing,
TOP_PART_CODE reads 0x2460, BEAM_PERMIT is low, and the queue of commands is empty. -/
def Obligations.ResetState : Prop :=
  let c := State.reset.core
  State.reset.pending = [] ∧ c.sys.pwr.porst = true ∧ c.fix.beat = 0 ∧ c.fix.epoch = 0 ∧ c.crockMem.records = [] ∧
    c.host.jobs = [] ∧ c.host.sec.envelope = none ∧ (∀ k : Fin 8, c.sessionOpen k.val = false) ∧
    (∀ x ∈ c.host.sems, x = ⟨0, 0, false⟩) ∧ c.host.sems.length = 64 ∧
    (∀ n : Fin 52, c.flag (Reg.GLK_CTL_enable n.val) = false) ∧ (∀ n : Fin 24, c.rd (Reg.FUR_STATE_state n.val) = 0) ∧
    c.dram = [] ∧ c.rd Reg.TOP_PART_CODE_part_code = 0x2460 ∧ c.flag Reg.GIO_STATUS_permit = false ∧
    c.rd Reg.TOP_DOMAIN_ON_on = 1

/-- No step leads out of the safe states: BEAM_PERMIT is high only while its conditions hold (R513), and the JTAG port
stays well formed (R547). -/
def Obligations.StepKeepsSafe : Prop := ∀ s t : State, s.safe → step s = .next t → t.safe

/-- The state right after reset is safe. -/
def Obligations.ResetIsSafe : Prop := State.reset.safe

/-- After any command but those of the JTAG port BEAM_PERMIT is high only while permit_en is 1, an envelope is loaded, neither
quench input is asserted, no DRAM channel is FROZEN, and no reset is in progress (R513) — whatever the state before, while
the device is out of power-on reset. -/
def Obligations.BeamPermitNeedsConditions : Prop :=
  ∀ (i : Instr) (s t : State), ¬ i.jtagRow → s.core.sys.pwr.porst = false → exec i s = .next t →
    t.core.flag Reg.GIO_STATUS_permit = true →
      t.core.flag Reg.GIO_CTL_permit_en = true ∧ t.core.host.sec.envelope.isSome = true ∧
      t.core.flag Reg.GIO_STATUS_quench_a = false ∧ t.core.flag Reg.GIO_STATUS_quench_b = false ∧
      (∀ n : Fin 2, t.core.dramState n.val ≠ 4) ∧ t.core.sys.pwr.reset = none ∧ t.core.sys.pwr.porst = false

/-! ### Paths and ports (15) -/

/-- A port that is on drops a frame and counts it: in NET_n_RX_FCS when its FCS is bad, else in NET_n_RX_DROP (R423); it
answers an ARP request for NET_n_IP and counts the frame, and drops any other (R423, R424). Nothing else changes. -/
def Claim.FramesAtPort : Prop :=
  ∀ (s : State) (p : Path), s.core.sys.pwr.porst = false → s.core.portOn p = true →
    (∀ bad, Ends (.rxFrameDropped p bad) s fun t =>
      Chip.counted (if bad then Reg.NET_RX_FCS_count p.code else Reg.NET_RX_DROP_count p.code) (Reg.NET_STICKY_sat p.code)
        (if bad then 1 else 2) s.core t.core ∧ t.core.out = [] ∧ Chip.only [] s.core t.core ∧
      Chip.regsKept [Reg.GIO_STATUS_permit, Reg.NET_RX_FCS_count p.code, Reg.NET_RX_DROP_count p.code,
        Reg.NET_STICKY_sat p.code] s.core t.core) ∧
    ∀ target mac ip, Ends (.arpRequest p target mac ip) s fun t =>
      (if s.core.rd (Reg.NET_IP_ip p.code) = target.toNat ∧ target.toNat ≠ 0 then
        t.core.out = [.arp p mac.toNat ip.toNat] ∧
        Chip.counted (Reg.NET_RX_FRAMES_count p.code) (Reg.NET_STICKY_sat p.code) 0 s.core t.core
      else
        t.core.out = [] ∧ Chip.counted (Reg.NET_RX_DROP_count p.code) (Reg.NET_STICKY_sat p.code) 2 s.core t.core) ∧
      Chip.only [] s.core t.core ∧
      Chip.regsKept [Reg.GIO_STATUS_permit, Reg.NET_RX_FRAMES_count p.code, Reg.NET_TX_FRAMES_count p.code,
        Reg.NET_RX_DROP_count p.code, Reg.NET_STICKY_sat p.code] s.core t.core

/-- What a port's PCS reports shows in NET_n_STATUS: the link is up while there is lock, no fault and, where clause 37 negotiates,
a completed negotiation (R422). A change of the link is logged, a loss is latched, and a path whose link goes down stops being
current at once; one whose link returns within the heartbeat timeout is current again (R436). The ports and time, the sessions
and registers may change with the control of the paths; nothing else does. -/
def Claim.LinkChanges : Prop :=
  ∀ (s : State) (p : Path) (lock fault an : Bool), s.core.sys.pwr.porst = false → s.core.portOn p = true →
    let n := p.code
    let negotiates := s.core.flag (Reg.NET_CTL_mode n) && s.core.flag (Reg.NET_CTL_an_en n)
    let up := lock && !fault && (an || !negotiates)
    (s.core.flag (Reg.NET_STATUS_link n) = up → Ends (.netLink p lock fault an) s fun t =>
      t.core.flag (Reg.NET_STATUS_fault n) = fault ∧ t.core.flag (Reg.NET_STATUS_an_done n) = (an && negotiates) ∧
      t.core.out = [] ∧ Chip.only [] s.core t.core ∧
      Chip.regsKept [Reg.GIO_STATUS_permit, Reg.NET_STATUS_fault n, Reg.NET_STATUS_an_done n] s.core t.core) ∧
    (s.core.flag (Reg.NET_STATUS_link n) ≠ up → s.core.roomToLog → Ends (.netLink p lock fault an) s fun t =>
      t.core.flag (Reg.NET_STATUS_link n) = up ∧ t.core.flag (Reg.NET_STATUS_fault n) = fault ∧
      t.core.flag (Reg.NET_STATUS_an_done n) = (an && negotiates) ∧
      t.core.logged 0x0B01 n (u8 n ++ u8 (b2n up) ++ u8 (s.core.rd (Reg.NET_CTL_mode n)) ++ u8 0 ++ beat32 s.core.now) ∧
      (up = false → t.core.flag (Reg.NET_STATUS_link_lost n) = true ∧ t.core.current p = false ∧
        t.core.rd (qualFld p) = 0) ∧
      (∀ b, up = true → s.core.hbAt p = some b → s.core.now ≤ b + s.core.rd Reg.HG_CTL_hb_timeout * 4000 →
        t.core.current p = true) ∧
      Chip.only [.host, .sys] s.core t.core ∧ t.core.out = [])

/-- Frames that a port drops, ARP requests, the tries of port modes, and the link of each path. -/
def Obligations.PortsAndLinks : Prop := Claim.FramesAtPort ∧ Claim.LinkChanges

/-- A path whose latest heartbeat is older than HG_CTL.hb_timeout stops being current (R436), and a change of control that
waits takes effect where nothing has changed since then: HG_STATUS.ctl_path shows the path, HG_SWITCH the beat, and HG_SWITCHES counts it (R437, R438). A port
that the boot ROM enabled tries its other mode after 1 s without a link (R450). -/
def Claim.ControlOfPaths : Prop :=
  ∀ (s : State) (p : Path), s.core.hears →
    (∀ b, s.core.hbAt p = some b → s.core.current p = true → b + s.core.rd Reg.HG_CTL_hb_timeout * 4000 < s.core.now →
      Ends (.pathTimeout p) s fun t => t.core.current p = false ∧ t.core.rd (qualFld p) = 0) ∧
    (∀ higher, s.core.host.hg.switchTo = some (p, higher) → s.core.current p = true →
      s.core.claimOf p.other ≤ s.core.claimOf p → Ends .pathSwitch s fun t =>
      t.core.ctlPath = p ∧ t.core.host.hg.switchTo = none ∧
      t.core.rd2 Reg.HG_SWITCH_LO_value Reg.HG_SWITCH_HI_value = s.core.now ∧
      t.core.rd Reg.HG_SWITCHES_value = (s.core.rd Reg.HG_SWITCHES_value + 1) % 2 ^ 32 ∧
      Chip.only [.host, .sys] s.core t.core ∧
      Chip.regsKept (Reg.GIO_STATUS_permit :: controlRegs ++ logRegs) s.core t.core) ∧
    ∀ b, s.core.sys.net.modeTry.getD p.code 0 = b + 1 → b + 4000000 ≤ s.core.now →
      s.core.flag (Reg.NET_STATUS_link p.code) = false → s.core.portOn p = true → Ends (.portModeTry p) s fun t =>
        t.core.flag (Reg.NET_CTL_mode p.code) = !s.core.flag (Reg.NET_CTL_mode p.code) ∧
        (s.core.flag (Reg.NET_CTL_mode p.code) = false → t.core.flag (Reg.NET_CTL_an_en p.code) = true) ∧
        Chip.only [.sys] s.core t.core

/-- A heartbeat in an open session is answered with the controlling path, the time state and the claims of both paths; its
claim is from then on the claim of its path, which has been heard on this beat and is current while its link is up
(R88, R436). Sessions, ports and registers may change with the control of the paths; nothing else does. -/
def Claim.HeartbeatClaims : Prop :=
  ∀ (s : State) (o : Origin), s.core.admits o 1 → Ends (.heartbeat o) s fun t =>
    t.core.claimOf o.path = o.claim.toNat ∧ t.core.claimOf o.path.other = s.core.claimOf o.path.other ∧
    t.core.hbAt o.path = some s.core.now ∧
    t.core.current o.path = s.core.flag (Reg.NET_STATUS_link o.path.code) ∧
    Replied o 0x03 0 (toBE 1 t.core.ctlPath.code ++ toBE 1 t.core.timeState ++ toBE 2 (t.core.claimOf .a) ++
      toBE 2 (t.core.claimOf .b)) s.core t.core ∧
    Chip.only [.host, .sys] s.core t.core

/-- How the controlling path times out, switches and is claimed. -/
def Obligations.PathControl : Prop := Claim.ControlOfPaths ∧ Claim.HeartbeatClaims

/-! ### PTP and the step (15, 02) -/

/-- An Announce is kept as its sender's latest, with the beat it came and the beat of the one before (R428). A Sync of the
selected master is timed at t2, its timestamp less the ingress correction (R426): one-step, or kept until its Follow_Up, which
completes ms = t2 − t1 − c_sync (R429). -/
def Claim.AnnounceAndSync : Prop :=
  ∀ (s : State) (p : Path) (h : PtpHead), Chip.ptpTaken s.core p h →
    (∀ a, Ends (.ptpAnnounce p h a) s fun t =>
      (∃ f ∈ (t.core.port p).foreign, f.a = a ∧ f.last = s.core.now ∧ f.prev =
        ((s.core.port p).foreign.find? fun f => f.a.sender == a.sender && f.a.port == a.port).map fun f => f.last) ∧
      t.core.port p.other = s.core.port p.other ∧ t.core.out = []) ∧
    ((s.core.port p).master = some (h.sender.toNat, h.port.toNat) →
      (∀ two (t1 seen : BitVec 96) k, Ends (.ptpSync p h two t1 seen k) s fun t =>
        let t2 : Int := (seen.toNat : Int) - (s.core.rd (Reg.NET_TS_CORR_ingress p.code) : Int)
        (t.core.port p).lastSync = some s.core.now ∧ (t.core.port p).logSync = toS 8 k.toNat ∧
        (t.core.port p).sync = (if two then some (h.seqId.toNat, h.c, t2, true) else none) ∧
        (t.core.port p).ms =
          (if two then (s.core.port p).ms else some (t2 - t1.toNat - h.c, t2)) ∧
        t.core.port p.other = s.core.port p.other ∧ Chip.only [.sys] s.core t.core ∧
        Chip.regsKept [Reg.GIO_STATUS_permit, Reg.NET_RX_FRAMES_count p.code, Reg.NET_RX_PTP_count p.code,
          Reg.NET_STICKY_sat p.code] s.core t.core) ∧
      ∀ (t1 : BitVec 96) c0 (t2 : Int), (s.core.port p).sync = some (h.seqId.toNat, c0, t2, true) →
        Ends (.ptpFollowUp p h t1) s fun t =>
          (t.core.port p).ms = some (t2 - t1.toNat - c0 - h.c, t2) ∧ (t.core.port p).sync = none ∧
          t.core.port p.other = s.core.port p.other ∧ Chip.only [.sys] s.core t.core ∧
          Chip.regsKept [Reg.GIO_STATUS_permit, Reg.NET_RX_FRAMES_count p.code, Reg.NET_RX_PTP_count p.code,
            Reg.NET_STICKY_sat p.code] s.core t.core)

/-- A Delay_Req goes out when its time has come (R427, R428), timed with the egress correction (R426), and the Delay_Resp to it completes the exchange: PTP_P_n_OFFSET
shows (ms − sm) / 2 and PTP_P_n_DELAY (ms + sm) / 2, in ns, and PTP_P_n_AT the beat (R429). -/
def Claim.DelayExchange : Prop :=
  ∀ (s : State) (p : Path),
    (∀ t3, s.core.sys.pwr.porst = false → s.core.portOn p = true → (s.core.port p).master.isSome = true →
      (s.core.port p).ms.isSome = true → (s.core.port p).nextReq ≤ s.core.now → Ends (.delayReqTimer p t3) s fun t =>
        t.core.out = [.delayReq p (s.core.port p).syncUdp (s.core.port p).reqSeq] ∧
        (t.core.port p).req = some ((s.core.port p).reqSeq, (t3.toNat : Int) + (s.core.rd (Reg.NET_TS_CORR_egress p.code) : Int)) ∧
        (t.core.port p).reqSeq = ((s.core.port p).reqSeq + 1) % 65536 ∧
        s.core.now ≤ (t.core.port p).nextReq ∧
        (t.core.port p).nextReq ≤ s.core.now + 2 * intervalBeats (s.core.port p).logDelay ∧
        Chip.only [.sys, .fresh] s.core t.core ∧
        Chip.regsKept [Reg.GIO_STATUS_permit, Reg.NET_TX_FRAMES_count p.code, Reg.NET_TX_PTP_count p.code,
          Reg.NET_STICKY_sat p.code] s.core t.core) ∧
    ∀ h reqPort reqClock t4 k (t3 ms t2 : Int), Chip.ptpTaken s.core p h →
      (s.core.port p).master = some (h.sender.toNat, h.port.toNat) → reqPort.toNat = p.code + 1 →
      reqClock.toNat = s.core.clockId → (s.core.port p).req = some (h.seqId.toNat, t3) →
      (s.core.port p).ms = some (ms, t2) → Ends (.ptpDelayResp p h reqPort reqClock t4 k) s fun t =>
        let sm := t4.toNat - t3 - h.c
        t.core.rdS (Reg.PTP_P_OFFSET_value p.code) = satS 32 (divRoundAway (divRoundAway (ms - sm) 2) 10) ∧
        t.core.rd (Reg.PTP_P_DELAY_value p.code) = satU 32 (divRoundAway (divRoundAway (ms + sm) 2) 10).toNat ∧
        t.core.rd2 (Reg.PTP_P_AT_LO_value p.code) (Reg.PTP_P_AT_HI_value p.code) = s.core.now ∧
        (t.core.port p).req = none ∧ (t.core.port p).logDelay = toS 8 k.toNat ∧
        t.core.port p.other = s.core.port p.other ∧ Chip.only [.host, .sys] s.core t.core

/-- Without an Announce within its receipt timeout a port drops its master's record (R428); without a Sync from its master
within three sync intervals the controlling path enters HOLDOVER with cause MASTER_LOST (R433), or its first lock, not yet
fixed, becomes void (R430). -/
def Claim.MasterTimeouts : Prop :=
  ∀ (s : State) (p : Path), s.core.hears →
    (∀ b, s.core.announceDue p = some b → b < s.core.now → Ends (.announceTimeout p) s fun t =>
      (∀ f ∈ (t.core.port p).foreign, some (f.a.sender.toNat, f.a.port.toNat) ≠ (s.core.port p).master) ∧
      t.core.port p.other = s.core.port p.other ∧ t.core.out = []) ∧
    ∀ b, (s.core.port p).lastSync = some b → (s.core.port p).master.isSome = true → p = s.core.ctlPath →
      b + 3 * intervalBeats (s.core.port p).logSync < s.core.now → Ends (.syncReceiptTimeout p) s fun t =>
        (s.core.timeState = 2 → t.core.timeState = 3 ∧ t.core.rd Reg.PTP_STATUS_cause = 2) ∧
        (s.core.timeState = 1 → s.core.sys.net.servo.step = none →
          t.core.timeState = 0 ∧ (t.core.port p).offsets = []) ∧
        Chip.only [.host, .sys] s.core t.core ∧
        Chip.regsKept (Reg.GIO_STATUS_permit :: controlRegs ++ logRegs) s.core t.core

/-- The messages of the time protocol: announcements, the two-step exchange, delays, and the timeouts of a master. -/
def Obligations.PtpMessages : Prop := Claim.AnnounceAndSync ∧ Claim.DelayExchange ∧ Claim.MasterTimeouts

/-- The step is fixed for the beat four on, once no job is RUNNING and none starts before it, with a stretch below 250 and a
whole multiple of 250 ns as the device time of the beat after it (R43, R44). It is taken at the opening of that beat: BT_EPOCH
makes that time the opening of beat n_s + 1, BT_STEP_BEAT and BT_STEP_STRETCH record it, step_done is 1, and the time
state is LOCKED, or HOLDOVER where a condition for it holds then (R44, R430). -/
def Obligations.TheStep : Prop :=
  ∀ s : State,
    (s.core.hears → s.core.timeState = 1 → s.core.sys.net.servo.step = none → s.core.running = none →
      (∀ j ∈ s.core.host.jobs, ∀ b, j.st = 1 → j.start = some b → s.core.now + 4 < b) →
      4 ≤ (s.core.port s.core.ctlPath).offsets.length → Ends .stepFix s fun t =>
        (∃ d m k, t.core.sys.net.servo.step = some (s.core.now + 4, d, m, k) ∧ d < 250 ∧ m % 250 = 0) ∧
        Chip.only [.sys] s.core t.core ∧ Chip.regsKept [Reg.GIO_STATUS_permit] s.core t.core) ∧
    ∀ ns d m k, s.core.sys.pwr.porst = false → s.core.sys.net.servo.step = some (ns, d, m, k) → s.core.timeState = 1 →
      ns < s.core.now → ns < 2 ^ 64 → d < 250 → Ends .timeStep s fun t =>
        t.core.timeOf (ns + 1) = m ∧ t.core.fix.beat = s.core.fix.beat ∧ t.core.sys.net.servo.step = none ∧
        t.core.rd2 Reg.BT_STEP_BEAT_LO_step_beat Reg.BT_STEP_BEAT_HI_step_beat = ns ∧
        t.core.rd Reg.BT_STEP_STRETCH_stretch = d ∧ t.core.flag Reg.BT_STATUS_step_done = true ∧
        t.core.rdS Reg.BT_RATE_TRIM_trim = -(clampI (-200000000) 200000000 k) ∧
        (t.core.timeState = 2 ∨ t.core.timeState = 3) ∧ Chip.only [.host, .sys] s.core t.core

/-! ### Time, pulses and captures (15, 02) -/

/-- TIME_STATUS tells the time state, the controlling path, the device time of the FCLK cycle, the beat, the trim and the
path's latest offset; CAPTURE_READ the count, the time and the direction of the last edge (R92). They change nothing but
what a reply changes. -/
def Claim.TimeReports : Prop :=
  ∀ (s : State) (o : Origin), s.core.admits o 1 →
    (∀ cycle, Ends (.timeStatus o cycle) s fun t =>
      Replied o 0x90 0 (toBE 1 s.core.timeState ++ toBE 1 s.core.ctlPath.code ++ toBE 2 0 ++
        timeBE (s.core.timeOf s.core.now + cycle.val) ++ toBE 2 0 ++ toBE 8 s.core.now ++
        toBE 4 (s.core.rd Reg.BT_RATE_TRIM_trim) ++ toBE 4 (s.core.rd (Reg.PTP_P_OFFSET_value s.core.ctlPath.code)))
        s.core t.core ∧
      Chip.only [.host] s.core t.core ∧ Chip.regsKept (replyRegs o) s.core t.core) ∧
    ∀ inp : BitVec 8, inp.toNat < 8 → Ends (.captureRead o inp) s fun t =>
      Replied o 0x92 0 (toBE 4 (s.core.rd (Reg.PTP_CAP_COUNT_value inp.toNat)) ++
        toBE 6 (s.core.rd2 (Reg.PTP_CAP_SEC_LO_value inp.toNat) (Reg.PTP_CAP_SEC_HI_value inp.toNat)) ++
        toBE 4 (s.core.rd (Reg.PTP_CAP_NS_value inp.toNat)) ++ toBE 1 (s.core.rd (Reg.PTP_CAP_CTL_last_edge inp.toNat)) ++
        toBE 1 0) s.core t.core ∧
      Chip.only [.host] s.core t.core ∧ Chip.regsKept (replyRegs o) s.core t.core

/-- PULSE_SET writes an output's registers, drives it low at once, and takes effect at the next beat (R434, R92). The output
rises at the beat of its time, counts, and falls after its width (R434). -/
def Claim.TimePulses : Prop :=
  ∀ (s : State) (k : Fin 8),
    (∀ (o : Origin) (out mode : BitVec 8) (first : DevTime) (period width : BitVec 32), out.toNat = k.val →
      s.core.obeys o 1 → s.core.free → pulseForm out mode first period width = none →
      k.val < s.core.sys.net.pulses.length → Ends (.pulseSet o out mode first period width) s fun t =>
        Replied o 0x91 0 [] s.core t.core ∧ t.core.rd (Reg.PTP_TP_CTL_mode k.val) = mode.toNat ∧
        t.core.rd (Reg.PTP_TP_CTL_level k.val) = 0 ∧ t.core.pulseFirst k.val = first.nanos ∧
        t.core.rd (Reg.PTP_TP_PERIOD_value k.val) = period.toNat ∧ t.core.rd (Reg.PTP_TP_WIDTH_value k.val) = width.toNat ∧
        (t.core.pulse k.val).effective = s.core.now + 1 ∧ (t.core.pulse k.val).fall = none ∧
        (mode.toNat = 0 → (t.core.pulse k.val).next = none) ∧
        (mode.toNat = 1 → (t.core.pulse k.val).next = some first.nanos) ∧
        Chip.only [.host, .sys] s.core t.core ∧
        Chip.regsKept (replyRegs o ++ [Reg.PTP_TP_CTL_mode k.val, Reg.PTP_TP_CTL_level k.val, Reg.PTP_TP_NS_value k.val,
          Reg.PTP_TP_SEC_LO_value k.val, Reg.PTP_TP_SEC_HI_value k.val, Reg.PTP_TP_PERIOD_value k.val,
          Reg.PTP_TP_WIDTH_value k.val]) s.core t.core) ∧
    (∀ time, s.core.sys.pwr.porst = false → (s.core.pulse k.val).next = some time → time ≤ s.core.timeOf s.core.now →
      (s.core.pulse k.val).effective ≤ s.core.now → Ends (.timePulseRise k) s fun t =>
        t.core.rd (Reg.PTP_TP_CTL_level k.val) = 1 ∧
        t.core.rd (Reg.PTP_TP_COUNT_value k.val) = (s.core.rd (Reg.PTP_TP_COUNT_value k.val) + 1) % 2 ^ 32 ∧
        (t.core.pulse k.val).fall = some (s.core.now + s.core.rd (Reg.PTP_TP_WIDTH_value k.val) / 250) ∧
        (s.core.rd (Reg.PTP_TP_CTL_mode k.val) ≠ 2 → (t.core.pulse k.val).next = none) ∧
        Chip.only [.sys] s.core t.core ∧
        Chip.regsKept [Reg.GIO_STATUS_permit, Reg.PTP_TP_CTL_level k.val, Reg.PTP_TP_COUNT_value k.val] s.core t.core) ∧
    ∀ b, s.core.sys.pwr.porst = false → (s.core.pulse k.val).fall = some b → b ≤ s.core.now →
      Ends (.timePulseFall k) s fun t =>
        t.core.rd (Reg.PTP_TP_CTL_level k.val) = 0 ∧ (t.core.pulse k.val).fall = none ∧
        (t.core.pulse k.val).next = (s.core.pulse k.val).next ∧ Chip.only [.sys] s.core t.core ∧
        Chip.regsKept [Reg.GIO_STATUS_permit, Reg.PTP_TP_CTL_level k.val] s.core t.core

/-- An edge that PTP_CAP_k_CTL.edge selects overwrites the last timestamp, its direction and increments the wrapping count;
an edge that it does not select leaves them (R435). Only a feedback channel that captures on the input changes else (R306). -/
def Claim.Captures : Prop :=
  ∀ (s : State) (k : Fin 8) (rise : Bool) (ns : Fin 499), s.core.sys.pwr.porst = false →
    Ends (.captureEdge k rise ns) s fun t =>
      (if bit (s.core.rd (Reg.PTP_CAP_CTL_edge k.val)) (if rise then 0 else 1) then
        t.core.rd (Reg.PTP_CAP_COUNT_value k.val) = (s.core.rd (Reg.PTP_CAP_COUNT_value k.val) + 1) % 2 ^ 32 ∧
        t.core.flag (Reg.PTP_CAP_CTL_last_edge k.val) = rise ∧
        t.core.rd (Reg.PTP_CAP_NS_value k.val) = nsOf (s.core.timeOf s.core.now + ns.val) ∧
        t.core.rd2 (Reg.PTP_CAP_SEC_LO_value k.val) (Reg.PTP_CAP_SEC_HI_value k.val) =
          secsOf (s.core.timeOf s.core.now + ns.val) % 2 ^ 48
      else
        t.core.rd (Reg.PTP_CAP_COUNT_value k.val) = s.core.rd (Reg.PTP_CAP_COUNT_value k.val) ∧
        t.core.rd (Reg.PTP_CAP_NS_value k.val) = s.core.rd (Reg.PTP_CAP_NS_value k.val)) ∧
      t.core.out = [] ∧ Chip.only [.mot] s.core t.core

/-- Time pulses and the capture inputs. -/
def Obligations.PulsesAndCaptures : Prop := Claim.TimePulses ∧ Claim.Captures

/-! ### Sessions, the window and the checks (03, 16) -/

/-- A request that names a session that is not open is refused with REFUSED_SESSION, detail 3, and one on a path that does not
control, or with another claim than its path's, is, if its opcode changes state, refused with REFUSED_CLAIM (R78): the
command has no effect, and nothing but the reply's own registers and the session's record of replies changes. The second
refusal does not take the sequence number and is counted (R76). -/
def Obligations.SessionAndClaimChecks : Prop :=
  ∀ (i : Instr) (s : State) (o : Origin) (op : Nat), i.request = some (o, op) → s.core.host.hg.queue = [] →
    (s.core.hears → s.core.sessionOpen o.slot.val = false → Ends i s fun t =>
      Replied o op 0x12 (toBE 2 3 ++ toBE 2 0 ++ toBE 4 0) s.core t.core ∧ Chip.only [.host] s.core t.core ∧
      Chip.regsKept (replyRegs o) s.core t.core ∧ t.core.host.jobs = s.core.host.jobs ∧
      t.core.host.sems = s.core.host.sems ∧ t.core.host.hg.queue = []) ∧
    (s.core.admits o 3 → (∃ role queued, opInfo op = some ⟨2, role, queued⟩) → 0x10 ≤ op →
      o.path ≠ s.core.ctlPath ∨ o.claim.toNat ≠ s.core.claimOf o.path → Ends i s fun t =>
        Replied o op 0x11 (toBE 2 s.core.ctlPath.code ++ toBE 2 0 ++ toBE 4 0) s.core t.core ∧
        (t.core.session o.slot.val).seqs = (s.core.session o.slot.val).seqs ∧
        (t.core.session o.slot.val).h = (s.core.session o.slot.val).h ∧
        Chip.counted (Reg.HG_P_CLAIM_count o.path.code) (Reg.HG_P_STICKY_sat o.path.code) 3 s.core t.core ∧
        Chip.only [.host] s.core t.core ∧
        Chip.regsKept (replyRegs o ++ [Reg.HG_P_CLAIM_count o.path.code, Reg.HG_P_STICKY_sat o.path.code]) s.core t.core ∧
        t.core.host.jobs = s.core.host.jobs ∧ t.core.host.sems = s.core.host.sems ∧ t.core.host.hg.queue = [])

/-- A queued command that finds 64 others waiting is refused with REFUSED_BUSY and logs QUEUE_FULL; its sequence number is
not taken (R83, R76). A JOB_LOAD that finds fewer joins the queue at its end, with no reply yet (R83). -/
def Claim.QueueOf64 : Prop :=
  ∀ (i : Instr) (s : State) (o : Origin) (op role : Nat) (kind : Fin 3), i.request = some (o, op) →
    opInfo op = some ⟨kind.val, role, true⟩ → s.core.obeys o 3 →
    (∃ q l, s.core.host.hg.queue = q :: l ∧ q.cmd.request ≠ some (o, op)) →
    (64 ≤ s.core.host.hg.queue.length → s.core.roomToLog → Ends i s fun t =>
      Replied o op 0x13 (toBE 2 0 ++ toBE 2 0 ++ toBE 4 0) s.core t.core ∧
      t.core.logged 0x0B33 o.path.code (u8 o.path.code ++ u8 0 ++ u32 (s.core.session o.slot.val).id ++ u16 op) ∧
      t.core.host.hg.queue = s.core.host.hg.queue ∧
      (t.core.session o.slot.val).seqs = (s.core.session o.slot.val).seqs ∧ Chip.only [.host, .sys] s.core t.core) ∧
    ∀ addr len, i = .jobLoad o addr len → loadForm addr len = none → s.core.host.hg.queue.length < 64 → Ends i s fun t =>
      t.core.host.hg.queue = s.core.host.hg.queue ++ [⟨o, i, (s.core.session o.slot.val).id, op, s.core.now, false⟩] ∧
      t.core.out = [] ∧ Chip.only [.host] s.core t.core ∧ t.core.host.jobs = s.core.host.jobs

/-- A queued command that has waited its bound is answered DEFERRED once and stays in the queue (R60). -/
def Claim.QueueWaitDeferred : Prop :=
  ∀ s : State, s.core.hears → Ends .queueWaitDeferred s fun t =>
    t.core.host.hg.queue = s.core.host.hg.queue.map (fun q => { q with deferred := q.deferred || q.due s.core.now }) ∧
    (∀ q ∈ s.core.host.hg.queue, q.due s.core.now = true → (s.core.session q.o.slot.val).id = q.sid →
      ∃ k, (.serair q.o.path q.o.src (1 + 16 * q.o.path.code) q.o.claim.toNat q.sid q.o.seq.toNat q.op 0x08 [] (some k) : Tx) ∈
        t.core.out) ∧
    Chip.only [.host] s.core t.core

/-- The command queue of 64, and commands that wait in it. -/
def Obligations.CommandQueue : Prop := Claim.QueueOf64 ∧ Claim.QueueWaitDeferred

/-- CERT_PRESENT with a valid chain keeps the key of its leaf certificate in a key slot, with its key id and role, and replies
with the key id (R458, R88); the reply carries no session and no tag key (R72). -/
def Claim.CertificateKept : Prop :=
  ∀ (s : State) (p : Path) (src : Src) (claim : BitVec 16) (seq : BitVec 32) (chain : List Byte) (n : Nat),
    s.core.hears → s.core.host.sec.keys.length = 16 → chainCount chain.length = some n →
    s.core.chainFault n chain = none → Ends (.certPresent p src claim seq chain) s fun t =>
      t.core.out = [.serair p src (1 + 16 * p.code) claim.toNat 0 seq.toNat 0x01 0 (toBE 4 (beAt chain 4 4)) none] ∧
      (∃ k, k < 16 ∧ t.core.rd (Reg.SEC_KEY_ID_value k) = beAt chain 4 4 ∧
        t.core.rd (Reg.SEC_KEY_INFO_role k) = beAt chain 1 1 % 4 ∧
        (t.core.host.sec.keys.getD k ⟨[], 0⟩).key = slice chain 20 32) ∧
      t.core.host.sec.sessions = s.core.host.sec.sessions ∧ Chip.only [.host] s.core t.core

/-- SESSION_OPEN that passes its checks opens a session in a free slot: its id names the slot in bits [2:0] and is not 0, the
slot's registers show state, role, key and idle timeout (10 s where the request names none), and the reply carries the id
and is tagged with the session's key (R459, R73, R72). Other sessions are not touched. -/
def Claim.SessionOpens : Prop :=
  ∀ (s : State) (p : Path) (src : Src) (claim : BitVec 16) (seq : BitVec 32) (role : BitVec 8) (keyId : BitVec 32)
    (idle : BitVec 16) (pub sig : List Byte) (k : Nat), s.core.hears → s.core.host.sec.sessions.length = 8 →
    openForm role.toNat idle.toNat pub sig = none →
    s.core.openRefusal role.toNat keyId.toNat idle.toNat pub sig = none → s.core.freeSlot = some k →
    Ends (.sessionOpen p src claim seq role keyId idle pub sig) s fun t =>
      let x := t.core.session k
      k < 8 ∧ x.id ≠ 0 ∧ x.id % 8 = k ∧ x.h = seq.toNat ∧ x.notices = [] ∧
      t.core.sessionOpen k = true ∧ t.core.rd (Reg.SEC_SLOT_STATE_role k) = role.toNat ∧
      t.core.rd (Reg.SEC_SLOT_KEY_value k) = keyId.toNat ∧ t.core.rd (Reg.SEC_SLOT_ID_value k) = x.id ∧
      t.core.rd (Reg.SEC_SLOT_STATE_idle_timeout k) = (if idle.toNat = 0 then 10 else idle.toNat) ∧
      (∃ pk, t.core.out = [.serair p src (1 + 16 * p.code) claim.toNat 0 seq.toNat 0x02 0 (toBE 4 x.id ++ pk) (some x.key)]) ∧
      (∀ j, j ≠ k → t.core.session j = s.core.session j) ∧ Chip.only [.host, .sys, .fresh] s.core t.core

/-- A session that closes, or from which no packet came within its idle timeout, ends: its slot shows it, its notices go and
its semaphores are released (R73, R74, R102). Jobs, sessions in other slots and every unit but the tables whose commit waited
for a semaphore stay as they are (R74). -/
def Claim.SessionEnds : Prop :=
  ∀ (s : State) (k : Fin 8),
    (∀ o : Origin, o.slot = k → s.core.admits o 1 → Ends (.sessionClose o) s fun t =>
      Replied o 0x04 0 [] s.core t.core ∧ t.core.rd (Reg.SEC_SLOT_STATE_state k.val) = 2 ∧
      (t.core.session k.val).notices = [] ∧ (∀ j, (t.core.sem j).cls = 2 → (t.core.sem j).owner ≠ k.val ∨ 64 ≤ j) ∧
      t.core.host.jobs = s.core.host.jobs ∧ (∀ j, j ≠ k.val → t.core.session j = s.core.session j) ∧
      Chip.only [.host, .sys] s.core t.core) ∧
    (s.core.sys.pwr.porst = false → s.core.sessionOpen k.val = true →
      (s.core.session k.val).last + 4000000 * s.core.rd (Reg.SEC_SLOT_STATE_idle_timeout k.val) ≤ s.core.now →
      Ends (.sessionExpiry k) s fun t =>
        t.core.out = [] ∧ t.core.rd (Reg.SEC_SLOT_STATE_state k.val) = 3 ∧ (t.core.session k.val).notices = [] ∧
        (∀ j, (t.core.sem j).cls = 2 → (t.core.sem j).owner ≠ k.val ∨ 64 ≤ j) ∧
        t.core.host.jobs = s.core.host.jobs ∧ (∀ j, j ≠ k.val → t.core.session j = s.core.session j) ∧
        Chip.only [.host, .sys] s.core t.core)

/-- How sessions come to be and end. -/
def Obligations.Sessions : Prop := Claim.CertificateKept ∧ Claim.SessionOpens ∧ Claim.SessionEnds

/-- NOTICE_MASK sets which notices and which event classes a session gets (R86, R88); RESULT_QUERY tells what became of a
sequence number: its state and its status (R75, R88). -/
def Obligations.NoticesAndResults : Prop :=
  ∀ (s : State) (o : Origin), s.core.admits o 1 → o.slot.val < s.core.host.sec.sessions.length →
    (∀ mask classes, Ends (.noticeMask o mask classes) s fun t =>
      Replied o 0x05 0 [] s.core t.core ∧ (t.core.session o.slot.val).nmask = mask.toNat ∧
      (t.core.session o.slot.val).emask = classes.toNat ∧
      (∀ j, j ≠ o.slot.val → t.core.session j = s.core.session j) ∧
      Chip.only [.host] s.core t.core ∧ Chip.regsKept (replyRegs o) s.core t.core) ∧
    ∀ seq : BitVec 32, Ends (.resultQuery o seq) s fun t =>
      Replied o 0x06 0
        (match (s.core.session o.slot.val).seqs.find? fun r => r.seq == seq.toNat with
          | some r => toBE 1 r.st ++ toBE 1 r.status ++ toBE 2 0
          | none => toBE 1 0 ++ toBE 1 0 ++ toBE 2 0) s.core t.core ∧
      (∀ j, j ≠ o.slot.val → t.core.session j = s.core.session j) ∧
      Chip.only [.host] s.core t.core ∧ Chip.regsKept (replyRegs o) s.core t.core

/-- SEM_ACQUIRE takes a free semaphore for its session and tells whether it was broken, which it clears; a held one is refused
with its owner, and 3 to 7 are refused as a parameter (R89, R100–R102). SEM_RELEASE frees the session's own, and leaves
its broken flag; SEM_STATUS tells all of them (R89). -/
def Obligations.Semaphores : Prop :=
  ∀ (s : State) (o : Origin), s.core.obeys o 1 → s.core.host.sems.length = 64 →
    (∀ k : BitVec 8, 8 ≤ k.toNat → k.toNat < 64 → Ends (.semAcquire o k) s fun t =>
      if (s.core.sem k.toNat).cls = 0 then
        Replied o 0x18 0 (toBE 1 (b2n (s.core.sem k.toNat).broken) ++ toBE 3 0) s.core t.core ∧
        t.core.sem k.toNat = ⟨2, o.slot.val, false⟩ ∧ (∀ j, j ≠ k.toNat → t.core.sem j = s.core.sem j) ∧
        Chip.only [.host] s.core t.core ∧ Chip.regsKept (replyRegs o) s.core t.core
      else
        Replied o 0x18 0x16 (toBE 2 (s.core.sem k.toNat).cls ++ toBE 2 (s.core.sem k.toNat).owner ++ toBE 4 0)
          s.core t.core ∧ t.core.host.sems = s.core.host.sems) ∧
    (∀ k : BitVec 8, 3 ≤ k.toNat → k.toNat ≤ 7 → Ends (.semAcquire o k) s fun t =>
      Replied o 0x18 0x17 (toBE 2 0 ++ toBE 2 0 ++ toBE 4 0) s.core t.core ∧ t.core.host.sems = s.core.host.sems) ∧
    (∀ k : BitVec 8, 8 ≤ k.toNat → k.toNat < 64 → (s.core.sem k.toNat).cls = 2 →
      (s.core.sem k.toNat).owner = o.slot.val → s.core.host.commits = [] → Ends (.semRelease o k) s fun t =>
        Replied o 0x19 0 [] s.core t.core ∧ t.core.sem k.toNat = ⟨0, 0, (s.core.sem k.toNat).broken⟩ ∧
        (∀ j, j ≠ k.toNat → t.core.sem j = s.core.sem j) ∧ Chip.only [.host] s.core t.core ∧
        Chip.regsKept (replyRegs o) s.core t.core) ∧
    Ends (.semStatus o) s fun t =>
      Replied o 0x1A 0 (s.core.host.sems.flatMap fun x =>
        toBE 1 x.cls ++ toBE 1 x.owner ++ toBE 1 (b2n x.broken) ++ toBE 1 0) s.core t.core ∧
      t.core.host.sems = s.core.host.sems ∧ Chip.only [.host] s.core t.core ∧ Chip.regsKept (replyRegs o) s.core t.core

/-- The register window on TOP_SCRATCH: REG_READ tells the word, REG_WRITE writes it, and REG_MODIFY writes (old AND NOT mask)
OR (value AND mask) and tells the old word (R89, R97). (No pair of registers lies there, so no holding copy is kept for it.) -/
def Obligations.WindowOnScratch : Prop :=
  ∀ (s : State) (o : Origin), s.core.obeys o 2 → s.core.host.hg.port = [] → s.core.rd Reg.TOP_SCRATCH_value < 2 ^ 32 →
    s.core.on pdAON = true → s.core.heldCopy .headgate 0x22 = none →
    (Ends (.regRead o 0x20 1) s fun t =>
      Replied o 0x10 0 (toBE 4 (s.core.rd Reg.TOP_SCRATCH_value)) s.core t.core ∧
      Chip.only [.host, .fresh] s.core t.core ∧ Chip.regsKept (replyRegs o) s.core t.core) ∧
    (∀ v : Word, Ends (.regWrite o 0x20 [v]) s fun t =>
      Replied o 0x11 0 [] s.core t.core ∧ t.core.rd Reg.TOP_SCRATCH_value = v.toNat ∧
      Chip.only [.host, .fresh] s.core t.core ∧
      Chip.regsKept (Reg.TOP_SCRATCH_value :: replyRegs o) s.core t.core) ∧
    ∀ mask value : BitVec 32, Ends (.regModify o 0x20 mask value) s fun t =>
      Replied o 0x12 0 (toBE 4 (s.core.rd Reg.TOP_SCRATCH_value)) s.core t.core ∧
      t.core.rd Reg.TOP_SCRATCH_value =
        (s.core.rd Reg.TOP_SCRATCH_value &&& (~~~mask).toNat) ||| (value.toNat &&& mask.toNat) ∧
      Chip.only [.host, .fresh] s.core t.core ∧
      Chip.regsKept (Reg.TOP_SCRATCH_value :: replyRegs o) s.core t.core

/-- A packet that its port takes but that no rule lets pass is dropped without a reply and counted on its path: one of a bad
form in HG_P_FORM, one that names no session that is known in HG_P_SESSION, one whose tag does not verify in HG_P_TAG
(R70). A request of an open session for a queued opcode that the checks admit joins the queue without a reply (R82, R83). -/
def Obligations.PacketsFromTheLine : Prop :=
  ∀ (s : State) (p : Path) (src : Src) (dst : Dst) (bytes : List Byte), s.core.hears → s.core.portOn p = true →
    s.core.takesSerair p src dst = true →
    (bytes.length < 24 ∨ beAt bytes 0 2 ≠ 0x5856 ∨ beAt bytes 2 1 ≠ 1 ∨ beAt bytes 16 2 > 1400 ∨
        bytes.length < 40 + beAt bytes 16 2 → Ends (.packetReceived p src dst bytes) s fun t =>
      t.core.out = [] ∧ Chip.counted (Reg.HG_P_FORM_count p.code) (Reg.HG_P_STICKY_sat p.code) 0 s.core t.core ∧
      Chip.only [] s.core t.core) ∧
    (24 ≤ bytes.length → beAt bytes 0 2 = 0x5856 → beAt bytes 2 1 = 1 → beAt bytes 16 2 ≤ 1400 →
      40 + beAt bytes 16 2 ≤ bytes.length → beAt bytes 14 2 ≠ 1 → beAt bytes 14 2 ≠ 2 →
      (s.core.slotOf (beAt bytes 6 4) = none → Ends (.packetReceived p src dst bytes) s fun t =>
        t.core.out = [] ∧ Chip.counted (Reg.HG_P_SESSION_count p.code) (Reg.HG_P_STICKY_sat p.code) 1 s.core t.core ∧
        Chip.only [] s.core t.core) ∧
      ∀ k, s.core.slotOf (beAt bytes 6 4) = some k →
        (tagOk (s.core.session k.val).key bytes = false → Ends (.packetReceived p src dst bytes) s fun t =>
          t.core.out = [] ∧ Chip.counted (Reg.HG_P_TAG_count p.code) (Reg.HG_P_STICKY_sat p.code) 2 s.core t.core ∧
          Chip.only [.sys] s.core t.core) ∧
        ∀ (cmd : Instr) (op role : Nat) (kind : Fin 3),
          let o : Origin := ⟨k, BitVec.ofNat 32 (beAt bytes 10 4), p, BitVec.ofNat 16 (beAt bytes 4 2), src⟩
          let l := slice bytes 24 (beAt bytes 16 2)
          tagOk (s.core.session k.val).key bytes = true → beAt bytes 3 1 = 0 → op = beAt bytes 14 2 →
          opInfo op = some ⟨kind.val, role, true⟩ → (∀ cyc, requestOf o cyc op l = some cmd) →
          formFault (opFields op l) 0 l = none → rowForm s.core cmd = none → s.core.obeys o (roleFor op cmd) →
          (s.core.session k.val).case o.seq.toNat = 0 → s.core.host.hg.queue.length < 64 →
          Ends (.packetReceived p src dst bytes) s fun t =>
            t.core.host.hg.queue.map (fun q => (q.o, q.cmd, q.op)) =
              s.core.host.hg.queue.map (fun q => (q.o, q.cmd, q.op)) ++ [(o, cmd, op)] ∧
            t.core.out = [] ∧ Chip.only [.host] s.core t.core)

/-! ### Jobs and the envelope (02, 03, 16) -/

/-- JOB_LOAD of a descriptor that keeps the rules takes the job as LOADED and replies with its id (R90, R555). While
BT_CTL.admit_need_lock is 1 and the time state is FREE or STEP_PENDING it is refused with REFUSED_STATE (R47), and with four
jobs held too (R94). -/
def Claim.JobLoads : Prop :=
  ∀ (s : State) (o : Origin) (addr : BitVec 64) (len : BitVec 32), s.core.obeys o 1 → s.core.free →
    s.core.on pdDRAM = true → loadForm addr len = none →
    (s.core.flag Reg.BT_CTL_admit_need_lock = true → s.core.timeState ≤ 1 → Ends (.jobLoad o addr len) s fun t =>
      Replied o 0x20 0x16 (toBE 2 s.core.timeState ++ toBE 2 0 ++ toBE 4 0) s.core t.core ∧
      t.core.host.jobs = s.core.host.jobs ∧ Chip.only [.host] s.core t.core ∧
      Chip.regsKept (replyRegs o) s.core t.core) ∧
    (s.core.flag Reg.BT_CTL_admit_need_lock = false ∨ 2 ≤ s.core.timeState →
      (4 ≤ s.core.host.jobs.length → Ends (.jobLoad o addr len) s fun t =>
        Replied o 0x20 0x16 (toBE 2 0 ++ toBE 2 0 ++ toBE 4 0) s.core t.core ∧
        t.core.host.jobs = s.core.host.jobs) ∧
      let l := s.core.dramRead addr.toNat len.toNat
      (s.core.host.jobs.length < 4 → s.core.dramOk addr.toNat len.toNat = true → descFault l = none →
        s.core.jobOf (Job.ofBytes l).id = none → Ends (.jobLoad o addr len) s fun t =>
          Replied o 0x20 0 (toBE 4 (Job.ofBytes l).id) s.core t.core ∧
          t.core.host.jobs = s.core.host.jobs ++ [Job.ofBytes l] ∧ (Job.ofBytes l).st = 0 ∧
          Chip.only [.host] s.core t.core ∧ Chip.regsKept (replyRegs o) s.core t.core))

/-- The pre-walk of a LOADED job ends with its channels' lists walked (R53). JOB_ADMIT of a job whose pre-walk has ended and
that passes every check replies ACCEPTED with the start bounds and deadlines and makes it ADMITTED (R54, R90). -/
def Claim.JobAdmits : Prop :=
  ∀ (s : State) (id : BitVec 32) (j : Job),
    (s.core.sys.pwr.porst = false → s.core.on pdAPP = true → s.core.jobOf id.toNat = some j → j.st = 0 →
      j.walked = false → Ends (.prewalkDone id) s fun t =>
        (∃ k, t.core.jobOf id.toNat = some k ∧ k.walked = true ∧ k.st = 0 ∧ k.lists.length = j.chans.length) ∧
        t.core.out = [] ∧ Chip.only [.host] s.core t.core ∧ Chip.regsKept [Reg.GIO_STATUS_permit] s.core t.core) ∧
    ∀ (o : Origin) (bs : List (Nat × Nat)), s.core.obeys o 1 → s.core.free → s.core.jobOf id.toNat = some j → j.st = 0 →
      j.walked = true → s.core.admitted = none → (s.core.taken o).admission j = .ok bs → Ends (.jobAdmit o id) s fun t =>
        Replied o 0x21 0x01 (acceptedBody j bs) s.core t.core ∧
        (∃ k, t.core.jobOf id.toNat = some k ∧ k.st = 1 ∧ k.start = j.start ∧
          k.deadlines = j.ctxs.map fun x => (x.ctx, j.deadline x)) ∧
        t.core.dram = s.core.dram ∧ t.core.mot = s.core.mot ∧ t.core.kt = s.core.kt

/-- A job from its loading to its admission. -/
def Obligations.JobsTaken : Prop := Claim.JobLoads ∧ Claim.JobAdmits

/-- JOB_START of an ADMITTED job, with no job RUNNING and a start beat of 0 or at least 2,000 beats after its receipt, replies
with the start beat and fixes it (R90, R49). At that beat the job is RUNNING, or DONE at once when no channel of it can
work (R49, R62). -/
def Claim.JobStarts : Prop :=
  ∀ (s : State) (j : Job),
    (∀ (o : Origin) (id : BitVec 32) (start : BitVec 64), s.core.obeys o 1 → s.core.free →
      s.core.jobOf id.toNat = some j → j.st = 1 → j.start = none → s.core.running = none →
      start.toNat = 0 ∨ s.core.now + 2000 ≤ start.toNat → Ends (.jobStart o id start) s fun t =>
        let b := if start.toNat = 0 then s.core.now + 2000 else start.toNat
        Replied o 0x22 0 (toBE 8 b) s.core t.core ∧
        (∃ k, t.core.jobOf id.toNat = some k ∧ k.st = 1 ∧ k.start = some b) ∧
        t.core.dram = s.core.dram ∧ t.core.mot = s.core.mot ∧ t.core.kt = s.core.kt) ∧
    ∀ b, s.core.sys.pwr.porst = false → s.core.admitted = some j → j.start = some b → b ≤ s.core.now →
      s.core.running = none → (∀ k ∈ s.core.host.jobs, k.id = j.id → k = j) → Ends .jobStartBeat s fun t =>
        (∃ k, t.core.jobOf j.id = some k ∧ (k.st = 2 ∨ k.st = 3) ∧ k.start = some b) ∧ t.core.out = [] ∧
        t.core.dram = s.core.dram ∧ t.core.mot = s.core.mot ∧ t.core.kt = s.core.kt

/-- JOB_ABORT makes an ADMITTED or RUNNING job ABORTED; JOB_DISCARD drops a job that is not RUNNING; JOB_STATUS tells a job's
state, its start beat, and the state and sequence of each of its channels (R90, R94). -/
def Claim.JobEnds : Prop :=
  ∀ (s : State) (o : Origin) (id : BitVec 32) (j : Job), s.core.jobOf id.toNat = some j →
    (s.core.obeys o 1 → s.core.free → (j.st = 1 ∨ j.st = 2) → Ends (.jobAbort o id) s fun t =>
      Replied o 0x23 0 [] s.core t.core ∧ (∃ k, t.core.jobOf id.toNat = some k ∧ k.st = 4) ∧
      t.core.dram = s.core.dram ∧ t.core.mot = s.core.mot ∧ t.core.kt = s.core.kt) ∧
    (s.core.obeys o 1 → s.core.free → j.st ≠ 2 → Ends (.jobDiscard o id) s fun t =>
      Replied o 0x24 0 [] s.core t.core ∧ t.core.jobOf id.toNat = none ∧
      (∀ k ∈ s.core.host.jobs, k.id ≠ id.toNat → k ∈ t.core.host.jobs) ∧
      t.core.dram = s.core.dram ∧ t.core.mot = s.core.mot ∧ t.core.kt = s.core.kt) ∧
    (s.core.admits o 1 → Ends (.jobStatus o id) s fun t =>
      Replied o 0x25 0 (toBE 1 j.st ++ toBE 1 j.chans.length ++ toBE 1 (b2n j.walked) ++ toBE 1 0 ++
        toBE 8 (j.start.getD 0) ++ j.chans.flatMap fun e =>
          toBE 1 e.chan ++ toBE 1 (s.core.chState e.chan) ++ toBE 2 (s.core.seqReached j e.chan)) s.core t.core ∧
      Chip.only [.host] s.core t.core ∧ Chip.regsKept (replyRegs o) s.core t.core)

/-- A job from its start to its end. -/
def Obligations.JobsRun : Prop := Claim.JobStarts ∧ Claim.JobEnds

/-- ENVELOPE_LOAD, while no job is ADMITTED or RUNNING, is DEFERRED and the structure waits to be verified; an envelope that
keeps every rule is then in force, and SEC shows its id and key (R90, R460, R461). ENVELOPE_STATUS tells them (R90). -/
def Obligations.EnvelopeInForce : Prop :=
  ∀ s : State,
    (∀ (o : Origin) (addr : BitVec 64) (len : BitVec 32), s.core.obeys o 1 → s.core.free → s.core.on pdDRAM = true →
      addr.toNat < 2 ^ 36 → s.core.admitted = none → s.core.running = none → Ends (.envelopeLoad o addr len) s fun t =>
        Replied o 0x30 0x08 [] s.core t.core ∧
        t.core.host.sec.verify = s.core.host.sec.verify ++
          [(⟨o.slot.val, (s.core.session o.slot.val).id, o.seq.toNat, 0x30⟩, addr.toNat, len.toNat)] ∧
        t.core.host.sec.envelope = s.core.host.sec.envelope ∧
        Chip.only [.host] s.core t.core ∧ Chip.regsKept (replyRegs o) s.core t.core) ∧
    (∀ p addr len l, s.core.sys.pwr.porst = false → s.core.host.sec.verify = (p, addr, len) :: l → s.core.admitted = none →
      s.core.running = none → len ≤ 16384 → s.core.dramOk addr len = true →
      s.core.envFault (s.core.dramRead addr len) = none → Ends .envelopeVerifyDone s fun t =>
        let e := Envelope.ofBytes (s.core.dramRead addr len)
        t.core.host.sec.envelope = some e ∧ t.core.host.sec.verify = l ∧ t.core.rd Reg.SEC_ENV_ID_value = e.id ∧
        t.core.flag Reg.SEC_STATUS_env_loaded = true ∧ t.core.out = [] ∧ Chip.only [.host, .sys] s.core t.core) ∧
    ∀ o : Origin, s.core.admits o 1 → Ends (.envelopeStatus o) s fun t =>
      Replied o 0x31 0 (toBE 1 (s.core.rd Reg.SEC_STATUS_env_loaded) ++ toBE 3 0 ++ toBE 4 (s.core.rd Reg.SEC_ENV_ID_value) ++
        toBE 4 (s.core.rd Reg.SEC_ENV_KEY_value)) s.core t.core ∧
      Chip.only [.host] s.core t.core ∧ Chip.regsKept (replyRegs o) s.core t.core

/-! ### What the commands only tell -/

/-- The status commands reply from registers and state alone, whatever path controls and however many commands wait, and
change nothing but the reply's own registers and the session's record (R82, R91–R93). -/
def Claim.StatusReplies : Prop :=
  ∀ (s : State) (o : Origin), s.core.admits o 1 →
    let c := s.core
    (∀ mask : BitVec 32, mask.toNat < 2 ^ 24 → (∀ ch ∈ chansOf mask, c.on (chanDom ch) = true) →
      Tells (.chStatus o mask) s o 0x43 0 ((chansOf mask).flatMap fun ch =>
        toBE 1 (c.rd (Reg.FUR_STATE_state ch)) ++ toBE 1 (c.grantStatus ch).1 ++ toBE 1 (c.grantStatus ch).2.1 ++ toBE 1 0 ++
          toBE 2 (c.rd (Reg.FUR_STATE_head_seq ch)) ++ toBE 2 0)) ∧
    (c.on pdMOTION = true → ∀ mask : BitVec 8,
      Tells (.axStatus o mask) s o 0x65 0 ((bitList 8 mask.toNat).flatMap fun n =>
        toBE 1 (c.rd (Reg.AX_STATUS_state n)) ++ toBE 1 (c.axFlags n) ++ toBE 2 0 ++ toBE 8 (ofS 64 (c.axPos n)) ++
          toBE 4 (c.rd (Reg.AX_SPEED_v n))) ∧
      Tells (.pfStatus o mask) s o 0x66 0 ((bitList 8 mask.toNat).flatMap fun n =>
        toBE 1 (c.pfFlags n) ++ toBE 1 0 ++ toBE 2 (c.rd (Reg.PF_IDX_COUNT_mismatch n)) ++ toBE 8 (ofS 64 (c.pfPos n)) ++
          toBE 4 (c.rd (Reg.PF_SPEED_v n)))) ∧
    (c.on pdKETTLE = true → Tells (.ktStatus o) s o 0x73 0 (toBE 1 (c.rd Reg.KT_STATUS_active) ++
      toBE 1 (c.rd Reg.KT_STATUS_loop_on) ++ toBE 2 0 ++ toBE 4 (c.rd Reg.KT_FAULT_mask) ++
      toBE 4 (c.rd Reg.KT_OPEN_TOTAL_value) ++ toBE 4 (c.rd Reg.KT_SHORT_TOTAL_value))) ∧
    (∀ ctx : BitVec 8, ctx.toNat < 32 → c.on (sieveDom (c.svOf ctx.toNat)) = true →
      let n := ctx.toNat
      let v := c.svOf n
      Tells (.ctxStatus o ctx) s o 0x83 0 (toBE 4 (c.rd (Reg.SVX_SEQ_seq v n)) ++ toBE 1 ((c.ctx n).lastSid.getD 0) ++
        toBE 1 (c.rd (Reg.SVX_STATUS_anomaly_run v n)) ++ toBE 2 (c.rd (Reg.SVX_STATUS_flags v n)) ++
        toBE 4 (c.rd (Reg.SVX_FRAMES_count v n)))) ∧
    Tells (.logStatus o) s o 0xA1 0 (toBE 2 (c.rd Reg.CRK_STATUS_used) ++ toBE 2 (c.rd Reg.CRK_STATUS_used) ++
      toBE 1 (c.rd Reg.CRK_STATUS_full + 2 * c.rd Reg.CRK_STATUS_logmem_fail) ++ toBE 3 0) ∧
    (∀ item : BitVec 8, item.toNat < 7 → Tells (.calStatus o item) s o 0xB1 0
      (toBE 4 (c.rd (Reg.CAL_ITEM_COUNT_value item.toNat)) ++
        toBE 6 (c.rd2 (Reg.CAL_ITEM_SEC_LO_value item.toNat) (Reg.CAL_ITEM_SEC_HI_value item.toNat)) ++
        toBE 4 (c.rd (Reg.CAL_ITEM_NS_value item.toNat)) ++ toBE 2 0)) ∧
    Tells (.snapStatus o) s o 0xC3 0 (toBE 1 (c.rd Reg.SNP_STATUS_held) ++ toBE 3 0 ++ toBE 4 (c.rd Reg.SNP_SEQ_value) ++
      toBE 8 (c.rd2 Reg.SNP_LATCH_LO_value Reg.SNP_LATCH_HI_value) ++ toBE 4 (c.rd Reg.SNP_MISSED_value)) ∧
    Tells (.pdStatus o) s o 0xD2 0 (toBE 2 (c.rd Reg.PWR_STATUS_on) ++ toBE 2 (c.rd Reg.PWR_STATUS_switching)) ∧
    ∀ i, c.sys.mgt.running = some i → Tells (.fwInfo o) s o 0xE2 0 (toBE 4 i.version ++
      toBE 4 (if c.flag (Reg.MGT_IMG_INFO_staged c.idleArea) then c.rd (Reg.MGT_IMG_VERSION_version c.idleArea) else 0) ++
      toBE 1 i.kind ++ toBE 3 0)

/-- The reads reply with the bytes asked for and change nothing else: entries of a channel's vector log (R91, R137), bytes of
a tap ring (R92), the last-gasp records, oldest first and filled up with zeros (R93, R468), OTP words (R93, R445), and raw
bursts of a channel of DRAM that is FROZEN, with their check bytes (R389; a check byte is a free value, the model's choice
of log entry 3). -/
def Claim.MemoryReads : Prop :=
  ∀ (s : State) (o : Origin), s.core.admits o 1 → s.core.free →
    let c := s.core
    (∀ (chan : BitVec 8) (first : BitVec 32) (count : BitVec 16), chan.toNat < 24 → c.on (chanDom chan.toNat) = true →
      1 ≤ count.toNat → count.toNat ≤ 64 → c.inVecLog chan.toNat first.toNat count.toNat = true →
      (∀ k < count.toNat, c.dramOk (c.logAddr chan.toNat (first.toNat + k)) 16 = true) →
      Tells (.chLogRead o chan first count) s o 0x44 0
        ((List.range count.toNat).flatMap fun k => c.dramRead (c.logAddr chan.toNat (first.toNat + k)) 16)) ∧
    (∀ (ctx tap : BitVec 8) (off : BitVec 64) (len : BitVec 16), ctx.toNat < 32 → tap.toNat < 6 → 1 ≤ len.toNat →
      len.toNat ≤ 1392 → c.on pdDRAM = true → c.on (sieveDom (c.svOf ctx.toNat)) = true →
      let v := c.svOf ctx.toNat
      let a := c.tapBase ctx.toNat + c.rd (Reg.SVX_TAP_OFF_bytes v ctx.toNat tap.toNat) * 64 + off.toNat
      off.toNat + len.toNat ≤ c.rd (Reg.SVX_TAP_LEN_bytes v ctx.toNat tap.toNat) * 64 → c.dramOk a len.toNat = true →
      Tells (.tapRead o ctx tap off len) s o 0x82 0 (c.dramRead a len.toNat)) ∧
    (c.crockMem.lastGasp.length ≤ 8 → Tells (.lastgaspRead o) s o 0xA3 0 (c.crockMem.lastGasp.flatMap Rec.bytes ++
      List.replicate (32 * (8 - c.crockMem.lastGasp.length)) 0)) ∧
    (c.admits o 3 → ∀ off count : BitVec 16, 1 ≤ count.toNat → count.toNat ≤ 256 → off.toNat + count.toNat ≤ 1024 →
      Tells (.otpRead o off count) s o 0xF0 0 ((List.range count.toNat).flatMap fun k => toBE 4 (c.otp (off.toNat + k)))) ∧
    (c.admits o 3 → ∀ (chan : BitVec 8) (addr : BitVec 64) (bursts : BitVec 16), chan.toNat < 2 → addr.toNat % 64 = 0 →
      1 ≤ bursts.toNat → bursts.toNat ≤ 16 → c.on pdDRAM = true → c.dramState chan.toNat = 4 →
      addr.toNat + 64 * bursts.toNat ≤ c.dramChan →
      Tells (.dramDiagRead o chan addr bursts) s o 0xF2 0 ((List.range bursts.toNat).flatMap fun k =>
        ((List.range 64).map fun i => c.cell (dramGlobal chan.toNat (addr.toNat + 64 * k) + i)) ++
          c.checkBytes (dramGlobal chan.toNat (addr.toNat + 64 * k))))

/-- The commands that report: their replies, and that they change nothing else. -/
def Obligations.Reports : Prop := Claim.StatusReplies ∧ Claim.MemoryReads ∧ Claim.TimeReports

/-! ### Channels and axes by command (04, 11) -/

/-- CH_ARM arms channels that are OFF or PARKED, not frozen, with their head links up, while no quench input is asserted
(R91, R143, R512); CH_PARK parks channels that are OFF: each plans the move to its park position (R145); CH_CLEAR clears
channels that are QUENCHED or in FAULT once the cause is gone: cause and fault go, the loops are OFF, and they park (R145,
R147, R148, R292). Each acts on every channel of its mask, and nothing but the named channels' own state, the events and the
sessions' notices changes. -/
def Obligations.ChannelCommands : Prop :=
  ∀ (s : State) (o : Origin) (mask : BitVec 32), s.core.obeys o 1 → s.core.free → mask.toNat < 2 ^ 24 →
    (∀ ch ∈ chansOf mask, s.core.on (chanDom ch) = true) →
    let c := s.core
    let l := chansOf mask
    (c.quenchPin = false → (∀ ch ∈ l, (c.chState ch = 0 ∨ c.chState ch = 5) ∧ (c.fur ch).frozen = false ∧
        c.flag (Reg.GLK_STATUS_up (2 * ch + 1)) = true) → c.sys.net.servo.step = none → Ends (.chArm o mask) s fun t =>
      Replied o 0x40 0 [] c t.core ∧ (∀ ch ∈ l, t.core.chState ch = 1) ∧ Chip.only [.host, .sys, .beam] c t.core ∧
      Chip.regsKept (replyRegs o ++ logRegs ++ l.map Reg.FUR_STATE_state) c t.core ∧
      ∀ ch, ch ∉ l → t.core.fur ch = c.fur ch) ∧
    ((∀ ch ∈ l, c.chState ch = 0) → Ends (.chPark o mask) s fun t =>
      Replied o 0x41 0 [] c t.core ∧ (∀ ch ∈ l, t.core.chState ch = 5 ∧ ((c.beam.fur[ch]?).isSome = true →
        (t.core.fur ch).lastEnd = (c.rdS (Reg.FUR_PARK_X_pos ch), c.rdS (Reg.FUR_PARK_Y_pos ch)) ∧
        (t.core.fur ch).lits = (c.fur ch).lits)) ∧
      Chip.only [.host, .sys, .beam] c t.core ∧
      Chip.regsKept (replyRegs o ++ logRegs ++ l.map Reg.FUR_STATE_state) c t.core ∧
      ∀ ch, ch ∉ l → t.core.fur ch = c.fur ch) ∧
    (c.quenchPin = false → c.dramState 0 ≠ 4 → c.dramState 1 ≠ 4 → (∀ ch ∈ l, 6 ≤ c.chState ch ∧
        (c.fur ch).frozen = false) → Ends (.chClear o mask) s fun t =>
      Replied o 0x42 0 [] c t.core ∧ (∀ ch ∈ l, t.core.chState ch = 5 ∧ t.core.rd (Reg.FUR_FAULT_cause ch) = 0 ∧
        t.core.rd (Reg.FUR_STATE_quench_cause ch) = 0 ∧ ∀ k < 3, t.core.rd (Reg.LAD_STATE_state ch k) = 0) ∧
      Chip.only [.host, .sys, .beam] c t.core ∧
      Chip.regsKept (replyRegs o ++ logRegs ++ l.flatMap fun ch => [Reg.FUR_STATE_state ch, Reg.FUR_FAULT_cause ch,
        Reg.FUR_STATE_quench_cause ch, Reg.LAD_FAULT_cause ch, Reg.LAD_FAULT_loop ch] ++
        [0, 1, 2].flatMap fun k => [Reg.LAD_STATE_state ch k, Reg.LAD_STATE_stale ch k]) c t.core ∧
      ∀ ch, ch ∉ l → t.core.fur ch = c.fur ch)

/-- AX_MOVE to a target within the envelope, of an enabled axis that is IDLE, starts the move from the next opening (R324,
R327); AX_TUNE of an axis that does not move sets its profile (R328); AX_STOP slows a MOVING axis down, or stops it in an
emergency, which is logged (R329); AX_HOME with method 6 takes the present position as the reference, and with another method
is DEFERRED while the axis homes (R334, R335, R92); AX_GEAR places source and ratio for a later opening (R338). Only the
axis, its registers and, where one is logged, an event change. -/
def Obligations.AxisCommands : Prop :=
  ∀ (s : State) (o : Origin) (axis : BitVec 8), s.core.obeys o 1 → s.core.free → s.core.on pdMOTION = true →
    axis.toNat < 8 → (∃ x, s.core.mot.ax[axis.toNat]? = some x) →
    let c := s.core
    let n := axis.toNat
    let coils := [Reg.AX_STATUS_state n, Reg.AX_PHASE_thr_a n, Reg.AX_PHASE_thr_b n]
    (∀ (target : BitVec 64) (speed accel : BitVec 32),
      let x := toS 64 target.toNat
      let v := if speed.toNat = 0 then c.rd (Reg.AX_PROF_VMAX_value n) else speed.toNat
      x = toS 48 (ofS 48 x) → c.flag (Reg.AX_CTL_enable n) = true → c.axState n = 1 → c.host.sec.envelope.isSome = true →
      c.rd48 (Reg.AX_ENV_MIN_LO_value n) (Reg.AX_ENV_MIN_HI_value n) ≤ x →
      x ≤ c.rd48 (Reg.AX_ENV_MAX_LO_value n) (Reg.AX_ENV_MAX_HI_value n) → v ≤ c.rd (Reg.AX_ENV_VLIM_value n) →
      (c.flag (Reg.AX_ENV_CTL_need_home n) = true → c.flag (Reg.AX_STATUS_homed n) = true) → x ≠ c.axPos n →
      c.limitActive n (decide (x > c.axPos n)) = false → Ends (.axMove o axis target speed accel) s fun t =>
        Replied o 0x60 0 [] c t.core ∧ t.core.axState n = 2 ∧
        t.core.rd48 (Reg.AX_TARGET_LO_pos n) (Reg.AX_TARGET_HI_pos n) = x ∧ t.core.axPos n = c.axPos n ∧
        (∃ p, (t.core.ax n).plan = some p ∧ p.s = c.now + 1 ∧ p.from0 = c.axPos n ∧ p.up = decide (x > c.axPos n) ∧
          p.dist = some (if x > c.axPos n then x - c.axPos n else c.axPos n - x)) ∧
        Chip.only [.host, .mot] c t.core ∧ (∀ k, k ≠ n → t.core.ax k = c.ax k) ∧
        Chip.regsKept (replyRegs o ++ coils ++ [Reg.AX_TARGET_LO_pos n, Reg.AX_TARGET_HI_pos n]) c t.core) ∧
    (∀ speed accel : BitVec 32, speed.toNat ≤ c.rd (Reg.AX_ENV_VLIM_value n) → c.axState n ≠ 2 →
      Ends (.axTune o axis speed accel) s fun t =>
        Replied o 0x61 0 [] c t.core ∧ t.core.rd (Reg.AX_PROF_VMAX_value n) = speed.toNat ∧
        (accel.toNat ≠ 0 → t.core.rd (Reg.AX_PROF_A2_value n) = accel.toNat ∧
          t.core.rd (Reg.AX_PROF_D2_value n) = accel.toNat) ∧ Chip.only [.host] c t.core ∧
        Chip.regsKept (replyRegs o ++ Reg.AX_PROF_VMAX_value n ::
          (if accel.toNat = 0 then [] else [Reg.AX_PROF_A2_value n, Reg.AX_PROF_D2_value n])) c t.core) ∧
    (∀ mode : BitVec 8, mode.toNat < 2 → c.axState n = 2 → (c.ax n).home = none → c.roomToLog →
      Ends (.axStop o (1#8 <<< n) mode) s fun t =>
        Replied o 0x62 0 [] c t.core ∧ t.core.axState n = (if mode.toNat = 0 then 3 else 4) ∧
        t.core.axPos n = c.axPos n ∧ (∃ p, (t.core.ax n).plan = some p ∧ p.s = c.now + 1 ∧ p.dist = none) ∧
        (mode.toNat = 1 → t.core.logged 0x0805 n (u8 n ++ u8 0 ++ u16 0 ++
          s32LE (satS 32 (signedSpeed (c.axSpeedAt n (c.now + 1)))))) ∧
        Chip.only [.host, .mot, .sys] c t.core ∧ (∀ k, k ≠ n → t.core.ax k = c.ax k) ∧
        Chip.regsKept (replyRegs o ++ logRegs ++ [Reg.AX_STATUS_state n, Reg.AX_GEAR_CTL_engaged n]) c t.core) ∧
    (∀ method : BitVec 8, 1 ≤ method.toNat → method.toNat ≤ 6 → c.axState n = 1 → c.roomToLog →
      Ends (.axHome o axis method) s fun t =>
        t.core.rd (Reg.AX_HOME_CTL_method n) = method.toNat ∧ Chip.only [.host, .mot, .sys] c t.core ∧
        (∀ k, k ≠ n → t.core.ax k = c.ax k) ∧
        let off := c.rd48 (Reg.AX_HOME_OFF_LO_pos n) (Reg.AX_HOME_OFF_HI_pos n)
        if method.toNat = 6 then
          Replied o 0x63 0 (toBE 8 (ofS 64 off)) c t.core ∧ t.core.axPos n = off ∧
          t.core.flag (Reg.AX_STATUS_homed n) = true ∧ t.core.axState n = 1 ∧
          t.core.logged 0x0804 n (u8 n ++ u8 6 ++ u16 0 ++ s32LE off) ∧
          Chip.regsKept (replyRegs o ++ logRegs ++ [Reg.AX_HOME_CTL_method n, Reg.AX_POS_LO_pos n, Reg.AX_POS_HI_pos n,
            Reg.AX_STATUS_homed n]) c t.core
        else
          Replied o 0x63 0x08 [] c t.core ∧ t.core.axState n = 5 ∧ t.core.axPos n = c.axPos n ∧
          (∃ h, (t.core.ax n).home = some h ∧ h.method = method.toNat) ∧
          Chip.regsKept (replyRegs o ++ coils ++ [Reg.AX_HOME_CTL_method n]) c t.core) ∧
    ∀ (pf : BitVec 8) (num den : BitVec 32) (pos : BitVec 64), pf.toNat < 8 → den.toNat ≠ 0 →
      toS 64 pos.toNat = toS 48 (ofS 48 (toS 64 pos.toNat)) → c.host.sec.envelope.isSome = true →
      Ends (.axGear o axis pf 0 num den pos) s fun t =>
        Replied o 0x64 0 [] c t.core ∧ t.core.rd (Reg.AX_GEAR_CTL_source n) = pf.toNat ∧
        t.core.rd (Reg.AX_GEAR_NEXT_NUM_value n) = num.toNat ∧ t.core.rd (Reg.AX_GEAR_NEXT_DEN_value n) = den.toNat ∧
        t.core.flag (Reg.AX_GEAR_CTL_pending n) = true ∧ (t.core.ax n).gearTake = true ∧
        t.core.axState n = c.axState n ∧ Chip.only [.host, .mot] c t.core ∧
        Chip.regsKept (replyRegs o ++ [Reg.AX_GEAR_CTL_source n, Reg.AX_GEAR_NEXT_NUM_value n,
          Reg.AX_GEAR_NEXT_DEN_value n, Reg.AX_GEAR_CTL_pending n]) c t.core

/-! ### Kettle and contexts by command (07, 12) -/

/-- KT_ENABLE takes chains on, clearing their faults, once an envelope is in force, or off (R368). KT_SWAP asks for the latch of
the inactive buffer at the earliest beat, A + 4 + T_r + S_f, or at a later beat asked for, and replies with it (R363); the
cores take semaphore 2 for it when it is free (R101).
KT_LOOP stops the bed-temperature loop, or starts it on a context and map that fulfil its conditions (R370). Nothing but the
Kettle and its registers changes. -/
def Obligations.KettleCommands : Prop :=
  ∀ (s : State) (o : Origin), s.core.obeys o 1 → s.core.free → s.core.on pdKETTLE = true →
    let c := s.core
    (∀ (chains : BitVec 32) (on : BitVec 8), on.toNat < 2 →
      (on.toNat = 1 → c.flag Reg.SEC_STATUS_env_loaded = true) → Ends (.ktEnable o chains on) s fun t =>
        Replied o 0x70 0 [] c t.core ∧
        (∀ k < 32, bit (t.core.rd Reg.KT_CHAINS_mask) k = (if on.toNat = 1 then
            bit (c.rd Reg.KT_CHAINS_mask) k || bit chains.toNat k
          else bit (c.rd Reg.KT_CHAINS_mask) k && !bit chains.toNat k)) ∧
        (on.toNat = 1 → ∀ k < 32, bit (t.core.rd Reg.KT_FAULT_mask) k =
          (bit (c.rd Reg.KT_FAULT_mask) k && !bit chains.toNat k)) ∧
        Chip.only [.host] c t.core ∧
        Chip.regsKept (replyRegs o ++ Reg.KT_CHAINS_mask :: if on.toNat = 0 then [] else Reg.KT_FAULT_mask ::
          (bitList 32 chains.toNat).flatMap fun k => [Reg.KT_CH_STATUS_fault k, Reg.KT_CH_STATUS_bad_run k]) c t.core) ∧
    (∀ beat : BitVec 64, c.flag Reg.KT_STATUS_frozen = false → c.kt.swap = none → c.flag Reg.KT_STATUS_loop_on = false →
      (∀ m, c.host.sems[2]? = some m → m.cls = 0) → Ends (.ktSwap o beat) s fun t =>
        let lam := max beat.toNat (c.now + 4 + c.ktTr + c.ktSf)
        Replied o 0x71 0 (toBE 8 lam) c t.core ∧
        (∃ w, t.core.kt.swap = some w ∧ w.lam = lam ∧ w.buf = 1 - c.rd Reg.KT_STATUS_active ∧
          w.readAt = lam - c.ktSf - c.ktTr ∧ w.reading = false) ∧
        (c.host.sems.length = 64 → t.core.sem 2 = ⟨1, 0, false⟩ ∧ ∀ j, j ≠ 2 → t.core.sem j = c.sem j) ∧
        t.core.rd2 Reg.KT_NEXT_LO_beat Reg.KT_NEXT_HI_beat = lam % 2 ^ 64 ∧ t.core.rd Reg.KT_STATUS_phase = 3 ∧
        t.core.flag Reg.KT_STATUS_swap_pending = true ∧ Chip.only [.host, .kt] c t.core ∧
        Chip.regsKept (replyRegs o ++ [Reg.KT_NEXT_LO_beat, Reg.KT_NEXT_HI_beat, Reg.KT_STATUS_phase,
          Reg.KT_STATUS_swap_pending]) c t.core) ∧
    (∀ (ctx : BitVec 8) (map : BitVec 64), Ends (.ktLoop o 0 ctx map) s fun t =>
      Replied o 0x72 0 [] c t.core ∧ t.core.flag Reg.KT_STATUS_loop_on = false ∧ Chip.only [.host] c t.core ∧
      Chip.regsKept (replyRegs o ++ [Reg.KT_LOOP_CTL_on, Reg.KT_STATUS_loop_on]) c t.core) ∧
    ∀ (ctx : BitVec 8) (map : BitVec 64), isOverview ctx.toNat = true → map.toNat % 64 = 0 → map.toNat < 2 ^ 36 →
      c.on (sieveDom (c.svOf ctx.toNat)) = true → mapFault ctx.toNat map.toNat c = none → Ends (.ktLoop o 1 ctx map) s fun t =>
        Replied o 0x72 0 [] c t.core ∧ t.core.flag Reg.KT_STATUS_loop_on = true ∧
        t.core.rd Reg.KT_LOOP_CTL_context = ctx.toNat ∧ t.core.ktMap = map.toNat ∧ t.core.kt.loopInteg = [] ∧
        t.core.kt.loopDuty = [] ∧ Chip.only [.host, .kt] c t.core ∧
        Chip.regsKept (replyRegs o ++ [Reg.KT_LOOP_CTL_on, Reg.KT_LOOP_CTL_context, Reg.KT_STATUS_loop_on,
          Reg.KT_LOOP_MAP_LO_addr, Reg.KT_LOOP_MAP_HI_addr]) c t.core

/-- CTX_BIND binds a context that runs in no job to a Sieve, which starts its history anew (R215; what becomes of one that runs
alone is the model's choice, log entry 65). CTX_RUN starts
a context alone, at its first aligned beat 2,000 beats on or later, where the Sieve carries the load, or lets it open no more
frames (R216, R249). Nothing but the context, its registers and its head's mailbox changes. -/
def Obligations.ContextCommands : Prop :=
  ∀ (s : State) (o : Origin) (ctx : BitVec 8), s.core.obeys o 1 → s.core.free → ctx.toNat < 32 →
    s.core.ctxInJob ctx.toNat = false → (s.core.img.ctxs[ctx.toNat]?).isSome = true →
    let c := s.core
    let n := ctx.toNat
    let v := c.svOf n
    (∀ sieve : BitVec 8, sieve.toNat < 2 → c.on (sieveDom sieve.toNat) = true →
      Ends (.ctxBind o ctx sieve) s fun t =>
        Replied o 0x80 0 [] c t.core ∧ t.core.svOf n = sieve.toNat ∧ (t.core.ctx n).hist = none ∧
        (∀ k, k ≠ n → t.core.ctx k = c.ctx k) ∧ Chip.only [.host, .img] c t.core ∧
        Chip.regsKept (replyRegs o ++ if c.ctxRun n = 0 then [] else
          [Reg.SVX_STATUS_run v n, Reg.SVX_STATUS_run sieve.toNat n]) c t.core) ∧
    (c.on (sieveDom v) = true → c.ctxRun n ≠ 2 → (c.ctx n).startAt = none → c.ctxPeriodOk n = true →
      c.sieveDemand v n + sieveLoad (c.ctxW n) (c.ctxH n) (c.ctxF n) ≤ 950 →
      (26 ≤ n → c.admitted = none ∧ c.running = none ∧ c.ctxBusy (n - 26) = false) →
      (n < 6 → c.ctxBusy (n + 26) = false) → Ends (.ctxRun o ctx 1) s fun t =>
        Replied o 0x81 0 [] c t.core ∧
        (∃ b, (t.core.ctx n).startAt = some b ∧ c.now + 2000 ≤ b ∧ b < c.now + 2000 + c.ctxF n ∧
          b % c.ctxF n = c.rd (Reg.SVX_PHASE_beats v n)) ∧
        (∀ k, k ≠ n → t.core.ctx k = c.ctx k) ∧ Chip.only [.host, .img, .beam] c t.core ∧
        Chip.regsKept (replyRegs o ++ [Reg.SVX_EXP_STATUS_dirty v n, Reg.SVX_EXP_STATUS_active v n]) c t.core) ∧
    (c.on (sieveDom v) = true → Ends (.ctxRun o ctx 0) s fun t =>
        Replied o 0x81 0 [] c t.core ∧ (t.core.ctx n).startAt = none ∧ t.core.ctxOpens n = false ∧
        (∀ k, k ≠ n → t.core.ctx k = c.ctx k) ∧ Chip.only [.host, .img] c t.core ∧
        Chip.regsKept (replyRegs o ++ [Reg.SVX_STATUS_run v n]) c t.core)

/-! ### The Crock, calibration and tables (16, 17) -/

/-- LOG_READ replies with records of the array as they stand; a word that the read corrects is counted; when it finds an
uncorrectable word, writing stops for good and the fact goes to the last-gasp file (R93, R467, R469). LOG_CLEAR begins the erase, whose end leaves one record, of who
cleared, and brings the reply (R466). The Crock takes the events of its queue in order: each folds into the newest of the
last 16 records that takes it, or opens a record (R462–R464); one that meets an uncorrectable word is lost (R467). -/
def Obligations.CrockCommands : Prop :=
  ∀ s : State, s.core.sys.pwr.porst = false →
    let c := s.core
    (∀ (o : Origin) (first : BitVec 16) (count : BitVec 8), c.admits o 1 → c.free → 1 ≤ count.toNat → count.toNat ≤ 40 →
      first.toNat < c.crockMem.records.length →
      let l := (c.crockMem.records.drop first.toNat).take count.toNat
      (Tells (.logRead o first count none false) s o 0xA0 0 (l.flatMap Rec.bytes) ∧
        Ends (.logRead o first count none false) s fun t => t.core.crockMem = c.crockMem) ∧
      (Ends (.logRead o first count none true) s fun t =>
        Replied o 0xA0 0 (l.flatMap Rec.bytes) c t.core ∧ Chip.counted Reg.CRK_CE_count Reg.CRK_STICKY_sat 2 c t.core ∧
        t.core.crockMem = c.crockMem ∧ Chip.only [.host] c t.core ∧
        Chip.regsKept (replyRegs o ++ [Reg.CRK_CE_count, Reg.CRK_STICKY_sat]) c t.core) ∧
      ∀ bad : Fin 16384, first.toNat ≤ bad.val → bad.val < first.toNat + l.length →
        c.flag Reg.CRK_STATUS_logmem_fail = false → Ends (.logRead o first count (some bad) false) s fun t =>
          Replied o 0xA0 0 (l.flatMap Rec.bytes) c t.core ∧ t.core.flag Reg.CRK_STATUS_logmem_fail = true ∧
          t.core.rd Reg.CRK_FAIL_IDX_index = bad.val ∧ t.core.crockMem.records = c.crockMem.records ∧
          (∃ r, t.core.crockMem.lastGasp.getLast? = some r ∧ r.code = 0x0E04) ∧ Chip.only [.host] c t.core ∧
          Chip.regsKept (replyRegs o ++ [Reg.CRK_STATUS_logmem_fail, Reg.CRK_FAIL_IDX_index, Reg.CRK_LG_COUNT_count,
            Reg.CRK_STATUS_lg_next]) c t.core) ∧
    (∀ o : Origin, c.obeys o 2 → c.free → c.flag Reg.CRK_STATUS_logmem_fail = false → Ends (.logClear o) s fun t =>
      t.core.out = [] ∧ t.core.flag Reg.CRK_STATUS_clearing = true ∧ t.core.crockMem = c.crockMem ∧
      (∃ w, t.core.sys.crock.clearing = c.sys.crock.clearing ++
        [(w, c.rd (Reg.SEC_SLOT_STATE_role o.slot.val), c.rd (Reg.SEC_SLOT_KEY_value o.slot.val))] ∧ w.o = o) ∧
      Chip.only [.host, .sys] c t.core ∧ Chip.regsKept (replyRegs o ++ [Reg.CRK_STATUS_clearing]) c t.core) ∧
    (∀ w role key l, c.sys.crock.clearing = (w, role, key) :: l → (c.session w.o.slot.val).id = w.sid → w.late = false →
      Ends .logClearDone s fun t =>
        (∃ r, t.core.crockMem.records = [r] ∧ r.code = 0x0E01 ∧ r.par = u8 role ++ u8 w.o.slot.val ++
          u16 c.crockMem.records.length ++ u32 key) ∧ t.core.rd Reg.CRK_STATUS_used = 1 ∧
        t.core.flag Reg.CRK_STATUS_full = false ∧ t.core.sys.crock.clearing = l ∧
        t.core.flag Reg.CRK_STATUS_clearing = !l.isEmpty ∧ Replied w.o w.op 0 [] c t.core ∧
        t.core.crockMem.lastGasp = c.crockMem.lastGasp ∧ Chip.only [.host, .sys] c t.core ∧
        Chip.regsKept (replyRegs w.o ++ [Reg.CRK_STATUS_used, Reg.CRK_STATUS_full, Reg.CRK_STATUS_clearing,
          Reg.CRK_STICKY_sat]) c t.core) ∧
    (∀ (e : Event) (q : List Event) (i : Fin 16384), c.sys.crock.clearing = [] → c.sys.crock.queue = e :: q →
      c.flag Reg.CRK_STATUS_logmem_fail = false → Ends (.crockTakeEvent (some i) false) s fun t =>
        t.core.crockMem.records = c.crockMem.records ∧ t.core.flag Reg.CRK_STATUS_logmem_fail = true ∧
        t.core.rd Reg.CRK_FAIL_IDX_index = i.val ∧ (∃ r, t.core.crockMem.lastGasp.getLast? = some r ∧ r.code = 0x0E04) ∧
        Chip.counted Reg.CRK_LOST_count Reg.CRK_STICKY_sat 0 c t.core ∧ t.core.out = [] ∧ Chip.only [.host, .sys] c t.core ∧
        Chip.regsKept [Reg.GIO_STATUS_permit, Reg.CRK_STATUS_logmem_fail, Reg.CRK_FAIL_IDX_index, Reg.CRK_LG_COUNT_count,
          Reg.CRK_STATUS_lg_next, Reg.CRK_LOST_count, Reg.CRK_STICKY_sat] c t.core) ∧
    ∀ (e : Event) (q : List Event) (ce : Bool), c.sys.crock.clearing = [] → c.sys.crock.queue = e :: q →
      c.sys.crock.dropped = 0 → c.flag Reg.CRK_STATUS_logmem_fail = false → c.crockMem.records.length < 16382 →
      Ends (.crockTakeEvent none ce) s fun t =>
        (ce = true → Chip.counted Reg.CRK_CE_count Reg.CRK_STICKY_sat 2 c t.core) ∧
        (foldIndex e c.crockMem.records = none → t.core.crockMem.records = c.crockMem.records ++ [e.fresh]) ∧
        (∀ i, foldIndex e c.crockMem.records = some i → t.core.crockMem.records =
          setAt c.crockMem.records i ((c.crockMem.records.getD i e.fresh).fold e)) ∧
        t.core.crockMem.lastGasp.getLast? = (if lastGaspCode e.code then some e.fresh else c.crockMem.lastGasp.getLast?) ∧
        t.core.sys.crock.queue = q ∧ t.core.out = [] ∧ Chip.only [.host, .sys] c t.core ∧
        Chip.regsKept ([Reg.GIO_STATUS_permit, Reg.CRK_STATUS_used] ++
          (if ce then [Reg.CRK_CE_count, Reg.CRK_STICKY_sat] else []) ++
          if lastGaspCode e.code then [Reg.CRK_LG_COUNT_count, Reg.CRK_STATUS_lg_next] else []) c t.core

/-- CAL_RUN starts the rounds of the items it names and is DEFERRED (R482, R485). A round that ends outside the trim range fails:
CAL_FAIL shows item, cause and instance, and CAL_FAILED is logged; one that ends within it is counted with its device time
and logged (R486). A background interval of item 0 or 1 is counted (R482; the steps it takes are free values, the model's
choice of log entry 7). -/
def Claim.CalibrationRounds : Prop :=
  ∀ s : State, s.core.sys.pwr.porst = false → s.core.on pdFABRIC = true →
    let c := s.core
    (∀ (o : Origin) (items : BitVec 32), c.obeys o 2 → c.free → items.toNat ≠ 0 → items.toNat < 32 →
      (∀ k < 5, bit items.toNat k = true → c.calRuns k = false) → (bit items.toNat 1 = true → c.running = none) →
      (bit items.toNat 4 = true → c.darkOk = true) → Ends (.calRun o items) s fun t =>
        Replied o 0xB0 0x08 [] c t.core ∧
        (∀ k < 5, bit (t.core.rd Reg.CAL_STATUS_running) k = (bit (c.rd Reg.CAL_STATUS_running) k || bit items.toNat k)) ∧
        (∃ r, t.core.sys.cal.runs = c.sys.cal.runs ++ [r] ∧ r.items = items.toNat ∧ r.done = 0 ∧ r.fail = []) ∧
        Chip.only [.host, .sys] c t.core ∧
        Chip.regsKept (replyRegs o ++ [Reg.CAL_STATUS_running, Reg.CAL_STATUS_stale]) c t.core) ∧
    (∀ (item : Fin 5) (inst : BitVec 16), c.calRuns item.val = true → c.roomToLog →
      Ends (.calRoundDone item inst false) s fun t =>
        bit (t.core.rd Reg.CAL_STATUS_running) item.val = false ∧ t.core.rd Reg.CAL_FAIL_item = item.val ∧
        t.core.rd Reg.CAL_FAIL_cause = 3 ∧ t.core.rd Reg.CAL_FAIL_instance = inst.toNat ∧
        t.core.logged 0x0D02 inst.toNat (u8 item.val ++ u8 3 ++ u16 inst.toNat ++ u32 0) ∧ t.core.out = [] ∧
        Chip.only [.host, .sys] c t.core ∧
        Chip.regsKept (eventRegs ++ [Reg.CAL_STATUS_running, Reg.CAL_STATUS_stale, Reg.CAL_FAIL_item, Reg.CAL_FAIL_cause,
          Reg.CAL_FAIL_instance]) c t.core) ∧
    (∀ (item : Fin 5) (inst : BitVec 16), c.calRuns item.val = true → c.roomToLog →
      (item.val = 2 → ∃ k, c.sys.cal.sensor = some k ∧ 48 ≤ k) →
      (item.val = 3 → c.dramState 0 = 2 ∧ c.dramState 1 = 2) →
      (item.val = 4 → ∃ d, c.sys.cal.dark = some d ∧ d.total ≤ d.seen ∧ c.darkFault d = none) →
      Ends (.calRoundDone item inst true) s fun t =>
        bit (t.core.rd Reg.CAL_STATUS_running) item.val = false ∧
        Chip.counted (Reg.CAL_ITEM_COUNT_value item.val) Reg.CAL_STICKY_sat item.val c t.core ∧
        t.core.rd (Reg.CAL_ITEM_NS_value item.val) = nsOf (c.time 0) % 2 ^ 32 ∧
        t.core.logged 0x0D01 item.val (u8 item.val ++ u8 0 ++ u16 (c.calInstances item.val) ++
          u32 (t.core.rd (Reg.CAL_ITEM_COUNT_value item.val))) ∧
        t.core.out = [] ∧ Chip.only [.host, .sys, .fresh, .tables, .img] c t.core) ∧
    ∀ item : Fin 5, item.val ≤ 1 → (item.val = 1 → c.sys.cal.laneAt + 4 * c.rd Reg.CAL_LANE_INT_us ≤ c.now) →
      Ends (.calLaneStep item) s fun t =>
      Chip.counted (Reg.CAL_ITEM_COUNT_value item.val) Reg.CAL_STICKY_sat item.val c t.core ∧ t.core.out = [] ∧
      Chip.only [.fresh, .sys] c t.core ∧
      Chip.regsKept (eventRegs ++ [Reg.CAL_ITEM_COUNT_value item.val, Reg.CAL_STICKY_sat, Reg.CAL_ITEM_NS_value item.val,
        Reg.CAL_ITEM_SEC_LO_value item.val, Reg.CAL_ITEM_SEC_HI_value item.val]) c t.core

/-- TABLE_COMMIT of a table for which none waits begins the copy at once, under the cores' own hold of the table's semaphore,
while no job is RUNNING and the semaphore is free; while a job is RUNNING it is DEFERRED and waits (R101, R124). The copy's
end makes the shadow table active: a channel's corrector grid, which is logged (R124), or a context's temperature table,
whose generation rises (R230, R237); and answers whoever waited. -/
def Claim.TableCommits : Prop :=
  ∀ s : State, s.core.sys.pwr.porst = false →
    let c := s.core
    (∀ (o : Origin) (kind inst : BitVec 8), c.obeys o 2 → c.free → kind.toNat < 2 →
      inst.toNat < (if kind.toNat = 0 then 24 else 32) → c.on (tableDom kind.toNat inst.toNat) = true →
      (∀ k ∈ c.host.commits, k.of kind.toNat inst.toNat = false) →
      let shown := if kind.toNat = 0 then Reg.FUR_GRID_commit_pending inst.toNat
        else Reg.SVX_GEN_pending (c.svOf inst.toNat) inst.toNat
      (c.running = none → (c.sem kind.toNat).cls = 0 → c.host.sems.length = 64 → Ends (.tableCommit o kind inst) s fun t =>
        t.core.out = [] ∧ (t.core.sem kind.toNat).cls = 1 ∧
        (∃ k, t.core.host.commits = c.host.commits ++ [k] ∧ k.kind = kind.toNat ∧ k.inst = inst.toNat ∧ k.begun = true) ∧
        Chip.only [.host] c t.core ∧ Chip.regsKept (replyRegs o ++ [shown]) c t.core) ∧
      (c.running.isSome = true → Ends (.tableCommit o kind inst) s fun t =>
        Replied o 0xB2 0x08 [] c t.core ∧
        (∃ k ∈ t.core.host.commits, k.kind = kind.toNat ∧ k.inst = inst.toNat ∧ k.begun = false) ∧
        (kind.toNat = 0 → t.core.flag (Reg.FUR_GRID_commit_pending inst.toNat) = true) ∧
        t.core.host.sems = c.host.sems ∧ Chip.only [.host] c t.core ∧
        Chip.regsKept (replyRegs o ++ [shown]) c t.core)) ∧
    ∀ (kind : Fin 2) (inst : Fin 32) (k : Commit),
      (c.host.commits.find? fun k => k.of kind.val inst.val && k.begun) = some k → Ends (.tableCommitDone kind inst) s fun t =>
        (∀ x ∈ t.core.host.commits, x.of kind.val inst.val = false) ∧
        (kind.val = 0 → (∀ g, c.beam.grids[inst.val]? = some g →
            t.core.beam.grids[inst.val]? = some { g with active := g.shadow }) ∧
          (c.roomToLog → ∃ job, t.core.logged 0x0305 inst.val (u8 inst.val ++ u8 0 ++ u16 0 ++ u32 job))) ∧
        (kind.val = 1 → (c.img.ctxs[inst.val]?).isSome = true →
          (t.core.ctx inst.val).tempAct = c.window (0x01900000 + inst.val * 0x2000) 0x2000 ∧
          (c.on (sieveDom (c.svOf inst.val)) = true → t.core.rd (Reg.SVX_GEN_temp_gen (c.svOf inst.val) inst.val) =
            (c.rd (Reg.SVX_GEN_temp_gen (c.svOf inst.val) inst.val) + 1) %
              2 ^ (Reg.SVX_GEN_temp_gen (c.svOf inst.val) inst.val).w)) ∧
        (∀ w ∈ k.waiters, w.late = false → (c.session w.o.slot.val).id = w.sid →
          (.serair w.o.path w.o.src (1 + 16 * w.o.path.code) w.o.claim.toNat w.sid w.o.seq.toNat w.op 0 []
            (some (c.session w.o.slot.val).key) : Tx) ∈ t.core.out) ∧
        Chip.only [.host, .sys, .beam, .img] c t.core

/-- Calibration rounds and table commits. -/
def Obligations.CalibrationAndTables : Prop := Claim.CalibrationRounds ∧ Claim.TableCommits

/-! ### Snapshots, domains and firmware (16, 17, 18) -/

/-- SNAP_TRIGGER while no snapshot is held announces the next sequence number and beat and triggers the latch; while one is
held it replies with that one and counts a missed trigger, which is logged (R93, R488, R489). The SNAP_IN and TIME sources
trigger where they are selected, SNAP_IN after 20 ns low and with a pulse of 10 ns (R487). The latch copies every field as it stands and holds the snapshot, with its sequence
number, sources and beat (R488). SNAP_RELEASE ends it (R489); SNAP_CONFIG sets sources, classes and time (R487). -/
def Obligations.Snapshots : Prop :=
  ∀ s : State, s.core.sys.pwr.porst = false →
    let c := s.core
    let held := c.flag Reg.SNP_STATUS_held
    (∀ o : Origin, c.obeys o 1 → c.free → c.roomToLog → Ends (.snapTrigger o) s fun t =>
      Replied o 0xC0 0 (if held then toBE 4 (c.rd Reg.SNP_SEQ_value) ++
          toBE 8 (c.rd2 Reg.SNP_LATCH_LO_value Reg.SNP_LATCH_HI_value) ++ toBE 1 1 ++ toBE 3 0
        else toBE 4 (c.rd Reg.SNP_SEQ_value + 1) ++ toBE 8 (c.now + 1) ++ toBE 1 0 ++ toBE 3 0) c t.core ∧
      (held = false → t.core.sys.snp.trig = withBit c.sys.snp.trig 0 true ∧ Chip.regsKept (replyRegs o) c t.core) ∧
      (held = true → t.core.sys.snp = c.sys.snp ∧
        t.core.logged 0x0F02 0 (u32 (c.rd Reg.SNP_SEQ_value) ++ u8 0 ++ u8 0 ++ u16 0) ∧
        t.core.rd Reg.SNP_MISSED_value = (if c.rd Reg.SNP_MISSED_value + 1 < 2 ^ 32 then c.rd Reg.SNP_MISSED_value + 1
          else c.rd Reg.SNP_MISSED_value) ∧
        Chip.regsKept (replyRegs o ++ [Reg.SNP_MISSED_value]) c t.core) ∧
      Chip.only [.host, .sys] c t.core) ∧
    (∀ low high : BitVec 8, held = false → bit (c.rd Reg.SNP_CTL_src) 0 = true → Ends (.snapInEdge low high) s fun t =>
      t.core.sys.snp.trig = (if 20 ≤ low.toNat ∧ 10 ≤ high.toNat then withBit c.sys.snp.trig 1 true else c.sys.snp.trig) ∧
      t.core.out = [] ∧ Chip.only [.sys] c t.core ∧ Chip.regsKept [Reg.GIO_STATUS_permit] c t.core) ∧
    (held = false → c.flag Reg.SNP_STATUS_time_armed = true → bit (c.rd Reg.SNP_CTL_src) 1 = true →
      c.snapTime ≤ c.timeOf c.now → Ends .snapTime s fun t =>
        t.core.sys.snp.trig = withBit c.sys.snp.trig 2 true ∧ t.core.flag Reg.SNP_STATUS_time_armed = false ∧
        t.core.out = [] ∧ Chip.only [.sys] c t.core ∧
        Chip.regsKept [Reg.GIO_STATUS_permit, Reg.SNP_STATUS_time_armed] c t.core) ∧
    (held = false → c.sys.snp.trig ≠ 0 → c.roomToLog → Ends .snapshotLatch s fun t =>
      let seq := (c.rd Reg.SNP_SEQ_value + 1) % 2 ^ 32
      t.core.flag Reg.SNP_STATUS_held = true ∧ t.core.rd Reg.SNP_SEQ_value = seq ∧
      t.core.rd2 Reg.SNP_LATCH_LO_value Reg.SNP_LATCH_HI_value = (c.now + 1) % 2 ^ 64 ∧
      t.core.rd Reg.SNP_STATUS_sources = c.sys.snp.trig % 32 ∧ t.core.sys.snp.trig = 0 ∧
      t.core.sys.snp.copies = (c.asSeen.regs.filter fun p => !c.foreignField p.1) ∧
      t.core.logged 0x0F01 0 (u32 seq ++ u8 (c.sys.snp.trig % 32) ++ u8 0 ++ u16 0) ∧ t.core.out = [] ∧
      Chip.only [.host, .sys] c t.core ∧
      Chip.regsKept (eventRegs ++ [Reg.SNP_STATUS_sources, Reg.SNP_SEQ_value, Reg.SNP_LATCH_LO_value, Reg.SNP_LATCH_HI_value,
        Reg.SNP_DOMAINS_on, Reg.SNP_STATUS_held]) c t.core) ∧
    ∀ o : Origin, c.obeys o 1 → c.free →
      (held = true → Ends (.snapRelease o) s fun t => Replied o 0xC1 0 [] c t.core ∧
        t.core.flag Reg.SNP_STATUS_held = false ∧ Chip.only [.host] c t.core ∧
        Chip.regsKept (replyRegs o ++ [Reg.SNP_STATUS_held]) c t.core) ∧
      ∀ (src : BitVec 8) (classes : BitVec 16) (time : DevTime), src.toNat < 32 → classes.toNat < 32768 →
        time.ns.toNat < 1000000000 → Ends (.snapConfig o src classes time) s fun t =>
          Replied o 0xC2 0 [] c t.core ∧ t.core.rd Reg.SNP_CTL_src = src.toNat / 2 % 8 ∧
          t.core.rd Reg.SNP_FAULT_MASK_mask = classes.toNat ∧ t.core.snapTime = time.nanos ∧
          t.core.flag Reg.SNP_STATUS_time_armed = decide (time.nanos ≠ 0) ∧ Chip.only [.host] c t.core ∧
          Chip.regsKept (replyRegs o ++ [Reg.SNP_CTL_src, Reg.SNP_FAULT_MASK_mask, Reg.SNP_TIME_NS_time,
            Reg.SNP_TIME_SEC_LO_time, Reg.SNP_TIME_SEC_HI_time, Reg.SNP_STATUS_time_armed]) c t.core

/-- PD_ON and PD_OFF, with no switch and no reset in progress, are DEFERRED: the domains to switch wait in order, parents first
or children first, and the first starts to power up (R504–R506); a switch-off that reaches PD_NET replies at once and starts 1
ms later (R508). A domain that comes on, or that has drained, shows it, and its coming on is logged (R505, R506, R509); one that
does not drain in time is forced off, which is logged (R506; the time runs from the beat on which its mask acts, the model's
choice, log entry 35). -/
def Obligations.PowerDomains : Prop :=
  ∀ s : State, s.core.sys.pwr.porst = false → s.core.sys.pwr.reset = none →
    let c := s.core
    (∀ (o : Origin) (mask : BitVec 16), mask.toNat % 2 = 0 → mask.toNat < 4096 → c.host.hg.queue = [] →
      c.rd Reg.MGT_BOOT_STATUS_state ≠ 5 → c.sys.pwr.sw = [] → c.sys.pwr.later = none →
      (c.obeys o 1 → (bit mask.toNat pdAPP = true → c.sys.mgt.running.isSome = true) → c.parentOff mask.toNat = none →
        (∃ d, d < 12 ∧ bit mask.toNat d = true ∧ c.shown d = false) → Ends (.pdOn o mask) s fun t =>
          Replied o 0xD0 0x08 [] c t.core ∧
          (t.core.sys.pwr.sw.map fun w => (w.dom, w.act)) =
            ((parentsFirst.filter fun d => bit mask.toNat d && !c.shown d).map fun d => (d, 0)) ∧
          (∀ w l, t.core.sys.pwr.sw = w :: l → w.started = some c.now ∧ t.core.rd (Reg.PWR_DOM_STATE_state w.dom) = 1) ∧
          t.core.rd Reg.TOP_DOMAIN_ON_on = c.rd Reg.TOP_DOMAIN_ON_on ∧ Chip.only [.host, .sys] c t.core ∧
          Chip.regsKept (replyRegs o ++ Reg.PWR_STATUS_switching ::
            (bitList 12 mask.toNat).map Reg.PWR_DOM_STATE_state) c t.core) ∧
      ∀ mode : BitVec 8, mode.toNat < 2 → c.obeys o (1 + mode.toNat) → c.offList mask.toNat ≠ [] →
        Ends (.pdOff o mask mode) s fun t =>
          (if pdNET ∈ c.offList mask.toNat then
            Replied o 0xD1 0 (toBE 2 (c.rd Reg.TOP_DOMAIN_ON_on)) c t.core ∧ t.core.sys.pwr.sw = [] ∧
            t.core.sys.pwr.later = some (mask.toNat, decide (mode.toNat = 1), c.now + 4000)
          else
            Replied o 0xD1 0x08 [] c t.core ∧
            t.core.sys.pwr.sw = (c.offList mask.toNat).map fun d => ⟨d, 1 + mode.toNat, none⟩) ∧
          t.core.rd Reg.TOP_DOMAIN_ON_on = c.rd Reg.TOP_DOMAIN_ON_on ∧ Chip.only [.host, .sys] c t.core ∧
          Chip.regsKept (replyRegs o ++ [Reg.PWR_STATUS_switching]) c t.core) ∧
    (∀ (d : Fin 12) (w : SwDom) (l : List SwDom), c.sys.pwr.sw = w :: l → w.dom = d.val → w.started.isSome = true →
      (∀ x ∈ l, x.dom ≠ d.val) →
      (w.act = 0 → c.roomToLog → Ends (.domainOnDone d) s fun t =>
        t.core.shown d.val = true ∧ (∀ k, k ≠ d.val → k < 12 → t.core.shown k = c.shown k) ∧
        t.core.rd Reg.PWR_STATUS_on = t.core.rd Reg.TOP_DOMAIN_ON_on ∧
        t.core.rd (Reg.PWR_DOM_STATE_state d.val) = 2 ∧ (t.core.sys.pwr.sw.map fun x => x.dom) = (l.map fun x => x.dom) ∧
        t.core.logged 0x0104 0 (u16 (2 ^ d.val) ++ u8 0 ++ u8 0 ++ beat32 c.now)) ∧
      (w.act = 1 → c.drained d.val = true → Ends (.quiesceAck d) s fun t =>
        t.core.shown d.val = false ∧ (∀ k, k ≠ d.val → k < 12 → t.core.shown k = c.shown k) ∧
        t.core.rd (Reg.PWR_DOM_STATE_state d.val) = 0 ∧ t.core.sys.pwr.sw = l) ∧
      (w.act = 1 → (∀ b, w.started = some b → b + c.rd Reg.PWR_CTL_quiesce_ms * 4000 ≤ c.now + 1) → c.roomToLog →
        Ends .quiesceTimeout s fun t =>
          t.core.sys.pwr.sw = { w with act := 2 } :: l ∧ t.core.rd (Reg.PWR_DOM_STATE_state d.val) = 4 ∧
          t.core.flag (Reg.PWR_DOM_STATE_timeout d.val) = true ∧
          t.core.logged 0x0105 0 (u16 (2 ^ d.val) ++ u16 0 ++ beat32 c.now) ∧ t.core.out = [] ∧
          Chip.only [.sys] c t.core ∧ Chip.regsKept (eventRegs ++ [Reg.PWR_DOM_STATE_state d.val,
            Reg.PWR_DOM_STATE_timeout d.val]) c t.core)) ∧
    ∀ mask forced b, c.sys.pwr.later = some (mask, forced, b) → b ≤ c.now → Ends .deferredDomainOff s fun t =>
      t.core.sys.pwr.later = none ∧
      t.core.sys.pwr.sw = ((c.offList mask).map fun d => ⟨d, if forced then 2 else 1, none⟩) ∧ t.core.out = [] ∧
      Chip.only [.sys] c t.core ∧ Chip.regsKept [Reg.GIO_STATUS_permit, Reg.PWR_STATUS_switching] c t.core

/-- FW_STAGE of an image whose header keeps the form is DEFERRED while the image is staged (R453); its end leaves the verified
image in the area that does not run, and logs it (R449, R453); an uncorrectable error found in an area fails its verification
with cause FORMAT (R448). FW_SWITCH with a staged image and no job ADMITTED or RUNNING
replies and enters SWITCHING: sessions close, waiting commands and jobs go, the bed-temperature loop stops; its end runs the
staged image (R454). A verification at boot runs the image and brings PD_APP on, or returns to WAIT_IMAGE with the cause
(R449, R450). LANE_TEST sets a lane's test mode on an idle channel, clears its PRBS counters, and logs it (R210, R211). -/
def Obligations.FirmwareAndLaneTest : Prop :=
  ∀ s : State, s.core.sys.pwr.porst = false →
    let c := s.core
    let k := c.idleArea
    (∀ (o : Origin) (addr : BitVec 64) (len : BitVec 32), c.obeys o 3 → c.free → c.on pdDRAM = true → addr.toNat < 2 ^ 36 →
      c.dramOk addr.toNat 256 = true → imgForm (c.dramRead addr.toNat 256) = true →
      leAt (c.dramRead addr.toNat 256) 12 4 = len.toNat → c.sys.mgt.stage = none → Ends (.fwStage o addr len) s fun t =>
        Replied o 0xE0 0x08 [] c t.core ∧
        (∃ p, t.core.sys.mgt.stage = some (p, addr.toNat, len.toNat) ∧ p.seq = o.seq.toNat) ∧
        t.core.flag (Reg.MGT_IMG_INFO_staged k) = false ∧ Chip.only [.host, .sys] c t.core ∧
        Chip.regsKept (replyRegs o ++ [Reg.MGT_IMG_VERSION_version k, Reg.MGT_IMG_INFO_verified k, Reg.MGT_IMG_INFO_kind k,
          Reg.MGT_IMG_INFO_active k, Reg.MGT_IMG_INFO_staged k]) c t.core) ∧
    (∀ p a n, c.sys.mgt.stage = some (p, a, n) → c.dramOk a n = true → leAt (c.dramRead a n) 12 4 = n →
      c.imgFault true (c.dramRead a n) = none → c.roomToLog → Ends (.fwStageDone false) s fun t =>
        let v := leAt (c.dramRead a n) 8 4
        let kind := imgKind (c.dramRead a n)
        t.core.sys.mgt.stage = none ∧ t.core.sys.mgt.area k = areaOf (c.dramRead a n) ∧
        t.core.rd (Reg.MGT_IMG_VERSION_version k) = v ∧ t.core.flag (Reg.MGT_IMG_INFO_staged k) = true ∧
        t.core.logged 0x0C06 0 (u8 kind ++ u8 0 ++ u16 0 ++ u32 v) ∧ t.core.out = [] ∧
        Chip.only [.host, .sys] c t.core ∧
        Chip.regsKept (eventRegs ++ [Reg.MGT_IMG_VERSION_version k, Reg.MGT_IMG_INFO_verified k, Reg.MGT_IMG_INFO_kind k,
          Reg.MGT_IMG_INFO_active k, Reg.MGT_IMG_INFO_staged k]) c t.core) ∧
    (∀ p a n, c.sys.mgt.stage = some (p, a, n) → c.dramOk a n = true → c.roomToLog → Ends (.fwStageDone true) s fun t =>
      t.core.sys.mgt.stage = none ∧ t.core.sys.mgt.area k = areaOf (c.dramRead a n) ∧
      t.core.rd Reg.MGT_BOOT_STATUS_cause = 1 ∧
      t.core.logged 0x0C05 0 (u8 2 ++ u8 1 ++ u16 0 ++ u32 (leAt (c.dramRead a n) 8 4)) ∧ t.core.out = [] ∧
      Chip.only [.host, .sys] c t.core ∧ Chip.regsKept (eventRegs ++ [Reg.MGT_BOOT_STATUS_cause]) c t.core) ∧
    (∀ o : Origin, c.obeys o 2 → c.free → c.running = none → c.admitted = none → c.host.commits = [] →
      c.flag (Reg.MGT_IMG_INFO_staged k) = true → Ends (.fwSwitch o) s fun t =>
        Replied o 0xE1 0 [] c t.core ∧ t.core.rd Reg.MGT_BOOT_STATUS_state = 5 ∧ t.core.host.hg.queue = [] ∧
        t.core.host.jobs = [] ∧ (∀ n < 8, t.core.sessionOpen n = false) ∧ t.core.flag Reg.KT_STATUS_loop_on = false ∧
        t.core.host.sec.envelope = c.host.sec.envelope ∧ Chip.only [.host, .sys] c t.core ∧
        Chip.regsWithin (replyRegs o ++ logRegs ++ [Reg.MGT_BOOT_STATUS_state, Reg.KT_LOOP_CTL_on, Reg.KT_STATUS_loop_on])
          [(0x60000, 0x60300)] c t.core) ∧
    (c.sys.pwr.reset = none → c.rd Reg.MGT_BOOT_STATUS_state = 5 → c.rd Reg.MGT_BOOT_STATUS_active_area < 2 → c.roomToLog →
      Ends .fwSwitchDone s fun t =>
        let l := c.areaImage k
        t.core.sys.mgt.running = some ⟨leAt l 8 4, imgKind l, leAt l 40 4⟩ ∧ t.core.rd Reg.MGT_BOOT_STATUS_state = 4 ∧
        t.core.rd Reg.MGT_BOOT_STATUS_active_area = k ∧ t.core.flag (Reg.MGT_IMG_INFO_active k) = true ∧
        t.core.flag (Reg.MGT_IMG_INFO_active (1 - k)) = false ∧
        t.core.logged 0x0C07 0 (u8 (imgKind l) ++ u8 1 ++ u16 0 ++ u32 (leAt l 8 4)) ∧ t.core.out = [] ∧
        Chip.only [.sys] c t.core ∧
        Chip.regsWithin eventRegs [(0x70000, 0x80000), (0x200000, 0x230000)] c t.core) ∧
    (∀ cause bad, c.sys.pwr.reset = none → c.sys.mgt.verify = some cause → c.roomToLog → Ends (.imageVerifyDone bad) s fun t =>
      let a := if cause = 0 then 0 else c.rd Reg.MGT_BOOT_STATUS_active_area
      let l := c.areaImage a
      t.core.sys.mgt.verify = none ∧ t.core.out = [] ∧ Chip.only [.sys] c t.core ∧
      match if bad then some 1 else c.imgFault c.sys.mgt.testOk l with
      | none => t.core.sys.mgt.running = some ⟨leAt l 8 4, imgKind l, leAt l 40 4⟩ ∧
          t.core.rd Reg.MGT_BOOT_STATUS_state = 4 ∧ t.core.shown pdAPP = true ∧
          t.core.logged 0x0C07 0 (u8 (imgKind l) ++ u8 cause ++ u16 0 ++ u32 (leAt l 8 4))
      | some e => t.core.sys.mgt.running = c.sys.mgt.running ∧ t.core.rd Reg.MGT_BOOT_STATUS_state = 2 ∧
          t.core.rd Reg.MGT_BOOT_STATUS_cause = e ∧
          t.core.logged 0x0C05 0 (u8 c.sys.mgt.source ++ u8 e ++ u16 0 ++ u32 (leAt l 8 4))) ∧
    ∀ (o : Origin) (lane mode : BitVec 8), c.obeys o 3 → c.free → c.roomToLog → lane.toNat < 52 → mode.toNat < 6 →
      c.on (laneDom lane.toNat) = true → (mode.toNat ≠ 0 → c.laneBusy lane.toNat = none) → Ends (.laneTest o lane mode) s fun t =>
        let n := lane.toNat
        Replied o 0xF1 0 [] c t.core ∧ t.core.rd (Reg.GLK_TEST_mode n) = mode.toNat ∧
        t.core.rd (Reg.GLK_PRBS_ERR_count n) = 0 ∧
        t.core.rd2 (Reg.GLK_PRBS_BITS_LO_bits n) (Reg.GLK_PRBS_BITS_HI_bits n) = 0 ∧
        (c.flag (Reg.GLK_CTL_enable n) = true → mode.toNat ≠ 0 → t.core.rd (Reg.GLK_STATUS_state n) = 4) ∧
        (∃ e ∈ t.core.sys.crock.queue, e.code = 0x0505) ∧ Chip.only [.host, .sys, .beam, .fresh] c t.core ∧
        Chip.regsWithin (replyRegs o ++ logRegs) [(0x140000 + n * 0x400, 0x140000 + (n + 2) * 0x400)] c t.core

/-! ### Vectors and tiles (04, 05) -/

/-- A vector whose end beat has come ends: the channel stands at its end point and, unless it was the park move, its log entry
joins (R114, R131, R136). A fetched burst brings its records into the buffer, or faults the channel with FETCH (R138, R148).
A partial log burst is written after 64 beats (R139). A wait that is met is over (R125, R127, R128); a WAIT_INPUT that times
out faults the channel with SYNC (R125, R148). A rate window starts its count anew (R141). Only the channel, its tiles, its
memory transfers and the outputs that it drives change. -/
def Obligations.VectorEvents : Prop :=
  ∀ (s : State) (ch : Fin 24) (f : Furrow), s.core.sys.pwr.porst = false → s.core.on (chanDom ch.val) = true →
    s.core.beam.fur[ch.val]? = some f →
    let c := s.core
    let n := ch.val
    let mine := [(0x100000 + n * 0x1000, 0x100000 + (n + 1) * 0x1000), (0x2A0000, 0x2A1000)]
    (∀ p, f.plans = [p] → p.started = true → p.ended = false → p.endBeat ≤ c.now → p.endBreak f.lits ≤ c.now →
      Ends (.vectorEnd ch) s fun t =>
        (t.core.fur n).plans = [] ∧ (t.core.fur n).pos = p.endPt ∧
        (t.core.fur n).logIdx = f.logIdx + (if p.park then 0 else 1) ∧ (∀ k, k ≠ n → t.core.fur k = c.fur k) ∧
        t.core.out = [] ∧ Chip.only [.beam, .mem] c t.core ∧ Chip.regsKept [Reg.GIO_STATUS_permit] c t.core) ∧
    (f.running = true → f.got < f.asked → ∀ ok, Ends (.vectorFetchDone ch ok) s fun t =>
      let a := c.listBase n + 64 * f.got
      let r := VecRec.ofBytes (2 * f.got) ((c.dramRead a 64).take 32)
      (t.core.fur n).got = f.got + 1 ∧ (∀ k, k ≠ n → t.core.fur k = c.fur k) ∧ t.core.out = [] ∧
      Chip.only [.beam, .mem, .sys] c t.core ∧
      Chip.regsKept (eventRegs ++ [Reg.FUR_FAULT_cause n, Reg.FUR_FAULT_fault_seq n]) c t.core ∧
      (ok = false → c.chState n < 6 → c.rd (Reg.FUR_FAULT_cause n) = 0 → c.roomToLog →
        t.core.rd (Reg.FUR_FAULT_cause n) = 1 ∧ (c.now + 1, 1, 1) ∈ (t.core.fur n).quenchReq ∧
        t.core.logged 0x0302 n (u8 n ++ u8 1 ++ u16 (f.expectSeq.getD (c.rd (Reg.FUR_STATE_head_seq n))) ++ u32 (2 * f.got))) ∧
      (ok = true → c.dramOk a 64 = true → f.fetchDone = false → c.rd (Reg.FUR_FAULT_cause n) = 0 →
        vecCrcOk ((c.dramRead a 64).take 32) = true → (∀ e, f.expectSeq = some e → e = r.seq) →
        ∃ b ∈ (t.core.fur n).buf, b.r = r)) ∧
    (f.log ≠ [] → f.lastJoin + 64 ≤ c.now → Ends (.logFlushTimeout ch) s fun t =>
      (t.core.fur n).log = [] ∧ t.core.mem.slm.ready = c.mem.slm.ready ++
        [⟨0, n, true, c.logAddr n (f.logIdx - f.log.length), f.log.flatMap LogEnt.bytes, c.now⟩] ∧
      t.core.out = [] ∧ Chip.only [.beam, .mem] c t.core ∧ Chip.regsKept [Reg.GIO_STATUS_permit] c t.core) ∧
    (∀ x, f.head = some x →
      (f.waiting = true → x.r.kind = kWaitIn →
        let v := bit (c.rd Reg.GIO_IN_bits) (bits x.r.arg 3 0)
        let u := bit c.sys.gio.prevIn (bits x.r.arg 3 0)
        let cond := bits x.r.arg 15 8
        let met := if cond = 0 then !v else if cond = 1 then v else if cond = 2 then v && !u else u && !v
        (met = true → Ends (.waitInputMet ch) s fun t =>
          (t.core.fur n).waiting = false ∧ (t.core.fur n).t = c.now ∧ (∀ y ∈ (t.core.fur n).buf, y.r.idx ≠ x.r.idx) ∧
          (∀ k, k ≠ n → t.core.fur k = c.fur k) ∧ t.core.out = [] ∧ Chip.only [.beam, .mem, .sys] c t.core ∧
          Chip.regsWithin eventRegs mine c t.core) ∧
        (met = false → bits x.r.arg 31 16 ≠ 0 → f.t + 1000 * bits x.r.arg 31 16 ≤ c.now → c.chState n < 6 →
          c.rd (Reg.FUR_FAULT_cause n) = 0 → c.roomToLog → Ends (.waitInputTimeout ch) s fun t =>
            t.core.rd (Reg.FUR_FAULT_cause n) = 4 ∧ (c.now + 1, 1, 4) ∈ (t.core.fur n).quenchReq ∧
            t.core.logged 0x0302 n (u8 n ++ u8 4 ++ u16 x.r.seq ++ u32 x.r.idx) ∧
            (∀ k, k ≠ n → t.core.fur k = c.fur k) ∧ t.core.out = [] ∧ Chip.only [.beam, .sys] c t.core ∧
            Chip.regsKept (eventRegs ++ [Reg.FUR_FAULT_cause n, Reg.FUR_FAULT_fault_seq n]) c t.core)) ∧
      (∀ i : Instr, (i = .waitTimeMet ch ∧ x.r.kind = kWaitTime) ∨ (i = .syncBeatMet ch ∧ x.r.kind = kSync) →
        f.running = true → f.ended = false → f.waiting = false → f.begun = true → f.freeAt ≤ c.now + 3 →
        laserOn (c.chState n) = true → c.ctlBeat n x.r (max f.t c.now) ≤ c.now + 3 → Ends i s fun t =>
          (t.core.fur n).t = c.ctlBeat n x.r (max f.t c.now) ∧ (∀ y ∈ (t.core.fur n).buf, y.r.idx ≠ x.r.idx) ∧
          (∀ k, k ≠ n → t.core.fur k = c.fur k) ∧ t.core.out = [] ∧ Chip.only [.beam, .mem, .sys] c t.core ∧
          Chip.regsWithin eventRegs mine c t.core)) ∧
    (f.running = true → f.begun = true → f.startBeat < c.now → (c.now - f.startBeat) % 1000 = 0 →
      Ends (.vectorRateWindow ch) s fun t =>
        t.core.fur n = { f with winCount := 0 } ∧ (∀ k, k ≠ n → t.core.fur k = c.fur k) ∧ t.core.out = [] ∧
        Chip.only [.beam] c t.core ∧ Chip.regsKept [Reg.GIO_STATUS_permit] c t.core)

/-- A quench is confirmed a beat after it took effect: the channel's tiles and request go, and it is in FAULT when the fault was
its own, parks when a job was aborted, and stays QUENCHED otherwise (R143, R146, R169). An output pulse ends: its level falls
(R126). -/
def Claim.QuenchesAndPulses : Prop :=
  ∀ s : State, s.core.sys.pwr.porst = false →
    let c := s.core
    (∀ (ch : Fin 24) (f : Furrow) (q : Nat), c.beam.fur[ch.val]? = some f → f.quenchedAt = some q → q + 1 ≤ c.now →
      c.chState ch.val = 6 → Ends (.quenchConfirm ch) s fun t =>
        let cause := c.rd (Reg.FUR_STATE_quench_cause ch.val)
        t.core.chState ch.val = (if cause = 1 then 7 else if cause = 6 then 5 else 6) ∧
        t.core.heldTiles ch.val = [] ∧ t.core.req ch.val = none ∧ (t.core.fur ch.val).quenchedAt = none ∧
        (∀ k, k ≠ ch.val → t.core.fur k = c.fur k) ∧ t.core.out = [] ∧ Chip.only [.host, .sys, .beam, .mem] c t.core ∧
        Chip.regsKept (eventRegs ++ [Reg.FUR_STATE_state ch.val]) c t.core) ∧
    ∀ k : Fin 16, (∃ p ∈ c.sys.gio.pulses, p.out = k.val ∧ p.clear ≤ c.now) → Ends (.outputPulseClear k) s fun t =>
      bit (t.core.rd Reg.GIO_OUT_LEVEL_bits) k.val = false ∧
      t.core.sys.gio.pulses = c.sys.gio.pulses.filter (fun p => p.out != k.val) ∧ t.core.out = [] ∧
      (∀ j < 16, j ≠ k.val → bit (t.core.rd Reg.GIO_OUT_LEVEL_bits) j = bit (c.rd Reg.GIO_OUT_LEVEL_bits) j) ∧
      Chip.only [.sys] c t.core ∧ Chip.regsKept [Reg.GIO_STATUS_permit, Reg.GIO_OUT_LEVEL_bits, Reg.GIO_OUT_bits,
        Reg.GIO_OUT_OWNER_bits] c t.core

/-- A request whose backoff has expired is evaluated: with every tile of its set grantable it holds them all and is over, else
it loses, counts it, and waits 2^k beats more (R159, R160). A tile whose settle time has ended is FREE (R167). A quota window
that ends clears counts and masks (R166). At the wrap of the slot table a commit that waits swaps the tables, which is
logged (R164). Only the Bed Sluice, and in a grant the channel that gets it, changes. -/
def Claim.TileEvents : Prop :=
  ∀ s : State, s.core.sys.pwr.porst = false →
    let c := s.core
    let slb := [(0x120000, 0x130000)]
    (∀ (ch : Fin 24) (r : Req), c.on pdFABRIC = true → c.req ch.val = some r → r.nextEval ≤ c.now →
      c.sideMasked ch.val = false → c.quotaMasked ch.val c.now = false → c.banded c.tileGrid r.hr r.set = false →
      Ends (.backoffExpiry ch) s fun t =>
        (if r.outside = false ∧ ∀ k ∈ r.set, c.grantable c.tileGrid c.now ch.val r.urgent.isSome k = true then
          t.core.req ch.val = none ∧ (∀ k ∈ r.set, (t.core.tile k).bind Tile.holder = some ch.val) ∧
          Chip.counted (Reg.SLB_CH_GRANTS_count ch.val) (Reg.SLB_CH_STICKY_grants_sat ch.val) 0 c t.core
        else
          (∃ r', t.core.req ch.val = some r' ∧ r'.set = r.set ∧ r'.losses = r.losses + 1 ∧
            r'.nextEval = c.now + 2 ^ min (r.losses + 1) (c.rd Reg.SLB_CTL_k_max)) ∧
          Chip.counted (Reg.SLB_CH_LOSSES_count ch.val) (Reg.SLB_CH_STICKY_losses_sat ch.val) 0 c t.core ∧
          t.core.beam.fur = c.beam.fur) ∧
        (∀ k, k ≠ ch.val → t.core.req k = c.req k) ∧ t.core.out = [] ∧ Chip.only [.beam, .sys] c t.core ∧
        Chip.regsWithin eventRegs slb c t.core) ∧
    (∀ (k : Fin 65536) (x : Tile), c.tile k.val = some x → x.holder = none → x.freeAt ≤ c.now → x.resFor = none →
      Rising c.beam.slb.tiles → Ends (.settleExpiry k) s fun t =>
        t.core.tile k.val = none ∧ (∀ j, j ≠ k.val → t.core.tile j = c.tile j) ∧ t.core.beam.fur = c.beam.fur ∧
        t.core.out = [] ∧ Chip.only [.beam] c t.core ∧ Chip.regsKept [Reg.GIO_STATUS_permit] c t.core) ∧
    (c.rd Reg.SLB_QUOTA_N_quota ≠ 0 → c.rd Reg.SLB_QUOTA_WIN_window ≠ 0 →
      (c.now - c.beam.slb.winStart) % c.rd Reg.SLB_QUOTA_WIN_window = 0 → c.beam.slb.quotaDone ≠ c.now →
      Ends .quotaWindowEnd s fun t =>
        t.core.beam.slb.counts = [] ∧ t.core.beam.slb.qmask = [] ∧ t.core.beam.slb.tiles = c.beam.slb.tiles ∧
        t.core.beam.fur = c.beam.fur ∧ t.core.out = [] ∧ Chip.only [.beam] c t.core ∧
        Chip.regsKept [Reg.GIO_STATUS_permit] c t.core) ∧
    (c.now % 256 = 0 → c.beam.slb.wrapDone ≠ c.now → c.flag Reg.SLB_STATUS_commit_pending = true → c.roomToLog →
      Ends .slotTableWrap s fun t =>
        (∀ k < 256, t.core.rd (Reg.SLB_SLOT_ACT_valid k) = c.rd (Reg.SLB_SLOT_valid k) % 2 ∧
          t.core.rd (Reg.SLB_SLOT_ACT_channel k) = c.rd (Reg.SLB_SLOT_channel k) % 32 ∧
          t.core.rd (Reg.SLB_SLOT_valid k) = c.rd (Reg.SLB_SLOT_ACT_valid k) % 2 ∧
          t.core.rd (Reg.SLB_SLOT_channel k) = c.rd (Reg.SLB_SLOT_ACT_channel k) % 32) ∧
        t.core.rd Reg.SLB_STATUS_active_table = (1 - c.rd Reg.SLB_STATUS_active_table) % 2 ∧
        t.core.flag Reg.SLB_STATUS_commit_pending = false ∧
        t.core.logged 0x0402 0 (u8 (1 - c.rd Reg.SLB_STATUS_active_table) ++ u8 0 ++ u16 0 ++ beat32 c.now) ∧
        t.core.out = [] ∧ Chip.only [.beam, .sys] c t.core ∧ Chip.regsWithin eventRegs slb c t.core)

/-- Quenches, output pulses, and the tiles that the Bed Sluice lets go. -/
def Obligations.QuenchesAndTiles : Prop := Claim.QuenchesAndPulses ∧ Claim.TileEvents

/-! ### Head links (06) -/

/-- An uplink frame of a lane that hears (R194, R204–R207): a good one counts, puts an end to the run of bad frames, shows
head word 3 and its arrival, and brings the lane from HUNT to VERIFY, and to LOCKED with the fourth in a row; its position
is taken when it echoes the present beat. A bad one lengthens the run and sends VERIFY back to HUNT. Without a marker a lane
in HUNT stays there. The frame reaches the channel's context, its mailbox and its link, and nothing else. -/
def Claim.UplinkFrames : Prop :=
  ∀ (s : State) (ch : Fin 24) (line : List Bool) (y : BitVec 16), s.core.sys.pwr.porst = false →
    let c := s.core
    let n := 2 * ch.val + 1
    let st := c.laneState n
    let f := readLine (c.laneRate n) (c.flag (Reg.GLK_CTL_polarity n)) (c.markerWindow n line) line
    let w := fun k => f.words.getD k 0
    let good := f.stuffOk = true ∧ f.crcOk = true ∧ crcMsb 8 7 0 ((wordBytes (f.words.take 3)).take 11) = w 2 % 256 ∧
      y.toNat ≤ 190
    ∀ (l : Lane) (k : Link), c.beam.lanes[n]? = some l → c.beam.links[ch.val]? = some k → c.laneHears n = true →
      Ends (.uplinkFrame ch line y) s fun t =>
        (t.core.lane n).lastFrame = some c.now ∧
        (f.marker = false → st = 1 → t.core.laneState n = 1 ∧ Chip.only [.beam] c t.core ∧
          Chip.regsKept [Reg.GIO_STATUS_permit] c t.core) ∧
        (f.marker = true → t.core.rd (Reg.GLK_FILL_last n) = min f.gap 65535 ∧
          t.core.rd (Reg.GLK_LAT_last n) = y.toNat ∧
          (f.crcOk = false → Chip.counted (Reg.GLK_CRC_ERR_count n) (Reg.GLK_STICKY_sat n) 1 c t.core)) ∧
        (f.marker = true → good → Chip.counted (Reg.GLK_FRAMES_count n) (Reg.GLK_STICKY_sat n) 0 c t.core ∧
          t.core.rd (Reg.GLK_STATUS_bad_run n) = 0 ∧ t.core.rd (Reg.GLK_HEAD_word3 n) = w 3 % 2 ^ 32 ∧
          t.core.laneState n = (if st = 3 ∨ (st = 2 ∧ 3 ≤ l.good) then 3 else 2) ∧
          (w 2 / 256 = c.now % 2 ^ 24 → (t.core.link ch.val).actual = some (c.now, s32 (w 0), s32 (w 1)))) ∧
        (f.marker = true → ¬ good → t.core.rd (Reg.GLK_STATUS_bad_run n) = min (c.rd (Reg.GLK_STATUS_bad_run n) + 1) 15 ∧
          t.core.laneState n = (if st = 3 then 3 else 1)) ∧
        t.core.out = [] ∧ Chip.only [.beam, .img, .sys] c t.core ∧
        Chip.regsWithin eventRegs [(0x140000 + 2 * ch.val * 0x400, 0x140800 + 2 * ch.val * 0x400),
          (0x100000 + ch.val * 0x1000, 0x101000 + ch.val * 0x1000),
          (0x190000 + c.svOf ch.val * 0x20000 + ch.val * 0x800, 0x190800 + c.svOf ch.val * 0x20000 + ch.val * 0x800)] c t.core

/-- A marker absent from its window counts in GLK_n_MISS and as a bad frame, sends VERIFY to HUNT, and LOCKED with the second
in a row; a link that was UP faults with it, and with a run of bad frames of err_limit (R204, R207). A mailbox request
without an answer for 16 beats is sent again, up to 3 times, and then times out (R199). An overview frame pair counts on both
lanes (R209). A PRBS checker shows its sync, and counts errors and losses (R211; the inversion of the sequences is presumed,
log entry 64). A lane reference that is lost sends the receivers it
clocks to HUNT, latches and is logged; its return shows (R497). -/
def Claim.LanesAndMailboxes : Prop :=
  ∀ s : State, s.core.sys.pwr.porst = false →
    let c := s.core
    (∀ (n : Fin 52) (l : Lane), laneRx n.val = true → c.beam.lanes[n.val]? = some l → c.on (laneDom n.val) = true →
      (c.laneState n.val = 2 ∨ c.laneState n.val = 3) → (n.val < 48 → l.lastFrame ≠ some c.now) →
      (48 ≤ n.val → c.laneClock n.val = true) → Ends (.markerTimeout n) s fun t =>
        let ch := n.val / 2
        let lost := decide (c.laneState n.val = 3) && decide (1 ≤ l.miss)
        Chip.counted (Reg.GLK_MISS_count n.val) (Reg.GLK_STICKY_sat n.val) 2 c t.core ∧
        t.core.rd (Reg.GLK_STATUS_bad_run n.val) = min (c.rd (Reg.GLK_STATUS_bad_run n.val) + 1) 15 ∧
        t.core.laneState n.val = (if c.laneState n.val = 2 ∨ lost = true then 1 else 3) ∧
        (n.val < 48 → c.linkUp ch = true →
          lost = true ∨ c.rd (Reg.GLK_CTL_err_limit n.val) ≤ min (c.rd (Reg.GLK_STATUS_bad_run n.val) + 1) 15 →
          t.core.linkUp ch = false ∧ t.core.flag (Reg.GLK_STATUS_link_fault n.val) = true) ∧
        t.core.out = [] ∧ Chip.only [.beam, .img, .sys] c t.core ∧
        Chip.regsWithin eventRegs [(0x140000 + n.val * 0x400, 0x140400 + n.val * 0x400),
          (0x100000 + ch * 0x1000, 0x101000 + ch * 0x1000)] c t.core) ∧
    (∀ (ch : Fin 24) (k : Link) (m : Mbx), c.beam.links[ch.val]? = some k → k.mbx = some m → m.sent + 16 ≤ c.now →
      c.on (laneDom (2 * ch.val)) = true → c.roomToLog → Ends (.mbxTimeout ch) s fun t =>
        let n := 2 * ch.val
        (m.tries < 3 → (t.core.link ch.val).mbx = some { m with sent := c.now, tries := m.tries + 1 } ∧
          Chip.only [.beam] c t.core ∧ Chip.regsKept [Reg.GIO_STATUS_permit] c t.core) ∧
        (3 ≤ m.tries → (t.core.link ch.val).mbx = none ∧
          t.core.logged 0x0504 n (u8 n ++ u8 m.tag ++ u16 m.addr ++ u32 c.now) ∧
          (m.dead = false → m.sieve = false → t.core.flag (Reg.GLK_MBX_CMD_busy n) = false ∧
            t.core.flag (Reg.GLK_MBX_RESP_done n) = true ∧ t.core.rd (Reg.GLK_MBX_RESP_status n) = 0xFF) ∧
          (m.dead = false → m.sieve = true → ∀ x, c.img.ctxs[ch.val]? = some x → x.block.isSome = true →
            (t.core.ctx ch.val).block = none ∧ t.core.flag (Reg.SVX_EXP_STATUS_error x.sieve ch.val) = true)) ∧
        t.core.out = [] ∧ Chip.only [.beam, .img, .sys] c t.core ∧
        Chip.regsWithin eventRegs [(0x140000 + n * 0x400, 0x140400 + n * 0x400),
          (0x190000 + c.svOf ch.val * 0x20000 + ch.val * 0x800, 0x190800 + c.svOf ch.val * 0x20000 + ch.val * 0x800)]
          c t.core) ∧
    (∀ (cam : Fin 2) (a b : List Bool) (l m : Lane), let n := 48 + 2 * cam.val
      let f := readLine (c.laneRate n) (c.flag (Reg.GLK_CTL_polarity n)) (c.markerWindow n a) a
      let g := readLine (c.laneRate n) (c.flag (Reg.GLK_CTL_polarity (n + 1))) (c.markerWindow (n + 1) b) b
      let kf := f.words.getD 0 0 / 256
      let after := fun (n : Nat) (l : Lane) => if c.laneState n = 3 ∨ (c.laneState n = 2 ∧ 3 ≤ l.good) then 3 else 2
      c.beam.lanes[n]? = some l → c.beam.lanes[n + 1]? = some m → c.laneHears n = true → c.laneHears (n + 1) = true →
      Ends (.overviewFrame cam a b) s fun t =>
        let v := c.svOf (24 + cam.val)
        (f.marker = true → f.stuffOk = true → f.crcOk = true → g.marker = true → g.stuffOk = true → g.crcOk = true →
          g.words.getD 0 0 / 256 = kf → (∀ k, l.lastFrame = some k → (k + 1) % 2 ^ 24 = kf) →
          (t.core.lane n).lastFrame = some kf ∧
          Chip.counted (Reg.GLK_FRAMES_count n) (Reg.GLK_STICKY_sat n) 0 c t.core ∧
          Chip.counted (Reg.GLK_FRAMES_count (n + 1)) (Reg.GLK_STICKY_sat (n + 1)) 0 c t.core ∧
          t.core.laneState n = after n l ∧ t.core.laneState (n + 1) = after (n + 1) m) ∧
        t.core.out = [] ∧ Chip.only [.beam, .img, .sys, .mem] c t.core ∧
        Chip.regsWithin eventRegs [(0x140000 + n * 0x400, 0x140800 + n * 0x400),
          (0x180000 + v * 0x20000, 0x1A0000 + v * 0x20000)] c t.core) ∧
    (∀ (n : Fin 52) (sync : Bool), laneRx n.val = true → c.laneState n.val = 4 → c.on (laneDom n.val) = true →
      c.flag (Reg.GLK_PRBS_STATUS_sync n.val) ≠ sync → Ends (.prbsSyncChange n sync) s fun t =>
        let k := c.rd (Reg.GLK_PRBS_STATUS_sync_losses n.val)
        t.core.flag (Reg.GLK_PRBS_STATUS_sync n.val) = sync ∧
        t.core.rd (Reg.GLK_PRBS_STATUS_sync_losses n.val) = (if sync = false ∧ k + 1 < 2 ^ 8 then k + 1 else k) ∧
        t.core.out = [] ∧ Chip.only [.beam] c t.core ∧ Chip.regsKept [Reg.GIO_STATUS_permit, Reg.GLK_PRBS_STATUS_sync n.val,
          Reg.GLK_PRBS_STATUS_sync_losses n.val] c t.core) ∧
    (∀ (ch : Fin 24) (line : List Bool) (y : BitVec 16) (l : Lane), let n := 2 * ch.val + 1
      c.beam.lanes[n]? = some l → c.laneTests n = true → Ends (.uplinkFrame ch line y) s fun t =>
        let r := line.foldl (fun x b => checkBit (c.rd (Reg.GLK_TEST_mode n)) x (b != c.flag (Reg.GLK_CTL_polarity n)))
          ⟨l.chk, c.flag (Reg.GLK_PRBS_STATUS_sync n), 0, 0, 0⟩
        (t.core.lane n).chk = r.chk ∧ t.core.flag (Reg.GLK_PRBS_STATUS_sync n) = r.sync ∧
        t.core.rd (Reg.GLK_PRBS_ERR_count n) = min (c.rd (Reg.GLK_PRBS_ERR_count n) + r.errors) (2 ^ 32 - 1) ∧
        t.core.rd (Reg.GLK_PRBS_STATUS_sync_losses n) = min 255 (c.rd (Reg.GLK_PRBS_STATUS_sync_losses n) + r.losses) ∧
        t.core.out = [] ∧ Chip.only [.beam] c t.core ∧ Chip.regsKept [Reg.GIO_STATUS_permit, Reg.GLK_PRBS_STATUS_sync n,
          Reg.GLK_PRBS_BITS_LO_bits n, Reg.GLK_PRBS_BITS_HI_bits n, Reg.GLK_PRBS_ERR_count n,
          Reg.GLK_PRBS_STATUS_sync_losses n] c t.core) ∧
    ∀ k : Fin 5,
      (c.roomToLog → Ends (.laneRefLoss k) s fun t =>
        bit (t.core.rd Reg.PWR_CLOCK_ok) (2 + k.val) = false ∧ bit (t.core.rd Reg.PWR_CLOCK_lost) (2 + k.val) = true ∧
        (∀ j < 7, j ≠ 2 + k.val → bit (t.core.rd Reg.PWR_CLOCK_ok) j = bit (c.rd Reg.PWR_CLOCK_ok) j) ∧
        (∀ n < 52, t.core.laneState n =
          (if n / 12 = k.val ∧ laneRx n = true ∧ (c.laneState n = 2 ∨ c.laneState n = 3) then 1 else c.laneState n)) ∧
        (∀ ch < 24, (2 * ch + 1) / 12 = k.val → c.laneState (2 * ch + 1) = 3 → t.core.linkUp ch = false) ∧
        t.core.logged 0x0108 0 (u8 (2 + k.val) ++ u8 0 ++ u16 0 ++ beat32 c.now) ∧ t.core.out = [] ∧
        Chip.only [.beam, .sys] c t.core ∧ Chip.regsWithin (eventRegs ++ [Reg.PWR_CLOCK_ok, Reg.PWR_CLOCK_lost])
          [(0x100000, 0x118000), (0x140000, 0x14D000)] c t.core) ∧
      Ends (.laneRefReturn k) s fun t => bit (t.core.rd Reg.PWR_CLOCK_ok) (2 + k.val) = true ∧
        (∀ j < 7, j ≠ 2 + k.val → bit (t.core.rd Reg.PWR_CLOCK_ok) j = bit (c.rd Reg.PWR_CLOCK_ok) j) ∧
        t.core.out = [] ∧ Chip.only [] c t.core ∧ Chip.regsKept [Reg.GIO_STATUS_permit, Reg.PWR_CLOCK_ok] c t.core

/-- The lanes of the head links and their mailboxes. -/
def Obligations.HeadLinks : Prop := Claim.UplinkFrames ∧ Claim.LanesAndMailboxes

/-! ### Camera contexts and Sieves (07, 08) -/

/-- A context told to run alone starts at its beat with empty counters (R216). At a frame opening the frame takes the next
sequence, a dirty melt-pool context forms a settings block, and the window of the frame before begins (R218, R220, R239). At
its close beat a frame is counted and shown with its flags, and waits for its Sieve, or, MISSING, has its features delivered
two beats later (R220, R226, R228). An overview frame not ended in time closes; a SKIPPED one shows its flags and is not
processed (R226, R247). -/
def Claim.CameraFrames : Prop :=
  ∀ (s : State) (n : Fin 32) (x : Ctx), s.core.sys.pwr.porst = false → s.core.img.ctxs[n.val]? = some x →
    let c := s.core
    let v := x.sieve
    let page := (0x180000 + v * 0x20000, 0x1A0000 + v * 0x20000)
    (∀ b, x.startAt = some b → b ≤ c.now → Ends (.contextStart n) s fun t =>
      t.core.rd (Reg.SVX_STATUS_run v n.val) = 2 ∧ (t.core.ctx n.val).f0 = b ∧ (t.core.ctx n.val).startAt = none ∧
      (t.core.ctx n.val).opened = 0 ∧ (t.core.ctx n.val).closed = 0 ∧ (t.core.ctx n.val).nextSeq = x.nextSeq ∧
      t.core.rd (Reg.SVX_FRAMES_count v n.val) = 0 ∧ t.core.out = [] ∧ Chip.only [.img] c t.core ∧
      Chip.regsWithin [Reg.GIO_STATUS_permit] [page, (0x1C0000 + n.val * 0x200, 0x1C0200 + n.val * 0x200)] c t.core) ∧
    (∀ j, c.frameAt n.val c.now = some j → x.opened ≤ j → Ends (.cameraFrameOpen n) s fun t =>
      let y := t.core.ctx n.val
      let forms := n.val < 24 ∧ c.flag (Reg.SVX_EXP_STATUS_dirty v n.val) = true ∧ c.flag (Reg.SVX_CTL_hold v n.val) = false ∧
        x.block = none
      y.opened = j + 1 ∧ y.nextSeq = (x.nextSeq + 1) % 2 ^ 32 ∧ y.closed = x.closed ∧
      (forms → t.core.flag (Reg.SVX_EXP_STATUS_dirty v n.val) = false ∧ ∃ b, y.block = some b ∧ b.seq = x.nextSeq ∧
        b.todo = [(0x10, c.rd (Reg.SVX_EXP_TIME_value v n.val)), (0x11, c.rd (Reg.SVX_EXP_GAIN_value v n.val))]) ∧
      (¬ forms → y.block = x.block) ∧
      (1 ≤ j → x.closed < j → (x.rx.map fun r => r.j) ≠ some (j - 1) →
        y.closing = x.rx ∧ y.rx = some ⟨j - 1, none, [], false, false, false, c.now, 0⟩) ∧
      t.core.out = [] ∧ Chip.only [.img, .beam] c t.core ∧ Chip.regsKept [Reg.GIO_STATUS_permit,
        Reg.SVX_EXP_STATUS_dirty v n.val, Reg.SVX_EXP_STATUS_active v n.val] c t.core) ∧
    (isOverview n.val = false → c.on (sieveDom v) = true → x.closed < x.opened →
      x.f0 + (x.closed + 2) * c.ctxF n.val + 1 ≤ c.now → ∀ sv, c.img.sieves[v]? = some sv → Ends (.frameClose n) s fun t =>
        let seq := x.seqOf x.closed
        let r := if (x.closing.map fun r => r.j) = some x.closed then x.closing
          else if (x.rx.map fun r => r.j) = some x.closed then x.rx else none
        let flags := if n.val < 24 then c.frameFlags n.val r (some seq)
          else (if (c.testFrame n.val x.closed).isSome then 0 else 64) +
            (if c.flag (Reg.SVX_STATUS_fault v n.val) then 32 else 0)
        (t.core.ctx n.val).closed = x.closed + 1 ∧ t.core.rd (Reg.SVX_SEQ_seq v n.val) = seq ∧
        t.core.rd (Reg.SVX_STATUS_flags v n.val) % 256 = flags ∧
        Chip.counted (Reg.SVX_FRAMES_count v n.val) (Reg.SVX_STICKY_sat v n.val) 0 c t.core ∧
        (flags % 32 ≠ 0 → Chip.counted (Reg.SVX_ANOMALIES_count v n.val) (Reg.SVX_STICKY_sat v n.val) 1 c t.core) ∧
        (flags % 32 ≠ 0 → c.rd (Reg.SVX_STATUS_anomaly_run v n.val) = 0 → c.roomToLog →
          ∃ e ∈ t.core.sys.crock.queue, e.code = 0x0601 ∧ e.inst = n.val) ∧
        (if bit flags 2 = true then (t.core.sieve v).waiting = sv.waiting ∧
          ∃ d ∈ (t.core.ctx n.val).deliveries, d.f.seq = seq ∧ d.beat = c.now + 2 ∧ d.feat = Feat.zero
        else if bit flags 6 = true then (t.core.sieve v).waiting = sv.waiting ∧
          Chip.counted (Reg.SVX_SKIPPED_count v n.val) (Reg.SVX_STICKY_sat v n.val) 3 c t.core
        else ∃ f ∈ (t.core.sieve v).waiting, f.ctx = n.val ∧ f.j = x.closed ∧ f.seq = seq ∧ f.close = c.now ∧
          f.words = (if n.val < 24 then (r.map fun r => r.words.reverse).getD []
            else (c.testFrame n.val x.closed).getD [])) ∧
        (t.core.sieve v).runs = sv.runs ∧ t.core.out = [] ∧ Chip.only [.img, .sys, .mem] c t.core ∧
        Chip.regsWithin eventRegs [page] c t.core) ∧
    ∀ r, isOverview n.val = true → x.rx = some r → r.at0 + 2 * c.ctxF n.val ≤ c.now → Ends (.overviewFrameTimeout n) s fun t =>
      (t.core.ctx n.val).rx = none ∧
      (∀ h, bit r.flags 6 = false → r.hdr = some h → t.core.rd (Reg.SVX_SEQ_seq v n.val) = h.seq % 2 ^ 32 ∧
        Chip.counted (Reg.SVX_FRAMES_count v n.val) (Reg.SVX_STICKY_sat v n.val) 0 c t.core ∧
        ∃ f, (t.core.ctx n.val).ovClosed = x.ovClosed ++ [f] ∧ f.seq = h.seq ∧ f.close = c.now ∧
          f.words = r.words.reverse) ∧
      (∀ h, bit r.flags 6 = true → r.hdr = some h → t.core.rd (Reg.SVX_SEQ_seq v n.val) = h.seq % 2 ^ 32 ∧
        Chip.counted (Reg.SVX_FRAMES_count v n.val) (Reg.SVX_STICKY_sat v n.val) 0 c t.core ∧
        t.core.rd (Reg.SVX_STATUS_flags v n.val) = (if c.flag (Reg.SVX_STATUS_fault v n.val) then 0x60 else 0x40) ∧
        (t.core.ctx n.val).ovClosed = x.ovClosed) ∧
      t.core.out = [] ∧ Chip.only [.img, .sys, .mem] c t.core ∧ Chip.regsWithin eventRegs [page] c t.core

/-- A run takes the frame that waits first, copies the P registers unless hold is 1, counts and occupies its Sieve for a
quarter of a cycle per pixel and 16 cycles (R221, R229); the line runs of an overview context occupy it line by line, when no
frame waits (R221, R248). Results complete show the zone averages and hand the features over, two beats later (R221, R238,
R260). A delivery shows the features and their measurement, counts, and reaches every engine whose loops sample the context
(R260–R264), unless the frame is of an earlier run of its context. -/
def Claim.SieveRuns : Prop :=
  ∀ s : State, s.core.sys.pwr.porst = false →
    let c := s.core
    let page := fun v : Nat => (0x180000 + v * 0x20000, 0x1A0000 + v * 0x20000)
    (∀ (v : Fin 2) (sv : Sieve) (n : Fin 32) (f : Closed) (rest : List Closed), c.img.sieves[v.val]? = some sv →
      sv.waiting = f :: rest → f.ctx = n.val → sv.busy < (c.now + 1) * 250 → c.shown (sieveDom v.val) = true →
      Ends (.sieveRunStart v) s fun t =>
        let busy := max sv.busy (c.now * 250) + ceilDiv (c.ctxW n.val * c.ctxH n.val) 4 + 16
        (t.core.sieve v.val).waiting = rest ∧ (t.core.sieve v.val).busy = busy ∧
        (∃ o, (t.core.sieve v.val).runs = sv.runs ++ [o] ∧ o.f.ctx = n.val ∧ o.f.seq = f.seq ∧ o.doneAt = busy + 500) ∧
        (c.flag (Reg.SVX_CTL_hold v.val n.val) = false →
          t.core.rd (Reg.SVX_PGEN_active v.val n.val) = c.rd (Reg.SVX_PGEN_shadow v.val n.val) % 2 ^ 16) ∧
        Chip.counted (Reg.SVA_RUNS_count v.val) (Reg.SVA_STICKY_sat v.val) 0 c t.core ∧
        t.core.rd (Reg.SVA_STATUS_context v.val) = n.val ∧ t.core.out = [] ∧ Chip.only [.img, .fresh] c t.core ∧
        Chip.regsWithin [Reg.GIO_STATUS_permit] [page v.val, page (c.svOf n.val)] c t.core) ∧
    (∀ (n : Fin 32) (x : Ctx) (sv : Sieve) (f : Closed) (rest : List Closed), c.img.ctxs[n.val]? = some x →
      c.img.sieves[x.sieve]? = some sv → isOverview n.val = true → sv.waiting = [] → sv.busy < (c.now + 1) * 250 →
      c.shown (sieveDom x.sieve) = true → x.ovClosed = f :: rest → x.ovRun < c.ctxH n.val →
      Ends (.overviewLineRun n) s fun t =>
        let busy := max sv.busy (c.now * 250) + ceilDiv (c.ctxW n.val) 4 + (if x.ovRun = 0 then 16 else 0)
        let y := t.core.ctx n.val
        (t.core.sieve x.sieve).busy = busy ∧
        (if x.ovRun + 1 < c.ctxH n.val then y.ovRun = x.ovRun + 1 ∧ y.ovClosed = x.ovClosed ∧
          (t.core.sieve x.sieve).runs = sv.runs
        else y.ovRun = 0 ∧ y.ovClosed = rest ∧ ∃ o, (t.core.sieve x.sieve).runs = sv.runs ++ [o] ∧ o.f.seq = f.seq ∧
          o.doneAt = busy + 500) ∧
        (x.ovRun = 0 → Chip.counted (Reg.SVA_RUNS_count x.sieve) (Reg.SVA_STICKY_sat x.sieve) 0 c t.core) ∧
        t.core.out = [] ∧ Chip.only [.img, .fresh] c t.core ∧
        Chip.regsWithin [Reg.GIO_STATUS_permit] [page x.sieve] c t.core) ∧
    (∀ (v : Fin 2) (sv : Sieve), c.img.sieves[v.val]? = some sv → Ends (.sieveRunDone v) s fun t =>
      let due := sv.runs.filter fun o => decide (o.doneAt ≤ c.now * 250 + 249)
      (t.core.sieve v.val).runs = (sv.runs.filter fun o => decide (o.doneAt > c.now * 250 + 249)) ∧
      (∀ (o : RunOut) (n : Fin 24), o ∈ due → o.f.ctx = n.val → n.val < c.img.ctxs.length →
        ∃ d ∈ (t.core.ctx n.val).deliveries, d.f = o.f ∧ d.beat = (o.doneAt - 1) / 250 + 2 ∧ d.feat = o.feat) ∧
      (∀ (o : RunOut) (n : Fin 32), due = [o] → o.f.ctx = n.val →
        (∀ i < 64, t.core.rd (Reg.SVX_ZONE_band_0 v.val n.val i) = ((o.zones.getD 0 []).getD i 0) % 2 ^ 16) ∧
        Chip.regsWithin eventRegs [page v.val, page (c.svOf n.val)] c t.core) ∧
      t.core.out = [] ∧ Chip.only [.img, .sys, .mem, .dram] c t.core) ∧
    ∀ (n : Fin 24) (x : Ctx), c.img.ctxs[n.val]? = some x → Ends (.featureDelivery n) s fun t =>
      let due := x.deliveries.filter fun d => decide (d.beat ≤ c.now)
      (t.core.ctx n.val).deliveries = (x.deliveries.filter fun d => decide (d.beat > c.now)) ∧
      (∀ d, due.getLast? = some d →
        t.core.rd (Reg.FX_SEQ_seq n.val) = d.f.seq % 2 ^ 32 ∧ t.core.rd (Reg.FX_MEAS_m n.val) = c.fxMeas n.val d.feat ∧
        t.core.flag (Reg.FX_MEAS_usable n.val) = c.fxUsable n.val d.feat ∧
        t.core.rd2 (Reg.FX_DELIV_LO_beat n.val) (Reg.FX_DELIV_HI_beat n.val) = c.now ∧
        ∀ (k : Fin 24) (e : Ladle), c.lad[k.val]? = some e → c.flag (Reg.LAD_SAMPLE_ctx_valid k.val) = true →
          c.rd (Reg.LAD_SAMPLE_context k.val) = n.val → x.f0 = d.f.f0 → ∃ e', t.core.lad[k.val]? = some e' ∧
            e'.meas.getLast? = some ⟨d.f.j, d.f.seq, c.now, c.fxMeas n.val d.feat, c.fxUsable n.val d.feat⟩) ∧
      (∀ d, due = [d] → Chip.counted (Reg.FX_FRAMES_count n.val) (Reg.FX_STICKY_sat n.val) 0 c t.core) ∧
      t.core.out = [] ∧ Chip.only [.img, .lad, .mem] c t.core ∧
      Chip.regsWithin [Reg.GIO_STATUS_permit] [(0x1C0000 + n.val * 0x200, 0x1C0200 + n.val * 0x200)] c t.core

/-- Camera frames and the runs of the Sieves. -/
def Obligations.SieveEvents : Prop := Claim.CameraFrames ∧ Claim.SieveRuns

/-! ### Ladle engines (09) -/

/-- A tracking sample at its beat (R269, R270): a switch of the repetitive stage that was asked for in an earlier beat takes
effect (R288); not enabled, the loop waits and nothing else happens; with
the position of this beat it updates, shows the error and its beat and counts, and the output of R277 — the PID sum without
notches and repetitive stage, clamped — applies from the next sample on; without it, it is missing: the output holds, the miss
run counts, and at n_miss the loop faults (R282). A power sample is taken when its frame's deadline has come: with a usable
measurement in time it updates and shows the frame; without, it is missing, and at n_miss the loop falls back to nominal power,
logged (R270, R283). A spill that completes puts its bytes in DRAM, one that fails shows its error (R291). -/
def Obligations.LadleSamples : Prop :=
  ∀ (s : State) (n : Fin 24) (e : Ladle), s.core.sys.pwr.porst = false → s.core.lad[n.val]? = some e →
    let c := s.core
    let pages := [(0x200000 + n.val * 0x2000, 0x202000 + n.val * 0x2000), (0x100000 + n.val * 0x1000, 0x101000 + n.val * 0x1000)]
    let still := fun (l : Nat) (t : Chip) => t.rd (Reg.LAD_STATE_state n.val l) =
        (if c.rd (Reg.LAD_STATE_state n.val l) = 4 then 4 else 1) ∧ Chip.only [.lad] c t ∧
      Chip.regsKept [Reg.GIO_STATUS_permit, Reg.LAD_STATE_state n.val l, Reg.LAD_STATE_stale n.val l] c t
    let frame := fun t : Chip => t.out = [] ∧ Chip.only [.lad, .sys, .beam, .tables] c t ∧ Chip.regsWithin eventRegs pages c t
    (∀ (y : Bool) (k : Loop), let l := if y then 1 else 0
      let p := c.rd (Reg.LAD_SAMPLE_s n.val)
      let act := (c.beam.links.getD n.val Link.init).actual
      e.loops[l]? = some k → c.loopRuns n.val l = true → p ≠ 0 → c.now % p = 0 → k.next ≤ c.now / p →
      Ends (.trackingSample n y) s fun t =>
        (t.core.loop n.val l).next = c.now / p + 1 ∧ frame t.core ∧
        (∀ into host b, k.switch = some (into, host, b) → b < c.now → t.core.rd (Reg.LAD_STATE_rc_state n.val l) =
          (if into = true then 2 else if c.flag (Reg.LAD_CTL_rc_arm n.val l) = true then 1 else 0)) ∧
        (bit (c.loopEnables n.val c.now) l = false → k.switch = none → still l t.core) ∧
        (bit (c.loopEnables n.val c.now) l = true → ∀ mx my, act = some (c.now, mx, my) →
          let m := if y then my else mx
          let er := satS 32 ((if y then c.rdS (Reg.FUR_SCAN_Y_scan n.val) else c.rdS (Reg.FUR_SCAN_X_scan n.val)) - m)
          t.core.rdS (Reg.LAD_ERR_value n.val l) = er ∧
          t.core.rd2 (Reg.LAD_LAST_LO_beat n.val l) (Reg.LAD_LAST_HI_beat n.val l) = c.now ∧
          Chip.counted (Reg.LAD_SAMPLES_count n.val l) (Reg.LAD_SAT_cnt_sat n.val l) 0 c t.core ∧
          t.core.rd (Reg.LAD_STATE_miss_run n.val l) = 0 ∧
          (t.core.rd (Reg.LAD_STATE_state n.val l) = 2 ∨ t.core.rd (Reg.LAD_STATE_state n.val l) = 6) ∧
          (k.idle = false ∨ c.flag (Reg.LAD_CTL_restart n.val l) = false → k.switch = none → k.fresh = false →
            c.rd (Reg.LAD_STATE_rc_state n.val l) = 0 → c.flag (Reg.LAD_CTL_n1_en n.val l) = false →
            c.flag (Reg.LAD_CTL_n2_en n.val l) = false →
            let hi := s32 (c.rd (Reg.LAD_Y_HI_bound n.val l))
            let lo := s32 (c.rd (Reg.LAD_Y_LO_bound n.val l))
            let di := c.gainI n.val l 0 er
            let i := clampI (s32 (c.rd (Reg.LAD_I_LO_bound n.val l))) (s32 (c.rd (Reg.LAD_I_HI_bound n.val l)))
              (sat64 (k.integ + if (k.yPrev = hi ∧ di > 0) ∨ (k.yPrev = lo ∧ di < 0) then 0 else di))
            let d := satS 32 (c.gainD n.val l 0 (if c.ucode n.val l = 1 then er - k.ePrev else k.mPrev - m))
            let df := satS 32 (k.df + ((c.rd (Reg.LAD_KN_kn n.val l) : Int) * (d - k.df) + 32768) / 65536)
            (t.core.loop n.val l).integ = i ∧ (t.core.loop n.val l).outs.getLast? =
              some (c.now + p, clampI lo hi (satS 32 (sat64 (c.gainP n.val l 0 er + i + df)))))) ∧
        (bit (c.loopEnables n.val c.now) l = true → (∀ mx my, act ≠ some (c.now, mx, my)) →
          k.idle = false ∨ c.flag (Reg.LAD_CTL_restart n.val l) = false → k.switch = none →
          let run := min (c.rd (Reg.LAD_STATE_miss_run n.val l) + 1) 255
          let faults := decide (c.rd (Reg.LAD_CTL_n_miss n.val l) ≤ run)
          Chip.counted (Reg.LAD_MISSED_count n.val l) (Reg.LAD_SAT_cnt_sat n.val l) 1 c t.core ∧
          t.core.rd (Reg.LAD_STATE_miss_run n.val l) = run ∧ t.core.flag (Reg.LAD_STATE_stale n.val l) = !faults ∧
          t.core.rd (Reg.LAD_STATE_state n.val l) = (if faults then 6 else 3) ∧
          (t.core.loop n.val l).outs.getLast? = some (c.now + p, k.yPrev) ∧
          (faults = true → c.roomToLog → t.core.logged 0x0701 n.val (u8 n.val ++ u8 l ++ u8 2 ++ u8 0 ++ beat32 c.now)))) ∧
    (∀ (k : Loop) (x : CtxEntry) (d : Nat), e.loops[2]? = some k → c.loopRuns n.val 2 = true → c.powerCtx n.val = some (x, d) →
      x.f ≠ 0 → c.frame0 x + k.next * x.f + d ≤ c.now → Ends (.powerSample n) s fun t =>
        let dead := c.frame0 x + k.next * x.f + d
        let g := e.frames.find? fun f => f.j == k.next
        let m := e.meas.find? fun f => f.j == k.next
        let enabled := (g.map fun f => f.enabled).getD false
        let intime := m.any fun f => f.usable && decide (f.beat ≤ dead)
        let st := c.rd (Reg.LAD_STATE_state n.val 2)
        (t.core.loop n.val 2).next = k.next + 1 ∧ frame t.core ∧ (enabled = false → k.switch = none → still 2 t.core) ∧
        (enabled = true → intime = true → (∀ f, m = some f → t.core.rd (Reg.LAD_PWR_FRAME_seq n.val) = f.seq % 2 ^ 32) ∧
          t.core.rd2 (Reg.LAD_LAST_LO_beat n.val 2) (Reg.LAD_LAST_HI_beat n.val 2) = c.now ∧
          Chip.counted (Reg.LAD_SAMPLES_count n.val 2) (Reg.LAD_SAT_cnt_sat n.val 2) 0 c t.core ∧
          (t.core.rd (Reg.LAD_STATE_state n.val 2) = 2 ∨ t.core.rd (Reg.LAD_STATE_state n.val 2) = 6) ∧
          ∃ v, (t.core.loop n.val 2).outs.getLast? = some (dead + x.f, v) ∧ v = (t.core.loop n.val 2).yPrev) ∧
        (enabled = true → intime = false → k.switch = none →
          let run := min (c.rd (Reg.LAD_STATE_miss_run n.val 2) + 1) 255
          let falls := st = 4 ∨ c.rd (Reg.LAD_CTL_n_miss n.val 2) ≤ run
          Chip.counted (Reg.LAD_MISSED_count n.val 2) (Reg.LAD_SAT_cnt_sat n.val 2) 1 c t.core ∧
          t.core.rd (Reg.LAD_STATE_miss_run n.val 2) = run ∧ t.core.flag (Reg.LAD_STATE_stale n.val 2) = true ∧
          t.core.rd (Reg.LAD_STATE_state n.val 2) = (if falls then 4 else 3) ∧
          (falls → (t.core.loop n.val 2).outs = []) ∧
          (falls → st ≠ 4 → c.roomToLog → t.core.logged 0x0705 n.val (u8 n.val ++ u8 0 ++ u16 run ++
            u32 ((m.map fun f => f.seq).getD ((c.ctx x.ctx).seqOf k.next)))))) ∧
    ∀ ok : Bool, c.flag (Reg.LAD_RC_SPILL_ST_busy n.val) = true → Ends (.rcSpillDone n ok) s fun t =>
      let l := (takeXfers reqRcs n.val c).1
      let good := ok && l.all fun x => c.dramOk x.addr x.data.length
      t.core.flag (Reg.LAD_RC_SPILL_ST_busy n.val) = false ∧ t.core.flag (Reg.LAD_RC_SPILL_ST_done n.val) = good ∧
      (good = false → t.core.flag (Reg.LAD_RC_SPILL_ST_err n.val) = true) ∧
      t.core.dram = (if good then (l.foldl (fun c x => dramWrite x.addr x.data c) c).dram else c.dram) ∧
      t.core.losses = c.losses ∧ t.core.mem.slm = (takeXfers reqRcs n.val c).2.mem.slm ∧ t.core.mem.dma = c.mem.dma ∧
      t.core.mem.ch.map (fun h => (h.wq, h.rq)) = (takeXfers reqRcs n.val c).2.mem.ch.map (fun h => (h.wq, h.rq)) ∧ t.core.out = [] ∧
      Chip.only [.dram, .mem] c t.core ∧ Chip.regsKept [Reg.GIO_STATUS_permit, Reg.LAD_RC_SPILL_ST_busy n.val,
        Reg.LAD_RC_SPILL_ST_done n.val, Reg.LAD_RC_SPILL_ST_err n.val] c t.core

/-! ### Position feedback and axes (10, 11) -/

/-- New levels of the pins act once they are stable for filt, after their inversion (R298, R320). A counted edge moves the
position by one, up or down, wrapping at 48 bits, shows its time and direction and counts, and
fires the armed compare units that it brings to their value in their direction; edges together collide (R297–R301, R310). An
index edge shows the position and its deviation, and sets the position at a reference, counts a mismatch beyond the
tolerance, or corrects the position in mode 1 (R307–R309). Without an edge for stop_us the speed reads 0 (R304). An emulation
output steps once toward its target (R314, R315). -/
def Obligations.PositionEvents : Prop :=
  ∀ s : State, s.core.sys.pwr.porst = false → s.core.on pdMOTION = true →
    let c := s.core
    let others := eventRegs ++ (List.range 8).map Reg.AX_GEAR_CTL_pending
    let pages := fun n : Nat => [(0x240000 + n * 0x400, 0x240400 + n * 0x400), (0x242000, 0x242100)]
    (∀ (n : Fin 8) (a b : Bool) (stable : BitVec 8) (ns : Fin 499) (f : Feedback), c.mot.pf[n.val]? = some f →
      let updown := decide (c.rd (Reg.PF_CTL_mode n.val) ≠ 0)
      let rA := pinRise (c.flag (Reg.PF_CTL_inv_a n.val)) f.pinA a
      let rB := pinRise (c.flag (Reg.PF_CTL_inv_b n.val)) f.pinB b
      let lB := b != c.flag (Reg.PF_CTL_inv_b n.val)
      let takes := c.flag (Reg.PF_CTL_enable n.val) = true ∧ c.rd (Reg.PF_CTL_filt n.val) ≤ stable.toNat
      let pins := fun t : Chip => (t.pf n.val).pinA = a ∧ (t.pf n.val).pinB = b ∧ (t.pf n.val).pinX = f.pinX ∧
        (∀ k, k ≠ n.val → t.pf k = c.pf k) ∧ t.out = []
      let counts := fun up : Bool => Ends (.pfEdge n a b ns stable) s fun t =>
        let pos := toS 48 (ofS 48 (c.pfPos n.val + if up then 1 else -1))
        t.core.pfPos n.val = pos ∧ t.core.flag (Reg.PF_STATUS_dir n.val) = !up ∧
        t.core.flag (Reg.PF_STATUS_moving n.val) = true ∧ (t.core.pf n.val).tLast = some (c.time ns.val) ∧
        t.core.rd2 (Reg.PF_EDGE_T_LO_t n.val) (Reg.PF_EDGE_T_HI_t n.val) = ofS 64 (c.time ns.val) ∧
        Chip.counted (Reg.PF_EDGES_count n.val) (Reg.PF_STICKY_sat n.val) 2 c t.core ∧
        (∀ u < 4, c.flag (Reg.PF_CMP_CTL_arm n.val u) = true → c.cmpVal n.val u = pos →
          (c.rd (Reg.PF_CMP_CTL_dir n.val u) = 2 ∨ c.rd (Reg.PF_CMP_CTL_dir n.val u) = (if up then 0 else 1)) →
          t.core.flag (Reg.PF_CMP_CTL_fired n.val u) = true ∧ t.core.flag (Reg.PF_CMP_CTL_arm n.val u) = false ∧
          t.core.rd2 (Reg.PF_CMP_FIRE_T_LO_value n.val u) (Reg.PF_CMP_FIRE_T_HI_value n.val u) = ofS 64 (c.time ns.val)) ∧
        pins t.core ∧ Chip.only [.mot, .sys] c t.core ∧ Chip.regsWithin others (pages n.val) c t.core
      (takes → updown = false → rA = true → counts !lB) ∧ (takes → updown = true → rA ≠ rB → counts rA) ∧
      (takes → updown = true → rA = true → rB = true → Ends (.pfEdge n a b ns stable) s fun t =>
        t.core.flag (Reg.PF_STATUS_collide n.val) = true ∧
        Chip.counted (Reg.PF_COLLIDE_count n.val) (Reg.PF_STICKY_sat n.val) 3 c t.core ∧ pins t.core ∧
        Chip.only [.mot] c t.core ∧ Chip.regsKept [Reg.GIO_STATUS_permit, Reg.PF_STATUS_collide n.val,
          Reg.PF_COLLIDE_count n.val, Reg.PF_STICKY_sat n.val] c t.core) ∧
      (c.rd (Reg.PF_CTL_filt n.val) ≤ stable.toNat →
        c.flag (Reg.PF_CTL_enable n.val) = false ∨ (rA = false ∧ (updown = true → rB = false)) →
        Ends (.pfEdge n a b ns stable) s fun t =>
          pins t.core ∧ Chip.only [.mot] c t.core ∧ Chip.regsKept [Reg.GIO_STATUS_permit] c t.core) ∧
      (stable.toNat < c.rd (Reg.PF_CTL_filt n.val) → Ends (.pfEdge n a b ns stable) s fun t =>
        t.core.out = [] ∧ Chip.only [] c t.core ∧ Chip.regsKept [Reg.GIO_STATUS_permit] c t.core)) ∧
    (∀ (n : Fin 8) (a b x : Bool) (stable : BitVec 8) (ns : Fin 499) (f : Feedback), c.mot.pf[n.val]? = some f →
      c.flag (Reg.PF_CTL_enable n.val) = true → c.rd (Reg.PF_CTL_filt n.val) ≤ stable.toNat →
      pinRise (c.flag (Reg.PF_CTL_inv_a n.val)) f.pinA a = false →
      (c.rd (Reg.PF_CTL_mode n.val) ≠ 0 → pinRise (c.flag (Reg.PF_CTL_inv_b n.val)) f.pinB b = false) →
      pinRise (c.flag (Reg.PF_CTL_inv_idx n.val)) f.pinX x = true → c.roomToLog →
      Ends (.indexEdge n ns a b x stable) s fun t =>
      let p := c.pfPos n.val
      let ref := c.rd48 (Reg.PF_IDX_REF_LO_pos n.val) (Reg.PF_IDX_REF_HI_pos n.val)
      let d := p - indexExpect (c.rd (Reg.PF_IDX_PER_period n.val)) ref p
      let sets := c.homesBy n.val || c.flag (Reg.PF_IDX_CTL_set_next n.val)
      let misses := !sets && decide (d.natAbs > c.rd (Reg.PF_IDX_CTL_tol n.val))
      let corrects := !sets && !misses && decide (c.rd (Reg.PF_IDX_CTL_mode n.val) = 1) && decide (d ≠ 0)
      t.core.rd48 (Reg.PF_IDX_LAST_LO_pos n.val) (Reg.PF_IDX_LAST_HI_pos n.val) = p ∧
      t.core.rdS (Reg.PF_IDX_DEV_d n.val) = satS 32 d ∧
      t.core.pfPos n.val = toS 48 (ofS 48 (if sets then ref else if corrects then p - d else p)) ∧
      (sets = true ∨ corrects = true → t.core.flag (Reg.PF_STATUS_referenced n.val) = true ∧
        t.core.logged 0x0882 n.val (u8 n.val ++ u8 (b2n sets) ++ u16 0 ++ s32LE (satS 32 d))) ∧
      (corrects = true → Chip.counted (Reg.PF_IDX_COUNT_reref n.val) (Reg.PF_STICKY_sat n.val) 1 c t.core) ∧
      (misses = true → t.core.flag (Reg.PF_STATUS_index_mismatch n.val) = true ∧
        t.core.rd48 (Reg.PF_IDX_MISS_LO_pos n.val) (Reg.PF_IDX_MISS_HI_pos n.val) = p ∧
        Chip.counted (Reg.PF_IDX_COUNT_mismatch n.val) (Reg.PF_STICKY_sat n.val) 0 c t.core) ∧
      (t.core.pf n.val).pinX = x ∧
      t.core.out = [] ∧ Chip.only [.mot, .sys] c t.core ∧ Chip.regsWithin others (pages n.val) c t.core) ∧
    (∀ (n : Fin 8) (f : Feedback) (t0 : Int), c.mot.pf[n.val]? = some f → f.tLast = some t0 →
      c.time 0 - t0 > (c.rd (Reg.PF_SPD_CTL_stop_us n.val) : Int) * 1000 →
      Ends (.speedStopTimeout n) s fun t =>
        t.core.rd (Reg.PF_SPEED_v n.val) = 0 ∧ t.core.flag (Reg.PF_STATUS_moving n.val) = false ∧
        (t.core.pf n.val).edges = f.edges.take 1 ∧ t.core.out = [] ∧ Chip.only [.mot] c t.core ∧
        Chip.regsKept [Reg.GIO_STATUS_permit, Reg.PF_SPEED_v n.val, Reg.PF_STATUS_moving n.val] c t.core) ∧
    ∀ (k : Fin 4) (ns : Fin 499) (e : Emu), c.mot.emu[k.val]? = some e → c.flag (Reg.PF_EMU_CTL_enable k.val) = true →
      e.frozen = false → (c.emuTarget k.val - e.count).natAbs ≤ 65535 → c.emuTarget k.val ≠ e.count →
      (∀ t0, e.lastStep = some t0 → c.time ns.val - t0 ≥ (c.rd (Reg.PF_EMU_SPACING_ns k.val) : Int)) →
      Ends (.emuStep k ns) s fun t =>
        let count := e.count + if c.emuTarget k.val > e.count then 1 else -1
        (t.core.emu k.val).count = count ∧ (t.core.emu k.val).lastStep = some (c.time ns.val) ∧
        t.core.rdS (Reg.PF_EMU_OUT_c k.val) = toS 32 (ofS 32 count) ∧
        t.core.rdS (Reg.PF_EMU_LAG_lag k.val) = c.emuTarget k.val - count ∧ t.core.out = [] ∧ Chip.only [.mot] c t.core ∧
        Chip.regsKept [Reg.GIO_STATUS_permit, Reg.PF_EMU_OUT_c k.val, Reg.PF_EMU_LAG_lag k.val] c t.core

/-- A debounced input shows its level, and a limit toward which an axis moves makes an emergency stop, logged (R330, R332).
After HOLD_DLY at standstill the hold current applies (R341). A coil goes from blanking to drive, at its threshold or at
ton_max to fast decay, or slow decay when the fast share is 0, and from there to a new drive phase; timeouts count, and 64 in a
row without a step fault the axis (R342–R344, R339). -/
def Obligations.AxisEvents : Prop :=
  ∀ (s : State) (n : Fin 8) (x : Axis), s.core.sys.pwr.porst = false → s.core.on pdMOTION = true →
    s.core.mot.ax[n.val]? = some x →
    let c := s.core
    let page := (0x250000 + n.val * 0x800, 0x250800 + n.val * 0x800)
    let code := fun i : Nat => chopThreshold (c.rd (Reg.AX_CUR_hold n.val)) (cosCode i)
    (∀ inp : Fin 3, x.held.getD inp.val 0 > c.rd (Reg.AX_INP_CTL_deb n.val) →
      bit x.deb inp.val ≠ bit x.raw inp.val → Ends (.axInputChange n inp) s fun t =>
        let lvl := bit x.raw inp.val
        t.core.flag (if inp.val = 0 then Reg.AX_STATUS_in_lim_n n.val else if inp.val = 1 then Reg.AX_STATUS_in_lim_p n.val
          else Reg.AX_STATUS_in_home n.val) = lvl ∧ (t.core.ax n.val).deb = withBit x.deb inp.val lvl ∧
        (∀ p, x.plan = some p → c.axState n.val = 2 → inp.val = b2n p.up → lvl = true → c.roomToLog →
          t.core.axState n.val = 4 ∧ t.core.flag (Reg.AX_STATUS_limit_hit n.val) = true ∧
          t.core.logged 0x0801 n.val (u8 n.val ++ u8 (b2n p.up) ++ u16 0 ++ beat32 c.now)) ∧
        t.core.axPos n.val = c.axPos n.val ∧ (∀ k, k ≠ n.val → t.core.ax k = c.ax k) ∧ t.core.out = [] ∧
        Chip.only [.host, .mot, .sys] c t.core ∧ Chip.regsWithin eventRegs [page] c t.core) ∧
    (c.axState n.val = 1 → x.holdCur = false → x.idleAt + c.rd (Reg.AX_HOLD_DLY_ms n.val) * 4000 ≤ c.now →
      Ends (.axHoldCurrent n) s fun t =>
        (t.core.ax n.val).holdCur = true ∧
        (c.flag (Reg.AX_CTL_enable n.val) = true → c.flag (Reg.AX_CTL_mode n.val) = false →
          t.core.rd (Reg.AX_PHASE_thr_a n.val) = code (c.rd (Reg.AX_PHASE_i n.val)) % 1024 ∧
          t.core.rd (Reg.AX_PHASE_thr_b n.val) = code (c.rd (Reg.AX_PHASE_i n.val) + 768) % 1024) ∧
        t.core.out = [] ∧ Chip.only [.mot] c t.core ∧ Chip.regsKept [Reg.GIO_STATUS_permit, Reg.AX_PHASE_thr_a n.val,
          Reg.AX_PHASE_thr_b n.val] c t.core) ∧
    ∀ (b : Bool) (k : Coil), x.coils[b2n b]? = some k →
      let ff := c.rd (Reg.AX_CHOP_ff n.val)
      let at_ := fun ns : Fin 499 => c.now * 250 + ns.val
      let due := fun (p len : Nat) (ns : Fin 499) => k.phase = p ∧ k.since + len ≤ at_ ns
      let becomes := fun (i : Instr) (k' : Coil) => Ends i s fun t => (t.core.ax n.val).coils[b2n b]? = some k' ∧
        (t.core.ax n.val).coils[b2n !b]? = x.coils[b2n !b]? ∧ (∀ j, j ≠ n.val → t.core.ax j = c.ax j) ∧
        t.core.out = [] ∧ Chip.only [.mot] c t.core ∧ Chip.regsKept [Reg.GIO_STATUS_permit] c t.core
      let drives := fun (i : Instr) (ns : Fin 499) => Ends i s fun t =>
        (t.core.ax n.val).coils[b2n b]? = some { k with phase := 1, start := c.now, since := at_ ns } ∧
        (∀ j, j ≠ n.val → t.core.ax j = c.ax j) ∧ t.core.out = [] ∧ Chip.only [.mot, .sys, .fresh] c t.core ∧
        Chip.regsKept eventRegs c t.core
      (∀ ns, due 1 (c.rd (Reg.AX_CHOP_blank n.val) * 20) ns → becomes (.chopperBlankEnd n b ns) { k with phase := 2 }) ∧
      (∀ ns, due 2 0 ns → becomes (.chopperSenseTrip n b ns) (coilOff ff (at_ ns) { k with run := 0 })) ∧
      (∀ ns, due 3 (c.fastCycles n.val) ns → c.slowCycles n.val ≠ 0 →
        becomes (.chopperFastDecayEnd n b ns) { k with phase := 4, since := at_ ns }) ∧
      (∀ ns, due 3 (c.fastCycles n.val) ns → c.slowCycles n.val = 0 → drives (.chopperFastDecayEnd n b ns) ns) ∧
      (∀ ns, due 4 (c.slowCycles n.val) ns → drives (.chopperSlowDecayEnd n b ns) ns) ∧
      (∀ ns, due 2 (c.rd (Reg.AX_CHOP_ton_max n.val) * 1000) ns → Ends (.chopperTonTimeout n b ns) s fun t =>
        let stepped := fun b0 : Nat => x.lastStep.any fun l => decide (b0 < l)
        let run := if stepped k.start then 0 else if k.run = 0 ∨ stepped k.steps0 = true then 1 else k.run + 1
        Chip.counted (Reg.AX_TIMEOUTS_count n.val) (Reg.AX_STICKY_sat n.val) 1 c t.core ∧
        (run < 64 → (t.core.ax n.val).coils[b2n b]? = some (coilOff ff (at_ ns) { k with
            run := run, steps0 := if run = 1 then k.start else k.steps0 }) ∧
          t.core.axState n.val = c.axState n.val) ∧
        (64 ≤ run → c.axState n.val = 1 → c.roomToLog → t.core.axState n.val = 7 ∧
          t.core.rd (Reg.AX_STATUS_fault n.val) = 2 ∧ t.core.flag (Reg.AX_STATUS_homed n.val) = false ∧
          t.core.logged 0x0807 n.val (u8 n.val ++ u8 2 ++ u16 0 ++ beat32 c.now)) ∧
        t.core.axPos n.val = c.axPos n.val ∧ t.core.out = [] ∧ Chip.only [.host, .mot, .sys] c t.core ∧
        Chip.regsWithin eventRegs [page] c t.core)

/-! ### Kettle (12) -/

/-- A swap: its read starts at its beat and puts the 8,449 transfers of the frame before the Memory Sluice; a frame that was
read is checked, clamped to the envelope and waits for its shift, late if it must, or the swap ends with the cause logged; the
shift starts S_f before the latch; the latch puts the frame in force, counts and shows its beat (R362–R366). A refresh latches
the frame store again (R365). The cores' own hold of semaphore 2 ends with the swap (R101; log entry 69). -/
def Claim.KettleSwaps : Prop :=
  ∀ s : State, s.core.sys.pwr.porst = false → s.core.on pdKETTLE = true →
    let c := s.core
    let phase := [Reg.GIO_STATUS_permit, Reg.KT_STATUS_phase, Reg.KT_STATUS_swap_pending]
    let freed := fun t : Chip => t.sem 2 = (if (c.sem 2).cls = 1 ∧ (c.sem 2).owner = 0 then ⟨0, 0, (c.sem 2).broken⟩ else c.sem 2) ∧
      (∀ k, k ≠ 2 → t.sem k = c.sem k) ∧ t.host.commits = c.host.commits ∧ t.host.hg = c.host.hg ∧ t.host.sec = c.host.sec
    (∀ w, c.kt.swap = some w →
      (w.reading = false → w.readAt ≤ c.now → Ends .ktReadStart s fun t =>
        t.core.kt = { c.kt with swap := some { w with reading := true } } ∧
        t.core.mem.slm.ready = c.mem.slm.ready ++
          (List.range 8449).map (fun k => ⟨6, 0, false, c.ktBuf w.buf + 64 * k, [], c.now⟩) ∧
        t.core.mem.ch = c.mem.ch ∧ t.core.out = [] ∧ Chip.only [.kt, .mem] c t.core ∧ Chip.regsKept phase c t.core) ∧
      (∀ ok, w.reading = true → w.readDone = false → c.roomToLog → ∀ ns : Fin 499, Ends (.ktReadDone ok ns) s fun t =>
        let l := c.dramRead (c.ktBuf w.buf) 540736
        let cause := if leAt l 0 4 ≠ 0x3146544B then 1 else if crc32c (slice l 0 60 ++ l.drop 64) ≠ leAt l 60 4 then 2 else 0
        let r := ktClamp (c.rd Reg.KT_ENV_cur_max) (c.rd Reg.KT_ENV_duty_max) c.ktW l
        let lam := max w.lam (c.ktFirstLatch ns.val)
        (∀ x ∈ t.core.mem.slm.ready, x.req ≠ 6) ∧ t.core.out = [] ∧ Chip.only [.kt, .mem, .sys, .host] c t.core ∧
        (if ok = false ∨ c.dramOk (c.ktBuf w.buf) 540736 = false then
          t.core.kt = { c.kt with swap := none } ∧ freed t.core ∧ Chip.regsKept phase c t.core
        else if cause ≠ 0 then
          t.core.kt = { c.kt with swap := none } ∧ freed t.core ∧ Chip.counted Reg.KT_CRC_FAIL_count Reg.KT_STICKY_sat 3 c t.core ∧
          t.core.logged 0x0902 0 (u8 w.buf ++ u8 cause ++ u16 0 ++ u32 (leAt l 4 4)) ∧
          Chip.regsKept (phase ++ logRegs ++ [Reg.KT_CRC_FAIL_count, Reg.KT_STICKY_sat]) c t.core
        else
          t.core.kt = { c.kt with swap := some { w with
            readDone := true, lam := lam, frame := r.1, fid := leAt l 4 4
            shifting := w.shifting || decide (lam ≤ c.now + c.ktSf) } } ∧ t.core.host = c.host ∧
          (r.2.1 = true → Chip.counted Reg.KT_CLAMPS_count Reg.KT_STICKY_sat 2 c t.core ∧
            t.core.logged 0x0907 0 (u8 w.buf ++ u8 0 ++ u16 (satU 16 r.2.2) ++ u32 (leAt l 4 4))) ∧
          (w.lam < lam → Chip.counted Reg.KT_LATE_count Reg.KT_STICKY_sat 1 c t.core ∧
            t.core.rd2 Reg.KT_NEXT_LO_beat Reg.KT_NEXT_HI_beat = lam % 2 ^ 64) ∧
          Chip.regsKept (phase ++ logRegs ++ [Reg.KT_CLAMPS_count, Reg.KT_LATE_count, Reg.KT_STICKY_sat,
            Reg.KT_NEXT_LO_beat, Reg.KT_NEXT_HI_beat]) c t.core)) ∧
      (w.readDone = true → w.shifting = false → w.lam ≤ c.now + c.ktSf → Ends .ktShiftStart s fun t =>
        t.core.kt = { c.kt with swap := some { w with shifting := true } } ∧ t.core.rd Reg.KT_STATUS_phase = 2 ∧
        t.core.out = [] ∧ Chip.only [.kt] c t.core ∧ Chip.regsKept phase c t.core)) ∧
    (∀ b ms, c.kt.latched = some b → c.kt.swap = none → c.kt.refresh = none → c.rd Reg.KT_REFRESH_ms = ms → ms ≠ 0 →
      b + ms * 4000 ≤ c.now → c.ktRunning ≠ 0 → Ends .ktRefresh s fun t =>
        t.core.kt = { c.kt with refresh := some (c.now + c.ktSf) } ∧ t.core.rd Reg.KT_STATUS_phase = 4 ∧ t.core.out = [] ∧
        Chip.only [.kt] c t.core ∧ Chip.regsKept phase c t.core) ∧
    ((∃ w, c.kt.swap = some w ∧ w.shifting = true ∧ w.lam ≤ c.now) ∨
      (c.kt.swap = none ∧ ∃ b, c.kt.refresh = some b ∧ b ≤ c.now) → Ends .ktLatch s fun t =>
        Chip.counted Reg.KT_LATCHES_count Reg.KT_STICKY_sat 0 c t.core ∧
        t.core.rd2 Reg.KT_LATCH_LO_beat Reg.KT_LATCH_HI_beat = c.now ∧
        t.core.kt = { c.kt with
          store := (c.kt.swap.map fun w => w.frame).getD c.kt.store, swap := none, refresh := none, seq := c.kt.seq + 1,
          latched := some c.now, part := c.ktRunning, bad := 0, align := [], effective := c.ktCycleStart c.now } ∧
        (∀ w, c.kt.swap = some w → freed t.core ∧ t.core.rd Reg.KT_STATUS_active = w.buf % 2 ∧
          t.core.rd Reg.KT_FRAME_ID_value = w.fid % 2 ^ 32) ∧
        (c.kt.swap = none → t.core.host = c.host ∧ t.core.rd Reg.KT_STATUS_active = c.rd Reg.KT_STATUS_active ∧
          t.core.rd Reg.KT_FRAME_ID_value = c.rd Reg.KT_FRAME_ID_value) ∧
        (∀ k < 32, bit c.kt.part k = true → bit c.kt.bad k = false → t.core.rd (Reg.KT_CH_STATUS_bad_run k) = 0) ∧
        t.core.rd Reg.KT_STATUS_phase = 0 ∧ t.core.out = [] ∧ Chip.only [.kt, .host] c t.core ∧
        Chip.regsKept (phase ++ [Reg.KT_LATCHES_count, Reg.KT_STICKY_sat, Reg.KT_LATCH_LO_beat, Reg.KT_LATCH_HI_beat,
          Reg.KT_STATUS_active, Reg.KT_FRAME_ID_value] ++ (List.range 32).map Reg.KT_CH_STATUS_bad_run) c t.core)

/-- Lines start in turn, at L_b beats, and line 0 puts the latched values in force (R354, R366). A return record of a chain
that took part in the last latch is good, and shows on the tile's registers one beat later, or bad, and counts; driver 31's
record, the first, aligns the chain; bad latches in a row to err_limit fault the chain (R358–R360). A new record of the bed-temperature loop's context counts; every d-th is processed,
into the inactive buffer and a swap, or counted as skipped (R370). -/
def Claim.KettleLinesAndLoop : Prop :=
  ∀ s : State, s.core.sys.pwr.porst = false → s.core.on pdKETTLE = true →
    let c := s.core
    (∀ b0, c.kt.lineBase = some b0 → b0 + c.kt.lines * c.ktLb ≤ c.now → c.ktRunning ≠ 0 → Ends .ktLineStart s fun t =>
      t.core.kt = { c.kt with
        lines := c.kt.lines + 1, line := c.kt.lines % 16
        effective := if c.kt.lines % 16 = 0 then none else c.kt.effective } ∧ t.core.out = [] ∧
      Chip.only [.kt] c t.core ∧ Chip.regsKept [Reg.GIO_STATUS_permit] c t.core) ∧
    (∀ (k d : Fin 32) (line : List Byte), bit c.kt.part k.val = true → c.flag (Reg.KT_CH_STATUS_enabled k.val) = true →
      c.ktReturning = true → line.length = c.ktLd / 8 + 2 → c.roomToLog → Ends (.ktReturnRecord k d line) s fun t =>
        let bytes := c.ktLd / 8
        let first := if d.val = 31 then c.ktAlign (be line) else none
        let start := first.orElse fun _ => assocGet k.val c.kt.align
        let rcd := start.map fun o => toBE bytes (be line / 2 ^ (16 - o))
        let good := fun r : List Byte => beAt r 0 1 = 0x3C ∧ beAt r 3 1 = c.kt.seq % 256 ∧
          beAt r (bytes - 4) 4 = crc32c (r.take (bytes - 4))
        let run := c.rd (Reg.KT_CH_STATUS_bad_run k.val)
        let run' := if run + 1 < 16 then run + 1 else run
        let badLatch := bit c.kt.bad k.val = false → bit t.core.kt.bad k.val = true ∧
          t.core.rd (Reg.KT_CH_STATUS_bad_run k.val) = run' ∧
          (c.rd Reg.KT_CTL_err_limit ≤ run' → bit (t.core.rd Reg.KT_FAULT_mask) k.val = true ∧
            t.core.flag (Reg.KT_CH_STATUS_enabled k.val) = false ∧
            t.core.logged 0x0906 k.val (u8 k.val ++ u8 run' ++ u16 0 ++ beat32 c.now))
        (∀ r, rcd = some r → good r → t.core.kt.arrived = c.kt.arrived ++ [(c.now + 1, k.val * 32 + d.val, r)] ∧
          (bit (beAt r 0 4) 20 = false → t.core.kt.bad = c.kt.bad ∧ Chip.regsKept [Reg.GIO_STATUS_permit] c t.core) ∧
          (bit (beAt r 0 4) 20 = true →
            Chip.counted (Reg.KT_CH_DOWNERR_count k.val) (Reg.KT_CH_STICKY_sat k.val) 1 c t.core ∧ badLatch)) ∧
        ((∀ r, rcd = some r → ¬ good r) → t.core.kt.arrived = c.kt.arrived ∧
          Chip.counted (Reg.KT_CH_BAD_count k.val) (Reg.KT_CH_STICKY_sat k.val) 0 c t.core ∧ badLatch) ∧
        (∀ o, first = some o → assocGet k.val t.core.kt.align = some o) ∧ (first = none → t.core.kt.align = c.kt.align) ∧
        t.core.out = [] ∧ Chip.only [.kt, .sys] c t.core ∧
        Chip.regsWithin (eventRegs ++ [Reg.KT_FAULT_mask])
          [(0x261000 + k.val * 0x40, 0x261040 + k.val * 0x40), (0x264000 + k.val * 256, 0x264000 + k.val * 256 + 256)] c t.core) ∧
    (∀ (b : Nat) (tile : Fin 1024) (r : List Byte), c.kt.arrived = [(b, tile.val, r)] → b ≤ c.now →
      let t := ktArrive c
      let w := fun i => beAt r (4 * i) 4
      t.rd (Reg.KT_TILE_EMIT_word tile.val) = w 1 ∧
      t.rd (Reg.KT_TILE_STAT_word tile.val) = bits (w 1) 31 24 * 2 ^ 24 + bits (w 0) 23 0 ∧
      (∀ j < 8, t.rd (Reg.KT_TILE_OPEN_map tile.val j) = w (2 + j) ∧ t.rd (Reg.KT_TILE_SHORT_map tile.val j) = w (10 + j)) ∧
      t.kt = { c.kt with arrived := [] } ∧ t.out = c.out ∧ Chip.only [.kt, .sys] c t ∧
      Chip.regsWithin (logRegs ++ [Reg.KT_OPEN_TOTAL_value, Reg.KT_SHORT_TOTAL_value])
        [(0x264000 + tile.val * 8, 0x264008 + tile.val * 8), (0x270000 + tile.val * 0x40, 0x270040 + tile.val * 0x40)] c t) ∧
    let n := c.rd Reg.KT_LOOP_CTL_context
    let count := c.loopRecords n
    let new := (count + 2 ^ 32 - c.kt.loopSeen.getD count) % 2 ^ 32
    (c.flag Reg.KT_STATUS_loop_on = true → c.on pdAPP = true → c.on (sieveDom (c.svOf n)) = true →
      (∀ x ∈ c.mem.slm.ready, ¬ (x.req = 3 ∧ x.unit = n)) → new ≠ 0 → Ends .ktLoopUpdate s fun t =>
        let d := max 1 (leAt (c.dramRead c.ktMap 8) 4 4)
        let due := (c.kt.loopCount + new) / d > c.kt.loopCount / d
        let other := 1 - c.rd Reg.KT_STATUS_active
        let next := c.now + 4 + c.ktTr + c.ktSf
        let cells := loopCells (c.ctxW n) (c.rd Reg.KT_ENV_duty_max) (c.dramRead c.ktMap ktMapBytes) (c.tempRecord n)
          c.kt.loopInteg c.kt.loopDuty
        t.core.kt.loopCount = c.kt.loopCount + new ∧ t.core.kt.loopSeen = some count ∧ t.core.out = [] ∧
        Chip.only [.kt, .dram, .mem, .host] c t.core ∧ t.core.losses = c.losses ∧ t.core.mem.slm = c.mem.slm ∧
        t.core.mem.dma = c.mem.dma ∧ t.core.mem.ch.map (fun h => (h.wq, h.rq)) = c.mem.ch.map (fun h => (h.wq, h.rq)) ∧
        (if ¬ due then t.core.kt.swap = c.kt.swap ∧ t.core.dram = c.dram ∧ t.core.host = c.host ∧ Chip.regsKept [Reg.GIO_STATUS_permit] c t.core
        else if c.loopHeld = true then
          Chip.counted Reg.KT_LOOP_SKIP_count Reg.KT_STICKY_sat 4 c t.core ∧ t.core.kt.swap = c.kt.swap ∧
          t.core.dram = c.dram ∧ t.core.host = c.host ∧ Chip.regsKept [Reg.GIO_STATUS_permit, Reg.KT_LOOP_SKIP_count, Reg.KT_STICKY_sat] c t.core
        else
          Chip.counted Reg.KT_LOOP_RUNS_count Reg.KT_STICKY_sat 5 c t.core ∧ t.core.kt.loopInteg = cells.map (fun p => p.1) ∧
          t.core.kt.loopDuty = cells.map (fun p => p.2) ∧
          t.core.dram = cellsPut (c.ktBuf other) (loopFrame (c.dramRead (c.ktBuf (c.rd Reg.KT_STATUS_active)) 540736)
            (leAt (c.tempRecord n) 0 4) (cells.map fun p => p.2)) c.dram ∧
          (2 < c.host.sems.length → t.core.sem 2 = ⟨1, 0, false⟩) ∧ (∃ w, t.core.kt.swap = some w ∧ w.buf = other ∧ w.lam = next ∧ w.reading = false) ∧
          t.core.rd2 Reg.KT_NEXT_LO_beat Reg.KT_NEXT_HI_beat = next % 2 ^ 64 ∧
          Chip.regsKept [Reg.GIO_STATUS_permit, Reg.KT_LOOP_RUNS_count, Reg.KT_STICKY_sat, Reg.KT_NEXT_LO_beat,
            Reg.KT_NEXT_HI_beat, Reg.KT_STATUS_phase, Reg.KT_STATUS_swap_pending] c t.core))

/-- The Kettle from the read of a buffer to its latch, its return lines, and its loop. -/
def Obligations.KettleEvents : Prop := Claim.KettleSwaps ∧ Claim.KettleLinesAndLoop

/-! ### DRAM, Memory Sluice and DMA (13, 14) -/

/-- Training that passes makes a channel READY with undefined contents, one that fails shows its step and device, and both are
logged (R378, R379, R556). Retraining moves each device by its drift (R380); a refresh follows the components' heat (R384); the
activate tables clear (R385); an old write drains the Weir (R382). An access carried out leaves its queue and a write stands in
DRAM (R381); an error that cannot be corrected, or ALERT_n, freezes both channels, records the cause and asks every Furrow to
quench (R387; the write that an alert records when none was issued is the model's choice, log entry 37). A slot of the present
beat grants one transfer, which counts and enters its channel's queue (R391, R393). -/
def Obligations.DramEvents : Prop :=
  ∀ s : State, s.core.sys.pwr.porst = false →
    let c := s.core
    let permit := Reg.GIO_STATUS_permit
    let froze := fun (n cause : Nat) (x : Xfer) (t : Chip) => t.dramState 0 = 4 ∧ t.dramState 1 = 4 ∧
      t.rd (Reg.DMC_ERR_CMD_cause n) = cause ∧ t.rd (Reg.DMC_ERR_CMD_cause (1 - n)) = 3 ∧ t.errBeat 0 = c.now ∧
      t.errBeat 1 = c.now ∧ t.rd (Reg.DMC_ERR_CMD_requester n) = x.req % 16 ∧
      t.flag (Reg.DMC_ERR_CMD_write n) = x.write ∧ t.flag permit = false ∧
      t.logged 0x0A02 n (u8 n ++ u8 cause ++ u16 x.req ++ u32 (dramLocal (x.addr / 64 * 64) / 64)) ∧
      (∀ ch f, ch < 24 → c.beam.fur[ch]? = some f → (t.fur ch).quenchReq = f.quenchReq ++ [(c.now + 1, 2, 0)])
    (c.shown pdDRAM = true → ∀ (n : Fin 2) (h : DramCh), c.mem.ch[n.val]? = some h →
      let state := Reg.DMC_STATUS_state n.val
      let queue := [Reg.DMC_QUEUE_rd_count n.val, Reg.DMC_QUEUE_wr_count n.val, Reg.DMC_QUEUE_drain n.val]
      (∀ fail, c.dramState n.val = 1 → c.roomToLog → Ends (.trainDone n fail) s fun t =>
        (fail = none → t.core.dramState n.val = 2 ∧ (∀ p ∈ t.core.dram, dramChanOf p.1 ≠ n.val) ∧
          t.core.dram = (c.dram.filter fun p => dramChanOf p.1 != n.val) ∧ t.core.losses = c.losses + 1 ∧
          (t.core.dramCh n.val).act = [] ∧ ∃ e ∈ t.core.sys.crock.queue, e.code = 0x0A04 ∧ e.inst = n.val) ∧
        (∀ step dev, fail = some (step, dev) → t.core.dramState n.val = 3 ∧
          t.core.rd (Reg.DMC_STATUS_step n.val) = max 1 (min 8 step.val) ∧
          t.core.rd (Reg.DMC_STATUS_fail_dev n.val) = dev.val ∧ t.core.dram = c.dram ∧ t.core.losses = c.losses ∧
          ∃ e ∈ t.core.sys.crock.queue, e.code = 0x0A03 ∧ e.inst = n.val) ∧
        t.core.out = [] ∧ Chip.only [.mem, .dram, .sys] c t.core ∧
        Chip.regsKept (eventRegs ++ [state, Reg.DMC_STATUS_step n.val, Reg.DMC_STATUS_fail_dev n.val]) c t.core) ∧
      (∀ up down : BitVec 10, c.dramState n.val = 2 → c.flag (Reg.DMC_CTL_retrain_en n.val) = true →
        h.retrainAt + c.rd (Reg.DMC_RETRAIN_interval n.val) * 4 ≤ c.now → Ends (.dqsRetrain n up down) s fun t =>
          (t.core.dramCh n.val).retrainAt = c.now ∧
          (∀ d < 10, d < c.dramDevices n.val → (t.core.dramCh n.val).steps.getD d 0 =
            h.steps.getD d 0 + ((b2n (bit up.toNat d) : Int) - b2n (bit down.toNat d))) ∧
          (n.val = 1 → c.on pdFABRIC = true → Chip.counted (Reg.CAL_ITEM_COUNT_value 3) Reg.CAL_STICKY_sat 3 c t.core) ∧
          t.core.out = [] ∧ Chip.only [.mem, .sys, .fresh] c t.core ∧
          Chip.regsKept (eventRegs ++ [Reg.DMC_RETRAINS_count n.val, Reg.DMC_STICKY_sat n.val, Reg.CAL_ITEM_COUNT_value 3,
            Reg.CAL_STICKY_sat, Reg.CAL_ITEM_NS_value 3, Reg.CAL_ITEM_SEC_LO_value 3, Reg.CAL_ITEM_SEC_HI_value 3]) c t.core) ∧
      (∀ (rank : Fin 2) (hot : Bool), Ends (.dramRefresh n rank hot) s fun t =>
        bit (t.core.dramCh n.val).hot rank.val = hot ∧
        t.core.flag (Reg.DMC_TEMP_fast_refresh n.val) = decide (withBit h.hot rank.val hot ≠ 0) ∧ t.core.out = [] ∧
        Chip.only [.mem] c t.core ∧ Chip.regsKept [permit, Reg.DMC_TEMP_fast_refresh n.val] c t.core) ∧
      (Ends (.actWindowClear n) s fun t => t.core.dramCh n.val = { h with act := [] } ∧ t.core.out = [] ∧
        Chip.only [.mem] c t.core ∧ Chip.regsKept [permit] c t.core) ∧
      (∀ x l, h.wq = x :: l → x.at0 + c.rd (Reg.DMC_WEIR_age n.val) ≤ c.now → Ends (.weirAge n) s fun t =>
        t.core.dramCh n.val = { h with drain := true } ∧ t.core.flag (Reg.DMC_QUEUE_drain n.val) = true ∧
        t.core.out = [] ∧ Chip.only [.mem] c t.core ∧ Chip.regsKept (permit :: queue) c t.core) ∧
      (∀ x ce ue synd, h.next = some x → c.dramState n.val = 2 → h.forwarded x = false → c.roomToLog →
        Ends (.dramAccessDone n ce ue synd) s fun t =>
          let fails := ue && (!x.write || x.masked)
          t.core.losses = c.losses ∧ t.core.out = [] ∧ Chip.only [.mem, .dram, .sys, .beam] c t.core ∧
          Chip.regsWithin (Reg.FUR_LOG_COUNT_count x.unit :: eventRegs) [(0x280000, 0x290000)] c t.core ∧
          (fails = true → froze n.val 1 x t.core ∧ t.core.dram = c.dram ∧ (t.core.dramCh n.val).rq = h.rq ∧
            (t.core.dramCh n.val).wq = h.wq) ∧
          (fails = false → t.core.beam = c.beam ∧ t.core.dramState n.val = 2 ∧
            (x.write = true → t.core.dram = cellsPut x.addr x.data c.dram ∧ (t.core.dramCh n.val).wq = h.wq.erase x ∧
              (t.core.dramCh n.val).rq = h.rq ∧
              (x.data ≠ [] → x.addr % 64 + x.data.length ≤ 64 → dramChanOf x.addr = n.val →
                (t.core.dramCh n.val).lastWrite = some { x with at0 := c.now })) ∧
            (x.write = false → t.core.dram = c.dram ∧ (t.core.dramCh n.val).rq = h.rq.erase x ∧
              (t.core.dramCh n.val).wq = h.wq) ∧
            (ce.isSome = true → (x.write = false ∨ x.masked = true) →
              Chip.counted (Reg.DMC_CE_count n.val) (Reg.DMC_STICKY_sat n.val) 0 c t.core))) ∧
      (c.dramState n.val = 2 → c.roomToLog → Ends (.dramAlert n) s fun t =>
        froze n.val 2 (h.lastWrite.getD ⟨0, 0, true, dramGlobal n.val 0, [], 0⟩) t.core ∧ t.core.out = [] ∧ Chip.only [.sys, .beam] c t.core ∧
        Chip.regsWithin eventRegs [(0x280000, 0x290000)] c t.core)) ∧
    ∀ (x : Xfer) (r : Fin 16) owned h, x.req = r.val → c.on pdFABRIC = true → c.on pdDRAM = true → 
      let k := max c.mem.slm.slot (ceilDiv (512 * (c.now % c.slmPeriod)) c.slmPeriod)
      k < 512 → slotBeat c.slmPeriod k = c.now % c.slmPeriod → c.slmWinner k = some (x, owned) → c.streamOf x = none → c.mem.ch[dramChanOf x.addr]? = some h →
      (c.dramOk x.addr (if x.write then x.data.length else 64) = true ∨ x.byEvent = true) → Ends .memSlot s fun t =>
        let q := t.core.dramCh (dramChanOf x.addr)
        t.core.mem.slm.slot = k + 1 ∧ t.core.mem.slm.ready = c.mem.slm.ready.erase x ∧
        (if x.write then q.wq = enqueueWrite { x with at0 := c.now } h.wq ∧ q.rq = h.rq
          else q.rq = h.rq ++ [{ x with at0 := c.now }] ∧ q.wq = h.wq) ∧
        (∀ j, j ≠ dramChanOf x.addr → t.core.dramCh j = c.dramCh j) ∧
        (owned = true → Chip.counted (Reg.SLM_REQ_OWN_count x.req) (Reg.SLM_REQ_STICKY_sat x.req) 0 c t.core) ∧
        (owned = false → Chip.counted (Reg.SLM_REQ_FALL_count x.req) (Reg.SLM_REQ_STICKY_sat x.req) 1 c t.core) ∧
        t.core.out = [] ∧ Chip.only [.mem] c t.core ∧
        Chip.regsKept [permit, Reg.SLM_REQ_OWN_count x.req, Reg.SLM_REQ_FALL_count x.req, Reg.SLM_REQ_STICKY_sat x.req,
          Reg.DMC_QUEUE_rd_count (dramChanOf x.addr), Reg.DMC_QUEUE_wr_count (dramChanOf x.addr),
          Reg.DMC_QUEUE_drain (dramChanOf x.addr)] c t.core

/-- A DMA channel, while the others are idle: its descriptor, answered, is taken when it is well formed, halts it otherwise, and
is retried at once, after 16 beats, or not at all, as the response and the retry limit say (R404, R413). A grant issues the
read of the next burst of copy order (R406, R409); its data goes to the write side (R409); the last burst written counts its
bytes and ends the channel DONE (R411, R403). A retry is issued when its beats have passed (R413). A stopping channel without
transfers ends HALTED, logged, or ABORTED (R416, R417). -/
def Obligations.DmaEvents : Prop :=
  ∀ (s : State) (n : Fin 64) (d : DmaCh), s.core.sys.pwr.porst = false → s.core.shown pdFABRIC = true →
    s.core.mem.dma[n.val]? = some d → (∀ j, j ≠ n.val → s.core.dma j = DmaCh.init) →
    let c := s.core
    let st := fun t : State => t.core.dmaState n.val
    let frame := fun t : State => t.core.out = [] ∧ Chip.only [.mem, .sys, .dram] c t.core ∧ t.core.losses = c.losses ∧
      (∀ j, j ≠ n.val → t.core.dma j = DmaCh.init) ∧ Chip.regsWithin eventRegs [(0x290000, 0x295000)] c t.core
    (∀ retry : Bool, c.dmaState n.val = 1 → d.fetch = 1 → d.fRetryAt = none → d.bursts = [] →
      Ends (.dmaResponse n 0 retry) s fun t =>
        let a := c.dmaCur n.val
        let r := if retry then Resp.retry else c.dmaDram a 64
        let l := c.dramRead a 64
        frame t ∧ t.core.dram = c.dram ∧
        match verdict r d.fAgain d.fRetries (c.rd (Reg.DMA_CTL_retry n.val)) with
        | .good =>
          if (DmaDesc.ofBytes l).ok l = true then
            ((DmaDesc.ofBytes l).idxEn = false → st t = 1 ∧ t.core.dma n.val = { d with
              fetch := 0, desc := some (DmaDesc.ofBytes l), pos := (0, 0, 0, 0), granted := false })
          else st t = 2 ∧ t.core.rd (Reg.DMA_STATUS_cause n.val) = 1
        | .again => st t = 1 ∧ t.core.dma n.val = { d with fAgain := d.fAgain + 1 } ∧
          t.core.mem.slm.ready.getLast? = some ⟨4, n.val, false, a, [], c.now⟩
        | .later => st t = 1 ∧ t.core.dma n.val = { d with
            fAgain := 0, fRetries := d.fRetries + 1, fRetryAt := some (c.now + 16) }
        | .final => st t = 2 ∧ t.core.rd (Reg.DMA_STATUS_cause n.val) = 3 ∧
          t.core.rd (Reg.DMA_STATUS_response n.val) = respCode r) ∧
    (∀ (x : DmaDesc) (gpi : BitVec 16), c.dmaWinner gpi.toNat = some n.val → d.desc = some x → d.bursts = [] → x.idxEn = false → x.srcReg = false →
      let ad := x.addrs (d.entries.headD 0) d.pos
      let k := x.burstLen ad.1 ad.2 d.pos.2.2.2
      0 ≤ ad.1 → c.dmaWin n.val ad.1 k = true → Ends (.dmaBurstGrant gpi) s fun t =>
        (t.core.dma n.val).bursts =
          [⟨d.pos.2.2.1, d.pos.2.1, d.pos.1, ad.1, ad.2, k, 0, 0, 0, none, [], 0⟩] ∧
        (t.core.dma n.val).granted = (x.next k d.pos).isNone ∧
        (t.core.dma n.val).pos = (x.next k d.pos).getD d.pos ∧
        t.core.mem.slm.ready = c.mem.slm.ready ++ [⟨4, n.val, false, ad.1.toNat, [], c.now⟩] ∧ st t = 1 ∧
        t.core.dram = c.dram ∧ frame t) ∧
    (∀ x b, c.dmaState n.val = 1 → d.fetch = 0 → d.desc = some x → d.bursts = [b] → b.retryAt = none → x.idxEn = false →
      d.outside = none →
      (b.st = 0 → x.dstReg = false → 0 ≤ b.dst → c.dmaWin n.val b.dst b.len = true →
        (dmaReadNow n.val x.srcReg b.src b.len c).1 = .ok → Ends (.dmaResponse n 0 false) s fun t =>
          let l := (dmaReadNow n.val x.srcReg b.src b.len c).2.1
          t.core.dma n.val = { d with bursts := [{ b with
            st := 2, data := l, seq := c.mem.dmaSeq, retries := 0, again := 0 }] } ∧
          t.core.mem.slm.ready.getLast? = some ⟨5, n.val, true, b.dst.toNat, l, c.now⟩ ∧ st t = 1 ∧
          t.core.dram = c.dram ∧ frame t) ∧
      (b.st = 2 → x.dstReg = false → 0 ≤ b.dst → c.dmaDram b.dst b.data.length = .ok → d.granted = true →
        bit x.flags 2 = false → Ends (.dmaResponse n 0 false) s fun t =>
          st t = 3 ∧ t.core.dma n.val = DmaCh.init ∧
          t.core.dram = (if (takeXfer 5 n.val b.dst.toNat c).1 then cellsPut b.dst.toNat b.data c.dram else c.dram) ∧
          t.core.rd2 (Reg.DMA_DONE_BYTES_LO_bytes n.val) (Reg.DMA_DONE_BYTES_HI_bytes n.val) =
            (c.rd2 (Reg.DMA_DONE_BYTES_LO_bytes n.val) (Reg.DMA_DONE_BYTES_HI_bytes n.val) + b.len) % 2 ^ 64 ∧
          t.core.rd (Reg.DMA_DESCS_count n.val) = (c.rd (Reg.DMA_DESCS_count n.val) + 1) % 2 ^ 32 ∧ frame t)) ∧
    (∀ b, d.fetch ≠ 0 → d.fRetryAt = some b → b ≤ c.now → d.bursts = [] → Ends (.dmaRetryTimer n) s fun t =>
      t.core.dma n.val = { d with fRetryAt := none } ∧
      t.core.mem.slm.ready = c.mem.slm.ready ++ [⟨4, n.val, false, (c.dmaFetched n.val).1, [], c.now⟩] ∧
      st t = c.dmaState n.val ∧ t.core.dram = c.dram ∧ frame t) ∧
    (c.dmaState n.val = 2 → d.fetch = 0 → d.bursts = [] → c.roomToLog → Ends (.dmaStopComplete n) s fun t =>
      t.core.dma n.val = DmaCh.init ∧ (d.halt = none → st t = 5) ∧
      (∀ cause resp a, d.halt = some (cause, resp, a) → st t = 4 ∧ t.core.logged 0x0A10 n.val
        (u8 n.val ++ u8 cause ++ u8 resp ++ u8 (c.rd (Reg.DMA_STATUS_retries n.val)) ++ u32 a)) ∧
      t.core.dram = c.dram ∧ frame t)

/-! ### Resets, supplies, quench inputs and temperature (17, 18) -/

/-- POWER_ON_RESET puts every register at its reset value, empties DRAM and leaves the device in power-on reset (R496, R501); its
release ends it once the AON supplies are in range, and the boot ROM switches PD_FABRIC and PD_NET on, also in OTP_FAIL
(R496, R446, R450; log entry 57). A supply or clock alarm shows, latches and starts a warm reset with its cause, as the watchdog does (R497,
R498, R500). PD_MOTION is held in reset once its axes are still, or after 1 s (R500, R331); with every condition cleared the
reset is released, with PD_FABRIC and PD_NET on (R500, R502). -/
def Obligations.ResetsAndSupplies : Prop :=
  ∀ s : State,
    let c := s.core
    let permit := Reg.GIO_STATUS_permit
    let k := fun pll : Bool => if pll then 1 else 0
    let pwr := [Reg.PWR_CAUSE_cause, Reg.PWR_CAUSE_monitor, Reg.PWR_RESETS_value, Reg.PWR_STICKY_sat]
    let begun := fun (cause mon : Nat) (t : Chip) => t.out = [] ∧
      (c.sys.pwr.reset = none → t.sys.pwr.reset = some ⟨c.now, cause, false, false, false, []⟩ ∧
        t.rd Reg.PWR_CAUSE_cause = cause ∧ t.rd Reg.PWR_CAUSE_monitor = mon ∧
        Chip.counted Reg.PWR_RESETS_value Reg.PWR_STICKY_sat 0 c t ∧ t.flag permit = false) ∧
      (∀ r, c.sys.pwr.reset = some r → t.sys.pwr.reset = some r ∧ t.rd Reg.PWR_CAUSE_cause = c.rd Reg.PWR_CAUSE_cause)
    (Ends .powerOnReset s fun t => (∀ f : Fld, t.core.rd f = f.rst) ∧ t.core.dram = [] ∧ t.core.losses = c.losses + 1 ∧
      t.core.sys.pwr.porst = true ∧ t.core.fix.otp = c.fix.otp ∧ t.core.host = State.reset.core.host ∧
      t.core.beam = State.reset.core.beam ∧ t.core.mem = State.reset.core.mem ∧ t.core.kt = State.reset.core.kt ∧
      t.core.crockMem = State.reset.core.crockMem ∧ t.core.fresh = c.fresh ∧
      t.core.sys.pwr.supplyOut = c.sys.pwr.supplyOut) ∧
    (c.sys.pwr.porst = true → (∀ m ∈ c.sys.pwr.supplyOut, 2 ≤ m) → c.roomToLog → Ends .powerOnRelease s fun t =>
      t.core.sys.pwr.porst = false ∧ t.core.sys.pwr.pinLow = false ∧ t.core.rd Reg.PWR_CLOCK_ok = 0x7F ∧
      t.core.flag Reg.BT_STATUS_pll_locked = true ∧ (∃ e ∈ t.core.sys.crock.queue, e.code = 0x0101) ∧ t.core.out = [] ∧
      (t.core.sys.pwr.sw.map fun w => w.dom) = [pdFABRIC, pdNET] ∧
      (c.otpCrc ≠ c.otp 0x3FF → t.core.rd Reg.MGT_BOOT_STATUS_state = 1) ∧ Chip.only [.sys] c t.core) ∧
    (c.sys.pwr.porst = false →
      (∀ low, Ends (.wrstPin low) s fun t => t.core.flag Reg.GIO_STATUS_wrst = low ∧ t.core.out = [] ∧
        Chip.only [] c t.core ∧ Chip.regsKept [permit, Reg.GIO_STATUS_wrst] c t.core) ∧
      (∀ m : Fin 16, c.roomToLog → 2 ≤ m.val → Ends (.supplyAlarm m true) s fun t =>
        begun 4 m.val t.core ∧ bit (t.core.rd Reg.PWR_SUPPLY_out) m.val = true ∧
        bit (t.core.rd Reg.PWR_SUPPLY_seen) m.val = true ∧ m.val ∈ t.core.sys.pwr.supplyOut ∧
        t.core.logged 0x0107 m.val (u8 m.val ++ u8 0 ++ u16 0 ++ beat32 c.now) ∧ Chip.only [.sys] c t.core ∧
        Chip.regsKept (eventRegs ++ pwr ++ [Reg.PWR_SUPPLY_out, Reg.PWR_SUPPLY_seen]) c t.core) ∧
      (∀ m : Fin 16, m.val < 2 → Ends (.supplyAlarm m true) s fun t =>
        t.core.sys.pwr.porst = true ∧ m.val ∈ t.core.sys.pwr.supplyOut ∧ ∀ f : Fld, t.core.rd f = f.rst) ∧
      (∀ m : Fin 16, Ends (.supplyAlarm m false) s fun t =>
        bit (t.core.rd Reg.PWR_SUPPLY_out) m.val = false ∧ m.val ∉ t.core.sys.pwr.supplyOut ∧
        (t.core.sys.pwr.supplyOut = [] → t.core.sys.pwr.supplyGood = c.now + 40000) ∧ t.core.out = [] ∧
        Chip.only [.sys] c t.core ∧ Chip.regsKept [permit, Reg.PWR_SUPPLY_out] c t.core) ∧
      (∀ pll : Bool, c.roomToLog → Ends (.clockAlarm pll true) s fun t =>
        begun 5 (k pll) t.core ∧ bit (t.core.rd Reg.PWR_CLOCK_ok) (k pll) = false ∧
        bit (t.core.rd Reg.PWR_CLOCK_lost) (k pll) = true ∧
        t.core.logged 0x0108 (k pll) (u8 (k pll) ++ u8 0 ++ u16 0 ++ beat32 c.now) ∧ Chip.only [.sys] c t.core ∧
        Chip.regsKept (eventRegs ++ pwr ++ [Reg.PWR_CLOCK_ok, Reg.PWR_CLOCK_lost, Reg.BT_STATUS_pll_locked]) c t.core) ∧
      (∀ pll : Bool, Ends (.clockAlarm pll false) s fun t =>
        bit (t.core.rd Reg.PWR_CLOCK_ok) (k pll) = true ∧ t.core.sys.pwr.clockGood = c.now + 4000 ∧
        (pll = true → t.core.flag Reg.BT_STATUS_pll_locked = true) ∧ t.core.out = [] ∧ Chip.only [.sys] c t.core ∧
        Chip.regsKept [permit, Reg.PWR_CLOCK_ok, Reg.BT_STATUS_pll_locked] c t.core) ∧
      (∀ b, c.sys.pwr.wdtKick = some b → b + c.rd Reg.PWR_MGT_WDT_period * 4000 ≤ c.now → c.roomToLog →
        Ends .mgtWdtExpiry s fun t => begun 3 0 t.core ∧ (c.sys.pwr.reset = none →
          t.core.logged 0x0102 0 (u8 3 ++ u8 0 ++ u16 0 ++ beat32 c.now)) ∧ Chip.only [.sys] c t.core ∧
          Chip.regsKept (eventRegs ++ pwr) c t.core) ∧
      (∀ r, c.sys.pwr.reset = some r → r.held = true → r.motionHeld = false →
        c.axesStill = true ∨ r.w + 4000000 ≤ c.now → Ends .motionResetHold s fun t =>
          t.core.sys.pwr.reset = some { r with motionHeld := true } ∧ t.core.mot = State.reset.core.mot ∧
          (∀ f : Fld, 0x240000 * 32 ≤ f.key → f.key < 0x260000 * 32 → t.core.rd f = f.rst) ∧ t.core.out = [] ∧
          Chip.only [.host, .sys, .mot] c t.core ∧
          Chip.regsWithin [permit, Reg.PWR_DOM_STATE_state pdMOTION] [(0x240000, 0x260000)] c t.core) ∧
      ∀ r, c.sys.pwr.reset = some r → c.releaseOk = true → Ends .warmResetRelease s fun t =>
        t.core.sys.pwr.reset = none ∧ (pdFABRIC ∉ r.endOff → pdNET ∉ r.endOff →
          t.core.rd Reg.TOP_DOMAIN_ON_on = 0x13 ∧ t.core.rd Reg.PWR_STATUS_on = 0x13) ∧
        t.core.rd Reg.BT_STATUS_time_state = (if c.flag Reg.BT_STATUS_step_done then 3 else 0) ∧ t.core.out = [] ∧
        Chip.only [.sys] c t.core)

/-- A quench input that asserts shows, counts, is logged, lowers BEAM_PERMIT and asks every Furrow to quench at the next beat;
its release shows (R512, R513). A core without a heartbeat loses its semaphores, broken (R499, R102). A conversion of good
readings shows the hottest and moves the reduction by one toward its target; a reading that is missing or out of range is a
sensor fault, logged, and the target is the full reduction (R474–R478). A shutdown comparator counts and starts the hardware
shutdown, which ends, restarted, when the sensors allow (R479, R480). -/
def Obligations.QuenchInputsAndTemperature : Prop :=
  ∀ s : State, s.core.sys.pwr.porst = false →
    let c := s.core
    let permit := Reg.GIO_STATUS_permit
    (∀ b : Bool, let i := if b then 1 else 0
      let st := if b then Reg.GIO_STATUS_quench_b else Reg.GIO_STATUS_quench_a
      let seen := if b then Reg.GIO_STATUS_quench_b_seen else Reg.GIO_STATUS_quench_a_seen
      let count := if b then Reg.GIO_QB_COUNT_value else Reg.GIO_QA_COUNT_value
      (c.flag st = false → c.roomToLog → Ends (.quenchInput b) s fun t =>
        t.core.flag st = true ∧ t.core.flag seen = true ∧ Chip.counted count Reg.GIO_STICKY_sat i c t.core ∧
        t.core.logged 0x0106 i (u8 i ++ u8 0 ++ u16 0 ++ beat32 c.now) ∧ t.core.flag permit = false ∧
        (∀ ch f, ch < 24 → c.beam.fur[ch]? = some f →
          (t.core.fur ch).quenchReq = f.quenchReq ++ [(c.now + 1, 4 + i, 0)]) ∧
        (c.on pdMOTION = true → ∀ n < 8, c.flag (Reg.AX_CTL_quench_stop n) = true → c.axState n = 2 →
          t.core.axState n = 4) ∧ t.core.out = [] ∧ Chip.only [.beam, .sys, .mot, .host] c t.core ∧
        Chip.regsWithin (eventRegs ++ [st, seen, count, Reg.GIO_STICKY_sat]) [(0x250000, 0x254000)] c t.core) ∧
      Ends (.quenchRelease b) s fun t => t.core.flag st = false ∧ t.core.out = [] ∧ Chip.only [] c t.core ∧
        Chip.regsKept [permit, st] c t.core) ∧
    (∀ k : Fin 4, c.on pdAPP = true → c.sys.mgt.running.isSome = true → c.host.commits = [] → Ends (.coreHeartbeatTimeout k) s
      fun t => (∀ j x, j < 64 → c.host.sems[j]? = some x → t.core.host.sems[j]? =
          some (if x.cls = 1 ∧ x.owner = k.val then ⟨0, 0, true⟩ else x)) ∧
        (c.sys.crock.queue.length < 100 → t.core.logged 0x0109 k.val (u8 k.val ++ u8 0 ++ u16 0 ++ beat32 c.now)) ∧
        t.core.out = [] ∧ Chip.only [.host, .sys] c t.core ∧ Chip.regsKept eventRegs c t.core) ∧
    (∀ readings : List (BitVec 16), c.sys.cal.sensor = none → c.sys.cal.todo = [] → c.roomToLog →
      Ends (.thmConversion readings) s fun t =>
        let v := fun n => toS 16 (readings.getD n 0).toNat + c.trimOf 2 n
        let good := 12 ≤ readings.length ∧ ∀ n < 12, goodReading (v n) = true
        let next := (List.range 12).map fun n => (ofS 16 (v n), false, false)
        let x := c.rd Reg.THM_STATUS_x
        let target := fun y : Nat => t.core.rd Reg.THM_STATUS_x = (if x < y then x + 1 else if y < x then x - 1 else x) % 32
        (good → t.core.sys.thm.next = next ∧ t.core.flag Reg.THM_STATUS_sensor_fault = false ∧
          ∀ n m, hottest next = some (n, m) → t.core.rdS Reg.THM_STATUS_t_max = m ∧ t.core.rd Reg.THM_STATUS_hottest = n ∧
            target (clampI 0 16 ((m - 16 * (c.rd Reg.THM_CTL_start : Int)) / 10)).toNat) ∧
        (¬ good → t.core.flag Reg.THM_STATUS_sensor_fault = true ∧ target 16 ∧
          ∃ e ∈ t.core.sys.crock.queue, e.code = 0x0205) ∧
        t.core.out = [] ∧ Chip.only [.sys, .fresh] c t.core ∧
        Chip.regsKept (eventRegs ++ [Reg.THM_STATUS_sensor_fault, Reg.THM_STATUS_t_max, Reg.THM_STATUS_hottest,
          Reg.THM_STATUS_x, Reg.THM_STATUS_throttling, Reg.THM_THROTTLE_MS_count, Reg.THM_STICKY_sat]) c t.core) ∧
    (∀ n : Fin 12, Ends (.thermalShutdown n false) s fun t =>
      t.core.sys.thm = { c.sys.thm with tripped := c.sys.thm.tripped.filter (· != n.val) } ∧ t.core.out = [] ∧
      Chip.only [.sys] c t.core ∧ Chip.regsKept [permit] c t.core) ∧
    (∀ n : Fin 12, c.sys.thm.shutdown = none → c.roomToLog → Ends (.thermalShutdown n true) s fun t =>
      n.val ∈ t.core.sys.thm.tripped ∧
      Chip.counted Reg.THM_SHUTDOWNS_count Reg.THM_STICKY_sat 0 c t.core ∧ t.core.sys.thm.shutdown = some c.now ∧
      t.core.rd Reg.PWR_CAUSE_cause = 6 ∧ t.core.flag permit = false ∧
      (c.sys.pwr.reset = none → t.core.sys.pwr.reset = some ⟨c.now, 6, false, false, false, []⟩) ∧
      (∀ r, c.sys.pwr.reset = some r → t.core.sys.pwr.reset = some { r with cause := 6 }) ∧
      t.core.logged 0x0203 n.val (u8 n.val ++ u8 0 ++ u16 (c.rd (Reg.THM_SENS_temp n.val)) ++ beat32 c.now) ∧
      t.core.out = [] ∧ Chip.only [.sys] c t.core ∧
      Chip.regsKept (eventRegs ++ [Reg.THM_SHUTDOWNS_count, Reg.THM_STICKY_sat, Reg.PWR_CAUSE_cause, Reg.PWR_CAUSE_monitor,
        Reg.PWR_RESETS_value, Reg.PWR_STICKY_sat]) c t.core) ∧
    (c.restartOk = true → c.roomToLog → Ends .thermalRestart s fun t =>
      t.core.flag Reg.THM_STATUS_restarted = true ∧ t.core.sys.thm.shutdown = none ∧ t.core.sys.pwr.reset = none ∧
      (∃ e ∈ t.core.sys.crock.queue, e.code = 0x0204) ∧ t.core.out = [] ∧ Chip.only [.sys] c t.core)

/-! ### The beat, the SPI port and the JTAG port (02, 16, 19) -/

/-- BEAT_OPEN completes in every state: it opens the next beat, and of the OTP and the memories of the Crock it changes
nothing (R40). An SPI WRITE whose framing or CRC is wrong writes nothing and shows an error; a whole one of a single word
writes it, and STATUS shows whether the write ended OK (R455, R456). An SPI READ of one word answers 0x5A, the word and its
CRC-8, or 0xFF where the access did not end OK. A STATUS answers the port's last accesses, the lock and the boot state. -/
def Obligations.BeatAndSpi : Prop :=
  ∀ s : State, s.core.sys.pwr.porst = false →
    let c := s.core
    (∀ (g : BitVec 16) (a : BitVec 24), Ends (.beatOpen g a) s fun t => t.core.fix.beat = c.fix.beat + 1 ∧
      t.core.fix.otp = c.fix.otp ∧ t.core.crockMem = c.crockMem) ∧
    (∀ (l : List Byte) (whole : Bool),
      (whole = false ∨ spiWhole l = false → Ends (.spiWrite l whole) s fun t =>
        t.core.sys.mgt = { c.sys.mgt with spiApplied := false, spiErr := true } ∧ t.core.out = [] ∧ Chip.only [.sys] c t.core ∧
        Chip.regsKept [Reg.GIO_STATUS_permit] c t.core) ∧
      (whole = true → spiWhole l = true → l.length = 10 → Ends (.spiWrite l whole) s fun t =>
        let f := freeCycle { c with out := [] }
        let w := busWrite .spi (beAt l 1 4) (beAt l 5 4) f.1 f.2
        t.core.sys.mgt.spiErr = false ∧ t.core.sys.mgt.spiApplied = decide (w.resp = .ok) ∧
        (w.resp ≠ .ok → t.core.sys.mgt.spiResp = respCode w.resp ∧ Chip.only [.fresh, .sys] c t.core ∧
          Chip.regsKept [Reg.GIO_STATUS_permit] c t.core) ∧ t.core.out = w.chip.out)) ∧
    (∀ (a : BitVec 32) (n : BitVec 8),
      (n.toNat = 0 ∨ 64 < n.toNat → Ends (.spiRead a n) s fun t => t.core.sys.mgt = { c.sys.mgt with spiErr := true } ∧
        t.core.out = [] ∧ Chip.only [.sys] c t.core ∧ Chip.regsKept [Reg.GIO_STATUS_permit] c t.core) ∧
      (n.toNat = 1 → Ends (.spiRead a n) s fun t =>
        let f := freeCycle { c with out := [] }
        let r := busRead .spi a.toNat f.1 f.2
        t.core.out = [.spi (if r.1 = .ok then
          [0x5A#8] ++ toBE 4 r.2.1 ++ toBE 1 (crcMsb 8 7 0 (toBE 4 r.2.1)) else [0xFF#8])] ∧
        (r.1 ≠ .ok → t.core.sys.mgt.spiResp = respCode r.1))) ∧
    Ends .spiStatus s fun t =>
      t.core.out = [.spi (toBE 1 (b2n c.sys.mgt.spiApplied + 2 * b2n c.sys.mgt.spiErr + 4 * c.rd Reg.MGT_SPI_CTL_lock +
        8 * c.sys.mgt.spiResp) ++ toBE 1 (c.rd Reg.MGT_BOOT_STATUS_state))] ∧ Chip.only [] c t.core ∧
      Chip.regsKept [Reg.GIO_STATUS_permit] c t.core

/-- TRST_n puts the controller in Test-Logic-Reset with BYPASS selected (R547). A cycle of TCK moves the controller as TMS
says, while the supplies of AON are in range, and five with TMS high reach Test-Logic-Reset from any state. A shift moves one
bit from TDI through the bypass register, or through the 548 boundary cells while EXTEST or SAMPLE is selected and PORST_n is
low; an update of the instruction register takes what was shifted in. Neither command touches the device. -/
def Obligations.JtagPort : Prop :=
  (∀ s : State, Ends .jtagTrst s fun t => t.jtag.tap = .reset ∧ t.jtag.ir = 0xFF ∧ t.core = s.core ∧
    t.jtag.cells = s.jtag.cells ∧ t.jtag.latch = s.jtag.latch) ∧
  (∀ (s : State) (tms tdi : Bool), Ends (.jtagTck tms tdi) s fun t =>
    let j := s.jtag
    let bnd := s.core.sys.pwr.pinLow && (j.ir == 0 || j.ir == 1)
    t.core = s.core ∧ (s.core.jtagOn = false → t.jtag = j) ∧ (s.core.jtagOn = true →
      t.jtag.tap = j.tap.next tms ∧
      (j.tap = .shDr → t.jtag.cells = (if bnd then j.cells.drop 1 ++ [tdi] else j.cells) ∧
        t.jtag.bypass = (if bnd then j.bypass else tdi)) ∧
      (j.tap ≠ .shDr → j.tap ≠ .capDr → t.jtag.cells = j.cells ∧ t.jtag.bypass = j.bypass) ∧
      (j.tap = .shIr → t.jtag.irShift = j.irShift / 2 + 128 * b2n tdi) ∧
      t.jtag.ir = (match j.tap.next tms with
        | .reset => 0xFF
        | .updIr => j.irShift
        | _ => j.ir) ∧
      (j.tap.next tms = .updDr → t.jtag.latch = if bnd then j.cells else j.latch) ∧
      (j.tap.next tms ≠ .updDr → t.jtag.latch = j.latch))) ∧
  ∀ x : TapState, ((((x.next true).next true).next true).next true).next true = .reset

/-! ### The register fabric (00, 01) -/

/-- Every register write answers its master with one response, and one that does not end OK has no effect (R26). It ends
with DECODE_ERR from the DMA engine at a register block, or where no target answers, with TARGET_OFF in a domain that is off,
with SLAVE_ERR at a wrong alignment; a reserved register takes 0 alone (R27, R29, R32, R33). Through the SPI port a write to
SEC or CRK, to what the port's lock bars and to what is the maker's ends with SLAVE_ERR (R34, R456). A change of an RWI field of a
unit that is not idle, and a reserved value, end with SLAVE_ERR; at a block whose writes start nothing any other write ends
OK, and every field acts as its type states (R553). -/
def Obligations.RegisterWrites : Prop :=
  ∀ (i : Instr) (s : State) (m : Master) (a v : Nat), s.core.sys.pwr.porst = false → busWriteOf i = some (m, a, v) →
    let c := s.core
    let none (r : Resp) : Prop := Ends i s fun t => t.core.out = [.bus m r []] ∧ Chip.only [.fresh] c t.core ∧
      Chip.regsKept [Reg.GIO_STATUS_permit] c t.core
    (∃ r, Ends i s fun t => t.core.out = [.bus m r []]) ∧ (∀ r, r ≠ .ok → (Ends i s fun t => t.core.out = [.bus m r []]) → none r) ∧
    (m = .spi → c.spiBars a true = true ∨ makerOnly a = true ∨ barred a = true → none .slaveErr) ∧
    ((m = .spi → c.spiBars a true = false ∧ makerOnly a = false ∧ barred a = false) → a < 0x1000000 →
      (m = .dma → none .decodeErr) ∧ (m ≠ .dma →
        (placeOf a = .none → none .decodeErr) ∧
        ∀ p, placeOf a = some p → p.there = true →
          (c.on p.dom = false → none .targetOff) ∧
          (c.on p.dom = true → a % 4 ≠ 0 → none .slaveErr) ∧
          (c.on p.dom = true → a % 4 = 0 → p.find = .none → none (if v = 0 then .ok else .slaveErr)) ∧
          (c.on p.dom = true → a % 4 = 0 → ∀ r x, p.find = some (r, x) → r.pair = .none → p.blk ≠ .sec → p.blk ≠ .crk →
            let h : Hit := ⟨a, p, r, x⟩
            (c.unitBusy h = true → c.rwiChange h v = true → none .slaveErr) ∧
            (h.reservedValue v = true → none .slaveErr) ∧
            (p.blk ∈ [.top, .thm, .cal, .bt, .hg, .slm, .gio] → h.reservedValue v = false →
              Wrote i s m [] (r.fields.map h.fld) fun d => h.took v c d))))

/-- A read of a _LO register answers it and captures its _HI for its master alone; a read of a _HI register answers that
copy, which then is gone (R28, R557). A read of an RC field returns and clears it (R9). A read of FX_n_SEQ captures the frame's
results for its master, whose later reads return them (R262). A read of BT_TIME_NS or BT_EPOCH_NS captures the seconds of
that cycle (R65). A read of PF_n_CAP_POS_LO clears cap_pending (R306). In a snapshot view other rules hold (R490). -/
def Obligations.RegisterReads : Prop :=
  ∀ (s : State) (m : Master), s.core.sys.pwr.porst = false → m ≠ .dma → s.core.viewing m = false →
    let c := s.core
    let free := fun a : Nat => m = .spi → c.spiBars a false = false ∧ makerOnly a = false
    let read := fun (i : Instr) (v : Nat) (parts : List Part) (regs : List Fld) (P : Chip → Prop) =>
      Ends i s fun t => t.core.out = [.bus m .ok [v]] ∧ Chip.only parts c t.core ∧
        Chip.regsKept (Reg.GIO_STATUS_permit :: regs) c t.core ∧ P t.core
    (∀ (a : BitVec 32) (cycle : Fin 499) (h : Hit), a.toNat < 0x1000000 → free a.toNat → c.route a.toNat = .reg h →
      let d := refresh h.p.blk m cycle.val c
      (∀ g, h.r.pair = .lo → h.high = some g → c.heldCopy m (a.toNat + 2) = none →
        read (.loRegRead m a cycle) (d.freshWord m h) [.hold] [Reg.PF_STATUS_cap_pending h.p.inst] fun e =>
          e.heldCopy m a.toNat = some (d.freshWord m g) ∧
          ∀ m' k, ¬ (m' = m ∧ k = a.toNat) → e.heldCopy m' k = c.heldCopy m' k) ∧
      (∀ v, h.r.pair = .hi → c.heldCopy m (a.toNat - 4) = some v →
        read (.loRegRead m a cycle) v [.hold] [] fun e => e.heldCopy m (a.toNat - 4) = none ∧
          ∀ m' k, ¬ (m' = m ∧ k = a.toNat - 4) → e.heldCopy m' k = c.heldCopy m' k)) ∧
    (∀ (a : BitVec 32) (h : Hit), a.toNat < 0x1000000 → free a.toNat → c.route a.toNat = .reg h → h.p.blk = .thm →
      h.r.pair = .none → c.heldCopy m (a.toNat + 2) = none →
      read (.rcCounterRead m a) (c.wordOf m h) [.fresh] ((h.r.fields.filter fun f => f.ty == .rc).map h.fld) fun e =>
        ∀ f ∈ h.r.fields, f.ty = .rc → e.rd (h.fld f) = (h.fld f).rst) ∧
    (∀ n : Fin 24, let a := 0x1C0040 + n.val * 0x200
      let word := fun k : Nat => (Place.find ⟨.fx, n.val, 0x40 + 4 * k⟩).map fun x =>
        (⟨a + 4 * k, ⟨.fx, n.val, 0x40 + 4 * k⟩, x.1, x.2⟩ : Hit)
      free a → c.on pdFABRIC = true → c.heldCopy m (a + 2) = none →
      read (.fxSeqRead m n) (c.rd (Reg.FX_SEQ_seq n.val)) [.fresh, .fxHold] [] fun e =>
        ∀ k h, 0 < k → k < 12 → word k = some h → e.freshWord m h = c.wordOf m h) ∧
    (∀ (epoch : Bool) (cycle : Fin 499), let a := if epoch then 0x80024 else 0x80018
      let t := if epoch then c.fix.epoch else c.time (min cycle.val c.lastCycle)
      free a → c.on pdAON = true → c.heldCopy m (a + 2) = none → 0 ≤ t → t < 2 ^ 48 * 1000000000 →
      read (.btTimeRead m epoch cycle) (t % 1000000000).toNat [.hold] [] fun e =>
        e.heldCopy m (a + 6) = some ((t / 1000000000).toNat % 2 ^ 32) ∧
        e.heldCopy m (a + 4) = some ((t / 1000000000).toNat / 2 ^ 32) ∧
        ∀ m' k, ¬ (m' = m ∧ (k = a + 4 ∨ k = a + 6)) → e.heldCopy m' k = c.heldCopy m' k) ∧
    ∀ n : Fin 8, let a := 0x240080 + n.val * 0x400
      free a → c.on pdMOTION = true → c.heldCopy m (a + 2) = none →
      read (.capPosRead m n) (c.rd (Reg.PF_CAP_POS_LO_value n.val)) [.fresh, .hold] [Reg.PF_STATUS_cap_pending n.val] fun e =>
        e.flag (Reg.PF_STATUS_cap_pending n.val) = false ∧
        e.heldCopy m a = some (ofS 32 (toS 16 (c.rd (Reg.PF_CAP_POS_HI_value n.val))))

/-- A table window answers to 32-bit accesses of the masters and of the DMA engine (R29, R35, R37): a fixed-pattern slot of
contexts 24 and 25 with DECODE_ERR (R36), one of a domain that is off with TARGET_OFF, one that a commit copies with RETRY and
no effect, the owner map with SLAVE_ERR to writes. A word written to a temperature or fixed-pattern table reads back, and no
other word of the tables changes. -/
def Obligations.TableWindows : Prop :=
  ∀ (s : State) (m : Master) (a v : BitVec 32), s.core.sys.pwr.porst = false → 0x1000000 ≤ a.toNat →
    (m = .spi → s.core.spiBars a.toNat true = false) →
    let c := s.core
    let none (r : Resp) : Prop := Ends (.genericRegWrite m a v) s fun t => t.core.out = [.bus m r []] ∧
      Chip.only [.fresh] c t.core ∧ Chip.regsKept [Reg.GIO_STATUS_permit] c t.core
    (0x02600000 ≤ a.toNat → a.toNat < 0x02680000 → none .decodeErr) ∧
    (winOf a.toNat = .none → none .decodeErr) ∧
    ∀ w, winOf a.toNat = some w →
      (c.on w.dom = false → none .targetOff) ∧
      (c.on w.dom = true → a.toNat % 4 ≠ 0 → none .slaveErr) ∧
      (c.on w.dom = true → a.toNat % 4 = 0 →
        (c.winBusy w = true → none .retry) ∧
        ((∃ off, w = .owner off) → none .slaveErr) ∧
        (c.winBusy w = false → ((∃ n off, w = .temp n off) ∨ ∃ n off, w = .fpn n off) →
          Wrote (.genericRegWrite m a v) s m [.tables] [] fun d =>
            winRead a.toNat d = (.ok, v.toNat) ∧
            ∀ x d0, x ≠ a.toNat → d.word d0 x = c.word d0 x))

/-! ### Register writes that act (00, 06, 07, 09) -/

/-- A write of GLK_n_MBX_CMD takes a request to the head, or ends it at once on a link that is not UP (R202, R213). A write of
GLK_n_CTL sets the lane's fields; a change of enable starts the lane in HUNT, LOCKED or TEST with its counters clear, or
stops it, which faults a link that was UP (R203, R205, R213); a downlink's rate is its uplink's too (R180). A write of
GLK_n_TEST sets the fields, and of the mode clears the PRBS counters and is logged (R210); inject_once on an idle channel's
downlink inverts a bit of its next frame (R211). -/
def Obligations.HeadLinkWrites : Prop :=
  ∀ (s : State) (m : Master) (lane : Fin 52) (value : Word),
    let c := s.core
    let n := lane.val
    let v := value.toNat
    (n < 48 → n % 2 = 0 → c.lets m (laneDom n) (0x140040 + n * 0x400) true → c.flag (Reg.GLK_MBX_CMD_busy n) = false →
      (v / 65536 % 256 = 1 ∧ (v % 65536 < 0x10 ∨ 0x1F < v % 65536) ∨ v / 65536 % 256 = 2) →
      ∀ l, c.beam.links[n / 2]? = some l → Wrote (.glkMbxCmdWrite m lane value) s m [.beam]
        [Reg.GLK_MBX_CMD_op n, Reg.GLK_MBX_CMD_addr n, Reg.GLK_MBX_CMD_busy n, Reg.GLK_MBX_RESP_done n,
          Reg.GLK_MBX_RESP_status n] fun d =>
        d.rd (Reg.GLK_MBX_CMD_op n) = v / 65536 % 256 ∧ d.rd (Reg.GLK_MBX_CMD_addr n) = v % 65536 ∧
        if c.linkUp (n / 2) = true then
          d.flag (Reg.GLK_MBX_CMD_busy n) = true ∧ d.flag (Reg.GLK_MBX_RESP_done n) = false ∧
          d.link (n / 2) = { l with queue := l.queue ++
            [⟨0, v / 65536 % 256, v % 65536, c.rd (Reg.GLK_MBX_DATA_data n), false, 0, 0, false⟩] }
        else d.flag (Reg.GLK_MBX_CMD_busy n) = false ∧ d.flag (Reg.GLK_MBX_RESP_done n) = true ∧
          d.rd (Reg.GLK_MBX_RESP_status n) = 0xFE ∧ d.link (n / 2) = l) ∧
    (c.lets m (laneDom n) (0x140000 + n * 0x400) true → v / 65536 % 16 ≠ 0 → ∀ l, c.beam.lanes[n]? = some l →
      (c.flag (Reg.GLK_CTL_enable n) = true → v / 256 % 2 = c.rd (Reg.GLK_CTL_polarity n) ∧
        (n % 2 = 0 → v / 2 % 4 = c.rd (Reg.GLK_CTL_rate n))) → Ends (.glkEnableWrite m lane value) s fun t =>
        let d := t.core
        let was := c.flag (Reg.GLK_CTL_enable n)
        let is := bit v 0
        d.out = [.bus m .ok []] ∧ d.rd (Reg.GLK_CTL_err_limit n) = v / 65536 % 16 ∧
        d.rd (Reg.GLK_CTL_polarity n) = v / 256 % 2 ∧ d.flag (Reg.GLK_CTL_enable n) = is ∧
        (n % 2 = 0 → d.rd (Reg.GLK_CTL_rate n) = v / 2 % 4 ∧ d.rd (Reg.GLK_CTL_rate (n + 1)) = v / 2 % 4) ∧
        (was = is → d.lane n = l ∧ d.laneState n = c.laneState n) ∧
        (was = false → is = true → (c.rd (Reg.GLK_TEST_mode n) = 0 → d.lane n = Lane.init) ∧
          d.laneState n = (if c.rd (Reg.GLK_TEST_mode n) ≠ 0 then 4 else if n % 2 = 1 ∨ 48 ≤ n then 1 else 3) ∧
          (∀ f ∈ [Reg.GLK_FRAMES_count n, Reg.GLK_CRC_ERR_count n, Reg.GLK_MISS_count n, Reg.GLK_STUFF_ERR_count n,
            Reg.GLK_POS_ERR_count n, Reg.GLK_ECHO_ERR_count n, Reg.GLK_KILLED_count n, Reg.GLK_DOWN_BAD_count n],
            d.rd f = 0)) ∧
        (was = true → is = false → d.lane n = Lane.init ∧ d.laneState n = 0 ∧
          (n < 48 → c.linkUp (n / 2) = true → d.linkUp (n / 2) = false ∧
            d.flag (Reg.GLK_STATUS_link_fault (2 * (n / 2) + 1)) = true)) ∧
        Chip.only [.fresh, .beam, .sys] c d ∧ Chip.regsWithin eventRegs
          [(0x140000 + n / 2 * 0x800, 0x140800 + n / 2 * 0x800), (0x100000 + n / 2 * 0x1000, 0x101000 + n / 2 * 0x1000)] c d) ∧
    (c.lets m (laneDom n) (0x140080 + n * 0x400) true → v % 8 ≤ 5 → v / 16 % 4 ≤ 1 → 10 ≤ v / 256 % 32 → v / 256 % 32 ≤ 30 →
      (v % 8 ≠ 0 → c.laneBusy n = none) →
      (bit v 16 = false → c.roomToLog → Ends (.glkTestModeWrite m lane value) s fun t =>
        let d := t.core
        d.out = [.bus m .ok []] ∧ d.rd (Reg.GLK_TEST_mode n) = v % 8 ∧ d.rd (Reg.GLK_TEST_inject n) = v / 16 % 4 ∧
        d.rd (Reg.GLK_TEST_inj_exp n) = v / 256 % 32 ∧ d.rd (Reg.GLK_PRBS_ERR_count n) = 0 ∧
        d.rd2 (Reg.GLK_PRBS_BITS_LO_bits n) (Reg.GLK_PRBS_BITS_HI_bits n) = 0 ∧
        (c.flag (Reg.GLK_CTL_enable n) = true → v % 8 ≠ 0 → d.laneState n = 4) ∧
        d.logged 0x0505 n (u8 n ++ u8 (v % 8) ++ u16 0 ++ u32 c.now) ∧ Chip.only [.fresh, .beam, .sys] c d ∧
        Chip.regsWithin eventRegs [(0x140000 + n / 2 * 0x800, 0x140800 + n / 2 * 0x800),
          (0x100000 + n / 2 * 0x1000, 0x101000 + n / 2 * 0x1000)] c d)) ∧
    (n < 48 → n % 2 = 0 → c.lets m (laneDom n) (0x140080 + n * 0x400) true → c.flag (Reg.GLK_TEST_mode n) = false →
      v % 8 = 0 → v / 16 % 4 ≤ 1 → 10 ≤ v / 256 % 32 → v / 256 % 32 ≤ 30 → bit v 16 = true → c.chState (n / 2) = 0 →
      ∀ l, c.beam.lanes[n]? = some l → Wrote (.glkInjectOnce m lane value) s m [.beam]
        [Reg.GLK_TEST_mode n, Reg.GLK_TEST_inject n, Reg.GLK_TEST_inj_exp n] fun d =>
        d.lane n = { l with inject := true } ∧ d.rd (Reg.GLK_TEST_mode n) = 0 ∧ d.rd (Reg.GLK_TEST_inject n) = v / 16 % 4)

/-- A write of a context's CTL sets hold; in the Sieve that the context is bound to, fault_clear clears its fault, and
fpn_commit has the fixed-pattern table committed at the next run (R228, R230). A write of a P register
reaches the shadow and counts in its generation (R229); one of the exposure time or gain, within the conditions of the
context's period, makes the exposure dirty (R239). -/
def Claim.SieveWrites : Prop :=
  ∀ (s : State) (m : Master) (sieve : Fin 2) (ctx : Fin 32) (value : Word),
    let c := s.core
    let n := ctx.val
    let k := sieve.val
    let v := value.toNat
    (∀ i, i = .svaFaultClear m sieve ctx value ∨ i = .svaFpnCommit m sieve ctx value →
      c.lets m (sieveDom k) (svAddr k n 0x14) true → ∀ x, c.img.ctxs[n]? = some x → Wrote i s m [.img]
        [Reg.SVX_CTL_hold k n, Reg.SVX_STATUS_fault k n, Reg.SVX_GEN_pending k n] fun d =>
        d.flag (Reg.SVX_CTL_hold k n) = bit v 0 ∧
        (x.sieve = k → (bit v 2 = true → d.flag (Reg.SVX_STATUS_fault k n) = false) ∧
          (bit v 1 = true → d.ctx n = { x with fpnWait := true } ∧ d.flag (Reg.SVX_GEN_pending k n) = true)) ∧
        (x.sieve ≠ k ∨ bit v 2 = false → d.rd (Reg.SVX_STATUS_fault k n) = c.rd (Reg.SVX_STATUS_fault k n)) ∧
        (x.sieve ≠ k ∨ bit v 1 = false → d.ctx n = x)) ∧
    (∀ (off : BitVec 16) (h : Hit), let a := svAddr k n off.toNat
      0x18 ≤ off.toNat % 0x800 → off.toNat % 0x800 ≤ 0x34 → c.lets m (sieveDom k) a true → c.route a = .reg h →
      h.reservedValue v = false → Wrote (.svaParamWrite m sieve ctx off value) s m []
        (Reg.SVX_PGEN_shadow k n :: h.r.fields.map h.fld) fun d => h.took v c d ∧
        d.rd (Reg.SVX_PGEN_shadow k n) = (c.rd (Reg.SVX_PGEN_shadow k n) + 1) % 65536) ∧
    (n < 24 → c.lets m (sieveDom k) (svAddr k n 0x80) true → c.lets m (sieveDom k) (svAddr k n 0x84) true → c.svOf n = k →
      (100 ≤ v → v + 100 ≤ c.rd (Reg.SVX_PERIOD_beats k n) * 250 → Wrote (.svaExpWrite m sieve ctx false value) s m []
        [Reg.SVX_EXP_TIME_value k n, Reg.SVX_EXP_STATUS_dirty k n] fun d =>
        d.rd (Reg.SVX_EXP_TIME_value k n) = v ∧ d.flag (Reg.SVX_EXP_STATUS_dirty k n) = true) ∧
      Wrote (.svaExpWrite m sieve ctx true value) s m [] [Reg.SVX_EXP_GAIN_value k n, Reg.SVX_EXP_STATUS_dirty k n] fun d =>
        d.rd (Reg.SVX_EXP_GAIN_value k n) = v % 65536 ∧ d.flag (Reg.SVX_EXP_STATUS_dirty k n) = true)

/-- A write of LAD_c_RC_CMD asks for the repetitive stages of the loops it names to switch in or out; one that names a loop
twice or a loop whose microcode is OFF is refused (R288). A write of LAD_c_UCODE sets microcode and ready bits, and a loop
whose microcode changes ends not ready; so does a loop of which any register is written (R273). -/
def Claim.LadleWrites : Prop :=
  ∀ (s : State) (m : Master) (ch : Fin 24) (value : Word),
    let c := s.core
    let n := ch.val
    let v := value.toNat
    (∀ (i : Instr) (e : Ladle), i = .ladRcSwitchIn m ch value ∨ i = .ladRcSwitchOut m ch value →
      c.lets m (chanDom n) (0x200014 + n * 0x2000) true → c.lad[n]? = some e → e.loops.length = 3 →
      ((∀ l < 3, ¬ (bit v l = true ∧ bit v (4 + l) = true) ∧ (bit v l = true ∨ bit v (4 + l) = true → c.ucode n l ≠ 0)) →
        Wrote i s m [.lad] [] fun d => ∀ l < 3, d.loop n l = if bit v l = true ∨ bit v (4 + l) = true then
          { c.loop n l with switch := some (bit v l, true, c.now) } else c.loop n l) ∧
      (∀ l < 3, (bit v l = true ∧ bit v (4 + l) = true) ∨ ((bit v l = true ∨ bit v (4 + l) = true) ∧ c.ucode n l = 0) →
        Ends i s fun t => t.core.out = [.bus m .slaveErr []] ∧ Chip.only [.fresh] c t.core ∧
          Chip.regsKept [Reg.GIO_STATUS_permit] c t.core)) ∧
    (c.lets m (chanDom n) (0x200000 + n * 0x2000) true → c.inJob n = false → v % 4 ≤ 2 → v / 16 % 4 ≤ 2 → v / 256 % 4 ≤ 2 →
      Wrote (.ladUcodeWrite m ch value) s m [] [Reg.LAD_UCODE_ucode_x n, Reg.LAD_UCODE_ucode_y n, Reg.LAD_UCODE_ucode_p n,
        Reg.LAD_UCODE_ready_x n, Reg.LAD_UCODE_ready_y n, Reg.LAD_UCODE_ready_p n] fun d =>
        ∀ l < 3, d.ucode n l = v / 2 ^ (4 * l) % 4 ∧
          ((∀ j < 3, c.ucode n j < 4) → d.flag (ladReadyFld n l) = (bit v (16 + l) && decide (d.ucode n l = c.ucode n l)))) ∧
    ∀ (off : BitVec 16) (h : Hit), let a := 0x200000 + n * 0x2000 + off.toNat % 0x2000
      let l := (off.toNat % 0x2000 - 0x100) / 0x200
      0x100 ≤ off.toNat % 0x2000 → off.toNat % 0x2000 < 0x700 → c.lets m (chanDom n) a true → c.route a = .reg h →
      h.r.pair = .none → c.inJob n = false → h.reservedValue v = false →
      Wrote (.ladLoopRegWrite m ch off value) s m [] (ladReadyFld n l :: h.r.fields.map h.fld) fun d =>
        h.took v c d ∧ d.flag (ladReadyFld n l) = false

/-- The register writes that act on contexts and on loop engines. -/
def Obligations.ImageAndLoopWrites : Prop := Claim.SieveWrites ∧ Claim.LadleWrites

/-! ### Register writes that act (05, 10, 11, 13, 14) -/

/-- A write of enable from 0 to 1 loads a feedback channel's preset and clears its motion, its reference and its armed units
(R318). Arming a compare unit tests it: one already passed ends unarmed and passed, which is logged (R311); action GEAR is refused (R313). Enabling an
emulation output sets its count to its target and emits nothing; disabling stops it (R314). Enabling an axis clears its fault,
homed and the phase index, and it is IDLE; disabling stops it dead (R322, R331, R339). -/
def Obligations.MotionWrites : Prop :=
  ∀ (s : State) (m : Master) (n : Fin 8) (value : Word),
    let c := s.core
    let v := value.toNat
    let others := eventRegs ++ (List.range 8).map Reg.AX_GEAR_CTL_pending
    (∀ f, c.mot.pf[n.val]? = some f → c.lets m pdMOTION (0x240000 + n.val * 0x400) true → v / 65536 % 4 ≤ 2 →
      c.flag (Reg.PF_CTL_enable n.val) = false → bit v 0 = true → Ends (.pfEnable m n value) s fun t =>
        let d := t.core
        d.out = [.bus m .ok []] ∧ d.pfPos n.val = c.rd48 (Reg.PF_PRESET_LO_preset n.val) (Reg.PF_PRESET_HI_preset n.val) ∧
        d.flag (Reg.PF_CTL_enable n.val) = true ∧ d.rd (Reg.PF_CTL_mode n.val) = v / 2 % 2 ∧
        d.rd (Reg.PF_CTL_cap_src n.val) = v / 65536 % 4 ∧ d.rd (Reg.PF_CTL_cap_in n.val) = v / 1048576 % 8 ∧
        d.rd (Reg.PF_SPEED_v n.val) = 0 ∧ d.flag (Reg.PF_STATUS_moving n.val) = false ∧
        d.flag (Reg.PF_STATUS_referenced n.val) = false ∧ (∀ u < 3, d.flag (Reg.PF_CMP_CTL_arm n.val u) = false) ∧
        (d.pf n.val).edges = [] ∧ (d.pf n.val).dir = none ∧ (d.pf n.val).tLast = none ∧
        (∃ k, k ≤ c.lastCycle ∧ (d.pf n.val).enabledAt = c.time k) ∧ Chip.only [.fresh, .mot, .sys] c d ∧
        Chip.regsWithin others [(0x240000 + n.val * 0x400, 0x240400 + n.val * 0x400), (0x242000, 0x242100)] c d) ∧
    (∀ u : Fin 4, c.lets m pdMOTION (0x240100 + n.val * 0x400 + u.val * 0x20) true → v / 16 % 8 = 2 →
      Ends (.pfCmpArm m n u value) s fun t => t.core.out = [.bus m .slaveErr []] ∧ Chip.only [.fresh] c t.core ∧
        Chip.regsKept [Reg.GIO_STATUS_permit] c t.core) ∧
    (∀ u : Fin 4, let a := 0x240100 + n.val * 0x400 + u.val * 0x20
      c.lets m pdMOTION a true → c.flag (Reg.PF_CMP_CTL_gear_owned n.val u.val) = false → v / 16 % 8 ≤ 3 → v / 16 % 8 ≠ 2 →
      v / 2 % 4 ≤ 2 →
      c.roomToLog → Wrote (.pfCmpArm m n u value) s m [.sys] (logRegs ++ [Reg.PF_CMP_CTL_arm n.val u.val,
          Reg.PF_CMP_CTL_dir n.val u.val, Reg.PF_CMP_CTL_action n.val u.val, Reg.PF_CMP_CTL_fired n.val u.val,
          Reg.PF_CMP_CTL_passed n.val u.val, Reg.PF_CMP_CTL_gear_owned n.val u.val]) fun d =>
        let past := bit v 0 && cmpPassed (v / 2 % 4) (c.pfPos n.val) (c.cmpVal n.val u.val)
        d.flag (Reg.PF_CMP_CTL_arm n.val u.val) = (bit v 0 && !past) ∧
        d.rd (Reg.PF_CMP_CTL_dir n.val u.val) = v / 2 % 4 ∧ d.rd (Reg.PF_CMP_CTL_action n.val u.val) = v / 16 % 8 ∧
        (bit v 9 = true → d.flag (Reg.PF_CMP_CTL_fired n.val u.val) = false) ∧
        (past = true → d.flag (Reg.PF_CMP_CTL_passed n.val u.val) = true ∧ d.logged 0x0883 n.val (u8 n.val ++ u8 u.val ++
          u8 (v / 16 % 8) ++ u8 0 ++ s32LE (c.cmpVal n.val u.val))) ∧
        (past = false → bit v 8 = true → d.flag (Reg.PF_CMP_CTL_passed n.val u.val) = false)) ∧
    (∀ (k : Fin 4) (x : Emu), c.mot.emu[k.val]? = some x → c.lets m pdMOTION (0x242000 + k.val * 0x40) true →
      v / 256 % 4 ≤ 2 →
      (c.flag (Reg.PF_EMU_CTL_enable k.val) = false → bit v 0 = true → Wrote (.emuEnable m k value) s m [.mot]
        [Reg.PF_EMU_CTL_enable k.val, Reg.PF_EMU_CTL_source k.val, Reg.PF_EMU_CTL_z_mode k.val, Reg.PF_EMU_OUT_c k.val,
          Reg.PF_EMU_LAG_lag k.val, Reg.PF_EMU_STATUS_running k.val] fun d =>
        let e := c.pfPos (v / 16 % 8) * c.rd (Reg.PF_EMU_RATIO_num k.val) / (c.rd (Reg.PF_EMU_RATIO_den k.val) : Int)
        d.emu k.val = ⟨e, false, none, x.zEnd⟩ ∧ d.rdS (Reg.PF_EMU_OUT_c k.val) = toS 32 (ofS 32 e) ∧
        d.rd (Reg.PF_EMU_LAG_lag k.val) = 0 ∧ d.flag (Reg.PF_EMU_STATUS_running k.val) = true ∧
        d.rd (Reg.PF_EMU_CTL_source k.val) = v / 16 % 8 ∧ d.rd (Reg.PF_EMU_CTL_z_mode k.val) = v / 256 % 4) ∧
      (c.flag (Reg.PF_EMU_CTL_enable k.val) = true → bit v 0 = false →
        v / 16 % 8 = c.rd (Reg.PF_EMU_CTL_source k.val) → v / 256 % 4 = c.rd (Reg.PF_EMU_CTL_z_mode k.val) →
        Wrote (.emuEnable m k value) s m [] [Reg.PF_EMU_CTL_enable k.val, Reg.PF_EMU_STATUS_running k.val] fun d =>
        d.flag (Reg.PF_EMU_CTL_enable k.val) = false ∧ d.flag (Reg.PF_EMU_STATUS_running k.val) = false)) ∧
    ∀ x, c.mot.ax[n.val]? = some x → c.lets m pdMOTION (0x250000 + n.val * 0x800) true → v / 16 % 16 ≤ 8 →
      let page := (0x250000 + n.val * 0x800, 0x250800 + n.val * 0x800)
      (c.flag (Reg.AX_CTL_enable n.val) = false → bit v 0 = true → Ends (.axEnable m n value) s fun t =>
        let d := t.core
        d.out = [.bus m .ok []] ∧ d.axState n.val = 1 ∧ d.rd (Reg.AX_STATUS_fault n.val) = 0 ∧
        d.flag (Reg.AX_STATUS_homed n.val) = false ∧ d.rd (Reg.AX_PHASE_i n.val) = 0 ∧
        d.rd (Reg.AX_CTL_ustep_log2 n.val) = v / 16 % 16 ∧ d.flag (Reg.AX_CTL_mode n.val) = bit v 1 ∧
        d.flag (Reg.AX_CTL_quench_stop n.val) = bit v 9 ∧ (d.ax n.val).plan = none ∧ (d.ax n.val).home = none ∧
        (d.ax n.val).idleAt = c.now ∧ d.axPos n.val = c.axPos n.val ∧ (∀ k, k ≠ n.val → d.ax k = c.ax k) ∧
        Chip.only [.fresh, .mot] c d ∧ Chip.regsWithin [Reg.GIO_STATUS_permit] [page] c d) ∧
      (c.flag (Reg.AX_CTL_enable n.val) = true → bit v 0 = false → v / 16 % 16 = c.rd (Reg.AX_CTL_ustep_log2 n.val) →
        v / 2 % 2 = c.rd (Reg.AX_CTL_mode n.val) → x.home = none → Ends (.axEnable m n value) s fun t =>
        let d := t.core
        d.out = [.bus m .ok []] ∧ d.axState n.val = 0 ∧ d.rd (Reg.AX_SPEED_v n.val) = 0 ∧
        d.flag (Reg.AX_GEAR_CTL_engaged n.val) = false ∧ (d.ax n.val).plan = none ∧ d.axPos n.val = c.axPos n.val ∧
        (∀ k, k ≠ n.val → d.ax k = c.ax k) ∧ Chip.only [.fresh, .mot] c d ∧
        Chip.regsWithin [Reg.GIO_STATUS_permit] [page] c d)

/-- A write of train starts the training of a channel that is UNTRAINED or in TRAIN_FAIL, which fails at once when the two
channels are set up differently, and is ignored in any other state (R374, R378, R379). A write of start makes an idle DMA
channel fetch its first descriptor, where its window allows it (R403, R414); a write of abort makes a RUNNING one STOPPING
(R417). A write of commit schedules a swap of the slot table (R164), and a write of lead reaches SLB_RC_CTL (R170). -/
def Obligations.MemoryAndSluiceWrites : Prop :=
  ∀ (s : State) (m : Master) (value : Word),
    let c := s.core
    let v := value.toNat
    (∀ (n : Fin 2) (h : DramCh), c.mem.ch[n.val]? = some h → c.lets m pdDRAM (0x280004 + n.val * 0x8000) true → bit v 0 = true →
      c.roomToLog → Wrote (.dmcTrain m n value) s m [.mem, .sys] (logRegs ++ [Reg.DMC_CTL_retrain_en n.val,
          Reg.DMC_STATUS_state n.val, Reg.DMC_STATUS_step n.val, Reg.DMC_STATUS_fail_dev n.val]) fun d =>
        d.flag (Reg.DMC_CTL_retrain_en n.val) = bit v 2 ∧
        if c.dramState n.val ≠ 0 ∧ c.dramState n.val ≠ 3 then d.mem = c.mem ∧ d.dramState n.val = c.dramState n.val
        else if c.dramMismatch = true then d.mem = c.mem ∧ d.dramState n.val = 3 ∧ d.rd (Reg.DMC_STATUS_step n.val) = 15 ∧
          d.logged 0x0A03 n.val (u8 n.val ++ u8 15 ++ u8 255 ++ u8 0 ++ u32 0)
        else (d.dramCh n.val).trainAt = c.now ∧ d.dramState n.val = 1 ∧ d.rd (Reg.DMC_STATUS_step n.val) = 1 ∧
          d.sys = c.sys) ∧
    (∀ (n : Fin 64) (x : DmaCh), c.mem.dma[n.val]? = some x → c.lets m pdFABRIC (0x291000 + n.val * 0x100) true →
      (∀ j, j ≠ n.val → c.dma j = DmaCh.init) → v / 65536 % 256 ≠ 0 → v / 256 % 32 ≤ 16 →
      let a := c.rdAddr (Reg.DMA_DESC_LO_addr n.val) (Reg.DMA_DESC_HI_addr n.val)
      (bit v 0 = true → bit v 1 = false → c.dmaState n.val ≠ 1 → c.dmaState n.val ≠ 2 → c.dmaWin n.val a 64 = true →
        Ends (.dmaStart m n value) s fun t =>
        let d := t.core
        d.out = [.bus m .ok []] ∧ d.dmaState n.val = 1 ∧ d.dma n.val = { DmaCh.init with fetch := 1 } ∧
        d.rd2 (Reg.DMA_CUR_LO_addr n.val) (Reg.DMA_CUR_HI_addr n.val) = a % 2 ^ 36 ∧
        d.mem.slm.ready = c.mem.slm.ready ++ [⟨4, n.val, false, a, [], c.now⟩] ∧
        d.rd (Reg.DMA_CTL_blocks n.val) = v / 65536 % 256 ∧ d.rd (Reg.DMA_CTL_prio n.val) = v / 16 % 4 ∧
        (∀ j, j ≠ n.val → d.dma j = DmaCh.init) ∧ Chip.only [.fresh, .mem] c d ∧
        Chip.regsWithin [Reg.GIO_STATUS_permit] [(0x290000, 0x295000)] c d) ∧
      (bit v 0 = false → bit v 1 = true → c.dmaState n.val = 1 → x.bursts = [] →
        v / 16777216 % 16 = c.rd (Reg.DMA_CTL_retry n.val) → v / 65536 % 256 = c.rd (Reg.DMA_CTL_blocks n.val) →
        v / 256 % 32 = c.rd (Reg.DMA_CTL_req_src n.val) → v / 16 % 4 = c.rd (Reg.DMA_CTL_prio n.val) →
        Ends (.dmaAbort m n value) s fun t =>
        let d := t.core
        d.out = [.bus m .ok []] ∧ d.dmaState n.val = 2 ∧ d.dma n.val = { x with
          granted := true, entries := [], fetch := if x.fRetryAt.isSome then 0 else x.fetch, fRetryAt := none } ∧
        d.mem.slm = c.mem.slm ∧ (∀ j, j ≠ n.val → d.dma j = DmaCh.init) ∧ Chip.only [.fresh, .mem] c d ∧
        Chip.regsWithin [Reg.GIO_STATUS_permit] [(0x290000, 0x295000)] c d)) ∧
    (c.lets m pdFABRIC 0x120030 true → Wrote (.slbSlotCommit m value) s m [] [Reg.SLB_STATUS_commit_pending] fun d =>
      d.flag Reg.SLB_STATUS_commit_pending = (c.flag Reg.SLB_STATUS_commit_pending || bit v 0)) ∧
    (c.lets m pdFABRIC 0x120040 true → v / 4 % 4 ≤ 2 →
      (c.jobBusy = true → v / 16 % 8 = c.rd Reg.SLB_RC_CTL_source ∧ v / 2 % 2 = c.rd Reg.SLB_RC_CTL_axis ∧
        v % 2 = c.rd Reg.SLB_RC_CTL_enable) → Wrote (.slbRcLeadWrite m value) s m []
        [Reg.SLB_RC_CTL_lead, Reg.SLB_RC_CTL_source, Reg.SLB_RC_CTL_axis, Reg.SLB_RC_CTL_enable] fun d =>
      d.rd Reg.SLB_RC_CTL_lead = v / 4 % 4 ∧ d.rd Reg.SLB_RC_CTL_source = v / 16 % 8 ∧ d.rd Reg.SLB_RC_CTL_axis = v / 2 % 2 ∧
        d.rd Reg.SLB_RC_CTL_enable = v % 2)

/-! ### Register writes that act (16, 17, 18) -/

/-- A write of release frees the held snapshot (R489), and one of SNP_VIEW turns the writing master's view, and no other's, on
or off (R490). A write of 0x5752 to PWR_WARM starts a warm reset 20 µs on, unless one is under way (R497); any other value is
refused (R12). The management core alone writes the watchdog, and a kick restarts it (R498). MGT_LOAD_k writes image area 0 in
WAIT_IMAGE, start moves the ROM to VERIFYING, and the lock of the SPI port stays set (R448, R450, R451, R456). -/
def Claim.ManagementWrites : Prop :=
  ∀ (s : State) (m : Master) (value : Word),
    let c := s.core
    let v := value.toNat
    (c.lets m pdAON 0x40030 true → Wrote (.snpReleaseWrite m value) s m [] [Reg.SNP_STATUS_held] fun d =>
      d.flag Reg.SNP_STATUS_held = (c.flag Reg.SNP_STATUS_held && !bit v 0)) ∧
    (c.lets m pdAON 0x4002C true → Wrote (.snpViewWrite m value) s m [.sys] [Reg.SNP_VIEW_on] fun d =>
      d.viewing m = bit v 0 ∧ (∀ j, j ≠ m → d.viewing j = c.viewing j) ∧
        d.sys = { c.sys with snp := { c.sys.snp with views := d.sys.snp.views } }) ∧
    (∀ cycle : Fin 499, c.lets m pdAON 0x1000C true →
      (v % 65536 = 0x5752 → Wrote (.pwrWarmWrite m value cycle) s m [.sys] [] fun d =>
        d.sys = if c.sys.pwr.reset.isSome then c.sys else { c.sys with pwr := { c.sys.pwr with
          warmAt := some (c.sys.pwr.warmAt.getD (c.now + 80 + (min cycle.val c.lastCycle + 249) / 250)) } }) ∧
      (v % 65536 ≠ 0x5752 → Ends (.pwrWarmWrite m value cycle) s fun t => t.core.out = [.bus m .slaveErr []] ∧
        Chip.only [] c t.core ∧ Chip.regsKept [Reg.GIO_STATUS_permit] c t.core)) ∧
    (c.lets m pdAON 0x10020 true → 10 ≤ v % 65536 → v % 65536 ≤ 60000 →
      (m = .mgmt → Wrote (.mgtWdtKick m value) s m [.sys] [Reg.PWR_MGT_WDT_period] fun d =>
        d.rd Reg.PWR_MGT_WDT_period = v % 65536 ∧ d.sys = { c.sys with pwr := { c.sys.pwr with
          wdtKick := if bit v 31 = true then c.sys.pwr.wdtKick.map fun _ => c.now else c.sys.pwr.wdtKick } }) ∧
      (m ≠ .mgmt → Ends (.mgtWdtKick m value) s fun t => t.core.out = [.bus m .slaveErr []] ∧
        Chip.only [.fresh] c t.core ∧ Chip.regsKept [Reg.GIO_STATUS_permit] c t.core)) ∧
    (∀ k : Fin 256, let at0 := c.rd Reg.MGT_LOAD_BASE_offset * 4 + 4 * k.val
      c.lets m pdAON (0x71000 + k.val * 4) true → c.rd Reg.MGT_BOOT_STATUS_state = 2 → at0 + 4 ≤ 0x400000 →
      Wrote (.mgtLoadWrite m k value) s m [.sys] [Reg.MGT_IMG_VERSION_version 0, Reg.MGT_IMG_INFO_verified 0,
          Reg.MGT_IMG_INFO_kind 0, Reg.MGT_IMG_INFO_active 0, Reg.MGT_IMG_INFO_staged 0] fun d =>
        (assocGet (at0 / 4) d.sys.mgt.area0).getD 0 = v ∧
        (∀ j, j ≠ at0 / 4 → assocGet j d.sys.mgt.area0 = assocGet j c.sys.mgt.area0) ∧
        d.flag (Reg.MGT_IMG_INFO_verified 0) = false ∧
        d.sys = { c.sys with mgt := { c.sys.mgt with area0 := d.sys.mgt.area0 } }) ∧
    (c.lets m pdAON 0x70004 true → m = .spi → bit v 8 = true → Ends (.mgtBootStart m value) s fun t =>
      t.core.out = [.bus m .slaveErr []] ∧ Chip.only [.fresh] c t.core ∧ Chip.regsKept [Reg.GIO_STATUS_permit] c t.core) ∧
    (c.lets m pdAON 0x70004 true → bit v 0 = true → (m = .spi → bit v 8 = false) →
      (c.rd Reg.MGT_BOOT_STATUS_state = 2 → Wrote (.mgtBootStart m value) s m [.sys] [Reg.MGT_BOOT_STATUS_state] fun d =>
        d.rd Reg.MGT_BOOT_STATUS_state = 3 ∧ d.sys = { c.sys with mgt := { c.sys.mgt with
          verify := some 0, source := if m = .spi then 0 else 1, testOk := bit v 8 } }) ∧
      (c.rd Reg.MGT_BOOT_STATUS_state ≠ 2 → Ends (.mgtBootStart m value) s fun t => t.core.out = [.bus m .slaveErr []] ∧
        Chip.only [.fresh] c t.core ∧ Chip.regsKept [Reg.GIO_STATUS_permit] c t.core)) ∧
    (c.lets m pdAON 0x70040 true → Wrote (.spiLockWrite m value) s m [] [Reg.MGT_SPI_CTL_lock] fun d =>
      d.flag Reg.MGT_SPI_CTL_lock = (c.flag Reg.MGT_SPI_CTL_lock || bit v 0))

/-- Writes of PWR_DOM_CMD, with no switch and no reset in progress: on with the parents on puts the domains that are off in
order, parents first, and the first powers up (R504, R505); off puts those that are on, children first, to be quiesced or, when
forced, removed at once (R506, R507). A write over the register window that takes PD_NET away waits 1 ms (R508). While another
switch runs, the write ends with SLAVE_ERR, but for a forced off that joins it (R504). -/
def Claim.DomainWrites : Prop :=
  ∀ (s : State) (m : Master) (value : Word), s.core.lets m pdAON 0x10024 true → value.toNat % 2 = 0 →
    let c := s.core
    let v := value.toNat
    let mask := v % 4096
    let idle := c.sys.pwr.sw = [] ∧ c.sys.pwr.later = none ∧ c.sys.pwr.reset = none
    (idle → bit v 16 = false → bit v 17 = false → (bit mask pdAPP = true → c.sys.mgt.running.isSome = true) →
      c.parentOff mask = none → (∃ d, d < 12 ∧ bit mask d = true ∧ c.shown d = false) →
      Wrote (.pwrDomOn m value) s m [.sys] (Reg.PWR_STATUS_switching :: (bitList 12 mask).map Reg.PWR_DOM_STATE_state) fun d =>
        (d.sys.pwr.sw.map fun w => (w.dom, w.act)) =
          ((parentsFirst.filter fun d => bit mask d && !c.shown d).map fun d => (d, 0)) ∧
        (∀ w l, d.sys.pwr.sw = w :: l → w.started = some c.now ∧ d.rd (Reg.PWR_DOM_STATE_state w.dom) = 1) ∧
        d.rd Reg.TOP_DOMAIN_ON_on = c.rd Reg.TOP_DOMAIN_ON_on) ∧
    (∀ i, i = .pwrDomOff m value ∧ bit v 17 = false ∧ bit v 16 = true ∨ i = .pwrDomForced m value ∧ bit v 17 = true →
      let l := c.offList mask
      idle → l ≠ [] → Wrote i s m [.sys] [Reg.PWR_STATUS_switching] fun d =>
        if m = .headgate ∧ pdNET ∈ l then d.sys.pwr.sw = [] ∧ d.sys.pwr.later = some (mask, bit v 17, c.now + 4000)
        else d.sys.pwr.later = none ∧
          d.sys.pwr.sw = l.map fun k => ⟨k, if bit v 17 = true then 2 else 1, Option.none⟩) ∧
    (c.sys.pwr.sw ≠ [] → (bit v 17 = false ∨ ∀ w ∈ c.sys.pwr.sw, w.act = 0) →
      ∀ i, i = .pwrDomOn m value ∨ i = .pwrDomOff m value ∨ i = .pwrDomForced m value → Ends i s fun t =>
        t.core.out = [.bus m .slaveErr []] ∧ Chip.only [.fresh] c t.core ∧ Chip.regsKept [Reg.GIO_STATUS_permit] c t.core)

/-- The register writes that act on snapshots, resets, the boot ROM and the power domains. -/
def Obligations.SystemWrites : Prop := Claim.ManagementWrites ∧ Claim.DomainWrites

/-- A DMA access to a register block completes with DECODE_ERR, and DMA reaches nothing of the register space but the table
windows (R29): from the DMA engine every read and write below the windows ends so, and changes nothing. -/
def Obligations.DmaReachesNoRegister : Prop :=
  ∀ (i : Instr) (a : Nat) (s : State), s.core.sys.pwr.porst = false → a < 0x1000000 →
    (busReadOf i = some (.dma, a) ∨ ∃ v, busWriteOf i = some (.dma, a, v)) → Ends i s fun t =>
      t.core.out = [.bus .dma .decodeErr []] ∧ Chip.only [.fresh] s.core t.core ∧
      Chip.regsKept [Reg.GIO_STATUS_permit] s.core t.core

/-- The fixed-pattern slots of contexts 24 and 25 complete every access with DECODE_ERR; their tables are held in DRAM, at
the address that stood in their context registers at the last commit (R36). -/
def Obligations.OverviewSlots : Prop :=
  (∀ (a v : Nat) (c : Chip), 0x02600000 ≤ a → a < 0x02680000 → winRead a c = (.decodeErr, 0) ∧ winWrite a v c = (.decodeErr, c)) ∧
  ∀ (n : Fin 32) (c : Chip) (x : Ctx), n.val = 24 ∨ n.val = 25 → c.img.ctxs[n.val]? = some x → x.fpnWait = true →
    let base := c.rdAddr (Reg.SVX_FPN_ADDR_LO_addr x.sieve n.val) (Reg.SVX_FPN_ADDR_HI_addr x.sieve n.val)
    let d := fpnCommit x.sieve n.val c
    ∀ w px py, d.fpnWord n.val w px py = le (c.dramRead (base + (py * w + px) * 4) 4)

/-- With C bytes of data per channel the populated DRAM space runs from 0 to 2C − 1: while the domain is on, an access ends
with DECODE_ERR exactly where it reaches 2C or above (R375). -/
def Obligations.PopulatedDram : Prop :=
  ∀ (c : Chip) (a n : Nat), c.on pdDRAM = true → (c.dramResp a n = .decodeErr ↔ 2 * c.dramChan < a + n)

/-! ### Ports, the step and the envelope at their rows (02, 15, 16) -/

/-- On a port that is on, a frame with a bad FCS counts in NET_n_RX_FCS and any other that is dropped in NET_n_RX_DROP; an ARP
request for NET_n_IP is answered to its sender; what the PCS reports shows as the port's link (R422–R424; the operands of that
row are the model's, log entry 52). The servo fixes the step with the drift and the master time that the first and the fourth of
the latest exchanges give (R43, R44, R430), and it is taken at the opening of the beat after the step beat (R44). ENVELOPE_LOAD
is DEFERRED; a structure that keeps every rule is then in force, one with a fault leaves the previous one and is logged, with a
reason that is the model's (log entry 23); ENVELOPE_STATUS tells (R90, R461). -/
def Obligations.PortsStepAndEnvelopeComplete : Prop :=
  ∀ s : State,
    let c := s.core
    (∀ (p : Path) (bad : Bool), c.sys.pwr.porst = false → c.portOn p = true → Ends (.rxFrameDropped p bad) s fun t =>
      t.core.rd (if bad then Reg.NET_RX_FCS_count p.code else Reg.NET_RX_DROP_count p.code) =
        min (c.rd (if bad then Reg.NET_RX_FCS_count p.code else Reg.NET_RX_DROP_count p.code) + 1) (2 ^ 32 - 1) ∧ t.core.out = []) ∧
    (∀ (p : Path) (target : BitVec 32) (mac : BitVec 48) (ip : BitVec 32), c.sys.pwr.porst = false → c.portOn p = true →
      c.rd (Reg.NET_IP_ip p.code) = target.toNat → target.toNat ≠ 0 → Ends (.arpRequest p target mac ip) s fun t =>
        t.core.out = [.arp p mac.toNat ip.toNat] ∧ t.core.host = c.host ∧ t.core.sys = c.sys) ∧
    (∀ (p : Path) (lock fault an : Bool), c.sys.pwr.porst = false → c.portOn p = true → Ends (.netLink p lock fault an) s fun t =>
      t.core.flag (Reg.NET_STATUS_link p.code) =
        (lock && !fault && (an || !(c.flag (Reg.NET_CTL_mode p.code) && c.flag (Reg.NET_CTL_an_en p.code)))) ∧ t.core.out = []) ∧
    (∀ o0 t0 x1 x2 o3 t3 l, c.hears → c.timeState = 1 → c.sys.net.servo.step = none → c.running = none →
      (∀ j ∈ c.host.jobs, ∀ b, j.st = 1 → j.start = some b → c.now + 4 < b) →
      (c.port c.ctlPath).offsets = (o0, t0) :: x1 :: x2 :: (o3, t3) :: l → t0 ≠ t3 → Ends .stepFix s fun t =>
        let ns := c.now + 4
        let drift : Rat := ((o0 - o3 : Int) : Rat) / ((t0 - t3 : Int) : Rat)
        let line : Int := 10 * c.timeOf ns
        let master : Int := ((((line - o0 : Int) : Rat) - drift * ((line - t0 : Int) : Rat)) / 10 + 1 / 2).floor
        let d := ((250 - master % 250) % 250).toNat
        ∃ k, t.core.sys.net.servo.step = some (ns, d, master + 250 + d, k)) ∧
    (∀ ns d m k, c.sys.pwr.porst = false → c.sys.net.servo.step = some (ns, d, m, k) → c.timeState = 1 → ns < c.now →
      Ends .timeStep s fun t => t.core.fix.epoch = m - 250 * ((ns + 1 : Nat) : Int) ∧ t.core.fix.beat = c.fix.beat ∧
        t.core.flag Reg.BT_STATUS_step_done = true) ∧
    (∀ (o : Origin) (addr : BitVec 64) (len : BitVec 32), c.obeys o 1 → c.free → c.on pdDRAM = true → addr.toNat < 2 ^ 36 →
      c.admitted = none → c.running = none → Ends (.envelopeLoad o addr len) s fun t => Replied o 0x30 0x08 [] c t.core ∧
        (t.core.host.sec.verify.map fun v => v.2) = (c.host.sec.verify.map fun v => v.2) ++ [(addr.toNat, len.toNat)]) ∧
    (∀ p addr len l, c.sys.pwr.porst = false → c.host.sec.verify = (p, addr, len) :: l → c.admitted = none → c.running = none →
      len ≤ 16384 → c.dramOk addr len = true →
      (c.envFault (c.dramRead addr len) = none → Ends .envelopeVerifyDone s fun t =>
        t.core.host.sec.envelope = some (Envelope.ofBytes (c.dramRead addr len)) ∧ t.core.host.sec.verify = l) ∧
      (∀ reason, c.envFault (c.dramRead addr len) = some reason → c.roomToLog → Ends .envelopeVerifyDone s fun t =>
        t.core.host.sec.envelope = c.host.sec.envelope ∧ t.core.host.sec.verify = l ∧
        t.core.rd Reg.SEC_ENV_ID_value = c.rd Reg.SEC_ENV_ID_value ∧
        t.core.logged 0x0C04 0 (u8 reason ++ u8 0 ++ u16 0 ++ u32 (leAt (c.dramRead addr len) 4 4)))) ∧
    ∀ o : Origin, c.admits o 1 → Ends (.envelopeStatus o) s fun t =>
      Replied o 0x31 0 (toBE 1 (c.rd Reg.SEC_STATUS_env_loaded) ++ toBE 3 0 ++ toBE 4 (c.rd Reg.SEC_ENV_ID_value) ++
        toBE 4 (c.rd Reg.SEC_ENV_KEY_value)) c t.core
end

