-- ==== Sys2Proof/Laws/Store.lean ====
section
/-! SUPPORT. Sparse data: reading after a write, and the canonical form that every write and deletion keeps. -/

namespace Sys2Proof.Machine

open Sys2Proof

variable {α : Type}

/-! ### Reads -/

@[simp] theorem assocGet_put_same (k : Nat) (v : α) (l : List (Nat × α)) : assocGet k (assocPut k v l) = some v := by
  induction l with
  | nil => simp [assocPut, assocGet]
  | cons p l ih =>
    obtain ⟨k', v'⟩ := p
    simp only [assocPut]
    split
    · simp [assocGet]
    · split
      · simp [assocGet]
      · rename_i _ h
        simp [assocGet, h, ih]

theorem assocGet_put_ne {j k : Nat} (h : j ≠ k) (v : α) (l : List (Nat × α)) :
    assocGet j (assocPut k v l) = assocGet j l := by
  induction l with
  | nil => simp [assocPut, assocGet, h]
  | cons p l ih =>
    obtain ⟨k', v'⟩ := p
    simp only [assocPut]
    split
    · simp [assocGet, h]
    · split
      · rename_i _ e
        subst e
        simp [assocGet, h]
      · simp [assocGet, ih]

theorem assocGet_del_same (k : Nat) (l : List (Nat × α)) : assocGet k (assocDel k l) = none := by
  induction l with
  | nil => rfl
  | cons p l ih =>
    obtain ⟨k', v'⟩ := p
    by_cases h : k' = k
    · subst h; simpa [assocDel] using ih
    · have h' : k ≠ k' := fun e => h e.symm
      simp only [assocDel] at ih
      simp [assocDel, h, assocGet, h', ih]

theorem assocGet_del_ne {j k : Nat} (h : j ≠ k) (l : List (Nat × α)) : assocGet j (assocDel k l) = assocGet j l := by
  induction l with
  | nil => rfl
  | cons p l ih =>
    obtain ⟨k', v'⟩ := p
    simp only [assocDel] at ih
    by_cases e : k' = k
    · subst e; simp [assocDel, assocGet, h, ih]
    · simp [assocDel, e, assocGet, ih]

/-- What an entry of a store reads after a write of it, `d` being what an unlisted key reads. -/
theorem storePut_same (k d v : Nat) (l : Store) : (assocGet k (storePut k d v l)).getD d = v := by
  unfold storePut
  split
  · rename_i h; simp [assocGet_del_same, h]
  · simp

theorem storePut_ne {j k : Nat} (h : j ≠ k) (d v : Nat) (l : Store) :
    assocGet j (storePut k d v l) = assocGet j l := by
  unfold storePut
  split
  · exact assocGet_del_ne h l
  · exact assocGet_put_ne h v l

/-! ### The canonical form -/

theorem mem_put_key {k : Nat} {v : α} {l : List (Nat × α)} {p : Nat × α} (h : p ∈ assocPut k v l) :
    p.1 = k ∨ p ∈ l := by
  induction l with
  | nil => simp [assocPut] at h; simp [h]
  | cons q l ih =>
    obtain ⟨k', v'⟩ := q
    simp only [assocPut] at h
    split at h
    · rcases List.mem_cons.1 h with e | e
      · simp [e]
      · exact .inr e
    · split at h
      · rcases List.mem_cons.1 h with e | e
        · simp [e]
        · exact .inr (List.mem_cons_of_mem _ e)
      · rcases List.mem_cons.1 h with e | e
        · exact .inr (by simp [e])
        · rcases ih e with e | e
          · exact .inl e
          · exact .inr (List.mem_cons_of_mem _ e)

theorem rising_put {k : Nat} {v : α} {l : List (Nat × α)} (h : Rising l) : Rising (assocPut k v l) := by
  induction l with
  | nil => simp [assocPut, Rising]
  | cons q l ih =>
    obtain ⟨k', v'⟩ := q
    have h' := List.pairwise_cons.1 h
    simp only [assocPut]
    split
    · rename_i lt
      refine List.pairwise_cons.2 ⟨fun p hp => ?_, h⟩
      rcases List.mem_cons.1 hp with e | e
      · simp [e, lt]
      · exact Nat.lt_trans lt (h'.1 p e)
    · split
      · rename_i _ e
        subst e
        exact List.pairwise_cons.2 ⟨h'.1, h'.2⟩
      · rename_i n1 n2
        refine List.pairwise_cons.2 ⟨fun p hp => ?_, ih h'.2⟩
        rcases mem_put_key hp with e | e
        · simp only [e]; omega
        · exact h'.1 p e

theorem rising_filter {l : List (Nat × α)} (f : Nat × α → Bool) (h : Rising l) : Rising (l.filter f) :=
  List.Pairwise.filter f h

theorem rising_del {k : Nat} {l : List (Nat × α)} (h : Rising l) : Rising (assocDel k l) := rising_filter _ h

theorem rising_storePut {k d v : Nat} {l : Store} (h : Rising l) : Rising (storePut k d v l) := by
  unfold storePut
  split
  · exact rising_del h
  · exact rising_put h

/-! ### DRAM bytes -/

theorem memory_wf_cellsPut {a : Nat} {bs : List Byte} {m : List Host.Cell} (h : Memory.wf m) :
    Memory.wf (cellsPut a bs m) := by
  induction bs generalizing a m with
  | nil => exact h
  | cons b bs ih => exact ih (rising_put h)

/-- Every operation on DRAM contents keeps their form: a write, and the loss of all. -/
theorem memory_wf_dramWrite {a : Nat} {bs : List Byte} {c : Chip} (h : Memory.wf c.dram) :
    Memory.wf (dramWrite a bs c).dram := memory_wf_cellsPut h

theorem memory_wf_dramLose (c : Chip) : Memory.wf (dramLose c).dram := List.Pairwise.nil

theorem memory_wf_dramLoseCh {n : Nat} {c : Chip} (h : Memory.wf c.dram) : Memory.wf (dramLoseCh n c).dram :=
  rising_filter _ h

theorem memory_wf_reset : Memory.wf State.reset.core.dram := List.Pairwise.nil

theorem cellsPut_outside {a b : Nat} {bs : List Byte} {m : List Host.Cell} (h : b < a ∨ a + bs.length ≤ b) :
    assocGet b (cellsPut a bs m) = assocGet b m := by
  induction bs generalizing a m with
  | nil => rfl
  | cons x bs ih =>
    simp only [List.length_cons] at h
    rw [cellsPut, ih (by omega), assocGet_put_ne (by omega)]

theorem cellsPut_inside {a k : Nat} {bs : List Byte} {m : List Host.Cell} (h : k < bs.length) :
    assocGet (a + k) (cellsPut a bs m) = bs[k]? := by
  induction bs generalizing a m k with
  | nil => simp at h
  | cons x bs ih =>
    cases k with
    | zero =>
      rw [cellsPut, cellsPut_outside (by omega)]
      simp
    | succ k =>
      have e : a + (k + 1) = a + 1 + k := by omega
      rw [cellsPut, e, ih (by simpa using h)]
      simp

/-- Bytes written to DRAM read back, where no queued write lies before them. -/
theorem dramRead_dramWrite {a : Nat} {bs : List Byte} {c : Chip} (hq : ∀ h ∈ c.mem.ch, h.wq = []) :
    (dramWrite a bs c).dramRead a bs.length = bs := by
  have hw : (c.mem.ch.flatMap fun h => h.wq) = [] := List.flatMap_eq_nil_iff.2 hq
  refine List.ext_getElem (by simp [Chip.dramRead]) fun k _ h => ?_
  simp [Chip.dramRead, Chip.dramByte, Chip.cell, dramWrite, hw, queuedByte, cellsPut_inside h, List.getElem?_eq_getElem h]

end Sys2Proof.Machine
end

