-- ==== Sys2Proof/Laws/State.lean ====
section
/-! SUPPORT. One lemma per field of the device and operation that leaves it as it is, and what a register field reads after
a write: later proofs unfold no record update. -/

namespace Sys2Proof.Machine

open Sys2Proof

/-! ### Register fields -/

theorem rd_wr_same (f : Fld) (v : Nat) (c : Chip) : (wr f v c).rd f = v % 2 ^ f.w := storePut_same _ _ _ _

theorem rd_wr_ne {f g : Fld} (h : g.key ≠ f.key) (v : Nat) (c : Chip) : (wr f v c).rd g = c.rd g := by
  simp only [Chip.rd, wr]
  rw [storePut_ne h]

theorem rd_wrB_same (f : Fld) (h : 0 < f.w) (b : Bool) (c : Chip) : (wrB f b c).rd f = b2n b := by
  have h1 : (1 : Nat) < 2 ^ f.w := Nat.one_lt_two_pow (by omega)
  rw [wrB, rd_wr_same]
  cases b
  · simp [b2n]
  · simpa [b2n] using Nat.mod_eq_of_lt h1

theorem rd_wr2_lo {lo hi : Fld} (h : lo.key ≠ hi.key) (v : Nat) (c : Chip) :
    (wr2 lo hi v c).rd lo = v % 2 ^ lo.w := by
  rw [wr2, rd_wr_ne h, rd_wr_same]

/-- A register field reads the same in devices whose register stores are equal. -/
theorem rd_congr {c d : Chip} (h : d.regs = c.regs) (f : Fld) : d.rd f = c.rd f := by simp [Chip.rd, h]

theorem flag_congr {c d : Chip} (h : d.regs = c.regs) (f : Fld) : d.flag f = c.flag f := by simp [Chip.flag, rd_congr h]

/-! ### wr -/

@[simp] theorem wr_tables (f : Fld) (v : Nat) (c : Chip) : (wr f v c).tables = c.tables := rfl
@[simp] theorem wr_fix (f : Fld) (v : Nat) (c : Chip) : (wr f v c).fix = c.fix := rfl
@[simp] theorem wr_crockMem (f : Fld) (v : Nat) (c : Chip) : (wr f v c).crockMem = c.crockMem := rfl
@[simp] theorem wr_fresh (f : Fld) (v : Nat) (c : Chip) : (wr f v c).fresh = c.fresh := rfl
@[simp] theorem wr_dram (f : Fld) (v : Nat) (c : Chip) : (wr f v c).dram = c.dram := rfl
@[simp] theorem wr_losses (f : Fld) (v : Nat) (c : Chip) : (wr f v c).losses = c.losses := rfl
@[simp] theorem wr_out (f : Fld) (v : Nat) (c : Chip) : (wr f v c).out = c.out := rfl
@[simp] theorem wr_hold (f : Fld) (v : Nat) (c : Chip) : (wr f v c).hold = c.hold := rfl
@[simp] theorem wr_fxHold (f : Fld) (v : Nat) (c : Chip) : (wr f v c).fxHold = c.fxHold := rfl
@[simp] theorem wr_host (f : Fld) (v : Nat) (c : Chip) : (wr f v c).host = c.host := rfl
@[simp] theorem wr_sys (f : Fld) (v : Nat) (c : Chip) : (wr f v c).sys = c.sys := rfl
@[simp] theorem wr_beam (f : Fld) (v : Nat) (c : Chip) : (wr f v c).beam = c.beam := rfl
@[simp] theorem wr_img (f : Fld) (v : Nat) (c : Chip) : (wr f v c).img = c.img := rfl
@[simp] theorem wr_lad (f : Fld) (v : Nat) (c : Chip) : (wr f v c).lad = c.lad := rfl
@[simp] theorem wr_mot (f : Fld) (v : Nat) (c : Chip) : (wr f v c).mot = c.mot := rfl
@[simp] theorem wr_kt (f : Fld) (v : Nat) (c : Chip) : (wr f v c).kt = c.kt := rfl
@[simp] theorem wr_mem (f : Fld) (v : Nat) (c : Chip) : (wr f v c).mem = c.mem := rfl

/-! ### wrB -/

@[simp] theorem wrB_tables (f : Fld) (b : Bool) (c : Chip) : (wrB f b c).tables = c.tables := rfl
@[simp] theorem wrB_fix (f : Fld) (b : Bool) (c : Chip) : (wrB f b c).fix = c.fix := rfl
@[simp] theorem wrB_crockMem (f : Fld) (b : Bool) (c : Chip) : (wrB f b c).crockMem = c.crockMem := rfl
@[simp] theorem wrB_fresh (f : Fld) (b : Bool) (c : Chip) : (wrB f b c).fresh = c.fresh := rfl
@[simp] theorem wrB_dram (f : Fld) (b : Bool) (c : Chip) : (wrB f b c).dram = c.dram := rfl
@[simp] theorem wrB_losses (f : Fld) (b : Bool) (c : Chip) : (wrB f b c).losses = c.losses := rfl
@[simp] theorem wrB_out (f : Fld) (b : Bool) (c : Chip) : (wrB f b c).out = c.out := rfl
@[simp] theorem wrB_hold (f : Fld) (b : Bool) (c : Chip) : (wrB f b c).hold = c.hold := rfl
@[simp] theorem wrB_fxHold (f : Fld) (b : Bool) (c : Chip) : (wrB f b c).fxHold = c.fxHold := rfl
@[simp] theorem wrB_host (f : Fld) (b : Bool) (c : Chip) : (wrB f b c).host = c.host := rfl
@[simp] theorem wrB_sys (f : Fld) (b : Bool) (c : Chip) : (wrB f b c).sys = c.sys := rfl
@[simp] theorem wrB_beam (f : Fld) (b : Bool) (c : Chip) : (wrB f b c).beam = c.beam := rfl
@[simp] theorem wrB_img (f : Fld) (b : Bool) (c : Chip) : (wrB f b c).img = c.img := rfl
@[simp] theorem wrB_lad (f : Fld) (b : Bool) (c : Chip) : (wrB f b c).lad = c.lad := rfl
@[simp] theorem wrB_mot (f : Fld) (b : Bool) (c : Chip) : (wrB f b c).mot = c.mot := rfl
@[simp] theorem wrB_kt (f : Fld) (b : Bool) (c : Chip) : (wrB f b c).kt = c.kt := rfl
@[simp] theorem wrB_mem (f : Fld) (b : Bool) (c : Chip) : (wrB f b c).mem = c.mem := rfl

/-! ### wrS -/

@[simp] theorem wrS_tables (f : Fld) (i : Int) (c : Chip) : (wrS f i c).tables = c.tables := rfl
@[simp] theorem wrS_fix (f : Fld) (i : Int) (c : Chip) : (wrS f i c).fix = c.fix := rfl
@[simp] theorem wrS_crockMem (f : Fld) (i : Int) (c : Chip) : (wrS f i c).crockMem = c.crockMem := rfl
@[simp] theorem wrS_fresh (f : Fld) (i : Int) (c : Chip) : (wrS f i c).fresh = c.fresh := rfl
@[simp] theorem wrS_dram (f : Fld) (i : Int) (c : Chip) : (wrS f i c).dram = c.dram := rfl
@[simp] theorem wrS_losses (f : Fld) (i : Int) (c : Chip) : (wrS f i c).losses = c.losses := rfl
@[simp] theorem wrS_out (f : Fld) (i : Int) (c : Chip) : (wrS f i c).out = c.out := rfl
@[simp] theorem wrS_hold (f : Fld) (i : Int) (c : Chip) : (wrS f i c).hold = c.hold := rfl
@[simp] theorem wrS_fxHold (f : Fld) (i : Int) (c : Chip) : (wrS f i c).fxHold = c.fxHold := rfl
@[simp] theorem wrS_host (f : Fld) (i : Int) (c : Chip) : (wrS f i c).host = c.host := rfl
@[simp] theorem wrS_sys (f : Fld) (i : Int) (c : Chip) : (wrS f i c).sys = c.sys := rfl
@[simp] theorem wrS_beam (f : Fld) (i : Int) (c : Chip) : (wrS f i c).beam = c.beam := rfl
@[simp] theorem wrS_img (f : Fld) (i : Int) (c : Chip) : (wrS f i c).img = c.img := rfl
@[simp] theorem wrS_lad (f : Fld) (i : Int) (c : Chip) : (wrS f i c).lad = c.lad := rfl
@[simp] theorem wrS_mot (f : Fld) (i : Int) (c : Chip) : (wrS f i c).mot = c.mot := rfl
@[simp] theorem wrS_kt (f : Fld) (i : Int) (c : Chip) : (wrS f i c).kt = c.kt := rfl
@[simp] theorem wrS_mem (f : Fld) (i : Int) (c : Chip) : (wrS f i c).mem = c.mem := rfl

/-! ### wr2 -/

@[simp] theorem wr2_tables (lo hi : Fld) (v : Nat) (c : Chip) : (wr2 lo hi v c).tables = c.tables := rfl
@[simp] theorem wr2_fix (lo hi : Fld) (v : Nat) (c : Chip) : (wr2 lo hi v c).fix = c.fix := rfl
@[simp] theorem wr2_crockMem (lo hi : Fld) (v : Nat) (c : Chip) : (wr2 lo hi v c).crockMem = c.crockMem := rfl
@[simp] theorem wr2_fresh (lo hi : Fld) (v : Nat) (c : Chip) : (wr2 lo hi v c).fresh = c.fresh := rfl
@[simp] theorem wr2_dram (lo hi : Fld) (v : Nat) (c : Chip) : (wr2 lo hi v c).dram = c.dram := rfl
@[simp] theorem wr2_losses (lo hi : Fld) (v : Nat) (c : Chip) : (wr2 lo hi v c).losses = c.losses := rfl
@[simp] theorem wr2_out (lo hi : Fld) (v : Nat) (c : Chip) : (wr2 lo hi v c).out = c.out := rfl
@[simp] theorem wr2_hold (lo hi : Fld) (v : Nat) (c : Chip) : (wr2 lo hi v c).hold = c.hold := rfl
@[simp] theorem wr2_fxHold (lo hi : Fld) (v : Nat) (c : Chip) : (wr2 lo hi v c).fxHold = c.fxHold := rfl
@[simp] theorem wr2_host (lo hi : Fld) (v : Nat) (c : Chip) : (wr2 lo hi v c).host = c.host := rfl
@[simp] theorem wr2_sys (lo hi : Fld) (v : Nat) (c : Chip) : (wr2 lo hi v c).sys = c.sys := rfl
@[simp] theorem wr2_beam (lo hi : Fld) (v : Nat) (c : Chip) : (wr2 lo hi v c).beam = c.beam := rfl
@[simp] theorem wr2_img (lo hi : Fld) (v : Nat) (c : Chip) : (wr2 lo hi v c).img = c.img := rfl
@[simp] theorem wr2_lad (lo hi : Fld) (v : Nat) (c : Chip) : (wr2 lo hi v c).lad = c.lad := rfl
@[simp] theorem wr2_mot (lo hi : Fld) (v : Nat) (c : Chip) : (wr2 lo hi v c).mot = c.mot := rfl
@[simp] theorem wr2_kt (lo hi : Fld) (v : Nat) (c : Chip) : (wr2 lo hi v c).kt = c.kt := rfl
@[simp] theorem wr2_mem (lo hi : Fld) (v : Nat) (c : Chip) : (wr2 lo hi v c).mem = c.mem := rfl

/-! ### wr48 -/

@[simp] theorem wr48_tables (lo hi : Fld) (i : Int) (c : Chip) : (wr48 lo hi i c).tables = c.tables := rfl
@[simp] theorem wr48_fix (lo hi : Fld) (i : Int) (c : Chip) : (wr48 lo hi i c).fix = c.fix := rfl
@[simp] theorem wr48_crockMem (lo hi : Fld) (i : Int) (c : Chip) : (wr48 lo hi i c).crockMem = c.crockMem := rfl
@[simp] theorem wr48_fresh (lo hi : Fld) (i : Int) (c : Chip) : (wr48 lo hi i c).fresh = c.fresh := rfl
@[simp] theorem wr48_dram (lo hi : Fld) (i : Int) (c : Chip) : (wr48 lo hi i c).dram = c.dram := rfl
@[simp] theorem wr48_losses (lo hi : Fld) (i : Int) (c : Chip) : (wr48 lo hi i c).losses = c.losses := rfl
@[simp] theorem wr48_out (lo hi : Fld) (i : Int) (c : Chip) : (wr48 lo hi i c).out = c.out := rfl
@[simp] theorem wr48_hold (lo hi : Fld) (i : Int) (c : Chip) : (wr48 lo hi i c).hold = c.hold := rfl
@[simp] theorem wr48_fxHold (lo hi : Fld) (i : Int) (c : Chip) : (wr48 lo hi i c).fxHold = c.fxHold := rfl
@[simp] theorem wr48_host (lo hi : Fld) (i : Int) (c : Chip) : (wr48 lo hi i c).host = c.host := rfl
@[simp] theorem wr48_sys (lo hi : Fld) (i : Int) (c : Chip) : (wr48 lo hi i c).sys = c.sys := rfl
@[simp] theorem wr48_beam (lo hi : Fld) (i : Int) (c : Chip) : (wr48 lo hi i c).beam = c.beam := rfl
@[simp] theorem wr48_img (lo hi : Fld) (i : Int) (c : Chip) : (wr48 lo hi i c).img = c.img := rfl
@[simp] theorem wr48_lad (lo hi : Fld) (i : Int) (c : Chip) : (wr48 lo hi i c).lad = c.lad := rfl
@[simp] theorem wr48_mot (lo hi : Fld) (i : Int) (c : Chip) : (wr48 lo hi i c).mot = c.mot := rfl
@[simp] theorem wr48_kt (lo hi : Fld) (i : Int) (c : Chip) : (wr48 lo hi i c).kt = c.kt := rfl
@[simp] theorem wr48_mem (lo hi : Fld) (i : Int) (c : Chip) : (wr48 lo hi i c).mem = c.mem := rfl

/-! ### incWrap -/

@[simp] theorem incWrap_tables (f : Fld) (c : Chip) : (incWrap f c).tables = c.tables := rfl
@[simp] theorem incWrap_fix (f : Fld) (c : Chip) : (incWrap f c).fix = c.fix := rfl
@[simp] theorem incWrap_crockMem (f : Fld) (c : Chip) : (incWrap f c).crockMem = c.crockMem := rfl
@[simp] theorem incWrap_fresh (f : Fld) (c : Chip) : (incWrap f c).fresh = c.fresh := rfl
@[simp] theorem incWrap_dram (f : Fld) (c : Chip) : (incWrap f c).dram = c.dram := rfl
@[simp] theorem incWrap_losses (f : Fld) (c : Chip) : (incWrap f c).losses = c.losses := rfl
@[simp] theorem incWrap_out (f : Fld) (c : Chip) : (incWrap f c).out = c.out := rfl
@[simp] theorem incWrap_hold (f : Fld) (c : Chip) : (incWrap f c).hold = c.hold := rfl
@[simp] theorem incWrap_fxHold (f : Fld) (c : Chip) : (incWrap f c).fxHold = c.fxHold := rfl
@[simp] theorem incWrap_host (f : Fld) (c : Chip) : (incWrap f c).host = c.host := rfl
@[simp] theorem incWrap_sys (f : Fld) (c : Chip) : (incWrap f c).sys = c.sys := rfl
@[simp] theorem incWrap_beam (f : Fld) (c : Chip) : (incWrap f c).beam = c.beam := rfl
@[simp] theorem incWrap_img (f : Fld) (c : Chip) : (incWrap f c).img = c.img := rfl
@[simp] theorem incWrap_lad (f : Fld) (c : Chip) : (incWrap f c).lad = c.lad := rfl
@[simp] theorem incWrap_mot (f : Fld) (c : Chip) : (incWrap f c).mot = c.mot := rfl
@[simp] theorem incWrap_kt (f : Fld) (c : Chip) : (incWrap f c).kt = c.kt := rfl
@[simp] theorem incWrap_mem (f : Fld) (c : Chip) : (incWrap f c).mem = c.mem := rfl

/-! ### inc -/

@[simp] theorem inc_tables (f g : Fld) (k : Nat) (c : Chip) : (inc f g k c).tables = c.tables := by unfold inc; split <;> rfl
@[simp] theorem inc_fix (f g : Fld) (k : Nat) (c : Chip) : (inc f g k c).fix = c.fix := by unfold inc; split <;> rfl
@[simp] theorem inc_crockMem (f g : Fld) (k : Nat) (c : Chip) : (inc f g k c).crockMem = c.crockMem := by unfold inc; split <;> rfl
@[simp] theorem inc_fresh (f g : Fld) (k : Nat) (c : Chip) : (inc f g k c).fresh = c.fresh := by unfold inc; split <;> rfl
@[simp] theorem inc_dram (f g : Fld) (k : Nat) (c : Chip) : (inc f g k c).dram = c.dram := by unfold inc; split <;> rfl
@[simp] theorem inc_losses (f g : Fld) (k : Nat) (c : Chip) : (inc f g k c).losses = c.losses := by unfold inc; split <;> rfl
@[simp] theorem inc_out (f g : Fld) (k : Nat) (c : Chip) : (inc f g k c).out = c.out := by unfold inc; split <;> rfl
@[simp] theorem inc_hold (f g : Fld) (k : Nat) (c : Chip) : (inc f g k c).hold = c.hold := by unfold inc; split <;> rfl
@[simp] theorem inc_fxHold (f g : Fld) (k : Nat) (c : Chip) : (inc f g k c).fxHold = c.fxHold := by unfold inc; split <;> rfl
@[simp] theorem inc_host (f g : Fld) (k : Nat) (c : Chip) : (inc f g k c).host = c.host := by unfold inc; split <;> rfl
@[simp] theorem inc_sys (f g : Fld) (k : Nat) (c : Chip) : (inc f g k c).sys = c.sys := by unfold inc; split <;> rfl
@[simp] theorem inc_beam (f g : Fld) (k : Nat) (c : Chip) : (inc f g k c).beam = c.beam := by unfold inc; split <;> rfl
@[simp] theorem inc_img (f g : Fld) (k : Nat) (c : Chip) : (inc f g k c).img = c.img := by unfold inc; split <;> rfl
@[simp] theorem inc_lad (f g : Fld) (k : Nat) (c : Chip) : (inc f g k c).lad = c.lad := by unfold inc; split <;> rfl
@[simp] theorem inc_mot (f g : Fld) (k : Nat) (c : Chip) : (inc f g k c).mot = c.mot := by unfold inc; split <;> rfl
@[simp] theorem inc_kt (f g : Fld) (k : Nat) (c : Chip) : (inc f g k c).kt = c.kt := by unfold inc; split <;> rfl
@[simp] theorem inc_mem (f g : Fld) (k : Nat) (c : Chip) : (inc f g k c).mem = c.mem := by unfold inc; split <;> rfl

/-! ### incBy -/

@[simp] theorem incBy_tables (n : Nat) (f g : Fld) (k : Nat) (c : Chip) : (incBy n f g k c).tables = c.tables := by unfold incBy; split <;> rfl
@[simp] theorem incBy_fix (n : Nat) (f g : Fld) (k : Nat) (c : Chip) : (incBy n f g k c).fix = c.fix := by unfold incBy; split <;> rfl
@[simp] theorem incBy_crockMem (n : Nat) (f g : Fld) (k : Nat) (c : Chip) : (incBy n f g k c).crockMem = c.crockMem := by unfold incBy; split <;> rfl
@[simp] theorem incBy_fresh (n : Nat) (f g : Fld) (k : Nat) (c : Chip) : (incBy n f g k c).fresh = c.fresh := by unfold incBy; split <;> rfl
@[simp] theorem incBy_dram (n : Nat) (f g : Fld) (k : Nat) (c : Chip) : (incBy n f g k c).dram = c.dram := by unfold incBy; split <;> rfl
@[simp] theorem incBy_losses (n : Nat) (f g : Fld) (k : Nat) (c : Chip) : (incBy n f g k c).losses = c.losses := by unfold incBy; split <;> rfl
@[simp] theorem incBy_out (n : Nat) (f g : Fld) (k : Nat) (c : Chip) : (incBy n f g k c).out = c.out := by unfold incBy; split <;> rfl
@[simp] theorem incBy_hold (n : Nat) (f g : Fld) (k : Nat) (c : Chip) : (incBy n f g k c).hold = c.hold := by unfold incBy; split <;> rfl
@[simp] theorem incBy_fxHold (n : Nat) (f g : Fld) (k : Nat) (c : Chip) : (incBy n f g k c).fxHold = c.fxHold := by unfold incBy; split <;> rfl
@[simp] theorem incBy_host (n : Nat) (f g : Fld) (k : Nat) (c : Chip) : (incBy n f g k c).host = c.host := by unfold incBy; split <;> rfl
@[simp] theorem incBy_sys (n : Nat) (f g : Fld) (k : Nat) (c : Chip) : (incBy n f g k c).sys = c.sys := by unfold incBy; split <;> rfl
@[simp] theorem incBy_beam (n : Nat) (f g : Fld) (k : Nat) (c : Chip) : (incBy n f g k c).beam = c.beam := by unfold incBy; split <;> rfl
@[simp] theorem incBy_img (n : Nat) (f g : Fld) (k : Nat) (c : Chip) : (incBy n f g k c).img = c.img := by unfold incBy; split <;> rfl
@[simp] theorem incBy_lad (n : Nat) (f g : Fld) (k : Nat) (c : Chip) : (incBy n f g k c).lad = c.lad := by unfold incBy; split <;> rfl
@[simp] theorem incBy_mot (n : Nat) (f g : Fld) (k : Nat) (c : Chip) : (incBy n f g k c).mot = c.mot := by unfold incBy; split <;> rfl
@[simp] theorem incBy_kt (n : Nat) (f g : Fld) (k : Nat) (c : Chip) : (incBy n f g k c).kt = c.kt := by unfold incBy; split <;> rfl
@[simp] theorem incBy_mem (n : Nat) (f g : Fld) (k : Nat) (c : Chip) : (incBy n f g k c).mem = c.mem := by unfold incBy; split <;> rfl

/-! ### incSat -/

@[simp] theorem incSat_tables (f : Fld) (c : Chip) : (incSat f c).tables = c.tables := by unfold incSat; split <;> rfl
@[simp] theorem incSat_fix (f : Fld) (c : Chip) : (incSat f c).fix = c.fix := by unfold incSat; split <;> rfl
@[simp] theorem incSat_crockMem (f : Fld) (c : Chip) : (incSat f c).crockMem = c.crockMem := by unfold incSat; split <;> rfl
@[simp] theorem incSat_fresh (f : Fld) (c : Chip) : (incSat f c).fresh = c.fresh := by unfold incSat; split <;> rfl
@[simp] theorem incSat_dram (f : Fld) (c : Chip) : (incSat f c).dram = c.dram := by unfold incSat; split <;> rfl
@[simp] theorem incSat_losses (f : Fld) (c : Chip) : (incSat f c).losses = c.losses := by unfold incSat; split <;> rfl
@[simp] theorem incSat_out (f : Fld) (c : Chip) : (incSat f c).out = c.out := by unfold incSat; split <;> rfl
@[simp] theorem incSat_hold (f : Fld) (c : Chip) : (incSat f c).hold = c.hold := by unfold incSat; split <;> rfl
@[simp] theorem incSat_fxHold (f : Fld) (c : Chip) : (incSat f c).fxHold = c.fxHold := by unfold incSat; split <;> rfl
@[simp] theorem incSat_host (f : Fld) (c : Chip) : (incSat f c).host = c.host := by unfold incSat; split <;> rfl
@[simp] theorem incSat_sys (f : Fld) (c : Chip) : (incSat f c).sys = c.sys := by unfold incSat; split <;> rfl
@[simp] theorem incSat_beam (f : Fld) (c : Chip) : (incSat f c).beam = c.beam := by unfold incSat; split <;> rfl
@[simp] theorem incSat_img (f : Fld) (c : Chip) : (incSat f c).img = c.img := by unfold incSat; split <;> rfl
@[simp] theorem incSat_lad (f : Fld) (c : Chip) : (incSat f c).lad = c.lad := by unfold incSat; split <;> rfl
@[simp] theorem incSat_mot (f : Fld) (c : Chip) : (incSat f c).mot = c.mot := by unfold incSat; split <;> rfl
@[simp] theorem incSat_kt (f : Fld) (c : Chip) : (incSat f c).kt = c.kt := by unfold incSat; split <;> rfl
@[simp] theorem incSat_mem (f : Fld) (c : Chip) : (incSat f c).mem = c.mem := by unfold incSat; split <;> rfl

/-! ### permitFall -/

@[simp] theorem permitFall_tables (c : Chip) : (permitFall c).tables = c.tables := by unfold permitFall; split <;> rfl
@[simp] theorem permitFall_fix (c : Chip) : (permitFall c).fix = c.fix := by unfold permitFall; split <;> rfl
@[simp] theorem permitFall_crockMem (c : Chip) : (permitFall c).crockMem = c.crockMem := by unfold permitFall; split <;> rfl
@[simp] theorem permitFall_fresh (c : Chip) : (permitFall c).fresh = c.fresh := by unfold permitFall; split <;> rfl
@[simp] theorem permitFall_dram (c : Chip) : (permitFall c).dram = c.dram := by unfold permitFall; split <;> rfl
@[simp] theorem permitFall_losses (c : Chip) : (permitFall c).losses = c.losses := by unfold permitFall; split <;> rfl
@[simp] theorem permitFall_out (c : Chip) : (permitFall c).out = c.out := by unfold permitFall; split <;> rfl
@[simp] theorem permitFall_hold (c : Chip) : (permitFall c).hold = c.hold := by unfold permitFall; split <;> rfl
@[simp] theorem permitFall_fxHold (c : Chip) : (permitFall c).fxHold = c.fxHold := by unfold permitFall; split <;> rfl
@[simp] theorem permitFall_host (c : Chip) : (permitFall c).host = c.host := by unfold permitFall; split <;> rfl
@[simp] theorem permitFall_sys (c : Chip) : (permitFall c).sys = c.sys := by unfold permitFall; split <;> rfl
@[simp] theorem permitFall_beam (c : Chip) : (permitFall c).beam = c.beam := by unfold permitFall; split <;> rfl
@[simp] theorem permitFall_img (c : Chip) : (permitFall c).img = c.img := by unfold permitFall; split <;> rfl
@[simp] theorem permitFall_lad (c : Chip) : (permitFall c).lad = c.lad := by unfold permitFall; split <;> rfl
@[simp] theorem permitFall_mot (c : Chip) : (permitFall c).mot = c.mot := by unfold permitFall; split <;> rfl
@[simp] theorem permitFall_kt (c : Chip) : (permitFall c).kt = c.kt := by unfold permitFall; split <;> rfl
@[simp] theorem permitFall_mem (c : Chip) : (permitFall c).mem = c.mem := by unfold permitFall; split <;> rfl

/-! ### clearRange -/

@[simp] theorem clearRange_tables (lo hi : Nat) (c : Chip) : (clearRange lo hi c).tables = c.tables := rfl
@[simp] theorem clearRange_fix (lo hi : Nat) (c : Chip) : (clearRange lo hi c).fix = c.fix := rfl
@[simp] theorem clearRange_crockMem (lo hi : Nat) (c : Chip) : (clearRange lo hi c).crockMem = c.crockMem := rfl
@[simp] theorem clearRange_fresh (lo hi : Nat) (c : Chip) : (clearRange lo hi c).fresh = c.fresh := rfl
@[simp] theorem clearRange_dram (lo hi : Nat) (c : Chip) : (clearRange lo hi c).dram = c.dram := rfl
@[simp] theorem clearRange_losses (lo hi : Nat) (c : Chip) : (clearRange lo hi c).losses = c.losses := rfl
@[simp] theorem clearRange_out (lo hi : Nat) (c : Chip) : (clearRange lo hi c).out = c.out := rfl
@[simp] theorem clearRange_hold (lo hi : Nat) (c : Chip) : (clearRange lo hi c).hold = c.hold := rfl
@[simp] theorem clearRange_fxHold (lo hi : Nat) (c : Chip) : (clearRange lo hi c).fxHold = c.fxHold := rfl
@[simp] theorem clearRange_host (lo hi : Nat) (c : Chip) : (clearRange lo hi c).host = c.host := rfl
@[simp] theorem clearRange_sys (lo hi : Nat) (c : Chip) : (clearRange lo hi c).sys = c.sys := rfl
@[simp] theorem clearRange_beam (lo hi : Nat) (c : Chip) : (clearRange lo hi c).beam = c.beam := rfl
@[simp] theorem clearRange_img (lo hi : Nat) (c : Chip) : (clearRange lo hi c).img = c.img := rfl
@[simp] theorem clearRange_lad (lo hi : Nat) (c : Chip) : (clearRange lo hi c).lad = c.lad := rfl
@[simp] theorem clearRange_mot (lo hi : Nat) (c : Chip) : (clearRange lo hi c).mot = c.mot := rfl
@[simp] theorem clearRange_kt (lo hi : Nat) (c : Chip) : (clearRange lo hi c).kt = c.kt := rfl
@[simp] theorem clearRange_mem (lo hi : Nat) (c : Chip) : (clearRange lo hi c).mem = c.mem := rfl

/-! ### showDomains -/

@[simp] theorem showDomains_tables (m : Nat) (c : Chip) : (showDomains m c).tables = c.tables := rfl
@[simp] theorem showDomains_fix (m : Nat) (c : Chip) : (showDomains m c).fix = c.fix := rfl
@[simp] theorem showDomains_crockMem (m : Nat) (c : Chip) : (showDomains m c).crockMem = c.crockMem := rfl
@[simp] theorem showDomains_fresh (m : Nat) (c : Chip) : (showDomains m c).fresh = c.fresh := rfl
@[simp] theorem showDomains_dram (m : Nat) (c : Chip) : (showDomains m c).dram = c.dram := rfl
@[simp] theorem showDomains_losses (m : Nat) (c : Chip) : (showDomains m c).losses = c.losses := rfl
@[simp] theorem showDomains_out (m : Nat) (c : Chip) : (showDomains m c).out = c.out := rfl
@[simp] theorem showDomains_hold (m : Nat) (c : Chip) : (showDomains m c).hold = c.hold := rfl
@[simp] theorem showDomains_fxHold (m : Nat) (c : Chip) : (showDomains m c).fxHold = c.fxHold := rfl
@[simp] theorem showDomains_host (m : Nat) (c : Chip) : (showDomains m c).host = c.host := rfl
@[simp] theorem showDomains_sys (m : Nat) (c : Chip) : (showDomains m c).sys = c.sys := rfl
@[simp] theorem showDomains_beam (m : Nat) (c : Chip) : (showDomains m c).beam = c.beam := rfl
@[simp] theorem showDomains_img (m : Nat) (c : Chip) : (showDomains m c).img = c.img := rfl
@[simp] theorem showDomains_lad (m : Nat) (c : Chip) : (showDomains m c).lad = c.lad := rfl
@[simp] theorem showDomains_mot (m : Nat) (c : Chip) : (showDomains m c).mot = c.mot := rfl
@[simp] theorem showDomains_kt (m : Nat) (c : Chip) : (showDomains m c).kt = c.kt := rfl
@[simp] theorem showDomains_mem (m : Nat) (c : Chip) : (showDomains m c).mem = c.mem := rfl

/-! ### wrWord -/

@[simp] theorem wrWord_regs (d a v : Nat) (c : Chip) : (wrWord d a v c).regs = c.regs := rfl
@[simp] theorem wrWord_fix (d a v : Nat) (c : Chip) : (wrWord d a v c).fix = c.fix := rfl
@[simp] theorem wrWord_crockMem (d a v : Nat) (c : Chip) : (wrWord d a v c).crockMem = c.crockMem := rfl
@[simp] theorem wrWord_fresh (d a v : Nat) (c : Chip) : (wrWord d a v c).fresh = c.fresh := rfl
@[simp] theorem wrWord_dram (d a v : Nat) (c : Chip) : (wrWord d a v c).dram = c.dram := rfl
@[simp] theorem wrWord_losses (d a v : Nat) (c : Chip) : (wrWord d a v c).losses = c.losses := rfl
@[simp] theorem wrWord_out (d a v : Nat) (c : Chip) : (wrWord d a v c).out = c.out := rfl
@[simp] theorem wrWord_hold (d a v : Nat) (c : Chip) : (wrWord d a v c).hold = c.hold := rfl
@[simp] theorem wrWord_fxHold (d a v : Nat) (c : Chip) : (wrWord d a v c).fxHold = c.fxHold := rfl
@[simp] theorem wrWord_host (d a v : Nat) (c : Chip) : (wrWord d a v c).host = c.host := rfl
@[simp] theorem wrWord_sys (d a v : Nat) (c : Chip) : (wrWord d a v c).sys = c.sys := rfl
@[simp] theorem wrWord_beam (d a v : Nat) (c : Chip) : (wrWord d a v c).beam = c.beam := rfl
@[simp] theorem wrWord_img (d a v : Nat) (c : Chip) : (wrWord d a v c).img = c.img := rfl
@[simp] theorem wrWord_lad (d a v : Nat) (c : Chip) : (wrWord d a v c).lad = c.lad := rfl
@[simp] theorem wrWord_mot (d a v : Nat) (c : Chip) : (wrWord d a v c).mot = c.mot := rfl
@[simp] theorem wrWord_kt (d a v : Nat) (c : Chip) : (wrWord d a v c).kt = c.kt := rfl
@[simp] theorem wrWord_mem (d a v : Nat) (c : Chip) : (wrWord d a v c).mem = c.mem := rfl
@[simp] theorem wrWord_rd (d a v : Nat) (c : Chip) (g : Fld) : (wrWord d a v c).rd g = c.rd g := rd_congr (by simp) g

/-! ### clearTables -/

@[simp] theorem clearTables_regs (lo hi : Nat) (c : Chip) : (clearTables lo hi c).regs = c.regs := rfl
@[simp] theorem clearTables_fix (lo hi : Nat) (c : Chip) : (clearTables lo hi c).fix = c.fix := rfl
@[simp] theorem clearTables_crockMem (lo hi : Nat) (c : Chip) : (clearTables lo hi c).crockMem = c.crockMem := rfl
@[simp] theorem clearTables_fresh (lo hi : Nat) (c : Chip) : (clearTables lo hi c).fresh = c.fresh := rfl
@[simp] theorem clearTables_dram (lo hi : Nat) (c : Chip) : (clearTables lo hi c).dram = c.dram := rfl
@[simp] theorem clearTables_losses (lo hi : Nat) (c : Chip) : (clearTables lo hi c).losses = c.losses := rfl
@[simp] theorem clearTables_out (lo hi : Nat) (c : Chip) : (clearTables lo hi c).out = c.out := rfl
@[simp] theorem clearTables_hold (lo hi : Nat) (c : Chip) : (clearTables lo hi c).hold = c.hold := rfl
@[simp] theorem clearTables_fxHold (lo hi : Nat) (c : Chip) : (clearTables lo hi c).fxHold = c.fxHold := rfl
@[simp] theorem clearTables_host (lo hi : Nat) (c : Chip) : (clearTables lo hi c).host = c.host := rfl
@[simp] theorem clearTables_sys (lo hi : Nat) (c : Chip) : (clearTables lo hi c).sys = c.sys := rfl
@[simp] theorem clearTables_beam (lo hi : Nat) (c : Chip) : (clearTables lo hi c).beam = c.beam := rfl
@[simp] theorem clearTables_img (lo hi : Nat) (c : Chip) : (clearTables lo hi c).img = c.img := rfl
@[simp] theorem clearTables_lad (lo hi : Nat) (c : Chip) : (clearTables lo hi c).lad = c.lad := rfl
@[simp] theorem clearTables_mot (lo hi : Nat) (c : Chip) : (clearTables lo hi c).mot = c.mot := rfl
@[simp] theorem clearTables_kt (lo hi : Nat) (c : Chip) : (clearTables lo hi c).kt = c.kt := rfl
@[simp] theorem clearTables_mem (lo hi : Nat) (c : Chip) : (clearTables lo hi c).mem = c.mem := rfl
@[simp] theorem clearTables_rd (lo hi : Nat) (c : Chip) (g : Fld) : (clearTables lo hi c).rd g = c.rd g := rd_congr (by simp) g

/-! ### send -/

@[simp] theorem send_regs (t : Tx) (c : Chip) : (send t c).regs = c.regs := rfl
@[simp] theorem send_tables (t : Tx) (c : Chip) : (send t c).tables = c.tables := rfl
@[simp] theorem send_fix (t : Tx) (c : Chip) : (send t c).fix = c.fix := rfl
@[simp] theorem send_crockMem (t : Tx) (c : Chip) : (send t c).crockMem = c.crockMem := rfl
@[simp] theorem send_fresh (t : Tx) (c : Chip) : (send t c).fresh = c.fresh := rfl
@[simp] theorem send_dram (t : Tx) (c : Chip) : (send t c).dram = c.dram := rfl
@[simp] theorem send_losses (t : Tx) (c : Chip) : (send t c).losses = c.losses := rfl
@[simp] theorem send_hold (t : Tx) (c : Chip) : (send t c).hold = c.hold := rfl
@[simp] theorem send_fxHold (t : Tx) (c : Chip) : (send t c).fxHold = c.fxHold := rfl
@[simp] theorem send_host (t : Tx) (c : Chip) : (send t c).host = c.host := rfl
@[simp] theorem send_sys (t : Tx) (c : Chip) : (send t c).sys = c.sys := rfl
@[simp] theorem send_beam (t : Tx) (c : Chip) : (send t c).beam = c.beam := rfl
@[simp] theorem send_img (t : Tx) (c : Chip) : (send t c).img = c.img := rfl
@[simp] theorem send_lad (t : Tx) (c : Chip) : (send t c).lad = c.lad := rfl
@[simp] theorem send_mot (t : Tx) (c : Chip) : (send t c).mot = c.mot := rfl
@[simp] theorem send_kt (t : Tx) (c : Chip) : (send t c).kt = c.kt := rfl
@[simp] theorem send_mem (t : Tx) (c : Chip) : (send t c).mem = c.mem := rfl
@[simp] theorem send_rd (t : Tx) (c : Chip) (g : Fld) : (send t c).rd g = c.rd g := rd_congr (by simp) g

/-! ### dramWrite -/

@[simp] theorem dramWrite_regs (a : Nat) (l : List Byte) (c : Chip) : (dramWrite a l c).regs = c.regs := rfl
@[simp] theorem dramWrite_tables (a : Nat) (l : List Byte) (c : Chip) : (dramWrite a l c).tables = c.tables := rfl
@[simp] theorem dramWrite_fix (a : Nat) (l : List Byte) (c : Chip) : (dramWrite a l c).fix = c.fix := rfl
@[simp] theorem dramWrite_crockMem (a : Nat) (l : List Byte) (c : Chip) : (dramWrite a l c).crockMem = c.crockMem := rfl
@[simp] theorem dramWrite_fresh (a : Nat) (l : List Byte) (c : Chip) : (dramWrite a l c).fresh = c.fresh := rfl
@[simp] theorem dramWrite_losses (a : Nat) (l : List Byte) (c : Chip) : (dramWrite a l c).losses = c.losses := rfl
@[simp] theorem dramWrite_out (a : Nat) (l : List Byte) (c : Chip) : (dramWrite a l c).out = c.out := rfl
@[simp] theorem dramWrite_hold (a : Nat) (l : List Byte) (c : Chip) : (dramWrite a l c).hold = c.hold := rfl
@[simp] theorem dramWrite_fxHold (a : Nat) (l : List Byte) (c : Chip) : (dramWrite a l c).fxHold = c.fxHold := rfl
@[simp] theorem dramWrite_host (a : Nat) (l : List Byte) (c : Chip) : (dramWrite a l c).host = c.host := rfl
@[simp] theorem dramWrite_sys (a : Nat) (l : List Byte) (c : Chip) : (dramWrite a l c).sys = c.sys := rfl
@[simp] theorem dramWrite_beam (a : Nat) (l : List Byte) (c : Chip) : (dramWrite a l c).beam = c.beam := rfl
@[simp] theorem dramWrite_img (a : Nat) (l : List Byte) (c : Chip) : (dramWrite a l c).img = c.img := rfl
@[simp] theorem dramWrite_lad (a : Nat) (l : List Byte) (c : Chip) : (dramWrite a l c).lad = c.lad := rfl
@[simp] theorem dramWrite_mot (a : Nat) (l : List Byte) (c : Chip) : (dramWrite a l c).mot = c.mot := rfl
@[simp] theorem dramWrite_kt (a : Nat) (l : List Byte) (c : Chip) : (dramWrite a l c).kt = c.kt := rfl
@[simp] theorem dramWrite_mem (a : Nat) (l : List Byte) (c : Chip) : (dramWrite a l c).mem = c.mem := rfl
@[simp] theorem dramWrite_rd (a : Nat) (l : List Byte) (c : Chip) (g : Fld) : (dramWrite a l c).rd g = c.rd g := rd_congr (by simp) g

/-! ### dramLose -/

@[simp] theorem dramLose_regs (c : Chip) : (dramLose c).regs = c.regs := rfl
@[simp] theorem dramLose_tables (c : Chip) : (dramLose c).tables = c.tables := rfl
@[simp] theorem dramLose_fix (c : Chip) : (dramLose c).fix = c.fix := rfl
@[simp] theorem dramLose_crockMem (c : Chip) : (dramLose c).crockMem = c.crockMem := rfl
@[simp] theorem dramLose_fresh (c : Chip) : (dramLose c).fresh = c.fresh := rfl
@[simp] theorem dramLose_out (c : Chip) : (dramLose c).out = c.out := rfl
@[simp] theorem dramLose_hold (c : Chip) : (dramLose c).hold = c.hold := rfl
@[simp] theorem dramLose_fxHold (c : Chip) : (dramLose c).fxHold = c.fxHold := rfl
@[simp] theorem dramLose_host (c : Chip) : (dramLose c).host = c.host := rfl
@[simp] theorem dramLose_sys (c : Chip) : (dramLose c).sys = c.sys := rfl
@[simp] theorem dramLose_beam (c : Chip) : (dramLose c).beam = c.beam := rfl
@[simp] theorem dramLose_img (c : Chip) : (dramLose c).img = c.img := rfl
@[simp] theorem dramLose_lad (c : Chip) : (dramLose c).lad = c.lad := rfl
@[simp] theorem dramLose_mot (c : Chip) : (dramLose c).mot = c.mot := rfl
@[simp] theorem dramLose_kt (c : Chip) : (dramLose c).kt = c.kt := rfl
@[simp] theorem dramLose_mem (c : Chip) : (dramLose c).mem = c.mem := rfl
@[simp] theorem dramLose_rd (c : Chip) (g : Fld) : (dramLose c).rd g = c.rd g := rd_congr (by simp) g

/-! ### sluice -/

@[simp] theorem sluice_regs (r u : Nat) (w : Bool) (a : Nat) (d : List Byte) (c : Chip) : (sluice r u w a d c).regs = c.regs := rfl
@[simp] theorem sluice_tables (r u : Nat) (w : Bool) (a : Nat) (d : List Byte) (c : Chip) : (sluice r u w a d c).tables = c.tables := rfl
@[simp] theorem sluice_fix (r u : Nat) (w : Bool) (a : Nat) (d : List Byte) (c : Chip) : (sluice r u w a d c).fix = c.fix := rfl
@[simp] theorem sluice_crockMem (r u : Nat) (w : Bool) (a : Nat) (d : List Byte) (c : Chip) : (sluice r u w a d c).crockMem = c.crockMem := rfl
@[simp] theorem sluice_fresh (r u : Nat) (w : Bool) (a : Nat) (d : List Byte) (c : Chip) : (sluice r u w a d c).fresh = c.fresh := rfl
@[simp] theorem sluice_dram (r u : Nat) (w : Bool) (a : Nat) (d : List Byte) (c : Chip) : (sluice r u w a d c).dram = c.dram := rfl
@[simp] theorem sluice_losses (r u : Nat) (w : Bool) (a : Nat) (d : List Byte) (c : Chip) : (sluice r u w a d c).losses = c.losses := rfl
@[simp] theorem sluice_out (r u : Nat) (w : Bool) (a : Nat) (d : List Byte) (c : Chip) : (sluice r u w a d c).out = c.out := rfl
@[simp] theorem sluice_hold (r u : Nat) (w : Bool) (a : Nat) (d : List Byte) (c : Chip) : (sluice r u w a d c).hold = c.hold := rfl
@[simp] theorem sluice_fxHold (r u : Nat) (w : Bool) (a : Nat) (d : List Byte) (c : Chip) : (sluice r u w a d c).fxHold = c.fxHold := rfl
@[simp] theorem sluice_host (r u : Nat) (w : Bool) (a : Nat) (d : List Byte) (c : Chip) : (sluice r u w a d c).host = c.host := rfl
@[simp] theorem sluice_sys (r u : Nat) (w : Bool) (a : Nat) (d : List Byte) (c : Chip) : (sluice r u w a d c).sys = c.sys := rfl
@[simp] theorem sluice_beam (r u : Nat) (w : Bool) (a : Nat) (d : List Byte) (c : Chip) : (sluice r u w a d c).beam = c.beam := rfl
@[simp] theorem sluice_img (r u : Nat) (w : Bool) (a : Nat) (d : List Byte) (c : Chip) : (sluice r u w a d c).img = c.img := rfl
@[simp] theorem sluice_lad (r u : Nat) (w : Bool) (a : Nat) (d : List Byte) (c : Chip) : (sluice r u w a d c).lad = c.lad := rfl
@[simp] theorem sluice_mot (r u : Nat) (w : Bool) (a : Nat) (d : List Byte) (c : Chip) : (sluice r u w a d c).mot = c.mot := rfl
@[simp] theorem sluice_kt (r u : Nat) (w : Bool) (a : Nat) (d : List Byte) (c : Chip) : (sluice r u w a d c).kt = c.kt := rfl
@[simp] theorem sluice_rd (r u : Nat) (w : Bool) (a : Nat) (d : List Byte) (c : Chip) (g : Fld) : (sluice r u w a d c).rd g = c.rd g := rd_congr (by simp) g

/-! ### modSession -/

@[simp] theorem modSession_regs (k : Nat) (f : Session → Session) (c : Chip) : (modSession k f c).regs = c.regs := rfl
@[simp] theorem modSession_tables (k : Nat) (f : Session → Session) (c : Chip) : (modSession k f c).tables = c.tables := rfl
@[simp] theorem modSession_fix (k : Nat) (f : Session → Session) (c : Chip) : (modSession k f c).fix = c.fix := rfl
@[simp] theorem modSession_crockMem (k : Nat) (f : Session → Session) (c : Chip) : (modSession k f c).crockMem = c.crockMem := rfl
@[simp] theorem modSession_fresh (k : Nat) (f : Session → Session) (c : Chip) : (modSession k f c).fresh = c.fresh := rfl
@[simp] theorem modSession_dram (k : Nat) (f : Session → Session) (c : Chip) : (modSession k f c).dram = c.dram := rfl
@[simp] theorem modSession_losses (k : Nat) (f : Session → Session) (c : Chip) : (modSession k f c).losses = c.losses := rfl
@[simp] theorem modSession_out (k : Nat) (f : Session → Session) (c : Chip) : (modSession k f c).out = c.out := rfl
@[simp] theorem modSession_hold (k : Nat) (f : Session → Session) (c : Chip) : (modSession k f c).hold = c.hold := rfl
@[simp] theorem modSession_fxHold (k : Nat) (f : Session → Session) (c : Chip) : (modSession k f c).fxHold = c.fxHold := rfl
@[simp] theorem modSession_sys (k : Nat) (f : Session → Session) (c : Chip) : (modSession k f c).sys = c.sys := rfl
@[simp] theorem modSession_beam (k : Nat) (f : Session → Session) (c : Chip) : (modSession k f c).beam = c.beam := rfl
@[simp] theorem modSession_img (k : Nat) (f : Session → Session) (c : Chip) : (modSession k f c).img = c.img := rfl
@[simp] theorem modSession_lad (k : Nat) (f : Session → Session) (c : Chip) : (modSession k f c).lad = c.lad := rfl
@[simp] theorem modSession_mot (k : Nat) (f : Session → Session) (c : Chip) : (modSession k f c).mot = c.mot := rfl
@[simp] theorem modSession_kt (k : Nat) (f : Session → Session) (c : Chip) : (modSession k f c).kt = c.kt := rfl
@[simp] theorem modSession_mem (k : Nat) (f : Session → Session) (c : Chip) : (modSession k f c).mem = c.mem := rfl
@[simp] theorem modSession_rd (k : Nat) (f : Session → Session) (c : Chip) (g : Fld) : (modSession k f c).rd g = c.rd g := rd_congr (by simp) g

/-! ### modJob -/

@[simp] theorem modJob_regs (k : Nat) (f : Job → Job) (c : Chip) : (modJob k f c).regs = c.regs := rfl
@[simp] theorem modJob_tables (k : Nat) (f : Job → Job) (c : Chip) : (modJob k f c).tables = c.tables := rfl
@[simp] theorem modJob_fix (k : Nat) (f : Job → Job) (c : Chip) : (modJob k f c).fix = c.fix := rfl
@[simp] theorem modJob_crockMem (k : Nat) (f : Job → Job) (c : Chip) : (modJob k f c).crockMem = c.crockMem := rfl
@[simp] theorem modJob_fresh (k : Nat) (f : Job → Job) (c : Chip) : (modJob k f c).fresh = c.fresh := rfl
@[simp] theorem modJob_dram (k : Nat) (f : Job → Job) (c : Chip) : (modJob k f c).dram = c.dram := rfl
@[simp] theorem modJob_losses (k : Nat) (f : Job → Job) (c : Chip) : (modJob k f c).losses = c.losses := rfl
@[simp] theorem modJob_out (k : Nat) (f : Job → Job) (c : Chip) : (modJob k f c).out = c.out := rfl
@[simp] theorem modJob_hold (k : Nat) (f : Job → Job) (c : Chip) : (modJob k f c).hold = c.hold := rfl
@[simp] theorem modJob_fxHold (k : Nat) (f : Job → Job) (c : Chip) : (modJob k f c).fxHold = c.fxHold := rfl
@[simp] theorem modJob_sys (k : Nat) (f : Job → Job) (c : Chip) : (modJob k f c).sys = c.sys := rfl
@[simp] theorem modJob_beam (k : Nat) (f : Job → Job) (c : Chip) : (modJob k f c).beam = c.beam := rfl
@[simp] theorem modJob_img (k : Nat) (f : Job → Job) (c : Chip) : (modJob k f c).img = c.img := rfl
@[simp] theorem modJob_lad (k : Nat) (f : Job → Job) (c : Chip) : (modJob k f c).lad = c.lad := rfl
@[simp] theorem modJob_mot (k : Nat) (f : Job → Job) (c : Chip) : (modJob k f c).mot = c.mot := rfl
@[simp] theorem modJob_kt (k : Nat) (f : Job → Job) (c : Chip) : (modJob k f c).kt = c.kt := rfl
@[simp] theorem modJob_mem (k : Nat) (f : Job → Job) (c : Chip) : (modJob k f c).mem = c.mem := rfl
@[simp] theorem modJob_rd (k : Nat) (f : Job → Job) (c : Chip) (g : Fld) : (modJob k f c).rd g = c.rd g := rd_congr (by simp) g

/-! ### modJobs -/

@[simp] theorem modJobs_regs (f : List Job → List Job) (c : Chip) : (modJobs f c).regs = c.regs := rfl
@[simp] theorem modJobs_tables (f : List Job → List Job) (c : Chip) : (modJobs f c).tables = c.tables := rfl
@[simp] theorem modJobs_fix (f : List Job → List Job) (c : Chip) : (modJobs f c).fix = c.fix := rfl
@[simp] theorem modJobs_crockMem (f : List Job → List Job) (c : Chip) : (modJobs f c).crockMem = c.crockMem := rfl
@[simp] theorem modJobs_fresh (f : List Job → List Job) (c : Chip) : (modJobs f c).fresh = c.fresh := rfl
@[simp] theorem modJobs_dram (f : List Job → List Job) (c : Chip) : (modJobs f c).dram = c.dram := rfl
@[simp] theorem modJobs_losses (f : List Job → List Job) (c : Chip) : (modJobs f c).losses = c.losses := rfl
@[simp] theorem modJobs_out (f : List Job → List Job) (c : Chip) : (modJobs f c).out = c.out := rfl
@[simp] theorem modJobs_hold (f : List Job → List Job) (c : Chip) : (modJobs f c).hold = c.hold := rfl
@[simp] theorem modJobs_fxHold (f : List Job → List Job) (c : Chip) : (modJobs f c).fxHold = c.fxHold := rfl
@[simp] theorem modJobs_sys (f : List Job → List Job) (c : Chip) : (modJobs f c).sys = c.sys := rfl
@[simp] theorem modJobs_beam (f : List Job → List Job) (c : Chip) : (modJobs f c).beam = c.beam := rfl
@[simp] theorem modJobs_img (f : List Job → List Job) (c : Chip) : (modJobs f c).img = c.img := rfl
@[simp] theorem modJobs_lad (f : List Job → List Job) (c : Chip) : (modJobs f c).lad = c.lad := rfl
@[simp] theorem modJobs_mot (f : List Job → List Job) (c : Chip) : (modJobs f c).mot = c.mot := rfl
@[simp] theorem modJobs_kt (f : List Job → List Job) (c : Chip) : (modJobs f c).kt = c.kt := rfl
@[simp] theorem modJobs_mem (f : List Job → List Job) (c : Chip) : (modJobs f c).mem = c.mem := rfl
@[simp] theorem modJobs_rd (f : List Job → List Job) (c : Chip) (g : Fld) : (modJobs f c).rd g = c.rd g := rd_congr (by simp) g

/-! ### modSem -/

@[simp] theorem modSem_regs (k : Nat) (f : Sem → Sem) (c : Chip) : (modSem k f c).regs = c.regs := rfl
@[simp] theorem modSem_tables (k : Nat) (f : Sem → Sem) (c : Chip) : (modSem k f c).tables = c.tables := rfl
@[simp] theorem modSem_fix (k : Nat) (f : Sem → Sem) (c : Chip) : (modSem k f c).fix = c.fix := rfl
@[simp] theorem modSem_crockMem (k : Nat) (f : Sem → Sem) (c : Chip) : (modSem k f c).crockMem = c.crockMem := rfl
@[simp] theorem modSem_fresh (k : Nat) (f : Sem → Sem) (c : Chip) : (modSem k f c).fresh = c.fresh := rfl
@[simp] theorem modSem_dram (k : Nat) (f : Sem → Sem) (c : Chip) : (modSem k f c).dram = c.dram := rfl
@[simp] theorem modSem_losses (k : Nat) (f : Sem → Sem) (c : Chip) : (modSem k f c).losses = c.losses := rfl
@[simp] theorem modSem_out (k : Nat) (f : Sem → Sem) (c : Chip) : (modSem k f c).out = c.out := rfl
@[simp] theorem modSem_hold (k : Nat) (f : Sem → Sem) (c : Chip) : (modSem k f c).hold = c.hold := rfl
@[simp] theorem modSem_fxHold (k : Nat) (f : Sem → Sem) (c : Chip) : (modSem k f c).fxHold = c.fxHold := rfl
@[simp] theorem modSem_sys (k : Nat) (f : Sem → Sem) (c : Chip) : (modSem k f c).sys = c.sys := rfl
@[simp] theorem modSem_beam (k : Nat) (f : Sem → Sem) (c : Chip) : (modSem k f c).beam = c.beam := rfl
@[simp] theorem modSem_img (k : Nat) (f : Sem → Sem) (c : Chip) : (modSem k f c).img = c.img := rfl
@[simp] theorem modSem_lad (k : Nat) (f : Sem → Sem) (c : Chip) : (modSem k f c).lad = c.lad := rfl
@[simp] theorem modSem_mot (k : Nat) (f : Sem → Sem) (c : Chip) : (modSem k f c).mot = c.mot := rfl
@[simp] theorem modSem_kt (k : Nat) (f : Sem → Sem) (c : Chip) : (modSem k f c).kt = c.kt := rfl
@[simp] theorem modSem_mem (k : Nat) (f : Sem → Sem) (c : Chip) : (modSem k f c).mem = c.mem := rfl
@[simp] theorem modSem_rd (k : Nat) (f : Sem → Sem) (c : Chip) (g : Fld) : (modSem k f c).rd g = c.rd g := rd_congr (by simp) g

/-! ### modCommits -/

@[simp] theorem modCommits_regs (f : List Commit → List Commit) (c : Chip) : (modCommits f c).regs = c.regs := rfl
@[simp] theorem modCommits_tables (f : List Commit → List Commit) (c : Chip) : (modCommits f c).tables = c.tables := rfl
@[simp] theorem modCommits_fix (f : List Commit → List Commit) (c : Chip) : (modCommits f c).fix = c.fix := rfl
@[simp] theorem modCommits_crockMem (f : List Commit → List Commit) (c : Chip) : (modCommits f c).crockMem = c.crockMem := rfl
@[simp] theorem modCommits_fresh (f : List Commit → List Commit) (c : Chip) : (modCommits f c).fresh = c.fresh := rfl
@[simp] theorem modCommits_dram (f : List Commit → List Commit) (c : Chip) : (modCommits f c).dram = c.dram := rfl
@[simp] theorem modCommits_losses (f : List Commit → List Commit) (c : Chip) : (modCommits f c).losses = c.losses := rfl
@[simp] theorem modCommits_out (f : List Commit → List Commit) (c : Chip) : (modCommits f c).out = c.out := rfl
@[simp] theorem modCommits_hold (f : List Commit → List Commit) (c : Chip) : (modCommits f c).hold = c.hold := rfl
@[simp] theorem modCommits_fxHold (f : List Commit → List Commit) (c : Chip) : (modCommits f c).fxHold = c.fxHold := rfl
@[simp] theorem modCommits_sys (f : List Commit → List Commit) (c : Chip) : (modCommits f c).sys = c.sys := rfl
@[simp] theorem modCommits_beam (f : List Commit → List Commit) (c : Chip) : (modCommits f c).beam = c.beam := rfl
@[simp] theorem modCommits_img (f : List Commit → List Commit) (c : Chip) : (modCommits f c).img = c.img := rfl
@[simp] theorem modCommits_lad (f : List Commit → List Commit) (c : Chip) : (modCommits f c).lad = c.lad := rfl
@[simp] theorem modCommits_mot (f : List Commit → List Commit) (c : Chip) : (modCommits f c).mot = c.mot := rfl
@[simp] theorem modCommits_kt (f : List Commit → List Commit) (c : Chip) : (modCommits f c).kt = c.kt := rfl
@[simp] theorem modCommits_mem (f : List Commit → List Commit) (c : Chip) : (modCommits f c).mem = c.mem := rfl
@[simp] theorem modCommits_rd (f : List Commit → List Commit) (c : Chip) (g : Fld) : (modCommits f c).rd g = c.rd g := rd_congr (by simp) g

/-! ### modSec -/

@[simp] theorem modSec_regs (f : Sec → Sec) (c : Chip) : (modSec f c).regs = c.regs := rfl
@[simp] theorem modSec_tables (f : Sec → Sec) (c : Chip) : (modSec f c).tables = c.tables := rfl
@[simp] theorem modSec_fix (f : Sec → Sec) (c : Chip) : (modSec f c).fix = c.fix := rfl
@[simp] theorem modSec_crockMem (f : Sec → Sec) (c : Chip) : (modSec f c).crockMem = c.crockMem := rfl
@[simp] theorem modSec_fresh (f : Sec → Sec) (c : Chip) : (modSec f c).fresh = c.fresh := rfl
@[simp] theorem modSec_dram (f : Sec → Sec) (c : Chip) : (modSec f c).dram = c.dram := rfl
@[simp] theorem modSec_losses (f : Sec → Sec) (c : Chip) : (modSec f c).losses = c.losses := rfl
@[simp] theorem modSec_out (f : Sec → Sec) (c : Chip) : (modSec f c).out = c.out := rfl
@[simp] theorem modSec_hold (f : Sec → Sec) (c : Chip) : (modSec f c).hold = c.hold := rfl
@[simp] theorem modSec_fxHold (f : Sec → Sec) (c : Chip) : (modSec f c).fxHold = c.fxHold := rfl
@[simp] theorem modSec_sys (f : Sec → Sec) (c : Chip) : (modSec f c).sys = c.sys := rfl
@[simp] theorem modSec_beam (f : Sec → Sec) (c : Chip) : (modSec f c).beam = c.beam := rfl
@[simp] theorem modSec_img (f : Sec → Sec) (c : Chip) : (modSec f c).img = c.img := rfl
@[simp] theorem modSec_lad (f : Sec → Sec) (c : Chip) : (modSec f c).lad = c.lad := rfl
@[simp] theorem modSec_mot (f : Sec → Sec) (c : Chip) : (modSec f c).mot = c.mot := rfl
@[simp] theorem modSec_kt (f : Sec → Sec) (c : Chip) : (modSec f c).kt = c.kt := rfl
@[simp] theorem modSec_mem (f : Sec → Sec) (c : Chip) : (modSec f c).mem = c.mem := rfl
@[simp] theorem modSec_rd (f : Sec → Sec) (c : Chip) (g : Fld) : (modSec f c).rd g = c.rd g := rd_congr (by simp) g

/-! ### dequeue -/

@[simp] theorem dequeue_regs (c : Chip) : (dequeue c).regs = c.regs := rfl
@[simp] theorem dequeue_tables (c : Chip) : (dequeue c).tables = c.tables := rfl
@[simp] theorem dequeue_fix (c : Chip) : (dequeue c).fix = c.fix := rfl
@[simp] theorem dequeue_crockMem (c : Chip) : (dequeue c).crockMem = c.crockMem := rfl
@[simp] theorem dequeue_fresh (c : Chip) : (dequeue c).fresh = c.fresh := rfl
@[simp] theorem dequeue_dram (c : Chip) : (dequeue c).dram = c.dram := rfl
@[simp] theorem dequeue_losses (c : Chip) : (dequeue c).losses = c.losses := rfl
@[simp] theorem dequeue_out (c : Chip) : (dequeue c).out = c.out := rfl
@[simp] theorem dequeue_hold (c : Chip) : (dequeue c).hold = c.hold := rfl
@[simp] theorem dequeue_fxHold (c : Chip) : (dequeue c).fxHold = c.fxHold := rfl
@[simp] theorem dequeue_sys (c : Chip) : (dequeue c).sys = c.sys := rfl
@[simp] theorem dequeue_beam (c : Chip) : (dequeue c).beam = c.beam := rfl
@[simp] theorem dequeue_img (c : Chip) : (dequeue c).img = c.img := rfl
@[simp] theorem dequeue_lad (c : Chip) : (dequeue c).lad = c.lad := rfl
@[simp] theorem dequeue_mot (c : Chip) : (dequeue c).mot = c.mot := rfl
@[simp] theorem dequeue_kt (c : Chip) : (dequeue c).kt = c.kt := rfl
@[simp] theorem dequeue_mem (c : Chip) : (dequeue c).mem = c.mem := rfl
@[simp] theorem dequeue_rd (c : Chip) (g : Fld) : (dequeue c).rd g = c.rd g := rd_congr (by simp) g

/-! ### received -/

@[simp] theorem received_regs (b : Nat) (c : Chip) : (received b c).regs = c.regs := rfl
@[simp] theorem received_tables (b : Nat) (c : Chip) : (received b c).tables = c.tables := rfl
@[simp] theorem received_fix (b : Nat) (c : Chip) : (received b c).fix = c.fix := rfl
@[simp] theorem received_crockMem (b : Nat) (c : Chip) : (received b c).crockMem = c.crockMem := rfl
@[simp] theorem received_fresh (b : Nat) (c : Chip) : (received b c).fresh = c.fresh := rfl
@[simp] theorem received_dram (b : Nat) (c : Chip) : (received b c).dram = c.dram := rfl
@[simp] theorem received_losses (b : Nat) (c : Chip) : (received b c).losses = c.losses := rfl
@[simp] theorem received_out (b : Nat) (c : Chip) : (received b c).out = c.out := rfl
@[simp] theorem received_hold (b : Nat) (c : Chip) : (received b c).hold = c.hold := rfl
@[simp] theorem received_fxHold (b : Nat) (c : Chip) : (received b c).fxHold = c.fxHold := rfl
@[simp] theorem received_sys (b : Nat) (c : Chip) : (received b c).sys = c.sys := rfl
@[simp] theorem received_beam (b : Nat) (c : Chip) : (received b c).beam = c.beam := rfl
@[simp] theorem received_img (b : Nat) (c : Chip) : (received b c).img = c.img := rfl
@[simp] theorem received_lad (b : Nat) (c : Chip) : (received b c).lad = c.lad := rfl
@[simp] theorem received_mot (b : Nat) (c : Chip) : (received b c).mot = c.mot := rfl
@[simp] theorem received_kt (b : Nat) (c : Chip) : (received b c).kt = c.kt := rfl
@[simp] theorem received_mem (b : Nat) (c : Chip) : (received b c).mem = c.mem := rfl
@[simp] theorem received_rd (b : Nat) (c : Chip) (g : Fld) : (received b c).rd g = c.rd g := rd_congr (by simp) g

/-! ### modNet -/

@[simp] theorem modNet_regs (f : Net → Net) (c : Chip) : (modNet f c).regs = c.regs := rfl
@[simp] theorem modNet_tables (f : Net → Net) (c : Chip) : (modNet f c).tables = c.tables := rfl
@[simp] theorem modNet_fix (f : Net → Net) (c : Chip) : (modNet f c).fix = c.fix := rfl
@[simp] theorem modNet_crockMem (f : Net → Net) (c : Chip) : (modNet f c).crockMem = c.crockMem := rfl
@[simp] theorem modNet_fresh (f : Net → Net) (c : Chip) : (modNet f c).fresh = c.fresh := rfl
@[simp] theorem modNet_dram (f : Net → Net) (c : Chip) : (modNet f c).dram = c.dram := rfl
@[simp] theorem modNet_losses (f : Net → Net) (c : Chip) : (modNet f c).losses = c.losses := rfl
@[simp] theorem modNet_out (f : Net → Net) (c : Chip) : (modNet f c).out = c.out := rfl
@[simp] theorem modNet_hold (f : Net → Net) (c : Chip) : (modNet f c).hold = c.hold := rfl
@[simp] theorem modNet_fxHold (f : Net → Net) (c : Chip) : (modNet f c).fxHold = c.fxHold := rfl
@[simp] theorem modNet_host (f : Net → Net) (c : Chip) : (modNet f c).host = c.host := rfl
@[simp] theorem modNet_beam (f : Net → Net) (c : Chip) : (modNet f c).beam = c.beam := rfl
@[simp] theorem modNet_img (f : Net → Net) (c : Chip) : (modNet f c).img = c.img := rfl
@[simp] theorem modNet_lad (f : Net → Net) (c : Chip) : (modNet f c).lad = c.lad := rfl
@[simp] theorem modNet_mot (f : Net → Net) (c : Chip) : (modNet f c).mot = c.mot := rfl
@[simp] theorem modNet_kt (f : Net → Net) (c : Chip) : (modNet f c).kt = c.kt := rfl
@[simp] theorem modNet_mem (f : Net → Net) (c : Chip) : (modNet f c).mem = c.mem := rfl
@[simp] theorem modNet_rd (f : Net → Net) (c : Chip) (g : Fld) : (modNet f c).rd g = c.rd g := rd_congr (by simp) g

/-! ### modServo -/

@[simp] theorem modServo_regs (f : Servo → Servo) (c : Chip) : (modServo f c).regs = c.regs := rfl
@[simp] theorem modServo_tables (f : Servo → Servo) (c : Chip) : (modServo f c).tables = c.tables := rfl
@[simp] theorem modServo_fix (f : Servo → Servo) (c : Chip) : (modServo f c).fix = c.fix := rfl
@[simp] theorem modServo_crockMem (f : Servo → Servo) (c : Chip) : (modServo f c).crockMem = c.crockMem := rfl
@[simp] theorem modServo_fresh (f : Servo → Servo) (c : Chip) : (modServo f c).fresh = c.fresh := rfl
@[simp] theorem modServo_dram (f : Servo → Servo) (c : Chip) : (modServo f c).dram = c.dram := rfl
@[simp] theorem modServo_losses (f : Servo → Servo) (c : Chip) : (modServo f c).losses = c.losses := rfl
@[simp] theorem modServo_out (f : Servo → Servo) (c : Chip) : (modServo f c).out = c.out := rfl
@[simp] theorem modServo_hold (f : Servo → Servo) (c : Chip) : (modServo f c).hold = c.hold := rfl
@[simp] theorem modServo_fxHold (f : Servo → Servo) (c : Chip) : (modServo f c).fxHold = c.fxHold := rfl
@[simp] theorem modServo_host (f : Servo → Servo) (c : Chip) : (modServo f c).host = c.host := rfl
@[simp] theorem modServo_beam (f : Servo → Servo) (c : Chip) : (modServo f c).beam = c.beam := rfl
@[simp] theorem modServo_img (f : Servo → Servo) (c : Chip) : (modServo f c).img = c.img := rfl
@[simp] theorem modServo_lad (f : Servo → Servo) (c : Chip) : (modServo f c).lad = c.lad := rfl
@[simp] theorem modServo_mot (f : Servo → Servo) (c : Chip) : (modServo f c).mot = c.mot := rfl
@[simp] theorem modServo_kt (f : Servo → Servo) (c : Chip) : (modServo f c).kt = c.kt := rfl
@[simp] theorem modServo_mem (f : Servo → Servo) (c : Chip) : (modServo f c).mem = c.mem := rfl
@[simp] theorem modServo_rd (f : Servo → Servo) (c : Chip) (g : Fld) : (modServo f c).rd g = c.rd g := rd_congr (by simp) g

/-! ### modPulse -/

@[simp] theorem modPulse_regs (k : Nat) (f : Pulse → Pulse) (c : Chip) : (modPulse k f c).regs = c.regs := rfl
@[simp] theorem modPulse_tables (k : Nat) (f : Pulse → Pulse) (c : Chip) : (modPulse k f c).tables = c.tables := rfl
@[simp] theorem modPulse_fix (k : Nat) (f : Pulse → Pulse) (c : Chip) : (modPulse k f c).fix = c.fix := rfl
@[simp] theorem modPulse_crockMem (k : Nat) (f : Pulse → Pulse) (c : Chip) : (modPulse k f c).crockMem = c.crockMem := rfl
@[simp] theorem modPulse_fresh (k : Nat) (f : Pulse → Pulse) (c : Chip) : (modPulse k f c).fresh = c.fresh := rfl
@[simp] theorem modPulse_dram (k : Nat) (f : Pulse → Pulse) (c : Chip) : (modPulse k f c).dram = c.dram := rfl
@[simp] theorem modPulse_losses (k : Nat) (f : Pulse → Pulse) (c : Chip) : (modPulse k f c).losses = c.losses := rfl
@[simp] theorem modPulse_out (k : Nat) (f : Pulse → Pulse) (c : Chip) : (modPulse k f c).out = c.out := rfl
@[simp] theorem modPulse_hold (k : Nat) (f : Pulse → Pulse) (c : Chip) : (modPulse k f c).hold = c.hold := rfl
@[simp] theorem modPulse_fxHold (k : Nat) (f : Pulse → Pulse) (c : Chip) : (modPulse k f c).fxHold = c.fxHold := rfl
@[simp] theorem modPulse_host (k : Nat) (f : Pulse → Pulse) (c : Chip) : (modPulse k f c).host = c.host := rfl
@[simp] theorem modPulse_beam (k : Nat) (f : Pulse → Pulse) (c : Chip) : (modPulse k f c).beam = c.beam := rfl
@[simp] theorem modPulse_img (k : Nat) (f : Pulse → Pulse) (c : Chip) : (modPulse k f c).img = c.img := rfl
@[simp] theorem modPulse_lad (k : Nat) (f : Pulse → Pulse) (c : Chip) : (modPulse k f c).lad = c.lad := rfl
@[simp] theorem modPulse_mot (k : Nat) (f : Pulse → Pulse) (c : Chip) : (modPulse k f c).mot = c.mot := rfl
@[simp] theorem modPulse_kt (k : Nat) (f : Pulse → Pulse) (c : Chip) : (modPulse k f c).kt = c.kt := rfl
@[simp] theorem modPulse_mem (k : Nat) (f : Pulse → Pulse) (c : Chip) : (modPulse k f c).mem = c.mem := rfl
@[simp] theorem modPulse_rd (k : Nat) (f : Pulse → Pulse) (c : Chip) (g : Fld) : (modPulse k f c).rd g = c.rd g := rd_congr (by simp) g

/-! ### modPort -/

@[simp] theorem modPort_regs (p : Path) (f : PtpPort → PtpPort) (c : Chip) : (modPort p f c).regs = c.regs := by cases p <;> rfl
@[simp] theorem modPort_tables (p : Path) (f : PtpPort → PtpPort) (c : Chip) : (modPort p f c).tables = c.tables := by cases p <;> rfl
@[simp] theorem modPort_fix (p : Path) (f : PtpPort → PtpPort) (c : Chip) : (modPort p f c).fix = c.fix := by cases p <;> rfl
@[simp] theorem modPort_crockMem (p : Path) (f : PtpPort → PtpPort) (c : Chip) : (modPort p f c).crockMem = c.crockMem := by cases p <;> rfl
@[simp] theorem modPort_fresh (p : Path) (f : PtpPort → PtpPort) (c : Chip) : (modPort p f c).fresh = c.fresh := by cases p <;> rfl
@[simp] theorem modPort_dram (p : Path) (f : PtpPort → PtpPort) (c : Chip) : (modPort p f c).dram = c.dram := by cases p <;> rfl
@[simp] theorem modPort_losses (p : Path) (f : PtpPort → PtpPort) (c : Chip) : (modPort p f c).losses = c.losses := by cases p <;> rfl
@[simp] theorem modPort_out (p : Path) (f : PtpPort → PtpPort) (c : Chip) : (modPort p f c).out = c.out := by cases p <;> rfl
@[simp] theorem modPort_hold (p : Path) (f : PtpPort → PtpPort) (c : Chip) : (modPort p f c).hold = c.hold := by cases p <;> rfl
@[simp] theorem modPort_fxHold (p : Path) (f : PtpPort → PtpPort) (c : Chip) : (modPort p f c).fxHold = c.fxHold := by cases p <;> rfl
@[simp] theorem modPort_host (p : Path) (f : PtpPort → PtpPort) (c : Chip) : (modPort p f c).host = c.host := by cases p <;> rfl
@[simp] theorem modPort_beam (p : Path) (f : PtpPort → PtpPort) (c : Chip) : (modPort p f c).beam = c.beam := by cases p <;> rfl
@[simp] theorem modPort_img (p : Path) (f : PtpPort → PtpPort) (c : Chip) : (modPort p f c).img = c.img := by cases p <;> rfl
@[simp] theorem modPort_lad (p : Path) (f : PtpPort → PtpPort) (c : Chip) : (modPort p f c).lad = c.lad := by cases p <;> rfl
@[simp] theorem modPort_mot (p : Path) (f : PtpPort → PtpPort) (c : Chip) : (modPort p f c).mot = c.mot := by cases p <;> rfl
@[simp] theorem modPort_kt (p : Path) (f : PtpPort → PtpPort) (c : Chip) : (modPort p f c).kt = c.kt := by cases p <;> rfl
@[simp] theorem modPort_mem (p : Path) (f : PtpPort → PtpPort) (c : Chip) : (modPort p f c).mem = c.mem := by cases p <;> rfl
@[simp] theorem modPort_rd (p : Path) (f : PtpPort → PtpPort) (c : Chip) (g : Fld) : (modPort p f c).rd g = c.rd g := rd_congr (by simp) g

/-! ### modCrock -/

@[simp] theorem modCrock_regs (f : Crock → Crock) (c : Chip) : (modCrock f c).regs = c.regs := rfl
@[simp] theorem modCrock_tables (f : Crock → Crock) (c : Chip) : (modCrock f c).tables = c.tables := rfl
@[simp] theorem modCrock_fix (f : Crock → Crock) (c : Chip) : (modCrock f c).fix = c.fix := rfl
@[simp] theorem modCrock_crockMem (f : Crock → Crock) (c : Chip) : (modCrock f c).crockMem = c.crockMem := rfl
@[simp] theorem modCrock_fresh (f : Crock → Crock) (c : Chip) : (modCrock f c).fresh = c.fresh := rfl
@[simp] theorem modCrock_dram (f : Crock → Crock) (c : Chip) : (modCrock f c).dram = c.dram := rfl
@[simp] theorem modCrock_losses (f : Crock → Crock) (c : Chip) : (modCrock f c).losses = c.losses := rfl
@[simp] theorem modCrock_out (f : Crock → Crock) (c : Chip) : (modCrock f c).out = c.out := rfl
@[simp] theorem modCrock_hold (f : Crock → Crock) (c : Chip) : (modCrock f c).hold = c.hold := rfl
@[simp] theorem modCrock_fxHold (f : Crock → Crock) (c : Chip) : (modCrock f c).fxHold = c.fxHold := rfl
@[simp] theorem modCrock_host (f : Crock → Crock) (c : Chip) : (modCrock f c).host = c.host := rfl
@[simp] theorem modCrock_beam (f : Crock → Crock) (c : Chip) : (modCrock f c).beam = c.beam := rfl
@[simp] theorem modCrock_img (f : Crock → Crock) (c : Chip) : (modCrock f c).img = c.img := rfl
@[simp] theorem modCrock_lad (f : Crock → Crock) (c : Chip) : (modCrock f c).lad = c.lad := rfl
@[simp] theorem modCrock_mot (f : Crock → Crock) (c : Chip) : (modCrock f c).mot = c.mot := rfl
@[simp] theorem modCrock_kt (f : Crock → Crock) (c : Chip) : (modCrock f c).kt = c.kt := rfl
@[simp] theorem modCrock_mem (f : Crock → Crock) (c : Chip) : (modCrock f c).mem = c.mem := rfl
@[simp] theorem modCrock_rd (f : Crock → Crock) (c : Chip) (g : Fld) : (modCrock f c).rd g = c.rd g := rd_congr (by simp) g

/-! ### modPwr -/

@[simp] theorem modPwr_regs (f : Pwr → Pwr) (c : Chip) : (modPwr f c).regs = c.regs := rfl
@[simp] theorem modPwr_tables (f : Pwr → Pwr) (c : Chip) : (modPwr f c).tables = c.tables := rfl
@[simp] theorem modPwr_fix (f : Pwr → Pwr) (c : Chip) : (modPwr f c).fix = c.fix := rfl
@[simp] theorem modPwr_crockMem (f : Pwr → Pwr) (c : Chip) : (modPwr f c).crockMem = c.crockMem := rfl
@[simp] theorem modPwr_fresh (f : Pwr → Pwr) (c : Chip) : (modPwr f c).fresh = c.fresh := rfl
@[simp] theorem modPwr_dram (f : Pwr → Pwr) (c : Chip) : (modPwr f c).dram = c.dram := rfl
@[simp] theorem modPwr_losses (f : Pwr → Pwr) (c : Chip) : (modPwr f c).losses = c.losses := rfl
@[simp] theorem modPwr_out (f : Pwr → Pwr) (c : Chip) : (modPwr f c).out = c.out := rfl
@[simp] theorem modPwr_hold (f : Pwr → Pwr) (c : Chip) : (modPwr f c).hold = c.hold := rfl
@[simp] theorem modPwr_fxHold (f : Pwr → Pwr) (c : Chip) : (modPwr f c).fxHold = c.fxHold := rfl
@[simp] theorem modPwr_host (f : Pwr → Pwr) (c : Chip) : (modPwr f c).host = c.host := rfl
@[simp] theorem modPwr_beam (f : Pwr → Pwr) (c : Chip) : (modPwr f c).beam = c.beam := rfl
@[simp] theorem modPwr_img (f : Pwr → Pwr) (c : Chip) : (modPwr f c).img = c.img := rfl
@[simp] theorem modPwr_lad (f : Pwr → Pwr) (c : Chip) : (modPwr f c).lad = c.lad := rfl
@[simp] theorem modPwr_mot (f : Pwr → Pwr) (c : Chip) : (modPwr f c).mot = c.mot := rfl
@[simp] theorem modPwr_kt (f : Pwr → Pwr) (c : Chip) : (modPwr f c).kt = c.kt := rfl
@[simp] theorem modPwr_mem (f : Pwr → Pwr) (c : Chip) : (modPwr f c).mem = c.mem := rfl
@[simp] theorem modPwr_rd (f : Pwr → Pwr) (c : Chip) (g : Fld) : (modPwr f c).rd g = c.rd g := rd_congr (by simp) g

/-! ### modReset -/

@[simp] theorem modReset_regs (f : ResetRun → ResetRun) (c : Chip) : (modReset f c).regs = c.regs := rfl
@[simp] theorem modReset_tables (f : ResetRun → ResetRun) (c : Chip) : (modReset f c).tables = c.tables := rfl
@[simp] theorem modReset_fix (f : ResetRun → ResetRun) (c : Chip) : (modReset f c).fix = c.fix := rfl
@[simp] theorem modReset_crockMem (f : ResetRun → ResetRun) (c : Chip) : (modReset f c).crockMem = c.crockMem := rfl
@[simp] theorem modReset_fresh (f : ResetRun → ResetRun) (c : Chip) : (modReset f c).fresh = c.fresh := rfl
@[simp] theorem modReset_dram (f : ResetRun → ResetRun) (c : Chip) : (modReset f c).dram = c.dram := rfl
@[simp] theorem modReset_losses (f : ResetRun → ResetRun) (c : Chip) : (modReset f c).losses = c.losses := rfl
@[simp] theorem modReset_out (f : ResetRun → ResetRun) (c : Chip) : (modReset f c).out = c.out := rfl
@[simp] theorem modReset_hold (f : ResetRun → ResetRun) (c : Chip) : (modReset f c).hold = c.hold := rfl
@[simp] theorem modReset_fxHold (f : ResetRun → ResetRun) (c : Chip) : (modReset f c).fxHold = c.fxHold := rfl
@[simp] theorem modReset_host (f : ResetRun → ResetRun) (c : Chip) : (modReset f c).host = c.host := rfl
@[simp] theorem modReset_beam (f : ResetRun → ResetRun) (c : Chip) : (modReset f c).beam = c.beam := rfl
@[simp] theorem modReset_img (f : ResetRun → ResetRun) (c : Chip) : (modReset f c).img = c.img := rfl
@[simp] theorem modReset_lad (f : ResetRun → ResetRun) (c : Chip) : (modReset f c).lad = c.lad := rfl
@[simp] theorem modReset_mot (f : ResetRun → ResetRun) (c : Chip) : (modReset f c).mot = c.mot := rfl
@[simp] theorem modReset_kt (f : ResetRun → ResetRun) (c : Chip) : (modReset f c).kt = c.kt := rfl
@[simp] theorem modReset_mem (f : ResetRun → ResetRun) (c : Chip) : (modReset f c).mem = c.mem := rfl
@[simp] theorem modReset_rd (f : ResetRun → ResetRun) (c : Chip) (g : Fld) : (modReset f c).rd g = c.rd g := rd_congr (by simp) g

/-! ### modMgt -/

@[simp] theorem modMgt_regs (f : Mgt → Mgt) (c : Chip) : (modMgt f c).regs = c.regs := rfl
@[simp] theorem modMgt_tables (f : Mgt → Mgt) (c : Chip) : (modMgt f c).tables = c.tables := rfl
@[simp] theorem modMgt_fix (f : Mgt → Mgt) (c : Chip) : (modMgt f c).fix = c.fix := rfl
@[simp] theorem modMgt_crockMem (f : Mgt → Mgt) (c : Chip) : (modMgt f c).crockMem = c.crockMem := rfl
@[simp] theorem modMgt_fresh (f : Mgt → Mgt) (c : Chip) : (modMgt f c).fresh = c.fresh := rfl
@[simp] theorem modMgt_dram (f : Mgt → Mgt) (c : Chip) : (modMgt f c).dram = c.dram := rfl
@[simp] theorem modMgt_losses (f : Mgt → Mgt) (c : Chip) : (modMgt f c).losses = c.losses := rfl
@[simp] theorem modMgt_out (f : Mgt → Mgt) (c : Chip) : (modMgt f c).out = c.out := rfl
@[simp] theorem modMgt_hold (f : Mgt → Mgt) (c : Chip) : (modMgt f c).hold = c.hold := rfl
@[simp] theorem modMgt_fxHold (f : Mgt → Mgt) (c : Chip) : (modMgt f c).fxHold = c.fxHold := rfl
@[simp] theorem modMgt_host (f : Mgt → Mgt) (c : Chip) : (modMgt f c).host = c.host := rfl
@[simp] theorem modMgt_beam (f : Mgt → Mgt) (c : Chip) : (modMgt f c).beam = c.beam := rfl
@[simp] theorem modMgt_img (f : Mgt → Mgt) (c : Chip) : (modMgt f c).img = c.img := rfl
@[simp] theorem modMgt_lad (f : Mgt → Mgt) (c : Chip) : (modMgt f c).lad = c.lad := rfl
@[simp] theorem modMgt_mot (f : Mgt → Mgt) (c : Chip) : (modMgt f c).mot = c.mot := rfl
@[simp] theorem modMgt_kt (f : Mgt → Mgt) (c : Chip) : (modMgt f c).kt = c.kt := rfl
@[simp] theorem modMgt_mem (f : Mgt → Mgt) (c : Chip) : (modMgt f c).mem = c.mem := rfl
@[simp] theorem modMgt_rd (f : Mgt → Mgt) (c : Chip) (g : Fld) : (modMgt f c).rd g = c.rd g := rd_congr (by simp) g

/-! ### modThm -/

@[simp] theorem modThm_regs (f : Thm → Thm) (c : Chip) : (modThm f c).regs = c.regs := rfl
@[simp] theorem modThm_tables (f : Thm → Thm) (c : Chip) : (modThm f c).tables = c.tables := rfl
@[simp] theorem modThm_fix (f : Thm → Thm) (c : Chip) : (modThm f c).fix = c.fix := rfl
@[simp] theorem modThm_crockMem (f : Thm → Thm) (c : Chip) : (modThm f c).crockMem = c.crockMem := rfl
@[simp] theorem modThm_fresh (f : Thm → Thm) (c : Chip) : (modThm f c).fresh = c.fresh := rfl
@[simp] theorem modThm_dram (f : Thm → Thm) (c : Chip) : (modThm f c).dram = c.dram := rfl
@[simp] theorem modThm_losses (f : Thm → Thm) (c : Chip) : (modThm f c).losses = c.losses := rfl
@[simp] theorem modThm_out (f : Thm → Thm) (c : Chip) : (modThm f c).out = c.out := rfl
@[simp] theorem modThm_hold (f : Thm → Thm) (c : Chip) : (modThm f c).hold = c.hold := rfl
@[simp] theorem modThm_fxHold (f : Thm → Thm) (c : Chip) : (modThm f c).fxHold = c.fxHold := rfl
@[simp] theorem modThm_host (f : Thm → Thm) (c : Chip) : (modThm f c).host = c.host := rfl
@[simp] theorem modThm_beam (f : Thm → Thm) (c : Chip) : (modThm f c).beam = c.beam := rfl
@[simp] theorem modThm_img (f : Thm → Thm) (c : Chip) : (modThm f c).img = c.img := rfl
@[simp] theorem modThm_lad (f : Thm → Thm) (c : Chip) : (modThm f c).lad = c.lad := rfl
@[simp] theorem modThm_mot (f : Thm → Thm) (c : Chip) : (modThm f c).mot = c.mot := rfl
@[simp] theorem modThm_kt (f : Thm → Thm) (c : Chip) : (modThm f c).kt = c.kt := rfl
@[simp] theorem modThm_mem (f : Thm → Thm) (c : Chip) : (modThm f c).mem = c.mem := rfl
@[simp] theorem modThm_rd (f : Thm → Thm) (c : Chip) (g : Fld) : (modThm f c).rd g = c.rd g := rd_congr (by simp) g

/-! ### modCal -/

@[simp] theorem modCal_regs (f : Cal → Cal) (c : Chip) : (modCal f c).regs = c.regs := rfl
@[simp] theorem modCal_tables (f : Cal → Cal) (c : Chip) : (modCal f c).tables = c.tables := rfl
@[simp] theorem modCal_fix (f : Cal → Cal) (c : Chip) : (modCal f c).fix = c.fix := rfl
@[simp] theorem modCal_crockMem (f : Cal → Cal) (c : Chip) : (modCal f c).crockMem = c.crockMem := rfl
@[simp] theorem modCal_fresh (f : Cal → Cal) (c : Chip) : (modCal f c).fresh = c.fresh := rfl
@[simp] theorem modCal_dram (f : Cal → Cal) (c : Chip) : (modCal f c).dram = c.dram := rfl
@[simp] theorem modCal_losses (f : Cal → Cal) (c : Chip) : (modCal f c).losses = c.losses := rfl
@[simp] theorem modCal_out (f : Cal → Cal) (c : Chip) : (modCal f c).out = c.out := rfl
@[simp] theorem modCal_hold (f : Cal → Cal) (c : Chip) : (modCal f c).hold = c.hold := rfl
@[simp] theorem modCal_fxHold (f : Cal → Cal) (c : Chip) : (modCal f c).fxHold = c.fxHold := rfl
@[simp] theorem modCal_host (f : Cal → Cal) (c : Chip) : (modCal f c).host = c.host := rfl
@[simp] theorem modCal_beam (f : Cal → Cal) (c : Chip) : (modCal f c).beam = c.beam := rfl
@[simp] theorem modCal_img (f : Cal → Cal) (c : Chip) : (modCal f c).img = c.img := rfl
@[simp] theorem modCal_lad (f : Cal → Cal) (c : Chip) : (modCal f c).lad = c.lad := rfl
@[simp] theorem modCal_mot (f : Cal → Cal) (c : Chip) : (modCal f c).mot = c.mot := rfl
@[simp] theorem modCal_kt (f : Cal → Cal) (c : Chip) : (modCal f c).kt = c.kt := rfl
@[simp] theorem modCal_mem (f : Cal → Cal) (c : Chip) : (modCal f c).mem = c.mem := rfl
@[simp] theorem modCal_rd (f : Cal → Cal) (c : Chip) (g : Fld) : (modCal f c).rd g = c.rd g := rd_congr (by simp) g

/-! ### modSnp -/

@[simp] theorem modSnp_regs (f : Snp → Snp) (c : Chip) : (modSnp f c).regs = c.regs := rfl
@[simp] theorem modSnp_tables (f : Snp → Snp) (c : Chip) : (modSnp f c).tables = c.tables := rfl
@[simp] theorem modSnp_fix (f : Snp → Snp) (c : Chip) : (modSnp f c).fix = c.fix := rfl
@[simp] theorem modSnp_crockMem (f : Snp → Snp) (c : Chip) : (modSnp f c).crockMem = c.crockMem := rfl
@[simp] theorem modSnp_fresh (f : Snp → Snp) (c : Chip) : (modSnp f c).fresh = c.fresh := rfl
@[simp] theorem modSnp_dram (f : Snp → Snp) (c : Chip) : (modSnp f c).dram = c.dram := rfl
@[simp] theorem modSnp_losses (f : Snp → Snp) (c : Chip) : (modSnp f c).losses = c.losses := rfl
@[simp] theorem modSnp_out (f : Snp → Snp) (c : Chip) : (modSnp f c).out = c.out := rfl
@[simp] theorem modSnp_hold (f : Snp → Snp) (c : Chip) : (modSnp f c).hold = c.hold := rfl
@[simp] theorem modSnp_fxHold (f : Snp → Snp) (c : Chip) : (modSnp f c).fxHold = c.fxHold := rfl
@[simp] theorem modSnp_host (f : Snp → Snp) (c : Chip) : (modSnp f c).host = c.host := rfl
@[simp] theorem modSnp_beam (f : Snp → Snp) (c : Chip) : (modSnp f c).beam = c.beam := rfl
@[simp] theorem modSnp_img (f : Snp → Snp) (c : Chip) : (modSnp f c).img = c.img := rfl
@[simp] theorem modSnp_lad (f : Snp → Snp) (c : Chip) : (modSnp f c).lad = c.lad := rfl
@[simp] theorem modSnp_mot (f : Snp → Snp) (c : Chip) : (modSnp f c).mot = c.mot := rfl
@[simp] theorem modSnp_kt (f : Snp → Snp) (c : Chip) : (modSnp f c).kt = c.kt := rfl
@[simp] theorem modSnp_mem (f : Snp → Snp) (c : Chip) : (modSnp f c).mem = c.mem := rfl
@[simp] theorem modSnp_rd (f : Snp → Snp) (c : Chip) (g : Fld) : (modSnp f c).rd g = c.rd g := rd_congr (by simp) g

/-! ### modGio -/

@[simp] theorem modGio_regs (f : Gio → Gio) (c : Chip) : (modGio f c).regs = c.regs := rfl
@[simp] theorem modGio_tables (f : Gio → Gio) (c : Chip) : (modGio f c).tables = c.tables := rfl
@[simp] theorem modGio_fix (f : Gio → Gio) (c : Chip) : (modGio f c).fix = c.fix := rfl
@[simp] theorem modGio_crockMem (f : Gio → Gio) (c : Chip) : (modGio f c).crockMem = c.crockMem := rfl
@[simp] theorem modGio_fresh (f : Gio → Gio) (c : Chip) : (modGio f c).fresh = c.fresh := rfl
@[simp] theorem modGio_dram (f : Gio → Gio) (c : Chip) : (modGio f c).dram = c.dram := rfl
@[simp] theorem modGio_losses (f : Gio → Gio) (c : Chip) : (modGio f c).losses = c.losses := rfl
@[simp] theorem modGio_out (f : Gio → Gio) (c : Chip) : (modGio f c).out = c.out := rfl
@[simp] theorem modGio_hold (f : Gio → Gio) (c : Chip) : (modGio f c).hold = c.hold := rfl
@[simp] theorem modGio_fxHold (f : Gio → Gio) (c : Chip) : (modGio f c).fxHold = c.fxHold := rfl
@[simp] theorem modGio_host (f : Gio → Gio) (c : Chip) : (modGio f c).host = c.host := rfl
@[simp] theorem modGio_beam (f : Gio → Gio) (c : Chip) : (modGio f c).beam = c.beam := rfl
@[simp] theorem modGio_img (f : Gio → Gio) (c : Chip) : (modGio f c).img = c.img := rfl
@[simp] theorem modGio_lad (f : Gio → Gio) (c : Chip) : (modGio f c).lad = c.lad := rfl
@[simp] theorem modGio_mot (f : Gio → Gio) (c : Chip) : (modGio f c).mot = c.mot := rfl
@[simp] theorem modGio_kt (f : Gio → Gio) (c : Chip) : (modGio f c).kt = c.kt := rfl
@[simp] theorem modGio_mem (f : Gio → Gio) (c : Chip) : (modGio f c).mem = c.mem := rfl
@[simp] theorem modGio_rd (f : Gio → Gio) (c : Chip) (g : Fld) : (modGio f c).rd g = c.rd g := rd_congr (by simp) g

/-! ### modFur -/

@[simp] theorem modFur_regs (n : Nat) (f : Furrow → Furrow) (c : Chip) : (modFur n f c).regs = c.regs := rfl
@[simp] theorem modFur_tables (n : Nat) (f : Furrow → Furrow) (c : Chip) : (modFur n f c).tables = c.tables := rfl
@[simp] theorem modFur_fix (n : Nat) (f : Furrow → Furrow) (c : Chip) : (modFur n f c).fix = c.fix := rfl
@[simp] theorem modFur_crockMem (n : Nat) (f : Furrow → Furrow) (c : Chip) : (modFur n f c).crockMem = c.crockMem := rfl
@[simp] theorem modFur_fresh (n : Nat) (f : Furrow → Furrow) (c : Chip) : (modFur n f c).fresh = c.fresh := rfl
@[simp] theorem modFur_dram (n : Nat) (f : Furrow → Furrow) (c : Chip) : (modFur n f c).dram = c.dram := rfl
@[simp] theorem modFur_losses (n : Nat) (f : Furrow → Furrow) (c : Chip) : (modFur n f c).losses = c.losses := rfl
@[simp] theorem modFur_out (n : Nat) (f : Furrow → Furrow) (c : Chip) : (modFur n f c).out = c.out := rfl
@[simp] theorem modFur_hold (n : Nat) (f : Furrow → Furrow) (c : Chip) : (modFur n f c).hold = c.hold := rfl
@[simp] theorem modFur_fxHold (n : Nat) (f : Furrow → Furrow) (c : Chip) : (modFur n f c).fxHold = c.fxHold := rfl
@[simp] theorem modFur_host (n : Nat) (f : Furrow → Furrow) (c : Chip) : (modFur n f c).host = c.host := rfl
@[simp] theorem modFur_sys (n : Nat) (f : Furrow → Furrow) (c : Chip) : (modFur n f c).sys = c.sys := rfl
@[simp] theorem modFur_img (n : Nat) (f : Furrow → Furrow) (c : Chip) : (modFur n f c).img = c.img := rfl
@[simp] theorem modFur_lad (n : Nat) (f : Furrow → Furrow) (c : Chip) : (modFur n f c).lad = c.lad := rfl
@[simp] theorem modFur_mot (n : Nat) (f : Furrow → Furrow) (c : Chip) : (modFur n f c).mot = c.mot := rfl
@[simp] theorem modFur_kt (n : Nat) (f : Furrow → Furrow) (c : Chip) : (modFur n f c).kt = c.kt := rfl
@[simp] theorem modFur_mem (n : Nat) (f : Furrow → Furrow) (c : Chip) : (modFur n f c).mem = c.mem := rfl
@[simp] theorem modFur_rd (n : Nat) (f : Furrow → Furrow) (c : Chip) (g : Fld) : (modFur n f c).rd g = c.rd g := rd_congr (by simp) g

/-! ### modSlb -/

@[simp] theorem modSlb_regs (f : Slb → Slb) (c : Chip) : (modSlb f c).regs = c.regs := rfl
@[simp] theorem modSlb_tables (f : Slb → Slb) (c : Chip) : (modSlb f c).tables = c.tables := rfl
@[simp] theorem modSlb_fix (f : Slb → Slb) (c : Chip) : (modSlb f c).fix = c.fix := rfl
@[simp] theorem modSlb_crockMem (f : Slb → Slb) (c : Chip) : (modSlb f c).crockMem = c.crockMem := rfl
@[simp] theorem modSlb_fresh (f : Slb → Slb) (c : Chip) : (modSlb f c).fresh = c.fresh := rfl
@[simp] theorem modSlb_dram (f : Slb → Slb) (c : Chip) : (modSlb f c).dram = c.dram := rfl
@[simp] theorem modSlb_losses (f : Slb → Slb) (c : Chip) : (modSlb f c).losses = c.losses := rfl
@[simp] theorem modSlb_out (f : Slb → Slb) (c : Chip) : (modSlb f c).out = c.out := rfl
@[simp] theorem modSlb_hold (f : Slb → Slb) (c : Chip) : (modSlb f c).hold = c.hold := rfl
@[simp] theorem modSlb_fxHold (f : Slb → Slb) (c : Chip) : (modSlb f c).fxHold = c.fxHold := rfl
@[simp] theorem modSlb_host (f : Slb → Slb) (c : Chip) : (modSlb f c).host = c.host := rfl
@[simp] theorem modSlb_sys (f : Slb → Slb) (c : Chip) : (modSlb f c).sys = c.sys := rfl
@[simp] theorem modSlb_img (f : Slb → Slb) (c : Chip) : (modSlb f c).img = c.img := rfl
@[simp] theorem modSlb_lad (f : Slb → Slb) (c : Chip) : (modSlb f c).lad = c.lad := rfl
@[simp] theorem modSlb_mot (f : Slb → Slb) (c : Chip) : (modSlb f c).mot = c.mot := rfl
@[simp] theorem modSlb_kt (f : Slb → Slb) (c : Chip) : (modSlb f c).kt = c.kt := rfl
@[simp] theorem modSlb_mem (f : Slb → Slb) (c : Chip) : (modSlb f c).mem = c.mem := rfl
@[simp] theorem modSlb_rd (f : Slb → Slb) (c : Chip) (g : Fld) : (modSlb f c).rd g = c.rd g := rd_congr (by simp) g

/-! ### modLane -/

@[simp] theorem modLane_regs (n : Nat) (f : Lane → Lane) (c : Chip) : (modLane n f c).regs = c.regs := rfl
@[simp] theorem modLane_tables (n : Nat) (f : Lane → Lane) (c : Chip) : (modLane n f c).tables = c.tables := rfl
@[simp] theorem modLane_fix (n : Nat) (f : Lane → Lane) (c : Chip) : (modLane n f c).fix = c.fix := rfl
@[simp] theorem modLane_crockMem (n : Nat) (f : Lane → Lane) (c : Chip) : (modLane n f c).crockMem = c.crockMem := rfl
@[simp] theorem modLane_fresh (n : Nat) (f : Lane → Lane) (c : Chip) : (modLane n f c).fresh = c.fresh := rfl
@[simp] theorem modLane_dram (n : Nat) (f : Lane → Lane) (c : Chip) : (modLane n f c).dram = c.dram := rfl
@[simp] theorem modLane_losses (n : Nat) (f : Lane → Lane) (c : Chip) : (modLane n f c).losses = c.losses := rfl
@[simp] theorem modLane_out (n : Nat) (f : Lane → Lane) (c : Chip) : (modLane n f c).out = c.out := rfl
@[simp] theorem modLane_hold (n : Nat) (f : Lane → Lane) (c : Chip) : (modLane n f c).hold = c.hold := rfl
@[simp] theorem modLane_fxHold (n : Nat) (f : Lane → Lane) (c : Chip) : (modLane n f c).fxHold = c.fxHold := rfl
@[simp] theorem modLane_host (n : Nat) (f : Lane → Lane) (c : Chip) : (modLane n f c).host = c.host := rfl
@[simp] theorem modLane_sys (n : Nat) (f : Lane → Lane) (c : Chip) : (modLane n f c).sys = c.sys := rfl
@[simp] theorem modLane_img (n : Nat) (f : Lane → Lane) (c : Chip) : (modLane n f c).img = c.img := rfl
@[simp] theorem modLane_lad (n : Nat) (f : Lane → Lane) (c : Chip) : (modLane n f c).lad = c.lad := rfl
@[simp] theorem modLane_mot (n : Nat) (f : Lane → Lane) (c : Chip) : (modLane n f c).mot = c.mot := rfl
@[simp] theorem modLane_kt (n : Nat) (f : Lane → Lane) (c : Chip) : (modLane n f c).kt = c.kt := rfl
@[simp] theorem modLane_mem (n : Nat) (f : Lane → Lane) (c : Chip) : (modLane n f c).mem = c.mem := rfl
@[simp] theorem modLane_rd (n : Nat) (f : Lane → Lane) (c : Chip) (g : Fld) : (modLane n f c).rd g = c.rd g := rd_congr (by simp) g

/-! ### modLink -/

@[simp] theorem modLink_regs (n : Nat) (f : Link → Link) (c : Chip) : (modLink n f c).regs = c.regs := rfl
@[simp] theorem modLink_tables (n : Nat) (f : Link → Link) (c : Chip) : (modLink n f c).tables = c.tables := rfl
@[simp] theorem modLink_fix (n : Nat) (f : Link → Link) (c : Chip) : (modLink n f c).fix = c.fix := rfl
@[simp] theorem modLink_crockMem (n : Nat) (f : Link → Link) (c : Chip) : (modLink n f c).crockMem = c.crockMem := rfl
@[simp] theorem modLink_fresh (n : Nat) (f : Link → Link) (c : Chip) : (modLink n f c).fresh = c.fresh := rfl
@[simp] theorem modLink_dram (n : Nat) (f : Link → Link) (c : Chip) : (modLink n f c).dram = c.dram := rfl
@[simp] theorem modLink_losses (n : Nat) (f : Link → Link) (c : Chip) : (modLink n f c).losses = c.losses := rfl
@[simp] theorem modLink_out (n : Nat) (f : Link → Link) (c : Chip) : (modLink n f c).out = c.out := rfl
@[simp] theorem modLink_hold (n : Nat) (f : Link → Link) (c : Chip) : (modLink n f c).hold = c.hold := rfl
@[simp] theorem modLink_fxHold (n : Nat) (f : Link → Link) (c : Chip) : (modLink n f c).fxHold = c.fxHold := rfl
@[simp] theorem modLink_host (n : Nat) (f : Link → Link) (c : Chip) : (modLink n f c).host = c.host := rfl
@[simp] theorem modLink_sys (n : Nat) (f : Link → Link) (c : Chip) : (modLink n f c).sys = c.sys := rfl
@[simp] theorem modLink_img (n : Nat) (f : Link → Link) (c : Chip) : (modLink n f c).img = c.img := rfl
@[simp] theorem modLink_lad (n : Nat) (f : Link → Link) (c : Chip) : (modLink n f c).lad = c.lad := rfl
@[simp] theorem modLink_mot (n : Nat) (f : Link → Link) (c : Chip) : (modLink n f c).mot = c.mot := rfl
@[simp] theorem modLink_kt (n : Nat) (f : Link → Link) (c : Chip) : (modLink n f c).kt = c.kt := rfl
@[simp] theorem modLink_mem (n : Nat) (f : Link → Link) (c : Chip) : (modLink n f c).mem = c.mem := rfl
@[simp] theorem modLink_rd (n : Nat) (f : Link → Link) (c : Chip) (g : Fld) : (modLink n f c).rd g = c.rd g := rd_congr (by simp) g

/-! ### modGrid -/

@[simp] theorem modGrid_regs (n : Nat) (f : Grid → Grid) (c : Chip) : (modGrid n f c).regs = c.regs := rfl
@[simp] theorem modGrid_tables (n : Nat) (f : Grid → Grid) (c : Chip) : (modGrid n f c).tables = c.tables := rfl
@[simp] theorem modGrid_fix (n : Nat) (f : Grid → Grid) (c : Chip) : (modGrid n f c).fix = c.fix := rfl
@[simp] theorem modGrid_crockMem (n : Nat) (f : Grid → Grid) (c : Chip) : (modGrid n f c).crockMem = c.crockMem := rfl
@[simp] theorem modGrid_fresh (n : Nat) (f : Grid → Grid) (c : Chip) : (modGrid n f c).fresh = c.fresh := rfl
@[simp] theorem modGrid_dram (n : Nat) (f : Grid → Grid) (c : Chip) : (modGrid n f c).dram = c.dram := rfl
@[simp] theorem modGrid_losses (n : Nat) (f : Grid → Grid) (c : Chip) : (modGrid n f c).losses = c.losses := rfl
@[simp] theorem modGrid_out (n : Nat) (f : Grid → Grid) (c : Chip) : (modGrid n f c).out = c.out := rfl
@[simp] theorem modGrid_hold (n : Nat) (f : Grid → Grid) (c : Chip) : (modGrid n f c).hold = c.hold := rfl
@[simp] theorem modGrid_fxHold (n : Nat) (f : Grid → Grid) (c : Chip) : (modGrid n f c).fxHold = c.fxHold := rfl
@[simp] theorem modGrid_host (n : Nat) (f : Grid → Grid) (c : Chip) : (modGrid n f c).host = c.host := rfl
@[simp] theorem modGrid_sys (n : Nat) (f : Grid → Grid) (c : Chip) : (modGrid n f c).sys = c.sys := rfl
@[simp] theorem modGrid_img (n : Nat) (f : Grid → Grid) (c : Chip) : (modGrid n f c).img = c.img := rfl
@[simp] theorem modGrid_lad (n : Nat) (f : Grid → Grid) (c : Chip) : (modGrid n f c).lad = c.lad := rfl
@[simp] theorem modGrid_mot (n : Nat) (f : Grid → Grid) (c : Chip) : (modGrid n f c).mot = c.mot := rfl
@[simp] theorem modGrid_kt (n : Nat) (f : Grid → Grid) (c : Chip) : (modGrid n f c).kt = c.kt := rfl
@[simp] theorem modGrid_mem (n : Nat) (f : Grid → Grid) (c : Chip) : (modGrid n f c).mem = c.mem := rfl
@[simp] theorem modGrid_rd (n : Nat) (f : Grid → Grid) (c : Chip) (g : Fld) : (modGrid n f c).rd g = c.rd g := rd_congr (by simp) g

/-! ### modCtx -/

@[simp] theorem modCtx_regs (n : Nat) (f : Ctx → Ctx) (c : Chip) : (modCtx n f c).regs = c.regs := rfl
@[simp] theorem modCtx_tables (n : Nat) (f : Ctx → Ctx) (c : Chip) : (modCtx n f c).tables = c.tables := rfl
@[simp] theorem modCtx_fix (n : Nat) (f : Ctx → Ctx) (c : Chip) : (modCtx n f c).fix = c.fix := rfl
@[simp] theorem modCtx_crockMem (n : Nat) (f : Ctx → Ctx) (c : Chip) : (modCtx n f c).crockMem = c.crockMem := rfl
@[simp] theorem modCtx_fresh (n : Nat) (f : Ctx → Ctx) (c : Chip) : (modCtx n f c).fresh = c.fresh := rfl
@[simp] theorem modCtx_dram (n : Nat) (f : Ctx → Ctx) (c : Chip) : (modCtx n f c).dram = c.dram := rfl
@[simp] theorem modCtx_losses (n : Nat) (f : Ctx → Ctx) (c : Chip) : (modCtx n f c).losses = c.losses := rfl
@[simp] theorem modCtx_out (n : Nat) (f : Ctx → Ctx) (c : Chip) : (modCtx n f c).out = c.out := rfl
@[simp] theorem modCtx_hold (n : Nat) (f : Ctx → Ctx) (c : Chip) : (modCtx n f c).hold = c.hold := rfl
@[simp] theorem modCtx_fxHold (n : Nat) (f : Ctx → Ctx) (c : Chip) : (modCtx n f c).fxHold = c.fxHold := rfl
@[simp] theorem modCtx_host (n : Nat) (f : Ctx → Ctx) (c : Chip) : (modCtx n f c).host = c.host := rfl
@[simp] theorem modCtx_sys (n : Nat) (f : Ctx → Ctx) (c : Chip) : (modCtx n f c).sys = c.sys := rfl
@[simp] theorem modCtx_beam (n : Nat) (f : Ctx → Ctx) (c : Chip) : (modCtx n f c).beam = c.beam := rfl
@[simp] theorem modCtx_lad (n : Nat) (f : Ctx → Ctx) (c : Chip) : (modCtx n f c).lad = c.lad := rfl
@[simp] theorem modCtx_mot (n : Nat) (f : Ctx → Ctx) (c : Chip) : (modCtx n f c).mot = c.mot := rfl
@[simp] theorem modCtx_kt (n : Nat) (f : Ctx → Ctx) (c : Chip) : (modCtx n f c).kt = c.kt := rfl
@[simp] theorem modCtx_mem (n : Nat) (f : Ctx → Ctx) (c : Chip) : (modCtx n f c).mem = c.mem := rfl
@[simp] theorem modCtx_rd (n : Nat) (f : Ctx → Ctx) (c : Chip) (g : Fld) : (modCtx n f c).rd g = c.rd g := rd_congr (by simp) g

/-! ### modSieve -/

@[simp] theorem modSieve_regs (n : Nat) (f : Sieve → Sieve) (c : Chip) : (modSieve n f c).regs = c.regs := rfl
@[simp] theorem modSieve_tables (n : Nat) (f : Sieve → Sieve) (c : Chip) : (modSieve n f c).tables = c.tables := rfl
@[simp] theorem modSieve_fix (n : Nat) (f : Sieve → Sieve) (c : Chip) : (modSieve n f c).fix = c.fix := rfl
@[simp] theorem modSieve_crockMem (n : Nat) (f : Sieve → Sieve) (c : Chip) : (modSieve n f c).crockMem = c.crockMem := rfl
@[simp] theorem modSieve_fresh (n : Nat) (f : Sieve → Sieve) (c : Chip) : (modSieve n f c).fresh = c.fresh := rfl
@[simp] theorem modSieve_dram (n : Nat) (f : Sieve → Sieve) (c : Chip) : (modSieve n f c).dram = c.dram := rfl
@[simp] theorem modSieve_losses (n : Nat) (f : Sieve → Sieve) (c : Chip) : (modSieve n f c).losses = c.losses := rfl
@[simp] theorem modSieve_out (n : Nat) (f : Sieve → Sieve) (c : Chip) : (modSieve n f c).out = c.out := rfl
@[simp] theorem modSieve_hold (n : Nat) (f : Sieve → Sieve) (c : Chip) : (modSieve n f c).hold = c.hold := rfl
@[simp] theorem modSieve_fxHold (n : Nat) (f : Sieve → Sieve) (c : Chip) : (modSieve n f c).fxHold = c.fxHold := rfl
@[simp] theorem modSieve_host (n : Nat) (f : Sieve → Sieve) (c : Chip) : (modSieve n f c).host = c.host := rfl
@[simp] theorem modSieve_sys (n : Nat) (f : Sieve → Sieve) (c : Chip) : (modSieve n f c).sys = c.sys := rfl
@[simp] theorem modSieve_beam (n : Nat) (f : Sieve → Sieve) (c : Chip) : (modSieve n f c).beam = c.beam := rfl
@[simp] theorem modSieve_lad (n : Nat) (f : Sieve → Sieve) (c : Chip) : (modSieve n f c).lad = c.lad := rfl
@[simp] theorem modSieve_mot (n : Nat) (f : Sieve → Sieve) (c : Chip) : (modSieve n f c).mot = c.mot := rfl
@[simp] theorem modSieve_kt (n : Nat) (f : Sieve → Sieve) (c : Chip) : (modSieve n f c).kt = c.kt := rfl
@[simp] theorem modSieve_mem (n : Nat) (f : Sieve → Sieve) (c : Chip) : (modSieve n f c).mem = c.mem := rfl
@[simp] theorem modSieve_rd (n : Nat) (f : Sieve → Sieve) (c : Chip) (g : Fld) : (modSieve n f c).rd g = c.rd g := rd_congr (by simp) g

/-! ### modLadle -/

@[simp] theorem modLadle_regs (n : Nat) (f : Ladle → Ladle) (c : Chip) : (modLadle n f c).regs = c.regs := rfl
@[simp] theorem modLadle_tables (n : Nat) (f : Ladle → Ladle) (c : Chip) : (modLadle n f c).tables = c.tables := rfl
@[simp] theorem modLadle_fix (n : Nat) (f : Ladle → Ladle) (c : Chip) : (modLadle n f c).fix = c.fix := rfl
@[simp] theorem modLadle_crockMem (n : Nat) (f : Ladle → Ladle) (c : Chip) : (modLadle n f c).crockMem = c.crockMem := rfl
@[simp] theorem modLadle_fresh (n : Nat) (f : Ladle → Ladle) (c : Chip) : (modLadle n f c).fresh = c.fresh := rfl
@[simp] theorem modLadle_dram (n : Nat) (f : Ladle → Ladle) (c : Chip) : (modLadle n f c).dram = c.dram := rfl
@[simp] theorem modLadle_losses (n : Nat) (f : Ladle → Ladle) (c : Chip) : (modLadle n f c).losses = c.losses := rfl
@[simp] theorem modLadle_out (n : Nat) (f : Ladle → Ladle) (c : Chip) : (modLadle n f c).out = c.out := rfl
@[simp] theorem modLadle_hold (n : Nat) (f : Ladle → Ladle) (c : Chip) : (modLadle n f c).hold = c.hold := rfl
@[simp] theorem modLadle_fxHold (n : Nat) (f : Ladle → Ladle) (c : Chip) : (modLadle n f c).fxHold = c.fxHold := rfl
@[simp] theorem modLadle_host (n : Nat) (f : Ladle → Ladle) (c : Chip) : (modLadle n f c).host = c.host := rfl
@[simp] theorem modLadle_sys (n : Nat) (f : Ladle → Ladle) (c : Chip) : (modLadle n f c).sys = c.sys := rfl
@[simp] theorem modLadle_beam (n : Nat) (f : Ladle → Ladle) (c : Chip) : (modLadle n f c).beam = c.beam := rfl
@[simp] theorem modLadle_img (n : Nat) (f : Ladle → Ladle) (c : Chip) : (modLadle n f c).img = c.img := rfl
@[simp] theorem modLadle_mot (n : Nat) (f : Ladle → Ladle) (c : Chip) : (modLadle n f c).mot = c.mot := rfl
@[simp] theorem modLadle_kt (n : Nat) (f : Ladle → Ladle) (c : Chip) : (modLadle n f c).kt = c.kt := rfl
@[simp] theorem modLadle_mem (n : Nat) (f : Ladle → Ladle) (c : Chip) : (modLadle n f c).mem = c.mem := rfl
@[simp] theorem modLadle_rd (n : Nat) (f : Ladle → Ladle) (c : Chip) (g : Fld) : (modLadle n f c).rd g = c.rd g := rd_congr (by simp) g

/-! ### modLoop -/

@[simp] theorem modLoop_regs (n l : Nat) (f : Loop → Loop) (c : Chip) : (modLoop n l f c).regs = c.regs := rfl
@[simp] theorem modLoop_tables (n l : Nat) (f : Loop → Loop) (c : Chip) : (modLoop n l f c).tables = c.tables := rfl
@[simp] theorem modLoop_fix (n l : Nat) (f : Loop → Loop) (c : Chip) : (modLoop n l f c).fix = c.fix := rfl
@[simp] theorem modLoop_crockMem (n l : Nat) (f : Loop → Loop) (c : Chip) : (modLoop n l f c).crockMem = c.crockMem := rfl
@[simp] theorem modLoop_fresh (n l : Nat) (f : Loop → Loop) (c : Chip) : (modLoop n l f c).fresh = c.fresh := rfl
@[simp] theorem modLoop_dram (n l : Nat) (f : Loop → Loop) (c : Chip) : (modLoop n l f c).dram = c.dram := rfl
@[simp] theorem modLoop_losses (n l : Nat) (f : Loop → Loop) (c : Chip) : (modLoop n l f c).losses = c.losses := rfl
@[simp] theorem modLoop_out (n l : Nat) (f : Loop → Loop) (c : Chip) : (modLoop n l f c).out = c.out := rfl
@[simp] theorem modLoop_hold (n l : Nat) (f : Loop → Loop) (c : Chip) : (modLoop n l f c).hold = c.hold := rfl
@[simp] theorem modLoop_fxHold (n l : Nat) (f : Loop → Loop) (c : Chip) : (modLoop n l f c).fxHold = c.fxHold := rfl
@[simp] theorem modLoop_host (n l : Nat) (f : Loop → Loop) (c : Chip) : (modLoop n l f c).host = c.host := rfl
@[simp] theorem modLoop_sys (n l : Nat) (f : Loop → Loop) (c : Chip) : (modLoop n l f c).sys = c.sys := rfl
@[simp] theorem modLoop_beam (n l : Nat) (f : Loop → Loop) (c : Chip) : (modLoop n l f c).beam = c.beam := rfl
@[simp] theorem modLoop_img (n l : Nat) (f : Loop → Loop) (c : Chip) : (modLoop n l f c).img = c.img := rfl
@[simp] theorem modLoop_mot (n l : Nat) (f : Loop → Loop) (c : Chip) : (modLoop n l f c).mot = c.mot := rfl
@[simp] theorem modLoop_kt (n l : Nat) (f : Loop → Loop) (c : Chip) : (modLoop n l f c).kt = c.kt := rfl
@[simp] theorem modLoop_mem (n l : Nat) (f : Loop → Loop) (c : Chip) : (modLoop n l f c).mem = c.mem := rfl
@[simp] theorem modLoop_rd (n l : Nat) (f : Loop → Loop) (c : Chip) (g : Fld) : (modLoop n l f c).rd g = c.rd g := rd_congr (by simp) g

/-! ### modPf -/

@[simp] theorem modPf_regs (n : Nat) (f : Feedback → Feedback) (c : Chip) : (modPf n f c).regs = c.regs := rfl
@[simp] theorem modPf_tables (n : Nat) (f : Feedback → Feedback) (c : Chip) : (modPf n f c).tables = c.tables := rfl
@[simp] theorem modPf_fix (n : Nat) (f : Feedback → Feedback) (c : Chip) : (modPf n f c).fix = c.fix := rfl
@[simp] theorem modPf_crockMem (n : Nat) (f : Feedback → Feedback) (c : Chip) : (modPf n f c).crockMem = c.crockMem := rfl
@[simp] theorem modPf_fresh (n : Nat) (f : Feedback → Feedback) (c : Chip) : (modPf n f c).fresh = c.fresh := rfl
@[simp] theorem modPf_dram (n : Nat) (f : Feedback → Feedback) (c : Chip) : (modPf n f c).dram = c.dram := rfl
@[simp] theorem modPf_losses (n : Nat) (f : Feedback → Feedback) (c : Chip) : (modPf n f c).losses = c.losses := rfl
@[simp] theorem modPf_out (n : Nat) (f : Feedback → Feedback) (c : Chip) : (modPf n f c).out = c.out := rfl
@[simp] theorem modPf_hold (n : Nat) (f : Feedback → Feedback) (c : Chip) : (modPf n f c).hold = c.hold := rfl
@[simp] theorem modPf_fxHold (n : Nat) (f : Feedback → Feedback) (c : Chip) : (modPf n f c).fxHold = c.fxHold := rfl
@[simp] theorem modPf_host (n : Nat) (f : Feedback → Feedback) (c : Chip) : (modPf n f c).host = c.host := rfl
@[simp] theorem modPf_sys (n : Nat) (f : Feedback → Feedback) (c : Chip) : (modPf n f c).sys = c.sys := rfl
@[simp] theorem modPf_beam (n : Nat) (f : Feedback → Feedback) (c : Chip) : (modPf n f c).beam = c.beam := rfl
@[simp] theorem modPf_img (n : Nat) (f : Feedback → Feedback) (c : Chip) : (modPf n f c).img = c.img := rfl
@[simp] theorem modPf_lad (n : Nat) (f : Feedback → Feedback) (c : Chip) : (modPf n f c).lad = c.lad := rfl
@[simp] theorem modPf_kt (n : Nat) (f : Feedback → Feedback) (c : Chip) : (modPf n f c).kt = c.kt := rfl
@[simp] theorem modPf_mem (n : Nat) (f : Feedback → Feedback) (c : Chip) : (modPf n f c).mem = c.mem := rfl
@[simp] theorem modPf_rd (n : Nat) (f : Feedback → Feedback) (c : Chip) (g : Fld) : (modPf n f c).rd g = c.rd g := rd_congr (by simp) g

/-! ### modEmu -/

@[simp] theorem modEmu_regs (n : Nat) (f : Emu → Emu) (c : Chip) : (modEmu n f c).regs = c.regs := rfl
@[simp] theorem modEmu_tables (n : Nat) (f : Emu → Emu) (c : Chip) : (modEmu n f c).tables = c.tables := rfl
@[simp] theorem modEmu_fix (n : Nat) (f : Emu → Emu) (c : Chip) : (modEmu n f c).fix = c.fix := rfl
@[simp] theorem modEmu_crockMem (n : Nat) (f : Emu → Emu) (c : Chip) : (modEmu n f c).crockMem = c.crockMem := rfl
@[simp] theorem modEmu_fresh (n : Nat) (f : Emu → Emu) (c : Chip) : (modEmu n f c).fresh = c.fresh := rfl
@[simp] theorem modEmu_dram (n : Nat) (f : Emu → Emu) (c : Chip) : (modEmu n f c).dram = c.dram := rfl
@[simp] theorem modEmu_losses (n : Nat) (f : Emu → Emu) (c : Chip) : (modEmu n f c).losses = c.losses := rfl
@[simp] theorem modEmu_out (n : Nat) (f : Emu → Emu) (c : Chip) : (modEmu n f c).out = c.out := rfl
@[simp] theorem modEmu_hold (n : Nat) (f : Emu → Emu) (c : Chip) : (modEmu n f c).hold = c.hold := rfl
@[simp] theorem modEmu_fxHold (n : Nat) (f : Emu → Emu) (c : Chip) : (modEmu n f c).fxHold = c.fxHold := rfl
@[simp] theorem modEmu_host (n : Nat) (f : Emu → Emu) (c : Chip) : (modEmu n f c).host = c.host := rfl
@[simp] theorem modEmu_sys (n : Nat) (f : Emu → Emu) (c : Chip) : (modEmu n f c).sys = c.sys := rfl
@[simp] theorem modEmu_beam (n : Nat) (f : Emu → Emu) (c : Chip) : (modEmu n f c).beam = c.beam := rfl
@[simp] theorem modEmu_img (n : Nat) (f : Emu → Emu) (c : Chip) : (modEmu n f c).img = c.img := rfl
@[simp] theorem modEmu_lad (n : Nat) (f : Emu → Emu) (c : Chip) : (modEmu n f c).lad = c.lad := rfl
@[simp] theorem modEmu_kt (n : Nat) (f : Emu → Emu) (c : Chip) : (modEmu n f c).kt = c.kt := rfl
@[simp] theorem modEmu_mem (n : Nat) (f : Emu → Emu) (c : Chip) : (modEmu n f c).mem = c.mem := rfl
@[simp] theorem modEmu_rd (n : Nat) (f : Emu → Emu) (c : Chip) (g : Fld) : (modEmu n f c).rd g = c.rd g := rd_congr (by simp) g

/-! ### modAx -/

@[simp] theorem modAx_regs (n : Nat) (f : Axis → Axis) (c : Chip) : (modAx n f c).regs = c.regs := rfl
@[simp] theorem modAx_tables (n : Nat) (f : Axis → Axis) (c : Chip) : (modAx n f c).tables = c.tables := rfl
@[simp] theorem modAx_fix (n : Nat) (f : Axis → Axis) (c : Chip) : (modAx n f c).fix = c.fix := rfl
@[simp] theorem modAx_crockMem (n : Nat) (f : Axis → Axis) (c : Chip) : (modAx n f c).crockMem = c.crockMem := rfl
@[simp] theorem modAx_fresh (n : Nat) (f : Axis → Axis) (c : Chip) : (modAx n f c).fresh = c.fresh := rfl
@[simp] theorem modAx_dram (n : Nat) (f : Axis → Axis) (c : Chip) : (modAx n f c).dram = c.dram := rfl
@[simp] theorem modAx_losses (n : Nat) (f : Axis → Axis) (c : Chip) : (modAx n f c).losses = c.losses := rfl
@[simp] theorem modAx_out (n : Nat) (f : Axis → Axis) (c : Chip) : (modAx n f c).out = c.out := rfl
@[simp] theorem modAx_hold (n : Nat) (f : Axis → Axis) (c : Chip) : (modAx n f c).hold = c.hold := rfl
@[simp] theorem modAx_fxHold (n : Nat) (f : Axis → Axis) (c : Chip) : (modAx n f c).fxHold = c.fxHold := rfl
@[simp] theorem modAx_host (n : Nat) (f : Axis → Axis) (c : Chip) : (modAx n f c).host = c.host := rfl
@[simp] theorem modAx_sys (n : Nat) (f : Axis → Axis) (c : Chip) : (modAx n f c).sys = c.sys := rfl
@[simp] theorem modAx_beam (n : Nat) (f : Axis → Axis) (c : Chip) : (modAx n f c).beam = c.beam := rfl
@[simp] theorem modAx_img (n : Nat) (f : Axis → Axis) (c : Chip) : (modAx n f c).img = c.img := rfl
@[simp] theorem modAx_lad (n : Nat) (f : Axis → Axis) (c : Chip) : (modAx n f c).lad = c.lad := rfl
@[simp] theorem modAx_kt (n : Nat) (f : Axis → Axis) (c : Chip) : (modAx n f c).kt = c.kt := rfl
@[simp] theorem modAx_mem (n : Nat) (f : Axis → Axis) (c : Chip) : (modAx n f c).mem = c.mem := rfl
@[simp] theorem modAx_rd (n : Nat) (f : Axis → Axis) (c : Chip) (g : Fld) : (modAx n f c).rd g = c.rd g := rd_congr (by simp) g

/-! ### modKt -/

@[simp] theorem modKt_regs (f : Kettle → Kettle) (c : Chip) : (modKt f c).regs = c.regs := rfl
@[simp] theorem modKt_tables (f : Kettle → Kettle) (c : Chip) : (modKt f c).tables = c.tables := rfl
@[simp] theorem modKt_fix (f : Kettle → Kettle) (c : Chip) : (modKt f c).fix = c.fix := rfl
@[simp] theorem modKt_crockMem (f : Kettle → Kettle) (c : Chip) : (modKt f c).crockMem = c.crockMem := rfl
@[simp] theorem modKt_fresh (f : Kettle → Kettle) (c : Chip) : (modKt f c).fresh = c.fresh := rfl
@[simp] theorem modKt_dram (f : Kettle → Kettle) (c : Chip) : (modKt f c).dram = c.dram := rfl
@[simp] theorem modKt_losses (f : Kettle → Kettle) (c : Chip) : (modKt f c).losses = c.losses := rfl
@[simp] theorem modKt_out (f : Kettle → Kettle) (c : Chip) : (modKt f c).out = c.out := rfl
@[simp] theorem modKt_hold (f : Kettle → Kettle) (c : Chip) : (modKt f c).hold = c.hold := rfl
@[simp] theorem modKt_fxHold (f : Kettle → Kettle) (c : Chip) : (modKt f c).fxHold = c.fxHold := rfl
@[simp] theorem modKt_host (f : Kettle → Kettle) (c : Chip) : (modKt f c).host = c.host := rfl
@[simp] theorem modKt_sys (f : Kettle → Kettle) (c : Chip) : (modKt f c).sys = c.sys := rfl
@[simp] theorem modKt_beam (f : Kettle → Kettle) (c : Chip) : (modKt f c).beam = c.beam := rfl
@[simp] theorem modKt_img (f : Kettle → Kettle) (c : Chip) : (modKt f c).img = c.img := rfl
@[simp] theorem modKt_lad (f : Kettle → Kettle) (c : Chip) : (modKt f c).lad = c.lad := rfl
@[simp] theorem modKt_mot (f : Kettle → Kettle) (c : Chip) : (modKt f c).mot = c.mot := rfl
@[simp] theorem modKt_mem (f : Kettle → Kettle) (c : Chip) : (modKt f c).mem = c.mem := rfl
@[simp] theorem modKt_rd (f : Kettle → Kettle) (c : Chip) (g : Fld) : (modKt f c).rd g = c.rd g := rd_congr (by simp) g

/-! ### modSlm -/

@[simp] theorem modSlm_regs (f : Slm → Slm) (c : Chip) : (modSlm f c).regs = c.regs := rfl
@[simp] theorem modSlm_tables (f : Slm → Slm) (c : Chip) : (modSlm f c).tables = c.tables := rfl
@[simp] theorem modSlm_fix (f : Slm → Slm) (c : Chip) : (modSlm f c).fix = c.fix := rfl
@[simp] theorem modSlm_crockMem (f : Slm → Slm) (c : Chip) : (modSlm f c).crockMem = c.crockMem := rfl
@[simp] theorem modSlm_fresh (f : Slm → Slm) (c : Chip) : (modSlm f c).fresh = c.fresh := rfl
@[simp] theorem modSlm_dram (f : Slm → Slm) (c : Chip) : (modSlm f c).dram = c.dram := rfl
@[simp] theorem modSlm_losses (f : Slm → Slm) (c : Chip) : (modSlm f c).losses = c.losses := rfl
@[simp] theorem modSlm_out (f : Slm → Slm) (c : Chip) : (modSlm f c).out = c.out := rfl
@[simp] theorem modSlm_hold (f : Slm → Slm) (c : Chip) : (modSlm f c).hold = c.hold := rfl
@[simp] theorem modSlm_fxHold (f : Slm → Slm) (c : Chip) : (modSlm f c).fxHold = c.fxHold := rfl
@[simp] theorem modSlm_host (f : Slm → Slm) (c : Chip) : (modSlm f c).host = c.host := rfl
@[simp] theorem modSlm_sys (f : Slm → Slm) (c : Chip) : (modSlm f c).sys = c.sys := rfl
@[simp] theorem modSlm_beam (f : Slm → Slm) (c : Chip) : (modSlm f c).beam = c.beam := rfl
@[simp] theorem modSlm_img (f : Slm → Slm) (c : Chip) : (modSlm f c).img = c.img := rfl
@[simp] theorem modSlm_lad (f : Slm → Slm) (c : Chip) : (modSlm f c).lad = c.lad := rfl
@[simp] theorem modSlm_mot (f : Slm → Slm) (c : Chip) : (modSlm f c).mot = c.mot := rfl
@[simp] theorem modSlm_kt (f : Slm → Slm) (c : Chip) : (modSlm f c).kt = c.kt := rfl
@[simp] theorem modSlm_rd (f : Slm → Slm) (c : Chip) (g : Fld) : (modSlm f c).rd g = c.rd g := rd_congr (by simp) g

/-! ### modDram -/

@[simp] theorem modDram_regs (n : Nat) (f : DramCh → DramCh) (c : Chip) : (modDram n f c).regs = c.regs := rfl
@[simp] theorem modDram_tables (n : Nat) (f : DramCh → DramCh) (c : Chip) : (modDram n f c).tables = c.tables := rfl
@[simp] theorem modDram_fix (n : Nat) (f : DramCh → DramCh) (c : Chip) : (modDram n f c).fix = c.fix := rfl
@[simp] theorem modDram_crockMem (n : Nat) (f : DramCh → DramCh) (c : Chip) : (modDram n f c).crockMem = c.crockMem := rfl
@[simp] theorem modDram_fresh (n : Nat) (f : DramCh → DramCh) (c : Chip) : (modDram n f c).fresh = c.fresh := rfl
@[simp] theorem modDram_dram (n : Nat) (f : DramCh → DramCh) (c : Chip) : (modDram n f c).dram = c.dram := rfl
@[simp] theorem modDram_losses (n : Nat) (f : DramCh → DramCh) (c : Chip) : (modDram n f c).losses = c.losses := rfl
@[simp] theorem modDram_out (n : Nat) (f : DramCh → DramCh) (c : Chip) : (modDram n f c).out = c.out := rfl
@[simp] theorem modDram_hold (n : Nat) (f : DramCh → DramCh) (c : Chip) : (modDram n f c).hold = c.hold := rfl
@[simp] theorem modDram_fxHold (n : Nat) (f : DramCh → DramCh) (c : Chip) : (modDram n f c).fxHold = c.fxHold := rfl
@[simp] theorem modDram_host (n : Nat) (f : DramCh → DramCh) (c : Chip) : (modDram n f c).host = c.host := rfl
@[simp] theorem modDram_sys (n : Nat) (f : DramCh → DramCh) (c : Chip) : (modDram n f c).sys = c.sys := rfl
@[simp] theorem modDram_beam (n : Nat) (f : DramCh → DramCh) (c : Chip) : (modDram n f c).beam = c.beam := rfl
@[simp] theorem modDram_img (n : Nat) (f : DramCh → DramCh) (c : Chip) : (modDram n f c).img = c.img := rfl
@[simp] theorem modDram_lad (n : Nat) (f : DramCh → DramCh) (c : Chip) : (modDram n f c).lad = c.lad := rfl
@[simp] theorem modDram_mot (n : Nat) (f : DramCh → DramCh) (c : Chip) : (modDram n f c).mot = c.mot := rfl
@[simp] theorem modDram_kt (n : Nat) (f : DramCh → DramCh) (c : Chip) : (modDram n f c).kt = c.kt := rfl
@[simp] theorem modDram_rd (n : Nat) (f : DramCh → DramCh) (c : Chip) (g : Fld) : (modDram n f c).rd g = c.rd g := rd_congr (by simp) g

/-! ### modDma -/

@[simp] theorem modDma_regs (n : Nat) (f : DmaCh → DmaCh) (c : Chip) : (modDma n f c).regs = c.regs := rfl
@[simp] theorem modDma_tables (n : Nat) (f : DmaCh → DmaCh) (c : Chip) : (modDma n f c).tables = c.tables := rfl
@[simp] theorem modDma_fix (n : Nat) (f : DmaCh → DmaCh) (c : Chip) : (modDma n f c).fix = c.fix := rfl
@[simp] theorem modDma_crockMem (n : Nat) (f : DmaCh → DmaCh) (c : Chip) : (modDma n f c).crockMem = c.crockMem := rfl
@[simp] theorem modDma_fresh (n : Nat) (f : DmaCh → DmaCh) (c : Chip) : (modDma n f c).fresh = c.fresh := rfl
@[simp] theorem modDma_dram (n : Nat) (f : DmaCh → DmaCh) (c : Chip) : (modDma n f c).dram = c.dram := rfl
@[simp] theorem modDma_losses (n : Nat) (f : DmaCh → DmaCh) (c : Chip) : (modDma n f c).losses = c.losses := rfl
@[simp] theorem modDma_out (n : Nat) (f : DmaCh → DmaCh) (c : Chip) : (modDma n f c).out = c.out := rfl
@[simp] theorem modDma_hold (n : Nat) (f : DmaCh → DmaCh) (c : Chip) : (modDma n f c).hold = c.hold := rfl
@[simp] theorem modDma_fxHold (n : Nat) (f : DmaCh → DmaCh) (c : Chip) : (modDma n f c).fxHold = c.fxHold := rfl
@[simp] theorem modDma_host (n : Nat) (f : DmaCh → DmaCh) (c : Chip) : (modDma n f c).host = c.host := rfl
@[simp] theorem modDma_sys (n : Nat) (f : DmaCh → DmaCh) (c : Chip) : (modDma n f c).sys = c.sys := rfl
@[simp] theorem modDma_beam (n : Nat) (f : DmaCh → DmaCh) (c : Chip) : (modDma n f c).beam = c.beam := rfl
@[simp] theorem modDma_img (n : Nat) (f : DmaCh → DmaCh) (c : Chip) : (modDma n f c).img = c.img := rfl
@[simp] theorem modDma_lad (n : Nat) (f : DmaCh → DmaCh) (c : Chip) : (modDma n f c).lad = c.lad := rfl
@[simp] theorem modDma_mot (n : Nat) (f : DmaCh → DmaCh) (c : Chip) : (modDma n f c).mot = c.mot := rfl
@[simp] theorem modDma_kt (n : Nat) (f : DmaCh → DmaCh) (c : Chip) : (modDma n f c).kt = c.kt := rfl
@[simp] theorem modDma_rd (n : Nat) (f : DmaCh → DmaCh) (c : Chip) (g : Fld) : (modDma n f c).rd g = c.rd g := rd_congr (by simp) g

/-! ### askQuench -/

@[simp] theorem askQuench_regs (n b k f : Nat) (c : Chip) : (askQuench n b k f c).regs = c.regs := rfl
@[simp] theorem askQuench_tables (n b k f : Nat) (c : Chip) : (askQuench n b k f c).tables = c.tables := rfl
@[simp] theorem askQuench_fix (n b k f : Nat) (c : Chip) : (askQuench n b k f c).fix = c.fix := rfl
@[simp] theorem askQuench_crockMem (n b k f : Nat) (c : Chip) : (askQuench n b k f c).crockMem = c.crockMem := rfl
@[simp] theorem askQuench_fresh (n b k f : Nat) (c : Chip) : (askQuench n b k f c).fresh = c.fresh := rfl
@[simp] theorem askQuench_dram (n b k f : Nat) (c : Chip) : (askQuench n b k f c).dram = c.dram := rfl
@[simp] theorem askQuench_losses (n b k f : Nat) (c : Chip) : (askQuench n b k f c).losses = c.losses := rfl
@[simp] theorem askQuench_out (n b k f : Nat) (c : Chip) : (askQuench n b k f c).out = c.out := rfl
@[simp] theorem askQuench_hold (n b k f : Nat) (c : Chip) : (askQuench n b k f c).hold = c.hold := rfl
@[simp] theorem askQuench_fxHold (n b k f : Nat) (c : Chip) : (askQuench n b k f c).fxHold = c.fxHold := rfl
@[simp] theorem askQuench_host (n b k f : Nat) (c : Chip) : (askQuench n b k f c).host = c.host := rfl
@[simp] theorem askQuench_sys (n b k f : Nat) (c : Chip) : (askQuench n b k f c).sys = c.sys := rfl
@[simp] theorem askQuench_img (n b k f : Nat) (c : Chip) : (askQuench n b k f c).img = c.img := rfl
@[simp] theorem askQuench_lad (n b k f : Nat) (c : Chip) : (askQuench n b k f c).lad = c.lad := rfl
@[simp] theorem askQuench_mot (n b k f : Nat) (c : Chip) : (askQuench n b k f c).mot = c.mot := rfl
@[simp] theorem askQuench_kt (n b k f : Nat) (c : Chip) : (askQuench n b k f c).kt = c.kt := rfl
@[simp] theorem askQuench_mem (n b k f : Nat) (c : Chip) : (askQuench n b k f c).mem = c.mem := rfl
@[simp] theorem askQuench_rd (n b k f : Nat) (c : Chip) (g : Fld) : (askQuench n b k f c).rd g = c.rd g := rd_congr (by simp) g

end Sys2Proof.Machine
end

