-- ==== Sys2Proof/Laws/Runs.lean ====
section
/-! SUPPORT. What a command can do at most, said once: `guarded` and its kin, the fall of BEAM_PERMIT, the JTAG port. -/

namespace Sys2Proof.Machine

open Sys2Proof

/-! ### BEAM_PERMIT (R513) -/

theorem permitOk_wr_permit (v : Nat) (c : Chip) : (wr Reg.GIO_STATUS_permit v c).permitOk = c.permitOk := by
  have h (f : Fld) (k : f.key ≠ Reg.GIO_STATUS_permit.key) :
      (wr Reg.GIO_STATUS_permit v c).rd f = c.rd f := rd_wr_ne k v c
  simp only [Chip.permitOk, Chip.flag, Chip.dramState]
  rw [h Reg.GIO_CTL_permit_en (by decide), h Reg.GIO_STATUS_quench_a (by decide), h Reg.GIO_STATUS_quench_b (by decide),
    h (Reg.DMC_STATUS_state 0) (by decide), h (Reg.DMC_STATUS_state 1) (by decide)]
  simp

theorem permitFall_safe (c : Chip) : (permitFall c).permitSafe := by
  unfold Chip.permitSafe permitFall
  split
  · rename_i h; exact fun _ => h
  · intro h
    simp [Chip.flag, rd_wr_same] at h

/-- A device is as safe as another with the same registers, envelope, reset and PORST_n. -/
theorem permitSafe_congr {c d : Chip} (hr : d.regs = c.regs) (hh : d.host = c.host) (hs : d.sys = c.sys)
    (h : c.permitSafe) : d.permitSafe := by
  have e (f : Fld) : d.rd f = c.rd f := rd_congr hr f
  unfold Chip.permitSafe Chip.permitOk Chip.flag Chip.dramState at *
  simp only [e, hh, hs]
  exact h

/-! ### What a command may change -/

theorem guarded_held {c : Chip} (h : c.sys.pwr.porst = true) (f : Chip → Chip) : guarded f c = { c with out := [] } := by
  simp [guarded, h]

theorem guardedTime_held {c : Chip} (h : c.sys.pwr.porst = true) (k : Nat) (f : Chip → Chip) :
    guardedTime k f c = { c with out := [] } := by
  simp [guardedTime, h]

theorem guardedCrock_held {c : Chip} (h : c.sys.pwr.porst = true) (f : Chip → Chip) :
    guardedCrock f c = { c with out := [] } := by
  simp [guardedCrock, h]

theorem guarded_run {c : Chip} (h : c.sys.pwr.porst = false) (f : Chip → Chip) :
    guarded f c = { permitFall (f { c with out := [] }) with fix := c.fix, crockMem := c.crockMem } := by
  simp [guarded, h]

@[simp] theorem guarded_fix (f : Chip → Chip) (c : Chip) : (guarded f c).fix = c.fix := by
  unfold guarded; split <;> rfl

@[simp] theorem guarded_crockMem (f : Chip → Chip) (c : Chip) : (guarded f c).crockMem = c.crockMem := by
  unfold guarded; split <;> rfl

@[simp] theorem guardedCrock_fix (f : Chip → Chip) (c : Chip) : (guardedCrock f c).fix = c.fix := by
  unfold guardedCrock; split <;> rfl

@[simp] theorem guardedTime_crockMem (k : Nat) (f : Chip → Chip) (c : Chip) : (guardedTime k f c).crockMem = c.crockMem := by
  unfold guardedTime; split <;> rfl

@[simp] theorem guardedTime_otp (k : Nat) (f : Chip → Chip) (c : Chip) : (guardedTime k f c).fix.otp = c.fix.otp := by
  unfold guardedTime; split <;> rfl

theorem guardedTime_beat {c : Chip} (h : c.sys.pwr.porst = false) (k : Nat) (f : Chip → Chip) :
    (guardedTime k f c).fix.beat = c.fix.beat + BitVec.ofNat 64 k := by
  simp [guardedTime, h]

@[simp] theorem guardedPower_fix (f : Chip → Chip) (c : Chip) : (guardedPower f c).fix = c.fix := rfl

@[simp] theorem guardedPower_crockMem (f : Chip → Chip) (c : Chip) : (guardedPower f c).crockMem = c.crockMem := rfl

/-- What a command sends is what its effect sends: nothing sent before is left. -/
theorem guarded_out {c : Chip} (h : c.sys.pwr.porst = false) (f : Chip → Chip) :
    (guarded f c).out = (f { c with out := [] }).out := by
  rw [guarded_run h]; simp

/-- A register field other than BEAM_PERMIT reads as the effect leaves it. -/
theorem guarded_rd {c : Chip} (h : c.sys.pwr.porst = false) (f : Chip → Chip) {g : Fld}
    (k : g.key ≠ Reg.GIO_STATUS_permit.key) : (guarded f c).rd g = (f { c with out := [] }).rd g := by
  rw [guarded_run h]
  show (permitFall (f { c with out := [] })).rd g = _
  unfold permitFall
  split
  · rfl
  · exact rd_wr_ne k _ _

theorem guarded_safe (f : Chip → Chip) {c : Chip} (h : c.permitSafe) : (guarded f c).permitSafe := by
  unfold guarded
  split
  · exact permitSafe_congr rfl rfl rfl h
  · exact permitSafe_congr rfl rfl rfl (permitFall_safe (f { c with out := [] }))

theorem guardedTime_safe (k : Nat) (f : Chip → Chip) {c : Chip} (h : c.permitSafe) : (guardedTime k f c).permitSafe := by
  unfold guardedTime
  split
  · exact permitSafe_congr rfl rfl rfl h
  · exact permitSafe_congr rfl rfl rfl (permitFall_safe (f { c with out := [] }))

theorem guardedCrock_safe (f : Chip → Chip) {c : Chip} (h : c.permitSafe) : (guardedCrock f c).permitSafe := by
  unfold guardedCrock
  split
  · exact permitSafe_congr rfl rfl rfl h
  · exact permitSafe_congr rfl rfl rfl (permitFall_safe (f { c with out := [] }))

theorem guardedPower_safe (f : Chip → Chip) (c : Chip) : (guardedPower f c).permitSafe :=
  permitSafe_congr rfl rfl rfl (permitFall_safe (f { c with out := [] }))

/-! ### The JTAG port (R547) -/

theorem foldl_or_lt {n : Nat} (l : List Nat) : ∀ a, a < 2 ^ n → (∀ i ∈ l, i < n) →
    l.foldl (fun m k => m ||| 2 ^ k) a < 2 ^ n := by
  induction l with
  | nil => intro a h _; exact h
  | cons x l ih =>
    intro a h hl
    refine ih _ ?_ fun i hi => hl i (List.mem_cons_of_mem _ hi)
    exact Nat.or_lt_two_pow h (Nat.pow_lt_pow_right (by omega) (hl x (List.mem_cons_self)))

theorem maskOf_lt {l : List Nat} {n : Nat} (h : ∀ i ∈ l, i < n) : maskOf l < 2 ^ n :=
  foldl_or_lt l 0 (Nat.two_pow_pos n) h

theorem rise_wf {p d : Bool} {j : Jtag} (h : j.wf) : (j.rise p d).wf := by
  obtain ⟨h1, h2, h3, h4⟩ := h
  unfold Jtag.rise
  split
  · split
    · exact ⟨h1, h2, by simp, h4⟩
    · exact ⟨h1, h2, h3, h4⟩
  · split
    · refine ⟨h1, h2, ?_, h4⟩
      simp [h3]
    · exact ⟨h1, h2, h3, h4⟩
  · refine ⟨h1, ?_, h3, h4⟩
    have hm : maskOf ((List.range 6).filter (Config.captured j.captures)) < 2 ^ 6 :=
      maskOf_lt fun i hi => List.mem_range.1 (List.mem_filter.1 hi).1
    show 4 * maskOf _ + 1 < 256
    omega
  · refine ⟨h1, ?_, h3, h4⟩
    show j.irShift / 2 + 128 * b2n d < 256
    have : b2n d ≤ 1 := by cases d <;> decide
    omega
  · exact ⟨h1, h2, h3, h4⟩

theorem fall_wf {p : Bool} {j : Jtag} (h : j.wf) : (Jtag.fall p j).wf := by
  obtain ⟨h1, h2, h3, h4⟩ := h
  unfold Jtag.fall
  split
  · exact ⟨Nat.lt_of_sub_eq_succ rfl, h2, h3, h4⟩
  · exact ⟨h2, h2, h3, h4⟩
  · split
    · exact ⟨h1, h2, h3, h3⟩
    · exact ⟨h1, h2, h3, h4⟩
  all_goals exact ⟨h1, h2, h3, h4⟩

/-- A cycle of TCK keeps the lengths of the port's registers. -/
theorem tck_wf {p m d : Bool} {j : Jtag} (h : j.wf) : (j.tck p m d).wf := by
  have hr := rise_wf (p := p) (d := d) h
  exact fall_wf (j := { j.rise p d with tap := (j.rise p d).tap.next m }) hr

end Sys2Proof.Machine
end

