-- ==== Sys2Proof/Laws/Frames.lean ====
section
/-! SUPPORT. Frames: which registers and which parts of the device an operation can change at most, said once for each
shared operation, and how such facts compose. -/

namespace Sys2Proof.Machine

open Sys2Proof

/-! ### Register frames compose -/

theorem regsKept_refl (l : List Fld) (c : Chip) : Chip.regsKept l c c := fun _ _ => rfl

theorem regsKept_trans {l : List Fld} {a b c : Chip} (h : Chip.regsKept l a b) (k : Chip.regsKept l b c) :
    Chip.regsKept l a c := fun g hg => (k g hg).trans (h g hg)

theorem regsKept_mono {l m : List Fld} {a b : Chip} (h : Chip.regsKept l a b) (hm : l ⊆ m) : Chip.regsKept m a b :=
  fun g hg => h g fun f hf => hg f (hm hf)

theorem regsKept_regs {l : List Fld} {a b c : Chip} (h : Chip.regsKept l a b) (e : c.regs = b.regs) :
    Chip.regsKept l a c := fun g hg => (rd_congr e g).trans (h g hg)

theorem regsKept_wr {l : List Fld} {a b : Chip} {f : Fld} (h : Chip.regsKept l a b) (hf : f ∈ l) (v : Nat) :
    Chip.regsKept l a (wr f v b) := fun g hg => (rd_wr_ne (hg f hf) v b).trans (h g hg)

theorem regsKept_wrB {l : List Fld} {a b : Chip} {f : Fld} (h : Chip.regsKept l a b) (hf : f ∈ l) (v : Bool) :
    Chip.regsKept l a (wrB f v b) := regsKept_wr h hf _

theorem regsKept_wrS {l : List Fld} {a b : Chip} {f : Fld} (h : Chip.regsKept l a b) (hf : f ∈ l) (v : Int) :
    Chip.regsKept l a (wrS f v b) := regsKept_wr h hf _

theorem regsKept_wr2 {l : List Fld} {a b : Chip} {f g : Fld} (h : Chip.regsKept l a b) (hf : f ∈ l) (hg : g ∈ l)
    (v : Nat) : Chip.regsKept l a (wr2 f g v b) := regsKept_wr (regsKept_wr h hf _) hg _

theorem regsKept_incWrap {l : List Fld} {a b : Chip} {f : Fld} (h : Chip.regsKept l a b) (hf : f ∈ l) :
    Chip.regsKept l a (incWrap f b) := regsKept_wr h hf _

theorem regsKept_incSat {l : List Fld} {a b : Chip} {f : Fld} (h : Chip.regsKept l a b) (hf : f ∈ l) :
    Chip.regsKept l a (incSat f b) := by
  unfold incSat
  split
  · exact regsKept_wr h hf _
  · exact h

theorem regsKept_inc {l : List Fld} {a b : Chip} {f g : Fld} (h : Chip.regsKept l a b) (hf : f ∈ l) (hg : g ∈ l)
    (k : Nat) : Chip.regsKept l a (inc f g k b) := by
  unfold inc
  split
  · exact regsKept_wr h hf _
  · exact regsKept_wr (regsKept_wr h hf _) hg _

theorem regsKept_incBy {l : List Fld} {a b : Chip} {f g : Fld} (h : Chip.regsKept l a b) (hf : f ∈ l) (hg : g ∈ l)
    (n k : Nat) : Chip.regsKept l a (incBy n f g k b) := by
  unfold incBy
  split
  · exact regsKept_wr h hf _
  · exact regsKept_wr (regsKept_wr h hf _) hg _

theorem regsKept_forEach {α : Type} {l : List Fld} {a : Chip} {f : α → Chip → Chip} (xs : List α) {b : Chip}
    (h : Chip.regsKept l a b) (hf : ∀ x ∈ xs, ∀ c, Chip.regsKept l a c → Chip.regsKept l a (f x c)) :
    Chip.regsKept l a (forEach xs f b) := by
  induction xs generalizing b with
  | nil => exact h
  | cons x xs ih =>
    exact ih (hf x (List.mem_cons_self) b h) fun y hy => hf y (List.mem_cons_of_mem _ hy)

theorem regsKept_when {l : List Fld} {a b : Chip} {f : Chip → Chip} {p : Bool} (h : Chip.regsKept l a b)
    (hf : Chip.regsKept l a (f b)) : Chip.regsKept l a (when p f b) := by
  cases p <;> assumption

theorem regsKept_permitFall {l : List Fld} {a b : Chip} (h : Chip.regsKept l a b) (hf : Reg.GIO_STATUS_permit ∈ l) :
    Chip.regsKept l a (permitFall b) := by
  unfold permitFall
  split
  · exact h
  · exact regsKept_wr h hf _

/-- What a command's effect keeps, the command keeps. -/
theorem regsKept_guarded {l : List Fld} {c : Chip} {f : Chip → Chip} (hp : c.sys.pwr.porst = false)
    (h : Chip.regsKept l { c with out := [] } (f { c with out := [] })) (hf : Reg.GIO_STATUS_permit ∈ l) :
    Chip.regsKept l c (guarded f c) := by
  rw [guarded_run hp]
  exact regsKept_permitFall (a := { c with out := [] }) h hf

/-! ### Counters (R13) -/

theorem bit_withBit {n k w : Nat} (hk : k < w) : bit (withBit n k true % 2 ^ w) k = true := by
  simp [bit, withBit, Nat.testBit_mod_two_pow, hk, Nat.testBit_or]

/-- One event counted. -/
theorem counted_inc {f sticky : Fld} (hf : f.key ≠ sticky.key) {k : Nat} (hk : k < sticky.w) (c : Chip) :
    Chip.counted f sticky k c (inc f sticky k c) := by
  unfold Chip.counted inc
  split
  · rename_i h
    refine ⟨?_, fun h' => absurd h (Nat.not_lt.2 h')⟩
    rw [rd_wr_same, Nat.mod_eq_of_lt h]
    omega
  · rename_i h
    have hp : 0 < 2 ^ f.w := Nat.two_pow_pos _
    refine ⟨?_, fun _ => ?_⟩
    · rw [rd_wr_ne hf, rd_wr_same, Nat.mod_eq_of_lt (by omega)]
      omega
    · rw [rd_wr_same]
      exact bit_withBit hk

theorem counted_congr {f sticky : Fld} {k : Nat} {a b c d : Chip} (h : Chip.counted f sticky k b c)
    (h1 : b.rd f = a.rd f) (h2 : d.rd f = c.rd f) (h3 : d.rd sticky = c.rd sticky) : Chip.counted f sticky k a d := by
  unfold Chip.counted at *
  rw [h2, h3, ← h1]
  exact h

/-! ### Parts compose -/

theorem same_refl (c : Chip) (p : Part) : c.same c p := by cases p <;> simp [Chip.same]

theorem same_trans {a b c : Chip} {p : Part} (h : a.same b p) (k : b.same c p) : a.same c p := by
  cases p <;> simp_all [Chip.same]

theorem only_refl (l : List Part) (c : Chip) : Chip.only l c c := fun p _ => same_refl c p

theorem only_trans {l : List Part} {a b c : Chip} (h : Chip.only l a b) (k : Chip.only l b c) : Chip.only l a c :=
  fun p hp => same_trans (h p hp) (k p hp)

theorem only_mono {l m : List Part} {a b : Chip} (h : Chip.only l a b) (hm : l ⊆ m) : Chip.only m a b :=
  fun p hp => h p fun hl => hp (hm hl)

theorem only_regs (l : List Part) (c : Chip) (r : Store) : Chip.only l c { c with regs := r } := by
  intro p _; cases p <;> simp [Chip.same]

theorem only_out (l : List Part) (c : Chip) (t : List Tx) : Chip.only l c { c with out := t } := by
  intro p _; cases p <;> simp [Chip.same]

theorem only_fix (l : List Part) (c : Chip) (x : Fixed) (m : CrockMem) :
    Chip.only l c { c with fix := x, crockMem := m } := by
  intro p _; cases p <;> simp [Chip.same]

theorem only_host {l : List Part} (hl : Part.host ∈ l) (c : Chip) (x : HostSide) : Chip.only l c { c with host := x } := by
  intro p hp
  cases p <;> first | exact absurd hl hp | simp [Chip.same]

theorem only_sys {l : List Part} (hl : Part.sys ∈ l) (c : Chip) (x : Sys) : Chip.only l c { c with sys := x } := by
  intro p hp
  cases p <;> first | exact absurd hl hp | simp [Chip.same]

theorem only_beam {l : List Part} (hl : Part.beam ∈ l) (c : Chip) (x : Beam) : Chip.only l c { c with beam := x } := by
  intro p hp
  cases p <;> first | exact absurd hl hp | simp [Chip.same]

theorem only_mem {l : List Part} (hl : Part.mem ∈ l) (c : Chip) (x : Mem) : Chip.only l c { c with mem := x } := by
  intro p hp
  cases p <;> first | exact absurd hl hp | simp [Chip.same]

theorem only_mot {l : List Part} (hl : Part.mot ∈ l) (c : Chip) (x : Motion) : Chip.only l c { c with mot := x } := by
  intro p hp
  cases p <;> first | exact absurd hl hp | simp [Chip.same]

theorem only_img {l : List Part} (hl : Part.img ∈ l) (c : Chip) (x : Img) : Chip.only l c { c with img := x } := by
  intro p hp
  cases p <;> first | exact absurd hl hp | simp [Chip.same]

theorem only_kt {l : List Part} (hl : Part.kt ∈ l) (c : Chip) (x : Kettle) : Chip.only l c { c with kt := x } := by
  intro p hp
  cases p <;> first | exact absurd hl hp | simp [Chip.same]

theorem only_fresh {l : List Part} (hl : Part.fresh ∈ l) (c : Chip) (x : Nat) : Chip.only l c { c with fresh := x } := by
  intro p hp
  cases p <;> first | exact absurd hl hp | simp [Chip.same]

theorem only_forEach {α : Type} {l : List Part} {f : α → Chip → Chip} (xs : List α) (c : Chip)
    (hf : ∀ x c, Chip.only l c (f x c)) : Chip.only l c (forEach xs f c) := by
  induction xs generalizing c with
  | nil => exact only_refl l c
  | cons x xs ih => exact only_trans (hf x c) (ih (f x c))

theorem only_when {l : List Part} {f : Chip → Chip} {p : Bool} {c : Chip} (hf : Chip.only l c (f c)) :
    Chip.only l c (when p f c) := by
  cases p
  · exact only_refl l c
  · exact hf

/-! ### Parts that an operation changes -/

theorem only_wr (l : List Part) (f : Fld) (v : Nat) (c : Chip) : Chip.only l c (wr f v c) := only_regs l c _

theorem only_wr2 (l : List Part) (f g : Fld) (v : Nat) (c : Chip) : Chip.only l c (wr2 f g v c) := only_regs l c _

theorem only_inc (l : List Part) (f g : Fld) (k : Nat) (c : Chip) : Chip.only l c (inc f g k c) := by
  unfold inc; split <;> exact only_regs l c _

theorem only_incSat (l : List Part) (f : Fld) (c : Chip) : Chip.only l c (incSat f c) := by
  unfold incSat
  split
  · exact only_regs l c _
  · exact only_refl l c

theorem only_permitFall (l : List Part) (c : Chip) : Chip.only l c (permitFall c) := by
  unfold permitFall
  split
  · exact only_refl l c
  · exact only_regs l c _

theorem only_logQueue {l : List Part} (hl : Part.sys ∈ l) (cyc code inst : Nat) (par : List Byte) (c : Chip) :
    Chip.only l c (logQueue cyc code inst par c) := by
  unfold logQueue
  dsimp only
  split
  · exact only_sys hl c _
  · exact only_trans (only_sys hl c _) (only_inc l _ _ _ _)

theorem only_snapTrigger {l : List Part} (hl : Part.sys ∈ l) (src : Nat) (c : Chip) : Chip.only l c (snapTrigger src c) := by
  unfold snapTrigger
  split
  · exact only_trans (only_incSat l _ c) (only_logQueue hl _ _ _ _ _)
  · exact only_sys hl c _

/-- An event changes registers and the system side alone. -/
theorem only_logAt {l : List Part} (hl : Part.sys ∈ l) (cyc code inst : Nat) (par : List Byte) (c : Chip) :
    Chip.only l c (logAt cyc code inst par c) := by
  unfold logAt
  refine only_trans ?_ (only_logQueue hl _ _ _ _ _)
  split
  · exact only_snapTrigger hl _ c
  · exact only_refl l c

theorem only_log {l : List Part} (hl : Part.sys ∈ l) (code inst : Nat) (par : List Byte) (c : Chip) :
    Chip.only l c (log code inst par c) := only_logAt hl _ _ _ _ c

/-- What a command's effect keeps of the parts, the command keeps. -/
theorem only_guarded {l : List Part} {c : Chip} {f : Chip → Chip}
    (h : Chip.only l { c with out := [] } (f { c with out := [] })) : Chip.only l c (guarded f c) := by
  unfold guarded
  split
  · exact only_out l c _
  · exact only_trans (only_out l c [])
      (only_trans h (only_trans (only_permitFall l _) (only_fix l _ _ _)))

theorem regsKept_logQueue {l : List Fld} {a b : Chip} (h : Chip.regsKept l a b) (hl : logRegs ⊆ l)
    (cyc code inst : Nat) (par : List Byte) : Chip.regsKept l a (logQueue cyc code inst par b) := by
  have h0 : Reg.CRK_DROPPED_count ∈ l := hl (by simp [logRegs])
  have h1 : Reg.CRK_STICKY_sat ∈ l := hl (by simp [logRegs])
  unfold logQueue
  dsimp only
  split
  · exact regsKept_regs h rfl
  · refine regsKept_inc (regsKept_regs h ?_) h0 h1 _
    rfl

theorem regsKept_snapTrigger {l : List Fld} {a b : Chip} (h : Chip.regsKept l a b) (hl : logRegs ⊆ l) (src : Nat) :
    Chip.regsKept l a (snapTrigger src b) := by
  have h2 : Reg.SNP_MISSED_value ∈ l := hl (by simp [logRegs])
  unfold snapTrigger
  split
  · exact regsKept_logQueue (regsKept_incSat h h2) hl _ _ _ _
  · exact regsKept_regs h rfl

theorem regsKept_logAt {l : List Fld} {a b : Chip} (h : Chip.regsKept l a b) (hl : logRegs ⊆ l)
    (cyc code inst : Nat) (par : List Byte) : Chip.regsKept l a (logAt cyc code inst par b) := by
  unfold logAt
  refine regsKept_logQueue ?_ hl _ _ _ _
  split
  · exact regsKept_snapTrigger h hl _
  · exact h

theorem regsKept_log {l : List Fld} {a b : Chip} (h : Chip.regsKept l a b) (hl : logRegs ⊆ l)
    (code inst : Nat) (par : List Byte) : Chip.regsKept l a (log code inst par b) :=
  regsKept_logAt h hl _ _ _ _

/-- A notice changes sessions alone. -/
theorem noticeAll_regs (code status : Nat) (body : List Byte) (c : Chip) : (noticeAll code status body c).regs = c.regs := by
  unfold noticeAll
  split
  · rfl
  · rename_i hn
    clear hn
    generalize List.range 8 = l
    induction l generalizing c with
    | nil => rfl
    | cons k l ih =>
      rw [List.foldl_cons, ih]
      split <;> rfl

theorem only_noticeAll {l : List Part} (hl : Part.host ∈ l) (code status : Nat) (body : List Byte) (c : Chip) :
    Chip.only l c (noticeAll code status body c) := by
  unfold noticeAll
  split
  · exact only_refl l c
  · rename_i hn
    clear hn
    generalize List.range 8 = xs
    induction xs generalizing c with
    | nil => exact only_refl l c
    | cons k xs ih =>
      rw [List.foldl_cons]
      refine only_trans ?_ (ih _)
      split
      · exact only_host hl c _
      · exact only_refl l c

theorem regsKept_noticeAll {l : List Fld} {a b : Chip} (h : Chip.regsKept l a b) (code status : Nat)
    (body : List Byte) : Chip.regsKept l a (noticeAll code status body b) :=
  regsKept_regs h (noticeAll_regs _ _ _ _)

theorem result_regs (p : Pend) (status : Nat) (body : List Byte) (c : Chip) : (result p status body c).regs = c.regs := by
  unfold result
  split <;> rfl

theorem only_result {l : List Part} (hl : Part.host ∈ l) (p : Pend) (status : Nat) (body : List Byte) (c : Chip) :
    Chip.only l c (result p status body c) := by
  unfold result
  split
  · exact only_host hl c _
  · exact only_refl l c

theorem regsKept_result {l : List Fld} {a b : Chip} (h : Chip.regsKept l a b) (p : Pend) (status : Nat)
    (body : List Byte) : Chip.regsKept l a (result p status body b) := regsKept_regs h (result_regs _ _ _ _)

end Sys2Proof.Machine
end

