-- ==== Sys2Proof/Laws/Serve.lean ====
section
/-! SUPPORT. How a request is served, said once: a request that the checks admit ends in the reply that its effect gives, and
what a reply changes. -/

namespace Sys2Proof.Machine

open Sys2Proof

/-! ### Sessions -/

theorem modAt_length {α : Type} (l : List α) (i : Nat) (f : α → α) : (modAt l i f).length = l.length := by
  induction l generalizing i with
  | nil => rfl
  | cons a l ih => cases i <;> simp [modAt, ih]

theorem modAt_getD_same {α : Type} {l : List α} {i : Nat} (h : i < l.length) (f : α → α) (d : α) :
    (modAt l i f).getD i d = f (l.getD i d) := by
  induction l generalizing i with
  | nil => simp at h
  | cons a l ih =>
    cases i with
    | zero => rfl
    | succ i => simpa [modAt] using ih (by simpa using h)

theorem modAt_getD_ne {α : Type} (l : List α) {i j : Nat} (h : j ≠ i) (f : α → α) (d : α) :
    (modAt l i f).getD j d = l.getD j d := by
  induction l generalizing i j with
  | nil => rfl
  | cons a l ih =>
    cases i with
    | zero =>
      cases j with
      | zero => exact absurd rfl h
      | succ j => rfl
    | succ i =>
      cases j with
      | zero => rfl
      | succ j => simpa [modAt] using ih (by omega)

theorem modAt_getD_out {α : Type} {l : List α} {i : Nat} (h : l.length ≤ i) (f : α → α) (d : α) :
    (modAt l i f).getD i d = d := by
  rw [List.getD_eq_getElem?_getD, List.getElem?_eq_none (by rw [modAt_length]; exact h)]
  rfl

theorem session_mod_ne {k slot : Nat} (h : k ≠ slot) (f : Session → Session) (c : Chip) :
    (modSession slot f c).session k = c.session k := modAt_getD_ne _ h _ _

/-- What a change of one slot leaves of every session, it leaves of the slot. -/
theorem session_mod_field {α : Type} {p : Session → α} {f : Session → Session} (h : ∀ s, p (f s) = p s) (slot k : Nat)
    (c : Chip) : p ((modSession slot f c).session k) = p (c.session k) := by
  by_cases e : k = slot
  · subst e
    by_cases hk : k < c.host.sec.sessions.length
    · exact (congrArg p (modAt_getD_same hk f _)).trans (h _)
    · have hk := Nat.le_of_not_lt hk
      have : c.session k = Session.free := by
        show c.host.sec.sessions.getD k _ = _
        rw [List.getD_eq_getElem?_getD, List.getElem?_eq_none hk]
        rfl
      rw [this]
      exact congrArg p (modAt_getD_out hk f _)
  · rw [session_mod_ne e]

/-! ### Replies -/

theorem sendReply_out (o : Origin) (op : Nat) (dup nd : Bool) (a : Ans) (c : Chip) :
    (sendReply o op dup nd a c).out = c.out ++ [.serair o.path o.src (txFlags o.path false dup nd) o.claim.toNat
      (c.session o.slot.val).id o.seq.toNat op a.1 a.2 (some (c.session o.slot.val).key)] := by
  unfold sendReply txFrame
  rw [inc_out]
  rfl

theorem sendReply_host (o : Origin) (op : Nat) (dup nd : Bool) (a : Ans) (c : Chip) :
    (sendReply o op dup nd a c).host = c.host := by
  unfold sendReply txFrame
  rw [inc_host]
  rfl

theorem only_sendReply (l : List Part) (o : Origin) (op : Nat) (dup nd : Bool) (a : Ans) (c : Chip) :
    Chip.only l c (sendReply o op dup nd a c) := by
  unfold sendReply txFrame
  exact only_trans (only_out l c _) (only_inc l _ _ _ _)

@[simp] theorem keep_id (r : Reply) (s : Session) : (s.keep r).id = s.id := by simp only [Session.keep]

@[simp] theorem keep_key (r : Reply) (s : Session) : (s.keep r).key = s.key := by simp only [Session.keep]

@[simp] theorem accept_id (seq st status : Nat) (s : Session) : (s.accept seq st status).id = s.id := by
  unfold Session.accept
  dsimp only
  rfl

@[simp] theorem accept_key (seq st status : Nat) (s : Session) : (s.accept seq st status).key = s.key := by
  unfold Session.accept
  dsimp only
  rfl

/-- The first reply of a request that takes its sequence. -/
theorem answer_take {o : Origin} {op : Nat} {a : Ans} (h1 : a.1 ≠ 0x11) (h2 : a.1 ≠ 0x13) (c : Chip) :
    answer o op a c = sendReply o op false false a (modSession o.slot.val (fun s =>
      (s.accept o.seq.toNat (if a.1 = 0x08 then 2 else 3) a.1).keep ⟨o.seq.toNat, op, o.claim.toNat, a.1, a.2⟩) c) := by
  simp [answer, when, h1, h2]

theorem answer_out {o : Origin} {op : Nat} {a : Ans} (h1 : a.1 ≠ 0x11) (h2 : a.1 ≠ 0x13) (c : Chip) :
    (answer o op a c).out = c.out ++ [.serair o.path o.src (1 + 16 * o.path.code) o.claim.toNat (c.session o.slot.val).id
      o.seq.toNat op a.1 a.2 (some (c.session o.slot.val).key)] := by
  have hf : txFlags o.path false false false = 1 + 16 * o.path.code := by simp [txFlags, b2n]
  have key : ∀ F : Session → Session, (∀ s, (F s).id = s.id) → (∀ s, (F s).key = s.key) →
      (sendReply o op false false a (modSession o.slot.val F c)).out = c.out ++ [.serair o.path o.src
        (1 + 16 * o.path.code) o.claim.toNat (c.session o.slot.val).id o.seq.toNat op a.1 a.2
        (some (c.session o.slot.val).key)] := by
    intro F i k
    rw [sendReply_out, session_mod_field (p := Session.id) i, session_mod_field (p := Session.key) k, hf]
    rfl
  rw [answer_take h1 h2]
  exact key _ (fun s => by rw [keep_id, accept_id]) fun s => by rw [keep_key, accept_key]

/-- A reply that takes its sequence changes registers, what is sent and the session. -/
theorem only_answer {l : List Part} (hl : Part.host ∈ l) {o : Origin} {op : Nat} {a : Ans} (h1 : a.1 ≠ 0x11)
    (h2 : a.1 ≠ 0x13) (c : Chip) : Chip.only l c (answer o op a c) := by
  rw [answer_take h1 h2]
  exact only_trans (only_host hl c _) (only_sendReply l _ _ _ _ _ _)

theorem session_congr {c d : Chip} (h : d.host = c.host) (k : Nat) : d.session k = c.session k := by
  simp [Chip.session, h]

theorem answer_session {o : Origin} {op : Nat} {a : Ans} (h1 : a.1 ≠ 0x11) (h2 : a.1 ≠ 0x13) {k : Nat}
    (hk : k ≠ o.slot.val) (c : Chip) : (answer o op a c).session k = c.session k := by
  rw [answer_take h1 h2, session_congr (sendReply_host _ _ _ _ _ _), session_mod_ne hk]

theorem replyRegs_permit (o : Origin) : Reg.GIO_STATUS_permit ∈ replyRegs o := List.mem_cons_self

theorem replyRegs_path (o : Origin) : Reg.SEC_SLOT_STATE_last_path o.slot.val ∈ replyRegs o :=
  List.mem_cons_of_mem _ List.mem_cons_self

theorem replyRegs_frames (o : Origin) : Reg.NET_TX_FRAMES_count o.path.code ∈ replyRegs o :=
  List.mem_cons_of_mem _ (List.mem_cons_of_mem _ List.mem_cons_self)

theorem replyRegs_sticky (o : Origin) : Reg.NET_STICKY_sat o.path.code ∈ replyRegs o :=
  List.mem_cons_of_mem _ (List.mem_cons_of_mem _ (List.mem_cons_of_mem _ List.mem_cons_self))

theorem regsKept_sendReply {l : List Fld} {a b : Chip} (o : Origin) (hl : replyRegs o ⊆ l) (h : Chip.regsKept l a b)
    (op : Nat) (dup nd : Bool) (x : Ans) : Chip.regsKept l a (sendReply o op dup nd x b) :=
  regsKept_inc (regsKept_regs (b := b) (c := send _ b) h rfl) (hl (replyRegs_frames o)) (hl (replyRegs_sticky o)) _

theorem regsKept_answer {l : List Fld} {a b : Chip} {o : Origin} (hl : replyRegs o ⊆ l) (h : Chip.regsKept l a b)
    {x : Ans} (h1 : x.1 ≠ 0x11) (h2 : x.1 ≠ 0x13) (op : Nat) : Chip.regsKept l a (answer o op x b) := by
  rw [answer_take h1 h2]
  exact regsKept_sendReply o hl (regsKept_regs h (modSession_regs _ _ _)) _ _ _ _

/-! ### Arrival -/

theorem only_arrive {l : List Part} (hl : Part.host ∈ l) (o : Origin) (c : Chip) : Chip.only l c (arrive o c) :=
  only_trans (only_host hl c _) (only_wr l _ _ _)

theorem arrive_rd {o : Origin} {g : Fld} (h : g.key ≠ (Reg.SEC_SLOT_STATE_last_path o.slot.val).key) (c : Chip) :
    (arrive o c).rd g = c.rd g := rd_wr_ne h _ _

theorem regsKept_arrive {l : List Fld} {a b : Chip} (o : Origin) (hl : replyRegs o ⊆ l) (h : Chip.regsKept l a b) :
    Chip.regsKept l a (arrive o b) :=
  fun g hg => (arrive_rd (hg _ (hl (replyRegs_path o))) b).trans (h g hg)

theorem arrive_session_field {α : Type} {p : Session → α}
    (h : ∀ (s : Session) n x y, p { s with last := n, srcA := x, srcB := y } = p s) (o : Origin) (k : Nat) (c : Chip) :
    p ((arrive o c).session k) = p (c.session k) := by
  refine session_mod_field (p := p) (fun s => ?_) o.slot.val k c
  cases o.path
  · exact h s _ _ s.srcB
  · exact h s _ s.srcA _

/-- The domains, the control of the paths and the checks read the same after an arrival. -/
theorem arrive_on (o : Origin) (d : Nat) (c : Chip) : (arrive o c).on d = c.on d := by
  have h : (arrive o c).rd Reg.TOP_DOMAIN_ON_on = c.rd Reg.TOP_DOMAIN_ON_on :=
    arrive_rd (by simp [Fld.key, Reg.TOP_DOMAIN_ON_on, Reg.SEC_SLOT_STATE_last_path]; omega) c
  simp only [Chip.on, Chip.shown, h]
  rfl

theorem received_on (b d : Nat) (c : Chip) : (received b c).on d = c.on d := rfl

/-! ### Requests that are carried out -/

theorem headChecks_none {o : Origin} {op role : Nat} {info : OpInfo} {c : Chip} (ha : c.admits o role)
    (hc : info.kind = 2 → op ≥ 0x10 → o.path = c.ctlPath ∧ o.claim.toNat = c.claimOf o.path)
    (hq : info.queued = true → c.host.hg.queue = []) : headChecks o op info role (arrive o c) = none := by
  have hr (g : Fld) (h : g.key ≠ (Reg.SEC_SLOT_STATE_last_path o.slot.val).key) : (arrive o c).rd g = c.rd g :=
    arrive_rd h c
  have e1 : (arrive o c).sessionOpen o.slot.val = true := by
    rw [Chip.sessionOpen, hr _ (by simp [Fld.key, Reg.SEC_SLOT_STATE_state, Reg.SEC_SLOT_STATE_last_path])]
    exact ha.2.1
  have e2 : ¬ (arrive o c).rd (Reg.SEC_SLOT_STATE_role o.slot.val) < role := by
    rw [hr _ (by simp [Fld.key, Reg.SEC_SLOT_STATE_role, Reg.SEC_SLOT_STATE_last_path])]
    exact Nat.not_lt.2 ha.2.2
  have e3 : (arrive o c).ctlPath = c.ctlPath := by
    simp [Chip.ctlPath, Chip.flag,
      hr Reg.HG_STATUS_ctl_path (by simp [Fld.key, Reg.HG_STATUS_ctl_path, Reg.SEC_SLOT_STATE_last_path]; omega)]
  have e4 (p : Path) : (arrive o c).claimOf p = c.claimOf p := by
    cases p
    · exact hr _ (by simp [Fld.key, Reg.HG_CLAIM_claim_a, Reg.SEC_SLOT_STATE_last_path]; omega)
    · exact hr _ (by simp [Fld.key, Reg.HG_CLAIM_claim_b, Reg.SEC_SLOT_STATE_last_path]; omega)
  have e5 : (arrive o c).host.hg.queue = c.host.hg.queue := rfl
  unfold headChecks
  rw [e1, e3, e4, e5]
  simp only [Bool.not_true, Bool.false_eq_true, if_false, if_neg e2]
  split
  · rename_i h
    obtain ⟨h1, h2, h3⟩ := h
    obtain ⟨x, y⟩ := hc h1 h2
    rcases h3 with h3 | h3
    · exact absurd x h3
    · exact absurd y h3
  · split
    · rename_i h
      rw [hq h.1] at h
      simp at h
    · rfl

/-- A request that bypasses the queue and that the checks admit: its effect is carried out and answered. -/
theorem serve_bypass {o : Origin} {op role : Nat} {cmd : Instr} {doms : List Nat} {f : Chip → Ans × Chip} {c : Chip}
    {info : OpInfo} (hi : opInfo op = some info) (hq : info.queued = false) (ha : c.admits o role)
    (hc : info.kind = 2 → op ≥ 0x10 → o.path = c.ctlPath ∧ o.claim.toNat = c.claimOf o.path)
    (hd : ∀ d ∈ doms, c.on d = true) :
    serve o op role cmd none doms (now f) c = answer o op (f (arrive o c)).1 (f (arrive o c)).2 := by
  have hdom : domCheck doms (arrive o c) = none := by
    unfold domCheck
    rw [List.find?_eq_none.2 fun d hm => by simp [arrive_on, hd d hm]]
    rfl
  unfold serve
  simp only [ha.1.2, hi, hq, Bool.not_true, Bool.false_eq_true, if_false,
    headChecks_none ha hc (fun h => by rw [hq] at h; cases h), hdom, now]

/-- The device as a queued command that waits for none finds it; see `Chip.taken`. -/
abbrev Chip.takes (o : Origin) (c : Chip) : Chip := arrive o (received c.now c)

theorem waiterOf_takes (o : Origin) (op : Nat) (c : Chip) : waiterOf o op false (c.takes o) = waiterOf o op false c := by
  have h : ((c.takes o).session o.slot.val).id = (c.session o.slot.val).id :=
    arrive_session_field (p := Session.id) (fun _ _ _ _ => rfl) o o.slot.val (received c.now c)
  unfold waiterOf
  rw [h]

/-- A queued command that meets an empty queue and that the checks admit. -/
theorem serve_queued {o : Origin} {op role : Nat} {cmd : Instr} {doms : List Nat} {f : Chip → Option Ans × Chip} {c : Chip}
    {info : OpInfo} (hi : opInfo op = some info) (hq : info.queued = true) (ha : c.admits o role) (hf : c.free)
    (hc : info.kind = 2 → op ≥ 0x10 → o.path = c.ctlPath ∧ o.claim.toNat = c.claimOf o.path)
    (hd : ∀ d ∈ doms, c.on d = true) :
    serve o op role cmd none doms f c =
      match f (c.takes o) with
      | (some a, d) => finish (waiterOf o op false c) a d
      | (none, d) => modSession o.slot.val (fun s => s.accept o.seq.toNat 2 0) d := by
  have hdom : domCheck doms (c.takes o) = none := by
    unfold domCheck Chip.takes
    rw [List.find?_eq_none.2 fun d hm => by simp [arrive_on, received_on, hd d hm]]
    rfl
  have hb : bootCheck op (c.takes o) = none := by
    have h5 : (c.takes o).rd Reg.MGT_BOOT_STATUS_state = c.rd Reg.MGT_BOOT_STATUS_state :=
      arrive_rd (by simp [Fld.key, Reg.MGT_BOOT_STATUS_state, Reg.SEC_SLOT_STATE_last_path]; omega) _
    have ho : (c.takes o).on pdAPP = true := by rw [Chip.takes, arrive_on, received_on, hf.2.1]
    unfold bootCheck
    simp [h5, hf.2.2, ho]
  have hh : headChecks o op info role (c.takes o) = none :=
    headChecks_none (c := received c.now c) ha hc fun _ => hf.1
  unfold serve
  simp only [ha.1.2, hi, hq, Bool.not_true, Bool.false_eq_true, if_false, if_true, hf.1]
  rw [hh]
  simp only [carry]
  rw [show (waiterOf o op false c).op = op from rfl, hb]
  simp only [hdom]
  rfl

/-- A queued command whose effect answers at once, its session kept. -/
theorem serve_queued_now {o : Origin} {op role : Nat} {cmd : Instr} {doms : List Nat} {f : Chip → Ans × Chip} {c : Chip}
    {info : OpInfo} (hi : opInfo op = some info) (hq : info.queued = true) (ha : c.admits o role) (hf : c.free)
    (hc : info.kind = 2 → op ≥ 0x10 → o.path = c.ctlPath ∧ o.claim.toNat = c.claimOf o.path)
    (hd : ∀ d ∈ doms, c.on d = true)
    (hs : ((f (c.takes o)).2.session o.slot.val).id = ((c.takes o).session o.slot.val).id) :
    serve o op role cmd none doms (now f) c = answer o op (f (c.takes o)).1 (f (c.takes o)).2 := by
  rw [serve_queued hi hq ha hf hc hd]
  show finish (waiterOf o op false c) _ _ = _
  rw [← waiterOf_takes]
  unfold finish
  simp [waiterOf, hs]

theorem taken_eq (o : Origin) (c : Chip) : c.taken o = Chip.takes o { c with out := [] } := rfl

end Sys2Proof.Machine
end

