-- ==== Sys2Proof/Laws/Exec.lean ====
section
/-! SUPPORT. The form of every command's meaning, said once: which of the guards its effect stands under. -/

namespace Sys2Proof

/-- The commands that move no time, do not act on PORST_n or the JTAG port, and write nothing into the Crock's memories. -/
def Instr.plain (i : Instr) : Prop :=
  ¬ i.powerRow ∧ ¬ i.jtagRow ∧ ¬ i.crockRow ∧ i ≠ .timeStep ∧ ¬ ∃ g a, i = .beatOpen g a

end Sys2Proof

namespace Sys2Proof.Machine

open Sys2Proof

/-- The guard under which the effect of a command stands. -/
inductive Shape (i : Instr) (s : State) : Prop
  | runs (f : Chip → Chip) (h : exec i s = runs f s) (hi : i.plain)
  | beat (f : Chip → Chip) (h : exec i s = runsTime 1 f s) (hi : ∃ g a, i = .beatOpen g a)
  | step (f : Chip → Chip) (h : exec i s = runsTime 0 f s) (hi : i = .timeStep)
  | crock (f : Chip → Chip) (h : exec i s = runsCrock f s) (hi : i.crockRow)
  | power (h : i.powerRow)
  | jtag (h : i.jtagRow)

/-- Every command but those of PORST_n, the supplies and the JTAG port stands under a guard that keeps the beat counter, the
OTP and, but for the Crock's own, the Crock's memories. -/
theorem exec_shape (i : Instr) (s : State) : Shape i s := by
  cases i
  case jtagTck m d => exact .jtag (.inr ⟨_, _, rfl⟩)
  case jtagTrst => exact .jtag (.inl rfl)
  case supplyAlarm k b => exact .power (.inr (.inr ⟨_, _, rfl⟩))
  case powerOnReset => exact .power (.inl rfl)
  case powerOnRelease => exact .power (.inr (.inl rfl))
  case beatOpen g a => exact .beat _ rfl ⟨_, _, rfl⟩
  case timeStep => exact .step _ rfl rfl
  case logClearDone => exact .crock _ rfl (.inl rfl)
  case crockTakeEvent => exact .crock _ rfl (.inr (.inl ⟨_, _, rfl⟩))
  case logRead => exact .crock _ rfl (.inr (.inr ⟨_, _, _, _, _, rfl⟩))
  all_goals
    refine .runs _ rfl ⟨?_, ?_, ?_, ?_, ?_⟩
    · rintro (h | h | ⟨_, _, h⟩) <;> cases h
    · rintro (h | ⟨_, _, h⟩) <;> cases h
    · rintro (h | ⟨_, _, h⟩ | ⟨_, _, _, _, _, h⟩) <;> cases h
    · intro h; cases h
    · rintro ⟨_, _, h⟩; cases h

/-- What an alarm of a supply monitor does: within power-on reset, at the start of one, or as a warm reset. -/
theorem exec_supplyAlarm (k : Fin 16) (b : Bool) (s : State) :
    exec (.supplyAlarm k b) s =
      if s.core.sys.pwr.porst then .next { s with core := guardedPower (supplyHeld k.val b) s.core }
      else if b ∧ k.val < 2 then
        let held (p : Pwr) : Pwr := { p with pinLow := false, supplyOut := k.val :: p.supplyOut.filter (· != k.val) }
        .next { s with core := modPwr held (powerOnReset s.core) }
      else runs (supplyAlarm k.val b) s := rfl

end Sys2Proof.Machine
end

