-- ==== Sys2Proof/Laws/Net.lean ====
section
/-! SUPPORT. What the control of the paths and the time servo can change at most: the registers that show them, the sessions'
notices, and the system side. -/

namespace Sys2Proof.Machine

open Sys2Proof

/-! ### Events -/

theorem mem_insertEvent_same (e : Event) (l : List Event) : e ∈ insertEvent e l := by
  induction l with
  | nil => simp [insertEvent]
  | cons x l ih =>
    unfold insertEvent
    split
    · exact List.mem_cons_of_mem _ ih
    · simp

theorem mem_insertEvent {e x : Event} {l : List Event} (h : x ∈ l) : x ∈ insertEvent e l := by
  induction l with
  | nil => simp at h
  | cons y l ih =>
    unfold insertEvent
    split
    · rcases List.mem_cons.1 h with h | h
      · simp [h]
      · exact List.mem_cons_of_mem _ (ih h)
    · exact List.mem_cons_of_mem _ h

theorem length_insertEvent (e : Event) (l : List Event) : (insertEvent e l).length = l.length + 1 := by
  induction l with
  | nil => rfl
  | cons x l ih =>
    unfold insertEvent
    split
    · simp [ih]
    · simp

/-- Every event that waits for the Crock in one device waits in the other. -/
def Chip.eventsKept (c d : Chip) : Prop := ∀ e ∈ c.sys.crock.queue, e ∈ d.sys.crock.queue

theorem logged_of_kept {code inst : Nat} {par : List Byte} {c d : Chip} (h : c.logged code inst par)
    (k : Chip.eventsKept c d) : d.logged code inst par := by
  obtain ⟨e, he, h⟩ := h
  exact ⟨e, k e he, h⟩

theorem eventsKept_logQueue (cyc code inst : Nat) (par : List Byte) (c : Chip) :
    Chip.eventsKept c (logQueue cyc code inst par c) := by
  intro e he
  unfold logQueue
  dsimp only
  split
  · exact List.mem_reverse.2 (mem_insertEvent (List.mem_reverse.2 he))
  · rw [inc_sys]
    exact he

theorem logged_logQueue {c : Chip} (h : c.sys.crock.queue.length < 256) (cyc code inst : Nat) (par : List Byte) :
    (logQueue cyc code inst par c).logged code inst par := by
  unfold logQueue
  dsimp only
  rw [if_pos h]
  exact ⟨⟨code, inst, par, c.time cyc, c.now⟩, List.mem_reverse.2 (mem_insertEvent_same _ _), rfl, rfl, rfl⟩

theorem length_logQueue (cyc code inst : Nat) (par : List Byte) (c : Chip) :
    (logQueue cyc code inst par c).sys.crock.queue.length ≤ c.sys.crock.queue.length + 1 := by
  unfold logQueue
  dsimp only
  split
  · simp [length_insertEvent]
  · rw [inc_sys]
    simp

theorem eventsKept_snapTrigger (src : Nat) (c : Chip) : Chip.eventsKept c (snapTrigger src c) := by
  unfold snapTrigger
  split
  · intro e he
    exact eventsKept_logQueue _ _ _ _ _ e (by rw [incSat_sys]; exact he)
  · exact fun e he => he

theorem length_snapTrigger (src : Nat) (c : Chip) :
    (snapTrigger src c).sys.crock.queue.length ≤ c.sys.crock.queue.length + 1 := by
  unfold snapTrigger
  split
  · exact (length_logQueue _ _ _ _ _).trans (by rw [incSat_sys])
  · exact Nat.le_succ _

theorem eventsKept_logAt (cyc code inst : Nat) (par : List Byte) (c : Chip) :
    Chip.eventsKept c (logAt cyc code inst par c) := by
  intro e he
  unfold logAt
  refine eventsKept_logQueue _ _ _ _ _ e ?_
  split
  · exact eventsKept_snapTrigger _ _ e he
  · exact he

/-- An event finds a place in a queue that has room for two. -/
theorem logged_logAt {c : Chip} (h : c.roomToLog) (cyc code inst : Nat) (par : List Byte) :
    (logAt cyc code inst par c).logged code inst par := by
  unfold logAt
  refine logged_logQueue ?_ _ _ _ _
  split
  · exact Nat.lt_of_le_of_lt (length_snapTrigger _ _) (by unfold Chip.roomToLog at h; omega)
  · unfold Chip.roomToLog at h; omega

theorem logged_log {c : Chip} (h : c.roomToLog) (code inst : Nat) (par : List Byte) :
    (log code inst par c).logged code inst par := logged_logAt h _ _ _ _

/-! ### Changes of registers, sessions and the system side -/

/-- A change of registers listed, of the host and of the system side, with nothing sent and no event lost. -/
def Chip.quiet (l : List Fld) (c d : Chip) : Prop :=
  Chip.regsKept l c d ∧ Chip.only [.host, .sys] c d ∧ d.out = c.out ∧ d.fix = c.fix ∧ Chip.eventsKept c d

theorem quiet_refl (l : List Fld) (c : Chip) : Chip.quiet l c c :=
  ⟨regsKept_refl l c, only_refl _ c, rfl, rfl, fun _ h => h⟩

theorem quiet_trans {l : List Fld} {a b c : Chip} (h : Chip.quiet l a b) (k : Chip.quiet l b c) : Chip.quiet l a c :=
  ⟨regsKept_trans h.1 k.1, only_trans h.2.1 k.2.1, k.2.2.1.trans h.2.2.1, k.2.2.2.1.trans h.2.2.2.1,
    fun e he => k.2.2.2.2 e (h.2.2.2.2 e he)⟩

theorem quiet_ite {l : List Fld} {P : Prop} [Decidable P] {c a b : Chip} (ha : Chip.quiet l c a) (hb : Chip.quiet l c b) :
    Chip.quiet l c (if P then a else b) := by
  split <;> assumption

theorem quiet_wr {l : List Fld} {f : Fld} (hf : f ∈ l) (v : Nat) (c : Chip) : Chip.quiet l c (wr f v c) :=
  ⟨regsKept_wr (regsKept_refl l c) hf v, only_wr _ f v c, rfl, rfl, fun _ h => h⟩

theorem quiet_inc {l : List Fld} {f g : Fld} (hf : f ∈ l) (hg : g ∈ l) (k : Nat) (c : Chip) : Chip.quiet l c (inc f g k c) :=
  ⟨regsKept_inc (regsKept_refl l c) hf hg k, only_inc _ f g k c, inc_out _ _ _ _, inc_fix _ _ _ _,
    fun e he => by rw [inc_sys]; exact he⟩

theorem quiet_log {l : List Fld} (hl : logRegs ⊆ l) (code inst : Nat) (par : List Byte) (c : Chip) :
    Chip.quiet l c (log code inst par c) := by
  refine ⟨regsKept_log (regsKept_refl l c) hl code inst par, only_log (by simp) code inst par c, ?_, ?_,
    eventsKept_logAt _ _ _ _ _⟩
  all_goals
    unfold log logAt
    have key (c : Chip) : (logQueue 0 code inst par c).out = c.out ∧ (logQueue 0 code inst par c).fix = c.fix := by
      unfold logQueue
      dsimp only
      split
      · exact ⟨rfl, rfl⟩
      · exact ⟨inc_out _ _ _ _, inc_fix _ _ _ _⟩
    have snap (c : Chip) : (snapTrigger 3 c).out = c.out ∧ (snapTrigger 3 c).fix = c.fix := by
      unfold snapTrigger
      split
      · unfold logQueue
        dsimp only
        split
        · exact ⟨incSat_out _ _, incSat_fix _ _⟩
        · exact ⟨(inc_out _ _ _ _).trans (incSat_out _ _), (inc_fix _ _ _ _).trans (incSat_fix _ _)⟩
      · exact ⟨rfl, rfl⟩
    split
    · first | exact (key _).1.trans (snap _).1 | exact (key _).2.trans (snap _).2
    · first | exact (key _).1 | exact (key _).2

theorem quiet_noticeAll (l : List Fld) (code status : Nat) (body : List Byte) (c : Chip) :
    Chip.quiet l c (noticeAll code status body c) := by
  refine ⟨regsKept_noticeAll (regsKept_refl l c) _ _ _, only_noticeAll (by simp) _ _ _ _, ?_, ?_, ?_⟩
  case refine_3 =>
    have h : (noticeAll code status body c).sys = c.sys := only_noticeAll (l := [.host]) (by simp) _ _ _ _ .sys (by simp)
    intro e he
    rw [h]
    exact he
  all_goals
    unfold noticeAll
    split
    · rfl
    · rename_i hn
      clear hn
      generalize List.range 8 = xs
      induction xs generalizing c with
      | nil => rfl
      | cons k xs ih =>
        rw [List.foldl_cons, ih]
        split <;> rfl

theorem quiet_modNet (l : List Fld) (f : Net → Net) (c : Chip) : Chip.quiet l c (modNet f c) :=
  ⟨regsKept_regs (regsKept_refl l c) rfl, only_sys (by simp) c _, rfl, rfl, fun _ h => h⟩

theorem quiet_modPort (l : List Fld) (p : Path) (f : PtpPort → PtpPort) (c : Chip) : Chip.quiet l c (modPort p f c) := by
  cases p <;> exact quiet_modNet l _ c

theorem quiet_host (l : List Fld) (x : HostSide) (c : Chip) : Chip.quiet l c { c with host := x } :=
  ⟨regsKept_regs (regsKept_refl l c) rfl, only_host (by simp) c _, rfl, rfl, fun _ h => h⟩

section
variable {l : List Fld} (hc : controlRegs ⊆ l) (hl : logRegs ⊆ l)
include hc

theorem quiet_setTime (st b : Nat) (c : Chip) : Chip.quiet l c (setTime st b c) :=
  quiet_trans (quiet_wr (hc (by simp [controlRegs])) _ _) (quiet_noticeAll _ _ _ _ _)

theorem quiet_voidLock (c : Chip) : Chip.quiet l c (voidLock c) := by
  unfold voidLock
  split
  · exact quiet_trans (quiet_setTime hc _ _ _) (quiet_modPort _ _ _ _)
  · exact quiet_refl _ _

include hl

theorem quiet_holdover (cause : Nat) (c : Chip) : Chip.quiet l c (holdover cause c) := by
  have note : ∀ (p : Nat) (par : List Byte) (c : Chip),
      Chip.quiet l c (log 0x0B13 p par (when (c.alive pdNET) (wr Reg.PTP_STATUS_cause cause) c)) := fun p par c =>
    quiet_trans (quiet_ite (quiet_wr (hc (by simp [controlRegs])) _ _) (quiet_refl _ _)) (quiet_log hl _ _ _ _)
  unfold holdover
  dsimp only
  split
  · exact quiet_trans (note _ _ _) (quiet_setTime hc _ _ _)
  · split
    · exact note _ _ _
    · exact quiet_refl _ _

theorem quiet_masterMissing (c : Chip) : Chip.quiet l c (masterMissing c) :=
  quiet_trans (quiet_voidLock hc c) (quiet_holdover hc hl _ _)

theorem quiet_offsetTest (o : Int) (c : Chip) : Chip.quiet l c (offsetTest o c) := by
  unfold offsetTest
  split
  · unfold offsetAccepted
    dsimp only
    have h (t : Option Int) (i : Int) : Chip.quiet l c (inc Reg.PTP_ACCEPTED_count Reg.PTP_STICKY_sat 1
        (modServo (fun s => { s with integ := i, newTrim := t }) c)) :=
      quiet_trans (quiet_modNet l _ c) (quiet_inc (hc (by simp [controlRegs])) (hc (by simp [controlRegs])) _ _)
    exact quiet_ite (quiet_trans (h _ _) (quiet_trans (quiet_log hl _ _ _ _) (quiet_setTime hc _ _ _))) (h _ _)
  · unfold offsetRefused
    dsimp only
    exact quiet_trans (quiet_wr (hc (by simp [controlRegs])) _ _)
      (quiet_trans (quiet_inc (hc (by simp [controlRegs])) (hc (by simp [controlRegs])) _ _)
        (quiet_trans (quiet_log hl _ _ _ _) (quiet_holdover hc hl _ _)))

theorem quiet_servoMoved (c : Chip) : Chip.quiet l c (servoMoved c) := by
  unfold servoMoved
  dsimp only
  split
  · exact quiet_ite (quiet_offsetTest hc hl _ _) (quiet_holdover hc hl _ _)
  · exact quiet_holdover hc hl _ _

/-- A change of control. -/
theorem quiet_pathSwitch (p : Path) (higher : Bool) (c : Chip) : Chip.quiet l c (pathSwitch p higher c) := by
  have first : ∀ (x : HostSide) (a b d : List Byte) (c : Chip), Chip.quiet l c
      (noticeAll 0x8005 0 b (log 0x0B20 p.code a (incWrap Reg.HG_SWITCHES_value
        (wr2 Reg.HG_SWITCH_LO_value Reg.HG_SWITCH_HI_value c.now (wr Reg.HG_STATUS_ctl_path p.code { c with host := x }))))) :=
    fun x a b d c => quiet_trans (quiet_host l x c) (quiet_trans (quiet_wr (hc (by simp [controlRegs])) _ _)
      (quiet_trans (quiet_wr (hc (by simp [controlRegs])) _ _) (quiet_trans (quiet_wr (hc (by simp [controlRegs])) _ _)
        (quiet_trans (quiet_wr (hc (by simp [controlRegs])) _ _) (quiet_trans (quiet_log hl _ _ _ _)
          (quiet_noticeAll _ _ _ _ _))))))
  unfold pathSwitch
  dsimp only
  refine quiet_ite (quiet_trans (first _ _ _ [] c) (quiet_trans (quiet_voidLock hc _) (quiet_modPort _ _ _ _))) ?_
  exact quiet_ite (quiet_trans (first _ _ _ [] c) (quiet_modNet l _ _))
    (quiet_trans (first _ _ _ [] c) (quiet_servoMoved hc hl _))

theorem quiet_decideControl (c : Chip) : Chip.quiet l c (decideControl c) := by
  unfold decideControl
  dsimp only
  exact quiet_ite (quiet_ite (quiet_pathSwitch hc hl _ _ _) (quiet_host l _ c)) (quiet_refl l c)

end

end Sys2Proof.Machine
end

