-- ==== Sys2Proof/Laws/PerInstr.lean ====
section
/-! SUPPORT. One lemma per command about the command as syntax: its opcode is one of the opcode tables, it is not also an access of
a bus master, and no word of the opcode table spells it. -/

namespace Sys2Proof.Laws.Row

open Sys2Proof Sys2Proof.Machine

/-- What holds of every command as syntax: no word spells it (log entry 2); where it is a request of a session, its opcode
stands in the opcode tables (03_serair_commands.md, R88–R93); an access of a bus master is no request. -/
def Statement (i : Instr) : Prop :=
  (∀ nbits w, decodeTableWord nbits w ≠ some i) ∧ (∀ o op, i.request = some (o, op) → (opInfo op).isSome = true) ∧
    (i.request = none ∨ (busWriteOf i = none ∧ busReadOf i = none))

theorem of_request {i : Instr} {o : Origin} {op : Nat} (h : i.request = some (o, op)) (k : (opInfo op).isSome = true)
    (hw : busWriteOf i = none) (hr : busReadOf i = none) : Statement i :=
  ⟨fun _ _ e => (nomatch e), fun o' op' e => by
    rw [h] at e
    injection e with e
    injection e with _ e
    exact e ▸ k, .inr ⟨hw, hr⟩⟩

theorem of_event {i : Instr} (h : i.request = none) : Statement i :=
  ⟨fun _ _ e => (nomatch e), fun _ _ e => by rw [h] at e; exact (nomatch e), .inl h⟩

theorem packetReceived (path : Path) (src : Src) (dst : Dst) (bytes : List Byte) : Statement
    (.packetReceived path src dst bytes) :=
  of_event rfl
theorem sessionExpiry (slot : Fin 8) : Statement (.sessionExpiry slot) := of_event rfl
theorem certPresent (path : Path) (src : Src) (claim : BitVec 16) (seq : BitVec 32) (chain : List Byte) : Statement
    (.certPresent path src claim seq chain) :=
  of_event rfl
theorem sessionOpen (path : Path) (src : Src) (claim : BitVec 16) (seq : BitVec 32) (role : BitVec 8)
    (keyId : BitVec 32) (idle : BitVec 16) (pub : List Byte) (sig : List Byte) : Statement (.sessionOpen path src claim seq role keyId idle pub sig) :=
  of_event rfl
theorem heartbeat (o : Origin) : Statement (.heartbeat o) := of_request rfl rfl rfl rfl
theorem sessionClose (o : Origin) : Statement (.sessionClose o) := of_request rfl rfl rfl rfl
theorem noticeMask (o : Origin) (mask : BitVec 16) (classes : BitVec 16) : Statement (.noticeMask o mask classes) :=
  of_request rfl rfl rfl rfl
theorem resultQuery (o : Origin) (seq : BitVec 32) : Statement (.resultQuery o seq) := of_request rfl rfl rfl rfl
theorem regRead (o : Origin) (addr : BitVec 32) (count : BitVec 16) : Statement (.regRead o addr count) :=
  of_request rfl rfl rfl rfl
theorem regWrite (o : Origin) (addr : BitVec 32) (vals : List Word) : Statement (.regWrite o addr vals) :=
  of_request rfl rfl rfl rfl
theorem regModify (o : Origin) (addr : BitVec 32) (mask : BitVec 32) (value : BitVec 32) : Statement
    (.regModify o addr mask value) :=
  of_request rfl rfl rfl rfl
theorem semAcquire (o : Origin) (sem : BitVec 8) : Statement (.semAcquire o sem) := of_request rfl rfl rfl rfl
theorem semRelease (o : Origin) (sem : BitVec 8) : Statement (.semRelease o sem) := of_request rfl rfl rfl rfl
theorem semStatus (o : Origin) : Statement (.semStatus o) := of_request rfl rfl rfl rfl
theorem jobLoad (o : Origin) (addr : BitVec 64) (len : BitVec 32) : Statement (.jobLoad o addr len) :=
  of_request rfl rfl rfl rfl
theorem prewalkDone (job : BitVec 32) : Statement (.prewalkDone job) := of_event rfl
theorem jobAdmit (o : Origin) (job : BitVec 32) : Statement (.jobAdmit o job) := of_request rfl rfl rfl rfl
theorem jobStart (o : Origin) (job : BitVec 32) (start : BitVec 64) : Statement (.jobStart o job start) :=
  of_request rfl rfl rfl rfl
theorem jobStartBeat : Statement (.jobStartBeat) := of_event rfl
theorem jobAbort (o : Origin) (job : BitVec 32) : Statement (.jobAbort o job) := of_request rfl rfl rfl rfl
theorem jobDiscard (o : Origin) (job : BitVec 32) : Statement (.jobDiscard o job) := of_request rfl rfl rfl rfl
theorem jobStatus (o : Origin) (job : BitVec 32) : Statement (.jobStatus o job) := of_request rfl rfl rfl rfl
theorem envelopeLoad (o : Origin) (addr : BitVec 64) (len : BitVec 32) : Statement (.envelopeLoad o addr len) :=
  of_request rfl rfl rfl rfl
theorem envelopeVerifyDone : Statement (.envelopeVerifyDone) := of_event rfl
theorem envelopeStatus (o : Origin) : Statement (.envelopeStatus o) := of_request rfl rfl rfl rfl
theorem chArm (o : Origin) (mask : BitVec 32) : Statement (.chArm o mask) := of_request rfl rfl rfl rfl
theorem chPark (o : Origin) (mask : BitVec 32) : Statement (.chPark o mask) := of_request rfl rfl rfl rfl
theorem chClear (o : Origin) (mask : BitVec 32) : Statement (.chClear o mask) := of_request rfl rfl rfl rfl
theorem chStatus (o : Origin) (mask : BitVec 32) : Statement (.chStatus o mask) := of_request rfl rfl rfl rfl
theorem chLogRead (o : Origin) (chan : BitVec 8) (first : BitVec 32) (count : BitVec 16) : Statement
    (.chLogRead o chan first count) :=
  of_request rfl rfl rfl rfl
theorem axMove (o : Origin) (axis : BitVec 8) (target : BitVec 64) (speed : BitVec 32) (accel : BitVec 32) : Statement
    (.axMove o axis target speed accel) :=
  of_request rfl rfl rfl rfl
theorem axTune (o : Origin) (axis : BitVec 8) (speed : BitVec 32) (accel : BitVec 32) : Statement
    (.axTune o axis speed accel) :=
  of_request rfl rfl rfl rfl
theorem axStop (o : Origin) (mask : BitVec 8) (mode : BitVec 8) : Statement (.axStop o mask mode) :=
  of_request rfl rfl rfl rfl
theorem axHome (o : Origin) (axis : BitVec 8) (method : BitVec 8) : Statement (.axHome o axis method) :=
  of_request rfl rfl rfl rfl
theorem axGear (o : Origin) (axis : BitVec 8) (pf : BitVec 8) (arm : BitVec 8) (num : BitVec 32) (den : BitVec 32)
    (pos : BitVec 64) : Statement (.axGear o axis pf arm num den pos) :=
  of_request rfl rfl rfl rfl
theorem axStatus (o : Origin) (mask : BitVec 8) : Statement (.axStatus o mask) := of_request rfl rfl rfl rfl
theorem pfStatus (o : Origin) (mask : BitVec 8) : Statement (.pfStatus o mask) := of_request rfl rfl rfl rfl
theorem ktEnable (o : Origin) (chains : BitVec 32) (on : BitVec 8) : Statement (.ktEnable o chains on) :=
  of_request rfl rfl rfl rfl
theorem ktSwap (o : Origin) (beat : BitVec 64) : Statement (.ktSwap o beat) := of_request rfl rfl rfl rfl
theorem ktLoop (o : Origin) (on : BitVec 8) (ctx : BitVec 8) (map : BitVec 64) : Statement (.ktLoop o on ctx map) :=
  of_request rfl rfl rfl rfl
theorem ktStatus (o : Origin) : Statement (.ktStatus o) := of_request rfl rfl rfl rfl
theorem ctxBind (o : Origin) (ctx : BitVec 8) (sieve : BitVec 8) : Statement (.ctxBind o ctx sieve) :=
  of_request rfl rfl rfl rfl
theorem ctxRun (o : Origin) (ctx : BitVec 8) (on : BitVec 8) : Statement (.ctxRun o ctx on) := of_request rfl rfl rfl rfl
theorem tapRead (o : Origin) (ctx : BitVec 8) (tap : BitVec 8) (off : BitVec 64) (len : BitVec 16) : Statement
    (.tapRead o ctx tap off len) :=
  of_request rfl rfl rfl rfl
theorem ctxStatus (o : Origin) (ctx : BitVec 8) : Statement (.ctxStatus o ctx) := of_request rfl rfl rfl rfl
theorem timeStatus (o : Origin) (cycle : Fin 499) : Statement (.timeStatus o cycle) := of_request rfl rfl rfl rfl
theorem pulseSet (o : Origin) (out : BitVec 8) (mode : BitVec 8) (first : DevTime) (period : BitVec 32)
    (width : BitVec 32) : Statement (.pulseSet o out mode first period width) :=
  of_request rfl rfl rfl rfl
theorem captureRead (o : Origin) (inp : BitVec 8) : Statement (.captureRead o inp) := of_request rfl rfl rfl rfl
theorem logRead (o : Origin) (first : BitVec 16) (count : BitVec 8) (badWord : Option (Fin 16384))
    (ce : Bool) : Statement (.logRead o first count badWord ce) :=
  of_request rfl rfl rfl rfl
theorem logStatus (o : Origin) : Statement (.logStatus o) := of_request rfl rfl rfl rfl
theorem logClear (o : Origin) : Statement (.logClear o) := of_request rfl rfl rfl rfl
theorem logClearDone : Statement (.logClearDone) := of_event rfl
theorem lastgaspRead (o : Origin) : Statement (.lastgaspRead o) := of_request rfl rfl rfl rfl
theorem calRun (o : Origin) (items : BitVec 32) : Statement (.calRun o items) := of_request rfl rfl rfl rfl
theorem calRoundDone (item : Fin 5) (inst : BitVec 16) (ok : Bool) : Statement (.calRoundDone item inst ok) := of_event rfl
theorem calStatus (o : Origin) (item : BitVec 8) : Statement (.calStatus o item) := of_request rfl rfl rfl rfl
theorem tableCommit (o : Origin) (kind : BitVec 8) (inst : BitVec 8) : Statement (.tableCommit o kind inst) :=
  of_request rfl rfl rfl rfl
theorem tableCommitDone (kind : Fin 2) (inst : Fin 32) : Statement (.tableCommitDone kind inst) := of_event rfl
theorem snapTrigger (o : Origin) : Statement (.snapTrigger o) := of_request rfl rfl rfl rfl
theorem snapRelease (o : Origin) : Statement (.snapRelease o) := of_request rfl rfl rfl rfl
theorem snapConfig (o : Origin) (src : BitVec 8) (classes : BitVec 16) (time : DevTime) : Statement
    (.snapConfig o src classes time) :=
  of_request rfl rfl rfl rfl
theorem snapStatus (o : Origin) : Statement (.snapStatus o) := of_request rfl rfl rfl rfl
theorem pdOn (o : Origin) (mask : BitVec 16) : Statement (.pdOn o mask) := of_request rfl rfl rfl rfl
theorem pdOff (o : Origin) (mask : BitVec 16) (mode : BitVec 8) : Statement (.pdOff o mask mode) := of_request rfl rfl rfl rfl
theorem pdStatus (o : Origin) : Statement (.pdStatus o) := of_request rfl rfl rfl rfl
theorem fwStage (o : Origin) (addr : BitVec 64) (len : BitVec 32) : Statement (.fwStage o addr len) :=
  of_request rfl rfl rfl rfl
theorem fwStageDone (badArea : Bool) : Statement (.fwStageDone badArea) := of_event rfl
theorem fwSwitch (o : Origin) : Statement (.fwSwitch o) := of_request rfl rfl rfl rfl
theorem fwSwitchDone : Statement (.fwSwitchDone) := of_event rfl
theorem fwInfo (o : Origin) : Statement (.fwInfo o) := of_request rfl rfl rfl rfl
theorem otpRead (o : Origin) (off : BitVec 16) (count : BitVec 16) : Statement (.otpRead o off count) :=
  of_request rfl rfl rfl rfl
theorem laneTest (o : Origin) (lane : BitVec 8) (mode : BitVec 8) : Statement (.laneTest o lane mode) :=
  of_request rfl rfl rfl rfl
theorem dramDiagRead (o : Origin) (chan : BitVec 8) (addr : BitVec 64) (bursts : BitVec 16) : Statement
    (.dramDiagRead o chan addr bursts) :=
  of_request rfl rfl rfl rfl
theorem pathTimeout (path : Path) : Statement (.pathTimeout path) := of_event rfl
theorem pathSwitch : Statement (.pathSwitch) := of_event rfl
theorem netLink (path : Path) (lock : Bool) (fault : Bool) (an : Bool) : Statement (.netLink path lock fault an) :=
  of_event rfl
theorem arpRequest (path : Path) (target : BitVec 32) (senderMac : BitVec 48) (senderIp : BitVec 32) : Statement
    (.arpRequest path target senderMac senderIp) :=
  of_event rfl
theorem portModeTry (path : Path) : Statement (.portModeTry path) := of_event rfl
theorem ptpAnnounce (path : Path) (h : PtpHead) (a : Announce) : Statement (.ptpAnnounce path h a) := of_event rfl
theorem announceTimeout (path : Path) : Statement (.announceTimeout path) := of_event rfl
theorem ptpSync (path : Path) (h : PtpHead) (twoStep : Bool) (t1 : BitVec 96) (t2 : BitVec 96)
    (logInterval : BitVec 8) : Statement (.ptpSync path h twoStep t1 t2 logInterval) :=
  of_event rfl
theorem ptpFollowUp (path : Path) (h : PtpHead) (t1 : BitVec 96) : Statement (.ptpFollowUp path h t1) := of_event rfl
theorem delayReqTimer (path : Path) (t3 : BitVec 96) : Statement (.delayReqTimer path t3) := of_event rfl
theorem ptpDelayResp (path : Path) (h : PtpHead) (reqPort : BitVec 16) (reqClock : BitVec 64) (t4 : BitVec 96)
    (logInterval : BitVec 8) : Statement (.ptpDelayResp path h reqPort reqClock t4 logInterval) :=
  of_event rfl
theorem syncReceiptTimeout (path : Path) : Statement (.syncReceiptTimeout path) := of_event rfl
theorem stepFix : Statement (.stepFix) := of_event rfl
theorem timeStep : Statement (.timeStep) := of_event rfl
theorem timePulseRise (k : Fin 8) : Statement (.timePulseRise k) := of_event rfl
theorem timePulseFall (k : Fin 8) : Statement (.timePulseFall k) := of_event rfl
theorem captureEdge (k : Fin 8) (rise : Bool) (ns : Fin 499) : Statement (.captureEdge k rise ns) := of_event rfl
theorem beatOpen (gpi : BitVec 16) (axIn : BitVec 24) : Statement (.beatOpen gpi axIn) := of_event rfl
theorem backoffExpiry (c : Fin 24) : Statement (.backoffExpiry c) := of_event rfl
theorem settleExpiry (tile : Fin 65536) : Statement (.settleExpiry tile) := of_event rfl
theorem quotaWindowEnd : Statement (.quotaWindowEnd) := of_event rfl
theorem slotTableWrap : Statement (.slotTableWrap) := of_event rfl
theorem vectorEnd (c : Fin 24) : Statement (.vectorEnd c) := of_event rfl
theorem vectorFetchDone (c : Fin 24) (ok : Bool) : Statement (.vectorFetchDone c ok) := of_event rfl
theorem logFlushTimeout (c : Fin 24) : Statement (.logFlushTimeout c) := of_event rfl
theorem waitInputMet (c : Fin 24) : Statement (.waitInputMet c) := of_event rfl
theorem waitInputTimeout (c : Fin 24) : Statement (.waitInputTimeout c) := of_event rfl
theorem waitTimeMet (c : Fin 24) : Statement (.waitTimeMet c) := of_event rfl
theorem syncBeatMet (c : Fin 24) : Statement (.syncBeatMet c) := of_event rfl
theorem outputPulseClear (k : Fin 16) : Statement (.outputPulseClear k) := of_event rfl
theorem vectorRateWindow (c : Fin 24) : Statement (.vectorRateWindow c) := of_event rfl
theorem quenchConfirm (c : Fin 24) : Statement (.quenchConfirm c) := of_event rfl
theorem uplinkFrame (c : Fin 24) (line : List Bool) (yArrival : BitVec 16) : Statement (.uplinkFrame c line yArrival) :=
  of_event rfl
theorem markerTimeout (lane : Fin 52) : Statement (.markerTimeout lane) := of_event rfl
theorem mbxTimeout (c : Fin 24) : Statement (.mbxTimeout c) := of_event rfl
theorem overviewFrame (cam : Fin 2) (line0 : List Bool) (line1 : List Bool) : Statement (.overviewFrame cam line0 line1) :=
  of_event rfl
theorem glkMbxCmdWrite (m : Master) (lane : Fin 52) (value : Word) : Statement (.glkMbxCmdWrite m lane value) := of_event rfl
theorem glkEnableWrite (m : Master) (lane : Fin 52) (value : Word) : Statement (.glkEnableWrite m lane value) := of_event rfl
theorem glkTestModeWrite (m : Master) (lane : Fin 52) (value : Word) : Statement (.glkTestModeWrite m lane value) :=
  of_event rfl
theorem glkInjectOnce (m : Master) (lane : Fin 52) (value : Word) : Statement (.glkInjectOnce m lane value) := of_event rfl
theorem cameraFrameOpen (ctx : Fin 32) : Statement (.cameraFrameOpen ctx) := of_event rfl
theorem frameClose (ctx : Fin 32) : Statement (.frameClose ctx) := of_event rfl
theorem sieveRunStart (sieve : Fin 2) : Statement (.sieveRunStart sieve) := of_event rfl
theorem sieveRunDone (sieve : Fin 2) : Statement (.sieveRunDone sieve) := of_event rfl
theorem featureDelivery (ctx : Fin 24) : Statement (.featureDelivery ctx) := of_event rfl
theorem overviewFrameTimeout (ctx : Fin 32) : Statement (.overviewFrameTimeout ctx) := of_event rfl
theorem overviewLineRun (ctx : Fin 32) : Statement (.overviewLineRun ctx) := of_event rfl
theorem contextStart (ctx : Fin 32) : Statement (.contextStart ctx) := of_event rfl
theorem svaFaultClear (m : Master) (sieve : Fin 2) (ctx : Fin 32) (value : Word) : Statement
    (.svaFaultClear m sieve ctx value) :=
  of_event rfl
theorem svaFpnCommit (m : Master) (sieve : Fin 2) (ctx : Fin 32) (value : Word) : Statement
    (.svaFpnCommit m sieve ctx value) :=
  of_event rfl
theorem svaParamWrite (m : Master) (sieve : Fin 2) (ctx : Fin 32) (off : BitVec 16) (value : Word) : Statement
    (.svaParamWrite m sieve ctx off value) :=
  of_event rfl
theorem svaExpWrite (m : Master) (sieve : Fin 2) (ctx : Fin 32) (gain : Bool) (value : Word) : Statement
    (.svaExpWrite m sieve ctx gain value) :=
  of_event rfl
theorem trackingSample (c : Fin 24) (y : Bool) : Statement (.trackingSample c y) := of_event rfl
theorem powerSample (c : Fin 24) : Statement (.powerSample c) := of_event rfl
theorem ladRcSwitchIn (m : Master) (c : Fin 24) (value : Word) : Statement (.ladRcSwitchIn m c value) := of_event rfl
theorem ladRcSwitchOut (m : Master) (c : Fin 24) (value : Word) : Statement (.ladRcSwitchOut m c value) := of_event rfl
theorem ladUcodeWrite (m : Master) (c : Fin 24) (value : Word) : Statement (.ladUcodeWrite m c value) := of_event rfl
theorem ladLoopRegWrite (m : Master) (c : Fin 24) (off : BitVec 16) (value : Word) : Statement
    (.ladLoopRegWrite m c off value) :=
  of_event rfl
theorem rcSpillDone (c : Fin 24) (ok : Bool) : Statement (.rcSpillDone c ok) := of_event rfl
theorem pfEdge (n : Fin 8) (a : Bool) (b : Bool) (ns : Fin 499) (stable : BitVec 8) : Statement (.pfEdge n a b ns stable) := of_event rfl
theorem indexEdge (n : Fin 8) (ns : Fin 499) (a : Bool) (b : Bool) (x : Bool) (stable : BitVec 8) : Statement (.indexEdge n ns a b x stable) := of_event rfl
theorem speedStopTimeout (n : Fin 8) : Statement (.speedStopTimeout n) := of_event rfl
theorem pfEnable (m : Master) (n : Fin 8) (value : Word) : Statement (.pfEnable m n value) := of_event rfl
theorem pfCmpArm (m : Master) (n : Fin 8) (u : Fin 4) (value : Word) : Statement (.pfCmpArm m n u value) := of_event rfl
theorem capPosRead (m : Master) (n : Fin 8) : Statement (.capPosRead m n) := of_event rfl
theorem emuEnable (m : Master) (k : Fin 4) (value : Word) : Statement (.emuEnable m k value) := of_event rfl
theorem emuStep (k : Fin 4) (ns : Fin 499) : Statement (.emuStep k ns) := of_event rfl
theorem axInputChange (n : Fin 8) (inp : Fin 3) : Statement (.axInputChange n inp) := of_event rfl
theorem axEnable (m : Master) (n : Fin 8) (value : Word) : Statement (.axEnable m n value) := of_event rfl
theorem axHoldCurrent (n : Fin 8) : Statement (.axHoldCurrent n) := of_event rfl
theorem chopperBlankEnd (n : Fin 8) (coilB : Bool) (ns : Fin 499) : Statement (.chopperBlankEnd n coilB ns) := of_event rfl
theorem chopperSenseTrip (n : Fin 8) (coilB : Bool) (ns : Fin 499) : Statement (.chopperSenseTrip n coilB ns) := of_event rfl
theorem chopperTonTimeout (n : Fin 8) (coilB : Bool) (ns : Fin 499) : Statement (.chopperTonTimeout n coilB ns) := of_event rfl
theorem chopperFastDecayEnd (n : Fin 8) (coilB : Bool) (ns : Fin 499) : Statement (.chopperFastDecayEnd n coilB ns) := of_event rfl
theorem chopperSlowDecayEnd (n : Fin 8) (coilB : Bool) (ns : Fin 499) : Statement (.chopperSlowDecayEnd n coilB ns) := of_event rfl
theorem ktReadStart : Statement (.ktReadStart) := of_event rfl
theorem ktReadDone (ok : Bool) (ns : Fin 499) : Statement (.ktReadDone ok ns) := of_event rfl
theorem ktShiftStart : Statement (.ktShiftStart) := of_event rfl
theorem ktLatch : Statement (.ktLatch) := of_event rfl
theorem ktRefresh : Statement (.ktRefresh) := of_event rfl
theorem ktLineStart : Statement (.ktLineStart) := of_event rfl
theorem ktReturnRecord (chain : Fin 32) (tile : Fin 32) (line : List Byte) :
    Statement (.ktReturnRecord chain tile line) := of_event rfl
theorem ktLoopUpdate : Statement (.ktLoopUpdate) := of_event rfl
theorem dmcTrain (m : Master) (n : Fin 2) (value : Word) : Statement (.dmcTrain m n value) := of_event rfl
theorem trainDone (n : Fin 2) (fail : Option (Fin 16 × Fin 10)) : Statement (.trainDone n fail) := of_event rfl
theorem dqsRetrain (n : Fin 2) (up : BitVec 10) (down : BitVec 10) : Statement (.dqsRetrain n up down) := of_event rfl
theorem dramRefresh (n : Fin 2) (rank : Fin 2) (hot : Bool) : Statement (.dramRefresh n rank hot) := of_event rfl
theorem actWindowClear (n : Fin 2) : Statement (.actWindowClear n) := of_event rfl
theorem dramAccessDone (n : Fin 2) (ce : Option (Fin 10)) (ue : Bool) (synd : BitVec 128) : Statement
    (.dramAccessDone n ce ue synd) :=
  of_event rfl
theorem dramAlert (n : Fin 2) : Statement (.dramAlert n) := of_event rfl
theorem weirAge (n : Fin 2) : Statement (.weirAge n) := of_event rfl
theorem memSlot : Statement (.memSlot) := of_event rfl
theorem dmaStart (m : Master) (n : Fin 64) (value : Word) : Statement (.dmaStart m n value) := of_event rfl
theorem dmaAbort (m : Master) (n : Fin 64) (value : Word) : Statement (.dmaAbort m n value) := of_event rfl
theorem dmaBurstGrant (gpi : BitVec 16) : Statement (.dmaBurstGrant gpi) := of_event rfl
theorem dmaResponse (n : Fin 64) (k : BitVec 12) (retry : Bool) : Statement (.dmaResponse n k retry) := of_event rfl
theorem dmaRetryTimer (n : Fin 64) : Statement (.dmaRetryTimer n) := of_event rfl
theorem dmaStopComplete (n : Fin 64) : Statement (.dmaStopComplete n) := of_event rfl
theorem crockTakeEvent (badWord : Option (Fin 16384)) (ce : Bool) : Statement (.crockTakeEvent badWord ce) := of_event rfl
theorem thmConversion (readings : List (BitVec 16)) : Statement (.thmConversion readings) := of_event rfl
theorem thermalShutdown (sensor : Fin 12) (tripped : Bool) : Statement (.thermalShutdown sensor tripped) := of_event rfl
theorem thermalRestart : Statement (.thermalRestart) := of_event rfl
theorem calLaneStep (item : Fin 5) : Statement (.calLaneStep item) := of_event rfl
theorem snapInEdge (low : BitVec 8) (high : BitVec 8) : Statement (.snapInEdge low high) := of_event rfl
theorem snapTime : Statement (.snapTime) := of_event rfl
theorem snapshotLatch : Statement (.snapshotLatch) := of_event rfl
theorem snpReleaseWrite (m : Master) (value : Word) : Statement (.snpReleaseWrite m value) := of_event rfl
theorem snpViewWrite (m : Master) (value : Word) : Statement (.snpViewWrite m value) := of_event rfl
theorem slbSlotCommit (m : Master) (value : Word) : Statement (.slbSlotCommit m value) := of_event rfl
theorem slbRcLeadWrite (m : Master) (value : Word) : Statement (.slbRcLeadWrite m value) := of_event rfl
theorem powerOnReset : Statement (.powerOnReset) := of_event rfl
theorem powerOnRelease : Statement (.powerOnRelease) := of_event rfl
theorem wrstPin (low : Bool) : Statement (.wrstPin low) := of_event rfl
theorem pwrWarmWrite (m : Master) (value : Word) (cycle : Fin 499) : Statement (.pwrWarmWrite m value cycle) := of_event rfl
theorem supplyAlarm (monitor : Fin 16) (out : Bool) : Statement (.supplyAlarm monitor out) := of_event rfl
theorem clockAlarm (pll : Bool) (lost : Bool) : Statement (.clockAlarm pll lost) := of_event rfl
theorem mgtWdtExpiry : Statement (.mgtWdtExpiry) := of_event rfl
theorem mgtWdtKick (m : Master) (value : Word) : Statement (.mgtWdtKick m value) := of_event rfl
theorem motionResetHold : Statement (.motionResetHold) := of_event rfl
theorem warmResetRelease : Statement (.warmResetRelease) := of_event rfl
theorem coreHeartbeatTimeout (core : Fin 4) : Statement (.coreHeartbeatTimeout core) := of_event rfl
theorem mgtLoadWrite (m : Master) (k : Fin 256) (value : Word) : Statement (.mgtLoadWrite m k value) := of_event rfl
theorem mgtBootStart (m : Master) (value : Word) : Statement (.mgtBootStart m value) := of_event rfl
theorem imageVerifyDone (badArea : Bool) : Statement (.imageVerifyDone badArea) := of_event rfl
theorem spiLockWrite (m : Master) (value : Word) : Statement (.spiLockWrite m value) := of_event rfl
theorem spiWrite (bytes : List Byte) (whole : Bool) : Statement (.spiWrite bytes whole) := of_event rfl
theorem spiRead (addr : BitVec 32) (count : BitVec 8) : Statement (.spiRead addr count) := of_event rfl
theorem spiStatus : Statement (.spiStatus) := of_event rfl
theorem pwrDomOn (m : Master) (value : Word) : Statement (.pwrDomOn m value) := of_event rfl
theorem pwrDomOff (m : Master) (value : Word) : Statement (.pwrDomOff m value) := of_event rfl
theorem pwrDomForced (m : Master) (value : Word) : Statement (.pwrDomForced m value) := of_event rfl
theorem domainOnDone (d : Fin 12) : Statement (.domainOnDone d) := of_event rfl
theorem quiesceAck (d : Fin 12) : Statement (.quiesceAck d) := of_event rfl
theorem quiesceTimeout : Statement (.quiesceTimeout) := of_event rfl
theorem deferredDomainOff : Statement (.deferredDomainOff) := of_event rfl
theorem quenchInput (b : Bool) : Statement (.quenchInput b) := of_event rfl
theorem quenchRelease (b : Bool) : Statement (.quenchRelease b) := of_event rfl
theorem loRegRead (m : Master) (addr : BitVec 32) (cycle : Fin 499) : Statement (.loRegRead m addr cycle) := of_event rfl
theorem fxSeqRead (m : Master) (ctx : Fin 24) : Statement (.fxSeqRead m ctx) := of_event rfl
theorem btTimeRead (m : Master) (epoch : Bool) (cycle : Fin 499) : Statement (.btTimeRead m epoch cycle) := of_event rfl
theorem rcCounterRead (m : Master) (addr : BitVec 32) : Statement (.rcCounterRead m addr) := of_event rfl
theorem genericRegWrite (m : Master) (addr : BitVec 32) (value : Word) : Statement (.genericRegWrite m addr value) :=
  of_event rfl
theorem queueWaitDeferred : Statement (.queueWaitDeferred) := of_event rfl
theorem prbsSyncChange (lane : Fin 52) (sync : Bool) : Statement (.prbsSyncChange lane sync) := of_event rfl
theorem laneRefLoss (k : Fin 5) : Statement (.laneRefLoss k) := of_event rfl
theorem laneRefReturn (k : Fin 5) : Statement (.laneRefReturn k) := of_event rfl
theorem rxFrameDropped (path : Path) (fcsBad : Bool) : Statement (.rxFrameDropped path fcsBad) := of_event rfl
theorem jtagTck (tms : Bool) (tdi : Bool) : Statement (.jtagTck tms tdi) := of_event rfl
theorem jtagTrst : Statement (.jtagTrst) := of_event rfl

end Sys2Proof.Laws.Row
end

