-- ==== Sys2Proof/Machine/Frames.lean ====
section
/-! DEFINITION. The bytes of what the controller sends on a network path (03_serair_commands.md, R66–R69, R72;
15_network_time_redundancy.md, R423, R424, R427): packets, datagrams and frames. -/

namespace Sys2Proof.Machine

open Sys2Proof

/-- A Serair packet that the controller sends (R68): header, parameters, and the tag under its key, or the all-zero tag of
R72. -/
def serairBytes (flags claim sid seq op status : Nat) (body : List Byte) (key : Option (List Byte)) : List Byte :=
  let l := toBE 2 0x5856 ++ toBE 1 1 ++ toBE 1 flags ++ toBE 2 claim ++ toBE 4 sid ++ toBE 4 seq ++ toBE 2 op ++
    toBE 2 body.length ++ toBE 1 status ++ toBE 5 0 ++ body
  l ++ match key with
    | some k => (hmacSha256 k l).take 16
    | none => toBE 16 0

/-- The sum of the 16-bit words of a byte string. -/
def sum16 : List Byte → Nat
  | a :: b :: l => a.toNat * 256 + b.toNat + sum16 l
  | [a] => a.toNat * 256
  | [] => 0

/-- The Internet checksum: the complement of the words' sum with end-around carry (PRESUMED, log entry 70). -/
def checksum (l : List Byte) : Nat :=
  let carry (s : Nat) : Nat := s % 65536 + s / 65536
  0xFFFF - carry (carry (sum16 l))

/-- A UDP/IPv4 datagram from a port of `src` to a port of `dst`, with DF set and a computed checksum (R424). -/
def datagram (ttl src dst sp dp : Nat) (l : List Byte) : List Byte :=
  let head (sum : Nat) : List Byte :=
    [0x45#8, 0#8] ++ toBE 2 (28 + l.length) ++ toBE 2 0 ++ toBE 2 0x4000 ++ toBE 1 ttl ++ toBE 1 17 ++ toBE 2 sum ++
      toBE 4 src ++ toBE 4 dst
  let udp (sum : Nat) : List Byte := toBE 2 sp ++ toBE 2 dp ++ toBE 2 (8 + l.length) ++ toBE 2 sum ++ l
  let sum := checksum (toBE 4 src ++ toBE 4 dst ++ toBE 2 17 ++ toBE 2 (8 + l.length) ++ udp 0)
  head (checksum (head 0)) ++ udp (if sum = 0 then 0xFFFF else sum)

/-- The frame check sequence of Ethernet, in the order of sending (PRESUMED, log entry 70). -/
def frameFcs (l : List Byte) : List Byte :=
  toLE 4 ((l.foldl (fun c x => crcStepLsb 0xEDB88320 (c ^^^ x.toNat) 8) 0xFFFFFFFF) ^^^ 0xFFFFFFFF)

/-- An untagged Ethernet frame (R423), padded to the 64 bytes of the shortest frame. -/
def ethFrame (dst src type : Nat) (l : List Byte) : List Byte :=
  let f := toBE 6 dst ++ toBE 6 src ++ toBE 2 type ++ l
  let f := f ++ List.replicate (60 - f.length) 0
  f ++ frameFcs f

/-- A Delay_Req message (R427), with the fields that IEEE 1588-2019 gives it (PRESUMED, log entry 70). -/
def Chip.delayReqBytes (c : Chip) (p : Path) (seq : Nat) : List Byte :=
  [0x01#8, 0x12#8] ++ toBE 2 44 ++ toBE 1 (c.rd Reg.PTP_CTL_domain) ++ toBE 1 0 ++ toBE 2 0 ++ toBE 8 0 ++ toBE 4 0 ++
    toBE 8 c.clockId ++ toBE 2 (p.code + 1) ++ toBE 2 seq ++ [0x01#8, 0x7F#8] ++ toBE 10 0

/-- The frame on the line of what a path sends; none for what leaves by another way (R66, R67, R424, R427). -/
def Chip.frame (c : Chip) : Tx → Option (List Byte)
  | .serair p d flags claim sid seq op status body key =>
    let l := serairBytes flags claim sid seq op status body key
    let n := p.code
    some <| if d.udp then
        ethFrame d.mac.toNat (c.stationMac p) 0x0800
          (datagram 64 (c.rd (Reg.NET_IP_ip n)) d.addr.toNat (c.rd (Reg.NET_UDP_port n)) d.port.toNat l)
      else ethFrame d.addr.toNat (c.stationMac p) 0x88B5 l
  | .arp p mac ip =>
    let own := toBE 6 (c.stationMac p) ++ toBE 4 (c.rd (Reg.NET_IP_ip p.code))
    some (ethFrame mac (c.stationMac p) 0x0806
      (toBE 2 1 ++ toBE 2 0x0800 ++ [6#8, 4#8] ++ toBE 2 2 ++ own ++ toBE 6 mac ++ toBE 4 ip))
  | .delayReq p udp seq =>
    let l := c.delayReqBytes p seq
    some <| if udp then
        ethFrame 0x01005E000181 (c.stationMac p) 0x0800
          (datagram 1 (c.rd (Reg.NET_IP_ip p.code)) 0xE0000181 319 319 l)
      else ethFrame 0x011B19000000 (c.stationMac p) 0x88F7 l
  | .spi _ => none
  | .bus .. => none

end Sys2Proof.Machine
end

