-- ==== Sys2Proof/WellFormed.lean ====
section
/-! DEFINITION. Which commands the outside can send: the lengths and ranges that the spec gives an operand and that its
type does not say already. A meaning answers an ill-formed command all the same, by the checks the spec gives it. -/

namespace Sys2Proof

/-- A device time names a nanosecond within its second (00_scope.md, R5). -/
def DevTime.wf (t : DevTime) : Bool := decide (t.ns.toNat < 1000000000)

/-- The form of a command: the bytes of an Ethernet payload (PRESUMED, log entry 40), parameter bytes (03_serair_commands.md,
R68), key and signature lengths (16, R459), words of a write (03, R89), device times (00, R5), one reading per sensor (17,
R474), the bytes of a return record's place on the line (12, R355, R359), the count of an SPI read (16, R455), the channel of a grid (04, R124). -/
def Instr.wf : Instr → Bool
  | .packetReceived _ _ _ bytes => decide (bytes.length ≤ 1500)
  | .sessionExpiry .. => true
  | .certPresent _ _ _ _ chain => decide (chain.length ≤ 1400)
  | .sessionOpen _ _ _ _ _ _ _ pub sig => decide (pub.length = 32) && decide (sig.length = 64)
  | .heartbeat .. => true
  | .sessionClose .. => true
  | .noticeMask .. => true
  | .resultQuery .. => true
  | .regRead .. => true
  | .regWrite _ _ vals => decide (1 ≤ vals.length) && decide (vals.length ≤ 256)
  | .regModify .. => true
  | .semAcquire .. => true
  | .semRelease .. => true
  | .semStatus .. => true
  | .jobLoad .. => true
  | .prewalkDone .. => true
  | .jobAdmit .. => true
  | .jobStart .. => true
  | .jobStartBeat .. => true
  | .jobAbort .. => true
  | .jobDiscard .. => true
  | .jobStatus .. => true
  | .envelopeLoad .. => true
  | .envelopeVerifyDone .. => true
  | .envelopeStatus .. => true
  | .chArm .. => true
  | .chPark .. => true
  | .chClear .. => true
  | .chStatus .. => true
  | .chLogRead .. => true
  | .axMove .. => true
  | .axTune .. => true
  | .axStop .. => true
  | .axHome .. => true
  | .axGear .. => true
  | .axStatus .. => true
  | .pfStatus .. => true
  | .ktEnable .. => true
  | .ktSwap .. => true
  | .ktLoop .. => true
  | .ktStatus .. => true
  | .ctxBind .. => true
  | .ctxRun .. => true
  | .tapRead .. => true
  | .ctxStatus .. => true
  | .timeStatus .. => true
  | .pulseSet _ _ _ first _ _ => first.wf
  | .captureRead .. => true
  | .logRead .. => true
  | .logStatus .. => true
  | .logClear .. => true
  | .logClearDone .. => true
  | .lastgaspRead .. => true
  | .calRun .. => true
  | .calRoundDone .. => true
  | .calStatus .. => true
  | .tableCommit .. => true
  | .tableCommitDone kind inst => decide (kind.val = 1) || decide (inst.val < 24)
  | .snapTrigger .. => true
  | .snapRelease .. => true
  | .snapConfig _ _ _ time => time.wf
  | .snapStatus .. => true
  | .pdOn .. => true
  | .pdOff .. => true
  | .pdStatus .. => true
  | .fwStage .. => true
  | .fwStageDone .. => true
  | .fwSwitch .. => true
  | .fwSwitchDone .. => true
  | .fwInfo .. => true
  | .otpRead .. => true
  | .laneTest .. => true
  | .dramDiagRead .. => true
  | .pathTimeout .. => true
  | .pathSwitch .. => true
  | .netLink .. => true
  | .arpRequest .. => true
  | .portModeTry .. => true
  | .ptpAnnounce .. => true
  | .announceTimeout .. => true
  | .ptpSync .. => true
  | .ptpFollowUp .. => true
  | .delayReqTimer .. => true
  | .ptpDelayResp .. => true
  | .syncReceiptTimeout .. => true
  | .stepFix .. => true
  | .timeStep .. => true
  | .timePulseRise .. => true
  | .timePulseFall .. => true
  | .captureEdge .. => true
  | .beatOpen .. => true
  | .backoffExpiry .. => true
  | .settleExpiry .. => true
  | .quotaWindowEnd .. => true
  | .slotTableWrap .. => true
  | .vectorEnd .. => true
  | .vectorFetchDone .. => true
  | .logFlushTimeout .. => true
  | .waitInputMet .. => true
  | .waitInputTimeout .. => true
  | .waitTimeMet .. => true
  | .syncBeatMet .. => true
  | .outputPulseClear .. => true
  | .vectorRateWindow .. => true
  | .quenchConfirm .. => true
  | .uplinkFrame .. => true
  | .markerTimeout .. => true
  | .mbxTimeout .. => true
  | .overviewFrame .. => true
  | .glkMbxCmdWrite .. => true
  | .glkEnableWrite .. => true
  | .glkTestModeWrite .. => true
  | .glkInjectOnce .. => true
  | .cameraFrameOpen .. => true
  | .frameClose .. => true
  | .sieveRunStart .. => true
  | .sieveRunDone .. => true
  | .featureDelivery .. => true
  | .overviewFrameTimeout .. => true
  | .overviewLineRun .. => true
  | .contextStart .. => true
  | .svaFaultClear .. => true
  | .svaFpnCommit .. => true
  | .svaParamWrite .. => true
  | .svaExpWrite .. => true
  | .trackingSample .. => true
  | .powerSample .. => true
  | .ladRcSwitchIn .. => true
  | .ladRcSwitchOut .. => true
  | .ladUcodeWrite .. => true
  | .ladLoopRegWrite .. => true
  | .rcSpillDone .. => true
  | .pfEdge .. => true
  | .indexEdge .. => true
  | .speedStopTimeout .. => true
  | .pfEnable .. => true
  | .pfCmpArm .. => true
  | .capPosRead .. => true
  | .emuEnable .. => true
  | .emuStep .. => true
  | .axInputChange .. => true
  | .axEnable .. => true
  | .axHoldCurrent .. => true
  | .chopperBlankEnd .. => true
  | .chopperSenseTrip .. => true
  | .chopperTonTimeout .. => true
  | .chopperFastDecayEnd .. => true
  | .chopperSlowDecayEnd .. => true
  | .ktReadStart .. => true
  | .ktReadDone .. => true
  | .ktShiftStart .. => true
  | .ktLatch .. => true
  | .ktRefresh .. => true
  | .ktLineStart .. => true
  | .ktReturnRecord _ _ l => decide (l.length ∈ [270, 334, 398, 462, 526])
  | .ktLoopUpdate .. => true
  | .dmcTrain .. => true
  | .trainDone .. => true
  | .dqsRetrain .. => true
  | .dramRefresh .. => true
  | .actWindowClear .. => true
  | .dramAccessDone .. => true
  | .dramAlert .. => true
  | .weirAge .. => true
  | .memSlot .. => true
  | .dmaStart .. => true
  | .dmaAbort .. => true
  | .dmaBurstGrant .. => true
  | .dmaResponse .. => true
  | .dmaRetryTimer .. => true
  | .dmaStopComplete .. => true
  | .crockTakeEvent .. => true
  | .thmConversion readings => decide (readings.length = 12)
  | .thermalShutdown .. => true
  | .thermalRestart .. => true
  | .calLaneStep .. => true
  | .snapInEdge .. => true
  | .snapTime .. => true
  | .snapshotLatch .. => true
  | .snpReleaseWrite .. => true
  | .snpViewWrite .. => true
  | .slbSlotCommit .. => true
  | .slbRcLeadWrite .. => true
  | .powerOnReset .. => true
  | .powerOnRelease .. => true
  | .wrstPin .. => true
  | .pwrWarmWrite .. => true
  | .supplyAlarm .. => true
  | .clockAlarm .. => true
  | .mgtWdtExpiry .. => true
  | .mgtWdtKick .. => true
  | .motionResetHold .. => true
  | .warmResetRelease .. => true
  | .coreHeartbeatTimeout .. => true
  | .mgtLoadWrite .. => true
  | .mgtBootStart .. => true
  | .imageVerifyDone .. => true
  | .spiLockWrite .. => true
  | .spiWrite .. => true
  | .spiRead _ count => decide (1 ≤ count.toNat) && decide (count.toNat ≤ 64)
  | .spiStatus .. => true
  | .pwrDomOn .. => true
  | .pwrDomOff .. => true
  | .pwrDomForced .. => true
  | .domainOnDone .. => true
  | .quiesceAck .. => true
  | .quiesceTimeout .. => true
  | .deferredDomainOff .. => true
  | .quenchInput .. => true
  | .quenchRelease .. => true
  | .loRegRead .. => true
  | .fxSeqRead .. => true
  | .btTimeRead .. => true
  | .rcCounterRead .. => true
  | .genericRegWrite .. => true
  | .queueWaitDeferred .. => true
  | .prbsSyncChange .. => true
  | .laneRefLoss .. => true
  | .laneRefReturn .. => true
  | .rxFrameDropped .. => true
  | .jtagTck .. => true
  | .jtagTrst .. => true

end Sys2Proof
end

