-- ==== Sys2Proof/Tests/Slice0.lean ====
section
/-! SUPPORT. The checks of well-formedness refuse; examples and check values of the spec; and, for every statement with hypotheses,
a witness: a state and operands that meet the hypotheses of each of its clauses together. -/

set_option maxRecDepth 8000
set_option Elab.async false
set_option linter.unusedVariables false

namespace Sys2Proof.Tests
open Sys2Proof Sys2Proof.Machine

/-- The device after power-on with every domain on, a session of role 3 in slot 0 that controls path A, firmware running, DRAM trained. -/
def upChip : Chip :=
  let c := modPwr (fun p => { p with porst := false, pinLow := false }) State.reset.core
  let c := showDomains 0xFFF c |> wr (Reg.SEC_SLOT_STATE_state 0) 1 |> wr (Reg.SEC_SLOT_STATE_role 0) 3
    |> wr Reg.HG_CLAIM_claim_a 7 |> wr Reg.MGT_BOOT_STATUS_state 4 |> wr (Reg.DMC_STATUS_state 0) 2 |> wr (Reg.DMC_STATUS_state 1) 2
  modSession 0 (fun s => { s with id := 9, key := [1#8, 2#8] }) c
/-- A state whose device is that of `upChip`, changed. -/
def up (f : Chip → Chip) : State := { State.reset with core := f upChip }
/-- A request of session 0 on the controlling path. -/
def oA : Origin := ⟨0, 5#32, .a, 7#16, ⟨true, 0x0A000002#48, 5000#16, 1#48⟩⟩
/-- `up` with port A on, in both packet forms and PTP. -/
def netUp (f : Chip → Chip) : State := up fun c => f (c |> wrB (Reg.NET_CTL_enable 0) true |> wrB (Reg.NET_CTL_ptp_en 0) true |> wrB Reg.PTP_CTL_l2_en true |> wrB (Reg.NET_CTL_raw_en 0) true)
/-- The encoding of the neutral point of the curve: its own public key. -/
def idPk : List Byte := 1#8 :: List.replicate 31 0#8
/-- The signature of any message under `idPk`. -/
def idSig : List Byte := idPk ++ List.replicate 32 0#8
/-- A chain of one certificate, for key 7 with role 2. -/
def leafChain : List Byte := [1,2,0,0,0,0,0,7] ++ List.replicate 12 0#8 ++ idPk ++ idSig ++ idPk
/-- A device whose OTP holds the hash of the root key `idPk`. -/
def rooted (c : Chip) : Chip := { c with fix.otp := (List.range 8).map (fun k => (8 + k, leAt (sha256 idPk) (4 * k) 4)) ++ c.fix.otp }
/-- A device with key 7, role 3, in key slot 0. -/
def keyed (c : Chip) : Chip := { c with host.sec.keys := c.host.sec.keys.set 0 ⟨idPk, 0⟩ } |> wr (Reg.SEC_KEY_ID_value 0) 7 |> wr (Reg.SEC_KEY_INFO_role 0) 3
/-- A Serair packet of command 0x40, without its tag. -/
def untagged : List Byte := [0x58, 0x56, 1, 0, 0, 7, 0, 0, 0, 9, 0, 0, 0, 5, 0, 0x40, 0, 4] ++ List.replicate 9 0#8 ++ [1]
/-- That packet with its tag. -/
def packet : List Byte := untagged ++ (hmacSha256 [1, 2] untagged).take 16
/-- A job descriptor of job 5 with one channel. -/
def descOf : List Byte :=
  let l := toLE 4 5 ++ toLE 4 1 ++ [1#8, 0, 0] ++ List.replicate 9 0#8 ++ toLE 8 4096 ++ toLE 4 1 ++ List.replicate 16 0#8
  l ++ toLE 4 (crc32c l)
/-- An END record. -/
def endRec : VecRec := { idx := 0, x := 0, y := 0, speed := 0, power := 0, pset := 0, kind := kEnd, flags := 0, group := 0, arg := 0, spacing := 0, seq := 0 }
/-- A job that has been loaded. -/
def job5 : Job := { id := 5, layer := 1, st := 0, walked := false, chans := [⟨0, 4, 0, 0, 4096, 1, 0, 0⟩], ctxs := [], streams := [], start := none, deadlines := [], frozen := [], lists := [] }
/-- Job 5 after its pre-walk. -/
def walked5 : Job := { job5 with walked := true, lists := [⟨0, [endRec], none, (0, 0), true⟩] }
/-- A machine envelope that allows nothing. -/
def smallEnv : Envelope := ⟨1, 7, -100, -100, 100, 100, 0, 0, 0, 0, 0, [], [], [], [], []⟩
/-- An envelope structure with its chain and signature. -/
def signedEnv : List Byte :=
  toLE 4 0x564E4558 ++ toLE 4 1 ++ toLE 8 0 ++ toLE 2 1 ++ toLE 2 3 ++ toLE 4 1356 ++ [1#8] ++ List.replicate 71 0#8 ++
    ((List.range 24).flatMap fun _ => List.replicate 14 0#8 ++ toLE 2 3 ++ List.replicate 16 0#8) ++
    ((List.range 8).flatMap fun _ => List.replicate 16 0#8 ++ [1#8] ++ List.replicate 15 0#8) ++
    List.replicate 24 0#8 ++ leafChain ++ idSig
/-- `up` with job 5 in a state, with a start beat. -/
def jobUp (st : Nat) (start : Option Nat) : State := up fun c => { c with host.jobs := [{ walked5 with st := st, start := start }] }
/-- A firmware image header with its signature. -/
def image : List Byte :=
  toLE 4 0x474D4958 ++ toLE 2 1 ++ [0#8, 0] ++ toLE 4 7 ++ toLE 4 256 ++
    (toLE 4 256 ++ toLE 4 0 ++ toLE 4 256 ++ toLE 4 0 ++ toLE 4 256 ++ toLE 4 0) ++ toLE 4 3 ++ toLE 4 0 ++
    List.replicate 48 0#8 ++ idPk ++ idSig ++ List.replicate 64 0#8
/-- A Crock record. -/
def rec1 : Rec := ⟨5, 0x0101, 0, [], 0, 1, 0⟩
/-- An event. -/
def ev1 : Event := ⟨0x0101, 0, [1], 7, 3⟩
/-- `up` with a snapshot held. -/
def snpHeld : State := up (wrB Reg.SNP_STATUS_held true)
/-- A vector record of a kind. -/
def vec (k arg : Nat) : VecRec := { endRec with kind := k, arg := arg, speed := 1 }
/-- The plan of a mark. -/
def plan1 : Plan := { r := vec kMark 0, park := false, beg := 0, s := 0, endBeat := 3, segs := [], start := (0, 0), endPt := (5, 6), wait := 0, deferred := false, positioned := false, corner := false, underrun := false, back := false, offAt := none, joined := false, brk := 0, hatch := false, started := true, ended := false }
/-- `up` at beat 100 with channel 0 changed. -/
def furUp (f : Furrow → Furrow) (g : Chip → Chip := id) : State := up fun c => g (modFur 0 f { c with fix.beat := 100#64 })
/-- A vector record as it lies in DRAM. -/
def vecBytes : List Byte := let l := List.replicate 30 0#8; l ++ toLE 2 (crcMsb 16 0x1021 0xFFFF l)
/-- A tile request. -/
def req1 : Req := ⟨[0], [0, 1], false, 4, 100, 2, none, 50, none⟩
/-- `up` at beat 100 with a lane in a state. -/
def laneUp (n st : Nat) (f : Lane → Lane) (g : Chip → Chip := id) : State := up fun c => g (modLane n f { c with fix.beat := 100#64 } |> wr (Reg.GLK_STATUS_state n) st |> wr Reg.PWR_CLOCK_ok 0x7F)
/-- The first overview camera's lanes in a state. -/
def ovUp (st : Nat) : State := laneUp 48 st id (wr (Reg.GLK_STATUS_state 49) st)
/-- `up` at beat 100 with a mailbox transaction. -/
def mbxUp (m : Mbx) (g : Chip → Chip := id) : State := up fun c => g (modLink 0 (fun k => { k with mbx := some m }) { c with fix.beat := 100#64 })
/-- `up` at beat 100 with a context changed and running. -/
def ctxUp (n : Nat) (f : Ctx → Ctx) (g : Chip → Chip := id) : State := up fun c =>
  g (modCtx n f { c with fix.beat := 100#64 } |> wr (Reg.SVX_SIZE_width 0 n) 2 |> wr (Reg.SVX_SIZE_height 0 n) 2 |> wr (Reg.SVX_PERIOD_beats 0 n) 40 |> wr (Reg.SVX_STATUS_run 0 n) 2)
/-- A closed frame of a context. -/
def frame1 (n : Nat) : Closed := ⟨n, 0, 0, 5, 90, 0, 0, [1, 2, 3, 4]⟩
/-- A frame that is being received. -/
def rx1 : RxFrame := ⟨0, some ⟨2, 2, 0, 5, 0, 0⟩, [4, 3, 2, 1], false, false, true, 10, 0⟩
/-- A Kettle swap. -/
def swap1 : KtSwap := ⟨10, 1, 50, 300, false, false, false, [], 0⟩
/-- `up` at beat 100 with the Kettle changed. -/
def ktUp (f : Kettle → Kettle) (g : Chip → Chip := id) : State := up fun c => g (modKt f { c with fix.beat := 100#64 } |> wr Reg.KT_CHAINS_mask 5)
/-- A write transfer. -/
def xw (a : Nat) : Xfer := ⟨1, 0, true, a, List.replicate 64 7, 3⟩
/-- A read transfer. -/
def xr (a : Nat) : Xfer := ⟨6, 0, false, a, [], 3⟩
/-- `up` with a DRAM channel changed. -/
def memUp (n : Nat) (f : DramCh → DramCh) (g : Chip → Chip := id) : State := up fun c => g (modDram n f { c with fix.beat := 100000#64 })
/-- `up` at beat 100 with DMA channel 63 changed and running. -/
def dmaUp (f : DmaCh → DmaCh) (g : Chip → Chip := id) : State := up fun c => g (modDma 63 f { c with fix.beat := 100#64 } |> wr (Reg.DMA_STATUS_state 63) 1)
/-- A DMA descriptor. -/
def desc1 : DmaDesc := ⟨4096, 8192, 64, 1, 1, 1, [0, 0, 0], [0, 0, 0], 0, 0⟩
/-- A DMA burst in a state. -/
def burst1 (st : Nat) : Burst := ⟨0, 0, 0, 4096, 8192, 64, st, 0, 0, none, List.replicate 64 1, 0⟩
/-- A write transaction of the SPI port. -/
def spiOne : List Byte := let l : List Byte := [0x02#8, 0, 0, 0, 0x20, 0, 0, 0, 7]; l ++ toBE 1 (crc8 l)
/-- A warm reset in its hold. -/
def held1 : ResetRun := ⟨50, 4, true, true, false, []⟩
/-- The data of an Announce message. -/
def ann : Announce := ⟨9#64, 1#16, 128, 6, 0x20, 0, 128, 9, 0, 0⟩
/-- `oA` on the other path. -/
def oB : Origin := { oA with path := .b }
/-- `oA` of a slot with no session. -/
def oC : Origin := { oA with slot := 1 }
/-- `up` with axis 0 enabled inside an envelope. -/
def axU (f : Chip → Chip) : State := up fun c => f ({ c with host.sec.envelope := some smallEnv } |> wrB (Reg.AX_CTL_enable 0) true |> wr (Reg.AX_STATUS_state 0) 1 |> wr48 (Reg.AX_ENV_MAX_LO_value 0) (Reg.AX_ENV_MAX_HI_value 0) 1000 |> wr (Reg.AX_ENV_VLIM_value 0) 50000)
/-- Channel 0 with two records in DRAM to fetch. -/
def fe : State := furUp (fun f => { f with running := true, asked := 1 }) (dramWrite 0 (vecBytes ++ vecBytes))
/-- Channel 0 under a plan whose record has the given flags. -/
def gov (flags : Nat) : Furrow → Furrow := fun f => { f with loops := 7, plans := [{ plan1 with r := { plan1.r with flags := flags }, beg := 0, s := 0, endBeat := 200 }], running := true, begun := true }
/-- `up` at beat 100 with loop l of engine 0 running. -/
def ladUp (l : Nat) (g : Chip → Chip) : State := up fun c => g (modFur 0 (gov 0x1C) { c with fix.beat := 100#64 } |> wr (Reg.LAD_STATE_state 0 l) 2 |> wr (Reg.LAD_SAMPLE_s 0) 4 |> wr (Reg.LAD_UCODE_ucode_x 0) 1 |> wr (Reg.LAD_CTL_n_miss 0 l) 3)
/-- A running job with context 0. -/
def jobC : Job := { walked5 with st := 2, start := some 0, ctxs := [⟨0, 0, 0, 40, 2, 2, 0⟩], deadlines := [(0, 30)] }
/-- `ladUp` for the power loop of job `jobC`. -/
def pwrUp (g : Chip → Chip) : State := ladUp 2 fun c => g ({ c with host.jobs := [jobC] } |> wrB (Reg.LAD_SAMPLE_ctx_valid 0) true)
/-- `up` at beat 100 with feedback channel 0 enabled. -/
def pfUp (f : Feedback → Feedback) (g : Chip → Chip := id) : State := up fun c => g (modPf 0 f { c with fix.beat := 100#64 } |> wrB (Reg.PF_CTL_enable 0) true)
/-- `up` at beat 100 with emulation output 0 enabled. -/
def emuUp (f : Emu → Emu) (g : Chip → Chip := id) : State := up fun c => g (modEmu 0 f { c with fix.beat := 100#64 } |> wrB (Reg.PF_EMU_CTL_enable 0) true)
/-- `up` at beat 100 with axis 0 enabled and IDLE. -/
def axE (f : Axis → Axis) (g : Chip → Chip := id) : State := up fun c => g (modAx 0 f { c with fix.beat := 100#64 } |> wrB (Reg.AX_CTL_enable 0) true |> wr (Reg.AX_STATUS_state 0) 1)
/-- A Kettle return record on its line, with bits [23:16] of its first word and an offset. -/
def ret1 (c : Chip) (b0 : Nat) (off : Nat) : List Byte :=
  let n := c.ktLd / 8
  let l := [0x3C#8] ++ toBE 1 b0 ++ [0#8, 0] ++ toBE 4 0x05000009 ++ List.replicate (n - 12) 3#8
  let l := l ++ toBE 4 (crc32c l)
  toBE (n + 2) (be l * 2 ^ (16 - off))

/-- The register of a route that has one. -/
def hitOf : Route → Hit
  | .reg h => h
  | _ => ⟨0, ⟨.top, 0, 0⟩, ⟨0, [], .none, []⟩, []⟩

theorem dma_else (c : Chip) (n : Nat) (h : ∀ j < c.mem.dma.length, j ≠ n → c.dma j = DmaCh.init) :
    ∀ j, j ≠ n → c.dma j = DmaCh.init := fun j hj =>
  if hl : j < c.mem.dma.length then h j hl hj else by simp [Chip.dma, List.getD_eq_getElem?_getD, Nat.le_of_not_lt hl]

theorem nil_all {p : Job → Prop} (l : List Job) (h : l = []) : ∀ j ∈ l, p j := by subst h; simp

/-- A structure that has been written to DRAM has the fault that its bytes have. -/
theorem env_of_read {c : Chip} {l : List Byte} {r : Option Nat} (a n : Nat) (hn : l.length = n)
    (hq : ∀ h ∈ c.mem.ch, h.wq = []) (h : (dramWrite a l c).envFault l = r) :
    (dramWrite a l c).envFault ((dramWrite a l c).dramRead a n) = r := by
  subst hn
  rw [dramRead_dramWrite hq]
  exact h

theorem sem_free (l : List Sem) (h : ∀ m ∈ l[2]?, m.cls = 0) : ∀ m, l[2]? = some m → m.cls = 0 := fun m e => h m e

theorem opt_all {α : Type} (o : Option α) (p : α → Prop) (h : ∀ x ∈ o, p x) : ∀ x, o = some x → p x := fun x e => h x e

/-! ### The checks of well-formedness refuse -/

/-- A command that only its lengths make ill-formed. -/
abbrev stray : Src := ⟨false, 1#48, 0#16, 1#48⟩

theorem test_wf_packet : (Instr.packetReceived .a stray ⟨1#48, 0, 0, false, true⟩ (List.replicate 1501 0)).wf = false := by
  decide +kernel
theorem test_wf_chain : (Instr.certPresent .a stray 0 0 (List.replicate 1401 0)).wf = false := by decide +kernel
theorem test_wf_openKey : (Instr.sessionOpen .a stray 0 0 1 7 0 (List.replicate 31 0) (List.replicate 64 0)).wf = false := by
  decide +kernel
theorem test_wf_openSignature :
    (Instr.sessionOpen .a stray 0 0 1 7 0 (List.replicate 32 0) (List.replicate 65 0)).wf = false := by decide +kernel
theorem test_wf_noWords : (Instr.regWrite oA 0x20 []).wf = false := by decide +kernel
theorem test_wf_manyWords : (Instr.regWrite oA 0x20 (List.replicate 257 0)).wf = false := by decide +kernel
theorem test_wf_pulse : (Instr.pulseSet oA 0 1 ⟨5, 1000000000⟩ 250 250).wf = false := by decide +kernel
theorem test_wf_snapTime : (Instr.snapConfig oA 0 0 ⟨5, 1000000000⟩).wf = false := by decide +kernel
theorem test_wf_grid : (Instr.tableCommitDone 0 24).wf = false := by decide +kernel
theorem test_wf_return : (Instr.ktReturnRecord 0 0 (List.replicate 271 0)).wf = false := by decide +kernel
theorem test_wf_readings : (Instr.thmConversion (List.replicate 11 0)).wf = false := by decide +kernel
theorem test_wf_spiNone : (Instr.spiRead 0x20 0).wf = false := by decide +kernel
theorem test_wf_spiMany : (Instr.spiRead 0x20 65).wf = false := by decide +kernel

/-! ### Examples and check values of the spec -/

/-- The nine ASCII bytes "123456789". -/
abbrev nine : List Byte := [0x31, 0x32, 0x33, 0x34, 0x35, 0x36, 0x37, 0x38, 0x39]

/-- 04_furrows.md, R105. -/
theorem test_crc16 : crcMsb 16 0x1021 0xFFFF nine = 0x29B1 := by decide +kernel

/-- 06_glelin_links.md, R187. -/
theorem test_crc32c : crc32c nine = 0xE3069283 := by decide +kernel

/-- 06_glelin_links.md, R194. -/
theorem test_crc8 : crcMsb 8 0x07 0 nine = 0xF4 := by decide +kernel

/-- 00_scope.md, R15: 0x0003 follows 0xFFFE, 0x8000 does not follow 0. -/
theorem test_follows : follows 16 0x0003 0xFFFE = true ∧ follows 16 0x8000 0 = false := by decide +kernel

/-- 00_scope.md, R8: an opcode in a packet, a coordinate in DRAM. -/
theorem test_byteOrders : toBE 2 0x0021 = [0x00, 0x21] ∧ toLE 4 0x00120040 = [0x40, 0x00, 0x12, 0x00] := by decide +kernel

/-- 06_glelin_links.md, the start of a downlink frame: its first two words on the line. -/
theorem test_scrambled : scrambled (word32 0x02625A1E ++ word32 0x01234567) = word32 0x02625A10 ++ word32 0x0123459B := by
  decide +kernel

/-- 05_bed_sluice.md, R153: tile (7, 2) GRANTED to channel 5 reads 0x45. -/
theorem test_ownerMap :
    (up fun c => slbSnap (modSlb (fun b => { b with tiles := [(0x207, ⟨some 5, 5, 0, true, none, false, 0⟩)] })
      (c |> wr Reg.SLB_GRID_SIZE_cols 10 |> wr Reg.SLB_GRID_SIZE_rows 10))).core.tileByte 0x207 = 0x45 := by decide +kernel

/-- 03_serair_commands.md, one command sent on both paths: the request that the packet spells. -/
theorem test_jobStartPacket :
    requestOf ⟨0, 500, .a, 5, stray⟩ 0 0x22 [0x00, 0x00, 0x01, 0x3E, 0, 0, 0, 0, 0x02, 0x62, 0x5A, 0x00] =
      some (.jobStart ⟨0, 500, .a, 5, stray⟩ 318 40000000) := by decide +kernel

/-- 09_ladle_engines.md, one power sample: what engine 3 holds when sample 0 opens. -/
def powerExample : State := up fun c =>
  { c with
    fix.beat := 40000200
    host.jobs := [{ walked5 with id := 318, st := 2, start := some 40000000, ctxs := [⟨3, 0, 30, 80, 2, 2, 0⟩], deadlines := [(3, 170)] }] }
    |> modLadle 3 (fun e => { e with frames := [⟨0, true, 0, false⟩], meas := [⟨0, 0, 40000199, 22470, true⟩] })
    |> wrB (Reg.LAD_SAMPLE_ctx_valid 3) true |> wr (Reg.LAD_SAMPLE_context 3) 3 |> wr (Reg.LAD_STATE_state 3 2) 2
    |> wr (Reg.LAD_UCODE_ucode_p 3) 2 |> wr (Reg.FUR_PSET_LOOP_pwr_ref 3 0) 22000
    |> wrS (Reg.LAD_PWR_KP_value 3 0) 107374 |> wrS (Reg.LAD_PWR_KI_value 3 0) 21475
    |> wrS (Reg.LAD_Y_LO_bound 3 2) (-268435456) |> wrS (Reg.LAD_Y_HI_bound 3 2) 268435456
    |> wrS (Reg.LAD_I_LO_bound 3 2) (-134217728) |> wrS (Reg.LAD_I_HI_bound 3 2) 134217728

/-- The worked example's output, applied 80 beats after the deadline. -/
theorem test_powerSample : (powerSample 3 powerExample.core).loopOut 3 2 40000280 = -60559030 := by decide +kernel

/-! ### The hypotheses of statements are met -/

/-- The hypothesis of `FrontCommandRuns` is met. -/
theorem witness_FrontCommandRuns : ∃ (i : Instr) (rest : List Instr) (s : State), s.pending = i :: rest :=
  ⟨.ktLatch, [], { State.reset with pending := [.ktLatch] }, rfl⟩

/-- The hypothesis of `EmptyQueueIdles` is met. -/
theorem witness_EmptyQueueIdles : ∃ s : State, s.pending = [] := ⟨State.reset, rfl⟩

/-- `EveryCommandCompletes` speaks of the rows of the JTAG port and of the others. -/
theorem witness_EveryCommandCompletes : (∃ i : Instr, i.jtagRow) ∧ ∃ i : Instr, ¬ i.jtagRow :=
  ⟨⟨.jtagTrst, .inl rfl⟩, .ktLatch, by simp [Instr.jtagRow]⟩

/-- The hypotheses of each clause of `BeatCounter` are met together. -/
theorem witness_BeatCounter :
    (∃ (i : Instr) (s t : State), exec i s = .next t ∧ s.core.sys.pwr.porst = false ∧ ∃ g a, i = .beatOpen g a) ∧
    (∃ (i : Instr) (s t : State), exec i s = .next t ∧ (i = .powerOnReset ∨ (i.startsReset ∧ s.core.sys.pwr.porst = false))) ∧
    (∃ (i : Instr) (s t : State), exec i s = .next t ∧ i ≠ .powerOnReset ∧ s.core.sys.pwr.porst = true) ∧
    (∃ (i : Instr) (s t : State), exec i s = .next t ∧ ¬ i.startsReset ∧ ¬ ∃ g a, i = .beatOpen g a) :=
  ⟨⟨.beatOpen 0 0, up id, _, rfl, by decide +kernel, 0, 0, rfl⟩,
   ⟨.supplyAlarm 0 true, up id, _, rfl, .inr ⟨.inr ⟨0, by decide, rfl⟩, by decide +kernel⟩⟩,
   ⟨.ktLatch, State.reset, _, rfl, by simp, by decide +kernel⟩,
   ⟨.ktLatch, up id, _, rfl, by simp [Instr.startsReset], by simp⟩⟩

/-- The hypotheses of each clause of `Claim.EpochOtpCrock` and of `Claim.HeldInReset`, the parts of `WhatTimeAndResetKeep`,
are met together. -/
theorem witness_WhatTimeAndResetKeep :
    (∃ (i : Instr) (s t : State), exec i s = .next t ∧ ¬ i.startsReset ∧ i ≠ .timeStep ∧ (¬ ∃ g a, i = .beatOpen g a) ∧
      ¬ i.crockRow) ∧
    ∃ (i : Instr) (s : State), s.core.sys.pwr.porst = true ∧ ¬ i.powerRow ∧ ¬ i.jtagRow :=
  ⟨⟨.ktLatch, up id, _, rfl, by simp [Instr.startsReset], by simp, by simp, by simp [Instr.crockRow]⟩,
   .ktLatch, State.reset, by decide +kernel, by simp [Instr.powerRow], by simp [Instr.jtagRow]⟩

/-- The hypotheses of `StepKeepsSafe` are met together. -/
theorem witness_StepKeepsSafe : ∃ s t : State, s.safe ∧ step s = .next t :=
  ⟨up id, _, ⟨fun h => absurd h (by decide +kernel), by unfold Jtag.wf; decide +kernel⟩, rfl⟩

/-- The hypotheses of `BeamPermitNeedsConditions` are met together. -/
theorem witness_BeamPermitNeedsConditions :
    ∃ (i : Instr) (s : State), ¬ i.jtagRow ∧ s.core.sys.pwr.porst = false ∧ ∃ t, exec i s = .next t ∧
      t.core.flag Reg.GIO_STATUS_permit = true :=
  ⟨.ktLatch, up fun c => { c with host.sec.envelope := some smallEnv } |> wrB Reg.GIO_CTL_permit_en true
      |> wrB Reg.GIO_STATUS_permit true, by simp [Instr.jtagRow], by decide +kernel, _, rfl, by decide +kernel⟩

/-- The hypotheses of each clause of `JtagPort` are met together. -/
theorem witness_JtagPort :
    (∃ s : State, s.core.jtagOn = false) ∧ (∃ s : State, s.core.jtagOn = true ∧ s.jtag.tap = .shDr) ∧
    (∃ s : State, s.core.jtagOn = true ∧ s.jtag.tap = .shIr) ∧
    (∃ (s : State) (tms : Bool), s.core.jtagOn = true ∧ s.jtag.tap.next tms = .updDr) ∧
    ∃ (s : State) (tms : Bool), s.core.jtagOn = true ∧ s.jtag.tap ≠ .shDr ∧ s.jtag.tap ≠ .capDr ∧ s.jtag.tap.next tms ≠ .updDr :=
  let tap (x : TapState) : State := { up id with jtag := { State.reset.jtag with tap := x } }
  ⟨⟨up (modPwr fun p => { p with supplyOut := [0] }), by decide +kernel⟩, ⟨tap .shDr, by decide +kernel⟩, ⟨tap .shIr, by decide +kernel⟩,
   ⟨tap .ex1Dr, true, by decide +kernel⟩, tap .idle, false, by decide +kernel⟩

/-- A setpoint map of `n` bytes after its rate, whose entries all name pixel (0, 0), processed at every frame. -/
def zeroMap (n : Nat) : List Byte := [0, 0, 0, 0, 1] ++ List.replicate n 0

theorem zeroMap_length (n : Nat) : (zeroMap n).length = n + 5 := by simp [zeroMap]

theorem le_zero (l : List Byte) (h : ∀ b ∈ l, b = 0) : le l = 0 := by
  induction l with
  | nil => rfl
  | cons b l ih =>
    have hb : b = 0 := h b List.mem_cons_self
    have hl : le l = 0 := ih fun x hx => h x (List.mem_cons_of_mem _ hx)
    show le l * 256 + b.toNat = 0
    rw [hb, hl]
    rfl

theorem zeroMap_at (n o k : Nat) (h : 5 ≤ o) : leAt (zeroMap n) o k = 0 := by
  refine le_zero _ fun b hb => ?_
  have hd : b ∈ (zeroMap n).drop o := List.mem_of_mem_take hb
  rw [zeroMap, List.drop_append, List.drop_of_length_le (l := [0, 0, 0, 0, 1]) h, List.nil_append] at hd
  exact List.eq_of_mem_replicate (List.mem_of_mem_drop hd)

theorem zeroMap_rate (n : Nat) (h : n = 3 + (n - 3)) : leAt (zeroMap n) 4 4 = 1 := by
  have e : slice (zeroMap n) 4 4 = [1, 0, 0, 0] := by
    rw [zeroMap, h, List.replicate_add]
    rfl
  rw [leAt, e]
  decide

theorem zeroMap_inside (n w h : Nat) (hw : 0 < w) (hh : 0 < h) : mapInside w h (zeroMap n) = true := by
  refine List.all_eq_true.2 fun k _ => ?_
  rw [zeroMap_at _ _ _ (by omega), zeroMap_at _ _ _ (by omega)]
  simp [hw, hh]

/-- Context 24 with a temperature tap, and the map in DRAM. -/
def mapUp : State := up fun c => dramWrite 4096 (zeroMap 2097211) (c |> wrB (Reg.SVX_CFG_temp_en 0 24) true
  |> wrB (Reg.SVX_TAP_CTL_enable 0 24 4) true |> wr (Reg.SVX_SIZE_width 0 24) 300 |> wr (Reg.SVX_SIZE_height 0 24) 300)

theorem mapUp_map : mapUp.core.dramRead 4096 ktMapBytes = zeroMap 2097211 := by
  rw [show ktMapBytes = (zeroMap 2097211).length from (zeroMap_length _).symm]
  exact dramRead_dramWrite (by decide +kernel)

theorem mapUp_ok : mapFault 24 4096 mapUp.core = none := by
  have h1 : ¬ (mapUp.core.flag (Reg.SVX_CFG_mosaic (mapUp.core.svOf 24) 24) = true ∨
      (!mapUp.core.flag (Reg.SVX_CFG_temp_en (mapUp.core.svOf 24) 24)) = true ∨
      (!mapUp.core.flag (Reg.SVX_TAP_CTL_enable (mapUp.core.svOf 24) 24 4)) = true) := by decide +kernel
  have h2 : mapUp.core.dramOk 4096 ktMapBytes = true := by decide +kernel
  have hi : mapInside (mapUp.core.ctxW 24) (mapUp.core.ctxH 24) (zeroMap 2097211) = true :=
    zeroMap_inside _ _ _ (by decide +kernel) (by decide +kernel)
  have hr : leAt (zeroMap 2097211) 4 4 = 1 := zeroMap_rate 2097211 (by decide)
  simp only [mapFault, mapUp_map, hi, hr, h2, if_neg h1]
  rfl

/-- The hypotheses of the clause of `KettleCommands` that starts the bed-temperature loop are met together. -/
theorem witness_KettleCommands_loop :
    ∃ (s : State) (o : Origin) (ctx : BitVec 8) (map : BitVec 64), s.core.obeys o 1 ∧ s.core.free ∧ s.core.on pdKETTLE = true ∧
      isOverview ctx.toNat = true ∧ map.toNat % 64 = 0 ∧ map.toNat < 2 ^ 36 ∧
      s.core.on (sieveDom (s.core.svOf ctx.toNat)) = true ∧ mapFault ctx.toNat map.toNat s.core = none :=
  ⟨mapUp, oA, 24, 4096, by decide +kernel, by decide +kernel, by decide +kernel, by decide, by decide, by decide,
    by decide +kernel, mapUp_ok⟩

/-- The hypotheses of each clause of `Claim.FramesAtPort`, a part of `PortsAndLinks`, are met together. -/
theorem witness_FramesAtPort :
    (∃ (s : State) (p : Path) (bad : Bool), s.core.sys.pwr.porst = false ∧ s.core.portOn p = true) ∧
    (∃ (s : State) (p : Path) (target : BitVec 32) (mac : BitVec 48) (ip : BitVec 32), s.core.sys.pwr.porst = false ∧
    s.core.portOn p = true) :=
  ⟨⟨(netUp id), .a, true, by decide +kernel⟩,
   ⟨(netUp id), .a, 0#32, 0#48, 0#32, by decide +kernel⟩⟩

/-- The hypotheses of each clause of `Claim.LinkChanges`, a part of `PortsAndLinks`, are met together. -/
theorem witness_LinkChanges :
    (∃ (s : State) (p : Path) (lock : Bool) (fault : Bool) (an : Bool), s.core.sys.pwr.porst = false ∧ s.core.portOn p = true
    ∧ s.core.flag (Reg.NET_STATUS_link p.code) = (lock && !fault && (an || !(s.core.flag (Reg.NET_CTL_mode p.code) &&
    s.core.flag (Reg.NET_CTL_an_en p.code))))) ∧
    (∃ (s : State) (p : Path) (lock : Bool) (fault : Bool) (an : Bool), s.core.sys.pwr.porst = false ∧ s.core.portOn p = true
    ∧ s.core.flag (Reg.NET_STATUS_link p.code) ≠ (lock && !fault && (an || !(s.core.flag (Reg.NET_CTL_mode p.code) &&
    s.core.flag (Reg.NET_CTL_an_en p.code)))) ∧ s.core.roomToLog) :=
  ⟨⟨(netUp id), .a, true, true, true, by decide +kernel⟩,
   ⟨(netUp id), .a, true, false, true, by decide +kernel⟩⟩

/-- The hypotheses of each clause of `Claim.ControlOfPaths`, a part of `PathControl`, are met together. -/
theorem witness_ControlOfPaths :
    (∃ (s : State) (p : Path) (b : ℕ), s.core.hears ∧ s.core.hbAt p = some b ∧ s.core.current p = true ∧ b + s.core.rd
    Reg.HG_CTL_hb_timeout * 4000 < s.core.now) ∧
    (∃ (s : State) (p : Path) (higher : Bool), s.core.hears ∧ s.core.host.hg.switchTo = some (p, higher) ∧ s.core.current p =
    true ∧ s.core.claimOf p.other ≤ s.core.claimOf p) ∧
    (∃ (s : State) (p : Path) (b : ℕ), s.core.hears ∧ s.core.sys.net.modeTry.getD p.code 0 = b + 1 ∧ b + 4000000 ≤ s.core.now
    ∧ s.core.flag (Reg.NET_STATUS_link p.code) = false ∧ s.core.portOn p = true) :=
  ⟨⟨(up fun c => wr Reg.HG_CTL_hb_timeout 0 (wrB Reg.HG_STATUS_current_a true { c with fix.beat := 100#64, host.hg.hbA := some 3 })),
    .a, ((3)), by decide +kernel⟩,
   ⟨(up fun c => wr Reg.HG_CLAIM_claim_b 9 (wrB Reg.HG_STATUS_current_b true { c with fix.beat := 100#64, host.hg.switchTo := some (.b, true) })),
    .b, ((true)), by decide +kernel⟩,
   ⟨(netUp fun c => { c with fix.beat := 4000001#64, sys.net.modeTry := [2, 0] }), .a, 1, by decide +kernel⟩⟩

/-- The hypotheses of each clause of `Claim.HeartbeatClaims`, a part of `PathControl`, are met together. -/
theorem witness_HeartbeatClaims :
    ∃ (s : State) (o : Origin), Chip.admits o 1 s.core :=
  ⟨(up fun c => modNet (fun n => n) (wrB Reg.HG_STATUS_current_a true { c with fix.beat := 100#64, host.hg.hbA := some 3 })),
    oA, by decide +kernel⟩

/-- The hypotheses of each clause of `Claim.AnnounceAndSync`, a part of `PtpMessages`, are met together. -/
theorem witness_AnnounceAndSync :
    (∃ (s : State) (p : Path) (h : PtpHead) (a : Announce), s.core.ptpTaken p h) ∧
    (∃ (s : State) (p : Path) (h : PtpHead) (two : Bool) (t1 : BitVec 96) (seen : BitVec 96) (k : BitVec 8), s.core.ptpTaken
    p h ∧ (s.core.port p).master = some (h.sender.toNat, h.port.toNat)) ∧
    (∃ (s : State) (p : Path) (h : PtpHead) (t1 : BitVec 96) (c0 : ℤ) (t2 : ℤ), s.core.ptpTaken p h ∧ (s.core.port p).master
    = some (h.sender.toNat, h.port.toNat) ∧ (s.core.port p).sync = some (h.seqId.toNat, c0, t2, true)) :=
  ⟨⟨(netUp id), .a, (⟨2, 0, false, 9, 1, 1, 0⟩), (⟨9, 1, 128, 6, 0x20, 0, 128, 9, 0, 0⟩), by decide +kernel⟩,
   ⟨(netUp (modPort .a fun q => { q with master := some (9, 1), sync := some (1, 5, 100, true), foreign := [⟨ann, 3, none⟩] })),
    .a, (⟨2, 0, false, 9, 1, 1, 0⟩), true, 0#96, 0#96, 0#8, by decide +kernel⟩,
   ⟨(netUp (modPort .a fun q => { q with master := some (9, 1), sync := some (1, 5, 100, true), foreign := [⟨ann, 3, none⟩] })),
    .a, (⟨2, 0, false, 9, 1, 1, 0⟩), 0#96, ((5)), ((100)), by decide +kernel⟩⟩

/-- The hypotheses of each clause of `Claim.DelayExchange`, a part of `PtpMessages`, are met together. -/
theorem witness_DelayExchange :
    (∃ (s : State) (p : Path) (t3 : BitVec 96), s.core.sys.pwr.porst = false ∧ s.core.portOn p = true ∧ (s.core.port
    p).master.isSome = true ∧ (s.core.port p).ms.isSome = true ∧ (s.core.port p).nextReq ≤ s.core.now) ∧
    (∃ (s : State) (p : Path) (h : PtpHead) (reqPort : BitVec 16) (reqClock : BitVec 64) (t4 : BitVec 96) (k : BitVec 8) (t3
    : ℤ) (ms : ℤ) (t2 : ℤ), s.core.ptpTaken p h ∧ (s.core.port p).master = some (h.sender.toNat, h.port.toNat) ∧
    reqPort.toNat = p.code + 1 ∧ reqClock.toNat = s.core.clockId ∧ (s.core.port p).req = some (h.seqId.toNat, t3) ∧
    (s.core.port p).ms = some (ms, t2)) :=
  ⟨⟨(netUp (fun c => modPort .a (fun q => { q with master := some (9, 1), req := some (1, 700), ms := some (20, 100), nextReq := 40 })
    { c with fix.beat := 100#64 })), .a, 900#96, by decide +kernel⟩,
   ⟨(netUp (fun c => modPort .a (fun q => { q with master := some (9, 1), req := some (1, 700), ms := some (20, 100), nextReq := 40 })
    { c with fix.beat := 100#64 })), .a, (⟨2, 0, false, 9, 1, 1, 0⟩), 1#16, 0xFFFE000000#64, 900#96, 0#8, ((700)), ((20)),
    ((100)), by decide +kernel⟩⟩

/-- The hypotheses of each clause of `Claim.MasterTimeouts`, a part of `PtpMessages`, are met together. -/
theorem witness_MasterTimeouts :
    (∃ (s : State) (p : Path) (b : ℕ), s.core.hears ∧ s.core.announceDue p = some b ∧ b < s.core.now) ∧
    (∃ (s : State) (p : Path) (b : ℕ), s.core.hears ∧ (s.core.port p).lastSync = some b ∧ (s.core.port p).master.isSome =
    true ∧ p = s.core.ctlPath ∧ b + 3 * intervalBeats (s.core.port p).logSync < s.core.now) :=
  ⟨⟨(netUp (fun c => modPort .a (fun q => { q with master := some (9, 1), foreign := [⟨ann, 3, none⟩] }) { c with fix.beat := 100000000#64 })),
    .a, ((12000003)), by decide +kernel⟩,
   ⟨(netUp (fun c => modPort .a (fun q => { q with master := some (9, 1), lastSync := some 3 }) (wr Reg.BT_STATUS_time_state
    2 { c with fix.beat := 100000000#64 }))), .a, ((3)), by decide +kernel⟩⟩

/-- The hypotheses of each clause of `TheStep` are met together. -/
theorem witness_TheStep :
    (∃ (s : State), s.core.hears ∧ s.core.timeState = 1 ∧ s.core.sys.net.servo.step = none ∧ s.core.running = none ∧ (∀ j ∈
    s.core.host.jobs, ∀ (b : ℕ), j.st = 1 → j.start = some b → s.core.now + 4 < b) ∧ 4 ≤ (s.core.port
    s.core.ctlPath).offsets.length) ∧
    (∃ (s : State) (ns : ℕ) (d : ℕ) (m : ℤ) (k : ℤ), s.core.sys.pwr.porst = false ∧ s.core.sys.net.servo.step = some (ns, d,
    m, k) ∧ s.core.timeState = 1 ∧ ns < s.core.now ∧ ns < 2 ^ 64 ∧ d < 250) :=
  ⟨⟨(netUp (fun c => modPort .a (fun q => { q with master := some (9, 1), offsets := [(101, 4000), (102, 3000), (103,2000), (104,1000)] })
    (wr Reg.BT_STATUS_time_state 1 { c with fix.beat := 100000000#64 }))), by decide +kernel, by decide +kernel,
    by decide +kernel, by decide +kernel, nil_all _ (by decide +kernel), by decide +kernel⟩,
   ⟨(netUp (fun c => modServo (fun v => { v with step := some (99, 7, 12345678901250, 40) }) (wr Reg.BT_STATUS_time_state 1 { c with fix.beat := 100#64 }))),
    ((99)), ((7)), ((12345678901250)), ((40)), by decide +kernel⟩⟩

/-- The hypotheses of each clause of `Claim.TimeReports`, a part of `Reports`, are met together. -/
theorem witness_TimeReports :
    (∃ (s : State) (o : Origin) (cycle : Fin 499), Chip.admits o 1 s.core) ∧
    (∃ (s : State) (o : Origin) (inp : BitVec 8), Chip.admits o 1 s.core ∧ inp.toNat < 8) :=
  ⟨⟨(up id), oA, 0, by decide +kernel⟩,
   ⟨(up id), oA, 0#8, by decide +kernel⟩⟩

/-- The hypotheses of each clause of `Claim.TimePulses`, a part of `PulsesAndCaptures`, are met together. -/
theorem witness_TimePulses :
    (∃ (s : State) (k : Fin 8) (o : Origin) (out : BitVec 8) (mode : BitVec 8) (first : DevTime) (period : BitVec 32) (width
    : BitVec 32), out.toNat = ↑k ∧ Chip.obeys o 1 s.core ∧ s.core.free ∧ pulseForm out mode first period width = none ∧ ↑k <
    s.core.sys.net.pulses.length) ∧
    (∃ (s : State) (k : Fin 8) (time : ℤ), s.core.sys.pwr.porst = false ∧ (s.core.pulse ↑k).next = some time ∧ time ≤
    s.core.timeOf s.core.now ∧ (s.core.pulse ↑k).effective ≤ s.core.now) ∧
    (∃ (s : State) (k : Fin 8) (b : ℕ), s.core.sys.pwr.porst = false ∧ (s.core.pulse ↑k).fall = some b ∧ b ≤ s.core.now) :=
  ⟨⟨(up id), 0, oA, 0, 0, (⟨0, 0⟩), 250, 250, by decide +kernel⟩,
   ⟨(up fun c => modNet (fun n => { n with pulses := [⟨some 25000, some 100, 3⟩] }) { c with fix.beat := 100#64 }), 0,
    ((25000)), by decide +kernel⟩,
   ⟨(up fun c => modNet (fun n => { n with pulses := [⟨some 25000, some 100, 3⟩] }) { c with fix.beat := 100#64 }), 0,
    ((100)), by decide +kernel⟩⟩

/-- The hypotheses of each clause of `Claim.Captures`, a part of `PulsesAndCaptures`, are met together. -/
theorem witness_Captures :
    ∃ (s : State) (k : Fin 8) (rise : Bool) (ns : Fin 499), s.core.sys.pwr.porst = false :=
  ⟨(up id), 0, true, 0, by decide +kernel⟩

/-- The hypotheses of each clause of `SessionAndClaimChecks` are met together. -/
theorem witness_SessionAndClaimChecks :
    (∃ (i : Instr) (s : State) (o : Origin) (op : ℕ), i.request = some (o, op) ∧ s.core.host.hg.queue = [] ∧ s.core.hears ∧
    s.core.sessionOpen ↑o.slot = false) ∧
    (∃ (i : Instr) (s : State) (o : Origin) (op : ℕ), i.request = some (o, op) ∧ s.core.host.hg.queue = [] ∧ Chip.admits o 3
    s.core ∧ (∃ role queued, opInfo op = some { kind := 2, role := role, queued := queued }) ∧ 16 ≤ op ∧ (o.path ≠
    s.core.ctlPath ∨ o.claim.toNat ≠ s.core.claimOf o.path)) :=
  ⟨⟨(.regRead oC 0x20 1), (up id), oC, ((16)), by decide +kernel⟩,
   ⟨(.regWrite oB 0x20 [1]), (up id), oB, ((17)), by decide +kernel, by decide +kernel, by decide +kernel, ⟨_, _, rfl⟩,
    by decide +kernel, by decide +kernel⟩⟩

/-- The hypotheses of each clause of `Claim.QueueOf64`, a part of `CommandQueue`, are met together. -/
theorem witness_QueueOf64 :
    (∃ (i : Instr) (s : State) (o : Origin) (op : ℕ) (role : ℕ) (kind : Fin 3), i.request = some (o, op) ∧ opInfo op = some { kind := ↑kind, role := role, queued := true }
    ∧ Chip.obeys o 3 s.core ∧ (∃ q l, s.core.host.hg.queue = q :: l ∧ q.cmd.request ≠ some (o, op)) ∧ 64 ≤
    s.core.host.hg.queue.length ∧ s.core.roomToLog) ∧
    (∃ (i : Instr) (s : State) (o : Origin) (op : ℕ) (role : ℕ) (kind : Fin 3) (addr : BitVec 64) (len : BitVec 32),
    i.request = some (o, op) ∧ opInfo op = some { kind := ↑kind, role := role, queued := true } ∧ Chip.obeys o 3 s.core ∧ (∃
    q l, s.core.host.hg.queue = q :: l ∧ q.cmd.request ≠ some (o, op)) ∧ i = Instr.jobLoad o addr len ∧ loadForm addr len =
    none ∧ s.core.host.hg.queue.length < 64) :=
  ⟨⟨(.jobAbort oA 0), (up fun c => { c with host.hg.queue := List.replicate 64 ⟨oA, .jobLoad oA 0 60, 9, 0x20, 0, false⟩ }),
    oA, ((35)), 1, 2, by decide +kernel, by decide +kernel, by decide +kernel, ⟨_, _, rfl, by decide +kernel⟩,
    by decide +kernel, by decide +kernel⟩,
   ⟨(.jobLoad oA 4096 60), (up fun c => { c with host.hg.queue := [⟨oA, .chArm oA 1, 9, 0x40, 0, false⟩] }), oA, ((32)), 1,
    2, 4096, 60, by decide +kernel, by decide +kernel, by decide +kernel, ⟨_, _, rfl, by decide +kernel⟩, by decide +kernel,
    by decide +kernel, by decide +kernel⟩⟩

/-- The hypotheses of each clause of `Claim.QueueWaitDeferred`, a part of `CommandQueue`, are met together. -/
theorem witness_QueueWaitDeferred :
    ∃ (s : State), s.core.hears :=
  ⟨(up fun c => { c with host.hg.queue := [⟨oA, .chArm oA 1, 9, 0x40, 0, false⟩] }), by decide +kernel⟩

/-- The hypotheses of each clause of `Claim.CertificateKept`, a part of `Sessions`, are met together. -/
theorem witness_CertificateKept :
    ∃ (s : State) (p : Path) (src : Src) (claim : BitVec 16) (seq : BitVec 32) (chain : List Byte) (n : ℕ), s.core.hears ∧
    s.core.host.sec.keys.length = 16 ∧ chainCount chain.length = some n ∧ s.core.chainFault n chain = none :=
  ⟨(up rooted), .a, (⟨false, 1#48, 5000#16, 1#48⟩), 0#16, 0#32, leafChain, ((1)), by decide +kernel⟩

/-- The hypotheses of each clause of `Claim.SessionOpens`, a part of `Sessions`, are met together. -/
theorem witness_SessionOpens :
    ∃ (s : State) (p : Path) (src : Src) (claim : BitVec 16) (seq : BitVec 32) (role : BitVec 8) (keyId : BitVec 32) (idle :
    BitVec 16) (pub : List Byte) (sig : List Byte) (k : ℕ), s.core.hears ∧ s.core.host.sec.sessions.length = 8 ∧ openForm
    role.toNat idle.toNat pub sig = none ∧ s.core.openRefusal role.toNat keyId.toNat idle.toNat pub sig = none ∧
    s.core.freeSlot = some k :=
  ⟨(up keyed), .a, (⟨false, 1#48, 5000#16, 1#48⟩), 0, 7, 1, 7, 0, idPk, idSig, ((1)), by decide +kernel⟩

/-- The hypotheses of each clause of `Claim.SessionEnds`, a part of `Sessions`, are met together. -/
theorem witness_SessionEnds :
    (∃ (s : State) (k : Fin 8) (o : Origin), o.slot = k ∧ Chip.admits o 1 s.core) ∧
    (∃ (s : State) (k : Fin 8), s.core.sys.pwr.porst = false ∧ s.core.sessionOpen ↑k = true ∧ (s.core.session ↑k).last +
    4000000 * s.core.rd (Reg.SEC_SLOT_STATE_idle_timeout ↑k) ≤ s.core.now) :=
  ⟨⟨(up id), 0, oA, by decide +kernel⟩,
   ⟨(up id), 0, by decide +kernel⟩⟩

/-- The hypotheses of each clause of `NoticesAndResults` are met together. -/
theorem witness_NoticesAndResults :
    (∃ (s : State) (o : Origin) (mask : BitVec 16) (classes : BitVec 16), Chip.admits o 1 s.core ∧ ↑o.slot <
    s.core.host.sec.sessions.length) ∧
    (∃ (s : State) (o : Origin) (seq : BitVec 32), Chip.admits o 1 s.core ∧ ↑o.slot < s.core.host.sec.sessions.length) :=
  ⟨⟨(up id), oA, 0#16, 0#16, by decide +kernel⟩,
   ⟨(up id), oA, 0#32, by decide +kernel⟩⟩

/-- The hypotheses of each clause of `Semaphores` are met together. -/
theorem witness_Semaphores :
    (∃ (s : State) (o : Origin) (k : BitVec 8), Chip.obeys o 1 s.core ∧ s.core.host.sems.length = 64 ∧ 8 ≤ k.toNat ∧ k.toNat
    < 64) ∧
    (∃ (s : State) (o : Origin) (k : BitVec 8), Chip.obeys o 1 s.core ∧ s.core.host.sems.length = 64 ∧ 3 ≤ k.toNat ∧ k.toNat
    ≤ 7) ∧
    (∃ (s : State) (o : Origin) (k : BitVec 8), Chip.obeys o 1 s.core ∧ s.core.host.sems.length = 64 ∧ 8 ≤ k.toNat ∧ k.toNat
    < 64 ∧ (s.core.sem k.toNat).cls = 2 ∧ (s.core.sem k.toNat).owner = ↑o.slot ∧ s.core.host.commits = []) ∧
    (∃ (s : State) (o : Origin), Chip.obeys o 1 s.core ∧ s.core.host.sems.length = 64) :=
  ⟨⟨(up id), oA, 8, by decide +kernel⟩,
   ⟨(up id), oA, 3, by decide +kernel⟩,
   ⟨(up fun c => { c with host.sems := c.host.sems.set 8 ⟨2, 0, true⟩ |>.set 63 ⟨1,5,false⟩ }), oA, 8, by decide +kernel⟩,
   ⟨(up id), oA, by decide +kernel⟩⟩

/-- The hypotheses of each clause of `WindowOnScratch` are met together. -/
theorem witness_WindowOnScratch :
    (∃ (s : State) (o : Origin), Chip.obeys o 2 s.core ∧ s.core.host.hg.port = [] ∧ s.core.rd Reg.TOP_SCRATCH_value < 2 ^ 32
    ∧ s.core.on pdAON = true ∧ s.core.heldCopy Master.headgate 34 = none) ∧
    (∃ (s : State) (o : Origin) (v : Word), Chip.obeys o 2 s.core ∧ s.core.host.hg.port = [] ∧ s.core.rd
    Reg.TOP_SCRATCH_value < 2 ^ 32 ∧ s.core.on pdAON = true ∧ s.core.heldCopy Master.headgate 34 = none) ∧
    (∃ (s : State) (o : Origin) (mask : BitVec 32) (value : BitVec 32), Chip.obeys o 2 s.core ∧ s.core.host.hg.port = [] ∧
    s.core.rd Reg.TOP_SCRATCH_value < 2 ^ 32 ∧ s.core.on pdAON = true ∧ s.core.heldCopy Master.headgate 34 = none) :=
  ⟨⟨(up id), oA, by decide +kernel⟩,
   ⟨(up id), oA, 0#32, by decide +kernel⟩,
   ⟨(up id), oA, 0#32, 0#32, by decide +kernel⟩⟩

/-- The hypotheses of each clause of `PacketsFromTheLine` are met together. -/
theorem witness_PacketsFromTheLine :
    (∃ (s : State) (p : Path) (src : Src) (dst : Dst) (bytes : List Byte), s.core.hears ∧ s.core.portOn p = true ∧
    s.core.takesSerair p src dst = true ∧ (bytes.length < 24 ∨ beAt bytes 0 2 ≠ 22614 ∨ beAt bytes 2 1 ≠ 1 ∨ beAt bytes 16 2
    > 1400 ∨ bytes.length < 40 + beAt bytes 16 2)) ∧
    (∃ (s : State) (p : Path) (src : Src) (dst : Dst) (bytes : List Byte), s.core.hears ∧ s.core.portOn p = true ∧
    s.core.takesSerair p src dst = true ∧ 24 ≤ bytes.length ∧ beAt bytes 0 2 = 22614 ∧ beAt bytes 2 1 = 1 ∧ beAt bytes 16 2 ≤
    1400 ∧ 40 + beAt bytes 16 2 ≤ bytes.length ∧ beAt bytes 14 2 ≠ 1 ∧ beAt bytes 14 2 ≠ 2 ∧ s.core.slotOf (beAt bytes 6 4) =
    none) ∧
    (∃ (s : State) (p : Path) (src : Src) (dst : Dst) (bytes : List Byte) (k : Fin 8), s.core.hears ∧ s.core.portOn p = true
    ∧ s.core.takesSerair p src dst = true ∧ 24 ≤ bytes.length ∧ beAt bytes 0 2 = 22614 ∧ beAt bytes 2 1 = 1 ∧ beAt bytes 16 2
    ≤ 1400 ∧ 40 + beAt bytes 16 2 ≤ bytes.length ∧ beAt bytes 14 2 ≠ 1 ∧ beAt bytes 14 2 ≠ 2 ∧ s.core.slotOf (beAt bytes 6 4)
    = some k ∧ tagOk (s.core.session ↑k).key bytes = false) ∧
    (∃ (s : State) (p : Path) (src : Src) (dst : Dst) (bytes : List Byte) (k : Fin 8) (cmd : Instr) (op : ℕ) (role : ℕ) (kind
    : Fin 3), s.core.hears ∧ s.core.portOn p = true ∧ s.core.takesSerair p src dst = true ∧ 24 ≤ bytes.length ∧ beAt bytes 0
    2 = 22614 ∧ beAt bytes 2 1 = 1 ∧ beAt bytes 16 2 ≤ 1400 ∧ 40 + beAt bytes 16 2 ≤ bytes.length ∧ beAt bytes 14 2 ≠ 1 ∧
    beAt bytes 14 2 ≠ 2 ∧ s.core.slotOf (beAt bytes 6 4) = some k ∧ tagOk (s.core.session ↑k).key bytes = true ∧ beAt bytes 3
    1 = 0 ∧ op = beAt bytes 14 2 ∧ opInfo op = some { kind := ↑kind, role := role, queued := true } ∧ (∀ (cyc : Fin 499),
    requestOf (⟨k, BitVec.ofNat 32 (beAt bytes 10 4), p, BitVec.ofNat 16 (beAt bytes 4 2), src⟩ : Origin) cyc op (slice bytes
    24 (beAt bytes 16 2)) = some cmd) ∧ formFault (opFields op (slice bytes 24 (beAt bytes 16 2))) 0 (slice bytes 24 (beAt
    bytes 16 2)) = none ∧ rowForm s.core cmd = none ∧ Chip.obeys (⟨k, BitVec.ofNat 32 (beAt bytes 10 4), p, BitVec.ofNat 16
    (beAt bytes 4 2), src⟩ : Origin) (roleFor op cmd) s.core ∧ Session.case (⟨k, BitVec.ofNat 32 (beAt bytes 10 4), p,
    BitVec.ofNat 16 (beAt bytes 4 2), src⟩ : Origin).seq.toNat (s.core.session ↑k) = 0 ∧ s.core.host.hg.queue.length < 64) :=
  ⟨⟨(netUp id), .a, (⟨false, 1#48, 5000#16, 1#48⟩), (⟨BitVec.ofNat 48 (State.reset.core.stationMac .a), 0, 47230, false,
    true⟩), ([]), by decide +kernel⟩,
   ⟨(netUp fun c => modSession 0 (fun s => { s with id := 5 }) c), .a, (⟨false, 1#48, 5000#16, 1#48⟩), (⟨BitVec.ofNat 48
    (State.reset.core.stationMac .a), 0, 47230, false, true⟩), packet, by decide +kernel⟩,
   ⟨(netUp id), .a, (⟨false, 1#48, 5000#16, 1#48⟩), (⟨BitVec.ofNat 48 (State.reset.core.stationMac .a), 0, 47230, false,
    true⟩), (untagged ++ List.replicate 16 0), ((0)), by decide +kernel⟩,
   ⟨(netUp id), .a, (⟨false, 1#48, 5000#16, 1#48⟩), (⟨BitVec.ofNat 48 (State.reset.core.stationMac .a), 0, 47230, false,
    true⟩), packet, ((0)), (.chArm ⟨0, 5, .a, 7, ⟨false, 1#48, 5000#16, 1#48⟩⟩ 1), 64, 1, 2, by decide +kernel⟩⟩

/-- The hypotheses of each clause of `Claim.JobLoads`, a part of `JobsTaken`, are met together. -/
theorem witness_JobLoads :
    (∃ (s : State) (o : Origin) (addr : BitVec 64) (len : BitVec 32), Chip.obeys o 1 s.core ∧ s.core.free ∧ s.core.on pdDRAM
    = true ∧ loadForm addr len = none ∧ s.core.flag Reg.BT_CTL_admit_need_lock = true ∧ s.core.timeState ≤ 1) ∧
    (∃ (s : State) (o : Origin) (addr : BitVec 64) (len : BitVec 32), Chip.obeys o 1 s.core ∧ s.core.free ∧ s.core.on pdDRAM
    = true ∧ loadForm addr len = none ∧ (s.core.flag Reg.BT_CTL_admit_need_lock = false ∨ 2 ≤ s.core.timeState) ∧ 4 ≤
    s.core.host.jobs.length) ∧
    (∃ (s : State) (o : Origin) (addr : BitVec 64) (len : BitVec 32), Chip.obeys o 1 s.core ∧ s.core.free ∧ s.core.on pdDRAM
    = true ∧ loadForm addr len = none ∧ (s.core.flag Reg.BT_CTL_admit_need_lock = false ∨ 2 ≤ s.core.timeState) ∧
    s.core.host.jobs.length < 4 ∧ s.core.dramOk addr.toNat len.toNat = true ∧ descFault (s.core.dramRead addr.toNat
    len.toNat) = none ∧ s.core.jobOf (Job.ofBytes (s.core.dramRead addr.toNat len.toNat)).id = none) :=
  ⟨⟨(up (wrB Reg.BT_CTL_admit_need_lock true)), oA, 4096#64, 52#32, by decide +kernel⟩,
   ⟨(up fun c => wrB Reg.BT_CTL_admit_need_lock false { c with host.jobs := [job5, job5, job5, job5] }), oA, 4096#64, 52#32,
    by decide +kernel⟩,
   ⟨(up fun c => dramWrite 4096 descOf (wrB Reg.BT_CTL_admit_need_lock false c)), oA, 4096#64, 52#32, by decide +kernel⟩⟩

/-- The hypotheses of each clause of `Claim.JobAdmits`, a part of `JobsTaken`, are met together. -/
theorem witness_JobAdmits :
    (∃ (s : State) (id : BitVec 32) (j : Job), s.core.sys.pwr.porst = false ∧ s.core.on pdAPP = true ∧ s.core.jobOf id.toNat
    = some j ∧ j.st = 0 ∧ j.walked = false) ∧
    (∃ (s : State) (id : BitVec 32) (j : Job) (o : Origin) (bs : List (ℕ × ℕ)), Chip.obeys o 1 s.core ∧ s.core.free ∧
    s.core.jobOf id.toNat = some j ∧ j.st = 0 ∧ j.walked = true ∧ s.core.admitted = none ∧ (Chip.taken o s.core).admission j
    = Except.ok bs) :=
  ⟨⟨(up fun c => { c with host.jobs := [job5] }), 5#32, job5, by decide +kernel⟩,
   ⟨(up fun c => { c with host.jobs := [walked5], host.sec.envelope := some smallEnv, beam.grids := c.beam.grids.set 0 ⟨[], [(0x3FFFC, 1)]⟩ }
    |> wr (Reg.FUR_LOG_SIZE_log2_entries 0) 10), 5#32, walked5, oA, ([(0,49)]), by decide +kernel⟩⟩

/-- The hypotheses of each clause of `Claim.JobStarts`, a part of `JobsRun`, are met together. -/
theorem witness_JobStarts :
    (∃ (s : State) (j : Job) (o : Origin) (id : BitVec 32) (start : BitVec 64), Chip.obeys o 1 s.core ∧ s.core.free ∧
    s.core.jobOf id.toNat = some j ∧ j.st = 1 ∧ j.start = none ∧ s.core.running = none ∧ (start.toNat = 0 ∨ s.core.now + 2000
    ≤ start.toNat)) ∧
    (∃ (s : State) (j : Job) (b : ℕ), s.core.sys.pwr.porst = false ∧ s.core.admitted = some j ∧ j.start = some b ∧ b ≤
    s.core.now ∧ s.core.running = none ∧ (∀ k ∈ s.core.host.jobs, k.id = j.id → k = j)) :=
  ⟨⟨(jobUp 1 none), ({ walked5 with st := 1 }), oA, 5#32, 0#64, by decide +kernel⟩,
   ⟨(jobUp 1 (some 0)), ({ walked5 with st := 1, start := some 0 }), ((0)), by decide +kernel⟩⟩

/-- The hypotheses of each clause of `Claim.JobEnds`, a part of `JobsRun`, are met together. -/
theorem witness_JobEnds :
    (∃ (s : State) (o : Origin) (id : BitVec 32) (j : Job), s.core.jobOf id.toNat = some j ∧ Chip.obeys o 1 s.core ∧
    s.core.free ∧ (j.st = 1 ∨ j.st = 2)) ∧
    (∃ (s : State) (o : Origin) (id : BitVec 32) (j : Job), s.core.jobOf id.toNat = some j ∧ Chip.obeys o 1 s.core ∧
    s.core.free ∧ j.st ≠ 2) ∧
    (∃ (s : State) (o : Origin) (id : BitVec 32) (j : Job), s.core.jobOf id.toNat = some j ∧ Chip.admits o 1 s.core) :=
  ⟨⟨(jobUp 1 none), oA, 5#32, (Option.get ((fun (s : State) (id : BitVec 32) => s.core.jobOf id.toNat) (jobUp 1 none) (5#32))
    (by decide +kernel)), by decide +kernel⟩,
   ⟨(jobUp 1 none), oA, 5#32, (Option.get ((fun (s : State) (id : BitVec 32) => s.core.jobOf id.toNat) (jobUp 1 none) (5#32))
    (by decide +kernel)), by decide +kernel⟩,
   ⟨(jobUp 1 none), oA, 5#32, (Option.get ((fun (s : State) (id : BitVec 32) => s.core.jobOf id.toNat) (jobUp 1 none) (5#32))
    (by decide +kernel)), by decide +kernel⟩⟩

/-- The hypotheses of each clause of `EnvelopeInForce` are met together. -/
theorem witness_EnvelopeInForce :
    (∃ (s : State) (o : Origin) (addr : BitVec 64) (len : BitVec 32), Chip.obeys o 1 s.core ∧ s.core.free ∧ s.core.on pdDRAM
    = true ∧ addr.toNat < 2 ^ 36 ∧ s.core.admitted = none ∧ s.core.running = none) ∧
    (∃ (s : State) (p : Pend) (addr : ℕ) (len : ℕ) (l : List (Pend × ℕ × ℕ)), s.core.sys.pwr.porst = false ∧
    s.core.host.sec.verify = (p, addr, len) :: l ∧ s.core.admitted = none ∧ s.core.running = none ∧ len ≤ 16384 ∧
    s.core.dramOk addr len = true ∧ s.core.envFault (s.core.dramRead addr len) = none) ∧
    (∃ (s : State) (o : Origin), Chip.admits o 1 s.core) :=
  ⟨⟨(up fun c => dramWrite 4096 signedEnv (rooted { c with host.sec.verify := [(⟨0,9,5,0x30⟩, 4096, 1356)] })), oA, 0#64,
    0#32, by decide +kernel⟩,
   ⟨(up fun c => dramWrite 4096 signedEnv (rooted { c with host.sec.verify := [(⟨0,9,5,0x30⟩, 4096, 1356)] })), (({ slot := 0, sid := 9, seq := 5, op := 48 })),
    ((4096)), ((1356)), (([])), by decide +kernel, by decide +kernel, by decide +kernel, by decide +kernel,
    by decide +kernel, by decide +kernel, env_of_read 4096 1356 (by decide +kernel) (by decide +kernel) (by decide +kernel)⟩,
   ⟨(up fun c => dramWrite 4096 signedEnv (rooted { c with host.sec.verify := [(⟨0,9,5,0x30⟩, 4096, 1356)] })), oA,
    by decide +kernel⟩⟩

/-- The hypotheses of each clause of `Claim.StatusReplies`, a part of `Reports`, are met together. -/
theorem witness_StatusReplies :
    (∃ (s : State) (o : Origin) (mask : BitVec 32), Chip.admits o 1 s.core ∧ mask.toNat < 2 ^ 24 ∧ (∀ ch ∈ chansOf mask,
    s.core.on (chanDom ch) = true)) ∧
    (∃ (s : State) (o : Origin) (mask : BitVec 8), Chip.admits o 1 s.core ∧ s.core.on pdMOTION = true) ∧
    (∃ (s : State) (o : Origin) (mask : BitVec 8), Chip.admits o 1 s.core ∧ s.core.on pdMOTION = true) ∧
    (∃ (s : State) (o : Origin), Chip.admits o 1 s.core ∧ s.core.on pdKETTLE = true) ∧
    (∃ (s : State) (o : Origin) (ctx : BitVec 8), Chip.admits o 1 s.core ∧ ctx.toNat < 32 ∧ s.core.on (sieveDom (s.core.svOf
    ctx.toNat)) = true) ∧
    (∃ (s : State) (o : Origin), Chip.admits o 1 s.core) ∧
    (∃ (s : State) (o : Origin) (item : BitVec 8), Chip.admits o 1 s.core ∧ item.toNat < 7) ∧
    (∃ (s : State) (o : Origin), Chip.admits o 1 s.core) ∧
    (∃ (s : State) (o : Origin), Chip.admits o 1 s.core) ∧
    (∃ (s : State) (o : Origin) (i : Image), Chip.admits o 1 s.core ∧ s.core.sys.mgt.running = some i) :=
  ⟨⟨(up fun c => modMgt (fun m => { m with running := some ⟨0x10000, 1, 0⟩ }) c |> wr (Reg.SEC_SLOT_STATE_role 0) 1), oA,
    0#32, by decide +kernel⟩,
   ⟨(up fun c => modMgt (fun m => { m with running := some ⟨0x10000, 1, 0⟩ }) c |> wr (Reg.SEC_SLOT_STATE_role 0) 1), oA,
    0#8, by decide +kernel⟩,
   ⟨(up fun c => modMgt (fun m => { m with running := some ⟨0x10000, 1, 0⟩ }) c |> wr (Reg.SEC_SLOT_STATE_role 0) 1), oA,
    0#8, by decide +kernel⟩,
   ⟨(up fun c => modMgt (fun m => { m with running := some ⟨0x10000, 1, 0⟩ }) c |> wr (Reg.SEC_SLOT_STATE_role 0) 1), oA,
    by decide +kernel⟩,
   ⟨(up fun c => modMgt (fun m => { m with running := some ⟨0x10000, 1, 0⟩ }) c |> wr (Reg.SEC_SLOT_STATE_role 0) 1), oA,
    0#8, by decide +kernel⟩,
   ⟨(up fun c => modMgt (fun m => { m with running := some ⟨0x10000, 1, 0⟩ }) c |> wr (Reg.SEC_SLOT_STATE_role 0) 1), oA,
    by decide +kernel⟩,
   ⟨(up fun c => modMgt (fun m => { m with running := some ⟨0x10000, 1, 0⟩ }) c |> wr (Reg.SEC_SLOT_STATE_role 0) 1), oA,
    0#8, by decide +kernel⟩,
   ⟨(up fun c => modMgt (fun m => { m with running := some ⟨0x10000, 1, 0⟩ }) c |> wr (Reg.SEC_SLOT_STATE_role 0) 1), oA,
    by decide +kernel⟩,
   ⟨(up fun c => modMgt (fun m => { m with running := some ⟨0x10000, 1, 0⟩ }) c |> wr (Reg.SEC_SLOT_STATE_role 0) 1), oA,
    by decide +kernel⟩,
   ⟨(up fun c => modMgt (fun m => { m with running := some ⟨0x10000, 1, 0⟩ }) c |> wr (Reg.SEC_SLOT_STATE_role 0) 1), oA, (({ version := 65536, kind := 1, ladVer := 0 })),
    by decide +kernel⟩⟩

/-- The hypotheses of each clause of `Claim.MemoryReads`, a part of `Reports`, are met together. -/
theorem witness_MemoryReads :
    (∃ (s : State) (o : Origin) (chan : BitVec 8) (first : BitVec 32) (count : BitVec 16), Chip.admits o 1 s.core ∧
    s.core.free ∧ chan.toNat < 24 ∧ s.core.on (chanDom chan.toNat) = true ∧ 1 ≤ count.toNat ∧ count.toNat ≤ 64 ∧
    s.core.inVecLog chan.toNat first.toNat count.toNat = true ∧ (∀ k < count.toNat, s.core.dramOk (s.core.logAddr chan.toNat
    (first.toNat + k)) 16 = true)) ∧
    (∃ (s : State) (o : Origin) (ctx : BitVec 8) (tap : BitVec 8) (off : BitVec 64) (len : BitVec 16), Chip.admits o 1 s.core
    ∧ s.core.free ∧ ctx.toNat < 32 ∧ tap.toNat < 6 ∧ 1 ≤ len.toNat ∧ len.toNat ≤ 1392 ∧ s.core.on pdDRAM = true ∧ s.core.on
    (sieveDom (s.core.svOf ctx.toNat)) = true ∧ off.toNat + len.toNat ≤ s.core.rd (Reg.SVX_TAP_LEN_bytes (s.core.svOf
    ctx.toNat) ctx.toNat tap.toNat) * 64 ∧ s.core.dramOk (s.core.tapBase ctx.toNat + s.core.rd (Reg.SVX_TAP_OFF_bytes
    (s.core.svOf ctx.toNat) ctx.toNat tap.toNat) * 64 + off.toNat) len.toNat = true) ∧
    (∃ (s : State) (o : Origin), Chip.admits o 1 s.core ∧ s.core.free ∧ s.core.crockMem.lastGasp.length ≤ 8) ∧
    (∃ (s : State) (o : Origin) (off : BitVec 16) (count : BitVec 16), Chip.admits o 1 s.core ∧ s.core.free ∧ Chip.admits o 3
    s.core ∧ 1 ≤ count.toNat ∧ count.toNat ≤ 256 ∧ off.toNat + count.toNat ≤ 1024) ∧
    (∃ (s : State) (o : Origin) (chan : BitVec 8) (addr : BitVec 64) (bursts : BitVec 16), Chip.admits o 1 s.core ∧
    s.core.free ∧ Chip.admits o 3 s.core ∧ chan.toNat < 2 ∧ addr.toNat % 64 = 0 ∧ 1 ≤ bursts.toNat ∧ bursts.toNat ≤ 16 ∧
    s.core.on pdDRAM = true ∧ s.core.dramState chan.toNat = 4 ∧ addr.toNat + 64 * bursts.toNat ≤ s.core.dramChan) :=
  ⟨⟨(up fun c => modMgt (fun m => { m with running := some ⟨0x10000, 1, 0⟩ }) c |> wr (Reg.FUR_LOG_COUNT_count 0) 8 |> wr
    (Reg.FUR_LOG_SIZE_log2_entries 0) 10 |> wr (Reg.SVX_TAP_LEN_bytes 0 0 0) 20), oA, 0#8, 0#32, 1#16, by decide +kernel⟩,
   ⟨(up fun c => modMgt (fun m => { m with running := some ⟨0x10000, 1, 0⟩ }) c |> wr (Reg.FUR_LOG_COUNT_count 0) 8 |> wr
    (Reg.FUR_LOG_SIZE_log2_entries 0) 10 |> wr (Reg.SVX_TAP_LEN_bytes 0 0 0) 20), oA, 0#8, 0#8, 0#64, 1#16,
    by decide +kernel⟩,
   ⟨(up fun c => modMgt (fun m => { m with running := some ⟨0x10000, 1, 0⟩ }) c |> wr (Reg.SEC_SLOT_STATE_role 0) 1), oA,
    by decide +kernel⟩,
   ⟨(up fun c => modMgt (fun m => { m with running := some ⟨0x10000, 1, 0⟩ }) c |> wr (Reg.FUR_LOG_COUNT_count 0) 8 |> wr
    (Reg.FUR_LOG_SIZE_log2_entries 0) 10 |> wr (Reg.SVX_TAP_LEN_bytes 0 0 0) 20 |> wr (Reg.DMC_STATUS_state 0) 4), oA, 0#16,
    1#16, by decide +kernel⟩,
   ⟨(up fun c => modMgt (fun m => { m with running := some ⟨0x10000, 1, 0⟩ }) c |> wr (Reg.FUR_LOG_COUNT_count 0) 8 |> wr
    (Reg.FUR_LOG_SIZE_log2_entries 0) 10 |> wr (Reg.SVX_TAP_LEN_bytes 0 0 0) 20 |> wr (Reg.DMC_STATUS_state 0) 4), oA, 0#8,
    0#64, 1#16, by decide +kernel⟩⟩

/-- The hypotheses of each clause of `ChannelCommands` are met together. -/
theorem witness_ChannelCommands :
    (∃ (s : State) (o : Origin) (mask : BitVec 32), Chip.obeys o 1 s.core ∧ s.core.free ∧ mask.toNat < 2 ^ 24 ∧ (∀ ch ∈
    chansOf mask, s.core.on (chanDom ch) = true) ∧ s.core.quenchPin = false ∧ (∀ ch ∈ chansOf mask, (s.core.chState ch = 0 ∨
    s.core.chState ch = 5) ∧ (s.core.fur ch).frozen = false ∧ s.core.flag (Reg.GLK_STATUS_up (2 * ch + 1)) = true) ∧
    s.core.sys.net.servo.step = none) ∧
    (∃ (s : State) (o : Origin) (mask : BitVec 32), Chip.obeys o 1 s.core ∧ s.core.free ∧ mask.toNat < 2 ^ 24 ∧ (∀ ch ∈
    chansOf mask, s.core.on (chanDom ch) = true) ∧ (∀ ch ∈ chansOf mask, s.core.chState ch = 0)) ∧
    (∃ (s : State) (o : Origin) (mask : BitVec 32), Chip.obeys o 1 s.core ∧ s.core.free ∧ mask.toNat < 2 ^ 24 ∧ (∀ ch ∈
    chansOf mask, s.core.on (chanDom ch) = true) ∧ s.core.quenchPin = false ∧ s.core.dramState 0 ≠ 4 ∧ s.core.dramState 1 ≠ 4
    ∧ (∀ ch ∈ chansOf mask, 6 ≤ s.core.chState ch ∧ (s.core.fur ch).frozen = false)) :=
  ⟨⟨(up fun c => wrB (Reg.GLK_STATUS_up 1) true c), oA, 1#32, by decide +kernel⟩,
   ⟨(up id), oA, 1#32, by decide +kernel⟩,
   ⟨(up fun c => wr (Reg.FUR_STATE_state 0) 6 c), oA, 1#32, by decide +kernel⟩⟩

/-- The hypotheses of each clause of `AxisCommands` are met together. -/
theorem witness_AxisCommands :
    (∃ (s : State) (o : Origin) (axis : BitVec 8) (target : BitVec 64) (speed : BitVec 32) (accel : BitVec 32), Chip.obeys o
    1 s.core ∧ s.core.free ∧ s.core.on pdMOTION = true ∧ axis.toNat < 8 ∧ (∃ x, s.core.mot.ax[axis.toNat]? = some x) ∧ toS 64
    target.toNat = toS 48 (ofS 48 (toS 64 target.toNat)) ∧ s.core.flag (Reg.AX_CTL_enable axis.toNat) = true ∧ s.core.axState
    axis.toNat = 1 ∧ s.core.host.sec.envelope.isSome = true ∧ s.core.rd48 (Reg.AX_ENV_MIN_LO_value axis.toNat)
    (Reg.AX_ENV_MIN_HI_value axis.toNat) ≤ toS 64 target.toNat ∧ toS 64 target.toNat ≤ s.core.rd48 (Reg.AX_ENV_MAX_LO_value
    axis.toNat) (Reg.AX_ENV_MAX_HI_value axis.toNat) ∧ ((if speed.toNat = 0 then s.core.rd (Reg.AX_PROF_VMAX_value
    axis.toNat) else speed.toNat) ≤ s.core.rd (Reg.AX_ENV_VLIM_value axis.toNat)) ∧ (s.core.flag (Reg.AX_ENV_CTL_need_home
    axis.toNat) = true → s.core.flag (Reg.AX_STATUS_homed axis.toNat) = true) ∧ toS 64 target.toNat ≠ s.core.axPos axis.toNat
    ∧ s.core.limitActive axis.toNat (decide (toS 64 target.toNat > s.core.axPos axis.toNat)) = false) ∧
    (∃ (s : State) (o : Origin) (axis : BitVec 8) (speed : BitVec 32) (accel : BitVec 32), Chip.obeys o 1 s.core ∧
    s.core.free ∧ s.core.on pdMOTION = true ∧ axis.toNat < 8 ∧ (∃ x, s.core.mot.ax[axis.toNat]? = some x) ∧ speed.toNat ≤
    s.core.rd (Reg.AX_ENV_VLIM_value axis.toNat) ∧ s.core.axState axis.toNat ≠ 2) ∧
    (∃ (s : State) (o : Origin) (axis : BitVec 8) (mode : BitVec 8), Chip.obeys o 1 s.core ∧ s.core.free ∧ s.core.on pdMOTION
    = true ∧ axis.toNat < 8 ∧ (∃ x, s.core.mot.ax[axis.toNat]? = some x) ∧ mode.toNat < 2 ∧ s.core.axState axis.toNat = 2 ∧
    (s.core.ax axis.toNat).home = none ∧ s.core.roomToLog) ∧
    (∃ (s : State) (o : Origin) (axis : BitVec 8) (method : BitVec 8), Chip.obeys o 1 s.core ∧ s.core.free ∧ s.core.on
    pdMOTION = true ∧ axis.toNat < 8 ∧ (∃ x, s.core.mot.ax[axis.toNat]? = some x) ∧ 1 ≤ method.toNat ∧ method.toNat ≤ 6 ∧
    s.core.axState axis.toNat = 1 ∧ s.core.roomToLog) ∧
    (∃ (s : State) (o : Origin) (axis : BitVec 8) (pf : BitVec 8) (num : BitVec 32) (den : BitVec 32) (pos : BitVec 64),
    Chip.obeys o 1 s.core ∧ s.core.free ∧ s.core.on pdMOTION = true ∧ axis.toNat < 8 ∧ (∃ x, s.core.mot.ax[axis.toNat]? =
    some x) ∧ pf.toNat < 8 ∧ den.toNat ≠ 0 ∧ toS 64 pos.toNat = toS 48 (ofS 48 (toS 64 pos.toNat)) ∧
    s.core.host.sec.envelope.isSome = true) :=
  ⟨⟨(axU id), oA, 0, 500#64, 1#32, 1#32, by decide +kernel, by decide +kernel, by decide +kernel, by decide +kernel, ⟨_,
    rfl⟩, by decide +kernel, by decide +kernel, by decide +kernel, by decide +kernel, by decide +kernel, by decide +kernel,
    by decide +kernel, by decide +kernel, by decide +kernel, by decide +kernel⟩,
   ⟨(axU id), oA, 0, 1#32, 1#32, by decide +kernel, by decide +kernel, by decide +kernel, by decide +kernel, ⟨_, rfl⟩,
    by decide +kernel, by decide +kernel⟩,
   ⟨(axU fun c => wr (Reg.AX_STATUS_state 0) 2 c), oA, 0, 0, by decide +kernel, by decide +kernel, by decide +kernel,
    by decide +kernel, ⟨_, rfl⟩, by decide +kernel, by decide +kernel, by decide +kernel, by decide +kernel⟩,
   ⟨(axU id), oA, 0, 1, by decide +kernel, by decide +kernel, by decide +kernel, by decide +kernel, ⟨_, rfl⟩,
    by decide +kernel, by decide +kernel, by decide +kernel, by decide +kernel⟩,
   ⟨(axU id), oA, 0, 0, 1#32, 1#32, 500#64, by decide +kernel, by decide +kernel, by decide +kernel, by decide +kernel, ⟨_,
    rfl⟩, by decide +kernel, by decide +kernel, by decide +kernel, by decide +kernel⟩⟩

/-- The hypotheses of each clause of `KettleCommands` are met together. -/
theorem witness_KettleCommands :
    (∃ (s : State) (o : Origin) (chains : BitVec 32) (on : BitVec 8), Chip.obeys o 1 s.core ∧ s.core.free ∧ s.core.on
    pdKETTLE = true ∧ on.toNat < 2 ∧ (on.toNat = 1 → s.core.flag Reg.SEC_STATUS_env_loaded = true)) ∧
    (∃ (s : State) (o : Origin) (beat : BitVec 64), Chip.obeys o 1 s.core ∧ s.core.free ∧ s.core.on pdKETTLE = true ∧
    s.core.flag Reg.KT_STATUS_frozen = false ∧ s.core.kt.swap = none ∧ s.core.flag Reg.KT_STATUS_loop_on = false ∧ (∀ (m :
    Sem), s.core.host.sems[2]? = some m → m.cls = 0)) ∧
    (∃ (s : State) (o : Origin) (ctx : BitVec 8) (map : BitVec 64), Chip.obeys o 1 s.core ∧ s.core.free ∧ s.core.on pdKETTLE
    = true) :=
  ⟨⟨(up id), oA, 0#32, 0#8, by decide +kernel⟩,
   ⟨(up id), oA, 0#64, by decide +kernel, by decide +kernel, by decide +kernel, by decide +kernel, by decide +kernel,
    by decide +kernel, sem_free _ (by decide +kernel)⟩,
   ⟨(up id), oA, 0#8, 0#64, by decide +kernel⟩⟩

/-- The hypotheses of each clause of `ContextCommands` are met together. -/
theorem witness_ContextCommands :
    (∃ (s : State) (o : Origin) (ctx : BitVec 8) (sieve : BitVec 8), Chip.obeys o 1 s.core ∧ s.core.free ∧ ctx.toNat < 32 ∧
    s.core.ctxInJob ctx.toNat = false ∧ s.core.img.ctxs[ctx.toNat]?.isSome = true ∧ sieve.toNat < 2 ∧ s.core.on (sieveDom
    sieve.toNat) = true) ∧
    (∃ (s : State) (o : Origin) (ctx : BitVec 8), Chip.obeys o 1 s.core ∧ s.core.free ∧ ctx.toNat < 32 ∧ s.core.ctxInJob
    ctx.toNat = false ∧ s.core.img.ctxs[ctx.toNat]?.isSome = true ∧ s.core.on (sieveDom (s.core.svOf ctx.toNat)) = true ∧
    s.core.ctxRun ctx.toNat ≠ 2 ∧ (s.core.ctx ctx.toNat).startAt = none ∧ s.core.ctxPeriodOk ctx.toNat = true ∧
    s.core.sieveDemand (s.core.svOf ctx.toNat) ctx.toNat + sieveLoad (s.core.ctxW ctx.toNat) (s.core.ctxH ctx.toNat)
    (s.core.ctxF ctx.toNat) ≤ 950 ∧ (26 ≤ ctx.toNat → s.core.admitted = none ∧ s.core.running = none ∧ s.core.ctxBusy
    (ctx.toNat - 26) = false) ∧ (ctx.toNat < 6 → s.core.ctxBusy (ctx.toNat + 26) = false)) ∧
    (∃ (s : State) (o : Origin) (ctx : BitVec 8), Chip.obeys o 1 s.core ∧ s.core.free ∧ ctx.toNat < 32 ∧ s.core.ctxInJob
    ctx.toNat = false ∧ s.core.img.ctxs[ctx.toNat]?.isSome = true ∧ s.core.on (sieveDom (s.core.svOf ctx.toNat)) = true) :=
  ⟨⟨(up id), oA, 0, 0, by decide +kernel⟩,
   ⟨(up id), oA, 0, by decide +kernel⟩,
   ⟨(up id), oA, 0, by decide +kernel⟩⟩

/-- The hypotheses of each clause of `CrockCommands` are met together. -/
theorem witness_CrockCommands :
    (∃ (s : State) (o : Origin) (first : BitVec 16) (count : BitVec 8), s.core.sys.pwr.porst = false ∧ Chip.admits o 1 s.core
    ∧ s.core.free ∧ 1 ≤ count.toNat ∧ count.toNat ≤ 40 ∧ first.toNat < s.core.crockMem.records.length) ∧
    (∃ (s : State) (o : Origin) (first : BitVec 16) (count : BitVec 8), s.core.sys.pwr.porst = false ∧ Chip.admits o 1 s.core
    ∧ s.core.free ∧ 1 ≤ count.toNat ∧ count.toNat ≤ 40 ∧ first.toNat < s.core.crockMem.records.length) ∧
    (∃ (s : State) (o : Origin) (first : BitVec 16) (count : BitVec 8), s.core.sys.pwr.porst = false ∧ Chip.admits o 1 s.core
    ∧ s.core.free ∧ 1 ≤ count.toNat ∧ count.toNat ≤ 40 ∧ first.toNat < s.core.crockMem.records.length) ∧
    (∃ (s : State) (o : Origin) (first : BitVec 16) (count : BitVec 8) (bad : Fin 16384), s.core.sys.pwr.porst = false ∧
    Chip.admits o 1 s.core ∧ s.core.free ∧ 1 ≤ count.toNat ∧ count.toNat ≤ 40 ∧ first.toNat < s.core.crockMem.records.length
    ∧ first.toNat ≤ ↑bad ∧ ↑bad < first.toNat + (List.take count.toNat (List.drop first.toNat
    s.core.crockMem.records)).length ∧ s.core.flag Reg.CRK_STATUS_logmem_fail = false) ∧
    (∃ (s : State) (o : Origin), s.core.sys.pwr.porst = false ∧ Chip.obeys o 2 s.core ∧ s.core.free ∧ s.core.flag
    Reg.CRK_STATUS_logmem_fail = false) ∧
    (∃ (s : State) (w : Waiter) (role : ℕ) (key : ℕ) (l : List (Waiter × ℕ × ℕ)), s.core.sys.pwr.porst = false ∧
    s.core.sys.crock.clearing = (w, role, key) :: l ∧ (s.core.session ↑w.o.slot).id = w.sid ∧ w.late = false) ∧
    (∃ (s : State) (e : Event) (q : List Event) (i : Fin 16384), s.core.sys.pwr.porst = false ∧ s.core.sys.crock.clearing =
    [] ∧ s.core.sys.crock.queue = e :: q ∧ s.core.flag Reg.CRK_STATUS_logmem_fail = false) ∧
    (∃ (s : State) (e : Event) (q : List Event) (ce : Bool), s.core.sys.pwr.porst = false ∧ s.core.sys.crock.clearing = [] ∧
    s.core.sys.crock.queue = e :: q ∧ s.core.sys.crock.dropped = 0 ∧ s.core.flag Reg.CRK_STATUS_logmem_fail = false ∧
    s.core.crockMem.records.length < 16382) :=
  ⟨⟨(up fun c => { c with crockMem := ⟨[rec1, rec1], []⟩ }), oA, 0, 1#8, by decide +kernel⟩,
   ⟨(up fun c => { c with crockMem := ⟨[rec1, rec1], []⟩ }), oA, 0, 1#8, by decide +kernel⟩,
   ⟨(up fun c => { c with crockMem := ⟨[rec1, rec1], []⟩ }), oA, 0, 1#8, by decide +kernel⟩,
   ⟨(up fun c => { c with crockMem := ⟨[rec1, rec1], []⟩ }), oA, 0, 1#8, 0, by decide +kernel⟩,
   ⟨(up fun c => { c with crockMem := ⟨[rec1, rec1], []⟩ }), oA, by decide +kernel⟩,
   ⟨(up (modCrock fun k => { k with clearing := [(⟨oA, 9, 0xA2, false⟩, 3, 7)] })), (({ o := { slot := 0, seq := 0x00000005#32, path := Sys2Proof.Path.a, claim := 0x0007#16, src := { udp := true, addr := 0x00000a000002#48, port := 0x1388#16, mac := 0x000000000001#48 } }, sid := 9, op := 162, late := false })),
    ((3)), ((7)), (([])), by decide +kernel⟩,
   ⟨(up fun c => { modCrock (fun k => { k with queue := [ev1] }) c with crockMem := ⟨[rec1, rec1], []⟩ }), (({ code := 257, inst := 0, par := [0x01#8], time := 7, beat := 3 })),
    (([])), 0, by decide +kernel⟩,
   ⟨(up fun c => { modCrock (fun k => { k with queue := [ev1] }) c with crockMem := ⟨[rec1, rec1], []⟩ }), (({ code := 257, inst := 0, par := [0x01#8], time := 7, beat := 3 })),
    (([])), true, by decide +kernel⟩⟩

/-- The hypotheses of each clause of `Claim.CalibrationRounds`, a part of `CalibrationAndTables`, are met together. -/
theorem witness_CalibrationRounds :
    (∃ (s : State) (o : Origin) (items : BitVec 32), s.core.sys.pwr.porst = false ∧ s.core.on pdFABRIC = true ∧ Chip.obeys o
    2 s.core ∧ s.core.free ∧ items.toNat ≠ 0 ∧ items.toNat < 32 ∧ (∀ k < 5, bit items.toNat k = true → s.core.calRuns k =
    false) ∧ (bit items.toNat 1 = true → s.core.running = none) ∧ (bit items.toNat 4 = true → s.core.darkOk = true)) ∧
    (∃ (s : State) (item : Fin 5) (inst : BitVec 16), s.core.sys.pwr.porst = false ∧ s.core.on pdFABRIC = true ∧
    s.core.calRuns ↑item = true ∧ s.core.roomToLog) ∧
    (∃ (s : State) (item : Fin 5) (inst : BitVec 16), s.core.sys.pwr.porst = false ∧ s.core.on pdFABRIC = true ∧
    s.core.calRuns ↑item = true ∧ s.core.roomToLog ∧ (↑item = 2 → ∃ k, s.core.sys.cal.sensor = some k ∧ 48 ≤ k) ∧ (↑item = 3
    → s.core.dramState 0 = 2 ∧ s.core.dramState 1 = 2) ∧ (↑item = 4 → ∃ d, s.core.sys.cal.dark = some d ∧ d.total ≤ d.seen ∧
    s.core.darkFault d = none)) ∧
    (∃ (s : State) (item : Fin 5), s.core.sys.pwr.porst = false ∧ s.core.on pdFABRIC = true ∧ ↑item ≤ 1 ∧ (↑item = 1 →
    s.core.sys.cal.laneAt + 4 * s.core.rd Reg.CAL_LANE_INT_us ≤ s.core.now)) :=
  ⟨⟨(up id), oA, 1#32, by decide +kernel⟩,
   ⟨(up fun c => wr Reg.CAL_STATUS_running 31 c |> modCal fun k => { k with sensor := some 48, dark := some ⟨0, 4, 4, 0, [0]⟩ }),
    0, 0#16, by decide +kernel⟩,
   ⟨(up fun c => wr Reg.CAL_STATUS_running 31 c |> modCal fun k => { k with sensor := some 48, dark := some ⟨0, 4, 4, 0, [0]⟩ }),
    0, 0#16, by decide +kernel, by decide +kernel, by decide +kernel, by decide +kernel, fun h => absurd h (by decide),
    by decide +kernel, fun h => absurd h (by decide)⟩,
   ⟨(up id), 0, by decide +kernel⟩⟩

/-- The hypotheses of each clause of `Claim.TableCommits`, a part of `CalibrationAndTables`, are met together. -/
theorem witness_TableCommits :
    (∃ (s : State) (o : Origin) (kind : BitVec 8) (inst : BitVec 8), s.core.sys.pwr.porst = false ∧ Chip.obeys o 2 s.core ∧
    s.core.free ∧ kind.toNat < 2 ∧ (inst.toNat < if kind.toNat = 0 then 24 else 32) ∧ s.core.on (tableDom kind.toNat
    inst.toNat) = true ∧ (∀ k ∈ s.core.host.commits, Commit.of kind.toNat inst.toNat k = false) ∧ s.core.running = none ∧
    (s.core.sem kind.toNat).cls = 0 ∧ s.core.host.sems.length = 64) ∧
    (∃ (s : State) (o : Origin) (kind : BitVec 8) (inst : BitVec 8), s.core.sys.pwr.porst = false ∧ Chip.obeys o 2 s.core ∧
    s.core.free ∧ kind.toNat < 2 ∧ (inst.toNat < if kind.toNat = 0 then 24 else 32) ∧ s.core.on (tableDom kind.toNat
    inst.toNat) = true ∧ (∀ k ∈ s.core.host.commits, Commit.of kind.toNat inst.toNat k = false) ∧ s.core.running.isSome =
    true) ∧
    (∃ (s : State) (kind : Fin 2) (inst : Fin 32) (k : Commit), s.core.sys.pwr.porst = false ∧ List.find? (fun k => Commit.of
    (↑kind) (↑inst) k && k.begun) s.core.host.commits = some k) :=
  ⟨⟨(up id), oA, 0, 0, by decide +kernel⟩,
   ⟨(jobUp 2 (some 0)), oA, 0, 0, by decide +kernel⟩,
   ⟨(up fun c => { c with host.commits := [⟨0, 3, true, false, [⟨oA, 9, 0xB2, false⟩]⟩, ⟨1, 31, true, false, [⟨oA, 9, 0xB2, false⟩]⟩] }),
    0, 3, (Option.get ((fun (s : State) (kind : Fin 2) (inst : Fin 32) => List.find? (fun k => Commit.of (↑kind) (↑inst) k &&
    k.begun) s.core.host.commits) (up fun c => { c with host.commits := [⟨0, 3, true, false, [⟨oA, 9, 0xB2, false⟩]⟩, ⟨1, 31, true, false, [⟨oA, 9, 0xB2, false⟩]⟩] })
    (0) (3)) (by decide +kernel)), by decide +kernel⟩⟩

/-- The hypotheses of each clause of `Snapshots` are met together. -/
theorem witness_Snapshots :
    (∃ (s : State) (o : Origin), s.core.sys.pwr.porst = false ∧ Chip.obeys o 1 s.core ∧ s.core.free ∧ s.core.roomToLog) ∧
    (∃ (s : State) (low : BitVec 8) (high : BitVec 8), s.core.sys.pwr.porst = false ∧ s.core.flag Reg.SNP_STATUS_held = false
    ∧ bit (s.core.rd Reg.SNP_CTL_src) 0 = true) ∧
    (∃ (s : State), s.core.sys.pwr.porst = false ∧ s.core.flag Reg.SNP_STATUS_held = false ∧ s.core.flag
    Reg.SNP_STATUS_time_armed = true ∧ bit (s.core.rd Reg.SNP_CTL_src) 1 = true ∧ s.core.snapTime ≤ s.core.timeOf s.core.now)
    ∧
    (∃ (s : State), s.core.sys.pwr.porst = false ∧ s.core.flag Reg.SNP_STATUS_held = false ∧ s.core.sys.snp.trig ≠ 0 ∧
    s.core.roomToLog) ∧
    (∃ (s : State) (o : Origin), s.core.sys.pwr.porst = false ∧ Chip.obeys o 1 s.core ∧ s.core.free ∧ s.core.flag
    Reg.SNP_STATUS_held = true) ∧
    (∃ (s : State) (o : Origin) (src : BitVec 8) (classes : BitVec 16) (time : DevTime), s.core.sys.pwr.porst = false ∧
    Chip.obeys o 1 s.core ∧ s.core.free ∧ src.toNat < 32 ∧ classes.toNat < 32768 ∧ time.ns.toNat < 1000000000) :=
  ⟨⟨(up id), oA, by decide +kernel⟩,
   ⟨(up fun c => wr Reg.SNP_CTL_src 7 c |> wrB Reg.SNP_STATUS_time_armed true |> modSnp fun s => { s with trig := 5 }), 0#8,
    0#8, by decide +kernel⟩,
   ⟨(up fun c => wr Reg.SNP_CTL_src 7 c |> wrB Reg.SNP_STATUS_time_armed true |> modSnp fun s => { s with trig := 5 }),
    by decide +kernel⟩,
   ⟨(up fun c => wr Reg.SNP_CTL_src 7 c |> wrB Reg.SNP_STATUS_time_armed true |> modSnp fun s => { s with trig := 5 }),
    by decide +kernel⟩,
   ⟨snpHeld, oA, by decide +kernel⟩,
   ⟨(up id), oA, 0#8, 0#16, (⟨0, 0⟩), by decide +kernel⟩⟩

/-- The hypotheses of each clause of `PowerDomains` are met together. -/
theorem witness_PowerDomains :
    (∃ (s : State) (o : Origin) (mask : BitVec 16), s.core.sys.pwr.porst = false ∧ s.core.sys.pwr.reset = none ∧ mask.toNat %
    2 = 0 ∧ mask.toNat < 4096 ∧ s.core.host.hg.queue = [] ∧ s.core.rd Reg.MGT_BOOT_STATUS_state ≠ 5 ∧ s.core.sys.pwr.sw = []
    ∧ s.core.sys.pwr.later = none ∧ Chip.obeys o 1 s.core ∧ (bit mask.toNat pdAPP = true → s.core.sys.mgt.running.isSome =
    true) ∧ s.core.parentOff mask.toNat = none ∧ (∃ d < 12, bit mask.toNat d = true ∧ s.core.shown d = false)) ∧
    (∃ (s : State) (o : Origin) (mask : BitVec 16) (mode : BitVec 8), s.core.sys.pwr.porst = false ∧ s.core.sys.pwr.reset =
    none ∧ mask.toNat % 2 = 0 ∧ mask.toNat < 4096 ∧ s.core.host.hg.queue = [] ∧ s.core.rd Reg.MGT_BOOT_STATUS_state ≠ 5 ∧
    s.core.sys.pwr.sw = [] ∧ s.core.sys.pwr.later = none ∧ mode.toNat < 2 ∧ Chip.obeys o (1 + mode.toNat) s.core ∧
    s.core.offList mask.toNat ≠ []) ∧
    (∃ (s : State) (d : Fin 12) (w : SwDom) (l : List SwDom), s.core.sys.pwr.porst = false ∧ s.core.sys.pwr.reset = none ∧
    s.core.sys.pwr.sw = w :: l ∧ w.dom = ↑d ∧ w.started.isSome = true ∧ (∀ x ∈ l, x.dom ≠ ↑d) ∧ w.act = 0 ∧ s.core.roomToLog)
    ∧
    (∃ (s : State) (d : Fin 12) (w : SwDom) (l : List SwDom), s.core.sys.pwr.porst = false ∧ s.core.sys.pwr.reset = none ∧
    s.core.sys.pwr.sw = w :: l ∧ w.dom = ↑d ∧ w.started.isSome = true ∧ (∀ x ∈ l, x.dom ≠ ↑d) ∧ w.act = 1 ∧ s.core.drained ↑d
    = true) ∧
    (∃ (s : State) (d : Fin 12) (w : SwDom) (l : List SwDom), s.core.sys.pwr.porst = false ∧ s.core.sys.pwr.reset = none ∧
    s.core.sys.pwr.sw = w :: l ∧ w.dom = ↑d ∧ w.started.isSome = true ∧ (∀ x ∈ l, x.dom ≠ ↑d) ∧ w.act = 1 ∧ (∀ (b : ℕ),
    w.started = some b → b + s.core.rd Reg.PWR_CTL_quiesce_ms * 4000 ≤ s.core.now + 1) ∧ s.core.roomToLog) ∧
    (∃ (s : State) (mask : ℕ) (forced : Bool) (b : ℕ), s.core.sys.pwr.porst = false ∧ s.core.sys.pwr.reset = none ∧
    s.core.sys.pwr.later = some (mask, forced, b) ∧ b ≤ s.core.now) :=
  ⟨⟨(up (showDomains 0x7FF)), oA, 0x800, by decide +kernel⟩,
   ⟨(up id), oA, 0x800, 0, by decide +kernel⟩,
   ⟨(up (modPwr fun p => { p with sw := [⟨11, 0, some 0⟩] })), 11, (({ dom := 11, act := 0, started := some 0 })), (([])),
    by decide +kernel⟩,
   ⟨(up (modPwr fun p => { p with sw := [⟨11, 1, some 0⟩] })), 11, (({ dom := 11, act := 1, started := some 0 })), (([])),
    by decide +kernel⟩,
   ⟨(up fun c => { modPwr (fun p => { p with sw := [⟨11, 1, some 0⟩] }) c with fix.beat := 2^30 }), 11, (({ dom := 11, act := 1, started := some 0 })),
    (([])), by decide +kernel, by decide +kernel, by decide +kernel, by decide +kernel, by decide +kernel, by decide +kernel,
    by decide +kernel, opt_all _ _ (by decide +kernel), by decide +kernel⟩,
   ⟨(up (modPwr fun p => { p with later := some (0x40, true, 0) })), ((64)), ((true)), ((0)), by decide +kernel⟩⟩

/-- The hypotheses of each clause of `FirmwareAndLaneTest` are met together. -/
theorem witness_FirmwareAndLaneTest :
    (∃ (s : State) (o : Origin) (addr : BitVec 64) (len : BitVec 32), s.core.sys.pwr.porst = false ∧ Chip.obeys o 3 s.core ∧
    s.core.free ∧ s.core.on pdDRAM = true ∧ addr.toNat < 2 ^ 36 ∧ s.core.dramOk addr.toNat 256 = true ∧ imgForm
    (s.core.dramRead addr.toNat 256) = true ∧ leAt (s.core.dramRead addr.toNat 256) 12 4 = len.toNat ∧ s.core.sys.mgt.stage =
    none) ∧
    (∃ (s : State) (p : Pend) (a : ℕ) (n : ℕ), s.core.sys.pwr.porst = false ∧ s.core.sys.mgt.stage = some (p, a, n) ∧
    s.core.dramOk a n = true ∧ leAt (s.core.dramRead a n) 12 4 = n ∧ s.core.imgFault true (s.core.dramRead a n) = none ∧
    s.core.roomToLog) ∧
    (∃ (s : State) (p : Pend) (a : ℕ) (n : ℕ), s.core.sys.pwr.porst = false ∧ s.core.sys.mgt.stage = some (p, a, n) ∧
    s.core.dramOk a n = true ∧ s.core.roomToLog) ∧
    (∃ (s : State) (o : Origin), s.core.sys.pwr.porst = false ∧ Chip.obeys o 2 s.core ∧ s.core.free ∧ s.core.running = none ∧
    s.core.admitted = none ∧ s.core.host.commits = [] ∧ s.core.flag (Reg.MGT_IMG_INFO_staged s.core.idleArea) = true) ∧
    (∃ (s : State), s.core.sys.pwr.porst = false ∧ s.core.sys.pwr.reset = none ∧ s.core.rd Reg.MGT_BOOT_STATUS_state = 5 ∧
    s.core.rd Reg.MGT_BOOT_STATUS_active_area < 2 ∧ s.core.roomToLog) ∧
    (∃ (s : State) (cause : ℕ) (bad : Bool), s.core.sys.pwr.porst = false ∧ s.core.sys.pwr.reset = none ∧
    s.core.sys.mgt.verify = some cause ∧ s.core.roomToLog) ∧
    (∃ (s : State) (o : Origin) (lane : BitVec 8) (mode : BitVec 8), s.core.sys.pwr.porst = false ∧ Chip.obeys o 3 s.core ∧
    s.core.free ∧ s.core.roomToLog ∧ lane.toNat < 52 ∧ mode.toNat < 6 ∧ s.core.on (laneDom lane.toNat) = true ∧ (mode.toNat ≠
    0 → s.core.laneBusy lane.toNat = none)) :=
  ⟨⟨(up fun c => dramWrite 4096 image (rooted c)), oA, 4096, 256, by decide +kernel⟩,
   ⟨(up fun c => dramWrite 4096 image (rooted c) |> modMgt fun m => { m with stage := some (⟨0,9,5,0xE0⟩, 4096, 256) }), (({ slot := 0, sid := 9, seq := 5, op := 224 })),
    ((4096)), ((256)), by decide +kernel⟩,
   ⟨(up fun c => dramWrite 4096 image (rooted c) |> modMgt fun m => { m with stage := some (⟨0,9,5,0xE0⟩, 4096, 256) }), (({ slot := 0, sid := 9, seq := 5, op := 224 })),
    ((4096)), ((256)), by decide +kernel⟩,
   ⟨(up fun c => wrB (Reg.MGT_IMG_INFO_staged 1) true c), oA, by decide +kernel⟩,
   ⟨(up fun c => modMgt (fun m => { m with area1 := areaOf image }) (wr Reg.MGT_BOOT_STATUS_state 5 c)), by decide +kernel⟩,
   ⟨(up fun c => modMgt (fun m => { m with area0 := areaOf image, verify := some 0 }) (rooted (wr Reg.MGT_BOOT_STATUS_state 1
    c))), ((0)), true, by decide +kernel⟩,
   ⟨(up fun c => dramWrite 4096 image (rooted c)), oA, 0, 0, by decide +kernel⟩⟩

/-- The hypotheses of each clause of `VectorEvents` are met together. -/
theorem witness_VectorEvents :
    (∃ (s : State) (ch : Fin 24) (f : Furrow) (p : Plan), s.core.sys.pwr.porst = false ∧ s.core.on (chanDom ↑ch) = true ∧
    s.core.beam.fur[↑ch]? = some f ∧ f.plans = [p] ∧ p.started = true ∧ p.ended = false ∧ p.endBeat ≤ s.core.now ∧ p.endBreak
    f.lits ≤ s.core.now) ∧
    (∃ (s : State) (ch : Fin 24) (f : Furrow) (ok : Bool), s.core.sys.pwr.porst = false ∧ s.core.on (chanDom ↑ch) = true ∧
    s.core.beam.fur[↑ch]? = some f ∧ f.running = true ∧ f.got < f.asked) ∧
    (∃ (s : State) (ch : Fin 24) (f : Furrow), s.core.sys.pwr.porst = false ∧ s.core.on (chanDom ↑ch) = true ∧
    s.core.beam.fur[↑ch]? = some f ∧ f.log ≠ [] ∧ f.lastJoin + 64 ≤ s.core.now) ∧
    (∃ (s : State) (ch : Fin 24) (f : Furrow) (x : BufRec), s.core.sys.pwr.porst = false ∧ s.core.on (chanDom ↑ch) = true ∧
    s.core.beam.fur[↑ch]? = some f ∧ f.head = some x ∧ f.waiting = true ∧ x.r.kind = kWaitIn ∧ ((if bits x.r.arg 15 8 = 0
    then !bit (s.core.rd Reg.GIO_IN_bits) (bits x.r.arg 3 0) else if bits x.r.arg 15 8 = 1 then bit (s.core.rd
    Reg.GIO_IN_bits) (bits x.r.arg 3 0) else if bits x.r.arg 15 8 = 2 then bit (s.core.rd Reg.GIO_IN_bits) (bits x.r.arg 3 0)
    && !bit s.core.sys.gio.prevIn (bits x.r.arg 3 0) else bit s.core.sys.gio.prevIn (bits x.r.arg 3 0) && !bit (s.core.rd
    Reg.GIO_IN_bits) (bits x.r.arg 3 0)) = true)) ∧
    (∃ (s : State) (ch : Fin 24) (f : Furrow) (x : BufRec), s.core.sys.pwr.porst = false ∧ s.core.on (chanDom ↑ch) = true ∧
    s.core.beam.fur[↑ch]? = some f ∧ f.head = some x ∧ f.waiting = true ∧ x.r.kind = kWaitIn ∧ ((if bits x.r.arg 15 8 = 0
    then !bit (s.core.rd Reg.GIO_IN_bits) (bits x.r.arg 3 0) else if bits x.r.arg 15 8 = 1 then bit (s.core.rd
    Reg.GIO_IN_bits) (bits x.r.arg 3 0) else if bits x.r.arg 15 8 = 2 then bit (s.core.rd Reg.GIO_IN_bits) (bits x.r.arg 3 0)
    && !bit s.core.sys.gio.prevIn (bits x.r.arg 3 0) else bit s.core.sys.gio.prevIn (bits x.r.arg 3 0) && !bit (s.core.rd
    Reg.GIO_IN_bits) (bits x.r.arg 3 0)) = false) ∧ bits x.r.arg 31 16 ≠ 0 ∧ f.t + 1000 * bits x.r.arg 31 16 ≤ s.core.now ∧
    s.core.chState ↑ch < 6 ∧ s.core.rd (Reg.FUR_FAULT_cause ↑ch) = 0 ∧ s.core.roomToLog) ∧
    (∃ (s : State) (ch : Fin 24) (f : Furrow) (x : BufRec) (i : Instr), s.core.sys.pwr.porst = false ∧ s.core.on (chanDom
    ↑ch) = true ∧ s.core.beam.fur[↑ch]? = some f ∧ f.head = some x ∧ (i = Instr.waitTimeMet ch ∧ x.r.kind = kWaitTime ∨ i =
    Instr.syncBeatMet ch ∧ x.r.kind = kSync) ∧ f.running = true ∧ f.ended = false ∧ f.waiting = false ∧ f.begun = true ∧
    f.freeAt ≤ s.core.now + 3 ∧ laserOn (s.core.chState ↑ch) = true ∧ s.core.ctlBeat (↑ch) x.r (max f.t s.core.now) ≤
    s.core.now + 3) ∧
    (∃ (s : State) (ch : Fin 24) (f : Furrow), s.core.sys.pwr.porst = false ∧ s.core.on (chanDom ↑ch) = true ∧
    s.core.beam.fur[↑ch]? = some f ∧ f.running = true ∧ f.begun = true ∧ f.startBeat < s.core.now ∧ (s.core.now -
    f.startBeat) % 1000 = 0) :=
  ⟨⟨(furUp fun f => { f with plans := [plan1] }), 0, (Option.get ((fun (s : State) (ch : Fin 24) => s.core.beam.fur[↑ch]?)
    (furUp fun f => { f with plans := [plan1] }) (0)) (by decide +kernel)), (({ r := { idx := 0, x := 0, y := 0, speed := 1, power := 0, pset := 0, kind := 1, flags := 0, group := 0, arg := 0, spacing := 0, seq := 0 }, park := false, beg := 0, s := 0, endBeat := 3, segs := [], start := (0, 0), endPt := (5, 6), wait := 0, deferred := false, positioned := false, corner := false, underrun := false, back := false, offAt := none, joined := false, brk := 0, hatch := false, started := true, ended := false })),
    by decide +kernel⟩,
   ⟨fe, 0, (Option.get ((fun (s : State) (ch : Fin 24) => s.core.beam.fur[↑ch]?) (fe) (0)) (by decide +kernel)), true,
    by decide +kernel⟩,
   ⟨(furUp (fun f => { f with log := [⟨3, 0, 0, 0, 0, 0⟩], logIdx := 1, lastJoin := 36 })), 0, (Option.get ((fun (s : State)
    (ch : Fin 24) => s.core.beam.fur[↑ch]?) (furUp (fun f => { f with log := [⟨3, 0, 0, 0, 0, 0⟩], logIdx := 1, lastJoin := 36 }))
    (0)) (by decide +kernel)), by decide +kernel⟩,
   ⟨(furUp (fun f => { f with waiting := true, buf := [⟨vec kWaitIn 0, none, false⟩] })), 0, (Option.get ((fun (s : State)
    (ch : Fin 24) => s.core.beam.fur[↑ch]?) (furUp (fun f => { f with waiting := true, buf := [⟨vec kWaitIn 0, none, false⟩] }))
    (0)) (by decide +kernel)), (Option.get ((fun (f : Furrow) => f.head) (Option.get ((fun (s : State) (ch : Fin 24) =>
    s.core.beam.fur[↑ch]?) (furUp (fun f => { f with waiting := true, buf := [⟨vec kWaitIn 0, none, false⟩] })) (0))
    (by decide +kernel))) (by decide +kernel)), by decide +kernel⟩,
   ⟨(furUp (fun f => { f with waiting := true, buf := [⟨vec kWaitIn 0x00010100, none, false⟩] }) (fun c => { c with fix.beat := 2000#64 })),
    0, (Option.get ((fun (s : State) (ch : Fin 24) => s.core.beam.fur[↑ch]?) (furUp (fun f => { f with waiting := true, buf := [⟨vec kWaitIn 0x00010100, none, false⟩] })
    (fun c => { c with fix.beat := 2000#64 })) (0)) (by decide +kernel)), (Option.get ((fun (f : Furrow) => f.head)
    (Option.get ((fun (s : State) (ch : Fin 24) => s.core.beam.fur[↑ch]?) (furUp (fun f => { f with waiting := true, buf := [⟨vec kWaitIn 0x00010100, none, false⟩] })
    (fun c => { c with fix.beat := 2000#64 })) (0)) (by decide +kernel))) (by decide +kernel)), by decide +kernel⟩,
   ⟨(furUp (fun f => { f with running := true, begun := true, t := 100, buf := [⟨vec kWaitTime 0, none, false⟩] }) (wr
    (Reg.FUR_STATE_state 0) 2)), 0, (Option.get ((fun (s : State) (ch : Fin 24) => s.core.beam.fur[↑ch]?) (furUp (fun f => { f with running := true, begun := true, t := 100, buf := [⟨vec kWaitTime 0, none, false⟩] })
    (wr (Reg.FUR_STATE_state 0) 2)) (0)) (by decide +kernel)), (Option.get ((fun (f : Furrow) => f.head) (Option.get ((fun (s
    : State) (ch : Fin 24) => s.core.beam.fur[↑ch]?) (furUp (fun f => { f with running := true, begun := true, t := 100, buf := [⟨vec kWaitTime 0, none, false⟩] })
    (wr (Reg.FUR_STATE_state 0) 2)) (0)) (by decide +kernel))) (by decide +kernel)), (.waitTimeMet 0), by decide +kernel⟩,
   ⟨(furUp (fun f => { f with running := true, begun := true }) (fun c => { c with fix.beat := 1000#64 })), 0, (Option.get
    ((fun (s : State) (ch : Fin 24) => s.core.beam.fur[↑ch]?) (furUp (fun f => { f with running := true, begun := true })
    (fun c => { c with fix.beat := 1000#64 })) (0)) (by decide +kernel)), by decide +kernel⟩⟩

/-- The hypotheses of each clause of `Claim.QuenchesAndPulses`, a part of `QuenchesAndTiles`, are met together. -/
theorem witness_QuenchesAndPulses :
    (∃ (s : State) (ch : Fin 24) (f : Furrow) (q : ℕ), s.core.sys.pwr.porst = false ∧ s.core.beam.fur[↑ch]? = some f ∧
    f.quenchedAt = some q ∧ q + 1 ≤ s.core.now ∧ s.core.chState ↑ch = 6) ∧
    (∃ (s : State) (k : Fin 16), s.core.sys.pwr.porst = false ∧ (∃ p ∈ s.core.sys.gio.pulses, p.out = ↑k ∧ p.clear ≤
    s.core.now)) :=
  ⟨⟨(furUp (fun f => { f with quenchedAt := some 99 }) (wr (Reg.FUR_STATE_state 0) 6 ∘ wr (Reg.FUR_STATE_quench_cause 0) 1)),
    0, (Option.get ((fun (s : State) (ch : Fin 24) => s.core.beam.fur[↑ch]?) (furUp (fun f => { f with quenchedAt := some 99 })
    (wr (Reg.FUR_STATE_state 0) 6 ∘ wr (Reg.FUR_STATE_quench_cause 0) 1)) (0)) (by decide +kernel)), ((99)),
    by decide +kernel⟩,
   ⟨(up (modGio fun g => { g with pulses := [⟨3, 0, 0⟩] })), 3, by decide +kernel⟩⟩

/-- The hypotheses of each clause of `Claim.TileEvents`, a part of `QuenchesAndTiles`, are met together. -/
theorem witness_TileEvents :
    (∃ (s : State) (ch : Fin 24) (r : Req), s.core.sys.pwr.porst = false ∧ s.core.on pdFABRIC = true ∧ s.core.req ↑ch = some
    r ∧ r.nextEval ≤ s.core.now ∧ s.core.sideMasked ↑ch = false ∧ s.core.quotaMasked (↑ch) s.core.now = false ∧ s.core.banded
    s.core.tileGrid r.hr r.set = false) ∧
    (∃ (s : State) (k : Fin 65536) (x : Tile), s.core.sys.pwr.porst = false ∧ s.core.tile ↑k = some x ∧ x.holder = none ∧
    x.freeAt ≤ s.core.now ∧ x.resFor = none ∧ Rising s.core.beam.slb.tiles) ∧
    (∃ (s : State), s.core.sys.pwr.porst = false ∧ s.core.rd Reg.SLB_QUOTA_N_quota ≠ 0 ∧ s.core.rd Reg.SLB_QUOTA_WIN_window ≠
    0 ∧ (s.core.now - s.core.beam.slb.winStart) % s.core.rd Reg.SLB_QUOTA_WIN_window = 0 ∧ s.core.beam.slb.quotaDone ≠
    s.core.now) ∧
    (∃ (s : State), s.core.sys.pwr.porst = false ∧ s.core.now % 256 = 0 ∧ s.core.beam.slb.wrapDone ≠ s.core.now ∧ s.core.flag
    Reg.SLB_STATUS_commit_pending = true ∧ s.core.roomToLog) :=
  ⟨⟨(up fun c => modSlb (fun b => { b with reqs := [(0, req1)] }) { c with fix.beat := 100#64 }), 0, (Option.get ((fun (s :
    State) (ch : Fin 24) => s.core.req ↑ch) (up fun c => modSlb (fun b => { b with reqs := [(0, req1)] }) { c with fix.beat := 100#64 })
    (0)) (by decide +kernel)), by decide +kernel⟩,
   ⟨(up fun c => modSlb (fun b => { b with reqs := [(0, req1)], tiles := [(1, ⟨none, 5, 7, true, none, false, 0⟩)] }) { c with fix.beat := 100#64 }
    |> wr Reg.SLB_GRID_SIZE_cols 10 |> wr Reg.SLB_GRID_SIZE_rows 10), 1, (Option.get ((fun (s : State) (k : Fin 65536) =>
    s.core.tile ↑k) (up fun c => modSlb (fun b => { b with reqs := [(0, req1)], tiles := [(1, ⟨none, 5, 7, true, none, false, 0⟩)] })
    { c with fix.beat := 100#64 } |> wr Reg.SLB_GRID_SIZE_cols 10 |> wr Reg.SLB_GRID_SIZE_rows 10) (1)) (by decide +kernel)),
    by decide +kernel⟩,
   ⟨(up fun c => { c with fix.beat := 100#64 } |> wr Reg.SLB_QUOTA_N_quota 3 |> wr Reg.SLB_QUOTA_WIN_window 100),
    by decide +kernel⟩,
   ⟨(up fun c => { c with fix.beat := 256#64 } |> wrB Reg.SLB_STATUS_commit_pending true |> wr (Reg.SLB_SLOT_valid 3) 1 |> wr
    (Reg.SLB_SLOT_channel 3) 7), by decide +kernel⟩⟩

/-- The hypotheses of each clause of `Claim.UplinkFrames`, a part of `HeadLinks`, are met together. -/
theorem witness_UplinkFrames :
    ∃ (s : State) (ch : Fin 24) (line : List Bool) (y : BitVec 16) (l : Lane) (k : Link), s.core.sys.pwr.porst = false ∧
    s.core.beam.lanes[2 * ↑ch + 1]? = some l ∧ s.core.beam.links[↑ch]? = some k ∧ s.core.laneHears (2 * ↑ch + 1) = true :=
  ⟨(laneUp 1 1 id), 0, ([]), 0, (Option.get ((fun (s : State) (ch : Fin 24) => s.core.beam.lanes[2 * ↑ch + 1]?) (laneUp 1 1
    id) (0)) (by decide +kernel)), (Option.get ((fun (s : State) (ch : Fin 24) => s.core.beam.links[↑ch]?) (laneUp 1 1 id)
    (0)) (by decide +kernel)), by decide +kernel⟩

/-- The hypotheses of each clause of `Claim.LanesAndMailboxes`, a part of `HeadLinks`, are met together. -/
theorem witness_LanesAndMailboxes :
    (∃ (s : State) (n : Fin 52) (l : Lane), s.core.sys.pwr.porst = false ∧ laneRx ↑n = true ∧ s.core.beam.lanes[↑n]? = some l
    ∧ s.core.on (laneDom ↑n) = true ∧ (s.core.laneState ↑n = 2 ∨ s.core.laneState ↑n = 3) ∧ (↑n < 48 → l.lastFrame ≠ some
    s.core.now) ∧ (48 ≤ ↑n → s.core.laneClock ↑n = true)) ∧
    (∃ (s : State) (ch : Fin 24) (k : Link) (m : Mbx), s.core.sys.pwr.porst = false ∧ s.core.beam.links[↑ch]? = some k ∧
    k.mbx = some m ∧ m.sent + 16 ≤ s.core.now ∧ s.core.on (laneDom (2 * ↑ch)) = true ∧ s.core.roomToLog) ∧
    (∃ (s : State) (cam : Fin 2) (a : List Bool) (b : List Bool) (l : Lane) (m : Lane), s.core.sys.pwr.porst = false ∧
    s.core.beam.lanes[48 + 2 * ↑cam]? = some l ∧ s.core.beam.lanes[48 + 2 * ↑cam + 1]? = some m ∧ s.core.laneHears (48 + 2 *
    ↑cam) = true ∧ s.core.laneHears (48 + 2 * ↑cam + 1) = true) ∧
    (∃ (s : State) (n : Fin 52) (sync : Bool), s.core.sys.pwr.porst = false ∧ laneRx ↑n = true ∧ s.core.laneState ↑n = 4 ∧
    s.core.on (laneDom ↑n) = true ∧ s.core.flag (Reg.GLK_PRBS_STATUS_sync ↑n) ≠ sync) ∧
    (∃ (s : State) (ch : Fin 24) (line : List Bool) (y : BitVec 16) (l : Lane), s.core.sys.pwr.porst = false ∧
    s.core.beam.lanes[2 * ↑ch + 1]? = some l ∧ s.core.laneTests (2 * ↑ch + 1) = true) ∧
    (∃ (s : State) (k : Fin 5), s.core.sys.pwr.porst = false ∧ s.core.roomToLog) ∧
    (∃ (s : State) (k : Fin 5), s.core.sys.pwr.porst = false) :=
  ⟨⟨(laneUp 1 2 id), 1, (Option.get ((fun (s : State) (n : Fin 52) => s.core.beam.lanes[↑n]?) (laneUp 1 2 id) (1))
    (by decide +kernel)), by decide +kernel⟩,
   ⟨(mbxUp ⟨1, 2, 3, 4, false, 84, 0, false⟩), 0, (Option.get ((fun (s : State) (ch : Fin 24) => s.core.beam.links[↑ch]?)
    (mbxUp ⟨1, 2, 3, 4, false, 84, 0, false⟩) (0)) (by decide +kernel)), (Option.get ((fun (k : Link) => k.mbx) (Option.get
    ((fun (s : State) (ch : Fin 24) => s.core.beam.links[↑ch]?) (mbxUp ⟨1, 2, 3, 4, false, 84, 0, false⟩) (0))
    (by decide +kernel))) (by decide +kernel)), by decide +kernel⟩,
   ⟨(ovUp 1), 0, ([]), ([]), (Option.get ((fun (s : State) (cam : Fin 2) => s.core.beam.lanes[48 + 2 * ↑cam]?) (ovUp 1) (0))
    (by decide +kernel)), (Option.get ((fun (s : State) (cam : Fin 2) => s.core.beam.lanes[48 + 2 * ↑cam + 1]?) (ovUp 1) (0))
    (by decide +kernel)), by decide +kernel⟩,
   ⟨(laneUp 1 4 id), 1, true, by decide +kernel⟩,
   ⟨(laneUp 1 4 id), 0, ([]), 0#16, (Option.get ((fun (s : State) (ch : Fin 24) => s.core.beam.lanes[2 * ↑ch + 1]?) (laneUp 1
    4 id) (0)) (by decide +kernel)), by decide +kernel⟩,
   ⟨(up id), 0, by decide +kernel⟩,
   ⟨(up id), 0, by decide +kernel⟩⟩

/-- The hypotheses of each clause of `Claim.CameraFrames`, a part of `SieveEvents`, are met together. -/
theorem witness_CameraFrames :
    (∃ (s : State) (n : Fin 32) (x : Ctx) (b : ℕ), s.core.sys.pwr.porst = false ∧ s.core.img.ctxs[↑n]? = some x ∧ x.startAt =
    some b ∧ b ≤ s.core.now) ∧
    (∃ (s : State) (n : Fin 32) (x : Ctx) (j : ℕ), s.core.sys.pwr.porst = false ∧ s.core.img.ctxs[↑n]? = some x ∧
    s.core.frameAt (↑n) s.core.now = some j ∧ x.opened ≤ j) ∧
    (∃ (s : State) (n : Fin 32) (x : Ctx) (sv : Sieve), s.core.sys.pwr.porst = false ∧ s.core.img.ctxs[↑n]? = some x ∧
    isOverview ↑n = false ∧ s.core.on (sieveDom x.sieve) = true ∧ x.closed < x.opened ∧ x.f0 + (x.closed + 2) * s.core.ctxF
    ↑n + 1 ≤ s.core.now ∧ s.core.img.sieves[x.sieve]? = some sv) ∧
    (∃ (s : State) (n : Fin 32) (x : Ctx) (r : RxFrame), s.core.sys.pwr.porst = false ∧ s.core.img.ctxs[↑n]? = some x ∧
    isOverview ↑n = true ∧ x.rx = some r ∧ r.at0 + 2 * s.core.ctxF ↑n ≤ s.core.now) :=
  ⟨⟨(ctxUp 0 fun x => { x with startAt := some 50 }), 0, (Option.get ((fun (s : State) (n : Fin 32) => s.core.img.ctxs[↑n]?)
    (ctxUp 0 fun x => { x with startAt := some 50 }) (0)) (by decide +kernel)), ((50)), by decide +kernel⟩,
   ⟨(ctxUp 0 (fun x => { x with f0 := 20, rx := some rx1 })), 0, (Option.get ((fun (s : State) (n : Fin 32) =>
    s.core.img.ctxs[↑n]?) (ctxUp 0 (fun x => { x with f0 := 20, rx := some rx1 })) (0)) (by decide +kernel)), ((2)),
    by decide +kernel⟩,
   ⟨(ctxUp 0 (fun x => { x with f0 := 10, opened := 1 })), 0, (Option.get ((fun (s : State) (n : Fin 32) =>
    s.core.img.ctxs[↑n]?) (ctxUp 0 (fun x => { x with f0 := 10, opened := 1 })) (0)) (by decide +kernel)), (({ waiting := [], busy := 0, runs := [] })),
    by decide +kernel⟩,
   ⟨(ctxUp 24 (fun x => { x with rx := some rx1 })), 24, (Option.get ((fun (s : State) (n : Fin 32) => s.core.img.ctxs[↑n]?)
    (ctxUp 24 (fun x => { x with rx := some rx1 })) (24)) (by decide +kernel)), (Option.get ((fun (x : Ctx) => x.rx)
    (Option.get ((fun (s : State) (n : Fin 32) => s.core.img.ctxs[↑n]?) (ctxUp 24 (fun x => { x with rx := some rx1 })) (24))
    (by decide +kernel))) (by decide +kernel)), by decide +kernel⟩⟩

/-- The hypotheses of each clause of `Claim.SieveRuns`, a part of `SieveEvents`, are met together. -/
theorem witness_SieveRuns :
    (∃ (s : State) (v : Fin 2) (sv : Sieve) (n : Fin 32) (f : Closed) (rest : List Closed), s.core.sys.pwr.porst = false ∧
    s.core.img.sieves[↑v]? = some sv ∧ sv.waiting = f :: rest ∧ f.ctx = ↑n ∧ sv.busy < (s.core.now + 1) * 250 ∧ s.core.shown
    (sieveDom ↑v) = true) ∧
    (∃ (s : State) (n : Fin 32) (x : Ctx) (sv : Sieve) (f : Closed) (rest : List Closed), s.core.sys.pwr.porst = false ∧
    s.core.img.ctxs[↑n]? = some x ∧ s.core.img.sieves[x.sieve]? = some sv ∧ isOverview ↑n = true ∧ sv.waiting = [] ∧ sv.busy
    < (s.core.now + 1) * 250 ∧ s.core.shown (sieveDom x.sieve) = true ∧ x.ovClosed = f :: rest ∧ x.ovRun < s.core.ctxH ↑n) ∧
    (∃ (s : State) (v : Fin 2) (sv : Sieve), s.core.sys.pwr.porst = false ∧ s.core.img.sieves[↑v]? = some sv) ∧
    (∃ (s : State) (n : Fin 24) (x : Ctx), s.core.sys.pwr.porst = false ∧ s.core.img.ctxs[↑n]? = some x) :=
  ⟨⟨(ctxUp 0 id (modSieve 0 fun v => { v with waiting := [frame1 0] })), 0, (Option.get ((fun (s : State) (v : Fin 2) =>
    s.core.img.sieves[↑v]?) (ctxUp 0 id (modSieve 0 fun v => { v with waiting := [frame1 0] })) (0)) (by decide +kernel)), 0,
    (({ ctx := 0, f0 := 0, j := 0, seq := 5, close := 90, flags := 0, sid := 0, words := [1, 2, 3, 4] })), (([])),
    by decide +kernel⟩,
   ⟨(ctxUp 24 (fun x => { x with ovClosed := [frame1 24] })), 24, (Option.get ((fun (s : State) (n : Fin 32) =>
    s.core.img.ctxs[↑n]?) (ctxUp 24 (fun x => { x with ovClosed := [frame1 24] })) (24)) (by decide +kernel)), (({ waiting := [], busy := 0, runs := [] })),
    (({ ctx := 24, f0 := 0, j := 0, seq := 5, close := 90, flags := 0, sid := 0, words := [1, 2, 3, 4] })), (([])),
    by decide +kernel⟩,
   ⟨(ctxUp 0 id (modSieve 0 fun v => { v with waiting := [frame1 0] })), 0, (Option.get ((fun (s : State) (v : Fin 2) =>
    s.core.img.sieves[↑v]?) (ctxUp 0 id (modSieve 0 fun v => { v with waiting := [frame1 0] })) (0)) (by decide +kernel)),
    by decide +kernel⟩,
   ⟨(ctxUp 0 id (modSieve 0 fun v => { v with waiting := [frame1 0] })), 0, (Option.get ((fun (s : State) (n : Fin 24) =>
    s.core.img.ctxs[↑n]?) (ctxUp 0 id (modSieve 0 fun v => { v with waiting := [frame1 0] })) (0)) (by decide +kernel)),
    by decide +kernel⟩⟩

/-- The hypotheses of each clause of `LadleSamples` are met together. -/
theorem witness_LadleSamples :
    (∃ (s : State) (n : Fin 24) (e : Ladle) (y : Bool) (k : Loop), s.core.sys.pwr.porst = false ∧ s.core.lad[↑n]? = some e ∧
    (e.loops[if y = true then 1 else 0]? = some k) ∧ (s.core.loopRuns (↑n) (if y = true then 1 else 0) = true) ∧ s.core.rd
    (Reg.LAD_SAMPLE_s ↑n) ≠ 0 ∧ s.core.now % s.core.rd (Reg.LAD_SAMPLE_s ↑n) = 0 ∧ k.next ≤ s.core.now / s.core.rd
    (Reg.LAD_SAMPLE_s ↑n)) ∧
    (∃ (s : State) (n : Fin 24) (e : Ladle) (k : Loop) (x : CtxEntry) (d : ℕ), s.core.sys.pwr.porst = false ∧ s.core.lad[↑n]?
    = some e ∧ e.loops[2]? = some k ∧ s.core.loopRuns (↑n) 2 = true ∧ s.core.powerCtx ↑n = some (x, d) ∧ x.f ≠ 0 ∧
    s.core.frame0 x + k.next * x.f + d ≤ s.core.now) ∧
    (∃ (s : State) (n : Fin 24) (e : Ladle) (ok : Bool), s.core.sys.pwr.porst = false ∧ s.core.lad[↑n]? = some e ∧
    s.core.flag (Reg.LAD_RC_SPILL_ST_busy ↑n) = true) :=
  ⟨⟨(ladUp 0 id), 0, (Option.get ((fun (s : State) (n : Fin 24) => s.core.lad[↑n]?) (ladUp 0 id) (0)) (by decide +kernel)),
    false, (Option.get ((fun (e : Ladle) (y : Bool) => e.loops[if y = true then 1 else 0]?) (Option.get ((fun (s : State) (n
    : Fin 24) => s.core.lad[↑n]?) (ladUp 0 id) (0)) (by decide +kernel)) (false)) (by decide +kernel)), by decide +kernel⟩,
   ⟨(pwrUp id), 0, (Option.get ((fun (s : State) (n : Fin 24) => s.core.lad[↑n]?) (pwrUp id) (0)) (by decide +kernel)),
    (Option.get ((fun (e : Ladle) => e.loops[2]?) (Option.get ((fun (s : State) (n : Fin 24) => s.core.lad[↑n]?) (pwrUp id)
    (0)) (by decide +kernel))) (by decide +kernel)), (({ ctx := 0, sieve := 0, phase := 0, f := 40, w := 2, h := 2, maxD := 0 })),
    ((30)), by decide +kernel⟩,
   ⟨(up fun c => sluice reqRcs 0 true 4096 [1, 2] (wrB (Reg.LAD_RC_SPILL_ST_busy 0) true c)), 0, (Option.get ((fun (s :
    State) (n : Fin 24) => s.core.lad[↑n]?) (up fun c => sluice reqRcs 0 true 4096 [1, 2] (wrB (Reg.LAD_RC_SPILL_ST_busy 0)
    true c)) (0)) (by decide +kernel)), true, by decide +kernel⟩⟩

/-- The hypotheses of each clause of `PositionEvents` are met together. -/
theorem witness_PositionEvents :
    (∃ (s : State) (n : Fin 8) (a : Bool) (b : Bool) (stable : BitVec 8) (ns : Fin 499) (f : Feedback), s.core.sys.pwr.porst
    = false ∧ s.core.on pdMOTION = true ∧ s.core.mot.pf[↑n]? = some f ∧ s.core.flag (Reg.PF_CTL_enable ↑n) = true ∧ s.core.rd
    (Reg.PF_CTL_filt ↑n) ≤ stable.toNat ∧ decide (s.core.rd (Reg.PF_CTL_mode ↑n) ≠ 0) = false ∧ pinRise (s.core.flag
    (Reg.PF_CTL_inv_a ↑n)) f.pinA a = true) ∧
    (∃ (s : State) (n : Fin 8) (a : Bool) (b : Bool) (stable : BitVec 8) (ns : Fin 499) (f : Feedback), s.core.sys.pwr.porst
    = false ∧ s.core.on pdMOTION = true ∧ s.core.mot.pf[↑n]? = some f ∧ s.core.flag (Reg.PF_CTL_enable ↑n) = true ∧ s.core.rd
    (Reg.PF_CTL_filt ↑n) ≤ stable.toNat ∧ decide (s.core.rd (Reg.PF_CTL_mode ↑n) ≠ 0) = true ∧ pinRise (s.core.flag
    (Reg.PF_CTL_inv_a ↑n)) f.pinA a ≠ pinRise (s.core.flag (Reg.PF_CTL_inv_b ↑n)) f.pinB b) ∧
    (∃ (s : State) (n : Fin 8) (a : Bool) (b : Bool) (stable : BitVec 8) (ns : Fin 499) (f : Feedback), s.core.sys.pwr.porst
    = false ∧ s.core.on pdMOTION = true ∧ s.core.mot.pf[↑n]? = some f ∧ s.core.flag (Reg.PF_CTL_enable ↑n) = true ∧ s.core.rd
    (Reg.PF_CTL_filt ↑n) ≤ stable.toNat ∧ decide (s.core.rd (Reg.PF_CTL_mode ↑n) ≠ 0) = true ∧ pinRise (s.core.flag
    (Reg.PF_CTL_inv_a ↑n)) f.pinA a = true ∧ pinRise (s.core.flag (Reg.PF_CTL_inv_b ↑n)) f.pinB b = true) ∧
    (∃ (s : State) (n : Fin 8) (a : Bool) (b : Bool) (stable : BitVec 8) (ns : Fin 499) (f : Feedback), s.core.sys.pwr.porst
    = false ∧ s.core.on pdMOTION = true ∧ s.core.mot.pf[↑n]? = some f ∧ s.core.rd (Reg.PF_CTL_filt ↑n) ≤ stable.toNat ∧
    (s.core.flag (Reg.PF_CTL_enable ↑n) = false ∨ pinRise (s.core.flag (Reg.PF_CTL_inv_a ↑n)) f.pinA a = false ∧ (decide
    (s.core.rd (Reg.PF_CTL_mode ↑n) ≠ 0) = true → pinRise (s.core.flag (Reg.PF_CTL_inv_b ↑n)) f.pinB b = false))) ∧
    (∃ (s : State) (n : Fin 8) (a : Bool) (b : Bool) (stable : BitVec 8) (ns : Fin 499) (f : Feedback), s.core.sys.pwr.porst
    = false ∧ s.core.on pdMOTION = true ∧ s.core.mot.pf[↑n]? = some f ∧ stable.toNat < s.core.rd (Reg.PF_CTL_filt ↑n)) ∧
    (∃ (s : State) (n : Fin 8) (a : Bool) (b : Bool) (x : Bool) (stable : BitVec 8) (ns : Fin 499) (f : Feedback),
    s.core.sys.pwr.porst = false ∧ s.core.on pdMOTION = true ∧ s.core.mot.pf[↑n]? = some f ∧ s.core.flag (Reg.PF_CTL_enable
    ↑n) = true ∧ s.core.rd (Reg.PF_CTL_filt ↑n) ≤ stable.toNat ∧ pinRise (s.core.flag (Reg.PF_CTL_inv_a ↑n)) f.pinA a = false
    ∧ (s.core.rd (Reg.PF_CTL_mode ↑n) ≠ 0 → pinRise (s.core.flag (Reg.PF_CTL_inv_b ↑n)) f.pinB b = false) ∧ pinRise
    (s.core.flag (Reg.PF_CTL_inv_idx ↑n)) f.pinX x = true ∧ s.core.roomToLog) ∧
    (∃ (s : State) (n : Fin 8) (f : Feedback) (t0 : ℤ), s.core.sys.pwr.porst = false ∧ s.core.on pdMOTION = true ∧
    s.core.mot.pf[↑n]? = some f ∧ f.tLast = some t0 ∧ s.core.time 0 - t0 > ↑(s.core.rd (Reg.PF_SPD_CTL_stop_us ↑n)) * 1000) ∧
    (∃ (s : State) (k : Fin 4) (ns : Fin 499) (e : Emu), s.core.sys.pwr.porst = false ∧ s.core.on pdMOTION = true ∧
    s.core.mot.emu[↑k]? = some e ∧ s.core.flag (Reg.PF_EMU_CTL_enable ↑k) = true ∧ e.frozen = false ∧ (s.core.emuTarget ↑k -
    e.count).natAbs ≤ 65535 ∧ s.core.emuTarget ↑k ≠ e.count ∧ (∀ (t0 : ℤ), e.lastStep = some t0 → s.core.time ↑ns - t0 ≥
    ↑(s.core.rd (Reg.PF_EMU_SPACING_ns ↑k)))) :=
  ⟨⟨(pfUp id), 0, true, true, 8#8, 0, (Option.get ((fun (s : State) (n : Fin 8) => s.core.mot.pf[↑n]?) (pfUp id) (0))
    (by decide +kernel)), by decide +kernel⟩,
   ⟨(pfUp id (wr (Reg.PF_CTL_mode 0) 1)), 0, true, false, 8#8, 0, (Option.get ((fun (s : State) (n : Fin 8) =>
    s.core.mot.pf[↑n]?) (pfUp id (wr (Reg.PF_CTL_mode 0) 1)) (0)) (by decide +kernel)), by decide +kernel⟩,
   ⟨(pfUp id (wr (Reg.PF_CTL_mode 0) 1)), 0, true, true, 8#8, 0, (Option.get ((fun (s : State) (n : Fin 8) =>
    s.core.mot.pf[↑n]?) (pfUp id (wr (Reg.PF_CTL_mode 0) 1)) (0)) (by decide +kernel)), by decide +kernel⟩,
   ⟨(pfUp id), 0, false, true, 8#8, 0, (Option.get ((fun (s : State) (n : Fin 8) => s.core.mot.pf[↑n]?) (pfUp id) (0))
    (by decide +kernel)), by decide +kernel⟩,
   ⟨(pfUp id), 0, true, true, 0#8, 0, (Option.get ((fun (s : State) (n : Fin 8) => s.core.mot.pf[↑n]?) (pfUp id) (0))
    (by decide +kernel)), by decide +kernel⟩,
   ⟨(pfUp id), 0, false, true, true, 8#8, 0, (Option.get ((fun (s : State) (n : Fin 8) => s.core.mot.pf[↑n]?) (pfUp id) (0))
    (by decide +kernel)), by decide +kernel⟩,
   ⟨(pfUp (fun f => { f with tLast := some (-5000000), edges := [7, 6] })), 0, (Option.get ((fun (s : State) (n : Fin 8) =>
    s.core.mot.pf[↑n]?) (pfUp (fun f => { f with tLast := some (-5000000), edges := [7, 6] })) (0)) (by decide +kernel)),
    ((-5000000)), by decide +kernel⟩,
   ⟨(emuUp id (wr48 (Reg.PF_POS_LO_pos 0) (Reg.PF_POS_HI_pos 0) 803 ∘ wr (Reg.PF_EMU_RATIO_num 0) 1 ∘ wr
    (Reg.PF_EMU_RATIO_den 0) 1)), 0, 0, (Option.get ((fun (s : State) (k : Fin 4) => s.core.mot.emu[↑k]?) (emuUp id (wr48
    (Reg.PF_POS_LO_pos 0) (Reg.PF_POS_HI_pos 0) 803 ∘ wr (Reg.PF_EMU_RATIO_num 0) 1 ∘ wr (Reg.PF_EMU_RATIO_den 0) 1)) (0))
    (by decide +kernel)), by decide +kernel, by decide +kernel, by decide +kernel, by decide +kernel, by decide +kernel,
    by decide +kernel, by decide +kernel, opt_all _ _ (by decide +kernel)⟩⟩

/-- The hypotheses of each clause of `AxisEvents` are met together. -/
theorem witness_AxisEvents :
    (∃ (s : State) (n : Fin 8) (x : Axis) (inp : Fin 3), s.core.sys.pwr.porst = false ∧ s.core.on pdMOTION = true ∧
    s.core.mot.ax[↑n]? = some x ∧ x.held.getD (↑inp) 0 > s.core.rd (Reg.AX_INP_CTL_deb ↑n) ∧ bit x.deb ↑inp ≠ bit x.raw ↑inp)
    ∧
    (∃ (s : State) (n : Fin 8) (x : Axis), s.core.sys.pwr.porst = false ∧ s.core.on pdMOTION = true ∧ s.core.mot.ax[↑n]? =
    some x ∧ s.core.axState ↑n = 1 ∧ x.holdCur = false ∧ x.idleAt + s.core.rd (Reg.AX_HOLD_DLY_ms ↑n) * 4000 ≤ s.core.now) ∧
    (∃ (s : State) (n : Fin 8) (x : Axis) (b : Bool) (k : Coil) (ns : Fin 499), s.core.sys.pwr.porst = false ∧ s.core.on
    pdMOTION = true ∧ s.core.mot.ax[↑n]? = some x ∧ x.coils[b2n b]? = some k ∧ k.phase = 1 ∧ k.since + s.core.rd
    (Reg.AX_CHOP_blank ↑n) * 20 ≤ s.core.now * 250 + ↑ns) ∧
    (∃ (s : State) (n : Fin 8) (x : Axis) (b : Bool) (k : Coil) (ns : Fin 499), s.core.sys.pwr.porst = false ∧ s.core.on
    pdMOTION = true ∧ s.core.mot.ax[↑n]? = some x ∧ x.coils[b2n b]? = some k ∧ k.phase = 2 ∧ k.since + 0 ≤ s.core.now * 250 +
    ↑ns) ∧
    (∃ (s : State) (n : Fin 8) (x : Axis) (b : Bool) (k : Coil) (ns : Fin 499), s.core.sys.pwr.porst = false ∧ s.core.on
    pdMOTION = true ∧ s.core.mot.ax[↑n]? = some x ∧ x.coils[b2n b]? = some k ∧ k.phase = 3 ∧ k.since + s.core.fastCycles ↑n ≤
    s.core.now * 250 + ↑ns ∧ s.core.slowCycles ↑n ≠ 0) ∧
    (∃ (s : State) (n : Fin 8) (x : Axis) (b : Bool) (k : Coil) (ns : Fin 499), s.core.sys.pwr.porst = false ∧ s.core.on
    pdMOTION = true ∧ s.core.mot.ax[↑n]? = some x ∧ x.coils[b2n b]? = some k ∧ k.phase = 3 ∧ k.since + s.core.fastCycles ↑n ≤
    s.core.now * 250 + ↑ns ∧ s.core.slowCycles ↑n = 0) ∧
    (∃ (s : State) (n : Fin 8) (x : Axis) (b : Bool) (k : Coil) (ns : Fin 499), s.core.sys.pwr.porst = false ∧ s.core.on
    pdMOTION = true ∧ s.core.mot.ax[↑n]? = some x ∧ x.coils[b2n b]? = some k ∧ k.phase = 4 ∧ k.since + s.core.slowCycles ↑n ≤
    s.core.now * 250 + ↑ns) ∧
    (∃ (s : State) (n : Fin 8) (x : Axis) (b : Bool) (k : Coil) (ns : Fin 499), s.core.sys.pwr.porst = false ∧ s.core.on
    pdMOTION = true ∧ s.core.mot.ax[↑n]? = some x ∧ x.coils[b2n b]? = some k ∧ k.phase = 2 ∧ k.since + s.core.rd
    (Reg.AX_CHOP_ton_max ↑n) * 1000 ≤ s.core.now * 250 + ↑ns) :=
  ⟨⟨(axE (fun x => { x with raw := 7, held := [5000,5000,5000] })), 0, (Option.get ((fun (s : State) (n : Fin 8) =>
    s.core.mot.ax[↑n]?) (axE (fun x => { x with raw := 7, held := [5000,5000,5000] })) (0)) (by decide +kernel)), 0,
    by decide +kernel⟩,
   ⟨(axE (fun x => { x with idleAt := 0 }) (wr (Reg.AX_HOLD_DLY_ms 0) 0)), 0, (Option.get ((fun (s : State) (n : Fin 8) =>
    s.core.mot.ax[↑n]?) (axE (fun x => { x with idleAt := 0 }) (wr (Reg.AX_HOLD_DLY_ms 0) 0)) (0)) (by decide +kernel)),
    by decide +kernel⟩,
   ⟨(axE (fun x => { x with coils := [⟨1, true, 0, 0, 0, 0⟩, Coil.off] })), 0, (Option.get ((fun (s : State) (n : Fin 8) =>
    s.core.mot.ax[↑n]?) (axE (fun x => { x with coils := [⟨1, true, 0, 0, 0, 0⟩, Coil.off] })) (0)) (by decide +kernel)),
    false, (Option.get ((fun (x : Axis) (b : Bool) => x.coils[b2n b]?) (Option.get ((fun (s : State) (n : Fin 8) =>
    s.core.mot.ax[↑n]?) (axE (fun x => { x with coils := [⟨1, true, 0, 0, 0, 0⟩, Coil.off] })) (0)) (by decide +kernel))
    (false)) (by decide +kernel)), 0, by decide +kernel⟩,
   ⟨(axE (fun x => { x with coils := [⟨2, true, 0, 0, 0, 0⟩, Coil.off] })), 0, (Option.get ((fun (s : State) (n : Fin 8) =>
    s.core.mot.ax[↑n]?) (axE (fun x => { x with coils := [⟨2, true, 0, 0, 0, 0⟩, Coil.off] })) (0)) (by decide +kernel)),
    false, (Option.get ((fun (x : Axis) (b : Bool) => x.coils[b2n b]?) (Option.get ((fun (s : State) (n : Fin 8) =>
    s.core.mot.ax[↑n]?) (axE (fun x => { x with coils := [⟨2, true, 0, 0, 0, 0⟩, Coil.off] })) (0)) (by decide +kernel))
    (false)) (by decide +kernel)), 0, by decide +kernel⟩,
   ⟨(axE (fun x => { x with coils := [⟨3, true, 0, 0, 0, 0⟩, Coil.off] })), 0, (Option.get ((fun (s : State) (n : Fin 8) =>
    s.core.mot.ax[↑n]?) (axE (fun x => { x with coils := [⟨3, true, 0, 0, 0, 0⟩, Coil.off] })) (0)) (by decide +kernel)),
    false, (Option.get ((fun (x : Axis) (b : Bool) => x.coils[b2n b]?) (Option.get ((fun (s : State) (n : Fin 8) =>
    s.core.mot.ax[↑n]?) (axE (fun x => { x with coils := [⟨3, true, 0, 0, 0, 0⟩, Coil.off] })) (0)) (by decide +kernel))
    (false)) (by decide +kernel)), 0, by decide +kernel⟩,
   ⟨(axE (fun x => { x with coils := [⟨3, true, 0, 0, 0, 0⟩, Coil.off] }) (wr (Reg.AX_CHOP_ff 0) 16)), 0, (Option.get ((fun
    (s : State) (n : Fin 8) => s.core.mot.ax[↑n]?) (axE (fun x => { x with coils := [⟨3, true, 0, 0, 0, 0⟩, Coil.off] }) (wr
    (Reg.AX_CHOP_ff 0) 16)) (0)) (by decide +kernel)), false, (Option.get ((fun (x : Axis) (b : Bool) => x.coils[b2n b]?)
    (Option.get ((fun (s : State) (n : Fin 8) => s.core.mot.ax[↑n]?) (axE (fun x => { x with coils := [⟨3, true, 0, 0, 0, 0⟩, Coil.off] })
    (wr (Reg.AX_CHOP_ff 0) 16)) (0)) (by decide +kernel)) (false)) (by decide +kernel)), 0, by decide +kernel⟩,
   ⟨(axE (fun x => { x with coils := [⟨4, true, 0, 0, 0, 0⟩, Coil.off] })), 0, (Option.get ((fun (s : State) (n : Fin 8) =>
    s.core.mot.ax[↑n]?) (axE (fun x => { x with coils := [⟨4, true, 0, 0, 0, 0⟩, Coil.off] })) (0)) (by decide +kernel)),
    false, (Option.get ((fun (x : Axis) (b : Bool) => x.coils[b2n b]?) (Option.get ((fun (s : State) (n : Fin 8) =>
    s.core.mot.ax[↑n]?) (axE (fun x => { x with coils := [⟨4, true, 0, 0, 0, 0⟩, Coil.off] })) (0)) (by decide +kernel))
    (false)) (by decide +kernel)), 0, by decide +kernel⟩,
   ⟨(axE (fun x => { x with coils := [⟨2, true, 63, 9, 50, 0⟩, Coil.off] }) (wr (Reg.AX_CHOP_ton_max 0) 3)), 0, (Option.get
    ((fun (s : State) (n : Fin 8) => s.core.mot.ax[↑n]?) (axE (fun x => { x with coils := [⟨2, true, 63, 9, 50, 0⟩, Coil.off] })
    (wr (Reg.AX_CHOP_ton_max 0) 3)) (0)) (by decide +kernel)), false, (Option.get ((fun (x : Axis) (b : Bool) => x.coils[b2n
    b]?) (Option.get ((fun (s : State) (n : Fin 8) => s.core.mot.ax[↑n]?) (axE (fun x => { x with coils := [⟨2, true, 63, 9, 50, 0⟩, Coil.off] })
    (wr (Reg.AX_CHOP_ton_max 0) 3)) (0)) (by decide +kernel)) (false)) (by decide +kernel)), 0, by decide +kernel⟩⟩

/-- The hypotheses of each clause of `Claim.KettleSwaps`, a part of `KettleEvents`, are met together. -/
theorem witness_KettleSwaps :
    (∃ (s : State) (w : KtSwap), s.core.sys.pwr.porst = false ∧ s.core.on pdKETTLE = true ∧ s.core.kt.swap = some w ∧
    w.reading = false ∧ w.readAt ≤ s.core.now) ∧
    (∃ (s : State) (w : KtSwap) (ok : Bool) (ns : Fin 499), s.core.sys.pwr.porst = false ∧ s.core.on pdKETTLE = true ∧
    s.core.kt.swap = some w ∧ w.reading = true ∧ w.readDone = false ∧ s.core.roomToLog) ∧
    (∃ (s : State) (w : KtSwap), s.core.sys.pwr.porst = false ∧ s.core.on pdKETTLE = true ∧ s.core.kt.swap = some w ∧
    w.readDone = true ∧ w.shifting = false ∧ w.lam ≤ s.core.now + s.core.ktSf) ∧
    (∃ (s : State) (b : ℕ) (ms : ℕ), s.core.sys.pwr.porst = false ∧ s.core.on pdKETTLE = true ∧ s.core.kt.latched = some b ∧
    s.core.kt.swap = none ∧ s.core.kt.refresh = none ∧ s.core.rd Reg.KT_REFRESH_ms = ms ∧ ms ≠ 0 ∧ b + ms * 4000 ≤ s.core.now
    ∧ s.core.ktRunning ≠ 0) ∧
    (∃ (s : State), s.core.sys.pwr.porst = false ∧ s.core.on pdKETTLE = true ∧ ((∃ w, s.core.kt.swap = some w ∧ w.shifting =
    true ∧ w.lam ≤ s.core.now) ∨ s.core.kt.swap = none ∧ ∃ b, s.core.kt.refresh = some b ∧ b ≤ s.core.now)) :=
  ⟨⟨(ktUp fun k => { k with swap := some swap1 }), (Option.get ((fun (s : State) => s.core.kt.swap) (ktUp fun k => { k with swap := some swap1 }))
    (by decide +kernel)), by decide +kernel⟩,
   ⟨(ktUp fun k => { k with swap := some { swap1 with reading := true } }), (Option.get ((fun (s : State) => s.core.kt.swap)
    (ktUp fun k => { k with swap := some { swap1 with reading := true } })) (by decide +kernel)), true, 0,
    by decide +kernel⟩,
   ⟨(ktUp (fun k => { k with swap := some { swap1 with lam := 101, readDone := true } })), (Option.get ((fun (s : State) =>
    s.core.kt.swap) (ktUp (fun k => { k with swap := some { swap1 with lam := 101, readDone := true } })))
    (by decide +kernel)), by decide +kernel⟩,
   ⟨(ktUp (fun k => { k with latched := some 50 }) (wr Reg.KT_REFRESH_ms 1 ∘ fun c => { c with fix.beat := 5000#64 })),
    ((50)), 1, by decide +kernel⟩,
   ⟨(ktUp (fun k => { k with swap := some { swap1 with lam := 100, readDone := true, shifting := true } })),
    by decide +kernel, by decide +kernel, .inl ⟨_, Option.some_get (by decide +kernel) |>.symm, by decide +kernel⟩⟩⟩

/-- The hypotheses of each clause of `Claim.KettleLinesAndLoop`, a part of `KettleEvents`, are met together. -/
theorem witness_KettleLinesAndLoop :
    (∃ (s : State) (b0 : ℕ), s.core.sys.pwr.porst = false ∧ s.core.on pdKETTLE = true ∧ s.core.kt.lineBase = some b0 ∧ b0 +
    s.core.kt.lines * s.core.ktLb ≤ s.core.now ∧ s.core.ktRunning ≠ 0) ∧
    (∃ (s : State) (k : Fin 32) (d : Fin 32) (line : List Byte), s.core.sys.pwr.porst = false ∧ s.core.on pdKETTLE = true ∧
    bit s.core.kt.part ↑k = true ∧ s.core.flag (Reg.KT_CH_STATUS_enabled ↑k) = true ∧ s.core.ktReturning = true ∧ line.length
    = s.core.ktLd / 8 + 2 ∧ s.core.roomToLog) ∧
    (∃ (s : State) (b : ℕ) (tile : Fin 1024) (r : List Byte), s.core.sys.pwr.porst = false ∧ s.core.on pdKETTLE = true ∧
    s.core.kt.arrived = [(b, ↑tile, r)] ∧ b ≤ s.core.now) ∧
    (∃ (s : State) (b : ℕ) (tile : Fin 1024) (r : List Byte), s.core.sys.pwr.porst = false ∧ s.core.on pdKETTLE = true ∧
    s.core.kt.arrived = [(b, ↑tile, r)] ∧ b ≤ s.core.now) ∧
    (∃ (s : State) (b : ℕ) (tile : Fin 1024) (r : List Byte) (j : ℕ), s.core.sys.pwr.porst = false ∧ s.core.on pdKETTLE =
    true ∧ s.core.kt.arrived = [(b, ↑tile, r)] ∧ b ≤ s.core.now ∧ j < 8) ∧
    (∃ (s : State) (b : ℕ) (tile : Fin 1024) (r : List Byte) (j : ℕ), s.core.sys.pwr.porst = false ∧ s.core.on pdKETTLE =
    true ∧ s.core.kt.arrived = [(b, ↑tile, r)] ∧ b ≤ s.core.now ∧ j < 8) ∧
    (∃ (s : State) (b : ℕ) (tile : Fin 1024) (r : List Byte), s.core.sys.pwr.porst = false ∧ s.core.on pdKETTLE = true ∧
    s.core.kt.arrived = [(b, ↑tile, r)] ∧ b ≤ s.core.now) ∧
    (∃ (s : State) (b : ℕ) (tile : Fin 1024) (r : List Byte), s.core.sys.pwr.porst = false ∧ s.core.on pdKETTLE = true ∧
    s.core.kt.arrived = [(b, ↑tile, r)] ∧ b ≤ s.core.now) ∧
    (∃ (s : State) (b : ℕ) (tile : Fin 1024) (r : List Byte), s.core.sys.pwr.porst = false ∧ s.core.on pdKETTLE = true ∧
    s.core.kt.arrived = [(b, ↑tile, r)] ∧ b ≤ s.core.now) ∧
    (∃ (s : State) (b : ℕ) (tile : Fin 1024) (r : List Byte), s.core.sys.pwr.porst = false ∧ s.core.on pdKETTLE = true ∧
    s.core.kt.arrived = [(b, ↑tile, r)] ∧ b ≤ s.core.now) ∧
    (∃ (s : State), s.core.sys.pwr.porst = false ∧ s.core.on pdKETTLE = true ∧ s.core.flag Reg.KT_STATUS_loop_on = true ∧
    s.core.on pdAPP = true ∧ s.core.on (sieveDom (s.core.svOf (s.core.rd Reg.KT_LOOP_CTL_context))) = true ∧ (∀ x ∈
    s.core.mem.slm.ready, ¬(x.req = 3 ∧ x.unit = s.core.rd Reg.KT_LOOP_CTL_context)) ∧ (s.core.loopRecords (s.core.rd
    Reg.KT_LOOP_CTL_context) + 2 ^ 32 - s.core.kt.loopSeen.getD (s.core.loopRecords (s.core.rd Reg.KT_LOOP_CTL_context))) % 2
    ^ 32 ≠ 0) :=
  ⟨⟨(ktUp fun k => { k with lineBase := some 0 }), ((0)), by decide +kernel⟩,
   ⟨(ktUp (fun k => { k with part := 5, latched := some 99, align := [(2, 3)] }) (wrB (Reg.KT_CH_STATUS_enabled 2) true)), 2,
    0, (ret1 State.reset.core 0 0), by decide +kernel⟩,
   ⟨(ktUp (fun k => { k with arrived := [(50, 66, (ret1 State.reset.core 0 0).take (State.reset.core.ktLd / 8))] })), ((50)),
    66, (([0x3c#8, 0x00#8, 0x00#8, 0x00#8, 0x05#8, 0x00#8, 0x00#8, 0x09#8, 0x03#8, 0x03#8, 0x03#8, 0x03#8, 0x03#8, 0x03#8,
    0x03#8, 0x03#8, 0x03#8, 0x03#8, 0x03#8, 0x03#8, 0x03#8, 0x03#8, 0x03#8, 0x03#8, 0x03#8, 0x03#8, 0x03#8, 0x03#8, 0x03#8,
    0x03#8, 0x03#8, 0x03#8, 0x03#8, 0x03#8, 0x03#8, 0x03#8, 0x03#8, 0x03#8, 0x03#8, 0x03#8, 0x03#8, 0x03#8, 0x03#8, 0x03#8,
    0x03#8, 0x03#8, 0x03#8, 0x03#8, 0x03#8, 0x03#8, 0x03#8, 0x03#8, 0x03#8, 0x03#8, 0x03#8, 0x03#8, 0x03#8, 0x03#8, 0x03#8,
    0x03#8, 0x03#8, 0x03#8, 0x03#8, 0x03#8, 0x03#8, 0x03#8, 0x03#8, 0x03#8, 0x03#8, 0x03#8, 0x03#8, 0x03#8, 0x03#8, 0x03#8,
    0x03#8, 0x03#8, 0x03#8, 0x03#8, 0x03#8, 0x03#8, 0x03#8, 0x03#8, 0x03#8, 0x03#8, 0x03#8, 0x03#8, 0x03#8, 0x03#8, 0x03#8,
    0x03#8, 0x03#8, 0x03#8, 0x03#8, 0x03#8, 0x03#8, 0x03#8, 0x03#8, 0x03#8, 0x03#8, 0x03#8, 0x03#8, 0x03#8, 0x03#8, 0x03#8,
    0x03#8, 0x03#8, 0x03#8, 0x03#8, 0x03#8, 0x03#8, 0x03#8, 0x03#8, 0x03#8, 0x03#8, 0x03#8, 0x03#8, 0x03#8, 0x03#8, 0x03#8,
    0x03#8, 0x03#8, 0x03#8, 0x03#8, 0x03#8, 0x03#8, 0x03#8, 0x03#8, 0x03#8, 0x03#8, 0x03#8, 0x03#8, 0x03#8, 0x03#8, 0x03#8,
    0x03#8, 0x03#8, 0x03#8, 0x03#8, 0x03#8, 0x03#8, 0x03#8, 0x03#8, 0x03#8, 0x03#8, 0x03#8, 0x03#8, 0x03#8, 0x03#8, 0x03#8,
    0x03#8, 0x03#8, 0x03#8, 0x03#8, 0x03#8, 0x03#8, 0x03#8, 0x03#8, 0x03#8, 0x03#8, 0x03#8, 0x03#8, 0x03#8, 0x03#8, 0x03#8,
    0x03#8, 0x03#8, 0x03#8, 0x03#8, 0x03#8, 0x03#8, 0x03#8, 0x03#8, 0x03#8, 0x03#8, 0x03#8, 0x03#8, 0x03#8, 0x03#8, 0x03#8,
    0x03#8, 0x03#8, 0x03#8, 0x03#8, 0x03#8, 0x03#8, 0x03#8, 0x03#8, 0x03#8, 0x03#8, 0x03#8, 0x03#8, 0x03#8, 0x03#8, 0x03#8,
    0x03#8, 0x03#8, 0x03#8, 0x03#8, 0x03#8, 0x03#8, 0x03#8, 0x03#8, 0x03#8, 0x03#8, 0x03#8, 0x03#8, 0x03#8, 0x03#8, 0x03#8,
    0x03#8, 0x03#8, 0x03#8, 0x03#8, 0x03#8, 0x03#8, 0x03#8, 0x03#8, 0x03#8, 0x03#8, 0x03#8, 0x03#8, 0x03#8, 0x03#8, 0x03#8,
    0x03#8, 0x03#8, 0x03#8, 0x03#8, 0x03#8, 0x03#8, 0x03#8, 0x03#8, 0x03#8, 0x03#8, 0x03#8, 0x03#8, 0x03#8, 0x03#8, 0x03#8,
    0x03#8, 0x03#8, 0x03#8, 0x03#8, 0x03#8, 0x03#8, 0x03#8, 0x03#8, 0x03#8, 0x03#8, 0x03#8, 0x03#8, 0x03#8, 0x03#8, 0x03#8,
    0x03#8, 0x03#8, 0x03#8, 0x03#8, 0x03#8, 0x03#8, 0x03#8, 0x03#8, 0x03#8, 0x03#8, 0x03#8, 0x03#8, 0x03#8, 0x03#8, 0x03#8,
    0x03#8, 0x03#8, 0x03#8, 0x03#8, 0x03#8, 0x03#8, 0x03#8, 0x03#8, 0x03#8, 0x03#8, 0x03#8, 0x03#8, 0x03#8, 0x03#8, 0x03#8,
    0x03#8, 0x03#8, 0x03#8, 0x03#8, 0x03#8, 0x03#8, 0x03#8, 0x03#8, 0x03#8, 0x03#8, 0x03#8, 0x03#8, 0x03#8, 0x03#8, 0x03#8,
    0x03#8, 0x03#8, 0x03#8, 0x03#8, 0x03#8, 0x03#8, 0x03#8, 0x03#8, 0x03#8, 0x03#8, 0x03#8, 0x03#8, 0x03#8, 0x03#8, 0x03#8,
    0x03#8, 0x03#8, 0x03#8, 0x03#8, 0x03#8, 0x03#8, 0x03#8, 0x03#8, 0x03#8, 0x03#8, 0x03#8, 0x03#8, 0x03#8, 0x03#8, 0x03#8,
    0x03#8, 0x03#8, 0x03#8, 0x03#8, 0x03#8, 0x03#8, 0x03#8, 0x03#8, 0x03#8, 0x03#8, 0x03#8, 0x03#8, 0x03#8, 0x03#8, 0x03#8,
    0x03#8, 0x03#8, 0x03#8, 0x03#8, 0x03#8, 0x03#8, 0x03#8, 0x03#8, 0x03#8, 0x03#8, 0x03#8, 0x03#8, 0x03#8, 0x03#8, 0x03#8,
    0x03#8, 0x03#8, 0x03#8, 0x03#8, 0x03#8, 0x03#8, 0x03#8, 0x03#8, 0x03#8, 0x03#8, 0x03#8, 0x03#8, 0x03#8, 0x03#8, 0x03#8,
    0x03#8, 0x03#8, 0x03#8, 0x03#8, 0x03#8, 0x03#8, 0x03#8, 0x03#8, 0x03#8, 0x03#8, 0x03#8, 0x03#8, 0x03#8, 0x03#8, 0x03#8,
    0x03#8, 0x03#8, 0x03#8, 0xe8#8, 0x9f#8, 0x91#8, 0x7a#8])), by decide +kernel⟩,
   ⟨(ktUp (fun k => { k with arrived := [(50, 66, (ret1 State.reset.core 0 0).take (State.reset.core.ktLd / 8))] })), ((50)),
    66, (([0x3c#8, 0x00#8, 0x00#8, 0x00#8, 0x05#8, 0x00#8, 0x00#8, 0x09#8, 0x03#8, 0x03#8, 0x03#8, 0x03#8, 0x03#8, 0x03#8,
    0x03#8, 0x03#8, 0x03#8, 0x03#8, 0x03#8, 0x03#8, 0x03#8, 0x03#8, 0x03#8, 0x03#8, 0x03#8, 0x03#8, 0x03#8, 0x03#8, 0x03#8,
    0x03#8, 0x03#8, 0x03#8, 0x03#8, 0x03#8, 0x03#8, 0x03#8, 0x03#8, 0x03#8, 0x03#8, 0x03#8, 0x03#8, 0x03#8, 0x03#8, 0x03#8,
    0x03#8, 0x03#8, 0x03#8, 0x03#8, 0x03#8, 0x03#8, 0x03#8, 0x03#8, 0x03#8, 0x03#8, 0x03#8, 0x03#8, 0x03#8, 0x03#8, 0x03#8,
    0x03#8, 0x03#8, 0x03#8, 0x03#8, 0x03#8, 0x03#8, 0x03#8, 0x03#8, 0x03#8, 0x03#8, 0x03#8, 0x03#8, 0x03#8, 0x03#8, 0x03#8,
    0x03#8, 0x03#8, 0x03#8, 0x03#8, 0x03#8, 0x03#8, 0x03#8, 0x03#8, 0x03#8, 0x03#8, 0x03#8, 0x03#8, 0x03#8, 0x03#8, 0x03#8,
    0x03#8, 0x03#8, 0x03#8, 0x03#8, 0x03#8, 0x03#8, 0x03#8, 0x03#8, 0x03#8, 0x03#8, 0x03#8, 0x03#8, 0x03#8, 0x03#8, 0x03#8,
    0x03#8, 0x03#8, 0x03#8, 0x03#8, 0x03#8, 0x03#8, 0x03#8, 0x03#8, 0x03#8, 0x03#8, 0x03#8, 0x03#8, 0x03#8, 0x03#8, 0x03#8,
    0x03#8, 0x03#8, 0x03#8, 0x03#8, 0x03#8, 0x03#8, 0x03#8, 0x03#8, 0x03#8, 0x03#8, 0x03#8, 0x03#8, 0x03#8, 0x03#8, 0x03#8,
    0x03#8, 0x03#8, 0x03#8, 0x03#8, 0x03#8, 0x03#8, 0x03#8, 0x03#8, 0x03#8, 0x03#8, 0x03#8, 0x03#8, 0x03#8, 0x03#8, 0x03#8,
    0x03#8, 0x03#8, 0x03#8, 0x03#8, 0x03#8, 0x03#8, 0x03#8, 0x03#8, 0x03#8, 0x03#8, 0x03#8, 0x03#8, 0x03#8, 0x03#8, 0x03#8,
    0x03#8, 0x03#8, 0x03#8, 0x03#8, 0x03#8, 0x03#8, 0x03#8, 0x03#8, 0x03#8, 0x03#8, 0x03#8, 0x03#8, 0x03#8, 0x03#8, 0x03#8,
    0x03#8, 0x03#8, 0x03#8, 0x03#8, 0x03#8, 0x03#8, 0x03#8, 0x03#8, 0x03#8, 0x03#8, 0x03#8, 0x03#8, 0x03#8, 0x03#8, 0x03#8,
    0x03#8, 0x03#8, 0x03#8, 0x03#8, 0x03#8, 0x03#8, 0x03#8, 0x03#8, 0x03#8, 0x03#8, 0x03#8, 0x03#8, 0x03#8, 0x03#8, 0x03#8,
    0x03#8, 0x03#8, 0x03#8, 0x03#8, 0x03#8, 0x03#8, 0x03#8, 0x03#8, 0x03#8, 0x03#8, 0x03#8, 0x03#8, 0x03#8, 0x03#8, 0x03#8,
    0x03#8, 0x03#8, 0x03#8, 0x03#8, 0x03#8, 0x03#8, 0x03#8, 0x03#8, 0x03#8, 0x03#8, 0x03#8, 0x03#8, 0x03#8, 0x03#8, 0x03#8,
    0x03#8, 0x03#8, 0x03#8, 0x03#8, 0x03#8, 0x03#8, 0x03#8, 0x03#8, 0x03#8, 0x03#8, 0x03#8, 0x03#8, 0x03#8, 0x03#8, 0x03#8,
    0x03#8, 0x03#8, 0x03#8, 0x03#8, 0x03#8, 0x03#8, 0x03#8, 0x03#8, 0x03#8, 0x03#8, 0x03#8, 0x03#8, 0x03#8, 0x03#8, 0x03#8,
    0x03#8, 0x03#8, 0x03#8, 0x03#8, 0x03#8, 0x03#8, 0x03#8, 0x03#8, 0x03#8, 0x03#8, 0x03#8, 0x03#8, 0x03#8, 0x03#8, 0x03#8,
    0x03#8, 0x03#8, 0x03#8, 0x03#8, 0x03#8, 0x03#8, 0x03#8, 0x03#8, 0x03#8, 0x03#8, 0x03#8, 0x03#8, 0x03#8, 0x03#8, 0x03#8,
    0x03#8, 0x03#8, 0x03#8, 0x03#8, 0x03#8, 0x03#8, 0x03#8, 0x03#8, 0x03#8, 0x03#8, 0x03#8, 0x03#8, 0x03#8, 0x03#8, 0x03#8,
    0x03#8, 0x03#8, 0x03#8, 0x03#8, 0x03#8, 0x03#8, 0x03#8, 0x03#8, 0x03#8, 0x03#8, 0x03#8, 0x03#8, 0x03#8, 0x03#8, 0x03#8,
    0x03#8, 0x03#8, 0x03#8, 0x03#8, 0x03#8, 0x03#8, 0x03#8, 0x03#8, 0x03#8, 0x03#8, 0x03#8, 0x03#8, 0x03#8, 0x03#8, 0x03#8,
    0x03#8, 0x03#8, 0x03#8, 0x03#8, 0x03#8, 0x03#8, 0x03#8, 0x03#8, 0x03#8, 0x03#8, 0x03#8, 0x03#8, 0x03#8, 0x03#8, 0x03#8,
    0x03#8, 0x03#8, 0x03#8, 0x03#8, 0x03#8, 0x03#8, 0x03#8, 0x03#8, 0x03#8, 0x03#8, 0x03#8, 0x03#8, 0x03#8, 0x03#8, 0x03#8,
    0x03#8, 0x03#8, 0x03#8, 0x03#8, 0x03#8, 0x03#8, 0x03#8, 0x03#8, 0x03#8, 0x03#8, 0x03#8, 0x03#8, 0x03#8, 0x03#8, 0x03#8,
    0x03#8, 0x03#8, 0x03#8, 0xe8#8, 0x9f#8, 0x91#8, 0x7a#8])), by decide +kernel⟩,
   ⟨(ktUp (fun k => { k with arrived := [(50, 66, (ret1 State.reset.core 0 0).take (State.reset.core.ktLd / 8))] })), ((50)),
    66, (([0x3c#8, 0x00#8, 0x00#8, 0x00#8, 0x05#8, 0x00#8, 0x00#8, 0x09#8, 0x03#8, 0x03#8, 0x03#8, 0x03#8, 0x03#8, 0x03#8,
    0x03#8, 0x03#8, 0x03#8, 0x03#8, 0x03#8, 0x03#8, 0x03#8, 0x03#8, 0x03#8, 0x03#8, 0x03#8, 0x03#8, 0x03#8, 0x03#8, 0x03#8,
    0x03#8, 0x03#8, 0x03#8, 0x03#8, 0x03#8, 0x03#8, 0x03#8, 0x03#8, 0x03#8, 0x03#8, 0x03#8, 0x03#8, 0x03#8, 0x03#8, 0x03#8,
    0x03#8, 0x03#8, 0x03#8, 0x03#8, 0x03#8, 0x03#8, 0x03#8, 0x03#8, 0x03#8, 0x03#8, 0x03#8, 0x03#8, 0x03#8, 0x03#8, 0x03#8,
    0x03#8, 0x03#8, 0x03#8, 0x03#8, 0x03#8, 0x03#8, 0x03#8, 0x03#8, 0x03#8, 0x03#8, 0x03#8, 0x03#8, 0x03#8, 0x03#8, 0x03#8,
    0x03#8, 0x03#8, 0x03#8, 0x03#8, 0x03#8, 0x03#8, 0x03#8, 0x03#8, 0x03#8, 0x03#8, 0x03#8, 0x03#8, 0x03#8, 0x03#8, 0x03#8,
    0x03#8, 0x03#8, 0x03#8, 0x03#8, 0x03#8, 0x03#8, 0x03#8, 0x03#8, 0x03#8, 0x03#8, 0x03#8, 0x03#8, 0x03#8, 0x03#8, 0x03#8,
    0x03#8, 0x03#8, 0x03#8, 0x03#8, 0x03#8, 0x03#8, 0x03#8, 0x03#8, 0x03#8, 0x03#8, 0x03#8, 0x03#8, 0x03#8, 0x03#8, 0x03#8,
    0x03#8, 0x03#8, 0x03#8, 0x03#8, 0x03#8, 0x03#8, 0x03#8, 0x03#8, 0x03#8, 0x03#8, 0x03#8, 0x03#8, 0x03#8, 0x03#8, 0x03#8,
    0x03#8, 0x03#8, 0x03#8, 0x03#8, 0x03#8, 0x03#8, 0x03#8, 0x03#8, 0x03#8, 0x03#8, 0x03#8, 0x03#8, 0x03#8, 0x03#8, 0x03#8,
    0x03#8, 0x03#8, 0x03#8, 0x03#8, 0x03#8, 0x03#8, 0x03#8, 0x03#8, 0x03#8, 0x03#8, 0x03#8, 0x03#8, 0x03#8, 0x03#8, 0x03#8,
    0x03#8, 0x03#8, 0x03#8, 0x03#8, 0x03#8, 0x03#8, 0x03#8, 0x03#8, 0x03#8, 0x03#8, 0x03#8, 0x03#8, 0x03#8, 0x03#8, 0x03#8,
    0x03#8, 0x03#8, 0x03#8, 0x03#8, 0x03#8, 0x03#8, 0x03#8, 0x03#8, 0x03#8, 0x03#8, 0x03#8, 0x03#8, 0x03#8, 0x03#8, 0x03#8,
    0x03#8, 0x03#8, 0x03#8, 0x03#8, 0x03#8, 0x03#8, 0x03#8, 0x03#8, 0x03#8, 0x03#8, 0x03#8, 0x03#8, 0x03#8, 0x03#8, 0x03#8,
    0x03#8, 0x03#8, 0x03#8, 0x03#8, 0x03#8, 0x03#8, 0x03#8, 0x03#8, 0x03#8, 0x03#8, 0x03#8, 0x03#8, 0x03#8, 0x03#8, 0x03#8,
    0x03#8, 0x03#8, 0x03#8, 0x03#8, 0x03#8, 0x03#8, 0x03#8, 0x03#8, 0x03#8, 0x03#8, 0x03#8, 0x03#8, 0x03#8, 0x03#8, 0x03#8,
    0x03#8, 0x03#8, 0x03#8, 0x03#8, 0x03#8, 0x03#8, 0x03#8, 0x03#8, 0x03#8, 0x03#8, 0x03#8, 0x03#8, 0x03#8, 0x03#8, 0x03#8,
    0x03#8, 0x03#8, 0x03#8, 0x03#8, 0x03#8, 0x03#8, 0x03#8, 0x03#8, 0x03#8, 0x03#8, 0x03#8, 0x03#8, 0x03#8, 0x03#8, 0x03#8,
    0x03#8, 0x03#8, 0x03#8, 0x03#8, 0x03#8, 0x03#8, 0x03#8, 0x03#8, 0x03#8, 0x03#8, 0x03#8, 0x03#8, 0x03#8, 0x03#8, 0x03#8,
    0x03#8, 0x03#8, 0x03#8, 0x03#8, 0x03#8, 0x03#8, 0x03#8, 0x03#8, 0x03#8, 0x03#8, 0x03#8, 0x03#8, 0x03#8, 0x03#8, 0x03#8,
    0x03#8, 0x03#8, 0x03#8, 0x03#8, 0x03#8, 0x03#8, 0x03#8, 0x03#8, 0x03#8, 0x03#8, 0x03#8, 0x03#8, 0x03#8, 0x03#8, 0x03#8,
    0x03#8, 0x03#8, 0x03#8, 0x03#8, 0x03#8, 0x03#8, 0x03#8, 0x03#8, 0x03#8, 0x03#8, 0x03#8, 0x03#8, 0x03#8, 0x03#8, 0x03#8,
    0x03#8, 0x03#8, 0x03#8, 0x03#8, 0x03#8, 0x03#8, 0x03#8, 0x03#8, 0x03#8, 0x03#8, 0x03#8, 0x03#8, 0x03#8, 0x03#8, 0x03#8,
    0x03#8, 0x03#8, 0x03#8, 0x03#8, 0x03#8, 0x03#8, 0x03#8, 0x03#8, 0x03#8, 0x03#8, 0x03#8, 0x03#8, 0x03#8, 0x03#8, 0x03#8,
    0x03#8, 0x03#8, 0x03#8, 0x03#8, 0x03#8, 0x03#8, 0x03#8, 0x03#8, 0x03#8, 0x03#8, 0x03#8, 0x03#8, 0x03#8, 0x03#8, 0x03#8,
    0x03#8, 0x03#8, 0x03#8, 0x03#8, 0x03#8, 0x03#8, 0x03#8, 0x03#8, 0x03#8, 0x03#8, 0x03#8, 0x03#8, 0x03#8, 0x03#8, 0x03#8,
    0x03#8, 0x03#8, 0x03#8, 0xe8#8, 0x9f#8, 0x91#8, 0x7a#8])), 0, by decide +kernel⟩,
   ⟨(ktUp (fun k => { k with arrived := [(50, 66, (ret1 State.reset.core 0 0).take (State.reset.core.ktLd / 8))] })), ((50)),
    66, (([0x3c#8, 0x00#8, 0x00#8, 0x00#8, 0x05#8, 0x00#8, 0x00#8, 0x09#8, 0x03#8, 0x03#8, 0x03#8, 0x03#8, 0x03#8, 0x03#8,
    0x03#8, 0x03#8, 0x03#8, 0x03#8, 0x03#8, 0x03#8, 0x03#8, 0x03#8, 0x03#8, 0x03#8, 0x03#8, 0x03#8, 0x03#8, 0x03#8, 0x03#8,
    0x03#8, 0x03#8, 0x03#8, 0x03#8, 0x03#8, 0x03#8, 0x03#8, 0x03#8, 0x03#8, 0x03#8, 0x03#8, 0x03#8, 0x03#8, 0x03#8, 0x03#8,
    0x03#8, 0x03#8, 0x03#8, 0x03#8, 0x03#8, 0x03#8, 0x03#8, 0x03#8, 0x03#8, 0x03#8, 0x03#8, 0x03#8, 0x03#8, 0x03#8, 0x03#8,
    0x03#8, 0x03#8, 0x03#8, 0x03#8, 0x03#8, 0x03#8, 0x03#8, 0x03#8, 0x03#8, 0x03#8, 0x03#8, 0x03#8, 0x03#8, 0x03#8, 0x03#8,
    0x03#8, 0x03#8, 0x03#8, 0x03#8, 0x03#8, 0x03#8, 0x03#8, 0x03#8, 0x03#8, 0x03#8, 0x03#8, 0x03#8, 0x03#8, 0x03#8, 0x03#8,
    0x03#8, 0x03#8, 0x03#8, 0x03#8, 0x03#8, 0x03#8, 0x03#8, 0x03#8, 0x03#8, 0x03#8, 0x03#8, 0x03#8, 0x03#8, 0x03#8, 0x03#8,
    0x03#8, 0x03#8, 0x03#8, 0x03#8, 0x03#8, 0x03#8, 0x03#8, 0x03#8, 0x03#8, 0x03#8, 0x03#8, 0x03#8, 0x03#8, 0x03#8, 0x03#8,
    0x03#8, 0x03#8, 0x03#8, 0x03#8, 0x03#8, 0x03#8, 0x03#8, 0x03#8, 0x03#8, 0x03#8, 0x03#8, 0x03#8, 0x03#8, 0x03#8, 0x03#8,
    0x03#8, 0x03#8, 0x03#8, 0x03#8, 0x03#8, 0x03#8, 0x03#8, 0x03#8, 0x03#8, 0x03#8, 0x03#8, 0x03#8, 0x03#8, 0x03#8, 0x03#8,
    0x03#8, 0x03#8, 0x03#8, 0x03#8, 0x03#8, 0x03#8, 0x03#8, 0x03#8, 0x03#8, 0x03#8, 0x03#8, 0x03#8, 0x03#8, 0x03#8, 0x03#8,
    0x03#8, 0x03#8, 0x03#8, 0x03#8, 0x03#8, 0x03#8, 0x03#8, 0x03#8, 0x03#8, 0x03#8, 0x03#8, 0x03#8, 0x03#8, 0x03#8, 0x03#8,
    0x03#8, 0x03#8, 0x03#8, 0x03#8, 0x03#8, 0x03#8, 0x03#8, 0x03#8, 0x03#8, 0x03#8, 0x03#8, 0x03#8, 0x03#8, 0x03#8, 0x03#8,
    0x03#8, 0x03#8, 0x03#8, 0x03#8, 0x03#8, 0x03#8, 0x03#8, 0x03#8, 0x03#8, 0x03#8, 0x03#8, 0x03#8, 0x03#8, 0x03#8, 0x03#8,
    0x03#8, 0x03#8, 0x03#8, 0x03#8, 0x03#8, 0x03#8, 0x03#8, 0x03#8, 0x03#8, 0x03#8, 0x03#8, 0x03#8, 0x03#8, 0x03#8, 0x03#8,
    0x03#8, 0x03#8, 0x03#8, 0x03#8, 0x03#8, 0x03#8, 0x03#8, 0x03#8, 0x03#8, 0x03#8, 0x03#8, 0x03#8, 0x03#8, 0x03#8, 0x03#8,
    0x03#8, 0x03#8, 0x03#8, 0x03#8, 0x03#8, 0x03#8, 0x03#8, 0x03#8, 0x03#8, 0x03#8, 0x03#8, 0x03#8, 0x03#8, 0x03#8, 0x03#8,
    0x03#8, 0x03#8, 0x03#8, 0x03#8, 0x03#8, 0x03#8, 0x03#8, 0x03#8, 0x03#8, 0x03#8, 0x03#8, 0x03#8, 0x03#8, 0x03#8, 0x03#8,
    0x03#8, 0x03#8, 0x03#8, 0x03#8, 0x03#8, 0x03#8, 0x03#8, 0x03#8, 0x03#8, 0x03#8, 0x03#8, 0x03#8, 0x03#8, 0x03#8, 0x03#8,
    0x03#8, 0x03#8, 0x03#8, 0x03#8, 0x03#8, 0x03#8, 0x03#8, 0x03#8, 0x03#8, 0x03#8, 0x03#8, 0x03#8, 0x03#8, 0x03#8, 0x03#8,
    0x03#8, 0x03#8, 0x03#8, 0x03#8, 0x03#8, 0x03#8, 0x03#8, 0x03#8, 0x03#8, 0x03#8, 0x03#8, 0x03#8, 0x03#8, 0x03#8, 0x03#8,
    0x03#8, 0x03#8, 0x03#8, 0x03#8, 0x03#8, 0x03#8, 0x03#8, 0x03#8, 0x03#8, 0x03#8, 0x03#8, 0x03#8, 0x03#8, 0x03#8, 0x03#8,
    0x03#8, 0x03#8, 0x03#8, 0x03#8, 0x03#8, 0x03#8, 0x03#8, 0x03#8, 0x03#8, 0x03#8, 0x03#8, 0x03#8, 0x03#8, 0x03#8, 0x03#8,
    0x03#8, 0x03#8, 0x03#8, 0x03#8, 0x03#8, 0x03#8, 0x03#8, 0x03#8, 0x03#8, 0x03#8, 0x03#8, 0x03#8, 0x03#8, 0x03#8, 0x03#8,
    0x03#8, 0x03#8, 0x03#8, 0x03#8, 0x03#8, 0x03#8, 0x03#8, 0x03#8, 0x03#8, 0x03#8, 0x03#8, 0x03#8, 0x03#8, 0x03#8, 0x03#8,
    0x03#8, 0x03#8, 0x03#8, 0x03#8, 0x03#8, 0x03#8, 0x03#8, 0x03#8, 0x03#8, 0x03#8, 0x03#8, 0x03#8, 0x03#8, 0x03#8, 0x03#8,
    0x03#8, 0x03#8, 0x03#8, 0xe8#8, 0x9f#8, 0x91#8, 0x7a#8])), 0, by decide +kernel⟩,
   ⟨(ktUp (fun k => { k with arrived := [(50, 66, (ret1 State.reset.core 0 0).take (State.reset.core.ktLd / 8))] })), ((50)),
    66, (([0x3c#8, 0x00#8, 0x00#8, 0x00#8, 0x05#8, 0x00#8, 0x00#8, 0x09#8, 0x03#8, 0x03#8, 0x03#8, 0x03#8, 0x03#8, 0x03#8,
    0x03#8, 0x03#8, 0x03#8, 0x03#8, 0x03#8, 0x03#8, 0x03#8, 0x03#8, 0x03#8, 0x03#8, 0x03#8, 0x03#8, 0x03#8, 0x03#8, 0x03#8,
    0x03#8, 0x03#8, 0x03#8, 0x03#8, 0x03#8, 0x03#8, 0x03#8, 0x03#8, 0x03#8, 0x03#8, 0x03#8, 0x03#8, 0x03#8, 0x03#8, 0x03#8,
    0x03#8, 0x03#8, 0x03#8, 0x03#8, 0x03#8, 0x03#8, 0x03#8, 0x03#8, 0x03#8, 0x03#8, 0x03#8, 0x03#8, 0x03#8, 0x03#8, 0x03#8,
    0x03#8, 0x03#8, 0x03#8, 0x03#8, 0x03#8, 0x03#8, 0x03#8, 0x03#8, 0x03#8, 0x03#8, 0x03#8, 0x03#8, 0x03#8, 0x03#8, 0x03#8,
    0x03#8, 0x03#8, 0x03#8, 0x03#8, 0x03#8, 0x03#8, 0x03#8, 0x03#8, 0x03#8, 0x03#8, 0x03#8, 0x03#8, 0x03#8, 0x03#8, 0x03#8,
    0x03#8, 0x03#8, 0x03#8, 0x03#8, 0x03#8, 0x03#8, 0x03#8, 0x03#8, 0x03#8, 0x03#8, 0x03#8, 0x03#8, 0x03#8, 0x03#8, 0x03#8,
    0x03#8, 0x03#8, 0x03#8, 0x03#8, 0x03#8, 0x03#8, 0x03#8, 0x03#8, 0x03#8, 0x03#8, 0x03#8, 0x03#8, 0x03#8, 0x03#8, 0x03#8,
    0x03#8, 0x03#8, 0x03#8, 0x03#8, 0x03#8, 0x03#8, 0x03#8, 0x03#8, 0x03#8, 0x03#8, 0x03#8, 0x03#8, 0x03#8, 0x03#8, 0x03#8,
    0x03#8, 0x03#8, 0x03#8, 0x03#8, 0x03#8, 0x03#8, 0x03#8, 0x03#8, 0x03#8, 0x03#8, 0x03#8, 0x03#8, 0x03#8, 0x03#8, 0x03#8,
    0x03#8, 0x03#8, 0x03#8, 0x03#8, 0x03#8, 0x03#8, 0x03#8, 0x03#8, 0x03#8, 0x03#8, 0x03#8, 0x03#8, 0x03#8, 0x03#8, 0x03#8,
    0x03#8, 0x03#8, 0x03#8, 0x03#8, 0x03#8, 0x03#8, 0x03#8, 0x03#8, 0x03#8, 0x03#8, 0x03#8, 0x03#8, 0x03#8, 0x03#8, 0x03#8,
    0x03#8, 0x03#8, 0x03#8, 0x03#8, 0x03#8, 0x03#8, 0x03#8, 0x03#8, 0x03#8, 0x03#8, 0x03#8, 0x03#8, 0x03#8, 0x03#8, 0x03#8,
    0x03#8, 0x03#8, 0x03#8, 0x03#8, 0x03#8, 0x03#8, 0x03#8, 0x03#8, 0x03#8, 0x03#8, 0x03#8, 0x03#8, 0x03#8, 0x03#8, 0x03#8,
    0x03#8, 0x03#8, 0x03#8, 0x03#8, 0x03#8, 0x03#8, 0x03#8, 0x03#8, 0x03#8, 0x03#8, 0x03#8, 0x03#8, 0x03#8, 0x03#8, 0x03#8,
    0x03#8, 0x03#8, 0x03#8, 0x03#8, 0x03#8, 0x03#8, 0x03#8, 0x03#8, 0x03#8, 0x03#8, 0x03#8, 0x03#8, 0x03#8, 0x03#8, 0x03#8,
    0x03#8, 0x03#8, 0x03#8, 0x03#8, 0x03#8, 0x03#8, 0x03#8, 0x03#8, 0x03#8, 0x03#8, 0x03#8, 0x03#8, 0x03#8, 0x03#8, 0x03#8,
    0x03#8, 0x03#8, 0x03#8, 0x03#8, 0x03#8, 0x03#8, 0x03#8, 0x03#8, 0x03#8, 0x03#8, 0x03#8, 0x03#8, 0x03#8, 0x03#8, 0x03#8,
    0x03#8, 0x03#8, 0x03#8, 0x03#8, 0x03#8, 0x03#8, 0x03#8, 0x03#8, 0x03#8, 0x03#8, 0x03#8, 0x03#8, 0x03#8, 0x03#8, 0x03#8,
    0x03#8, 0x03#8, 0x03#8, 0x03#8, 0x03#8, 0x03#8, 0x03#8, 0x03#8, 0x03#8, 0x03#8, 0x03#8, 0x03#8, 0x03#8, 0x03#8, 0x03#8,
    0x03#8, 0x03#8, 0x03#8, 0x03#8, 0x03#8, 0x03#8, 0x03#8, 0x03#8, 0x03#8, 0x03#8, 0x03#8, 0x03#8, 0x03#8, 0x03#8, 0x03#8,
    0x03#8, 0x03#8, 0x03#8, 0x03#8, 0x03#8, 0x03#8, 0x03#8, 0x03#8, 0x03#8, 0x03#8, 0x03#8, 0x03#8, 0x03#8, 0x03#8, 0x03#8,
    0x03#8, 0x03#8, 0x03#8, 0x03#8, 0x03#8, 0x03#8, 0x03#8, 0x03#8, 0x03#8, 0x03#8, 0x03#8, 0x03#8, 0x03#8, 0x03#8, 0x03#8,
    0x03#8, 0x03#8, 0x03#8, 0x03#8, 0x03#8, 0x03#8, 0x03#8, 0x03#8, 0x03#8, 0x03#8, 0x03#8, 0x03#8, 0x03#8, 0x03#8, 0x03#8,
    0x03#8, 0x03#8, 0x03#8, 0x03#8, 0x03#8, 0x03#8, 0x03#8, 0x03#8, 0x03#8, 0x03#8, 0x03#8, 0x03#8, 0x03#8, 0x03#8, 0x03#8,
    0x03#8, 0x03#8, 0x03#8, 0x03#8, 0x03#8, 0x03#8, 0x03#8, 0x03#8, 0x03#8, 0x03#8, 0x03#8, 0x03#8, 0x03#8, 0x03#8, 0x03#8,
    0x03#8, 0x03#8, 0x03#8, 0xe8#8, 0x9f#8, 0x91#8, 0x7a#8])), by decide +kernel⟩,
   ⟨(ktUp (fun k => { k with arrived := [(50, 66, (ret1 State.reset.core 0 0).take (State.reset.core.ktLd / 8))] })), ((50)),
    66, (([0x3c#8, 0x00#8, 0x00#8, 0x00#8, 0x05#8, 0x00#8, 0x00#8, 0x09#8, 0x03#8, 0x03#8, 0x03#8, 0x03#8, 0x03#8, 0x03#8,
    0x03#8, 0x03#8, 0x03#8, 0x03#8, 0x03#8, 0x03#8, 0x03#8, 0x03#8, 0x03#8, 0x03#8, 0x03#8, 0x03#8, 0x03#8, 0x03#8, 0x03#8,
    0x03#8, 0x03#8, 0x03#8, 0x03#8, 0x03#8, 0x03#8, 0x03#8, 0x03#8, 0x03#8, 0x03#8, 0x03#8, 0x03#8, 0x03#8, 0x03#8, 0x03#8,
    0x03#8, 0x03#8, 0x03#8, 0x03#8, 0x03#8, 0x03#8, 0x03#8, 0x03#8, 0x03#8, 0x03#8, 0x03#8, 0x03#8, 0x03#8, 0x03#8, 0x03#8,
    0x03#8, 0x03#8, 0x03#8, 0x03#8, 0x03#8, 0x03#8, 0x03#8, 0x03#8, 0x03#8, 0x03#8, 0x03#8, 0x03#8, 0x03#8, 0x03#8, 0x03#8,
    0x03#8, 0x03#8, 0x03#8, 0x03#8, 0x03#8, 0x03#8, 0x03#8, 0x03#8, 0x03#8, 0x03#8, 0x03#8, 0x03#8, 0x03#8, 0x03#8, 0x03#8,
    0x03#8, 0x03#8, 0x03#8, 0x03#8, 0x03#8, 0x03#8, 0x03#8, 0x03#8, 0x03#8, 0x03#8, 0x03#8, 0x03#8, 0x03#8, 0x03#8, 0x03#8,
    0x03#8, 0x03#8, 0x03#8, 0x03#8, 0x03#8, 0x03#8, 0x03#8, 0x03#8, 0x03#8, 0x03#8, 0x03#8, 0x03#8, 0x03#8, 0x03#8, 0x03#8,
    0x03#8, 0x03#8, 0x03#8, 0x03#8, 0x03#8, 0x03#8, 0x03#8, 0x03#8, 0x03#8, 0x03#8, 0x03#8, 0x03#8, 0x03#8, 0x03#8, 0x03#8,
    0x03#8, 0x03#8, 0x03#8, 0x03#8, 0x03#8, 0x03#8, 0x03#8, 0x03#8, 0x03#8, 0x03#8, 0x03#8, 0x03#8, 0x03#8, 0x03#8, 0x03#8,
    0x03#8, 0x03#8, 0x03#8, 0x03#8, 0x03#8, 0x03#8, 0x03#8, 0x03#8, 0x03#8, 0x03#8, 0x03#8, 0x03#8, 0x03#8, 0x03#8, 0x03#8,
    0x03#8, 0x03#8, 0x03#8, 0x03#8, 0x03#8, 0x03#8, 0x03#8, 0x03#8, 0x03#8, 0x03#8, 0x03#8, 0x03#8, 0x03#8, 0x03#8, 0x03#8,
    0x03#8, 0x03#8, 0x03#8, 0x03#8, 0x03#8, 0x03#8, 0x03#8, 0x03#8, 0x03#8, 0x03#8, 0x03#8, 0x03#8, 0x03#8, 0x03#8, 0x03#8,
    0x03#8, 0x03#8, 0x03#8, 0x03#8, 0x03#8, 0x03#8, 0x03#8, 0x03#8, 0x03#8, 0x03#8, 0x03#8, 0x03#8, 0x03#8, 0x03#8, 0x03#8,
    0x03#8, 0x03#8, 0x03#8, 0x03#8, 0x03#8, 0x03#8, 0x03#8, 0x03#8, 0x03#8, 0x03#8, 0x03#8, 0x03#8, 0x03#8, 0x03#8, 0x03#8,
    0x03#8, 0x03#8, 0x03#8, 0x03#8, 0x03#8, 0x03#8, 0x03#8, 0x03#8, 0x03#8, 0x03#8, 0x03#8, 0x03#8, 0x03#8, 0x03#8, 0x03#8,
    0x03#8, 0x03#8, 0x03#8, 0x03#8, 0x03#8, 0x03#8, 0x03#8, 0x03#8, 0x03#8, 0x03#8, 0x03#8, 0x03#8, 0x03#8, 0x03#8, 0x03#8,
    0x03#8, 0x03#8, 0x03#8, 0x03#8, 0x03#8, 0x03#8, 0x03#8, 0x03#8, 0x03#8, 0x03#8, 0x03#8, 0x03#8, 0x03#8, 0x03#8, 0x03#8,
    0x03#8, 0x03#8, 0x03#8, 0x03#8, 0x03#8, 0x03#8, 0x03#8, 0x03#8, 0x03#8, 0x03#8, 0x03#8, 0x03#8, 0x03#8, 0x03#8, 0x03#8,
    0x03#8, 0x03#8, 0x03#8, 0x03#8, 0x03#8, 0x03#8, 0x03#8, 0x03#8, 0x03#8, 0x03#8, 0x03#8, 0x03#8, 0x03#8, 0x03#8, 0x03#8,
    0x03#8, 0x03#8, 0x03#8, 0x03#8, 0x03#8, 0x03#8, 0x03#8, 0x03#8, 0x03#8, 0x03#8, 0x03#8, 0x03#8, 0x03#8, 0x03#8, 0x03#8,
    0x03#8, 0x03#8, 0x03#8, 0x03#8, 0x03#8, 0x03#8, 0x03#8, 0x03#8, 0x03#8, 0x03#8, 0x03#8, 0x03#8, 0x03#8, 0x03#8, 0x03#8,
    0x03#8, 0x03#8, 0x03#8, 0x03#8, 0x03#8, 0x03#8, 0x03#8, 0x03#8, 0x03#8, 0x03#8, 0x03#8, 0x03#8, 0x03#8, 0x03#8, 0x03#8,
    0x03#8, 0x03#8, 0x03#8, 0x03#8, 0x03#8, 0x03#8, 0x03#8, 0x03#8, 0x03#8, 0x03#8, 0x03#8, 0x03#8, 0x03#8, 0x03#8, 0x03#8,
    0x03#8, 0x03#8, 0x03#8, 0x03#8, 0x03#8, 0x03#8, 0x03#8, 0x03#8, 0x03#8, 0x03#8, 0x03#8, 0x03#8, 0x03#8, 0x03#8, 0x03#8,
    0x03#8, 0x03#8, 0x03#8, 0x03#8, 0x03#8, 0x03#8, 0x03#8, 0x03#8, 0x03#8, 0x03#8, 0x03#8, 0x03#8, 0x03#8, 0x03#8, 0x03#8,
    0x03#8, 0x03#8, 0x03#8, 0xe8#8, 0x9f#8, 0x91#8, 0x7a#8])), by decide +kernel⟩,
   ⟨(ktUp (fun k => { k with arrived := [(50, 66, (ret1 State.reset.core 0 0).take (State.reset.core.ktLd / 8))] })), ((50)),
    66, (([0x3c#8, 0x00#8, 0x00#8, 0x00#8, 0x05#8, 0x00#8, 0x00#8, 0x09#8, 0x03#8, 0x03#8, 0x03#8, 0x03#8, 0x03#8, 0x03#8,
    0x03#8, 0x03#8, 0x03#8, 0x03#8, 0x03#8, 0x03#8, 0x03#8, 0x03#8, 0x03#8, 0x03#8, 0x03#8, 0x03#8, 0x03#8, 0x03#8, 0x03#8,
    0x03#8, 0x03#8, 0x03#8, 0x03#8, 0x03#8, 0x03#8, 0x03#8, 0x03#8, 0x03#8, 0x03#8, 0x03#8, 0x03#8, 0x03#8, 0x03#8, 0x03#8,
    0x03#8, 0x03#8, 0x03#8, 0x03#8, 0x03#8, 0x03#8, 0x03#8, 0x03#8, 0x03#8, 0x03#8, 0x03#8, 0x03#8, 0x03#8, 0x03#8, 0x03#8,
    0x03#8, 0x03#8, 0x03#8, 0x03#8, 0x03#8, 0x03#8, 0x03#8, 0x03#8, 0x03#8, 0x03#8, 0x03#8, 0x03#8, 0x03#8, 0x03#8, 0x03#8,
    0x03#8, 0x03#8, 0x03#8, 0x03#8, 0x03#8, 0x03#8, 0x03#8, 0x03#8, 0x03#8, 0x03#8, 0x03#8, 0x03#8, 0x03#8, 0x03#8, 0x03#8,
    0x03#8, 0x03#8, 0x03#8, 0x03#8, 0x03#8, 0x03#8, 0x03#8, 0x03#8, 0x03#8, 0x03#8, 0x03#8, 0x03#8, 0x03#8, 0x03#8, 0x03#8,
    0x03#8, 0x03#8, 0x03#8, 0x03#8, 0x03#8, 0x03#8, 0x03#8, 0x03#8, 0x03#8, 0x03#8, 0x03#8, 0x03#8, 0x03#8, 0x03#8, 0x03#8,
    0x03#8, 0x03#8, 0x03#8, 0x03#8, 0x03#8, 0x03#8, 0x03#8, 0x03#8, 0x03#8, 0x03#8, 0x03#8, 0x03#8, 0x03#8, 0x03#8, 0x03#8,
    0x03#8, 0x03#8, 0x03#8, 0x03#8, 0x03#8, 0x03#8, 0x03#8, 0x03#8, 0x03#8, 0x03#8, 0x03#8, 0x03#8, 0x03#8, 0x03#8, 0x03#8,
    0x03#8, 0x03#8, 0x03#8, 0x03#8, 0x03#8, 0x03#8, 0x03#8, 0x03#8, 0x03#8, 0x03#8, 0x03#8, 0x03#8, 0x03#8, 0x03#8, 0x03#8,
    0x03#8, 0x03#8, 0x03#8, 0x03#8, 0x03#8, 0x03#8, 0x03#8, 0x03#8, 0x03#8, 0x03#8, 0x03#8, 0x03#8, 0x03#8, 0x03#8, 0x03#8,
    0x03#8, 0x03#8, 0x03#8, 0x03#8, 0x03#8, 0x03#8, 0x03#8, 0x03#8, 0x03#8, 0x03#8, 0x03#8, 0x03#8, 0x03#8, 0x03#8, 0x03#8,
    0x03#8, 0x03#8, 0x03#8, 0x03#8, 0x03#8, 0x03#8, 0x03#8, 0x03#8, 0x03#8, 0x03#8, 0x03#8, 0x03#8, 0x03#8, 0x03#8, 0x03#8,
    0x03#8, 0x03#8, 0x03#8, 0x03#8, 0x03#8, 0x03#8, 0x03#8, 0x03#8, 0x03#8, 0x03#8, 0x03#8, 0x03#8, 0x03#8, 0x03#8, 0x03#8,
    0x03#8, 0x03#8, 0x03#8, 0x03#8, 0x03#8, 0x03#8, 0x03#8, 0x03#8, 0x03#8, 0x03#8, 0x03#8, 0x03#8, 0x03#8, 0x03#8, 0x03#8,
    0x03#8, 0x03#8, 0x03#8, 0x03#8, 0x03#8, 0x03#8, 0x03#8, 0x03#8, 0x03#8, 0x03#8, 0x03#8, 0x03#8, 0x03#8, 0x03#8, 0x03#8,
    0x03#8, 0x03#8, 0x03#8, 0x03#8, 0x03#8, 0x03#8, 0x03#8, 0x03#8, 0x03#8, 0x03#8, 0x03#8, 0x03#8, 0x03#8, 0x03#8, 0x03#8,
    0x03#8, 0x03#8, 0x03#8, 0x03#8, 0x03#8, 0x03#8, 0x03#8, 0x03#8, 0x03#8, 0x03#8, 0x03#8, 0x03#8, 0x03#8, 0x03#8, 0x03#8,
    0x03#8, 0x03#8, 0x03#8, 0x03#8, 0x03#8, 0x03#8, 0x03#8, 0x03#8, 0x03#8, 0x03#8, 0x03#8, 0x03#8, 0x03#8, 0x03#8, 0x03#8,
    0x03#8, 0x03#8, 0x03#8, 0x03#8, 0x03#8, 0x03#8, 0x03#8, 0x03#8, 0x03#8, 0x03#8, 0x03#8, 0x03#8, 0x03#8, 0x03#8, 0x03#8,
    0x03#8, 0x03#8, 0x03#8, 0x03#8, 0x03#8, 0x03#8, 0x03#8, 0x03#8, 0x03#8, 0x03#8, 0x03#8, 0x03#8, 0x03#8, 0x03#8, 0x03#8,
    0x03#8, 0x03#8, 0x03#8, 0x03#8, 0x03#8, 0x03#8, 0x03#8, 0x03#8, 0x03#8, 0x03#8, 0x03#8, 0x03#8, 0x03#8, 0x03#8, 0x03#8,
    0x03#8, 0x03#8, 0x03#8, 0x03#8, 0x03#8, 0x03#8, 0x03#8, 0x03#8, 0x03#8, 0x03#8, 0x03#8, 0x03#8, 0x03#8, 0x03#8, 0x03#8,
    0x03#8, 0x03#8, 0x03#8, 0x03#8, 0x03#8, 0x03#8, 0x03#8, 0x03#8, 0x03#8, 0x03#8, 0x03#8, 0x03#8, 0x03#8, 0x03#8, 0x03#8,
    0x03#8, 0x03#8, 0x03#8, 0x03#8, 0x03#8, 0x03#8, 0x03#8, 0x03#8, 0x03#8, 0x03#8, 0x03#8, 0x03#8, 0x03#8, 0x03#8, 0x03#8,
    0x03#8, 0x03#8, 0x03#8, 0xe8#8, 0x9f#8, 0x91#8, 0x7a#8])), by decide +kernel⟩,
   ⟨(ktUp (fun k => { k with arrived := [(50, 66, (ret1 State.reset.core 0 0).take (State.reset.core.ktLd / 8))] })), ((50)),
    66, (([0x3c#8, 0x00#8, 0x00#8, 0x00#8, 0x05#8, 0x00#8, 0x00#8, 0x09#8, 0x03#8, 0x03#8, 0x03#8, 0x03#8, 0x03#8, 0x03#8,
    0x03#8, 0x03#8, 0x03#8, 0x03#8, 0x03#8, 0x03#8, 0x03#8, 0x03#8, 0x03#8, 0x03#8, 0x03#8, 0x03#8, 0x03#8, 0x03#8, 0x03#8,
    0x03#8, 0x03#8, 0x03#8, 0x03#8, 0x03#8, 0x03#8, 0x03#8, 0x03#8, 0x03#8, 0x03#8, 0x03#8, 0x03#8, 0x03#8, 0x03#8, 0x03#8,
    0x03#8, 0x03#8, 0x03#8, 0x03#8, 0x03#8, 0x03#8, 0x03#8, 0x03#8, 0x03#8, 0x03#8, 0x03#8, 0x03#8, 0x03#8, 0x03#8, 0x03#8,
    0x03#8, 0x03#8, 0x03#8, 0x03#8, 0x03#8, 0x03#8, 0x03#8, 0x03#8, 0x03#8, 0x03#8, 0x03#8, 0x03#8, 0x03#8, 0x03#8, 0x03#8,
    0x03#8, 0x03#8, 0x03#8, 0x03#8, 0x03#8, 0x03#8, 0x03#8, 0x03#8, 0x03#8, 0x03#8, 0x03#8, 0x03#8, 0x03#8, 0x03#8, 0x03#8,
    0x03#8, 0x03#8, 0x03#8, 0x03#8, 0x03#8, 0x03#8, 0x03#8, 0x03#8, 0x03#8, 0x03#8, 0x03#8, 0x03#8, 0x03#8, 0x03#8, 0x03#8,
    0x03#8, 0x03#8, 0x03#8, 0x03#8, 0x03#8, 0x03#8, 0x03#8, 0x03#8, 0x03#8, 0x03#8, 0x03#8, 0x03#8, 0x03#8, 0x03#8, 0x03#8,
    0x03#8, 0x03#8, 0x03#8, 0x03#8, 0x03#8, 0x03#8, 0x03#8, 0x03#8, 0x03#8, 0x03#8, 0x03#8, 0x03#8, 0x03#8, 0x03#8, 0x03#8,
    0x03#8, 0x03#8, 0x03#8, 0x03#8, 0x03#8, 0x03#8, 0x03#8, 0x03#8, 0x03#8, 0x03#8, 0x03#8, 0x03#8, 0x03#8, 0x03#8, 0x03#8,
    0x03#8, 0x03#8, 0x03#8, 0x03#8, 0x03#8, 0x03#8, 0x03#8, 0x03#8, 0x03#8, 0x03#8, 0x03#8, 0x03#8, 0x03#8, 0x03#8, 0x03#8,
    0x03#8, 0x03#8, 0x03#8, 0x03#8, 0x03#8, 0x03#8, 0x03#8, 0x03#8, 0x03#8, 0x03#8, 0x03#8, 0x03#8, 0x03#8, 0x03#8, 0x03#8,
    0x03#8, 0x03#8, 0x03#8, 0x03#8, 0x03#8, 0x03#8, 0x03#8, 0x03#8, 0x03#8, 0x03#8, 0x03#8, 0x03#8, 0x03#8, 0x03#8, 0x03#8,
    0x03#8, 0x03#8, 0x03#8, 0x03#8, 0x03#8, 0x03#8, 0x03#8, 0x03#8, 0x03#8, 0x03#8, 0x03#8, 0x03#8, 0x03#8, 0x03#8, 0x03#8,
    0x03#8, 0x03#8, 0x03#8, 0x03#8, 0x03#8, 0x03#8, 0x03#8, 0x03#8, 0x03#8, 0x03#8, 0x03#8, 0x03#8, 0x03#8, 0x03#8, 0x03#8,
    0x03#8, 0x03#8, 0x03#8, 0x03#8, 0x03#8, 0x03#8, 0x03#8, 0x03#8, 0x03#8, 0x03#8, 0x03#8, 0x03#8, 0x03#8, 0x03#8, 0x03#8,
    0x03#8, 0x03#8, 0x03#8, 0x03#8, 0x03#8, 0x03#8, 0x03#8, 0x03#8, 0x03#8, 0x03#8, 0x03#8, 0x03#8, 0x03#8, 0x03#8, 0x03#8,
    0x03#8, 0x03#8, 0x03#8, 0x03#8, 0x03#8, 0x03#8, 0x03#8, 0x03#8, 0x03#8, 0x03#8, 0x03#8, 0x03#8, 0x03#8, 0x03#8, 0x03#8,
    0x03#8, 0x03#8, 0x03#8, 0x03#8, 0x03#8, 0x03#8, 0x03#8, 0x03#8, 0x03#8, 0x03#8, 0x03#8, 0x03#8, 0x03#8, 0x03#8, 0x03#8,
    0x03#8, 0x03#8, 0x03#8, 0x03#8, 0x03#8, 0x03#8, 0x03#8, 0x03#8, 0x03#8, 0x03#8, 0x03#8, 0x03#8, 0x03#8, 0x03#8, 0x03#8,
    0x03#8, 0x03#8, 0x03#8, 0x03#8, 0x03#8, 0x03#8, 0x03#8, 0x03#8, 0x03#8, 0x03#8, 0x03#8, 0x03#8, 0x03#8, 0x03#8, 0x03#8,
    0x03#8, 0x03#8, 0x03#8, 0x03#8, 0x03#8, 0x03#8, 0x03#8, 0x03#8, 0x03#8, 0x03#8, 0x03#8, 0x03#8, 0x03#8, 0x03#8, 0x03#8,
    0x03#8, 0x03#8, 0x03#8, 0x03#8, 0x03#8, 0x03#8, 0x03#8, 0x03#8, 0x03#8, 0x03#8, 0x03#8, 0x03#8, 0x03#8, 0x03#8, 0x03#8,
    0x03#8, 0x03#8, 0x03#8, 0x03#8, 0x03#8, 0x03#8, 0x03#8, 0x03#8, 0x03#8, 0x03#8, 0x03#8, 0x03#8, 0x03#8, 0x03#8, 0x03#8,
    0x03#8, 0x03#8, 0x03#8, 0x03#8, 0x03#8, 0x03#8, 0x03#8, 0x03#8, 0x03#8, 0x03#8, 0x03#8, 0x03#8, 0x03#8, 0x03#8, 0x03#8,
    0x03#8, 0x03#8, 0x03#8, 0x03#8, 0x03#8, 0x03#8, 0x03#8, 0x03#8, 0x03#8, 0x03#8, 0x03#8, 0x03#8, 0x03#8, 0x03#8, 0x03#8,
    0x03#8, 0x03#8, 0x03#8, 0xe8#8, 0x9f#8, 0x91#8, 0x7a#8])), by decide +kernel⟩,
   ⟨(ktUp (fun k => { k with loopSeen := some 0 }) (wrB Reg.KT_STATUS_loop_on true ∘ wr Reg.KT_LOOP_CTL_context 24 ∘ wr
    (Reg.SVX_TAP_COUNT_value 0 24 4) 3 ∘ dramWrite 4 [100,0,0,0])), by decide +kernel⟩⟩

/-- The hypotheses of each clause of `DramEvents` are met together. -/
theorem witness_DramEvents :
    (∃ (s : State) (n : Fin 2) (h : DramCh) (fail : Option (Fin 16 × Fin 10)), s.core.sys.pwr.porst = false ∧ s.core.shown
    pdDRAM = true ∧ s.core.mem.ch[↑n]? = some h ∧ s.core.dramState ↑n = 1 ∧ s.core.roomToLog) ∧
    (∃ (s : State) (n : Fin 2) (h : DramCh) (up : BitVec 10) (down : BitVec 10), s.core.sys.pwr.porst = false ∧ s.core.shown
    pdDRAM = true ∧ s.core.mem.ch[↑n]? = some h ∧ s.core.dramState ↑n = 2 ∧ s.core.flag (Reg.DMC_CTL_retrain_en ↑n) = true ∧
    h.retrainAt + s.core.rd (Reg.DMC_RETRAIN_interval ↑n) * 4 ≤ s.core.now) ∧
    (∃ (s : State) (n : Fin 2) (h : DramCh) (rank : Fin 2) (hot : Bool), s.core.sys.pwr.porst = false ∧ s.core.shown pdDRAM =
    true ∧ s.core.mem.ch[↑n]? = some h) ∧
    (∃ (s : State) (n : Fin 2) (h : DramCh), s.core.sys.pwr.porst = false ∧ s.core.shown pdDRAM = true ∧ s.core.mem.ch[↑n]? =
    some h) ∧
    (∃ (s : State) (n : Fin 2) (h : DramCh) (x : Xfer) (l : List Xfer), s.core.sys.pwr.porst = false ∧ s.core.shown pdDRAM =
    true ∧ s.core.mem.ch[↑n]? = some h ∧ h.wq = x :: l ∧ x.at0 + s.core.rd (Reg.DMC_WEIR_age ↑n) ≤ s.core.now) ∧
    (∃ (s : State) (n : Fin 2) (h : DramCh) (x : Xfer) (ce : Option (Fin 10)) (ue : Bool) (synd : BitVec 128),
    s.core.sys.pwr.porst = false ∧ s.core.shown pdDRAM = true ∧ s.core.mem.ch[↑n]? = some h ∧ h.next = some x ∧
    s.core.dramState ↑n = 2 ∧ h.forwarded x = false ∧ s.core.roomToLog) ∧
    (∃ (s : State) (n : Fin 2) (h : DramCh), s.core.sys.pwr.porst = false ∧ s.core.shown pdDRAM = true ∧ s.core.mem.ch[↑n]? =
    some h ∧ s.core.dramState ↑n = 2 ∧ s.core.roomToLog) ∧
    (∃ (s : State) (x : Xfer) (r : Fin 16) (owned : Bool) (h : DramCh), s.core.sys.pwr.porst = false ∧ x.req = ↑r ∧ s.core.on
    pdFABRIC = true ∧ s.core.on pdDRAM = true ∧ max s.core.mem.slm.slot (ceilDiv (512 * (s.core.now % s.core.slmPeriod))
    s.core.slmPeriod) < 512 ∧ slotBeat s.core.slmPeriod (max s.core.mem.slm.slot (ceilDiv (512 * (s.core.now %
    s.core.slmPeriod)) s.core.slmPeriod)) = s.core.now % s.core.slmPeriod ∧ s.core.slmWinner (max s.core.mem.slm.slot
    (ceilDiv (512 * (s.core.now % s.core.slmPeriod)) s.core.slmPeriod)) = some (x, owned) ∧ s.core.streamOf x = none ∧
    s.core.mem.ch[dramChanOf x.addr]? = some h ∧ (s.core.dramOk x.addr (if x.write = true then x.data.length else 64) = true
    ∨ x.byEvent = true)) :=
  ⟨⟨(memUp 0 id (wr (Reg.DMC_STATUS_state 0) 1 ∘ dramWrite 4096 [1] ∘ dramWrite 256 [1])), 0, (Option.get ((fun (s : State)
    (n : Fin 2) => s.core.mem.ch[↑n]?) (memUp 0 id (wr (Reg.DMC_STATUS_state 0) 1 ∘ dramWrite 4096 [1] ∘ dramWrite 256 [1]))
    (0)) (by decide +kernel)), none, by decide +kernel⟩,
   ⟨(memUp 0 id (wr (Reg.DMC_STATUS_state 0) 1 ∘ dramWrite 4096 [1] ∘ dramWrite 256 [1])), 1, (Option.get ((fun (s : State)
    (n : Fin 2) => s.core.mem.ch[↑n]?) (memUp 0 id (wr (Reg.DMC_STATUS_state 0) 1 ∘ dramWrite 4096 [1] ∘ dramWrite 256 [1]))
    (1)) (by decide +kernel)), 0#10, 0#10, by decide +kernel⟩,
   ⟨(memUp 0 id (wr (Reg.DMC_STATUS_state 0) 1 ∘ dramWrite 4096 [1] ∘ dramWrite 256 [1])), 0, (Option.get ((fun (s : State)
    (n : Fin 2) => s.core.mem.ch[↑n]?) (memUp 0 id (wr (Reg.DMC_STATUS_state 0) 1 ∘ dramWrite 4096 [1] ∘ dramWrite 256 [1]))
    (0)) (by decide +kernel)), 0, true, by decide +kernel⟩,
   ⟨(memUp 0 id (wr (Reg.DMC_STATUS_state 0) 1 ∘ dramWrite 4096 [1] ∘ dramWrite 256 [1])), 0, (Option.get ((fun (s : State)
    (n : Fin 2) => s.core.mem.ch[↑n]?) (memUp 0 id (wr (Reg.DMC_STATUS_state 0) 1 ∘ dramWrite 4096 [1] ∘ dramWrite 256 [1]))
    (0)) (by decide +kernel)), by decide +kernel⟩,
   ⟨(memUp 0 (fun h => { h with wq := [xw 4096], rq := [xr 8192] })), 0, (Option.get ((fun (s : State) (n : Fin 2) =>
    s.core.mem.ch[↑n]?) (memUp 0 (fun h => { h with wq := [xw 4096], rq := [xr 8192] })) (0)) (by decide +kernel)), (({ req := 1, unit := 0, write := true, addr := 4096, data := [0x07#8, 0x07#8, 0x07#8, 0x07#8, 0x07#8, 0x07#8, 0x07#8, 0x07#8, 0x07#8, 0x07#8, 0x07#8, 0x07#8, 0x07#8, 0x07#8, 0x07#8, 0x07#8, 0x07#8, 0x07#8, 0x07#8, 0x07#8, 0x07#8, 0x07#8, 0x07#8, 0x07#8, 0x07#8, 0x07#8, 0x07#8, 0x07#8, 0x07#8, 0x07#8, 0x07#8, 0x07#8, 0x07#8, 0x07#8, 0x07#8, 0x07#8, 0x07#8, 0x07#8, 0x07#8, 0x07#8, 0x07#8, 0x07#8, 0x07#8, 0x07#8, 0x07#8, 0x07#8, 0x07#8, 0x07#8, 0x07#8, 0x07#8, 0x07#8, 0x07#8, 0x07#8, 0x07#8, 0x07#8, 0x07#8, 0x07#8, 0x07#8, 0x07#8, 0x07#8, 0x07#8, 0x07#8, 0x07#8, 0x07#8], at0 := 3 })),
    (([])), by decide +kernel⟩,
   ⟨(memUp 0 (fun h => { h with wq := [xw 4096], rq := [xr 8192] })), 0, (Option.get ((fun (s : State) (n : Fin 2) =>
    s.core.mem.ch[↑n]?) (memUp 0 (fun h => { h with wq := [xw 4096], rq := [xr 8192] })) (0)) (by decide +kernel)),
    (Option.get ((fun (h : DramCh) => h.next) (Option.get ((fun (s : State) (n : Fin 2) => s.core.mem.ch[↑n]?) (memUp 0 (fun
    h => { h with wq := [xw 4096], rq := [xr 8192] })) (0)) (by decide +kernel))) (by decide +kernel)), none, true, 0#128,
    by decide +kernel⟩,
   ⟨(memUp 0 id (wr (Reg.DMC_STATUS_state 0) 1 ∘ dramWrite 4096 [1] ∘ dramWrite 256 [1])), 1, (Option.get ((fun (s : State)
    (n : Fin 2) => s.core.mem.ch[↑n]?) (memUp 0 id (wr (Reg.DMC_STATUS_state 0) 1 ∘ dramWrite 4096 [1] ∘ dramWrite 256 [1]))
    (1)) (by decide +kernel)), by decide +kernel⟩,
   ⟨(up fun c => modSlm (fun m => { m with ready := [xw 4096, xr 8192] }) c), (({ req := 1, unit := 0, write := true, addr := 4096, data := [0x07#8, 0x07#8, 0x07#8, 0x07#8, 0x07#8, 0x07#8, 0x07#8, 0x07#8, 0x07#8, 0x07#8, 0x07#8, 0x07#8, 0x07#8, 0x07#8, 0x07#8, 0x07#8, 0x07#8, 0x07#8, 0x07#8, 0x07#8, 0x07#8, 0x07#8, 0x07#8, 0x07#8, 0x07#8, 0x07#8, 0x07#8, 0x07#8, 0x07#8, 0x07#8, 0x07#8, 0x07#8, 0x07#8, 0x07#8, 0x07#8, 0x07#8, 0x07#8, 0x07#8, 0x07#8, 0x07#8, 0x07#8, 0x07#8, 0x07#8, 0x07#8, 0x07#8, 0x07#8, 0x07#8, 0x07#8, 0x07#8, 0x07#8, 0x07#8, 0x07#8, 0x07#8, 0x07#8, 0x07#8, 0x07#8, 0x07#8, 0x07#8, 0x07#8, 0x07#8, 0x07#8, 0x07#8, 0x07#8, 0x07#8], at0 := 3 })),
    1, ((false)), (Option.get ((fun (s : State) (x : Xfer) => s.core.mem.ch[dramChanOf x.addr]?) (up fun c => modSlm (fun m
    => { m with ready := [xw 4096, xr 8192] }) c) (({ req := 1, unit := 0, write := true, addr := 4096, data := [0x07#8, 0x07#8, 0x07#8, 0x07#8, 0x07#8, 0x07#8, 0x07#8, 0x07#8, 0x07#8, 0x07#8, 0x07#8, 0x07#8, 0x07#8, 0x07#8, 0x07#8, 0x07#8, 0x07#8, 0x07#8, 0x07#8, 0x07#8, 0x07#8, 0x07#8, 0x07#8, 0x07#8, 0x07#8, 0x07#8, 0x07#8, 0x07#8, 0x07#8, 0x07#8, 0x07#8, 0x07#8, 0x07#8, 0x07#8, 0x07#8, 0x07#8, 0x07#8, 0x07#8, 0x07#8, 0x07#8, 0x07#8, 0x07#8, 0x07#8, 0x07#8, 0x07#8, 0x07#8, 0x07#8, 0x07#8, 0x07#8, 0x07#8, 0x07#8, 0x07#8, 0x07#8, 0x07#8, 0x07#8, 0x07#8, 0x07#8, 0x07#8, 0x07#8, 0x07#8, 0x07#8, 0x07#8, 0x07#8, 0x07#8], at0 := 3 })))
    (by decide +kernel)), by decide +kernel⟩⟩

/-- The hypotheses of each clause of `DmaEvents` are met together. -/
theorem witness_DmaEvents :
    (∃ (s : State) (n : Fin 64) (d : DmaCh) (retry : Bool), s.core.sys.pwr.porst = false ∧ s.core.shown pdFABRIC = true ∧
    s.core.mem.dma[↑n]? = some d ∧ (∀ (j : ℕ), j ≠ ↑n → s.core.dma j = DmaCh.init) ∧ s.core.dmaState ↑n = 1 ∧ d.fetch = 1 ∧
    d.fRetryAt = none ∧ d.bursts = []) ∧
    (∃ (s : State) (n : Fin 64) (d : DmaCh) (x : DmaDesc) (gpi : BitVec 16), s.core.sys.pwr.porst = false ∧ s.core.shown
    pdFABRIC = true ∧ s.core.mem.dma[↑n]? = some d ∧ (∀ (j : ℕ), j ≠ ↑n → s.core.dma j = DmaCh.init) ∧ s.core.dmaWinner
    gpi.toNat = some ↑n ∧ d.desc = some x ∧ d.bursts = [] ∧ x.idxEn = false ∧ x.srcReg = false ∧ 0 ≤ (x.addrs
    (d.entries.headD 0) d.pos).1 ∧ s.core.dmaWin (↑n) (x.addrs (d.entries.headD 0) d.pos).1 (x.burstLen (x.addrs
    (d.entries.headD 0) d.pos).1 (x.addrs (d.entries.headD 0) d.pos).2 d.pos.2.2.2) = true) ∧
    (∃ (s : State) (n : Fin 64) (d : DmaCh) (x : DmaDesc) (b : Burst), s.core.sys.pwr.porst = false ∧ s.core.shown pdFABRIC =
    true ∧ s.core.mem.dma[↑n]? = some d ∧ (∀ (j : ℕ), j ≠ ↑n → s.core.dma j = DmaCh.init) ∧ s.core.dmaState ↑n = 1 ∧ d.fetch
    = 0 ∧ d.desc = some x ∧ d.bursts = [b] ∧ b.retryAt = none ∧ x.idxEn = false ∧ d.outside = none ∧ b.st = 0 ∧ x.dstReg =
    false ∧ 0 ≤ b.dst ∧ s.core.dmaWin (↑n) b.dst b.len = true ∧ (dmaReadNow (↑n) x.srcReg b.src b.len s.core).1 = Resp.ok) ∧
    (∃ (s : State) (n : Fin 64) (d : DmaCh) (x : DmaDesc) (b : Burst), s.core.sys.pwr.porst = false ∧ s.core.shown pdFABRIC =
    true ∧ s.core.mem.dma[↑n]? = some d ∧ (∀ (j : ℕ), j ≠ ↑n → s.core.dma j = DmaCh.init) ∧ s.core.dmaState ↑n = 1 ∧ d.fetch
    = 0 ∧ d.desc = some x ∧ d.bursts = [b] ∧ b.retryAt = none ∧ x.idxEn = false ∧ d.outside = none ∧ b.st = 2 ∧ x.dstReg =
    false ∧ 0 ≤ b.dst ∧ s.core.dmaDram b.dst b.data.length = Resp.ok ∧ d.granted = true ∧ bit x.flags 2 = false) ∧
    (∃ (s : State) (n : Fin 64) (d : DmaCh) (b : ℕ), s.core.sys.pwr.porst = false ∧ s.core.shown pdFABRIC = true ∧
    s.core.mem.dma[↑n]? = some d ∧ (∀ (j : ℕ), j ≠ ↑n → s.core.dma j = DmaCh.init) ∧ d.fetch ≠ 0 ∧ d.fRetryAt = some b ∧ b ≤
    s.core.now ∧ d.bursts = []) ∧
    (∃ (s : State) (n : Fin 64) (d : DmaCh), s.core.sys.pwr.porst = false ∧ s.core.shown pdFABRIC = true ∧
    s.core.mem.dma[↑n]? = some d ∧ (∀ (j : ℕ), j ≠ ↑n → s.core.dma j = DmaCh.init) ∧ s.core.dmaState ↑n = 2 ∧ d.fetch = 0 ∧
    d.bursts = [] ∧ s.core.roomToLog) :=
  ⟨⟨(dmaUp (fun d => { d with fetch := 1 })), 63, (Option.get ((fun (s : State) (n : Fin 64) => s.core.mem.dma[↑n]?) (dmaUp
    (fun d => { d with fetch := 1 })) (63)) (by decide +kernel)), true, by decide +kernel, by decide +kernel,
    by decide +kernel, dma_else _ _ (by decide +kernel), by decide +kernel, by decide +kernel, by decide +kernel,
    by decide +kernel⟩,
   ⟨(dmaUp (fun d => { d with desc := some desc1 })), 63, (Option.get ((fun (s : State) (n : Fin 64) => s.core.mem.dma[↑n]?)
    (dmaUp (fun d => { d with desc := some desc1 })) (63)) (by decide +kernel)), (Option.get ((fun (d : DmaCh) => d.desc)
    (Option.get ((fun (s : State) (n : Fin 64) => s.core.mem.dma[↑n]?) (dmaUp (fun d => { d with desc := some desc1 })) (63))
    (by decide +kernel))) (by decide +kernel)), 0#16, by decide +kernel, by decide +kernel, by decide +kernel, dma_else _ _
    (by decide +kernel), by decide +kernel, by decide +kernel, by decide +kernel, by decide +kernel, by decide +kernel,
    by decide +kernel, by decide +kernel⟩,
   ⟨(dmaUp (fun d => { d with desc := some desc1, granted := true, bursts := [burst1 0] })), 63, (Option.get ((fun (s :
    State) (n : Fin 64) => s.core.mem.dma[↑n]?) (dmaUp (fun d => { d with desc := some desc1, granted := true, bursts := [burst1 0] }))
    (63)) (by decide +kernel)), (Option.get ((fun (d : DmaCh) => d.desc) (Option.get ((fun (s : State) (n : Fin 64) =>
    s.core.mem.dma[↑n]?) (dmaUp (fun d => { d with desc := some desc1, granted := true, bursts := [burst1 0] })) (63))
    (by decide +kernel))) (by decide +kernel)), (({ i0 := 0, i1 := 0, i2 := 0, src := 4096, dst := 8192, len := 64, st := 0, retries := 0, again := 0, retryAt := none, data := [0x01#8, 0x01#8, 0x01#8, 0x01#8, 0x01#8, 0x01#8, 0x01#8, 0x01#8, 0x01#8, 0x01#8, 0x01#8, 0x01#8, 0x01#8, 0x01#8, 0x01#8, 0x01#8, 0x01#8, 0x01#8, 0x01#8, 0x01#8, 0x01#8, 0x01#8, 0x01#8, 0x01#8, 0x01#8, 0x01#8, 0x01#8, 0x01#8, 0x01#8, 0x01#8, 0x01#8, 0x01#8, 0x01#8, 0x01#8, 0x01#8, 0x01#8, 0x01#8, 0x01#8, 0x01#8, 0x01#8, 0x01#8, 0x01#8, 0x01#8, 0x01#8, 0x01#8, 0x01#8, 0x01#8, 0x01#8, 0x01#8, 0x01#8, 0x01#8, 0x01#8, 0x01#8, 0x01#8, 0x01#8, 0x01#8, 0x01#8, 0x01#8, 0x01#8, 0x01#8, 0x01#8, 0x01#8, 0x01#8, 0x01#8], seq := 0 })),
    by decide +kernel, by decide +kernel, by decide +kernel, dma_else _ _ (by decide +kernel), by decide +kernel,
    by decide +kernel, by decide +kernel, by decide +kernel, by decide +kernel, by decide +kernel, by decide +kernel,
    by decide +kernel, by decide +kernel, by decide +kernel, by decide +kernel, by decide +kernel⟩,
   ⟨(dmaUp (fun d => { d with desc := some desc1, granted := true, bursts := [burst1 2] })), 63, (Option.get ((fun (s :
    State) (n : Fin 64) => s.core.mem.dma[↑n]?) (dmaUp (fun d => { d with desc := some desc1, granted := true, bursts := [burst1 2] }))
    (63)) (by decide +kernel)), (Option.get ((fun (d : DmaCh) => d.desc) (Option.get ((fun (s : State) (n : Fin 64) =>
    s.core.mem.dma[↑n]?) (dmaUp (fun d => { d with desc := some desc1, granted := true, bursts := [burst1 2] })) (63))
    (by decide +kernel))) (by decide +kernel)), (({ i0 := 0, i1 := 0, i2 := 0, src := 4096, dst := 8192, len := 64, st := 2, retries := 0, again := 0, retryAt := none, data := [0x01#8, 0x01#8, 0x01#8, 0x01#8, 0x01#8, 0x01#8, 0x01#8, 0x01#8, 0x01#8, 0x01#8, 0x01#8, 0x01#8, 0x01#8, 0x01#8, 0x01#8, 0x01#8, 0x01#8, 0x01#8, 0x01#8, 0x01#8, 0x01#8, 0x01#8, 0x01#8, 0x01#8, 0x01#8, 0x01#8, 0x01#8, 0x01#8, 0x01#8, 0x01#8, 0x01#8, 0x01#8, 0x01#8, 0x01#8, 0x01#8, 0x01#8, 0x01#8, 0x01#8, 0x01#8, 0x01#8, 0x01#8, 0x01#8, 0x01#8, 0x01#8, 0x01#8, 0x01#8, 0x01#8, 0x01#8, 0x01#8, 0x01#8, 0x01#8, 0x01#8, 0x01#8, 0x01#8, 0x01#8, 0x01#8, 0x01#8, 0x01#8, 0x01#8, 0x01#8, 0x01#8, 0x01#8, 0x01#8, 0x01#8], seq := 0 })),
    by decide +kernel, by decide +kernel, by decide +kernel, dma_else _ _ (by decide +kernel), by decide +kernel,
    by decide +kernel, by decide +kernel, by decide +kernel, by decide +kernel, by decide +kernel, by decide +kernel,
    by decide +kernel, by decide +kernel, by decide +kernel, by decide +kernel, by decide +kernel, by decide +kernel⟩,
   ⟨(dmaUp (fun d => { d with fetch := 1, fRetryAt := some 99 })), 63, (Option.get ((fun (s : State) (n : Fin 64) =>
    s.core.mem.dma[↑n]?) (dmaUp (fun d => { d with fetch := 1, fRetryAt := some 99 })) (63)) (by decide +kernel)), ((99)),
    by decide +kernel, by decide +kernel, by decide +kernel, dma_else _ _ (by decide +kernel), by decide +kernel,
    by decide +kernel, by decide +kernel, by decide +kernel⟩,
   ⟨(dmaUp (fun d => d) (wr (Reg.DMA_STATUS_state 63) 2)), 63, (Option.get ((fun (s : State) (n : Fin 64) =>
    s.core.mem.dma[↑n]?) (dmaUp (fun d => d) (wr (Reg.DMA_STATUS_state 63) 2)) (63)) (by decide +kernel)), by decide +kernel,
    by decide +kernel, by decide +kernel, dma_else _ _ (by decide +kernel), by decide +kernel, by decide +kernel,
    by decide +kernel, by decide +kernel⟩⟩

/-- The hypotheses of each clause of `ResetsAndSupplies` are met together. -/
theorem witness_ResetsAndSupplies :
    (∃ (s : State), s.core.sys.pwr.porst = true ∧ (∀ m ∈ s.core.sys.pwr.supplyOut, 2 ≤ m) ∧ s.core.roomToLog) ∧
    (∃ (s : State) (low : Bool), s.core.sys.pwr.porst = false) ∧
    (∃ (s : State) (m : Fin 16), s.core.sys.pwr.porst = false ∧ s.core.roomToLog ∧ 2 ≤ ↑m) ∧
    (∃ (s : State) (m : Fin 16), s.core.sys.pwr.porst = false ∧ ↑m < 2) ∧
    (∃ (s : State) (m : Fin 16), s.core.sys.pwr.porst = false) ∧
    (∃ (s : State) (pll : Bool), s.core.sys.pwr.porst = false ∧ s.core.roomToLog) ∧
    (∃ (s : State) (pll : Bool), s.core.sys.pwr.porst = false) ∧
    (∃ (s : State) (b : ℕ), s.core.sys.pwr.porst = false ∧ s.core.sys.pwr.wdtKick = some b ∧ b + s.core.rd
    Reg.PWR_MGT_WDT_period * 4000 ≤ s.core.now ∧ s.core.roomToLog) ∧
    (∃ (s : State) (r : ResetRun), s.core.sys.pwr.porst = false ∧ s.core.sys.pwr.reset = some r ∧ r.held = true ∧
    r.motionHeld = false ∧ (s.core.axesStill = true ∨ r.w + 4000000 ≤ s.core.now)) ∧
    (∃ (s : State) (r : ResetRun), s.core.sys.pwr.porst = false ∧ s.core.sys.pwr.reset = some r ∧ s.core.releaseOk = true) :=
  ⟨⟨State.reset, by decide +kernel⟩,
   ⟨(up id), true, by decide +kernel⟩,
   ⟨(up id), 2, by decide +kernel⟩,
   ⟨(up id), 0, by decide +kernel⟩,
   ⟨(up id), 0, by decide +kernel⟩,
   ⟨(up id), true, by decide +kernel⟩,
   ⟨(up id), true, by decide +kernel⟩,
   ⟨(up fun c => modPwr (fun p => { p with wdtKick := some 0 }) { c with fix.beat := 2^40 }), ((0)), by decide +kernel⟩,
   ⟨(up fun c => modPwr (fun p => { p with reset := some held1 }) { c with fix.beat := 100#64 } |> wr (Reg.AX_STATUS_state 0)
    7 |> wr (Reg.PF_SPEED_v 0) 9 |> fun c => { c with fix.beat := 2^40 }), (Option.get ((fun (s : State) =>
    s.core.sys.pwr.reset) (up fun c => modPwr (fun p => { p with reset := some held1 }) { c with fix.beat := 100#64 } |> wr
    (Reg.AX_STATUS_state 0) 7 |> wr (Reg.PF_SPEED_v 0) 9 |> fun c => { c with fix.beat := 2^40 })) (by decide +kernel)),
    by decide +kernel⟩,
   ⟨(up fun c => modPwr (fun p => { p with reset := some { held1 with motionHeld := true } }) { c with fix.beat := 2^40 } |>
    wr Reg.PWR_CLOCK_ok 0x7F), (Option.get ((fun (s : State) => s.core.sys.pwr.reset) (up fun c => modPwr (fun p => { p with reset := some { held1 with motionHeld := true } })
    { c with fix.beat := 2^40 } |> wr Reg.PWR_CLOCK_ok 0x7F)) (by decide +kernel)), by decide +kernel⟩⟩

/-- The hypotheses of each clause of `QuenchInputsAndTemperature` are met together. -/
theorem witness_QuenchInputsAndTemperature :
    (∃ (s : State) (b : Bool), s.core.sys.pwr.porst = false ∧ (s.core.flag (if b = true then Reg.GIO_STATUS_quench_b else
    Reg.GIO_STATUS_quench_a) = false) ∧ s.core.roomToLog) ∧
    (∃ (s : State) (b : Bool), s.core.sys.pwr.porst = false) ∧
    (∃ (s : State) (k : Fin 4), s.core.sys.pwr.porst = false ∧ s.core.on pdAPP = true ∧ s.core.sys.mgt.running.isSome = true
    ∧ s.core.host.commits = []) ∧
    (∃ (s : State) (readings : List (BitVec 16)), s.core.sys.pwr.porst = false ∧ s.core.sys.cal.sensor = none ∧
    s.core.sys.cal.todo = [] ∧ s.core.roomToLog) ∧
    (∃ (s : State) (n : Fin 12), s.core.sys.pwr.porst = false) ∧
    (∃ (s : State) (n : Fin 12), s.core.sys.pwr.porst = false ∧ s.core.sys.thm.shutdown = none ∧ s.core.roomToLog) ∧
    (∃ (s : State), s.core.sys.pwr.porst = false ∧ s.core.restartOk = true ∧ s.core.roomToLog) :=
  ⟨⟨(up fun c => modPwr (fun p => { p with reset := some { held1 with cause := 6, motionHeld := true } }) { c with fix.beat := 2^40, sys.thm.shutdown := some 3, sys.thm.coolSince := some 4 }
    |> wr Reg.PWR_CLOCK_ok 0x7F), true, by decide +kernel⟩,
   ⟨(up fun c => modPwr (fun p => { p with reset := some { held1 with cause := 6, motionHeld := true } }) { c with fix.beat := 2^40, sys.thm.shutdown := some 3, sys.thm.coolSince := some 4 }
    |> wr Reg.PWR_CLOCK_ok 0x7F), true, by decide +kernel⟩,
   ⟨(up fun c => modMgt (fun m => { m with running := some ⟨1, 0, 0⟩ }) { c with host.sems := c.host.sems.set 8 ⟨1, 3, false⟩ }),
    0, by decide +kernel⟩,
   ⟨(up fun c => modPwr (fun p => { p with reset := some { held1 with cause := 6, motionHeld := true } }) { c with fix.beat := 2^40, sys.thm.shutdown := some 3, sys.thm.coolSince := some 4 }
    |> wr Reg.PWR_CLOCK_ok 0x7F), (List.replicate 12 0x1900#16), by decide +kernel⟩,
   ⟨(up fun c => modPwr (fun p => { p with reset := some { held1 with cause := 6, motionHeld := true } }) { c with fix.beat := 2^40, sys.thm.shutdown := some 3, sys.thm.coolSince := some 4 }
    |> wr Reg.PWR_CLOCK_ok 0x7F), 0, by decide +kernel⟩,
   ⟨(up id), 0, by decide +kernel⟩,
   ⟨(up fun c => modPwr (fun p => { p with reset := some { held1 with cause := 6, motionHeld := true } }) { c with fix.beat := 2^40, sys.thm.shutdown := some 3, sys.thm.coolSince := some 4 }
    |> wr Reg.PWR_CLOCK_ok 0x7F), by decide +kernel⟩⟩

/-- The hypotheses of each clause of `BeatAndSpi` are met together. -/
theorem witness_BeatAndSpi :
    (∃ (s : State) (g : BitVec 16) (a : BitVec 24), s.core.sys.pwr.porst = false) ∧
    (∃ (s : State) (l : List Byte) (whole : Bool), s.core.sys.pwr.porst = false ∧ (whole = false ∨ spiWhole l = false)) ∧
    (∃ (s : State) (l : List Byte) (whole : Bool), s.core.sys.pwr.porst = false ∧ whole = true ∧ spiWhole l = true ∧ l.length
    = 10) ∧
    (∃ (s : State) (a : BitVec 32) (n : BitVec 8), s.core.sys.pwr.porst = false ∧ (n.toNat = 0 ∨ 64 < n.toNat)) ∧
    (∃ (s : State) (a : BitVec 32) (n : BitVec 8), s.core.sys.pwr.porst = false ∧ n.toNat = 1) ∧
    (∃ (s : State), s.core.sys.pwr.porst = false) :=
  ⟨⟨(up id), 0#16, 0#24, by decide +kernel⟩,
   ⟨(up id), ([]), true, by decide +kernel⟩,
   ⟨(up id), spiOne, true, by decide +kernel⟩,
   ⟨(up id), 0x20, 0, by decide +kernel⟩,
   ⟨(up id), 0x20, 1, by decide +kernel⟩,
   ⟨(up id), by decide +kernel⟩⟩

/-- The hypotheses of each clause of `RegisterWrites` are met together. -/
theorem witness_RegisterWrites :
    (∃ (i : Instr) (s : State) (m : Master) (a : ℕ) (v : ℕ), s.core.sys.pwr.porst = false ∧ busWriteOf i = some (m, a, v)) ∧
    (∃ (i : Instr) (s : State) (m : Master) (a : ℕ) (v : ℕ) (r : Resp), s.core.sys.pwr.porst = false ∧ busWriteOf i = some
    (m, a, v) ∧ r ≠ Resp.ok ∧ Ends i s fun t => t.core.out = [Tx.bus m r []]) ∧
    (∃ (i : Instr) (s : State) (m : Master) (a : ℕ) (v : ℕ), s.core.sys.pwr.porst = false ∧ busWriteOf i = some (m, a, v) ∧ m
    = Master.spi ∧ (s.core.spiBars a true = true ∨ makerOnly a = true ∨ barred a = true)) ∧
    (∃ (i : Instr) (s : State) (m : Master) (a : ℕ) (v : ℕ), s.core.sys.pwr.porst = false ∧ busWriteOf i = some (m, a, v) ∧
    (m = Master.spi → s.core.spiBars a true = false ∧ makerOnly a = false ∧ barred a = false) ∧ a < 16777216 ∧ m =
    Master.dma) ∧
    (∃ (i : Instr) (s : State) (m : Master) (a : ℕ) (v : ℕ), s.core.sys.pwr.porst = false ∧ busWriteOf i = some (m, a, v) ∧
    (m = Master.spi → s.core.spiBars a true = false ∧ makerOnly a = false ∧ barred a = false) ∧ a < 16777216 ∧ m ≠ Master.dma
    ∧ placeOf a = none) ∧
    (∃ (i : Instr) (s : State) (m : Master) (a : ℕ) (v : ℕ) (p : Place), s.core.sys.pwr.porst = false ∧ busWriteOf i = some
    (m, a, v) ∧ (m = Master.spi → s.core.spiBars a true = false ∧ makerOnly a = false ∧ barred a = false) ∧ a < 16777216 ∧ m
    ≠ Master.dma ∧ placeOf a = some p ∧ p.there = true ∧ s.core.on p.dom = false) ∧
    (∃ (i : Instr) (s : State) (m : Master) (a : ℕ) (v : ℕ) (p : Place), s.core.sys.pwr.porst = false ∧ busWriteOf i = some
    (m, a, v) ∧ (m = Master.spi → s.core.spiBars a true = false ∧ makerOnly a = false ∧ barred a = false) ∧ a < 16777216 ∧ m
    ≠ Master.dma ∧ placeOf a = some p ∧ p.there = true ∧ s.core.on p.dom = true ∧ a % 4 ≠ 0) ∧
    (∃ (i : Instr) (s : State) (m : Master) (a : ℕ) (v : ℕ) (p : Place), s.core.sys.pwr.porst = false ∧ busWriteOf i = some
    (m, a, v) ∧ (m = Master.spi → s.core.spiBars a true = false ∧ makerOnly a = false ∧ barred a = false) ∧ a < 16777216 ∧ m
    ≠ Master.dma ∧ placeOf a = some p ∧ p.there = true ∧ s.core.on p.dom = true ∧ a % 4 = 0 ∧ p.find = none) ∧
    (∃ (i : Instr) (s : State) (m : Master) (a : ℕ) (v : ℕ) (p : Place) (r : RegDesc) (x : List ℕ), s.core.sys.pwr.porst =
    false ∧ busWriteOf i = some (m, a, v) ∧ (m = Master.spi → s.core.spiBars a true = false ∧ makerOnly a = false ∧ barred a
    = false) ∧ a < 16777216 ∧ m ≠ Master.dma ∧ placeOf a = some p ∧ p.there = true ∧ s.core.on p.dom = true ∧ a % 4 = 0 ∧
    p.find = some (r, x) ∧ r.pair = Pair.none ∧ p.blk ≠ Blk.sec ∧ p.blk ≠ Blk.crk ∧ s.core.unitBusy (⟨a, p, r, x⟩ : Hit) =
    true ∧ s.core.rwiChange (⟨a, p, r, x⟩ : Hit) v = true) ∧
    (∃ (i : Instr) (s : State) (m : Master) (a : ℕ) (v : ℕ) (p : Place) (r : RegDesc) (x : List ℕ), s.core.sys.pwr.porst =
    false ∧ busWriteOf i = some (m, a, v) ∧ (m = Master.spi → s.core.spiBars a true = false ∧ makerOnly a = false ∧ barred a
    = false) ∧ a < 16777216 ∧ m ≠ Master.dma ∧ placeOf a = some p ∧ p.there = true ∧ s.core.on p.dom = true ∧ a % 4 = 0 ∧
    p.find = some (r, x) ∧ r.pair = Pair.none ∧ p.blk ≠ Blk.sec ∧ p.blk ≠ Blk.crk ∧ (⟨a, p, r, x⟩ : Hit).reservedValue v =
    true) ∧
    (∃ (i : Instr) (s : State) (m : Master) (a : ℕ) (v : ℕ) (p : Place) (r : RegDesc) (x : List ℕ), s.core.sys.pwr.porst =
    false ∧ busWriteOf i = some (m, a, v) ∧ (m = Master.spi → s.core.spiBars a true = false ∧ makerOnly a = false ∧ barred a
    = false) ∧ a < 16777216 ∧ m ≠ Master.dma ∧ placeOf a = some p ∧ p.there = true ∧ s.core.on p.dom = true ∧ a % 4 = 0 ∧
    p.find = some (r, x) ∧ r.pair = Pair.none ∧ p.blk ≠ Blk.sec ∧ p.blk ≠ Blk.crk ∧ p.blk ∈ [Blk.top, Blk.thm, Blk.cal,
    Blk.bt, Blk.hg, Blk.slm, Blk.gio] ∧ (⟨a, p, r, x⟩ : Hit).reservedValue v = false) :=
  ⟨⟨(.genericRegWrite .app 0x20 7), (up id), ((Sys2Proof.Master.app)), ((32)), ((7)), by decide +kernel⟩,
   ⟨(.genericRegWrite .app 0x21 7), (up id), ((Sys2Proof.Master.app)), ((33)), ((7)), Sys2Proof.Resp.slaveErr,
    by decide +kernel, by decide +kernel, by decide +kernel, ⟨_, rfl, by decide +kernel⟩⟩,
   ⟨(.genericRegWrite .spi 0x50000 0), (up id), ((Sys2Proof.Master.spi)), ((327680)), ((0)), by decide +kernel⟩,
   ⟨(.genericRegWrite .dma 0x20 7), (up id), ((Sys2Proof.Master.dma)), ((32)), ((7)), by decide +kernel⟩,
   ⟨(.genericRegWrite .mgmt 0xFF0000 7), (up id), ((Sys2Proof.Master.mgmt)), ((16711680)), ((7)), by decide +kernel⟩,
   ⟨(.genericRegWrite .app 0x120030 1), (up (showDomains 0x1)), ((Sys2Proof.Master.app)), ((1179696)), ((1)), (({ blk := Sys2Proof.Machine.Blk.slb, inst := 0, off := 48 })),
    by decide +kernel⟩,
   ⟨(.genericRegWrite .app 0x21 7), (up id), ((Sys2Proof.Master.app)), ((33)), ((7)), (({ blk := Sys2Proof.Machine.Blk.top, inst := 0, off := 33 })),
    by decide +kernel⟩,
   ⟨(.genericRegWrite .app 0x28 1), (up id), ((Sys2Proof.Master.app)), ((40)), ((1)), (({ blk := Sys2Proof.Machine.Blk.top, inst := 0, off := 40 })),
    by decide +kernel⟩,
   ⟨(.genericRegWrite .app 0x120004 5), (up (fun c => { c with host.jobs := [{ walked5 with st := 2 }] })),
    ((Sys2Proof.Master.app)), ((1179652)), ((5)), (({ blk := Sys2Proof.Machine.Blk.slb, inst := 0, off := 4 })), (({ off := 4, dims := [], pair := Sys2Proof.Machine.Pair.none, fields := [{ lo := 0, w := 32, rst := Sys2Proof.Machine.Rst.val 0, ty := Sys2Proof.Machine.FTy.rwi, snap := false, legal := none }] })),
    (([])), by decide +kernel⟩,
   ⟨(.glkTestModeWrite .app 3 7), (up id), ((Sys2Proof.Master.app)), ((1313920)), ((7)), (Option.get ((fun (a : ℕ) => placeOf
    a) ((1313920))) (by decide +kernel)), (({ off := 128, dims := [], pair := Sys2Proof.Machine.Pair.none, fields := [{ lo := 16, w := 1, rst := Sys2Proof.Machine.Rst.val 0, ty := Sys2Proof.Machine.FTy.wo, snap := false, legal := none }, { lo := 8, w := 5, rst := Sys2Proof.Machine.Rst.val 20, ty := Sys2Proof.Machine.FTy.rw, snap := false, legal := some (10, 30) }, { lo := 4, w := 2, rst := Sys2Proof.Machine.Rst.val 0, ty := Sys2Proof.Machine.FTy.rw, snap := false, legal := some (0, 1) }, { lo := 0, w := 3, rst := Sys2Proof.Machine.Rst.val 0, ty := Sys2Proof.Machine.FTy.rw, snap := false, legal := some (0, 5) }] })),
    (([])), by decide +kernel⟩,
   ⟨(.genericRegWrite .app 0x20 7), (up id), ((Sys2Proof.Master.app)), ((32)), ((7)), (({ blk := Sys2Proof.Machine.Blk.top, inst := 0, off := 32 })),
    (({ off := 32, dims := [], pair := Sys2Proof.Machine.Pair.none, fields := [{ lo := 0, w := 32, rst := Sys2Proof.Machine.Rst.val 0, ty := Sys2Proof.Machine.FTy.rw, snap := false, legal := none }] })),
    (([])), by decide +kernel⟩⟩

/-- The hypotheses of each clause of `RegisterReads` are met together. -/
theorem witness_RegisterReads :
    (∃ (s : State) (m : Master) (a : BitVec 32) (cycle : Fin 499) (h : Hit) (g : Hit), s.core.sys.pwr.porst = false ∧ m ≠
    Master.dma ∧ s.core.viewing m = false ∧ a.toNat < 16777216 ∧ (m = Master.spi → s.core.spiBars a.toNat false = false ∧
    makerOnly a.toNat = false) ∧ s.core.route a.toNat = Route.reg h ∧ h.r.pair = Pair.lo ∧ h.high = some g ∧ s.core.heldCopy
    m (a.toNat + 2) = none) ∧
    (∃ (s : State) (m : Master) (a : BitVec 32) (cycle : Fin 499) (h : Hit) (v : ℕ), s.core.sys.pwr.porst = false ∧ m ≠
    Master.dma ∧ s.core.viewing m = false ∧ a.toNat < 16777216 ∧ (m = Master.spi → s.core.spiBars a.toNat false = false ∧
    makerOnly a.toNat = false) ∧ s.core.route a.toNat = Route.reg h ∧ h.r.pair = Pair.hi ∧ s.core.heldCopy m (a.toNat - 4) =
    some v) ∧
    (∃ (s : State) (m : Master) (a : BitVec 32) (h : Hit), s.core.sys.pwr.porst = false ∧ m ≠ Master.dma ∧ s.core.viewing m =
    false ∧ a.toNat < 16777216 ∧ (m = Master.spi → s.core.spiBars a.toNat false = false ∧ makerOnly a.toNat = false) ∧
    s.core.route a.toNat = Route.reg h ∧ h.p.blk = Blk.thm ∧ h.r.pair = Pair.none ∧ s.core.heldCopy m (a.toNat + 2) = none) ∧
    (∃ (s : State) (m : Master) (n : Fin 24), s.core.sys.pwr.porst = false ∧ m ≠ Master.dma ∧ s.core.viewing m = false ∧ (m =
    Master.spi → s.core.spiBars (1835072 + ↑n * 512) false = false ∧ makerOnly (1835072 + ↑n * 512) = false) ∧ s.core.on
    pdFABRIC = true ∧ s.core.heldCopy m (1835072 + ↑n * 512 + 2) = none) ∧
    (∃ (s : State) (m : Master) (epoch : Bool) (cycle : Fin 499), s.core.sys.pwr.porst = false ∧ m ≠ Master.dma ∧
    s.core.viewing m = false ∧ (m = Master.spi → s.core.spiBars (if epoch = true then 524324 else 524312) false = false ∧
    makerOnly (if epoch = true then 524324 else 524312) = false) ∧ s.core.on pdAON = true ∧ (s.core.heldCopy m ((if epoch =
    true then 524324 else 524312) + 2) = none) ∧ (0 ≤ if epoch = true then s.core.fix.epoch else s.core.time (min (↑cycle)
    s.core.lastCycle)) ∧ ((if epoch = true then s.core.fix.epoch else s.core.time (min (↑cycle) s.core.lastCycle)) < 2 ^ 48 *
    1000000000)) ∧
    (∃ (s : State) (m : Master) (n : Fin 8), s.core.sys.pwr.porst = false ∧ m ≠ Master.dma ∧ s.core.viewing m = false ∧ (m =
    Master.spi → s.core.spiBars (2359424 + ↑n * 1024) false = false ∧ makerOnly (2359424 + ↑n * 1024) = false) ∧ s.core.on
    pdMOTION = true ∧ s.core.heldCopy m (2359424 + ↑n * 1024 + 2) = none) :=
  ⟨⟨(up id), .app, 0x240008, 0, (hitOf ((fun (s : State) (a : BitVec 32) => s.core.route a.toNat) (up id) (0x240008))),
    (Option.get ((fun (h : Hit) => h.high) (hitOf ((fun (s : State) (a : BitVec 32) => s.core.route a.toNat) (up id)
    (0x240008)))) (by decide +kernel)), by decide +kernel, by decide +kernel, by decide +kernel, by decide +kernel,
    by decide +kernel, by decide +kernel, by decide +kernel, (Option.some_get _).symm, by decide +kernel⟩,
   ⟨(up fun c => { wr Reg.THM_SHUTDOWNS_count 5 (wr Reg.THM_STICKY_sat 3 c) with hold := [(.app, 0x240080, 7), (.app, 0x240008, 9), (.spi, 0x80008, 3)] }),
    .app, 0x240084, 0, (hitOf ((fun (s : State) (a : BitVec 32) => s.core.route a.toNat) (up fun c => { wr Reg.THM_SHUTDOWNS_count 5 (wr Reg.THM_STICKY_sat 3 c) with hold := [(.app, 0x240080, 7), (.app, 0x240008, 9), (.spi, 0x80008, 3)] })
    (0x240084))), ((7)), by decide +kernel⟩,
   ⟨(up id), .app, 0x20008, (hitOf ((fun (s : State) (a : BitVec 32) => s.core.route a.toNat) (up id) (0x20008))),
    by decide +kernel⟩,
   ⟨(up id), .app, 0, by decide +kernel⟩,
   ⟨(up id), .app, true, 0, by decide +kernel⟩,
   ⟨(up id), .app, 0, by decide +kernel⟩⟩

/-- The hypotheses of each clause of `TableWindows` are met together. -/
theorem witness_TableWindows :
    (∃ (s : State) (m : Master) (a : BitVec 32) (v : BitVec 32), s.core.sys.pwr.porst = false ∧ 16777216 ≤ a.toNat ∧ (m =
    Master.spi → s.core.spiBars a.toNat true = false) ∧ 39845888 ≤ a.toNat ∧ a.toNat < 40370176) ∧
    (∃ (s : State) (m : Master) (a : BitVec 32) (v : BitVec 32), s.core.sys.pwr.porst = false ∧ 16777216 ≤ a.toNat ∧ (m =
    Master.spi → s.core.spiBars a.toNat true = false) ∧ winOf a.toNat = none) ∧
    (∃ (s : State) (m : Master) (a : BitVec 32) (v : BitVec 32) (w : Win), s.core.sys.pwr.porst = false ∧ 16777216 ≤ a.toNat
    ∧ (m = Master.spi → s.core.spiBars a.toNat true = false) ∧ winOf a.toNat = some w ∧ s.core.on w.dom = false) ∧
    (∃ (s : State) (m : Master) (a : BitVec 32) (v : BitVec 32) (w : Win), s.core.sys.pwr.porst = false ∧ 16777216 ≤ a.toNat
    ∧ (m = Master.spi → s.core.spiBars a.toNat true = false) ∧ winOf a.toNat = some w ∧ s.core.on w.dom = true ∧ a.toNat % 4
    ≠ 0) ∧
    (∃ (s : State) (m : Master) (a : BitVec 32) (v : BitVec 32) (w : Win), s.core.sys.pwr.porst = false ∧ 16777216 ≤ a.toNat
    ∧ (m = Master.spi → s.core.spiBars a.toNat true = false) ∧ winOf a.toNat = some w ∧ s.core.on w.dom = true ∧ a.toNat % 4
    = 0 ∧ s.core.winBusy w = true) ∧
    (∃ (s : State) (m : Master) (a : BitVec 32) (v : BitVec 32) (w : Win), s.core.sys.pwr.porst = false ∧ 16777216 ≤ a.toNat
    ∧ (m = Master.spi → s.core.spiBars a.toNat true = false) ∧ winOf a.toNat = some w ∧ s.core.on w.dom = true ∧ a.toNat % 4
    = 0 ∧ (∃ off, w = Win.owner off)) ∧
    (∃ (s : State) (m : Master) (a : BitVec 32) (v : BitVec 32) (w : Win), s.core.sys.pwr.porst = false ∧ 16777216 ≤ a.toNat
    ∧ (m = Master.spi → s.core.spiBars a.toNat true = false) ∧ winOf a.toNat = some w ∧ s.core.on w.dom = true ∧ a.toNat % 4
    = 0 ∧ s.core.winBusy w = false ∧ ((∃ n off, w = Win.temp n off) ∨ ∃ n off, w = Win.fpn n off)) :=
  ⟨⟨(up id), .app, 0x02600000, 0x1000000, by decide +kernel⟩,
   ⟨(up id), .app, 0x01610000, 0x01600000, by decide +kernel⟩,
   ⟨(up (showDomains 0x1)), .app, 0x1000000, 0x1000000, ((Sys2Proof.Machine.Win.grid 0 0)), by decide +kernel⟩,
   ⟨(up id), .app, 0x1000001, 0x1000000, ((Sys2Proof.Machine.Win.grid 0 1)), by decide +kernel⟩,
   ⟨(up fun c => { c with host.commits := [⟨1, 0, true, false, []⟩] }), .app, 0x01900000, 0x1000000,
    ((Sys2Proof.Machine.Win.temp 0 0)), by decide +kernel⟩,
   ⟨(up id), .app, 0x01600000, 0x01600000, ((Sys2Proof.Machine.Win.owner 0)), by decide +kernel, by decide +kernel,
    by decide +kernel, by decide +kernel, by decide +kernel, by decide +kernel, ⟨_, rfl⟩⟩,
   ⟨(up id), .app, 0x01900000, 0x1000000, ((Sys2Proof.Machine.Win.temp 0 0)), by decide +kernel, by decide +kernel,
    by decide +kernel, by decide +kernel, by decide +kernel, by decide +kernel, by decide +kernel, .inl ⟨_, _, rfl⟩⟩⟩

/-- The hypotheses of each clause of `HeadLinkWrites` are met together. -/
theorem witness_HeadLinkWrites :
    (∃ (s : State) (m : Master) (lane : Fin 52) (value : Word) (l : Link), ↑lane < 48 ∧ ↑lane % 2 = 0 ∧ Chip.lets m (laneDom
    ↑lane) (1310784 + ↑lane * 1024) true s.core ∧ s.core.flag (Reg.GLK_MBX_CMD_busy ↑lane) = false ∧ (BitVec.toNat value /
    65536 % 256 = 1 ∧ (BitVec.toNat value % 65536 < 16 ∨ 31 < BitVec.toNat value % 65536) ∨ BitVec.toNat value / 65536 % 256
    = 2) ∧ s.core.beam.links[↑lane / 2]? = some l) ∧
    (∃ (s : State) (m : Master) (lane : Fin 52) (value : Word) (l : Lane), Chip.lets m (laneDom ↑lane) (1310720 + ↑lane *
    1024) true s.core ∧ BitVec.toNat value / 65536 % 16 ≠ 0 ∧ s.core.beam.lanes[↑lane]? = some l ∧ (s.core.flag
    (Reg.GLK_CTL_enable ↑lane) = true → BitVec.toNat value / 256 % 2 = s.core.rd (Reg.GLK_CTL_polarity ↑lane) ∧ (↑lane % 2 =
    0 → BitVec.toNat value / 2 % 4 = s.core.rd (Reg.GLK_CTL_rate ↑lane)))) ∧
    (∃ (s : State) (m : Master) (lane : Fin 52) (value : Word), Chip.lets m (laneDom ↑lane) (1310848 + ↑lane * 1024) true
    s.core ∧ BitVec.toNat value % 8 ≤ 5 ∧ BitVec.toNat value / 16 % 4 ≤ 1 ∧ 10 ≤ BitVec.toNat value / 256 % 32 ∧ BitVec.toNat
    value / 256 % 32 ≤ 30 ∧ (BitVec.toNat value % 8 ≠ 0 → s.core.laneBusy ↑lane = none) ∧ bit (BitVec.toNat value) 16 = false
    ∧ s.core.roomToLog) ∧
    (∃ (s : State) (m : Master) (lane : Fin 52) (value : Word) (l : Lane), ↑lane < 48 ∧ ↑lane % 2 = 0 ∧ Chip.lets m (laneDom
    ↑lane) (1310848 + ↑lane * 1024) true s.core ∧ s.core.flag (Reg.GLK_TEST_mode ↑lane) = false ∧ BitVec.toNat value % 8 = 0
    ∧ BitVec.toNat value / 16 % 4 ≤ 1 ∧ 10 ≤ BitVec.toNat value / 256 % 32 ∧ BitVec.toNat value / 256 % 32 ≤ 30 ∧ bit
    (BitVec.toNat value) 16 = true ∧ s.core.chState (↑lane / 2) = 0 ∧ s.core.beam.lanes[↑lane]? = some l) :=
  ⟨⟨(up id), .app, 0, 0x10000, (Option.get ((fun (s : State) (lane : Fin 52) => s.core.beam.links[↑lane / 2]?) (up id) (0))
    (by decide +kernel)), by decide +kernel⟩,
   ⟨(up id), .app, 0, 0x10000, (Option.get ((fun (s : State) (lane : Fin 52) => s.core.beam.lanes[↑lane]?) (up id) (0))
    (by decide +kernel)), by decide +kernel⟩,
   ⟨(up id), .app, 0, 0x000A03, by decide +kernel⟩,
   ⟨(up id), .app, 0, 0x010A00, (Option.get ((fun (s : State) (lane : Fin 52) => s.core.beam.lanes[↑lane]?) (up id) (0))
    (by decide +kernel)), by decide +kernel⟩⟩

/-- The hypotheses of each clause of `Claim.SieveWrites`, a part of `ImageAndLoopWrites`, are met together. -/
theorem witness_SieveWrites :
    (∃ (s : State) (m : Master) (sieve : Fin 2) (ctx : Fin 32) (value : Word) (i : Instr) (x : Ctx), (i = Instr.svaFaultClear
    m sieve ctx value ∨ i = Instr.svaFpnCommit m sieve ctx value) ∧ Chip.lets m (sieveDom ↑sieve) (svAddr (↑sieve) (↑ctx) 20)
    true s.core ∧ s.core.img.ctxs[↑ctx]? = some x) ∧
    (∃ (s : State) (m : Master) (sieve : Fin 2) (ctx : Fin 32) (value : Word) (off : BitVec 16) (h : Hit), 24 ≤ off.toNat %
    2048 ∧ off.toNat % 2048 ≤ 52 ∧ Chip.lets m (sieveDom ↑sieve) (svAddr (↑sieve) (↑ctx) off.toNat) true s.core ∧
    s.core.route (svAddr (↑sieve) (↑ctx) off.toNat) = Route.reg h ∧ h.reservedValue (BitVec.toNat value) = false) ∧
    (∃ (s : State) (m : Master) (sieve : Fin 2) (ctx : Fin 32) (value : Word), ↑ctx < 24 ∧ Chip.lets m (sieveDom ↑sieve)
    (svAddr (↑sieve) (↑ctx) 128) true s.core ∧ Chip.lets m (sieveDom ↑sieve) (svAddr (↑sieve) (↑ctx) 132) true s.core ∧
    s.core.svOf ↑ctx = ↑sieve ∧ 100 ≤ BitVec.toNat value ∧ BitVec.toNat value + 100 ≤ s.core.rd (Reg.SVX_PERIOD_beats ↑sieve
    ↑ctx) * 250) ∧
    (∃ (s : State) (m : Master) (sieve : Fin 2) (ctx : Fin 32) (value : Word), ↑ctx < 24 ∧ Chip.lets m (sieveDom ↑sieve)
    (svAddr (↑sieve) (↑ctx) 128) true s.core ∧ Chip.lets m (sieveDom ↑sieve) (svAddr (↑sieve) (↑ctx) 132) true s.core ∧
    s.core.svOf ↑ctx = ↑sieve) :=
  ⟨⟨(up id), .app, 0, 0, 2, (.svaFpnCommit .app 0 0 2), (Option.get ((fun (s : State) (ctx : Fin 32) =>
    s.core.img.ctxs[↑ctx]?) (up id) (0)) (by decide +kernel)), by decide +kernel⟩,
   ⟨(up id), .app, 0, 0, 0, 0x18, (hitOf ((fun (s : State) (sieve : Fin 2) (ctx : Fin 32) (off : BitVec 16) => s.core.route
    (svAddr (↑sieve) (↑ctx) off.toNat)) (up id) (0) (0) (0x18))), by decide +kernel⟩,
   ⟨(up id), .app, 0, 0, 100, by decide +kernel⟩,
   ⟨(up id), .app, 0, 0, 0, by decide +kernel⟩⟩

/-- The hypotheses of each clause of `Claim.LadleWrites`, a part of `ImageAndLoopWrites`, are met together. -/
theorem witness_LadleWrites :
    (∃ (s : State) (m : Master) (ch : Fin 24) (value : Word) (i : Instr) (e : Ladle), (i = Instr.ladRcSwitchIn m ch value ∨ i
    = Instr.ladRcSwitchOut m ch value) ∧ Chip.lets m (chanDom ↑ch) (2097172 + ↑ch * 8192) true s.core ∧ s.core.lad[↑ch]? =
    some e ∧ e.loops.length = 3 ∧ (∀ l < 3, ¬(bit (BitVec.toNat value) l = true ∧ bit (BitVec.toNat value) (4 + l) = true) ∧
    (bit (BitVec.toNat value) l = true ∨ bit (BitVec.toNat value) (4 + l) = true → s.core.ucode (↑ch) l ≠ 0))) ∧
    (∃ (s : State) (m : Master) (ch : Fin 24) (value : Word) (i : Instr) (e : Ladle) (l : ℕ), (i = Instr.ladRcSwitchIn m ch
    value ∨ i = Instr.ladRcSwitchOut m ch value) ∧ Chip.lets m (chanDom ↑ch) (2097172 + ↑ch * 8192) true s.core ∧
    s.core.lad[↑ch]? = some e ∧ e.loops.length = 3 ∧ l < 3 ∧ (bit (BitVec.toNat value) l = true ∧ bit (BitVec.toNat value) (4
    + l) = true ∨ (bit (BitVec.toNat value) l = true ∨ bit (BitVec.toNat value) (4 + l) = true) ∧ s.core.ucode (↑ch) l = 0))
    ∧
    (∃ (s : State) (m : Master) (ch : Fin 24) (value : Word), Chip.lets m (chanDom ↑ch) (2097152 + ↑ch * 8192) true s.core ∧
    s.core.inJob ↑ch = false ∧ BitVec.toNat value % 4 ≤ 2 ∧ BitVec.toNat value / 16 % 4 ≤ 2 ∧ BitVec.toNat value / 256 % 4 ≤
    2) ∧
    (∃ (s : State) (m : Master) (ch : Fin 24) (value : Word) (off : BitVec 16) (h : Hit), 256 ≤ off.toNat % 8192 ∧ off.toNat
    % 8192 < 1792 ∧ Chip.lets m (chanDom ↑ch) (2097152 + ↑ch * 8192 + off.toNat % 8192) true s.core ∧ s.core.route (2097152 +
    ↑ch * 8192 + off.toNat % 8192) = Route.reg h ∧ h.r.pair = Pair.none ∧ s.core.inJob ↑ch = false ∧ h.reservedValue
    (BitVec.toNat value) = false) :=
  ⟨⟨(up id), .app, 0, 0, (.ladRcSwitchIn .app 0 0), (Option.get ((fun (s : State) (ch : Fin 24) => s.core.lad[↑ch]?) (up id)
    (0)) (by decide +kernel)), by decide +kernel⟩,
   ⟨(up id), .app, 0, 1, (.ladRcSwitchIn .app 0 1), (Option.get ((fun (s : State) (ch : Fin 24) => s.core.lad[↑ch]?) (up id)
    (0)) (by decide +kernel)), 0, by decide +kernel⟩,
   ⟨(up id), .app, 0, 0, by decide +kernel⟩,
   ⟨(up id), .app, 0, 0, 0x104, (hitOf ((fun (s : State) (ch : Fin 24) (off : BitVec 16) => s.core.route (2097152 + ↑ch *
    8192 + off.toNat % 8192)) (up id) (0) (0x104))), by decide +kernel⟩⟩

/-- The hypotheses of each clause of `MotionWrites` are met together. -/
theorem witness_MotionWrites :
    (∃ (s : State) (m : Master) (n : Fin 8) (value : Word) (f : Feedback), s.core.mot.pf[↑n]? = some f ∧ Chip.lets m pdMOTION
    (2359296 + ↑n * 1024) true s.core ∧ BitVec.toNat value / 65536 % 4 ≤ 2 ∧ s.core.flag (Reg.PF_CTL_enable ↑n) = false ∧ bit
    (BitVec.toNat value) 0 = true) ∧
    (∃ (s : State) (m : Master) (n : Fin 8) (value : Word) (u : Fin 4), Chip.lets m pdMOTION (2359552 + ↑n * 1024 + ↑u * 32)
    true s.core ∧ BitVec.toNat value / 16 % 8 = 2) ∧
    (∃ (s : State) (m : Master) (n : Fin 8) (value : Word) (u : Fin 4), Chip.lets m pdMOTION (2359552 + ↑n * 1024 + ↑u * 32)
    true s.core ∧ s.core.flag (Reg.PF_CMP_CTL_gear_owned ↑n ↑u) = false ∧ BitVec.toNat value / 16 % 8 ≤ 3 ∧ BitVec.toNat
    value / 16 % 8 ≠ 2 ∧ BitVec.toNat value / 2 % 4 ≤ 2 ∧ s.core.roomToLog) ∧
    (∃ (s : State) (m : Master) (n : Fin 8) (value : Word) (k : Fin 4) (x : Emu), s.core.mot.emu[↑k]? = some x ∧ Chip.lets m
    pdMOTION (2367488 + ↑k * 64) true s.core ∧ BitVec.toNat value / 256 % 4 ≤ 2 ∧ s.core.flag (Reg.PF_EMU_CTL_enable ↑k) =
    false ∧ bit (BitVec.toNat value) 0 = true) ∧
    (∃ (s : State) (m : Master) (n : Fin 8) (value : Word) (k : Fin 4) (x : Emu), s.core.mot.emu[↑k]? = some x ∧ Chip.lets m
    pdMOTION (2367488 + ↑k * 64) true s.core ∧ BitVec.toNat value / 256 % 4 ≤ 2 ∧ s.core.flag (Reg.PF_EMU_CTL_enable ↑k) =
    true ∧ bit (BitVec.toNat value) 0 = false ∧ BitVec.toNat value / 16 % 8 = s.core.rd (Reg.PF_EMU_CTL_source ↑k) ∧
    BitVec.toNat value / 256 % 4 = s.core.rd (Reg.PF_EMU_CTL_z_mode ↑k)) ∧
    (∃ (s : State) (m : Master) (n : Fin 8) (value : Word) (x : Axis), s.core.mot.ax[↑n]? = some x ∧ Chip.lets m pdMOTION
    (2424832 + ↑n * 2048) true s.core ∧ BitVec.toNat value / 16 % 16 ≤ 8 ∧ s.core.flag (Reg.AX_CTL_enable ↑n) = false ∧ bit
    (BitVec.toNat value) 0 = true) ∧
    (∃ (s : State) (m : Master) (n : Fin 8) (value : Word) (x : Axis), s.core.mot.ax[↑n]? = some x ∧ Chip.lets m pdMOTION
    (2424832 + ↑n * 2048) true s.core ∧ BitVec.toNat value / 16 % 16 ≤ 8 ∧ s.core.flag (Reg.AX_CTL_enable ↑n) = true ∧ bit
    (BitVec.toNat value) 0 = false ∧ BitVec.toNat value / 16 % 16 = s.core.rd (Reg.AX_CTL_ustep_log2 ↑n) ∧ BitVec.toNat value
    / 2 % 2 = s.core.rd (Reg.AX_CTL_mode ↑n) ∧ x.home = none) :=
  ⟨⟨(up id), .app, 0, 1, (Option.get ((fun (s : State) (n : Fin 8) => s.core.mot.pf[↑n]?) (up id) (0)) (by decide +kernel)),
    by decide +kernel⟩,
   ⟨(up id), .app, 0, 0x21, 0, by decide +kernel⟩,
   ⟨(up id), .app, 0, 0, 0, by decide +kernel⟩,
   ⟨(up id), .app, 0, 1, 0, (Option.get ((fun (s : State) (k : Fin 4) => s.core.mot.emu[↑k]?) (up id) (0))
    (by decide +kernel)), by decide +kernel⟩,
   ⟨(up (fun c => c |> wr (Reg.PF_POS_LO_pos 0) 1000 |> wr (Reg.PF_EMU_RATIO_num 0) 3 |> wr (Reg.PF_EMU_RATIO_den 0) 7 |> wrB
    (Reg.PF_EMU_CTL_enable 3) true |> wrB (Reg.AX_CTL_enable 3) true |> wr (Reg.AX_STATUS_state 3) 2 |> wr
    (Reg.AX_CTL_ustep_log2 3) 0 |> wrB (Reg.AX_CTL_mode 3) true)), .app, 0, 0, 3, (Option.get ((fun (s : State) (k : Fin 4)
    => s.core.mot.emu[↑k]?) (up (fun c => c |> wr (Reg.PF_POS_LO_pos 0) 1000 |> wr (Reg.PF_EMU_RATIO_num 0) 3 |> wr
    (Reg.PF_EMU_RATIO_den 0) 7 |> wrB (Reg.PF_EMU_CTL_enable 3) true |> wrB (Reg.AX_CTL_enable 3) true |> wr
    (Reg.AX_STATUS_state 3) 2 |> wr (Reg.AX_CTL_ustep_log2 3) 0 |> wrB (Reg.AX_CTL_mode 3) true)) (3)) (by decide +kernel)),
    by decide +kernel⟩,
   ⟨(up id), .app, 0, 1, (Option.get ((fun (s : State) (n : Fin 8) => s.core.mot.ax[↑n]?) (up id) (0)) (by decide +kernel)),
    by decide +kernel⟩,
   ⟨(up (fun c => c |> wr (Reg.PF_POS_LO_pos 0) 1000 |> wr (Reg.PF_EMU_RATIO_num 0) 3 |> wr (Reg.PF_EMU_RATIO_den 0) 7 |> wrB
    (Reg.PF_EMU_CTL_enable 3) true |> wrB (Reg.AX_CTL_enable 3) true |> wr (Reg.AX_STATUS_state 3) 2 |> wr
    (Reg.AX_CTL_ustep_log2 3) 0 |> wrB (Reg.AX_CTL_mode 3) true)), .app, 3, 2, (Option.get ((fun (s : State) (n : Fin 8) =>
    s.core.mot.ax[↑n]?) (up (fun c => c |> wr (Reg.PF_POS_LO_pos 0) 1000 |> wr (Reg.PF_EMU_RATIO_num 0) 3 |> wr
    (Reg.PF_EMU_RATIO_den 0) 7 |> wrB (Reg.PF_EMU_CTL_enable 3) true |> wrB (Reg.AX_CTL_enable 3) true |> wr
    (Reg.AX_STATUS_state 3) 2 |> wr (Reg.AX_CTL_ustep_log2 3) 0 |> wrB (Reg.AX_CTL_mode 3) true)) (3)) (by decide +kernel)),
    by decide +kernel⟩⟩

/-- The hypotheses of each clause of `MemoryAndSluiceWrites` are met together. -/
theorem witness_MemoryAndSluiceWrites :
    (∃ (s : State) (m : Master) (value : Word) (n : Fin 2) (h : DramCh), s.core.mem.ch[↑n]? = some h ∧ Chip.lets m pdDRAM
    (2621444 + ↑n * 32768) true s.core ∧ bit (BitVec.toNat value) 0 = true ∧ s.core.roomToLog) ∧
    (∃ (s : State) (m : Master) (value : Word) (n : Fin 64) (x : DmaCh), s.core.mem.dma[↑n]? = some x ∧ Chip.lets m pdFABRIC
    (2691072 + ↑n * 256) true s.core ∧ (∀ (j : ℕ), j ≠ ↑n → s.core.dma j = DmaCh.init) ∧ BitVec.toNat value / 65536 % 256 ≠ 0
    ∧ BitVec.toNat value / 256 % 32 ≤ 16 ∧ bit (BitVec.toNat value) 0 = true ∧ bit (BitVec.toNat value) 1 = false ∧
    s.core.dmaState ↑n ≠ 1 ∧ s.core.dmaState ↑n ≠ 2 ∧ s.core.dmaWin (↑n) (↑(s.core.rdAddr (Reg.DMA_DESC_LO_addr ↑n)
    (Reg.DMA_DESC_HI_addr ↑n))) 64 = true) ∧
    (∃ (s : State) (m : Master) (value : Word) (n : Fin 64) (x : DmaCh), s.core.mem.dma[↑n]? = some x ∧ Chip.lets m pdFABRIC
    (2691072 + ↑n * 256) true s.core ∧ (∀ (j : ℕ), j ≠ ↑n → s.core.dma j = DmaCh.init) ∧ BitVec.toNat value / 65536 % 256 ≠ 0
    ∧ BitVec.toNat value / 256 % 32 ≤ 16 ∧ bit (BitVec.toNat value) 0 = false ∧ bit (BitVec.toNat value) 1 = true ∧
    s.core.dmaState ↑n = 1 ∧ x.bursts = [] ∧ BitVec.toNat value / 16777216 % 16 = s.core.rd (Reg.DMA_CTL_retry ↑n) ∧
    BitVec.toNat value / 65536 % 256 = s.core.rd (Reg.DMA_CTL_blocks ↑n) ∧ BitVec.toNat value / 256 % 32 = s.core.rd
    (Reg.DMA_CTL_req_src ↑n) ∧ BitVec.toNat value / 16 % 4 = s.core.rd (Reg.DMA_CTL_prio ↑n)) ∧
    (∃ (s : State) (m : Master) (value : Word), Chip.lets m pdFABRIC 1179696 true s.core) ∧
    (∃ (s : State) (m : Master) (value : Word), Chip.lets m pdFABRIC 1179712 true s.core ∧ BitVec.toNat value / 4 % 4 ≤ 2 ∧
    (s.core.jobBusy = true → BitVec.toNat value / 16 % 8 = s.core.rd Reg.SLB_RC_CTL_source ∧ BitVec.toNat value / 2 % 2 =
    s.core.rd Reg.SLB_RC_CTL_axis ∧ BitVec.toNat value % 2 = s.core.rd Reg.SLB_RC_CTL_enable)) :=
  ⟨⟨(up id), .app, 1, 0, (Option.get ((fun (s : State) (n : Fin 2) => s.core.mem.ch[↑n]?) (up id) (0)) (by decide +kernel)),
    by decide +kernel⟩,
   ⟨(up id), .app, 0x10001, 0, (Option.get ((fun (s : State) (n : Fin 64) => s.core.mem.dma[↑n]?) (up id) (0))
    (by decide +kernel)), by decide +kernel, by decide +kernel, dma_else _ _ (by decide +kernel), by decide +kernel,
    by decide +kernel, by decide +kernel, by decide +kernel, by decide +kernel, by decide +kernel, by decide +kernel⟩,
   ⟨(dmaUp (fun x => x) (wr (Reg.DMA_CTL_blocks 63) 1)), .app, 0x3010002, 63, (Option.get ((fun (s : State) (n : Fin 64) =>
    s.core.mem.dma[↑n]?) (dmaUp (fun x => x) (wr (Reg.DMA_CTL_blocks 63) 1)) (63)) (by decide +kernel)), by decide +kernel,
    by decide +kernel, dma_else _ _ (by decide +kernel), by decide +kernel, by decide +kernel, by decide +kernel,
    by decide +kernel, by decide +kernel, by decide +kernel, by decide +kernel, by decide +kernel, by decide +kernel,
    by decide +kernel⟩,
   ⟨(up id), .app, 0, by decide +kernel⟩,
   ⟨(up id), .app, 0, by decide +kernel⟩⟩

/-- The hypotheses of each clause of `Claim.ManagementWrites`, a part of `SystemWrites`, are met together. -/
theorem witness_ManagementWrites :
    (∃ (s : State) (m : Master) (value : Word), Chip.lets m pdAON 262192 true s.core) ∧
    (∃ (s : State) (m : Master) (value : Word), Chip.lets m pdAON 262188 true s.core) ∧
    (∃ (s : State) (m : Master) (value : Word) (cycle : Fin 499), Chip.lets m pdAON 65548 true s.core ∧ BitVec.toNat value %
    65536 = 22354) ∧
    (∃ (s : State) (m : Master) (value : Word) (cycle : Fin 499), Chip.lets m pdAON 65548 true s.core ∧ BitVec.toNat value %
    65536 ≠ 22354) ∧
    (∃ (s : State) (m : Master) (value : Word), Chip.lets m pdAON 65568 true s.core ∧ 10 ≤ BitVec.toNat value % 65536 ∧
    BitVec.toNat value % 65536 ≤ 60000 ∧ m = Master.mgmt) ∧
    (∃ (s : State) (m : Master) (value : Word), Chip.lets m pdAON 65568 true s.core ∧ 10 ≤ BitVec.toNat value % 65536 ∧
    BitVec.toNat value % 65536 ≤ 60000 ∧ m ≠ Master.mgmt) ∧
    (∃ (s : State) (m : Master) (value : Word) (k : Fin 256), Chip.lets m pdAON (462848 + ↑k * 4) true s.core ∧ s.core.rd
    Reg.MGT_BOOT_STATUS_state = 2 ∧ s.core.rd Reg.MGT_LOAD_BASE_offset * 4 + 4 * ↑k + 4 ≤ 4194304) ∧
    (∃ (s : State) (m : Master) (value : Word), Chip.lets m pdAON 458756 true s.core ∧ m = Master.spi ∧ bit (BitVec.toNat
    value) 8 = true) ∧
    (∃ (s : State) (m : Master) (value : Word), Chip.lets m pdAON 458756 true s.core ∧ bit (BitVec.toNat value) 0 = true ∧ (m
    = Master.spi → bit (BitVec.toNat value) 8 = false) ∧ s.core.rd Reg.MGT_BOOT_STATUS_state = 2) ∧
    (∃ (s : State) (m : Master) (value : Word), Chip.lets m pdAON 458756 true s.core ∧ bit (BitVec.toNat value) 0 = true ∧ (m
    = Master.spi → bit (BitVec.toNat value) 8 = false) ∧ s.core.rd Reg.MGT_BOOT_STATUS_state ≠ 2) ∧
    (∃ (s : State) (m : Master) (value : Word), Chip.lets m pdAON 458816 true s.core) :=
  ⟨⟨(up id), .app, 0, by decide +kernel⟩,
   ⟨(up id), .app, 0, by decide +kernel⟩,
   ⟨(up id), .app, 0x5752, 0, by decide +kernel⟩,
   ⟨(up id), .app, 0, 0, by decide +kernel⟩,
   ⟨(up id), .mgmt, 0x101, by decide +kernel⟩,
   ⟨(up id), .app, 0x101, by decide +kernel⟩,
   ⟨(up (fun c => { wr Reg.MGT_BOOT_STATUS_state 2 (wrB Reg.SNP_STATUS_held true c) with fix.beat := 100#64 } |> wrB
    (Reg.MGT_IMG_INFO_verified 0) true |> modPwr fun p => { p with wdtKick := some 0, warmAt := some 7 })), .app, 0, 0,
    by decide +kernel⟩,
   ⟨(up id), .spi, 0x101, by decide +kernel⟩,
   ⟨(up (fun c => { wr Reg.MGT_BOOT_STATUS_state 2 (wrB Reg.SNP_STATUS_held true c) with fix.beat := 100#64 } |> wrB
    (Reg.MGT_IMG_INFO_verified 0) true |> modPwr fun p => { p with wdtKick := some 0, warmAt := some 7 })), .app, 1,
    by decide +kernel⟩,
   ⟨(up id), .app, 1, by decide +kernel⟩,
   ⟨(up id), .app, 0, by decide +kernel⟩⟩

/-- The hypotheses of each clause of `Claim.DomainWrites`, a part of `SystemWrites`, are met together. -/
theorem witness_DomainWrites :
    (∃ (s : State) (m : Master) (value : Word), Chip.lets m pdAON 65572 true s.core ∧ BitVec.toNat value % 2 = 0 ∧
    s.core.sys.pwr.sw = [] ∧ s.core.sys.pwr.later = none ∧ s.core.sys.pwr.reset = none ∧ bit (BitVec.toNat value) 16 = false
    ∧ bit (BitVec.toNat value) 17 = false ∧ (bit (BitVec.toNat value % 4096) pdAPP = true → s.core.sys.mgt.running.isSome =
    true) ∧ s.core.parentOff (BitVec.toNat value % 4096) = none ∧ (∃ d < 12, bit (BitVec.toNat value % 4096) d = true ∧
    s.core.shown d = false)) ∧
    (∃ (s : State) (m : Master) (value : Word) (i : Instr), Chip.lets m pdAON 65572 true s.core ∧ BitVec.toNat value % 2 = 0
    ∧ (i = Instr.pwrDomOff m value ∧ bit (BitVec.toNat value) 17 = false ∧ bit (BitVec.toNat value) 16 = true ∨ i =
    Instr.pwrDomForced m value ∧ bit (BitVec.toNat value) 17 = true) ∧ s.core.sys.pwr.sw = [] ∧ s.core.sys.pwr.later = none ∧
    s.core.sys.pwr.reset = none ∧ s.core.offList (BitVec.toNat value % 4096) ≠ []) ∧
    (∃ (s : State) (m : Master) (value : Word) (i : Instr), Chip.lets m pdAON 65572 true s.core ∧ BitVec.toNat value % 2 = 0
    ∧ s.core.sys.pwr.sw ≠ [] ∧ (bit (BitVec.toNat value) 17 = false ∨ ∀ w ∈ s.core.sys.pwr.sw, w.act = 0) ∧ (i =
    Instr.pwrDomOn m value ∨ i = Instr.pwrDomOff m value ∨ i = Instr.pwrDomForced m value)) :=
  ⟨⟨(up (showDomains 0x001)), .app, 2, by decide +kernel⟩,
   ⟨(up id), .app, 0x10002, (.pwrDomOff .app 0x10002), by decide +kernel⟩,
   ⟨(up (fun c => modPwr (fun p => { p with sw := [⟨3, 1, none⟩] }) c)), .app, 2, (.pwrDomOn .app 2), by decide +kernel⟩⟩

/-- The hypotheses of each clause of `DmaReachesNoRegister` are met together. -/
theorem witness_DmaReachesNoRegister :
    ∃ (i : Instr) (a : ℕ) (s : State), s.core.sys.pwr.porst = false ∧ a < 16777216 ∧ (busReadOf i = some (Master.dma, a) ∨ ∃
    v, busWriteOf i = some (Master.dma, a, v)) :=
  ⟨(.genericRegWrite .dma 0x20 7), 32, (up id), by decide +kernel, by decide +kernel, .inr ⟨_, rfl⟩⟩

/-- The hypotheses of each clause of `OverviewSlots` are met together. -/
theorem witness_OverviewSlots :
    (∃ (a : ℕ) (v : ℕ) (c : Chip), 39845888 ≤ a ∧ a < 40370176) ∧
    (∃ (a : ℕ) (v : ℕ) (c : Chip), 39845888 ≤ a ∧ a < 40370176) ∧
    (∃ (n : Fin 32) (c : Chip) (x : Ctx) (w : ℕ) (px : ℕ) (py : ℕ), (↑n = 24 ∨ ↑n = 25) ∧ c.img.ctxs[↑n]? = some x ∧
    x.fpnWait = true) :=
  ⟨⟨39845888, 39845888, upChip, by decide +kernel⟩,
   ⟨39845888, 39845888, upChip, by decide +kernel⟩,
   ⟨24, ((ctxUp 24 (fun x => { x with fpnWait := true })).core), (Option.get ((fun (n : Fin 32) (c : Chip) =>
    c.img.ctxs[↑n]?) (24) ((ctxUp 24 (fun x => { x with fpnWait := true })).core)) (by decide +kernel)), 39845888, 39845888,
    39845888, by decide +kernel⟩⟩

/-- The hypotheses of each clause of `PopulatedDram` are met together. -/
theorem witness_PopulatedDram :
    ∃ (c : Chip) (a : ℕ) (n : ℕ), c.on pdDRAM = true :=
  ⟨upChip, 0, 0, by decide +kernel⟩

/-- The hypotheses of each clause of `PortsStepAndEnvelopeComplete` are met together. -/
theorem witness_PortsStepAndEnvelopeComplete :
    (∃ (s : State) (p : Path) (bad : Bool), s.core.sys.pwr.porst = false ∧ s.core.portOn p = true) ∧
    (∃ (s : State) (p : Path) (target : BitVec 32) (mac : BitVec 48) (ip : BitVec 32), s.core.sys.pwr.porst = false ∧
    s.core.portOn p = true ∧ s.core.rd (Reg.NET_IP_ip p.code) = target.toNat ∧ target.toNat ≠ 0) ∧
    (∃ (s : State) (p : Path) (lock : Bool) (fault : Bool) (an : Bool), s.core.sys.pwr.porst = false ∧ s.core.portOn p =
    true) ∧
    (∃ (s : State) (o0 : ℤ) (t0 : ℤ) (x1 : ℤ × ℤ) (x2 : ℤ × ℤ) (o3 : ℤ) (t3 : ℤ) (l : List (ℤ × ℤ)), s.core.hears ∧
    s.core.timeState = 1 ∧ s.core.sys.net.servo.step = none ∧ s.core.running = none ∧ (∀ j ∈ s.core.host.jobs, ∀ (b : ℕ),
    j.st = 1 → j.start = some b → s.core.now + 4 < b) ∧ (s.core.port s.core.ctlPath).offsets = (o0, t0) :: x1 :: x2 :: (o3,
    t3) :: l ∧ t0 ≠ t3) ∧
    (∃ (s : State) (ns : ℕ) (d : ℕ) (m : ℤ) (k : ℤ), s.core.sys.pwr.porst = false ∧ s.core.sys.net.servo.step = some (ns, d,
    m, k) ∧ s.core.timeState = 1 ∧ ns < s.core.now) ∧
    (∃ (s : State) (o : Origin) (addr : BitVec 64) (len : BitVec 32), Chip.obeys o 1 s.core ∧ s.core.free ∧ s.core.on pdDRAM
    = true ∧ addr.toNat < 2 ^ 36 ∧ s.core.admitted = none ∧ s.core.running = none) ∧
    (∃ (s : State) (p : Pend) (addr : ℕ) (len : ℕ) (l : List (Pend × ℕ × ℕ)), s.core.sys.pwr.porst = false ∧
    s.core.host.sec.verify = (p, addr, len) :: l ∧ s.core.admitted = none ∧ s.core.running = none ∧ len ≤ 16384 ∧
    s.core.dramOk addr len = true ∧ s.core.envFault (s.core.dramRead addr len) = none) ∧
    (∃ (s : State) (p : Pend) (addr : ℕ) (len : ℕ) (l : List (Pend × ℕ × ℕ)) (reason : ℕ), s.core.sys.pwr.porst = false ∧
    s.core.host.sec.verify = (p, addr, len) :: l ∧ s.core.admitted = none ∧ s.core.running = none ∧ len ≤ 16384 ∧
    s.core.dramOk addr len = true ∧ s.core.envFault (s.core.dramRead addr len) = some reason ∧ s.core.roomToLog) ∧
    (∃ (s : State) (o : Origin), Chip.admits o 1 s.core) :=
  ⟨⟨(netUp id), .a, true, by decide +kernel⟩,
   ⟨(netUp (wr (Reg.NET_IP_ip 0) 8)), .a, 8#32, 0#48, 0#32, by decide +kernel⟩,
   ⟨(netUp id), .a, true, true, true, by decide +kernel⟩,
   ⟨(netUp (fun c => modPort .a (fun q => { q with master := some (9, 1), offsets := [(101, 4000), (102, 3000), (103,2000), (104,1000)] })
    (wr Reg.BT_STATUS_time_state 1 { c with fix.beat := 100000000#64 }))), ((101)), ((4000)), (((102, 3000))), (((103,
    2000))), ((104)), ((1000)), (([])), by decide +kernel, by decide +kernel, by decide +kernel, by decide +kernel, nil_all _
    (by decide +kernel), by decide +kernel, by decide +kernel⟩,
   ⟨(netUp (fun c => modServo (fun v => { v with step := some (99, 7, 12345678901250, 40) }) (wr Reg.BT_STATUS_time_state 1 { c with fix.beat := 100#64 }))),
    ((99)), ((7)), ((12345678901250)), ((40)), by decide +kernel⟩,
   ⟨(netUp id), oA, 4096#64, 0#32, by decide +kernel⟩,
   ⟨(up fun c => dramWrite 4096 signedEnv (rooted { c with host.sec.verify := [(⟨0,9,5,0x30⟩, 4096, 1356)] })), (({ slot := 0, sid := 9, seq := 5, op := 48 })),
    ((4096)), ((1356)), (([])), by decide +kernel, by decide +kernel, by decide +kernel, by decide +kernel,
    by decide +kernel, by decide +kernel, env_of_read 4096 1356 (by decide +kernel) (by decide +kernel) (by decide +kernel)⟩,
   ⟨(up fun c => dramWrite 4096 (List.replicate 1356 0) (rooted { c with host.sec.verify := [(⟨0,9,5,0x30⟩, 4096, 1356)] })),
    (({ slot := 0, sid := 9, seq := 5, op := 48 })), ((4096)), ((1356)), (([])), ((3)), by decide +kernel, by decide +kernel,
    by decide +kernel, by decide +kernel, by decide +kernel, by decide +kernel, env_of_read 4096 1356 (by decide +kernel)
    (by decide +kernel) (by decide +kernel), by decide +kernel⟩,
   ⟨(netUp id), oA, by decide +kernel⟩⟩

end Sys2Proof.Tests
end

section
/-! What an access on the register fabric leaves, said once: the command that makes it, its answer, and how far the
device that the command leaves can differ from the one its effect ends in. -/

namespace Sys2Proof.Machine

open Sys2Proof

/-! ### From the effect of a command to the device it leaves -/

/-- The device as an access finds it: nothing sent yet, the counter of free values at `n`. -/
def Chip.found (n : Nat) (c : Chip) : Chip := { c with out := [], fresh := n }

theorem found_spiBars (n a : Nat) (w : Bool) (c : Chip) : (c.found n).spiBars a w = c.spiBars a w := rfl
theorem found_winBusy (n : Nat) (w : Win) (c : Chip) : (c.found n).winBusy w = c.winBusy w := by cases w <;> rfl
theorem found_route (n a : Nat) (c : Chip) : (c.found n).route a = c.route a := rfl

theorem only_found {l : List Part} (hl : Part.fresh ∈ l) (n : Nat) (c : Chip) : Chip.only l c (c.found n) :=
  only_trans (only_out l c []) (only_fresh hl _ n)

/-- `e` is the device left by a command on `c` whose effect ends in `d`: BEAM_PERMIT may have fallen since, and the beat
counter, the epoch and the OTP are those of `c` (R40, R445, R513). -/
structure Chip.Leaves (c d e : Chip) : Prop where
  parts : Chip.only [] d e
  regs : Chip.regsKept [Reg.GIO_STATUS_permit] d e
  fix : e.fix = c.fix

theorem leaves_guarded {c : Chip} (hp : c.sys.pwr.porst = false) (f : Chip → Chip) :
    Chip.Leaves c (f { c with out := [] }) (guarded f c) where
  parts := by
    rw [guarded_run hp]
    exact only_trans (only_permitFall [] _) (only_fix [] _ _ _)
  regs := fun g hg => guarded_rd hp f (hg _ List.mem_cons_self)
  fix := guarded_fix f c

theorem leaves_send {c d e : Chip} {x : Tx} (h : Chip.Leaves c (send x d) e) : Chip.Leaves c d e :=
  ⟨only_trans (only_out [] d _) h.parts, h.regs, h.fix⟩

/-- A command whose effect ends in one packet sent: what it sends, which parts and registers it changes at most, and
what holds of the device it leaves. -/
theorem ends_sending {i : Instr} {s : State} {f : Chip → Chip} {x : Tx} {d : Chip} {parts : List Part} {regs : List Fld}
    {P : Chip → Prop} (he : exec i s = runs f s) (hp : s.core.sys.pwr.porst = false)
    (hf : f { s.core with out := [] } = send x d) (ho : d.out = []) (hparts : Chip.only parts s.core d)
    (hregs : Chip.regsKept (Reg.GIO_STATUS_permit :: regs) s.core d) (hP : ∀ e, Chip.Leaves s.core d e → P e) :
    Ends i s fun t => t.core.out = [x] ∧ Chip.only parts s.core t.core ∧
      Chip.regsKept (Reg.GIO_STATUS_permit :: regs) s.core t.core ∧ P t.core := by
  have hl : Chip.Leaves s.core d (guarded f s.core) := leaves_send (hf ▸ leaves_guarded hp f)
  refine ⟨_, he, ?_, only_trans hparts (only_mono hl.parts (List.nil_subset _)),
    regsKept_trans hregs (regsKept_mono hl.regs ?_), hP _ hl⟩
  · rw [guarded_out hp, hf]
    simp [send, ho]
  · simp

/-- A command whose effect answers an access and does nothing else but draw free values. -/
theorem ends_refused {i : Instr} {s : State} {f : Chip → Chip} {x : Tx} {n : Nat} (he : exec i s = runs f s)
    (hp : s.core.sys.pwr.porst = false) (hf : f { s.core with out := [] } = send x (s.core.found n)) :
    Ends i s fun t => t.core.out = [x] ∧ Chip.only [.fresh] s.core t.core ∧
      Chip.regsKept [Reg.GIO_STATUS_permit] s.core t.core := by
  obtain ⟨t, ht, hout, honly, hregs, -⟩ := ends_sending (P := fun _ => True) he hp hf rfl
    (only_found List.mem_cons_self n _) (fun _ _ => rfl) fun _ _ => trivial
  exact ⟨t, ht, hout, honly, hregs⟩

/-- A register write whose effect ends with OK. -/
theorem wrote_of_sending {i : Instr} {s : State} {m : Master} {f : Chip → Chip} {d : Chip} {parts : List Part}
    {regs : List Fld} {P : Chip → Prop} (he : exec i s = runs f s) (hp : s.core.sys.pwr.porst = false)
    (hf : f { s.core with out := [] } = send (.bus m .ok []) d) (ho : d.out = [])
    (hparts : Chip.only (.fresh :: parts) s.core d) (hregs : Chip.regsKept (Reg.GIO_STATUS_permit :: regs) s.core d)
    (hP : ∀ e, Chip.Leaves s.core d e → P e) : Wrote i s m parts regs P :=
  ends_sending he hp hf ho hparts hregs hP

/-! ### The commands that access registers -/

/-- A register write is a write of its master at its address, after the draw of an FCLK cycle where it names none. -/
theorem exec_busWriteOf {i : Instr} {m : Master} {a v : Nat} (hw : busWriteOf i = some (m, a, v)) (s : State) :
    ∃ f k n, exec i s = runs f s ∧ f { s.core with out := [] } = busWriteBy m a v k (s.core.found n) := by
  cases i <;> cases hw <;> exact ⟨_, _, _, rfl, rfl⟩

/-- A register read is a read of its master at its address, after the draw of an FCLK cycle where it names none. -/
theorem exec_busReadOf {i : Instr} {m : Master} {a : Nat} (hr : busReadOf i = some (m, a)) (s : State) :
    ∃ f k n, exec i s = runs f s ∧ f { s.core with out := [] } = busReadBy m a k (s.core.found n) := by
  cases i <;> cases hr <;> exact ⟨_, _, _, rfl, rfl⟩

/-! ### The DMA engine (R29) -/

theorem busWrite_dma {a : Nat} (ha : a < 0x1000000) (v k : Nat) (c : Chip) :
    busWrite .dma a v k c = ⟨.decodeErr, false, c⟩ := by
  simp [busWrite, Nat.not_le.2 ha]

theorem busRead_dma {a : Nat} (ha : a < 0x1000000) (k : Nat) (c : Chip) : busRead .dma a k c = (.decodeErr, 0, c) := by
  simp [busRead, Nat.not_le.2 ha]

/-- Settles O57: the DMA engine is turned away before the address is decoded, at a read and at a write. -/
theorem dmaReachesNoRegister : Obligations.DmaReachesNoRegister := by
  intro i a s hp ha h
  rcases h with hr | ⟨v, hw⟩
  · obtain ⟨f, k, n, he, hf⟩ := exec_busReadOf hr s
    exact ends_refused he hp (by rw [hf, busReadBy, busRead_dma ha]; rfl)
  · obtain ⟨f, k, n, he, hf⟩ := exec_busWriteOf hw s
    exact ends_refused he hp (by rw [hf, busWriteBy, busWrite_dma ha])

end Sys2Proof.Machine
end

section
/-! The table windows (R35–R37): what a write of a word answers in each case, and what it leaves in the window. -/

namespace Sys2Proof.Machine

open Sys2Proof

/-! ### Where the windows lie (R33, R35) -/

theorem addrMap_below_windows : ∀ r ∈ addrMap, r.fin ≤ 0x1000000 := by decide

theorem placeOf_window {a : Nat} (ha : 0x1000000 ≤ a) : placeOf a = none := by
  have hn : (addrMap.find? fun r => decide (r.base ≤ a) && decide (a < r.fin)) = none :=
    List.find?_eq_none.2 fun r hr => by
      have := addrMap_below_windows r hr
      simp
      omega
  simp [placeOf, hn]

theorem makerOnly_window {a : Nat} (ha : 0x1000000 ≤ a) : makerOnly a = false := by
  simp [makerOnly, placeOf_window ha]

theorem barred_window {a : Nat} (ha : 0x1000000 ≤ a) : barred a = false := by
  simp [barred]
  omega

theorem winOf_overviewSlot {a : Nat} (h1 : 0x02600000 ≤ a) (h2 : a < 0x02680000) : winOf a = none := by
  have hn : (a - 0x02000000) / 0x40000 = 24 ∨ (a - 0x02000000) / 0x40000 = 25 := by omega
  unfold winOf
  repeat rw [if_neg (by omega)]
  rw [if_pos (by omega), if_pos hn]

/-! ### Writes of a window (R26, R27, R32, R37) -/

theorem busWrite_window {m : Master} {a : Nat} {c : Chip} (ha : 0x1000000 ≤ a)
    (hs : m = .spi → c.spiBars a true = false) (v k : Nat) :
    busWrite m a v k c = ⟨(winWrite a v c).1, false, (winWrite a v c).2⟩ := by
  have hspi : (m = .spi ∧ (c.spiBars a true || makerOnly a || barred a) = true) = False :=
    eq_false fun ⟨hm, hb⟩ => by simp [hs hm, makerOnly_window ha, barred_window ha] at hb
  simp only [busWrite, hspi, if_false, ha, if_true]

theorem winWrite_none {a : Nat} (hw : winOf a = none) (v : Nat) (c : Chip) : winWrite a v c = (.decodeErr, c) := by
  simp [winWrite, hw]

section
variable {a : Nat} {w : Win} {c : Chip} (hw : winOf a = some w)
include hw

theorem winWrite_off (ho : c.on w.dom = false) (v : Nat) : winWrite a v c = (.targetOff, c) := by
  simp [winWrite, hw, ho]

theorem winWrite_misaligned (ho : c.on w.dom = true) (h4 : a % 4 ≠ 0) (v : Nat) : winWrite a v c = (.slaveErr, c) := by
  simp [winWrite, hw, ho, h4]

theorem winWrite_busy (ho : c.on w.dom = true) (h4 : a % 4 = 0) (hb : c.winBusy w = true) (v : Nat) :
    winWrite a v c = (.retry, c) := by
  simp [winWrite, hw, ho, h4, hb]

theorem winWrite_owner {off : Nat} (he : w = .owner off) (ho : c.on w.dom = true) (h4 : a % 4 = 0) (v : Nat) :
    winWrite a v c = (.slaveErr, c) := by
  subst he
  simp [winWrite, hw, ho, h4, Chip.winBusy]

theorem winRead_ready (ho : c.on w.dom = true) (h4 : a % 4 = 0) (hb : c.winBusy w = false) :
    winRead a c = (.ok, c.winWord a w) := by
  simp [winRead, hw, ho, h4, hb]

/-- A temperature or fixed-pattern table holds plain words, in one store of the device. -/
theorem winWrite_table (hk : (∃ n off, w = .temp n off) ∨ ∃ n off, w = .fpn n off) (ho : c.on w.dom = true)
    (h4 : a % 4 = 0) (hb : c.winBusy w = false) (v : Nat) :
    ∃ d0, winWrite a v c = (.ok, wrWord d0 a v c) ∧ ∀ e : Chip, e.winWord a w = e.word d0 a := by
  rcases hk with ⟨n, off, rfl⟩ | ⟨n, off, rfl⟩
  · exact ⟨0, by simp [winWrite, hw, ho, h4, hb], fun _ => rfl⟩
  · exact ⟨0x40000000, by simp [winWrite, hw, ho, h4, hb], fun _ => rfl⟩

end

/-! ### Words of the tables -/

theorem word_congr {c d : Chip} (h : d.tables = c.tables) (d0 x : Nat) : d.word d0 x = c.word d0 x := by
  simp [Chip.word, h]

theorem word_wrWord_same (d0 a v : Nat) (c : Chip) : (wrWord d0 a v c).word d0 a = v % 2 ^ 32 := storePut_same _ _ _ _

theorem word_wrWord_ne {a x : Nat} (h : x ≠ a) (d0 d1 v : Nat) (c : Chip) :
    (wrWord d0 a v c).word d1 x = c.word d1 x := by
  simp only [Chip.word, wrWord]
  rw [storePut_ne h]

theorem only_wrWord {l : List Part} (hl : Part.tables ∈ l) (d0 a v : Nat) (c : Chip) :
    Chip.only l c (wrWord d0 a v c) := by
  intro p hp
  cases p
  case tables => exact absurd hl hp
  all_goals simp [Chip.same, wrWord]

/-! ### What a command leaves of the conditions of an access -/

theorem leaves_on {c d e : Chip} (h : Chip.Leaves c d e) (k : Nat) : e.on k = d.on k := by
  have hr : e.rd Reg.TOP_DOMAIN_ON_on = d.rd Reg.TOP_DOMAIN_ON_on :=
    h.regs _ (by simp [Fld.key, Reg.TOP_DOMAIN_ON_on, Reg.GIO_STATUS_permit])
  have hs : e.sys = d.sys := h.parts .sys List.not_mem_nil
  simp only [Chip.on, Chip.shown, Chip.heldReset, hr, hs]

theorem leaves_winBusy {c d e : Chip} (h : Chip.Leaves c d e) (hd : d.fix = c.fix) (w : Win) :
    e.winBusy w = d.winBusy w := by
  have hh : e.host = d.host := h.parts .host List.not_mem_nil
  have hi : e.img = d.img := h.parts .img List.not_mem_nil
  cases w <;> simp only [Chip.winBusy, Chip.now, hh, hi, h.fix, hd]

/-- Settles O51: each refusal is one case of `winWrite`, which then leaves the device; a word written to a table is put
in the store of the windows under its own address. -/
theorem tableWindows : Obligations.TableWindows := by
  intro s m a v hp ha hs
  obtain ⟨f, k, n, he, hf⟩ := exec_busWriteOf (i := .genericRegWrite m a v) rfl s
  have hbus : f { s.core with out := [] } = send (.bus m (winWrite a.toNat v.toNat (s.core.found n)).1 [])
      (winWrite a.toNat v.toNat (s.core.found n)).2 := by
    rw [hf, busWriteBy, busWrite_window ha fun hm => (found_spiBars _ _ _ _).trans (hs hm)]
  have refused {r : Resp} (h : winWrite a.toNat v.toNat (s.core.found n) = (r, s.core.found n)) :
      Ends (.genericRegWrite m a v) s fun t => t.core.out = [.bus m r []] ∧ Chip.only [.fresh] s.core t.core ∧
        Chip.regsKept [Reg.GIO_STATUS_permit] s.core t.core :=
    ends_refused he hp (by rw [hbus, h])
  refine ⟨fun h1 h2 => ?_, fun hw => ?_, fun w hw => ⟨fun ho => ?_, fun ho h4 => ?_, fun ho h4 =>
    ⟨fun hb => ?_, fun ⟨off, hk⟩ => ?_, fun hb hk => ?_⟩⟩⟩
  · exact refused (winWrite_none (winOf_overviewSlot h1 h2) _ _)
  · exact refused (winWrite_none hw _ _)
  · exact refused (winWrite_off (c := s.core.found n) hw ho _)
  · exact refused (winWrite_misaligned (c := s.core.found n) hw ho h4 _)
  · exact refused (winWrite_busy (c := s.core.found n) hw ho h4 ((found_winBusy n w _).trans hb) _)
  · exact refused (winWrite_owner (c := s.core.found n) hw hk ho h4 _)
  · obtain ⟨d0, hput, hword⟩ :=
      winWrite_table (c := s.core.found n) hw hk ho h4 ((found_winBusy n w _).trans hb) v.toNat
    refine wrote_of_sending he hp (by rw [hbus, hput]) rfl
      (only_trans (only_found List.mem_cons_self n _)
        (only_wrWord (List.mem_cons_of_mem _ List.mem_cons_self) _ _ _ _)) (fun _ _ => rfl) fun e hl => ?_
    have htab : e.tables = (wrWord d0 a.toNat v.toNat (s.core.found n)).tables := hl.parts .tables List.not_mem_nil
    refine ⟨?_, fun x d1 hx => (word_congr htab d1 x).trans (word_wrWord_ne hx _ _ _ _)⟩
    have hon : e.on w.dom = true := (leaves_on hl _).trans ho
    have hbusy : e.winBusy w = false := (leaves_winBusy hl rfl w).trans ((found_winBusy n w _).trans hb)
    rw [winRead_ready hw hon h4 hbusy, hword, word_congr htab, word_wrWord_same, Nat.mod_eq_of_lt v.isLt]

/-! ### The overview contexts (R36) -/

theorem winRead_none {a : Nat} (hw : winOf a = none) (c : Chip) : winRead a c = (.decodeErr, 0) := by
  simp [winRead, hw]

theorem ctx_modCtx_same {n : Nat} {c : Chip} (hn : n < c.img.ctxs.length) (f : Ctx → Ctx) :
    (modCtx n f c).ctx n = f (c.ctx n) := modAt_getD_same hn f _

theorem only_genShow (l : List Part) (n : Nat) (c : Chip) : Chip.only l c (genShow n c) := only_when (only_wr l _ _ c)

theorem dramRead_congr {c d : Chip} (h1 : d.dram = c.dram) (h2 : d.losses = c.losses) (h3 : d.mem = c.mem) (a n : Nat) :
    d.dramRead a n = c.dramRead a n := by
  simp [Chip.dramRead, Chip.dramByte, Chip.cell, h1, h2, h3]

/-- A commit that waits for an overview context takes the DRAM address that its registers hold, and leaves the DRAM. -/
theorem fpnCommit_overview {n v : Nat} {c : Chip} (ho : isOverview n = true) (hn : n < c.img.ctxs.length)
    (hw : (c.ctx n).fpnWait = true) :
    ((fpnCommit v n c).ctx n).fpnAct = [(0, c.rdAddr (Reg.SVX_FPN_ADDR_LO_addr v n) (Reg.SVX_FPN_ADDR_HI_addr v n))] ∧
      (fpnCommit v n c).dram = c.dram ∧ (fpnCommit v n c).losses = c.losses ∧ (fpnCommit v n c).mem = c.mem := by
  let x (y : Ctx) : Ctx := { y with
    fpnAct := [(0, c.rdAddr (Reg.SVX_FPN_ADDR_LO_addr v n) (Reg.SVX_FPN_ADDR_HI_addr v n))], fpnWait := false,
    fpnUntil := c.now + Config.measured c.fresh % 33 }
  have he : fpnCommit v n c = incWrap (Reg.SVX_GEN_fpn_gen v n) (genShow n (modCtx n x (draw c).2)) := by
    simp only [fpnCommit, hw, ho, Bool.not_true, Bool.false_eq_true, if_false, if_true]
    rfl
  have hs : Chip.only [] (modCtx n x (draw c).2) (fpnCommit v n c) :=
    he ▸ only_trans (only_genShow [] n _) (only_wr [] _ _ _)
  have himg : (fpnCommit v n c).img = (modCtx n x (draw c).2).img := hs .img List.not_mem_nil
  obtain ⟨hdram, hloss⟩ := hs .dram List.not_mem_nil
  refine ⟨?_, hdram, hloss, hs .mem List.not_mem_nil⟩
  have hctx : (fpnCommit v n c).ctx n = x (c.ctx n) := by
    rw [Chip.ctx, himg]
    exact ctx_modCtx_same (c := (draw c).2) hn x
  rw [hctx]

/-- The table of an overview context is read in DRAM, at the address that its commit stored. -/
theorem fpnWord_overview {n b : Nat} {d : Chip} (ho : isOverview n = true) (hact : (d.ctx n).fpnAct = [(0, b)])
    (w px py : Nat) : d.fpnWord n w px py = le (d.dramRead (b + (py * w + px) * 4) 4) := by
  simp only [Chip.fpnWord, ho, if_true, hact, assocGet, Option.getD_some]

/-- Settles O58: no window lies over the two slots, and the commit of an overview context stores an address in DRAM. -/
theorem overviewSlots : Obligations.OverviewSlots := by
  refine ⟨fun a v c h1 h2 => ?_, fun n c x hn hx hwait => ?_⟩
  · exact ⟨winRead_none (winOf_overviewSlot h1 h2) c, winWrite_none (winOf_overviewSlot h1 h2) v c⟩
  · have ho : isOverview n.val = true := by rcases hn with h | h <;> simp [isOverview, h]
    obtain ⟨hlt, -⟩ := List.getElem?_eq_some_iff.1 hx
    have hctx : c.ctx n.val = x := by simp [Chip.ctx, List.getD_eq_getElem?_getD, hx]
    obtain ⟨hact, hdram, hloss, hmem⟩ := fpnCommit_overview (v := x.sieve) ho hlt (hctx ▸ hwait)
    intro base d w px py
    exact (fpnWord_overview ho hact w px py).trans (congrArg le (dramRead_congr hdram hloss hmem _ _))

end Sys2Proof.Machine
end

section
/-! A register write and BEAM_PERMIT (R513, R553): after every command the permit stands under its conditions, whatever
it was before, so that a write of its register need not leave it as it was. -/

namespace Sys2Proof.Machine

open Sys2Proof

/-- After a command BEAM_PERMIT is under its conditions, from any state with PORST_n high. -/
theorem guarded_permitSafe {c : Chip} (hp : c.sys.pwr.porst = false) (f : Chip → Chip) : (guarded f c).permitSafe := by
  rw [guarded_run hp]
  exact permitSafe_congr rfl rfl rfl (permitFall_safe (f { c with out := [] }))

theorem permitOk_false_of_disabled {c : Chip} (h : c.rd Reg.GIO_CTL_permit_en = 0) : c.permitOk = false := by
  simp [Chip.permitOk, Chip.flag, h]

/-- PORST_n has risen and PD_AON alone is on; BEAM_PERMIT is high though nothing has enabled it. -/
def permitAlone : State :=
  { State.reset with
    core := wr Reg.GIO_STATUS_permit 1 (modPwr (fun p => { p with porst := false }) State.reset.core) }

/-- Refutes O49: GIO_STATUS belongs to a block whose writes start nothing, and its field permit is RO. In the state
`permitAlone`, where BEAM_PERMIT is high while its conditions do not hold, a write of 0 to GIO_STATUS ends with
BEAM_PERMIT low, as every command does there (R513): that RO field has not kept its value. The state is not one of
`Chip.permitSafe`, which the statement does not ask for. -/
theorem not_registerWrites : ¬ Obligations.RegisterWrites := by
  intro h
  have hp : permitAlone.core.sys.pwr.porst = false := rfl
  obtain ⟨-, -, -, hreg⟩ := h (.genericRegWrite .app 0x2A0004 0) permitAlone .app 0x2A0004 0 hp rfl
  obtain ⟨-, hreg⟩ := hreg nofun (by decide)
  obtain ⟨-, hreg⟩ := hreg nofun
  obtain ⟨-, -, -, hreg⟩ := hreg ⟨.gio, 0, 4⟩ (by decide +kernel) rfl
  obtain ⟨-, -, hwrote⟩ := hreg (by decide +kernel) (by decide) _ [] rfl rfl nofun nofun
  obtain ⟨t, ht, -, -, hkept, htook⟩ := hwrote (by decide) (by decide +kernel)
  have hsafe : t.core.permitSafe := by
    cases ht
    exact guarded_permitSafe hp _
  have hhigh : t.core.rd Reg.GIO_STATUS_permit = 1 :=
    (htook ⟨2, 1, .val 0, .ro, true, none⟩ (by decide)).trans (by decide +kernel)
  have hen : t.core.rd Reg.GIO_CTL_permit_en = 0 := (hkept Reg.GIO_CTL_permit_en (by decide)).trans (by decide +kernel)
  have hok : t.core.permitOk = true := hsafe (by simp [Chip.flag, hhigh])
  exact absurd hok (by simp [permitOk_false_of_disabled hen])

end Sys2Proof.Machine
end

section
/-! Reads on the register fabric (R9, R28, R557): the register that a route finds, the holding copies, and what a read
of a register answers and changes. -/

namespace Sys2Proof.Machine

open Sys2Proof

/-! ### The register that answers to an address (R33) -/

theorem route_reg {c : Chip} {a : Nat} {h : Hit} (hr : c.route a = .reg h) :
    placeOf a = some h.p ∧ h.addr = a ∧ h.p.find = some (h.r, h.idx) := by
  unfold Chip.route at hr
  split at hr
  · cases hr
  · rename_i p hpl
    split at hr
    · cases hr
    · split at hr
      · cases hr
      · split at hr
        · cases hr
        · split at hr
          · cases hr
          · rename_i r l hfind
            cases hr
            exact ⟨hpl, rfl, hfind⟩

theorem route_of_place {c : Chip} {a : Nat} {p : Place} {r : RegDesc} {l : List Nat} (hp : placeOf a = some p)
    (ht : p.there = true) (ho : c.on p.dom = true) (h4 : a % 4 = 0) (hf : p.find = some (r, l)) :
    c.route a = .reg ⟨a, p, r, l⟩ := by
  simp [Chip.route, hp, ht, ho, h4, hf]

/-- The register that a route finds is the one its map has at the place. -/
theorem route_desc {c : Chip} {a : Nat} {h : Hit} {p : Place} {r : RegDesc} {l : List Nat} (hr : c.route a = .reg h)
    (hp : placeOf a = some p) (hf : p.find = some (r, l)) : h.r = r := by
  obtain ⟨hplace, -, hfind⟩ := route_reg hr
  obtain rfl : h.p = p := Option.some.inj (hplace.symm.trans hp)
  exact (Prod.mk.inj (Option.some.inj (hfind.symm.trans hf))).1

theorem find_mem {p : Place} {r : RegDesc} {l : List Nat} (h : p.find = some (r, l)) : r ∈ p.blk.regs := by
  obtain ⟨r', hmem, hr'⟩ := List.exists_of_findSome?_eq_some h
  split at hr'
  · obtain ⟨l', -, he⟩ := Option.map_eq_some_iff.1 hr'
    cases he
    exact hmem
  · cases hr'

/-! ### The maps (R9, R28, R262): what a read of a half of a pair does not do -/

/-- No half of a pair has a field that a read clears. -/
theorem pair_no_rc (b : Blk) : ∀ r ∈ b.regs, r.pair ≠ .none → ∀ f ∈ r.fields, f.ty ≠ .rc := by
  cases b <;> decide +kernel

/-- The map of a block is the same for each of its units. -/
theorem find_inst (b : Blk) (n o : Nat) : Place.find ⟨b, n, o⟩ = Place.find ⟨b, 0, o⟩ := rfl

theorem find_fxSeq (n : Nat) :
    Place.find ⟨.fx, n, 0x40⟩ = some (⟨0x40, [], .none, [⟨0, 32, .val 0, .ro, true, none⟩]⟩, []) := rfl

theorem find_btTime :
    Place.find ⟨.bt, 0, 0x18⟩ = some (⟨0x18, [], .none, [⟨0, 30, .val 0, .ro, true, none⟩]⟩, []) := rfl

theorem find_btEpoch :
    Place.find ⟨.bt, 0, 0x24⟩ = some (⟨0x24, [], .none, [⟨0, 30, .val 0, .ro, false, none⟩]⟩, []) := rfl

theorem placeOf_btTime : placeOf 0x80018 = some ⟨.bt, 0, 0x18⟩ := by decide

theorem placeOf_btEpoch : placeOf 0x80024 = some ⟨.bt, 0, 0x24⟩ := by decide

theorem find_capPosLo (n : Nat) :
    Place.find ⟨.pf, n, 0x80⟩ = some (⟨0x80, [], .lo, [⟨0, 32, .val 0, .ro, true, none⟩]⟩, []) := by
  rw [find_inst]
  decide +kernel

theorem find_capPosHi (n : Nat) :
    Place.find ⟨.pf, n, 0x84⟩ = some (⟨0x84, [], .hi, [⟨0, 16, .val 0, .ro, true, none⟩]⟩, []) := by
  rw [find_inst]
  decide +kernel

/-- The read of FX_n_SEQ, which captures the frame's results. -/
abbrev Hit.capturesFx (h : Hit) : Bool := h.p.blk == .fx && h.p.off == 0x40

theorem capturesFx_of_pair {h : Hit} (hf : h.p.find = some (h.r, h.idx)) (hp : h.r.pair ≠ .none) :
    h.capturesFx = false := by
  obtain ⟨a, ⟨b, n, o⟩, r, l⟩ := h
  rw [Bool.eq_false_iff]
  intro hx
  simp only [Hit.capturesFx, Bool.and_eq_true, beq_iff_eq] at hx
  obtain ⟨rfl, rfl⟩ := hx
  rw [find_fxSeq] at hf
  cases hf
  exact hp rfl

/-- CAP_POS_LO is no upper half. -/
theorem notCapPos_of_hi {h : Hit} (hf : h.p.find = some (h.r, h.idx)) (hp : h.r.pair = .hi) :
    (h.p.blk == .pf && h.p.off == 0x80) = false := by
  obtain ⟨a, ⟨b, n, o⟩, r, l⟩ := h
  rw [Bool.eq_false_iff]
  intro hx
  simp only [Bool.and_eq_true, beq_iff_eq] at hx
  obtain ⟨rfl, rfl⟩ := hx
  rw [find_capPosLo] at hf
  cases hf
  cases hp

theorem secOf_of_pair {c : Chip} {a : Nat} {h : Hit} (hr : c.route a = .reg h) (hp : h.r.pair ≠ .none) :
    secOf h.addr = none := by
  obtain ⟨-, haddr, -⟩ := route_reg hr
  refine if_neg ?_
  rw [haddr]
  rintro (rfl | rfl)
  · exact hp (congrArg RegDesc.pair (route_desc hr placeOf_btTime find_btTime))
  · exact hp (congrArg RegDesc.pair (route_desc hr placeOf_btEpoch find_btEpoch))

/-! ### Holding copies (R28, R557) -/

theorem heldCopy_congr {c d : Chip} (h : d.hold = c.hold) (m : Master) (k : Nat) : d.heldCopy m k = c.heldCopy m k := by
  simp [Chip.heldCopy, h]

theorem found_heldCopy (n : Nat) (m : Master) (k : Nat) (c : Chip) : (c.found n).heldCopy m k = c.heldCopy m k := rfl

theorem heldCopy_holdDrop_same (m : Master) (k : Nat) (c : Chip) : (holdDrop m k c).heldCopy m k = none := by
  have hn : ((c.hold.filter fun x => !(x.1 == m && x.2.1 == k)).find? fun x => x.1 == m && x.2.1 == k) = none :=
    List.find?_eq_none.2 fun x hx => by
      have hx := (List.mem_filter.1 hx).2
      simp only [Bool.not_eq_true'] at hx
      simp [hx]
  rw [Chip.heldCopy, holdDrop, hn]
  rfl

theorem heldCopy_holdDrop_ne {m m' : Master} {k k' : Nat} (h : ¬ (m' = m ∧ k' = k)) (c : Chip) :
    (holdDrop m k c).heldCopy m' k' = c.heldCopy m' k' := by
  simp only [Chip.heldCopy, holdDrop, List.find?_filter]
  refine congrArg (Option.map _) (congrArg (List.find? · c.hold) (funext fun x => ?_))
  by_cases hx : x.1 = m' ∧ x.2.1 = k'
  · obtain ⟨h1, h2⟩ := hx
    simpa [h1, h2] using not_and_or.1 h
  · have hn : (x.1 == m' && x.2.1 == k') = false := by
      rw [Bool.eq_false_iff]
      simpa using hx
    simp [hn]

theorem heldCopy_holdPut_same (m : Master) (k v : Nat) (c : Chip) : (holdPut m k v c).heldCopy m k = some v := by
  have hn : (holdDrop m k c).hold.find? (fun x => x.1 == m && x.2.1 == k) = none :=
    Option.map_eq_none_iff.1 (heldCopy_holdDrop_same m k c)
  simp [Chip.heldCopy, holdPut, List.find?_append, hn]

theorem heldCopy_holdPut_ne {m m' : Master} {k k' : Nat} (h : ¬ (m' = m ∧ k' = k)) (v : Nat) (c : Chip) :
    (holdPut m k v c).heldCopy m' k' = c.heldCopy m' k' := by
  have hx : (m == m' && k == k') = false := by
    simpa using fun h1 h2 => h ⟨h1.symm, h2.symm⟩
  rw [← heldCopy_holdDrop_ne h c]
  simp [Chip.heldCopy, holdPut, List.find?_append, hx]

theorem only_holdDrop {l : List Part} (hl : Part.hold ∈ l) (m : Master) (k : Nat) (c : Chip) :
    Chip.only l c (holdDrop m k c) := by
  intro p hp
  cases p
  case hold => exact absurd hl hp
  all_goals simp [Chip.same, holdDrop]

theorem only_holdPut {l : List Part} (hl : Part.hold ∈ l) (m : Master) (k v : Nat) (c : Chip) :
    Chip.only l c (holdPut m k v c) := by
  intro p hp
  cases p
  case hold => exact absurd hl hp
  all_goals simp [Chip.same, holdPut, holdDrop]

/-! ### Fields that show other state -/

/-- Bringing those fields up to date changes registers alone. -/
theorem only_refresh (l : List Part) (b : Blk) (m : Master) (k : Nat) (c : Chip) : Chip.only l c (refresh b m k c) := by
  cases b
  case bt => exact only_regs l c _
  case sec => exact only_forEach _ c fun _ _ => only_wr l _ _ _
  case hg => exact only_wr l _ _ c
  case mgt => exact only_wr l _ _ c
  case snp => exact only_wr l _ _ c
  case dmc => exact only_forEach _ c fun _ _ => only_regs l _ _
  case sv =>
    exact only_trans (only_forEach _ c fun _ _ => only_wr l _ _ _) (only_forEach _ _ fun _ _ => only_wr l _ _ _)
  all_goals exact only_refl l c

theorem forEach_found {α : Type} {f : α → Chip → Chip} (hf : ∀ x n c, f x (c.found n) = (f x c).found n) (xs : List α)
    (n : Nat) (c : Chip) : forEach xs f (c.found n) = (forEach xs f c).found n := by
  induction xs generalizing c with
  | nil => rfl
  | cons x xs ih => exact (congrArg (forEach xs f) (hf x n c)).trans (ih (f x c))

theorem refresh_found (b : Blk) (m : Master) (k n : Nat) (c : Chip) :
    refresh b m k (c.found n) = (refresh b m k c).found n := by
  cases b
  case sec => exact forEach_found (fun _ _ _ => rfl) _ n c
  case sv =>
    exact (congrArg (viewSieve 1) (forEach_found (fun _ _ _ => rfl) _ n c)).trans
      (forEach_found (fun _ _ _ => rfl) _ n _)
  all_goals rfl

theorem freshWord_found (n : Nat) (m : Master) (h : Hit) (c : Chip) : (c.found n).freshWord m h = c.freshWord m h := rfl

/-! ### The answer of a read -/

/-- The SPI port may read at an address: its lock and the role of the word let it (R34, R456). -/
abbrev Chip.letsRead (c : Chip) (m : Master) (a : Nat) : Prop :=
  m = .spi → c.spiBars a false = false ∧ makerOnly a = false

theorem noCopy_live {c : Chip} {m : Master} (hv : c.viewing m = false) (h : Hit) : c.noCopy m h = false := by
  simp [Chip.noCopy, hv]

/-- A read that a register answers, by a master outside its snapshot view. -/
theorem busReadBy_reg {m : Master} {a : Nat} {c : Chip} {h : Hit} (hm : m ≠ .dma) (ha : a < 0x1000000)
    (hfree : c.letsRead m a) (hr : c.route a = .reg h)
    (hv : c.viewing m = false) (k : Nat) :
    busReadBy m a k c = send (.bus m .ok [(refresh h.p.blk m k c).readWord m h])
      (readEffect m h (refresh h.p.blk m k c) c) := by
  have hspi : (m = .spi ∧ (c.spiBars a false || makerOnly a) = true) = False :=
    eq_false fun ⟨he, hb⟩ => by simp [hfree he] at hb
  have hread : busRead m a k c = (.ok, (refresh h.p.blk m k c).readWord m h,
      readEffect m h (refresh h.p.blk m k c) c) := by
    simp only [busRead, hspi, if_false, Nat.not_le.2 ha, hm, hr, noCopy_live hv, Bool.false_eq_true]
  simp only [busReadBy, hread, if_true]

theorem readWord_fresh {c : Chip} {m : Master} {h : Hit} (hp : h.r.pair ≠ .hi) (hh : c.heldCopy m (h.addr + 2) = none) :
    c.readWord m h = c.freshWord m h := by
  simp [Chip.readWord, hp, hh]

theorem readWord_held {c : Chip} {m : Master} {h : Hit} {v : Nat} (hp : h.r.pair = .hi)
    (hh : c.heldCopy m (h.addr - 4) = some v) : c.readWord m h = v := by
  simp [Chip.readWord, hp, hh]

theorem freshWord_live {h : Hit} (hf : fxHeld h.p = false ∨ h.p.off = 0x40) (m : Master) (c : Chip) :
    c.freshWord m h = c.wordOf m h := by
  unfold Chip.freshWord
  rw [if_neg (by rcases hf with hf | hf <;> simp [hf])]

/-- The word of a register with one field, at bit 0, that shows nothing but itself. -/
theorem wordOf_one {c : Chip} {m : Master} {h : Hit} {f : FieldDesc} (hv : c.viewing m = false) (hf : h.r.fields = [f])
    (hlo : f.lo = 0) (hw : f.ty ≠ .wo) (hsv : h.p.blk ≠ .sv) (hax : h.p.blk ≠ .ax) (hp : h.r.pair ≠ .hi) :
    c.wordOf m h = c.rd (h.fld f) := by
  simp [Chip.wordOf, Chip.fieldOf, Chip.unbound, hv, hf, hlo, hw, hsv, hax, hp]

/-- The upper 16 bits of a captured position read sign-extended (R320). -/
theorem wordOf_pfHigh {c : Chip} {m : Master} {h : Hit} {f : FieldDesc} (hv : c.viewing m = false)
    (hf : h.r.fields = [f]) (hlo : f.lo = 0) (hw : f.ty ≠ .wo) (h16 : f.w = 16)
    (hpf : h.p.blk = .pf) (hp : h.r.pair = .hi) :
    c.wordOf m h = ofS 32 (toS 16 (c.rd (h.fld f))) := by
  simp [Chip.wordOf, Chip.fieldOf, Chip.unbound, hv, hf, hlo, hw, h16, hpf, hp]

/-! ### What a read changes, in its five parts -/

/-- The capture of a frame's results (R262). -/
def fxTake (m : Master) (h : Hit) (d : Chip) : Chip → Chip := when h.capturesFx (fxCapture m h.p.inst (d.fxWords m h))

/-- The holding copy of a pair (R28, R557). -/
def pairHold (m : Master) (h : Hit) (d c : Chip) : Chip :=
  match h.r.pair with
  | .lo =>
    match c.heldCopy m (h.addr + 2) with
    | some _ => holdDrop m (h.addr + 2) c
    | none =>
      match h.high with
      | some g => holdPut m h.addr (d.freshWord m g) c
      | none => c
  | .hi => holdDrop m (h.addr - 4) c
  | .none => c

/-- The seconds that belong to a read of the nanoseconds (R65). -/
def Chip.secsShown (d : Chip) (m : Master) (a : Nat) : Nat :=
  if a = 0x80018 then d.shownTo m Reg.BT_TIME_SEC_LO_sec + d.shownTo m Reg.BT_TIME_SEC_HI_sec * 2 ^ 32
  else d.rd2 Reg.BT_EPOCH_SEC_LO_epoch Reg.BT_EPOCH_SEC_HI_epoch

/-- The holding copies of the seconds (R65). -/
def secsHold (m : Master) (h : Hit) (d c : Chip) : Chip :=
  match secOf h.addr with
  | some a => holdPut m a (d.secsShown m h.addr / 2 ^ 32) (holdPut m (a + 2) (d.secsShown m h.addr % 2 ^ 32) c)
  | none => c

/-- The fields that a read clears (R9). -/
def rcClear (h : Hit) : Chip → Chip := forEach h.r.fields fun f c => when (f.ty == .rc) (wr (h.fld f) (h.fld f).rst) c

/-- A read of PF_n_CAP_POS_LO (R306). -/
def capDone (h : Hit) : Chip → Chip :=
  when (h.p.blk == .pf && h.p.off == 0x80) (wr (Reg.PF_STATUS_cap_pending h.p.inst) 0)

theorem readEffect_eq (m : Master) (h : Hit) (d c : Chip) :
    readEffect m h d c = capDone h (rcClear h (secsHold m h d (pairHold m h d (fxTake m h d c)))) := rfl

theorem fxTake_none {h : Hit} (hfx : h.capturesFx = false) (m : Master) (d c : Chip) : fxTake m h d c = c := by
  simp [fxTake, when, hfx]

theorem pairHold_lo {m : Master} {h g : Hit} {c : Chip} (hp : h.r.pair = .lo) (hh : c.heldCopy m (h.addr + 2) = none)
    (hg : h.high = some g) (d : Chip) : pairHold m h d c = holdPut m h.addr (d.freshWord m g) c := by
  simp [pairHold, hp, hh, hg]

theorem pairHold_hi {h : Hit} (hp : h.r.pair = .hi) (m : Master) (d c : Chip) :
    pairHold m h d c = holdDrop m (h.addr - 4) c := by
  simp [pairHold, hp]

theorem pairHold_none {h : Hit} (hp : h.r.pair = .none) (m : Master) (d c : Chip) : pairHold m h d c = c := by
  simp [pairHold, hp]

theorem secsHold_none {h : Hit} (hs : secOf h.addr = none) (m : Master) (d c : Chip) : secsHold m h d c = c := by
  simp [secsHold, hs]

theorem secsHold_some {h : Hit} {a : Nat} (hs : secOf h.addr = some a) (m : Master) (d c : Chip) :
    secsHold m h d c =
      holdPut m a (d.secsShown m h.addr / 2 ^ 32) (holdPut m (a + 2) (d.secsShown m h.addr % 2 ^ 32) c) := by
  simp [secsHold, hs]

theorem forEach_keeps {α : Type} {f : α → Chip → Chip} {p : Chip → Prop} (xs : List α)
    (hf : ∀ x ∈ xs, ∀ c, p c → p (f x c)) {c : Chip} (hc : p c) : p (forEach xs f c) := by
  induction xs generalizing c with
  | nil => exact hc
  | cons x xs ih =>
    exact ih (fun y hy => hf y (List.mem_cons_of_mem _ hy)) (hf x List.mem_cons_self c hc)

theorem rcClear_none {h : Hit} (hrc : ∀ f ∈ h.r.fields, f.ty ≠ .rc) (c : Chip) : rcClear h c = c :=
  forEach_keeps (p := (· = c)) _ (fun f hf d hd => by simp [when, hrc f hf, hd]) rfl

/-- A read of a register field that a read clears leaves it at its reset value. -/
theorem rcClear_rd {h : Hit} {g : FieldDesc} (hg : g.ty = .rc) (hw : (h.fld g).rst < 2 ^ (h.fld g).w)
    (hone : ∀ f ∈ h.r.fields, f.ty = .rc → f = g) {c : Chip} (hc : g ∈ h.r.fields) :
    (rcClear h c).rd (h.fld g) = (h.fld g).rst := by
  have key : ∀ (l : List FieldDesc) (c : Chip), (∀ f ∈ l, f.ty = .rc → f = g) →
      (g ∈ l ∨ c.rd (h.fld g) = (h.fld g).rst) →
      (forEach l (fun f c => when (f.ty == .rc) (wr (h.fld f) (h.fld f).rst) c) c).rd (h.fld g) = (h.fld g).rst := by
    intro l
    induction l with
    | nil => exact fun c _ hc => hc.resolve_left List.not_mem_nil
    | cons f l ih =>
      intro c hl hc
      refine ih _ (fun x hx => hl x (List.mem_cons_of_mem _ hx)) ?_
      by_cases hf : f.ty = .rc
      · obtain rfl := hl f List.mem_cons_self hf
        right
        simpa [when, hf, rd_wr_same] using Nat.mod_eq_of_lt hw
      · have hne : g ≠ f := fun e => hf (e ▸ hg)
        simpa [when, hf, hne] using hc
  exact key h.r.fields c hone (.inl hc)

theorem only_rcClear (l : List Part) (h : Hit) (c : Chip) : Chip.only l c (rcClear h c) :=
  only_forEach _ c fun _ _ => only_when (only_wr l _ _ _)

theorem regsKept_rcClear {l : List Fld} {a b : Chip} {h : Hit} (hk : Chip.regsKept l a b)
    (hl : ∀ f ∈ h.r.fields, f.ty = .rc → h.fld f ∈ l) : Chip.regsKept l a (rcClear h b) := by
  refine regsKept_forEach _ hk fun f hf c hc => ?_
  by_cases he : f.ty = .rc
  · exact regsKept_when hc (regsKept_wr hc (hl f hf he) _)
  · simpa [when, he] using hc

theorem rcClear_out (h : Hit) (c : Chip) : (rcClear h c).out = c.out :=
  forEach_keeps (p := fun d => d.out = c.out) _
    (fun f _ d hd => by cases hf : f.ty == .rc <;> simpa [when, hf] using hd) rfl

theorem only_capDone (l : List Part) (h : Hit) (c : Chip) : Chip.only l c (capDone h c) := only_when (only_wr l _ _ c)

theorem regsKept_capDone {l : List Fld} {a b : Chip} {h : Hit} (hk : Chip.regsKept l a b)
    (hl : Reg.PF_STATUS_cap_pending h.p.inst ∈ l) : Chip.regsKept l a (capDone h b) :=
  regsKept_when hk (regsKept_wr hk hl _)

theorem capDone_out (h : Hit) (c : Chip) : (capDone h c).out = c.out := by
  unfold capDone when
  split <;> rfl

theorem capDone_none {h : Hit} (hc : (h.p.blk == .pf && h.p.off == 0x80) = false) (c : Chip) : capDone h c = c := by
  simp [capDone, when, hc]

end Sys2Proof.Machine
end

section
/-! The register reads with their captures and clears (R9, R28, R65, R262, R306), one after the other. -/

namespace Sys2Proof.Machine

open Sys2Proof

/-- A read completes with OK and a word, sends nothing else, and changes nothing but the listed parts and fields (and
BEAM_PERMIT, which falls with its conditions); of the device after it `P` holds. -/
def Answered (i : Instr) (s : State) (m : Master) (v : Nat) (parts : List Part) (regs : List Fld) (P : Chip → Prop) :
    Prop :=
  Ends i s fun t => t.core.out = [.bus m .ok [v]] ∧ Chip.only parts s.core t.core ∧
    Chip.regsKept (Reg.GIO_STATUS_permit :: regs) s.core t.core ∧ P t.core

theorem refresh_heldCopy (b : Blk) (m m' : Master) (k j : Nat) (c : Chip) :
    (refresh b m k c).heldCopy m' j = c.heldCopy m' j :=
  heldCopy_congr (only_refresh [] b m k c .hold List.not_mem_nil) m' j

theorem leaves_heldCopy {c d e : Chip} {h : Hit} (hl : Chip.Leaves c (capDone h d) e) (m : Master) (k : Nat) :
    e.heldCopy m k = d.heldCopy m k :=
  heldCopy_congr (only_trans (only_capDone [] h d) hl.parts .hold List.not_mem_nil) m k

theorem only_found_same (l : List Part) (c : Chip) : Chip.only l c (c.found c.fresh) := only_out l c []

/-- The read of a register with nothing sent before it. -/
theorem busReadBy_found {m : Master} {a : Nat} {c : Chip} {h : Hit} (hm : m ≠ .dma) (ha : a < 0x1000000)
    (hfree : c.letsRead m a) (hr : c.route a = .reg h)
    (hv : c.viewing m = false) (k n : Nat) :
    busReadBy m a k (c.found n) = send (.bus m .ok [(refresh h.p.blk m k c).readWord m h])
      (readEffect m h ((refresh h.p.blk m k c).found n) (c.found n)) := by
  have hread := busReadBy_reg (c := c.found n) hm ha hfree ((found_route n a c).trans hr) hv k
  rw [refresh_found] at hread
  exact hread

/-- Of the five parts of a read's effect, a half of a pair has two. -/
theorem readEffect_pair {c : Chip} {a : Nat} {h : Hit} (hr : c.route a = .reg h) (hne : h.r.pair ≠ .none) (m : Master)
    (d e : Chip) : readEffect m h d e = capDone h (pairHold m h d e) := by
  obtain ⟨-, -, hfind⟩ := route_reg hr
  rw [readEffect_eq, fxTake_none (capturesFx_of_pair hfind hne), secsHold_none (secOf_of_pair hr hne),
    rcClear_none (pair_no_rc _ _ (find_mem hfind) hne)]

theorem secOf_of_blk {a : Nat} {h : Hit} (hp : placeOf a = some h.p) (ha : h.addr = a) (hb : h.p.blk ≠ .bt) :
    secOf h.addr = none := by
  refine if_neg ?_
  rw [ha]
  rintro (rfl | rfl) <;> exact hb (congrArg Place.blk (Option.some.inj hp).symm)

/-- The one field of THM that a read clears: THM_PEAK_n (R9). -/
def thmPeak : FieldDesc := ⟨0, 16, .val 0x8000, .rc, false, none⟩

theorem thm_rc : ∀ r ∈ Blk.thm.regs, ∀ f ∈ r.fields, f.ty = .rc → f = thmPeak := by decide

/-- FX_n_SEQ. -/
def fxSeq (n : Nat) : Hit :=
  ⟨0x1C0040 + n * 0x200, ⟨.fx, n, 0x40⟩, ⟨0x40, [], .none, [⟨0, 32, .val 0, .ro, true, none⟩]⟩, []⟩

/-- The `k`th of the words FX_n_SEQ to FX_n_DELIV_HI. -/
def fxWord (n k : Nat) : Option Hit :=
  (Place.find ⟨.fx, n, 0x40 + 4 * k⟩).map fun x =>
    ⟨0x1C0040 + n * 0x200 + 4 * k, ⟨.fx, n, 0x40 + 4 * k⟩, x.1, x.2⟩

theorem placeOf_fxSeq : ∀ n : Fin 24, placeOf (0x1C0040 + n.val * 0x200) = some ⟨.fx, n.val, 0x40⟩ := by decide

/-- What a list of words by address holds at one of its addresses. -/
theorem assocGet_filterMap {α : Type} {g : Nat → Option α} {key : Nat → Nat} (hkey : Function.Injective key) (k : Nat)
    (l : List Nat) : assocGet (key k) (l.filterMap fun j => (g j).map fun x => (key j, x)) =
      if k ∈ l then g k else none := by
  induction l with
  | nil => rfl
  | cons j l ih =>
    by_cases hj : k = j
    · subst hj
      cases hg : g k <;> simp [hg, assocGet, ih]
    · have hne : key k ≠ key j := fun e => hj (hkey e)
      cases hg : g j <;> simp [hg, assocGet, ih, hne, hj]

/-- What a read of FX_n_SEQ captures is the frame's words as they stand. -/
theorem assocGet_fxWords {n k : Nat} {h : Hit} (hk : k < 12) (hw : fxWord n k = some h) (m : Master) (c : Chip) :
    assocGet h.addr (c.fxWords m (fxSeq n)) = some (c.wordOf m h) := by
  obtain ⟨x, hx, rfl⟩ := Option.map_eq_some_iff.1 hw
  have hkey : Function.Injective fun j : Nat => 0x1C0040 + n * 0x200 + 4 * j := fun i j h => by
    simp only at h
    omega
  have hget := assocGet_filterMap (g := fun j => (Place.find ⟨.fx, n, 0x40 + 4 * j⟩).map fun x =>
    c.wordOf m ⟨0x1C0040 + n * 0x200 + 4 * j, ⟨.fx, n, 0x40 + 4 * j⟩, x.1, x.2⟩) hkey k (List.range 12)
  simp only [Option.map_map, List.mem_range, hk, if_true, hx] at hget
  exact hget

theorem only_fxCapture {l : List Part} (hl : Part.fxHold ∈ l) (m : Master) (n : Nat) (w : Store) (c : Chip) :
    Chip.only l c (fxCapture m n w c) := by
  intro p hp
  cases p
  case fxHold => exact absurd hl hp
  all_goals simp [Chip.same, fxCapture]

/-- A word of the frame after the capture reads as it stood (R262). -/
theorem freshWord_captured {m : Master} {n k i : Nat} {h : Hit} {c e : Chip}
    (hfx : e.fxHold = (fxCapture m n (c.fxWords m (fxSeq n)) (c.found i)).fxHold) (h0 : 0 < k) (h12 : k < 12)
    (hw : fxWord n k = some h) : e.freshWord m h = c.wordOf m h := by
  have hget := assocGet_fxWords h12 hw m c
  obtain ⟨x, hx, rfl⟩ := Option.map_eq_some_iff.1 hw
  have hheld : (fxHeld (⟨.fx, n, 0x40 + 4 * k⟩ : Place) && decide (0x40 + 4 * k ≠ 0x40)) = true := by
    simp [fxHeld]
    omega
  have hfind : e.fxHold.find? (fun x => x.1 == m && x.2.1 == n) = some (m, n, c.fxWords m (fxSeq n)) := by
    rw [hfx, fxCapture, List.find?_append, List.find?_eq_none.2]
    · simp
    · intro x hx
      have hx := (List.mem_filter.1 hx).2
      simp only [Bool.not_eq_true'] at hx
      simp [hx]
  unfold Chip.freshWord
  rw [if_pos (by simpa using hheld), hfind]
  simp only [hget, Option.getD_some]

/-- PF_n_CAP_POS_LO. -/
def capPosLo (n : Nat) : Hit :=
  ⟨0x240080 + n * 0x400, ⟨.pf, n, 0x80⟩, ⟨0x80, [], .lo, [⟨0, 32, .val 0, .ro, true, none⟩]⟩, []⟩

/-- PF_n_CAP_POS_HI. -/
def capPosHi (n : Nat) : Hit :=
  ⟨0x240080 + n * 0x400 + 4, ⟨.pf, n, 0x84⟩, ⟨0x84, [], .hi, [⟨0, 16, .val 0, .ro, true, none⟩]⟩, []⟩

theorem capPosHi_fld (n : Nat) :
    (capPosHi n).fld ⟨0, 16, .val 0, .ro, true, none⟩ = Reg.PF_CAP_POS_HI_value n := by
  simp only [Hit.fld, capPosHi, Reg.PF_CAP_POS_HI_value, Fld.mk.injEq, and_true]
  omega

theorem placeOf_capPos : ∀ n : Fin 8, placeOf (0x240080 + n.val * 0x400) = some ⟨.pf, n.val, 0x80⟩ := by decide

/-- BT_TIME_NS. -/
def btTime : Hit := ⟨0x80018, ⟨.bt, 0, 0x18⟩, ⟨0x18, [], .none, [⟨0, 30, .val 0, .ro, true, none⟩]⟩, []⟩

/-- BT_EPOCH_NS. -/
def btEpoch : Hit := ⟨0x80024, ⟨.bt, 0, 0x24⟩, ⟨0x24, [], .none, [⟨0, 30, .val 0, .ro, false, none⟩]⟩, []⟩

section
variable (k : Nat) (c : Chip)

theorem viewBt_time : (viewBt k c).rd Reg.BT_TIME_NS_ns = nsOf (c.time (min k c.lastCycle)) % 2 ^ 30 ∧
    (viewBt k c).rd Reg.BT_TIME_SEC_LO_sec = secsOf (c.time (min k c.lastCycle)) % 2 ^ 32 ∧
    (viewBt k c).rd Reg.BT_TIME_SEC_HI_sec = secsOf (c.time (min k c.lastCycle)) / 2 ^ 32 % 2 ^ 16 := by
  unfold viewBt wr2
  refine ⟨?_, ?_, ?_⟩
  · iterate 6 rw [rd_wr_ne (by decide)]
    exact rd_wr_same _ _ _
  · iterate 5 rw [rd_wr_ne (by decide)]
    exact rd_wr_same _ _ _
  · iterate 4 rw [rd_wr_ne (by decide)]
    exact rd_wr_same _ _ _

theorem viewBt_epoch : (viewBt k c).rd Reg.BT_EPOCH_NS_epoch = nsOf c.fix.epoch % 2 ^ 30 ∧
    (viewBt k c).rd Reg.BT_EPOCH_SEC_LO_epoch = secsOf c.fix.epoch % 2 ^ 32 ∧
    (viewBt k c).rd Reg.BT_EPOCH_SEC_HI_epoch = secsOf c.fix.epoch / 2 ^ 32 % 2 ^ 16 := by
  unfold viewBt wr2
  refine ⟨?_, ?_, ?_⟩
  · iterate 3 rw [rd_wr_ne (by decide)]
    exact rd_wr_same _ _ _
  · iterate 2 rw [rd_wr_ne (by decide)]
    exact rd_wr_same _ _ _
  · rw [rd_wr_ne (by decide)]
    exact rd_wr_same _ _ _

end

/-- The nanoseconds of a second fit their field. -/
theorem nsOf_mod (t : Int) : nsOf t % 2 ^ 30 = (t % 1000000000).toNat := by
  unfold nsOf giga
  omega

/-- 48 bits of seconds, from their halves. -/
theorem secsOf_halves {t : Int} (h0 : 0 ≤ t) (h1 : t < 2 ^ 48 * 1000000000) :
    secsOf t % 2 ^ 32 + secsOf t / 2 ^ 32 % 2 ^ 16 * 2 ^ 32 = (t / 1000000000).toNat := by
  have hs : secsOf t = (t / 1000000000).toNat := rfl
  rw [hs]
  omega

section
variable {s : State} {m : Master} (hp : s.core.sys.pwr.porst = false) (hm : m ≠ .dma) (hv : s.core.viewing m = false)
include hp hm hv

/-- A command that reads a register: its answer is the word, and the device it leaves is that of the read's effect. -/
theorem answered_of_read {i : Instr} {f : Chip → Chip} {a k n v : Nat} {h : Hit} {d : Chip} {parts : List Part}
    {regs : List Fld} {P : Chip → Prop} (he : exec i s = runs f s)
    (hf : f { s.core with out := [] } = busReadBy m a k (s.core.found n)) (ha : a < 0x1000000)
    (hfree : s.core.letsRead m a) (hr : s.core.route a = .reg h)
    (hval : (refresh h.p.blk m k s.core).readWord m h = v)
    (heff : readEffect m h ((refresh h.p.blk m k s.core).found n) (s.core.found n) = d) (ho : d.out = [])
    (hparts : Chip.only parts s.core d) (hregs : Chip.regsKept (Reg.GIO_STATUS_permit :: regs) s.core d)
    (hP : ∀ e, Chip.Leaves s.core d e → P e) : Answered i s m v parts regs P :=
  ends_sending he hp (hf.trans ((busReadBy_found hm ha hfree hr hv k n).trans (by rw [hval, heff]))) ho hparts hregs hP

/-! ### Pairs (R28, R557) -/

theorem read_lo {a : BitVec 32} {cycle : Fin 499} {h g : Hit} (ha : a.toNat < 0x1000000)
    (hfree : s.core.letsRead m a.toNat)
    (hr : s.core.route a.toNat = .reg h) (hlo : h.r.pair = .lo) (hg : h.high = some g)
    (hh : s.core.heldCopy m (a.toNat + 2) = none) :
    Answered (.loRegRead m a cycle) s m ((refresh h.p.blk m cycle.val s.core).freshWord m h) [.hold]
      [Reg.PF_STATUS_cap_pending h.p.inst] fun e =>
        e.heldCopy m a.toNat = some ((refresh h.p.blk m cycle.val s.core).freshWord m g) ∧
          ∀ m' k, ¬ (m' = m ∧ k = a.toNat) → e.heldCopy m' k = s.core.heldCopy m' k := by
  obtain ⟨-, haddr, -⟩ := route_reg hr
  rw [← haddr] at hh
  have hval := readWord_fresh (by simp [hlo]) ((refresh_heldCopy h.p.blk m m cycle.val _ s.core).trans hh)
  have heff : readEffect m h ((refresh h.p.blk m cycle.val s.core).found s.core.fresh) (s.core.found s.core.fresh) =
      capDone h (holdPut m h.addr ((refresh h.p.blk m cycle.val s.core).freshWord m g)
        (s.core.found s.core.fresh)) := by
    rw [readEffect_pair hr (by simp [hlo]), pairHold_lo hlo ((found_heldCopy _ _ _ _).trans hh) hg, freshWord_found]
  refine answered_of_read hp hm hv rfl rfl ha hfree hr hval heff ((capDone_out _ _).trans rfl)
    (only_trans (only_found_same _ _) (only_trans (only_holdPut List.mem_cons_self _ _ _ _) (only_capDone _ _ _)))
    (regsKept_capDone (fun _ _ => rfl) (List.mem_cons_of_mem _ List.mem_cons_self)) fun e hl => ⟨?_, fun m' k hk => ?_⟩
  · rw [leaves_heldCopy hl, ← haddr, heldCopy_holdPut_same]
  · rw [leaves_heldCopy hl, heldCopy_holdPut_ne (haddr ▸ hk)]
    rfl

theorem read_hi {a : BitVec 32} {cycle : Fin 499} {h : Hit} {v : Nat} (ha : a.toNat < 0x1000000)
    (hfree : s.core.letsRead m a.toNat)
    (hr : s.core.route a.toNat = .reg h) (hhi : h.r.pair = .hi) (hh : s.core.heldCopy m (a.toNat - 4) = some v) :
    Answered (.loRegRead m a cycle) s m v [.hold] [] fun e => e.heldCopy m (a.toNat - 4) = none ∧
      ∀ m' k, ¬ (m' = m ∧ k = a.toNat - 4) → e.heldCopy m' k = s.core.heldCopy m' k := by
  obtain ⟨-, haddr, hfind⟩ := route_reg hr
  rw [← haddr] at hh
  have hval := readWord_held hhi ((refresh_heldCopy h.p.blk m m cycle.val _ s.core).trans hh)
  have heff : readEffect m h ((refresh h.p.blk m cycle.val s.core).found s.core.fresh) (s.core.found s.core.fresh) =
      holdDrop m (h.addr - 4) (s.core.found s.core.fresh) := by
    rw [readEffect_pair hr (by simp [hhi]), pairHold_hi hhi, capDone_none (notCapPos_of_hi hfind hhi)]
  refine answered_of_read hp hm hv rfl rfl ha hfree hr hval heff rfl
    (only_trans (only_found_same _ _) (only_holdDrop List.mem_cons_self _ _ _)) (fun _ _ => rfl) fun e hl =>
      ⟨?_, fun m' k hk => ?_⟩
  · rw [← haddr, heldCopy_congr (hl.parts .hold List.not_mem_nil), heldCopy_holdDrop_same]
  · rw [heldCopy_congr (hl.parts .hold List.not_mem_nil), heldCopy_holdDrop_ne (haddr ▸ hk), found_heldCopy]

/-! ### Fields that a read clears (R9) -/

theorem read_rc {a : BitVec 32} {h : Hit} (ha : a.toNat < 0x1000000)
    (hfree : s.core.letsRead m a.toNat)
    (hr : s.core.route a.toNat = .reg h) (hb : h.p.blk = .thm) (hn : h.r.pair = .none)
    (hh : s.core.heldCopy m (a.toNat + 2) = none) :
    Answered (.rcCounterRead m a) s m (s.core.wordOf m h) [.fresh] ((h.r.fields.filter fun f => f.ty == .rc).map h.fld)
      fun e => ∀ f ∈ h.r.fields, f.ty = .rc → e.rd (h.fld f) = (h.fld f).rst := by
  obtain ⟨hplace, haddr, hfind⟩ := route_reg hr
  obtain ⟨f, k, n, he, hf⟩ := exec_busReadOf (i := .rcCounterRead m a) rfl s
  have hd : refresh h.p.blk m k s.core = s.core := by rw [hb]; rfl
  have hval : (refresh h.p.blk m k s.core).readWord m h = s.core.wordOf m h := by
    rw [hd, readWord_fresh (by simp [hn]) (haddr ▸ hh), freshWord_live (.inl (by simp [fxHeld, hb]))]
  have heff : readEffect m h ((refresh h.p.blk m k s.core).found n) (s.core.found n) = rcClear h (s.core.found n) := by
    rw [readEffect_eq, fxTake_none (by simp [hb]), pairHold_none hn,
      secsHold_none (secOf_of_blk hplace haddr (by simp [hb])), capDone_none (by simp [hb])]
  refine answered_of_read hp hm hv he hf ha hfree hr hval heff (rcClear_out _ _)
    (only_trans (only_found List.mem_cons_self n _) (only_rcClear _ _ _))
    (regsKept_rcClear (fun _ _ => rfl) fun f hf hty => List.mem_cons_of_mem _ (List.mem_map_of_mem (by simp [hf, hty])))
    fun e hl f hf hty => ?_
  have hone := thm_rc h.r (hb ▸ find_mem hfind)
  obtain rfl := hone f hf hty
  have hk : (h.fld thmPeak).key ≠ Reg.GIO_STATUS_permit.key := by
    simp [Fld.key, Hit.fld, thmPeak, Reg.GIO_STATUS_permit]
    omega
  rw [hl.regs _ (by simpa using hk), rcClear_rd hty (by simp [Hit.fld, thmPeak]) hone hf]

/-! ### The results of a frame (R262) -/

theorem read_fxSeq (n : Fin 24)
    (hfree : s.core.letsRead m (0x1C0040 + n.val * 0x200))
    (hon : s.core.on pdFABRIC = true) (hh : s.core.heldCopy m (0x1C0040 + n.val * 0x200 + 2) = none) :
    Answered (.fxSeqRead m n) s m (s.core.rd (Reg.FX_SEQ_seq n.val)) [.fresh, .fxHold] [] fun e =>
      ∀ k h, 0 < k → k < 12 → fxWord n.val k = some h → e.freshWord m h = s.core.wordOf m h := by
  have hr : s.core.route (0x1C0040 + n.val * 0x200) = .reg (fxSeq n.val) :=
    route_of_place (placeOf_fxSeq n) rfl hon (by omega) (find_fxSeq n.val)
  obtain ⟨f, j, l, he, hf⟩ := exec_busReadOf (i := .fxSeqRead m n) rfl s
  have hval : (refresh (fxSeq n.val).p.blk m j s.core).readWord m (fxSeq n.val) = s.core.rd (Reg.FX_SEQ_seq n.val) := by
    show s.core.readWord m (fxSeq n.val) = _
    rw [readWord_fresh (by simp [fxSeq]) hh, freshWord_live (.inr rfl),
      wordOf_one hv rfl rfl (by decide) (by simp [fxSeq]) (by simp [fxSeq]) (by simp [fxSeq])]
    rfl
  have heff : readEffect m (fxSeq n.val) ((refresh (fxSeq n.val).p.blk m j s.core).found l) (s.core.found l) =
      fxCapture m n.val (s.core.fxWords m (fxSeq n.val)) (s.core.found l) := by
    rw [readEffect_eq, pairHold_none rfl, secsHold_none, rcClear_none (by simp [fxSeq]), capDone_none rfl]
    · rfl
    · exact if_neg (by simp only [fxSeq]; omega)
  refine answered_of_read hp hm hv he hf (by omega) hfree hr hval heff rfl
    (only_trans (only_found List.mem_cons_self l _)
      (only_fxCapture (List.mem_cons_of_mem _ List.mem_cons_self) _ _ _ _))
    (fun _ _ => rfl) fun e hl k h h0 h12 hw => ?_
  have hfx : e.fxHold = (fxCapture m n.val (s.core.fxWords m (fxSeq n.val)) (s.core.found l)).fxHold :=
    hl.parts .fxHold List.not_mem_nil
  exact freshWord_captured hfx h0 h12 hw

/-! ### The time (R65) -/

/-- A register of nanoseconds whose read captures the seconds. -/
theorem read_seconds {epoch : Bool} {cycle : Fin 499} {h : Hit} {secs ns : Nat}
    (ha : h.addr = if epoch then 0x80024 else 0x80018) (hb : h.p.blk = .bt) (hn : h.r.pair = .none)
    (hrc : ∀ f ∈ h.r.fields, f.ty ≠ .rc) (hso : secOf h.addr = some (h.addr + 4))
    (hfree : s.core.letsRead m h.addr) (hr : s.core.route h.addr = .reg h)
    (hh : s.core.heldCopy m (h.addr + 2) = none) (hns : (viewBt cycle.val s.core).wordOf m h = ns)
    (hsecs : (viewBt cycle.val s.core).secsShown m h.addr = secs) :
    Answered (.btTimeRead m epoch cycle) s m ns [.hold] [] fun e =>
      e.heldCopy m (h.addr + 6) = some (secs % 2 ^ 32) ∧ e.heldCopy m (h.addr + 4) = some (secs / 2 ^ 32) ∧
        ∀ m' k, ¬ (m' = m ∧ (k = h.addr + 4 ∨ k = h.addr + 6)) → e.heldCopy m' k = s.core.heldCopy m' k := by
  have hd : refresh h.p.blk m cycle.val s.core = viewBt cycle.val s.core := by rw [hb]; rfl
  have hval : (refresh h.p.blk m cycle.val s.core).readWord m h = ns := by
    rw [readWord_fresh (by simp [hn]) ((refresh_heldCopy _ _ _ _ _ _).trans hh), hd,
      freshWord_live (.inl (by simp [fxHeld, hb])), hns]
  have heff : readEffect m h ((refresh h.p.blk m cycle.val s.core).found s.core.fresh) (s.core.found s.core.fresh) =
      holdPut m (h.addr + 4) (secs / 2 ^ 32) (holdPut m (h.addr + 6) (secs % 2 ^ 32) (s.core.found s.core.fresh)) := by
    have hshown : ((viewBt cycle.val s.core).found s.core.fresh).secsShown m h.addr = secs := hsecs
    rw [hd, readEffect_eq, fxTake_none (by simp [hb]), pairHold_none hn, secsHold_some hso, hshown, rcClear_none hrc,
      capDone_none (by simp [hb])]
  refine answered_of_read hp hm hv (congrArg (runs · s) (by rw [ha])) rfl (by rw [ha]; split <;> omega) hfree hr hval
    heff rfl (only_trans (only_found_same _ _) (only_trans (only_holdPut List.mem_cons_self _ _ _ _)
      (only_holdPut List.mem_cons_self _ _ _ _))) (fun _ _ => rfl) fun e hl => ?_
  have hheld (m' : Master) (k : Nat) := heldCopy_congr (hl.parts .hold List.not_mem_nil) m' k
  refine ⟨?_, ?_, fun m' k hk => ?_⟩
  · rw [hheld, heldCopy_holdPut_ne (by omega), heldCopy_holdPut_same]
  · rw [hheld, heldCopy_holdPut_same]
  · rw [hheld, heldCopy_holdPut_ne (fun e => hk ⟨e.1, .inl e.2⟩), heldCopy_holdPut_ne (fun e => hk ⟨e.1, .inr e.2⟩),
      found_heldCopy]

/-! ### A captured position (R306) -/

theorem read_capPos (n : Fin 8)
    (hfree : s.core.letsRead m (0x240080 + n.val * 0x400))
    (hon : s.core.on pdMOTION = true) (hh : s.core.heldCopy m (0x240080 + n.val * 0x400 + 2) = none) :
    Answered (.capPosRead m n) s m (s.core.rd (Reg.PF_CAP_POS_LO_value n.val)) [.fresh, .hold]
      [Reg.PF_STATUS_cap_pending n.val] fun e => e.flag (Reg.PF_STATUS_cap_pending n.val) = false ∧
        e.heldCopy m (0x240080 + n.val * 0x400) =
          some (ofS 32 (toS 16 (s.core.rd (Reg.PF_CAP_POS_HI_value n.val)))) := by
  have hr : s.core.route (0x240080 + n.val * 0x400) = .reg (capPosLo n.val) :=
    route_of_place (placeOf_capPos n) rfl hon (by omega) (find_capPosLo n.val)
  have hhigh : (capPosLo n.val).high = some (capPosHi n.val) := by
    simp [Hit.high, capPosLo, capPosHi, find_capPosHi]
  obtain ⟨f, j, l, he, hf⟩ := exec_busReadOf (i := .capPosRead m n) rfl s
  have hval : (refresh (capPosLo n.val).p.blk m j s.core).readWord m (capPosLo n.val) =
      s.core.rd (Reg.PF_CAP_POS_LO_value n.val) := by
    show s.core.readWord m (capPosLo n.val) = _
    rw [readWord_fresh (by simp [capPosLo]) hh, freshWord_live (.inl rfl),
      wordOf_one hv rfl rfl (by decide) (by simp [capPosLo]) (by simp [capPosLo]) (by simp [capPosLo])]
    rfl
  have hup : s.core.freshWord m (capPosHi n.val) = ofS 32 (toS 16 (s.core.rd (Reg.PF_CAP_POS_HI_value n.val))) := by
    rw [freshWord_live (.inl rfl), wordOf_pfHigh hv rfl rfl (by decide) rfl rfl rfl, capPosHi_fld]
  have heff : readEffect m (capPosLo n.val) ((refresh (capPosLo n.val).p.blk m j s.core).found l) (s.core.found l) =
      wr (Reg.PF_STATUS_cap_pending n.val) 0 (holdPut m (0x240080 + n.val * 0x400)
        (ofS 32 (toS 16 (s.core.rd (Reg.PF_CAP_POS_HI_value n.val)))) (s.core.found l)) := by
    rw [readEffect_pair hr (by simp [capPosLo]), pairHold_lo rfl ((found_heldCopy _ _ _ _).trans hh) hhigh,
      freshWord_found, ← hup]
    rfl
  refine answered_of_read hp hm hv he hf (by omega) hfree hr hval heff rfl
    (only_trans (only_found List.mem_cons_self l _) (only_trans
      (only_holdPut (List.mem_cons_of_mem _ List.mem_cons_self) _ _ _ _) (only_wr _ _ _ _)))
    (regsKept_wr (fun _ _ => rfl) (List.mem_cons_of_mem _ List.mem_cons_self) _) fun e hl => ⟨?_, ?_⟩
  · have hk : (Reg.PF_STATUS_cap_pending n.val).key ≠ Reg.GIO_STATUS_permit.key := by
      simp [Fld.key, Reg.PF_STATUS_cap_pending, Reg.GIO_STATUS_permit]
      omega
    rw [Chip.flag, hl.regs _ (by simpa using hk), rd_wr_same]
    rfl
  · rw [heldCopy_congr (hl.parts .hold List.not_mem_nil)]
    exact heldCopy_holdPut_same _ _ _ _

end

/-- Settles O50, clause by clause: of the five parts of a read's effect each kind of register has its own. -/
theorem registerReads : Obligations.RegisterReads := by
  intro s m hp hm hv
  refine ⟨fun a cycle h ha hfree hr => ⟨fun g => read_lo hp hm hv ha hfree hr, fun v => read_hi hp hm hv ha hfree hr⟩,
    fun a h ha hfree hr => read_rc hp hm hv ha hfree hr, fun n => read_fxSeq hp hm hv n, fun epoch cycle => ?_,
    fun n => read_capPos hp hm hv n⟩
  have hmod : (viewBt cycle.val s.core).viewing m = false := hv
  cases epoch
  case false =>
    intro a t hfree hon hh h0 h1
    obtain ⟨hns, hlo, hhi⟩ := viewBt_time cycle.val s.core
    refine read_seconds hp hm hv (h := btTime) rfl rfl rfl (by simp [btTime]) rfl hfree
      (route_of_place placeOf_btTime rfl hon rfl find_btTime) hh ?_ ?_
    · rw [wordOf_one hmod rfl rfl (by decide) (by decide) (by decide) (by decide)]
      exact hns.trans (nsOf_mod t)
    · simp only [Chip.secsShown, btTime, if_true, Chip.shownTo, hmod, Bool.false_eq_true, if_false, hlo, hhi]
      exact secsOf_halves h0 h1
  case true =>
    intro a t hfree hon hh h0 h1
    obtain ⟨hns, hlo, hhi⟩ := viewBt_epoch cycle.val s.core
    refine read_seconds hp hm hv (h := btEpoch) rfl rfl rfl (by simp [btEpoch]) rfl hfree
      (route_of_place placeOf_btEpoch rfl hon rfl find_btEpoch) hh ?_ ?_
    · rw [wordOf_one hmod rfl rfl (by decide) (by decide) (by decide) (by decide)]
      exact hns.trans (nsOf_mod t)
    · rw [Chip.secsShown, if_neg (by decide), Chip.rd2, hlo, hhi]
      exact secsOf_halves h0 h1

end Sys2Proof.Machine
end

section
/-! What a command leaves of the beat counter, the epoch, the OTP and the Crock's memories, said once for all commands:
power-on reset clears them, BEAT_OPEN and TIME_STEP move device time, and the others keep them. -/

namespace Sys2Proof.Machine

open Sys2Proof

/-- The command puts the device in power-on reset: PORST_n falls, or the monitor of an AON supply reports out of range while
PORST_n is high (R496). -/
def Chip.resetBy (i : Instr) (c : Chip) : Prop := i = .powerOnReset ∨ (i.startsReset ∧ c.sys.pwr.porst = false)

/-- What a command leaves of the parts that only its own commands change (R40, R44, R445, R461). -/
inductive FixedAfter (i : Instr) (s t : State) : Prop
  | reset (hi : Chip.resetBy i s.core) (hfix : t.core.fix = ⟨0, 0, s.core.fix.otp⟩)
  | beat (f : Chip → Chip) (hi : ∃ g a, i = .beatOpen g a) (hcore : t.core = guardedTime 1 f s.core)
  | step (f : Chip → Chip) (hi : i = .timeStep) (hcore : t.core = guardedTime 0 f s.core)
  | other (hi : ¬ Chip.resetBy i s.core) (hbeat : ¬ ∃ g a, i = .beatOpen g a) (hfix : t.core.fix = s.core.fix)
      (hcrock : ¬ i.crockRow → t.core.crockMem = s.core.crockMem)

theorem not_resetBy {i : Instr} (h : ¬ i.powerRow) (c : Chip) : ¬ Chip.resetBy i c := by
  rintro (rfl | ⟨rfl | ⟨k, -, rfl⟩, -⟩)
  · exact h (.inl rfl)
  · exact h (.inl rfl)
  · exact h (.inr (.inr ⟨_, _, rfl⟩))

theorem not_powerRow_of_crockRow {i : Instr} (h : i.crockRow) : ¬ i.powerRow := by
  rcases h with rfl | ⟨_, _, rfl⟩ | ⟨_, _, _, _, _, rfl⟩ <;> simp [Instr.powerRow]

theorem not_beatOpen_of_crockRow {i : Instr} (h : i.crockRow) : ¬ ∃ g a, i = .beatOpen g a := by
  rcases h with rfl | ⟨_, _, rfl⟩ | ⟨_, _, _, _, _, rfl⟩ <;> simp

theorem exec_jtagRow_core {i : Instr} {s t : State} (hi : i.jtagRow) (h : exec i s = .next t) : t.core = s.core := by
  rcases hi with rfl | ⟨m, d, rfl⟩ <;> cases h <;> rfl

theorem fixedAfter_jtagRow {i : Instr} {s t : State} (hi : i.jtagRow) (h : exec i s = .next t) : FixedAfter i s t := by
  have hc := exec_jtagRow_core hi h
  refine .other (not_resetBy ?_ _) ?_ (by rw [hc]) fun _ => by rw [hc]
  all_goals rcases hi with rfl | ⟨_, _, rfl⟩ <;> simp [Instr.powerRow]

/-- SUPPLY_ALARM resets the device by an AON monitor out of range, and else changes nothing fixed. -/
theorem fixedAfter_supplyAlarm {k : Fin 16} {b : Bool} {s t : State} (h : exec (.supplyAlarm k b) s = .next t) :
    FixedAfter (.supplyAlarm k b) s t := by
  rw [exec_supplyAlarm] at h
  split at h
  case isTrue hp =>
    cases h
    exact .other (by simp [Chip.resetBy, hp]) (by simp) rfl fun _ => rfl
  case isFalse hp =>
    have hp : s.core.sys.pwr.porst = false := by simpa using hp
    split at h
    case isTrue hk =>
      cases h
      obtain ⟨rfl, hk⟩ := hk
      exact .reset (.inr ⟨.inr ⟨k, hk, rfl⟩, hp⟩) rfl
    case isFalse hk =>
      cases h
      refine .other ?_ (by simp) (guarded_fix _ _) fun _ => guarded_crockMem _ _
      rintro (h | ⟨h | ⟨k', hlt, h⟩, -⟩)
      · cases h
      · cases h
      · cases h
        exact hk ⟨rfl, hlt⟩

theorem fixedAfter_powerRow {i : Instr} {s t : State} (hi : i.powerRow) (h : exec i s = .next t) : FixedAfter i s t := by
  rcases hi with rfl | rfl | ⟨k, b, rfl⟩
  · cases h
    exact .reset (.inl rfl) rfl
  · cases h
    exact .other (by simp [Chip.resetBy, Instr.startsReset]) (by simp) rfl fun _ => rfl
  · exact fixedAfter_supplyAlarm h

/-- Every command resets, opens a beat, takes the step, or keeps what is fixed. -/
theorem exec_fixedAfter {i : Instr} {s t : State} (h : exec i s = .next t) : FixedAfter i s t := by
  cases exec_shape i s with
  | runs f hf hi =>
    obtain ⟨hpow, -, -, -, hbeat⟩ := hi
    cases hf.symm.trans h
    exact .other (not_resetBy hpow _) hbeat (guarded_fix _ _) fun _ => guarded_crockMem _ _
  | beat f hf hi =>
    cases hf.symm.trans h
    exact .beat f hi rfl
  | step f hf hi =>
    cases hf.symm.trans h
    exact .step f hi rfl
  | crock f hf hi =>
    cases hf.symm.trans h
    exact .other (not_resetBy (not_powerRow_of_crockRow hi) _) (not_beatOpen_of_crockRow hi) (guardedCrock_fix _ _)
      fun hn => absurd hi hn
  | power hi => exact fixedAfter_powerRow hi h
  | jtag hi => exact fixedAfter_jtagRow hi h

/-! ### What follows of the beat counter, the epoch, the OTP and the Crock -/

/-- A command that cannot start power-on reset does not put the device in it. -/
theorem not_resetBy_of_not_startsReset {i : Instr} (h : ¬ i.startsReset) (c : Chip) : ¬ Chip.resetBy i c := by
  rintro (rfl | ⟨hi, -⟩)
  · exact h (.inl rfl)
  · exact h hi

/-- A device in power-on reset is put in it again by PORST_n alone. -/
theorem not_resetBy_of_held {i : Instr} {c : Chip} (h : i ≠ .powerOnReset) (hp : c.sys.pwr.porst = true) :
    ¬ Chip.resetBy i c := by
  rintro (rfl | ⟨-, hn⟩)
  · exact h rfl
  · exact absurd hn (by simp [hp])

theorem exec_fix_of_resetBy {i : Instr} {s t : State} (h : exec i s = .next t) (hi : Chip.resetBy i s.core) :
    t.core.fix = ⟨0, 0, s.core.fix.otp⟩ := by
  cases exec_fixedAfter h with
  | reset _ hfix => exact hfix
  | beat _ hb _ =>
    obtain ⟨g, a, rfl⟩ := hb
    exact absurd hi (not_resetBy (by simp [Instr.powerRow]) _)
  | step _ hs _ =>
    subst hs
    exact absurd hi (not_resetBy (by simp [Instr.powerRow]) _)
  | other hn _ _ _ => exact absurd hi hn

theorem guardedTime_zero_beat (f : Chip → Chip) (c : Chip) : (guardedTime 0 f c).fix.beat = c.fix.beat := by
  unfold guardedTime
  split
  · rfl
  · exact BitVec.add_zero _

/-- Without power-on reset only BEAT_OPEN moves the beat counter (R40). -/
theorem exec_beat_of_not_resetBy {i : Instr} {s t : State} (h : exec i s = .next t) (hi : ¬ Chip.resetBy i s.core)
    (hb : ¬ ∃ g a, i = .beatOpen g a) : t.core.fix.beat = s.core.fix.beat := by
  cases exec_fixedAfter h with
  | reset hr _ => exact absurd hr hi
  | beat _ ho _ => exact absurd ho hb
  | step f _ hcore => rw [hcore, guardedTime_zero_beat]
  | other _ _ hfix _ => rw [hfix]

/-- While PORST_n is low the fixed part stays, but for PORST_n falling again. -/
theorem exec_fix_of_held {i : Instr} {s t : State} (h : exec i s = .next t) (hi : i ≠ .powerOnReset)
    (hp : s.core.sys.pwr.porst = true) : t.core.fix = s.core.fix := by
  cases exec_fixedAfter h with
  | reset hr _ => exact absurd hr (not_resetBy_of_held hi hp)
  | beat f _ hcore => rw [hcore, guardedTime_held hp]
  | step f _ hcore => rw [hcore, guardedTime_held hp]
  | other _ _ hfix _ => exact hfix

theorem exec_beatOpen_beat {g : BitVec 16} {a : BitVec 24} {s t : State} (h : exec (.beatOpen g a) s = .next t)
    (hp : s.core.sys.pwr.porst = false) : t.core.fix.beat = s.core.fix.beat + 1 := by
  cases h
  exact guardedTime_beat hp _ _

/-- No command changes the OTP (R445). -/
theorem exec_otp {i : Instr} {s t : State} (h : exec i s = .next t) : t.core.fix.otp = s.core.fix.otp := by
  cases exec_fixedAfter h with
  | reset _ hfix => rw [hfix]
  | beat f _ hcore => rw [hcore, guardedTime_otp]
  | step f _ hcore => rw [hcore, guardedTime_otp]
  | other _ _ hfix _ => rw [hfix]

/-- Without power-on reset only TIME_STEP and BEAT_OPEN move the epoch (R41, R44). -/
theorem exec_epoch {i : Instr} {s t : State} (h : exec i s = .next t) (hi : ¬ Chip.resetBy i s.core)
    (hs : i ≠ .timeStep) (hb : ¬ ∃ g a, i = .beatOpen g a) : t.core.fix.epoch = s.core.fix.epoch := by
  cases exec_fixedAfter h with
  | reset hr _ => exact absurd hr hi
  | beat _ ho _ => exact absurd ho hb
  | step _ hst _ => exact absurd hst hs
  | other _ _ hfix _ => rw [hfix]

/-- Without power-on reset only the Crock's own commands change its memories (R461, R466, R467). -/
theorem exec_crockMem {i : Instr} {s t : State} (h : exec i s = .next t) (hi : ¬ Chip.resetBy i s.core)
    (hc : ¬ i.crockRow) : t.core.crockMem = s.core.crockMem := by
  cases exec_fixedAfter h with
  | reset hr _ => exact absurd hr hi
  | beat f _ hcore => rw [hcore, guardedTime_crockMem]
  | step f _ hcore => rw [hcore, guardedTime_crockMem]
  | other _ _ _ hcrock => exact hcrock hc

/-- Settles O4: each clause is what the guard of the command leaves of the beat counter. -/
theorem beatCounter : Obligations.BeatCounter := by
  intro i s t h
  refine ⟨?_, fun hi => ?_, fun hi hp => ?_, fun hi hb => ?_⟩
  · rintro hp ⟨g, a, rfl⟩
    exact exec_beatOpen_beat h hp
  · rw [exec_fix_of_resetBy h hi]
  · rw [exec_fix_of_held h hi hp]
  · exact exec_beat_of_not_resetBy h (not_resetBy_of_not_startsReset hi _) hb

theorem epochOtpCrock : Claim.EpochOtpCrock := by
  intro i s t h
  exact ⟨exec_otp h, fun hi hs hb => exec_epoch h (not_resetBy_of_not_startsReset hi _) hs hb,
    fun hi hc => exec_crockMem h (not_resetBy_of_not_startsReset hi _) hc⟩

/-- Every guard lets nothing through while PORST_n is low (R496). -/
theorem heldInReset : Claim.HeldInReset := by
  intro i s hp hpow hjtag
  cases exec_shape i s with
  | runs f hf _ => rw [hf, runs, guarded_held hp]
  | beat f hf _ => rw [hf, runsTime, guardedTime_held hp]
  | step f hf _ => rw [hf, runsTime, guardedTime_held hp]
  | crock f hf _ => rw [hf, runsCrock, guardedCrock_held hp]
  | power hi => exact absurd hi hpow
  | jtag hi => exact absurd hi hjtag

/-- Settles O5: what the guards of the commands keep, and that they let nothing through in power-on reset. -/
theorem whatTimeAndResetKeep : Obligations.WhatTimeAndResetKeep := ⟨epochOtpCrock, heldInReset⟩

end Sys2Proof.Machine
end

section
/-! The step (02, R43, R44; 15, R430): how it is fixed, what its taking books, and what the servo that follows it leaves of
that. -/

namespace Sys2Proof.Machine

open Sys2Proof

/-! ### Register values -/

/-- A value that fits a pair of registers is read back from it (R28). -/
theorem rd2_wr2 {lo hi : Fld} (h : lo.key ≠ hi.key) {v : Nat} (hv : v < 2 ^ (lo.w + hi.w)) (c : Chip) :
    (wr2 lo hi v c).rd2 lo hi = v := by
  have hq : v / 2 ^ lo.w < 2 ^ hi.w := Nat.div_lt_of_lt_mul (by rwa [← Nat.pow_add])
  rw [Chip.rd2, rd_wr2_lo h, wr2, rd_wr_same, Nat.mod_eq_of_lt hq]
  exact Nat.mod_add_div' v _

theorem toS_ofS_word {i : Int} (h0 : -2147483648 ≤ i) (h1 : i < 2147483648) : toS 32 (ofS 32 i % 2 ^ 32) = i := by
  unfold toS ofS
  dsimp only
  split <;> omega

theorem clampI_bounds {lo hi : Int} (h : lo ≤ hi) (x : Int) : lo ≤ clampI lo hi x ∧ clampI lo hi x ≤ hi := by
  unfold clampI
  split
  · omega
  · split <;> omega

/-! ### Fixing the step (R43, R430) -/

/-- The least stretch that makes a time a whole multiple of 250 ns (R44). -/
def stretchOf (m : Int) : Nat := ((250 - m % 250) % 250).toNat

theorem stretchOf_lt (m : Int) : stretchOf m < 250 := by
  unfold stretchOf
  omega

theorem add_stretchOf_mod (m : Int) : (m + 250 + stretchOf m) % 250 = 0 := by
  unfold stretchOf
  omega

/-- With its conditions met and four exchanges the step is fixed for the beat four on, and nothing else changes. -/
theorem stepFix_fixes {c : Chip} (ht : c.timeState = 1) (hs : c.sys.net.servo.step = none) (hr : c.running = none)
    (hj : ∀ j ∈ c.host.jobs, ∀ b, j.st = 1 → j.start = some b → c.now + 4 < b)
    (ho : 4 ≤ (c.port c.ctlPath).offsets.length) :
    ∃ m k, stepFix c =
      modServo (fun v => { v with step := some (c.now + 4, stretchOf m, m + 250 + stretchOf m, k) }) c := by
  unfold stepFix
  rw [if_pos]
  · match (c.port c.ctlPath).offsets, ho with
    | (o0, t0) :: x1 :: x2 :: (o3, t3) :: l, _ => exact ⟨_, _, rfl⟩
  · refine ⟨ht, hs, hr, List.all_eq_true.2 fun j hmem => ?_⟩
    obtain ⟨hmem, hst⟩ := List.mem_filter.1 hmem
    split
    · rename_i b hb
      exact decide_eq_true (hj j hmem b (by simpa using hst) hb)
    · rfl

/-! ### What taking the step books (R44) -/

/-- The registers that record the step, and the trim (R44, R430). -/
def stepRegs (ns d : Nat) (i : Int) (c : Chip) : Chip :=
  wr2 Reg.BT_STEP_BEAT_LO_step_beat Reg.BT_STEP_BEAT_HI_step_beat ns c
    |> wr Reg.BT_STEP_STRETCH_stretch d |> wr Reg.BT_STATUS_step_done 1 |> wrS Reg.BT_RATE_TRIM_trim (-i)

/-- The device as the step leaves it, before its event, its notice and the servo's next move: the epoch, the registers that
record the step, and the servo. -/
def stepBook (ns d : Nat) (t ppt : Int) (c : Chip) : Chip :=
  let i := clampI (-200000000) 200000000 ppt
  stepRegs ns d i { c with fix := { c.fix with epoch := t - 250 * ((ns + 1 : Nat) : Int) } }
    |> modServo (fun s => { s with step := none, integ := i, newTrim := none, moved := false })

/-- The parameters of the event of a step. -/
def stepEvent (ns d : Nat) (dt : Int) : List Byte :=
  u32 ns ++ u8 d ++ toLE 3 (ofS 24 (clampI (-8388608) 8388607 (divTrunc dt giga)))

/-- What follows the step: the offset of a path that control has moved to since, then the conditions of HOLDOVER (R433,
R440). -/
def afterStep (moved : Bool) (c : Chip) : Chip :=
  let c := when moved servoMoved c
  if (c.port c.ctlPath).master.isNone then masterMissing c else syncTimeout c.ctlPath c

/-- A step that is due is booked, logged and told as LOCKED, and the servo goes on. -/
theorem timeStep_due {c : Chip} {ns d : Nat} {t ppt : Int} (hs : c.sys.net.servo.step = some (ns, d, t, ppt))
    (ht : c.timeState = 1) (hn : ns < c.now) :
    timeStep c = afterStep c.sys.net.servo.moved
      (setTime 2 (ns + 1) (log 0x0130 0 (stepEvent ns d (t - c.timeOf (ns + 1))) (stepBook ns d t ppt c))) := by
  unfold timeStep
  rw [hs]
  dsimp only
  rw [if_pos ⟨ht, hn⟩]
  rfl

section
variable {ns d : Nat} (i : Int) (c : Chip)

theorem stepRegs_beat (h : ns < 2 ^ 64) :
    (stepRegs ns d i c).rd2 Reg.BT_STEP_BEAT_LO_step_beat Reg.BT_STEP_BEAT_HI_step_beat = ns := by
  have hkept : ∀ g : Fld, g.key ≠ Reg.BT_STEP_STRETCH_stretch.key → g.key ≠ Reg.BT_STATUS_step_done.key →
      g.key ≠ Reg.BT_RATE_TRIM_trim.key → (stepRegs ns d i c).rd g =
        (wr2 Reg.BT_STEP_BEAT_LO_step_beat Reg.BT_STEP_BEAT_HI_step_beat ns c).rd g := fun g h0 h1 h2 =>
    (rd_wr_ne h2 _ _).trans ((rd_wr_ne h1 _ _).trans (rd_wr_ne h0 _ _))
  rw [Chip.rd2, hkept _ (by decide) (by decide) (by decide), hkept _ (by decide) (by decide) (by decide)]
  exact rd2_wr2 (by decide) h c

theorem stepRegs_stretch (h : d < 250) : (stepRegs ns d i c).rd Reg.BT_STEP_STRETCH_stretch = d :=
  calc (stepRegs ns d i c).rd Reg.BT_STEP_STRETCH_stretch
    _ = d % 2 ^ 8 := (rd_wr_ne (by decide) _ _).trans ((rd_wr_ne (by decide) _ _).trans (rd_wr_same _ _ _))
    _ = d := Nat.mod_eq_of_lt (by omega)

theorem stepRegs_done : (stepRegs ns d i c).rd Reg.BT_STATUS_step_done = 1 :=
  (rd_wr_ne (by decide) _ _).trans (rd_wr_same _ _ _)

theorem stepRegs_trim (h0 : -200000000 ≤ i) (h1 : i ≤ 200000000) :
    (stepRegs ns d i c).rdS Reg.BT_RATE_TRIM_trim = -i := by
  have hrd : (stepRegs ns d i c).rd Reg.BT_RATE_TRIM_trim = ofS 32 (-i) % 2 ^ 32 := rd_wr_same _ _ _
  rw [Chip.rdS, hrd]
  exact toS_ofS_word (by omega) (by omega)

end

section
variable (ns d : Nat) (t ppt : Int) (c : Chip)

theorem stepBook_timeOf : (stepBook ns d t ppt c).timeOf (ns + 1) = t := by
  show t - 250 * ((ns + 1 : Nat) : Int) + 250 * ((ns + 1 : Nat) : Int) = t
  omega

theorem stepBook_step : (stepBook ns d t ppt c).sys.net.servo.step = none := rfl

/-- The registers of the step are those of `stepRegs`. -/
theorem stepBook_regs : (stepBook ns d t ppt c).regs = (stepRegs ns d (clampI (-200000000) 200000000 ppt) c).regs := rfl

theorem only_stepBook : Chip.only [.host, .sys] c (stepBook ns d t ppt c) :=
  only_trans (only_fix _ c _ c.crockMem) (only_trans (only_regs _ _ _) (only_sys (by simp) _ _))

end

/-! ### The events of the servo and the ports -/

theorem logQueue_net (cyc code inst : Nat) (par : List Byte) (c : Chip) :
    (logQueue cyc code inst par c).sys.net = c.sys.net := by
  unfold logQueue
  dsimp only
  split
  · rfl
  · rw [inc_sys]

theorem snapTrigger_net (src : Nat) (c : Chip) : (snapTrigger src c).sys.net = c.sys.net := by
  unfold snapTrigger
  split
  · rw [logQueue_net, incSat_sys]
  · rfl

/-- An event leaves the ports and the servo as they are. -/
theorem log_net (code inst : Nat) (par : List Byte) (c : Chip) : (log code inst par c).sys.net = c.sys.net := by
  unfold log logAt
  rw [logQueue_net]
  split
  · exact snapTrigger_net _ _
  · rfl

theorem log_timeState (code inst : Nat) (par : List Byte) (c : Chip) : (log code inst par c).timeState = c.timeState :=
  regsKept_log (regsKept_refl logRegs c) (fun _ h => h) code inst par Reg.BT_STATUS_time_state (by decide)

theorem noticeAll_sys (code status : Nat) (body : List Byte) (c : Chip) : (noticeAll code status body c).sys = c.sys :=
  only_noticeAll (l := [.host]) (by simp) _ _ _ _ .sys (by simp)

theorem setTime_sys (st b : Nat) (c : Chip) : (setTime st b c).sys = c.sys := noticeAll_sys _ _ _ _

theorem setTime_timeState (st b : Nat) (c : Chip) : (setTime st b c).timeState = st % 4 :=
  (rd_congr (noticeAll_regs _ _ _ _) _).trans (rd_wr_same _ _ _)

/-! ### After the step: LOCKED or HOLDOVER (R430–R433) -/

/-- No step is fixed any more, and the time state is LOCKED or HOLDOVER. -/
def Chip.stepped (c : Chip) : Prop := c.sys.net.servo.step = none ∧ (c.timeState = 2 ∨ c.timeState = 3)

theorem stepped_congr {c d : Chip} (h : c.stepped) (hs : d.sys.net.servo.step = c.sys.net.servo.step)
    (ht : d.timeState = c.timeState) : d.stepped := ⟨hs.trans h.1, by rw [ht]; exact h.2⟩

theorem stepped_ite {P : Prop} [Decidable P] {a b : Chip} (ha : a.stepped) (hb : b.stepped) :
    (if P then a else b).stepped := by
  split <;> assumption

theorem stepped_log {c : Chip} (h : c.stepped) (code inst : Nat) (par : List Byte) : (log code inst par c).stepped :=
  stepped_congr h (by rw [log_net]) (log_timeState _ _ _ _)

theorem stepped_wr {c : Chip} (h : c.stepped) {f : Fld} (hf : Reg.BT_STATUS_time_state.key ≠ f.key) (v : Nat) :
    (wr f v c).stepped := stepped_congr h rfl (rd_wr_ne hf v c)

theorem stepped_inc {c : Chip} (h : c.stepped) {f g : Fld} (hf : Reg.BT_STATUS_time_state.key ≠ f.key)
    (hg : Reg.BT_STATUS_time_state.key ≠ g.key) (k : Nat) : (inc f g k c).stepped := by
  unfold inc
  exact stepped_ite (stepped_wr h hf _) (stepped_wr (stepped_wr h hf _) hg _)

theorem stepped_setTime {c : Chip} (h : c.sys.net.servo.step = none) {st : Nat} (hst : st = 2 ∨ st = 3) (b : Nat) :
    (setTime st b c).stepped := by
  refine ⟨by rw [setTime_sys, h], ?_⟩
  rw [setTime_timeState]
  omega

theorem stepped_holdover {c : Chip} (h : c.stepped) (cause : Nat) : (holdover cause c).stepped := by
  have note : ∀ p par, (log 0x0B13 p par (when (c.alive pdNET) (wr Reg.PTP_STATUS_cause cause) c)).stepped := by
    intro p par
    exact stepped_log (stepped_ite (stepped_wr h (by decide) _) h) _ _ _
  exact stepped_ite (stepped_setTime (note _ _).1 (.inr rfl) _) (stepped_ite (note _ _) h)

/-- A first lock cannot become void once the step is taken. -/
theorem voidLock_of_stepped {c : Chip} (h : c.stepped) : voidLock c = c := by
  have h1 : c.timeState ≠ 1 := by
    have := h.2
    omega
  exact if_neg fun h => h1 h.1

theorem stepped_masterMissing {c : Chip} (h : c.stepped) : (masterMissing c).stepped := by
  unfold masterMissing
  rw [voidLock_of_stepped h]
  exact stepped_holdover h 2

theorem stepped_syncTimeout {c : Chip} (h : c.stepped) (p : Path) : (syncTimeout p c).stepped := by
  unfold syncTimeout
  dsimp only
  split
  · exact stepped_ite (stepped_masterMissing h) h
  · exact h

theorem stepped_modServo {c : Chip} (h : c.stepped) {f : Servo → Servo} (hf : ∀ v, (f v).step = v.step) :
    (modServo f c).stepped := ⟨(hf _).trans h.1, h.2⟩

theorem stepped_offsetAccepted {c : Chip} (h : c.stepped) (o : Int) : (offsetAccepted o c).stepped := by
  have count : ∀ f : Servo → Servo, (∀ v, (f v).step = v.step) →
      (inc Reg.PTP_ACCEPTED_count Reg.PTP_STICKY_sat 1 (modServo f c)).stepped := fun f hf =>
    stepped_inc (stepped_modServo h hf) (by decide) (by decide) 1
  have relock : ∀ p par (d : Chip), d.stepped →
      (if d.timeState = 3 then setTime 2 d.now (log 0x0B14 p par d) else d).stepped := fun p par d hd =>
    stepped_ite (stepped_setTime (stepped_log hd _ _ _).1 (.inl rfl) _) hd
  exact relock _ _ _ (count _ fun _ => rfl)

theorem stepped_offsetRefused {c : Chip} (h : c.stepped) (o : Int) : (offsetRefused o c).stepped :=
  stepped_holdover (stepped_log (stepped_inc (stepped_wr h (by decide) _) (by decide) (by decide) _) _ _ _) 1

theorem stepped_offsetTest {c : Chip} (h : c.stepped) (o : Int) : (offsetTest o c).stepped :=
  stepped_ite (stepped_offsetAccepted h o) (stepped_offsetRefused h o)

theorem stepped_servoMoved {c : Chip} (h : c.stepped) : (servoMoved c).stepped := by
  unfold servoMoved
  dsimp only
  split
  · exact stepped_ite (stepped_offsetTest h _) (stepped_holdover h 4)
  · exact stepped_holdover h 4

theorem stepped_afterStep {c : Chip} (h : c.stepped) (moved : Bool) : (afterStep moved c).stepped := by
  have hm : (when moved servoMoved c).stepped := stepped_ite (stepped_servoMoved h) h
  exact stepped_ite (stepped_masterMissing hm) (stepped_syncTimeout hm _)

/-! ### After the step: what is left alone -/

/-- The registers that the servo and its events may change after the step. -/
def servoRegs : List Fld := controlRegs ++ logRegs

theorem controlRegs_subset_servoRegs : controlRegs ⊆ servoRegs := List.subset_append_left _ _
theorem logRegs_subset_servoRegs : logRegs ⊆ servoRegs := List.subset_append_right _ _

theorem quiet_syncTimeout (p : Path) (c : Chip) : Chip.quiet servoRegs c (syncTimeout p c) := by
  unfold syncTimeout
  dsimp only
  split
  · exact quiet_ite (quiet_masterMissing controlRegs_subset_servoRegs logRegs_subset_servoRegs c) (quiet_refl _ c)
  · exact quiet_refl _ c

theorem quiet_afterStep (moved : Bool) (c : Chip) : Chip.quiet servoRegs c (afterStep moved c) := by
  have hm : Chip.quiet servoRegs c (when moved servoMoved c) :=
    quiet_ite (quiet_servoMoved controlRegs_subset_servoRegs logRegs_subset_servoRegs c) (quiet_refl _ c)
  exact quiet_trans hm (quiet_ite (quiet_masterMissing controlRegs_subset_servoRegs logRegs_subset_servoRegs _)
    (quiet_syncTimeout _ _))

/-- A step that is due leaves what it books, but for what the servo and its events change. -/
theorem quiet_timeStep_due {c : Chip} {ns d : Nat} {t ppt : Int} (hs : c.sys.net.servo.step = some (ns, d, t, ppt))
    (ht : c.timeState = 1) (hn : ns < c.now) : Chip.quiet servoRegs (stepBook ns d t ppt c) (timeStep c) := by
  rw [timeStep_due hs ht hn]
  exact quiet_trans (quiet_log logRegs_subset_servoRegs _ _ _ _)
    (quiet_trans (quiet_setTime controlRegs_subset_servoRegs _ _ _) (quiet_afterStep _ _))

theorem stepped_timeStep_due {c : Chip} {ns d : Nat} {t ppt : Int} (hs : c.sys.net.servo.step = some (ns, d, t, ppt))
    (ht : c.timeState = 1) (hn : ns < c.now) : (timeStep c).stepped := by
  rw [timeStep_due hs ht hn]
  refine stepped_afterStep (stepped_setTime ?_ (.inl rfl) _) _
  rw [log_net]
  exact stepBook_step _ _ _ _ _

end Sys2Proof.Machine
end

section
/-! The commands STEP_FIX and TIME_STEP, from the effect to the device that they leave. -/

namespace Sys2Proof.Machine

open Sys2Proof

theorem guardedTime_run {c : Chip} (h : c.sys.pwr.porst = false) (k : Nat) (f : Chip → Chip) :
    guardedTime k f c = { permitFall (f { c with out := [] }) with
      fix := { beat := c.fix.beat + BitVec.ofNat 64 k, epoch := (permitFall (f { c with out := [] })).fix.epoch,
               otp := c.fix.otp }
      crockMem := c.crockMem } := by
  simp [guardedTime, h]

/-- What a command that moves device time keeps of the parts and registers of its effect. -/
theorem guardedTime_leaves {c : Chip} (h : c.sys.pwr.porst = false) (k : Nat) (f : Chip → Chip) :
    Chip.only [] (f { c with out := [] }) (guardedTime k f c) ∧
      Chip.regsKept [Reg.GIO_STATUS_permit] (f { c with out := [] }) (guardedTime k f c) := by
  rw [guardedTime_run h]
  exact ⟨only_trans (only_permitFall [] _) (only_fix [] _ _ _),
    regsKept_regs (regsKept_permitFall (regsKept_refl _ _) List.mem_cons_self) rfl⟩

theorem guardedTime_epoch {c : Chip} (h : c.sys.pwr.porst = false) (k : Nat) (f : Chip → Chip) :
    (guardedTime k f c).fix.epoch = (f { c with out := [] }).fix.epoch := by
  rw [guardedTime_run h]
  simp

theorem ends_stepFix {s : State} (hh : s.core.hears) (ht : s.core.timeState = 1)
    (hs : s.core.sys.net.servo.step = none) (hr : s.core.running = none)
    (hj : ∀ j ∈ s.core.host.jobs, ∀ b, j.st = 1 → j.start = some b → s.core.now + 4 < b)
    (ho : 4 ≤ (s.core.port s.core.ctlPath).offsets.length) : Ends .stepFix s fun t =>
      (∃ d m k, t.core.sys.net.servo.step = some (s.core.now + 4, d, m, k) ∧ d < 250 ∧ m % 250 = 0) ∧
      Chip.only [.sys] s.core t.core ∧ Chip.regsKept [Reg.GIO_STATUS_permit] s.core t.core := by
  obtain ⟨hp, hg⟩ := hh
  obtain ⟨m, k, hfix⟩ := stepFix_fixes (c := { s.core with out := [] }) ht hs hr hj ho
  have heff : when (Chip.hgOn { s.core with out := [] }) stepFix { s.core with out := [] } = _ :=
    (if_pos hg).trans hfix
  have hl := leaves_guarded hp fun c => when c.hgOn stepFix c
  refine ⟨_, rfl, ⟨stretchOf m, m + 250 + stretchOf m, k, ?_, stretchOf_lt m, add_stretchOf_mod m⟩, ?_, ?_⟩
  · have hsys := hl.parts .sys List.not_mem_nil
    simp only [heff] at hsys
    exact congrArg (fun x : Sys => x.net.servo.step) hsys
  · refine only_guarded ?_
    simp only [heff]
    exact only_sys (by simp) _ _
  · refine regsKept_guarded hp ?_ List.mem_cons_self
    simp only [heff]
    exact fun _ _ => rfl

theorem ends_timeStep {s : State} {ns d : Nat} {m k : Int} (hp : s.core.sys.pwr.porst = false)
    (hs : s.core.sys.net.servo.step = some (ns, d, m, k)) (ht : s.core.timeState = 1) (hn : ns < s.core.now)
    (hns : ns < 2 ^ 64) (hd : d < 250) : Ends .timeStep s fun t =>
      t.core.timeOf (ns + 1) = m ∧ t.core.fix.beat = s.core.fix.beat ∧ t.core.sys.net.servo.step = none ∧
      t.core.rd2 Reg.BT_STEP_BEAT_LO_step_beat Reg.BT_STEP_BEAT_HI_step_beat = ns ∧
      t.core.rd Reg.BT_STEP_STRETCH_stretch = d ∧ t.core.flag Reg.BT_STATUS_step_done = true ∧
      t.core.rdS Reg.BT_RATE_TRIM_trim = -(clampI (-200000000) 200000000 k) ∧
      (t.core.timeState = 2 ∨ t.core.timeState = 3) ∧ Chip.only [.host, .sys] s.core t.core := by
  obtain ⟨hregs, honly, -, hfix, -⟩ := quiet_timeStep_due (c := { s.core with out := [] }) hs ht hn
  obtain ⟨hstep, hstate⟩ := stepped_timeStep_due (c := { s.core with out := [] }) hs ht hn
  obtain ⟨hparts, hkept⟩ := guardedTime_leaves hp 0 timeStep
  obtain ⟨hk0, hk1⟩ := clampI_bounds (lo := -200000000) (hi := 200000000) (by decide) k
  have hrd : ∀ g : Fld, (∀ f ∈ Reg.GIO_STATUS_permit :: servoRegs, g.key ≠ f.key) →
      (guardedTime 0 timeStep s.core).rd g =
        (stepRegs ns d (clampI (-200000000) 200000000 k) { s.core with out := [] }).rd g := fun g hg =>
    calc (guardedTime 0 timeStep s.core).rd g
      _ = (timeStep { s.core with out := [] }).rd g :=
        hkept g fun f hf => hg f (List.mem_cons.2 (.inl (List.mem_singleton.1 hf)))
      _ = (stepBook ns d m k { s.core with out := [] }).rd g := hregs g fun f hf => hg f (List.mem_cons_of_mem _ hf)
      _ = _ := rd_congr (stepBook_regs ns d m k _) g
  refine ⟨_, rfl, ?_, guardedTime_zero_beat _ _, ?_, ?_, ?_, ?_, ?_, ?_, ?_⟩
  · show (guardedTime 0 timeStep s.core).fix.epoch + _ = m
    rw [guardedTime_epoch hp, hfix]
    exact stepBook_timeOf ns d m k _
  · have hsys := hparts .sys List.not_mem_nil
    exact (congrArg (fun x : Sys => x.net.servo.step) hsys).trans hstep
  · show Chip.rd2 (guardedTime 0 timeStep s.core) _ _ = ns
    rw [Chip.rd2, hrd _ (by decide), hrd _ (by decide)]
    exact stepRegs_beat _ _ hns
  · exact (hrd _ (by decide)).trans (stepRegs_stretch _ _ hd)
  · show Chip.flag (guardedTime 0 timeStep s.core) _ = true
    rw [Chip.flag, hrd _ (by decide), stepRegs_done]
    rfl
  · show Chip.rdS (guardedTime 0 timeStep s.core) _ = _
    rw [Chip.rdS, hrd _ (by decide)]
    exact stepRegs_trim _ _ hk0 hk1
  · have hst : (guardedTime 0 timeStep s.core).timeState = (timeStep { s.core with out := [] }).timeState :=
      hkept _ (by decide)
    show (guardedTime 0 timeStep s.core).timeState = 2 ∨ (guardedTime 0 timeStep s.core).timeState = 3
    rw [hst]
    exact hstate
  · exact only_trans (only_out _ s.core []) (only_trans (only_stepBook ns d m k _)
      (only_trans honly (only_mono hparts (List.nil_subset _))))

/-- Settles O13: the step is fixed by four exchanges, and once due it books what R44 and R430 say; the servo's moves after
it leave what it booked, and a time state of LOCKED or HOLDOVER. -/
theorem theStep : Obligations.TheStep := fun _ =>
  ⟨fun hh ht hs hr hj ho => ends_stepFix hh ht hs hr hj ho,
    fun _ _ _ _ hp hs ht hn hns hd => ends_timeStep hp hs ht hn hns hd⟩

end Sys2Proof.Machine
end

section
/-! A request served (03_serair_commands.md, R67–R83), said once for all commands of the protocol: the device as the effect of
a request finds it, and what the device that the command leaves keeps of the one in which its effect ended. -/

namespace Sys2Proof.Machine

open Sys2Proof

/-! ### The guard of a request -/

/-- The effect of a command, under a guard that keeps the beat counter, the epoch and the OTP. -/
def Instr.does (i : Instr) (f : Chip → Chip) (s : State) : Prop := exec i s = runs f s ∨ exec i s = runsCrock f s

/-- The guard under which the effect of a command stands leaves of its end everything but what `Chip.Leaves` names. -/
theorem does_leaves {i : Instr} {f : Chip → Chip} {s : State} (he : Instr.does i f s) (hp : s.core.sys.pwr.porst = false) :
    ∃ e, exec i s = .next { s with core := e } ∧ Chip.Leaves s.core (f { s.core with out := [] }) e ∧
      e.out = (f { s.core with out := [] }).out := by
  rcases he with he | he
  · exact ⟨_, he, leaves_guarded hp f, guarded_out hp f⟩
  · refine ⟨_, he, ⟨?_, ?_, guardedCrock_fix f _⟩, ?_⟩ <;> simp only [guardedCrock, hp, Bool.false_eq_true, if_false]
    · exact only_trans (only_permitFall [] _) (only_fix [] _ _ _)
    · exact regsKept_regs (regsKept_permitFall (regsKept_refl _ _) List.mem_cons_self) rfl
    · simp

/-! ### Registers that no reply changes -/

/-- A field of a register that neither an arrival nor a reply changes: outside the session slots, the network ports and
GIO_STATUS. -/
abbrev Fld.untold (g : Fld) : Prop :=
  g.lo < 32 ∧ (g.addr < 0x60100 ∨ (0x60180 ≤ g.addr ∧ g.addr < 0xA0000) ∨ (0xB0000 ≤ g.addr ∧ g.addr ≠ 0x2A0004))

theorem untold_replyRegs {g : Fld} (h : Fld.untold g) (o : Origin) : ∀ f ∈ replyRegs o, g.key ≠ f.key := by
  have hs := o.slot.isLt
  have hc : o.path.code ≤ 1 := by cases o.path <;> simp [Path.code]
  obtain ⟨hlo, ha⟩ := h
  simp only [replyRegs, List.forall_mem_cons, Fld.key, Reg.GIO_STATUS_permit, Reg.SEC_SLOT_STATE_last_path,
    Reg.NET_TX_FRAMES_count, Reg.NET_STICKY_sat]
  refine ⟨?_, ?_, ?_, ?_, by simp⟩ <;> omega

/-! ### What an effect finds -/

/-- `d` is `c` as the effect of a request finds it: nothing sent yet, and of the host side at most the session's packet and
the beat of receipt noted (R73, R85). -/
structure Chip.Arrived (o : Origin) (c d : Chip) : Prop where
  out : d.out = []
  parts : Chip.only [.host] c d
  regs : Chip.regsKept [Reg.SEC_SLOT_STATE_last_path o.slot.val] c d
  fix : d.fix = c.fix
  crockMem : d.crockMem = c.crockMem
  jobs : d.host.jobs = c.host.jobs
  sems : d.host.sems = c.host.sems
  commits : d.host.commits = c.host.commits
  queue : d.host.hg.queue = c.host.hg.queue
  port : d.host.hg.port = c.host.hg.port
  envelope : d.host.sec.envelope = c.host.sec.envelope
  slots : d.host.sec.sessions.length = c.host.sec.sessions.length
  session : ∀ {α : Type} (p : Session → α), (∀ (s : Session) n x y, p { s with last := n, srcA := x, srcB := y } = p s) →
    ∀ k, p (d.session k) = p (c.session k)
  others : ∀ j, j ≠ o.slot.val → d.session j = c.session j

theorem arrived_arrive (o : Origin) (c : Chip) : Chip.Arrived o c (arrive o { c with out := [] }) where
  out := rfl
  parts := only_trans (only_out _ c []) (only_arrive (by simp) o _)
  regs := fun _ hg => rd_wr_ne (hg _ List.mem_cons_self) _ _
  fix := rfl
  crockMem := rfl
  jobs := rfl
  sems := rfl
  commits := rfl
  queue := rfl
  port := rfl
  envelope := rfl
  slots := modAt_length _ _ _
  session := fun _ h k => arrive_session_field h o k { c with out := [] }
  others := fun _ hj => session_mod_ne hj _ { c with out := [] }

theorem arrived_taken (o : Origin) (c : Chip) : Chip.Arrived o c (c.taken o) where
  out := rfl
  parts := only_trans (only_out _ c []) (only_trans (only_host (by simp) _ _) (only_arrive (by simp) o _))
  regs := fun _ hg => rd_wr_ne (hg _ List.mem_cons_self) _ _
  fix := rfl
  crockMem := rfl
  jobs := rfl
  sems := rfl
  commits := rfl
  queue := rfl
  port := rfl
  envelope := rfl
  slots := modAt_length _ _ _
  session := fun _ h k => arrive_session_field h o k (received c.now { c with out := [] })
  others := fun _ hj => session_mod_ne hj _ (received c.now { c with out := [] })

/-- The device as the effect of a request finds it that waits for no other: one that goes through the queue, or past it. -/
def Chip.finds (queued : Bool) (o : Origin) (c : Chip) : Chip :=
  if queued then c.taken o else arrive o { c with out := [] }

theorem arrived_finds (queued : Bool) (o : Origin) (c : Chip) : Chip.Arrived o c (c.finds queued o) := by
  cases queued
  · exact arrived_arrive o c
  · exact arrived_taken o c

section
variable {o : Origin} {c d : Chip} (h : Chip.Arrived o c d)
include h

theorem arrived_rd {g : Fld} (hg : Fld.untold g) : d.rd g = c.rd g :=
  h.regs g fun f hf => untold_replyRegs hg o f (List.mem_singleton.1 hf ▸ replyRegs_path o)

theorem arrived_flag {g : Fld} (hg : Fld.untold g) : d.flag g = c.flag g := by rw [Chip.flag, arrived_rd h hg, Chip.flag]

theorem arrived_rd2 {f g : Fld} (hf : Fld.untold f) (hg : Fld.untold g) : d.rd2 f g = c.rd2 f g := by
  rw [Chip.rd2, arrived_rd h hf, arrived_rd h hg, Chip.rd2]

theorem arrived_now : d.now = c.now := by rw [Chip.now, h.fix, Chip.now]

theorem arrived_timeOf (n : Nat) : d.timeOf n = c.timeOf n := by rw [Chip.timeOf, h.fix, Chip.timeOf]

theorem arrived_sys : d.sys = c.sys := h.parts .sys (by simp)

theorem arrived_on (k : Nat) : d.on k = c.on k := by
  have hd : d.rd Reg.TOP_DOMAIN_ON_on = c.rd Reg.TOP_DOMAIN_ON_on := arrived_rd h (by decide)
  simp only [Chip.on, Chip.shown, Chip.heldReset, hd, arrived_sys h]

theorem arrived_id (k : Nat) : (d.session k).id = (c.session k).id := h.session Session.id (fun _ _ _ _ => rfl) k

theorem arrived_key (k : Nat) : (d.session k).key = (c.session k).key := h.session Session.key (fun _ _ _ _ => rfl) k

theorem arrived_regsKept : Chip.regsKept (replyRegs o) c d :=
  regsKept_mono h.regs (by simpa using replyRegs_path o)

theorem arrived_admitted : d.admitted = c.admitted := by rw [Chip.admitted, h.jobs, Chip.admitted]

theorem arrived_sem (k : Nat) : d.sem k = c.sem k := by rw [Chip.sem, h.sems, Chip.sem]

theorem arrived_dramRead (a n : Nat) : d.dramRead a n = c.dramRead a n := by
  obtain ⟨hdram, hloss⟩ := h.parts .dram (by simp)
  exact dramRead_congr hdram hloss (h.parts .mem (by simp)) a n

theorem arrived_dramState (n : Nat) (hn : n < 2) : d.dramState n = c.dramState n :=
  arrived_rd h (by simp only [Fld.untold, Reg.DMC_STATUS_state]; omega)

theorem arrived_dramOk (a n : Nat) : d.dramOk a n = c.dramOk a n := by
  have hlt : dramChanOf a < 2 := Nat.mod_lt _ (by decide)
  have hcap : d.dramChan = c.dramChan := by
    simp only [Chip.dramChan, Chip.dramRank, arrived_rd h (g := Reg.DMC_CFG_density 0) (by decide),
      arrived_rd h (g := Reg.DMC_CFG_ranks 0) (by decide)]
  simp only [Chip.dramOk, Chip.dramResp, arrived_on h, hcap, arrived_dramState h _ hlt,
    arrived_dramState h 0 (by decide), arrived_dramState h 1 (by decide)]

end

/-! ### What a reply leaves -/

/-- What the session's record keeps of a first reply (R75–R77). -/
def Session.replied (o : Origin) (op : Nat) (a : Ans) (s : Session) : Session :=
  (if a.1 != 0x11 && a.1 != 0x13 then s.accept o.seq.toNat (if a.1 = 0x08 then 2 else 3) a.1 else s).keep
    ⟨o.seq.toNat, op, o.claim.toNat, a.1, a.2⟩

/-- The refusals that a path counts (R76): REFUSED_CLAIM and REFUSED_BUSY. -/
def refusalCounted (p : Path) (a : Ans) (c : Chip) : Chip :=
  when (a.1 == 0x13) (inc (Reg.HG_P_BUSY_count p.code) (Reg.HG_P_STICKY_sat p.code) 4)
    (when (a.1 == 0x11) (inc (Reg.HG_P_CLAIM_count p.code) (Reg.HG_P_STICKY_sat p.code) 3) c)

theorem answer_eq (o : Origin) (op : Nat) (a : Ans) (c : Chip) : answer o op a c =
    sendReply o op false false a (modSession o.slot.val (Session.replied o op a) (refusalCounted o.path a c)) := by
  unfold answer refusalCounted Session.replied
  rfl

theorem replied_field {α : Type} {p : Session → α}
    (h : ∀ (s : Session) n l r, p { s with h := n, seqs := l, cache := r } = p s) (o : Origin) (op : Nat) (a : Ans)
    (s : Session) : p (s.replied o op a) = p s := by
  unfold Session.replied Session.keep Session.accept Session.mark
  dsimp only
  split
  · exact h s _ _ _
  · exact h s s.h s.seqs _

theorem refusalCounted_host (p : Path) (a : Ans) (c : Chip) : (refusalCounted p a c).host = c.host := by
  unfold refusalCounted when
  split <;> split <;> simp

theorem refusalCounted_out (p : Path) (a : Ans) (c : Chip) : (refusalCounted p a c).out = c.out := by
  unfold refusalCounted when
  split <;> split <;> simp

theorem only_refusalCounted (l : List Part) (p : Path) (a : Ans) (c : Chip) : Chip.only l c (refusalCounted p a c) :=
  only_trans (only_when (only_inc l _ _ _ _)) (only_when (only_inc l _ _ _ _))

theorem refusalCounted_none {a : Ans} (h1 : a.1 ≠ 0x11) (h2 : a.1 ≠ 0x13) (p : Path) (c : Chip) :
    refusalCounted p a c = c := by
  simp [refusalCounted, when, h1, h2]

theorem answer_host (o : Origin) (op : Nat) (a : Ans) (c : Chip) :
    (answer o op a c).host = (modSession o.slot.val (Session.replied o op a) c).host := by
  rw [answer_eq, sendReply_host]
  simp only [modSession, refusalCounted_host]

theorem answer_sends (o : Origin) (op : Nat) (a : Ans) (c : Chip) :
    (answer o op a c).out = c.out ++ [.serair o.path o.src (1 + 16 * o.path.code) o.claim.toNat (c.session o.slot.val).id
      o.seq.toNat op a.1 a.2 (some (c.session o.slot.val).key)] := by
  have hf : txFlags o.path false false false = 1 + 16 * o.path.code := by simp [txFlags, b2n]
  have hs (k : Nat) : (refusalCounted o.path a c).session k = c.session k := session_congr (refusalCounted_host _ _ _) k
  rw [answer_eq, sendReply_out, session_mod_field (p := Session.id) (replied_field (fun _ _ _ _ => rfl) o op a),
    session_mod_field (p := Session.key) (replied_field (fun _ _ _ _ => rfl) o op a), hf, hs]
  exact congrArg (· ++ _) (refusalCounted_out _ _ _)

/-- `e` is the device left by a command whose effect ended in `d` and was answered: it keeps everything but the reply's own
registers and the session's record of replies (R67–R77). -/
structure Chip.Told (o : Origin) (d e : Chip) : Prop where
  parts : Chip.only [.host] d e
  regs : Chip.regsKept (replyRegs o) d e
  jobs : e.host.jobs = d.host.jobs
  sems : e.host.sems = d.host.sems
  commits : e.host.commits = d.host.commits
  hg : e.host.hg = d.host.hg
  session : ∀ {α : Type} (p : Session → α), (∀ (s : Session) n l r, p { s with h := n, seqs := l, cache := r } = p s) →
    ∀ k, p (e.session k) = p (d.session k)
  others : ∀ j, j ≠ o.slot.val → e.session j = d.session j

theorem told_answer {o : Origin} {op : Nat} {a : Ans} {c d e : Chip} (h : Chip.Leaves c (answer o op a d) e) :
    Chip.Told o (refusalCounted o.path a d) e := by
  have hh : e.host = (modSession o.slot.val (Session.replied o op a) d).host :=
    (h.parts .host List.not_mem_nil).trans (answer_host o op a d)
  have hr : (refusalCounted o.path a d).host = d.host := refusalCounted_host _ _ _
  have hs (k : Nat) : (refusalCounted o.path a d).session k = d.session k := session_congr hr k
  constructor
  case parts =>
    exact only_trans (only_trans (only_host (by simp) _ _) (only_sendReply _ _ _ _ _ _ _))
      (only_mono h.parts (List.nil_subset _))
  case regs =>
    refine regsKept_trans (regsKept_sendReply o (List.Subset.refl _)
      (regsKept_regs (regsKept_refl _ _) (modSession_regs _ _ _)) op false false a) (regsKept_mono h.regs ?_)
    simpa using replyRegs_permit o
  case session =>
    intro α p hp k
    rw [session_congr hh, hs]
    exact session_mod_field (p := p) (replied_field hp o op a) o.slot.val k d
  case others =>
    intro j hj
    rw [session_congr hh, hs]
    exact session_mod_ne hj _ d
  all_goals
    rw [hh, hr]
    rfl

/-- A refusal that does not take the sequence number keeps the session but for the replies it remembers (R76, R77). -/
theorem session_of_untaken {o : Origin} {op : Nat} {a : Ans} {c d e : Chip} (h : Chip.Leaves c (answer o op a d) e)
    (ha : a.1 = 0x11 ∨ a.1 = 0x13) {α : Type} (p : Session → α) (hp : ∀ (s : Session) l, p { s with cache := l } = p s)
    (k : Nat) : p (e.session k) = p ((refusalCounted o.path a d).session k) := by
  have hh : e.host = (modSession o.slot.val (Session.replied o op a) d).host :=
    (h.parts .host List.not_mem_nil).trans (answer_host o op a d)
  have hs : (refusalCounted o.path a d).session k = d.session k := session_congr (refusalCounted_host _ _ _) k
  rw [session_congr hh, hs]
  refine session_mod_field (p := p) (fun s => ?_) o.slot.val k d
  unfold Session.replied
  rw [if_neg (by rcases ha with ha | ha <;> simp [ha])]
  exact hp s _

section
variable {o : Origin} {d e : Chip} (h : Chip.Told o d e)
include h

theorem told_rd {g : Fld} (hg : Fld.untold g) : e.rd g = d.rd g := h.regs g (untold_replyRegs hg o)

theorem told_flag {g : Fld} (hg : Fld.untold g) : e.flag g = d.flag g := by rw [Chip.flag, told_rd h hg, Chip.flag]

theorem told_sys : e.sys = d.sys := h.parts .sys (by simp)

end

/-! ### Requests that are answered at once -/

/-- The effect of a request ends in `d`: with nothing sent, the session kept, and within the listed parts and registers. -/
structure Chip.EndsIn (o : Origin) (parts : List Part) (regs : List Fld) (c d : Chip) : Prop where
  out : d.out = []
  id : (d.session o.slot.val).id = (c.session o.slot.val).id
  key : (d.session o.slot.val).key = (c.session o.slot.val).key
  parts : Chip.only parts c d
  regs : Chip.regsKept regs c d

theorem arrived_endsIn {o : Origin} {c d : Chip} (h : Chip.Arrived o c d) {parts : List Part} (hp : Part.host ∈ parts)
    {regs : List Fld} (hr : replyRegs o ⊆ regs) : Chip.EndsIn o parts regs c d :=
  ⟨h.out, arrived_id h _, arrived_key h _, only_mono h.parts (by simpa using hp),
    regsKept_mono (arrived_regsKept h) hr⟩

/-- `e` is the device that a command leaves that was answered with `a` once its effect had ended in `d`: what it sent, what
it changed at most, and what it keeps of `d`. -/
structure Chip.Served (o : Origin) (op : Nat) (a : Ans) (parts : List Part) (regs : List Fld) (c d e : Chip) : Prop where
  reply : Replied o op a.1 a.2 c e
  parts : Chip.only parts c e
  regs : Chip.regsKept regs c e
  told : Chip.Told o d e
  untaken : a.1 = 0x11 ∨ a.1 = 0x13 → ∀ {α : Type} (p : Session → α),
    (∀ (s : Session) l, p { s with cache := l } = p s) → ∀ k, p (e.session k) = p (d.session k)

section
variable {i : Instr} {s : State} {o : Origin} {op : Nat} {a : Ans} {d : Chip} {parts : List Part} {regs : List Fld}
  {Q : State → Prop}

/-- A command whose effect ends in an answer to its origin. -/
theorem ends_answer {f : Chip → Chip} (he : Instr.does i f s) (hp : s.core.sys.pwr.porst = false)
    (hf : f { s.core with out := [] } = answer o op a d) (hd : Chip.EndsIn o parts regs s.core d)
    (hcount : Chip.regsKept regs d (refusalCounted o.path a d)) (hparts : Part.host ∈ parts) (hregs : replyRegs o ⊆ regs)
    (hQ : ∀ t : State, Chip.Served o op a parts regs s.core (refusalCounted o.path a d) t.core → Q t) : Ends i s Q := by
  obtain ⟨e, hex, hl, hout⟩ := does_leaves he hp
  rw [hf] at hl hout
  have ht := told_answer hl
  have hcounted : Chip.only parts d (refusalCounted o.path a d) := only_refusalCounted _ _ _ _
  refine ⟨_, hex, hQ _ ⟨?_, only_trans hd.parts (only_trans hcounted (only_mono ht.parts (by simpa using hparts))),
    regsKept_trans hd.regs (regsKept_trans hcount (regsKept_mono ht.regs hregs)), ht, session_of_untaken hl⟩⟩
  show e.out = _
  rw [hout, answer_sends, hd.out, hd.id, hd.key]
  rfl

/-- An answer that no path counts. -/
theorem ends_answer_uncounted {f : Chip → Chip} (he : Instr.does i f s) (hp : s.core.sys.pwr.porst = false)
    (hf : f { s.core with out := [] } = answer o op a d) (h1 : a.1 ≠ 0x11) (h2 : a.1 ≠ 0x13)
    (hd : Chip.EndsIn o parts regs s.core d) (hparts : Part.host ∈ parts) (hregs : replyRegs o ⊆ regs)
    (hQ : ∀ t : State, Chip.Served o op a parts regs s.core d t.core → Q t) : Ends i s Q := by
  have hr := refusalCounted_none h1 h2 o.path d
  exact ends_answer he hp hf hd (by rw [hr]; exact regsKept_refl _ _) hparts hregs (by rw [hr]; exact hQ)

end

/-- What a request must meet for its effect to be carried out at once (R78, R82). -/
structure Chip.Ready (o : Origin) (op role : Nat) (form : Option Nat) (doms : List Nat) (info : OpInfo) (c : Chip) :
    Prop where
  known : opInfo op = some info
  admits : c.admits o role
  free : info.queued = true → c.free
  controls : info.kind = 2 → op ≥ 0x10 → o.path = c.ctlPath ∧ o.claim.toNat = c.claimOf o.path
  form : form = none
  on : ∀ d ∈ doms, c.on d = true

/-- A request that bypasses the queue and needs no claim. -/
theorem ready_open {o : Origin} {op role : Nat} {form : Option Nat} {doms : List Nat} {info : OpInfo} {c : Chip}
    (hi : opInfo op = some info) (hq : info.queued = false) (hk : info.kind ≠ 2 ∨ op < 0x10) (ha : c.admits o role)
    (hform : form = none) (hd : ∀ d ∈ doms, c.on d = true) : Chip.Ready o op role form doms info c where
  known := hi
  admits := ha
  free := fun h => by simp [hq] at h
  controls := fun h1 h2 => by omega
  form := hform
  on := hd

/-- A request of the controlling path that bypasses the queue. -/
theorem ready_claimed {o : Origin} {op role : Nat} {form : Option Nat} {doms : List Nat} {info : OpInfo} {c : Chip}
    (hi : opInfo op = some info) (hq : info.queued = false) (ha : c.obeys o role) (hform : form = none)
    (hd : ∀ d ∈ doms, c.on d = true) : Chip.Ready o op role form doms info c where
  known := hi
  admits := ha.1
  free := fun h => by simp [hq] at h
  controls := fun _ _ => ha.2
  form := hform
  on := hd

/-- A request of the controlling path that finds no other waiting. -/
theorem ready_free {o : Origin} {op role : Nat} {form : Option Nat} {doms : List Nat} {info : OpInfo} {c : Chip}
    (hi : opInfo op = some info) (ha : c.obeys o role) (hfree : c.free) (hform : form = none)
    (hd : ∀ d ∈ doms, c.on d = true) : Chip.Ready o op role form doms info c where
  known := hi
  admits := ha.1
  free := fun _ => hfree
  controls := fun _ _ => ha.2
  form := hform
  on := hd

/-- A request that is carried out at once and answered is its effect on the device as it finds it, and the answer. -/
theorem serve_ready {o : Origin} {op role : Nat} {cmd : Instr} {form : Option Nat} {doms : List Nat} {info : OpInfo}
    {c : Chip} (h : Chip.Ready o op role form doms info c) {f : Chip → Ans × Chip}
    (hid : ((f (c.finds info.queued o)).2.session o.slot.val).id = (c.session o.slot.val).id) :
    serve o op role cmd form doms (now f) { c with out := [] } =
      answer o op (f (c.finds info.queued o)).1 (f (c.finds info.queued o)).2 := by
  obtain ⟨hi, ha, hfree, hc, rfl, hd⟩ := h
  cases hq : info.queued
  case false =>
    rw [hq] at hid
    exact serve_bypass (c := { c with out := [] }) hi hq ha hc hd
  case true =>
    rw [hq] at hid
    refine serve_queued_now (c := { c with out := [] }) hi hq ha (hfree hq) hc hd ?_
    exact hid.trans (arrived_id (arrived_taken o c) _).symm

/-- A request that the first checks let through but whose parameters break the form (R78, step 6). -/
theorem serve_badForm {o : Origin} {op role off : Nat} {cmd : Instr} {doms : List Nat} {info : OpInfo} {c : Chip}
    (h : Chip.Ready o op role none [] info c) (f : Chip → Option Ans × Chip) :
    serve o op role cmd (some off) doms f { c with out := [] } = answer o op (badParam off) (c.finds info.queued o) := by
  obtain ⟨hi, ha, hfree, hc, -, -⟩ := h
  have hempty : info.queued = true → c.host.hg.queue = [] := fun hq => (hfree hq).1
  have hg : Chip.hgOn { c with out := [] } = true := ha.1.2
  unfold serve
  cases hq : info.queued
  case false =>
    have hhead := headChecks_none (c := { c with out := [] }) (o := o) ha hc fun h => hempty h
    simp only [hg, hi, hq, hhead, Bool.not_true, Bool.false_eq_true, if_false]
    rfl
  case true =>
    have hhead := headChecks_none (c := received c.now { c with out := [] }) (o := o) ha hc fun h => hempty h
    simp only [hg, hi, hq, hempty hq, Bool.not_true, Bool.false_eq_true, if_false, if_true]
    rw [show headChecks o op info role (arrive o (received (Chip.now { c with out := [] }) { c with out := [] })) = none
      from hhead]
    rfl

section
variable {i : Instr} {s : State} {o : Origin} {op role : Nat} {cmd : Instr} {form : Option Nat} {doms : List Nat}
  {info : OpInfo} {a : Ans} {Q : State → Prop}

/-- A request that is carried out at once and answered. -/
theorem ends_served {f : Chip → Ans × Chip} {d : Chip} {parts : List Part} {regs : List Fld}
    (he : Instr.does i (serve o op role cmd form doms (now f)) s) (h : Chip.Ready o op role form doms info s.core)
    (hf : f (s.core.finds info.queued o) = (a, d)) (h1 : a.1 ≠ 0x11) (h2 : a.1 ≠ 0x13)
    (hd : Chip.EndsIn o parts regs s.core d) (hparts : Part.host ∈ parts) (hregs : replyRegs o ⊆ regs)
    (hQ : ∀ t : State, Chip.Served o op a parts regs s.core d t.core → Q t) : Ends i s Q := by
  refine ends_answer_uncounted he h.admits.1.1 ?_ h1 h2 hd hparts hregs hQ
  rw [serve_ready h (by rw [hf]; exact hd.id), hf]

/-- A request refused for the form of its parameters. -/
theorem ends_badForm {off : Nat} {f : Chip → Option Ans × Chip}
    (he : Instr.does i (serve o op role cmd (some off) doms f) s) (h : Chip.Ready o op role none [] info s.core)
    (hQ : ∀ d, Chip.Arrived o s.core d → ∀ t : State,
      Chip.Served o op (badParam off) [.host] (replyRegs o) s.core d t.core → Q t) : Ends i s Q := by
  have harr := arrived_finds info.queued o s.core
  exact ends_answer_uncounted he h.admits.1.1 (serve_badForm h f) (by simp [badParam, refuse])
    (by simp [badParam, refuse]) (arrived_endsIn harr List.mem_cons_self (List.Subset.refl _)) List.mem_cons_self
    (List.Subset.refl _) (hQ _ harr)

/-- A request whose effect only answers. -/
theorem ends_told {f : Chip → Ans} (he : Instr.does i (serve o op role cmd form doms (tell f)) s)
    (h : Chip.Ready o op role form doms info s.core) (hf : ∀ d, Chip.Arrived o s.core d → f d = a) (h1 : a.1 ≠ 0x11)
    (h2 : a.1 ≠ 0x13) (hQ : ∀ d, Chip.Arrived o s.core d → ∀ t : State,
      Chip.Served o op a [.host] (replyRegs o) s.core d t.core → Q t) : Ends i s Q := by
  have harr := arrived_finds info.queued o s.core
  exact ends_served (f := fun c => (f c, c)) he h (Prod.ext (hf _ harr) rfl) h1 h2
    (arrived_endsIn harr List.mem_cons_self (List.Subset.refl _)) List.mem_cons_self (List.Subset.refl _) (hQ _ harr)

theorem tells_of_serve {f : Chip → Ans} (he : Instr.does i (serve o op role cmd form doms (tell f)) s)
    (h : Chip.Ready o op role form doms info s.core) (hf : ∀ d, Chip.Arrived o s.core d → f d = a) (h1 : a.1 ≠ 0x11)
    (h2 : a.1 ≠ 0x13) : Tells i s o op a.1 a.2 :=
  ends_told he h hf h1 h2 fun _ _ _ ht => ⟨ht.reply, ht.parts, ht.regs⟩

end

end Sys2Proof.Machine
end

section
/-! The commands of a session: NOTICE_MASK, RESULT_QUERY, the semaphores (03_serair_commands.md, R75, R86, R88, R89,
R100–R102). -/

namespace Sys2Proof.Machine

open Sys2Proof

/-! ### Notices and results -/

theorem session_modSession_same {k : Nat} {c : Chip} (h : k < c.host.sec.sessions.length) (f : Session → Session) :
    (modSession k f c).session k = f (c.session k) := modAt_getD_same h f _

/-- A change of a session's own record that leaves its id and key. -/
theorem endsIn_modSession {o : Origin} {parts : List Part} {regs : List Fld} {c d : Chip}
    (h : Chip.EndsIn o parts regs c d) (hp : Part.host ∈ parts) {f : Session → Session} (hid : ∀ s, (f s).id = s.id)
    (hkey : ∀ s, (f s).key = s.key) {k : Nat} : Chip.EndsIn o parts regs c (modSession k f d) where
  out := h.out
  id := (session_mod_field (p := Session.id) hid _ _ d).trans h.id
  key := (session_mod_field (p := Session.key) hkey _ _ d).trans h.key
  parts := only_trans h.parts (only_host hp _ _)
  regs := regsKept_regs h.regs rfl

theorem ends_noticeMask {s : State} {o : Origin} (ha : s.core.admits o 1)
    (hs : o.slot.val < s.core.host.sec.sessions.length) (mask classes : BitVec 16) :
    Ends (.noticeMask o mask classes) s fun t => Replied o 0x05 0 [] s.core t.core ∧
      (t.core.session o.slot.val).nmask = mask.toNat ∧ (t.core.session o.slot.val).emask = classes.toNat ∧
      (∀ j, j ≠ o.slot.val → t.core.session j = s.core.session j) ∧ Chip.only [.host] s.core t.core ∧
      Chip.regsKept (replyRegs o) s.core t.core := by
  have h := arrived_finds false o s.core
  refine ends_served (.inl rfl) (ready_open rfl rfl (.inr (by decide)) ha rfl (by simp)) rfl (by decide) (by decide)
    (parts := [.host]) ?_ List.mem_cons_self (List.Subset.refl _) fun t ht =>
      ⟨ht.reply, ?_, ?_, fun j hj => ?_, ht.parts, ht.regs⟩
  · refine endsIn_modSession (arrived_endsIn h List.mem_cons_self (List.Subset.refl _)) List.mem_cons_self ?_ ?_
    · exact fun _ => rfl
    · exact fun _ => rfl
  · rw [ht.told.session Session.nmask (fun _ _ _ _ => rfl), session_modSession_same (h.slots ▸ hs)]
  · rw [ht.told.session Session.emask (fun _ _ _ _ => rfl), session_modSession_same (h.slots ▸ hs)]
  · rw [ht.told.others j hj, session_mod_ne hj, h.others j hj]

theorem ends_resultQuery {s : State} {o : Origin} (ha : s.core.admits o 1) (seq : BitVec 32) :
    Ends (.resultQuery o seq) s fun t => Replied o 0x06 0
        (match (s.core.session o.slot.val).seqs.find? fun r => r.seq == seq.toNat with
          | some r => toBE 1 r.st ++ toBE 1 r.status ++ toBE 2 0
          | none => toBE 1 0 ++ toBE 1 0 ++ toBE 2 0) s.core t.core ∧
      (∀ j, j ≠ o.slot.val → t.core.session j = s.core.session j) ∧
      Chip.only [.host] s.core t.core ∧ Chip.regsKept (replyRegs o) s.core t.core := by
  refine ends_told (a := done _) (.inl rfl) (ready_open rfl rfl (.inr (by decide)) ha rfl (by simp)) (fun d hd => ?_)
    (by simp [done]) (by simp [done]) fun d hd t ht =>
    ⟨ht.reply, fun j hj => (ht.told.others j hj).trans (hd.others j hj), ht.parts, ht.regs⟩
  have hseqs := hd.session Session.seqs (fun _ _ _ _ => rfl) o.slot.val
  simp only [hseqs]
  cases (s.core.session o.slot.val).seqs.find? fun r => r.seq == seq.toNat <;> rfl

/-- Settles O18: both commands bypass the queue; NOTICE_MASK changes its session, RESULT_QUERY only answers. -/
theorem noticesAndResults : Obligations.NoticesAndResults := fun _ _ ha hs =>
  ⟨fun mask classes => ends_noticeMask ha hs mask classes, fun seq => ends_resultQuery ha seq⟩

/-! ### Semaphores -/

/-- A change of the semaphores. -/
theorem endsIn_modSem {o : Origin} {parts : List Part} {regs : List Fld} {c d : Chip} (h : Chip.EndsIn o parts regs c d)
    (hp : Part.host ∈ parts) {k : Nat} {f : Sem → Sem} : Chip.EndsIn o parts regs c (modSem k f d) where
  out := h.out
  id := h.id
  key := h.key
  parts := only_trans h.parts (only_host hp _ _)
  regs := regsKept_regs h.regs rfl

theorem sem_modSem_same {k : Nat} {c : Chip} (h : k < c.host.sems.length) (f : Sem → Sem) :
    (modSem k f c).sem k = f (c.sem k) := modAt_getD_same h f _

theorem sem_modSem_ne {j k : Nat} (h : j ≠ k) (f : Sem → Sem) (c : Chip) : (modSem k f c).sem j = c.sem j :=
  modAt_getD_ne _ h f _

theorem told_sem {o : Origin} {d e : Chip} (h : Chip.Told o d e) (k : Nat) : e.sem k = d.sem k := by
  rw [Chip.sem, h.sems, Chip.sem]

theorem semReleased_idle {k : Nat} {c : Chip} (h : c.host.commits = []) : semReleased k c = c := by
  unfold semReleased
  split
  · rw [modCommits, h]
    exact congrArg (fun l => { c with host := { c.host with commits := l } }) h.symm
  · simp [commitsBegin, h, forEach]

/-- A release of a semaphore for which no commit waits (R100, R124). -/
theorem semFree_idle {k : Nat} {c : Chip} (h : c.host.commits = []) :
    semFree false k c = modSem k (fun s => ⟨0, 0, s.broken⟩) c := by
  refine (semReleased_idle (c := when false _ (modSem k _ c)) h).trans ?_
  simp only [when, Bool.or_false, Bool.false_eq_true, if_false]

section
variable {s : State} {o : Origin} (ha : s.core.obeys o 1)
include ha

/-- The semaphores lie in PD_FABRIC, which is on while the Headgate works. -/
theorem ready_sem {op : Nat} {form : Option Nat} {info : OpInfo} (hi : opInfo op = some info)
    (hq : info.queued = false) (hform : form = none) : Chip.Ready o op 1 form [pdFABRIC] info s.core :=
  ready_claimed hi hq ha hform fun d hd => by
    have hg := ha.1.1.2
    simp only [Chip.hgOn, Bool.and_eq_true] at hg
    exact List.mem_singleton.1 hd ▸ hg.1

theorem ends_semAcquire {k : BitVec 8} (hs : s.core.host.sems.length = 64) (h8 : 8 ≤ k.toNat) (h64 : k.toNat < 64) :
    Ends (.semAcquire o k) s fun t =>
      if (s.core.sem k.toNat).cls = 0 then
        Replied o 0x18 0 (toBE 1 (b2n (s.core.sem k.toNat).broken) ++ toBE 3 0) s.core t.core ∧
        t.core.sem k.toNat = ⟨2, o.slot.val, false⟩ ∧ (∀ j, j ≠ k.toNat → t.core.sem j = s.core.sem j) ∧
        Chip.only [.host] s.core t.core ∧ Chip.regsKept (replyRegs o) s.core t.core
      else
        Replied o 0x18 0x16 (toBE 2 (s.core.sem k.toNat).cls ++ toBE 2 (s.core.sem k.toNat).owner ++ toBE 4 0)
          s.core t.core ∧ t.core.host.sems = s.core.host.sems := by
  have h := arrived_finds false o s.core
  have hsem := arrived_sem h k.toNat
  have hd := arrived_endsIn h (parts := [.host]) (by simp) (List.Subset.refl (replyRegs o))
  have he : Instr.does (.semAcquire o k) _ s := .inl rfl
  have hrole : (if k.toNat < 2 then 2 else 1) = 1 := if_neg (by omega)
  have hready := ready_sem ha (op := 0x18) rfl rfl
    (show (if k.toNat ≥ 64 ∨ (3 ≤ k.toNat ∧ k.toNat ≤ 7) then some 0 else none) = none from if_neg (by omega))
  rw [← hrole] at hready
  split
  case isTrue hc =>
    refine ends_served he hready (by simp only [hsem, hc]; rfl) (by simp [done]) (by simp [done])
      (endsIn_modSem hd (by simp)) (by simp) (List.Subset.refl _) fun t ht =>
        ⟨ht.reply, ?_, fun j hj => ?_, ht.parts, ht.regs⟩
    · rw [told_sem ht.told, sem_modSem_same (by rw [h.sems]; omega)]
    · rw [told_sem ht.told, sem_modSem_ne hj, arrived_sem h]
  case isFalse hc =>
    exact ends_served he hready (by simp only [hsem, hc, ne_eq, not_false_eq_true, if_true]; rfl) (by simp [refuse])
      (by simp [refuse]) hd (by simp) (List.Subset.refl _) fun t ht => ⟨ht.reply, ht.told.sems.trans h.sems⟩

theorem ends_semRelease {k : BitVec 8} (hs : s.core.host.sems.length = 64) (h64 : k.toNat < 64)
    (hcls : (s.core.sem k.toNat).cls = 2) (howner : (s.core.sem k.toNat).owner = o.slot.val)
    (hcommits : s.core.host.commits = []) : Ends (.semRelease o k) s fun t =>
      Replied o 0x19 0 [] s.core t.core ∧ t.core.sem k.toNat = ⟨0, 0, (s.core.sem k.toNat).broken⟩ ∧
      (∀ j, j ≠ k.toNat → t.core.sem j = s.core.sem j) ∧ Chip.only [.host] s.core t.core ∧
      Chip.regsKept (replyRegs o) s.core t.core := by
  have h := arrived_finds false o s.core
  have hsem := arrived_sem h k.toNat
  have hd := arrived_endsIn h (parts := [.host]) (by simp) (List.Subset.refl (replyRegs o))
  have hmine : (s.core.finds false o).semMine k.toNat o.slot.val = true := by simp [Chip.semMine, hsem, hcls, howner]
  refine ends_served (a := done []) (.inl rfl) (ready_sem ha (op := 0x19) rfl rfl (if_neg (by omega)))
    (by simp only [hmine, if_true]; rw [semFree_idle (h.commits.trans hcommits)]) (by decide) (by decide)
    (endsIn_modSem hd (by simp)) (by simp) (List.Subset.refl _) fun t ht =>
      ⟨ht.reply, ?_, fun j hj => ?_, ht.parts, ht.regs⟩
  · rw [told_sem ht.told, sem_modSem_same (by rw [h.sems]; omega), hsem]
  · rw [told_sem ht.told, sem_modSem_ne hj, arrived_sem h]

theorem ends_semRefused {k : BitVec 8} (h3 : 3 ≤ k.toNat) (h7 : k.toNat ≤ 7) : Ends (.semAcquire o k) s fun t =>
    Replied o 0x18 0x17 (toBE 2 0 ++ toBE 2 0 ++ toBE 4 0) s.core t.core ∧ t.core.host.sems = s.core.host.sems := by
  have hform : (if k.toNat ≥ 64 ∨ (3 ≤ k.toNat ∧ k.toNat ≤ 7) then some 0 else none) = some 0 := if_pos (.inr ⟨h3, h7⟩)
  have hrole : (if k.toNat < 2 then 2 else 1) = 1 := if_neg (by omega)
  have he : Instr.does (.semAcquire o k) (serve o 0x18 (if k.toNat < 2 then 2 else 1) (.semAcquire o k)
    (if k.toNat ≥ 64 ∨ (3 ≤ k.toNat ∧ k.toNat ≤ 7) then some 0 else none) [pdFABRIC] _) s := .inl rfl
  rw [hform, hrole] at he
  exact ends_badForm he (ready_claimed rfl rfl ha rfl (by simp)) fun d hd t ht =>
    ⟨ht.reply, ht.told.sems.trans hd.sems⟩

theorem ends_semStatus : Ends (.semStatus o) s fun t =>
    Replied o 0x1A 0 (s.core.host.sems.flatMap fun x =>
      toBE 1 x.cls ++ toBE 1 x.owner ++ toBE 1 (b2n x.broken) ++ toBE 1 0) s.core t.core ∧
    t.core.host.sems = s.core.host.sems ∧ Chip.only [.host] s.core t.core ∧ Chip.regsKept (replyRegs o) s.core t.core :=
  ends_told (a := done _) (.inl rfl) (ready_sem ha rfl rfl rfl) (fun d hd => by rw [hd.sems]; rfl) (by simp [done])
    (by simp [done]) fun d hd t ht => ⟨ht.reply, ht.told.sems.trans hd.sems, ht.parts, ht.regs⟩

end

/-- Settles O19, command by command. -/
theorem semaphores : Obligations.Semaphores := fun _ _ ha hs =>
  ⟨fun _ h8 h64 => ends_semAcquire ha hs h8 h64, fun _ h3 h7 => ends_semRefused ha h3 h7,
    fun _ _ h64 hcls howner hcommits => ends_semRelease ha hs h64 hcls howner hcommits, ends_semStatus ha⟩

end Sys2Proof.Machine
end

section
/-! The commands that report (03_serair_commands.md, R82, R91–R93, R137, R389, R445, R468): each is the present state, which
the arrival of the request leaves as it was. -/

namespace Sys2Proof.Machine

open Sys2Proof

/-! ### What a report reads, as the request found it -/

/-- A field of a register above the session slots, which an arrival leaves. -/
abbrev Fld.above (g : Fld) : Prop := g.lo < 32 ∧ 0x60180 ≤ g.addr

section
variable {o : Origin} {c d : Chip} (h : Chip.Arrived o c d)
include h

theorem arrived_above {g : Fld} (hg : Fld.above g) : d.rd g = c.rd g := by
  refine h.regs g fun f hf => ?_
  have hs := o.slot.isLt
  obtain ⟨hlo, ha⟩ := hg
  rw [List.mem_singleton.1 hf]
  simp only [Fld.key, Reg.SEC_SLOT_STATE_last_path]
  omega

theorem arrived_ctlPath : d.ctlPath = c.ctlPath := by
  rw [Chip.ctlPath, arrived_flag h (by decide), Chip.ctlPath]

theorem arrived_ctx (n : Nat) : d.ctx n = c.ctx n := by
  have himg : d.img = c.img := h.parts .img (by simp)
  rw [Chip.ctx, himg, Chip.ctx]

theorem arrived_svOf (n : Nat) : d.svOf n = c.svOf n := by rw [Chip.svOf, arrived_ctx h, Chip.svOf]

theorem arrived_grantStatus (ch : Nat) : d.grantStatus ch = c.grantStatus ch := by
  have hbeam : d.beam = c.beam := h.parts .beam (by simp)
  have hstate : d.rd (Reg.FUR_STATE_state ch) = c.rd (Reg.FUR_STATE_state ch) :=
    arrived_above h (by simp only [Fld.above, Reg.FUR_STATE_state]; omega)
  have hk : d.rd Reg.SLB_CTL_k_max = c.rd Reg.SLB_CTL_k_max := arrived_above h (by decide)
  unfold Chip.grantStatus Chip.sideMasked Chip.chState Chip.heldTiles Chip.req Chip.quotaMasked
  rw [hbeam, hstate, hk, arrived_on h, arrived_now h]

theorem arrived_axFlags (n : Nat) : d.axFlags n = c.axFlags n := by
  have habove : Fld.above (Reg.AX_STATUS_state n) ∧ Fld.above (Reg.AX_STATUS_homed n) ∧
      Fld.above (Reg.AX_STATUS_chatter n) ∧ Fld.above (Reg.AX_STATUS_home_limit n) := by
    simp only [Fld.above, Reg.AX_STATUS_state, Reg.AX_STATUS_homed, Reg.AX_STATUS_chatter, Reg.AX_STATUS_home_limit]
    omega
  obtain ⟨hstate, hhomed, hchatter, hlimit⟩ := habove
  unfold Chip.axFlags Chip.axState Chip.flag
  rw [arrived_above h hstate, arrived_above h hhomed, arrived_above h hchatter, arrived_above h hlimit]

theorem arrived_axPos (n : Nat) : d.axPos n = c.axPos n := by
  simp (disch := simp only [Fld.above, Reg.AX_POS_LO_pos, Reg.AX_POS_HI_pos]; omega) only [Chip.axPos, Chip.rd48, Chip.rd2,
    arrived_above h]

theorem arrived_pfFlags (n : Nat) : d.pfFlags n = c.pfFlags n := by
  simp (disch := simp only [Fld.above, Reg.PF_STATUS_index_mismatch, Reg.PF_CMP_CTL_passed]; omega) only [Chip.pfFlags,
    Chip.flag, arrived_above h]

theorem arrived_pfPos (n : Nat) : d.pfPos n = c.pfPos n := by
  simp (disch := simp only [Fld.above, Reg.PF_POS_LO_pos, Reg.PF_POS_HI_pos]; omega) only [Chip.pfPos, Chip.rd48, Chip.rd2,
    arrived_above h]

theorem arrived_logAddr (ch k : Nat) : d.logAddr ch k = c.logAddr ch k := by
  simp (disch := simp only [Fld.above, Reg.FUR_LOG_BASE_LO_base, Reg.FUR_LOG_BASE_HI_base,
    Reg.FUR_LOG_SIZE_log2_entries]; omega) only [Chip.logAddr, Chip.rdAddr, arrived_above h]

theorem arrived_inVecLog (ch first count : Nat) : d.inVecLog ch first count = c.inVecLog ch first count := by
  simp (disch := simp only [Fld.above, Reg.FUR_LOG_COUNT_count, Reg.FUR_LOG_SIZE_log2_entries]; omega) only [Chip.inVecLog,
    arrived_above h]

theorem arrived_tapBase (n : Nat) : d.tapBase n = c.tapBase n := by
  simp (disch := simp only [Fld.above, Reg.SVX_TAP_BASE_LO_value, Reg.SVX_TAP_BASE_HI_value]; omega) only [Chip.tapBase,
    Chip.rdAddr, arrived_ctx h, arrived_above h]

theorem arrived_idleArea : d.idleArea = c.idleArea := by
  rw [Chip.idleArea, arrived_rd h (by decide), Chip.idleArea]

theorem arrived_otp (k : Nat) : d.otp k = c.otp k := by rw [Chip.otp, h.fix, Chip.otp]

theorem arrived_dramChan : d.dramChan = c.dramChan := by
  simp only [Chip.dramChan, Chip.dramRank, arrived_above h (g := Reg.DMC_CFG_density 0) (by decide),
    arrived_above h (g := Reg.DMC_CFG_ranks 0) (by decide)]

theorem arrived_cell (a : Nat) : d.cell a = c.cell a := by
  obtain ⟨hdram, hloss⟩ := h.parts .dram (by simp)
  rw [Chip.cell, hdram, hloss, Chip.cell]

theorem arrived_checkBytes (a : Nat) : d.checkBytes a = c.checkBytes a := by
  rw [Chip.checkBytes, (h.parts .dram (by simp)).2, Chip.checkBytes]

end

/-! ### The status commands -/

/-- A queued read finds no other command waiting: a request that needs no claim (R82). -/
theorem ready_read {o : Origin} {op role : Nat} {form : Option Nat} {doms : List Nat} {info : OpInfo} {c : Chip}
    (hi : opInfo op = some info) (hk : info.kind ≠ 2) (ha : c.admits o role) (hfree : c.free) (hform : form = none)
    (hd : ∀ d ∈ doms, c.on d = true) : Chip.Ready o op role form doms info c where
  known := hi
  admits := ha
  free := fun _ => hfree
  controls := fun h => absurd h hk
  form := hform
  on := hd

/-- PD_FABRIC is on while the Headgate works. -/
theorem on_fabric {c : Chip} {o : Origin} {role : Nat} (ha : c.admits o role) : c.on pdFABRIC = true := by
  have hg := ha.1.2
  simp only [Chip.hgOn, Bool.and_eq_true] at hg
  exact hg.1

section
variable {s : State} {o : Origin} (ha : s.core.admits o 1)
include ha

/-- A status command of the lowest role: it bypasses the queue, and its answer is what the arrival leaves. -/
theorem tells_status {i cmd : Instr} {op : Nat} {form : Option Nat} {doms : List Nat} {f : Chip → Ans} {l : List Byte}
    (he : Instr.does i (serve o op 1 cmd form doms (tell f)) s) (hi : opInfo op = opS)
    (hform : form = none) (hd : ∀ d ∈ doms, s.core.on d = true) (hf : ∀ d, Chip.Arrived o s.core d → f d = done l) :
    Tells i s o op 0 l :=
  tells_of_serve he (ready_open hi rfl (.inl (by decide)) ha hform hd) hf (by simp [done]) (by simp [done])

theorem tells_chStatus {mask : BitVec 32} (hm : mask.toNat < 2 ^ 24)
    (hd : ∀ ch ∈ chansOf mask, s.core.on (chanDom ch) = true) :
    Tells (.chStatus o mask) s o 0x43 0 ((chansOf mask).flatMap fun ch =>
      toBE 1 (s.core.rd (Reg.FUR_STATE_state ch)) ++ toBE 1 (s.core.grantStatus ch).1 ++
        toBE 1 (s.core.grantStatus ch).2.1 ++ toBE 1 0 ++ toBE 2 (s.core.rd (Reg.FUR_STATE_head_seq ch)) ++ toBE 2 0) := by
  refine tells_status ha (.inl rfl) rfl (if_pos hm) (by simpa [maskDoms] using hd) fun d hd => ?_
  simp (disch := simp only [Fld.above, Reg.FUR_STATE_state, Reg.FUR_STATE_head_seq]; omega) only [Chip.chState,
    arrived_grantStatus hd, arrived_above hd]

theorem tells_axStatus (hon : s.core.on pdMOTION = true) (mask : BitVec 8) :
    Tells (.axStatus o mask) s o 0x65 0 ((bitList 8 mask.toNat).flatMap fun n =>
      toBE 1 (s.core.rd (Reg.AX_STATUS_state n)) ++ toBE 1 (s.core.axFlags n) ++ toBE 2 0 ++
        toBE 8 (ofS 64 (s.core.axPos n)) ++ toBE 4 (s.core.rd (Reg.AX_SPEED_v n))) := by
  refine tells_status ha (.inl rfl) rfl rfl (by simpa using hon) fun d hd => ?_
  simp (disch := simp only [Fld.above, Reg.AX_STATUS_state, Reg.AX_SPEED_v]; omega) only [Chip.axState,
    arrived_axFlags hd, arrived_axPos hd, arrived_above hd]

theorem tells_pfStatus (hon : s.core.on pdMOTION = true) (mask : BitVec 8) :
    Tells (.pfStatus o mask) s o 0x66 0 ((bitList 8 mask.toNat).flatMap fun n =>
      toBE 1 (s.core.pfFlags n) ++ toBE 1 0 ++ toBE 2 (s.core.rd (Reg.PF_IDX_COUNT_mismatch n)) ++
        toBE 8 (ofS 64 (s.core.pfPos n)) ++ toBE 4 (s.core.rd (Reg.PF_SPEED_v n))) := by
  refine tells_status ha (.inl rfl) rfl rfl (by simpa using hon) fun d hd => ?_
  simp (disch := simp only [Fld.above, Reg.PF_IDX_COUNT_mismatch, Reg.PF_SPEED_v]; omega) only [arrived_pfFlags hd,
    arrived_pfPos hd, arrived_above hd]

theorem tells_ktStatus (hon : s.core.on pdKETTLE = true) :
    Tells (.ktStatus o) s o 0x73 0 (toBE 1 (s.core.rd Reg.KT_STATUS_active) ++
      toBE 1 (s.core.rd Reg.KT_STATUS_loop_on) ++ toBE 2 0 ++ toBE 4 (s.core.rd Reg.KT_FAULT_mask) ++
      toBE 4 (s.core.rd Reg.KT_OPEN_TOTAL_value) ++ toBE 4 (s.core.rd Reg.KT_SHORT_TOTAL_value)) := by
  refine tells_status ha (.inl rfl) rfl rfl (by simpa using hon) fun d hd => ?_
  simp (disch := decide) only [arrived_above hd]

theorem tells_ctxStatus {ctx : BitVec 8} (h32 : ctx.toNat < 32)
    (hon : s.core.on (sieveDom (s.core.svOf ctx.toNat)) = true) :
    Tells (.ctxStatus o ctx) s o 0x83 0 (toBE 4 (s.core.rd (Reg.SVX_SEQ_seq (s.core.svOf ctx.toNat) ctx.toNat)) ++
      toBE 1 ((s.core.ctx ctx.toNat).lastSid.getD 0) ++
      toBE 1 (s.core.rd (Reg.SVX_STATUS_anomaly_run (s.core.svOf ctx.toNat) ctx.toNat)) ++
      toBE 2 (s.core.rd (Reg.SVX_STATUS_flags (s.core.svOf ctx.toNat) ctx.toNat)) ++
      toBE 4 (s.core.rd (Reg.SVX_FRAMES_count (s.core.svOf ctx.toNat) ctx.toNat))) := by
  refine tells_status ha (.inl rfl) rfl (if_neg (by omega)) (by simp) fun d hd => ?_
  simp (disch := simp only [Fld.above, Reg.SVX_SEQ_seq, Reg.SVX_STATUS_anomaly_run, Reg.SVX_STATUS_flags,
    Reg.SVX_FRAMES_count]; omega) only [arrived_svOf hd, arrived_on hd, hon, arrived_ctx hd, arrived_above hd, Bool.not_true,
    Bool.false_eq_true, if_false]

theorem tells_logStatus : Tells (.logStatus o) s o 0xA1 0 (toBE 2 (s.core.rd Reg.CRK_STATUS_used) ++
    toBE 2 (s.core.rd Reg.CRK_STATUS_used) ++
    toBE 1 (s.core.rd Reg.CRK_STATUS_full + 2 * s.core.rd Reg.CRK_STATUS_logmem_fail) ++ toBE 3 0) := by
  refine tells_status ha (.inl rfl) rfl rfl (by simp) fun d hd => ?_
  simp (disch := decide) only [arrived_rd hd]

theorem tells_calStatus {item : BitVec 8} (h7 : item.toNat < 7) : Tells (.calStatus o item) s o 0xB1 0
    (toBE 4 (s.core.rd (Reg.CAL_ITEM_COUNT_value item.toNat)) ++
      toBE 6 (s.core.rd2 (Reg.CAL_ITEM_SEC_LO_value item.toNat) (Reg.CAL_ITEM_SEC_HI_value item.toNat)) ++
      toBE 4 (s.core.rd (Reg.CAL_ITEM_NS_value item.toNat)) ++ toBE 2 0) := by
  refine tells_status ha (.inl rfl) rfl (if_neg (by omega)) (by simpa using on_fabric ha) fun d hd => ?_
  simp (disch := simp only [Fld.untold, Reg.CAL_ITEM_COUNT_value, Reg.CAL_ITEM_SEC_LO_value, Reg.CAL_ITEM_SEC_HI_value,
    Reg.CAL_ITEM_NS_value]; omega) only [Chip.rd2, arrived_rd hd]

theorem tells_snapStatus : Tells (.snapStatus o) s o 0xC3 0 (toBE 1 (s.core.rd Reg.SNP_STATUS_held) ++ toBE 3 0 ++
    toBE 4 (s.core.rd Reg.SNP_SEQ_value) ++ toBE 8 (s.core.rd2 Reg.SNP_LATCH_LO_value Reg.SNP_LATCH_HI_value) ++
    toBE 4 (s.core.rd Reg.SNP_MISSED_value)) := by
  refine tells_status ha (.inl rfl) rfl rfl (by simp) fun d hd => ?_
  simp (disch := decide) only [Chip.rd2, arrived_rd hd]

theorem tells_pdStatus : Tells (.pdStatus o) s o 0xD2 0 (toBE 2 (s.core.rd Reg.PWR_STATUS_on) ++
    toBE 2 (s.core.rd Reg.PWR_STATUS_switching)) := by
  refine tells_status ha (.inl rfl) rfl rfl (by simp) fun d hd => ?_
  simp (disch := decide) only [arrived_rd hd]

theorem tells_fwInfo {i : Image} (hi : s.core.sys.mgt.running = some i) : Tells (.fwInfo o) s o 0xE2 0 (toBE 4 i.version ++
    toBE 4 (if s.core.flag (Reg.MGT_IMG_INFO_staged s.core.idleArea) then
      s.core.rd (Reg.MGT_IMG_VERSION_version s.core.idleArea) else 0) ++ toBE 1 i.kind ++ toBE 3 0) := by
  refine tells_status ha (.inl rfl) rfl rfl (by simp) fun d hd => ?_
  have hk : s.core.idleArea ≤ 1 := Nat.sub_le _ _
  have hst : d.flag (Reg.MGT_IMG_INFO_staged s.core.idleArea) = s.core.flag (Reg.MGT_IMG_INFO_staged s.core.idleArea) :=
    arrived_flag hd (by simp only [Fld.untold, Reg.MGT_IMG_INFO_staged]; omega)
  have hver : d.rd (Reg.MGT_IMG_VERSION_version s.core.idleArea) = s.core.rd (Reg.MGT_IMG_VERSION_version s.core.idleArea) :=
    arrived_rd hd (by simp only [Fld.untold, Reg.MGT_IMG_VERSION_version]; omega)
  simp only [arrived_sys hd, hi, arrived_idleArea hd, hst, hver, Option.getD_some]

theorem tells_timeStatus (cycle : Fin 499) : Tells (.timeStatus o cycle) s o 0x90 0 (toBE 1 s.core.timeState ++
    toBE 1 s.core.ctlPath.code ++ toBE 2 0 ++ timeBE (s.core.timeOf s.core.now + cycle.val) ++ toBE 2 0 ++
    toBE 8 s.core.now ++ toBE 4 (s.core.rd Reg.BT_RATE_TRIM_trim) ++
    toBE 4 (s.core.rd (Reg.PTP_P_OFFSET_value s.core.ctlPath.code))) := by
  refine tells_status ha (.inl rfl) rfl rfl (by simp) fun d hd => ?_
  simp (disch := simp only [Fld.above, Reg.BT_STATUS_time_state, Reg.BT_RATE_TRIM_trim, Reg.PTP_P_OFFSET_value]; omega) only [
    Chip.timeState, Chip.time, arrived_ctlPath hd, arrived_timeOf hd, arrived_now hd, arrived_above hd]

theorem tells_captureRead {inp : BitVec 8} (h8 : inp.toNat < 8) : Tells (.captureRead o inp) s o 0x92 0
    (toBE 4 (s.core.rd (Reg.PTP_CAP_COUNT_value inp.toNat)) ++
      toBE 6 (s.core.rd2 (Reg.PTP_CAP_SEC_LO_value inp.toNat) (Reg.PTP_CAP_SEC_HI_value inp.toNat)) ++
      toBE 4 (s.core.rd (Reg.PTP_CAP_NS_value inp.toNat)) ++ toBE 1 (s.core.rd (Reg.PTP_CAP_CTL_last_edge inp.toNat)) ++
      toBE 1 0) := by
  refine tells_status ha (.inl rfl) rfl (if_neg (by omega)) (by simp) fun d hd => ?_
  simp (disch := simp only [Fld.above, Reg.PTP_CAP_COUNT_value, Reg.PTP_CAP_SEC_LO_value, Reg.PTP_CAP_SEC_HI_value,
    Reg.PTP_CAP_NS_value, Reg.PTP_CAP_CTL_last_edge]; omega) only [Chip.rd2, arrived_above hd]

end

/-! ### The reads of memories -/

section
variable {s : State} {o : Origin} (hfree : s.core.free)
include hfree

/-- A queued read: its answer is what the arrival leaves. -/
theorem tells_read {role : Nat} (ha : s.core.admits o role) {i cmd : Instr} {op : Nat} {form : Option Nat}
    {doms : List Nat} {f : Chip → Ans} {l : List Byte} (he : Instr.does i (serve o op role cmd form doms (tell f)) s)
    (hi : opInfo op = opR role) (hform : form = none) (hd : ∀ d ∈ doms, s.core.on d = true)
    (hf : ∀ d, Chip.Arrived o s.core d → f d = done l) : Tells i s o op 0 l :=
  tells_of_serve he (ready_read hi (by simp) ha hfree hform hd) hf (by simp [done]) (by simp [done])

theorem tells_chLogRead (ha : s.core.admits o 1) {chan : BitVec 8} {first : BitVec 32} {count : BitVec 16}
    (h24 : chan.toNat < 24) (hon : s.core.on (chanDom chan.toNat) = true) (h1 : 1 ≤ count.toNat) (h64 : count.toNat ≤ 64)
    (hin : s.core.inVecLog chan.toNat first.toNat count.toNat = true)
    (hok : ∀ k < count.toNat, s.core.dramOk (s.core.logAddr chan.toNat (first.toNat + k)) 16 = true) :
    Tells (.chLogRead o chan first count) s o 0x44 0
      ((List.range count.toNat).flatMap fun k => s.core.dramRead (s.core.logAddr chan.toNat (first.toNat + k)) 16) := by
  have hform : (if chan.toNat ≥ 24 then some 0 else if count.toNat < 1 ∨ count.toNat > 64 then some 8 else none) = none := by
    rw [if_neg (by omega), if_neg (by omega)]
  refine tells_read hfree ha (.inl rfl) rfl hform (by simpa using hon) fun d hd => ?_
  have hall : ((List.range count.toNat).all fun k => s.core.dramOk (s.core.logAddr chan.toNat (first.toNat + k)) 16) = true :=
    List.all_eq_true.2 fun k hk => hok k (List.mem_range.1 hk)
  simp only [arrived_inVecLog hd, hin, arrived_logAddr hd, arrived_dramOk hd, hall, arrived_dramRead hd, Bool.not_true,
    Bool.false_eq_true, if_false, if_true]

theorem tells_tapRead (ha : s.core.admits o 1) {ctx tap : BitVec 8} {off : BitVec 64} {len : BitVec 16}
    (h32 : ctx.toNat < 32) (h6 : tap.toNat < 6) (h1 : 1 ≤ len.toNat) (h1392 : len.toNat ≤ 1392)
    (hdram : s.core.on pdDRAM = true) (hon : s.core.on (sieveDom (s.core.svOf ctx.toNat)) = true)
    (hin : off.toNat + len.toNat ≤
      s.core.rd (Reg.SVX_TAP_LEN_bytes (s.core.svOf ctx.toNat) ctx.toNat tap.toNat) * 64)
    (hok : s.core.dramOk (s.core.tapBase ctx.toNat +
      s.core.rd (Reg.SVX_TAP_OFF_bytes (s.core.svOf ctx.toNat) ctx.toNat tap.toNat) * 64 + off.toNat) len.toNat = true) :
    Tells (.tapRead o ctx tap off len) s o 0x82 0 (s.core.dramRead (s.core.tapBase ctx.toNat +
      s.core.rd (Reg.SVX_TAP_OFF_bytes (s.core.svOf ctx.toNat) ctx.toNat tap.toNat) * 64 + off.toNat) len.toNat) := by
  have hform : tapReadForm ctx tap len = none := by
    rw [tapReadForm, if_neg (by omega), if_neg (by omega), if_neg (by omega)]
  refine tells_read hfree ha (.inl rfl) rfl hform (by simpa using hdram) fun d hd => ?_
  have hfit := Nat.not_lt.2 hin
  simp (disch := simp only [Fld.above, Reg.SVX_TAP_LEN_bytes, Reg.SVX_TAP_OFF_bytes]; omega) only [arrived_svOf hd,
    arrived_on hd, hon, arrived_above hd, gt_iff_lt, hfit, arrived_tapBase hd, arrived_dramOk hd, hok, arrived_dramRead hd,
    Bool.not_true, Bool.false_eq_true, if_false, if_true]

theorem tells_lastgaspRead (ha : s.core.admits o 1) : Tells (.lastgaspRead o) s o 0xA3 0
    (s.core.crockMem.lastGasp.flatMap Rec.bytes ++ List.replicate (32 * (8 - s.core.crockMem.lastGasp.length)) 0) :=
  tells_read hfree ha (.inl rfl) rfl rfl (by simp) fun d hd => by rw [hd.crockMem]

theorem tells_otpRead (ha : s.core.admits o 3) {off count : BitVec 16} (h1 : 1 ≤ count.toNat) (h256 : count.toNat ≤ 256)
    (hin : off.toNat + count.toNat ≤ 1024) : Tells (.otpRead o off count) s o 0xF0 0
      ((List.range count.toNat).flatMap fun k => toBE 4 (s.core.otp (off.toNat + k))) := by
  have hform : otpForm off.toNat count.toNat = none := by rw [otpForm, if_neg (by omega), if_neg (by omega)]
  exact tells_read hfree ha (.inl rfl) rfl hform (by simp) fun d hd => by simp only [arrived_otp hd]

theorem tells_dramDiagRead (ha : s.core.admits o 3) {chan : BitVec 8} {addr : BitVec 64} {bursts : BitVec 16}
    (h2 : chan.toNat < 2) (h64 : addr.toNat % 64 = 0) (h1 : 1 ≤ bursts.toNat) (h16 : bursts.toNat ≤ 16)
    (hon : s.core.on pdDRAM = true) (hfrozen : s.core.dramState chan.toNat = 4)
    (hin : addr.toNat + 64 * bursts.toNat ≤ s.core.dramChan) : Tells (.dramDiagRead o chan addr bursts) s o 0xF2 0
      ((List.range bursts.toNat).flatMap fun k =>
        ((List.range 64).map fun i => s.core.cell (dramGlobal chan.toNat (addr.toNat + 64 * k) + i)) ++
          s.core.checkBytes (dramGlobal chan.toNat (addr.toNat + 64 * k))) := by
  have hform : diagForm chan.toNat addr.toNat bursts.toNat = none := by
    rw [diagForm, if_neg (by omega), if_neg (by omega), if_neg (by omega)]
  refine tells_read hfree ha (.inl rfl) rfl hform (by simpa using hon) fun d hd => ?_
  have hfit := Nat.not_lt.2 hin
  simp only [arrived_dramState hd _ h2, hfrozen, ne_eq, not_true_eq_false, if_false, arrived_dramChan hd, gt_iff_lt, hfit,
    arrived_cell hd, arrived_checkBytes hd]

end

theorem statusReplies : Claim.StatusReplies := fun _ _ ha =>
  ⟨fun _ hm hd => tells_chStatus ha hm hd, fun hon mask => ⟨tells_axStatus ha hon mask, tells_pfStatus ha hon mask⟩,
    fun hon => tells_ktStatus ha hon, fun _ h32 hon => tells_ctxStatus ha h32 hon, tells_logStatus ha,
    fun _ h7 => tells_calStatus ha h7, tells_snapStatus ha, tells_pdStatus ha, fun _ hi => tells_fwInfo ha hi⟩

theorem memoryReads : Claim.MemoryReads := fun _ _ ha hfree =>
  ⟨fun _ _ _ h24 hon h1 h64 hin hok => tells_chLogRead hfree ha h24 hon h1 h64 hin hok,
    fun _ _ _ _ h32 h6 h1 h1392 hdram hon hin hok => tells_tapRead hfree ha h32 h6 h1 h1392 hdram hon hin hok,
    fun _ => tells_lastgaspRead hfree ha,
    fun h3 _ _ h1 h256 hin => tells_otpRead hfree h3 h1 h256 hin,
    fun h3 _ _ _ h2 h64 h1 h16 hon hfrozen hin => tells_dramDiagRead hfree h3 h2 h64 h1 h16 hon hfrozen hin⟩

/-- Settles O25: each report is a function of the state that the arrival of its request leaves. -/
theorem reports : Obligations.Reports :=
  ⟨statusReplies, memoryReads, fun _ _ ha => ⟨fun cycle => tells_timeStatus ha cycle, fun _ h8 => tells_captureRead ha h8⟩⟩

end Sys2Proof.Machine
end

section
/-! Requests that the first checks refuse, and the queue (03_serair_commands.md, R60, R76, R78, R83). -/

namespace Sys2Proof.Machine

open Sys2Proof

/-! ### Every request is served -/

/-- The command is served as a request with this origin and opcode, and its queue entry is that of a request with both. -/
def Instr.isServed (i : Instr) (o : Origin) (op : Nat) (s : State) : Prop :=
  ∃ F role cmd form doms f, Instr.does i F s ∧ role ≤ 3 ∧ Instr.request cmd = some (o, op) ∧
    F { s.core with out := [] } = serve o op role cmd form doms f { s.core with out := [] }

theorem writeRole_le (a v : Nat) : writeRole a v ≤ 3 := by
  unfold writeRole
  split
  · decide
  · split <;> decide

theorem rolesOf_le {l : List Nat} (h : ∀ r ∈ l, r ≤ 3) : rolesOf l ≤ 3 := by
  have hfold : ∀ k ≤ 3, l.foldl max k ≤ 3 := by
    induction l with
    | nil => exact fun k hk => hk
    | cons r l ih =>
      exact fun k hk => ih (fun x hx => h x (List.mem_cons_of_mem _ hx)) _ (max_le hk (h r List.mem_cons_self))
  exact hfold 1 (by decide)

theorem rolesOf_map_le {α : Type} {f : α → Nat} (h : ∀ x, f x ≤ 3) (l : List α) : rolesOf (l.map f) ≤ 3 :=
  rolesOf_le fun _ hr => by
    obtain ⟨x, -, rfl⟩ := List.mem_map.1 hr
    exact h x

theorem readRole_le (a : Nat) : readRole a ≤ 3 := by
  unfold readRole
  split <;> decide

theorem rolesOf_writeRoles_le (a : Nat) (l : List Nat) : rolesOf (writeRoles a l) ≤ 3 := by
  unfold writeRoles
  split
  · exact rolesOf_le fun _ hr => List.mem_singleton.1 hr ▸ writeRole_le a 0
  · exact rolesOf_map_le (fun _ => writeRole_le _ _) _

theorem roleFor_pdOff_le (o : Origin) (mask : BitVec 16) (mode : BitVec 8) : roleFor 0xD1 (.pdOff o mask mode) ≤ 3 := by
  simp only [roleFor]
  split <;> decide

theorem isServed_of_request {i : Instr} {o : Origin} {op : Nat} (h : i.request = some (o, op)) (s : State) :
    Instr.isServed i o op s := by
  cases i
  case regRead => cases h; exact ⟨_, _, _, _, _, _, .inl rfl, rolesOf_map_le (fun _ => readRole_le _) _, rfl, rfl⟩
  case regWrite => cases h; exact ⟨_, _, _, _, _, _, .inl rfl, rolesOf_writeRoles_le _ _, rfl, rfl⟩
  case regModify addr mask value =>
    cases h
    exact ⟨cmdRegModify o addr mask value, _, .regModify o addr mask value, none, [], _, .inl rfl, writeRole_le _ _, rfl, rfl⟩
  case semAcquire => cases h; exact ⟨_, _, _, _, _, _, .inl rfl, by split <;> decide, rfl, rfl⟩
  case pdOff => cases h; exact ⟨_, _, _, _, _, _, .inl rfl, roleFor_pdOff_le _ _ _, rfl, rfl⟩
  case logRead first count bad ce =>
    cases h
    exact ⟨_, _, .logRead o first count none false, _, _, _, .inr rfl, by decide, rfl, rfl⟩
  all_goals cases h
  all_goals exact ⟨_, _, _, _, _, _, .inl rfl, by decide, rfl, rfl⟩

theorem opInfo_of_request {i : Instr} {o : Origin} {op : Nat} (h : i.request = some (o, op)) :
    ∃ info, opInfo op = some info := by
  cases i
  all_goals cases h
  all_goals exact ⟨_, rfl⟩

/-! ### What the first checks find -/

section
variable {o : Origin} {c d : Chip} (h : Chip.Arrived o c d)
include h

theorem arrived_sessionOpen (k : Nat) : d.sessionOpen k = c.sessionOpen k := by
  have hr : d.rd (Reg.SEC_SLOT_STATE_state k) = c.rd (Reg.SEC_SLOT_STATE_state k) := h.regs _ fun f hf => by
    rw [List.mem_singleton.1 hf]
    simp only [Fld.key, Reg.SEC_SLOT_STATE_state, Reg.SEC_SLOT_STATE_last_path]
    omega
  rw [Chip.sessionOpen, hr, Chip.sessionOpen]

theorem arrived_role (k : Nat) : d.rd (Reg.SEC_SLOT_STATE_role k) = c.rd (Reg.SEC_SLOT_STATE_role k) :=
  h.regs _ fun f hf => by
    rw [List.mem_singleton.1 hf]
    simp only [Fld.key, Reg.SEC_SLOT_STATE_role, Reg.SEC_SLOT_STATE_last_path]
    omega

theorem arrived_claimOf (p : Path) : d.claimOf p = c.claimOf p := by
  cases p <;> exact arrived_rd h (by decide)

/-- The first checks read what an arrival leaves. -/
theorem headChecks_arrived (op : Nat) (info : OpInfo) (role : Nat) :
    headChecks o op info role d = headChecks o op info role c := by
  rw [headChecks, arrived_sessionOpen h, arrived_role h, arrived_ctlPath h, arrived_claimOf h, h.queue, headChecks]

end

/-- A request that bypasses the queue, finds it empty, or finds at its head another command. -/
def Chip.meets (info : OpInfo) (cmd : Instr) (c : Chip) : Prop :=
  info.queued = true → ∀ q ∈ c.host.hg.queue.head?, q.cmd ≠ cmd

/-- A request that the first checks refuse. -/
theorem serve_refused {o : Origin} {op role : Nat} {cmd : Instr} {form : Option Nat} {doms : List Nat}
    {f : Chip → Option Ans × Chip} {info : OpInfo} {a : Ans} {c : Chip} (hg : c.hgOn = true) (hi : opInfo op = some info)
    (hq : c.meets info cmd) (ha : headChecks o op info role c = some a) : ∃ d, Chip.Arrived o c d ∧
      serve o op role cmd form doms f { c with out := [] } = answer o op a (queueFull o op a d) := by
  have hbypass := (headChecks_arrived (arrived_arrive o c) op info role).trans ha
  have hempty := (headChecks_arrived (arrived_taken o c) op info role).trans ha
  have hg' : Chip.hgOn { c with out := [] } = true := hg
  unfold serve
  simp only [hg', hi, Bool.not_true, Bool.false_eq_true, if_false]
  split
  case isFalse => exact ⟨_, arrived_arrive o c, by rw [hbypass]⟩
  case isTrue hqueued =>
    cases hl : c.host.hg.queue with
    | nil =>
      refine ⟨_, arrived_taken o c, ?_⟩
      simp only
      rw [show headChecks o op info role (arrive o (received (Chip.now { c with out := [] }) { c with out := [] })) = some a
        from hempty]
      rfl
    | cons q l =>
      have hne : q.cmd ≠ cmd := hq hqueued q (by simp [hl])
      exact ⟨_, arrived_arrive o c, by simp only [if_neg hne, hbypass]⟩

theorem queueFull_of_ne {a : Ans} (h : a.1 ≠ 0x13) (o : Origin) (op : Nat) (c : Chip) : queueFull o op a c = c := by
  simp [queueFull, when, h]

theorem ends_headRefused {i : Instr} {s : State} {o : Origin} {op : Nat} {info : OpInfo} {a : Ans} {parts : List Part}
    {regs : List Fld} {Q : State → Prop} (hi : i.request = some (o, op)) (hh : s.core.hears)
    (hinfo : opInfo op = some info) (hq : ∀ cmd : Instr, cmd.request = some (o, op) → s.core.meets info cmd)
    (ha : ∀ role ≤ 3, headChecks o op info role s.core = some a)
    (hd : ∀ d, Chip.Arrived o s.core d → Chip.EndsIn o parts regs s.core (queueFull o op a d))
    (hcount : ∀ d, Chip.regsKept regs d (refusalCounted o.path a d)) (hparts : Part.host ∈ parts)
    (hregs : replyRegs o ⊆ regs)
    (hQ : ∀ d, Chip.Arrived o s.core d → ∀ t : State, Chip.Served o op a parts regs s.core
      (refusalCounted o.path a (queueFull o op a d)) t.core → Q t) : Ends i s Q := by
  obtain ⟨F, role, cmd, form, doms, f, he, hrole, hcmd, hF⟩ := isServed_of_request hi s
  obtain ⟨d, harr, hserve⟩ := serve_refused (form := form) (doms := doms) (f := f) hh.2 hinfo (hq cmd hcmd) (ha role hrole)
  exact ends_answer he hh.1 (hF.trans hserve) (hd d harr) (hcount _) hparts hregs (hQ d harr)

/-! ### Session and claim -/

theorem meets_of_empty {c : Chip} (h : c.host.hg.queue = []) (info : OpInfo) (cmd : Instr) : c.meets info cmd := by
  intro _ q hq
  simp [h] at hq

theorem ends_sessionRefused {i : Instr} {s : State} {o : Origin} {op : Nat} (hi : i.request = some (o, op))
    (hq : s.core.host.hg.queue = []) (hh : s.core.hears) (hopen : s.core.sessionOpen o.slot.val = false) :
    Ends i s fun t => Replied o op 0x12 (toBE 2 3 ++ toBE 2 0 ++ toBE 4 0) s.core t.core ∧ Chip.only [.host] s.core t.core ∧
      Chip.regsKept (replyRegs o) s.core t.core ∧ t.core.host.jobs = s.core.host.jobs ∧
      t.core.host.sems = s.core.host.sems ∧ t.core.host.hg.queue = [] := by
  obtain ⟨info, hinfo⟩ := opInfo_of_request hi
  have hnone : ∀ c, queueFull o op (refuse 0x12 3 0 0) c = c := queueFull_of_ne (by decide) o op
  have hcounted : ∀ c, refusalCounted o.path (refuse 0x12 3 0 0) c = c :=
    refusalCounted_none (by decide) (by decide) o.path
  refine ends_headRefused hi hh hinfo (fun cmd _ => meets_of_empty hq info cmd) (a := refuse 0x12 3 0 0)
    (parts := [.host]) (regs := replyRegs o) (fun role _ => by simp [headChecks, hopen])
    (fun d harr => by rw [hnone]; exact arrived_endsIn harr (by simp) (List.Subset.refl _))
    (fun d => by rw [hcounted]; exact regsKept_refl _ _) (by simp) (List.Subset.refl _) fun d harr t ht => ?_
  have htold := ht.told
  rw [hnone, hcounted] at htold
  exact ⟨ht.reply, ht.parts, ht.regs, htold.jobs.trans harr.jobs, htold.sems.trans harr.sems,
    (congrArg (·.queue) htold.hg).trans (harr.queue.trans hq)⟩

theorem ends_claimRefused {i : Instr} {s : State} {o : Origin} {op role : Nat} {queued : Bool}
    (hi : i.request = some (o, op)) (hq : s.core.host.hg.queue = []) (ha : s.core.admits o 3)
    (hinfo : opInfo op = some ⟨2, role, queued⟩) (hop : 0x10 ≤ op)
    (hclaim : o.path ≠ s.core.ctlPath ∨ o.claim.toNat ≠ s.core.claimOf o.path) : Ends i s fun t =>
      Replied o op 0x11 (toBE 2 s.core.ctlPath.code ++ toBE 2 0 ++ toBE 4 0) s.core t.core ∧
      (t.core.session o.slot.val).seqs = (s.core.session o.slot.val).seqs ∧
      (t.core.session o.slot.val).h = (s.core.session o.slot.val).h ∧
      Chip.counted (Reg.HG_P_CLAIM_count o.path.code) (Reg.HG_P_STICKY_sat o.path.code) 3 s.core t.core ∧
      Chip.only [.host] s.core t.core ∧
      Chip.regsKept (replyRegs o ++ [Reg.HG_P_CLAIM_count o.path.code, Reg.HG_P_STICKY_sat o.path.code]) s.core t.core ∧
      t.core.host.jobs = s.core.host.jobs ∧ t.core.host.sems = s.core.host.sems ∧ t.core.host.hg.queue = [] := by
  obtain ⟨hh, hopen, hrole⟩ := ha
  have hnone : ∀ c, queueFull o op (refuse 0x11 s.core.ctlPath.code 0 0) c = c := queueFull_of_ne (by simp [refuse]) o op
  have hcounted : ∀ c, refusalCounted o.path (refuse 0x11 s.core.ctlPath.code 0 0) c =
      inc (Reg.HG_P_CLAIM_count o.path.code) (Reg.HG_P_STICKY_sat o.path.code) 3 c := fun c => by
    simp [refusalCounted, when, refuse]
  have huntold : Fld.untold (Reg.HG_P_CLAIM_count o.path.code) ∧ Fld.untold (Reg.HG_P_STICKY_sat o.path.code) := by
    cases o.path <;> decide
  refine ends_headRefused hi hh hinfo (fun cmd _ => meets_of_empty hq _ cmd) (a := refuse 0x11 s.core.ctlPath.code 0 0)
    (parts := [.host])
    (regs := replyRegs o ++ [Reg.HG_P_CLAIM_count o.path.code, Reg.HG_P_STICKY_sat o.path.code]) (fun role hr => ?_)
    (fun d harr => by rw [hnone]; exact arrived_endsIn harr (by simp) (List.subset_append_left _ _))
    (fun d => ?_) (by simp) (List.subset_append_left _ _) fun d harr t ht => ?_
  · have hlow : ¬ s.core.rd (Reg.SEC_SLOT_STATE_role o.slot.val) < role := by omega
    simp [headChecks, hopen, hlow, hop, hclaim]
  · rw [hcounted]
    exact regsKept_inc (regsKept_refl _ _) (by simp) (by simp) 3
  · have htold := ht.told
    have hkept : ∀ {α : Type} (p : Session → α), (∀ (s : Session) l, p { s with cache := l } = p s) → ∀ k, _ :=
      ht.untaken (.inl rfl)
    rw [hnone, hcounted] at htold
    simp only [hnone, hcounted] at hkept
    have hcount := counted_inc (f := Reg.HG_P_CLAIM_count o.path.code) (sticky := Reg.HG_P_STICKY_sat o.path.code)
      (k := 3) (by simp [Fld.key, Reg.HG_P_CLAIM_count, Reg.HG_P_STICKY_sat]) (by simp [Reg.HG_P_STICKY_sat]) d
    have hhost : (inc (Reg.HG_P_CLAIM_count o.path.code) (Reg.HG_P_STICKY_sat o.path.code) 3 d).host = d.host :=
      inc_host _ _ _ _
    refine ⟨ht.reply, ?_, ?_, ?_, ht.parts, ht.regs, ?_, ?_, ?_⟩
    · rw [hkept Session.seqs (fun _ _ => rfl), session_congr hhost, harr.session Session.seqs fun _ _ _ _ => rfl]
    · rw [hkept Session.h (fun _ _ => rfl), session_congr hhost, harr.session Session.h fun _ _ _ _ => rfl]
    · rw [Chip.counted, told_rd htold huntold.1, told_rd htold huntold.2, ← arrived_rd harr huntold.1]
      exact hcount
    · rw [htold.jobs, hhost, harr.jobs]
    · rw [htold.sems, hhost, harr.sems]
    · rw [htold.hg, hhost, harr.queue, hq]

/-- Settles O15: the first checks refuse the request before its effect, whatever command it is. -/
theorem sessionAndClaimChecks : Obligations.SessionAndClaimChecks := fun _ _ _ _ hi hq =>
  ⟨fun hh hopen => ends_sessionRefused hi hq hh hopen,
    fun ha ⟨_, _, hinfo⟩ hop hclaim => ends_claimRefused hi hq ha hinfo hop hclaim⟩

end Sys2Proof.Machine
end

section
/-! The queue of commands (03_serair_commands.md, R60, R76, R83). -/

namespace Sys2Proof.Machine

open Sys2Proof

/-! ### The queue of 64 -/

/-- The first checks find nothing but, for a queued command, the length of the queue (R78). -/
theorem headChecks_obeys {o : Origin} {op role : Nat} {info : OpInfo} {c : Chip} (ha : c.obeys o 3) (hr : role ≤ 3) :
    headChecks o op info role c =
      if info.queued = true ∧ c.host.hg.queue.length ≥ 64 then some (refuse 0x13 0 0 0) else none := by
  obtain ⟨⟨-, hopen, hrole⟩, hpath, hclaim⟩ := ha
  have hlow : ¬ c.rd (Reg.SEC_SLOT_STATE_role o.slot.val) < role := by omega
  simp [headChecks, hopen, hlow, hpath, hclaim]

theorem meets_of_head {o : Origin} {op : Nat} {c : Chip}
    (hq : ∃ q l, c.host.hg.queue = q :: l ∧ q.cmd.request ≠ some (o, op)) (info : OpInfo) {cmd : Instr}
    (hcmd : cmd.request = some (o, op)) : c.meets info cmd := by
  obtain ⟨q, l, hl, hne⟩ := hq
  intro _ x hx hxc
  simp only [hl, List.head?_cons, Option.mem_def, Option.some.injEq] at hx
  exact hne (by rw [hx, hxc, hcmd])

theorem log_host (code inst : Nat) (par : List Byte) (c : Chip) : (log code inst par c).host = c.host :=
  only_log (l := [.sys]) (by simp) code inst par c .host (by simp)

/-- An event that the effect logs besides. -/
theorem endsIn_log {o : Origin} {parts : List Part} {regs : List Fld} {c d : Chip} (h : Chip.EndsIn o parts regs c d)
    (hp : Part.sys ∈ parts) (hl : logRegs ⊆ regs) (code inst : Nat) (par : List Byte) :
    Chip.EndsIn o parts regs c (log code inst par d) where
  out := (quiet_log (List.Subset.refl _) code inst par d).2.2.1.trans h.out
  id := by rw [session_congr (log_host _ _ _ _), h.id]
  key := by rw [session_congr (log_host _ _ _ _), h.key]
  parts := only_trans h.parts (only_log hp code inst par d)
  regs := regsKept_log h.regs hl code inst par

section
variable {s : State} {o : Origin}

theorem ends_queueFull {i : Instr} {op kind role : Nat} (hi : i.request = some (o, op))
    (hinfo : opInfo op = some ⟨kind, role, true⟩) (ha : s.core.obeys o 3)
    (hq : ∃ q l, s.core.host.hg.queue = q :: l ∧ q.cmd.request ≠ some (o, op)) (h64 : 64 ≤ s.core.host.hg.queue.length)
    (hroom : s.core.roomToLog) : Ends i s fun t =>
      Replied o op 0x13 (toBE 2 0 ++ toBE 2 0 ++ toBE 4 0) s.core t.core ∧
      t.core.logged 0x0B33 o.path.code (u8 o.path.code ++ u8 0 ++ u32 (s.core.session o.slot.val).id ++ u16 op) ∧
      t.core.host.hg.queue = s.core.host.hg.queue ∧
      (t.core.session o.slot.val).seqs = (s.core.session o.slot.val).seqs ∧ Chip.only [.host, .sys] s.core t.core := by
  let par := u8 o.path.code ++ u8 0 ++ u32 (s.core.session o.slot.val).id ++ u16 op
  let regs := replyRegs o ++ (logRegs ++ [Reg.HG_P_BUSY_count o.path.code, Reg.HG_P_STICKY_sat o.path.code])
  have hlogged : ∀ d, Chip.Arrived o s.core d →
      queueFull o op (refuse 0x13 0 0 0) d = log 0x0B33 o.path.code par d := fun d harr => by
    simp [queueFull, when, refuse, arrived_id harr, par]
  have hcounted : ∀ d, refusalCounted o.path (refuse 0x13 0 0 0) d =
      inc (Reg.HG_P_BUSY_count o.path.code) (Reg.HG_P_STICKY_sat o.path.code) 4 d := fun d => by
    simp [refusalCounted, when, refuse]
  refine ends_headRefused hi ha.1.1 hinfo (fun cmd hcmd => meets_of_head hq _ hcmd) (a := refuse 0x13 0 0 0)
    (parts := [.host, .sys]) (regs := regs) (fun role hr => by simp [headChecks_obeys ha hr, h64]) (fun d harr => ?_)
    (fun d => ?_) (by simp) (List.subset_append_left _ _) fun d harr t ht => ?_
  · rw [hlogged d harr]
    exact endsIn_log (arrived_endsIn harr (by simp) (List.subset_append_left _ _)) (by simp)
      (fun _ hf => List.mem_append_right _ (List.mem_append_left _ hf)) _ _ _
  · rw [hcounted]
    exact regsKept_inc (regsKept_refl _ _) (by simp [regs]) (by simp [regs]) 4
  · have htold := ht.told
    have hkept := ht.untaken (.inr rfl) Session.seqs (fun _ _ => rfl) o.slot.val
    rw [hlogged d harr, hcounted] at htold hkept
    refine ⟨ht.reply, ?_, ?_, ?_, ht.parts⟩
    · have hlog := logged_log (c := d) (by rw [Chip.roomToLog, arrived_sys harr]; exact hroom) 0x0B33 o.path.code par
      exact logged_of_kept hlog fun e he => by rw [told_sys htold, inc_sys]; exact he
    · rw [htold.hg, inc_host, log_host, harr.queue]
    · rw [hkept, session_congr (inc_host _ _ _ _), session_congr (log_host _ _ _ _),
        harr.session Session.seqs fun _ _ _ _ => rfl]

/-- A queued command that finds room behind others joins them. -/
theorem serve_enqueued {op role : Nat} {cmd : Instr} {doms : List Nat} {f : Chip → Option Ans × Chip} {info : OpInfo}
    {c : Chip} (hi : opInfo op = some info) (hqueued : info.queued = true) (ha : c.obeys o 3) (hr : role ≤ 3)
    (hne : c.host.hg.queue ≠ []) (hm : c.meets info cmd) (h64 : c.host.hg.queue.length < 64) :
    serve o op role cmd none doms f { c with out := [] } = enqueue o op cmd (arrive o { c with out := [] }) := by
  have hhead : headChecks o op info role (arrive o { c with out := [] }) = none := by
    rw [headChecks_arrived (arrived_arrive o c), headChecks_obeys ha hr, if_neg (by omega)]
  have hg : Chip.hgOn { c with out := [] } = true := ha.1.1.2
  obtain ⟨q, l, hl⟩ := List.exists_cons_of_ne_nil hne
  have hcmd : q.cmd ≠ cmd := hm hqueued q (by simp [hl])
  unfold serve
  simp only [hg, hi, hqueued, hl, hcmd, hhead, Bool.not_true, Bool.false_eq_true, if_false, if_true]

theorem ends_jobQueued {addr : BitVec 64} {len : BitVec 32} (ha : s.core.obeys o 3)
    (hq : ∃ q l, s.core.host.hg.queue = q :: l ∧ q.cmd.request ≠ some (o, 0x20)) (hform : loadForm addr len = none)
    (h64 : s.core.host.hg.queue.length < 64) : Ends (.jobLoad o addr len) s fun t =>
      t.core.host.hg.queue = s.core.host.hg.queue ++
        [⟨o, .jobLoad o addr len, (s.core.session o.slot.val).id, 0x20, s.core.now, false⟩] ∧
      t.core.out = [] ∧ Chip.only [.host] s.core t.core ∧ t.core.host.jobs = s.core.host.jobs := by
  have harr := arrived_arrive o s.core
  obtain ⟨e, hex, hl, hout⟩ := does_leaves (i := .jobLoad o addr len) (s := s) (.inl rfl) ha.1.1.1
  have hm : s.core.meets ⟨2, 1, true⟩ (.jobLoad o addr len) := meets_of_head hq _ rfl
  obtain ⟨q, l, hl0, -⟩ := hq
  rw [hform, serve_enqueued (info := ⟨2, 1, true⟩) rfl rfl ha (by decide) (by simp [hl0]) hm h64] at hl hout
  have hhost : e.host = _ := hl.parts .host (by simp)
  refine ⟨_, hex, ?_, hout, only_trans (only_trans harr.parts (only_host (by simp) _ _)) (only_mono hl.parts (by simp)), ?_⟩
  · simp only [hhost, enqueue, modSession, harr.queue, arrived_id harr, arrived_now harr]
  · simp only [hhost, enqueue, modSession, harr.jobs]

end

/-! ### Commands that wait too long -/

/-- The session's id is still that of a queued command: the condition of its DEFERRED reply. -/
abbrev Queued.current (c : Chip) (q : Queued) : Prop := (c.session q.o.slot.val).id = q.sid

/-- The reply that tells the session of a queued command that it waits. -/
def Queued.deferredTx (q : Queued) (k : List Byte) : Tx :=
  .serair q.o.path q.o.src (1 + 16 * q.o.path.code) q.o.claim.toNat q.sid q.o.seq.toNat q.op 0x08 [] (some k)

/-- What the session keeps of that reply. -/
def Session.markWaiting (q : Queued) (s : Session) : Session :=
  (s.mark q.o.seq.toNat 1 0x08).keep ⟨q.o.seq.toNat, q.op, q.o.claim.toNat, 0x08, []⟩

theorem markWaiting_id (q : Queued) (s : Session) : (s.markWaiting q).id = s.id := rfl

theorem markWaiting_key (q : Queued) (s : Session) : (s.markWaiting q).key = s.key := rfl

theorem deferredReply_gone {q : Queued} {c : Chip} (h : ¬ q.current c) : deferredReply q c = c := by
  simp only [deferredReply, h, decide_false, Bool.false_eq_true, if_false]

theorem deferredReply_current {q : Queued} {c : Chip} (h : q.current c) : deferredReply q c =
    sendReply q.o q.op false false deferred (modSession q.o.slot.val (Session.markWaiting q) c) := by
  simp only [deferredReply, h, decide_true, if_true]
  rfl

theorem deferredReply_hg (q : Queued) (c : Chip) : (deferredReply q c).host.hg = c.host.hg := by
  by_cases h : q.current c
  · rw [deferredReply_current h, sendReply_host]
    rfl
  · rw [deferredReply_gone h]

theorem deferredReply_id (q : Queued) (c : Chip) (k : Nat) : ((deferredReply q c).session k).id = (c.session k).id := by
  by_cases h : q.current c
  · rw [deferredReply_current h, session_congr (sendReply_host _ _ _ _ _ _)]
    exact session_mod_field (p := Session.id) (markWaiting_id q) _ _ _
  · rw [deferredReply_gone h]

theorem only_deferredReply (q : Queued) (c : Chip) : Chip.only [.host] c (deferredReply q c) := by
  by_cases h : q.current c
  · rw [deferredReply_current h]
    exact only_trans (only_host (by simp) _ _) (only_sendReply _ _ _ _ _ _ _)
  · rw [deferredReply_gone h]
    exact only_refl _ _

theorem deferredReply_sends {q : Queued} {c : Chip} (h : q.current c) :
    (deferredReply q c).out = c.out ++ [q.deferredTx (c.session q.o.slot.val).key] := by
  rw [deferredReply_current h, sendReply_out, session_mod_field (p := Session.id) (markWaiting_id q),
    session_mod_field (p := Session.key) (markWaiting_key q), h]
  simp [txFlags, b2n, deferred, Queued.deferredTx, modSession]

theorem mem_deferredReply_out {x : Tx} {c : Chip} (h : x ∈ c.out) (q : Queued) : x ∈ (deferredReply q c).out := by
  by_cases hq : q.current c
  · rw [deferredReply_sends hq]
    exact List.mem_append_left _ h
  · rwa [deferredReply_gone hq]

/-- Each of the commands whose session is still there is answered. -/
theorem forEach_deferredReply_sends {l : List Queued} {q : Queued} (hq : q ∈ l) {c : Chip} (h : q.current c) :
    ∃ k, q.deferredTx k ∈ (forEach l deferredReply c).out := by
  induction l generalizing c with
  | nil => cases hq
  | cons x l ih =>
    rcases List.mem_cons.1 hq with rfl | hq
    · refine ⟨(c.session q.o.slot.val).key, forEach_keeps (p := fun d => _ ∈ d.out) l (fun y _ d hd =>
        mem_deferredReply_out hd y) ?_⟩
      rw [deferredReply_sends h]
      exact List.mem_append_right _ (List.mem_singleton_self _)
    · exact ih hq ((deferredReply_id x c _).trans h)

theorem queueWaitDeferred : Claim.QueueWaitDeferred := by
  intro s hh
  obtain ⟨e, hex, hl, hout⟩ := does_leaves (i := .queueWaitDeferred) (s := s) (f := queueDeferred) (.inl rfl) hh.1
  have hg : Chip.hgOn { s.core with out := [] } = true := hh.2
  simp only [queueDeferred, hg, Bool.not_true, Bool.false_eq_true, if_false] at hl hout
  have hhost : e.host = _ := hl.parts .host (by simp)
  refine ⟨_, hex, ?_, fun q hq hdue hid => ?_, ?_⟩
  · rw [hhost]
    exact forEach_keeps (p := fun d : Chip => d.host.hg.queue = _) _ (fun q _ d hd => by rw [deferredReply_hg, hd]) rfl
  · rw [hout]
    exact forEach_deferredReply_sends (List.mem_filter.2 ⟨hq, hdue⟩) hid
  · refine only_trans (forEach_keeps (p := fun d => Chip.only [.host] s.core d) _ (fun q _ d hd =>
      only_trans hd (only_deferredReply q d)) ?_) (only_mono hl.parts (by simp))
    exact only_trans (only_out _ _ []) (only_host (by simp) _ _)

/-- Settles O16. -/
theorem commandQueue : Obligations.CommandQueue :=
  ⟨fun i s o op role kind hi hinfo ha hq => ⟨fun h64 hroom => ends_queueFull hi hinfo ha hq h64 hroom,
    fun addr len hjob hform h64 => by
      subst hjob
      cases hi
      exact ends_jobQueued ha hq hform h64⟩, queueWaitDeferred⟩

end Sys2Proof.Machine
end

section
/-! Snapshots (17_thermal_calibration_snapshots.md, R487–R489; 03_serair_commands.md, R93). -/

namespace Sys2Proof.Machine

open Sys2Proof

/-! ### Effects that send nothing -/

/-- The device as an effect finds it, with nothing sent yet. -/
def Chip.unsent (c : Chip) : Chip := { c with out := [] }

theorem unsent_rd (c : Chip) (g : Fld) : c.unsent.rd g = c.rd g := rfl

theorem unsent_flag (c : Chip) (g : Fld) : c.unsent.flag g = c.flag g := rfl

theorem unsent_sys (c : Chip) : c.unsent.sys = c.sys := rfl

/-- `e` is the device left by a command whose effect sent nothing and ended in `d`, within the listed parts and registers. -/
structure Chip.Left (parts : List Part) (regs : List Fld) (c d e : Chip) : Prop where
  out : e.out = []
  parts : Chip.only parts c e
  regs : Chip.regsKept regs c e
  leaves : Chip.Leaves c d e

theorem ends_effect {i : Instr} {s : State} {f : Chip → Chip} {d : Chip} {parts : List Part} {regs : List Fld}
    {Q : State → Prop} (he : Instr.does i f s) (hp : s.core.sys.pwr.porst = false) (hf : f s.core.unsent = d)
    (hout : d.out = []) (hparts : Chip.only parts s.core.unsent d) (hregs : Chip.regsKept regs s.core.unsent d)
    (hpermit : Reg.GIO_STATUS_permit ∈ regs)
    (hQ : ∀ t : State, Chip.Left parts regs s.core d t.core → Q t) : Ends i s Q := by
  obtain ⟨e, hex, hl, heo⟩ := does_leaves he hp
  rw [show f { s.core with out := [] } = d from hf] at hl heo
  exact ⟨_, hex, hQ _ ⟨heo.trans hout, only_trans (only_trans (only_out _ _ []) hparts) (only_mono hl.parts (by simp)),
    regsKept_trans hregs (regsKept_mono hl.regs (by simpa using hpermit)), hl⟩⟩

section
variable {parts : List Part} {regs : List Fld} {c d e : Chip} (h : Chip.Left parts regs c d e)
include h

theorem left_rd {g : Fld} (hg : g.key ≠ Reg.GIO_STATUS_permit.key) : e.rd g = d.rd g :=
  h.leaves.regs g fun _ hf => List.mem_singleton.1 hf ▸ hg

theorem left_flag {g : Fld} (hg : g.key ≠ Reg.GIO_STATUS_permit.key) : e.flag g = d.flag g := by
  rw [Chip.flag, left_rd h hg, Chip.flag]

theorem left_sys : e.sys = d.sys := h.leaves.parts .sys List.not_mem_nil

theorem left_host : e.host = d.host := h.leaves.parts .host List.not_mem_nil

end

/-- A further change that neither sends anything nor touches the host side. -/
theorem endsIn_step {o : Origin} {parts : List Part} {regs : List Fld} {c d e : Chip} (h : Chip.EndsIn o parts regs c d)
    (hout : e.out = d.out) (hhost : e.host = d.host) (hp : Chip.only parts d e) (hr : Chip.regsKept regs d e) :
    Chip.EndsIn o parts regs c e where
  out := hout.trans h.out
  id := by rw [session_congr hhost, h.id]
  key := by rw [session_congr hhost, h.key]
  parts := only_trans h.parts hp
  regs := regsKept_trans h.regs hr

/-! ### Events that find room -/

theorem logQueue_room {c : Chip} (h : c.sys.crock.queue.length < 256) (cyc code inst : Nat) (par : List Byte) :
    logQueue cyc code inst par c = { c with sys := (logQueue cyc code inst par c).sys } := by
  unfold logQueue
  simp only [if_pos h]

theorem logQueue_snp (cyc code inst : Nat) (par : List Byte) (c : Chip) :
    (logQueue cyc code inst par c).sys.snp = c.sys.snp := by
  unfold logQueue
  dsimp only
  split
  · rfl
  · rw [inc_sys]

theorem logQueue_out (cyc code inst : Nat) (par : List Byte) (c : Chip) : (logQueue cyc code inst par c).out = c.out := by
  unfold logQueue
  dsimp only
  split
  · rfl
  · rw [inc_out]

theorem snapTrigger_out (src : Nat) (c : Chip) : (snapTrigger src c).out = c.out := by
  unfold snapTrigger
  split
  · rw [logQueue_out, incSat_out]
  · rfl

theorem logAt_out (cyc code inst : Nat) (par : List Byte) (c : Chip) : (logAt cyc code inst par c).out = c.out := by
  unfold logAt
  rw [logQueue_out]
  split
  · exact snapTrigger_out _ _
  · rfl

/-! ### Triggers -/

theorem snapTrigger_free {c : Chip} (h : c.flag Reg.SNP_STATUS_held = false) (src : Nat) :
    snapTrigger src c = modSnp (fun x => { x with trig := withBit x.trig src true }) c := by
  simp only [snapTrigger, h, Bool.false_eq_true, if_false]
  rfl

theorem snapTrigger_held {c : Chip} (h : c.flag Reg.SNP_STATUS_held = true) (src : Nat) : snapTrigger src c =
    logQueue 0 0x0F02 0 (u32 (c.rd Reg.SNP_SEQ_value) ++ u8 src ++ u8 0 ++ u16 0) (incSat Reg.SNP_MISSED_value c) := by
  simp only [snapTrigger, h, if_true]

/-- While a snapshot is held no event triggers another (R489). -/
theorem logAt_snp {c : Chip} (h : c.flag Reg.SNP_STATUS_held = true) (cyc code inst : Nat) (par : List Byte) :
    (logAt cyc code inst par c).sys.snp = c.sys.snp := by
  unfold logAt
  rw [logQueue_snp]
  split
  · rw [snapTrigger_held h, logQueue_snp, incSat_sys]
  · rfl

theorem rd_incSat_same (f : Fld) (c : Chip) :
    (incSat f c).rd f = if c.rd f + 1 < 2 ^ f.w then c.rd f + 1 else c.rd f := by
  unfold incSat
  split
  case isTrue h => rw [rd_wr_same, Nat.mod_eq_of_lt h]
  case isFalse => rfl

section
variable {s : State}

theorem ends_snapTrigger {o : Origin} (ha : s.core.obeys o 1) (hfree : s.core.free) (hroom : s.core.roomToLog) :
    Ends (.snapTrigger o) s fun t =>
      Replied o 0xC0 0 (if s.core.flag Reg.SNP_STATUS_held then toBE 4 (s.core.rd Reg.SNP_SEQ_value) ++
          toBE 8 (s.core.rd2 Reg.SNP_LATCH_LO_value Reg.SNP_LATCH_HI_value) ++ toBE 1 1 ++ toBE 3 0
        else toBE 4 (s.core.rd Reg.SNP_SEQ_value + 1) ++ toBE 8 (s.core.now + 1) ++ toBE 1 0 ++ toBE 3 0) s.core t.core ∧
      (s.core.flag Reg.SNP_STATUS_held = false → t.core.sys.snp.trig = withBit s.core.sys.snp.trig 0 true ∧
        Chip.regsKept (replyRegs o) s.core t.core) ∧
      (s.core.flag Reg.SNP_STATUS_held = true → t.core.sys.snp = s.core.sys.snp ∧
        t.core.logged 0x0F02 0 (u32 (s.core.rd Reg.SNP_SEQ_value) ++ u8 0 ++ u8 0 ++ u16 0) ∧
        t.core.rd Reg.SNP_MISSED_value = (if s.core.rd Reg.SNP_MISSED_value + 1 < 2 ^ 32 then
          s.core.rd Reg.SNP_MISSED_value + 1 else s.core.rd Reg.SNP_MISSED_value) ∧
        Chip.regsKept (replyRegs o ++ [Reg.SNP_MISSED_value]) s.core t.core) ∧
      Chip.only [.host, .sys] s.core t.core := by
  have h := arrived_finds true o s.core
  have hheld := arrived_flag h (g := Reg.SNP_STATUS_held) (by decide)
  have hseq := arrived_rd h (g := Reg.SNP_SEQ_value) (by decide)
  have hmissed := arrived_rd h (g := Reg.SNP_MISSED_value) (by decide)
  have hsys := arrived_sys h
  have hready : Chip.Ready o 0xC0 1 none [] ⟨2, 1, true⟩ s.core := ready_free rfl ha hfree rfl (by simp)
  cases hc : s.core.flag Reg.SNP_STATUS_held
  case false =>
    have hfree : (s.core.finds true o).flag Reg.SNP_STATUS_held = false := hheld.trans hc
    refine ends_served (a := done _) (parts := [.host, .sys]) (.inl rfl) hready
      (by simp only [snapAsk, hfree, Bool.false_eq_true, if_false]; rfl) (by simp [done]) (by simp [done])
      (regs := replyRegs o) ?_ (by simp) (List.Subset.refl _) fun t ht =>
        ⟨?_, fun _ => ⟨?_, ht.regs⟩, fun hh => absurd hh (by simp), ht.parts⟩
    · rw [snapTrigger_free hfree]
      exact endsIn_step (arrived_endsIn h (by simp) (List.Subset.refl _)) rfl rfl (only_sys (by simp) _ _)
        (regsKept_regs (regsKept_refl _ _) rfl)
    · have hreply := ht.reply
      rw [hseq, arrived_now h] at hreply
      exact hreply
    · rw [told_sys ht.told, snapTrigger_free hfree, ← hsys]
      rfl
  case true =>
    have hfull : (s.core.finds true o).flag Reg.SNP_STATUS_held = true := hheld.trans hc
    have hspace : (incSat Reg.SNP_MISSED_value (s.core.finds true o)).sys.crock.queue.length < 256 := by
      rw [incSat_sys, hsys]
      exact Nat.lt_succ_of_lt hroom
    refine ends_served (a := done _) (parts := [.host, .sys]) (.inl rfl) hready
      (by simp only [snapAsk, hfull, if_true]; rfl) (by simp [done]) (by simp [done])
      (regs := replyRegs o ++ [Reg.SNP_MISSED_value]) ?_ (by simp) (List.subset_append_left _ _) fun t ht =>
        ⟨?_, fun hh => absurd hh (by simp), fun _ => ⟨?_, ?_, ?_, ht.regs⟩, ht.parts⟩
    · rw [snapTrigger_held hfull, logQueue_room hspace]
      exact endsIn_step (arrived_endsIn h (by simp) (List.subset_append_left _ _)) (incSat_out _ _) (incSat_host _ _)
        (only_trans (only_incSat _ _ _) (only_sys (by simp) _ _))
        (regsKept_regs (regsKept_incSat (regsKept_refl _ _) (by simp)) rfl)
    · have hreply := ht.reply
      rw [hseq, arrived_rd2 h (by decide) (by decide)] at hreply
      exact hreply
    · rw [told_sys ht.told, snapTrigger_held hfull, logQueue_snp, incSat_sys, hsys]
    · rw [← hseq]
      refine logged_of_kept (c := snapTrigger 0 (s.core.finds true o)) ?_ fun e he => by rw [told_sys ht.told]; exact he
      rw [snapTrigger_held hfull]
      exact logged_logQueue hspace _ _ _ _
    · rw [told_rd ht.told (by decide), snapTrigger_held hfull, logQueue_room hspace, ← hmissed]
      exact rd_incSat_same Reg.SNP_MISSED_value _

theorem ends_snapInEdge (hp : s.core.sys.pwr.porst = false) (low high : BitVec 8)
    (hheld : s.core.flag Reg.SNP_STATUS_held = false) (hsrc : bit (s.core.rd Reg.SNP_CTL_src) 0 = true) :
    Ends (.snapInEdge low high) s fun t => t.core.sys.snp.trig =
        (if 20 ≤ low.toNat ∧ 10 ≤ high.toNat then withBit s.core.sys.snp.trig 1 true else s.core.sys.snp.trig) ∧
      t.core.out = [] ∧ Chip.only [.sys] s.core t.core ∧ Chip.regsKept [Reg.GIO_STATUS_permit] s.core t.core := by
  have hc : (bit (s.core.unsent.rd Reg.SNP_CTL_src) 0 && decide (20 ≤ low.toNat) && decide (10 ≤ high.toNat)) =
      decide (20 ≤ low.toNat ∧ 10 ≤ high.toNat) := by rw [unsent_rd, hsrc, Bool.true_and, Bool.decide_and]
  by_cases h : 20 ≤ low.toNat ∧ 10 ≤ high.toNat
  case pos =>
    have hf : snapInDue low.toNat high.toNat s.core.unsent = snapTrigger 1 s.core.unsent := by
      rw [snapInDue, hc, decide_eq_true h, when, if_pos rfl]
    refine ends_effect (.inl rfl) hp (hf.trans (snapTrigger_free (c := s.core.unsent) hheld 1)) rfl (only_sys (by simp) _ _)
      (regsKept_regs (regsKept_refl _ _) rfl) (by simp) fun t ht => ⟨?_, ht.out, ht.parts, ht.regs⟩
    rw [if_pos h, left_sys ht]
    rfl
  case neg =>
    have hf : snapInDue low.toNat high.toNat s.core.unsent = s.core.unsent := by
      rw [snapInDue, hc, decide_eq_false h, when, if_neg Bool.false_ne_true]
    refine ends_effect (.inl rfl) hp hf rfl (only_refl _ _) (regsKept_refl _ _) (by simp) fun t ht =>
      ⟨?_, ht.out, ht.parts, ht.regs⟩
    rw [if_neg h, left_sys ht, unsent_sys]

theorem ends_snapTime (hp : s.core.sys.pwr.porst = false) (hheld : s.core.flag Reg.SNP_STATUS_held = false)
    (harmed : s.core.flag Reg.SNP_STATUS_time_armed = true) (hsrc : bit (s.core.rd Reg.SNP_CTL_src) 1 = true)
    (hdue : s.core.snapTime ≤ s.core.timeOf s.core.now) : Ends .snapTime s fun t =>
      t.core.sys.snp.trig = withBit s.core.sys.snp.trig 2 true ∧ t.core.flag Reg.SNP_STATUS_time_armed = false ∧
      t.core.out = [] ∧ Chip.only [.sys] s.core t.core ∧
      Chip.regsKept [Reg.GIO_STATUS_permit, Reg.SNP_STATUS_time_armed] s.core t.core := by
  have hcond : (s.core.unsent.flag Reg.SNP_STATUS_time_armed && bit (s.core.unsent.rd Reg.SNP_CTL_src) 1 &&
      decide (s.core.unsent.snapTime ≤ s.core.unsent.timeOf s.core.unsent.now)) = true := by
    rw [unsent_flag, harmed, unsent_rd, hsrc, Bool.true_and, Bool.true_and]
    exact decide_eq_true hdue
  have hheld' : (wr Reg.SNP_STATUS_time_armed 0 s.core.unsent).flag Reg.SNP_STATUS_held = false := by
    rw [Chip.flag, rd_wr_ne (by decide)]
    exact hheld
  refine ends_effect (f := snapTimeDue) (.inl rfl) hp ((if_pos hcond).trans (snapTrigger_free hheld' 2)) rfl
    (only_trans (only_wr _ _ _ _) (only_sys (by simp) _ _)) (regsKept_regs (regsKept_wr (regsKept_refl _ _)
      (f := Reg.SNP_STATUS_time_armed) (by simp) 0) rfl) (by simp) fun t ht =>
      ⟨by rw [left_sys ht]; rfl, ?_, ht.out, ht.parts, ht.regs⟩
  rw [left_flag ht (by decide)]
  exact congrArg (· != 0) (rd_wr_same Reg.SNP_STATUS_time_armed 0 _)

end

/-! ### The latch -/

theorem found_regs (n : Nat) (c : Chip) : (c.found n).regs = c.regs := rfl

theorem unsent_eq_found (c : Chip) : c.unsent = c.found c.fresh := rfl

theorem unsent_lastCycle (c : Chip) : c.unsent.lastCycle = c.lastCycle := rfl

theorem asSeen_unsent (c : Chip) : c.unsent.asSeen.regs = c.asSeen.regs := by
  have h : ∀ (bs : List Blk) (d : Chip), bs.foldl (fun d b => refresh b .mgmt c.lastCycle d) (d.found c.fresh) =
      (bs.foldl (fun d b => refresh b .mgmt c.lastCycle d) d).found c.fresh := by
    intro bs
    induction bs with
    | nil => exact fun _ => rfl
    | cons b bs ih => exact fun d => by rw [List.foldl_cons, refresh_found, ih, List.foldl_cons]
  unfold Chip.asSeen
  rw [unsent_lastCycle, unsent_eq_found, h, found_regs]

/-- The registers of a latch at beat `b`. -/
def latchRegs (b : Nat) (c : Chip) : Chip :=
  wr Reg.SNP_STATUS_sources c.sys.snp.trig c |> incWrap Reg.SNP_SEQ_value
    |> wr2 Reg.SNP_LATCH_LO_value Reg.SNP_LATCH_HI_value b
    |> wr Reg.SNP_DOMAINS_on (c.rd Reg.TOP_DOMAIN_ON_on) |> wr Reg.SNP_MISSED_value 0
    |> wr Reg.SNP_STATUS_held 1

theorem snapCopies_due {c : Chip} (h : c.snapDue = true) : ∃ x, snapCopies c =
    modSnp (fun s => { s with trig := 0, copies := c.asSeen.regs.filter fun p => !c.foreignField p.1, outHigh := x })
      (latchRegs (c.now + 1) c) :=
  ⟨if c.flag Reg.SNP_CTL_out_en then some (c.now + 1) else c.sys.snp.outHigh, by
    simp only [snapCopies, h, Bool.not_true, Bool.false_eq_true, if_false]
    rfl⟩

section
variable (b : Nat) (c : Chip)

theorem latchRegs_held : (latchRegs b c).rd Reg.SNP_STATUS_held = 1 := rd_wr_same _ _ _

theorem latchRegs_seq : (latchRegs b c).rd Reg.SNP_SEQ_value = (c.rd Reg.SNP_SEQ_value + 1) % 2 ^ 32 := by
  have hkept : (wr Reg.SNP_STATUS_sources c.sys.snp.trig c).rd Reg.SNP_SEQ_value = c.rd Reg.SNP_SEQ_value :=
    rd_wr_ne (by decide) _ _
  have hseq := rd_wr_same Reg.SNP_SEQ_value ((wr Reg.SNP_STATUS_sources c.sys.snp.trig c).rd Reg.SNP_SEQ_value + 1)
    (wr Reg.SNP_STATUS_sources c.sys.snp.trig c)
  rw [hkept] at hseq
  refine Eq.trans ?_ hseq
  unfold latchRegs
  rw [rd_wr_ne (by decide), rd_wr_ne (by decide), rd_wr_ne (by decide), wr2, rd_wr_ne (by decide), rd_wr_ne (by decide),
    incWrap, hkept]

theorem latchRegs_sources : (latchRegs b c).rd Reg.SNP_STATUS_sources = c.sys.snp.trig % 32 := by
  refine Eq.trans ?_ (rd_wr_same Reg.SNP_STATUS_sources c.sys.snp.trig c)
  unfold latchRegs
  rw [rd_wr_ne (by decide), rd_wr_ne (by decide), rd_wr_ne (by decide), wr2, rd_wr_ne (by decide), rd_wr_ne (by decide),
    incWrap, rd_wr_ne (by decide)]

theorem latchRegs_beat : (latchRegs b c).rd2 Reg.SNP_LATCH_LO_value Reg.SNP_LATCH_HI_value = b % 2 ^ 64 := by
  have hlo : (latchRegs b c).rd Reg.SNP_LATCH_LO_value = b % 2 ^ 32 := by
    unfold latchRegs
    rw [rd_wr_ne (by decide), rd_wr_ne (by decide), rd_wr_ne (by decide), rd_wr2_lo (by decide)]
    rfl
  have hhi : (latchRegs b c).rd Reg.SNP_LATCH_HI_value = b / 2 ^ 32 % 2 ^ 32 := by
    unfold latchRegs
    rw [rd_wr_ne (by decide), rd_wr_ne (by decide), rd_wr_ne (by decide), wr2, rd_wr_same]
    rfl
  rw [Chip.rd2, hlo, hhi, show (Reg.SNP_LATCH_LO_value).w = 32 from rfl]
  omega

theorem only_latchRegs : Chip.only [.host, .sys] c (latchRegs b c) := only_regs _ c _

end

/-- The registers that a latch changes, with those of its event. -/
def latchFields : List Fld :=
  eventRegs ++ [Reg.SNP_STATUS_sources, Reg.SNP_SEQ_value, Reg.SNP_LATCH_LO_value, Reg.SNP_LATCH_HI_value,
    Reg.SNP_DOMAINS_on, Reg.SNP_STATUS_held]

theorem regsKept_latchRegs (b : Nat) (c : Chip) : Chip.regsKept latchFields c (latchRegs b c) := by
  unfold latchRegs
  refine regsKept_wr (regsKept_wr (regsKept_wr (regsKept_wr2 (regsKept_incWrap (regsKept_wr (regsKept_refl _ _) ?_ _) ?_)
    ?_ ?_ _) ?_ _) ?_ _) ?_ _ <;> decide

theorem logRegs_subset_latchFields : logRegs ⊆ latchFields := by decide

/-- What the announcement of a latch leaves: every register but an event's, the snapshot unit, and what is sent. -/
theorem snapTell_leaves {d : Chip} (hheld : d.flag Reg.SNP_STATUS_held = true) (k : Nat) :
    Chip.regsKept logRegs d (snapTell k d) ∧ (snapTell k d).sys.snp = d.sys.snp ∧ (snapTell k d).out = d.out ∧
      Chip.only [.host, .sys] d (snapTell k d) := by
  unfold snapTell
  refine ⟨regsKept_noticeAll (regsKept_logAt (regsKept_refl _ _) (List.Subset.refl _) _ _ _ _) _ _ _, ?_, ?_,
    only_trans (only_logAt (by simp) _ _ _ _ _) (only_noticeAll (by simp) _ _ _ _)⟩
  · rw [noticeAll_sys, logAt_snp hheld]
  · rw [(quiet_noticeAll [] _ _ _ _).2.2.1, logAt_out]

theorem snapTell_logged {d : Chip} (hroom : d.roomToLog) (k : Nat) : (snapTell k d).logged 0x0F01 0
    (u32 (d.rd Reg.SNP_SEQ_value) ++ u8 (d.rd Reg.SNP_STATUS_sources) ++ u8 0 ++ u16 0) :=
  logged_of_kept (logged_logAt hroom _ _ _ _) fun e he => by
    rw [snapTell, noticeAll_sys]
    exact he

section
variable {s : State}

theorem ends_snapshotLatch (hp : s.core.sys.pwr.porst = false) (hheld : s.core.flag Reg.SNP_STATUS_held = false)
    (htrig : s.core.sys.snp.trig ≠ 0) (hroom : s.core.roomToLog) : Ends .snapshotLatch s fun t =>
      t.core.flag Reg.SNP_STATUS_held = true ∧
      t.core.rd Reg.SNP_SEQ_value = (s.core.rd Reg.SNP_SEQ_value + 1) % 2 ^ 32 ∧
      t.core.rd2 Reg.SNP_LATCH_LO_value Reg.SNP_LATCH_HI_value = (s.core.now + 1) % 2 ^ 64 ∧
      t.core.rd Reg.SNP_STATUS_sources = s.core.sys.snp.trig % 32 ∧ t.core.sys.snp.trig = 0 ∧
      t.core.sys.snp.copies = (s.core.asSeen.regs.filter fun p => !s.core.foreignField p.1) ∧
      t.core.logged 0x0F01 0 (u32 ((s.core.rd Reg.SNP_SEQ_value + 1) % 2 ^ 32) ++ u8 (s.core.sys.snp.trig % 32) ++ u8 0 ++
        u16 0) ∧ t.core.out = [] ∧ Chip.only [.host, .sys] s.core t.core ∧ Chip.regsKept latchFields s.core t.core := by
  have hdue : s.core.unsent.snapDue = true := by
    rw [Chip.snapDue, unsent_flag, hheld, unsent_sys]
    simpa using htrig
  obtain ⟨x, hx⟩ := snapCopies_due hdue
  let d := latchRegs (s.core.now + 1) s.core.unsent
  have hd : (snapCopies s.core.unsent).regs = d.regs := by
    rw [hx]
    rfl
  have hsnp : (snapCopies s.core.unsent).sys.snp.trig = 0 ∧ (snapCopies s.core.unsent).sys.snp.copies =
      (s.core.asSeen.regs.filter fun p => !s.core.foreignField p.1) := by
    rw [hx, asSeen_unsent]
    exact ⟨rfl, rfl⟩
  have hcrock : (snapCopies s.core.unsent).sys.crock = s.core.sys.crock := by
    rw [hx]
    rfl
  have hone : (snapCopies s.core.unsent).rd Reg.SNP_STATUS_held = 1 := (rd_congr hd _).trans (latchRegs_held _ _)
  have hhold : (snapCopies s.core.unsent).flag Reg.SNP_STATUS_held = true := by simp [Chip.flag, hone]
  have hseq := (rd_congr hd _).trans (latchRegs_seq (s.core.now + 1) s.core.unsent)
  have hsources := (rd_congr hd _).trans (latchRegs_sources (s.core.now + 1) s.core.unsent)
  obtain ⟨hregs, hkeep, hout, hparts⟩ := snapTell_leaves hhold (s.core.unsent.lastCycle + 1)
  have hlog := snapTell_logged (d := snapCopies s.core.unsent) (by rw [Chip.roomToLog, hcrock]; exact hroom)
    (s.core.unsent.lastCycle + 1)
  rw [hseq, hsources] at hlog
  refine ends_effect (f := fun c => if c.snapDue then snapTell (c.lastCycle + 1) (snapCopies c) else c) (.inl rfl) hp
    (if_pos hdue) (parts := [.host, .sys]) (regs := latchFields) ?_ ?_ ?_ (by decide) fun t ht => ?_
  · rw [hout, hx]
    rfl
  · refine only_trans ?_ hparts
    rw [hx]
    exact only_trans (only_latchRegs _ _) (only_sys (by simp) _ _)
  · refine regsKept_trans ?_ (regsKept_mono hregs logRegs_subset_latchFields)
    exact regsKept_regs (regsKept_latchRegs (s.core.now + 1) s.core.unsent) hd
  · have hrd : ∀ g : Fld, (∀ f ∈ eventRegs, g.key ≠ f.key) → t.core.rd g = d.rd g := fun g hg =>
      (left_rd ht (hg _ List.mem_cons_self)).trans ((hregs g fun f hf => hg f (List.mem_cons_of_mem _ hf)).trans
        (rd_congr hd g))
    refine ⟨?_, ?_, ?_, ?_, ?_, ?_, ?_, ht.out, ht.parts, ht.regs⟩
    · rw [Chip.flag, hrd _ (by decide), latchRegs_held]
      rfl
    · rw [hrd _ (by decide), latchRegs_seq]
      rfl
    · rw [Chip.rd2, hrd _ (by decide), hrd _ (by decide)]
      exact latchRegs_beat _ _
    · rw [hrd _ (by decide), latchRegs_sources]
      rfl
    · rw [left_sys ht, hkeep, hsnp.1]
    · rw [left_sys ht, hkeep, hsnp.2]
    · exact logged_of_kept hlog fun e he => by rw [left_sys ht]; exact he

/-! ### Release and configuration -/

variable {o : Origin} (ha : s.core.obeys o 1) (hfree : s.core.free)
include ha hfree

theorem ends_snapRelease (hheld : s.core.flag Reg.SNP_STATUS_held = true) : Ends (.snapRelease o) s fun t =>
    Replied o 0xC1 0 [] s.core t.core ∧ t.core.flag Reg.SNP_STATUS_held = false ∧ Chip.only [.host] s.core t.core ∧
    Chip.regsKept (replyRegs o ++ [Reg.SNP_STATUS_held]) s.core t.core := by
  have h := arrived_finds true o s.core
  have hheld' := (arrived_flag h (g := Reg.SNP_STATUS_held) (by decide)).trans hheld
  refine ends_served (a := done []) (.inl rfl) (ready_free (info := ⟨2, 1, true⟩) rfl ha hfree rfl (by simp))
    (by simp only [hheld', if_true]; rfl) (by decide) (by decide) (parts := [.host])
    (regs := replyRegs o ++ [Reg.SNP_STATUS_held]) ?_ (by simp) (List.subset_append_left _ _) fun t ht =>
      ⟨ht.reply, ?_, ht.parts, ht.regs⟩
  · exact endsIn_step (arrived_endsIn h (by simp) (List.subset_append_left _ _)) rfl rfl (only_wr _ _ _ _)
      (regsKept_wr (regsKept_refl _ _) (by simp) 0)
  · rw [told_flag ht.told (by decide)]
    exact congrArg (· != 0) (rd_wr_same Reg.SNP_STATUS_held 0 _)

/-- The registers that SNAP_CONFIG writes. -/
def snapConfigRegs : List Fld :=
  [Reg.SNP_CTL_src, Reg.SNP_FAULT_MASK_mask, Reg.SNP_TIME_NS_time, Reg.SNP_TIME_SEC_LO_time, Reg.SNP_TIME_SEC_HI_time,
    Reg.SNP_STATUS_time_armed]

end

section
variable (src classes : Nat) (time : DevTime) (c : Chip)

theorem snapSet_src : (snapSet src classes time c).rd Reg.SNP_CTL_src = src / 2 % 8 := by
  unfold snapSet
  rw [wrB, rd_wr_ne (by decide), wr2, rd_wr_ne (by decide), rd_wr_ne (by decide), rd_wr_ne (by decide),
    rd_wr_ne (by decide), rd_wr_same]
  rfl

theorem snapSet_mask (h : classes < 32768) : (snapSet src classes time c).rd Reg.SNP_FAULT_MASK_mask = classes := by
  unfold snapSet
  rw [wrB, rd_wr_ne (by decide), wr2, rd_wr_ne (by decide), rd_wr_ne (by decide), rd_wr_ne (by decide), rd_wr_same]
  exact Nat.mod_eq_of_lt h

/-- What SNAP_CONFIG writes before it arms the source. -/
def snapTimed : Chip :=
  wr Reg.SNP_CTL_src (src / 2) c |> wr Reg.SNP_FAULT_MASK_mask classes |> wr Reg.SNP_TIME_NS_time time.ns.toNat
    |> wr2 Reg.SNP_TIME_SEC_LO_time Reg.SNP_TIME_SEC_HI_time time.sec.toNat

theorem snapSet_eq : snapSet src classes time c =
    wrB Reg.SNP_STATUS_time_armed ((snapTimed src classes time c).snapTime != 0) (snapTimed src classes time c) := rfl

theorem snapTimed_time : (snapTimed src classes time c).snapTime = time.nanos := by
  have hns : (snapTimed src classes time c).rd Reg.SNP_TIME_NS_time = time.ns.toNat := by
    unfold snapTimed
    rw [wr2, rd_wr_ne (by decide), rd_wr_ne (by decide), rd_wr_same]
    exact Nat.mod_eq_of_lt time.ns.isLt
  have hsec : (snapTimed src classes time c).rd2 Reg.SNP_TIME_SEC_LO_time Reg.SNP_TIME_SEC_HI_time = time.sec.toNat :=
    rd2_wr2 (by decide) time.sec.isLt _
  rw [Chip.snapTime, hns, hsec]
  rfl

theorem snapSet_time : (snapSet src classes time c).snapTime = time.nanos := by
  rw [← snapTimed_time src classes time c, snapSet_eq, Chip.snapTime, Chip.rd2, wrB, rd_wr_ne (by decide),
    rd_wr_ne (by decide), rd_wr_ne (by decide)]
  rfl

theorem snapSet_armed : (snapSet src classes time c).flag Reg.SNP_STATUS_time_armed = decide (time.nanos ≠ 0) := by
  rw [snapSet_eq, snapTimed_time, Chip.flag, rd_wrB_same _ (by decide)]
  by_cases h : time.nanos = 0 <;> simp [h, b2n]

theorem regsKept_snapSet : Chip.regsKept snapConfigRegs c (snapSet src classes time c) := by
  unfold snapSet
  refine regsKept_wrB (regsKept_wr2 (regsKept_wr (regsKept_wr (regsKept_wr (regsKept_refl _ _) ?_ _) ?_ _) ?_ _) ?_ ?_ _)
    ?_ _ <;> decide

end

theorem ends_snapConfig {s : State} {o : Origin} (ha : s.core.obeys o 1) (hfree : s.core.free) {src : BitVec 8}
    {classes : BitVec 16} {time : DevTime} (hs : src.toNat < 32) (hc : classes.toNat < 32768)
    (ht : time.ns.toNat < 1000000000) : Ends (.snapConfig o src classes time) s fun t =>
      Replied o 0xC2 0 [] s.core t.core ∧ t.core.rd Reg.SNP_CTL_src = src.toNat / 2 % 8 ∧
      t.core.rd Reg.SNP_FAULT_MASK_mask = classes.toNat ∧ t.core.snapTime = time.nanos ∧
      t.core.flag Reg.SNP_STATUS_time_armed = decide (time.nanos ≠ 0) ∧ Chip.only [.host] s.core t.core ∧
      Chip.regsKept (replyRegs o ++ snapConfigRegs) s.core t.core := by
  have h := arrived_finds true o s.core
  have hform : snapForm src.toNat classes.toNat time = none := by
    rw [snapForm, if_neg (by omega), if_neg (by omega), if_neg (by omega)]
  refine ends_served (a := done []) (.inl rfl) (ready_free (info := ⟨2, 1, true⟩) rfl ha hfree hform (by simp)) rfl
    (by decide) (by decide) (parts := [.host]) (regs := replyRegs o ++ snapConfigRegs) ?_ (by simp)
    (List.subset_append_left _ _) fun t ht => ⟨ht.reply, ?_, ?_, ?_, ?_, ht.parts, ht.regs⟩
  · exact endsIn_step (arrived_endsIn h (by simp) (List.subset_append_left _ _)) rfl rfl (only_regs _ _ _)
      (regsKept_mono (regsKept_snapSet _ _ _ _) (List.subset_append_right _ _))
  · rw [told_rd ht.told (by decide), snapSet_src]
  · rw [told_rd ht.told (by decide), snapSet_mask _ _ _ _ hc]
  · rw [Chip.snapTime, Chip.rd2, told_rd ht.told (by decide), told_rd ht.told (by decide), told_rd ht.told (by decide)]
    exact snapSet_time _ _ _ _
  · rw [told_flag ht.told (by decide), snapSet_armed]

/-- Settles O32: trigger, sources, latch, release and configuration in turn. -/
theorem snapshots : Obligations.Snapshots := fun _ hp =>
  ⟨fun _ ha hfree hroom => ends_snapTrigger ha hfree hroom,
    fun low high hheld hsrc => ends_snapInEdge hp low high hheld hsrc,
    fun hheld harmed hsrc hdue => ends_snapTime hp hheld harmed hsrc hdue,
    fun hheld htrig hroom => ends_snapshotLatch hp hheld htrig hroom,
    fun _ ha hfree => ⟨fun hheld => ends_snapRelease ha hfree hheld,
      fun _ _ _ hs hc ht => ends_snapConfig ha hfree hs hc ht⟩⟩

end Sys2Proof.Machine
end

section
/-! The register window on TOP_SCRATCH (03_serair_commands.md, R89, R97; 00_scope.md, R553). -/

namespace Sys2Proof.Machine

open Sys2Proof

/-! ### A request that bypasses the queue -/

/-- A request that bypasses the queue meets its effect once, on the device at its arrival. -/
theorem serve_bypass_congr {o : Origin} {op role : Nat} {cmd : Instr} {form : Option Nat} {doms : List Nat}
    {info : OpInfo} {f g : Chip → Option Ans × Chip} {c : Chip} (hi : opInfo op = some info) (hq : info.queued = false)
    (h : f (arrive o c) = g (arrive o c)) : serve o op role cmd form doms f c = serve o op role cmd form doms g c := by
  simp only [serve, hi, hq, Bool.false_eq_true, if_false, h]

theorem ends_bypassed {i cmd : Instr} {s : State} {o : Origin} {op role : Nat} {info : OpInfo} {form : Option Nat}
    {doms : List Nat} {f : Chip → Option Ans × Chip} {a : Ans} {d : Chip} {parts : List Part} {regs : List Fld}
    {Q : State → Prop} (he : Instr.does i (serve o op role cmd form doms f) s)
    (h : Chip.Ready o op role form doms info s.core) (hq : info.queued = false)
    (hf : f (s.core.finds false o) = (some a, d)) (h1 : a.1 ≠ 0x11) (h2 : a.1 ≠ 0x13)
    (hd : Chip.EndsIn o parts regs s.core d) (hparts : Part.host ∈ parts) (hregs : replyRegs o ⊆ regs)
    (hQ : ∀ t : State, Chip.Served o op a parts regs s.core d t.core → Q t) : Ends i s Q := by
  refine ends_answer_uncounted he h.admits.1.1 ?_ h1 h2 hd hparts hregs hQ
  rw [serve_bypass_congr h.known hq (g := now fun _ => (a, d)) hf, serve_ready (f := fun _ => (a, d)) h hd.id]

/-! ### TOP_SCRATCH on the register fabric -/

/-- TOP_SCRATCH as the register that answers to its address. -/
def topScratch : Hit := ⟨0x20, ⟨.top, 0, 0x20⟩, ⟨0x20, [], .none, [⟨0, 32, .val 0, .rw, false, none⟩]⟩, []⟩

theorem placeOf_topScratch : placeOf 0x20 = some topScratch.p := by decide

theorem find_topScratch : topScratch.p.find = some (topScratch.r, topScratch.idx) := by decide

section
variable {c : Chip} (hon : c.on pdAON = true)
include hon

theorem route_topScratch : c.route 0x20 = .reg topScratch :=
  route_of_place placeOf_topScratch rfl hon (by decide) find_topScratch

theorem busRead_topScratch (hh : c.heldCopy .headgate 0x22 = none) (k : Nat) :
    busRead .headgate 0x20 k c = (.ok, c.rd Reg.TOP_SCRATCH_value, c) := by
  have hcopy : c.noCopy .headgate topScratch = false := by simp [Chip.noCopy, topScratch]
  have hfield : c.fieldOf .headgate topScratch ⟨0, 32, .val 0, .rw, false, none⟩ = c.rd Reg.TOP_SCRATCH_value := rfl
  have hword : c.wordOf .headgate topScratch = c.rd Reg.TOP_SCRATCH_value := by
    have hext : ((topScratch.p.blk == .pf && topScratch.r.pair == .hi && topScratch.r.fields.all fun f => f.w == 16) ||
      (topScratch.p.blk == .ax && topScratch.p.off == 0x80)) = false := rfl
    simp only [Chip.wordOf, hext, Bool.false_eq_true, if_false]
    rw [show topScratch.r.fields = [⟨0, 32, .val 0, .rw, false, none⟩] from rfl, List.foldl_cons, List.foldl_nil, hfield]
    exact (Nat.zero_add _).trans (Nat.mul_one _)
  have hread : c.readWord .headgate topScratch = c.rd Reg.TOP_SCRATCH_value := by
    rw [readWord_fresh (by decide) hh, freshWord_live (.inl rfl), hword]
  have heffect : readEffect .headgate topScratch c c = c := by
    rw [readEffect_eq, fxTake_none rfl, pairHold_none rfl, secsHold_none rfl, rcClear_none (by decide), capDone_none rfl]
  unfold busRead
  simp only [reduceCtorEq, false_and, if_false, route_topScratch hon, hcopy, Bool.false_eq_true,
    show ¬ 0x1000000 ≤ 0x20 by decide]
  rw [show refresh topScratch.p.blk .headgate k c = c from rfl, hread, heffect]

omit hon in
theorem regWrite_topScratch (v k : Nat) : regWrite .headgate topScratch v k c =
    ⟨.ok, false, wr Reg.TOP_SCRATCH_value (v % 2 ^ 32) c⟩ := by
  have hwritten : fieldsWritten topScratch v c = wr Reg.TOP_SCRATCH_value (v % 2 ^ 32) c := by
    simp only [fieldsWritten, topScratch, forEach, List.foldl_cons, List.foldl_nil, Hit.mirror, FieldDesc.of, Nat.pow_zero,
      Nat.div_one]
    rfl
  have hreserved : topScratch.reservedValue v = false := rfl
  have hbusy : c.unitBusy topScratch = false := rfl
  have hrefuses : c.refusesWrite .headgate topScratch = false := rfl
  have hok : ∀ d, writeOk .headgate topScratch v c d = true := fun _ => rfl
  have hstarts : ∀ d, writeStarts .headgate topScratch v k c d = (.ok, d) := fun _ => rfl
  have hblk : (topScratch.p.blk == .sec || topScratch.p.blk == .crk) = false := rfl
  have hholds : topScratch.holds = false := rfl
  have hpair : (topScratch.r.pair == .lo) = false := rfl
  simp only [regWrite, hblk, hholds, hpair, hbusy, hreserved, hrefuses, hok, hstarts, hwritten, Bool.false_and,
    Bool.false_or, Bool.not_true, Bool.false_eq_true, if_false, if_true]

theorem busWrite_topScratch (v k : Nat) :
    busWrite .headgate 0x20 v k c = ⟨.ok, false, wr Reg.TOP_SCRATCH_value (v % 2 ^ 32) c⟩ := by
  unfold busWrite
  simp only [reduceCtorEq, false_and, if_false, route_topScratch hon, show ¬ 0x1000000 ≤ 0x20 by decide]
  exact regWrite_topScratch v k

end

/-! ### The commands -/

/-- The device after it has drawn a free cycle for an access. -/
def Chip.drawn (c : Chip) : Chip := { c with fresh := c.fresh + 1 }

theorem drawn_rd (c : Chip) (g : Fld) : c.drawn.rd g = c.rd g := rfl

/-- The window can reach TOP_SCRATCH, and has no holding copy of it. -/
structure Chip.showsScratch (c : Chip) : Prop where
  on : c.on pdAON = true
  held : c.heldCopy .headgate 0x22 = none

theorem showsScratch_drawn {c : Chip} (h : c.showsScratch) : c.drawn.showsScratch := ⟨h.on, h.held⟩

theorem leadOnly_scratch (c : Chip) (slot v : Nat) : c.leadOnly slot 0x20 v = v := by
  simp [Chip.leadOnly]

theorem portTake_answered {o : Origin} {op : Nat} {cmd : Instr} {c : Chip} {a : Ans} {d : Chip}
    (hp : c.host.hg.port = []) (hans : (portRun ⟨waiterOf o op false c, cmd, 0, [], c.now⟩ c).ans = some a)
    (hchip : (portRun ⟨waiterOf o op false c, cmd, 0, [], c.now⟩ c).chip = d) : portTake o op cmd c = (some a, d) := by
  simp only [portTake, hp, List.isEmpty_nil, if_true, hans, hchip]

section
variable {c : Chip} (h : c.showsScratch) (o : Origin) (w : Waiter) (b : Nat)
include h

theorem portRun_read : let r := portRun ⟨w, .regRead o 0x20 1, 0, [], b⟩ c
    r.ans = some (done (toBE 4 (c.rd Reg.TOP_SCRATCH_value))) ∧ r.chip = c.drawn := by
  have hread := busRead_topScratch (showsScratch_drawn h).on (showsScratch_drawn h).held (freeCycle c).1
  have hrun : portRun ⟨w, .regRead o 0x20 1, 0, [], b⟩ c = portReads 0x20 1 ⟨w, .regRead o 0x20 1, 0, [], b⟩ c := rfl
  rw [hrun]
  simp only [portReads, Nat.mul_zero, Nat.add_zero]
  rw [show (freeCycle c).2 = c.drawn from rfl, hread]
  exact ⟨congrArg (fun l => some (done l)) (List.append_nil _), rfl⟩

theorem portRun_write (v : Word) : let r := portRun ⟨w, .regWrite o 0x20 [v], 0, [], b⟩ c
    r.ans = some (done []) ∧ r.chip = wr Reg.TOP_SCRATCH_value v.toNat c.drawn := by
  have hwrite := busWrite_topScratch (showsScratch_drawn h).on v.toNat (freeCycle c).1
  have hrun : portRun ⟨w, .regWrite o 0x20 [v], 0, [], b⟩ c =
    portWrites 0x20 [v.toNat] ⟨w, .regWrite o 0x20 [v], 0, [], b⟩ c := rfl
  rw [hrun]
  simp only [portWrites, Nat.mul_zero, Nat.add_zero, show barred 0x20 = false from rfl, Bool.false_eq_true, if_false,
    leadOnly_scratch]
  rw [show (freeCycle c).2 = c.drawn from rfl, hwrite, Nat.mod_eq_of_lt v.isLt]
  exact ⟨rfl, rfl⟩

theorem portRun_modify (mask value : BitVec 32) :
    let r := portRun ⟨w, .regModify o 0x20 mask value, 0, [], b⟩ c
    r.ans = some (done (toBE 4 (c.rd Reg.TOP_SCRATCH_value))) ∧
      r.chip = wr Reg.TOP_SCRATCH_value ((c.rd Reg.TOP_SCRATCH_value &&& (~~~mask).toNat) |||
        (value.toNat &&& mask.toNat)) c.drawn.drawn := by
  have hread := busRead_topScratch (showsScratch_drawn h).on (showsScratch_drawn h).held (freeCycle c).1
  have hwrite := fun v => busWrite_topScratch (showsScratch_drawn (showsScratch_drawn h)).on v (freeCycle c.drawn).1
  have hnot : mask.toNat ^^^ (2 ^ 32 - 1) = (~~~mask).toNat := by
    rw [← BitVec.xor_allOnes, BitVec.toNat_xor, BitVec.toNat_allOnes]
  have hlt : (c.rd Reg.TOP_SCRATCH_value &&& (~~~mask).toNat) ||| (value.toNat &&& mask.toNat) < 2 ^ 32 :=
    Nat.or_lt_two_pow (Nat.and_lt_two_pow _ (~~~mask).isLt) (Nat.and_lt_two_pow _ mask.isLt)
  simp only [portRun, show (0x20 : BitVec 32).toNat = 0x20 from rfl, show barred 0x20 = false from rfl,
    Bool.false_eq_true, if_false]
  rw [show (freeCycle c).2 = c.drawn from rfl, hread]
  simp only [portModify, leadOnly_scratch, drawn_rd, hnot]
  rw [show (freeCycle c.drawn).2 = c.drawn.drawn from rfl, hwrite, Nat.mod_eq_of_lt hlt]
  exact ⟨rfl, rfl⟩

end

section
variable {s : State} {o : Origin} (ha : s.core.obeys o 2) (hport : s.core.host.hg.port = []) (hs : s.core.showsScratch)
include ha hport hs

omit ha hport in
theorem showsScratch_arrived {c : Chip} (h : Chip.Arrived o s.core c) : c.showsScratch :=
  ⟨(arrived_on h _).trans hs.on, (heldCopy_congr (h.parts .hold (by simp)) _ _).trans hs.held⟩

theorem ends_readScratch : Ends (.regRead o 0x20 1) s fun t =>
    Replied o 0x10 0 (toBE 4 (s.core.rd Reg.TOP_SCRATCH_value)) s.core t.core ∧
    Chip.only [.host, .fresh] s.core t.core ∧ Chip.regsKept (replyRegs o) s.core t.core := by
  have h := arrived_finds false o s.core
  obtain ⟨hans, hchip⟩ := portRun_read (showsScratch_arrived hs h) o (waiterOf o 0x10 false (s.core.finds false o))
    (s.core.finds false o).now
  rw [arrived_rd h (by decide)] at hans
  have hrole : rolesOf ((List.range (min (BitVec.toNat (1 : BitVec 16)) 256)).map fun k => readRole (0x20 + 4 * k)) = 1 :=
    by decide
  have hready : Chip.Ready o 0x10 1 none [] ⟨1, 1, false⟩ s.core :=
    ready_open rfl rfl (.inl (by decide)) ⟨ha.1.1, ha.1.2.1, Nat.le_of_succ_le ha.1.2.2⟩ rfl (by simp)
  rw [← hrole] at hready
  refine ends_bypassed (a := done _) (parts := [.host, .fresh]) (regs := replyRegs o) (.inl rfl) hready rfl
    (portTake_answered (h.port.trans hport) hans hchip) (by simp [done]) (by simp [done]) ?_ (by simp)
    (List.Subset.refl _) fun t ht => ⟨ht.reply, ht.parts, ht.regs⟩
  exact endsIn_step (arrived_endsIn h (by simp) (List.Subset.refl _)) rfl rfl (only_fresh (by simp) _ _)
    (regsKept_regs (regsKept_refl _ _) rfl)

omit hs in
/-- A window command that writes `v` to TOP_SCRATCH and answers. -/
theorem ends_wroteScratch {i cmd : Instr} {op v role : Nat} {a : Ans} {d : Chip}
    (he : Instr.does i (serve o op role cmd none [] (portTake o op cmd)) s) (hrole : role = 2)
    (hop : op = 0x11 ∨ op = 0x12)
    (hans : (portRun ⟨waiterOf o op false (s.core.finds false o), cmd, 0, [], (s.core.finds false o).now⟩
      (s.core.finds false o)).ans = some a)
    (hchip : (portRun ⟨waiterOf o op false (s.core.finds false o), cmd, 0, [], (s.core.finds false o).now⟩
      (s.core.finds false o)).chip = wr Reg.TOP_SCRATCH_value v d)
    (hd : ∃ n, d = { s.core.finds false o with fresh := n }) (hv : v < 2 ^ 32) (ha0 : a.1 = 0) : Ends i s fun t =>
      Replied o op a.1 a.2 s.core t.core ∧ t.core.rd Reg.TOP_SCRATCH_value = v ∧
      Chip.only [.host, .fresh] s.core t.core ∧
      Chip.regsKept (Reg.TOP_SCRATCH_value :: replyRegs o) s.core t.core := by
  have h := arrived_finds false o s.core
  have hready : Chip.Ready o op role none [] ⟨2, 1, false⟩ s.core := by
    subst hrole
    rcases hop with rfl | rfl <;> exact ready_claimed rfl rfl ha rfl (by simp)
  refine ends_bypassed (parts := [.host, .fresh]) (regs := Reg.TOP_SCRATCH_value :: replyRegs o) he hready rfl
    (portTake_answered (h.port.trans hport) hans hchip) (by simp [ha0]) (by simp [ha0]) ?_ (by simp)
    (List.subset_cons_self _ _) fun t ht => ⟨ht.reply, ?_, ht.parts, ht.regs⟩
  · obtain ⟨n, rfl⟩ := hd
    exact endsIn_step (arrived_endsIn h (by simp) (List.subset_cons_self _ _)) rfl rfl
      (only_trans (only_fresh (by simp) _ n) (only_wr _ _ _ _))
      (regsKept_wr (regsKept_regs (regsKept_refl _ _) rfl) List.mem_cons_self v)
  · rw [told_rd ht.told (by decide), rd_wr_same]
    exact Nat.mod_eq_of_lt hv

theorem ends_writeScratch (v : Word) : Ends (.regWrite o 0x20 [v]) s fun t =>
    Replied o 0x11 0 [] s.core t.core ∧ t.core.rd Reg.TOP_SCRATCH_value = v.toNat ∧
    Chip.only [.host, .fresh] s.core t.core ∧ Chip.regsKept (Reg.TOP_SCRATCH_value :: replyRegs o) s.core t.core := by
  have h := arrived_finds false o s.core
  obtain ⟨hans, hchip⟩ := portRun_write (showsScratch_arrived hs h) o (waiterOf o 0x11 false (s.core.finds false o))
    (s.core.finds false o).now v
  have hrole : rolesOf (writeRoles (BitVec.toNat (0x20 : BitVec 32)) ([v].map BitVec.toNat)) = 2 := by
    simp [rolesOf, writeRoles, writeRole, show makerOnly 0x20 = false from by decide, barred]
  exact ends_wroteScratch ha hport (.inl rfl) hrole (.inl rfl) hans hchip ⟨_, rfl⟩ v.isLt rfl

theorem ends_modifyScratch (mask value : BitVec 32) : Ends (.regModify o 0x20 mask value) s fun t =>
    Replied o 0x12 0 (toBE 4 (s.core.rd Reg.TOP_SCRATCH_value)) s.core t.core ∧
    t.core.rd Reg.TOP_SCRATCH_value =
      (s.core.rd Reg.TOP_SCRATCH_value &&& (~~~mask).toNat) ||| (value.toNat &&& mask.toNat) ∧
    Chip.only [.host, .fresh] s.core t.core ∧ Chip.regsKept (Reg.TOP_SCRATCH_value :: replyRegs o) s.core t.core := by
  have h := arrived_finds false o s.core
  obtain ⟨hans, hchip⟩ := portRun_modify (showsScratch_arrived hs h) o (waiterOf o 0x12 false (s.core.finds false o))
    (s.core.finds false o).now mask value
  rw [arrived_rd h (by decide)] at hans hchip
  have hrole : writeRole (BitVec.toNat (0x20 : BitVec 32)) (value &&& mask).toNat = 2 := by
    simp [writeRole, show makerOnly 0x20 = false from by decide, barred]
  exact ends_wroteScratch ha hport (.inl rfl) hrole (.inr rfl) hans hchip ⟨_, rfl⟩
    (Nat.or_lt_two_pow (Nat.and_lt_two_pow _ (~~~mask).isLt) (Nat.and_lt_two_pow _ mask.isLt)) rfl

end

/-- Settles O20: the three accesses go through the window's port at once. -/
theorem windowOnScratch : Obligations.WindowOnScratch := fun _ _ ha hport _ hon hheld =>
  ⟨ends_readScratch ha hport ⟨hon, hheld⟩, fun v => ends_writeScratch ha hport ⟨hon, hheld⟩ v,
    fun mask value => ends_modifyScratch ha hport ⟨hon, hheld⟩ mask value⟩

end Sys2Proof.Machine
end

section
/-! The start of a job whose application cores are off (02_beat_and_admission.md, R49; 16_management_roles_crock.md, R450). -/

namespace Sys2Proof.Machine

open Sys2Proof

/-- A job that is ADMITTED and starts at beat 0. -/
def dueJob : Job := ⟨7, 0, 1, true, [], [], [], some 0, [], [], []⟩

/-- PORST_n has risen, PD_AON alone is on, and an ADMITTED job's start beat has come. -/
def dueJobCoresOff : State :=
  { State.reset with
    core := { modPwr (fun p => { p with porst := false }) State.reset.core with
      host := { State.reset.core.host with jobs := [dueJob] } } }

/-- While the application cores are off no job starts: the beat leaves the job as it is. -/
theorem jobStartBeat_coresOff {c : Chip} (h : c.on pdAPP = false) : jobStartBeat c = c := by
  have hd : when (c.on pdAPP) jobBegin c = c := by rw [h, when, if_neg Bool.false_ne_true]
  simp only [jobStartBeat, hd]
  cases c.admitted <;> rfl

/-- Refutes O23: the job's start asks for the application cores (R450), and the clause of the start beat does not. In the
state `dueJobCoresOff`, where PD_APP is off, JOB_START_BEAT at the job's start beat leaves it ADMITTED. -/
theorem not_jobsRun : ¬ Obligations.JobsRun := by
  intro h
  have hp : dueJobCoresOff.core.sys.pwr.porst = false := rfl
  obtain ⟨-, hbeat⟩ := h.1 dueJobCoresOff dueJob
  obtain ⟨t, ht, ⟨k, hk, hst, -⟩, -⟩ := hbeat 0 hp rfl rfl (Nat.zero_le _) rfl fun k hk _ => List.mem_singleton.1 hk
  obtain ⟨e, hex, hl, -⟩ := does_leaves (i := .jobStartBeat) (s := dueJobCoresOff) (f := jobStartBeat) (.inl rfl) hp
  rw [jobStartBeat_coresOff (by decide)] at hl
  obtain rfl : t = _ := Host.Outcome.next.inj (ht.symm.trans hex)
  have hhost : e.host = dueJobCoresOff.core.host := hl.parts .host List.not_mem_nil
  have hjob : e.jobOf dueJob.id = some dueJob := by
    rw [Chip.jobOf, hhost]
    rfl
  cases hjob.symm.trans hk
  exact absurd hst (by decide)

end Sys2Proof.Machine
end

section
/-! Jobs from their loading to their admission (02_beat_and_admission.md, R47, R53, R54; 03_serair_commands.md, R90, R555). -/

namespace Sys2Proof.Machine

open Sys2Proof

/-! ### Answers whose effect goes beyond a list of registers -/

theorem ends_answered {i cmd : Instr} {s : State} {o : Origin} {op role : Nat} {form : Option Nat} {doms : List Nat}
    {info : OpInfo} {a : Ans} {f : Chip → Ans × Chip} {d : Chip} {Q : State → Prop}
    (he : Instr.does i (serve o op role cmd form doms (now f)) s) (h : Chip.Ready o op role form doms info s.core)
    (hf : f (s.core.finds info.queued o) = (a, d)) (h1 : a.1 ≠ 0x11) (h2 : a.1 ≠ 0x13) (hout : d.out = [])
    (hid : (d.session o.slot.val).id = (s.core.session o.slot.val).id)
    (hkey : (d.session o.slot.val).key = (s.core.session o.slot.val).key)
    (hQ : ∀ t : State, Replied o op a.1 a.2 s.core t.core → Chip.Told o d t.core → Q t) : Ends i s Q := by
  obtain ⟨e, hex, hl, heo⟩ := does_leaves he h.admits.1.1
  have hserve := serve_ready (cmd := cmd) h (f := f) (by rw [hf]; exact hid)
  rw [hf] at hserve
  rw [hserve] at hl heo
  have htold := told_answer hl
  rw [refusalCounted_none h1 h2] at htold
  refine ⟨_, hex, hQ _ ?_ htold⟩
  show e.out = _
  rw [heo, answer_sends, hout, hid, hkey]
  rfl

/-! ### Notices -/

/-- What a notice to one session keeps, a notice to all keeps. -/
theorem noticeAll_keeps {p : Chip → Prop} {code status : Nat} {body : List Byte}
    (h : ∀ k c, p c → p (modSession k (Session.notify code status body) c)) {c : Chip} (hc : p c) :
    p (noticeAll code status body c) := by
  have hfold : ∀ (ks : List Nat) (c : Chip), p c → p (ks.foldl (fun c k =>
      if c.sessionOpen k && bit (c.session k).nmask (code - 0x8001) then modSession k (Session.notify code status body) c
      else c) c) := by
    intro ks
    induction ks with
    | nil => exact fun _ hc => hc
    | cons k ks ih =>
      intro c hc
      rw [List.foldl_cons]
      refine ih _ ?_
      split
      · exact h k c hc
      · exact hc
  unfold noticeAll
  split
  · exact hc
  · exact hfold _ c hc

/-! ### Changes beside the jobs and the sessions -/

/-- The parts that a job's course does not touch, left out. -/
abbrev jobParts : List Part := [.host, .sys, .beam, .img, .lad, .mem, .fresh, .tables, .hold, .fxHold]

/-- `d` is `c` changed beside the jobs, the sessions' ids and keys, DRAM, the axes and the Kettle, with nothing sent. -/
structure Chip.beside (c d : Chip) : Prop where
  out : d.out = c.out
  jobs : d.host.jobs = c.host.jobs
  id : ∀ k, (d.session k).id = (c.session k).id
  key : ∀ k, (d.session k).key = (c.session k).key
  parts : Chip.only jobParts c d

theorem beside_refl (c : Chip) : Chip.beside c c := ⟨rfl, rfl, fun _ => rfl, fun _ => rfl, only_refl _ c⟩

theorem beside_trans {a b c : Chip} (h : Chip.beside a b) (k : Chip.beside b c) : Chip.beside a c where
  out := k.out.trans h.out
  jobs := k.jobs.trans h.jobs
  id j := (k.id j).trans (h.id j)
  key j := (k.key j).trans (h.key j)
  parts := only_trans h.parts k.parts

/-- A change that leaves the host side. -/
theorem beside_of_host {c d : Chip} (hout : d.out = c.out) (hhost : d.host = c.host) (hp : Chip.only jobParts c d) :
    Chip.beside c d where
  out := hout
  jobs := by rw [hhost]
  id := fun k => by rw [session_congr hhost]
  key := fun k => by rw [session_congr hhost]
  parts := hp

theorem beside_wr (f : Fld) (v : Nat) (c : Chip) : Chip.beside c (wr f v c) := beside_of_host rfl rfl (only_wr _ _ _ _)

theorem beside_log (code inst : Nat) (par : List Byte) (c : Chip) : Chip.beside c (log code inst par c) :=
  beside_of_host (logAt_out _ _ _ _ c) (log_host _ _ _ c) (only_log (by simp) _ _ _ _)

theorem beside_forEach {α : Type} {f : α → Chip → Chip} (l : List α) (hf : ∀ x ∈ l, ∀ c, Chip.beside c (f x c)) (c : Chip) :
    Chip.beside c (forEach l f c) := by
  induction l generalizing c with
  | nil => exact beside_refl c
  | cons x l ih =>
    exact beside_trans (hf x List.mem_cons_self c) (ih (fun y hy => hf y (List.mem_cons_of_mem _ hy)) (f x c))

theorem beside_modSession {k : Nat} {f : Session → Session} (hid : ∀ x, (f x).id = x.id) (hkey : ∀ x, (f x).key = x.key)
    (c : Chip) : Chip.beside c (modSession k f c) where
  out := rfl
  jobs := rfl
  id j := session_mod_field (p := Session.id) hid k j c
  key j := session_mod_field (p := Session.key) hkey k j c
  parts := only_host (by simp) _ _

theorem beside_noticeAll (code status : Nat) (body : List Byte) (c : Chip) :
    Chip.beside c (noticeAll code status body c) :=
  noticeAll_keeps (p := Chip.beside c) (fun _ _ h => beside_trans h (beside_modSession
    (f := Session.notify code status body) (fun _ => rfl) (fun _ => rfl) _)) (beside_refl c)

theorem beside_jobNotice (j : Job) (st cause : Nat) (c : Chip) : Chip.beside c (jobNotice j st cause c) :=
  beside_noticeAll _ _ _ c

theorem only_jobNotice {l : List Part} (hl : Part.host ∈ l) (j : Job) (st cause : Nat) (c : Chip) :
    Chip.only l c (jobNotice j st cause c) := only_noticeAll hl _ _ _ c

theorem jobNotice_regs (j : Job) (st cause : Nat) (c : Chip) : (jobNotice j st cause c).regs = c.regs :=
  noticeAll_regs _ _ _ c

theorem only_modJob {l : List Part} (hl : Part.host ∈ l) (id : Nat) (f : Job → Job) (c : Chip) :
    Chip.only l c (modJob id f c) := only_host hl c _

theorem beside_wrShadow (l : List Slot) (c : Chip) : Chip.beside c (wrShadow l c) :=
  beside_forEach _ (fun _ _ c => beside_trans (beside_wr _ _ c) (beside_wr _ _ _)) c

theorem beside_modCtx (n : Nat) (f : Ctx → Ctx) (c : Chip) : Chip.beside c (modCtx n f c) :=
  beside_of_host rfl rfl (only_img (by simp) _ _)

theorem beside_ctxKill (n cause : Nat) (c : Chip) : Chip.beside c (ctxKill n cause c) := by
  unfold ctxKill
  dsimp only
  split
  · exact beside_refl c
  · exact beside_trans (beside_modCtx _ _ c) (beside_trans (beside_wr _ _ _) (beside_log _ _ _ _))

theorem beside_sieveAdmitted (c : Chip) : Chip.beside c (sieveAdmitted c) :=
  beside_forEach _ (fun _ _ c => beside_ctxKill _ _ c) c

/-! ### One job changed -/

theorem jobOf_modJob {id : Nat} {f : Job → Job} (hf : ∀ j, (f j).id = j.id) (c : Chip) :
    (modJob id f c).jobOf id = (c.jobOf id).map f := by
  show (c.host.jobs.map fun j => if j.id = id then f j else j).find? _ = (c.host.jobs.find? _).map f
  induction c.host.jobs with
  | nil => rfl
  | cons j l ih =>
    by_cases hj : j.id = id
    · simp [hj, hf]
    · simpa [hj] using ih

theorem jobOf_congr {c d : Chip} (h : d.host.jobs = c.host.jobs) (id : Nat) : d.jobOf id = c.jobOf id := by
  rw [Chip.jobOf, h, Chip.jobOf]

/-! ### JOB_LOAD -/

section
variable {s : State} {o : Origin} {addr : BitVec 64} {len : BitVec 32} (ha : s.core.obeys o 1) (hfree : s.core.free)
  (hdram : s.core.on pdDRAM = true) (hform : loadForm addr len = none)
include ha hfree hdram hform

/-- JOB_LOAD that is refused for the state. -/
theorem ends_jobLoadRefused {a : Ans} (hf : ∀ c, Chip.Arrived o s.core c → jobLoad addr.toNat len.toNat c = (a, c))
    (h1 : a.1 = 0x16) : Ends (.jobLoad o addr len) s fun t => Replied o 0x20 a.1 a.2 s.core t.core ∧
      t.core.host.jobs = s.core.host.jobs ∧ Chip.only [.host] s.core t.core ∧
      Chip.regsKept (replyRegs o) s.core t.core := by
  have h := arrived_finds true o s.core
  exact ends_served (.inl rfl) (ready_free (info := ⟨2, 1, true⟩) rfl ha hfree hform (by simpa using hdram)) (hf _ h)
    (by simp [h1]) (by simp [h1]) (arrived_endsIn h (by simp) (List.Subset.refl _)) (by simp) (List.Subset.refl _)
    fun t ht => ⟨ht.reply, ht.told.jobs.trans h.jobs, ht.parts, ht.regs⟩

theorem ends_jobLoadUnlocked (hlock : s.core.flag Reg.BT_CTL_admit_need_lock = true) (ht : s.core.timeState ≤ 1) :
    Ends (.jobLoad o addr len) s fun t =>
      Replied o 0x20 0x16 (toBE 2 s.core.timeState ++ toBE 2 0 ++ toBE 4 0) s.core t.core ∧
      t.core.host.jobs = s.core.host.jobs ∧ Chip.only [.host] s.core t.core ∧
      Chip.regsKept (replyRegs o) s.core t.core := by
  refine ends_jobLoadRefused ha hfree hdram hform (a := badState s.core.timeState 0) (fun c h => ?_) rfl
  have htime : c.timeState = s.core.timeState := arrived_rd h (by decide)
  have hlock' := (arrived_flag h (g := Reg.BT_CTL_admit_need_lock) (by decide)).trans hlock
  simp only [jobLoad, hlock', htime, ht, and_self, if_true]

section
variable (htime : s.core.flag Reg.BT_CTL_admit_need_lock = false ∨ 2 ≤ s.core.timeState)
include htime

omit ha hfree hdram hform in
/-- The time state lets a job be loaded. -/
theorem timeLoads_arrived {c : Chip} (h : Chip.Arrived o s.core c) :
    ¬ (c.flag Reg.BT_CTL_admit_need_lock = true ∧ c.timeState ≤ 1) := by
  have ht : c.timeState = s.core.timeState := arrived_rd h (by decide)
  rw [arrived_flag h (by decide), ht]
  rcases htime with hl | hl
  · simp [hl]
  · omega

theorem ends_jobLoadFull (h4 : 4 ≤ s.core.host.jobs.length) : Ends (.jobLoad o addr len) s fun t =>
    Replied o 0x20 0x16 (toBE 2 0 ++ toBE 2 0 ++ toBE 4 0) s.core t.core ∧ t.core.host.jobs = s.core.host.jobs ∧
    Chip.only [.host] s.core t.core ∧ Chip.regsKept (replyRegs o) s.core t.core := by
  refine ends_jobLoadRefused ha hfree hdram hform (a := badState 0 0) (fun c h => ?_) rfl
  simp only [jobLoad, if_neg (timeLoads_arrived htime h), h.jobs, ge_iff_le, h4, if_true]

theorem ends_jobLoaded (h4 : s.core.host.jobs.length < 4) (hok : s.core.dramOk addr.toNat len.toNat = true)
    (hdesc : descFault (s.core.dramRead addr.toNat len.toNat) = none)
    (hnew : s.core.jobOf (Job.ofBytes (s.core.dramRead addr.toNat len.toNat)).id = none) :
    Ends (.jobLoad o addr len) s fun t =>
      Replied o 0x20 0 (toBE 4 (Job.ofBytes (s.core.dramRead addr.toNat len.toNat)).id) s.core t.core ∧
      t.core.host.jobs = s.core.host.jobs ++ [Job.ofBytes (s.core.dramRead addr.toNat len.toNat)] ∧
      (Job.ofBytes (s.core.dramRead addr.toNat len.toNat)).st = 0 ∧ Chip.only [.host] s.core t.core ∧
      Chip.regsKept (replyRegs o) s.core t.core := by
  have h := arrived_finds true o s.core
  have hload : jobLoad addr.toNat len.toNat (s.core.finds true o) =
      (done (toBE 4 (Job.ofBytes (s.core.dramRead addr.toNat len.toNat)).id),
        modJobs (fun q => q ++ [Job.ofBytes (s.core.dramRead addr.toNat len.toNat)]) (s.core.finds true o)) := by
    have hnew' := (jobOf_congr h.jobs _).trans hnew
    have hroom : ¬ 4 ≤ s.core.host.jobs.length := by omega
    simp only [jobLoad, if_neg (timeLoads_arrived htime h), h.jobs, ge_iff_le, hroom, if_false, arrived_dramOk h, hok,
      Bool.not_true, Bool.false_eq_true, arrived_dramRead h, hdesc, hnew']
  refine ends_served (.inl rfl) (ready_free (info := ⟨2, 1, true⟩) rfl ha hfree hform (by simpa using hdram)) hload
    (by simp [done]) (by simp [done]) (parts := [.host]) (regs := replyRegs o) ?_ (by simp) (List.Subset.refl _)
    fun t ht => ⟨ht.reply, ?_, rfl, ht.parts, ht.regs⟩
  · exact ⟨h.out, arrived_id h _, arrived_key h _, only_trans h.parts (only_host (by simp) _ _),
      regsKept_regs (arrived_regsKept h) rfl⟩
  · rw [ht.told.jobs, ← h.jobs]
    rfl

end

end

theorem jobLoads : Claim.JobLoads := fun _ _ _ _ ha hfree hdram hform =>
  ⟨fun hlock ht => ends_jobLoadUnlocked ha hfree hdram hform hlock ht, fun htime =>
    ⟨fun h4 => by
      obtain ⟨t, hex, hreply, hjobs, -⟩ := ends_jobLoadFull ha hfree hdram hform htime h4
      exact ⟨t, hex, hreply, hjobs⟩,
    fun h4 hok hdesc hnew => ends_jobLoaded ha hfree hdram hform htime h4 hok hdesc hnew⟩⟩

/-! ### The pre-walk and JOB_ADMIT -/

/-- A job with its channels' lists walked. -/
def Job.withLists (l : List JobList) (j : Job) : Job := { j with walked := true, lists := l }

/-- A job that is ADMITTED, with the deadlines of its contexts. -/
def Job.admittedWith (l : List (Nat × Nat)) (j : Job) : Job := { j with st := 1, deadlines := l }

theorem withLists_id (l : List JobList) (j : Job) : (j.withLists l).id = j.id := rfl

theorem admittedWith_id (l : List (Nat × Nat)) (j : Job) : (j.admittedWith l).id = j.id := rfl

theorem ends_prewalkDone {s : State} {id : BitVec 32} {j : Job} (hp : s.core.sys.pwr.porst = false)
    (hon : s.core.on pdAPP = true) (hj : s.core.jobOf id.toNat = some j) (hst : j.st = 0) (hwalked : j.walked = false) :
    Ends (.prewalkDone id) s fun t =>
      (∃ k, t.core.jobOf id.toNat = some k ∧ k.walked = true ∧ k.st = 0 ∧ k.lists.length = j.chans.length) ∧
      t.core.out = [] ∧ Chip.only [.host] s.core t.core ∧ Chip.regsKept [Reg.GIO_STATUS_permit] s.core t.core := by
  have hj' : s.core.unsent.jobOf id.toNat = some j := hj
  have hon' : s.core.unsent.on pdAPP = true := hon
  let lists := j.chans.map fun e => s.core.unsent.preWalk (s.core.unsent.restAt e.chan) e
  have hdone : preWalkDone id.toNat s.core.unsent =
      jobNotice j 0 1 (modJob id.toNat (Job.withLists lists) s.core.unsent) := by
    simp only [preWalkDone, hj', hst, hwalked, hon', ne_eq, not_true_eq_false, Bool.not_true, Bool.false_eq_true, or_self,
      if_false]
    rfl
  have hbeside := beside_jobNotice j 0 1 (modJob id.toNat (Job.withLists lists) s.core.unsent)
  refine ends_effect (.inl rfl) hp hdone hbeside.out (parts := [.host]) (regs := [Reg.GIO_STATUS_permit]) ?_ ?_ (by simp)
    fun t ht => ⟨⟨j.withLists lists, ?_, rfl, hst, by simp [lists, Job.withLists]⟩, ht.out, ht.parts, ht.regs⟩
  · exact only_trans (only_modJob (by simp) _ _ _) (only_jobNotice (by simp) _ _ _ _)
  · exact regsKept_regs (regsKept_refl _ _) (jobNotice_regs _ _ _ _)
  · have hjobs : t.core.host.jobs = (modJob id.toNat (Job.withLists lists) s.core.unsent).host.jobs := by
      rw [left_host ht, hbeside.jobs]
    rw [jobOf_congr hjobs, jobOf_modJob (withLists_id lists), hj']
    rfl

theorem ends_jobAdmit {s : State} {id : BitVec 32} {j : Job} {o : Origin} {bs : List (Nat × Nat)} (ha : s.core.obeys o 1)
    (hfree : s.core.free) (hj : s.core.jobOf id.toNat = some j) (hst : j.st = 0) (hwalked : j.walked = true)
    (hnone : s.core.admitted = none) (hbs : (s.core.taken o).admission j = .ok bs) : Ends (.jobAdmit o id) s fun t =>
      Replied o 0x21 0x01 (acceptedBody j bs) s.core t.core ∧
      (∃ k, t.core.jobOf id.toNat = some k ∧ k.st = 1 ∧ k.start = j.start ∧
        k.deadlines = j.ctxs.map fun x => (x.ctx, j.deadline x)) ∧
      t.core.dram = s.core.dram ∧ t.core.mot = s.core.mot ∧ t.core.kt = s.core.kt := by
  have h := arrived_taken o s.core
  have hj' := (jobOf_congr h.jobs id.toNat).trans hj
  have hnone' := (arrived_admitted h).trans hnone
  let ds := j.ctxs.map fun x => (x.ctx, j.deadline x)
  let c := modJob id.toNat (Job.admittedWith ds) (s.core.taken o)
  let d := jobNotice j 1 0 (sieveAdmitted (slmReserve ((s.core.taken o).slotNeeds j) c))
  have hadmit : jobAdmit id.toNat (s.core.taken o) = ((1, acceptedBody j bs), d) := by
    simp only [jobAdmit, hj', hst, ne_eq, not_true_eq_false, if_false, hnone', hwalked, Bool.not_true, Bool.false_eq_true,
      hbs]
    rfl
  have hbeside : Chip.beside c d :=
    beside_trans (beside_wrShadow _ _) (beside_trans (beside_sieveAdmitted _) (beside_jobNotice _ _ _ _))
  have hparts : Chip.only jobParts s.core d :=
    only_trans (only_mono h.parts (by simp)) (only_trans (only_modJob (by simp) _ _ _) hbeside.parts)
  refine ends_answered (d := d) (.inl rfl) (ready_free (info := ⟨2, 1, true⟩) rfl ha hfree rfl (by simp)) hadmit (by simp)
    (by simp) (hbeside.out.trans h.out) ((hbeside.id _).trans (arrived_id h _)) ((hbeside.key _).trans (arrived_key h _))
    fun t hreply htold => ?_
  have hall : Chip.only jobParts s.core t.core := only_trans hparts (only_mono htold.parts (by simp))
  refine ⟨hreply, ⟨j.admittedWith ds, ?_, rfl, rfl, rfl⟩, (hall .dram (by simp)).1, hall .mot (by simp), hall .kt (by simp)⟩
  rw [jobOf_congr (htold.jobs.trans hbeside.jobs), jobOf_modJob (admittedWith_id ds), hj']
  rfl

/-- Settles O22: loading, the pre-walk and the admission. -/
theorem jobsTaken : Obligations.JobsTaken :=
  ⟨jobLoads, fun _ _ _ => ⟨fun hp hon hj hst hwalked => ends_prewalkDone hp hon hj hst hwalked,
    fun _ _ ha hfree hj hst hwalked hnone hbs => ends_jobAdmit ha hfree hj hst hwalked hnone hbs⟩⟩

end Sys2Proof.Machine
end

section
/-! The event that meets an uncorrectable word of the event log (16_management_roles_crock.md, R467, R468). -/

namespace Sys2Proof.Machine

open Sys2Proof

/-- An event that the last-gasp file keeps. -/
def gaspEvent : Event := ⟨0x0A02, 0, [], 0, 0⟩

/-- PORST_n has risen, PD_AON alone is on, and the event waits for the Crock. -/
def gaspWaits : State :=
  { State.reset with
    core := modCrock (fun k => { k with queue := [gaspEvent] }) (modPwr (fun p => { p with porst := false }) State.reset.core) }

theorem guardedCrock_crockMem {c : Chip} (hp : c.sys.pwr.porst = false) (f : Chip → Chip) :
    (guardedCrock f c).crockMem = (f { c with out := [] }).crockMem := by
  simp only [guardedCrock, hp, Bool.false_eq_true, if_false]
  unfold permitFall
  split <;> rfl

/-- Refutes O30: the Crock copies LOGMEM_FAIL into the last-gasp file when it meets the word, and then the event itself, when
that is one of those that the file keeps (R468). In the state `gaspWaits` the newest last-gasp record is so of code 0x0A02,
while the clause of the uncorrectable word has it be LOGMEM_FAIL whatever event meets it. -/
theorem not_crockCommands : ¬ Obligations.CrockCommands := by
  intro h
  have hp : gaspWaits.core.sys.pwr.porst = false := rfl
  obtain ⟨-, -, -, hfail, -⟩ := h gaspWaits hp
  obtain ⟨t, ht, -, -, -, ⟨r, hr, hcode⟩, -⟩ := hfail gaspEvent [] 0 rfl rfl (by decide)
  have hmem : t.core.crockMem = (crockTake (some 0) false { gaspWaits.core with out := [] }).crockMem := by
    cases ht
    exact guardedCrock_crockMem hp _
  have hlast : t.core.crockMem.lastGasp.getLast? = some gaspEvent.fresh := by
    rw [hmem]
    decide +kernel
  cases hlast.symm.trans hr
  exact absurd hcode (by decide)

end Sys2Proof.Machine
end

section
/-! CH_ARM, CH_PARK and CH_CLEAR (03_serair_commands.md, R91; 04_furrows.md, R143–R148; 09_ladle_engines.md, R292). -/

namespace Sys2Proof.Machine

open Sys2Proof

/-! ### Changes of some channels -/

/-- `d` is `c` changed at most in the Furrows of the listed channels, the listed registers, the Bed Sluice, the events and the
sessions' notices, with nothing sent. -/
structure Chip.onChans (l : List Nat) (regs : List Fld) (c d : Chip) : Prop where
  out : d.out = c.out
  id : ∀ k, (d.session k).id = (c.session k).id
  key : ∀ k, (d.session k).key = (c.session k).key
  net : d.sys.net = c.sys.net
  parts : Chip.only [.host, .sys, .beam] c d
  regs : Chip.regsKept regs c d
  furs : ∀ k, k ∉ l → d.fur k = c.fur k

section
variable {l : List Nat} {regs : List Fld}

theorem onChans_refl (c : Chip) : Chip.onChans l regs c c :=
  ⟨rfl, fun _ => rfl, fun _ => rfl, rfl, only_refl _ c, regsKept_refl _ c, fun _ _ => rfl⟩

theorem onChans_trans {a b c : Chip} (h : Chip.onChans l regs a b) (k : Chip.onChans l regs b c) :
    Chip.onChans l regs a c where
  out := k.out.trans h.out
  id j := (k.id j).trans (h.id j)
  key j := (k.key j).trans (h.key j)
  net := k.net.trans h.net
  parts := only_trans h.parts k.parts
  regs := regsKept_trans h.regs k.regs
  furs j hj := (k.furs j hj).trans (h.furs j hj)

theorem onChans_wr {f : Fld} (hf : f ∈ regs) (v : Nat) (c : Chip) : Chip.onChans l regs c (wr f v c) :=
  ⟨rfl, fun _ => rfl, fun _ => rfl, rfl, only_wr _ f v c, regsKept_wr (regsKept_refl _ c) hf v, fun _ _ => rfl⟩

theorem onChans_log (hl : logRegs ⊆ regs) (code inst : Nat) (par : List Byte) (c : Chip) :
    Chip.onChans l regs c (log code inst par c) where
  out := logAt_out _ _ _ _ c
  id k := by rw [session_congr (log_host _ _ _ c)]
  key k := by rw [session_congr (log_host _ _ _ c)]
  net := log_net _ _ _ c
  parts := only_log (by simp) _ _ _ c
  regs := regsKept_log (regsKept_refl _ c) hl _ _ _
  furs k _ := congrArg (fun b : Beam => b.fur.getD k Furrow.init)
    (only_log (l := [.sys]) (by simp) code inst par c .beam (by simp))

theorem onChans_modSession {k : Nat} {f : Session → Session} (hid : ∀ x, (f x).id = x.id) (hkey : ∀ x, (f x).key = x.key)
    (c : Chip) : Chip.onChans l regs c (modSession k f c) where
  out := rfl
  id j := session_mod_field (p := Session.id) hid k j c
  key j := session_mod_field (p := Session.key) hkey k j c
  net := rfl
  parts := only_host (by simp) _ _
  regs := regsKept_regs (regsKept_refl _ c) rfl
  furs _ _ := rfl

theorem onChans_noticeAll (code status : Nat) (body : List Byte) (c : Chip) :
    Chip.onChans l regs c (noticeAll code status body c) :=
  noticeAll_keeps (p := Chip.onChans l regs c) (fun _ _ h => onChans_trans h (onChans_modSession
    (f := Session.notify code status body) (fun _ => rfl) (fun _ => rfl) _)) (onChans_refl c)

theorem onChans_forEach {α : Type} {f : α → Chip → Chip} (xs : List α)
    (hf : ∀ x ∈ xs, ∀ c, Chip.onChans l regs c (f x c)) (c : Chip) : Chip.onChans l regs c (forEach xs f c) :=
  forEach_keeps (p := Chip.onChans l regs c) xs (fun x hx d hd => onChans_trans hd (hf x hx d)) (onChans_refl c)

/-- A change of the Bed Sluice. -/
theorem onChans_modSlb (f : Slb → Slb) (c : Chip) : Chip.onChans l regs c (modSlb f c) :=
  ⟨rfl, fun _ => rfl, fun _ => rfl, rfl, only_beam (by simp) _ _, regsKept_regs (regsKept_refl _ c) rfl, fun _ _ => rfl⟩

section
variable {ch : Nat} (hch : ch ∈ l)
include hch

theorem onChans_modFur (f : Furrow → Furrow) (c : Chip) : Chip.onChans l regs c (modFur ch f c) :=
  ⟨rfl, fun _ => rfl, fun _ => rfl, rfl, only_beam (by simp) _ _, regsKept_regs (regsKept_refl _ c) rfl,
    fun k hk => modAt_getD_ne _ (fun h : k = ch => hk (h.symm ▸ hch)) _ _⟩

theorem onChans_furRequest (c : Chip) : Chip.onChans l regs c (furRequest ch c) := by
  unfold furRequest
  dsimp only
  split
  · exact onChans_refl c
  · split
    · exact onChans_refl c
    · split
      · exact onChans_trans (onChans_modSlb _ c) (onChans_modFur hch _ _)
      · exact onChans_refl c

end

theorem onChans_setChState {ch : Nat} (hr : Reg.FUR_STATE_state ch ∈ regs) (st : Nat) (c : Chip) :
    Chip.onChans l regs c (setChState ch st c) := by
  unfold setChState
  split
  · exact onChans_refl c
  · exact onChans_trans (onChans_wr hr st c) (onChans_noticeAll _ _ _ _)

section
variable {ch : Nat} (hch : ch ∈ l) (hl : logRegs ⊆ regs) (hr : Reg.FUR_STATE_state ch ∈ regs)
include hch hr

theorem onChans_park (c : Chip) : Chip.onChans l regs c (park ch c) :=
  onChans_trans (onChans_modFur hch _ c) (onChans_setChState hr 5 _)

include hl

theorem onChans_armNow (c : Chip) : Chip.onChans l regs c (armNow ch c) :=
  onChans_trans (onChans_modFur hch _ c) (onChans_trans (onChans_setChState hr 1 _)
    (onChans_trans (onChans_furRequest hch _) (onChans_log hl _ _ _ _)))

end

end

/-! ### A command's fold over its channels -/

/-- What each channel's turn brings about for that channel, and the others' turns keep, holds of all in the end; `inv`
holds throughout. -/
theorem forEach_all {l : List Nat} {f : Nat → Chip → Chip} {inv : Chip → Prop} {p : Nat → Chip → Prop}
    (hinv : ∀ x ∈ l, ∀ c, inv c → inv (f x c)) (hset : ∀ x ∈ l, ∀ c, inv c → p x (f x c))
    (hkeep : ∀ x ∈ l, ∀ y ∈ l, y ≠ x → ∀ c, inv c → p y c → p y (f x c)) {c : Chip} (hc : inv c) :
    ∀ y ∈ l, p y (forEach l f c) := by
  have hrest : ∀ (m : List Nat), (∀ x ∈ m, x ∈ l) → ∀ y ∈ l, ∀ c, inv c → (y ∈ m ∨ p y c) → p y (forEach m f c) := by
    intro m
    induction m with
    | nil => exact fun _ y _ c _ h => h.resolve_left List.not_mem_nil
    | cons x m ih =>
      intro hm y hy c hc h
      have hx := hm x List.mem_cons_self
      refine ih (fun z hz => hm z (List.mem_cons_of_mem _ hz)) y hy (f x c) (hinv x hx c hc) ?_
      by_cases hyx : y = x
      · exact .inr (hyx ▸ hset x hx c hc)
      · rcases h with h | h
        · exact .inl ((List.mem_cons.1 h).resolve_left hyx)
        · exact .inr (hkeep x hx y hy hyx c hc h)
  exact fun y hy => hrest l (fun _ h => h) y hy c hc (.inl hy)

theorem firstRefusal_none {f : Nat → Option Ans} {l : List Nat} (h : ∀ x ∈ l, f x = none) : firstRefusal f l = none := by
  induction l with
  | nil => rfl
  | cons x l ih =>
    simp only [firstRefusal, h x List.mem_cons_self]
    exact ih fun y hy => h y (List.mem_cons_of_mem _ hy)

theorem mem_chansOf_lt {mask : BitVec 32} {ch : Nat} (h : ch ∈ chansOf mask) : ch < 24 :=
  List.mem_range.1 (List.mem_filter.1 h).1

/-! ### States of channels -/

theorem setChState_state {ch st : Nat} (hst : st < 8) (c : Chip) : (setChState ch st c).chState ch = st := by
  unfold setChState
  split
  case isTrue h => exact h
  case isFalse h =>
    refine (rd_congr (noticeAll_regs _ _ _ _) _).trans ((rd_wr_same _ _ _).trans ?_)
    exact Nat.mod_eq_of_lt hst

theorem furRequest_regs (ch : Nat) (c : Chip) : (furRequest ch c).regs = c.regs := by
  unfold furRequest
  dsimp only
  split
  · rfl
  · split
    · rfl
    · split <;> rfl

theorem log_rd {g : Fld} (hg : ∀ f ∈ logRegs, g.key ≠ f.key) (code inst : Nat) (par : List Byte) (c : Chip) :
    (log code inst par c).rd g = c.rd g := regsKept_log (regsKept_refl logRegs c) (List.Subset.refl _) _ _ _ g hg

theorem chanReg_not_logged {g : Fld} (h : g.lo < 32 ∧ 0x100000 ≤ g.addr) : ∀ f ∈ logRegs, g.key ≠ f.key := by
  obtain ⟨hlo, ha⟩ := h
  simp only [logRegs, List.forall_mem_cons, Fld.key, Reg.CRK_DROPPED_count, Reg.CRK_STICKY_sat, Reg.SNP_MISSED_value]
  refine ⟨?_, ?_, ?_, by simp⟩ <;> omega

theorem furState_not_logged (ch : Nat) : ∀ f ∈ logRegs, (Reg.FUR_STATE_state ch).key ≠ f.key :=
  chanReg_not_logged (by simp only [Reg.FUR_STATE_state]; omega)

theorem armNow_state (ch : Nat) (c : Chip) : (armNow ch c).chState ch = 1 :=
  (log_rd (furState_not_logged ch) _ _ _ _).trans ((rd_congr (furRequest_regs _ _) _).trans
    (setChState_state (by decide) _))

theorem park_state (ch : Nat) (c : Chip) : (park ch c).chState ch = 5 := setChState_state (by decide) _

/-- The registers of one channel are not those of another. -/
theorem furState_key_ne {x y : Nat} (h : y ≠ x) : (Reg.FUR_STATE_state y).key ≠ (Reg.FUR_STATE_state x).key := by
  simp only [Fld.key, Reg.FUR_STATE_state]
  omega

/-- One channel's turn leaves another's state. -/
theorem chState_kept {x y : Nat} {c d : Chip}
    (h : Chip.onChans [x] (logRegs ++ [Reg.FUR_STATE_state x]) c d) (hxy : y ≠ x) : d.chState y = c.chState y :=
  h.regs _ fun f hf => by
    rcases List.mem_append.1 hf with hf | hf
    · exact furState_not_logged y f hf
    · rw [List.mem_singleton.1 hf]
      exact furState_key_ne hxy

/-- While no step is planned a channel is armed at once (R46). -/
theorem arm_now {ch : Nat} {c : Chip} (h : c.sys.net.servo.step = none) : arm ch c = armNow ch c := by
  simp only [arm, h]

theorem onChans_armNow_self (ch : Nat) (c : Chip) :
    Chip.onChans [ch] (logRegs ++ [Reg.FUR_STATE_state ch]) c (armNow ch c) :=
  onChans_armNow List.mem_cons_self (List.subset_append_left _ _) (List.mem_append_right _ List.mem_cons_self) c

/-! ### The park move (R145) -/

/-- The park position of a channel. -/
def Chip.parkPos (c : Chip) (ch : Nat) : Pt := (c.rdS (Reg.FUR_PARK_X_pos ch), c.rdS (Reg.FUR_PARK_Y_pos ch))

/-- What CH_PARK does to one channel. -/
def chPark (ch : Nat) (c : Chip) : Chip := chEvent ch (c.chState ch) 5 0x41 (park ch c)

theorem setChState_beam (ch st : Nat) (c : Chip) : (setChState ch st c).beam = c.beam := by
  unfold setChState
  split
  · rfl
  · exact only_noticeAll (l := [.host]) (by simp) _ _ _ (wr (Reg.FUR_STATE_state ch) st c) .beam (by simp)

theorem log_beam (code inst : Nat) (par : List Byte) (c : Chip) : (log code inst par c).beam = c.beam :=
  only_log (l := [.sys]) (by simp) code inst par c .beam (by simp)

/-- A Furrow that a move to `q` has been planned for. -/
theorem lastEnd_append (l : List Plan) (p : Plan) (cur : Pt) (ch : Option (Nat × Option (Int × Int))) (x : Furrow) :
    Furrow.lastEnd { x with plans := l ++ [p], pos := cur, chain := ch } = p.endPt := by
  simp [Furrow.lastEnd]

/-- CH_PARK changes of the Furrows the channel's own alone: its plans end at the park position, and its literals stay. -/
theorem chPark_beam (ch : Nat) (c : Chip) : ∃ f, (chPark ch c).beam = (modFur ch f c).beam ∧
    ∀ x, (f x).lastEnd = c.parkPos ch ∧ (f x).lits = x.lits :=
  ⟨_, (log_beam _ _ _ _).trans (setChState_beam _ _ _), fun x => ⟨lastEnd_append _ _ _ _ x, rfl⟩⟩

theorem fur_congr {c d : Chip} (h : d.beam = c.beam) (ch : Nat) : d.fur ch = c.fur ch := by rw [Chip.fur, h, Chip.fur]

theorem onChans_chPark {l : List Nat} {regs : List Fld} {ch : Nat} (hch : ch ∈ l) (hl : logRegs ⊆ regs)
    (hr : Reg.FUR_STATE_state ch ∈ regs) (c : Chip) : Chip.onChans l regs c (chPark ch c) :=
  onChans_trans (onChans_park hch hr c) (onChans_log hl _ _ _ _)

theorem onChans_chPark_self (ch : Nat) (c : Chip) :
    Chip.onChans [ch] (logRegs ++ [Reg.FUR_STATE_state ch]) c (chPark ch c) :=
  onChans_chPark List.mem_cons_self (List.subset_append_left _ _) (List.mem_append_right _ List.mem_cons_self) c

theorem chPark_state (ch : Nat) (c : Chip) : (chPark ch c).chState ch = 5 :=
  (log_rd (furState_not_logged ch) _ _ _ _).trans (park_state ch c)

theorem chPark_parkPos (ch k : Nat) (c : Chip) : (chPark ch c).parkPos k = c.parkPos k := by
  have hkeep (g : Fld) (hlo : g.lo = 0) (hg : ∃ m, g.addr = 0x100000 + k * 0x1000 + m ∧ 0 < m ∧ m < 0x1000) :
      (chPark ch c).rd g = c.rd g := by
    obtain ⟨m, hm, hpos, hlt⟩ := hg
    refine (onChans_chPark_self ch c).regs g fun f hf => ?_
    rcases List.mem_append.1 hf with hf | hf
    · exact chanReg_not_logged (by omega) f hf
    · rw [List.mem_singleton.1 hf]
      simp only [Fld.key, Reg.FUR_STATE_state]
      omega
  simp only [Chip.parkPos, Chip.rdS, hkeep (Reg.FUR_PARK_X_pos k) rfl ⟨0x38, by simp only [Reg.FUR_PARK_X_pos]; omega⟩,
    hkeep (Reg.FUR_PARK_Y_pos k) rfl ⟨0x3c, by simp only [Reg.FUR_PARK_Y_pos]; omega⟩]

/-- What CH_PARK keeps in every channel: the number of Furrows, the park positions and the literals. -/
structure Chip.unparked (c d : Chip) : Prop where
  furs : d.beam.fur.length = c.beam.fur.length
  pos : ∀ k, d.parkPos k = c.parkPos k
  lits : ∀ k, (d.fur k).lits = (c.fur k).lits

theorem unparked_chPark {c d : Chip} (h : Chip.unparked c d) (ch : Nat) : Chip.unparked c (chPark ch d) := by
  obtain ⟨f, hbeam, hf⟩ := chPark_beam ch d
  refine ⟨?_, fun k => (chPark_parkPos ch k d).trans (h.pos k), fun k => (?_ : _ = (d.fur k).lits).trans (h.lits k)⟩
  · rw [hbeam]
    exact (modAt_length _ _ _).trans h.furs
  · by_cases hk : k = ch
    · rw [fur_congr hbeam, hk]
      rcases Nat.lt_or_ge ch d.beam.fur.length with hlt | hge
      · exact (congrArg Furrow.lits (modAt_getD_same hlt f _)).trans (hf _).2
      · refine congrArg Furrow.lits ((modAt_getD_out hge f _).trans ?_)
        rw [Chip.fur, List.getD_eq_default _ _ hge]
    · rw [fur_congr hbeam]
      exact congrArg Furrow.lits (modAt_getD_ne _ hk f _)

/-- A parked channel's plans end at its park position. -/
theorem chPark_lastEnd {ch : Nat} {c : Chip} (h : ch < c.beam.fur.length) :
    ((chPark ch c).fur ch).lastEnd = c.parkPos ch := by
  obtain ⟨f, hbeam, hf⟩ := chPark_beam ch c
  rw [fur_congr hbeam]
  exact (congrArg Furrow.lastEnd (modAt_getD_same h f _)).trans (hf _).1

/-! ### The clearing of a channel (R145, R148, R292) -/

/-- The registers of a channel that CH_CLEAR writes. -/
def clearRegs (ch : Nat) : List Fld :=
  [Reg.FUR_STATE_state ch, Reg.FUR_FAULT_cause ch, Reg.FUR_STATE_quench_cause ch, Reg.LAD_FAULT_cause ch,
    Reg.LAD_FAULT_loop ch] ++ [0, 1, 2].flatMap fun k => [Reg.LAD_STATE_state ch k, Reg.LAD_STATE_stale ch k]

/-- The registers of a channel's loops that CH_CLEAR writes. -/
def loopRegs (ch : Nat) : List Fld :=
  [Reg.LAD_FAULT_cause ch, Reg.LAD_FAULT_loop ch] ++
    [0, 1, 2].flatMap fun k => [Reg.LAD_STATE_state ch k, Reg.LAD_STATE_stale ch k]

/-- A field of a channel's Furrow or of its Ladle engine. -/
abbrev Fld.ofChan (ch : Nat) (f : Fld) : Prop := f.lo < 32 ∧
  ((0x100000 + ch * 0x1000 ≤ f.addr ∧ f.addr < 0x101000 + ch * 0x1000) ∨
    (0x200000 + ch * 0x2000 ≤ f.addr ∧ f.addr < 0x202000 + ch * 0x2000))

theorem loopRegs_addr {ch : Nat} : ∀ f ∈ loopRegs ch, f.lo < 32 ∧ 0x200000 + ch * 0x2000 ≤ f.addr ∧
    f.addr < 0x202000 + ch * 0x2000 := by
  simp only [loopRegs, List.flatMap_cons, List.flatMap_nil, List.cons_append, List.nil_append, List.append_nil,
    List.forall_mem_cons, Reg.LAD_FAULT_cause, Reg.LAD_FAULT_loop, Reg.LAD_STATE_state, Reg.LAD_STATE_stale]
  refine ⟨?_, ?_, ?_, ?_, ?_, ?_, ?_, ?_, by simp⟩ <;> omega

theorem clearRegs_eq (ch : Nat) : clearRegs ch =
    [Reg.FUR_STATE_state ch, Reg.FUR_FAULT_cause ch, Reg.FUR_STATE_quench_cause ch] ++ loopRegs ch := rfl

theorem loopRegs_clear (ch : Nat) : loopRegs ch ⊆ clearRegs ch := by
  rw [clearRegs_eq]
  exact List.subset_append_right _ _

theorem clearRegs_ofChan {ch : Nat} : ∀ f ∈ clearRegs ch, Fld.ofChan ch f := by
  intro f hf
  rw [clearRegs_eq] at hf
  rcases List.mem_append.1 hf with hf | hf
  · simp only [List.mem_cons, List.not_mem_nil, or_false] at hf
    rcases hf with rfl | rfl | rfl <;>
      simp only [Fld.ofChan, Reg.FUR_STATE_state, Reg.FUR_FAULT_cause, Reg.FUR_STATE_quench_cause] <;> omega
  · exact ⟨(loopRegs_addr f hf).1, .inr (loopRegs_addr f hf).2⟩

theorem ofChan_key_ne {x y : Nat} (hx : x < 24) (hy : y < 24) (hxy : y ≠ x) {f g : Fld} (hf : Fld.ofChan x f)
    (hg : Fld.ofChan y g) : g.key ≠ f.key := by
  simp only [Fld.ofChan] at hf hg
  simp only [Fld.key]
  omega

theorem ladState_mem {ch k : Nat} (hk : k < 3) : Reg.LAD_STATE_state ch k ∈ loopRegs ch ∧
    Reg.LAD_STATE_stale ch k ∈ loopRegs ch := by
  have hmem : k ∈ [0, 1, 2] := by simp only [List.mem_cons]; omega
  exact ⟨List.mem_append_right _ (List.mem_flatMap_of_mem hmem List.mem_cons_self),
    List.mem_append_right _ (List.mem_flatMap_of_mem hmem (List.mem_cons_of_mem _ List.mem_cons_self))⟩

theorem onChans_ladOff {l : List Nat} {regs : List Fld} {ch : Nat} (hr : loopRegs ch ⊆ regs) (c : Chip) :
    Chip.onChans l regs c (ladOff ch c) := by
  have hloop : Reg.LAD_FAULT_loop ch ∈ regs := hr (List.mem_cons_of_mem _ List.mem_cons_self)
  refine onChans_trans (onChans_trans (onChans_wr hloop 0 c) (onChans_wr (hr List.mem_cons_self) 0 _))
    (onChans_forEach _ (fun k hk d => ?_) _)
  obtain ⟨hstate, hstale⟩ := ladState_mem (ch := ch) (List.mem_range.1 hk)
  exact onChans_trans (onChans_wr (hr hstate) 0 d) (onChans_wr (hr hstale) 0 _)

theorem onChans_chClear {l : List Nat} {regs : List Fld} {ch : Nat} (hch : ch ∈ l) (hl : logRegs ⊆ regs)
    (hr : clearRegs ch ⊆ regs) (c : Chip) : Chip.onChans l regs c (chClear ch c) := by
  have hfault : Reg.FUR_FAULT_cause ch ∈ regs := hr (List.mem_cons_of_mem _ List.mem_cons_self)
  have hquench : Reg.FUR_STATE_quench_cause ch ∈ regs :=
    hr (List.mem_cons_of_mem _ (List.mem_cons_of_mem _ List.mem_cons_self))
  exact onChans_trans (onChans_wr hfault 0 c) (onChans_trans (onChans_wr hquench 0 _)
    (onChans_trans (onChans_ladOff (List.Subset.trans (loopRegs_clear ch) hr) _)
      (onChans_trans (onChans_park hch (hr List.mem_cons_self) _) (onChans_log hl _ _ _ _))))

/-- One channel's clearing leaves what another's has written. -/
theorem chClear_rd_ne {x y : Nat} (hx : x < 24) (hy : y < 24) (hxy : y ≠ x) {g : Fld} (hg : g ∈ clearRegs y) (c : Chip) :
    (chClear x c).rd g = c.rd g := by
  have hplace := clearRegs_ofChan g hg
  refine (onChans_chClear (l := [x]) (regs := logRegs ++ clearRegs x) List.mem_cons_self (List.subset_append_left _ _)
    (List.subset_append_right _ _) c).regs g fun f hf => ?_
  rcases List.mem_append.1 hf with hf | hf
  · refine chanReg_not_logged ?_ f hf
    simp only [Fld.ofChan] at hplace
    omega
  · exact ofChan_key_ne hx hy hxy (clearRegs_ofChan f hf) hplace

/-- The loops are OFF. -/
theorem ladOff_state {ch k : Nat} (hk : k < 3) (c : Chip) : (ladOff ch c).rd (Reg.LAD_STATE_state ch k) = 0 := by
  refine forEach_all (l := List.range 3) (inv := fun _ => True) (p := fun k d => d.rd (Reg.LAD_STATE_state ch k) = 0)
    (fun _ _ _ _ => trivial) (fun x _ d _ => ?_) (fun x _ y _ hyx d _ hd => ?_) trivial k (List.mem_range.2 hk)
  · rw [rd_wr_ne (by simp only [Fld.key, Reg.LAD_STATE_state, Reg.LAD_STATE_stale]; omega), rd_wr_same, Nat.zero_mod]
  · rwa [rd_wr_ne (by simp only [Fld.key, Reg.LAD_STATE_state, Reg.LAD_STATE_stale]; omega),
      rd_wr_ne (by simp only [Fld.key, Reg.LAD_STATE_state]; omega)]

/-- The registers of a channel but its state stay when it parks and the event of it is logged. -/
theorem parked_rd {ch old : Nat} {g : Fld} (hg : g.lo < 32 ∧ 0x100000 ≤ g.addr)
    (hne : g.key ≠ (Reg.FUR_STATE_state ch).key) (c : Chip) : (chEvent ch old 5 0x42 (park ch c)).rd g = c.rd g :=
  (log_rd (chanReg_not_logged hg) _ _ _ _).trans ((onChans_park (l := [ch]) (regs := [Reg.FUR_STATE_state ch])
    List.mem_cons_self List.mem_cons_self c).regs g fun f hf => by rwa [List.mem_singleton.1 hf])

theorem ladOff_furRd {ch : Nat} {g : Fld} (hg : g.lo < 32 ∧ g.addr < 0x200000) (c : Chip) :
    (ladOff ch c).rd g = c.rd g :=
  (onChans_ladOff (l := []) (List.Subset.refl _) c).regs g fun f hf => by
    have hf := loopRegs_addr f hf
    simp only [Fld.key]
    omega

/-- A cleared channel: it parks, without cause or fault, and its loops are OFF. -/
structure Chip.cleared (ch : Nat) (c : Chip) : Prop where
  state : c.chState ch = 5
  fault : c.rd (Reg.FUR_FAULT_cause ch) = 0
  quench : c.rd (Reg.FUR_STATE_quench_cause ch) = 0
  loops : ∀ k < 3, c.rd (Reg.LAD_STATE_state ch k) = 0

theorem cleared_chClear {ch : Nat} (hch : ch < 24) (c : Chip) : Chip.cleared ch (chClear ch c) where
  state := (log_rd (furState_not_logged ch) _ _ _ _).trans (park_state ch _)
  fault := by
    refine (parked_rd (g := Reg.FUR_FAULT_cause ch) ?_ ?_ _).trans
      ((ladOff_furRd (g := Reg.FUR_FAULT_cause ch) ?_ _).trans ?_)
    · simp only [Reg.FUR_FAULT_cause]
      omega
    · simp only [Fld.key, Reg.FUR_FAULT_cause, Reg.FUR_STATE_state]
      omega
    · simp only [Reg.FUR_FAULT_cause]
      omega
    · rw [rd_wr_ne (by simp only [Fld.key, Reg.FUR_FAULT_cause, Reg.FUR_STATE_quench_cause]; omega), rd_wr_same,
        Nat.zero_mod]
  quench := by
    refine (parked_rd (g := Reg.FUR_STATE_quench_cause ch) ?_ ?_ _).trans
      ((ladOff_furRd (g := Reg.FUR_STATE_quench_cause ch) ?_ _).trans ?_)
    · simp only [Reg.FUR_STATE_quench_cause]
      omega
    · simp only [Fld.key, Reg.FUR_STATE_quench_cause, Reg.FUR_STATE_state]
      omega
    · simp only [Reg.FUR_STATE_quench_cause]
      omega
    · rw [rd_wr_same, Nat.zero_mod]
  loops k hk := by
    refine (parked_rd (g := Reg.LAD_STATE_state ch k) ?_ ?_ _).trans (ladOff_state hk _)
    · simp only [Reg.LAD_STATE_state]
      omega
    · simp only [Fld.key, Reg.LAD_STATE_state, Reg.FUR_STATE_state]
      omega

/-- What keeps the registers that a clearing writes keeps the channel cleared. -/
theorem cleared_keep {ch : Nat} {c d : Chip} (h : Chip.cleared ch c) (hd : ∀ g ∈ clearRegs ch, d.rd g = c.rd g) :
    Chip.cleared ch d where
  state := (hd _ List.mem_cons_self).trans h.state
  fault := (hd _ (List.mem_cons_of_mem _ List.mem_cons_self)).trans h.fault
  quench := (hd _ (List.mem_cons_of_mem _ (List.mem_cons_of_mem _ List.mem_cons_self))).trans h.quench
  loops k hk := (hd _ (loopRegs_clear ch (ladState_mem hk).1)).trans (h.loops k hk)

/-! ### The commands -/

theorem endsIn_onChans {o : Origin} {l : List Nat} {r : List Fld} {c d e : Chip}
    (h : Chip.Arrived o c d) (k : Chip.onChans l (logRegs ++ r) d e) :
    Chip.EndsIn o [.host, .sys, .beam] (replyRegs o ++ logRegs ++ r) c e where
  out := k.out.trans h.out
  id := (k.id _).trans (arrived_id h _)
  key := (k.key _).trans (arrived_key h _)
  parts := only_trans (only_mono h.parts (by simp)) k.parts
  regs := by
    rw [List.append_assoc]
    exact regsKept_trans (regsKept_mono (arrived_regsKept h) (List.subset_append_left _ _))
      (regsKept_mono k.regs (List.subset_append_right _ _))

section
variable {o : Origin} {c d e : Chip}

theorem arrived_fur (h : Chip.Arrived o c d) (ch : Nat) : d.fur ch = c.fur ch := by
  have hbeam : d.beam = c.beam := h.parts .beam (by simp)
  rw [Chip.fur, hbeam, Chip.fur]

theorem arrived_chState (h : Chip.Arrived o c d) (ch : Nat) : d.chState ch = c.chState ch :=
  arrived_above h (by simp only [Fld.above, Reg.FUR_STATE_state]; omega)

theorem arrived_quenchPin (h : Chip.Arrived o c d) : d.quenchPin = c.quenchPin := by
  rw [Chip.quenchPin, Chip.flag, Chip.flag, arrived_above h (by decide), arrived_above h (by decide), Chip.quenchPin,
    Chip.flag, Chip.flag]

theorem told_fur (h : Chip.Told o d e) (ch : Nat) : e.fur ch = d.fur ch := by
  have hbeam : e.beam = d.beam := h.parts .beam (by simp)
  rw [Chip.fur, hbeam, Chip.fur]

theorem told_chState (h : Chip.Told o d e) (ch : Nat) : e.chState ch = d.chState ch :=
  told_rd h (by simp only [Fld.untold, Reg.FUR_STATE_state]; omega)

end

section
variable {s : State} {o : Origin} {mask : BitVec 32} (ha : s.core.obeys o 1) (hfree : s.core.free)
  (hmask : mask.toNat < 2 ^ 24) (hon : ∀ ch ∈ chansOf mask, s.core.on (chanDom ch) = true)
include ha hfree hmask hon

/-- A command on the channels of a mask that refuses none of them. -/
theorem ends_chans {i cmd : Instr} {op : Nat} {f : Nat → Chip → Chip} {refuses : Chip → Nat → Option Ans} {r : List Fld}
    {Q : State → Prop}
    (he : Instr.does i (serve o op 1 cmd (maskForm mask) (maskDoms mask) (now fun c =>
      match firstRefusal (refuses c) (chansOf mask) with
      | some a => (a, c)
      | none => (done [], forEach (chansOf mask) f c))) s)
    (hi : opInfo op = opM 1) (hok : ∀ c, Chip.Arrived o s.core c → ∀ ch ∈ chansOf mask, refuses c ch = none)
    (hf : ∀ c, Chip.Arrived o s.core c → Chip.onChans (chansOf mask) (logRegs ++ r) c (forEach (chansOf mask) f c))
    (hQ : ∀ c, Chip.Arrived o s.core c → ∀ t : State, Chip.Told o (forEach (chansOf mask) f c) t.core → Q t) :
    Ends i s fun t => Replied o op 0 [] s.core t.core ∧ Q t ∧ Chip.only [.host, .sys, .beam] s.core t.core ∧
      Chip.regsKept (replyRegs o ++ logRegs ++ r) s.core t.core ∧
      ∀ ch, ch ∉ chansOf mask → t.core.fur ch = s.core.fur ch := by
  have h := arrived_finds true o s.core
  refine ends_served (a := done []) he (ready_free (info := ⟨2, 1, true⟩) hi ha hfree (if_pos hmask)
    (by simpa [maskDoms] using hon)) (by simp only [firstRefusal_none (hok _ h)]) (by decide) (by decide)
    (endsIn_onChans h (hf _ h)) (by simp) (List.Subset.trans (List.subset_append_left _ _) (List.subset_append_left _ _))
    fun t ht => ⟨ht.reply, hQ _ h t ht.told, ht.parts, ht.regs, fun ch hch => ?_⟩
  rw [told_fur ht.told, (hf _ h).furs ch hch, arrived_fur h]

theorem ends_chArm (hpin : s.core.quenchPin = false)
    (hl : ∀ ch ∈ chansOf mask, (s.core.chState ch = 0 ∨ s.core.chState ch = 5) ∧ (s.core.fur ch).frozen = false ∧
      s.core.flag (Reg.GLK_STATUS_up (2 * ch + 1)) = true) (hstep : s.core.sys.net.servo.step = none) :
    Ends (.chArm o mask) s fun t => Replied o 0x40 0 [] s.core t.core ∧ (∀ ch ∈ chansOf mask, t.core.chState ch = 1) ∧
      Chip.only [.host, .sys, .beam] s.core t.core ∧
      Chip.regsKept (replyRegs o ++ logRegs ++ (chansOf mask).map Reg.FUR_STATE_state) s.core t.core ∧
      ∀ ch, ch ∉ chansOf mask → t.core.fur ch = s.core.fur ch := by
  refine ends_chans (f := arm) ha hfree hmask hon (.inl rfl) rfl (fun c h ch hch => ?_) (fun c h => ?_) fun c h t ht => ?_
  · obtain ⟨hst, hfrozen, hup⟩ := hl ch hch
    have hup' := (arrived_above h (g := Reg.GLK_STATUS_up (2 * ch + 1))
      (by simp only [Fld.above, Reg.GLK_STATUS_up]; omega))
    have hlink : c.flag (Reg.GLK_STATUS_up (2 * ch + 1)) = true := by rw [Chip.flag, hup']; exact hup
    have hidle : ¬ (s.core.chState ch ≠ 0 ∧ s.core.chState ch ≠ 5) := by omega
    simp only [Chip.armRefusal, arrived_fur h, hfrozen, arrived_chState h, arrived_quenchPin h, hpin, hlink, hidle,
      Bool.not_true, Bool.false_eq_true, or_self, if_false]
  · refine (forEach_keeps (p := fun d => Chip.onChans (chansOf mask) _ c d ∧ d.sys.net.servo.step = none) _
      (fun ch hch d hd => ?_) ⟨onChans_refl c, by rw [arrived_sys h]; exact hstep⟩).1
    have harm := onChans_armNow hch (List.subset_append_left logRegs _)
      (List.mem_append_right logRegs (List.mem_map_of_mem (f := Reg.FUR_STATE_state) hch)) d
    rw [arm_now hd.2]
    exact ⟨onChans_trans hd.1 harm, by rw [harm.net]; exact hd.2⟩
  · intro ch hch
    rw [told_chState ht]
    refine forEach_all (p := fun ch d => d.chState ch = 1) (inv := fun d => d.sys.net.servo.step = none)
      (fun x _ d hd => ?_) (fun x _ d hd => ?_) (fun x _ y _ hyx d hd hy => ?_) (by rw [arrived_sys h]; exact hstep) ch hch
    · rw [arm_now hd, (onChans_armNow_self x d).net]
      exact hd
    · rw [arm_now hd]
      exact armNow_state x d
    · rw [arm_now hd, chState_kept (onChans_armNow_self x d) hyx]
      exact hy

theorem ends_chPark (hl : ∀ ch ∈ chansOf mask, s.core.chState ch = 0) :
    Ends (.chPark o mask) s fun t => Replied o 0x41 0 [] s.core t.core ∧ (∀ ch ∈ chansOf mask, t.core.chState ch = 5 ∧
        ((s.core.beam.fur[ch]?).isSome = true → (t.core.fur ch).lastEnd = s.core.parkPos ch ∧
          (t.core.fur ch).lits = (s.core.fur ch).lits)) ∧
      Chip.only [.host, .sys, .beam] s.core t.core ∧
      Chip.regsKept (replyRegs o ++ logRegs ++ (chansOf mask).map Reg.FUR_STATE_state) s.core t.core ∧
      ∀ ch, ch ∉ chansOf mask → t.core.fur ch = s.core.fur ch := by
  refine ends_chans (f := chPark) (refuses := Chip.parkRefusal) ha hfree hmask hon (.inl rfl) rfl (fun c h ch hch => ?_)
    (fun c h => ?_) fun c h t ht ch hch => ?_
  · simp only [Chip.parkRefusal, arrived_chState h, hl ch hch, true_or, if_true]
  · exact onChans_forEach _ (fun ch hch d => onChans_chPark hch (List.subset_append_left logRegs _)
      (List.mem_append_right logRegs (List.mem_map_of_mem (f := Reg.FUR_STATE_state) hch)) d) c
  · rw [told_chState ht, told_fur ht]
    have hbeam : c.beam = s.core.beam := h.parts .beam (by simp)
    have hpos (k : Nat) : c.parkPos k = s.core.parkPos k := by
      simp only [Chip.parkPos, Chip.rdS, arrived_above h (g := Reg.FUR_PARK_X_pos k)
        (by simp only [Fld.above, Reg.FUR_PARK_X_pos]; omega), arrived_above h (g := Reg.FUR_PARK_Y_pos k)
        (by simp only [Fld.above, Reg.FUR_PARK_Y_pos]; omega)]
    have hinit : Chip.unparked s.core c := ⟨by rw [hbeam], hpos, fun k => by rw [arrived_fur h]⟩
    refine ⟨?_, fun hsome => ⟨?_, ?_⟩⟩
    · exact forEach_all (p := fun ch d => d.chState ch = 5) (inv := fun _ => True) (fun _ _ _ _ => trivial)
        (fun x _ d _ => chPark_state x d)
        (fun x _ y _ hyx d _ hd => (chState_kept (onChans_chPark_self x d) hyx).trans hd) trivial ch hch
    · have hlt : ch < s.core.beam.fur.length := by simpa using hsome
      refine forEach_all (p := fun ch d => ch < s.core.beam.fur.length → (d.fur ch).lastEnd = s.core.parkPos ch)
        (inv := Chip.unparked s.core) (fun x _ d hd => unparked_chPark hd x) (fun x _ d hd hx => ?_)
        (fun x _ y _ hyx d _ hd hy => ?_) hinit ch hch hlt
      · exact (chPark_lastEnd (hd.furs.symm ▸ hx)).trans (hd.pos x)
      · rw [(onChans_chPark_self x d).furs y (by simpa using hyx)]
        exact hd hy
    · exact (forEach_keeps (p := Chip.unparked s.core) _ (fun x _ d hd => unparked_chPark hd x) hinit).lits ch

theorem ends_chClear (hpin : s.core.quenchPin = false) (h0 : s.core.dramState 0 ≠ 4) (h1 : s.core.dramState 1 ≠ 4)
    (hl : ∀ ch ∈ chansOf mask, 6 ≤ s.core.chState ch ∧ (s.core.fur ch).frozen = false) :
    Ends (.chClear o mask) s fun t => Replied o 0x42 0 [] s.core t.core ∧
      (∀ ch ∈ chansOf mask, Chip.cleared ch t.core) ∧ Chip.only [.host, .sys, .beam] s.core t.core ∧
      Chip.regsKept (replyRegs o ++ logRegs ++ (chansOf mask).flatMap clearRegs) s.core t.core ∧
      ∀ ch, ch ∉ chansOf mask → t.core.fur ch = s.core.fur ch := by
  refine ends_chans (f := chClear) ha hfree hmask hon (.inl rfl) rfl (fun c h ch hch => ?_) (fun c h => ?_)
    fun c h t ht ch hch => ?_
  · obtain ⟨hst, hfrozen⟩ := hl ch hch
    simp only [Chip.clearRefusal, arrived_chState h, arrived_fur h, hfrozen, arrived_quenchPin h, hpin,
      arrived_dramState h 0 (by decide), arrived_dramState h 1 (by decide), h0, h1, Nat.not_lt.2 hst, decide_false,
      Bool.or_self, Bool.and_false, Bool.false_eq_true, or_self, if_false]
  · exact onChans_forEach _ (fun ch hch d => onChans_chClear hch (List.subset_append_left logRegs _)
      (fun f hf => List.mem_append_right logRegs (List.mem_flatMap_of_mem hch hf)) d) c
  · have hall : Chip.cleared ch (forEach (chansOf mask) chClear c) :=
      forEach_all (p := Chip.cleared) (inv := fun _ => True) (fun _ _ _ _ => trivial)
        (fun x hx d _ => cleared_chClear (mem_chansOf_lt hx) d)
        (fun x hx y hy hyx d _ hd => cleared_keep hd fun g hg =>
          chClear_rd_ne (mem_chansOf_lt hx) (mem_chansOf_lt hy) hyx hg d) trivial ch hch
    refine cleared_keep hall fun g hg => told_rd ht ?_
    have hplace := clearRegs_ofChan g hg
    have hlt := mem_chansOf_lt hch
    simp only [Fld.ofChan] at hplace
    simp only [Fld.untold]
    omega

end

/-- Settles O26: each command acts on every channel of its mask in turn, and no channel's turn undoes another's. -/
theorem channelCommands : Obligations.ChannelCommands := fun _ _ _ ha hfree hmask hon =>
  ⟨fun hpin hl hstep => ends_chArm ha hfree hmask hon hpin hl hstep, fun hl => ends_chPark ha hfree hmask hon hl,
    fun hpin h0 h1 hl => by
      obtain ⟨t, hex, hreply, hall, hparts, hregs, hfurs⟩ := ends_chClear ha hfree hmask hon hpin h0 h1 hl
      exact ⟨t, hex, hreply, fun ch hch => ⟨(hall ch hch).state, (hall ch hch).fault, (hall ch hch).quench,
        (hall ch hch).loops⟩, hparts, hregs, hfurs⟩⟩

end Sys2Proof.Machine
end

section
/-! Packets from the line (03_serair_commands.md, R66–R70, R82, R83). -/

namespace Sys2Proof.Machine

open Sys2Proof

/-! ### A frame accepted by its port -/

/-- A field of a register that a frame received does not change: outside the network ports. -/
abbrev Fld.offPort (g : Fld) : Prop := g.lo < 32 ∧ (g.addr < 0xA0000 ∨ 0xB0000 ≤ g.addr)

section
variable (p : Path)

theorem rxFrame_unsent (c : Chip) : rxFrame p c.unsent = (rxFrame p c).unsent := by
  unfold rxFrame inc
  rw [unsent_rd]
  split <;> rfl

variable {c : Chip}

theorem rxFrame_rd {g : Fld} (hg : Fld.offPort g) : (rxFrame p c).rd g = c.rd g := by
  refine regsKept_inc (l := [Reg.NET_RX_FRAMES_count p.code, Reg.NET_STICKY_sat p.code]) (regsKept_refl _ c) (by simp)
    (by simp) 0 g ?_
  have hp : p.code ≤ 1 := by cases p <;> decide
  obtain ⟨hlo, ha⟩ := hg
  simp only [List.forall_mem_cons, Fld.key, Reg.NET_RX_FRAMES_count, Reg.NET_STICKY_sat]
  refine ⟨?_, ?_, by simp⟩ <;> omega

theorem rxFrame_session (k : Nat) : (rxFrame p c).session k = c.session k := session_congr (inc_host _ _ _ c) k

theorem rxFrame_on (k : Nat) : (rxFrame p c).on k = c.on k := by
  have hsys : (rxFrame p c).sys = c.sys := inc_sys _ _ _ c
  simp only [Chip.on, Chip.shown, Chip.heldReset, rxFrame_rd p (g := Reg.TOP_DOMAIN_ON_on) (by decide), hsys]

theorem rxFrame_slotOf (sid : Nat) : (rxFrame p c).slotOf sid = c.slotOf sid := by
  have hstate (k : Fin 8) : (rxFrame p c).rd (Reg.SEC_SLOT_STATE_state k.val) = c.rd (Reg.SEC_SLOT_STATE_state k.val) :=
    rxFrame_rd p (by simp only [Fld.offPort, Reg.SEC_SLOT_STATE_state]; omega)
  simp only [Chip.slotOf, hstate, rxFrame_session]

theorem rxFrame_obeys {o : Origin} {role : Nat} (h : c.obeys o role) : (rxFrame p c).obeys o role := by
  obtain ⟨⟨⟨hporst, hg⟩, hopen, hrole⟩, hpath, hclaim⟩ := h
  have hslot := o.slot.isLt
  have hclaims (q : Path) : (rxFrame p c).claimOf q = c.claimOf q := by cases q <;> exact rxFrame_rd p (by decide)
  refine ⟨⟨⟨?_, ?_⟩, ?_, ?_⟩, ?_, ?_⟩
  · rw [show (rxFrame p c).sys = c.sys from inc_sys _ _ _ c]
    exact hporst
  · rwa [Chip.hgOn, rxFrame_on, rxFrame_on]
  · rwa [Chip.sessionOpen, rxFrame_rd p (by simp only [Fld.offPort, Reg.SEC_SLOT_STATE_state]; omega)]
  · rwa [rxFrame_rd p (by simp only [Fld.offPort, Reg.SEC_SLOT_STATE_role]; omega)]
  · rwa [Chip.ctlPath, Chip.flag, rxFrame_rd p (by decide)]
  · rwa [hclaims]

end

theorem untold_offPort {g : Fld} (hg : Fld.untold g) : Fld.offPort g := by
  obtain ⟨hlo, ha⟩ := hg
  exact ⟨hlo, by omega⟩

/-- A form is judged by the parameters and, of the device, by the domain and the state of the axis that is named (R327). -/
theorem rowForm_congr {c d : Chip} (hon : d.on pdMOTION = c.on pdMOTION)
    (hrd : ∀ g, Fld.untold g → d.rd g = c.rd g) (cmd : Instr) : rowForm d cmd = rowForm c cmd := by
  cases cmd
  case axMove o axis x v a =>
    show moveForm axis.toNat _ d = moveForm axis.toNat _ c
    unfold moveForm
    split
    · rfl
    · have henable := hrd (Reg.AX_CTL_enable axis.toNat) (by simp only [Fld.untold, Reg.AX_CTL_enable]; omega)
      have hstate := hrd (Reg.AX_STATUS_state axis.toNat) (by simp only [Fld.untold, Reg.AX_STATUS_state]; omega)
      rw [hon, Chip.flag, henable, Chip.axState, hstate, Chip.flag, Chip.axState]
  all_goals rfl

/-! ### Packets that no rule lets pass (R70) -/

/-- The packet has the form of R68: a header of 24 bytes with magic and version, at most 1,400 bytes of parameters, and a
tag. -/
structure WholePacket (bytes : List Byte) : Prop where
  header : 24 ≤ bytes.length
  magic : beAt bytes 0 2 = 0x5856
  version : beAt bytes 2 1 = 1
  par : beAt bytes 16 2 ≤ 1400
  tag : 40 + beAt bytes 16 2 ≤ bytes.length

/-- The origin that a packet of a session names. -/
def packetOrigin (k : Fin 8) (p : Path) (src : Src) (bytes : List Byte) : Origin :=
  ⟨k, BitVec.ofNat 32 (beAt bytes 10 4), p, BitVec.ofNat 16 (beAt bytes 4 2), src⟩

section
variable {p : Path} {src : Src} {dst : Dst} {bytes : List Byte}

theorem packet_malformed (h : bytes.length < 24 ∨ beAt bytes 0 2 ≠ 0x5856 ∨ beAt bytes 2 1 ≠ 1 ∨ beAt bytes 16 2 > 1400 ∨
    bytes.length < 40 + beAt bytes 16 2) (c : Chip) : packet p src bytes c = packetDrop p 0 c := by
  unfold packet
  exact if_pos h

section
variable (h : WholePacket bytes) (h1 : beAt bytes 14 2 ≠ 1) (h2 : beAt bytes 14 2 ≠ 2)
include h h1 h2

/-- A whole packet whose opcode asks for a session that is not known. -/
theorem packet_stranger {c : Chip} (hslot : c.slotOf (beAt bytes 6 4) = none) :
    packet p src bytes c = packetDrop p 1 c := by
  obtain ⟨hheader, hmagic, hversion, hpar, htag⟩ := h
  unfold packet
  rw [if_neg (by omega), if_neg (by omega), hslot]

/-- A whole packet of a known session: that session's key verifies the tag (R70, R73). -/
theorem packet_session {c : Chip} {k : Fin 8} (hslot : c.slotOf (beAt bytes 6 4) = some k) :
    packet p src bytes c = if !tagOk (c.session k.val).key bytes then
      tagDrop p (beAt bytes 6 4) (beAt bytes 14 2) c
    else sessionRequest (packetOrigin k p src bytes) (beAt bytes 14 2) (beAt bytes 3 1)
      (slice bytes 24 (beAt bytes 16 2)) c := by
  obtain ⟨hheader, hmagic, hversion, hpar, htag⟩ := h
  unfold packet
  rw [if_neg (by omega), if_neg (by omega), hslot]
  rfl

end

theorem packetIn_taken {c : Chip} (hg : c.hgOn = true) (hport : c.portOn p = true) (ht : c.takesSerair p src dst = true) :
    packetIn p src dst bytes c = packet p src bytes (rxFrame p c) := by
  simp only [packetIn, hg, hport, ht, Bool.not_true, Bool.or_self, Bool.false_eq_true, if_false, if_true]

/-- A counter of dropped packets: neither a port's frames, nor BEAM_PERMIT, nor what an event changes. -/
abbrev Fld.countsDrops (p : Path) (f : Fld) : Prop :=
  Fld.offPort f ∧ f.key ≠ (Reg.HG_P_STICKY_sat p.code).key ∧ ∀ g ∈ eventRegs, f.key ≠ g.key

theorem sticky_drops (p : Path) : Fld.offPort (Reg.HG_P_STICKY_sat p.code) ∧
    ∀ g ∈ eventRegs, (Reg.HG_P_STICKY_sat p.code).key ≠ g.key := by cases p <;> decide

section
variable {s : State} (hh : s.core.hears) (hport : s.core.portOn p = true) (ht : s.core.takesSerair p src dst = true)
include hh hport ht

theorem taken_unsent : packetIn p src dst bytes s.core.unsent = packet p src bytes (rxFrame p s.core.unsent) :=
  packetIn_taken (c := s.core.unsent) hh.2 hport ht

/-- A packet that is dropped: it is counted, and what else its drop does is at most an event. -/
theorem ends_dropped {f : Fld} {k : Nat} {l : List Part} {d : Chip} (hf : Fld.countsDrops p f) (hk : k < 6)
    (hdrop : packet p src bytes (rxFrame p s.core.unsent) = d) (hout : d.out = [])
    (hparts : Chip.only l (inc f (Reg.HG_P_STICKY_sat p.code) k (rxFrame p s.core.unsent)) d)
    (hregs : Chip.regsKept logRegs (inc f (Reg.HG_P_STICKY_sat p.code) k (rxFrame p s.core.unsent)) d) :
    Ends (.packetReceived p src dst bytes) s fun t => t.core.out = [] ∧
      Chip.counted f (Reg.HG_P_STICKY_sat p.code) k s.core t.core ∧ Chip.only l s.core t.core := by
  obtain ⟨hoff, hsticky, hevent⟩ := hf
  obtain ⟨-, hstickyEvent⟩ := sticky_drops p
  let counter := [Reg.NET_RX_FRAMES_count p.code, Reg.NET_STICKY_sat p.code, f, Reg.HG_P_STICKY_sat p.code]
  refine ends_effect (f := packetIn p src dst bytes) (regs := counter ++ eventRegs) (.inl rfl) hh.1
    ((taken_unsent hh hport ht).trans hdrop) hout (only_trans (only_inc l _ _ _ _) (only_trans (only_inc l _ _ _ _) hparts))
    ?_ (List.mem_append_right _ List.mem_cons_self) fun t hleft => ⟨hleft.out, ?_, hleft.parts⟩
  · have hcount : Chip.regsKept (counter ++ eventRegs) s.core.unsent
        (inc f (Reg.HG_P_STICKY_sat p.code) k (rxFrame p s.core.unsent)) :=
      regsKept_inc (regsKept_inc (regsKept_refl _ _) (by simp [counter]) (by simp [counter]) 0) (by simp [counter])
        (by simp [counter]) k
    exact regsKept_trans hcount (regsKept_mono hregs (List.Subset.trans (List.subset_cons_self _ _)
      (List.subset_append_right _ _)))
  · have hkept (g : Fld) (hg : ∀ x ∈ eventRegs, g.key ≠ x.key) : t.core.rd g =
        (inc f (Reg.HG_P_STICKY_sat p.code) k (rxFrame p s.core.unsent)).rd g :=
      (left_rd hleft (hg _ List.mem_cons_self)).trans (hregs g fun x hx => hg x (List.mem_cons_of_mem _ hx))
    exact counted_congr (counted_inc hsticky hk (rxFrame p s.core.unsent)) (rxFrame_rd p hoff) (hkept f hevent)
      (hkept _ hstickyEvent)

theorem ends_badPacket (h : bytes.length < 24 ∨ beAt bytes 0 2 ≠ 0x5856 ∨ beAt bytes 2 1 ≠ 1 ∨ beAt bytes 16 2 > 1400 ∨
    bytes.length < 40 + beAt bytes 16 2) : Ends (.packetReceived p src dst bytes) s fun t => t.core.out = [] ∧
      Chip.counted (Reg.HG_P_FORM_count p.code) (Reg.HG_P_STICKY_sat p.code) 0 s.core t.core ∧
      Chip.only [] s.core t.core :=
  ends_dropped hh hport ht (by cases p <;> decide) (by decide) (packet_malformed h _)
    ((inc_out _ _ _ _).trans (inc_out _ _ _ _)) (only_refl _ _) (regsKept_refl _ _)

section
variable (hw : WholePacket bytes) (h1 : beAt bytes 14 2 ≠ 1) (h2 : beAt bytes 14 2 ≠ 2)
include hw h1 h2

theorem ends_strangePacket (hslot : s.core.slotOf (beAt bytes 6 4) = none) :
    Ends (.packetReceived p src dst bytes) s fun t => t.core.out = [] ∧
      Chip.counted (Reg.HG_P_SESSION_count p.code) (Reg.HG_P_STICKY_sat p.code) 1 s.core t.core ∧
      Chip.only [] s.core t.core := by
  have hslot' : (rxFrame p s.core.unsent).slotOf (beAt bytes 6 4) = none := (rxFrame_slotOf p _).trans hslot
  exact ends_dropped hh hport ht (by cases p <;> decide) (by decide) (packet_stranger hw h1 h2 hslot')
    ((inc_out _ _ _ _).trans (inc_out _ _ _ _)) (only_refl _ _) (regsKept_refl _ _)

section
variable {k : Fin 8} (hslot : s.core.slotOf (beAt bytes 6 4) = some k)
include hslot

theorem ends_forgedPacket (htag : tagOk (s.core.session k.val).key bytes = false) :
    Ends (.packetReceived p src dst bytes) s fun t => t.core.out = [] ∧
      Chip.counted (Reg.HG_P_TAG_count p.code) (Reg.HG_P_STICKY_sat p.code) 2 s.core t.core ∧
      Chip.only [.sys] s.core t.core := by
  have hslot' : (rxFrame p s.core.unsent).slotOf (beAt bytes 6 4) = some k := (rxFrame_slotOf p _).trans hslot
  have htag' : tagOk ((rxFrame p s.core.unsent).session k.val).key bytes = false := by rwa [rxFrame_session]
  exact ends_dropped hh hport ht (by cases p <;> decide) (by decide)
    ((packet_session hw h1 h2 hslot').trans (if_pos (by rw [htag']; rfl)))
    ((logAt_out _ _ _ _ _).trans ((inc_out _ _ _ _).trans (inc_out _ _ _ _))) (only_log (by simp) _ _ _ _)
    (regsKept_log (regsKept_refl _ _) (List.Subset.refl _) _ _ _)

end

end

end

end

/-! ### Requests that join the queue (R82, R83) -/

/-- A queued opcode spells no request that bypasses the queue, and the role it needs is its opcode's. -/
theorem requestOf_queued {op kind role : Nat} (hinfo : opInfo op = some ⟨kind, role, true⟩) {o : Origin} {cyc : Fin 499}
    {l : List Byte} {cmd : Instr} (hcmd : requestOf o cyc op l = some cmd) :
    bypass cmd = none ∧ requestRole op cmd = roleFor op cmd ∧ op ≠ 0x90 := by
  unfold opInfo at hinfo
  split at hinfo
  all_goals
    cases hinfo
  all_goals
    cases hcmd
    exact ⟨rfl, rfl, by decide⟩

/-- The first checks find nothing in a request that obeys and finds room in the queue (R78, R83). -/
theorem headChecks_room {o : Origin} {op role : Nat} {info : OpInfo} {c : Chip} (ha : c.obeys o role)
    (h64 : c.host.hg.queue.length < 64) : headChecks o op info role c = none := by
  obtain ⟨⟨-, hopen, hrole⟩, hpath, hclaim⟩ := ha
  simp [headChecks, hopen, Nat.not_lt.2 hrole, hpath, hclaim, Nat.not_le.2 h64]

/-- A new request of an open session for a queued opcode, which the checks let through. -/
structure Chip.admitsQueued (o : Origin) (op : Nat) (l : List Byte) (cmd : Instr) (c : Chip) : Prop where
  queued : ∃ kind role, opInfo op = some ⟨kind, role, true⟩
  spelt : ∀ cyc, requestOf o cyc op l = some cmd
  form : formFault (opFields op l) 0 l = none
  row : rowForm c cmd = none
  obeys : c.obeys o (roleFor op cmd)
  new : (c.session o.slot.val).case o.seq.toNat = 0
  room : c.host.hg.queue.length < 64

/-- A new request for a queued opcode that the checks let through joins the queue. -/
theorem freshRequest_enqueued {o : Origin} {op kind role : Nat} {l : List Byte} {cmd : Instr} {c : Chip}
    (hinfo : opInfo op = some ⟨kind, role, true⟩) (hspelt : ∀ cyc, requestOf o cyc op l = some cmd)
    (hform : formFault (opFields op l) 0 l = none) (hrow : rowForm c cmd = none)
    (hhead : headChecks o op ⟨kind, role, true⟩ (roleFor op cmd) c = none) :
    freshRequest o op 0 l c = enqueue o op cmd c := by
  obtain ⟨hbypass, hrole, hop⟩ := requestOf_queued hinfo (hspelt 0)
  unfold freshRequest
  simp only [hinfo, hspelt, hrole, if_neg hop, hhead, hform, hrow, hbypass, formFirst, ne_eq, not_true_eq_false, if_false]

theorem sessionRequest_fresh {o : Origin} {op flags : Nat} {l : List Byte} {c : Chip}
    (hopen : (arrive o c).sessionOpen o.slot.val = true)
    (hnew : ((arrive o c).session o.slot.val).case o.seq.toNat = 0) :
    sessionRequest o op flags l c = freshRequest o op flags l (arrive o c) := by
  unfold sessionRequest
  simp only [hopen, hnew, Bool.not_true, Bool.false_eq_true, if_false]

theorem sessionRequest_enqueued {o : Origin} {op : Nat} {l : List Byte} {cmd : Instr} {c : Chip}
    (h : Chip.admitsQueued o op l cmd c) :
    sessionRequest o op 0 l c.unsent = enqueue o op cmd (arrive o c.unsent) := by
  have harr : Chip.Arrived o c (arrive o c.unsent) := arrived_arrive o c
  obtain ⟨⟨kind, role, hinfo⟩, hspelt, hform, hrow, hobeys, hnew, hroom⟩ := h
  rw [sessionRequest_fresh ((arrived_sessionOpen harr _).trans hobeys.1.2.1)
    ((harr.session (Session.case o.seq.toNat) (fun _ _ _ _ => rfl) _).trans hnew)]
  exact freshRequest_enqueued hinfo hspelt hform
    ((rowForm_congr (arrived_on harr _) (fun _ hg => arrived_rd harr hg) cmd).trans hrow)
    ((headChecks_arrived harr _ _ _).trans (headChecks_room hobeys hroom))

theorem admitsQueued_rxFrame {p : Path} {o : Origin} {op : Nat} {l : List Byte} {cmd : Instr} {c : Chip}
    (h : Chip.admitsQueued o op l cmd c) : Chip.admitsQueued o op l cmd (rxFrame p c) where
  queued := h.queued
  spelt := h.spelt
  form := h.form
  row := (rowForm_congr (rxFrame_on p _) (fun g hg => rxFrame_rd p (untold_offPort hg)) cmd).trans h.row
  obeys := rxFrame_obeys p h.obeys
  new := by rw [rxFrame_session]; exact h.new
  room := by rw [show (rxFrame p c).host = c.host from inc_host _ _ _ c]; exact h.room

section
variable {p : Path} {src : Src} {dst : Dst} {bytes : List Byte} {s : State} {k : Fin 8} {cmd : Instr}

theorem ends_enqueued (hh : s.core.hears) (hport : s.core.portOn p = true) (ht : s.core.takesSerair p src dst = true)
    (hw : WholePacket bytes) (h1 : beAt bytes 14 2 ≠ 1) (h2 : beAt bytes 14 2 ≠ 2)
    (hslot : s.core.slotOf (beAt bytes 6 4) = some k) (htag : tagOk (s.core.session k.val).key bytes = true)
    (hflags : beAt bytes 3 1 = 0) (h : Chip.admitsQueued (packetOrigin k p src bytes) (beAt bytes 14 2)
      (slice bytes 24 (beAt bytes 16 2)) cmd s.core) : Ends (.packetReceived p src dst bytes) s fun t =>
      t.core.host.hg.queue.map (fun q => (q.o, q.cmd, q.op)) =
        s.core.host.hg.queue.map (fun q => (q.o, q.cmd, q.op)) ++ [(packetOrigin k p src bytes, cmd, beAt bytes 14 2)] ∧
      t.core.out = [] ∧ Chip.only [.host] s.core t.core := by
  let o := packetOrigin k p src bytes
  have harr : Chip.Arrived o (rxFrame p s.core) (arrive o (rxFrame p s.core).unsent) := arrived_arrive o _
  have hhost : (rxFrame p s.core).host = s.core.host := inc_host _ _ _ _
  have hslot' : (rxFrame p s.core.unsent).slotOf (beAt bytes 6 4) = some k := (rxFrame_slotOf p _).trans hslot
  have htag' : ¬ (!tagOk ((rxFrame p s.core.unsent).session k.val).key bytes) = true := by
    rw [rxFrame_session, show s.core.unsent.session k.val = s.core.session k.val from rfl, htag]
    decide
  have heffect : packetIn p src dst bytes s.core.unsent =
      enqueue o (beAt bytes 14 2) cmd (arrive o (rxFrame p s.core).unsent) := by
    rw [taken_unsent hh hport ht, packet_session hw h1 h2 hslot', if_neg htag', hflags, rxFrame_unsent,
      sessionRequest_enqueued (admitsQueued_rxFrame h)]
  obtain ⟨e, hex, hl, hout⟩ := does_leaves (i := .packetReceived p src dst bytes) (s := s) (.inl rfl) hh.1
  rw [show packetIn p src dst bytes { s.core with out := [] } = _ from heffect] at hl hout
  refine ⟨_, hex, ?_, hout, ?_⟩
  · have hqueue : e.host = _ := hl.parts .host (by simp)
    simp only [hqueue, enqueue, modSession, harr.queue, hhost, List.map_append, List.map_cons, List.map_nil]
    rfl
  · exact only_trans (only_trans (only_inc _ _ _ _ _) (only_trans harr.parts (only_host (by simp) _ _)))
      (only_mono hl.parts (by simp))

end

/-- Settles O21: the packet is dropped where its first rule fails, and otherwise is the request that its block spells. -/
theorem packetsFromTheLine : Obligations.PacketsFromTheLine := by
  refine fun s p src dst bytes hh hport ht => ⟨ends_badPacket hh hport ht, fun h24 hmagic hversion hpar htag h1 h2 => ?_⟩
  have hw : WholePacket bytes := ⟨h24, hmagic, hversion, hpar, htag⟩
  refine ⟨ends_strangePacket hh hport ht hw h1 h2, fun k hslot => ⟨ends_forgedPacket hh hport ht hw h1 h2 hslot, ?_⟩⟩
  intro cmd op role kind o l hok hflags hop hinfo hspelt hform hrow hobeys hnew hroom
  subst hop
  exact ends_enqueued hh hport ht hw h1 h2 hslot hok hflags
    ⟨⟨_, _, hinfo⟩, hspelt, hform, hrow, hobeys, hnew, hroom⟩

end Sys2Proof.Machine
end

section
/-! What the operations of one beam channel change at most (04_furrows.md, R114–R148; 05_bed_sluice.md, R167–R169). -/

namespace Sys2Proof.Machine

open Sys2Proof

/-! ### Furrows -/

/-- A listed Furrow is the channel's, and the channel's number lies in the list. -/
theorem fur_of_get {c : Chip} {ch : Nat} {f : Furrow} (h : c.beam.fur[ch]? = some f) :
    c.fur ch = f ∧ ch < c.beam.fur.length :=
  ⟨by rw [Chip.fur, List.getD_eq_getElem?_getD, h, Option.getD_some], (List.getElem?_eq_some_iff.1 h).1⟩

theorem fur_modFur_same {ch : Nat} {c : Chip} (h : ch < c.beam.fur.length) (f : Furrow → Furrow) :
    (modFur ch f c).fur ch = f (c.fur ch) := modAt_getD_same h f _

theorem fur_modFur_ne {ch k : Nat} (h : k ≠ ch) (f : Furrow → Furrow) (c : Chip) : (modFur ch f c).fur k = c.fur k :=
  modAt_getD_ne _ h f _

/-- What a change leaves of the channel's Furrow is as before, also where the list has no such channel. -/
theorem fur_modFur_field {α : Type} {p : Furrow → α} {f : Furrow → Furrow} {ch : Nat} {c : Chip}
    (h : p (f (c.fur ch)) = p (c.fur ch)) : p ((modFur ch f c).fur ch) = p (c.fur ch) := by
  rcases Nat.lt_or_ge ch c.beam.fur.length with hlt | hge
  · rw [fur_modFur_same hlt, h]
  · refine congrArg p ((modAt_getD_out hge f _).trans ?_)
    rw [Chip.fur, List.getD_eq_default _ _ hge]

/-- Two changes that agree on the channel's Furrow are one. -/
theorem modFur_congr {ch : Nat} {f g : Furrow → Furrow} {c : Chip} (h : f (c.fur ch) = g (c.fur ch)) :
    modFur ch f c = modFur ch g c := by
  have hlist : ∀ (l : List Furrow) (i : Nat), f (l.getD i Furrow.init) = g (l.getD i Furrow.init) →
      modAt l i f = modAt l i g := by
    intro l
    induction l with
    | nil => exact fun _ _ => rfl
    | cons a l ih =>
      intro i hi
      cases i with
      | zero => exact congrArg (· :: l) hi
      | succ i => exact congrArg (a :: ·) (ih i hi)
  simp only [modFur, hlist _ _ h]

/-- A domain that is on works. -/
theorem alive_of_on {c : Chip} {d : Nat} (h : c.on d = true) : c.alive d = true := by
  simp only [Chip.on, Bool.and_eq_true] at h
  simp only [Chip.alive, h.1.1, h.1.2, Bool.and_self]

theorem chDo_on {ch : Nat} {c : Chip} (h : c.on (chanDom ch) = true) (f : Chip → Chip) : chDo ch f c = f c := by
  simp only [chDo, when, alive_of_on h, if_true]

/-! ### Changes of one channel -/

/-- `d` is `c` changed at most in the listed parts and registers, and of the Furrows in channel `ch`'s own, of which `p` stays;
nothing is sent, and no time passes. -/
structure Chip.inChan {α : Type} (ch : Nat) (p : Furrow → α) (parts : List Part) (regs : List Fld) (c d : Chip) : Prop where
  out : d.out = c.out
  fix : d.fix = c.fix
  parts : Chip.only parts c d
  regs : Chip.regsKept regs c d
  length : d.beam.fur.length = c.beam.fur.length
  furs : ∀ k, k ≠ ch → d.fur k = c.fur k
  own : p (d.fur ch) = p (c.fur ch)

/-- `p` looks at nothing of a Furrow that starts, ends, break points, log entries, faults and quench requests change. -/
def Furrow.aside {α : Type} (p : Furrow → α) : Prop :=
  ∀ (f : Furrow) plans pos sets probed winCount quenchReq frozen log logIdx lastJoin, p { f with
    plans := plans, pos := pos, sets := sets, probed := probed, winCount := winCount, quenchReq := quenchReq
    frozen := frozen, log := log, logIdx := logIdx, lastJoin := lastJoin } = p f

section
variable {α : Type} {ch : Nat} {p : Furrow → α} {parts : List Part} {regs : List Fld}

theorem inChan_refl (c : Chip) : Chip.inChan ch p parts regs c c :=
  ⟨rfl, rfl, only_refl _ c, regsKept_refl _ c, rfl, fun _ _ => rfl, rfl⟩

theorem inChan_trans {a b c : Chip} (h : Chip.inChan ch p parts regs a b) (k : Chip.inChan ch p parts regs b c) :
    Chip.inChan ch p parts regs a c where
  out := k.out.trans h.out
  fix := k.fix.trans h.fix
  parts := only_trans h.parts k.parts
  regs := regsKept_trans h.regs k.regs
  length := k.length.trans h.length
  furs j hj := (k.furs j hj).trans (h.furs j hj)
  own := k.own.trans h.own

/-- What a change leaves of the Furrow need not be said. -/
theorem inChan_forget {c d : Chip} (h : Chip.inChan ch p parts regs c d) : Chip.inChan ch (fun _ => ()) parts regs c d :=
  ⟨h.out, h.fix, h.parts, h.regs, h.length, h.furs, rfl⟩

theorem inChan_mono {regs' : List Fld} {c d : Chip} (h : Chip.inChan ch p parts regs c d) (hr : regs ⊆ regs') :
    Chip.inChan ch p parts regs' c d :=
  ⟨h.out, h.fix, h.parts, regsKept_mono h.regs hr, h.length, h.furs, h.own⟩

/-- A change of other parts than the beam side. -/
theorem inChan_of_beam {c d : Chip} (hbeam : d.beam = c.beam) (hout : d.out = c.out) (hfix : d.fix = c.fix)
    (hparts : Chip.only parts c d) (hregs : Chip.regsKept regs c d) : Chip.inChan ch p parts regs c d :=
  ⟨hout, hfix, hparts, hregs, by rw [hbeam], fun k _ => fur_congr hbeam k, by rw [fur_congr hbeam]⟩

theorem inChan_wr {f : Fld} (hf : f ∈ regs) (v : Nat) (c : Chip) : Chip.inChan ch p parts regs c (wr f v c) :=
  inChan_of_beam rfl rfl rfl (only_wr _ f v c) (regsKept_wr (regsKept_refl _ c) hf v)

theorem inChan_inc {f g : Fld} (hf : f ∈ regs) (hg : g ∈ regs) (k : Nat) (c : Chip) :
    Chip.inChan ch p parts regs c (inc f g k c) :=
  inChan_of_beam (inc_beam f g k c) (inc_out f g k c) (inc_fix f g k c) (only_inc _ f g k c)
    (regsKept_inc (regsKept_refl _ c) hf hg k)

theorem inChan_log (hs : Part.sys ∈ parts) (hl : logRegs ⊆ regs) (code inst : Nat) (par : List Byte) (c : Chip) :
    Chip.inChan ch p parts regs c (log code inst par c) := by
  obtain ⟨hregs, -, hout, hfix, -⟩ := quiet_log hl code inst par c
  exact inChan_of_beam (log_beam _ _ _ c) hout hfix (only_log hs _ _ _ c) hregs

theorem inChan_noticeAll (hh : Part.host ∈ parts) (code status : Nat) (body : List Byte) (c : Chip) :
    Chip.inChan ch p parts regs c (noticeAll code status body c) := by
  obtain ⟨hregs, -, hout, hfix, -⟩ := quiet_noticeAll regs code status body c
  exact inChan_of_beam (only_noticeAll (l := [.host]) (by simp) code status body c .beam (by simp)) hout hfix
    (only_noticeAll hh _ _ _ c) hregs

theorem inChan_sluice (hm : Part.mem ∈ parts) (req unit : Nat) (w : Bool) (a : Nat) (data : List Byte) (c : Chip) :
    Chip.inChan ch p parts regs c (sluice req unit w a data c) :=
  inChan_of_beam rfl rfl rfl (only_mem hm c _) (regsKept_regs (regsKept_refl _ c) rfl)

theorem inChan_modGio (hs : Part.sys ∈ parts) (f : Gio → Gio) (c : Chip) : Chip.inChan ch p parts regs c (modGio f c) :=
  inChan_of_beam rfl rfl rfl (only_sys hs c _) (regsKept_regs (regsKept_refl _ c) rfl)

theorem inChan_modSlb (hb : Part.beam ∈ parts) (f : Slb → Slb) (c : Chip) : Chip.inChan ch p parts regs c (modSlb f c) :=
  ⟨rfl, rfl, only_beam hb c _, regsKept_regs (regsKept_refl _ c) rfl, rfl, fun _ _ => rfl, rfl⟩

theorem inChan_modFur (hb : Part.beam ∈ parts) {f : Furrow → Furrow} {c : Chip} (h : p (f (c.fur ch)) = p (c.fur ch)) :
    Chip.inChan ch p parts regs c (modFur ch f c) where
  out := rfl
  fix := rfl
  parts := only_beam hb c _
  regs := regsKept_regs (regsKept_refl _ c) rfl
  length := modAt_length _ _ _
  furs _ hk := fur_modFur_ne hk f c
  own := fur_modFur_field h

theorem inChan_when {b : Bool} {f : Chip → Chip} {c : Chip} (h : Chip.inChan ch p parts regs c (f c)) :
    Chip.inChan ch p parts regs c (when b f c) := by
  cases b
  · exact inChan_refl c
  · exact h

/-- A further change under a condition. -/
theorem inChan_ite {P : Prop} [Decidable P] {c d e : Chip} (h : Chip.inChan ch p parts regs c d)
    (k : Chip.inChan ch p parts regs d e) : Chip.inChan ch p parts regs c (if P then e else d) := by
  split
  · exact inChan_trans h k
  · exact h

theorem inChan_forEach {β : Type} (l : List β) {f : β → Chip → Chip}
    (h : ∀ x ∈ l, ∀ c, Chip.inChan ch p parts regs c (f x c)) (c : Chip) : Chip.inChan ch p parts regs c (forEach l f c) :=
  forEach_keeps (p := Chip.inChan ch p parts regs c) l (fun x hx _ hd => inChan_trans hd (h x hx _)) (inChan_refl c)

theorem inChan_mapTiles (hb : Part.beam ∈ parts) (f : Nat → Tile → Tile) (c : Chip) :
    Chip.inChan ch p parts regs c (mapTiles f c) := by
  unfold mapTiles
  exact inChan_modSlb hb _ c

theorem inChan_releaseTiles (hb : Part.beam ∈ parts) (gone : Nat → Bool) (c : Chip) :
    Chip.inChan ch p parts regs c (releaseTiles ch gone c) := by
  unfold releaseTiles
  exact inChan_mapTiles hb _ c

/-! ### The vector log and break points (R131, R136–R139) -/

theorem inChan_breakPoint (hb : Part.beam ∈ parts)
    (hp : ∀ (f : Furrow) sets probed, p { f with sets := sets, probed := probed } = p f) (rest : List Nat) (mine : Nat)
    (c : Chip) : Chip.inChan ch p parts regs c (breakPoint ch rest mine c) := by
  unfold breakPoint
  exact inChan_trans (inChan_modFur hb (hp _ _ _)) (inChan_releaseTiles hb _ _)

theorem inChan_logFlush (hb : Part.beam ∈ parts) (hm : Part.mem ∈ parts)
    (hp : ∀ (f : Furrow) log, p { f with log := log } = p f) (c : Chip) :
    Chip.inChan ch p parts regs c (logFlush ch c) := by
  unfold logFlush
  dsimp only
  split
  · exact inChan_refl c
  · exact inChan_trans (inChan_modFur hb (hp _ _)) (inChan_sluice hm _ _ _ _ _ _)

section
variable (hp : Furrow.aside p) (hb : Part.beam ∈ parts)
include hp hb

theorem inChan_planGone (c : Chip) : Chip.inChan ch p parts regs c (planGone ch c) := by
  have hgone (plans : List Plan) (q : Pt) (c : Chip) :
      Chip.inChan ch p parts regs c (modFur ch (fun f => { f with plans := plans, pos := q }) c) :=
    inChan_modFur hb (hp _ _ _ _ _ _ _ _ _ _ _)
  unfold planGone
  dsimp only
  split
  · split
    · split
      · exact inChan_trans (hgone _ _ _) (inChan_trans (inChan_breakPoint hb (fun _ _ _ => hp _ _ _ _ _ _ _ _ _ _ _) _ _ _)
          (inChan_modFur hb (hp _ _ _ _ _ _ _ _ _ _ _)))
      · exact hgone _ _ _
    · exact inChan_refl c
  · exact inChan_refl c

theorem inChan_askQuench (beat cause fault : Nat) (c : Chip) :
    Chip.inChan ch p parts regs c (askQuench ch beat cause fault c) := inChan_modFur hb (hp _ _ _ _ _ _ _ _ _ _ _)

section
variable (hm : Part.mem ∈ parts)
include hm

theorem inChan_logJoin (e : LogEnt) (c : Chip) : Chip.inChan ch p parts regs c (logJoin ch e c) :=
  inChan_trans (inChan_modFur hb (hp _ _ _ _ _ _ _ _ _ _ _))
    (inChan_when (inChan_logFlush hb hm (fun _ _ => hp _ _ _ _ _ _ _ _ _ _ _) _))

theorem inChan_planEnd (i : Nat) (c : Chip) : Chip.inChan ch p parts regs c (planEnd ch i c) := by
  have hplan (g : Plan → Plan) (c : Chip) : Chip.inChan ch p parts regs c (modPlan ch i g c) :=
    inChan_modFur hb (hp _ _ _ _ _ _ _ _ _ _ _)
  unfold planEnd
  split
  · exact inChan_refl c
  · dsimp only
    have hbroken := fun (P : Prop) [Decidable P] (rest : List Nat) (mine : Nat) (g : Plan → Plan) =>
      inChan_ite (P := P) (inChan_refl c) (inChan_trans (hplan g c)
        (inChan_breakPoint hb (fun _ _ _ => hp _ _ _ _ _ _ _ _ _ _ _) rest mine _))
    split
    · split
      · exact inChan_trans (hbroken _ _ _ _) (hplan _ _)
      · exact inChan_trans (hbroken _ _ _ _) (inChan_trans (hplan _ _) (inChan_logJoin hp hb hm _ _))
    · exact hbroken _ _ _ _

end

/-! ### Faults and starts (R61, R126, R141, R148, R150) -/

section
variable (hs : Part.sys ∈ parts) (hl : logRegs ⊆ regs)
include hs hl

theorem inChan_furFault (hfc : Reg.FUR_FAULT_cause ch ∈ regs) (hfs : Reg.FUR_FAULT_fault_seq ch ∈ regs)
    (cause seq idx : Nat) (c : Chip) : Chip.inChan ch p parts regs c (furFault ch cause seq idx c) := by
  have hask (beat k : Nat) (c : Chip) :
      Chip.inChan ch p parts regs c (if c.chState ch ≥ 6 then c else askQuench ch beat k cause c) := by
    split
    · exact inChan_refl c
    · exact inChan_askQuench hp hb _ _ _ c
  have hshown := inChan_trans (inChan_trans (inChan_wr hfc cause c) (inChan_wr hfs seq _)) (hask (c.now + 1) quenchOwnFault _)
  unfold furFault
  split
  · exact inChan_refl c
  · dsimp only
    split
    · exact hshown
    · exact inChan_trans hshown (inChan_log hs hl _ _ _ _)

end

end

end

/-- The registers that starts and ends of a channel's vectors write (R61, R64, R126, R141, R150, R514). -/
def advanceRegs (ch : Nat) : List Fld :=
  [Reg.FUR_FAULT_cause ch, Reg.FUR_FAULT_fault_seq ch, Reg.FUR_VEC_COUNT_count ch, Reg.FUR_STICKY_vec_sat ch,
    Reg.FUR_DEFER_COUNT_count ch, Reg.FUR_STICKY_defer_sat ch, Reg.FUR_VSTART_LO_beat ch, Reg.FUR_VSTART_HI_beat ch,
    Reg.GIO_OUT_LEVEL_bits, Reg.GIO_OUT_bits, Reg.GIO_OUT_OWNER_bits]

section
variable {α : Type} {ch : Nat} {p : Furrow → α} {parts : List Part} {regs : List Fld}
  (hs : Part.sys ∈ parts) (ha : advanceRegs ch ⊆ regs)
include ha

theorem inChan_gioOwn (c : Chip) : Chip.inChan ch p parts regs c (gioOwn c) :=
  inChan_trans (inChan_wr (ha (by simp [advanceRegs])) _ c) (inChan_wr (ha (by simp [advanceRegs])) _ _)

include hs

theorem inChan_pulseClear (k : Nat) (c : Chip) : Chip.inChan ch p parts regs c (pulseClear k c) :=
  inChan_ite (inChan_refl c) (inChan_trans (inChan_modGio hs _ c)
    (inChan_trans (inChan_wr (ha (by simp [advanceRegs])) _ _) (inChan_gioOwn ha _)))

theorem inChan_setOutput (n arg : Nat) (c : Chip) : Chip.inChan ch p parts regs c (setOutput n arg c) :=
  inChan_trans (inChan_pulseClear hs ha _ c) (inChan_trans (inChan_modGio hs _ _)
    (inChan_trans (inChan_wr (ha (by simp [advanceRegs])) _ _) (inChan_gioOwn ha _)))

variable (hp : Furrow.aside p) (hb : Part.beam ∈ parts) (hl : logRegs ⊆ regs)
include hp hb hl

theorem inChan_furFreeze (violation value : Nat) (c : Chip) :
    Chip.inChan ch p parts regs c (furFreeze ch violation value c) := by
  unfold furFreeze
  split
  · exact inChan_refl c
  · exact inChan_trans (inChan_modFur hb (hp _ _ _ _ _ _ _ _ _ _ _))
      (inChan_trans (inChan_furFault hp hb hs hl (ha (by simp [advanceRegs])) (ha (by simp [advanceRegs])) _ _ _ _)
        (inChan_log hs hl _ _ _ _))

theorem inChan_rateCheck (c : Chip) : Chip.inChan ch p parts regs c (rateCheck ch c) :=
  inChan_when (inChan_furFreeze hs ha hp hb hl _ _ c)

theorem inChan_planStart (i : Nat) (c : Chip) : Chip.inChan ch p parts regs c (planStart ch i c) := by
  have hmark (c : Chip) : Chip.inChan ch p parts regs c (modPlan ch i (fun p => { p with started := true }) c) :=
    inChan_modFur hb (hp _ _ _ _ _ _ _ _ _ _ _)
  have hcount (c : Chip) : Chip.inChan ch p parts regs c (modFur ch (fun f => { f with winCount := f.winCount + 1 }) c) :=
    inChan_modFur hb (hp _ _ _ _ _ _ _ _ _ _ _)
  unfold planStart
  split
  · exact inChan_refl c
  · dsimp only
    split
    · exact hmark c
    · exact inChan_trans (hmark c) <| inChan_trans (hcount _) <|
        inChan_trans (inChan_rateCheck hs ha hp hb hl _) <|
        inChan_trans (inChan_inc (ha (by simp [advanceRegs])) (ha (by simp [advanceRegs])) _ _) <|
        inChan_trans (inChan_when (inChan_inc (ha (by simp [advanceRegs])) (ha (by simp [advanceRegs])) _ _)) <|
        inChan_trans (inChan_wr (ha (by simp [advanceRegs])) _ _) <|
        inChan_trans (inChan_wr (ha (by simp [advanceRegs])) _ _) <|
        inChan_when (inChan_setOutput hs ha _ _ _)

variable (hm : Part.mem ∈ parts)
include hm

theorem inChan_furAdvance (c : Chip) : Chip.inChan ch p parts regs c (furAdvance ch c) := by
  refine inChan_trans (inChan_forEach _ (fun i _ d => ?_) c) (inChan_forEach _ (fun _ _ d => inChan_planGone hp hb d) _)
  split
  · exact inChan_trans (inChan_when (inChan_planStart hs ha hp hb hl _ _)) (inChan_planEnd hp hb hm _ _)
  · exact inChan_refl d

end

end Sys2Proof.Machine
end

section
/-! The ends of a channel's vectors and the writing of its log (04_furrows.md, R114, R131, R136, R139, R141). -/

namespace Sys2Proof.Machine

open Sys2Proof

/-! ### From the effect on a channel to the device that it leaves -/

theorem ends_inChan {α : Type} {ch : Nat} {p : Furrow → α} {i : Instr} {s : State} {f : Chip → Chip} {d : Chip}
    {parts : List Part} {regs : List Fld} {Q : State → Prop} (he : Instr.does i f s) (hp : s.core.sys.pwr.porst = false)
    (hf : f s.core.unsent = d) (h : Chip.inChan ch p parts regs s.core.unsent d) (hpermit : Reg.GIO_STATUS_permit ∈ regs)
    (hQ : ∀ t : State, Chip.Left parts regs s.core d t.core → Q t) : Ends i s Q :=
  ends_effect he hp hf h.out h.parts h.regs hpermit hQ

section
variable {parts : List Part} {regs : List Fld} {c d e : Chip} (h : Chip.Left parts regs c d e)
include h

theorem left_beam : e.beam = d.beam := h.leaves.parts .beam List.not_mem_nil

theorem left_fur (k : Nat) : e.fur k = d.fur k := fur_congr (left_beam h) k

theorem left_furs {α : Type} {ch : Nat} {p : Furrow → α} {parts' : List Part} {regs' : List Fld}
    (hd : Chip.inChan ch p parts' regs' c.unsent d) : ∀ k, k ≠ ch → e.fur k = c.fur k :=
  fun k hk => (left_fur h k).trans (hd.furs k hk)

theorem left_logged {code inst : Nat} {par : List Byte} (hd : d.logged code inst par) : e.logged code inst par :=
  logged_of_kept hd fun x hx => by rwa [left_sys h]

end

/-- Registers that lie in some address ranges are within them. -/
theorem regsWithin_of_kept {l m : List Fld} {r : List (Nat × Nat)} {c d : Chip} (h : Chip.regsKept (l ++ m) c d)
    (hm : ∀ f ∈ m, ∃ q ∈ r, q.1 * 32 ≤ f.key ∧ f.key < q.2 * 32) : Chip.regsWithin l r c d := by
  refine fun g hl hr => h g fun f hf => ?_
  rcases List.mem_append.1 hf with hf | hf
  · exact hl f hf
  · obtain ⟨q, hq, hlo, hhi⟩ := hm f hf
    rcases hr q hq with hg | hg <;> omega

/-! ### One vector ends (R114, R131, R136) -/

/-- The Furrow when an entry has joined its burst. -/
def Furrow.joined (e : LogEnt) (b : Nat) (f : Furrow) : Furrow :=
  { f with log := f.log ++ [e], logIdx := f.logIdx + 1, lastJoin := b }

theorem logJoin_eq (ch : Nat) (e : LogEnt) (c : Chip) : logJoin ch e c =
    when (((modFur ch (Furrow.joined e c.now) c).fur ch).logIdx % 4 == 0) (logFlush ch)
      (modFur ch (Furrow.joined e c.now) c) := rfl

/-- The channel runs one plan, with these intervals and this index of its next log entry. -/
def Furrow.running1 (p : Plan) (lits : List Lit) (idx : Nat) (f : Furrow) : Prop :=
  f.plans = [p] ∧ f.lits = lits ∧ f.logIdx = idx

/-- The intermediate break points that a plan passes at the present beat. -/
def planBreak (ch i : Nat) (p : Plan) (c : Chip) : Chip :=
  if p.started && !p.ended && decide (p.passed c.now > p.brk) then
    breakPoint ch (c.tileGrid.widen (c.rd Reg.SLB_CTL_halo) (c.tileGrid.path (p.breakPt (p.passed c.now)) p.r.pt).1) p.r.idx
      (modPlan ch i (fun q => { q with brk := p.passed c.now }) c)
  else c

/-- The end of a plan, with its log entry unless it is a park move. -/
def planOver (ch i : Nat) (p : Plan) (c : Chip) : Chip :=
  if p.park then modPlan ch i (fun q => { q with ended := true }) c
  else logJoin ch (p.entry false ((modPlan ch i (fun q => { q with ended := true }) c).fur ch).lits)
    (modPlan ch i (fun q => { q with ended := true }) c)

section
variable {ch : Nat} {p : Plan} {c : Chip}

theorem planEnd_due {i : Nat} (hget : (c.fur ch).plans[i]? = some p) (hstarted : p.started = true)
    (hrunning : p.ended = false) (hend : p.endBeat ≤ c.now) : planEnd ch i c = planOver ch i p (planBreak ch i p c) := by
  unfold planEnd
  rw [hget]
  simp only [planOver, planBreak, hstarted, hrunning, hend, Bool.not_false, Bool.and_self, decide_true, if_true]

variable {lits : List Lit} {idx : Nat} (hch : ch < c.beam.fur.length) (hone : Furrow.running1 p lits idx (c.fur ch))
include hch hone

theorem modPlan_one (g : Plan → Plan) : Furrow.running1 (g p) lits idx ((modPlan ch 0 g c).fur ch) := by
  obtain ⟨hplans, hlits, hidx⟩ := hone
  have hfur := fur_modFur_same hch fun f => { f with plans := modAt f.plans 0 g }
  rw [hplans] at hfur
  simp only [Furrow.running1, modPlan, hfur]
  exact ⟨rfl, hlits, hidx⟩

theorem planBreak_one : ∃ k, Furrow.running1 { p with brk := k } lits idx ((planBreak ch 0 p c).fur ch) := by
  unfold planBreak
  split
  · have hkept := (inChan_breakPoint (ch := ch) (p := fun f => (f.plans, f.lits, f.logIdx)) (parts := [.beam]) (regs := [])
      (by simp) (fun _ _ _ => rfl) (c.tileGrid.widen (c.rd Reg.SLB_CTL_halo)
        (c.tileGrid.path (p.breakPt (p.passed c.now)) p.r.pt).1) p.r.idx
      (modPlan ch 0 (fun q => { q with brk := p.passed c.now }) c)).own
    obtain ⟨h1, h2, h3⟩ := modPlan_one hch hone fun q => { q with brk := p.passed c.now }
    simp only [h1, h2, h3, Prod.mk.injEq] at hkept
    exact ⟨_, hkept⟩
  · exact ⟨p.brk, hone⟩

theorem logJoin_one (e : LogEnt) : Furrow.running1 p lits (idx + 1) ((logJoin ch e c).fur ch) := by
  obtain ⟨hplans, hlits, hidx⟩ := hone
  have hjoin := fur_modFur_same hch (Furrow.joined e c.now)
  have hkept := (inChan_when (ch := ch) (p := fun f => (f.plans, f.lits, f.logIdx)) (parts := [.beam, .mem]) (regs := [])
    (b := ((modFur ch (Furrow.joined e c.now) c).fur ch).logIdx % 4 == 0)
    (inChan_logFlush (by simp) (by simp) (fun _ _ => rfl) (modFur ch (Furrow.joined e c.now) c))).own
  rw [← logJoin_eq, hjoin] at hkept
  simp only [Furrow.joined, hplans, hlits, hidx, Prod.mk.injEq] at hkept
  exact hkept

theorem planOver_one (q : Plan) : Furrow.running1 { p with ended := true } lits (idx + (if q.park then 0 else 1))
    ((planOver ch 0 q c).fur ch) := by
  have hmark := modPlan_one hch hone fun q => { q with ended := true }
  unfold planOver
  split
  · exact hmark
  · exact logJoin_one ((modAt_length _ _ _).symm ▸ hch) hmark _

/-- A plan that has ended goes when its last break point falls. -/
theorem planGone_one (hended : p.ended = true) (hbreak : p.endBreak lits ≤ c.now) :
    let f := (planGone ch c).fur ch
    f.plans = [] ∧ f.pos = p.endPt ∧ f.logIdx = idx := by
  obtain ⟨hplans, hlits, hidx⟩ := hone
  have hgone := fur_modFur_same hch fun f => { f with plans := [], pos := p.endPt }
  have hbroken := (inChan_breakPoint (ch := ch) (p := fun f => (f.plans, f.pos, f.logIdx)) (parts := [.beam]) (regs := [])
    (by simp) (fun _ _ _ => rfl) [] p.r.idx (modFur ch (fun f => { f with plans := [], pos := p.endPt }) c)).own
  rw [hgone] at hbroken
  unfold planGone
  simp only [hplans, hlits, hended, hbreak, Bool.true_and, decide_true, if_true]
  split
  · have hsets := fur_modFur_field (p := fun f => (f.plans, f.pos, f.logIdx))
      (f := fun f => { f with sets := f.sets.filter fun s => s.1 != p.r.idx }) (ch := ch)
      (c := breakPoint ch [] p.r.idx (modFur ch (fun f => { f with plans := [], pos := p.endPt }) c)) rfl
    simp only [hbroken, Prod.mk.injEq] at hsets
    exact ⟨hsets.1, hsets.2.1, hsets.2.2.trans hidx⟩
  · rw [hgone]
    exact ⟨rfl, rfl, hidx⟩

end

section
variable {ch : Nat} {p : Plan} {c : Chip}

/-- A channel whose one plan runs and is over at the present beat. -/
structure Chip.lastPlanOver (ch : Nat) (p : Plan) (c : Chip) : Prop where
  known : ch < c.beam.fur.length
  plans : (c.fur ch).plans = [p]
  started : p.started = true
  running : p.ended = false
  endBeat : p.endBeat ≤ c.now
  endBreak : p.endBreak (c.fur ch).lits ≤ c.now

variable (h : Chip.lastPlanOver ch p c)
include h

theorem furAdvance_one : furAdvance ch c = planGone ch (planOver ch 0 p (planBreak ch 0 p c)) := by
  have hget : (c.fur ch).plans[0]? = some p := by rw [h.plans, List.getElem?_cons_zero]
  rw [← planEnd_due hget h.started h.running h.endBeat]
  simp only [furAdvance, h.plans, List.length_singleton, List.range_one, forEach, List.foldl_cons, List.foldl_nil,
    List.getElem?_cons_zero, h.started, Bool.not_true, Bool.false_and, when, Bool.false_eq_true, if_false]

theorem inChan_furAdvance_one :
    Chip.inChan ch (fun _ => ()) [.beam, .mem] [Reg.GIO_STATUS_permit] c (furAdvance ch c) := by
  have hget : (c.fur ch).plans[0]? = some p := by rw [h.plans, List.getElem?_cons_zero]
  rw [furAdvance_one h, ← planEnd_due hget h.started h.running h.endBeat]
  exact inChan_trans (inChan_planEnd (fun _ _ _ _ _ _ _ _ _ _ _ => rfl) (by simp) (by simp) 0 c)
    (inChan_planGone (fun _ _ _ _ _ _ _ _ _ _ _ => rfl) (by simp) _)

theorem furAdvance_one_ends : let f := (furAdvance ch c).fur ch
    f.plans = [] ∧ f.pos = p.endPt ∧ f.logIdx = (c.fur ch).logIdx + (if p.park then 0 else 1) := by
  have hget : (c.fur ch).plans[0]? = some p := by rw [h.plans, List.getElem?_cons_zero]
  have hframe := inChan_planEnd (ch := ch) (p := fun _ => ()) (parts := [.beam, .mem]) (regs := [])
    (fun _ _ _ _ _ _ _ _ _ _ _ => rfl) (by simp) (by simp) 0 c
  rw [planEnd_due hget h.started h.running h.endBeat] at hframe
  obtain ⟨k, hbreak⟩ := planBreak_one h.known ⟨h.plans, rfl, rfl⟩
  have hlen : (planBreak ch 0 p c).beam.fur.length = c.beam.fur.length := by
    unfold planBreak
    exact (inChan_ite (p := fun _ => ()) (parts := [.beam]) (regs := []) (inChan_refl c)
      (inChan_trans (inChan_modFur (by simp) rfl) (inChan_breakPoint (by simp) (fun _ _ _ => rfl) _ _ _))).length
  have hgone := planGone_one (hframe.length ▸ h.known) (planOver_one (hlen ▸ h.known) hbreak p) rfl
    (by rw [Chip.now, hframe.fix]; exact h.endBreak)
  rw [furAdvance_one h]
  exact hgone

end

theorem chDo_unsent {ch : Nat} {c : Chip} (h : c.on (chanDom ch) = true) (f : Chip → Chip) :
    chDo ch f c.unsent = f c.unsent := chDo_on (c := c.unsent) h f

section
variable {s : State} {ch : Fin 24} {f : Furrow} (hp : s.core.sys.pwr.porst = false)
  (hon : s.core.on (chanDom ch.val) = true) (hf : s.core.beam.fur[ch.val]? = some f)
include hp hon hf

theorem ends_vectorEnd {p : Plan} (hplans : f.plans = [p]) (hstarted : p.started = true) (hrunning : p.ended = false)
    (hend : p.endBeat ≤ s.core.now) (hbreak : p.endBreak f.lits ≤ s.core.now) : Ends (.vectorEnd ch) s fun t =>
      (t.core.fur ch.val).plans = [] ∧ (t.core.fur ch.val).pos = p.endPt ∧
      (t.core.fur ch.val).logIdx = f.logIdx + (if p.park then 0 else 1) ∧
      (∀ k, k ≠ ch.val → t.core.fur k = s.core.fur k) ∧ t.core.out = [] ∧ Chip.only [.beam, .mem] s.core t.core ∧
      Chip.regsKept [Reg.GIO_STATUS_permit] s.core t.core := by
  obtain ⟨hfur, hch⟩ := fur_of_get (c := s.core.unsent) hf
  have hover : Chip.lastPlanOver ch.val p s.core.unsent :=
    ⟨hch, (congrArg Furrow.plans hfur).trans hplans, hstarted, hrunning, hend, hfur.symm ▸ hbreak⟩
  have hframe := inChan_furAdvance_one hover
  obtain ⟨hnone, hpos, hidx⟩ := furAdvance_one_ends hover
  rw [hfur] at hidx
  refine ends_inChan (.inl rfl) hp (chDo_unsent hon _) hframe (by simp) fun t ht => ?_
  rw [left_fur ht]
  exact ⟨hnone, hpos, hidx, left_furs ht hframe, ht.out, ht.parts, ht.regs⟩

/-! ### The log and the rate window (R139, R141) -/

theorem ends_logFlushTimeout (hlog : f.log ≠ []) (hlast : f.lastJoin + 64 ≤ s.core.now) :
    Ends (.logFlushTimeout ch) s fun t =>
      (t.core.fur ch.val).log = [] ∧ t.core.mem.slm.ready = s.core.mem.slm.ready ++
        [⟨0, ch.val, true, s.core.logAddr ch.val (f.logIdx - f.log.length), f.log.flatMap LogEnt.bytes, s.core.now⟩] ∧
      t.core.out = [] ∧ Chip.only [.beam, .mem] s.core t.core ∧ Chip.regsKept [Reg.GIO_STATUS_permit] s.core t.core := by
  obtain ⟨hfur, hch⟩ := fur_of_get (c := s.core.unsent) hf
  have hflush : logTimeout ch.val s.core.unsent =
      sluice 0 ch.val true (s.core.logAddr ch.val (f.logIdx - f.log.length)) (f.log.flatMap LogEnt.bytes)
        (modFur ch.val (fun f => { f with log := [] }) s.core.unsent) := by
    simp only [logTimeout, logFlush, when, hfur, List.isEmpty_eq_false_iff.2 hlog,
      show s.core.unsent.now ≥ f.lastJoin + 64 from hlast, Bool.not_false, Bool.true_and, decide_true, if_true,
      Bool.false_eq_true, if_false]
    rfl
  have hframe : Chip.inChan ch.val (fun _ => ()) [.beam, .mem] [Reg.GIO_STATUS_permit] s.core.unsent _ :=
    inChan_trans (inChan_modFur (by simp) rfl) (inChan_sluice (by simp) 0 ch.val true
      (s.core.logAddr ch.val (f.logIdx - f.log.length)) (f.log.flatMap LogEnt.bytes)
      (modFur ch.val (fun f => { f with log := [] }) s.core.unsent))
  refine ends_inChan (.inl rfl) hp ((chDo_unsent hon _).trans hflush) hframe (by simp) fun t ht => ?_
  refine ⟨?_, (ht.leaves.parts .mem List.not_mem_nil).symm ▸ rfl, ht.out, ht.parts, ht.regs⟩
  rw [left_fur ht]
  exact congrArg Furrow.log (fur_modFur_same (c := s.core.unsent) hch _)

theorem ends_vectorRateWindow (hrunning : f.running = true) (hbegun : f.begun = true) (hstart : f.startBeat < s.core.now)
    (hwindow : (s.core.now - f.startBeat) % 1000 = 0) : Ends (.vectorRateWindow ch) s fun t =>
      t.core.fur ch.val = { f with winCount := 0 } ∧ (∀ k, k ≠ ch.val → t.core.fur k = s.core.fur k) ∧ t.core.out = [] ∧
      Chip.only [.beam] s.core t.core ∧ Chip.regsKept [Reg.GIO_STATUS_permit] s.core t.core := by
  obtain ⟨hfur, hch⟩ := fur_of_get (c := s.core.unsent) hf
  have hnew : rateWindow ch.val s.core.unsent = modFur ch.val (fun f => { f with winCount := 0 }) s.core.unsent := by
    simp only [rateWindow, hfur, hrunning, hbegun,
      show s.core.unsent.now > f.startBeat from hstart, show (s.core.unsent.now - f.startBeat) % 1000 = 0 from hwindow,
      Bool.and_self, decide_true, if_true]
  have hframe : Chip.inChan ch.val (fun _ => ()) [.beam] [Reg.GIO_STATUS_permit] s.core.unsent
      (modFur ch.val (fun f => { f with winCount := 0 }) s.core.unsent) := inChan_modFur (by simp) rfl
  refine ends_inChan (.inl rfl) hp ((chDo_unsent hon _).trans hnew) hframe (by simp) fun t ht => ?_
  refine ⟨?_, left_furs ht hframe, ht.out, ht.parts, ht.regs⟩
  rw [left_fur ht, fur_modFur_same hch, hfur]

end

end Sys2Proof.Machine
end

section
/-! The fetch of a channel's list (04_furrows.md, R138, R148). -/

namespace Sys2Proof.Machine

open Sys2Proof

/-! ### What DRAM reads (R375, R381) -/

theorem on_congr {c d : Chip} (hr : ∀ g, d.rd g = c.rd g) (hs : d.sys = c.sys) (k : Nat) : d.on k = c.on k := by
  simp only [Chip.on, Chip.shown, Chip.heldReset, hr, hs]

theorem dramOk_congr {c d : Chip} (hr : ∀ g, d.rd g = c.rd g) (hs : d.sys = c.sys) (a n : Nat) :
    d.dramOk a n = c.dramOk a n := by
  have hrank : d.dramRank = c.dramRank := by
    unfold Chip.dramRank
    rw [hr]
  unfold Chip.dramOk Chip.dramResp Chip.dramChan Chip.dramState
  rw [on_congr hr hs, hrank]
  simp only [hr]

/-- Reads see of the memory side the queued writes alone. -/
theorem dramRead_of_writes {c d : Chip} (hdram : d.dram = c.dram) (hlosses : d.losses = c.losses)
    (hw : d.mem.ch.flatMap DramCh.wq = c.mem.ch.flatMap DramCh.wq) (a n : Nat) : d.dramRead a n = c.dramRead a n := by
  simp only [Chip.dramRead, Chip.dramByte, Chip.cell, hdram, hlosses]
  rw [show (d.mem.ch.flatMap fun h => h.wq) = c.mem.ch.flatMap fun h => h.wq from hw]

/-- Channels rewritten one by one, their queued writes kept. -/
theorem foldl_writes {β : Type} {one : List DramCh × β → DramCh → List DramCh × β}
    (hone : ∀ a h, ∃ h' : DramCh, h'.wq = h.wq ∧ (one a h).1 = a.1 ++ [h']) (l : List DramCh) (a : List DramCh × β) :
    (l.foldl one a).1.flatMap DramCh.wq = a.1.flatMap DramCh.wq ++ l.flatMap DramCh.wq := by
  induction l generalizing a with
  | nil => simp
  | cons h l ih =>
    obtain ⟨h', hwq, hadd⟩ := hone a h
    rw [List.foldl_cons, ih, hadd]
    simp [hwq]

theorem fetchGone_writes (ch : Nat) (c : Chip) :
    (fetchGone ch c).mem.ch.flatMap DramCh.wq = c.mem.ch.flatMap DramCh.wq := by
  unfold fetchGone
  dsimp only
  split
  · refine (foldl_writes (fun a h => ?_) _ _).trans (by simp)
    split
    case isTrue => exact ⟨_, by rfl, rfl⟩
    case isFalse => exact ⟨h, rfl, rfl⟩
  · rfl

/-! ### A burst arrives (R138) -/

theorem inChan_fetchGone {α : Type} {ch : Nat} {p : Furrow → α} {parts : List Part} {regs : List Fld}
    (hm : Part.mem ∈ parts) (n : Nat) (c : Chip) : Chip.inChan ch p parts regs c (fetchGone n c) := by
  unfold fetchGone
  dsimp only
  split <;> exact inChan_of_beam rfl rfl rfl (only_mem hm c _) (regsKept_regs (regsKept_refl _ c) rfl)

/-- The device when the oldest burst that a channel asked for has left the Memory Sluice and the DRAM queues. -/
def burstTaken (ch : Nat) (c : Chip) : Chip :=
  modFur ch (fun f => { f with got := f.got + 1 })
    (when (decide (c.fetchesHeld ch ≥ (c.fur ch).asked - (c.fur ch).got)) (fetchGone ch) c)

section
variable {α : Type} {ch : Nat} {p : Furrow → α} {parts : List Part} {regs : List Fld}

theorem inChan_burstTaken (hb : Part.beam ∈ parts) (hm : Part.mem ∈ parts) (hgot : ∀ (f : Furrow) n, p { f with got := n } = p f)
    (c : Chip) : Chip.inChan ch p parts regs c (burstTaken ch c) :=
  inChan_trans (inChan_when (inChan_fetchGone hm ch c)) (inChan_modFur hb (hgot _ _))

theorem inChan_furRecord (hp : Furrow.aside p) (hb : Part.beam ∈ parts) (hs : Part.sys ∈ parts) (hl : logRegs ⊆ regs)
    (hfc : Reg.FUR_FAULT_cause ch ∈ regs) (hfs : Reg.FUR_FAULT_fault_seq ch ∈ regs)
    (hrec : ∀ (f : Furrow) buf next last done, p { f with
      buf := buf, expectSeq := next, lastPt := last, fetchDone := done } = p f) (l : List Byte) (idx : Nat) (c : Chip) :
    Chip.inChan ch p parts regs c (furRecord ch l idx c) := by
  have hfault := inChan_furFault (p := p) hp hb hs hl hfc hfs
  unfold furRecord
  dsimp only
  split
  · exact inChan_refl c
  · split
    · exact hfault _ _ _ _
    · split
      · exact hfault _ _ _ _
      · exact inChan_modFur hb (hrec _ _ _ _ _)

end

section
variable {ch : Nat} {c : Chip}

theorem burstTaken_rd (g : Fld) : (burstTaken ch c).rd g = c.rd g :=
  (inChan_burstTaken (p := fun _ => ()) (parts := [.beam, .mem]) (regs := []) (by simp) (by simp) (fun _ _ => rfl) c).regs g
    (by simp)

theorem burstTaken_parts : Chip.only [.beam, .mem] c (burstTaken ch c) :=
  (inChan_burstTaken (p := fun _ => ()) (regs := []) (by simp) (by simp) (fun _ _ => rfl) c).parts

theorem burstTaken_dramOk (a n : Nat) : (burstTaken ch c).dramOk a n = c.dramOk a n :=
  dramOk_congr burstTaken_rd (burstTaken_parts .sys (by simp)) a n

theorem burstTaken_dramRead (a n : Nat) : (burstTaken ch c).dramRead a n = c.dramRead a n := by
  obtain ⟨hdram, hlosses⟩ := burstTaken_parts (ch := ch) (c := c) .dram (by simp)
  refine dramRead_of_writes hdram hlosses ?_ a n
  unfold burstTaken when
  split
  · exact fetchGone_writes ch c
  · rfl

theorem burstTaken_got (h : ch < c.beam.fur.length) :
    (burstTaken ch c).fur ch = { c.fur ch with got := (c.fur ch).got + 1 } := by
  have hgone := inChan_when (ch := ch) (p := id) (parts := [.mem]) (regs := [])
    (b := decide (c.fetchesHeld ch ≥ (c.fur ch).asked - (c.fur ch).got)) (inChan_fetchGone (by simp) ch c)
  have hown := hgone.own
  simp only [id_eq] at hown
  rw [burstTaken, fur_modFur_same (hgone.length ▸ h), hown]

theorem furArrive_due (hrunning : (c.fur ch).running = true) (hgot : (c.fur ch).got < (c.fur ch).asked) (ok : Bool) :
    furArrive ch ok c =
      let a := c.listBase ch + 64 * (c.fur ch).got
      let d := burstTaken ch c
      if !ok || !d.dramOk a 64 then
        furFault ch faultFetch ((c.fur ch).expectSeq.getD (d.rd (Reg.FUR_STATE_head_seq ch))) (2 * (c.fur ch).got) d
      else furRecord ch ((d.dramRead a 64).drop 32) (2 * (c.fur ch).got + 1)
        (furRecord ch ((d.dramRead a 64).take 32) (2 * (c.fur ch).got) d) := by
  unfold furArrive
  dsimp only
  rw [if_neg (by simpa [hrunning] using hgot)]
  rfl

/-! ### A fault (R148) -/

/-- The fault of a channel shown in its registers. -/
def faultShown (ch cause seq : Nat) (c : Chip) : Chip :=
  wr (Reg.FUR_FAULT_fault_seq ch) seq (wr (Reg.FUR_FAULT_cause ch) cause c)

theorem furFault_not_logged (ch : Nat) : ∀ f ∈ logRegs, (Reg.FUR_FAULT_cause ch).key ≠ f.key :=
  chanReg_not_logged (by simp only [Reg.FUR_FAULT_cause]; omega)

theorem faultCause_key_ne (ch : Nat) : (Reg.FUR_FAULT_cause ch).key ≠ (Reg.FUR_FAULT_fault_seq ch).key := by
  simp only [Fld.key, Reg.FUR_FAULT_cause, Reg.FUR_FAULT_fault_seq]
  omega

theorem faultShown_state (ch cause seq : Nat) (c : Chip) : (faultShown ch cause seq c).chState ch = c.chState ch := by
  have hfault (f : Fld) (hf : f.addr = 0x100004 + ch * 0x1000) : (Reg.FUR_STATE_state ch).key ≠ f.key := by
    simp only [Fld.key, Reg.FUR_STATE_state]
    omega
  exact (rd_wr_ne (hfault _ rfl) _ _).trans (rd_wr_ne (hfault _ rfl) _ _)

/-- A channel that faults for the first time asks to be quenched on the next beat. -/
theorem furFault_free {cause seq idx : Nat} (h6 : c.chState ch < 6) (hfree : c.rd (Reg.FUR_FAULT_cause ch) = 0)
    (hne : cause ≠ faultFrozen) : furFault ch cause seq idx c = log 0x0302 ch (u8 ch ++ u8 cause ++ u16 seq ++ u32 idx)
      (askQuench ch (c.now + 1) quenchOwnFault cause (faultShown ch cause seq c)) := by
  unfold furFault
  rw [if_neg (not_not.2 hfree), if_neg hne]
  show log _ _ _ (if (faultShown ch cause seq c).chState ch ≥ 6 then _ else _) = _
  rw [if_neg (Nat.not_le.2 ((faultShown_state ch cause seq c).trans_lt h6))]
  rfl

theorem furFault_first {cause seq idx : Nat} (hch : ch < c.beam.fur.length) (h6 : c.chState ch < 6)
    (hfree : c.rd (Reg.FUR_FAULT_cause ch) = 0) (hroom : c.roomToLog) (hcause : cause < 256) (hne : cause ≠ faultFrozen) :
    let d := furFault ch cause seq idx c
    d.rd (Reg.FUR_FAULT_cause ch) = cause ∧ (c.now + 1, 1, cause) ∈ (d.fur ch).quenchReq ∧
      d.logged 0x0302 ch (u8 ch ++ u8 cause ++ u16 seq ++ u32 idx) := by
  have hroom' : (askQuench ch (c.now + 1) quenchOwnFault cause (faultShown ch cause seq c)).roomToLog := by
    rw [Chip.roomToLog, askQuench_sys]
    exact hroom
  rw [furFault_free h6 hfree hne]
  refine ⟨?_, ?_, logged_log hroom' _ _ _⟩
  · refine (log_rd (furFault_not_logged ch) _ _ _ _).trans ((askQuench_rd _ _ _ _ _ _).trans ?_)
    rw [faultShown, rd_wr_ne (faultCause_key_ne ch), rd_wr_same]
    exact Nat.mod_eq_of_lt hcause
  · rw [fur_congr (log_beam _ _ _ _), askQuench, fur_modFur_same (c := faultShown ch cause seq c) hch]
    simp

end

/-! ### Records of a burst (R138) -/

section
variable {ch : Nat} {l : List Byte} {idx : Nat} {c : Chip}

/-- A record that keeps its crc and its place joins the buffer. -/
theorem furRecord_joins (hch : ch < c.beam.fur.length) (hrunning : (c.fur ch).running = true)
    (hmore : (c.fur ch).fetchDone = false) (hfree : c.rd (Reg.FUR_FAULT_cause ch) = 0) (hcrc : vecCrcOk l = true)
    (hseq : ∀ e, (c.fur ch).expectSeq = some e → e = (VecRec.ofBytes idx l).seq) :
    ∃ b ∈ ((furRecord ch l idx c).fur ch).buf, b.r = VecRec.ofBytes idx l := by
  have hnext : ((c.fur ch).expectSeq.any fun e => e != (VecRec.ofBytes idx l).seq) = false := by
    cases h : (c.fur ch).expectSeq with
    | none => rfl
    | some e => simp [hseq e h]
  unfold furRecord
  simp only [hrunning, hmore, hfree, hcrc, hnext, bne_self_eq_false, Bool.not_true, Bool.or_self, Bool.false_eq_true, if_false]
  rw [fur_modFur_same hch]
  exact ⟨_, List.mem_append_right _ List.mem_cons_self, rfl⟩

/-- What the buffer holds stays when a record arrives. -/
theorem furRecord_buf (hch : ch < c.beam.fur.length) {b : BufRec} (hb : b ∈ (c.fur ch).buf) :
    b ∈ ((furRecord ch l idx c).fur ch).buf := by
  have hfault (cause seq : Nat) : b ∈ ((furFault ch cause seq idx c).fur ch).buf := by
    have hkept := (inChan_furFault (ch := ch) (p := Furrow.buf) (parts := [.beam, .sys])
      (regs := logRegs ++ [Reg.FUR_FAULT_cause ch, Reg.FUR_FAULT_fault_seq ch]) (fun _ _ _ _ _ _ _ _ _ _ _ => rfl)
      (by simp) (by simp) (List.subset_append_left _ _) (by simp) (by simp) cause seq idx c).own
    rwa [hkept]
  unfold furRecord
  dsimp only
  split
  · exact hb
  · split
    · exact hfault _ _
    · split
      · exact hfault _ _
      · rw [fur_modFur_same hch]
        exact List.mem_append_left _ hb

end

/-! ### VECTOR_FETCH_DONE -/

/-- The registers that a fault of a channel shows in. -/
def faultRegs (ch : Nat) : List Fld := eventRegs ++ [Reg.FUR_FAULT_cause ch, Reg.FUR_FAULT_fault_seq ch]

section
variable {ch : Nat} {c : Chip}

theorem logRegs_faultRegs (ch : Nat) : logRegs ⊆ faultRegs ch :=
  fun _ h => List.mem_append_left _ (List.mem_cons_of_mem _ h)

section
variable (hrunning : (c.fur ch).running = true) (hgot : (c.fur ch).got < (c.fur ch).asked)
include hrunning hgot

theorem inChan_furArrive (ok : Bool) :
    Chip.inChan ch Furrow.got [.beam, .mem, .sys] (faultRegs ch) (burstTaken ch c) (furArrive ch ok c) := by
  have hrecord := inChan_furRecord (ch := ch) (p := Furrow.got) (parts := [.beam, .mem, .sys]) (regs := faultRegs ch)
    (fun _ _ _ _ _ _ _ _ _ _ _ => rfl) (by simp) (by simp) (logRegs_faultRegs ch) (by simp [faultRegs])
    (by simp [faultRegs]) (fun _ _ _ _ _ => rfl)
  rw [furArrive_due hrunning hgot]
  dsimp only
  split
  · exact inChan_furFault (fun _ _ _ _ _ _ _ _ _ _ _ => rfl) (by simp) (by simp) (logRegs_faultRegs ch)
      (by simp [faultRegs]) (by simp [faultRegs]) _ _ _ _
  · exact inChan_trans (hrecord _ _ _) (hrecord _ _ _)

theorem furArrive_got (hch : ch < c.beam.fur.length) (ok : Bool) : ((furArrive ch ok c).fur ch).got = (c.fur ch).got + 1 :=
  (inChan_furArrive hrunning hgot ok).own.trans (by rw [burstTaken_got hch])

/-- An error response faults the channel with FETCH. -/
theorem furArrive_error (hch : ch < c.beam.fur.length) (h6 : c.chState ch < 6)
    (hfree : c.rd (Reg.FUR_FAULT_cause ch) = 0) (hroom : c.roomToLog) : let d := furArrive ch false c
    d.rd (Reg.FUR_FAULT_cause ch) = 1 ∧ (c.now + 1, 1, 1) ∈ (d.fur ch).quenchReq ∧
      d.logged 0x0302 ch (u8 ch ++ u8 1 ++ u16 ((c.fur ch).expectSeq.getD (c.rd (Reg.FUR_STATE_head_seq ch))) ++
        u32 (2 * (c.fur ch).got)) := by
  have htaken := inChan_burstTaken (ch := ch) (p := fun _ => ()) (parts := [.beam, .mem]) (regs := []) (by simp) (by simp)
    (fun _ _ => rfl) c
  have hnow : (burstTaken ch c).now = c.now := by rw [Chip.now, htaken.fix, Chip.now]
  have hroom' : (burstTaken ch c).roomToLog := by
    rw [Chip.roomToLog, show (burstTaken ch c).sys = c.sys from htaken.parts .sys (by simp)]
    exact hroom
  rw [furArrive_due hrunning hgot]
  simp only [Bool.not_false, Bool.true_or, if_true]
  rw [burstTaken_rd, ← hnow]
  exact furFault_first (htaken.length ▸ hch) ((burstTaken_rd _).trans_lt h6) ((burstTaken_rd _).trans hfree) hroom'
    (by decide) (by decide)

/-- A burst that arrives whole brings its first record into the buffer. -/
theorem furArrive_joins (hch : ch < c.beam.fur.length) (hread : c.dramOk (c.listBase ch + 64 * (c.fur ch).got) 64 = true)
    (hmore : (c.fur ch).fetchDone = false) (hfree : c.rd (Reg.FUR_FAULT_cause ch) = 0) :
    let l := (c.dramRead (c.listBase ch + 64 * (c.fur ch).got) 64).take 32
    let r := VecRec.ofBytes (2 * (c.fur ch).got) l
    vecCrcOk l = true → (∀ e, (c.fur ch).expectSeq = some e → e = r.seq) →
      ∃ b ∈ ((furArrive ch true c).fur ch).buf, b.r = r := by
  intro l r hcrc hseq
  have htaken := inChan_burstTaken (ch := ch) (p := fun _ => ()) (parts := [.beam, .mem]) (regs := []) (by simp) (by simp)
    (fun _ _ => rfl) c
  have hfur := burstTaken_got hch
  have hlen : ch < (burstTaken ch c).beam.fur.length := htaken.length ▸ hch
  obtain ⟨b, hb, hr⟩ := furRecord_joins (l := l) (idx := 2 * (c.fur ch).got) hlen (by rw [hfur]; exact hrunning)
    (by rw [hfur]; exact hmore) ((burstTaken_rd _).trans hfree) hcrc (by rw [hfur]; exact hseq)
  have hlen1 := (inChan_furRecord (ch := ch) (p := Furrow.got) (parts := [.beam, .sys]) (regs := faultRegs ch)
    (fun _ _ _ _ _ _ _ _ _ _ _ => rfl) (by simp) (by simp) (logRegs_faultRegs ch) (by simp [faultRegs])
    (by simp [faultRegs]) (fun _ _ _ _ _ => rfl) l (2 * (c.fur ch).got) (burstTaken ch c)).length
  rw [furArrive_due hrunning hgot]
  simp only [burstTaken_dramOk, burstTaken_dramRead, hread, Bool.not_true, Bool.or_self, Bool.false_eq_true, if_false]
  exact ⟨b, furRecord_buf (hlen1 ▸ hlen) hb, hr⟩

end

end

section
variable {s : State} {ch : Fin 24} {f : Furrow} (hp : s.core.sys.pwr.porst = false)
  (hon : s.core.on (chanDom ch.val) = true) (hf : s.core.beam.fur[ch.val]? = some f) (hrunning : f.running = true)
  (hgot : f.got < f.asked)
include hp hon hf hrunning hgot

theorem ends_vectorFetchDone (ok : Bool) : Ends (.vectorFetchDone ch ok) s fun t =>
      let c := s.core
      let n := ch.val
      let a := c.listBase n + 64 * f.got
      let r := VecRec.ofBytes (2 * f.got) ((c.dramRead a 64).take 32)
      (t.core.fur n).got = f.got + 1 ∧ (∀ k, k ≠ n → t.core.fur k = c.fur k) ∧ t.core.out = [] ∧
      Chip.only [.beam, .mem, .sys] c t.core ∧
      Chip.regsKept (eventRegs ++ [Reg.FUR_FAULT_cause n, Reg.FUR_FAULT_fault_seq n]) c t.core ∧
      (ok = false → c.chState n < 6 → c.rd (Reg.FUR_FAULT_cause n) = 0 → c.roomToLog →
        t.core.rd (Reg.FUR_FAULT_cause n) = 1 ∧ (c.now + 1, 1, 1) ∈ (t.core.fur n).quenchReq ∧
        t.core.logged 0x0302 n (u8 n ++ u8 1 ++ u16 (f.expectSeq.getD (c.rd (Reg.FUR_STATE_head_seq n))) ++ u32 (2 * f.got))) ∧
      (ok = true → c.dramOk a 64 = true → f.fetchDone = false → c.rd (Reg.FUR_FAULT_cause n) = 0 →
        vecCrcOk ((c.dramRead a 64).take 32) = true → (∀ e, f.expectSeq = some e → e = r.seq) →
        ∃ b ∈ (t.core.fur n).buf, b.r = r) := by
  obtain ⟨hfur, hch⟩ := fur_of_get (c := s.core.unsent) hf
  subst hfur
  have hframe : Chip.inChan ch.val (fun _ => ()) [.beam, .mem, .sys] (faultRegs ch.val) s.core.unsent
      (furArrive ch.val ok s.core.unsent) := inChan_trans
    (inChan_burstTaken (by simp) (by simp) (fun _ _ => rfl) _) (inChan_forget (inChan_furArrive hrunning hgot ok))
  refine ends_inChan (.inl rfl) hp (chDo_unsent hon _) hframe (by simp [faultRegs, eventRegs]) fun t ht => ?_
  dsimp only
  rw [left_fur ht]
  refine ⟨furArrive_got hrunning hgot hch ok, left_furs ht hframe, ht.out, ht.parts, ht.regs, ?_, ?_⟩
  · rintro rfl h6 hfree hroom
    obtain ⟨hcause, hask, hlog⟩ := furArrive_error hrunning hgot hch h6 hfree hroom
    exact ⟨(left_rd ht (by simp only [Fld.key, Reg.FUR_FAULT_cause, Reg.GIO_STATUS_permit]; omega)).trans hcause, hask,
      left_logged ht hlog⟩
  · rintro rfl hread hmore hfree hcrc hseq
    exact furArrive_joins hrunning hgot hch hread hmore hfree hcrc hseq

end

end Sys2Proof.Machine
end

section
/-! Waits of a channel that are over (04_furrows.md, R125–R128), and the events of its vectors together. -/

namespace Sys2Proof.Machine

open Sys2Proof

/-! ### A control record met -/

theorem commitCtl_own {ch : Nat} {c : Chip} (hch : ch < c.beam.fur.length) (x : BufRec) (m : Nat) :
    let f := (commitCtl ch x m c).fur ch
    f.t = m ∧ f.waiting = false ∧ ∀ y ∈ f.buf, y.r.idx ≠ x.r.idx := by
  simp only [commitCtl, fur_modFur_same hch, true_and]
  intro y hy
  simpa using (List.mem_filter.1 ((List.dropWhile_sublist _).subset hy)).2

theorem inChan_commitCtl {ch : Nat} {parts : List Part} {regs : List Fld} (hb : Part.beam ∈ parts) (x : BufRec) (m : Nat)
    (c : Chip) : Chip.inChan ch (fun _ => ()) parts regs c (commitCtl ch x m c) := inChan_modFur hb rfl

theorem advanceRegs_within (n : Nat) : ∀ f ∈ advanceRegs n,
    ∃ q ∈ [(0x100000 + n * 0x1000, 0x100000 + (n + 1) * 0x1000), (0x2A0000, 0x2A1000)],
      q.1 * 32 ≤ f.key ∧ f.key < q.2 * 32 := by
  have hchan (f : Fld) (h : f.lo < 32 ∧ 0x100000 + n * 0x1000 ≤ f.addr ∧ f.addr < 0x101000 + n * 0x1000) :
      ∃ q ∈ [(0x100000 + n * 0x1000, 0x100000 + (n + 1) * 0x1000), (0x2A0000, 0x2A1000)],
        q.1 * 32 ≤ f.key ∧ f.key < q.2 * 32 :=
    ⟨_, List.mem_cons_self, by simp only [Fld.key]; omega, by simp only [Fld.key]; omega⟩
  have hpins (f : Fld) (h : f.lo < 32 ∧ 0x2A0000 ≤ f.addr ∧ f.addr < 0x2A1000) :
      ∃ q ∈ [(0x100000 + n * 0x1000, 0x100000 + (n + 1) * 0x1000), (0x2A0000, 0x2A1000)],
        q.1 * 32 ≤ f.key ∧ f.key < q.2 * 32 :=
    ⟨_, List.mem_cons_of_mem _ List.mem_cons_self, by simp only [Fld.key]; omega, by simp only [Fld.key]; omega⟩
  simp only [advanceRegs, List.forall_mem_cons]
  refine ⟨hchan _ ?_, hchan _ ?_, hchan _ ?_, hchan _ ?_, hchan _ ?_, hchan _ ?_, hchan _ ?_, hchan _ ?_, hpins _ ?_,
    hpins _ ?_, hpins _ ?_, by simp⟩
  all_goals
    simp only [Reg.FUR_FAULT_cause, Reg.FUR_FAULT_fault_seq, Reg.FUR_VEC_COUNT_count, Reg.FUR_STICKY_vec_sat,
      Reg.FUR_DEFER_COUNT_count, Reg.FUR_STICKY_defer_sat, Reg.FUR_VSTART_LO_beat, Reg.FUR_VSTART_HI_beat,
      Reg.GIO_OUT_LEVEL_bits, Reg.GIO_OUT_bits, Reg.GIO_OUT_OWNER_bits]
    omega

/-- What a wait that is over leaves: the record gone, the channel ready at beat `m`, and beside the channel, its tiles and
memory transfers at most the outputs that it drives and events changed. -/
def Chip.waitOver (n : Nat) (x : BufRec) (m : Nat) (c d : Chip) : Prop :=
  (d.fur n).waiting = false ∧ (d.fur n).t = m ∧ (∀ y ∈ (d.fur n).buf, y.r.idx ≠ x.r.idx) ∧
  (∀ k, k ≠ n → d.fur k = c.fur k) ∧ d.out = [] ∧ Chip.only [.beam, .mem, .sys] c d ∧
  Chip.regsWithin eventRegs [(0x100000 + n * 0x1000, 0x100000 + (n + 1) * 0x1000), (0x2A0000, 0x2A1000)] c d

theorem ends_waitOver {i : Instr} {s : State} {ch : Nat} {x : BufRec} {m : Nat} {g : Chip → Chip} {d : Chip}
    (he : Instr.does i g s) (hp : s.core.sys.pwr.porst = false)
    (hg : g s.core.unsent = furAdvance ch (commitCtl ch x m d))
    (hd : Chip.inChan ch (fun _ => ()) [.beam, .mem, .sys] (eventRegs ++ advanceRegs ch) s.core.unsent d)
    (hch : ch < d.beam.fur.length) : Ends i s fun t => Chip.waitOver ch x m s.core t.core := by
  have hadvance := inChan_furAdvance (ch := ch) (p := fun f => (f.t, f.waiting, f.buf)) (parts := [.beam, .mem, .sys])
    (regs := eventRegs ++ advanceRegs ch) (by simp) (List.subset_append_right _ _) (fun _ _ _ _ _ _ _ _ _ _ _ => rfl)
    (by simp) (fun _ h => List.mem_append_left _ (List.mem_cons_of_mem _ h)) (by simp) (commitCtl ch x m d)
  have hframe := inChan_trans hd (inChan_trans (inChan_commitCtl (by simp) x m d) (inChan_forget hadvance))
  obtain ⟨ht, hwaiting, hbuf⟩ := commitCtl_own hch x m
  have hown := hadvance.own
  simp only [Prod.mk.injEq] at hown
  obtain ⟨kt, kwaiting, kbuf⟩ := hown
  refine ends_inChan he hp hg hframe (by simp [eventRegs]) fun t hl => ?_
  refine ⟨?_, ?_, ?_, left_furs hl hframe, hl.out, hl.parts, regsWithin_of_kept hl.regs (advanceRegs_within ch)⟩
  · rw [left_fur hl, kwaiting, hwaiting]
  · rw [left_fur hl, kt, ht]
  · rw [left_fur hl, kbuf]
    exact hbuf

/-! ### WAIT_INPUT (R125) -/

theorem headIs_pass {ch kind : Nat} {x : BufRec} {c : Chip} (hhead : (c.fur ch).head = some x) (hkind : x.r.kind = kind)
    (f : Chip → Chip) : headIs ch kind f c = f c := by
  simp only [headIs, hhead, Option.any_some, hkind, beq_self_eq_true, when, if_true]

/-- Whether the input that a WAIT_INPUT names has the level, or makes the edge, that it waits for. -/
def Chip.inputMet (c : Chip) (r : VecRec) : Bool :=
  let v := bit (c.rd Reg.GIO_IN_bits) (bits r.arg 3 0)
  let u := bit c.sys.gio.prevIn (bits r.arg 3 0)
  let cond := bits r.arg 15 8
  if cond = 0 then !v else if cond = 1 then v else if cond = 2 then v && !u else u && !v

section
variable {ch : Nat} {x : BufRec} {c : Chip} (hwaiting : (c.fur ch).waiting = true) (hhead : (c.fur ch).head = some x)
include hwaiting hhead

theorem waitInput_eq : waitInput ch c =
    if c.inputMet x.r then commitCtl ch x c.now c
    else if bits x.r.arg 31 16 ≠ 0 ∧ c.now ≥ (c.fur ch).t + 1000 * bits x.r.arg 31 16 then
      furFault ch faultSync x.r.seq x.r.idx c
    else c := by
  simp only [waitInput, hwaiting, hhead]
  rfl

theorem waitInput_met (hmet : c.inputMet x.r = true) : waitInput ch c = commitCtl ch x c.now c := by
  rw [waitInput_eq hwaiting hhead, if_pos hmet]

theorem waitInput_timeout (hmet : c.inputMet x.r = false) (hlimit : bits x.r.arg 31 16 ≠ 0)
    (hover : (c.fur ch).t + 1000 * bits x.r.arg 31 16 ≤ c.now) : waitInput ch c = furFault ch faultSync x.r.seq x.r.idx c := by
  rw [waitInput_eq hwaiting hhead, hmet, if_neg Bool.false_ne_true, if_pos ⟨hlimit, hover⟩]

end

/-! ### WAIT_TIME and SYNC_BEAT (R127, R128) -/

/-- A buffered record when the head, record `idx`, has become ready at a position. -/
def BufRec.readied (idx : Nat) (p : Pt) (y : BufRec) : BufRec :=
  if y.r.idx = idx then { y with start := some (y.start.getD p) } else y

theorem readied_r (idx : Nat) (p : Pt) (y : BufRec) : (y.readied idx p).r = y.r := by unfold BufRec.readied; split <;> rfl

theorem readied_ahead (idx : Nat) (p : Pt) (y : BufRec) : (y.readied idx p).ahead = y.ahead := by
  unfold BufRec.readied; split <;> rfl

/-- The head that becomes ready takes its start point at most; it is the same record. -/
theorem headTake_head {f : Furrow} {x : BufRec} (hhead : f.head = some x) :
    ∃ y, (headTake f).head = some y ∧ y.r = x.r := by
  unfold headTake
  split
  · rename_i z _ _
    have hmap : (f.buf.map (BufRec.readied z.r.idx (f.posAt f.t))).find? (fun y => !y.ahead) =
        (f.buf.find? fun y => !y.ahead).map (BufRec.readied z.r.idx (f.posAt f.t)) := by
      rw [List.find?_map]
      simp only [Function.comp_def, readied_ahead]
    exact ⟨_, hmap.trans (by rw [show f.buf.find? _ = some x from hhead]; rfl), readied_r _ _ x⟩
  · exact ⟨x, hhead, rfl⟩

/-- Nothing else of the Furrow changes when the head becomes ready. -/
theorem headTake_field {α : Type} {p : Furrow → α} (hp : ∀ (f : Furrow) ready buf, p { f with
    headReady := ready, buf := buf } = p f) (f : Furrow) : p (headTake f) = p f := by
  unfold headTake
  split
  · exact hp _ _ _
  · rfl

theorem ctlBeat_headTake {ch : Nat} {c : Chip} (hch : ch < c.beam.fur.length) (r : VecRec) (t : Nat) :
    (modFur ch headTake c).ctlBeat ch r t = c.ctlBeat ch r t := by
  unfold Chip.ctlBeat
  rw [fur_modFur_same hch, headTake_field (p := Furrow.startBeat) fun _ _ _ => rfl]
  rfl

/-- A channel whose head is a control record of fixed outcome that it can commit on the present beat (R115, R127, R128). -/
structure Chip.ctlDue (ch : Nat) (x : BufRec) (c : Chip) : Prop where
  known : ch < c.beam.fur.length
  head : (c.fur ch).head = some x
  kind : x.r.kind = kWaitTime ∨ x.r.kind = kSync
  running : (c.fur ch).running = true
  ended : (c.fur ch).ended = false
  waiting : (c.fur ch).waiting = false
  begun : (c.fur ch).begun = true
  free : (c.fur ch).freeAt ≤ c.now + 3
  laser : laserOn (c.chState ch) = true
  met : c.ctlBeat ch x.r (max (c.fur ch).t c.now) ≤ c.now + 3

section
variable {ch : Nat} {x : BufRec} {c : Chip} (h : Chip.ctlDue ch x c)
include h

theorem furTry_ctl : ∃ y, y.r = x.r ∧
    furTry ch c = some (commitCtl ch y (c.ctlBeat ch x.r (max (c.fur ch).t c.now)) (modFur ch headTake c)) := by
  obtain ⟨y, hy, hyx⟩ := headTake_head h.head
  have hopen : modFur ch (fun f => if f.running && !f.ended && !f.waiting && decide (f.freeAt ≤ c.now + 3) &&
      laserOn (c.chState ch) then headTake f else f) c = modFur ch headTake c :=
    modFur_congr (by simp only [h.running, h.ended, h.waiting, h.free, h.laser, Bool.not_false, Bool.and_self, decide_true,
      if_true])
  have hfree : ¬ (headTake (c.fur ch)).freeAt > c.now + 3 := by
    rw [headTake_field (p := Furrow.freeAt) fun _ _ _ => rfl]
    exact Nat.not_lt.2 h.free
  have hkind : x.r.motion = false ∧ ¬ x.r.kind = kWaitIn ∧ ¬ x.r.kind = kEnd := by
    rw [VecRec.motion]
    rcases h.kind with hk | hk <;> rw [hk] <;> decide
  obtain ⟨hmotion, hwait, hend⟩ := hkind
  refine ⟨y, hyx, ?_⟩
  unfold furTry
  dsimp only
  rw [hopen, fur_modFur_same h.known, hy, headTake_field (p := Furrow.running) fun _ _ _ => rfl,
    headTake_field (p := Furrow.ended) fun _ _ _ => rfl, headTake_field (p := Furrow.waiting) fun _ _ _ => rfl,
    headTake_field (p := Furrow.begun) fun _ _ _ => rfl, headTake_field (p := Furrow.t) fun _ _ _ => rfl]
  have hnow : (modFur ch headTake c).now = c.now := rfl
  have hlaser : laserOn ((modFur ch headTake c).chState ch) = true := h.laser
  simp only [h.running, h.ended, h.waiting, h.begun, hlaser, hnow, hfree, hmotion, hwait, hend, hyx,
    ctlBeat_headTake h.known, h.met, Bool.not_true, Bool.or_self, Bool.false_and, decide_false, Bool.false_eq_true, if_false,
    if_true]

/-- The head is committed for the beat on which it is met. -/
theorem furCommits_ctl : ∃ y, y.r = x.r ∧
    furCommits ch 1 c = commitCtl ch y (c.ctlBeat ch x.r (max (c.fur ch).t c.now)) (modFur ch headTake c) := by
  obtain ⟨y, hyx, htry⟩ := furTry_ctl h
  exact ⟨y, hyx, by simp only [furCommits, htry]⟩

end

section
variable {s : State} {ch : Fin 24} {f : Furrow} {x : BufRec} (hp : s.core.sys.pwr.porst = false)
  (hon : s.core.on (chanDom ch.val) = true) (hf : s.core.beam.fur[ch.val]? = some f) (hhead : f.head = some x)
include hp hon hf hhead

section
variable (hwaiting : f.waiting = true) (hkind : x.r.kind = kWaitIn)
include hwaiting hkind

theorem ends_waitInputMet (hmet : s.core.inputMet x.r = true) :
    Ends (.waitInputMet ch) s fun t => Chip.waitOver ch.val x s.core.now s.core t.core := by
  obtain ⟨hfur, hch⟩ := fur_of_get (c := s.core.unsent) hf
  subst hfur
  refine ends_waitOver (.inl rfl) hp ?_ (inChan_refl _) hch
  rw [chDo_unsent hon, headIs_pass hhead hkind, waitInput_met hwaiting hhead hmet]
  rfl

theorem ends_waitInputTimeout (hmet : s.core.inputMet x.r = false) (hlimit : bits x.r.arg 31 16 ≠ 0)
    (hover : f.t + 1000 * bits x.r.arg 31 16 ≤ s.core.now) (h6 : s.core.chState ch.val < 6)
    (hfree : s.core.rd (Reg.FUR_FAULT_cause ch.val) = 0) (hroom : s.core.roomToLog) : Ends (.waitInputTimeout ch) s fun t =>
      t.core.rd (Reg.FUR_FAULT_cause ch.val) = 4 ∧ (s.core.now + 1, 1, 4) ∈ (t.core.fur ch.val).quenchReq ∧
      t.core.logged 0x0302 ch.val (u8 ch.val ++ u8 4 ++ u16 x.r.seq ++ u32 x.r.idx) ∧
      (∀ k, k ≠ ch.val → t.core.fur k = s.core.fur k) ∧ t.core.out = [] ∧ Chip.only [.beam, .sys] s.core t.core ∧
      Chip.regsKept (eventRegs ++ [Reg.FUR_FAULT_cause ch.val, Reg.FUR_FAULT_fault_seq ch.val]) s.core t.core := by
  obtain ⟨hfur, hch⟩ := fur_of_get (c := s.core.unsent) hf
  subst hfur
  have hframe : Chip.inChan ch.val (fun _ => ()) [.beam, .sys] (faultRegs ch.val) s.core.unsent
      (furFault ch.val faultSync x.r.seq x.r.idx s.core.unsent) :=
    inChan_furFault (fun _ _ _ _ _ _ _ _ _ _ _ => rfl) (by simp) (by simp) (logRegs_faultRegs _) (by simp [faultRegs])
      (by simp [faultRegs]) _ _ _ _
  obtain ⟨hcause, hask, hlog⟩ := furFault_first (cause := faultSync) (seq := x.r.seq) (idx := x.r.idx)
    (c := s.core.unsent) hch h6 hfree hroom (by decide) (by decide)
  refine ends_inChan (.inl rfl) hp ?_ hframe (by simp [faultRegs, eventRegs]) fun t ht => ?_
  · rw [chDo_unsent hon, headIs_pass hhead hkind, waitInput_timeout hwaiting hhead hmet hlimit hover]
  · refine ⟨(left_rd ht ?_).trans hcause, ?_, left_logged ht hlog, left_furs ht hframe, ht.out, ht.parts, ht.regs⟩
    · simp only [Fld.key, Reg.FUR_FAULT_cause, Reg.GIO_STATUS_permit]
      omega
    · rw [left_fur ht]
      exact hask

end

theorem ends_ctlMet {i : Instr} (hi : (i = .waitTimeMet ch ∧ x.r.kind = kWaitTime) ∨ (i = .syncBeatMet ch ∧ x.r.kind = kSync))
    (hrunning : f.running = true) (hended : f.ended = false) (hwaiting : f.waiting = false) (hbegun : f.begun = true)
    (hfree : f.freeAt ≤ s.core.now + 3) (hlaser : laserOn (s.core.chState ch.val) = true)
    (hmet : s.core.ctlBeat ch.val x.r (max f.t s.core.now) ≤ s.core.now + 3) : Ends i s fun t =>
      Chip.waitOver ch.val x (s.core.ctlBeat ch.val x.r (max f.t s.core.now)) s.core t.core := by
  obtain ⟨hfur, hch⟩ := fur_of_get (c := s.core.unsent) hf
  subst hfur
  have hdue : Chip.ctlDue ch.val x s.core.unsent :=
    ⟨hch, hhead, hi.imp And.right And.right, hrunning, hended, hwaiting, hbegun, hfree, hlaser, hmet⟩
  obtain ⟨y, hyx, hcommit⟩ := furCommits_ctl hdue
  have hstep : Instr.does i (chDo ch.val (headIs ch.val x.r.kind fun d => furCommits ch.val 1 d |> furAdvance ch.val)) s := by
    rcases hi with ⟨rfl, hkind⟩ | ⟨rfl, hkind⟩ <;> exact hkind ▸ .inl rfl
  have hends := ends_waitOver (x := y) hstep hp
    (by rw [chDo_unsent hon, headIs_pass hhead rfl, hcommit]) (inChan_modFur (by simp) rfl) ((modAt_length _ _ _).symm ▸ hch)
  simp only [Chip.waitOver, hyx] at hends
  exact hends

end

/-- Settles O35: each event is one change of the channel (`Chip.inChan`), which composes the frames of the operations it runs;
what it brings about is read off the Furrow after it. -/
theorem vectorEvents : Obligations.VectorEvents := by
  refine fun s ch f hp hon hf => ⟨fun p => ends_vectorEnd hp hon hf, ends_vectorFetchDone hp hon hf,
    ends_logFlushTimeout hp hon hf, fun x hhead => ⟨fun hwaiting hkind => ⟨fun hmet => ?_, fun hmet => ?_⟩, ?_⟩,
    ends_vectorRateWindow hp hon hf⟩
  · exact ends_waitInputMet hp hon hf hhead hwaiting hkind hmet
  · exact ends_waitInputTimeout hp hon hf hhead hwaiting hkind hmet
  · intro i hi hrunning hended hwaiting hbegun hfree hlaser hmet
    obtain ⟨t, ht, -, hmoved⟩ := ends_ctlMet hp hon hf hhead hi hrunning hended hwaiting hbegun hfree hlaser hmet
    exact ⟨t, ht, hmoved⟩

end Sys2Proof.Machine
end

section
/-! Quenches confirmed and output pulses that end (04_furrows.md, R126, R143, R146; 05_bed_sluice.md, R169). -/

namespace Sys2Proof.Machine

open Sys2Proof

/-! ### A quench is confirmed (R143, R146, R169) -/

/-- A Furrow whose quench is no longer unconfirmed. -/
def Furrow.confirmed (f : Furrow) : Furrow := { f with quenchedAt := none, qLog := [] }

/-- What the confirmation of a quench lets go: the log entries that waited for it, the channel's tiles and its request. -/
def quenchLet (ch : Nat) (c : Chip) : Chip :=
  quenchTiles ch (logFlush ch (forEach (c.fur ch).qLog (logJoin ch) (modFur ch Furrow.confirmed c)))

/-- The state that a quenched channel goes on to. -/
def quenchNext (ch : Nat) (c : Chip) : Chip :=
  if c.chState ch ≠ 6 then c
  else if c.rd (Reg.FUR_STATE_quench_cause ch) = quenchOwnFault then setChState ch 7 c
  else if c.rd (Reg.FUR_STATE_quench_cause ch) = quenchJobAbort then park ch c
  else c

theorem quenchConfirm_due {ch q : Nat} {c : Chip} (hq : (c.fur ch).quenchedAt = some q) (hdue : q + 1 ≤ c.now) :
    quenchConfirm ch c = quenchNext ch (quenchLet ch c) := by
  simp only [quenchConfirm, hq, if_neg (Nat.not_lt.2 hdue)]
  rfl

section
variable {α : Type} {ch : Nat} {p : Furrow → α} {parts : List Part} {regs : List Fld}

theorem inChan_withdrawReq (hb : Part.beam ∈ parts) (n : Nat) (c : Chip) :
    Chip.inChan ch p parts regs c (withdrawReq n c) :=
  inChan_trans (inChan_mapTiles hb _ c) (inChan_modSlb hb _ _)

theorem inChan_quenchTiles (hb : Part.beam ∈ parts) (hs : Part.sys ∈ parts) (hl : logRegs ⊆ regs) (c : Chip) :
    Chip.inChan ch p parts regs c (quenchTiles ch c) :=
  inChan_trans (inChan_withdrawReq hb ch c) (inChan_trans (inChan_mapTiles hb _ _) (inChan_when (inChan_log hs hl _ _ _ _)))

theorem inChan_quenchLet (hp : Furrow.aside p) (hb : Part.beam ∈ parts) (hm : Part.mem ∈ parts) (hs : Part.sys ∈ parts)
    (hl : logRegs ⊆ regs) (c : Chip) : Chip.inChan ch p parts regs (modFur ch Furrow.confirmed c) (quenchLet ch c) :=
  inChan_trans (inChan_forEach _ (fun e _ d => inChan_logJoin hp hb hm e d) _)
    (inChan_trans (inChan_logFlush hb hm (fun _ _ => hp _ _ _ _ _ _ _ _ _ _ _) _) (inChan_quenchTiles hb hs hl _))

theorem inChan_setChState (hh : Part.host ∈ parts) (hr : Reg.FUR_STATE_state ch ∈ regs) (st : Nat) (c : Chip) :
    Chip.inChan ch p parts regs c (setChState ch st c) := by
  unfold setChState
  split
  · exact inChan_refl c
  · exact inChan_trans (inChan_wr hr st c) (inChan_noticeAll hh _ _ _ _)

theorem inChan_park (hb : Part.beam ∈ parts) (hh : Part.host ∈ parts) (hr : Reg.FUR_STATE_state ch ∈ regs)
    (hp : ∀ (f : Furrow) plans pos chain, p { f with plans := plans, pos := pos, chain := chain } = p f) (c : Chip) :
    Chip.inChan ch p parts regs c (park ch c) :=
  inChan_trans (inChan_modFur hb (hp _ _ _ _)) (inChan_setChState hh hr 5 _)

theorem inChan_quenchNext (hb : Part.beam ∈ parts) (hh : Part.host ∈ parts) (hr : Reg.FUR_STATE_state ch ∈ regs)
    (hp : ∀ (f : Furrow) plans pos chain, p { f with plans := plans, pos := pos, chain := chain } = p f) (c : Chip) :
    Chip.inChan ch p parts regs c (quenchNext ch c) := by
  unfold quenchNext
  split
  · exact inChan_refl c
  · split
    · exact inChan_setChState hh hr 7 c
    · split
      · exact inChan_park hb hh hr hp c
      · exact inChan_refl c

end

section
variable {ch : Nat} {c : Chip}

theorem heldTiles_congr {c d : Chip} (h : d.beam.slb = c.beam.slb) (k : Nat) : d.heldTiles k = c.heldTiles k := by
  rw [Chip.heldTiles, h, Chip.heldTiles]

theorem req_congr {c d : Chip} (h : d.beam.slb = c.beam.slb) (k : Nat) : d.req k = c.req k := by rw [Chip.req, h, Chip.req]

/-- A channel from which every tile is taken holds none. -/
theorem heldTiles_mapTiles {f : Nat → Tile → Tile} (h : ∀ k t, (f k t).holder ≠ some ch) :
    (mapTiles f c).heldTiles ch = [] := by
  have hnone : ∀ q ∈ (mapTiles f c).beam.slb.tiles, ¬ (q.2.holder == some ch) = true := by
    intro q hq
    obtain ⟨k, -, rfl⟩ := List.mem_map.1 (List.mem_filter.1 hq).1
    simpa using h k.1 k.2
  rw [Chip.heldTiles, List.filter_eq_nil_iff.2 hnone]
  rfl

theorem quenchTiles_gone : (quenchTiles ch c).heldTiles ch = [] ∧ (quenchTiles ch c).req ch = none := by
  have hslb (b : Bool) (code inst : Nat) (par : List Byte) (d : Chip) : (when b (log code inst par) d).beam.slb = d.beam.slb := by
    cases b
    · rfl
    · exact congrArg Beam.slb (log_beam _ _ _ d)
  unfold quenchTiles
  dsimp only
  rw [heldTiles_congr (hslb _ _ _ _ _), req_congr (hslb _ _ _ _ _)]
  refine ⟨heldTiles_mapTiles fun k t => ?_, assocGet_del_same ch _⟩
  split
  · simp
  · assumption

theorem quenchNext_slb : (quenchNext ch c).beam.slb = c.beam.slb := by
  unfold quenchNext
  split
  · rfl
  · split
    · exact congrArg Beam.slb (setChState_beam ch 7 c)
    · split
      · exact (congrArg Beam.slb (setChState_beam ch 5 _)).trans rfl
      · rfl

theorem quenchNext_state (h6 : c.chState ch = 6) : (quenchNext ch c).chState ch =
    if c.rd (Reg.FUR_STATE_quench_cause ch) = 1 then 7 else if c.rd (Reg.FUR_STATE_quench_cause ch) = 6 then 5 else 6 := by
  unfold quenchNext
  rw [if_neg (not_not.2 h6)]
  split
  · exact setChState_state (by decide) c
  · split
    · exact park_state ch c
    · exact h6

end

theorem ends_quenchConfirm {s : State} {ch : Fin 24} {f : Furrow} {q : Nat} (hp : s.core.sys.pwr.porst = false)
    (hf : s.core.beam.fur[ch.val]? = some f) (hq : f.quenchedAt = some q) (hdue : q + 1 ≤ s.core.now)
    (h6 : s.core.chState ch.val = 6) : Ends (.quenchConfirm ch) s fun t =>
      let cause := s.core.rd (Reg.FUR_STATE_quench_cause ch.val)
      t.core.chState ch.val = (if cause = 1 then 7 else if cause = 6 then 5 else 6) ∧
      t.core.heldTiles ch.val = [] ∧ t.core.req ch.val = none ∧ (t.core.fur ch.val).quenchedAt = none ∧
      (∀ k, k ≠ ch.val → t.core.fur k = s.core.fur k) ∧ t.core.out = [] ∧
      Chip.only [.host, .sys, .beam, .mem] s.core t.core ∧
      Chip.regsKept (eventRegs ++ [Reg.FUR_STATE_state ch.val]) s.core t.core := by
  obtain ⟨hfur, hch⟩ := fur_of_get (c := s.core.unsent) hf
  subst hfur
  have hlet := inChan_quenchLet (ch := ch.val) (p := Furrow.quenchedAt) (parts := [.host, .sys, .beam, .mem])
    (regs := logRegs) (fun _ _ _ _ _ _ _ _ _ _ _ => rfl) (by simp) (by simp) (by simp) (List.Subset.refl _) s.core.unsent
  have hnext := inChan_quenchNext (ch := ch.val) (p := Furrow.quenchedAt) (parts := [.host, .sys, .beam, .mem])
    (regs := eventRegs ++ [Reg.FUR_STATE_state ch.val]) (by simp) (by simp) (by simp) (fun _ _ _ _ => rfl)
    (quenchLet ch.val s.core.unsent)
  have hkept (g : Fld) (hg : ∀ f ∈ logRegs, g.key ≠ f.key) : (quenchLet ch.val s.core.unsent).rd g = s.core.rd g :=
    hlet.regs g hg
  have hcause : (quenchLet ch.val s.core.unsent).rd (Reg.FUR_STATE_quench_cause ch.val) =
      s.core.rd (Reg.FUR_STATE_quench_cause ch.val) :=
    hkept _ (chanReg_not_logged (by simp only [Reg.FUR_STATE_quench_cause]; omega))
  have hframe : Chip.inChan ch.val (fun _ => ()) [.host, .sys, .beam, .mem] (eventRegs ++ [Reg.FUR_STATE_state ch.val])
      s.core.unsent (quenchNext ch.val (quenchLet ch.val s.core.unsent)) :=
    inChan_trans (inChan_modFur (by simp) rfl) <| inChan_trans (inChan_mono (inChan_forget hlet)
      fun _ h => List.mem_append_left _ (List.mem_cons_of_mem _ h)) (inChan_forget hnext)
  refine ends_inChan (.inl rfl) hp (quenchConfirm_due hq hdue) hframe (by simp [eventRegs]) fun t ht => ?_
  have hslb : t.core.beam.slb = (quenchLet ch.val s.core.unsent).beam.slb :=
    (congrArg Beam.slb (left_beam ht)).trans quenchNext_slb
  dsimp only
  refine ⟨?_, ?_, ?_, ?_, left_furs ht hframe, ht.out, ht.parts, ht.regs⟩
  · refine (left_rd ht ?_).trans ((quenchNext_state ((hkept _ (furState_not_logged _)).trans h6)).trans (by rw [hcause]))
    simp only [Fld.key, Reg.FUR_STATE_state, Reg.GIO_STATUS_permit]
    omega
  · rw [heldTiles_congr hslb]
    exact quenchTiles_gone.1
  · rw [req_congr hslb]
    exact quenchTiles_gone.2
  · rw [left_fur ht, hnext.own, hlet.own, fur_modFur_same hch]
    rfl

/-! ### An output pulse ends (R126) -/

theorem testBit_sub_two_pow {n k : Nat} (h : n.testBit k = true) (j : Nat) :
    (n - 2 ^ k).testBit j = (n.testBit j && decide (j ≠ k)) := by
  induction k generalizing n j with
  | zero =>
    have hodd : n % 2 = 1 := by simpa using h
    cases j with
    | zero => simp; omega
    | succ j =>
      have hhalf : (n - 2 ^ 0) / 2 = n / 2 := by omega
      rw [Nat.testBit_succ, Nat.testBit_succ, hhalf]
      simp
  | succ k ih =>
    have hpow : 2 ^ (k + 1) = 2 * 2 ^ k := by omega
    rw [Nat.testBit_succ] at h
    have hle : 2 ^ k ≤ n / 2 := Nat.ge_two_pow_of_testBit h
    cases j with
    | zero =>
      have hsame : (n - 2 ^ (k + 1)) % 2 = n % 2 := by omega
      simp [hsame]
    | succ j =>
      have hhalf : (n - 2 ^ (k + 1)) / 2 = n / 2 - 2 ^ k := by omega
      rw [Nat.testBit_succ, Nat.testBit_succ, hhalf, ih h]
      simp

/-- A number with one bit cleared. -/
theorem bit_withBit_false (n k j : Nat) : bit (withBit n k false) j = (bit n j && decide (j ≠ k)) := by
  simp only [bit, withBit, Bool.false_eq_true, if_false]
  cases h : n.testBit k
  · by_cases hjk : j = k
    · subst hjk
      simp [h]
    · simp [hjk]
  · exact testBit_sub_two_pow h j

theorem bit_mod {n w j : Nat} (h : j < w) : bit (n % 2 ^ w) j = bit n j := by
  simp [bit, Nat.testBit_mod_two_pow, h]

/-- The output of a pulse that has ended is low, and no pulse of it is left. -/
def pulseOver (k : Nat) (c : Chip) : Chip :=
  wr Reg.GIO_OUT_LEVEL_bits (withBit (c.rd Reg.GIO_OUT_LEVEL_bits) k false)
    (modGio (fun g => { g with pulses := g.pulses.filter fun p => p.out != k }) c)

theorem pulseClear_due {k : Nat} {c : Chip} (h : ∃ p ∈ c.sys.gio.pulses, p.out = k ∧ p.clear ≤ c.now) :
    pulseClear k c = gioOwn (pulseOver k c) := by
  obtain ⟨p, hmem, hout, hclear⟩ := h
  exact if_pos (List.any_eq_true.2 ⟨p, hmem, by simpa using ⟨hout, hclear⟩⟩)

theorem pulseOver_level (k : Nat) (c : Chip) : (gioOwn (pulseOver k c)).rd Reg.GIO_OUT_LEVEL_bits =
    withBit (c.rd Reg.GIO_OUT_LEVEL_bits) k false % 2 ^ 16 := by
  rw [gioOwn, rd_wr_ne (by decide), rd_wr_ne (by decide)]
  exact rd_wr_same _ _ _

theorem ends_outputPulseClear {s : State} {k : Fin 16} (hp : s.core.sys.pwr.porst = false)
    (hdue : ∃ p ∈ s.core.sys.gio.pulses, p.out = k.val ∧ p.clear ≤ s.core.now) : Ends (.outputPulseClear k) s fun t =>
      bit (t.core.rd Reg.GIO_OUT_LEVEL_bits) k.val = false ∧
      t.core.sys.gio.pulses = s.core.sys.gio.pulses.filter (fun p => p.out != k.val) ∧ t.core.out = [] ∧
      (∀ j < 16, j ≠ k.val → bit (t.core.rd Reg.GIO_OUT_LEVEL_bits) j = bit (s.core.rd Reg.GIO_OUT_LEVEL_bits) j) ∧
      Chip.only [.sys] s.core t.core ∧ Chip.regsKept [Reg.GIO_STATUS_permit, Reg.GIO_OUT_LEVEL_bits, Reg.GIO_OUT_bits,
        Reg.GIO_OUT_OWNER_bits] s.core t.core := by
  refine ends_effect (d := gioOwn (pulseOver k.val s.core.unsent)) (parts := [.sys]) (regs := [Reg.GIO_STATUS_permit,
    Reg.GIO_OUT_LEVEL_bits, Reg.GIO_OUT_bits, Reg.GIO_OUT_OWNER_bits]) (.inl rfl) hp (pulseClear_due hdue) rfl ?_ ?_ (by simp)
    fun t ht => ?_
  · exact only_trans (only_sys (by simp) _ _) (only_regs _ _ _)
  · exact regsKept_wr (regsKept_wr (regsKept_wr (regsKept_regs (regsKept_refl _ _) rfl) (by simp) _) (by simp) _) (by simp) _
  · rw [(left_rd ht (by decide)).trans (pulseOver_level _ _), left_sys ht]
    refine ⟨?_, rfl, ht.out, fun j hj hne => ?_, ht.parts, ht.regs⟩
    · rw [bit_mod k.isLt, bit_withBit_false]
      simp
    · rw [bit_mod hj, bit_withBit_false, decide_eq_true hne, Bool.and_true, unsent_rd]

theorem quenchesAndPulses : Claim.QuenchesAndPulses :=
  fun _ hp => ⟨fun _ _ _ hf hq hdue h6 => ends_quenchConfirm hp hf hq hdue h6, fun _ hdue => ends_outputPulseClear hp hdue⟩

end Sys2Proof.Machine
end

section
/-! Requests evaluated after their backoff, settle times, quota windows and the slot table (05_bed_sluice.md, R158–R167). -/

namespace Sys2Proof.Machine

open Sys2Proof

/-! ### A settle time, a quota window (R166, R167) -/

/-- A command whose effect changes the Bed Sluice alone. -/
theorem ends_modSlb {i : Instr} {s : State} {f : Chip → Chip} {g : Slb → Slb} {Q : State → Prop} (he : Instr.does i f s)
    (hp : s.core.sys.pwr.porst = false) (hf : f s.core.unsent = modSlb g s.core.unsent)
    (hQ : ∀ t : State, t.core.beam = { s.core.beam with slb := g s.core.beam.slb } →
      Chip.Left [.beam] [Reg.GIO_STATUS_permit] s.core (modSlb g s.core.unsent) t.core → Q t) : Ends i s Q :=
  ends_effect he hp hf rfl (only_beam (by simp) _ _) (regsKept_regs (regsKept_refl _ _) rfl) (by simp)
    fun t ht => hQ t (left_beam ht) ht

theorem ends_settleExpiry {s : State} {k : Fin 65536} {x : Tile} (hp : s.core.sys.pwr.porst = false)
    (htile : s.core.tile k.val = some x) (hholder : x.holder = none) (hfree : x.freeAt ≤ s.core.now)
    (hres : x.resFor = none) : Ends (.settleExpiry k) s fun t =>
      t.core.tile k.val = none ∧ (∀ j, j ≠ k.val → t.core.tile j = s.core.tile j) ∧ t.core.beam.fur = s.core.beam.fur ∧
      t.core.out = [] ∧ Chip.only [.beam] s.core t.core ∧ Chip.regsKept [Reg.GIO_STATUS_permit] s.core t.core := by
  have hend : settleEnd k.val s.core.unsent = modSlb (fun b => { b with tiles := assocDel k.val b.tiles }) s.core.unsent := by
    simp only [settleEnd, show s.core.unsent.tile k.val = some x from htile, hholder, hres,
      show x.freeAt ≤ s.core.unsent.now from hfree, Option.isNone_none, decide_true, Bool.and_self, if_true]
  refine ends_modSlb (.inl rfl) hp hend fun t hbeam ht => ?_
  simp only [Chip.tile, hbeam]
  exact ⟨assocGet_del_same _ _, fun j hj => assocGet_del_ne hj _, trivial, ht.out, ht.parts, ht.regs⟩

theorem ends_quotaWindowEnd {s : State} (hp : s.core.sys.pwr.porst = false) (hquota : s.core.rd Reg.SLB_QUOTA_N_quota ≠ 0)
    (hwindow : s.core.rd Reg.SLB_QUOTA_WIN_window ≠ 0)
    (hend : (s.core.now - s.core.beam.slb.winStart) % s.core.rd Reg.SLB_QUOTA_WIN_window = 0)
    (hnew : s.core.beam.slb.quotaDone ≠ s.core.now) : Ends .quotaWindowEnd s fun t =>
      t.core.beam.slb.counts = [] ∧ t.core.beam.slb.qmask = [] ∧ t.core.beam.slb.tiles = s.core.beam.slb.tiles ∧
      t.core.beam.fur = s.core.beam.fur ∧ t.core.out = [] ∧ Chip.only [.beam] s.core t.core ∧
      Chip.regsKept [Reg.GIO_STATUS_permit] s.core t.core := by
  have hclear : quotaEnd s.core.unsent =
      modSlb (fun b => { b with counts := [], qmask := [], quotaDone := s.core.now }) s.core.unsent :=
    if_pos ⟨hquota, hwindow, hend, hnew⟩
  refine ends_modSlb (.inl rfl) hp hclear fun t hbeam ht => ?_
  rw [hbeam]
  exact ⟨rfl, rfl, rfl, rfl, ht.out, ht.parts, ht.regs⟩

/-! ### The slot table wraps (R164) -/

/-- The registers of one entry of the slot tables. -/
def slotRegs (k : Nat) : List Fld :=
  [Reg.SLB_SLOT_valid k, Reg.SLB_SLOT_channel k, Reg.SLB_SLOT_ACT_valid k, Reg.SLB_SLOT_ACT_channel k]

theorem regsKept_swapEntry (k : Nat) (c : Chip) : Chip.regsKept (slotRegs k) c (swapEntry k c) :=
  regsKept_wr (regsKept_wr (regsKept_wr (regsKept_wr (regsKept_refl _ c) (by simp [slotRegs]) _) (by simp [slotRegs]) _)
    (by simp [slotRegs]) _) (by simp [slotRegs]) _

/-- The entries of one index exchanged. -/
structure Chip.swapped (k : Nat) (c d : Chip) : Prop where
  actValid : d.rd (Reg.SLB_SLOT_ACT_valid k) = c.rd (Reg.SLB_SLOT_valid k) % 2
  actChannel : d.rd (Reg.SLB_SLOT_ACT_channel k) = c.rd (Reg.SLB_SLOT_channel k) % 32
  valid : d.rd (Reg.SLB_SLOT_valid k) = c.rd (Reg.SLB_SLOT_ACT_valid k) % 2
  channel : d.rd (Reg.SLB_SLOT_channel k) = c.rd (Reg.SLB_SLOT_ACT_channel k) % 32

theorem slotRegs_key_ne {j k : Nat} (hlt : j < 256 ∧ k < 256) (hjk : j ≠ k) {f g : Fld} (hf : f ∈ slotRegs j)
    (hg : g ∈ slotRegs k) : f.key ≠ g.key := by
  simp only [slotRegs, List.mem_cons, List.not_mem_nil, or_false] at hf hg
  rcases hf with rfl | rfl | rfl | rfl <;> rcases hg with rfl | rfl | rfl | rfl <;>
    simp only [Fld.key, Reg.SLB_SLOT_valid, Reg.SLB_SLOT_channel, Reg.SLB_SLOT_ACT_valid, Reg.SLB_SLOT_ACT_channel] <;> omega

theorem slotRegs_distinct (k : Nat) : (slotRegs k).Pairwise fun f g => f.key ≠ g.key := by
  simp only [slotRegs, List.pairwise_cons, List.forall_mem_cons, Fld.key, Reg.SLB_SLOT_valid, Reg.SLB_SLOT_channel,
    Reg.SLB_SLOT_ACT_valid, Reg.SLB_SLOT_ACT_channel]
  refine ⟨⟨?_, ?_, ?_, by simp⟩, ⟨?_, ?_, by simp⟩, ⟨?_, by simp⟩, by simp⟩ <;> omega

theorem swapped_swapEntry (k : Nat) (c : Chip) : Chip.swapped k c (swapEntry k c) := by
  have hne := slotRegs_distinct k
  simp only [slotRegs, List.pairwise_cons, List.forall_mem_cons] at hne
  obtain ⟨⟨h12, h13, h14, -⟩, ⟨h23, h24, -⟩, ⟨h34, -⟩, -⟩ := hne
  unfold swapEntry
  refine ⟨?_, rd_wr_same _ _ _, ?_, ?_⟩
  · rw [rd_wr_ne h34, rd_wr_same]
    rfl
  · rw [rd_wr_ne h14, rd_wr_ne h13, rd_wr_ne h12, rd_wr_same]
    rfl
  · rw [rd_wr_ne h24, rd_wr_ne h23, rd_wr_same]
    rfl

/-- An exchange leaves the entries of another index. -/
theorem swapEntry_rd {j k : Nat} (hj : j < 256) (hk : k < 256) (hjk : j ≠ k) {g : Fld} (hg : g ∈ slotRegs j) (c : Chip) :
    (swapEntry k c).rd g = c.rd g :=
  regsKept_swapEntry k c g fun _ hf => slotRegs_key_ne ⟨hj, hk⟩ hjk hg hf

/-- Entries are exchanged in the registers that an exchange elsewhere leaves as they are, before it or after it. -/
theorem swapped_congr {k : Nat} {a b c d : Chip} (h : Chip.swapped k b c) (hab : ∀ g ∈ slotRegs k, b.rd g = a.rd g)
    (hcd : ∀ g ∈ slotRegs k, d.rd g = c.rd g) : Chip.swapped k a d := by
  simp only [slotRegs, List.forall_mem_cons] at hab hcd
  obtain ⟨b1, b2, b3, b4, -⟩ := hab
  obtain ⟨d1, d2, d3, d4, -⟩ := hcd
  exact ⟨by rw [d3, h.actValid, b1], by rw [d4, h.actChannel, b2], by rw [d1, h.valid, b3], by rw [d2, h.channel, b4]⟩

theorem swapped_forEach {l : List Nat} (hl : l.Nodup) (hlt : ∀ k ∈ l, k < 256) (c : Chip) :
    ∀ k ∈ l, Chip.swapped k c (forEach l swapEntry c) := by
  induction l generalizing c with
  | nil => simp
  | cons x l ih =>
    obtain ⟨hx, hl⟩ := List.nodup_cons.1 hl
    obtain ⟨hx256, hl256⟩ := List.forall_mem_cons.1 hlt
    intro k hk
    rcases List.mem_cons.1 hk with rfl | hk
    · refine swapped_congr (swapped_swapEntry k c) (fun _ _ => rfl) fun g hg => ?_
      exact forEach_keeps (p := fun d => d.rd g = (swapEntry k c).rd g) l (fun y hy d hd =>
        (swapEntry_rd hx256 (hl256 y hy) (fun e => hx (e ▸ hy)) hg d).trans hd) rfl
    · exact swapped_congr (ih hl hl256 (swapEntry x c) k hk)
        (fun g hg => swapEntry_rd (hl256 k hk) hx256 (fun e => hx (e ▸ hk)) hg c) fun _ _ => rfl

theorem slotRegs_key {k : Nat} (hk : k < 256) {g : Fld} (hg : g ∈ slotRegs k) :
    0x121000 * 32 ≤ g.key ∧ g.key < 0x121800 * 32 := by
  simp only [slotRegs, List.mem_cons, List.not_mem_nil, or_false] at hg
  rcases hg with rfl | rfl | rfl | rfl <;>
    simp only [Fld.key, Reg.SLB_SLOT_valid, Reg.SLB_SLOT_channel, Reg.SLB_SLOT_ACT_valid, Reg.SLB_SLOT_ACT_channel] <;> omega

/-- The registers that the wrap of the slot table writes. -/
def wrapRegs : List Fld :=
  (List.range 256).flatMap slotRegs ++ [Reg.SLB_STATUS_active_table, Reg.SLB_STATUS_commit_pending]

theorem wrapRegs_within : ∀ f ∈ wrapRegs, ∃ q ∈ [(0x120000, 0x130000)], q.1 * 32 ≤ f.key ∧ f.key < q.2 * 32 := by
  intro f hf
  refine ⟨_, List.mem_cons_self, ?_⟩
  rcases List.mem_append.1 hf with hf | hf
  · obtain ⟨k, hk, hf⟩ := List.mem_flatMap.1 hf
    obtain ⟨hlo, hhi⟩ := slotRegs_key (List.mem_range.1 hk) hf
    exact ⟨by omega, by omega⟩
  · simp only [List.mem_cons, List.not_mem_nil, or_false] at hf
    rcases hf with rfl | rfl <;> decide

/-- The tables swapped, and the swap shown. -/
def tablesSwapped (c : Chip) : Chip :=
  wr Reg.SLB_STATUS_commit_pending 0 (wr Reg.SLB_STATUS_active_table (1 - c.rd Reg.SLB_STATUS_active_table)
    (forEach (List.range 256) swapEntry (modSlb (fun b => { b with wrapDone := c.now }) c)))

theorem slotWrap_due {c : Chip} (hwrap : c.now % 256 = 0) (hnew : c.beam.slb.wrapDone ≠ c.now)
    (hcommit : c.flag Reg.SLB_STATUS_commit_pending = true) : slotWrap c =
      log 0x0402 0 (u8 (1 - c.rd Reg.SLB_STATUS_active_table) ++ u8 0 ++ u16 0 ++ beat32 c.now) (tablesSwapped c) := by
  unfold slotWrap
  dsimp only
  rw [if_neg (by simp [hwrap, hnew])]
  show (if (!c.flag Reg.SLB_STATUS_commit_pending) = true then _ else _) = _
  rw [hcommit]
  rfl

theorem inChan_tablesSwapped {α : Type} {ch : Nat} {p : Furrow → α} {parts : List Part} (hb : Part.beam ∈ parts) (c : Chip) :
    Chip.inChan ch p parts (eventRegs ++ wrapRegs) c (tablesSwapped c) := by
  have hentry : ∀ k ∈ List.range 256, ∀ d, Chip.inChan ch p parts (eventRegs ++ wrapRegs) d (swapEntry k d) := by
    intro k hk d
    refine inChan_of_beam rfl rfl rfl (only_regs _ d _) (regsKept_mono (regsKept_swapEntry k d) fun g hg => ?_)
    exact List.mem_append_right _ (List.mem_append_left _ (List.mem_flatMap.2 ⟨k, hk, hg⟩))
  exact inChan_trans (inChan_modSlb hb _ c) <| inChan_trans (inChan_forEach _ hentry _) <|
    inChan_trans (inChan_wr (by simp [wrapRegs]) _ _) (inChan_wr (by simp [wrapRegs]) _ _)

/-- What is written besides the entries leaves them as they are. -/
theorem slotRegs_apart {k : Nat} (hk : k < 256) {g : Fld} (hg : g ∈ slotRegs k) :
    ∀ f ∈ Reg.SLB_STATUS_active_table :: Reg.SLB_STATUS_commit_pending :: eventRegs, g.key ≠ f.key := by
  have hout : ∀ f ∈ Reg.SLB_STATUS_active_table :: Reg.SLB_STATUS_commit_pending :: eventRegs,
      f.key < 0x121000 * 32 ∨ 0x121800 * 32 ≤ f.key := by decide
  intro f hf
  have hkey := slotRegs_key hk hg
  rcases hout f hf with hlow | hhigh <;> omega

theorem tablesSwapped_entries (c : Chip) : ∀ k < 256, Chip.swapped k c (tablesSwapped c) := by
  intro k hk
  have hentries := swapped_forEach List.nodup_range (fun k hk => List.mem_range.1 hk)
    (modSlb (fun b => { b with wrapDone := c.now }) c) k (List.mem_range.2 hk)
  refine swapped_congr hentries (fun _ _ => rfl) fun g hg => ?_
  have hne := slotRegs_apart hk hg
  exact (rd_wr_ne (hne _ (by simp)) _ _).trans (rd_wr_ne (hne _ (by simp)) _ _)

theorem tablesSwapped_status (c : Chip) : (tablesSwapped c).rd Reg.SLB_STATUS_active_table =
    (1 - c.rd Reg.SLB_STATUS_active_table) % 2 ∧ (tablesSwapped c).rd Reg.SLB_STATUS_commit_pending = 0 :=
  ⟨(rd_wr_ne (by decide) _ _).trans (rd_wr_same _ _ _), rd_wr_same _ _ _⟩

theorem ends_slotTableWrap {s : State} (hp : s.core.sys.pwr.porst = false) (hwrap : s.core.now % 256 = 0)
    (hnew : s.core.beam.slb.wrapDone ≠ s.core.now) (hcommit : s.core.flag Reg.SLB_STATUS_commit_pending = true)
    (hroom : s.core.roomToLog) : Ends .slotTableWrap s fun t =>
      (∀ k < 256, t.core.rd (Reg.SLB_SLOT_ACT_valid k) = s.core.rd (Reg.SLB_SLOT_valid k) % 2 ∧
        t.core.rd (Reg.SLB_SLOT_ACT_channel k) = s.core.rd (Reg.SLB_SLOT_channel k) % 32 ∧
        t.core.rd (Reg.SLB_SLOT_valid k) = s.core.rd (Reg.SLB_SLOT_ACT_valid k) % 2 ∧
        t.core.rd (Reg.SLB_SLOT_channel k) = s.core.rd (Reg.SLB_SLOT_ACT_channel k) % 32) ∧
      t.core.rd Reg.SLB_STATUS_active_table = (1 - s.core.rd Reg.SLB_STATUS_active_table) % 2 ∧
      t.core.flag Reg.SLB_STATUS_commit_pending = false ∧
      t.core.logged 0x0402 0 (u8 (1 - s.core.rd Reg.SLB_STATUS_active_table) ++ u8 0 ++ u16 0 ++ beat32 s.core.now) ∧
      t.core.out = [] ∧ Chip.only [.beam, .sys] s.core t.core ∧
      Chip.regsWithin eventRegs [(0x120000, 0x130000)] s.core t.core := by
  have hswap {parts : List Part} (hb : Part.beam ∈ parts) :=
    inChan_tablesSwapped (ch := 0) (p := fun _ => ()) hb s.core.unsent
  have hroom : (tablesSwapped s.core.unsent).roomToLog := by
    rwa [Chip.roomToLog, (hswap List.mem_cons_self).parts .sys (by simp : Part.sys ∉ [Part.beam])]
  have hframe := inChan_trans (hswap (parts := [.beam, .sys]) (by simp)) (inChan_log (by simp)
    (fun f hf => List.mem_append_left _ (List.mem_cons_of_mem _ hf))
    0x0402 0 (u8 (1 - s.core.unsent.rd Reg.SLB_STATUS_active_table) ++ u8 0 ++ u16 0 ++ beat32 s.core.unsent.now) _)
  refine ends_inChan (.inl rfl) hp (slotWrap_due hwrap hnew hcommit) hframe (by simp [eventRegs]) fun t ht => ?_
  have hrd {g : Fld} (hg : ∀ f ∈ eventRegs, g.key ≠ f.key) : t.core.rd g = (tablesSwapped s.core.unsent).rd g :=
    (left_rd ht (hg _ List.mem_cons_self)).trans (log_rd (fun f hf => hg f (List.mem_cons_of_mem _ hf)) _ _ _ _)
  obtain ⟨hactive, hpending⟩ := tablesSwapped_status s.core.unsent
  refine ⟨fun k hk => ?_, (hrd (by decide)).trans hactive, ?_, ?_, ht.out, ht.parts,
    regsWithin_of_kept ht.regs wrapRegs_within⟩
  · obtain ⟨h1, h2, h3, h4⟩ := swapped_congr (d := t.core) (tablesSwapped_entries s.core.unsent k hk)
      (fun _ _ => rfl) fun g hg => hrd fun f hf => slotRegs_apart hk hg f (by simp [hf])
    exact ⟨h1, h2, h3, h4⟩
  · rw [Chip.flag, hrd (by decide), hpending]
    rfl
  · exact left_logged ht (logged_log hroom _ _ _)

end Sys2Proof.Machine
end

section
/-! A request evaluated after its backoff (05_bed_sluice.md, R158–R161, R175). -/

namespace Sys2Proof.Machine

open Sys2Proof

/-! ### The status registers of the Bed Sluice (R175) -/

/-- The status fields of a channel. -/
def statusRegs (ch : Nat) : List Fld :=
  [Reg.SLB_CH_STATUS_status ch, Reg.SLB_CH_STATUS_k ch, Reg.SLB_CH_STATUS_urgent ch, Reg.SLB_CH_STATUS_tiles_held ch,
    Reg.SLB_CH_STATUS_tiles_req ch]

/-- The registers that the Bed Sluice shows its requests in. -/
def showRegs : List Fld :=
  [Reg.SLB_STATUS_urgent_count, Reg.SLB_STATUS_grid_valid] ++ (List.range 24).flatMap statusRegs

/-- A channel's counts of grants and losses with their sticky bits. -/
def countRegs (ch : Nat) : List Fld :=
  [Reg.SLB_CH_GRANTS_count ch, Reg.SLB_CH_STICKY_grants_sat ch, Reg.SLB_CH_LOSSES_count ch, Reg.SLB_CH_STICKY_losses_sat ch]

theorem showRegs_key {f : Fld} (hf : f ∈ showRegs) :
    f.key = 0x12002c * 32 ∨ f.key = 0x12002c * 32 + 8 ∨ ∃ k < 24, f ∈ statusRegs k := by
  simp only [showRegs, List.mem_append, List.mem_cons, List.not_mem_nil, or_false] at hf
  rcases hf with (rfl | rfl) | hf
  · exact .inr (.inl rfl)
  · exact .inl rfl
  · obtain ⟨k, hk, hf⟩ := List.mem_flatMap.1 hf
    exact .inr (.inr ⟨k, List.mem_range.1 hk, hf⟩)

theorem statusRegs_key {k : Nat} {f : Fld} (hf : f ∈ statusRegs k) :
    (0x120100 + k * 0x10) * 32 ≤ f.key ∧ f.key < (0x120104 + k * 0x10) * 32 := by
  simp only [statusRegs, List.mem_cons, List.not_mem_nil, or_false] at hf
  rcases hf with rfl | rfl | rfl | rfl | rfl <;>
    simp only [Fld.key, Reg.SLB_CH_STATUS_status, Reg.SLB_CH_STATUS_k, Reg.SLB_CH_STATUS_urgent,
      Reg.SLB_CH_STATUS_tiles_held, Reg.SLB_CH_STATUS_tiles_req] <;> omega

theorem countRegs_key {k : Nat} {f : Fld} (hf : f ∈ countRegs k) :
    (0x120104 + k * 0x10) * 32 ≤ f.key ∧ f.key < (0x120110 + k * 0x10) * 32 := by
  simp only [countRegs, List.mem_cons, List.not_mem_nil, or_false] at hf
  rcases hf with rfl | rfl | rfl | rfl <;>
    simp only [Fld.key, Reg.SLB_CH_GRANTS_count, Reg.SLB_CH_STICKY_grants_sat, Reg.SLB_CH_LOSSES_count,
      Reg.SLB_CH_STICKY_losses_sat] <;> omega

/-- The counts are none of the registers that show the requests. -/
theorem countRegs_not_shown {ch : Nat} {f g : Fld} (hg : g ∈ countRegs ch) (hf : f ∈ showRegs) : g.key ≠ f.key := by
  obtain ⟨hlo, hhi⟩ := countRegs_key hg
  rcases showRegs_key hf with h | h | ⟨k, -, h⟩
  · omega
  · omega
  · obtain ⟨hk, hk'⟩ := statusRegs_key h
    omega

theorem countRegs_not_logged {ch : Nat} (hch : ch < 24) {g : Fld} (hg : g ∈ countRegs ch) :
    ∀ f ∈ eventRegs, g.key ≠ f.key := by
  have hout : ∀ f ∈ eventRegs, f.key < 0x120000 * 32 ∨ 0x130000 * 32 ≤ f.key := by decide
  intro f hf
  obtain ⟨hlo, hhi⟩ := countRegs_key hg
  rcases hout f hf with hlow | hhigh <;> omega

theorem evalRegs_within (ch : Fin 24) : ∀ f ∈ showRegs ++ countRegs ch.val,
    ∃ q ∈ [(0x120000, 0x130000)], q.1 * 32 ≤ f.key ∧ f.key < q.2 * 32 := by
  intro f hf
  refine ⟨_, List.mem_cons_self, ?_⟩
  dsimp only
  rcases List.mem_append.1 hf with hf | hf
  · rcases showRegs_key hf with h | h | ⟨k, hk, h⟩
    · omega
    · omega
    · have := statusRegs_key h
      omega
  · have := countRegs_key hf
    omega

theorem inChan_slbShow {α : Type} {ch : Nat} {p : Furrow → α} {parts : List Part} {regs : List Fld} (hr : showRegs ⊆ regs)
    (c : Chip) : Chip.inChan ch p parts regs c (slbShow c) := by
  have hshow : ∀ k ∈ List.range 24, ∀ f ∈ statusRegs k, f ∈ regs := fun k hk f hf =>
    hr (List.mem_append_right _ (List.mem_flatMap.2 ⟨k, hk, hf⟩))
  unfold slbShow
  refine inChan_trans (inChan_trans (inChan_wr (hr (by simp [showRegs])) _ c) (inChan_wr (hr (by simp [showRegs])) _ _))
    (inChan_forEach _ (fun k hk d => ?_) _)
  have hk := hshow k hk
  exact inChan_trans (inChan_wr (hk _ (by simp [statusRegs])) _ _) <|
    inChan_trans (inChan_wr (hk _ (by simp [statusRegs])) _ _) <|
    inChan_trans (inChan_wr (hk _ (by simp [statusRegs])) _ _) <|
    inChan_trans (inChan_wr (hk _ (by simp [statusRegs])) _ _) (inChan_wr (hk _ (by simp [statusRegs])) _ _)

/-! ### A request is granted (R159) -/

section
variable {α : Type} {ch : Nat} {p : Furrow → α} {parts : List Part} {regs : List Fld} (hb : Part.beam ∈ parts)
include hb

theorem inChan_holdTiles (n : Nat) (set : List Nat) (c : Chip) : Chip.inChan ch p parts regs c (holdTiles n set c) :=
  inChan_trans (inChan_modSlb hb _ c) (inChan_forEach _ (fun _ _ d => inChan_modSlb hb _ d) _)

theorem inChan_grantReq (hc : countRegs ch ⊆ regs)
    (hp : ∀ (f : Furrow) sets reqIdx, p { f with sets := sets, reqIdx := reqIdx } = p f) (item : Nat) (r : Req) (c : Chip) :
    Chip.inChan ch p parts regs c (grantReq ch item r c) := by
  refine inChan_trans (inChan_withdrawReq hb ch c) <| inChan_trans (inChan_holdTiles hb ch r.set _) <|
    inChan_trans (inChan_inc (hc (by simp [countRegs])) (hc (by simp [countRegs])) 0 _) <|
    inChan_trans (inChan_modSlb hb _ _) <| inChan_trans (inChan_ite (inChan_refl _) (inChan_modSlb hb _ _))
      (inChan_modFur hb ?_)
  split
  · exact hp _ _ _
  · rfl

theorem inChan_reserveFor (n : Nat) (set : List Nat) (c : Chip) : Chip.inChan ch p parts regs c (reserveFor n set c) := by
  have hput (k : Nat) (x : Tile) (d : Chip) : Chip.inChan ch p parts regs d (putTile k x d) := inChan_modSlb hb _ d
  unfold reserveFor
  refine inChan_forEach _ (fun k _ d => ?_) c
  split
  · exact inChan_refl d
  · split
    · exact hput _ _ d
    · split
      · exact inChan_refl d
      · split
        · exact inChan_refl d
        · split
          · exact inChan_refl d
          · exact hput _ _ d

theorem inChan_loseReq (hs : Part.sys ∈ parts) (hl : logRegs ⊆ regs) (hc : countRegs ch ⊆ regs) (r : Req)
    (blocking : List Nat) (c : Chip) : Chip.inChan ch p parts regs c (loseReq ch r blocking c) :=
  inChan_trans (inChan_modSlb hb _ c) <|
    inChan_trans (inChan_inc (hc (by simp [countRegs])) (hc (by simp [countRegs])) 0 _) <|
    inChan_trans (inChan_when (inChan_log hs hl _ _ _ _)) (inChan_when (inChan_reserveFor hb _ _ _))

end

section
variable {ch : Nat} {c : Chip}

/-- The tiles of a request in the channel's hands, and the request gone. -/
def grantTiles (ch : Nat) (r : Req) (c : Chip) : Chip := holdTiles ch r.set (withdrawReq ch c)

theorem holdTiles_reqs (set : List Nat) (c : Chip) : (holdTiles ch set c).beam.slb.reqs = c.beam.slb.reqs := by
  unfold holdTiles
  refine forEach_keeps (p := fun d => d.beam.slb.reqs = c.beam.slb.reqs) set (fun _ _ _ hd => ?_) rfl
  exact hd

theorem holdTiles_holder (set : List Nat) (c : Chip) :
    ∀ k ∈ set, ((holdTiles ch set c).tile k).bind Tile.holder = some ch := by
  refine forEach_all (inv := fun _ => True) (p := fun k d => (d.tile k).bind Tile.holder = some ch) (fun _ _ _ _ => trivial)
    (fun k _ d _ => ?_) (fun k _ j _ hjk d _ hd => ?_) trivial
  · exact congrArg (Option.bind · Tile.holder) (assocGet_put_same k _ _)
  · exact (congrArg (Option.bind · Tile.holder) (assocGet_put_ne hjk _ _)).trans hd

/-- The pointers, the quota and the channel's own books: a grant leaves tiles, requests and registers to the steps before. -/
theorem grantReq_books (item : Nat) (r : Req) (c : Chip) :
    (grantReq ch item r c).beam.slb.tiles = (grantTiles ch r c).beam.slb.tiles ∧
      (grantReq ch item r c).beam.slb.reqs = (grantTiles ch r c).beam.slb.reqs ∧
      (grantReq ch item r c).regs =
        (inc (Reg.SLB_CH_GRANTS_count ch) (Reg.SLB_CH_STICKY_grants_sat ch) 0 (grantTiles ch r c)).regs := by
  unfold grantReq
  dsimp only
  split <;> split <;> simp [modFur, modSlb, grantTiles]

theorem grantReq_granted (item : Nat) (r : Req) (c : Chip) : (grantReq ch item r c).req ch = none ∧
    (∀ k, k ≠ ch → (grantReq ch item r c).req k = c.req k) ∧
    ∀ k ∈ r.set, ((grantReq ch item r c).tile k).bind Tile.holder = some ch := by
  obtain ⟨htiles, hreqs, -⟩ := grantReq_books (ch := ch) item r c
  rw [grantTiles, holdTiles_reqs] at hreqs
  simp only [Chip.req, Chip.tile, hreqs, htiles]
  exact ⟨assocGet_del_same _ _, fun k hk => assocGet_del_ne hk _, holdTiles_holder r.set _⟩

theorem grantReq_counted (item : Nat) (r : Req) (c : Chip) :
    Chip.counted (Reg.SLB_CH_GRANTS_count ch) (Reg.SLB_CH_STICKY_grants_sat ch) 0 c (grantReq ch item r c) := by
  have hbefore := (inChan_trans (inChan_withdrawReq (ch := ch) (p := fun _ => ()) (parts := [.beam]) (regs := []) (by simp) ch c)
    (inChan_holdTiles (by simp) ch r.set _)).regs (Reg.SLB_CH_GRANTS_count ch) (by simp)
  have hkey : (Reg.SLB_CH_GRANTS_count ch).key ≠ (Reg.SLB_CH_STICKY_grants_sat ch).key := by
    simp only [Fld.key, Reg.SLB_CH_GRANTS_count, Reg.SLB_CH_STICKY_grants_sat]
    omega
  obtain ⟨-, -, hregs⟩ := grantReq_books (ch := ch) item r c
  exact counted_congr (counted_inc hkey (by simp [Reg.SLB_CH_STICKY_grants_sat]) (grantTiles ch r c)) hbefore
    (rd_congr hregs _) (rd_congr hregs _)

end

/-! ### A request loses (R160, R161) -/

section
variable {ch : Nat} {r : Req} {c : Chip}

/-- A request that has lost once more. -/
def Req.lost (b k : Nat) (r r' : Req) : Prop :=
  r'.set = r.set ∧ r'.losses = r.losses + 1 ∧ r'.nextEval = b + 2 ^ min (r.losses + 1) k

theorem reserveFor_beam (set : List Nat) (c : Chip) : (reserveFor ch set c).beam.fur = c.beam.fur ∧
    (reserveFor ch set c).beam.slb.reqs = c.beam.slb.reqs := by
  unfold reserveFor
  refine forEach_keeps (p := fun d => d.beam.fur = c.beam.fur ∧ d.beam.slb.reqs = c.beam.slb.reqs) set
    (fun k _ d hd => ?_) ⟨rfl, rfl⟩
  split
  · exact hd
  · split
    · exact hd
    · split
      · exact hd
      · split
        · exact hd
        · split <;> exact hd

theorem loseReq_lost (blocking : List Nat) : (loseReq ch r blocking c).beam.fur = c.beam.fur ∧
    ∃ r', (loseReq ch r blocking c).beam.slb.reqs = assocPut ch r' c.beam.slb.reqs ∧
      Req.lost c.now (c.rd Reg.SLB_CTL_k_max) r r' := by
  have hreserve (b : Bool) (d : Chip) : (when b (reserveFor ch r.set) d).beam.fur = d.beam.fur ∧
      (when b (reserveFor ch r.set) d).beam.slb.reqs = d.beam.slb.reqs := by
    cases b
    · exact ⟨rfl, rfl⟩
    · exact reserveFor_beam r.set d
  have hlog (b : Bool) (code inst : Nat) (par : List Byte) (d : Chip) : (when b (log code inst par) d).beam = d.beam := by
    cases b
    · rfl
    · exact log_beam _ _ _ d
  unfold loseReq
  dsimp only
  rw [(hreserve _ _).1, (hreserve _ _).2, hlog, inc_beam]
  exact ⟨rfl, _, rfl, rfl, rfl, rfl⟩

theorem loseReq_counted (hch : ch < 24) (blocking : List Nat) :
    Chip.counted (Reg.SLB_CH_LOSSES_count ch) (Reg.SLB_CH_STICKY_losses_sat ch) 0 c (loseReq ch r blocking c) := by
  have hkey : (Reg.SLB_CH_LOSSES_count ch).key ≠ (Reg.SLB_CH_STICKY_losses_sat ch).key := by
    simp only [Fld.key, Reg.SLB_CH_LOSSES_count, Reg.SLB_CH_STICKY_losses_sat]
    omega
  have hlogged {g : Fld} (hg : g ∈ countRegs ch) : ∀ f ∈ logRegs, g.key ≠ f.key := fun f hf =>
    countRegs_not_logged hch hg f (List.mem_cons_of_mem _ hf)
  have hafter (b b' : Bool) (code inst : Nat) (par : List Byte) (d : Chip) :
      Chip.regsKept logRegs d (when b' (reserveFor ch r.set) (when b (log code inst par) d)) :=
    (inChan_trans (inChan_when (inChan_log (ch := ch) (p := fun _ => ()) (parts := [.beam, .sys]) (by simp)
      (List.Subset.refl _) _ _ _ d)) (inChan_when (inChan_reserveFor (by simp) _ _ _))).regs
  exact counted_congr (counted_inc hkey (by simp [Reg.SLB_CH_STICKY_losses_sat]) (modSlb _ c)) rfl
    (hafter _ _ _ _ _ _ _ (hlogged (by simp [countRegs]))) (hafter _ _ _ _ _ _ _ (hlogged (by simp [countRegs])))

end

/-! ### An evaluation (R158, R159) -/

/-- Every tile of a request is grantable to its channel. -/
abbrev Chip.allGrantable (ch : Nat) (r : Req) (c : Chip) : Prop :=
  r.outside = false ∧ ∀ k ∈ r.set, c.grantable c.tileGrid c.now ch r.urgent.isSome k = true

/-- A request that no mask and no band holds back, evaluated. -/
def evalTiles (ch : Nat) (r : Req) (c : Chip) : Chip :=
  if c.allGrantable ch r then grantReq ch 3 r c
  else loseReq ch r (r.set.filter fun k => !c.grantable c.tileGrid c.now ch r.urgent.isSome k) c

theorem evalReq_due {ch : Nat} {r : Req} {c : Chip} (hreq : c.req ch = some r) (hdue : r.nextEval ≤ c.now)
    (hside : c.sideMasked ch = false) (hquota : c.quotaMasked ch c.now = false)
    (hband : c.banded c.tileGrid r.hr r.set = false) : evalReq c.tileGrid ch 3 c = evalTiles ch r c := by
  have hall : ((r.set.filter fun k => !c.grantable c.tileGrid c.now ch r.urgent.isSome k) = [] ∧ (!r.outside) = true) ↔
      c.allGrantable ch r := by
    simp [List.filter_eq_nil_iff, and_comm]
  simp only [evalReq, evalTiles, hreq, hside, hquota, hband, Nat.not_lt.2 hdue, and_false, if_false, Bool.false_eq_true,
    hall]

/-- The registers that the evaluation of a channel's request writes. -/
def evalRegs (ch : Nat) : List Fld := eventRegs ++ (showRegs ++ countRegs ch)

theorem inChan_evalTiles (ch : Nat) (r : Req) (c : Chip) :
    Chip.inChan ch (fun _ => ()) [.beam, .sys] (evalRegs ch) c (evalTiles ch r c) := by
  have hcount : countRegs ch ⊆ evalRegs ch := fun _ hf => List.mem_append_right _ (List.mem_append_right _ hf)
  have hlog : logRegs ⊆ evalRegs ch := fun _ hf => List.mem_append_left _ (List.mem_cons_of_mem _ hf)
  unfold evalTiles
  split
  · exact inChan_grantReq (by simp) hcount (fun _ _ _ => rfl) 3 r c
  · exact inChan_loseReq (by simp) (by simp) hlog hcount r _ c

/-- What an evaluation brings: with every tile of the set grantable the channel holds them all and its request is over,
else the request waits on, and no other channel's request changes. -/
def Chip.evaluated (ch : Nat) (r : Req) (c d : Chip) : Prop :=
  (if c.allGrantable ch r then
    d.req ch = none ∧ (∀ k ∈ r.set, (d.tile k).bind Tile.holder = some ch) ∧
    Chip.counted (Reg.SLB_CH_GRANTS_count ch) (Reg.SLB_CH_STICKY_grants_sat ch) 0 c d
  else
    (∃ r', d.req ch = some r' ∧ Req.lost c.now (c.rd Reg.SLB_CTL_k_max) r r') ∧
    Chip.counted (Reg.SLB_CH_LOSSES_count ch) (Reg.SLB_CH_STICKY_losses_sat ch) 0 c d ∧ d.beam.fur = c.beam.fur) ∧
  ∀ k, k ≠ ch → d.req k = c.req k

theorem evaluated_evalTiles {ch : Nat} (hch : ch < 24) (r : Req) (c : Chip) :
    Chip.evaluated ch r c (evalTiles ch r c) := by
  unfold Chip.evaluated evalTiles
  split
  · obtain ⟨hgone, hothers, htiles⟩ := grantReq_granted (ch := ch) 3 r c
    exact ⟨⟨hgone, htiles, grantReq_counted 3 r c⟩, hothers⟩
  · obtain ⟨hfur, r', hreqs, hlost⟩ := loseReq_lost (ch := ch) (r := r) (c := c)
      (r.set.filter fun k => !c.grantable c.tileGrid c.now ch r.urgent.isSome k)
    simp only [Chip.req, hreqs]
    exact ⟨⟨⟨r', assocGet_put_same _ _ _, hlost⟩, loseReq_counted hch _, hfur⟩, fun k hk => assocGet_put_ne hk _ _⟩

/-- The device that shows an evaluation has it. -/
theorem evaluated_congr {ch : Nat} {r : Req} {c d e : Chip} (h : Chip.evaluated ch r c d) (hbeam : e.beam = d.beam)
    (hcount : ∀ g ∈ countRegs ch, e.rd g = d.rd g) : Chip.evaluated ch r c e := by
  simp only [countRegs, List.forall_mem_cons] at hcount
  obtain ⟨hgrants, hgrantsSat, hlosses, hlossesSat, -⟩ := hcount
  simpa only [Chip.evaluated, Chip.req, Chip.tile, Chip.counted, hbeam, hgrants, hgrantsSat, hlosses, hlossesSat] using h

theorem ends_backoffExpiry {s : State} {ch : Fin 24} {r : Req} (hp : s.core.sys.pwr.porst = false)
    (hon : s.core.on pdFABRIC = true) (hreq : s.core.req ch.val = some r) (hdue : r.nextEval ≤ s.core.now)
    (hside : s.core.sideMasked ch.val = false) (hquota : s.core.quotaMasked ch.val s.core.now = false)
    (hband : s.core.banded s.core.tileGrid r.hr r.set = false) : Ends (.backoffExpiry ch) s fun t =>
      Chip.evaluated ch.val r s.core t.core ∧ t.core.out = [] ∧ Chip.only [.beam, .sys] s.core t.core ∧
      Chip.regsWithin eventRegs [(0x120000, 0x130000)] s.core t.core := by
  have hcond : (s.core.on pdFABRIC && (s.core.req ch.val).any fun r => decide (r.nextEval ≤ s.core.now)) = true := by
    simp [hon, hreq, hdue]
  have heval := evalReq_due (c := s.core.unsent) hreq hdue hside hquota hband
  have hshow := inChan_slbShow (ch := ch.val) (p := fun _ => ()) (parts := []) (List.Subset.refl _)
    (evalTiles ch.val r s.core.unsent)
  have hframe := inChan_trans (inChan_evalTiles ch.val r s.core.unsent) (inChan_slbShow (fun _ hf =>
    List.mem_append_right _ (List.mem_append_left _ hf)) _)
  refine ends_inChan (.inl rfl) hp (congrArg slbShow ((if_pos hcond).trans heval)) hframe (by simp [evalRegs, eventRegs])
    fun t ht => ⟨?_, ht.out, ht.parts, regsWithin_of_kept ht.regs (evalRegs_within ch)⟩
  refine evaluated_congr (evaluated_evalTiles ch.isLt r s.core.unsent)
    ((left_beam ht).trans (hshow.parts .beam List.not_mem_nil)) fun g hg => ?_
  exact (left_rd ht (countRegs_not_logged ch.isLt hg _ List.mem_cons_self)).trans
    (hshow.regs g fun _ hf => countRegs_not_shown hg hf)

/-- A request whose backoff has expired is evaluated (R158–R161); settle times, quota windows and the wrap of the slot
table (R164, R166, R167). -/
theorem tileEvents : Claim.TileEvents := by
  intro s hp
  refine ⟨fun ch r hon hreq hdue hside hquota hband => ?_,
    fun _ _ htile hholder hfree hres _ => ends_settleExpiry hp htile hholder hfree hres,
    fun hquota hwindow hend hnew => ends_quotaWindowEnd hp hquota hwindow hend hnew,
    fun hwrap hnew hcommit hroom => ends_slotTableWrap hp hwrap hnew hcommit hroom⟩
  obtain ⟨t, hexec, ⟨hend, hothers⟩, hframe⟩ := ends_backoffExpiry hp hon hreq hdue hside hquota hband
  exact ⟨t, hexec, hend, hothers, hframe⟩

/-- Settles O36: the quench and the pulse as Claim.QuenchesAndPulses, the Bed Sluice as Claim.TileEvents; of a request, that
no tile of its set blocks it is what decides between grant and loss, and showing it touches no count. -/
theorem quenchesAndTiles : Obligations.QuenchesAndTiles := ⟨quenchesAndPulses, tileEvents⟩

end Sys2Proof.Machine
end

section
/-! What an operation of the head links changes at most (06_glelin_links.md, R189–R213): the frame that every operation on
lanes, links and mailboxes has, and how frames compose. -/

namespace Sys2Proof.Machine

open Sys2Proof

/-! ### Register keys -/

/-- The keys of the listed fields and of the registers of some address ranges. -/
def Fld.among (l : List Fld) (r : List (Nat × Nat)) (k : Nat) : Prop :=
  (∃ f ∈ l, k = f.key) ∨ ∃ q ∈ r, q.1 * 32 ≤ k ∧ k < q.2 * 32

/-- A register field reads as before unless its key is in `K`. -/
def Chip.regsBut (K : Nat → Prop) (c d : Chip) : Prop := ∀ g : Fld, ¬ K g.key → d.rd g = c.rd g

theorem among_of_mem {l : List Fld} {r : List (Nat × Nat)} {f : Fld} (h : f ∈ l) : Fld.among l r f.key := .inl ⟨f, h, rfl⟩

theorem regsWithin_of_regsBut {l : List Fld} {r : List (Nat × Nat)} {c d : Chip} (h : Chip.regsBut (Fld.among l r) c d) :
    Chip.regsWithin l r c d := fun g hl hr => h g fun hg => by
  rcases hg with ⟨f, hf, hk⟩ | ⟨q, hq, hlo, hhi⟩
  · exact hl f hf hk
  · rcases hr q hq with hlow | hhigh <;> omega

theorem regsKept_of_regsBut {l : List Fld} {c d : Chip} (h : Chip.regsBut (Fld.among l []) c d) : Chip.regsKept l c d :=
  fun g hl => h g fun hg => by
    rcases hg with ⟨f, hf, hk⟩ | ⟨q, hq, -⟩
    · exact hl f hf hk
    · exact absurd hq List.not_mem_nil

theorem regsBut_of_kept {l : List Fld} {K : Nat → Prop} {c d : Chip} (h : Chip.regsKept l c d) (hl : ∀ f ∈ l, K f.key) :
    Chip.regsBut K c d := fun g hg => h g fun f hf e => hg (e ▸ hl f hf)

/-! ### Lanes and links -/

theorem lane_of_get {c : Chip} {n : Nat} {l : Lane} (h : c.beam.lanes[n]? = some l) :
    c.lane n = l ∧ n < c.beam.lanes.length :=
  ⟨by rw [Chip.lane, List.getD_eq_getElem?_getD, h, Option.getD_some], (List.getElem?_eq_some_iff.1 h).1⟩

theorem link_of_get {c : Chip} {n : Nat} {l : Link} (h : c.beam.links[n]? = some l) :
    c.link n = l ∧ n < c.beam.links.length :=
  ⟨by rw [Chip.link, List.getD_eq_getElem?_getD, h, Option.getD_some], (List.getElem?_eq_some_iff.1 h).1⟩

theorem lane_modLane_same {n : Nat} {c : Chip} (h : n < c.beam.lanes.length) (f : Lane → Lane) :
    (modLane n f c).lane n = f (c.lane n) := modAt_getD_same h f _

theorem link_modLink_same {n : Nat} {c : Chip} (h : n < c.beam.links.length) (f : Link → Link) :
    (modLink n f c).link n = f (c.link n) := modAt_getD_same h f _

/-- What a change of one entry leaves of every entry stays in the whole list. -/
theorem modAt_getD_field {α β : Type} {p : α → β} {f : α → α} (h : ∀ a, p (f a) = p a) (l : List α) (i j : Nat) (d : α) :
    p ((modAt l i f).getD j d) = p (l.getD j d) := by
  by_cases e : j = i
  · subst e
    rcases Nat.lt_or_ge j l.length with hlt | hge
    · exact (congrArg p (modAt_getD_same hlt f d)).trans (h _)
    · rw [modAt_getD_out hge f d, List.getD_eq_default _ _ hge]
  · rw [modAt_getD_ne l e f d]

/-! ### The frame -/

/-- `d` is `c` changed at most in the listed parts and in registers whose keys are in `K`; `p` of every lane and `q` of
every link stay; nothing is sent, no time passes, no event is lost, no power switch moves and no context changes its
Sieve. -/
structure Chip.onLinks {α β : Type} (p : Lane → α) (q : Link → β) (parts : List Part) (K : Nat → Prop) (c d : Chip) :
    Prop where
  out : d.out = c.out
  fix : d.fix = c.fix
  parts : Chip.only parts c d
  regs : Chip.regsBut K c d
  events : Chip.eventsKept c d
  pwr : d.sys.pwr = c.sys.pwr
  svOf : ∀ k, d.svOf k = c.svOf k
  lanesLength : d.beam.lanes.length = c.beam.lanes.length
  linksLength : d.beam.links.length = c.beam.links.length
  lanes : ∀ k, p (d.lane k) = p (c.lane k)
  links : ∀ k, q (d.link k) = q (c.link k)

section
variable {α β : Type} {p : Lane → α} {q : Link → β} {parts : List Part} {K : Nat → Prop}

theorem onLinks_refl (c : Chip) : Chip.onLinks p q parts K c c :=
  ⟨rfl, rfl, only_refl _ c, fun _ _ => rfl, fun _ h => h, rfl, fun _ => rfl, rfl, rfl, fun _ => rfl, fun _ => rfl⟩

theorem onLinks_trans {a b c : Chip} (h : Chip.onLinks p q parts K a b) (k : Chip.onLinks p q parts K b c) :
    Chip.onLinks p q parts K a c where
  out := k.out.trans h.out
  fix := k.fix.trans h.fix
  parts := only_trans h.parts k.parts
  regs g hg := (k.regs g hg).trans (h.regs g hg)
  events e he := k.events e (h.events e he)
  pwr := k.pwr.trans h.pwr
  svOf j := (k.svOf j).trans (h.svOf j)
  lanesLength := k.lanesLength.trans h.lanesLength
  linksLength := k.linksLength.trans h.linksLength
  lanes j := (k.lanes j).trans (h.lanes j)
  links j := (k.links j).trans (h.links j)

/-- The next change finds every context bound as before. -/
theorem onLinks_next {a b c : Chip} {n v : Nat} (hv : a.svOf n = v) (h : Chip.onLinks p q parts K a b)
    (k : b.svOf n = v → Chip.onLinks p q parts K b c) : Chip.onLinks p q parts K a c :=
  onLinks_trans h (k ((h.svOf n).trans hv))

theorem onLinks_now {c d : Chip} (h : Chip.onLinks p q parts K c d) : d.now = c.now := by rw [Chip.now, h.fix, Chip.now]

theorem onLinks_alive {c d : Chip} (h : Chip.onLinks p q parts K c d) (hK : ¬ K Reg.TOP_DOMAIN_ON_on.key) (k : Nat) :
    d.alive k = c.alive k := by
  simp only [Chip.alive, Chip.shown, Chip.heldReset, h.regs _ hK, h.pwr]

/-- A change of registers alone. -/
theorem onLinks_regs {c : Chip} {r : Store} (h : Chip.regsBut K c { c with regs := r }) :
    Chip.onLinks p q parts K c { c with regs := r } :=
  ⟨rfl, rfl, only_regs _ c r, h, fun _ he => he, rfl, fun _ => rfl, rfl, rfl, fun _ => rfl, fun _ => rfl⟩

theorem onLinks_wr {f : Fld} (hf : K f.key) (v : Nat) (c : Chip) : Chip.onLinks p q parts K c (wr f v c) :=
  onLinks_regs (show Chip.regsBut K c (wr f v c) from fun g hg =>
    rd_wr_ne (fun e : g.key = f.key => hg (by rw [e]; exact hf)) v c)

theorem onLinks_wr2 {f g : Fld} (hf : K f.key) (hg : K g.key) (v : Nat) (c : Chip) :
    Chip.onLinks p q parts K c (wr2 f g v c) := onLinks_trans (onLinks_wr hf _ c) (onLinks_wr hg _ _)

theorem onLinks_ite {P : Prop} [Decidable P] {c a b : Chip} (ha : Chip.onLinks p q parts K c a)
    (hb : Chip.onLinks p q parts K c b) : Chip.onLinks p q parts K c (if P then a else b) := by
  split <;> assumption

theorem onLinks_when {b : Bool} {f : Chip → Chip} {c : Chip} (h : Chip.onLinks p q parts K c (f c)) :
    Chip.onLinks p q parts K c (when b f c) := by
  cases b
  · exact onLinks_refl c
  · exact h

theorem onLinks_inc {f g : Fld} (hf : K f.key) (hg : K g.key) (k : Nat) (c : Chip) :
    Chip.onLinks p q parts K c (inc f g k c) :=
  onLinks_ite (onLinks_wr hf _ c) (onLinks_trans (onLinks_wr hf _ c) (onLinks_wr hg _ _))

theorem onLinks_incBy {f g : Fld} (hf : K f.key) (hg : K g.key) (n k : Nat) (c : Chip) :
    Chip.onLinks p q parts K c (incBy n f g k c) :=
  onLinks_ite (onLinks_wr hf _ c) (onLinks_trans (onLinks_wr hf _ c) (onLinks_wr hg _ _))

theorem onLinks_incSat {f : Fld} (hf : K f.key) (c : Chip) : Chip.onLinks p q parts K c (incSat f c) :=
  onLinks_ite (onLinks_wr hf _ c) (onLinks_refl c)

theorem onLinks_forEach {γ : Type} (l : List γ) {f : γ → Chip → Chip}
    (h : ∀ x ∈ l, ∀ c, Chip.onLinks p q parts K c (f x c)) (c : Chip) : Chip.onLinks p q parts K c (forEach l f c) :=
  forEach_keeps (p := Chip.onLinks p q parts K c) l (fun x hx _ hd => onLinks_trans hd (h x hx _)) (onLinks_refl c)

/-- A change that leaves the beam side and the contexts. -/
theorem onLinks_of_quiet {c d : Chip} (hbeam : d.beam = c.beam) (himg : d.img = c.img) (hpwr : d.sys.pwr = c.sys.pwr)
    (hout : d.out = c.out) (hfix : d.fix = c.fix) (hparts : Chip.only parts c d) (hregs : Chip.regsBut K c d)
    (hevents : Chip.eventsKept c d) : Chip.onLinks p q parts K c d :=
  ⟨hout, hfix, hparts, hregs, hevents, hpwr, fun k => by rw [Chip.svOf, Chip.ctx, himg, Chip.svOf, Chip.ctx], by rw [hbeam],
    by rw [hbeam], fun k => by rw [Chip.lane, hbeam, Chip.lane], fun k => by rw [Chip.link, hbeam, Chip.link]⟩

theorem logQueue_pwr (cyc code inst : Nat) (par : List Byte) (c : Chip) :
    (logQueue cyc code inst par c).sys.pwr = c.sys.pwr := by
  unfold logQueue
  dsimp only
  split
  · rfl
  · rw [inc_sys]

theorem log_pwr (code inst : Nat) (par : List Byte) (c : Chip) : (log code inst par c).sys.pwr = c.sys.pwr := by
  unfold log logAt
  rw [logQueue_pwr]
  split
  · unfold snapTrigger
    split
    · rw [logQueue_pwr, incSat_sys]
    · rfl
  · rfl

theorem onLinks_log (hs : Part.sys ∈ parts) (hl : ∀ f ∈ logRegs, K f.key) (code inst : Nat) (par : List Byte) (c : Chip) :
    Chip.onLinks p q parts K c (log code inst par c) := by
  obtain ⟨hregs, -, hout, hfix, hevents⟩ := quiet_log (List.Subset.refl logRegs) code inst par c
  exact onLinks_of_quiet (log_beam _ _ _ c) (only_log (l := [.sys]) (by simp) code inst par c .img (by simp))
    (log_pwr _ _ _ c) hout hfix (only_log hs _ _ _ c) (regsBut_of_kept hregs hl) hevents

theorem onLinks_modLane (hb : Part.beam ∈ parts) {n : Nat} {f : Lane → Lane} (h : ∀ l, p (f l) = p l) (c : Chip) :
    Chip.onLinks p q parts K c (modLane n f c) :=
  ⟨rfl, rfl, only_beam hb c _, fun _ _ => rfl, fun _ he => he, rfl, fun _ => rfl, modAt_length _ _ _, rfl,
    fun k => modAt_getD_field h _ n k _, fun _ => rfl⟩

theorem onLinks_modLink (hb : Part.beam ∈ parts) {n : Nat} {f : Link → Link} (h : ∀ l, q (f l) = q l) (c : Chip) :
    Chip.onLinks p q parts K c (modLink n f c) :=
  ⟨rfl, rfl, only_beam hb c _, fun _ _ => rfl, fun _ he => he, rfl, fun _ => rfl, rfl, modAt_length _ _ _, fun _ => rfl,
    fun k => modAt_getD_field h _ n k _⟩

theorem onLinks_modFur (hb : Part.beam ∈ parts) (ch : Nat) (f : Furrow → Furrow) (c : Chip) :
    Chip.onLinks p q parts K c (modFur ch f c) :=
  ⟨rfl, rfl, only_beam hb c _, fun _ _ => rfl, fun _ he => he, rfl, fun _ => rfl, rfl, rfl, fun _ => rfl, fun _ => rfl⟩

theorem onLinks_modCtx (hi : Part.img ∈ parts) {n : Nat} {f : Ctx → Ctx} (h : ∀ x, (f x).sieve = x.sieve) (c : Chip) :
    Chip.onLinks p q parts K c (modCtx n f c) :=
  ⟨rfl, rfl, only_img hi c _, fun _ _ => rfl, fun _ he => he, rfl, fun k => modAt_getD_field h _ n k _, rfl, rfl,
    fun _ => rfl, fun _ => rfl⟩

theorem onLinks_modSieve (hi : Part.img ∈ parts) (v : Nat) (f : Sieve → Sieve) (c : Chip) :
    Chip.onLinks p q parts K c (modSieve v f c) :=
  ⟨rfl, rfl, only_img hi c _, fun _ _ => rfl, fun _ he => he, rfl, fun _ => rfl, rfl, rfl, fun _ => rfl, fun _ => rfl⟩

theorem onLinks_modCal (hs : Part.sys ∈ parts) (f : Cal → Cal) (c : Chip) :
    Chip.onLinks p q parts K c (modCal f c) :=
  ⟨rfl, rfl, only_sys hs c _, fun _ _ => rfl, fun _ he => he, rfl, fun _ => rfl, rfl, rfl, fun _ => rfl, fun _ => rfl⟩

theorem onLinks_sluice (hm : Part.mem ∈ parts) (req unit : Nat) (w : Bool) (a : Nat) (data : List Byte) (c : Chip) :
    Chip.onLinks p q parts K c (sluice req unit w a data c) :=
  ⟨rfl, rfl, only_mem hm c _, fun _ _ => rfl, fun _ he => he, rfl, fun _ => rfl, rfl, rfl, fun _ => rfl, fun _ => rfl⟩

theorem onLinks_draw (hf : Part.fresh ∈ parts) (c : Chip) : Chip.onLinks p q parts K c (draw c).2 :=
  ⟨rfl, rfl, only_fresh hf c _, fun _ _ => rfl, fun _ he => he, rfl, fun _ => rfl, rfl, rfl, fun _ => rfl, fun _ => rfl⟩

end

/-! ### From the effect of a command to the device that it leaves -/

theorem leaves_lane {c d e : Chip} (h : Chip.Leaves c d e) (n : Nat) : e.lane n = d.lane n := by
  rw [Chip.lane, h.parts .beam List.not_mem_nil, Chip.lane]

theorem leaves_link {c d e : Chip} (h : Chip.Leaves c d e) (n : Nat) : e.link n = d.link n := by
  rw [Chip.link, h.parts .beam List.not_mem_nil, Chip.link]

theorem leaves_rd {c d e : Chip} (h : Chip.Leaves c d e) {g : Fld} (hg : g.key ≠ Reg.GIO_STATUS_permit.key) :
    e.rd g = d.rd g := h.regs g fun _ hf => List.mem_singleton.1 hf ▸ hg

theorem leaves_logged {c d e : Chip} (h : Chip.Leaves c d e) {code inst : Nat} {par : List Byte}
    (hd : d.logged code inst par) : e.logged code inst par := by
  have hsys : e.sys = d.sys := h.parts .sys List.not_mem_nil
  exact logged_of_kept hd fun x hx => by rwa [hsys]

theorem leaves_regsBut {c d e : Chip} {K : Nat → Prop} (h : Chip.Leaves c d e) (hK : K Reg.GIO_STATUS_permit.key)
    (hd : Chip.regsBut K c d) : Chip.regsBut K c e :=
  fun g hg => (leaves_rd h fun e => hg (e ▸ hK)).trans (hd g hg)

/-- A command whose effect stays within a frame of the head links. -/
theorem ends_onLinks {α β : Type} {p : Lane → α} {q : Link → β} {i : Instr} {s : State} {f : Chip → Chip} {d : Chip}
    {parts : List Part} {K : Nat → Prop} {Q : State → Prop} (he : Instr.does i f s) (hp : s.core.sys.pwr.porst = false)
    (hf : f s.core.unsent = d) (h : Chip.onLinks p q parts K s.core.unsent d) (hK : K Reg.GIO_STATUS_permit.key)
    (hQ : ∀ t : State, Chip.Leaves s.core d t.core → t.core.out = [] → Chip.only parts s.core t.core →
      Chip.regsBut K s.core t.core → Q t) : Ends i s Q := by
  obtain ⟨e, hex, hl, hout⟩ := does_leaves he hp
  rw [show f { s.core with out := [] } = d from hf] at hl hout
  exact ⟨_, hex, hQ _ hl (hout.trans h.out)
    (only_trans (only_trans (only_out _ _ []) h.parts) (only_mono hl.parts (List.nil_subset _)))
    (leaves_regsBut hl hK h.regs)⟩

end Sys2Proof.Machine
end

section
/-! Faults of a link and the lock of a lane (06_glelin_links.md, R203–R207, R212): what each step writes, what it leaves, and
the state that it ends in. -/

namespace Sys2Proof.Machine

open Sys2Proof

theorem when_true (f : Chip → Chip) (c : Chip) : when true f c = f c := rfl
theorem when_false (f : Chip → Chip) (c : Chip) : when false f c = c := rfl

/-! ### Registers -/

/-- The registers of the fault of a channel's link (R148, R207, R212). -/
def lostRegs (ch : Nat) : List Fld :=
  [Reg.GLK_STATUS_up (2 * ch + 1), Reg.GLK_STATUS_link_fault (2 * ch + 1), Reg.GLK_STATUS_loss_cause (2 * ch + 1),
    Reg.FUR_FAULT_cause ch, Reg.FUR_FAULT_fault_seq ch] ++ logRegs

/-- The registers of the fault that a head lane brings on its link; the lanes of the overview cameras have no link. -/
def linkFaultRegs (n : Nat) : List Fld := if n < 48 then lostRegs (n / 2) else []

/-- The registers of a lane that goes back to HUNT. -/
def huntRegs (n : Nat) : List Fld := Reg.GLK_STATUS_state n :: linkFaultRegs n

/-- The registers of a bad frame on a lane. -/
def badRegs (n : Nat) : List Fld := Reg.GLK_STATUS_bad_run n :: huntRegs n

/-- The registers of a marker that is missing on a lane. -/
def missRegs (n : Nat) : List Fld := Reg.GLK_MISS_count n :: Reg.GLK_STICKY_sat n :: badRegs n

/-- The registers of a good frame on a lane. -/
def goodRegs (n : Nat) : List Fld :=
  [Reg.GLK_STATUS_bad_run n, Reg.GLK_FRAMES_count n, Reg.GLK_STICKY_sat n, Reg.GLK_STATUS_state n]

/-- The registers that the coding of a frame counts in. -/
def codingRegs (n : Nat) : List Fld :=
  [Reg.GLK_FILL_last n, Reg.GLK_FILL_least n, Reg.GLK_STUFF_ERR_count n, Reg.GLK_STICKY_sat n, Reg.GLK_CRC_ERR_count n]

theorem logRegs_lost (ch : Nat) : logRegs ⊆ lostRegs ch := List.subset_append_right _ _
theorem linkFaultRegs_head {n : Nat} (h : n < 48) : linkFaultRegs n = lostRegs (n / 2) := if_pos h
theorem fault_hunt (n : Nat) : linkFaultRegs n ⊆ huntRegs n := List.subset_cons_self _ _
theorem hunt_bad (n : Nat) : huntRegs n ⊆ badRegs n := List.subset_cons_self _ _
theorem bad_miss (n : Nat) : badRegs n ⊆ missRegs n := fun _ h => List.mem_cons_of_mem _ (List.mem_cons_of_mem _ h)

/-- A field of the registers of lane `n` but its state, its run of bad frames, and what the fault of a link shows in. -/
abbrev Fld.ofLane (n : Nat) (f : Fld) : Prop := f.lo < 32 ∧ 0x140000 + n * 0x400 ≤ f.addr ∧ f.addr < 0x140400 + n * 0x400

theorem lostRegs_addr {ch : Nat} : ∀ f ∈ lostRegs ch, f.lo < 32 ∧
    ((f.addr = 0x140404 + ch * 0x800 ∧ (f.lo = 8 ∨ f.lo = 9 ∨ f.lo = 16)) ∨ f.addr = 0x100004 + ch * 0x1000 ∨
      f.addr < 0x60000) := by
  simp only [lostRegs, logRegs, List.cons_append, List.nil_append, List.forall_mem_cons, Reg.GLK_STATUS_up,
    Reg.GLK_STATUS_link_fault, Reg.GLK_STATUS_loss_cause, Reg.FUR_FAULT_cause, Reg.FUR_FAULT_fault_seq,
    Reg.CRK_DROPPED_count, Reg.CRK_STICKY_sat, Reg.SNP_MISSED_value, true_or, or_true, and_true]
  refine ⟨?_, ?_, ?_, ?_, ?_, ?_, ?_, ?_, by simp⟩ <;> omega

theorem linkFaultRegs_of_lost {n : Nat} {P : Fld → Prop} (h : ∀ f ∈ lostRegs (n / 2), P f) : ∀ f ∈ linkFaultRegs n, P f := by
  unfold linkFaultRegs
  split
  · exact h
  · simp

/-- A lane's field other than up, link_fault and loss_cause is none of the registers of a link's fault. -/
theorem lane_not_lost {ch : Nat} {g : Fld} (hg : g.lo < 32 ∧ 0x140000 ≤ g.addr)
    (h : g.addr ≠ 0x140404 + ch * 0x800 ∨ (g.lo ≠ 8 ∧ g.lo ≠ 9 ∧ g.lo ≠ 16)) (hch : ch < 64) :
    ∀ f ∈ lostRegs ch, f.key ≠ g.key := by
  intro f hf
  have := lostRegs_addr f hf
  simp only [Fld.key]
  omega

/-- A field of the registers of furrow `ch`. -/
abbrev Fld.ofFur (ch : Nat) (f : Fld) : Prop := f.lo < 32 ∧ 0x100000 + ch * 0x1000 ≤ f.addr ∧ f.addr < 0x101000 + ch * 0x1000

/-- `K` holds of the registers of lane `n`. -/
def Keys.lane (K : Nat → Prop) (n : Nat) : Prop := ∀ f, Fld.ofLane n f → K f.key

/-- `K` holds of what a receive lane may change: its registers, those of an event, and those of its channel's fault. -/
structure Keys.rx (K : Nat → Prop) (n : Nat) : Prop where
  lane : Keys.lane K n
  log : ∀ f ∈ logRegs, K f.key
  head : n < 48 → n % 2 = 1 ∧ ∀ f, Fld.ofFur (n / 2) f → K f.key

section
variable {K : Nat → Prop} {n : Nat}

theorem lostRegs_rx (hr : Keys.rx K n) (hn : n < 48) : ∀ f ∈ lostRegs (n / 2), K f.key := by
  obtain ⟨hodd, hfur⟩ := hr.head hn
  have hlane : Keys.lane K (2 * (n / 2) + 1) := by rw [show 2 * (n / 2) + 1 = n by omega]; exact hr.lane
  refine List.forall_mem_append.2 ⟨?_, hr.log⟩
  simp only [List.forall_mem_cons]
  refine ⟨hlane _ ?_, hlane _ ?_, hlane _ ?_, hfur _ ?_, hfur _ ?_, by simp⟩
  · simp [Fld.ofLane, Reg.GLK_STATUS_up]
  · simp [Fld.ofLane, Reg.GLK_STATUS_link_fault]
  · simp [Fld.ofLane, Reg.GLK_STATUS_loss_cause]
  · simp [Fld.ofFur, Reg.FUR_FAULT_cause]
  · simp [Fld.ofFur, Reg.FUR_FAULT_fault_seq]

theorem huntRegs_rx (hr : Keys.rx K n) : ∀ f ∈ huntRegs n, K f.key := by
  refine List.forall_mem_cons.2 ⟨hr.lane _ (by simp [Fld.ofLane, Reg.GLK_STATUS_state]), ?_⟩
  by_cases hn : n < 48
  · rw [linkFaultRegs_head hn]
    exact lostRegs_rx hr hn
  · simp [linkFaultRegs, hn]

theorem badRegs_rx (hr : Keys.rx K n) : ∀ f ∈ badRegs n, K f.key :=
  List.forall_mem_cons.2 ⟨hr.lane _ (by simp [Fld.ofLane, Reg.GLK_STATUS_bad_run]), huntRegs_rx hr⟩

theorem missRegs_rx (hr : Keys.rx K n) : ∀ f ∈ missRegs n, K f.key :=
  List.forall_mem_cons.2 ⟨hr.lane _ (by simp [Fld.ofLane, Reg.GLK_MISS_count]),
    List.forall_mem_cons.2 ⟨hr.lane _ (by simp [Fld.ofLane, Reg.GLK_STICKY_sat]), badRegs_rx hr⟩⟩

theorem goodRegs_lane (hr : Keys.lane K n) : ∀ f ∈ goodRegs n, K f.key := by
  refine fun f hf => hr f ?_
  revert f
  simp [goodRegs, Fld.ofLane, Reg.GLK_STATUS_bad_run, Reg.GLK_FRAMES_count, Reg.GLK_STICKY_sat, Reg.GLK_STATUS_state]

theorem codingRegs_lane (hr : Keys.lane K n) : ∀ f ∈ codingRegs n, K f.key := by
  refine fun f hf => hr f ?_
  revert f
  simp [codingRegs, Fld.ofLane, Reg.GLK_FILL_last, Reg.GLK_FILL_least, Reg.GLK_STUFF_ERR_count, Reg.GLK_STICKY_sat,
    Reg.GLK_CRC_ERR_count]

end

theorem among_of_range {l : List Fld} {r : List (Nat × Nat)} {f : Fld} {q : Nat × Nat} (hq : q ∈ r) (hlo : f.lo < 32)
    (h : q.1 ≤ f.addr) (h' : f.addr < q.2) : Fld.among l r f.key :=
  .inr ⟨q, hq, by unfold Fld.key; omega, by unfold Fld.key; omega⟩

/-- A register of another lane is none of a lane's own. -/
theorem lane_apart {n k : Nat} {g : Fld} (hg : Fld.ofLane k g) (h : n ≠ k) : Keys.lane (· ≠ g.key) n := by
  intro f hf
  simp only [Fld.key]
  omega

/-! ### A link faults (R207, R212) -/

section
variable {α β : Type} {p : Lane → α} {q : Link → β} {parts : List Part} {K : Nat → Prop}

theorem onLinks_furFault (hb : Part.beam ∈ parts) (hs : Part.sys ∈ parts) {ch : Nat}
    (hr : ∀ f ∈ Reg.FUR_FAULT_cause ch :: Reg.FUR_FAULT_fault_seq ch :: logRegs, K f.key) (cause seq idx : Nat)
    (c : Chip) : Chip.onLinks p q parts K c (furFault ch cause seq idx c) := by
  obtain ⟨hcause, hr⟩ := List.forall_mem_cons.1 hr
  obtain ⟨hseq, hlog⟩ := List.forall_mem_cons.1 hr
  have hask (d : Chip) : Chip.onLinks p q parts K d
      (if d.chState ch ≥ 6 then d else askQuench ch (d.now + 1) quenchOwnFault cause d) :=
    onLinks_ite (onLinks_refl d) (onLinks_modFur hb ch _ d)
  have hshown := onLinks_trans (onLinks_wr (p := p) (q := q) (parts := parts) hcause cause c)
    (onLinks_trans (onLinks_wr hseq seq _) (hask _))
  exact onLinks_ite (onLinks_refl c) (onLinks_ite hshown (onLinks_trans hshown (onLinks_log hs hlog _ _ _ _)))

theorem onLinks_linkLost (hb : Part.beam ∈ parts) (hs : Part.sys ∈ parts) {ch : Nat}
    (hr : ∀ f ∈ lostRegs ch, K f.key) (cause : Nat) (c : Chip) :
    Chip.onLinks p q parts K c (linkLost ch cause c) := by
  simp only [lostRegs, List.cons_append, List.nil_append, List.forall_mem_cons (a := Reg.GLK_STATUS_up _),
    List.forall_mem_cons (a := Reg.GLK_STATUS_link_fault _), List.forall_mem_cons (a := Reg.GLK_STATUS_loss_cause _)] at hr
  obtain ⟨hup, hfault, hcause, hfur⟩ := hr
  have hlog : ∀ f ∈ logRegs, K f.key := fun f hf => hfur f (List.mem_cons_of_mem _ (List.mem_cons_of_mem _ hf))
  exact onLinks_ite (onLinks_refl c) <| onLinks_trans (onLinks_wr hup _ c) <| onLinks_trans (onLinks_wr hfault _ _) <|
    onLinks_trans (onLinks_wr hcause _ _) <| onLinks_trans (onLinks_log hs hlog _ _ _ _) <|
    onLinks_when (onLinks_furFault hb hs hfur _ _ _ _)

/-- A lane that goes back to HUNT forgets its good frames and its missing markers. -/
theorem onLinks_laneHunt (hp : ∀ (l : Lane) good miss, p { l with good := good, miss := miss } = p l)
    (hb : Part.beam ∈ parts) (hs : Part.sys ∈ parts) {n : Nat} (hr : ∀ f ∈ huntRegs n, K f.key) (c : Chip) :
    Chip.onLinks p q parts K c (laneHunt n c) := by
  obtain ⟨hstate, hfault⟩ := List.forall_mem_cons.1 hr
  have hstart := onLinks_trans (onLinks_wr (p := p) (q := q) (parts := parts) hstate 1 c)
    (onLinks_modLane (n := n) hb (fun l => hp l 0 0) _)
  by_cases hn : n < 48
  · exact onLinks_trans hstart (onLinks_when (onLinks_linkLost hb hs (linkFaultRegs_head hn ▸ hfault) 1 _))
  · simp only [laneHunt, hn, decide_false, Bool.and_false, Bool.false_and, when_false]
    exact hstart

theorem onLinks_laneBad (hp : ∀ (l : Lane) good miss, p { l with good := good, miss := miss } = p l)
    (hb : Part.beam ∈ parts) (hs : Part.sys ∈ parts) {n : Nat} (hr : ∀ f ∈ badRegs n, K f.key) (c : Chip) :
    Chip.onLinks p q parts K c (laneBad n c) := by
  obtain ⟨hrun, hhunt⟩ := List.forall_mem_cons.1 hr
  have hback (d : Chip) : Chip.onLinks p q parts K d (if d.laneState n = 2 then laneHunt n d else d) :=
    onLinks_ite (onLinks_laneHunt hp hb hs hhunt d) (onLinks_refl d)
  have hstep := onLinks_trans (onLinks_wr (p := p) (q := q) (parts := parts) hrun
    (satU 4 (c.rd (Reg.GLK_STATUS_bad_run n) + 1)) c) (hback _)
  by_cases hn : n < 48
  · have hlost : ∀ f ∈ lostRegs (n / 2), K f.key := fun f hf => hhunt f (fault_hunt n (linkFaultRegs_head hn ▸ hf))
    exact onLinks_ite (onLinks_trans hstep (onLinks_linkLost hb hs hlost 2 _)) hstep
  · simp only [laneBad, hn, false_and, if_false]
    exact hstep

theorem onLinks_laneGood (hp : ∀ (l : Lane) good, p { l with good := good } = p l) (hb : Part.beam ∈ parts) {n : Nat}
    (hr : ∀ f ∈ goodRegs n, K f.key) (c : Chip) : Chip.onLinks p q parts K c (laneGood n c) := by
  simp only [goodRegs, List.forall_mem_cons] at hr
  obtain ⟨hrun, hframes, hsticky, hstate, -⟩ := hr
  have hcount := onLinks_trans (onLinks_wr (p := p) (q := q) (parts := parts) hrun 0 c)
    (onLinks_inc hframes hsticky 0 _)
  have hup (k : Nat) (d : Chip) : Chip.onLinks p q parts K d (modLane n (fun l => { l with good := k }) d) :=
    onLinks_modLane hb (fun l => hp l k) d
  exact onLinks_ite (onLinks_ite (onLinks_trans hcount (onLinks_trans (hup _ _) (onLinks_wr hstate _ _)))
    (onLinks_trans hcount (hup _ _))) hcount

theorem onLinks_markerFound (hp : ∀ (l : Lane) good miss, p { l with good := good, miss := miss } = p l)
    (hb : Part.beam ∈ parts) {n : Nat} (hr : K (Reg.GLK_STATUS_state n).key) (c : Chip) :
    Chip.onLinks p q parts K c (markerFound n c) := by
  have hmiss := onLinks_modLane (n := n) (q := q) (K := K) hb (fun l => hp l l.good 0) c
  exact onLinks_ite (onLinks_trans hmiss (onLinks_trans (onLinks_wr hr _ _)
    (onLinks_modLane hb (fun l => hp l 0 l.miss) _))) hmiss

theorem onLinks_frameCounts {n : Nat} (hr : ∀ f ∈ codingRegs n, K f.key) (x : LineFrame) (c : Chip) :
    Chip.onLinks p q parts K c (frameCounts n x c) := by
  simp only [codingRegs, List.forall_mem_cons] at hr
  obtain ⟨hlast, hleast, hstuff, hsticky, hcrc, -⟩ := hr
  exact onLinks_trans (onLinks_wr hlast _ c) <| onLinks_trans (onLinks_wr hleast _ _) <|
    onLinks_trans (onLinks_when (onLinks_inc hstuff hsticky _ _)) (onLinks_when (onLinks_inc hcrc hsticky _ _))

theorem onLinks_linkEval (hb : Part.beam ∈ parts) (hs : Part.sys ∈ parts) {ch : Nat} (hr : ∀ f ∈ lostRegs ch, K f.key)
    (w : Nat) (echo : Bool) (c : Chip) : Chip.onLinks p q parts K c (linkEval ch w echo c) := by
  have hlost (k : Nat) := onLinks_linkLost (p := p) (q := q) hb hs hr k c
  have hup : K (Reg.GLK_STATUS_up (2 * ch + 1)).key := hr _ (by simp [lostRegs])
  have hlog : ∀ f ∈ logRegs, K f.key := fun f hf => hr f (logRegs_lost ch hf)
  exact onLinks_ite (onLinks_ite (hlost 4) (onLinks_ite (hlost 5) (onLinks_refl c)))
    (onLinks_ite (onLinks_trans (onLinks_wr hup _ c) (onLinks_log hs hlog _ _ _ _)) (onLinks_refl c))

end

/-! ### What the steps leave of a register -/

/-- What a frame leaves of one register: every register but it may change. -/
theorem rd_of_onLinks {α β : Type} {p : Lane → α} {q : Link → β} {parts : List Part} {g : Fld} {c d : Chip}
    (h : Chip.onLinks p q parts (· ≠ g.key) c d) : d.rd g = c.rd g := h.regs g (not_not.2 rfl)

section
variable {ch n : Nat} {g : Fld} {c : Chip}

theorem linkLost_rd (hg : ∀ f ∈ lostRegs ch, f.key ≠ g.key) (cause : Nat) : (linkLost ch cause c).rd g = c.rd g :=
  rd_of_onLinks (onLinks_linkLost (p := id) (q := id) (parts := [.beam, .sys]) (by simp) (by simp) hg cause c)

theorem laneHunt_rd (hg : ∀ f ∈ huntRegs n, f.key ≠ g.key) : (laneHunt n c).rd g = c.rd g :=
  rd_of_onLinks (onLinks_laneHunt (p := Lane.lastFrame) (q := id) (parts := [.beam, .sys]) (fun _ _ _ => rfl) (by simp)
    (by simp) hg c)

theorem laneBad_rd (hg : ∀ f ∈ badRegs n, f.key ≠ g.key) : (laneBad n c).rd g = c.rd g :=
  rd_of_onLinks (onLinks_laneBad (p := Lane.lastFrame) (q := id) (parts := [.beam, .sys]) (fun _ _ _ => rfl) (by simp)
    (by simp) hg c)

end

/-! ### Where the steps end -/

theorem satU_eq_min (w n : Nat) : satU w n = min n (2 ^ w - 1) := by
  unfold satU
  split <;> omega

theorem satU_mod (w n : Nat) : satU w n % 2 ^ w = min n (2 ^ w - 1) := by
  have := Nat.two_pow_pos w
  rw [satU_eq_min, Nat.mod_eq_of_lt (by omega)]

theorem flag_of_rd {c : Chip} {f : Fld} {v : Nat} (h : c.rd f = v) : c.flag f = (v != 0) := by rw [Chip.flag, h]

section
variable {ch : Nat} {c : Chip}

theorem lostRegs_apart (g : Fld) (hg : g.lo < 32 ∧ 0x140000 ≤ g.addr) (hch : ch < 64) :
    ∀ f ∈ Reg.FUR_FAULT_cause ch :: Reg.FUR_FAULT_fault_seq ch :: logRegs, f.key ≠ g.key := by
  simp only [logRegs, List.forall_mem_cons, Fld.key, Reg.FUR_FAULT_cause, Reg.FUR_FAULT_fault_seq,
    Reg.CRK_DROPPED_count, Reg.CRK_STICKY_sat, Reg.SNP_MISSED_value]
  refine ⟨?_, ?_, ?_, ?_, ?_, by simp⟩ <;> omega

/-- A link that was UP is down, with its fault shown. -/
theorem linkLost_fault (hch : ch < 64) (cause : Nat) (hup : c.linkUp ch = true) :
    (linkLost ch cause c).linkUp ch = false ∧ (linkLost ch cause c).flag (Reg.GLK_STATUS_link_fault (2 * ch + 1)) = true := by
  have hafter (g : Fld) (hg : g.lo < 32 ∧ 0x140000 ≤ g.addr) (d : Chip) (b : Bool) (x y : Nat) (code inst : Nat)
      (par : List Byte) :
      (when b (furFault ch faultLink x y) (log code inst par d)).rd g = d.rd g := by
    have hapart := lostRegs_apart g hg hch
    exact rd_of_onLinks <| onLinks_trans (onLinks_log (p := id) (q := id) (parts := [.beam, .sys]) (by simp)
      (fun f hf => hapart f (List.mem_cons_of_mem _ (List.mem_cons_of_mem _ hf))) _ _ _ _)
      (onLinks_when (onLinks_furFault (by simp) (by simp) hapart _ _ _ _))
  unfold linkLost
  simp only [hup, Bool.not_true, Bool.false_eq_true, if_false]
  constructor
  · refine (flag_of_rd (v := 0) ((hafter _ ?_ _ _ _ _ _ _ _).trans ?_)).trans (by simp)
    · simp only [Reg.GLK_STATUS_up]; omega
    · rw [rd_wr_ne (by simp only [Fld.key, Reg.GLK_STATUS_up, Reg.GLK_STATUS_loss_cause]; omega),
        rd_wr_ne (by simp only [Fld.key, Reg.GLK_STATUS_up, Reg.GLK_STATUS_link_fault]; omega), rd_wr_same, Nat.zero_mod]
  · refine (flag_of_rd (v := 1) ((hafter _ ?_ _ _ _ _ _ _ _).trans ?_)).trans (by simp)
    · simp only [Reg.GLK_STATUS_link_fault]; omega
    · rw [rd_wr_ne (by simp only [Fld.key, Reg.GLK_STATUS_link_fault, Reg.GLK_STATUS_loss_cause]; omega), rd_wr_same]
      rfl

theorem linkLost_down (hch : ch < 64) (cause : Nat) : (linkLost ch cause c).linkUp ch = false := by
  cases hup : c.linkUp ch
  · unfold linkLost
    simp only [hup, Bool.not_false, if_true]
  · exact (linkLost_fault hch cause hup).1

end

end Sys2Proof.Machine
end

section
/-! Where the steps of a lane's lock end (06_glelin_links.md, R204–R207): its state, its run of bad frames, its counters, and
its link. -/

namespace Sys2Proof.Machine

open Sys2Proof

theorem when_keeps {P : Chip → Prop} {b : Bool} {f : Chip → Chip} {c : Chip} (hf : P (f c)) (hc : P c) : P (when b f c) := by
  cases b
  · exact hc
  · exact hf

/-- Another counter of the same sticky register leaves an event counted. -/
theorem counted_inc_other {f g sticky : Fld} {j k : Nat} {c d : Chip} (h : Chip.counted f sticky k c d)
    (hg : f.key ≠ g.key) (hf : f.key ≠ sticky.key) (hs : sticky.key ≠ g.key) (hk : k < sticky.w) :
    Chip.counted f sticky k c (inc g sticky j d) := by
  obtain ⟨hcount, hsat⟩ := h
  unfold inc
  split
  · exact ⟨by rw [rd_wr_ne hg, hcount], fun ho => by rw [rd_wr_ne hs]; exact hsat ho⟩
  · refine ⟨by rw [rd_wr_ne hf, rd_wr_ne hg, hcount], fun ho => ?_⟩
    rw [rd_wr_same, bit_mod hk]
    have hold := hsat ho
    simp only [bit, withBit, if_true, Nat.testBit_or] at hold ⊢
    simp [hold]

/-- A frame that leaves a counter and its sticky bits leaves the events counted. -/
theorem counted_of_regsBut {f sticky : Fld} {k : Nat} {K : Nat → Prop} {a b c d : Chip}
    (h : Chip.counted f sticky k b c) (hb : b.rd f = a.rd f) (hd : Chip.regsBut K c d) (hf : ¬ K f.key)
    (hs : ¬ K sticky.key) : Chip.counted f sticky k a d := counted_congr h hb (hd _ hf) (hd _ hs)

section
variable {n ch : Nat} {c : Chip}

/-! ### Links -/

/-- A link is up, or its fault is shown. -/
abbrev Chip.linkShown (c : Chip) (ch : Nat) : Prop :=
  c.linkUp ch = true ∨ c.flag (Reg.GLK_STATUS_link_fault (2 * ch + 1)) = true

theorem linkLost_shown (hch : ch < 64) {cause : Nat} (h : c.linkShown ch) : (linkLost ch cause c).linkShown ch := by
  cases hup : c.linkUp ch
  · have hfault := h.resolve_left (by simp [hup])
    refine .inr ?_
    unfold linkLost
    simpa only [hup, Bool.not_false, if_true] using hfault
  · exact .inr (linkLost_fault hch cause hup).2

theorem linkLost_keeps_down {k : Nat} (hk : k < 64) (hch : ch < 64) {cause : Nat} (h : c.linkUp ch = false) :
    (linkLost k cause c).linkUp ch = false := by
  by_cases e : k = ch
  · subst e
    exact linkLost_down hk cause
  · rw [Chip.linkUp, Chip.flag, linkLost_rd]
    · exact h
    · refine lane_not_lost (by simp only [Reg.GLK_STATUS_up]; omega) (.inl ?_) hk
      simp only [Reg.GLK_STATUS_up]
      omega

theorem linkShown_of_rd {c d : Chip} (h : c.linkShown ch)
    (hup : d.rd (Reg.GLK_STATUS_up (2 * ch + 1)) = c.rd (Reg.GLK_STATUS_up (2 * ch + 1)))
    (hfault : d.rd (Reg.GLK_STATUS_link_fault (2 * ch + 1)) = c.rd (Reg.GLK_STATUS_link_fault (2 * ch + 1))) :
    d.linkShown ch := by
  unfold Chip.linkShown Chip.linkUp Chip.flag at *
  rw [hup, hfault]
  exact h

/-! ### HUNT -/

theorem laneState_not_lost (hn : n < 64) {k : Nat} (hk : k < 64) :
    ∀ f ∈ lostRegs k, f.key ≠ (Reg.GLK_STATUS_state n).key :=
  lane_not_lost (by simp only [Reg.GLK_STATUS_state]; omega) (.inr (by simp only [Reg.GLK_STATUS_state]; decide)) hk

theorem laneHunt_state (hn : n < 64) : (laneHunt n c).laneState n = 1 := by
  refine when_keeps (P := fun d => d.laneState n = 1) ?_ (rd_wr_same _ 1 c)
  exact (linkLost_rd (laneState_not_lost hn (by omega)) 1).trans (rd_wr_same _ 1 c)

theorem laneHunt_state_ne {k : Nat} (hn : n < 64) (hk : k < 64) (h : n ≠ k) :
    (laneHunt k c).laneState n = c.laneState n := by
  refine laneHunt_rd (List.forall_mem_cons.2 ⟨?_, linkFaultRegs_of_lost (laneState_not_lost hn (by omega))⟩)
  simp only [Fld.key, Reg.GLK_STATUS_state]
  omega

/-- The register of a lane's state shares none of its bits with a link's. -/
theorem laneHunt_start_rd (g : Fld) (hg : g.key ≠ (Reg.GLK_STATUS_state n).key) :
    (modLane n (fun l => { l with good := 0, miss := 0 }) (wr (Reg.GLK_STATUS_state n) 1 c)).rd g = c.rd g := rd_wr_ne hg 1 c

theorem up_not_state (n k : Nat) : (Reg.GLK_STATUS_up n).key ≠ (Reg.GLK_STATUS_state k).key := by
  simp only [Fld.key, Reg.GLK_STATUS_up, Reg.GLK_STATUS_state]
  omega

theorem fault_not_state (n k : Nat) : (Reg.GLK_STATUS_link_fault n).key ≠ (Reg.GLK_STATUS_state k).key := by
  simp only [Fld.key, Reg.GLK_STATUS_link_fault, Reg.GLK_STATUS_state]
  omega

theorem laneHunt_keeps_down (hn : n < 64) (hch : ch < 64) (h : c.linkUp ch = false) :
    (laneHunt n c).linkUp ch = false := by
  have hstart : (modLane n (fun l => { l with good := 0, miss := 0 }) (wr (Reg.GLK_STATUS_state n) 1 c)).linkUp ch = false := by
    rw [Chip.linkUp, Chip.flag, laneHunt_start_rd _ (up_not_state _ _)]
    exact h
  exact when_keeps (P := fun d => d.linkUp ch = false) (linkLost_keeps_down (by omega) hch hstart) hstart

theorem laneHunt_shown (hn : n < 64) (hch : ch = n / 2) (h : c.linkShown ch) : (laneHunt n c).linkShown ch := by
  have hstart := linkShown_of_rd h (laneHunt_start_rd (n := n) _ (up_not_state _ _))
    (laneHunt_start_rd (n := n) _ (fault_not_state _ _))
  subst hch
  exact when_keeps (P := fun d => d.linkShown (n / 2)) (linkLost_shown (by omega) hstart) hstart

/-- A LOCKED uplink that goes back to HUNT takes its link down. -/
theorem laneHunt_down (hn : n < 48) (hodd : n % 2 = 1) (hst : c.laneState n = 3) : (laneHunt n c).linkUp (n / 2) = false := by
  unfold laneHunt
  simp only [hst, hn, hodd, decide_true, Bool.and_self, when_true]
  exact linkLost_down (by omega) 1

/-! ### A bad frame -/

/-- What a bad frame has come to before the limit of a run is looked at. -/
def laneBadRun (n : Nat) (c : Chip) : Chip :=
  let c := wr (Reg.GLK_STATUS_bad_run n) (satU 4 (c.rd (Reg.GLK_STATUS_bad_run n) + 1)) c
  if c.laneState n = 2 then laneHunt n c else c

theorem laneBad_eq (n : Nat) (c : Chip) : laneBad n c =
    if n < 48 ∧ (laneBadRun n c).rd (Reg.GLK_STATUS_bad_run n) ≥ (laneBadRun n c).rd (Reg.GLK_CTL_err_limit n) then
      linkLost (n / 2) 2 (laneBadRun n c) else laneBadRun n c := rfl

theorem run_not_hunt (hn : n < 64) : ∀ f ∈ huntRegs n, f.key ≠ (Reg.GLK_STATUS_bad_run n).key := by
  refine List.forall_mem_cons.2 ⟨?_, linkFaultRegs_of_lost (lane_not_lost ?_ (.inr ?_) (by omega))⟩
  · simp only [Fld.key, Reg.GLK_STATUS_state, Reg.GLK_STATUS_bad_run]
    omega
  · simp only [Reg.GLK_STATUS_bad_run]
    omega
  · simp only [Reg.GLK_STATUS_bad_run]
    decide

theorem limit_not_bad (hn : n < 64) : ∀ f ∈ badRegs n, f.key ≠ (Reg.GLK_CTL_err_limit n).key := by
  refine List.forall_mem_cons.2 ⟨?_, List.forall_mem_cons.2 ⟨?_, linkFaultRegs_of_lost (lane_not_lost ?_ (.inl ?_) (by omega))⟩⟩ <;>
    simp only [Fld.key, Reg.GLK_STATUS_state, Reg.GLK_STATUS_bad_run, Reg.GLK_CTL_err_limit] <;> omega

theorem laneBadRun_rd {g : Fld} (hg : ∀ f ∈ badRegs n, f.key ≠ g.key) : (laneBadRun n c).rd g = c.rd g := by
  obtain ⟨hrun, hhunt⟩ := List.forall_mem_cons.1 hg
  unfold laneBadRun
  dsimp only
  split
  · rw [laneHunt_rd hhunt, rd_wr_ne hrun.symm]
  · rw [rd_wr_ne hrun.symm]

theorem state_not_run (n k : Nat) : (Reg.GLK_STATUS_state n).key ≠ (Reg.GLK_STATUS_bad_run k).key := by
  simp only [Fld.key, Reg.GLK_STATUS_state, Reg.GLK_STATUS_bad_run]
  omega

theorem laneBadRun_run (hn : n < 64) :
    (laneBadRun n c).rd (Reg.GLK_STATUS_bad_run n) = min (c.rd (Reg.GLK_STATUS_bad_run n) + 1) 15 := by
  have hset := (rd_wr_same (Reg.GLK_STATUS_bad_run n) (satU 4 (c.rd (Reg.GLK_STATUS_bad_run n) + 1)) c).trans (satU_mod 4 _)
  unfold laneBadRun
  dsimp only
  split
  · rw [laneHunt_rd (run_not_hunt hn)]
    exact hset
  · exact hset

theorem laneBadRun_state (hn : n < 64) :
    (laneBadRun n c).laneState n = if c.laneState n = 2 then 1 else c.laneState n := by
  have hkeep (v : Nat) : (wr (Reg.GLK_STATUS_bad_run n) v c).laneState n = c.laneState n := rd_wr_ne (state_not_run n n) v c
  unfold laneBadRun
  dsimp only
  rw [hkeep]
  split
  · exact laneHunt_state hn
  · exact hkeep _

theorem laneBad_run (hn : n < 64) :
    (laneBad n c).rd (Reg.GLK_STATUS_bad_run n) = min (c.rd (Reg.GLK_STATUS_bad_run n) + 1) 15 := by
  rw [laneBad_eq]
  split
  · rename_i hbad
    rw [linkLost_rd fun f hf => run_not_hunt hn f (fault_hunt n (linkFaultRegs_head hbad.1 ▸ hf)), laneBadRun_run hn]
  · exact laneBadRun_run hn

theorem laneBad_state (hn : n < 64) : (laneBad n c).laneState n = if c.laneState n = 2 then 1 else c.laneState n := by
  rw [laneBad_eq]
  split
  · exact (linkLost_rd (laneState_not_lost hn (by omega)) 2).trans (laneBadRun_state hn)
  · exact laneBadRun_state hn

/-- A run of err_limit takes the link down (R207). -/
theorem laneBad_down (hn : n < 48)
    (h : c.rd (Reg.GLK_CTL_err_limit n) ≤ min (c.rd (Reg.GLK_STATUS_bad_run n) + 1) 15) :
    (laneBad n c).linkUp (n / 2) = false := by
  rw [laneBad_eq, if_pos ⟨hn, by rw [laneBadRun_run (by omega), laneBadRun_rd (limit_not_bad (by omega))]; exact h⟩]
  exact linkLost_down (by omega) 2

theorem laneBad_shown (hn : n < 64) (h : c.linkShown (n / 2)) : (laneBad n c).linkShown (n / 2) := by
  have hrun : (laneBadRun n c).linkShown (n / 2) := by
    have hstart (v : Nat) : (wr (Reg.GLK_STATUS_bad_run n) v c).linkShown (n / 2) :=
      linkShown_of_rd h (rd_wr_ne (by simp only [Fld.key, Reg.GLK_STATUS_up, Reg.GLK_STATUS_bad_run]; omega) v c)
        (rd_wr_ne (by simp only [Fld.key, Reg.GLK_STATUS_link_fault, Reg.GLK_STATUS_bad_run]; omega) v c)
    unfold laneBadRun
    dsimp only
    split
    · exact laneHunt_shown hn rfl (hstart _)
    · exact hstart _
  rw [laneBad_eq]
  split
  · exact linkLost_shown (by omega) hrun
  · exact hrun

/-! ### A good frame -/

theorem laneGood_run : (laneGood n c).rd (Reg.GLK_STATUS_bad_run n) = 0 := by
  have hset : (inc (Reg.GLK_FRAMES_count n) (Reg.GLK_STICKY_sat n) 0 (wr (Reg.GLK_STATUS_bad_run n) 0 c)).rd
      (Reg.GLK_STATUS_bad_run n) = 0 :=
    (rd_of_onLinks (onLinks_inc (p := id) (q := id) (parts := [])
      (by simp only [Fld.key, Reg.GLK_FRAMES_count, Reg.GLK_STATUS_bad_run]; omega)
      (by simp only [Fld.key, Reg.GLK_STICKY_sat, Reg.GLK_STATUS_bad_run]; omega) 0 _)).trans (rd_wr_same _ 0 c)
  unfold laneGood
  dsimp only
  split
  · split
    · rw [rd_wr_ne (state_not_run n n).symm]
      exact hset
    · exact hset
  · exact hset

/-- Four good frames in a row make a lane in VERIFY LOCKED. -/
theorem laneGood_state :
    (laneGood n c).laneState n = if c.laneState n = 2 ∧ 3 ≤ (c.lane n).good then 3 else c.laneState n := by
  have hkeep : (inc (Reg.GLK_FRAMES_count n) (Reg.GLK_STICKY_sat n) 0 (wr (Reg.GLK_STATUS_bad_run n) 0 c)).laneState n =
      c.laneState n :=
    (rd_of_onLinks (onLinks_inc (p := id) (q := id) (parts := [])
      (by simp only [Fld.key, Reg.GLK_FRAMES_count, Reg.GLK_STATUS_state]; omega)
      (by simp only [Fld.key, Reg.GLK_STICKY_sat, Reg.GLK_STATUS_state]; omega) 0 _)).trans
      (rd_wr_ne (state_not_run n n) 0 c)
  have hgood : (inc (Reg.GLK_FRAMES_count n) (Reg.GLK_STICKY_sat n) 0 (wr (Reg.GLK_STATUS_bad_run n) 0 c)).lane n =
      c.lane n := by
    rw [Chip.lane, inc_beam, Chip.lane]
    rfl
  unfold laneGood
  dsimp only
  rw [hkeep, hgood]
  by_cases hst : c.laneState n = 2 <;> by_cases hg : 3 ≤ (c.lane n).good
  · rw [if_pos hst, if_pos (show (c.lane n).good + 1 ≥ 4 by omega), if_pos ⟨hst, hg⟩]
    exact rd_wr_same _ 3 _
  · rw [if_pos hst, if_neg (show ¬ (c.lane n).good + 1 ≥ 4 by omega), if_neg fun h => hg h.2]
    exact hkeep
  · rw [if_neg hst, if_neg fun h => hst h.1]
    exact hkeep
  · rw [if_neg hst, if_neg fun h => hst h.1]
    exact hkeep

theorem laneGood_counted : Chip.counted (Reg.GLK_FRAMES_count n) (Reg.GLK_STICKY_sat n) 0 c (laneGood n c) := by
  have hcount : Chip.counted (Reg.GLK_FRAMES_count n) (Reg.GLK_STICKY_sat n) 0 c
      (inc (Reg.GLK_FRAMES_count n) (Reg.GLK_STICKY_sat n) 0 (wr (Reg.GLK_STATUS_bad_run n) 0 c)) :=
    counted_congr (counted_inc (by simp only [Fld.key, Reg.GLK_FRAMES_count, Reg.GLK_STICKY_sat]; omega) (by simp [Reg.GLK_STICKY_sat]) _)
      (rd_wr_ne (by simp only [Fld.key, Reg.GLK_FRAMES_count, Reg.GLK_STATUS_bad_run]; omega) 0 c) rfl rfl
  unfold laneGood
  dsimp only
  split
  · split
    · exact counted_congr hcount rfl
        (rd_wr_ne (by simp only [Fld.key, Reg.GLK_FRAMES_count, Reg.GLK_STATUS_state]; omega) 3 _)
        (rd_wr_ne (by simp only [Fld.key, Reg.GLK_STICKY_sat, Reg.GLK_STATUS_state]; omega) 3 _)
    · exact hcount
  · exact hcount

/-! ### A marker found -/

theorem markerFound_state : (markerFound n c).laneState n = if c.laneState n = 1 then 2 else c.laneState n := by
  by_cases hst : c.laneState n = 1
  · have hfound : markerFound n c = modLane n (fun l => { l with good := 0 }) (wr (Reg.GLK_STATUS_state n) 2
        (modLane n (fun l => { l with miss := 0 }) c)) := if_pos hst
    rw [hfound, if_pos hst]
    exact rd_wr_same _ 2 _
  · have hfound : markerFound n c = modLane n (fun l => { l with miss := 0 }) c := if_neg hst
    rw [hfound, if_neg hst]
    rfl

theorem markerFound_good (hl : n < c.beam.lanes.length) :
    ((markerFound n c).lane n).good = if c.laneState n = 1 then 0 else (c.lane n).good := by
  by_cases hst : c.laneState n = 1
  · have hfound : markerFound n c = modLane n (fun l => { l with good := 0 }) (wr (Reg.GLK_STATUS_state n) 2
        (modLane n (fun l => { l with miss := 0 }) c)) := if_pos hst
    rw [hfound, if_pos hst, lane_modLane_same ((modAt_length _ _ _).symm ▸ hl)]
  · have hfound : markerFound n c = modLane n (fun l => { l with miss := 0 }) c := if_neg hst
    rw [hfound, if_neg hst, lane_modLane_same hl]

/-! ### The coding of a frame -/

theorem frameCounts_last (x : LineFrame) :
    (frameCounts n x c).rd (Reg.GLK_FILL_last n) = min x.gap 65535 := by
  have hincs (b d : Bool) (j k : Nat) (e : Chip) :
      (when b (inc (Reg.GLK_CRC_ERR_count n) (Reg.GLK_STICKY_sat n) j)
        (when d (inc (Reg.GLK_STUFF_ERR_count n) (Reg.GLK_STICKY_sat n) k) e)).rd (Reg.GLK_FILL_last n) =
        e.rd (Reg.GLK_FILL_last n) := by
    refine rd_of_onLinks (p := id) (q := id) (parts := []) (onLinks_trans (onLinks_when (onLinks_inc ?_ ?_ k e))
      (onLinks_when (onLinks_inc ?_ ?_ j _))) <;>
      simp only [Fld.key, Reg.GLK_STICKY_sat, Reg.GLK_CRC_ERR_count, Reg.GLK_STUFF_ERR_count, Reg.GLK_FILL_last] <;> omega
  refine (hincs _ _ 1 3 _).trans ?_
  rw [rd_wr_ne (by simp only [Fld.key, Reg.GLK_FILL_least, Reg.GLK_FILL_last]; omega), rd_wr_same]
  exact satU_mod 16 _

/-- A frame whose CRC-32C fails is counted. -/
theorem frameCounts_crc {x : LineFrame} (h : x.crcOk = false) :
    Chip.counted (Reg.GLK_CRC_ERR_count n) (Reg.GLK_STICKY_sat n) 1 c (frameCounts n x c) := by
  unfold frameCounts
  simp only [h, Bool.not_false, when_true]
  refine counted_congr (counted_inc (by simp only [Fld.key, Reg.GLK_CRC_ERR_count, Reg.GLK_STICKY_sat]; omega)
    (by simp [Reg.GLK_STICKY_sat]) _) ?_ rfl rfl
  refine rd_of_onLinks (p := id) (q := id) (parts := []) (onLinks_trans (onLinks_wr ?_ _ c) (onLinks_trans (onLinks_wr ?_ _ _)
    (onLinks_when (onLinks_inc ?_ ?_ 3 _)))) <;>
    simp only [Fld.key, Reg.GLK_CRC_ERR_count, Reg.GLK_STICKY_sat, Reg.GLK_FILL_last, Reg.GLK_FILL_least,
      Reg.GLK_STUFF_ERR_count] <;> omega

end

end Sys2Proof.Machine
end

section
/-! A marker that is missing (06_glelin_links.md, R204, R207) and MARKER_TIMEOUT. -/

namespace Sys2Proof.Machine

open Sys2Proof

section
variable {α β : Type} {p : Lane → α} {q : Link → β} {parts : List Part} {K : Nat → Prop}

theorem onLinks_modRx (hi : Part.img ∈ parts) (n : Nat) (f : RxFrame → RxFrame) (c : Chip) :
    Chip.onLinks p q parts K c (modRx n f c) :=
  onLinks_modCtx (f := fun x => { x with rx := x.rx.map f }) hi (fun _ => rfl) c

/-- A frame lost to a context marks at most the frame that it receives. -/
theorem onLinks_camWords_lost (hi : Part.img ∈ parts) (n : Nat) (c : Chip) :
    Chip.onLinks p q parts K c (camWords n false false none false [] c) := by
  unfold camWords
  refine onLinks_ite (onLinks_refl c) ?_
  split
  · exact onLinks_refl c
  · exact onLinks_ite (onLinks_modRx hi n _ c) (onLinks_refl c)

theorem onLinks_ovWords_lost (hi : Part.img ∈ parts) (n : Nat) (c : Chip) :
    Chip.onLinks p q parts K c (ovWords n false false none false [] c) :=
  onLinks_ite (onLinks_refl c) (onLinks_ite (onLinks_modRx hi n _ c) (onLinks_refl c))

/-- A missing marker counted, its frame lost to the lane's context. -/
def markerCounted (n : Nat) (c : Chip) : Chip :=
  let k := (c.lane n).miss + 1
  (if n < 48 then camWords (n / 2) else ovWords (24 + (n - 48) / 2)) false false none false []
    (inc (Reg.GLK_MISS_count n) (Reg.GLK_STICKY_sat n) 2 (modLane n (fun l => { l with miss := k }) c))

theorem markerMissing_eq (n : Nat) (c : Chip) : markerMissing n c =
    if (c.lane n).miss + 1 ≥ 2 ∧ (laneBad n (markerCounted n c)).laneState n = 3 then
      laneHunt n (laneBad n (markerCounted n c)) else laneBad n (markerCounted n c) := rfl

theorem onLinks_markerWords (hi : Part.img ∈ parts) (n : Nat) (c : Chip) :
    Chip.onLinks p q parts K c
      ((if n < 48 then camWords (n / 2) else ovWords (24 + (n - 48) / 2)) false false none false [] c) := by
  split
  · exact onLinks_camWords_lost hi _ c
  · exact onLinks_ovWords_lost hi _ c

theorem onLinks_markerCounted (hp : ∀ (l : Lane) good miss, p { l with good := good, miss := miss } = p l)
    (hb : Part.beam ∈ parts) (hi : Part.img ∈ parts) {n : Nat} (hmiss : K (Reg.GLK_MISS_count n).key)
    (hsticky : K (Reg.GLK_STICKY_sat n).key) (c : Chip) : Chip.onLinks p q parts K c (markerCounted n c) :=
  onLinks_trans (onLinks_modLane hb (fun l => hp l l.good _) c)
    (onLinks_trans (onLinks_inc hmiss hsticky 2 _) (onLinks_markerWords hi n _))

theorem onLinks_markerMissing (hp : ∀ (l : Lane) good miss, p { l with good := good, miss := miss } = p l)
    (hb : Part.beam ∈ parts) (hi : Part.img ∈ parts) (hs : Part.sys ∈ parts) {n : Nat} (hr : ∀ f ∈ missRegs n, K f.key)
    (c : Chip) : Chip.onLinks p q parts K c (markerMissing n c) := by
  have hbad : ∀ f ∈ badRegs n, K f.key := fun f hf => hr f (bad_miss n hf)
  have hstep := onLinks_trans
    (onLinks_markerCounted (n := n) (q := q) hp hb hi (hr _ (by simp [missRegs])) (hr _ (by simp [missRegs])) c)
    (onLinks_laneBad hp hb hs hbad _)
  rw [markerMissing_eq]
  exact onLinks_ite (onLinks_trans hstep (onLinks_laneHunt hp hb hs (fun f hf => hbad f (hunt_bad n hf)) _)) hstep

end

section
variable {n : Nat} {c : Chip}

theorem markerCounted_rd {g : Fld} (hmiss : (Reg.GLK_MISS_count n).key ≠ g.key) (hsticky : (Reg.GLK_STICKY_sat n).key ≠ g.key) :
    (markerCounted n c).rd g = c.rd g :=
  rd_of_onLinks (onLinks_markerCounted (p := Lane.lastFrame) (q := id) (parts := [.beam, .img]) (K := (· ≠ g.key))
    (fun _ _ _ => rfl) (by simp) (by simp) (n := n) hmiss hsticky c)

theorem markerCounted_counted : Chip.counted (Reg.GLK_MISS_count n) (Reg.GLK_STICKY_sat n) 2 c (markerCounted n c) := by
  have hwords (d : Chip) := onLinks_markerWords (p := id) (q := id) (K := fun _ => False) (List.mem_singleton.2 rfl) n d
  exact counted_of_regsBut (K := fun _ => False) (counted_inc
    (by simp only [Fld.key, Reg.GLK_MISS_count, Reg.GLK_STICKY_sat]; omega) (by simp [Reg.GLK_STICKY_sat])
    (modLane n (fun l => { l with miss := (c.lane n).miss + 1 }) c)) rfl (hwords _).regs not_false not_false

theorem count_not_bad (hn : n < 64) {g : Fld} (hg : g.lo < 32 ∧ 0x140000 ≤ g.addr ∧ ∀ k, g.addr ≠ 0x140004 + k * 0x400) :
    ∀ f ∈ badRegs n, f.key ≠ g.key := by
  obtain ⟨hlo, hpage, hstatus⟩ := hg
  have hown := hstatus n
  have hlink := hstatus (2 * (n / 2) + 1)
  refine List.forall_mem_cons.2 ⟨?_, List.forall_mem_cons.2 ⟨?_, linkFaultRegs_of_lost (lane_not_lost ⟨hlo, hpage⟩ (.inl ?_)
    (by omega))⟩⟩
  · simp only [Fld.key, Reg.GLK_STATUS_bad_run]
    omega
  · simp only [Fld.key, Reg.GLK_STATUS_state]
    omega
  · omega

theorem markerMissing_counted (hn : n < 64) :
    Chip.counted (Reg.GLK_MISS_count n) (Reg.GLK_STICKY_sat n) 2 c (markerMissing n c) := by
  have hmiss : ∀ f ∈ badRegs n, f.key ≠ (Reg.GLK_MISS_count n).key :=
    count_not_bad hn ⟨by simp [Reg.GLK_MISS_count], by simp only [Reg.GLK_MISS_count]; omega,
      fun k => by simp only [Reg.GLK_MISS_count]; omega⟩
  have hsticky : ∀ f ∈ badRegs n, f.key ≠ (Reg.GLK_STICKY_sat n).key :=
    count_not_bad hn ⟨by simp [Reg.GLK_STICKY_sat], by simp only [Reg.GLK_STICKY_sat]; omega,
      fun k => by simp only [Reg.GLK_STICKY_sat]; omega⟩
  have hbad := counted_congr (markerCounted_counted (n := n) (c := c)) rfl (laneBad_rd hmiss) (laneBad_rd hsticky)
  rw [markerMissing_eq]
  split
  · exact counted_congr hbad rfl (laneHunt_rd fun f hf => hmiss f (hunt_bad n hf))
      (laneHunt_rd fun f hf => hsticky f (hunt_bad n hf))
  · exact hbad

theorem markerCounted_status (g : Fld) (hg : g.addr = 0x140004 + n * 0x400) (hlo : g.lo < 32) :
    (markerCounted n c).rd g = c.rd g := by
  refine markerCounted_rd ?_ ?_ <;> simp only [Fld.key, Reg.GLK_MISS_count, Reg.GLK_STICKY_sat] <;> omega

theorem markerMissing_run (hn : n < 64) :
    (markerMissing n c).rd (Reg.GLK_STATUS_bad_run n) = min (c.rd (Reg.GLK_STATUS_bad_run n) + 1) 15 := by
  have hbad : (laneBad n (markerCounted n c)).rd (Reg.GLK_STATUS_bad_run n) =
      min (c.rd (Reg.GLK_STATUS_bad_run n) + 1) 15 := by
    rw [laneBad_run hn, markerCounted_status _ rfl (by simp [Reg.GLK_STATUS_bad_run])]
  rw [markerMissing_eq]
  split
  · rw [laneHunt_rd (run_not_hunt hn), hbad]
  · exact hbad

theorem markerCounted_state : (markerCounted n c).laneState n = c.laneState n :=
  markerCounted_status _ rfl (by simp [Reg.GLK_STATUS_state])

/-- VERIFY goes back to HUNT with the first missing marker, LOCKED with the second in a row. -/
theorem markerMissing_state (hn : n < 64) : (markerMissing n c).laneState n =
    if c.laneState n = 2 ∨ (c.laneState n = 3 ∧ 1 ≤ (c.lane n).miss) then 1 else c.laneState n := by
  have hbad : (laneBad n (markerCounted n c)).laneState n = if c.laneState n = 2 then 1 else c.laneState n := by
    rw [laneBad_state hn, markerCounted_state]
  rw [markerMissing_eq]
  split
  · rename_i h
    have hlocked : c.laneState n = 3 := by
      have := h.2
      rw [hbad] at this
      split at this <;> omega
    rw [laneHunt_state hn, if_pos (.inr ⟨hlocked, by omega⟩)]
  · rename_i h
    rw [hbad] at h ⊢
    split
    · rename_i hverify
      rw [if_pos (.inl hverify)]
    · rename_i hverify
      rw [if_neg hverify] at h
      exact (if_neg fun ho => ho.elim hverify fun hl => h ⟨by omega, hl.1⟩).symm

theorem markerMissing_down (hn : n < 48) (hodd : n % 2 = 1) (h : (c.laneState n = 3 ∧ 1 ≤ (c.lane n).miss) ∨
    c.rd (Reg.GLK_CTL_err_limit n) ≤ min (c.rd (Reg.GLK_STATUS_bad_run n) + 1) 15) :
    (markerMissing n c).linkUp (n / 2) = false := by
  have hstate : (laneBad n (markerCounted n c)).laneState n = if c.laneState n = 2 then 1 else c.laneState n := by
    rw [laneBad_state (by omega), markerCounted_state]
  have hlimit : (markerCounted n c).rd (Reg.GLK_CTL_err_limit n) = c.rd (Reg.GLK_CTL_err_limit n) := by
    refine markerCounted_rd ?_ ?_ <;>
      simp only [Fld.key, Reg.GLK_MISS_count, Reg.GLK_STICKY_sat, Reg.GLK_CTL_err_limit] <;> omega
  have hrun := markerCounted_status (n := n) (c := c) (Reg.GLK_STATUS_bad_run n) rfl (by simp [Reg.GLK_STATUS_bad_run])
  rw [markerMissing_eq]
  rcases h with hlost | hlimits
  · have hlocked : (laneBad n (markerCounted n c)).laneState n = 3 := by rw [hstate, if_neg (by omega), hlost.1]
    rw [if_pos ⟨by omega, hlocked⟩]
    exact laneHunt_down hn hodd hlocked
  · have hdown : (laneBad n (markerCounted n c)).linkUp (n / 2) = false :=
      laneBad_down hn (by rw [hlimit, hrun]; exact hlimits)
    split
    · exact laneHunt_keeps_down (by omega) (by omega) hdown
    · exact hdown

theorem markerMissing_shown (hn : n < 64) (h : c.linkShown (n / 2)) : (markerMissing n c).linkShown (n / 2) := by
  have hcounted : (markerCounted n c).linkShown (n / 2) := by
    refine linkShown_of_rd h (markerCounted_rd ?_ ?_) (markerCounted_rd ?_ ?_) <;>
      simp only [Fld.key, Reg.GLK_MISS_count, Reg.GLK_STICKY_sat, Reg.GLK_STATUS_up, Reg.GLK_STATUS_link_fault] <;> omega
  rw [markerMissing_eq]
  split
  · exact laneHunt_shown hn rfl (laneBad_shown hn hcounted)
  · exact laneBad_shown hn hcounted

end

/-! ### MARKER_TIMEOUT -/

theorem permit_not_lane {n : Nat} {g : Fld} (hn : n < 64) (h : Fld.ofLane n g) : g.key ≠ Reg.GIO_STATUS_permit.key := by
  obtain ⟨hlo, hlow, hhigh⟩ := h
  simp only [Fld.key, Reg.GIO_STATUS_permit]
  omega

theorem permit_among {r : List (Nat × Nat)} : Fld.among eventRegs r Reg.GIO_STATUS_permit.key := among_of_mem (by simp [eventRegs])

theorem logRegs_event : logRegs ⊆ eventRegs := List.subset_cons_self _ _

theorem odd_of_laneRx {n : Nat} (h : laneRx n = true) : n < 48 → n % 2 = 1 := by
  simp only [laneRx, Bool.or_eq_true, decide_eq_true_eq] at h
  omega

/-- A lane whose marker did not come, the beat noted on a head lane. -/
def markerAwaited (n : Nat) (c : Chip) : Chip :=
  if n < 48 then modLane n (fun l => { l with lastFrame := some c.now }) c else c

theorem markerAwaited_rd (n : Nat) (c : Chip) (g : Fld) : (markerAwaited n c).rd g = c.rd g := by
  unfold markerAwaited
  split <;> rfl

theorem markerAwaited_miss (n : Nat) (c : Chip) : ((markerAwaited n c).lane n).miss = (c.lane n).miss := by
  unfold markerAwaited
  split
  · exact modAt_getD_field (p := Lane.miss) (by intro _; rfl) _ n n _
  · rfl

theorem onLinks_markerAwaited {β : Type} {q : Link → β} {parts : List Part} {K : Nat → Prop} (hb : Part.beam ∈ parts)
    (n : Nat) (c : Chip) : Chip.onLinks (fun _ => ()) q parts K c (markerAwaited n c) :=
  onLinks_ite (onLinks_modLane hb (by intro _; rfl) c) (onLinks_refl c)

theorem execMarkerTimeout_does {n : Fin 52} {s : State} (hrx : laneRx n.val = true) (hon : s.core.on (laneDom n.val) = true)
    (hst : s.core.laneState n.val = 2 ∨ s.core.laneState n.val = 3)
    (hlast : n.val < 48 → (s.core.lane n.val).lastFrame ≠ some s.core.now)
    (hclock : 48 ≤ n.val → s.core.laneClock n.val = true) :
    ∃ f, Instr.does (.markerTimeout n) f s ∧ f s.core.unsent = markerMissing n.val (markerAwaited n.val s.core.unsent) := by
  refine ⟨_, .inl rfl, ?_⟩
  have halive : s.core.unsent.alive (laneDom n.val) = true := alive_of_on hon
  have hst' : s.core.unsent.laneState n.val = 2 ∨ s.core.unsent.laneState n.val = 3 := hst
  simp only [hrx, Bool.not_true, Bool.false_eq_true, if_false]
  by_cases hn : n.val < 48
  · have hodd : n.val = 2 * (n.val / 2) + 1 := by
      simp only [laneRx, Bool.or_eq_true, decide_eq_true_eq] at hrx
      omega
    have hlast' : ((s.core.unsent.lane n.val).lastFrame != some s.core.unsent.now) = true := bne_iff_ne.2 (hlast hn)
    have hverify : (s.core.unsent.laneState n.val == 2 || s.core.unsent.laneState n.val == 3) = true := by
      simpa [Bool.or_eq_true, beq_iff_eq] using hst'
    unfold uplinkMissed markerAwaited
    simp only [hn, if_true, ← hodd, halive, hverify, hlast', Bool.and_self]
  · have hhears : (s.core.unsent.laneHears n.val && s.core.unsent.laneState n.val != 1) = true := by
      have hclock' : s.core.unsent.laneClock n.val = true := hclock (by omega)
      rcases hst' with hst' | hst' <;> simp [Chip.laneHears, halive, hclock', hst']
    unfold markerAwaited
    simp only [hn, if_false, hhears, if_true]

/-- MARKER_TIMEOUT: the marker counts as missing and as a bad frame (R204, R207). -/
theorem markerTimeout_ends {s : State} (hp : s.core.sys.pwr.porst = false) {n : Fin 52} {l : Lane}
    (hrx : laneRx n.val = true) (hl : s.core.beam.lanes[n.val]? = some l) (hon : s.core.on (laneDom n.val) = true)
    (hst : s.core.laneState n.val = 2 ∨ s.core.laneState n.val = 3) (hlast : n.val < 48 → l.lastFrame ≠ some s.core.now)
    (hclock : 48 ≤ n.val → s.core.laneClock n.val = true) : Ends (.markerTimeout n) s fun t =>
      let c := s.core
      let ch := n.val / 2
      let lost := decide (c.laneState n.val = 3) && decide (1 ≤ l.miss)
      Chip.counted (Reg.GLK_MISS_count n.val) (Reg.GLK_STICKY_sat n.val) 2 c t.core ∧
      t.core.rd (Reg.GLK_STATUS_bad_run n.val) = min (c.rd (Reg.GLK_STATUS_bad_run n.val) + 1) 15 ∧
      t.core.laneState n.val = (if c.laneState n.val = 2 ∨ lost = true then 1 else 3) ∧
      (n.val < 48 → c.linkUp ch = true →
        lost = true ∨ c.rd (Reg.GLK_CTL_err_limit n.val) ≤ min (c.rd (Reg.GLK_STATUS_bad_run n.val) + 1) 15 →
        t.core.linkUp ch = false ∧ t.core.flag (Reg.GLK_STATUS_link_fault n.val) = true) ∧
      t.core.out = [] ∧ Chip.only [.beam, .img, .sys] c t.core ∧
      Chip.regsWithin eventRegs [(0x140000 + n.val * 0x400, 0x140400 + n.val * 0x400),
        (0x100000 + ch * 0x1000, 0x101000 + ch * 0x1000)] c t.core := by
  obtain ⟨hlane, -⟩ := lane_of_get hl
  have hodd := odd_of_laneRx hrx
  obtain ⟨f, hdoes, hf⟩ := execMarkerTimeout_does hrx hon hst (by rwa [hlane]) hclock
  have hr : Keys.rx (Fld.among eventRegs [(0x140000 + n.val * 0x400, 0x140400 + n.val * 0x400),
      (0x100000 + n.val / 2 * 0x1000, 0x101000 + n.val / 2 * 0x1000)]) n.val :=
    ⟨fun f hf => among_of_range List.mem_cons_self hf.1 hf.2.1 hf.2.2, fun f hf => among_of_mem (logRegs_event hf),
      fun hhead => ⟨hodd hhead, fun f hf =>
        among_of_range (List.mem_cons_of_mem _ List.mem_cons_self) hf.1 hf.2.1 hf.2.2⟩⟩
  have hframe := onLinks_trans (onLinks_markerAwaited (q := id) (parts := [.beam, .img, .sys]) (by simp) n.val s.core.unsent)
    (onLinks_markerMissing (fun _ _ _ => rfl) (by simp) (by simp) (by simp) (missRegs_rx hr) _)
  refine ends_onLinks hdoes hp hf hframe permit_among fun t hleaves hout hparts hregs => ?_
  have hrd {g : Fld} (hg : Fld.ofLane n.val g) := leaves_rd hleaves (permit_not_lane (by omega) hg)
  have hwas (g : Fld) : (markerAwaited n.val s.core.unsent).rd g = s.core.rd g := markerAwaited_rd _ _ g
  have hmiss : ((markerAwaited n.val s.core.unsent).lane n.val).miss = l.miss := by rw [markerAwaited_miss, ← hlane]; rfl
  have hstate : (markerAwaited n.val s.core.unsent).laneState n.val = s.core.laneState n.val := hwas _
  refine ⟨?_, ?_, ?_, ?_, hout, hparts, regsWithin_of_regsBut hregs⟩
  · exact counted_congr (markerMissing_counted (by omega)) (hwas _) (hrd (by simp [Fld.ofLane, Reg.GLK_MISS_count]))
      (hrd (by simp [Fld.ofLane, Reg.GLK_STICKY_sat]))
  · rw [hrd (by simp [Fld.ofLane, Reg.GLK_STATUS_bad_run]), markerMissing_run (by omega), hwas]
  · refine (hrd (by simp [Fld.ofLane, Reg.GLK_STATUS_state])).trans ((markerMissing_state (by omega)).trans ?_)
    rw [hmiss, hstate]
    rcases hst with hst | hst <;> simp [hst]
  · intro hhead hup hcause
    have hn := hodd hhead
    have hlink : n.val = 2 * (n.val / 2) + 1 := by omega
    have hdown : (markerMissing n.val (markerAwaited n.val s.core.unsent)).linkUp (n.val / 2) = false := by
      refine markerMissing_down hhead hn ?_
      rw [hmiss, hstate, hwas, hwas]
      simpa using hcause
    have hshown : (markerMissing n.val (markerAwaited n.val s.core.unsent)).linkShown (n.val / 2) :=
      markerMissing_shown (by omega) (.inl ((congrArg (· != 0) (hwas _)).trans hup))
    refine ⟨(congrArg (· != 0) (hrd ?_)).trans hdown, (congrArg (· != 0) (hrd ?_)).trans ?_⟩
    · rw [← hlink]; simp [Fld.ofLane, Reg.GLK_STATUS_up]
    · simp [Fld.ofLane, Reg.GLK_STATUS_link_fault]
    · have hfault := hshown.resolve_left (by simp [hdown])
      rwa [← hlink] at hfault

end Sys2Proof.Machine
end

section
/-! PRBS checkers (06_glelin_links.md, R211): PRBS_SYNC_CHANGE, and the test pattern of a beat. -/

namespace Sys2Proof.Machine

open Sys2Proof

theorem flag_wrB_same {f : Fld} (hw : 0 < f.w) (b : Bool) (c : Chip) : (wrB f b c).flag f = b := by
  rw [Chip.flag, rd_wrB_same f hw]
  cases b <;> rfl

theorem onLinks_wrB {α β : Type} {p : Lane → α} {q : Link → β} {parts : List Part} {K : Nat → Prop} {f : Fld}
    (hf : K f.key) (b : Bool) (c : Chip) : Chip.onLinks p q parts K c (wrB f b c) := onLinks_wr hf _ c

/-- The registers of a PRBS checker. -/
def prbsRegs (n : Nat) : List Fld :=
  [Reg.GLK_PRBS_STATUS_sync n, Reg.GLK_PRBS_BITS_LO_bits n, Reg.GLK_PRBS_BITS_HI_bits n, Reg.GLK_PRBS_ERR_count n,
    Reg.GLK_PRBS_STATUS_sync_losses n]

/-- The registers of a PRBS checker are five. -/
theorem prbsRegs_apart (n : Nat) : (prbsRegs n).Pairwise fun f g => f.key ≠ g.key := by
  simp [prbsRegs, Fld.key, Reg.GLK_PRBS_STATUS_sync, Reg.GLK_PRBS_BITS_LO_bits, Reg.GLK_PRBS_BITS_HI_bits,
    Reg.GLK_PRBS_ERR_count, Reg.GLK_PRBS_STATUS_sync_losses]
  omega

theorem prbs_ofLane {n : Nat} : ∀ f ∈ prbsRegs n, Fld.ofLane n f := by
  simp [prbsRegs, Fld.ofLane, Reg.GLK_PRBS_STATUS_sync, Reg.GLK_PRBS_BITS_LO_bits, Reg.GLK_PRBS_BITS_HI_bits,
    Reg.GLK_PRBS_ERR_count, Reg.GLK_PRBS_STATUS_sync_losses]

theorem sync_not_losses (n : Nat) : (Reg.GLK_PRBS_STATUS_sync n).key ≠ (Reg.GLK_PRBS_STATUS_sync_losses n).key := by
  simp [Fld.key, Reg.GLK_PRBS_STATUS_sync, Reg.GLK_PRBS_STATUS_sync_losses]

/-- A checker's sync turns: its run of bits begins anew, and a loss counts. -/
def prbsTurn (n : Nat) (sync : Bool) (c : Chip) : Chip :=
  modLane n (fun l => { l with chk := { l.chk with run := 0, pos := 0, errs := [] } }) c
    |> wrB (Reg.GLK_PRBS_STATUS_sync n) sync |> when (!sync) (incSat (Reg.GLK_PRBS_STATUS_sync_losses n))

theorem prbsSync_eq {n : Nat} {sync : Bool} {c : Chip} (hrx : laneRx n = true) (hst : c.laneState n = 4)
    (hon : c.on (laneDom n) = true) (hsync : c.flag (Reg.GLK_PRBS_STATUS_sync n) ≠ sync) :
    prbsSync n sync c = prbsTurn n sync c := by
  simp only [prbsSync, hrx, hst, alive_of_on hon, beq_eq_false_iff_ne.2 hsync]
  rfl

theorem prbsTurn_sync (n : Nat) (sync : Bool) (c : Chip) :
    (prbsTurn n sync c).flag (Reg.GLK_PRBS_STATUS_sync n) = sync := by
  have hset (d : Chip) : (wrB (Reg.GLK_PRBS_STATUS_sync n) sync d).flag (Reg.GLK_PRBS_STATUS_sync n) = sync :=
    flag_wrB_same (by simp [Reg.GLK_PRBS_STATUS_sync]) sync d
  refine when_keeps (P := fun d => d.flag (Reg.GLK_PRBS_STATUS_sync n) = sync) ?_ (hset _)
  rw [Chip.flag, rd_of_onLinks (onLinks_incSat (p := id) (q := id) (parts := [])
    (K := (· ≠ (Reg.GLK_PRBS_STATUS_sync n).key)) (sync_not_losses n).symm _)]
  exact hset _

theorem prbsTurn_losses (n : Nat) (sync : Bool) (c : Chip) :
    (prbsTurn n sync c).rd (Reg.GLK_PRBS_STATUS_sync_losses n) =
      if sync = false ∧ c.rd (Reg.GLK_PRBS_STATUS_sync_losses n) + 1 < 2 ^ 8 then
        c.rd (Reg.GLK_PRBS_STATUS_sync_losses n) + 1 else c.rd (Reg.GLK_PRBS_STATUS_sync_losses n) := by
  have hkeep (d : Chip) : (wrB (Reg.GLK_PRBS_STATUS_sync n) sync d).rd (Reg.GLK_PRBS_STATUS_sync_losses n) =
      d.rd (Reg.GLK_PRBS_STATUS_sync_losses n) := rd_wr_ne (sync_not_losses n).symm _ d
  cases sync
  · refine (rd_incSat_same _ _).trans ?_
    rw [hkeep]
    simp only [true_and]
    rfl
  · exact (hkeep _).trans (if_neg (by simp)).symm

theorem onLinks_prbsTurn {α β : Type} {p : Lane → α} {q : Link → β} {parts : List Part} {K : Nat → Prop}
    (hp : ∀ (l : Lane) chk, p { l with chk := chk } = p l) (hb : Part.beam ∈ parts) {n : Nat}
    (hsync : K (Reg.GLK_PRBS_STATUS_sync n).key) (hlosses : K (Reg.GLK_PRBS_STATUS_sync_losses n).key) (sync : Bool)
    (c : Chip) : Chip.onLinks p q parts K c (prbsTurn n sync c) :=
  onLinks_trans (onLinks_modLane hb (fun l => hp l { l.chk with run := 0, pos := 0, errs := [] }) c)
    (onLinks_trans (onLinks_wrB hsync sync _) (onLinks_when (onLinks_incSat hlosses _)))

/-- PRBS_SYNC_CHANGE: a checker shows its sync and counts its losses (R211). -/
theorem prbsSyncChange_ends {s : State} (hp : s.core.sys.pwr.porst = false) {n : Fin 52} {sync : Bool}
    (hrx : laneRx n.val = true) (hst : s.core.laneState n.val = 4) (hon : s.core.on (laneDom n.val) = true)
    (hsync : s.core.flag (Reg.GLK_PRBS_STATUS_sync n.val) ≠ sync) : Ends (.prbsSyncChange n sync) s fun t =>
      let c := s.core
      let k := c.rd (Reg.GLK_PRBS_STATUS_sync_losses n.val)
      t.core.flag (Reg.GLK_PRBS_STATUS_sync n.val) = sync ∧
      t.core.rd (Reg.GLK_PRBS_STATUS_sync_losses n.val) = (if sync = false ∧ k + 1 < 2 ^ 8 then k + 1 else k) ∧
      t.core.out = [] ∧ Chip.only [.beam] c t.core ∧ Chip.regsKept [Reg.GIO_STATUS_permit, Reg.GLK_PRBS_STATUS_sync n.val,
        Reg.GLK_PRBS_STATUS_sync_losses n.val] c t.core := by
  have hframe := onLinks_prbsTurn (p := fun _ => ()) (q := id) (parts := [.beam]) (n := n.val)
    (K := Fld.among [Reg.GIO_STATUS_permit, Reg.GLK_PRBS_STATUS_sync n.val, Reg.GLK_PRBS_STATUS_sync_losses n.val] [])
    (fun _ _ => rfl) (by simp) (among_of_mem (by simp)) (among_of_mem (by simp)) sync s.core.unsent
  refine ends_onLinks (.inl rfl) hp (prbsSync_eq hrx hst hon hsync) hframe (among_of_mem (by simp))
    fun t hleaves hout hparts hregs => ?_
  have hrd {g : Fld} (hg : g ∈ prbsRegs n.val) := leaves_rd hleaves (permit_not_lane (n := n.val) (by omega) (prbs_ofLane g hg))
  refine ⟨(congrArg (· != 0) (hrd (by simp [prbsRegs]))).trans (prbsTurn_sync _ _ _), ?_, hout, hparts,
    regsKept_of_regsBut hregs⟩
  exact (hrd (by simp [prbsRegs])).trans (prbsTurn_losses _ _ _)

/-! ### The test pattern of a beat -/

/-- What a lane's checker makes of the line bits of a beat (R211). -/
def checked (n : Nat) (line : List Bool) (c : Chip) : CheckRun :=
  line.foldl (fun x l => checkBit (c.rd (Reg.GLK_TEST_mode n)) x (l != c.flag (Reg.GLK_CTL_polarity n)))
    ⟨(c.lane n).chk, c.flag (Reg.GLK_PRBS_STATUS_sync n), 0, 0, 0⟩

theorem checkLine_eq (n : Nat) (line : List Bool) (c : Chip) : checkLine n line c =
    wr (Reg.GLK_PRBS_STATUS_sync_losses n) (min 255 (c.rd (Reg.GLK_PRBS_STATUS_sync_losses n) + (checked n line c).losses))
      (wr (Reg.GLK_PRBS_ERR_count n) (satU 32 (c.rd (Reg.GLK_PRBS_ERR_count n) + (checked n line c).errors))
        (wr2 (Reg.GLK_PRBS_BITS_LO_bits n) (Reg.GLK_PRBS_BITS_HI_bits n)
          (c.rd2 (Reg.GLK_PRBS_BITS_LO_bits n) (Reg.GLK_PRBS_BITS_HI_bits n) + (checked n line c).bits)
          (wrB (Reg.GLK_PRBS_STATUS_sync n) (checked n line c).sync
            (modLane n (fun l => { l with chk := (checked n line c).chk, checked := some c.now }) c)))) := rfl

theorem onLinks_checkLine {α β : Type} {p : Lane → α} {q : Link → β} {parts : List Part} {K : Nat → Prop}
    (hp : ∀ (l : Lane) chk at', p { l with chk := chk, checked := at' } = p l) (hb : Part.beam ∈ parts) {n : Nat}
    (hr : ∀ f ∈ prbsRegs n, K f.key) (line : List Bool) (c : Chip) :
    Chip.onLinks p q parts K c (checkLine n line c) := by
  simp only [prbsRegs, List.forall_mem_cons] at hr
  obtain ⟨hsync, hlow, hhigh, herr, hlosses, -⟩ := hr
  rw [checkLine_eq]
  exact onLinks_trans (onLinks_modLane hb (fun l => hp l (checked n line c).chk (some c.now)) c) <|
    onLinks_trans (onLinks_wrB hsync _ _) <| onLinks_trans (onLinks_wr2 hlow hhigh _ _) <|
    onLinks_trans (onLinks_wr herr _ _) (onLinks_wr hlosses _ _)

section
variable {n : Nat} {c : Chip} (line : List Bool)

theorem checkLine_chk (hl : n < c.beam.lanes.length) : ((checkLine n line c).lane n).chk = (checked n line c).chk :=
  congrArg Lane.chk (lane_modLane_same hl _)

theorem checkLine_sync : (checkLine n line c).flag (Reg.GLK_PRBS_STATUS_sync n) = (checked n line c).sync := by
  have hapart := prbsRegs_apart n
  simp only [prbsRegs, List.pairwise_cons, List.forall_mem_cons] at hapart
  obtain ⟨⟨hlow, hhigh, herr, hlosses, -⟩, -⟩ := hapart
  rw [checkLine_eq, Chip.flag, rd_wr_ne hlosses, rd_wr_ne herr, wr2, rd_wr_ne hhigh, rd_wr_ne hlow]
  exact flag_wrB_same (by simp [Reg.GLK_PRBS_STATUS_sync]) _ _

theorem checkLine_errors : (checkLine n line c).rd (Reg.GLK_PRBS_ERR_count n) =
    min (c.rd (Reg.GLK_PRBS_ERR_count n) + (checked n line c).errors) (2 ^ 32 - 1) := by
  rw [checkLine_eq, rd_wr_ne (by simp [Fld.key, Reg.GLK_PRBS_ERR_count, Reg.GLK_PRBS_STATUS_sync_losses]; omega), rd_wr_same]
  exact satU_mod 32 _

theorem checkLine_losses : (checkLine n line c).rd (Reg.GLK_PRBS_STATUS_sync_losses n) =
    min 255 (c.rd (Reg.GLK_PRBS_STATUS_sync_losses n) + (checked n line c).losses) := by
  rw [checkLine_eq, rd_wr_same]
  exact Nat.mod_eq_of_lt (Nat.lt_of_le_of_lt (Nat.min_le_left _ _) (by simp [Reg.GLK_PRBS_STATUS_sync_losses]))

end

/-- UPLINK_FRAME on a lane in TEST: the checker counts errors and losses (R211). -/
theorem uplinkTest_ends {s : State} (hp : s.core.sys.pwr.porst = false) {ch : Fin 24} {line : List Bool} {y : BitVec 16}
    {l : Lane} (hl : s.core.beam.lanes[2 * ch.val + 1]? = some l) (htest : s.core.laneTests (2 * ch.val + 1) = true) :
    Ends (.uplinkFrame ch line y) s fun t =>
      let c := s.core
      let n := 2 * ch.val + 1
      let r := line.foldl (fun x b => checkBit (c.rd (Reg.GLK_TEST_mode n)) x (b != c.flag (Reg.GLK_CTL_polarity n)))
        ⟨l.chk, c.flag (Reg.GLK_PRBS_STATUS_sync n), 0, 0, 0⟩
      (t.core.lane n).chk = r.chk ∧ t.core.flag (Reg.GLK_PRBS_STATUS_sync n) = r.sync ∧
      t.core.rd (Reg.GLK_PRBS_ERR_count n) = min (c.rd (Reg.GLK_PRBS_ERR_count n) + r.errors) (2 ^ 32 - 1) ∧
      t.core.rd (Reg.GLK_PRBS_STATUS_sync_losses n) = min 255 (c.rd (Reg.GLK_PRBS_STATUS_sync_losses n) + r.losses) ∧
      t.core.out = [] ∧ Chip.only [.beam] c t.core ∧ Chip.regsKept [Reg.GIO_STATUS_permit, Reg.GLK_PRBS_STATUS_sync n,
        Reg.GLK_PRBS_BITS_LO_bits n, Reg.GLK_PRBS_BITS_HI_bits n, Reg.GLK_PRBS_ERR_count n,
        Reg.GLK_PRBS_STATUS_sync_losses n] c t.core := by
  obtain ⟨hlane, hlen⟩ := lane_of_get hl
  have hframe := onLinks_checkLine (p := fun _ => ()) (q := id) (parts := [.beam])
    (K := Fld.among (Reg.GIO_STATUS_permit :: prbsRegs (2 * ch.val + 1)) []) (n := 2 * ch.val + 1) (fun _ _ _ => rfl) (by simp)
    (fun f hf => among_of_mem (List.mem_cons_of_mem _ hf)) line s.core.unsent
  have heff : uplink ch.val line y.toNat s.core.unsent = checkLine (2 * ch.val + 1) line s.core.unsent := if_pos htest
  refine ends_onLinks (.inl rfl) hp heff hframe (among_of_mem (by simp)) fun t hleaves hout hparts hregs => ?_
  have hrd {g : Fld} (hg : g ∈ prbsRegs (2 * ch.val + 1)) :=
    leaves_rd hleaves (permit_not_lane (n := 2 * ch.val + 1) (by omega) (prbs_ofLane g hg))
  have hrun : checked (2 * ch.val + 1) line s.core.unsent = line.foldl (fun x b =>
      checkBit (s.core.rd (Reg.GLK_TEST_mode (2 * ch.val + 1))) x (b != s.core.flag (Reg.GLK_CTL_polarity (2 * ch.val + 1))))
      ⟨l.chk, s.core.flag (Reg.GLK_PRBS_STATUS_sync (2 * ch.val + 1)), 0, 0, 0⟩ := by
    rw [← hlane]
    rfl
  dsimp only
  rw [← hrun]
  refine ⟨?_, ?_, ?_, ?_, hout, hparts, regsKept_of_regsBut hregs⟩
  · rw [leaves_lane hleaves]
    exact checkLine_chk line hlen
  · exact (congrArg (· != 0) (hrd (by simp [prbsRegs]))).trans (checkLine_sync line)
  · exact (hrd (by simp [prbsRegs])).trans (checkLine_errors line)
  · exact (hrd (by simp [prbsRegs])).trans (checkLine_losses line)

end Sys2Proof.Machine
end

section
/-! LANE_REF_LOSS and LANE_REF_RETURN (06_glelin_links.md, 18_resets_domains_faults.md, R497). -/

namespace Sys2Proof.Machine

open Sys2Proof

/-- The lanes that a reference clocks and that receive. -/
def refLanes (k : Nat) : List Nat := (List.range 52).filter fun n => n / 12 == k && laneRx n

/-- A receiver that has lost its reference goes back to HUNT. -/
def refHunt (n : Nat) (c : Chip) : Chip := if c.laneState n = 2 ∨ c.laneState n = 3 then laneHunt n c else c

/-- A lane reference shown as lost, and logged. -/
def refShown (k : Nat) (c : Chip) : Chip :=
  log 0x0108 0 (u8 (2 + k) ++ u8 0 ++ u16 0 ++ beat32 c.now)
    (wr Reg.PWR_CLOCK_lost (withBit (c.rd Reg.PWR_CLOCK_lost) (2 + k) true)
      (wr Reg.PWR_CLOCK_ok (withBit (c.rd Reg.PWR_CLOCK_ok) (2 + k) false) c))

theorem lrefLost_eq (k : Nat) (c : Chip) : lrefLost k c = forEach (refLanes k) refHunt (refShown k c) := rfl

theorem mem_refLanes {k n : Nat} : n ∈ refLanes k ↔ n < 52 ∧ n / 12 = k ∧ laneRx n = true := by
  simp [refLanes]

section
variable {k n : Nat} {c : Chip}

theorem refHunt_state (hn : n < 64) :
    (refHunt n c).laneState n = if c.laneState n = 2 ∨ c.laneState n = 3 then 1 else c.laneState n := by
  unfold refHunt
  split
  · exact laneHunt_state hn
  · rfl

theorem refHunt_state_ne {m : Nat} (hn : n < 64) (hm : m < 64) (h : m ≠ n) :
    (refHunt n c).laneState m = c.laneState m := by
  unfold refHunt
  split
  · exact laneHunt_state_ne hm hn h
  · rfl

theorem refHunt_keeps_down {ch : Nat} (hn : n < 64) (hch : ch < 64) (h : c.linkUp ch = false) :
    (refHunt n c).linkUp ch = false := by
  unfold refHunt
  split
  · exact laneHunt_keeps_down hn hch h
  · exact h

theorem refHunt_down (hn : n < 48) (hodd : n % 2 = 1) (hst : c.laneState n = 3) : (refHunt n c).linkUp (n / 2) = false := by
  unfold refHunt
  rw [if_pos (.inr hst)]
  exact laneHunt_down hn hodd hst

theorem onLinks_refHunt {α β : Type} {p : Lane → α} {q : Link → β} {parts : List Part} {K : Nat → Prop}
    (hp : ∀ (l : Lane) good miss, p { l with good := good, miss := miss } = p l)
    (hb : Part.beam ∈ parts) (hs : Part.sys ∈ parts) (hr : ∀ f ∈ huntRegs n, K f.key) (c : Chip) :
    Chip.onLinks p q parts K c (refHunt n c) := onLinks_ite (onLinks_laneHunt hp hb hs hr c) (onLinks_refl c)

/-! ### The lanes after a loss -/

theorem refHunts_state (hn : n < 52) : (forEach (refLanes k) refHunt c).laneState n =
    if n / 12 = k ∧ laneRx n = true ∧ (c.laneState n = 2 ∨ c.laneState n = 3) then 1 else c.laneState n := by
  have hlt {m : Nat} (hm : m ∈ refLanes k) : m < 64 := by have := (mem_refLanes.1 hm).1; omega
  by_cases hmem : n ∈ refLanes k
  · have hall := forEach_all (l := refLanes k) (f := refHunt)
      (inv := fun d => ∀ m ∈ refLanes k, d.laneState m = c.laneState m ∨
        d.laneState m = if c.laneState m = 2 ∨ c.laneState m = 3 then 1 else c.laneState m)
      (p := fun m d => d.laneState m = if c.laneState m = 2 ∨ c.laneState m = 3 then 1 else c.laneState m)
    have hset (x : Nat) (hx : x ∈ refLanes k) (d : Chip) (h : d.laneState x = c.laneState x ∨
        d.laneState x = if c.laneState x = 2 ∨ c.laneState x = 3 then 1 else c.laneState x) :
        (refHunt x d).laneState x = if c.laneState x = 2 ∨ c.laneState x = 3 then 1 else c.laneState x := by
      rw [refHunt_state (hlt hx)]
      split at h <;> split <;> omega
    have hend := hall (fun x hx d hd m hm => ?_) (fun x hx d hd => hset x hx d (hd x hx))
      (fun x hx y hy hyx d _ h => (refHunt_state_ne (hlt hx) (hlt hy) hyx).trans h) (c := c) (fun m _ => .inl rfl) n hmem
    · rw [hend]
      obtain ⟨-, hclock, hrx⟩ := mem_refLanes.1 hmem
      simp [hclock, hrx]
    · by_cases hmx : m = x
      · subst hmx
        exact .inr (hset m hx d (hd m hx))
      · rw [refHunt_state_ne (hlt hx) (hlt hm) hmx]
        exact hd m hm
  · rw [if_neg fun h => hmem (mem_refLanes.2 ⟨hn, h.1, h.2.1⟩)]
    refine forEach_keeps (p := fun d => d.laneState n = c.laneState n) _ (fun x hx d hd => ?_) rfl
    exact (refHunt_state_ne (hlt hx) (by omega) fun e => hmem (by rwa [e])).trans hd

/-- The links of the LOCKED uplinks of a reference are down after its loss. -/
theorem refHunts_down {ch : Nat} (hch : ch < 24) (hclock : (2 * ch + 1) / 12 = k) (hst : c.laneState (2 * ch + 1) = 3) :
    (forEach (refLanes k) refHunt c).linkUp ch = false := by
  have hlt {m : Nat} (hm : m ∈ refLanes k) : m < 64 := by have := (mem_refLanes.1 hm).1; omega
  have hmem : 2 * ch + 1 ∈ refLanes k := mem_refLanes.2 ⟨by omega, hclock, by simp [laneRx]⟩
  have hhalf : (2 * ch + 1) / 2 = ch := by omega
  have hown (d : Chip) (h : d.laneState (2 * ch + 1) = 3 ∨ d.linkUp ch = false) :
      (refHunt (2 * ch + 1) d).linkUp ch = false := by
    rcases h with h | h
    · have hdown := refHunt_down (n := 2 * ch + 1) (by omega) (by omega) h
      rwa [hhalf] at hdown
    · exact refHunt_keeps_down (by omega) (by omega) h
  refine forEach_all (l := refLanes k) (f := refHunt) (inv := fun d => d.laneState (2 * ch + 1) = 3 ∨ d.linkUp ch = false)
    (p := fun m d => m = 2 * ch + 1 → d.linkUp ch = false) (fun x hx d hd => ?_) (fun x _ d hd e => e ▸ hown d hd)
    (fun x hx y _ _ d _ h e => refHunt_keeps_down (hlt hx) (by omega) (h e)) (.inl hst) _ hmem rfl
  by_cases hx' : x = 2 * ch + 1
  · exact .inr (hx' ▸ hown d hd)
  · rw [refHunt_state_ne (hlt hx) (by omega) (Ne.symm hx')]
    exact hd.imp id (refHunt_keeps_down (hlt hx) (by omega))

/-! ### The clock registers -/

theorem refHunts_rd {g : Fld} (hg : ∀ m < 52, ∀ f ∈ huntRegs m, f.key ≠ g.key) :
    (forEach (refLanes k) refHunt c).rd g = c.rd g :=
  rd_of_onLinks (onLinks_forEach (p := fun _ => ()) (q := id) (parts := [.beam, .sys]) _
    (fun x hx d => onLinks_refHunt (fun _ _ _ => rfl) (by simp) (by simp) (hg x (mem_refLanes.1 hx).1) d) c)

theorem clock_not_hunt {g : Fld} (hg : g.addr = 0x1001C ∧ g.lo < 32) (m : Nat) : ∀ f ∈ huntRegs m, f.key ≠ g.key := by
  refine List.forall_mem_cons.2 ⟨?_, linkFaultRegs_of_lost ?_⟩
  · simp only [Fld.key, Reg.GLK_STATUS_state]
    omega
  · simp only [lostRegs, logRegs, List.cons_append, List.nil_append, List.forall_mem_cons, Reg.GLK_STATUS_up,
      Reg.GLK_STATUS_link_fault, Reg.GLK_STATUS_loss_cause, Reg.FUR_FAULT_cause, Reg.FUR_FAULT_fault_seq,
      Reg.CRK_DROPPED_count, Reg.CRK_STICKY_sat, Reg.SNP_MISSED_value, Fld.key]
    refine ⟨?_, ?_, ?_, ?_, ?_, ?_, ?_, ?_, by simp⟩ <;> omega

theorem clock_not_log {g : Fld} (hg : g.addr = 0x1001C ∧ g.lo < 32) : ∀ f ∈ logRegs, g.key ≠ f.key := by
  simp only [logRegs, List.forall_mem_cons, Reg.CRK_DROPPED_count, Reg.CRK_STICKY_sat, Reg.SNP_MISSED_value, Fld.key]
  refine ⟨?_, ?_, ?_, by simp⟩ <;> omega

theorem lrefLost_rd {g : Fld} (hg : g.addr = 0x1001C ∧ g.lo < 32) : (lrefLost k c).rd g =
    (wr Reg.PWR_CLOCK_lost (withBit (c.rd Reg.PWR_CLOCK_lost) (2 + k) true)
      (wr Reg.PWR_CLOCK_ok (withBit (c.rd Reg.PWR_CLOCK_ok) (2 + k) false) c)).rd g := by
  rw [lrefLost_eq, refHunts_rd fun m _ => clock_not_hunt hg m]
  exact log_rd (clock_not_log hg) _ _ _ _

theorem ok_not_lost : Reg.PWR_CLOCK_ok.key ≠ Reg.PWR_CLOCK_lost.key := by decide

theorem lrefLost_ok : (lrefLost k c).rd Reg.PWR_CLOCK_ok = withBit (c.rd Reg.PWR_CLOCK_ok) (2 + k) false % 2 ^ 7 := by
  rw [lrefLost_rd ⟨rfl, by decide⟩, rd_wr_ne ok_not_lost, rd_wr_same]
  rfl

theorem lrefLost_lost : (lrefLost k c).rd Reg.PWR_CLOCK_lost = withBit (c.rd Reg.PWR_CLOCK_lost) (2 + k) true % 2 ^ 7 := by
  rw [lrefLost_rd ⟨rfl, by decide⟩, rd_wr_same]
  rfl

theorem refShown_state (hn : n < 64) : (refShown k c).laneState n = c.laneState n := by
  have hlog : ∀ f ∈ logRegs, f.key ≠ (Reg.GLK_STATUS_state n).key := fun f hf =>
    laneState_not_lost hn (k := 0) (by omega) f (logRegs_lost 0 hf)
  unfold refShown Chip.laneState
  rw [log_rd fun f hf => (hlog f hf).symm, rd_wr_ne, rd_wr_ne] <;>
    simp only [Fld.key, Reg.GLK_STATUS_state, Reg.PWR_CLOCK_ok, Reg.PWR_CLOCK_lost] <;> omega

theorem lrefLost_state (hn : n < 52) : (lrefLost k c).laneState n =
    if n / 12 = k ∧ laneRx n = true ∧ (c.laneState n = 2 ∨ c.laneState n = 3) then 1 else c.laneState n := by
  rw [lrefLost_eq, refHunts_state hn, refShown_state (by omega)]

theorem bit_withBit_true_ne {x j : Nat} (h : j ≠ k) : bit (withBit x k true) j = bit x j := by
  simp [bit, withBit, Nat.testBit_or, Nat.testBit_two_pow_of_ne h.symm]

theorem onLinks_lrefLost {α β : Type} {p : Lane → α} {q : Link → β} {parts : List Part} {K : Nat → Prop}
    (hp : ∀ (l : Lane) good miss, p { l with good := good, miss := miss } = p l) (hb : Part.beam ∈ parts)
    (hs : Part.sys ∈ parts) (hok : K Reg.PWR_CLOCK_ok.key) (hlost : K Reg.PWR_CLOCK_lost.key)
    (hlog : ∀ f ∈ logRegs, K f.key) (hr : ∀ m ∈ refLanes k, ∀ f ∈ huntRegs m, K f.key) :
    Chip.onLinks p q parts K c (lrefLost k c) :=
  onLinks_trans (onLinks_wr hok _ c) <| onLinks_trans (onLinks_wr hlost _ _) <| onLinks_trans (onLinks_log hs hlog _ _ _ _) <|
    onLinks_forEach _ (fun m hm d => onLinks_refHunt hp hb hs (hr m hm) d) _

theorem lrefLost_logged (h : c.roomToLog) :
    (lrefLost k c).logged 0x0108 0 (u8 (2 + k) ++ u8 0 ++ u16 0 ++ beat32 c.now) := by
  have hframe (d : Chip) := onLinks_forEach (p := fun _ => ()) (q := id) (parts := [.beam, .sys]) (K := fun _ => True)
    (refLanes k) (fun m _ d => onLinks_refHunt (n := m) (fun _ _ _ => rfl) (by simp) (by simp) (fun _ _ => trivial) d) d
  have hshown : (refShown k c).logged 0x0108 0 (u8 (2 + k) ++ u8 0 ++ u16 0 ++ beat32 c.now) :=
    logged_log (c := wr Reg.PWR_CLOCK_lost (withBit (c.rd Reg.PWR_CLOCK_lost) (2 + k) true)
      (wr Reg.PWR_CLOCK_ok (withBit (c.rd Reg.PWR_CLOCK_ok) (2 + k) false) c)) h _ _ _
  exact logged_of_kept hshown (hframe (refShown k c)).events

/-- LANE_REF_LOSS: the receivers that a reference clocks lose lock, and the loss latches and is logged (R497). -/
theorem laneRefLoss_ends {s : State} (hp : s.core.sys.pwr.porst = false) (k : Fin 5) (hroom : s.core.roomToLog) :
    Ends (.laneRefLoss k) s fun t =>
      let c := s.core
      bit (t.core.rd Reg.PWR_CLOCK_ok) (2 + k.val) = false ∧ bit (t.core.rd Reg.PWR_CLOCK_lost) (2 + k.val) = true ∧
      (∀ j < 7, j ≠ 2 + k.val → bit (t.core.rd Reg.PWR_CLOCK_ok) j = bit (c.rd Reg.PWR_CLOCK_ok) j) ∧
      (∀ n < 52, t.core.laneState n =
        (if n / 12 = k.val ∧ laneRx n = true ∧ (c.laneState n = 2 ∨ c.laneState n = 3) then 1 else c.laneState n)) ∧
      (∀ ch < 24, (2 * ch + 1) / 12 = k.val → c.laneState (2 * ch + 1) = 3 → t.core.linkUp ch = false) ∧
      t.core.logged 0x0108 0 (u8 (2 + k.val) ++ u8 0 ++ u16 0 ++ beat32 c.now) ∧ t.core.out = [] ∧
      Chip.only [.beam, .sys] c t.core ∧ Chip.regsWithin (eventRegs ++ [Reg.PWR_CLOCK_ok, Reg.PWR_CLOCK_lost])
        [(0x100000, 0x118000), (0x140000, 0x14D000)] c t.core := by
  have hlogs : logRegs ⊆ eventRegs ++ [Reg.PWR_CLOCK_ok, Reg.PWR_CLOCK_lost] := 
    List.Subset.trans logRegs_event (List.subset_append_left _ _)
  have hframe := onLinks_lrefLost (p := fun _ => ()) (q := id) (parts := [.beam, .sys]) (k := k.val) (c := s.core.unsent)
    (K := Fld.among (eventRegs ++ [Reg.PWR_CLOCK_ok, Reg.PWR_CLOCK_lost]) [(0x100000, 0x118000), (0x140000, 0x14D000)])
    (fun _ _ _ => rfl) (by simp) (by simp) (among_of_mem (by simp)) (among_of_mem (by simp))
    (fun f hf => among_of_mem (hlogs hf)) fun m hm => by
      obtain ⟨hm, -, hrx⟩ := mem_refLanes.1 hm
      exact huntRegs_rx ⟨fun f hf => among_of_range (q := (0x140000, 0x14D000)) (by simp) hf.1 (by omega) (by omega),
        fun f hf => among_of_mem (hlogs hf), fun hhead => ⟨odd_of_laneRx hrx hhead, fun f hf =>
          among_of_range (q := (0x100000, 0x118000)) (by simp) hf.1 (by omega) (by omega)⟩⟩
  refine ends_onLinks (.inl rfl) hp rfl hframe (among_of_mem (by simp [eventRegs])) fun t hleaves hout hparts hregs => ?_
  have hok : t.core.rd Reg.PWR_CLOCK_ok = withBit (s.core.rd Reg.PWR_CLOCK_ok) (2 + k.val) false % 2 ^ 7 :=
    (leaves_rd hleaves (by decide)).trans lrefLost_ok
  have hlost : t.core.rd Reg.PWR_CLOCK_lost = withBit (s.core.rd Reg.PWR_CLOCK_lost) (2 + k.val) true % 2 ^ 7 :=
    (leaves_rd hleaves (by decide)).trans lrefLost_lost
  have hlane {g : Fld} (m : Nat) (hm : m < 64) (hg : Fld.ofLane m g) : t.core.rd g = (lrefLost k.val s.core.unsent).rd g :=
    leaves_rd hleaves (permit_not_lane hm hg)
  refine ⟨?_, ?_, fun j hj hjk => ?_, fun n hn => ?_, fun ch hch hclock hst => ?_,
    leaves_logged hleaves (lrefLost_logged hroom), hout, hparts, regsWithin_of_regsBut hregs⟩
  · rw [hok, bit_mod (by omega), bit_withBit_false]
    simp
  · rw [hlost]
    exact bit_withBit (by omega)
  · rw [hok, bit_mod hj, bit_withBit_false]
    simp [hjk]
  · exact (hlane n (by omega) (by simp [Fld.ofLane, Reg.GLK_STATUS_state])).trans (lrefLost_state hn)
  · refine (congrArg (· != 0) (hlane (2 * ch + 1) (by omega) (by simp [Fld.ofLane, Reg.GLK_STATUS_up]))).trans ?_
    exact refHunts_down hch hclock ((refShown_state (by omega)).trans hst)

/-- LANE_REF_RETURN: the reference shows as present (R497). -/
theorem laneRefReturn_ends {s : State} (hp : s.core.sys.pwr.porst = false) (k : Fin 5) : Ends (.laneRefReturn k) s fun t =>
    let c := s.core
    bit (t.core.rd Reg.PWR_CLOCK_ok) (2 + k.val) = true ∧
    (∀ j < 7, j ≠ 2 + k.val → bit (t.core.rd Reg.PWR_CLOCK_ok) j = bit (c.rd Reg.PWR_CLOCK_ok) j) ∧
    t.core.out = [] ∧ Chip.only [] c t.core ∧ Chip.regsKept [Reg.GIO_STATUS_permit, Reg.PWR_CLOCK_ok] c t.core := by
  have hframe := onLinks_wr (p := fun _ => ()) (q := id) (parts := []) (f := Reg.PWR_CLOCK_ok)
    (K := Fld.among [Reg.GIO_STATUS_permit, Reg.PWR_CLOCK_ok] []) (among_of_mem (by simp))
    (withBit (s.core.rd Reg.PWR_CLOCK_ok) (2 + k.val) true) s.core.unsent
  refine ends_onLinks (.inl rfl) hp rfl hframe (among_of_mem (by simp)) fun t hleaves hout hparts hregs => ?_
  have hok : t.core.rd Reg.PWR_CLOCK_ok = withBit (s.core.rd Reg.PWR_CLOCK_ok) (2 + k.val) true % 2 ^ 7 :=
    (leaves_rd hleaves (by decide)).trans (rd_wr_same _ _ _)
  refine ⟨?_, fun j hj hjk => ?_, hout, hparts, regsKept_of_regsBut hregs⟩
  · rw [hok]
    exact bit_withBit (by omega)
  · rw [hok, bit_mod hj, bit_withBit_true_ne hjk]

end

end Sys2Proof.Machine
end

section
/-! The slow-control mailbox and the exposure blocks that use it (06_glelin_links.md, R199–R202; 07_sieve_pipeline.md,
R239–R241), and MBX_TIMEOUT. -/

namespace Sys2Proof.Machine

open Sys2Proof

/-! ### Contexts -/

theorem ctx_of_get {c : Chip} {n : Nat} {x : Ctx} (h : c.img.ctxs[n]? = some x) :
    c.ctx n = x ∧ n < c.img.ctxs.length :=
  ⟨by rw [Chip.ctx, List.getD_eq_getElem?_getD, h, Option.getD_some], (List.getElem?_eq_some_iff.1 h).1⟩

theorem leaves_ctx {c d e : Chip} (h : Chip.Leaves c d e) (n : Nat) : e.ctx n = d.ctx n := by
  rw [Chip.ctx, h.parts .img List.not_mem_nil, Chip.ctx]

/-- A field of the registers of context `n` in Sieve `v`. -/
abbrev Fld.ofCtx (v n : Nat) (f : Fld) : Prop :=
  f.lo < 32 ∧ 0x190000 + v * 0x20000 + n * 0x800 ≤ f.addr ∧ f.addr < 0x190800 + v * 0x20000 + n * 0x800

section
variable {α β : Type} {p : Lane → α} {q : Link → β} {parts : List Part} {K : Nat → Prop}

/-! ### Frames of the mailbox -/

theorem onLinks_mbxHostDone {ch : Nat} (hr : ∀ f, Fld.ofLane (2 * ch) f → K f.key) (status : Nat) (data : Option Nat)
    (c : Chip) : Chip.onLinks p q parts K c (mbxHostDone ch status data c) := by
  have hdone := onLinks_trans (onLinks_wr (p := p) (q := q) (parts := parts) (K := K) (f := Reg.GLK_MBX_CMD_busy (2 * ch))
    (hr _ (by simp [Fld.ofLane, Reg.GLK_MBX_CMD_busy])) 0 c) <|
    onLinks_trans (onLinks_wr (hr (Reg.GLK_MBX_RESP_done (2 * ch)) (by simp [Fld.ofLane, Reg.GLK_MBX_RESP_done])) 1 _)
    (onLinks_wr (hr (Reg.GLK_MBX_RESP_status (2 * ch)) (by simp [Fld.ofLane, Reg.GLK_MBX_RESP_status])) status _)
  cases data with
  | none => exact hdone
  | some v =>
    exact onLinks_trans hdone
      (onLinks_wr (hr (Reg.GLK_MBX_RDATA_data (2 * ch)) (by simp [Fld.ofLane, Reg.GLK_MBX_RDATA_data])) v _)

theorem onLinks_mbxSend (hq : ∀ (l : Link) mbx queue, q { l with mbx := mbx, queue := queue } = q l) (hb : Part.beam ∈ parts)
    (ch op addr data : Nat) (sieve : Bool) (c : Chip) : Chip.onLinks p q parts K c (mbxSend ch op addr data sieve c) :=
  onLinks_modLink hb (fun l => hq l l.mbx (l.queue ++ [⟨0, op, addr, data, sieve, 0, 0, false⟩])) c

theorem onLinks_expPump (hq : ∀ (l : Link) mbx queue, q { l with mbx := mbx, queue := queue } = q l)
    (hb : Part.beam ∈ parts) (hi : Part.img ∈ parts) (n : Nat) (c : Chip) :
    Chip.onLinks p q parts K c (expPump n c) := by
  unfold expPump
  split
  · exact onLinks_refl c
  · split
    · exact onLinks_mbxSend hq hb _ _ _ _ _ c
    · exact onLinks_trans (onLinks_modCtx hi (by intro _; rfl) c) (onLinks_mbxSend hq hb _ _ _ _ _ _)

/-- The fields that the failure of a block writes. -/
def expFailRegs (v n : Nat) : List Fld :=
  [Reg.SVX_EXP_STATUS_error v n, Reg.SVX_EXP_STATUS_dirty v n, Reg.SVX_EXP_STATUS_active v n]

theorem expFailRegs_ofCtx {v n : Nat} : ∀ f ∈ expFailRegs v n, Fld.ofCtx v n f := by
  simp [expFailRegs, Fld.ofCtx, Reg.SVX_EXP_STATUS_error, Reg.SVX_EXP_STATUS_dirty, Reg.SVX_EXP_STATUS_active]

theorem onLinks_expFail (hi : Part.img ∈ parts) (hs : Part.sys ∈ parts) {n : Nat} {c : Chip}
    (hr : ∀ f, Fld.ofCtx (c.svOf n) n f → K f.key) (hlog : ∀ f ∈ logRegs, K f.key) (status addr : Nat) :
    Chip.onLinks p q parts K c (expFail n status addr c) := by
  have hfail : ∀ f ∈ expFailRegs (c.svOf n) n, K f.key := fun f hf => hr f (expFailRegs_ofCtx f hf)
  simp only [expFailRegs, List.forall_mem_cons] at hfail
  obtain ⟨herror, hdirty, hactive, -⟩ := hfail
  unfold expFail
  dsimp only
  split
  · exact onLinks_refl c
  · exact onLinks_trans (onLinks_modCtx hi (by intro _; rfl) c) <| onLinks_trans (onLinks_wr herror _ _) <|
      onLinks_trans (onLinks_wr hdirty _ _) <| onLinks_trans (onLinks_wr hactive _ _) (onLinks_log hs hlog _ _ _ _)

theorem onLinks_expAnswer (hq : ∀ (l : Link) mbx queue, q { l with mbx := mbx, queue := queue } = q l)
    (hb : Part.beam ∈ parts) (hi : Part.img ∈ parts) (hs : Part.sys ∈ parts) {n : Nat} {c : Chip}
    (hr : ∀ f, Fld.ofCtx (c.svOf n) n f → K f.key) (hlog : ∀ f ∈ logRegs, K f.key) (status addr : Nat) :
    Chip.onLinks p q parts K c (expAnswer n status addr c) := by
  have hcommit : ∀ f ∈ [Reg.SVX_EXP_STATUS_active (c.svOf n) n, Reg.SVX_EXP_STATUS_committed_id (c.svOf n) n,
      Reg.SVX_EXP_STATUS_next_id (c.svOf n) n, Reg.SVX_EXP_SENT_SEQ_seq (c.svOf n) n], K f.key := by
    refine fun f hf => hr f ?_
    revert f
    simp [Fld.ofCtx, Reg.SVX_EXP_STATUS_active, Reg.SVX_EXP_STATUS_committed_id, Reg.SVX_EXP_STATUS_next_id,
      Reg.SVX_EXP_SENT_SEQ_seq]
  simp only [List.forall_mem_cons] at hcommit
  obtain ⟨hactive, hid, hnext, hsent, -⟩ := hcommit
  unfold expAnswer
  dsimp only
  split
  · exact onLinks_refl c
  · split
    · exact onLinks_expFail hi hs hr hlog _ _
    · split
      · exact onLinks_trans (onLinks_modCtx hi (by intro _; rfl) c) <| onLinks_trans (onLinks_wr hactive _ _) <|
          onLinks_trans (onLinks_wr hid _ _) <| onLinks_trans (onLinks_wr hnext _ _) (onLinks_wr hsent _ _)
      · exact onLinks_trans (onLinks_modCtx hi (by intro _; rfl) c) (onLinks_expPump hq hb hi n _)

/-- An answer from the head reaches the mailbox and the block that waits for it. -/
theorem onLinks_mbxAnswer (hq : ∀ (l : Link) mbx queue, q { l with mbx := mbx, queue := queue } = q l)
    (hb : Part.beam ∈ parts) (hi : Part.img ∈ parts) (hs : Part.sys ∈ parts) {ch : Nat} {c : Chip}
    (hr : ∀ f, Fld.ofCtx (c.svOf ch) ch f → K f.key) (hlane : ∀ f, Fld.ofLane (2 * ch) f → K f.key)
    (hlog : ∀ f ∈ logRegs, K f.key) (tag status op data : Nat) :
    Chip.onLinks p q parts K c (mbxAnswer ch tag status op data c) := by
  unfold mbxAnswer
  split
  · exact onLinks_refl c
  · have htaken := onLinks_modLink (n := ch) (p := p) (K := K) hb (fun l => hq l none l.queue) c
    refine onLinks_ite (onLinks_refl c) (onLinks_ite htaken (onLinks_ite ?_ ?_))
    · exact onLinks_trans htaken (onLinks_expAnswer hq hb hi hs (c := modLink ch _ c) hr hlog _ _)
    · exact onLinks_trans htaken (onLinks_mbxHostDone hlane _ _ _)

end

/-! ### A request that times out -/

/-- A mailbox request given up and logged (R199). -/
def mbxGone (ch : Nat) (m : Mbx) (c : Chip) : Chip :=
  laneEvent 0x0504 (2 * ch) m.tag m.addr c.now (modLink ch (fun l => { l with mbx := none }) c)

/-- Who waits for a request that was given up learns of it. -/
def mbxFail (ch : Nat) (m : Mbx) (c : Chip) : Chip :=
  if m.dead then c else if m.sieve then expFail ch 0xFF m.addr c else mbxHostDone ch 0xFF none c

theorem mbxDue_again {ch : Nat} {m : Mbx} {c : Chip} (hm : (c.link ch).mbx = some m) (hdue : m.sent + 16 ≤ c.now)
    (htries : m.tries < 3) :
    mbxDue ch c = modLink ch (fun l => { l with mbx := some { m with sent := c.now, tries := m.tries + 1 } }) c := by
  unfold mbxDue
  simp only [hm, Nat.not_lt.2 hdue, htries, if_true, if_false]

theorem mbxDue_gone {ch : Nat} {m : Mbx} {c : Chip} (hm : (c.link ch).mbx = some m) (hdue : m.sent + 16 ≤ c.now)
    (htries : 3 ≤ m.tries) : mbxDue ch c = mbxFail ch m (mbxGone ch m c) := by
  unfold mbxDue mbxFail
  simp only [hm, Nat.not_lt.2 hdue, Nat.not_lt.2 htries, if_false]
  rfl

section
variable {ch : Nat} {m : Mbx} {c : Chip}

theorem mbxGone_mbx (hl : ch < c.beam.links.length) : ((mbxGone ch m c).link ch).mbx = none := by
  have hbeam : (mbxGone ch m c).beam = (modLink ch (fun l => { l with mbx := none }) c).beam := log_beam _ _ _ _
  rw [Chip.link, hbeam, ← Chip.link, link_modLink_same hl]

theorem onLinks_mbxGone {α β : Type} {p : Lane → α} {q : Link → β} {parts : List Part} {K : Nat → Prop}
    (hq : ∀ (l : Link) mbx, q { l with mbx := mbx } = q l) (hb : Part.beam ∈ parts) (hs : Part.sys ∈ parts)
    (hlog : ∀ f ∈ logRegs, K f.key) : Chip.onLinks p q parts K c (mbxGone ch m c) :=
  onLinks_trans (onLinks_modLink hb (fun l => hq l none) c) (onLinks_log hs hlog _ _ _ _)

theorem onLinks_mbxFail {α β : Type} {p : Lane → α} {q : Link → β} {parts : List Part} {K : Nat → Prop}
    (hi : Part.img ∈ parts) (hs : Part.sys ∈ parts) (hr : ∀ f, Fld.ofCtx (c.svOf ch) ch f → K f.key)
    (hlane : ∀ f, Fld.ofLane (2 * ch) f → K f.key) (hlog : ∀ f ∈ logRegs, K f.key) :
    Chip.onLinks p q parts K c (mbxFail ch m c) :=
  onLinks_ite (onLinks_refl c) (onLinks_ite (onLinks_expFail hi hs hr hlog _ _) (onLinks_mbxHostDone hlane _ _ c))

theorem mbxHostDone_none_busy (status : Nat) :
    (mbxHostDone ch status none c).flag (Reg.GLK_MBX_CMD_busy (2 * ch)) = false := by
  refine flag_of_rd (v := 0) ?_
  unfold mbxHostDone
  rw [rd_wr_ne (by simp only [Fld.key, Reg.GLK_MBX_CMD_busy, Reg.GLK_MBX_RESP_status]; omega),
    rd_wr_ne (by simp only [Fld.key, Reg.GLK_MBX_CMD_busy, Reg.GLK_MBX_RESP_done]; omega), rd_wr_same]
  exact Nat.zero_mod _

theorem mbxHostDone_none_done (status : Nat) :
    (mbxHostDone ch status none c).flag (Reg.GLK_MBX_RESP_done (2 * ch)) = true := by
  refine flag_of_rd (v := 1) ?_
  unfold mbxHostDone
  rw [rd_wr_ne (by simp [Fld.key, Reg.GLK_MBX_RESP_done, Reg.GLK_MBX_RESP_status]), rd_wr_same]
  rfl

theorem mbxHostDone_none_status {status : Nat} (h : status < 2 ^ 8) :
    (mbxHostDone ch status none c).rd (Reg.GLK_MBX_RESP_status (2 * ch)) = status :=
  (rd_wr_same _ _ _).trans (Nat.mod_eq_of_lt h)

/-- A block that has failed is gone, and its error shows. -/
theorem expFail_shown {n status addr : Nat} (hctx : n < c.img.ctxs.length) (hb : (c.ctx n).block.isSome = true) :
    ((expFail n status addr c).ctx n).block = none ∧
      (expFail n status addr c).flag (Reg.SVX_EXP_STATUS_error (c.svOf n) n) = true := by
  obtain ⟨b, hb⟩ := Option.isSome_iff_exists.1 hb
  unfold expFail
  simp only [hb]
  constructor
  · have himg (code b1 h w : Nat) (d : Chip) : (ctxEvent code n b1 h w d).img = d.img :=
      only_log (l := [.sys]) (by simp) _ _ _ _ .img (by simp)
    rw [Chip.ctx, himg, ← Chip.ctx]
    exact congrArg Ctx.block (ctx_modCtx_same hctx _)
  · refine flag_of_rd (v := 1) ?_
    rw [ctxEvent, log_rd, rd_wr_ne, rd_wr_ne, rd_wr_same]
    · rfl
    · simp only [Fld.key, Reg.SVX_EXP_STATUS_error, Reg.SVX_EXP_STATUS_dirty]
      omega
    · simp only [Fld.key, Reg.SVX_EXP_STATUS_error, Reg.SVX_EXP_STATUS_active]
      omega
    · exact chanReg_not_logged (by simp only [Reg.SVX_EXP_STATUS_error]; omega)

end

/-! ### MBX_TIMEOUT -/

theorem execMbxTimeout_does {ch : Fin 24} {s : State} (hon : s.core.on (laneDom (2 * ch.val)) = true) :
    Instr.does (.mbxTimeout ch) (fun k => when (k.alive (laneDom (2 * ch.val))) (mbxDue ch.val) k) s ∧
      when (s.core.unsent.alive (laneDom (2 * ch.val))) (mbxDue ch.val) s.core.unsent = mbxDue ch.val s.core.unsent :=
  ⟨.inl rfl, by rw [show s.core.unsent.alive (laneDom (2 * ch.val)) = true from alive_of_on hon, when_true]⟩

theorem mbxGone_logged {ch : Nat} {m : Mbx} {c : Chip} (h : c.roomToLog) :
    (mbxGone ch m c).logged 0x0504 (2 * ch) (u8 (2 * ch) ++ u8 m.tag ++ u16 m.addr ++ u32 c.now) :=
  logged_log (c := modLink ch (fun l => { l with mbx := none }) c) h _ _ _

theorem mbxGone_svOf {ch : Nat} {m : Mbx} {c : Chip} (n : Nat) : (mbxGone ch m c).svOf n = c.svOf n :=
  (onLinks_mbxGone (p := id) (q := Link.actual) (parts := [.beam, .sys]) (K := fun _ => True) (fun _ _ => rfl) (by simp)
    (by simp) fun _ _ => trivial).svOf n

theorem mbxGone_ctx {ch : Nat} {m : Mbx} {c : Chip} (n : Nat) : (mbxGone ch m c).ctx n = c.ctx n := by
  have himg : (mbxGone ch m c).img = c.img := only_log (l := [.sys]) (by simp) _ _ _ _ .img (by simp)
  rw [Chip.ctx, himg, Chip.ctx]

theorem mbxGone_ctxs {ch : Nat} {m : Mbx} {c : Chip} : (mbxGone ch m c).img.ctxs = c.img.ctxs := by
  have himg : (mbxGone ch m c).img = c.img := only_log (l := [.sys]) (by simp) _ _ _ _ .img (by simp)
  rw [himg]

/-- MBX_TIMEOUT: a request without an answer is sent again, up to 3 times, and then times out (R199). -/
theorem mbxTimeout_ends {s : State} (hp : s.core.sys.pwr.porst = false) {ch : Fin 24} {k : Link} {m : Mbx}
    (hk : s.core.beam.links[ch.val]? = some k) (hm : k.mbx = some m) (hdue : m.sent + 16 ≤ s.core.now)
    (hon : s.core.on (laneDom (2 * ch.val)) = true) (hroom : s.core.roomToLog) : Ends (.mbxTimeout ch) s fun t =>
      let c := s.core
      let n := 2 * ch.val
      (m.tries < 3 → (t.core.link ch.val).mbx = some { m with sent := c.now, tries := m.tries + 1 } ∧
        Chip.only [.beam] c t.core ∧ Chip.regsKept [Reg.GIO_STATUS_permit] c t.core) ∧
      (3 ≤ m.tries → (t.core.link ch.val).mbx = none ∧
        t.core.logged 0x0504 n (u8 n ++ u8 m.tag ++ u16 m.addr ++ u32 c.now) ∧
        (m.dead = false → m.sieve = false → t.core.flag (Reg.GLK_MBX_CMD_busy n) = false ∧
          t.core.flag (Reg.GLK_MBX_RESP_done n) = true ∧ t.core.rd (Reg.GLK_MBX_RESP_status n) = 0xFF) ∧
        (m.dead = false → m.sieve = true → ∀ x, c.img.ctxs[ch.val]? = some x → x.block.isSome = true →
          (t.core.ctx ch.val).block = none ∧ t.core.flag (Reg.SVX_EXP_STATUS_error x.sieve ch.val) = true)) ∧
      t.core.out = [] ∧ Chip.only [.beam, .img, .sys] c t.core ∧
      Chip.regsWithin eventRegs [(0x140000 + n * 0x400, 0x140400 + n * 0x400),
        (0x190000 + c.svOf ch.val * 0x20000 + ch.val * 0x800, 0x190800 + c.svOf ch.val * 0x20000 + ch.val * 0x800)]
        c t.core := by
  obtain ⟨hlink, hlen⟩ := link_of_get hk
  obtain ⟨hdoes, hdone⟩ := execMbxTimeout_does (s := s) hon
  have hmbx : (s.core.unsent.link ch.val).mbx = some m := (congrArg Link.mbx hlink).trans hm
  rcases Nat.lt_or_ge m.tries 3 with htries | htries
  · have hf := hdone.trans (mbxDue_again hmbx hdue htries)
    have hframe := onLinks_modLink (p := id) (q := Link.down) (parts := [.beam]) (n := ch.val)
      (f := fun l => { l with mbx := some { m with sent := s.core.now, tries := m.tries + 1 } })
      (K := Fld.among [Reg.GIO_STATUS_permit] []) (by simp) (fun _ => rfl) s.core.unsent
    refine ends_onLinks hdoes hp hf hframe (among_of_mem (by simp)) fun t hleaves hout hparts hregs => ?_
    have hkept := regsKept_of_regsBut hregs
    refine ⟨fun _ => ⟨?_, hparts, hkept⟩, fun h => absurd h (by omega), hout, only_mono hparts (by simp),
      regsWithin_of_kept (regsKept_mono hkept (by simp [eventRegs])) (m := []) (by simp)⟩
    exact congrArg Link.mbx ((leaves_link hleaves _).trans (link_modLink_same (c := s.core.unsent) hlen _))
  · have hf := hdone.trans (mbxDue_gone hmbx hdue htries)
    let K := Fld.among eventRegs [(0x140000 + 2 * ch.val * 0x400, 0x140400 + 2 * ch.val * 0x400),
      (0x190000 + s.core.svOf ch.val * 0x20000 + ch.val * 0x800, 0x190800 + s.core.svOf ch.val * 0x20000 + ch.val * 0x800)]
    have hlog : ∀ f ∈ logRegs, K f.key := fun f hf => among_of_mem (logRegs_event hf)
    have hlane : ∀ f, Fld.ofLane (2 * ch.val) f → K f.key := fun f hf =>
      among_of_range List.mem_cons_self hf.1 hf.2.1 hf.2.2
    have hctx : ∀ f, Fld.ofCtx (s.core.svOf ch.val) ch.val f → K f.key := fun f hf =>
      among_of_range (List.mem_cons_of_mem _ List.mem_cons_self) hf.1 hf.2.1 hf.2.2
    have hgone := onLinks_mbxGone (p := id) (q := Link.down) (parts := [.beam, .img, .sys]) (K := K) (ch := ch.val) (m := m)
      (c := s.core.unsent) (fun _ _ => rfl) (by simp) (by simp) hlog
    have hfail {γ : Type} {q : Link → γ} := onLinks_mbxFail (p := id) (q := q) (parts := [.beam, .img, .sys]) (K := K)
      (m := m) (c := mbxGone ch.val m s.core.unsent) (by simp) (by simp) (by rwa [mbxGone_svOf]) hlane hlog
    refine ends_onLinks hdoes hp hf (onLinks_trans hgone hfail) permit_among fun t hleaves hout hparts hregs => ?_
    refine ⟨fun h => absurd h (by omega), fun _ => ⟨?_, ?_, fun hdead hhost => ?_, fun hdead hsieve x hx hblock => ?_⟩, hout,
      hparts, regsWithin_of_regsBut hregs⟩
    · rw [leaves_link hleaves]
      exact (congrArg Link.mbx (hfail (q := id).links ch.val)).trans (mbxGone_mbx (c := s.core.unsent) hlen)
    · exact leaves_logged hleaves (logged_of_kept (mbxGone_logged (c := s.core.unsent) hroom) (hfail (q := id)).events)
    · have hhostDone : mbxFail ch.val m (mbxGone ch.val m s.core.unsent) =
          mbxHostDone ch.val 0xFF none (mbxGone ch.val m s.core.unsent) := by
        simp only [mbxFail, hdead, hhost, Bool.false_eq_true, if_false]
      rw [hhostDone] at hleaves
      have hrd {g : Fld} (hg : Fld.ofLane (2 * ch.val) g) := leaves_rd hleaves (permit_not_lane (by omega) hg)
      exact ⟨(congrArg (· != 0) (hrd (by simp [Fld.ofLane, Reg.GLK_MBX_CMD_busy]))).trans (mbxHostDone_none_busy _),
        (congrArg (· != 0) (hrd (by simp [Fld.ofLane, Reg.GLK_MBX_RESP_done]))).trans (mbxHostDone_none_done _),
        (hrd (by simp [Fld.ofLane, Reg.GLK_MBX_RESP_status])).trans (mbxHostDone_none_status (by decide))⟩
    · obtain ⟨hctxs, hclen⟩ := ctx_of_get hx
      have hexp : mbxFail ch.val m (mbxGone ch.val m s.core.unsent) =
          expFail ch.val 0xFF m.addr (mbxGone ch.val m s.core.unsent) := by
        simp only [mbxFail, hdead, hsieve, Bool.false_eq_true, if_false, if_true]
      rw [hexp] at hleaves
      have hsame : (mbxGone ch.val m s.core.unsent).ctx ch.val = x := (mbxGone_ctx _).trans hctxs
      obtain ⟨hnone, herror⟩ := expFail_shown (n := ch.val) (status := 0xFF) (addr := m.addr)
        (c := mbxGone ch.val m s.core.unsent) (by rwa [mbxGone_ctxs]) (by rwa [hsame])
      refine ⟨(congrArg Ctx.block (leaves_ctx hleaves _)).trans hnone, (congrArg (· != 0) (leaves_rd hleaves ?_)).trans ?_⟩
      · simp only [Fld.key, Reg.SVX_EXP_STATUS_error, Reg.GIO_STATUS_permit]
        omega
      · rwa [Chip.svOf, hsame] at herror

end Sys2Proof.Machine
end

section
/-! What the words of a frame change of the Sieve that takes them (07_sieve_pipeline.md, R225–R228, R243–R248): the frames of
camera words, of overview words, and of the steps that they lead to. -/

namespace Sys2Proof.Machine

open Sys2Proof

/-- A field of the registers of Sieve `v`. -/
abbrev Fld.ofSieve (v : Nat) (f : Fld) : Prop :=
  f.lo < 32 ∧ 0x180000 + v * 0x20000 ≤ f.addr ∧ f.addr < 0x1A0000 + v * 0x20000

/-- `K` holds of the registers of context `n` in Sieve `v`. -/
def Keys.ctx (K : Nat → Prop) (v n : Nat) : Prop := ∀ f, Fld.ofCtx v n f → K f.key

/-- `K` holds of the registers of Sieve `v`, of which `n` is a context, and of what an event changes. -/
structure Keys.sieve (K : Nat → Prop) (v n : Nat) : Prop where
  page : ∀ f, Fld.ofSieve v f → K f.key
  log : ∀ f ∈ logRegs, K f.key
  lt : n < 32

section
variable {α β : Type} {p : Lane → α} {q : Link → β} {parts : List Part} {K : Nat → Prop} {v n : Nat}

theorem ctx_of_sieve (hr : Keys.sieve K v n) : Keys.ctx K v n := fun f ⟨hlo, hlow, hhigh⟩ =>
  hr.page f ⟨hlo, by omega, by have := hr.lt; omega⟩

/-! ### Camera words -/

theorem onLinks_strayWords (hr : Keys.ctx K v n) {c : Chip} (hv : c.svOf n = v) (k : Nat) :
    Chip.onLinks p q parts K c (strayWords n k c) := by
  subst hv
  exact onLinks_when (onLinks_incBy (hr _ (by simp [Fld.ofCtx, Reg.SVX_STRAY_count]))
    (hr _ (by simp [Fld.ofCtx, Reg.SVX_STICKY_sat])) k 2 c)

theorem onLinks_headerSeen (hr : Keys.ctx K v n) {c : Chip} (hv : c.svOf n = v) (h : FrameHdr) :
    Chip.onLinks p q parts K c (headerSeen n h c) := by
  subst hv
  exact onLinks_when (onLinks_wr (hr _ (by simp [Fld.ofCtx, Reg.SVX_EXP_STATUS_echo_id])) _ c)

theorem onLinks_acceptWords (hi : Part.img ∈ parts) (hr : Keys.ctx K v n) {c : Chip} (hv : c.svOf n = v) (px : List Nat) :
    Chip.onLinks p q parts K c (acceptWords n px c) := by
  unfold acceptWords
  split
  · exact onLinks_strayWords hr hv _
  · refine onLinks_next hv (onLinks_ite (onLinks_modRx hi n _ c) ?_) fun hv => onLinks_strayWords hr hv _
    exact onLinks_trans (onLinks_modRx hi n _ c) (onLinks_modSieve hi _ _ _)

theorem onLinks_camWords (hi : Part.img ∈ parts) (hr : Keys.ctx K v n) {c : Chip} (hv : c.svOf n = v) (usable good : Bool)
    (hdr : Option FrameHdr) (fin : Bool) (px : List Nat) :
    Chip.onLinks p q parts K c (camWords n usable good hdr fin px c) := by
  have hmark (f : RxFrame → RxFrame) (d : Chip) := onLinks_modRx (p := p) (q := q) (K := K) hi n f d
  unfold camWords
  refine onLinks_ite (onLinks_refl c) ?_
  split
  · exact onLinks_when (onLinks_strayWords hr hv _)
  · refine onLinks_ite (hmark _ c) (onLinks_ite (onLinks_refl c) ?_)
    split
    · exact onLinks_strayWords hr hv _
    · exact onLinks_next hv (hmark _ c) fun hv => onLinks_strayWords hr hv _
    · exact onLinks_next hv (hmark _ c) fun hv => onLinks_next hv (onLinks_headerSeen hr hv _) fun hv =>
        onLinks_trans (onLinks_acceptWords hi hr hv px) (hmark _ _)
    · exact onLinks_ite (onLinks_refl c) (onLinks_ite (onLinks_strayWords hr hv _)
        (onLinks_trans (onLinks_acceptWords hi hr hv px) (hmark _ _)))

/-! ### Taps -/

theorem onLinks_incWrap {f : Fld} (hf : K f.key) (c : Chip) : Chip.onLinks p q parts K c (incWrap f c) := onLinks_wr hf _ c

theorem onLinks_sluiceWrite (hm : Part.mem ∈ parts) (req unit a : Nat) (l : List Byte) (c : Chip) :
    Chip.onLinks p q parts K c (sluiceWrite req unit a l c) := by
  unfold sluiceWrite
  generalize pieces a l (l.length + 1) = xs
  induction xs generalizing c with
  | nil => exact onLinks_refl c
  | cons x xs ih => exact onLinks_trans (onLinks_sluice hm req unit true x.1 x.2 c) (ih _)

theorem onLinks_tapDrop (hr : Keys.sieve K v n) {k : Nat} (hk : k < 6) (c : Chip) :
    Chip.onLinks p q parts K c (tapDrop v n k c) := by
  have hn := hr.lt
  refine onLinks_trans (onLinks_incSat (hr.page _ ?_) c) (onLinks_inc (hr.page _ ?_) (hr.page _ ?_) 2 _) <;>
    simp only [Fld.ofSieve, Reg.SVX_TAP_DROP_value, Reg.SVA_TAP_DROP_count, Reg.SVA_STICKY_sat] <;> omega

theorem onLinks_tapShow (hr : Keys.sieve K v n) (c : Chip) : Chip.onLinks p q parts K c (tapShow v c) := by
  refine onLinks_trans (onLinks_wr (hr.page _ ?_) _ c) (onLinks_when (onLinks_wr (hr.page _ ?_) _ _)) <;>
    simp only [Fld.ofSieve, Reg.SVA_TAP_FILL_now, Reg.SVA_TAP_FILL_worst] <;> omega

theorem onLinks_tapWrite (hm : Part.mem ∈ parts) (hr : Keys.sieve K v n) {k : Nat} (hk : k < 6) (f : Closed)
    (r : List Byte) (c : Chip) : Chip.onLinks p q parts K c (tapWrite v n k f r c) := by
  have hn := hr.lt
  have hptr : K (Reg.SVX_TAP_WPTR_value v n k).key := hr.page _ (by
    simp only [Fld.ofSieve, Reg.SVX_TAP_WPTR_value]
    omega)
  have hcount : K (Reg.SVX_TAP_COUNT_value v n k).key := hr.page _ (by
    simp only [Fld.ofSieve, Reg.SVX_TAP_COUNT_value]
    omega)
  have hput (a : Nat) (l : List Byte) (d : Chip) := onLinks_sluiceWrite (p := p) (q := q) (K := K) hm reqTap n a l d
  refine onLinks_ite (onLinks_refl c) ?_
  exact onLinks_trans (onLinks_ite (onLinks_refl c) (hput _ _ c)) <| onLinks_trans (hput _ _ _) <|
    onLinks_trans (onLinks_wr hptr _ _) (onLinks_trans (onLinks_incWrap hcount _) (onLinks_tapShow hr _))

theorem onLinks_tapPoint (hi : Part.img ∈ parts) (hm : Part.mem ∈ parts) (hr : Keys.sieve K v n) {k : Nat} (hk : k < 6)
    (f : Closed) (pgen fpn temp : Nat) (payload : List Byte) (c : Chip) :
    Chip.onLinks p q parts K c (tapPoint v n k f pgen fpn temp payload c) := by
  have hdec (m : Nat) (d : Chip) : Chip.onLinks p q parts K d (modCtx n (fun x => { x with dec := setAt x.dec k m }) d) :=
    onLinks_modCtx hi (by intro _; rfl) d
  have hturn (m : Nat) (d : Chip) :
      Chip.onLinks p q parts K d (modCtx n (fun x => { x with sixteen := setAt x.sixteen k m }) d) :=
    onLinks_modCtx hi (by intro _; rfl) d
  have hwrite (r : List Byte) (d : Chip) := onLinks_tapWrite (p := p) (q := q) hm hr hk f r d
  refine onLinks_ite (onLinks_refl c) ?_
  refine onLinks_ite (hdec _ c) (onLinks_trans (hdec _ c) (onLinks_ite ?_ (hwrite _ _)))
  exact onLinks_trans (hturn _ _) (onLinks_ite (onLinks_tapDrop hr hk _) (hwrite _ _))

theorem onLinks_tapMissing (hi : Part.img ∈ parts) (hm : Part.mem ∈ parts) (hr : Keys.sieve K v n) (f : Closed) (c : Chip) :
    Chip.onLinks p q parts K c (tapMissing v n f c) :=
  onLinks_forEach _ (fun _ hk d => onLinks_ite (onLinks_refl d)
    (onLinks_tapPoint hi hm hr (List.mem_range.1 hk) f _ _ _ _ d)) c

/-! ### A frame closes -/

theorem onLinks_darkFrame (hs : Part.sys ∈ parts) (flags : Nat) (words : List Nat) (c : Chip) :
    Chip.onLinks p q parts K c (darkFrame n flags words c) := by
  unfold darkFrame
  split
  · exact onLinks_refl c
  · exact onLinks_ite (onLinks_ite (onLinks_modCal hs _ c) (onLinks_modCal hs _ c)) (onLinks_refl c)

theorem onLinks_frameAnomaly (hs : Part.sys ∈ parts) (hr : Keys.sieve K v n) {c : Chip} (hv : c.svOf n = v)
    (flags seq : Nat) : Chip.onLinks p q parts K c (frameAnomaly n flags seq c) := by
  subst hv
  have hpage := ctx_of_sieve hr
  have hrun := hpage (Reg.SVX_STATUS_anomaly_run (c.svOf n) n) (by simp [Fld.ofCtx, Reg.SVX_STATUS_anomaly_run])
  have hcount := hpage (Reg.SVX_ANOMALIES_count (c.svOf n) n) (by simp [Fld.ofCtx, Reg.SVX_ANOMALIES_count])
  have hsticky := hpage (Reg.SVX_STICKY_sat (c.svOf n) n) (by simp [Fld.ofCtx, Reg.SVX_STICKY_sat])
  have hfault := hpage (Reg.SVX_STATUS_fault (c.svOf n) n) (by simp [Fld.ofCtx, Reg.SVX_STATUS_fault])
  have hevent (code inst : Nat) (par : List Byte) (d : Chip) := onLinks_log (p := p) (q := q) hs hr.log code inst par d
  exact onLinks_ite (onLinks_wr hrun 0 c) <| onLinks_trans (onLinks_wr hrun _ c) <|
    onLinks_trans (onLinks_inc hcount hsticky 1 _) <| onLinks_trans (onLinks_when (hevent _ _ _ _)) <|
    onLinks_when (onLinks_trans (onLinks_wr hfault 1 _) (hevent _ _ _ _))

theorem onLinks_ctxSettle (hr : Keys.ctx K v n) {c : Chip} (hv : c.svOf n = v) :
    Chip.onLinks p q parts K c (ctxSettle n c) := by
  subst hv
  exact onLinks_ite (onLinks_wr (hr _ (by simp [Fld.ofCtx, Reg.SVX_STATUS_run])) 0 c) (onLinks_refl c)

/-- The flags, the sequence and the count of a frame that closes, and its anomaly. -/
theorem onLinks_frameShown (hs : Part.sys ∈ parts) (hr : Keys.sieve K v n) {c : Chip} (hv : c.svOf n = v) (flags seq : Nat) :
    Chip.onLinks p q parts K c (wr (Reg.SVX_STATUS_flags v n) flags c |> wr (Reg.SVX_SEQ_seq v n) seq
      |> inc (Reg.SVX_FRAMES_count v n) (Reg.SVX_STICKY_sat v n) 0 |> frameAnomaly n flags seq) := by
  have hpage := ctx_of_sieve hr
  have hflags := hpage (Reg.SVX_STATUS_flags v n) (by simp [Fld.ofCtx, Reg.SVX_STATUS_flags])
  have hseq := hpage (Reg.SVX_SEQ_seq v n) (by simp [Fld.ofCtx, Reg.SVX_SEQ_seq])
  have hcount := hpage (Reg.SVX_FRAMES_count v n) (by simp [Fld.ofCtx, Reg.SVX_FRAMES_count])
  have hsticky := hpage (Reg.SVX_STICKY_sat v n) (by simp [Fld.ofCtx, Reg.SVX_STICKY_sat])
  exact onLinks_next hv (onLinks_trans (onLinks_wr hflags flags c) (onLinks_trans (onLinks_wr hseq seq _)
    (onLinks_inc hcount hsticky 0 _))) fun hv => onLinks_frameAnomaly hs hr hv flags seq

/-- What becomes of a frame that has closed. -/
def frameGoes (v n : Nat) (f : Closed) (flags : Nat) (c : Chip) : Chip :=
  if bit flags 2 then
    let c := tapMissing v n f c
    if n < 24 then
      modCtx n (fun x => { x with
        deliveries := x.deliveries ++ [⟨f, c.now + 2, c.rd (Reg.SVX_PGEN_active v n), Feat.zero⟩] }) c
    else c
  else if bit flags 6 then inc (Reg.SVX_SKIPPED_count v n) (Reg.SVX_STICKY_sat v n) 3 c
  else if isOverview n then modCtx n (fun x => { x with ovClosed := x.ovClosed ++ [f] }) c
  else modSieve v (fun s => { s with waiting := waitInsert f s.waiting }) c

theorem onLinks_frameGoes (hi : Part.img ∈ parts) (hm : Part.mem ∈ parts) (hr : Keys.sieve K v n) (f : Closed)
    (flags : Nat) (c : Chip) : Chip.onLinks p q parts K c (frameGoes v n f flags c) := by
  have hpage := ctx_of_sieve hr
  have hcount := hpage (Reg.SVX_SKIPPED_count v n) (by simp [Fld.ofCtx, Reg.SVX_SKIPPED_count])
  have hsticky := hpage (Reg.SVX_STICKY_sat v n) (by simp [Fld.ofCtx, Reg.SVX_STICKY_sat])
  have htaps := onLinks_tapMissing (p := p) (q := q) hi hm hr f c
  refine onLinks_ite (onLinks_ite (onLinks_trans htaps (onLinks_modCtx hi (by intro _; rfl) _)) htaps) ?_
  exact onLinks_ite (onLinks_inc hcount hsticky 3 c)
    (onLinks_ite (onLinks_modCtx hi (by intro _; rfl) c) (onLinks_modSieve hi v _ c))

/-- Whether a frame leaves no pixels to its run: it is MISSING or SKIPPED. -/
def frameGone (flags : Nat) : Bool := bit flags 2 || bit flags 6

/-- The flags of a frame that closes, with HIST_RESTART. -/
def Chip.shutFlags (c : Chip) (n flags sid : Nat) : Nat :=
  if !frameGone flags && ((c.ctx n).restart || decide ((c.ctx n).lastSid ≠ some sid)) then flags + 0x100 else flags

/-- The books of a context when a frame closes. -/
def frameBooked (n flags shut sid : Nat) (c : Chip) : Chip :=
  modCtx n (fun x => { x with
    closed := x.closed + 1
    restart := if frameGone flags then x.restart || bit shut 2 else invalidFlags shut
    lastSid := if frameGone flags then x.lastSid else some sid }) c

/-- The first frame taken under the settings committed last shows as such. -/
def frameApplied (v n seq flags sid : Nat) (wait : Bool) (c : Chip) : Chip :=
  if decide (n < 24) && !frameGone flags && wait && decide (sid = c.rd (Reg.SVX_EXP_STATUS_committed_id v n)) then
    wr (Reg.SVX_EXP_APPLIED_SEQ_seq v n) seq (modCtx n (fun x => { x with applyWait := false }) c)
  else c

/-- What a frame that closes has shown before it goes on. -/
def frameShowing (v n seq flags sid : Nat) (c : Chip) : Chip :=
  let shut := c.shutFlags n flags sid
  frameApplied v n seq flags sid (c.ctx n).applyWait (wr (Reg.SVX_STATUS_flags v n) shut (frameBooked n flags shut sid c)
    |> wr (Reg.SVX_SEQ_seq v n) seq |> inc (Reg.SVX_FRAMES_count v n) (Reg.SVX_STICKY_sat v n) 0
    |> frameAnomaly n shut seq)

theorem frameShut_eq (n j seq flags sid : Nat) (words : List Nat) (c : Chip) : frameShut n j seq flags sid words c =
    let d := darkFrame n flags words c
    let e := frameShowing (d.svOf n) n seq flags sid d
    frameGoes (d.svOf n) n ⟨n, (d.ctx n).f0, j, seq, e.now, d.shutFlags n flags sid, sid, words⟩
      (d.shutFlags n flags sid) e := rfl

theorem onLinks_frameShowing (hi : Part.img ∈ parts) (hs : Part.sys ∈ parts) (hr : Keys.sieve K v n) {c : Chip}
    (hv : c.svOf n = v) (seq flags sid : Nat) :
    Chip.onLinks p q parts K c (frameShowing v n seq flags sid c) := by
  have happlied := ctx_of_sieve hr (Reg.SVX_EXP_APPLIED_SEQ_seq v n) (by simp [Fld.ofCtx, Reg.SVX_EXP_APPLIED_SEQ_seq])
  have hbooked : Chip.onLinks p q parts K c (frameBooked n flags (c.shutFlags n flags sid) sid c) :=
    onLinks_modCtx hi (by intro _; rfl) c
  refine onLinks_next hv hbooked fun hv => onLinks_trans (onLinks_frameShown hs hr hv (c.shutFlags n flags sid) seq) ?_
  exact onLinks_ite (onLinks_trans (onLinks_modCtx hi (by intro _; rfl) _) (onLinks_wr happlied seq _)) (onLinks_refl _)

theorem onLinks_frameShut (hi : Part.img ∈ parts) (hs : Part.sys ∈ parts) (hm : Part.mem ∈ parts) (hr : Keys.sieve K v n)
    {c : Chip} (hv : c.svOf n = v) (j seq flags sid : Nat) (words : List Nat) :
    Chip.onLinks p q parts K c (frameShut n j seq flags sid words c) := by
  rw [frameShut_eq]
  refine onLinks_next hv (onLinks_darkFrame (n := n) hs flags words c) fun hv => ?_
  subst hv
  exact onLinks_trans (onLinks_frameShowing hi hs hr rfl seq flags sid) (onLinks_frameGoes hi hm hr _ _ _)

/-! ### Overview words -/

theorem onLinks_ovClose (hi : Part.img ∈ parts) (hs : Part.sys ∈ parts) (hm : Part.mem ∈ parts) (hr : Keys.sieve K v n)
    {c : Chip} (hv : c.svOf n = v) : Chip.onLinks p q parts K c (ovClose n c) := by
  unfold ovClose
  split
  · exact onLinks_refl c
  · have hclear : Chip.onLinks p q parts K c (modCtx n (fun x => { x with rx := none }) c) :=
      onLinks_modCtx hi (by intro _; rfl) c
    refine onLinks_next hv hclear fun hv => ?_
    dsimp only
    split
    · exact onLinks_refl _
    · refine onLinks_ite ?_ (onLinks_next hv (onLinks_frameShut hi hs hm hr hv _ _ _ _ _) fun hv =>
        onLinks_ctxSettle (ctx_of_sieve hr) hv)
      subst hv
      exact onLinks_frameShown hs hr rfl _ _

theorem onLinks_ovStore (hi : Part.img ∈ parts) (hs : Part.sys ∈ parts) (hr : Keys.sieve K v n) (c : Chip) :
    Chip.onLinks p q parts K c (ovStore n c) := by
  unfold ovStore
  dsimp only
  split
  · exact onLinks_refl c
  · exact onLinks_ite (onLinks_refl c) (onLinks_trans (onLinks_modRx hi n _ c) (onLinks_log hs hr.log _ _ _ _))

theorem onLinks_ovHeader (hi : Part.img ∈ parts) (hs : Part.sys ∈ parts) (hm : Part.mem ∈ parts) (hr : Keys.sieve K v n)
    {c : Chip} (hv : c.svOf n = v) (h : FrameHdr) : Chip.onLinks p q parts K c (ovHeader n h c) := by
  have hpage := ctx_of_sieve hr
  refine onLinks_next hv (onLinks_ovClose hi hs hm hr hv) fun hv => ?_
  subst hv
  have hskipped := hpage (Reg.SVX_SKIPPED_count ((ovClose n c).svOf n) n) (by simp [Fld.ofCtx, Reg.SVX_SKIPPED_count])
  have hsticky := hpage (Reg.SVX_STICKY_sat ((ovClose n c).svOf n) n) (by simp [Fld.ofCtx, Reg.SVX_STICKY_sat])
  have hskip := hr.page (Reg.SVA_OV_SKIP_count ((ovClose n c).svOf n)) (by
    simp only [Fld.ofSieve, Reg.SVA_OV_SKIP_count]
    omega)
  have hshared := hr.page (Reg.SVA_STICKY_sat ((ovClose n c).svOf n)) (by
    simp only [Fld.ofSieve, Reg.SVA_STICKY_sat]
    omega)
  refine onLinks_ite ?_ (onLinks_ite ?_ (onLinks_modCtx hi (by intro _; rfl) _))
  · exact onLinks_trans (onLinks_modCtx hi (by intro _; rfl) _) <| onLinks_trans (onLinks_modCtx hi (by intro _; rfl) _) <|
      onLinks_trans (onLinks_inc hskipped hsticky 3 _) (onLinks_inc hskip hshared 3 _)
  · exact onLinks_trans (onLinks_modCtx hi (by intro _; rfl) _) (onLinks_modCtx hi (by intro _; rfl) _)

/-- The header of an overview frame, if there is one. -/
def ovTaken (n : Nat) (hdr : Option FrameHdr) (c : Chip) : Chip :=
  match hdr with
  | some h => ovHeader n h c
  | none => c

/-- The pixel words of an overview frame. -/
def ovFill (n : Nat) (fin : Bool) (px : List Nat) (c : Chip) : Chip :=
  match (c.ctx n).rx with
  | none => strayWords n px.length c
  | some r => when fin (ovClose n) (if r.bad then c else ovStore n (acceptWords n px c))

theorem ovWords_eq (n : Nat) (usable good : Bool) (hdr : Option FrameHdr) (fin : Bool) (px : List Nat) (c : Chip) :
    ovWords n usable good hdr fin px c =
      if !c.on (sieveDom (c.svOf n)) || c.ctxRun n == 0 then c
      else if !good && (c.ctx n).rx.isSome then modRx n (fun r => { r with bad := true }) c
      else if !usable then c
      else ovFill n fin px (ovTaken n hdr c) := rfl

theorem onLinks_ovTaken (hi : Part.img ∈ parts) (hs : Part.sys ∈ parts) (hm : Part.mem ∈ parts) (hr : Keys.sieve K v n)
    {c : Chip} (hv : c.svOf n = v) (hdr : Option FrameHdr) : Chip.onLinks p q parts K c (ovTaken n hdr c) := by
  cases hdr with
  | none => exact onLinks_refl c
  | some h => exact onLinks_ovHeader hi hs hm hr hv h

theorem onLinks_ovFill (hi : Part.img ∈ parts) (hs : Part.sys ∈ parts) (hm : Part.mem ∈ parts) (hr : Keys.sieve K v n)
    {c : Chip} (hv : c.svOf n = v) (fin : Bool) (px : List Nat) : Chip.onLinks p q parts K c (ovFill n fin px c) := by
  have hpage := ctx_of_sieve hr
  unfold ovFill
  split
  · exact onLinks_strayWords hpage hv _
  · exact onLinks_next hv (onLinks_ite (onLinks_refl c) (onLinks_trans (onLinks_acceptWords hi hpage hv px)
      (onLinks_ovStore hi hs hr _))) fun hv => onLinks_when (onLinks_ovClose hi hs hm hr hv)

theorem onLinks_ovWords (hi : Part.img ∈ parts) (hs : Part.sys ∈ parts) (hm : Part.mem ∈ parts) (hr : Keys.sieve K v n)
    {c : Chip} (hv : c.svOf n = v) (usable good : Bool) (hdr : Option FrameHdr) (fin : Bool) (px : List Nat) :
    Chip.onLinks p q parts K c (ovWords n usable good hdr fin px c) := by
  rw [ovWords_eq]
  exact onLinks_ite (onLinks_refl c) <| onLinks_ite (onLinks_modRx hi n _ c) <| onLinks_ite (onLinks_refl c) <|
    onLinks_next hv (onLinks_ovTaken hi hs hm hr hv hdr) fun hv => onLinks_ovFill hi hs hm hr hv fin px

end

end Sys2Proof.Machine
end

section
/-! A frame on a receive lane (06_glelin_links.md, R194, R203–R206): its marker and its coding, its position, its words. -/

namespace Sys2Proof.Machine

open Sys2Proof

/-! ### A marked frame -/

/-- A frame whose marker has been found, what its coding counts taken. -/
def frameTaken (n : Nat) (x : LineFrame) (c : Chip) : Chip := frameCounts n x (markerFound n c)

section
variable {n : Nat} {x : LineFrame} {c : Chip}

theorem frameCounts_beam : (frameCounts n x c).beam = c.beam :=
  (onLinks_frameCounts (p := id) (q := id) (parts := []) (K := fun _ => True) (fun _ _ => trivial) x c).parts .beam
    List.not_mem_nil

theorem onLinks_frameTaken {α β : Type} {p : Lane → α} {q : Link → β} {parts : List Part} {K : Nat → Prop}
    (hp : ∀ (l : Lane) good miss, p { l with good := good, miss := miss } = p l) (hb : Part.beam ∈ parts)
    (hr : Keys.lane K n) : Chip.onLinks p q parts K c (frameTaken n x c) :=
  onLinks_trans (onLinks_markerFound hp hb (hr _ (by simp [Fld.ofLane, Reg.GLK_STATUS_state])) c)
    (onLinks_frameCounts (codingRegs_lane hr) x _)

theorem state_not_coding : ∀ f ∈ codingRegs n, f.key ≠ (Reg.GLK_STATUS_state n).key := by
  simp only [codingRegs, List.forall_mem_cons, Fld.key, Reg.GLK_FILL_last, Reg.GLK_FILL_least, Reg.GLK_STUFF_ERR_count,
    Reg.GLK_STICKY_sat, Reg.GLK_CRC_ERR_count, Reg.GLK_STATUS_state]
  refine ⟨?_, ?_, ?_, ?_, ?_, by simp⟩ <;> omega

theorem frameCounts_rd {g : Fld} (hg : ∀ f ∈ codingRegs n, f.key ≠ g.key) : (frameCounts n x c).rd g = c.rd g :=
  rd_of_onLinks (onLinks_frameCounts (p := id) (q := id) (parts := []) (K := (· ≠ g.key)) hg x c)

theorem markerFound_rd {g : Fld} (hg : (Reg.GLK_STATUS_state n).key ≠ g.key) : (markerFound n c).rd g = c.rd g :=
  rd_of_onLinks (onLinks_markerFound (p := Lane.lastFrame) (q := id) (parts := [.beam]) (K := (· ≠ g.key))
    (fun _ _ _ => rfl) (by simp) (n := n) hg c)

theorem frameTaken_state : (frameTaken n x c).laneState n = if c.laneState n = 1 then 2 else c.laneState n := by
  rw [Chip.laneState, frameTaken, frameCounts_rd state_not_coding]
  exact markerFound_state

theorem frameTaken_good (hl : n < c.beam.lanes.length) :
    ((frameTaken n x c).lane n).good = if c.laneState n = 1 then 0 else (c.lane n).good := by
  rw [Chip.lane, frameTaken, frameCounts_beam, ← Chip.lane]
  exact markerFound_good hl

theorem frameTaken_last : (frameTaken n x c).rd (Reg.GLK_FILL_last n) = min x.gap 65535 := frameCounts_last x

/-- The registers of a lane that neither its state nor the coding of a frame shows in. -/
theorem frameTaken_rd {g : Fld} (hs : (Reg.GLK_STATUS_state n).key ≠ g.key) (hg : ∀ f ∈ codingRegs n, f.key ≠ g.key) :
    (frameTaken n x c).rd g = c.rd g := by
  rw [frameTaken, frameCounts_rd hg, markerFound_rd hs]

theorem frameTaken_crc (h : x.crcOk = false) :
    Chip.counted (Reg.GLK_CRC_ERR_count n) (Reg.GLK_STICKY_sat n) 1 c (frameTaken n x c) := by
  refine counted_congr (frameCounts_crc h) (markerFound_rd ?_) rfl rfl
  simp only [Fld.key, Reg.GLK_STATUS_state, Reg.GLK_CRC_ERR_count]
  omega

end

/-! ### The position in an uplink frame (R206) -/

/-- Whether the CRC-8 of an actual position holds. -/
def posCrcOk (ws : List Nat) : Bool := decide (crcMsb 8 7 0 ((wordBytes (ws.take 3)).take 11) = ws.getD 2 0 % 256)

/-- Whether a frame echoes the present beat. -/
def Chip.echoes (c : Chip) (ws : List Nat) : Bool := decide (ws.getD 2 0 / 256 = c.now % 2 ^ 24)

/-- The arrival of an uplink frame shown, what is wrong with its position counted. -/
def uplinkArrived (ch : Nat) (ws : List Nat) (y : Nat) (c : Chip) : Chip :=
  let n := 2 * ch + 1
  wr (Reg.GLK_LAT_last n) y c
    |> (fun c => wr (Reg.GLK_LAT_worst n) (max (c.rd (Reg.GLK_LAT_worst n)) y) c)
    |> when (!posCrcOk ws || decide (y > 190)) (inc (Reg.GLK_POS_ERR_count n) (Reg.GLK_STICKY_sat n) 4)
    |> when (posCrcOk ws && !c.echoes ws) (inc (Reg.GLK_ECHO_ERR_count n) (Reg.GLK_STICKY_sat n) 5)

/-- The position of an uplink frame taken, when it echoes the present beat. -/
def uplinkMoved (ch : Nat) (ws : List Nat) (y : Nat) (c : Chip) : Chip :=
  if posCrcOk ws && !decide (y > 190) && c.echoes ws then
    modLink ch (fun l => { l with actual := some ((uplinkArrived ch ws y c).now, s32 (ws.getD 0 0), s32 (ws.getD 1 0)) })
      (uplinkArrived ch ws y c)
  else uplinkArrived ch ws y c

theorem uplinkPos_eq (ch : Nat) (ws : List Nat) (y : Nat) (c : Chip) : uplinkPos ch ws y c =
    (posCrcOk ws && !decide (y > 190), !posCrcOk ws || c.echoes ws, uplinkMoved ch ws y c) := rfl

/-- The registers that the arrival of an uplink frame shows and counts in. -/
def arrivalRegs (n : Nat) : List Fld :=
  [Reg.GLK_LAT_last n, Reg.GLK_LAT_worst n, Reg.GLK_POS_ERR_count n, Reg.GLK_STICKY_sat n, Reg.GLK_ECHO_ERR_count n]

theorem arrivalRegs_lane {K : Nat → Prop} {n : Nat} (hr : Keys.lane K n) : ∀ f ∈ arrivalRegs n, K f.key := by
  refine fun f hf => hr f ?_
  revert f
  simp [arrivalRegs, Fld.ofLane, Reg.GLK_LAT_last, Reg.GLK_LAT_worst, Reg.GLK_POS_ERR_count, Reg.GLK_STICKY_sat,
    Reg.GLK_ECHO_ERR_count]

section
variable {ch y : Nat} {ws : List Nat} {c : Chip} {α β : Type} {p : Lane → α} {q : Link → β} {parts : List Part}
  {K : Nat → Prop}

theorem onLinks_uplinkArrived (hr : ∀ f ∈ arrivalRegs (2 * ch + 1), K f.key) :
    Chip.onLinks p q parts K c (uplinkArrived ch ws y c) := by
  simp only [arrivalRegs, List.forall_mem_cons] at hr
  obtain ⟨hlast, hworst, hpos, hsticky, hecho, -⟩ := hr
  exact onLinks_trans (onLinks_wr hlast y c) <| onLinks_trans (onLinks_wr hworst _ _) <|
    onLinks_trans (onLinks_when (onLinks_inc hpos hsticky 4 _)) (onLinks_when (onLinks_inc hecho hsticky 5 _))

theorem onLinks_uplinkMoved (hq : ∀ (l : Link) a, q { l with actual := a } = q l) (hb : Part.beam ∈ parts)
    (hr : ∀ f ∈ arrivalRegs (2 * ch + 1), K f.key) : Chip.onLinks p q parts K c (uplinkMoved ch ws y c) :=
  onLinks_ite (onLinks_trans (onLinks_uplinkArrived hr) (onLinks_modLink hb (fun l => hq l _) _)) (onLinks_uplinkArrived hr)

theorem uplinkMoved_rd {g : Fld} (hg : ∀ f ∈ arrivalRegs (2 * ch + 1), f.key ≠ g.key) :
    (uplinkMoved ch ws y c).rd g = c.rd g :=
  rd_of_onLinks (onLinks_uplinkMoved (p := id) (q := Link.down) (parts := [.beam]) (fun _ _ => rfl) (by simp) hg)

theorem uplinkMoved_regs : (uplinkMoved ch ws y c).regs = (uplinkArrived ch ws y c).regs := by
  unfold uplinkMoved
  split <;> rfl

theorem uplinkMoved_last (hy : y < 2 ^ 16) : (uplinkMoved ch ws y c).rd (Reg.GLK_LAT_last (2 * ch + 1)) = y := by
  have hincs (b d : Bool) (j k : Nat) (e : Chip) :
      (when b (inc (Reg.GLK_ECHO_ERR_count (2 * ch + 1)) (Reg.GLK_STICKY_sat (2 * ch + 1)) j)
        (when d (inc (Reg.GLK_POS_ERR_count (2 * ch + 1)) (Reg.GLK_STICKY_sat (2 * ch + 1)) k) e)).rd
          (Reg.GLK_LAT_last (2 * ch + 1)) = e.rd (Reg.GLK_LAT_last (2 * ch + 1)) := by
    refine rd_of_onLinks (p := id) (q := id) (parts := []) (onLinks_trans (onLinks_when (onLinks_inc ?_ ?_ k e))
      (onLinks_when (onLinks_inc ?_ ?_ j _))) <;>
      simp only [Fld.key, Reg.GLK_STICKY_sat, Reg.GLK_ECHO_ERR_count, Reg.GLK_POS_ERR_count, Reg.GLK_LAT_last] <;> omega
  rw [rd_congr uplinkMoved_regs]
  refine (hincs _ _ 5 4 _).trans ?_
  rw [rd_wr_ne (by simp only [Fld.key, Reg.GLK_LAT_worst, Reg.GLK_LAT_last]; omega), rd_wr_same]
  exact Nat.mod_eq_of_lt hy

/-- What is wrong with a position counts beside the CRC errors. -/
theorem uplinkMoved_counted {b : Chip}
    (h : Chip.counted (Reg.GLK_CRC_ERR_count (2 * ch + 1)) (Reg.GLK_STICKY_sat (2 * ch + 1)) 1 b c) :
    Chip.counted (Reg.GLK_CRC_ERR_count (2 * ch + 1)) (Reg.GLK_STICKY_sat (2 * ch + 1)) 1 b (uplinkMoved ch ws y c) := by
  have hother {g : Fld} (j : Nat) (d : Bool) (e : Chip) (hcount : (Reg.GLK_CRC_ERR_count (2 * ch + 1)).key ≠ g.key)
      (hsticky : (Reg.GLK_STICKY_sat (2 * ch + 1)).key ≠ g.key)
      (he : Chip.counted (Reg.GLK_CRC_ERR_count (2 * ch + 1)) (Reg.GLK_STICKY_sat (2 * ch + 1)) 1 b e) :
      Chip.counted (Reg.GLK_CRC_ERR_count (2 * ch + 1)) (Reg.GLK_STICKY_sat (2 * ch + 1)) 1 b
        (when d (inc g (Reg.GLK_STICKY_sat (2 * ch + 1)) j) e) :=
    when_keeps (P := fun x => Chip.counted _ _ 1 b x) (counted_inc_other he hcount
      (by simp only [Fld.key, Reg.GLK_CRC_ERR_count, Reg.GLK_STICKY_sat]; omega) hsticky (by simp [Reg.GLK_STICKY_sat])) he
  have harrived : Chip.counted (Reg.GLK_CRC_ERR_count (2 * ch + 1)) (Reg.GLK_STICKY_sat (2 * ch + 1)) 1 b
      (uplinkArrived ch ws y c) := by
    refine hother 5 _ _ ?_ ?_ (hother 4 _ _ ?_ ?_ (counted_congr h rfl ?_ ?_))
    · simp only [Fld.key, Reg.GLK_CRC_ERR_count, Reg.GLK_ECHO_ERR_count]; omega
    · simp only [Fld.key, Reg.GLK_STICKY_sat, Reg.GLK_ECHO_ERR_count]; omega
    · simp only [Fld.key, Reg.GLK_CRC_ERR_count, Reg.GLK_POS_ERR_count]; omega
    · simp only [Fld.key, Reg.GLK_STICKY_sat, Reg.GLK_POS_ERR_count]; omega
    all_goals
      rw [rd_wr_ne, rd_wr_ne] <;>
        simp only [Fld.key, Reg.GLK_CRC_ERR_count, Reg.GLK_STICKY_sat, Reg.GLK_LAT_last, Reg.GLK_LAT_worst] <;> omega
  exact counted_congr harrived rfl (rd_congr uplinkMoved_regs _) (rd_congr uplinkMoved_regs _)

/-- A position that echoes the present beat is taken. -/
theorem uplinkMoved_actual (hl : ch < c.beam.links.length) (hpos : posCrcOk ws = true) (hy : y ≤ 190)
    (hecho : ws.getD 2 0 / 256 = c.now % 2 ^ 24) :
    ((uplinkMoved ch ws y c).link ch).actual = some (c.now, s32 (ws.getD 0 0), s32 (ws.getD 1 0)) := by
  have harrived := onLinks_uplinkArrived (p := id) (q := id) (parts := []) (K := fun _ => True) (ch := ch) (y := y) (ws := ws)
    (c := c) fun _ _ => trivial
  have htaken : (posCrcOk ws && !decide (y > 190) && c.echoes ws) = true := by
    simp only [Chip.echoes, hpos, hecho, decide_true, Bool.and_true, Bool.true_and, Bool.not_eq_true', decide_eq_false_iff_not]
    omega
  unfold uplinkMoved
  rw [if_pos htaken, link_modLink_same (by rw [harrived.linksLength]; exact hl), onLinks_now harrived]

end

/-! ### The words of an uplink frame -/

/-- `K` holds of what the words of an uplink frame of channel `ch` may change: the registers of its downlink lane, of its
context in Sieve `v`, and those of an event. -/
structure Keys.words (K : Nat → Prop) (v ch : Nat) : Prop where
  down : Keys.lane K (2 * ch)
  ctx : Keys.ctx K v ch
  log : ∀ f ∈ logRegs, K f.key

/-- A register of the uplink lane is none of those that the words of its frames change. -/
theorem words_apart {v ch : Nat} {g : Fld} (hch : ch < 24) (hg : Fld.ofLane (2 * ch + 1) g) :
    Keys.words (· ≠ g.key) v ch where
  down := lane_apart hg (by omega)
  ctx f hf := by
    simp only [Fld.key]
    omega
  log f hf := (chanReg_not_logged ⟨hg.1, by omega⟩ f hf).symm

/-- What the head reports of the downlink counts and is logged (R213). -/
def downReported (ch : Nat) (ws : List Nat) (c : Chip) : Chip :=
  when (bit (ws.getD 3 0) 11) (fun c => inc (Reg.GLK_DOWN_BAD_count (2 * ch)) (Reg.GLK_STICKY_sat (2 * ch)) 7 c
    |> laneEvent 0x0503 (2 * ch) 0 0 c.now) c

section
variable {v ch : Nat} {c : Chip} {α β : Type} {p : Lane → α} {q : Link → β} {parts : List Part} {K : Nat → Prop}

theorem onLinks_downReported (hs : Part.sys ∈ parts) (hr : Keys.words K v ch) (ws : List Nat) :
    Chip.onLinks p q parts K c (downReported ch ws c) :=
  onLinks_when (onLinks_trans (onLinks_inc (hr.down _ (by simp [Fld.ofLane, Reg.GLK_DOWN_BAD_count]))
    (hr.down _ (by simp [Fld.ofLane, Reg.GLK_STICKY_sat])) 7 c) (onLinks_log hs hr.log _ _ _ _))

theorem onLinks_uplinkWords (hq : ∀ (l : Link) mbx queue, q { l with mbx := mbx, queue := queue } = q l)
    (hb : Part.beam ∈ parts) (hi : Part.img ∈ parts) (hs : Part.sys ∈ parts) (hr : Keys.words K v ch) (hv : c.svOf ch = v)
    (ws : List Nat) (good : Bool) : Chip.onLinks p q parts K c (uplinkWords ch ws good c) := by
  refine onLinks_next hv (onLinks_downReported hs hr ws) fun hv => ?_
  subst hv
  exact onLinks_next rfl (onLinks_mbxAnswer hq hb hi hs hr.ctx hr.down hr.log _ _ _ _) fun hv =>
    onLinks_camWords hi hr.ctx hv _ _ _ _ _

/-- The words of a frame: of one whose CRC-32C holds, all; of another, that it is lost to the context. -/
def uplinkRest (ch : Nat) (x : LineFrame) (good : Bool) (c : Chip) : Chip :=
  if x.crcOk then uplinkWords ch x.words good c else camWords ch false false none false [] c

theorem onLinks_uplinkRest (hq : ∀ (l : Link) mbx queue, q { l with mbx := mbx, queue := queue } = q l)
    (hb : Part.beam ∈ parts) (hi : Part.img ∈ parts) (hs : Part.sys ∈ parts) (hr : Keys.words K v ch) (hv : c.svOf ch = v)
    (x : LineFrame) (good : Bool) : Chip.onLinks p q parts K c (uplinkRest ch x good c) :=
  onLinks_ite (onLinks_uplinkWords hq hb hi hs hr hv _ _) (onLinks_camWords_lost hi _ _)

theorem uplinkRest_rd (hch : ch < 24) {g : Fld} (hg : Fld.ofLane (2 * ch + 1) g) (x : LineFrame) (good : Bool) :
    (uplinkRest ch x good c).rd g = c.rd g :=
  rd_of_onLinks (onLinks_uplinkRest (p := id) (q := Link.actual) (parts := [.beam, .img, .sys]) (fun _ _ _ => rfl) (by simp)
    (by simp) (by simp) (words_apart hch hg) rfl x good)

end

end Sys2Proof.Machine
end

section
/-! UPLINK_FRAME (06_glelin_links.md, R194, R204–R207): a good frame, a bad one, and one without a marker. -/

namespace Sys2Proof.Machine

open Sys2Proof

/-- Whether an uplink frame is good (R206): its stuffing, its CRC-32C, its position's CRC-8 and its arrival. -/
def uplinkGood (x : LineFrame) (y : Nat) : Bool := x.stuffOk && x.crcOk && (posCrcOk x.words && !decide (y > 190))

/-- Whether an uplink frame whose position is whole echoes the present beat. -/
def Chip.echoOk (c : Chip) (ws : List Nat) : Bool := !posCrcOk ws || c.echoes ws

/-- The position of an uplink frame taken; a wrong echo takes the link down. -/
def uplinkEchoed (ch : Nat) (x : LineFrame) (y : Nat) (c : Chip) : Chip :=
  when (!c.echoOk x.words) (linkLost ch 3) (uplinkMoved ch x.words y c)

/-- A good frame counted, head word 3 shown, the link judged by it. -/
def uplinkHead (ch w : Nat) (echo : Bool) (c : Chip) : Chip :=
  linkEval ch w echo (wr (Reg.GLK_HEAD_word3 (2 * ch + 1)) w (laneGood (2 * ch + 1) c))

/-- What a marked uplink frame does once its coding has been counted. -/
def uplinkTold (ch : Nat) (x : LineFrame) (y : Nat) (c : Chip) : Chip :=
  if uplinkGood x y then
    uplinkRest ch x true (uplinkHead ch (x.words.getD 3 0) (c.echoOk x.words) (uplinkEchoed ch x y c))
  else laneBad (2 * ch + 1) (uplinkRest ch x false (uplinkEchoed ch x y c))

/-- The frame of the present beat has come on a lane. -/
def frameHeard (n : Nat) (c : Chip) : Chip := modLane n (fun l => { l with lastFrame := some c.now }) c

/-- A marked frame of the present beat, what its coding counts taken. -/
def frameRead (n : Nat) (x : LineFrame) (c : Chip) : Chip := frameTaken n x (frameHeard n c)

/-- The frame that an uplink lane reads from its line. -/
def Chip.uplinkRead (c : Chip) (ch : Nat) (line : List Bool) : LineFrame :=
  readLine (c.laneRate (2 * ch + 1)) (c.flag (Reg.GLK_CTL_polarity (2 * ch + 1))) (c.markerWindow (2 * ch + 1) line) line

theorem uplinkFrame_marked {ch : Nat} {line : List Bool} {y : Nat} {c : Chip} (hm : (c.uplinkRead ch line).marker = true) :
    uplinkFrame ch line y c =
      uplinkTold ch (c.uplinkRead ch line) y (frameRead (2 * ch + 1) (c.uplinkRead ch line) c) := by
  have hgood : ∀ (b : Bool) (d e : Chip), (if b then d else laneBad (2 * ch + 1) e) =
      when (!b) (laneBad (2 * ch + 1)) (if b then d else e) := by
    intro b d e
    cases b <;> rfl
  unfold uplinkTold
  rw [hgood]
  unfold uplinkFrame
  unfold Chip.uplinkRead at hm ⊢
  simp only [hm, Bool.not_true, Bool.false_eq_true, if_false, uplinkPos_eq]
  cases hg : uplinkGood (readLine (c.laneRate (2 * ch + 1)) (c.flag (Reg.GLK_CTL_polarity (2 * ch + 1)))
    (c.markerWindow (2 * ch + 1) line) line) y
  all_goals
    unfold uplinkGood at hg
    simp only [hg]
    rfl

theorem uplinkFrame_unmarked {ch : Nat} {line : List Bool} {y : Nat} {c : Chip}
    (hm : (c.uplinkRead ch line).marker = false) : uplinkFrame ch line y c =
      if c.laneState (2 * ch + 1) = 1 then frameHeard (2 * ch + 1) c else markerMissing (2 * ch + 1) (frameHeard (2 * ch + 1) c) := by
  unfold uplinkFrame
  unfold Chip.uplinkRead at hm
  simp only [hm, Bool.not_false, if_true]
  rfl

/-! ### The frame of an uplink frame -/

/-- `K` holds of all that an uplink frame of channel `ch` may change. -/
structure Keys.uplink (K : Nat → Prop) (v ch : Nat) : Prop where
  lt : ch < 24
  rx : Keys.rx K (2 * ch + 1)
  words : Keys.words K v ch

section
variable {v ch y : Nat} {x : LineFrame} {c : Chip} {α β : Type} {p : Lane → α} {q : Link → β} {parts : List Part}
  {K : Nat → Prop}

theorem lostRegs_uplink (hr : Keys.uplink K v ch) : ∀ f ∈ lostRegs ch, K f.key := by
  have hlt := hr.lt
  have hlost := lostRegs_rx hr.rx (by omega)
  rwa [show (2 * ch + 1) / 2 = ch by omega] at hlost

theorem onLinks_uplinkHead (hp : ∀ (l : Lane) good, p { l with good := good } = p l) (hb : Part.beam ∈ parts)
    (hs : Part.sys ∈ parts) (hr : Keys.uplink K v ch) (w : Nat) (echo : Bool) :
    Chip.onLinks p q parts K c (uplinkHead ch w echo c) :=
  onLinks_trans (onLinks_laneGood hp hb (goodRegs_lane hr.rx.lane) c) <|
    onLinks_trans (onLinks_wr (hr.rx.lane _ (by simp [Fld.ofLane, Reg.GLK_HEAD_word3])) w _)
    (onLinks_linkEval hb hs (lostRegs_uplink hr) w echo _)

/-- What a marked frame does after its position has been taken. -/
theorem onLinks_uplinkTold (hp : ∀ (l : Lane) good miss, p { l with good := good, miss := miss } = p l)
    (hq : ∀ (l : Link) mbx queue, q { l with mbx := mbx, queue := queue } = q l)
    (hb : Part.beam ∈ parts) (hi : Part.img ∈ parts) (hs : Part.sys ∈ parts) (hr : Keys.uplink K v ch)
    (hv : (uplinkMoved ch x.words y c).svOf ch = v) :
    Chip.onLinks p q parts K (uplinkMoved ch x.words y c) (uplinkTold ch x y c) := by
  have hlost := lostRegs_uplink hr
  refine onLinks_next hv (b := uplinkEchoed ch x y c) (onLinks_when (onLinks_linkLost hb hs hlost 3 _)) fun hv => ?_
  refine onLinks_ite ?_ ?_
  · exact onLinks_next hv (onLinks_uplinkHead (fun l good => hp l good l.miss) hb hs hr _ _) fun hv =>
      onLinks_uplinkRest hq hb hi hs hr.words hv x true
  · exact onLinks_trans (onLinks_uplinkRest hq hb hi hs hr.words hv x false)
      (onLinks_laneBad hp hb hs (badRegs_rx hr.rx) _)

end

/-! ### What an uplink frame leaves of its lane's registers -/

/-- A register of the uplink lane of channel `ch` that the fault of its link does not change. -/
structure Fld.heldBy (ch : Nat) (g : Fld) : Prop where
  lane : Fld.ofLane (2 * ch + 1) g
  lost : ∀ f ∈ lostRegs ch, f.key ≠ g.key

theorem heldBy_of_apart {ch : Nat} {g : Fld} (hch : ch < 24) (hg : Fld.ofLane (2 * ch + 1) g)
    (h : g.addr ≠ 0x140404 + ch * 0x800 ∨ (g.lo ≠ 8 ∧ g.lo ≠ 9 ∧ g.lo ≠ 16)) : Fld.heldBy ch g :=
  ⟨hg, lane_not_lost ⟨hg.1, by omega⟩ h (by omega)⟩

section
variable {ch y : Nat} {x : LineFrame} {c : Chip} {g : Fld}

theorem linkEval_rd (hg : ∀ f ∈ lostRegs ch, f.key ≠ g.key) (w : Nat) (echo : Bool) : (linkEval ch w echo c).rd g = c.rd g :=
  rd_of_onLinks (onLinks_linkEval (p := id) (q := id) (parts := [.beam, .sys]) (by simp) (by simp) hg w echo c)

theorem uplinkEchoed_moved (hg : Fld.heldBy ch g) : (uplinkEchoed ch x y c).rd g = (uplinkMoved ch x.words y c).rd g :=
  when_keeps (P := fun d => d.rd g = (uplinkMoved ch x.words y c).rd g) (linkLost_rd hg.lost 3) rfl

theorem uplinkEchoed_rd (hg : Fld.heldBy ch g) (ha : ∀ f ∈ arrivalRegs (2 * ch + 1), f.key ≠ g.key) :
    (uplinkEchoed ch x y c).rd g = c.rd g := (uplinkEchoed_moved hg).trans (uplinkMoved_rd ha)

/-- What a good frame does after it has been counted. -/
theorem uplinkTold_good_rd (hch : ch < 24) (hgood : uplinkGood x y = true) (hg : Fld.heldBy ch g)
    (hhead : g.key ≠ (Reg.GLK_HEAD_word3 (2 * ch + 1)).key) :
    (uplinkTold ch x y c).rd g = (laneGood (2 * ch + 1) (uplinkEchoed ch x y c)).rd g := by
  rw [uplinkTold, if_pos hgood, uplinkRest_rd hch hg.lane, uplinkHead, linkEval_rd hg.lost, rd_wr_ne hhead]

theorem uplinkTold_head (hch : ch < 24) (hgood : uplinkGood x y = true) :
    (uplinkTold ch x y c).rd (Reg.GLK_HEAD_word3 (2 * ch + 1)) = x.words.getD 3 0 % 2 ^ 32 := by
  have hheld : Fld.heldBy ch (Reg.GLK_HEAD_word3 (2 * ch + 1)) :=
    heldBy_of_apart hch (by simp [Fld.ofLane, Reg.GLK_HEAD_word3]) (.inl (by simp only [Reg.GLK_HEAD_word3]; omega))
  rw [uplinkTold, if_pos hgood, uplinkRest_rd hch hheld.lane, uplinkHead, linkEval_rd hheld.lost, rd_wr_same]
  rfl

theorem uplinkTold_bad (hgood : uplinkGood x y = false) :
    uplinkTold ch x y c = laneBad (2 * ch + 1) (uplinkRest ch x false (uplinkEchoed ch x y c)) := by
  rw [uplinkTold, if_neg (by simp [hgood])]

theorem uplinkBad_rd (hch : ch < 24) (hg : Fld.heldBy ch g) (ha : ∀ f ∈ arrivalRegs (2 * ch + 1), f.key ≠ g.key) :
    (uplinkRest ch x false (uplinkEchoed ch x y c)).rd g = c.rd g := by
  rw [uplinkRest_rd hch hg.lane, uplinkEchoed_rd hg ha]

theorem heldBy_state (hch : ch < 24) : Fld.heldBy ch (Reg.GLK_STATUS_state (2 * ch + 1)) :=
  heldBy_of_apart hch (by simp [Fld.ofLane, Reg.GLK_STATUS_state]) (.inr (by simp [Reg.GLK_STATUS_state]))

theorem heldBy_run (hch : ch < 24) : Fld.heldBy ch (Reg.GLK_STATUS_bad_run (2 * ch + 1)) :=
  heldBy_of_apart hch (by simp [Fld.ofLane, Reg.GLK_STATUS_bad_run]) (.inr (by simp [Reg.GLK_STATUS_bad_run]))

theorem status_not_arrival {n : Nat} (ha : g.addr = 0x140004 + n * 0x400) (hlo : g.lo < 32) :
    ∀ f ∈ arrivalRegs n, f.key ≠ g.key := by
  simp only [arrivalRegs, List.forall_mem_cons, Fld.key, Reg.GLK_LAT_last, Reg.GLK_LAT_worst, Reg.GLK_POS_ERR_count,
    Reg.GLK_STICKY_sat, Reg.GLK_ECHO_ERR_count]
  refine ⟨?_, ?_, ?_, ?_, ?_, by simp⟩ <;> omega

theorem uplinkEchoed_state (hch : ch < 24) : (uplinkEchoed ch x y c).laneState (2 * ch + 1) = c.laneState (2 * ch + 1) :=
  uplinkEchoed_rd (heldBy_state hch) (status_not_arrival rfl (by simp [Reg.GLK_STATUS_state]))

theorem uplinkEchoed_good : ((uplinkEchoed ch x y c).lane (2 * ch + 1)).good = (c.lane (2 * ch + 1)).good :=
  (onLinks_trans (onLinks_uplinkMoved (p := Lane.good) (q := Link.down) (parts := [.beam, .sys]) (K := fun _ => True)
    (fun _ _ => rfl) (by simp) fun _ _ => trivial)
    (onLinks_when (onLinks_linkLost (by simp) (by simp) (fun _ _ => trivial) 3 _))).lanes _

/-! ### A good frame -/

theorem uplinkTold_state (hch : ch < 24) (hgood : uplinkGood x y = true) : (uplinkTold ch x y c).laneState (2 * ch + 1) =
    if c.laneState (2 * ch + 1) = 2 ∧ 3 ≤ (c.lane (2 * ch + 1)).good then 3 else c.laneState (2 * ch + 1) := by
  refine (uplinkTold_good_rd hch hgood (heldBy_state hch) ?_).trans (laneGood_state.trans ?_)
  · simp only [Fld.key, Reg.GLK_STATUS_state, Reg.GLK_HEAD_word3]
    omega
  · rw [uplinkEchoed_state hch, uplinkEchoed_good]

theorem uplinkTold_run (hch : ch < 24) (hgood : uplinkGood x y = true) :
    (uplinkTold ch x y c).rd (Reg.GLK_STATUS_bad_run (2 * ch + 1)) = 0 := by
  refine (uplinkTold_good_rd hch hgood (heldBy_run hch) ?_).trans laneGood_run
  simp only [Fld.key, Reg.GLK_STATUS_bad_run, Reg.GLK_HEAD_word3]
  omega

theorem uplinkTold_counted (hch : ch < 24) (hgood : uplinkGood x y = true) :
    Chip.counted (Reg.GLK_FRAMES_count (2 * ch + 1)) (Reg.GLK_STICKY_sat (2 * ch + 1)) 0 c (uplinkTold ch x y c) := by
  have hframes : Fld.heldBy ch (Reg.GLK_FRAMES_count (2 * ch + 1)) :=
    heldBy_of_apart hch (by simp [Fld.ofLane, Reg.GLK_FRAMES_count]) (.inl (by simp only [Reg.GLK_FRAMES_count]; omega))
  have hsticky : Fld.heldBy ch (Reg.GLK_STICKY_sat (2 * ch + 1)) :=
    heldBy_of_apart hch (by simp [Fld.ofLane, Reg.GLK_STICKY_sat]) (.inl (by simp only [Reg.GLK_STICKY_sat]; omega))
  refine counted_congr laneGood_counted (uplinkEchoed_rd hframes ?_) (uplinkTold_good_rd hch hgood hframes ?_)
    (uplinkTold_good_rd hch hgood hsticky ?_)
  · simp only [arrivalRegs, List.forall_mem_cons, Fld.key, Reg.GLK_LAT_last, Reg.GLK_LAT_worst, Reg.GLK_POS_ERR_count,
      Reg.GLK_STICKY_sat, Reg.GLK_ECHO_ERR_count, Reg.GLK_FRAMES_count]
    refine ⟨?_, ?_, ?_, ?_, ?_, by simp⟩ <;> omega
  · simp only [Fld.key, Reg.GLK_FRAMES_count, Reg.GLK_HEAD_word3]
    omega
  · simp only [Fld.key, Reg.GLK_STICKY_sat, Reg.GLK_HEAD_word3]
    omega

/-! ### A bad frame -/

theorem uplinkTold_bad_state (hch : ch < 24) (hgood : uplinkGood x y = false) :
    (uplinkTold ch x y c).laneState (2 * ch + 1) =
      if c.laneState (2 * ch + 1) = 2 then 1 else c.laneState (2 * ch + 1) := by
  have hsame : (uplinkRest ch x false (uplinkEchoed ch x y c)).laneState (2 * ch + 1) = c.laneState (2 * ch + 1) :=
    uplinkBad_rd hch (heldBy_state hch) (status_not_arrival rfl (by simp [Reg.GLK_STATUS_state]))
  rw [uplinkTold_bad hgood, laneBad_state (by omega), hsame]

theorem uplinkTold_bad_run (hch : ch < 24) (hgood : uplinkGood x y = false) :
    (uplinkTold ch x y c).rd (Reg.GLK_STATUS_bad_run (2 * ch + 1)) =
      min (c.rd (Reg.GLK_STATUS_bad_run (2 * ch + 1)) + 1) 15 := by
  rw [uplinkTold_bad hgood, laneBad_run (by omega),
    uplinkBad_rd hch (heldBy_run hch) (status_not_arrival rfl (by simp [Reg.GLK_STATUS_bad_run]))]

theorem uplinkTold_crc {b : Chip} (hch : ch < 24) (hcrc : x.crcOk = false)
    (h : Chip.counted (Reg.GLK_CRC_ERR_count (2 * ch + 1)) (Reg.GLK_STICKY_sat (2 * ch + 1)) 1 b c) :
    Chip.counted (Reg.GLK_CRC_ERR_count (2 * ch + 1)) (Reg.GLK_STICKY_sat (2 * ch + 1)) 1 b (uplinkTold ch x y c) := by
  have hkeep {g : Fld} (hg : Fld.ofLane (2 * ch + 1) g) (ha : ∀ k, g.addr ≠ 0x140004 + k * 0x400) :
      (uplinkTold ch x y c).rd g = (uplinkMoved ch x.words y c).rd g := by
    have hheld : Fld.heldBy ch g := heldBy_of_apart hch hg (.inl (by have := ha (2 * ch + 1); omega))
    rw [uplinkTold_bad (by simp [uplinkGood, hcrc]), laneBad_rd (count_not_bad (by omega) ⟨hg.1, by omega, ha⟩),
      uplinkRest_rd hch hg, uplinkEchoed_moved hheld]
  refine counted_congr (uplinkMoved_counted h) rfl (hkeep (by simp [Fld.ofLane, Reg.GLK_CRC_ERR_count]) fun k => ?_)
    (hkeep (by simp [Fld.ofLane, Reg.GLK_STICKY_sat]) fun k => ?_)
  · simp only [Reg.GLK_CRC_ERR_count]
    omega
  · simp only [Reg.GLK_STICKY_sat]
    omega

/-! ### Any marked frame -/

theorem uplinkTold_moved (hch : ch < 24) (hg : Fld.heldBy ch g) (ha : ∀ k, g.addr ≠ 0x140004 + k * 0x400)
    (hhead : g.key ≠ (Reg.GLK_HEAD_word3 (2 * ch + 1)).key) (hgood : ∀ f ∈ goodRegs (2 * ch + 1), f.key ≠ g.key) :
    (uplinkTold ch x y c).rd g = (uplinkMoved ch x.words y c).rd g := by
  cases h : uplinkGood x y
  · rw [uplinkTold_bad h, laneBad_rd (count_not_bad (by omega) ⟨hg.lane.1, by have := hg.lane.2.1; omega, ha⟩),
      uplinkRest_rd hch hg.lane, uplinkEchoed_moved hg]
  · rw [uplinkTold_good_rd hch h hg hhead, rd_of_onLinks (onLinks_laneGood (p := Lane.lastFrame) (q := id) (parts := [.beam])
      (fun _ _ => rfl) (by simp) hgood _), uplinkEchoed_moved hg]

theorem uplinkTold_latency (hch : ch < 24) (hy : y < 2 ^ 16) :
    (uplinkTold ch x y c).rd (Reg.GLK_LAT_last (2 * ch + 1)) = y := by
  refine (uplinkTold_moved hch (heldBy_of_apart hch ?_ (.inl ?_)) (fun k => ?_) ?_ ?_).trans (uplinkMoved_last hy)
  · simp [Fld.ofLane, Reg.GLK_LAT_last]
  · simp only [Reg.GLK_LAT_last]; omega
  · simp only [Reg.GLK_LAT_last]; omega
  · simp only [Fld.key, Reg.GLK_LAT_last, Reg.GLK_HEAD_word3]; omega
  · simp only [goodRegs, List.forall_mem_cons, Fld.key, Reg.GLK_STATUS_bad_run, Reg.GLK_FRAMES_count, Reg.GLK_STICKY_sat,
      Reg.GLK_STATUS_state, Reg.GLK_LAT_last]
    refine ⟨?_, ?_, ?_, ?_, by simp⟩ <;> omega

theorem uplinkTold_fill (hch : ch < 24) :
    (uplinkTold ch x y c).rd (Reg.GLK_FILL_last (2 * ch + 1)) = c.rd (Reg.GLK_FILL_last (2 * ch + 1)) := by
  refine (uplinkTold_moved hch (heldBy_of_apart hch ?_ (.inl ?_)) (fun k => ?_) ?_ ?_).trans (uplinkMoved_rd ?_)
  · simp [Fld.ofLane, Reg.GLK_FILL_last]
  · simp only [Reg.GLK_FILL_last]; omega
  · simp only [Reg.GLK_FILL_last]; omega
  · simp only [Fld.key, Reg.GLK_FILL_last, Reg.GLK_HEAD_word3]; omega
  · simp only [goodRegs, List.forall_mem_cons, Fld.key, Reg.GLK_STATUS_bad_run, Reg.GLK_FRAMES_count, Reg.GLK_STICKY_sat,
      Reg.GLK_STATUS_state, Reg.GLK_FILL_last]
    refine ⟨?_, ?_, ?_, ?_, by simp⟩ <;> omega
  · simp only [arrivalRegs, List.forall_mem_cons, Fld.key, Reg.GLK_LAT_last, Reg.GLK_LAT_worst, Reg.GLK_POS_ERR_count,
      Reg.GLK_STICKY_sat, Reg.GLK_ECHO_ERR_count, Reg.GLK_FILL_last]
    refine ⟨?_, ?_, ?_, ?_, ?_, by simp⟩ <;> omega

end

end Sys2Proof.Machine
end

section
/-! UPLINK_FRAME on a lane that hears: what `Claim.UplinkFrames` states. -/

namespace Sys2Proof.Machine

open Sys2Proof

/-! ### A lane that hears -/

theorem laneHears_state {c : Chip} {n : Nat} (h : c.laneHears n = true) : 1 ≤ c.laneState n ∧ c.laneState n ≤ 3 := by
  simp only [Chip.laneHears, Bool.and_eq_true, decide_eq_true_eq] at h
  exact ⟨h.1.2, h.2⟩

theorem laneTests_of_hears {c : Chip} {n : Nat} (h : c.laneHears n = true) : c.laneTests n = false := by
  have hst := laneHears_state h
  simp only [Chip.laneTests, Bool.and_eq_false_iff]
  exact .inr (beq_eq_false_iff_ne.2 (by omega))

theorem uplink_hears {ch : Nat} {line : List Bool} {y : Nat} {c : Chip} (h : c.laneHears (2 * ch + 1) = true) :
    uplink ch line y c = uplinkFrame ch line y c := by
  simp only [uplink, laneLine, laneTests_of_hears h, h, when_true, Bool.false_eq_true, if_false]

theorem uplinkGood_iff {x : LineFrame} {y : Nat} : uplinkGood x y = true ↔ x.stuffOk = true ∧ x.crcOk = true ∧
    crcMsb 8 7 0 ((wordBytes (x.words.take 3)).take 11) = x.words.getD 2 0 % 256 ∧ y ≤ 190 := by
  simp [uplinkGood, posCrcOk, and_assoc]

/-! ### Before the frame is told -/

section
variable {ch : Nat} {x : LineFrame} {c : Chip}

theorem frameHeard_lane {n : Nat} (hl : n < c.beam.lanes.length) :
    (frameHeard n c).lane n = { c.lane n with lastFrame := some c.now } := lane_modLane_same hl _

theorem frameHeard_good {n : Nat} : ((frameHeard n c).lane n).good = (c.lane n).good :=
  modAt_getD_field (p := Lane.good) (by intro _; rfl) _ n n _

theorem onLinks_frameHeard {α β : Type} {p : Lane → α} {q : Link → β} {parts : List Part} {K : Nat → Prop} {n : Nat}
    (hp : ∀ (l : Lane) b, p { l with lastFrame := b } = p l) (hb : Part.beam ∈ parts) :
    Chip.onLinks p q parts K c (frameHeard n c) := onLinks_modLane hb (fun l => hp l (some c.now)) c

theorem frameRead_state {n : Nat} : (frameRead n x c).laneState n = if c.laneState n = 1 then 2 else c.laneState n :=
  frameTaken_state

theorem frameRead_good {n : Nat} (hl : n < c.beam.lanes.length) :
    ((frameRead n x c).lane n).good = if c.laneState n = 1 then 0 else (c.lane n).good := by
  refine (frameTaken_good (c := frameHeard n c) ((modAt_length _ _ _).symm ▸ hl)).trans ?_
  rw [frameHeard_good]
  rfl

theorem frameRead_lastFrame {n : Nat} (hl : n < c.beam.lanes.length) :
    ((frameRead n x c).lane n).lastFrame = some c.now :=
  ((onLinks_frameTaken (p := Lane.lastFrame) (q := id) (parts := [.beam]) (K := fun _ => True) (fun _ _ _ => rfl) (by simp)
    fun _ _ => trivial).lanes n).trans (congrArg Lane.lastFrame (frameHeard_lane hl))

/-- A marked frame leaves the run of bad frames and the count of good ones. -/
theorem frameRead_rd {n : Nat} {g : Fld} (hs : (Reg.GLK_STATUS_state n).key ≠ g.key)
    (hg : ∀ f ∈ codingRegs n, f.key ≠ g.key) : (frameRead n x c).rd g = c.rd g := frameTaken_rd hs hg

theorem frameRead_run {n : Nat} : (frameRead n x c).rd (Reg.GLK_STATUS_bad_run n) = c.rd (Reg.GLK_STATUS_bad_run n) := by
  refine frameRead_rd ?_ ?_
  · simp only [Fld.key, Reg.GLK_STATUS_state, Reg.GLK_STATUS_bad_run]
    omega
  · simp only [codingRegs, List.forall_mem_cons, Fld.key, Reg.GLK_FILL_last, Reg.GLK_FILL_least, Reg.GLK_STUFF_ERR_count,
      Reg.GLK_STICKY_sat, Reg.GLK_CRC_ERR_count, Reg.GLK_STATUS_bad_run]
    refine ⟨?_, ?_, ?_, ?_, ?_, by simp⟩ <;> omega

theorem frameRead_frames {n : Nat} : (frameRead n x c).rd (Reg.GLK_FRAMES_count n) = c.rd (Reg.GLK_FRAMES_count n) := by
  refine frameRead_rd ?_ ?_
  · simp only [Fld.key, Reg.GLK_STATUS_state, Reg.GLK_FRAMES_count]
    omega
  · simp only [codingRegs, List.forall_mem_cons, Fld.key, Reg.GLK_FILL_last, Reg.GLK_FILL_least, Reg.GLK_STUFF_ERR_count,
      Reg.GLK_STICKY_sat, Reg.GLK_CRC_ERR_count, Reg.GLK_FRAMES_count]
    refine ⟨?_, ?_, ?_, ?_, ?_, by simp⟩ <;> omega

theorem onLinks_frameRead {α β : Type} {p : Lane → α} {q : Link → β} {parts : List Part} {K : Nat → Prop} {n : Nat}
    (hp : ∀ (l : Lane) good miss b, p { l with good := good, miss := miss, lastFrame := b } = p l) (hb : Part.beam ∈ parts)
    (hr : Keys.lane K n) : Chip.onLinks p q parts K c (frameRead n x c) :=
  onLinks_trans (onLinks_frameHeard (fun l b => hp l l.good l.miss b) hb)
    (onLinks_frameTaken (fun l good miss => hp l good miss l.lastFrame) hb hr)

end

/-! ### The registers that an uplink frame may change -/

/-- The registers of `Claim.UplinkFrames`. -/
def uplinkKeys (v ch : Nat) : Nat → Prop :=
  Fld.among eventRegs [(0x140000 + 2 * ch * 0x400, 0x140800 + 2 * ch * 0x400),
    (0x100000 + ch * 0x1000, 0x101000 + ch * 0x1000),
    (0x190000 + v * 0x20000 + ch * 0x800, 0x190800 + v * 0x20000 + ch * 0x800)]

theorem uplinkKeys_uplink {v ch : Nat} (hch : ch < 24) : Keys.uplink (uplinkKeys v ch) v ch := by
  have hlog : ∀ f ∈ logRegs, uplinkKeys v ch f.key := fun f hf => among_of_mem (logRegs_event hf)
  have hlane (k : Nat) (hk : k = 2 * ch ∨ k = 2 * ch + 1) : Keys.lane (uplinkKeys v ch) k := fun f hf =>
    among_of_range List.mem_cons_self hf.1 (by omega) (by omega)
  refine ⟨hch, ⟨hlane _ (.inr rfl), hlog, fun _ => ⟨by omega, fun f hf => ?_⟩⟩, ⟨hlane _ (.inl rfl), fun f hf => ?_, hlog⟩⟩
  · exact among_of_range (List.mem_cons_of_mem _ List.mem_cons_self) hf.1 (by omega) (by omega)
  · exact among_of_range (List.mem_cons_of_mem _ (List.mem_cons_of_mem _ List.mem_cons_self)) hf.1 hf.2.1 hf.2.2

/-! ### The effect of an uplink frame -/

section
variable {ch : Fin 24} {line : List Bool} {y : BitVec 16} {c : Chip} {v : Nat}

/-- The whole effect of UPLINK_FRAME on a lane that hears stays within its frame. -/
theorem onLinks_uplinkFrame (hv : c.svOf ch.val = v) : Chip.onLinks (fun _ => ()) (fun _ => ()) [.beam, .img, .sys]
    (uplinkKeys v ch.val) c (uplinkFrame ch.val line y.toNat c) := by
  have hr := uplinkKeys_uplink (v := v) ch.isLt
  cases hm : (c.uplinkRead ch.val line).marker
  · rw [uplinkFrame_unmarked hm]
    have hheard := onLinks_frameHeard (p := fun _ => ()) (q := fun _ => ()) (parts := [.beam, .img, .sys])
      (K := uplinkKeys v ch.val) (n := 2 * ch.val + 1) (c := c) (fun _ _ => rfl) (by simp)
    exact onLinks_ite hheard (onLinks_trans hheard
      (onLinks_markerMissing (fun _ _ _ => rfl) (by simp) (by simp) (by simp) (missRegs_rx hr.rx) _))
  · rw [uplinkFrame_marked hm]
    generalize c.uplinkRead ch.val line = x
    have hread := onLinks_frameRead (p := fun _ => ()) (q := fun _ => ()) (parts := [.beam, .img, .sys])
      (K := uplinkKeys v ch.val) (n := 2 * ch.val + 1) (x := x) (c := c) (fun _ _ _ _ => rfl) (by simp) hr.rx.lane
    refine onLinks_next hv hread fun hv => ?_
    have hmoved := onLinks_uplinkMoved (p := fun _ => ()) (q := fun _ => ()) (parts := [.beam, .img, .sys])
      (K := uplinkKeys v ch.val) (ch := ch.val) (ws := x.words) (y := y.toNat) (c := frameRead (2 * ch.val + 1) x c)
      (fun _ _ => rfl) (by simp) (arrivalRegs_lane hr.rx.lane)
    exact onLinks_next hv hmoved fun hv =>
      onLinks_uplinkTold (fun _ _ _ => rfl) (fun _ _ _ => rfl) (by simp) (by simp) (by simp) hr hv

/-- Every register key. -/
def Keys.all (_ : Nat) : Prop := True

theorem uplink_all (v : Nat) (ch : Fin 24) : Keys.uplink Keys.all v ch.val :=
  ⟨ch.isLt, ⟨fun _ _ => trivial, fun _ _ => trivial, fun _ => ⟨by omega, fun _ _ => trivial⟩⟩,
    ⟨fun _ _ => trivial, fun _ _ => trivial, fun _ _ => trivial⟩⟩

/-- What a marked frame leaves of lanes and links after its position has been taken. -/
theorem uplinkTold_keeps {α β : Type} {p : Lane → α} {q : Link → β} {x : LineFrame}
    (hp : ∀ (l : Lane) good miss, p { l with good := good, miss := miss } = p l)
    (hq : ∀ (l : Link) mbx queue, q { l with mbx := mbx, queue := queue } = q l) :
    Chip.onLinks p q [.beam, .img, .sys] Keys.all (uplinkMoved ch.val x.words y.toNat c) (uplinkTold ch.val x y.toNat c) :=
  onLinks_uplinkTold hp hq (by simp) (by simp) (by simp) (uplink_all _ ch) rfl

theorem uplinkFrame_lastFrame (hl : 2 * ch.val + 1 < c.beam.lanes.length) :
    ((uplinkFrame ch.val line y.toNat c).lane (2 * ch.val + 1)).lastFrame = some c.now := by
  cases hm : (c.uplinkRead ch.val line).marker
  · rw [uplinkFrame_unmarked hm]
    have hheard := congrArg Lane.lastFrame (frameHeard_lane (n := 2 * ch.val + 1) hl)
    split
    · exact hheard
    · exact ((onLinks_markerMissing (p := Lane.lastFrame) (q := id) (parts := [.beam, .img, .sys]) (K := fun _ => True)
        (fun _ _ _ => rfl) (by simp) (by simp) (by simp) (fun _ _ => trivial) _).lanes _).trans hheard
  · rw [uplinkFrame_marked hm]
    generalize c.uplinkRead ch.val line = x
    have hmoved := onLinks_uplinkMoved (p := Lane.lastFrame) (q := Link.down) (parts := [.beam, .img, .sys])
      (K := Keys.all) (ch := ch.val) (ws := x.words) (y := y.toNat) (c := frameRead (2 * ch.val + 1) x c)
      (fun _ _ => rfl) (by simp) fun _ _ => trivial
    have htold := uplinkTold_keeps (p := Lane.lastFrame) (q := Link.down) (ch := ch) (x := x) (y := y)
      (c := frameRead (2 * ch.val + 1) x c) (fun _ _ _ => rfl) (fun _ _ _ => rfl)
    rw [(onLinks_trans hmoved htold).lanes]
    exact frameRead_lastFrame hl

/-- A position that echoes the present beat is the head's actual one after the frame. -/
theorem uplinkTold_actual {x : LineFrame} (hk : ch.val < c.beam.links.length) (hgood : uplinkGood x y.toNat = true)
    (hecho : x.words.getD 2 0 / 256 = c.now % 2 ^ 24) : ((uplinkTold ch.val x y.toNat c).link ch.val).actual =
      some (c.now, s32 (x.words.getD 0 0), s32 (x.words.getD 1 0)) := by
  obtain ⟨-, -, hpos, hy⟩ := uplinkGood_iff.1 hgood
  have htold := uplinkTold_keeps (p := fun _ => ()) (q := Link.actual) (ch := ch) (x := x) (y := y) (c := c)
    (fun _ _ _ => rfl) (fun _ _ _ => rfl)
  rw [htold.links]
  exact uplinkMoved_actual hk (decide_eq_true hpos) hy hecho

end

end Sys2Proof.Machine
end

section
/-! `Claim.UplinkFrames`: the end of UPLINK_FRAME on a lane that hears. -/

namespace Sys2Proof.Machine

open Sys2Proof

section
variable {ch : Fin 24} {x : LineFrame} {y : BitVec 16} {c : Chip}

/-- Where a good frame leaves its lane: VERIFY, or LOCKED with the fourth in a row. -/
theorem uplink_good_state (hl : 2 * ch.val + 1 < c.beam.lanes.length) (hears : c.laneHears (2 * ch.val + 1) = true)
    (hgood : uplinkGood x y.toNat = true) :
    (uplinkTold ch.val x y.toNat (frameRead (2 * ch.val + 1) x c)).laneState (2 * ch.val + 1) =
      if c.laneState (2 * ch.val + 1) = 3 ∨ (c.laneState (2 * ch.val + 1) = 2 ∧ 3 ≤ (c.lane (2 * ch.val + 1)).good) then 3
      else 2 := by
  have hst := laneHears_state hears
  rw [uplinkTold_state ch.isLt hgood, frameRead_state, frameRead_good hl]
  generalize c.laneState (2 * ch.val + 1) = st at *
  have hcases : st = 1 ∨ st = 2 ∨ st = 3 := by omega
  rcases hcases with rfl | rfl | rfl <;> simp

theorem uplink_bad_state (hears : c.laneHears (2 * ch.val + 1) = true) (hgood : uplinkGood x y.toNat = false) :
    (uplinkTold ch.val x y.toNat (frameRead (2 * ch.val + 1) x c)).laneState (2 * ch.val + 1) =
      if c.laneState (2 * ch.val + 1) = 3 then 3 else 1 := by
  have hst := laneHears_state hears
  rw [uplinkTold_bad_state ch.isLt hgood, frameRead_state]
  generalize c.laneState (2 * ch.val + 1) = st at *
  have hcases : st = 1 ∨ st = 2 ∨ st = 3 := by omega
  rcases hcases with rfl | rfl | rfl <;> simp

theorem frameRead_now {n : Nat} : (frameRead n x c).now = c.now :=
  onLinks_now (onLinks_frameRead (p := fun _ => ()) (q := id) (parts := [.beam]) (K := Keys.all) (fun _ _ _ _ => rfl) (by simp)
    fun _ _ => trivial)

theorem frameRead_links {n : Nat} : (frameRead n x c).beam.links.length = c.beam.links.length :=
  (onLinks_frameRead (p := fun _ => ()) (q := id) (parts := [.beam]) (K := Keys.all) (fun _ _ _ _ => rfl) (by simp)
    fun _ _ => trivial).linksLength

theorem frameRead_crc {n : Nat} (h : x.crcOk = false) :
    Chip.counted (Reg.GLK_CRC_ERR_count n) (Reg.GLK_STICKY_sat n) 1 c (frameRead n x c) :=
  counted_congr (frameTaken_crc (n := n) (c := frameHeard n c) h) rfl rfl rfl

theorem uplink_crc_counted (hcrc : x.crcOk = false) :
    Chip.counted (Reg.GLK_CRC_ERR_count (2 * ch.val + 1)) (Reg.GLK_STICKY_sat (2 * ch.val + 1)) 1 c
      (uplinkTold ch.val x y.toNat (frameRead (2 * ch.val + 1) x c)) :=
  uplinkTold_crc ch.isLt hcrc (frameRead_crc hcrc)

theorem uplink_frames_counted (hgood : uplinkGood x y.toNat = true) :
    Chip.counted (Reg.GLK_FRAMES_count (2 * ch.val + 1)) (Reg.GLK_STICKY_sat (2 * ch.val + 1)) 0 c
      (uplinkTold ch.val x y.toNat (frameRead (2 * ch.val + 1) x c)) :=
  counted_congr (uplinkTold_counted ch.isLt hgood) frameRead_frames rfl rfl

theorem uplink_actual (hk : ch.val < c.beam.links.length) (hgood : uplinkGood x y.toNat = true)
    (hecho : x.words.getD 2 0 / 256 = c.now % 2 ^ 24) :
    ((uplinkTold ch.val x y.toNat (frameRead (2 * ch.val + 1) x c)).link ch.val).actual =
      some (c.now, s32 (x.words.getD 0 0), s32 (x.words.getD 1 0)) := by
  have hnow := frameRead_now (x := x) (c := c) (n := 2 * ch.val + 1)
  rw [uplinkTold_actual (by rwa [frameRead_links]) hgood (by rwa [hnow]), hnow]

theorem uplink_bad_run (hgood : uplinkGood x y.toNat = false) :
    (uplinkTold ch.val x y.toNat (frameRead (2 * ch.val + 1) x c)).rd (Reg.GLK_STATUS_bad_run (2 * ch.val + 1)) =
      min (c.rd (Reg.GLK_STATUS_bad_run (2 * ch.val + 1)) + 1) 15 := by
  rw [uplinkTold_bad_run ch.isLt hgood, frameRead_run]

theorem uplink_fill : (uplinkTold ch.val x y.toNat (frameRead (2 * ch.val + 1) x c)).rd (Reg.GLK_FILL_last (2 * ch.val + 1)) =
    min x.gap 65535 := (uplinkTold_fill ch.isLt).trans frameTaken_last

end

/-- UPLINK_FRAME on a lane that hears (R194, R204–R207). -/
theorem uplinkFrames : Claim.UplinkFrames := by
  intro s ch line y hp
  dsimp only
  intro l k hl hk hears
  obtain ⟨hlane, hlen⟩ := lane_of_get hl
  obtain ⟨-, hklen⟩ := link_of_get hk
  have heff : uplink ch.val line y.toNat s.core.unsent = uplinkFrame ch.val line y.toNat s.core.unsent :=
    uplink_hears hears
  have hframe := onLinks_uplinkFrame (ch := ch) (line := line) (y := y) (c := s.core.unsent) (v := s.core.svOf ch.val) rfl
  refine ends_onLinks (.inl rfl) hp heff hframe permit_among fun t hleaves hout hparts hregs => ?_
  have hrd {g : Fld} (hg : Fld.ofLane (2 * ch.val + 1) g) :=
    leaves_rd hleaves (permit_not_lane (n := 2 * ch.val + 1) (by omega) hg)
  have hlast : (t.core.lane (2 * ch.val + 1)).lastFrame = some s.core.now :=
    (congrArg Lane.lastFrame (leaves_lane hleaves _)).trans (uplinkFrame_lastFrame (c := s.core.unsent) hlen)
  cases hm : (s.core.uplinkRead ch.val line).marker
  · have hnone {P : Prop} (h : (s.core.uplinkRead ch.val line).marker = true) : P := by rw [hm] at h; cases h
    refine ⟨hlast, fun _ hst => ?_, hnone, hnone, hnone, hout, hparts, regsWithin_of_regsBut hregs⟩
    have hstay : uplinkFrame ch.val line y.toNat s.core.unsent = frameHeard (2 * ch.val + 1) s.core.unsent :=
      (uplinkFrame_unmarked (c := s.core.unsent) hm).trans (if_pos hst)
    rw [hstay] at hleaves
    have hheard := onLinks_frameHeard (p := fun _ => ()) (q := id) (parts := [.beam]) (n := 2 * ch.val + 1)
      (K := Fld.among [Reg.GIO_STATUS_permit] []) (c := s.core.unsent) (fun _ _ => rfl) (by simp)
    exact ⟨(leaves_rd hleaves (permit_not_lane (n := 2 * ch.val + 1) (by omega)
        (by simp [Fld.ofLane, Reg.GLK_STATUS_state]))).trans hst,
      only_trans (only_trans (only_out _ _ []) hheard.parts) (only_mono hleaves.parts (List.nil_subset _)),
      regsKept_of_regsBut (leaves_regsBut hleaves (among_of_mem (by simp)) hheard.regs)⟩
  · have hmark : (s.core.uplinkRead ch.val line).marker ≠ false := by simp [hm]
    rw [uplinkFrame_marked (c := s.core.unsent) hm] at hleaves hrd
    refine ⟨hlast, fun h => absurd h hmark, fun _ => ⟨?_, ?_, fun hcrc => ?_⟩, fun _ hgood => ?_, fun _ hgood => ?_, hout, hparts,
      regsWithin_of_regsBut hregs⟩
    · exact (hrd (by simp [Fld.ofLane, Reg.GLK_FILL_last])).trans uplink_fill
    · exact (hrd (by simp [Fld.ofLane, Reg.GLK_LAT_last])).trans (uplinkTold_latency ch.isLt y.isLt)
    · exact counted_congr (uplink_crc_counted (c := s.core.unsent) hcrc) rfl
        (hrd (by simp [Fld.ofLane, Reg.GLK_CRC_ERR_count])) (hrd (by simp [Fld.ofLane, Reg.GLK_STICKY_sat]))
    · have hgood := uplinkGood_iff.2 hgood
      refine ⟨counted_congr (uplink_frames_counted (c := s.core.unsent) hgood) rfl
        (hrd (by simp [Fld.ofLane, Reg.GLK_FRAMES_count]))
        (hrd (by simp [Fld.ofLane, Reg.GLK_STICKY_sat])), ?_, ?_, ?_, fun hecho => ?_⟩
      · exact (hrd (by simp [Fld.ofLane, Reg.GLK_STATUS_bad_run])).trans (uplinkTold_run ch.isLt hgood)
      · exact (hrd (by simp [Fld.ofLane, Reg.GLK_HEAD_word3])).trans (uplinkTold_head ch.isLt hgood)
      · rw [← hlane]
        exact (hrd (by simp [Fld.ofLane, Reg.GLK_STATUS_state])).trans (uplink_good_state (c := s.core.unsent) hlen hears hgood)
      · rw [leaves_link hleaves]
        exact uplink_actual (c := s.core.unsent) hklen hgood hecho
    · have hgood : uplinkGood (s.core.uplinkRead ch.val line) y.toNat = false :=
        Bool.eq_false_iff.2 fun h => hgood (uplinkGood_iff.1 h)
      exact ⟨(hrd (by simp [Fld.ofLane, Reg.GLK_STATUS_bad_run])).trans
          (uplink_bad_run (c := s.core.unsent) hgood),
        (hrd (by simp [Fld.ofLane, Reg.GLK_STATUS_state])).trans (uplink_bad_state (c := s.core.unsent) hears hgood)⟩

end Sys2Proof.Machine
end

section
/-! OVERVIEW_FRAME (06_glelin_links.md, R209): a camera beat's frames on the two lanes of an overview camera. -/

namespace Sys2Proof.Machine

open Sys2Proof

/-! ### Lanes that a step leaves alone -/

/-- Lane `m` and its registers are as before. -/
structure Chip.laneKept (m : Nat) (c d : Chip) : Prop where
  rd : ∀ g, Fld.ofLane m g → d.rd g = c.rd g
  lane : d.lane m = c.lane m
  length : d.beam.lanes.length = c.beam.lanes.length

section
variable {m n : Nat} {c d e : Chip}

theorem laneKept_trans (h : Chip.laneKept m c d) (k : Chip.laneKept m d e) : Chip.laneKept m c e :=
  ⟨fun g hg => (k.rd g hg).trans (h.rd g hg), k.lane.trans h.lane, k.length.trans h.length⟩

theorem laneKept_state (h : Chip.laneKept m c d) : d.laneState m = c.laneState m :=
  h.rd _ (by simp [Fld.ofLane, Reg.GLK_STATUS_state])

theorem lane_modLane_ne (h : m ≠ n) (f : Lane → Lane) : (modLane n f c).lane m = c.lane m := modAt_getD_ne _ h _ _

theorem frameTaken_laneKept (h : m ≠ n) (x : LineFrame) : Chip.laneKept m c (frameTaken n x c) := by
  have hframe {K : Nat → Prop} (hr : Keys.lane K n) := onLinks_frameTaken (p := Lane.lastFrame) (q := id) (parts := [.beam])
    (K := K) (x := x) (c := c) (fun _ _ _ => rfl) (by simp) hr
  refine ⟨fun g hg => rd_of_onLinks (hframe (lane_apart hg h.symm)), ?_, (hframe (K := Keys.all) fun _ _ => trivial).lanesLength⟩
  rw [Chip.lane, frameTaken, frameCounts_beam, ← Chip.lane]
  unfold markerFound
  dsimp only
  split
  · rw [lane_modLane_ne h]
    exact lane_modLane_ne h _
  · exact lane_modLane_ne h _

theorem laneGood_laneKept (h : m ≠ n) : Chip.laneKept m c (laneGood n c) := by
  have hframe {K : Nat → Prop} (hr : Keys.lane K n) := onLinks_laneGood (p := Lane.lastFrame) (q := id) (parts := [.beam])
    (K := K) (fun _ _ => rfl) (by simp) (goodRegs_lane hr) c
  refine ⟨fun g hg => rd_of_onLinks (hframe (lane_apart hg h.symm)), ?_, (hframe (K := Keys.all) fun _ _ => trivial).lanesLength⟩
  have hcount : (inc (Reg.GLK_FRAMES_count n) (Reg.GLK_STICKY_sat n) 0 (wr (Reg.GLK_STATUS_bad_run n) 0 c)).lane m = c.lane m := by
    rw [Chip.lane, inc_beam, Chip.lane]
    rfl
  unfold laneGood
  dsimp only
  split
  · split
    · exact (lane_modLane_ne h _).trans hcount
    · exact (lane_modLane_ne h _).trans hcount
  · exact hcount

theorem ovWords_laneKept (hn : n < 32) (hm : m < 64) (usable good : Bool) (hdr : Option FrameHdr) (fin : Bool)
    (px : List Nat) : Chip.laneKept m c (ovWords n usable good hdr fin px c) := by
  have hframe {K : Nat → Prop} (hr : Keys.sieve K (c.svOf n) n) := onLinks_ovWords (p := id) (q := id)
    (parts := [.img, .sys, .mem]) (by simp) (by simp) (by simp) hr rfl usable good hdr fin px
  have hall := hframe (K := Keys.all) ⟨fun _ _ => trivial, fun _ _ => trivial, hn⟩
  refine ⟨fun g hg => rd_of_onLinks (hframe ⟨fun f hf => ?_, fun f hf => ?_, hn⟩), hall.lanes m, hall.lanesLength⟩
  · simp only [Fld.key]
    omega
  · exact (chanReg_not_logged ⟨hg.1, by omega⟩ f hf).symm

/-! ### A good frame on a lane, among the steps of others -/

/-- A lane that takes a marked, good frame counts it, and is in VERIFY, or LOCKED with the fourth in a row. -/
theorem goodFrame_after {x : LineFrame} {b z : Chip} (hl : m < b.beam.lanes.length)
    (hst : 1 ≤ b.laneState m ∧ b.laneState m ≤ 3) (h1 : Chip.laneKept m b c) (h2 : Chip.laneKept m (frameTaken m x c) d)
    (h3 : Chip.laneKept m (laneGood m d) z) :
    Chip.counted (Reg.GLK_FRAMES_count m) (Reg.GLK_STICKY_sat m) 0 b z ∧
      z.laneState m = if b.laneState m = 3 ∨ (b.laneState m = 2 ∧ 3 ≤ (b.lane m).good) then 3 else 2 := by
  have hcount : Fld.ofLane m (Reg.GLK_FRAMES_count m) := by simp [Fld.ofLane, Reg.GLK_FRAMES_count]
  constructor
  · refine counted_congr laneGood_counted ?_ (h3.rd _ hcount) (h3.rd _ (by simp [Fld.ofLane, Reg.GLK_STICKY_sat]))
    rw [h2.rd _ hcount, frameTaken_rd, h1.rd _ hcount]
    · simp only [Fld.key, Reg.GLK_STATUS_state, Reg.GLK_FRAMES_count]
      omega
    · simp only [codingRegs, List.forall_mem_cons, Fld.key, Reg.GLK_FILL_last, Reg.GLK_FILL_least,
        Reg.GLK_STUFF_ERR_count, Reg.GLK_STICKY_sat, Reg.GLK_CRC_ERR_count, Reg.GLK_FRAMES_count]
      refine ⟨?_, ?_, ?_, ?_, ?_, by simp⟩ <;> omega
  · rw [laneKept_state h3, laneGood_state, laneKept_state h2, h2.lane, frameTaken_state,
      frameTaken_good (by rw [h1.length]; exact hl), laneKept_state h1, h1.lane]
    generalize b.laneState m = st at *
    have hcases : st = 1 ∨ st = 2 ∨ st = 3 := by omega
    rcases hcases with rfl | rfl | rfl <;> simp

end

/-! ### The stages of a camera beat -/

/-- The frame that a lane reads from its line. -/
def Chip.laneRead (c : Chip) (n : Nat) (line : List Bool) : LineFrame :=
  readLine (c.laneRate n) (c.flag (Reg.GLK_CTL_polarity n)) (c.markerWindow n line) line

/-- The camera's beat count noted, if a frame showed it. -/
def ovNoted (n : Nat) (seen : Option Nat) (c : Chip) : Chip :=
  if seen.isSome then modLane n (fun l => { l with lastFrame := seen }) c else c

theorem overview_eq (cam : Nat) (line0 line1 : List Bool) (c : Chip) : overview cam line0 line1 c =
    let a := ovHear (48 + 2 * cam) line0 c
    let b := ovHear (48 + 2 * cam + 1) line1 a.2
    let last := (c.lane (48 + 2 * cam)).lastFrame
    ovNoted (48 + 2 * cam) ((ovCount a.1).orElse fun _ => ovCount b.1)
      (ovLane cam 1 b.1 (ovCount a.1) last (ovLane cam 0 a.1 (ovCount b.1) last b.2)) := rfl

section
variable {n cam : Nat} {c : Chip}

theorem ovHear_marked {line : List Bool} (hears : c.laneHears n = true) (hm : (c.laneRead n line).marker = true) :
    ovHear n line c = (some (c.laneRead n line), frameTaken n (c.laneRead n line) c) := by
  unfold ovHear
  unfold Chip.laneRead at hm ⊢
  simp only [hears, if_true, hm]
  rfl

theorem ovCount_some {x : LineFrame} (h : x.crcOk = true) : ovCount (some x) = some (x.words.getD 0 0 / 256) := by
  simp [ovCount, Option.filter, h]

/-- Whether a frame's beat count follows the camera's last one and equals the other lane's (R209). -/
def ovSeqOk (x : LineFrame) (other last : Option Nat) : Bool :=
  !(ovCount (some x)).any fun b => other.any (fun y => y != b) || last.any fun y => (y + 1) % 2 ^ 24 != b

/-- A frame of an overview lane counted as good or bad. -/
def ovJudged (n : Nat) (seqOk good : Bool) (c : Chip) : Chip :=
  (if good then laneGood n else laneBad n) (when (!seqOk) (laneEvent 0x0506 n 0 0 c.now) c)

theorem ovLane_some (cam k : Nat) (x : LineFrame) (other last : Option Nat) (c : Chip) : ovLane cam k (some x) other last c =
    ovWords (24 + cam) x.crcOk (x.stuffOk && x.crcOk && ovSeqOk x other last) (camPart x.words 2 (k == 0)).1
      (camPart x.words 2 (k == 0)).2.1 (camPart x.words 2 (k == 0)).2.2
      (ovJudged (48 + 2 * cam + k) (ovSeqOk x other last) (x.stuffOk && x.crcOk && ovSeqOk x other last) c) := rfl

/-- A frame whose beat count follows the camera's last one and equals the other lane's is good. -/
theorem ovLane_good {k : Nat} {x : LineFrame} {last : Option Nat} (hstuff : x.stuffOk = true) (hcrc : x.crcOk = true)
    (hlast : ∀ b, last = some b → (b + 1) % 2 ^ 24 = x.words.getD 0 0 / 256) :
    ovLane cam k (some x) (some (x.words.getD 0 0 / 256)) last c =
      ovWords (24 + cam) true true (camPart x.words 2 (k == 0)).1 (camPart x.words 2 (k == 0)).2.1
        (camPart x.words 2 (k == 0)).2.2 (laneGood (48 + 2 * cam + k) c) := by
  have hfollows : (last.any fun b => (b + 1) % 2 ^ 24 != x.words.getD 0 0 / 256) = false := by
    cases last with
    | none => rfl
    | some b => simpa using hlast b rfl
  have hseq : ovSeqOk x (some (x.words.getD 0 0 / 256)) last = true := by
    simp only [ovSeqOk, ovCount_some hcrc, Option.any_some, bne_self_eq_false, Bool.false_or, hfollows, Bool.not_false]
  simp only [ovLane_some, ovJudged, hseq, hstuff, hcrc, Bool.and_true, if_true, Bool.not_true, when_false]

/-! ### The frame of a camera beat -/

variable {K : Nat → Prop} {v : Nat}

theorem onLinks_ovHear (hr : Keys.rx K n) (line : List Bool) :
    Chip.onLinks (fun _ => ()) id [.beam, .img, .sys, .mem] K c (ovHear n line c).2 := by
  have htaken (x : LineFrame) := onLinks_frameTaken (p := fun _ => ()) (q := id) (parts := [.beam, .img, .sys, .mem]) (x := x)
    (c := c) (fun _ _ _ => rfl) (by simp) hr.lane
  have hmissing := onLinks_markerMissing (p := fun _ => ()) (q := id) (parts := [.beam, .img, .sys, .mem]) (fun _ _ _ => rfl)
    (by simp) (by simp) (by simp) (missRegs_rx hr) c
  have hcheck := onLinks_checkLine (p := fun _ => ()) (q := id) (parts := [.beam, .img, .sys, .mem]) (fun _ _ _ => rfl)
    (by simp) (fun f hf => hr.lane f (prbs_ofLane f hf)) line c
  unfold ovHear
  split
  · dsimp only
    split
    · exact htaken _
    · exact onLinks_ite (onLinks_refl c) hmissing
  · exact onLinks_ite hcheck (onLinks_refl c)

theorem onLinks_ovJudged (hr : Keys.rx K n) (seqOk good : Bool) :
    Chip.onLinks (fun _ => ()) id [.beam, .img, .sys, .mem] K c (ovJudged n seqOk good c) := by
  refine onLinks_trans (onLinks_when (f := laneEvent 0x0506 n 0 0 c.now) (b := !seqOk)
    (onLinks_log (by simp) hr.log _ _ _ c)) ?_
  cases good
  · exact onLinks_laneBad (fun _ _ _ => rfl) (by simp) (by simp) (badRegs_rx hr) _
  · exact onLinks_laneGood (fun _ _ => rfl) (by simp) (goodRegs_lane hr.lane) _

theorem onLinks_ovLane {k : Nat} (hr : Keys.rx K (48 + 2 * cam + k)) (hs : Keys.sieve K v (24 + cam))
    (hv : c.svOf (24 + cam) = v) (x : Option LineFrame) (other last : Option Nat) :
    Chip.onLinks (fun _ => ()) id [.beam, .img, .sys, .mem] K c (ovLane cam k x other last c) := by
  cases x with
  | none => exact onLinks_refl c
  | some x =>
    rw [ovLane_some]
    exact onLinks_next hv (onLinks_ovJudged hr _ _) fun hv => onLinks_ovWords (by simp) (by simp) (by simp) hs hv _ _ _ _ _

theorem onLinks_overview (h0 : Keys.rx K (48 + 2 * cam)) (h1 : Keys.rx K (48 + 2 * cam + 1))
    (hs : Keys.sieve K v (24 + cam)) (hv : c.svOf (24 + cam) = v) (line0 line1 : List Bool) :
    Chip.onLinks (fun _ => ()) id [.beam, .img, .sys, .mem] K c (overview cam line0 line1 c) := by
  rw [overview_eq]
  dsimp only
  refine onLinks_next hv (onLinks_ovHear h0 line0) fun hv => ?_
  generalize ovHear (48 + 2 * cam) line0 c = a at *
  refine onLinks_next hv (onLinks_ovHear h1 line1) fun hv => ?_
  generalize ovHear (48 + 2 * cam + 1) line1 a.2 = b at *
  generalize (c.lane (48 + 2 * cam)).lastFrame = last
  refine onLinks_next hv (onLinks_ovLane (k := 0) h0 hs hv a.1 (ovCount b.1) last) fun hv => ?_
  exact onLinks_trans (onLinks_ovLane (k := 1) h1 hs hv b.1 (ovCount a.1) last)
    (onLinks_ite (onLinks_modLane (by simp) (by intro _; rfl) _) (onLinks_refl _))

/-! ### A camera beat with a good frame on each lane -/

/-- The pixel words of a good frame of lane `k` of a camera. -/
def ovPixels (cam k : Nat) (x : LineFrame) (c : Chip) : Chip :=
  ovWords (24 + cam) true true (camPart x.words 2 (k == 0)).1 (camPart x.words 2 (k == 0)).2.1
    (camPart x.words 2 (k == 0)).2.2 c

theorem ovPixels_laneKept {m k : Nat} {x : LineFrame} (hcam : cam < 8) (hm : m < 64) :
    Chip.laneKept m c (ovPixels cam k x c) := ovWords_laneKept (by omega) hm _ _ _ _ _

/-- A marked frame on each lane of a camera. -/
def ovTook (cam : Nat) (x y : LineFrame) (c : Chip) : Chip :=
  frameTaken (48 + 2 * cam + 1) y (frameTaken (48 + 2 * cam) x c)

/-- A good frame on the first lane, with its pixels. -/
def ovFirst (cam : Nat) (x : LineFrame) (c : Chip) : Chip := ovPixels cam 0 x (laneGood (48 + 2 * cam) c)

/-- A good frame on the second lane, with its pixels. -/
def ovSecond (cam : Nat) (y : LineFrame) (c : Chip) : Chip := ovPixels cam 1 y (laneGood (48 + 2 * cam + 1) c)

/-- What a camera beat with a good frame on each lane does. -/
def ovBoth (cam : Nat) (x y : LineFrame) (c : Chip) : Chip :=
  ovNoted (48 + 2 * cam) (some (x.words.getD 0 0 / 256)) (ovSecond cam y (ovFirst cam x (ovTook cam x y c)))

/-- The second lane reads its line as before, when the first has taken its frame. -/
theorem laneRead_second {x : LineFrame} (hn : n % 2 = 0) (line : List Bool) :
    (frameTaken n x c).laneRead (n + 1) line = c.laneRead (n + 1) line := by
  have hkept := frameTaken_laneKept (c := c) (show n + 1 ≠ n by omega) x
  have hrate : (frameTaken n x c).laneRate (n + 1) = c.laneRate (n + 1) := by
    have hlane : rateLane (n + 1) = n := by
      simp only [rateLane]
      split <;> omega
    rw [Chip.laneRate, hlane, frameTaken_rd, Chip.laneRate, hlane]
    · simp only [Fld.key, Reg.GLK_STATUS_state, Reg.GLK_CTL_rate]
      omega
    · simp only [codingRegs, List.forall_mem_cons, Fld.key, Reg.GLK_FILL_last, Reg.GLK_FILL_least,
        Reg.GLK_STUFF_ERR_count, Reg.GLK_STICKY_sat, Reg.GLK_CRC_ERR_count, Reg.GLK_CTL_rate]
      refine ⟨?_, ?_, ?_, ?_, ?_, by simp⟩ <;> omega
  have hinv : (frameTaken n x c).flag (Reg.GLK_CTL_polarity (n + 1)) = c.flag (Reg.GLK_CTL_polarity (n + 1)) :=
    congrArg (· != 0) (hkept.rd _ (by simp [Fld.ofLane, Reg.GLK_CTL_polarity]))
  rw [Chip.laneRead, hrate, hinv, Chip.markerWindow, laneKept_state hkept]
  rfl

theorem laneHears_second {x : LineFrame} (h : c.laneHears (n + 1) = true) :
    (frameTaken n x c).laneHears (n + 1) = true := by
  have hkept := frameTaken_laneKept (c := c) (show n + 1 ≠ n by omega) x
  have hframe {K : Nat → Prop} (hr : Keys.lane K n) := onLinks_frameTaken (p := Lane.lastFrame) (q := id) (parts := [.beam])
    (x := x) (c := c) (fun _ _ _ => rfl) (by simp) hr
  have hlow {g : Fld} (hg : g.lo < 32 ∧ g.addr < 0x140000) : Keys.lane (· ≠ g.key) n := fun f hf => by
    simp only [Fld.key]
    omega
  have halive : (frameTaken n x c).alive (laneDom (n + 1)) = c.alive (laneDom (n + 1)) :=
    onLinks_alive (hframe (hlow (g := Reg.TOP_DOMAIN_ON_on) (by decide))) (not_not.2 rfl) _
  have hclock : (frameTaken n x c).rd Reg.PWR_CLOCK_ok = c.rd Reg.PWR_CLOCK_ok :=
    rd_of_onLinks (hframe (hlow (by decide)))
  rw [Chip.laneHears, halive, laneKept_state hkept, Chip.laneClock, hclock]
  exact h

theorem overview_both {a b : List Bool} (hx : c.laneHears (48 + 2 * cam) = true) (hy : c.laneHears (48 + 2 * cam + 1) = true)
    (hmx : (c.laneRead (48 + 2 * cam) a).marker = true) (hmy : (c.laneRead (48 + 2 * cam + 1) b).marker = true)
    (hsx : (c.laneRead (48 + 2 * cam) a).stuffOk = true) (hsy : (c.laneRead (48 + 2 * cam + 1) b).stuffOk = true)
    (hcx : (c.laneRead (48 + 2 * cam) a).crcOk = true) (hcy : (c.laneRead (48 + 2 * cam + 1) b).crcOk = true)
    (hsame : (c.laneRead (48 + 2 * cam + 1) b).words.getD 0 0 / 256 = (c.laneRead (48 + 2 * cam) a).words.getD 0 0 / 256)
    (hlast : ∀ k, (c.lane (48 + 2 * cam)).lastFrame = some k →
      (k + 1) % 2 ^ 24 = (c.laneRead (48 + 2 * cam) a).words.getD 0 0 / 256) :
    overview cam a b c = ovBoth cam (c.laneRead (48 + 2 * cam) a) (c.laneRead (48 + 2 * cam + 1) b) c := by
  have hread := laneRead_second (x := c.laneRead (48 + 2 * cam) a) (c := c) (n := 48 + 2 * cam) (by omega) b
  rw [overview_eq, ovHear_marked hx hmx]
  dsimp only
  rw [ovHear_marked (laneHears_second hy) (by rwa [hread]), hread]
  generalize c.laneRead (48 + 2 * cam) a = x at *
  generalize c.laneRead (48 + 2 * cam + 1) b = y at *
  have h0 (d : Chip) := ovLane_good (cam := cam) (k := 0) (c := d) hsx hcx hlast
  have h1 (d : Chip) := ovLane_good (cam := cam) (k := 1) (c := d) hsy hcy (by rwa [hsame])
  dsimp only
  rw [ovCount_some hcx, ovCount_some hcy, ← hsame, h1, hsame, h0]
  rfl

/-- The first lane has taken its frame, and counted it as good. -/
theorem ovBoth_first {x y : LineFrame} (hcam : cam < 2) (hears : c.laneHears (48 + 2 * cam) = true)
    (hl : 48 + 2 * cam < c.beam.lanes.length) :
    Chip.counted (Reg.GLK_FRAMES_count (48 + 2 * cam)) (Reg.GLK_STICKY_sat (48 + 2 * cam)) 0 c (ovBoth cam x y c) ∧
      (ovBoth cam x y c).laneState (48 + 2 * cam) = if c.laneState (48 + 2 * cam) = 3 ∨ (c.laneState (48 + 2 * cam) = 2 ∧
        3 ≤ (c.lane (48 + 2 * cam)).good) then 3 else 2 := by
  have hne : 48 + 2 * cam ≠ 48 + 2 * cam + 1 := by omega
  refine goodFrame_after (x := x) (d := ovTook cam x y c) (z := ovSecond cam y (ovFirst cam x (ovTook cam x y c))) hl
    (laneHears_state hears) ⟨fun _ _ => rfl, rfl, rfl⟩ (frameTaken_laneKept hne y) ?_
  exact laneKept_trans (ovPixels_laneKept (by omega) (by omega))
    (laneKept_trans (laneGood_laneKept hne) (ovPixels_laneKept (by omega) (by omega)))

/-- The second lane has taken its frame, and counted it as good. -/
theorem ovBoth_second {x y : LineFrame} (hcam : cam < 2) (hears : c.laneHears (48 + 2 * cam + 1) = true)
    (hl : 48 + 2 * cam + 1 < c.beam.lanes.length) :
    Chip.counted (Reg.GLK_FRAMES_count (48 + 2 * cam + 1)) (Reg.GLK_STICKY_sat (48 + 2 * cam + 1)) 0 c (ovBoth cam x y c) ∧
      (ovBoth cam x y c).laneState (48 + 2 * cam + 1) = if c.laneState (48 + 2 * cam + 1) = 3 ∨
        (c.laneState (48 + 2 * cam + 1) = 2 ∧ 3 ≤ (c.lane (48 + 2 * cam + 1)).good) then 3 else 2 := by
  have hne : 48 + 2 * cam + 1 ≠ 48 + 2 * cam := by omega
  refine goodFrame_after (x := y) (d := ovFirst cam x (ovTook cam x y c))
    (z := ovSecond cam y (ovFirst cam x (ovTook cam x y c))) hl (laneHears_state hears) (frameTaken_laneKept hne x) ?_ ?_
  · exact laneKept_trans (laneGood_laneKept hne) (ovPixels_laneKept (by omega) (by omega))
  · exact ovPixels_laneKept (by omega) (by omega)

theorem ovBoth_lastFrame {x y : LineFrame} (hcam : cam < 2) (hl : 48 + 2 * cam < c.beam.lanes.length) :
    ((ovBoth cam x y c).lane (48 + 2 * cam)).lastFrame = some (x.words.getD 0 0 / 256) := by
  have htook : Chip.laneKept 0 c (ovTook cam x y c) :=
    laneKept_trans (frameTaken_laneKept (by omega) x) (frameTaken_laneKept (by omega) y)
  have hboth : Chip.laneKept 0 c (ovSecond cam y (ovFirst cam x (ovTook cam x y c))) :=
    laneKept_trans htook <| laneKept_trans (laneGood_laneKept (n := 48 + 2 * cam) (by omega)) <|
      laneKept_trans (ovPixels_laneKept (by omega) (by omega)) <|
      laneKept_trans (laneGood_laneKept (n := 48 + 2 * cam + 1) (by omega)) (ovPixels_laneKept (by omega) (by omega))
  exact congrArg Lane.lastFrame (lane_modLane_same (by rw [hboth.length]; exact hl) _)

end

/-- OVERVIEW_FRAME: a frame pair counts on both lanes (R209). -/
theorem overviewFrame_ends {s : State} (hp : s.core.sys.pwr.porst = false) (cam : Fin 2) (a b : List Bool) (l m : Lane) :
    let c := s.core
    let n := 48 + 2 * cam.val
    let f := readLine (c.laneRate n) (c.flag (Reg.GLK_CTL_polarity n)) (c.markerWindow n a) a
    let g := readLine (c.laneRate n) (c.flag (Reg.GLK_CTL_polarity (n + 1))) (c.markerWindow (n + 1) b) b
    let kf := f.words.getD 0 0 / 256
    let after := fun (n : Nat) (l : Lane) => if c.laneState n = 3 ∨ (c.laneState n = 2 ∧ 3 ≤ l.good) then 3 else 2
    c.beam.lanes[n]? = some l → c.beam.lanes[n + 1]? = some m → c.laneHears n = true → c.laneHears (n + 1) = true →
    Ends (.overviewFrame cam a b) s fun t =>
      let v := c.svOf (24 + cam.val)
      (f.marker = true → f.stuffOk = true → f.crcOk = true → g.marker = true → g.stuffOk = true → g.crcOk = true →
        g.words.getD 0 0 / 256 = kf → (∀ k, l.lastFrame = some k → (k + 1) % 2 ^ 24 = kf) →
        (t.core.lane n).lastFrame = some kf ∧
        Chip.counted (Reg.GLK_FRAMES_count n) (Reg.GLK_STICKY_sat n) 0 c t.core ∧
        Chip.counted (Reg.GLK_FRAMES_count (n + 1)) (Reg.GLK_STICKY_sat (n + 1)) 0 c t.core ∧
        t.core.laneState n = after n l ∧ t.core.laneState (n + 1) = after (n + 1) m) ∧
      t.core.out = [] ∧ Chip.only [.beam, .img, .sys, .mem] c t.core ∧
      Chip.regsWithin eventRegs [(0x140000 + n * 0x400, 0x140800 + n * 0x400),
        (0x180000 + v * 0x20000, 0x1A0000 + v * 0x20000)] c t.core := by
  dsimp only
  intro hl hm hears hears'
  obtain ⟨hlane, hlen⟩ := lane_of_get hl
  obtain ⟨hlane', hlen'⟩ := lane_of_get hm
  let K := Fld.among eventRegs [(0x140000 + (48 + 2 * cam.val) * 0x400, 0x140800 + (48 + 2 * cam.val) * 0x400),
    (0x180000 + s.core.svOf (24 + cam.val) * 0x20000, 0x1A0000 + s.core.svOf (24 + cam.val) * 0x20000)]
  have hlog : ∀ f ∈ logRegs, K f.key := fun f hf => among_of_mem (logRegs_event hf)
  have hrx (k : Nat) (hk : k = 48 + 2 * cam.val ∨ k = 48 + 2 * cam.val + 1) : Keys.rx K k :=
    ⟨fun f hf => among_of_range List.mem_cons_self hf.1 (by omega) (by omega), hlog, fun _ => by omega⟩
  have hsieve : Keys.sieve K (s.core.svOf (24 + cam.val)) (24 + cam.val) :=
    ⟨fun f hf => among_of_range (List.mem_cons_of_mem _ List.mem_cons_self) hf.1 hf.2.1 hf.2.2, hlog, by omega⟩
  have hframe := onLinks_overview (c := s.core.unsent) (hrx _ (.inl rfl)) (hrx _ (.inr rfl)) hsieve rfl a b
  refine ends_onLinks (.inl rfl) hp rfl hframe permit_among fun t hleaves hout hparts hregs =>
    ⟨fun hmf hsf hcf hmg hsg hcg hsame hlast => ?_, hout, hparts, regsWithin_of_regsBut hregs⟩
  have hrate : s.core.unsent.laneRate (48 + 2 * cam.val + 1) = s.core.laneRate (48 + 2 * cam.val) := by
    have hsecond : rateLane (48 + 2 * cam.val + 1) = 48 + 2 * cam.val := by
      simp only [rateLane]
      split <;> omega
    have hfirst : rateLane (48 + 2 * cam.val) = 48 + 2 * cam.val := by
      simp only [rateLane]
      split <;> omega
    rw [Chip.laneRate, hsecond, Chip.laneRate, hfirst]
    rfl
  have hg : s.core.unsent.laneRead (48 + 2 * cam.val + 1) b = readLine (s.core.laneRate (48 + 2 * cam.val))
      (s.core.flag (Reg.GLK_CTL_polarity (48 + 2 * cam.val + 1))) (s.core.markerWindow (48 + 2 * cam.val + 1) b) b := by
    rw [Chip.laneRead, hrate]
    rfl
  rw [← hg] at hmg hsg hcg hsame
  rw [overview_both (c := s.core.unsent) hears hears' hmf hmg hsf hsg hcf hcg hsame
    (fun k hk => hlast k (hlane ▸ hk))] at hleaves
  have hrd {g : Fld} (k : Nat) (hk : k < 64) (hg : Fld.ofLane k g) := leaves_rd hleaves (permit_not_lane hk hg)
  have hcount (k : Nat) : Fld.ofLane k (Reg.GLK_FRAMES_count k) := by simp [Fld.ofLane, Reg.GLK_FRAMES_count]
  have hsticky (k : Nat) : Fld.ofLane k (Reg.GLK_STICKY_sat k) := by simp [Fld.ofLane, Reg.GLK_STICKY_sat]
  have hstate (k : Nat) : Fld.ofLane k (Reg.GLK_STATUS_state k) := by simp [Fld.ofLane, Reg.GLK_STATUS_state]
  obtain ⟨hfirst, hstate0⟩ := ovBoth_first (c := s.core.unsent) (x := s.core.unsent.laneRead (48 + 2 * cam.val) a)
    (y := s.core.unsent.laneRead (48 + 2 * cam.val + 1) b) cam.isLt hears hlen
  obtain ⟨hsecond, hstate1⟩ := ovBoth_second (c := s.core.unsent) (x := s.core.unsent.laneRead (48 + 2 * cam.val) a)
    (y := s.core.unsent.laneRead (48 + 2 * cam.val + 1) b) cam.isLt hears' hlen'
  refine ⟨?_, ?_, ?_, ?_, ?_⟩
  · rw [leaves_lane hleaves]
    exact ovBoth_lastFrame (c := s.core.unsent) cam.isLt hlen
  · exact counted_congr hfirst rfl (hrd _ (by omega) (hcount _)) (hrd _ (by omega) (hsticky _))
  · exact counted_congr hsecond rfl (hrd _ (by omega) (hcount _)) (hrd _ (by omega) (hsticky _))
  · rw [← hlane]
    exact (hrd _ (by omega) (hstate _)).trans hstate0
  · rw [← hlane']
    exact (hrd _ (by omega) (hstate _)).trans hstate1

end Sys2Proof.Machine
end

section
/-! The lanes of the head links and their mailboxes (06_glelin_links.md, R189–R213): the obligation O37. -/

namespace Sys2Proof.Machine

open Sys2Proof

theorem lanesAndMailboxes : Claim.LanesAndMailboxes := fun _ hp =>
  ⟨fun _ _ hrx hl hon hst hlast hclock => markerTimeout_ends hp hrx hl hon hst hlast hclock,
    fun _ _ _ hk hm hdue hon hroom => mbxTimeout_ends hp hk hm hdue hon hroom,
    fun cam a b l m => overviewFrame_ends hp cam a b l m,
    fun _ _ hrx hst hon hsync => prbsSyncChange_ends hp hrx hst hon hsync,
    fun _ _ _ _ hl htest => uplinkTest_ends hp hl htest,
    fun k => ⟨laneRefLoss_ends hp k, laneRefReturn_ends hp k⟩⟩

/-- Settles O37: an uplink frame by the stages that it passes through, the other commands each by its effect. -/
theorem headLinks : Obligations.HeadLinks := ⟨uplinkFrames, lanesAndMailboxes⟩

end Sys2Proof.Machine
end

section
/-! Writes of the head links' registers on the register fabric (00_scope.md, R553; 06_glelin_links.md, R213): where they lie,
what decides that they are taken, and the end of a command that writes one. -/

namespace Sys2Proof.Machine

open Sys2Proof

/-! ### A register that is no half of a pair -/

/-- A write that no check of R553 turns away. -/
theorem regWrite_taken {m : Master} {h : Hit} {v k : Nat} {c d : Chip} (hblk : (h.p.blk == .sec || h.p.blk == .crk) = false)
    (hpair : h.r.pair = .none) (hrwi : c.unitBusy h = true → c.rwiChange h v = false) (hlegal : h.reservedValue v = false)
    (hfree : c.refusesWrite m h = false) (hok : writeOk m h v c (fieldsWritten h v c) = true)
    (hstarts : writeStarts m h v k c (fieldsWritten h v c) = (.ok, d)) : regWrite m h v k c = ⟨.ok, false, d⟩ := by
  have hbusy : (c.unitBusy h && c.rwiChange h v) = false := by
    cases hb : c.unitBusy h
    · rfl
    · rw [hrwi hb]
      rfl
  simp only [regWrite, hblk, Hit.holds, hpair, hbusy, hlegal, hfree, hok, hstarts, Bool.false_and,
    Bool.or_false, Bool.not_true, Bool.false_eq_true, if_false, if_true, show (Pair.none == Pair.hi) = false from rfl,
    show (Pair.none == Pair.lo) = false from rfl]

/-! ### The head links' registers -/

/-- A write that gets through to a register of a lane. -/
theorem busWriteBy_lane {m : Master} {n a v k : Nat} {c d : Chip} {h : Hit} (hl : c.lets m (laneDom n) a true)
    (ha : 0x140000 ≤ a ∧ a < 0x150000) (hr : c.route a = .reg h) (hw : regWrite m h v k c = ⟨.ok, false, d⟩) :
    busWriteBy m a v k c = send (.bus m .ok []) d := by
  obtain ⟨-, -, hm, hspi⟩ := hl
  have hbarred : barred a = false := by
    simp only [barred, Bool.and_eq_false_iff, decide_eq_false_iff_not]
    omega
  have hdenied : (m = .spi ∧ (c.spiBars a true || makerOnly a || barred a) = true) = False :=
    eq_false fun ⟨he, hb⟩ => by simp [hspi he, hbarred] at hb
  simp only [busWriteBy, busWrite, hdenied, if_false, show ¬ 0x1000000 ≤ a by omega, hm, hr, hw]

section
variable {α β : Type} {p : Lane → α} {q : Link → β} {parts : List Part} {K : Nat → Prop}

/-- The end of a command that writes a register of a lane, and whose effect stays within a frame of the head links. -/
theorem ends_laneWrite {i : Instr} {s : State} {m : Master} {n a v : Nat} {h : Hit} {f : Chip → Chip} {Q : State → Prop}
    (hi : busWriteOf i = some (m, a, v)) (hl : s.core.lets m (laneDom n) a true) (ha : 0x140000 ≤ a ∧ a < 0x150000)
    (hr : s.core.route a = .reg h)
    (hw : ∀ k x, regWrite m h v k (s.core.found x) = ⟨.ok, false, f (s.core.found x)⟩)
    (hframe : ∀ x, Chip.onLinks p q parts K (s.core.found x) (f (s.core.found x))) (hfresh : Part.fresh ∈ parts)
    (hK : K Reg.GIO_STATUS_permit.key)
    (hQ : ∀ (t : State) x, Chip.Leaves s.core (f (s.core.found x)) t.core → t.core.out = [.bus m .ok []] →
      Chip.only parts s.core t.core → Chip.regsBut K s.core t.core → Q t) : Ends i s Q := by
  obtain ⟨g, k, x, he, hg⟩ := exec_busWriteOf hi s
  have hsent : g { s.core with out := [] } = send (.bus m .ok []) (f (s.core.found x)) :=
    hg.trans (busWriteBy_lane (c := s.core.found x) hl ha hr (hw k x))
  obtain ⟨e, hex, hleaves, hout⟩ := does_leaves (.inl he) hl.1
  rw [hsent] at hleaves hout
  have hleft := leaves_send hleaves
  refine ⟨_, hex, hQ _ x hleft ?_ ?_ (leaves_regsBut hleft hK (hframe x).regs)⟩
  · rw [hout, send, (hframe x).out]
    rfl
  · exact only_trans (only_found hfresh x s.core) (only_trans (hframe x).parts (only_mono hleft.parts (List.nil_subset _)))

/-- A write of a register of a lane that changes nothing but the listed registers. -/
theorem wrote_laneWrite {i : Instr} {s : State} {m : Master} {n a v : Nat} {h : Hit} {f : Chip → Chip} {regs : List Fld}
    {P : Chip → Prop} (hi : busWriteOf i = some (m, a, v)) (hl : s.core.lets m (laneDom n) a true)
    (ha : 0x140000 ≤ a ∧ a < 0x150000) (hr : s.core.route a = .reg h)
    (hw : ∀ k x, regWrite m h v k (s.core.found x) = ⟨.ok, false, f (s.core.found x)⟩)
    (hframe : ∀ x, Chip.onLinks p q (.fresh :: parts) (Fld.among (Reg.GIO_STATUS_permit :: regs) []) (s.core.found x)
      (f (s.core.found x)))
    (hP : ∀ (d : Chip) x, Chip.Leaves s.core (f (s.core.found x)) d → P d) : Wrote i s m parts regs P :=
  ends_laneWrite hi hl ha hr hw hframe List.mem_cons_self (among_of_mem List.mem_cons_self)
    fun t x hleft hout hparts hkept => ⟨hout, hparts, regsKept_of_regsBut hkept, hP t.core x hleft⟩

end

/-! ### Where they lie -/

/-- GLK_n_CTL in the map (R213). -/
def ctlReg : RegDesc := ⟨0x0, [], .none, [⟨16, 4, .val 3, .rw, false, some (1, 15)⟩, ⟨8, 1, .val 0, .rwi, false, none⟩,
  ⟨1, 2, .val 2, .rwi, false, none⟩, ⟨0, 1, .val 0, .rw, false, none⟩]⟩

/-- GLK_n_MBX_CMD in the map (R213). -/
def mbxReg : RegDesc := ⟨0x40, [], .none, [⟨31, 1, .val 0, .ro, false, none⟩,
  ⟨16, 8, .val 0, .rw, false, some (1, 2)⟩, ⟨0, 16, .val 0, .rw, false, none⟩]⟩

/-- GLK_n_TEST in the map (R213). -/
def testReg : RegDesc := ⟨0x80, [], .none, [⟨16, 1, .val 0, .wo, false, none⟩, ⟨8, 5, .val 20, .rw, false, some (10, 30)⟩,
  ⟨4, 2, .val 0, .rw, false, some (0, 1)⟩, ⟨0, 3, .val 0, .rw, false, some (0, 5)⟩]⟩

/-- GLK_n_CTL as the register that answers to its address. -/
def ctlHit (n : Nat) : Hit := ⟨0x140000 + n * 0x400, ⟨.glk, n, 0⟩, ctlReg, []⟩

/-- GLK_n_MBX_CMD as the register that answers to its address. -/
def mbxHit (n : Nat) : Hit := ⟨0x140040 + n * 0x400, ⟨.glk, n, 0x40⟩, mbxReg, []⟩

/-- GLK_n_TEST as the register that answers to its address. -/
def testHit (n : Nat) : Hit := ⟨0x140080 + n * 0x400, ⟨.glk, n, 0x80⟩, testReg, []⟩

theorem placeOf_ctl : ∀ n : Fin 52, placeOf (0x140000 + n.val * 0x400) = some ⟨.glk, n.val, 0⟩ := by decide +kernel

theorem placeOf_mbx : ∀ n : Fin 52, placeOf (0x140040 + n.val * 0x400) = some ⟨.glk, n.val, 0x40⟩ := by decide +kernel

theorem placeOf_test : ∀ n : Fin 52, placeOf (0x140080 + n.val * 0x400) = some ⟨.glk, n.val, 0x80⟩ := by decide +kernel

theorem find_ctl (n : Nat) : Place.find ⟨.glk, n, 0⟩ = some (ctlReg, []) :=
  (find_inst _ _ _).trans (by decide +kernel)

theorem find_mbx (n : Nat) : Place.find ⟨.glk, n, 0x40⟩ = some (mbxReg, []) :=
  (find_inst _ _ _).trans (by decide +kernel)

theorem find_test (n : Nat) : Place.find ⟨.glk, n, 0x80⟩ = some (testReg, []) :=
  (find_inst _ _ _).trans (by decide +kernel)

section
variable {c : Chip} (n : Fin 52) (hon : c.on (laneDom n.val) = true)
include hon

theorem route_ctl : c.route (0x140000 + n.val * 0x400) = .reg (ctlHit n.val) :=
  route_of_place (placeOf_ctl n) (by simp [Place.there]) hon (by omega) (find_ctl n.val)

theorem route_mbx (hn : n.val < 48) (heven : n.val % 2 = 0) : c.route (0x140040 + n.val * 0x400) = .reg (mbxHit n.val) :=
  route_of_place (placeOf_mbx n) (by simp [Place.there, hn, heven]) hon (by omega) (find_mbx n.val)

theorem route_test : c.route (0x140080 + n.val * 0x400) = .reg (testHit n.val) :=
  route_of_place (placeOf_test n) (by simp [Place.there]) hon (by omega) (find_test n.val)

end

end Sys2Proof.Machine
end

section
/-! A write of GLK_n_MBX_CMD (06_glelin_links.md, R202, R213): the request joins those that wait, or ends at once on a link
that is not UP. -/

namespace Sys2Proof.Machine

open Sys2Proof

/-- The fields of GLK_n_MBX_CMD taken from a written word. -/
def mbxTaken (n v : Nat) (c : Chip) : Chip :=
  wr (Reg.GLK_MBX_CMD_addr n) (v % 65536) (wr (Reg.GLK_MBX_CMD_op n) (v / 65536 % 256) c)

/-- A write of GLK_n_MBX_CMD that is taken. -/
def mbxWritten (n v : Nat) (c : Chip) : Chip := mbxHost n (v / 65536 % 256) (v % 65536) (mbxTaken n v c)

/-- The registers that a request of the host changes on its lane. -/
def mbxHostRegs (n : Nat) : List Fld := [Reg.GLK_MBX_CMD_busy n, Reg.GLK_MBX_RESP_done n, Reg.GLK_MBX_RESP_status n]

/-- The registers that a write of GLK_n_MBX_CMD changes on its lane. -/
def mbxCmdRegs (n : Nat) : List Fld := Reg.GLK_MBX_CMD_op n :: Reg.GLK_MBX_CMD_addr n :: mbxHostRegs n

section
variable {n v : Nat} {c : Chip}

theorem mbxTaken_op : (mbxTaken n v c).rd (Reg.GLK_MBX_CMD_op n) = v / 65536 % 256 := by
  rw [mbxTaken, rd_wr_ne (by simp [Fld.key, Reg.GLK_MBX_CMD_op, Reg.GLK_MBX_CMD_addr]), rd_wr_same]
  exact Nat.mod_mod _ _

theorem mbxTaken_addr : (mbxTaken n v c).rd (Reg.GLK_MBX_CMD_addr n) = v % 65536 :=
  (rd_wr_same _ _ _).trans (Nat.mod_mod _ _)

theorem mbxTaken_rd {g : Fld} (hop : g.key ≠ (Reg.GLK_MBX_CMD_op n).key) (haddr : g.key ≠ (Reg.GLK_MBX_CMD_addr n).key) :
    (mbxTaken n v c).rd g = c.rd g := by
  rw [mbxTaken, rd_wr_ne haddr, rd_wr_ne hop]

/-! ### The request -/

theorem mbxHost_up {ch op addr : Nat} (h : c.linkUp ch = true) : mbxHost (2 * ch) op addr c =
    mbxSend ch op addr (c.rd (Reg.GLK_MBX_DATA_data (2 * ch))) false
      (wr (Reg.GLK_MBX_CMD_busy (2 * ch)) 1 (wr (Reg.GLK_MBX_RESP_done (2 * ch)) 0 c)) := by
  have hup : (wr (Reg.GLK_MBX_RESP_done (2 * ch)) 0 c).linkUp ch = true :=
    (congrArg (· != 0) (rd_wr_ne (by simp only [Fld.key, Reg.GLK_STATUS_up, Reg.GLK_MBX_RESP_done]; omega) 0 c)).trans h
  have hdata : (wr (Reg.GLK_MBX_RESP_done (2 * ch)) 0 c).rd (Reg.GLK_MBX_DATA_data (2 * ch)) =
      c.rd (Reg.GLK_MBX_DATA_data (2 * ch)) :=
    rd_wr_ne (by simp only [Fld.key, Reg.GLK_MBX_DATA_data, Reg.GLK_MBX_RESP_done]; omega) 0 c
  simp only [mbxHost, show 2 * ch / 2 = ch by omega, hup, hdata, if_true]

theorem mbxHost_down {ch op addr : Nat} (h : c.linkUp ch = false) : mbxHost (2 * ch) op addr c =
    mbxHostDone ch 0xFE none (wr (Reg.GLK_MBX_RESP_done (2 * ch)) 0 c) := by
  have hup : (wr (Reg.GLK_MBX_RESP_done (2 * ch)) 0 c).linkUp ch = false :=
    (congrArg (· != 0) (rd_wr_ne (by simp only [Fld.key, Reg.GLK_STATUS_up, Reg.GLK_MBX_RESP_done]; omega) 0 c)).trans h
  simp only [mbxHost, show 2 * ch / 2 = ch by omega, hup, Bool.false_eq_true, if_false]

theorem onLinks_mbxHost {α : Type} {p : Lane → α} {parts : List Part} {K : Nat → Prop} (hb : Part.beam ∈ parts) {ch : Nat}
    (hr : ∀ f ∈ mbxHostRegs (2 * ch), K f.key) (op addr : Nat) :
    Chip.onLinks p (fun _ => ()) parts K c (mbxHost (2 * ch) op addr c) := by
  simp only [mbxHostRegs, List.forall_mem_cons] at hr
  obtain ⟨hbusy, hdone, hstatus, -⟩ := hr
  have hstart := onLinks_wr (p := p) (q := fun _ : Link => ()) (parts := parts) hdone 0 c
  cases hup : c.linkUp ch
  · rw [mbxHost_down hup]
    exact onLinks_trans hstart (onLinks_trans (onLinks_wr hbusy _ _) (onLinks_trans (onLinks_wr hdone _ _) (onLinks_wr hstatus _ _)))
  · rw [mbxHost_up hup]
    exact onLinks_trans hstart (onLinks_trans (onLinks_wr hbusy _ _) (onLinks_modLink hb (by intro _; rfl) _))

/-! ### The write -/

theorem onLinks_mbxWritten {α : Type} {p : Lane → α} {parts : List Part} {K : Nat → Prop} (hb : Part.beam ∈ parts) {ch : Nat}
    (hr : ∀ f ∈ mbxCmdRegs (2 * ch), K f.key) : Chip.onLinks p (fun _ => ()) parts K c (mbxWritten (2 * ch) v c) := by
  obtain ⟨hop, hr⟩ := List.forall_mem_cons.1 hr
  obtain ⟨haddr, hhost⟩ := List.forall_mem_cons.1 hr
  exact onLinks_trans (onLinks_wr hop _ c) (onLinks_trans (onLinks_wr haddr _ _) (onLinks_mbxHost hb hhost _ _))

theorem mbxHost_rd {ch op addr : Nat} {g : Fld} (hg : ∀ f ∈ mbxHostRegs (2 * ch), f.key ≠ g.key) :
    (mbxHost (2 * ch) op addr c).rd g = c.rd g :=
  rd_of_onLinks (onLinks_mbxHost (p := id) (parts := [.beam]) (by simp) hg op addr)

theorem mbxWritten_op {ch : Nat} : (mbxWritten (2 * ch) v c).rd (Reg.GLK_MBX_CMD_op (2 * ch)) = v / 65536 % 256 :=
  (mbxHost_rd (by simp [mbxHostRegs, Fld.key, Reg.GLK_MBX_CMD_busy, Reg.GLK_MBX_RESP_done, Reg.GLK_MBX_RESP_status,
    Reg.GLK_MBX_CMD_op]; omega)).trans mbxTaken_op

theorem mbxWritten_addr {ch : Nat} : (mbxWritten (2 * ch) v c).rd (Reg.GLK_MBX_CMD_addr (2 * ch)) = v % 65536 :=
  (mbxHost_rd (by simp [mbxHostRegs, Fld.key, Reg.GLK_MBX_CMD_busy, Reg.GLK_MBX_RESP_done, Reg.GLK_MBX_RESP_status,
    Reg.GLK_MBX_CMD_addr]; omega)).trans mbxTaken_addr

theorem mbxTaken_linkUp {ch : Nat} : (mbxTaken (2 * ch) v c).linkUp ch = c.linkUp ch :=
  congrArg (· != 0) (mbxTaken_rd (by simp only [Fld.key, Reg.GLK_STATUS_up, Reg.GLK_MBX_CMD_op]; omega)
    (by simp only [Fld.key, Reg.GLK_STATUS_up, Reg.GLK_MBX_CMD_addr]; omega))

/-- On a link that is UP the request joins those that wait, and its answer is awaited. -/
theorem mbxWritten_up {ch : Nat} (hup : c.linkUp ch = true) (hl : ch < c.beam.links.length) :
    (mbxWritten (2 * ch) v c).flag (Reg.GLK_MBX_CMD_busy (2 * ch)) = true ∧
      (mbxWritten (2 * ch) v c).flag (Reg.GLK_MBX_RESP_done (2 * ch)) = false ∧
      (mbxWritten (2 * ch) v c).link ch = { c.link ch with queue := (c.link ch).queue ++
        [⟨0, v / 65536 % 256, v % 65536, c.rd (Reg.GLK_MBX_DATA_data (2 * ch)), false, 0, 0, false⟩] } := by
  have hdata : (mbxTaken (2 * ch) v c).rd (Reg.GLK_MBX_DATA_data (2 * ch)) = c.rd (Reg.GLK_MBX_DATA_data (2 * ch)) :=
    mbxTaken_rd (by simp only [Fld.key, Reg.GLK_MBX_DATA_data, Reg.GLK_MBX_CMD_op]; omega)
      (by simp only [Fld.key, Reg.GLK_MBX_DATA_data, Reg.GLK_MBX_CMD_addr]; omega)
  rw [mbxWritten, mbxHost_up (mbxTaken_linkUp.trans hup), hdata]
  have hbusy (x y : Nat) (d : Chip) :
      (mbxSend ch x y (c.rd (Reg.GLK_MBX_DATA_data (2 * ch))) false d).rd (Reg.GLK_MBX_CMD_busy (2 * ch)) =
        d.rd (Reg.GLK_MBX_CMD_busy (2 * ch)) := rfl
  have hdone (x y : Nat) (d : Chip) :
      (mbxSend ch x y (c.rd (Reg.GLK_MBX_DATA_data (2 * ch))) false d).rd (Reg.GLK_MBX_RESP_done (2 * ch)) =
        d.rd (Reg.GLK_MBX_RESP_done (2 * ch)) := rfl
  refine ⟨flag_of_rd (v := 1) ?_, flag_of_rd (v := 0) ?_, link_modLink_same hl _⟩
  · rw [hbusy, rd_wr_same]
    rfl
  · rw [hdone, rd_wr_ne (by simp only [Fld.key, Reg.GLK_MBX_CMD_busy, Reg.GLK_MBX_RESP_done]; omega), rd_wr_same]
    exact Nat.zero_mod _

/-- On a link that is not UP the request ends at once. -/
theorem mbxWritten_down {ch : Nat} (hup : c.linkUp ch = false) :
    (mbxWritten (2 * ch) v c).flag (Reg.GLK_MBX_CMD_busy (2 * ch)) = false ∧
      (mbxWritten (2 * ch) v c).flag (Reg.GLK_MBX_RESP_done (2 * ch)) = true ∧
      (mbxWritten (2 * ch) v c).rd (Reg.GLK_MBX_RESP_status (2 * ch)) = 0xFE ∧
      (mbxWritten (2 * ch) v c).link ch = c.link ch := by
  rw [mbxWritten, mbxHost_down (mbxTaken_linkUp.trans hup)]
  exact ⟨mbxHostDone_none_busy _, mbxHostDone_none_done _, mbxHostDone_none_status (by decide), rfl⟩

theorem fieldsWritten_mbx : fieldsWritten (mbxHit n) v c = mbxTaken n v c := by
  have hfields : fieldsWritten (mbxHit n) v c =
      wr (Reg.GLK_MBX_CMD_addr n) (v / 1 % 65536) (wr (Reg.GLK_MBX_CMD_op n) (v / 65536 % 256) c) := rfl
  rw [hfields, Nat.div_one]
  rfl

/-- A request that R202 and R213 allow is taken. -/
theorem regWrite_mbx {m : Master} {k : Nat} (hbusy : c.flag (Reg.GLK_MBX_CMD_busy n) = false)
    (hop : v / 65536 % 256 = 1 ∧ (v % 65536 < 0x10 ∨ 0x1F < v % 65536) ∨ v / 65536 % 256 = 2) :
    regWrite m (mbxHit n) v k c = ⟨.ok, false, mbxWritten n v c⟩ := by
  refine regWrite_taken rfl rfl (fun _ => ?_) ?_ hbusy ?_ ?_
  · simp [Chip.rwiChange, mbxHit, mbxReg]
  · have hlow : ¬ v / 65536 % 256 = 0 := by omega
    have hhigh : ¬ 2 < v / 65536 % 256 := by omega
    simp [Hit.reservedValue, mbxHit, mbxReg, FieldDesc.of, Hit.mirror, hlow, hhigh]
  · have hidle : (mbxTaken n v c).flag (Reg.GLK_MBX_CMD_busy n) = false :=
      (congrArg (· != 0) (mbxTaken_rd (by simp [Fld.key, Reg.GLK_MBX_CMD_busy, Reg.GLK_MBX_CMD_op])
        (by simp [Fld.key, Reg.GLK_MBX_CMD_busy, Reg.GLK_MBX_CMD_addr]))).trans hbusy
    rw [fieldsWritten_mbx]
    show (mbxTaken n v c).mbxCmdOk n ((mbxTaken n v c).rd (Reg.GLK_MBX_CMD_op n))
      ((mbxTaken n v c).rd (Reg.GLK_MBX_CMD_addr n)) = true
    rw [mbxTaken_op, mbxTaken_addr]
    simp [Chip.mbxCmdOk, hidle]
    omega
  · rw [fieldsWritten_mbx, mbxWritten, ← mbxTaken_op (c := c) (n := n) (v := v), ← mbxTaken_addr (c := c) (n := n) (v := v)]
    rfl

end

theorem mbxCmd_ends {s : State} {m : Master} {lane : Fin 52} {value : Word} (hn : lane.val < 48) (heven : lane.val % 2 = 0)
    (hlets : s.core.lets m (laneDom lane.val) (0x140040 + lane.val * 0x400) true)
    (hbusy : s.core.flag (Reg.GLK_MBX_CMD_busy lane.val) = false)
    (hop : value.toNat / 65536 % 256 = 1 ∧ (value.toNat % 65536 < 0x10 ∨ 0x1F < value.toNat % 65536) ∨
      value.toNat / 65536 % 256 = 2)
    {l : Link} (hl : s.core.beam.links[lane.val / 2]? = some l) :
    Wrote (.glkMbxCmdWrite m lane value) s m [.beam] (mbxCmdRegs lane.val) fun d =>
      d.rd (Reg.GLK_MBX_CMD_op lane.val) = value.toNat / 65536 % 256 ∧
      d.rd (Reg.GLK_MBX_CMD_addr lane.val) = value.toNat % 65536 ∧
      if s.core.linkUp (lane.val / 2) = true then
        d.flag (Reg.GLK_MBX_CMD_busy lane.val) = true ∧ d.flag (Reg.GLK_MBX_RESP_done lane.val) = false ∧
        d.link (lane.val / 2) = { l with queue := l.queue ++ [⟨0, value.toNat / 65536 % 256, value.toNat % 65536,
          s.core.rd (Reg.GLK_MBX_DATA_data lane.val), false, 0, 0, false⟩] }
      else d.flag (Reg.GLK_MBX_CMD_busy lane.val) = false ∧ d.flag (Reg.GLK_MBX_RESP_done lane.val) = true ∧
        d.rd (Reg.GLK_MBX_RESP_status lane.val) = 0xFE ∧ d.link (lane.val / 2) = l := by
  obtain ⟨hlink, hlen⟩ := link_of_get hl
  have hlane : 2 * (lane.val / 2) = lane.val := by omega
  have hregs : ∀ f ∈ mbxCmdRegs (2 * (lane.val / 2)),
      Fld.among (Reg.GIO_STATUS_permit :: mbxCmdRegs lane.val) [] f.key := fun f hf =>
    among_of_mem (List.mem_cons_of_mem _ (hlane ▸ hf))
  refine wrote_laneWrite (f := mbxWritten lane.val value.toNat) (p := id) (q := fun _ => ()) rfl hlets (by omega)
    (route_mbx lane hlets.2.1 hn heven) (fun k x => regWrite_mbx hbusy hop) (fun x => ?_) fun d x hleft => ?_
  · have hframe := onLinks_mbxWritten (p := id) (parts := [.fresh, .beam]) (v := value.toNat) (c := s.core.found x) (by simp)
      hregs
    rwa [hlane] at hframe
  have hrd (g : Fld) (hg : Fld.ofLane lane.val g) : d.rd g = (mbxWritten lane.val value.toNat (s.core.found x)).rd g :=
    leaves_rd hleft (permit_not_lane (by omega) hg)
  have hop' := mbxWritten_op (c := s.core.found x) (v := value.toNat) (ch := lane.val / 2)
  have haddr := mbxWritten_addr (c := s.core.found x) (v := value.toNat) (ch := lane.val / 2)
  rw [hlane] at hop' haddr
  refine ⟨(hrd _ (by simp [Fld.ofLane, Reg.GLK_MBX_CMD_op])).trans hop',
    (hrd _ (by simp [Fld.ofLane, Reg.GLK_MBX_CMD_addr])).trans haddr, ?_⟩
  have hflag (g : Fld) (hg : Fld.ofLane lane.val g) : d.flag g = (mbxWritten lane.val value.toNat (s.core.found x)).flag g :=
    congrArg (· != 0) (hrd g hg)
  rw [hflag _ (by simp [Fld.ofLane, Reg.GLK_MBX_CMD_busy]), hflag _ (by simp [Fld.ofLane, Reg.GLK_MBX_RESP_done]),
    hrd _ (by simp [Fld.ofLane, Reg.GLK_MBX_RESP_status]), leaves_link hleft, ← hlink]
  split
  · rename_i hup
    have hsent := mbxWritten_up (c := s.core.found x) (v := value.toNat) hup hlen
    rwa [hlane] at hsent
  · rename_i hup
    have hended := mbxWritten_down (c := s.core.found x) (v := value.toNat) (Bool.eq_false_iff.2 hup)
    rwa [hlane] at hended

end Sys2Proof.Machine
end

section
/-! A write of GLK_n_CTL (06_glelin_links.md, R180, R203, R205, R213): the lane's fields are taken, and a change of enable
starts the lane or stops it. -/

namespace Sys2Proof.Machine

open Sys2Proof

/-- A field of the registers of the two lanes of the pair that lane `n` is of. -/
abbrev Fld.ofPair (n : Nat) (f : Fld) : Prop :=
  f.lo < 32 ∧ 0x140000 + n / 2 * 0x800 ≤ f.addr ∧ f.addr < 0x140800 + n / 2 * 0x800

/-- `K` holds of the registers of the two lanes of a pair, of those of an event, and of those of their channel's fault. -/
structure Keys.pair (K : Nat → Prop) (n : Nat) : Prop where
  lanes : ∀ f, Fld.ofPair n f → K f.key
  log : ∀ f ∈ logRegs, K f.key
  fur : ∀ f, Fld.ofFur (n / 2) f → K f.key

section
variable {K : Nat → Prop} {n : Nat}

theorem lane_of_pair (hr : Keys.pair K n) {k : Nat} (hk : k = 2 * (n / 2) ∨ k = 2 * (n / 2) + 1) : Keys.lane K k := by
  intro f ⟨hlo, hlow, hhigh⟩
  refine hr.lanes f ⟨hlo, ?_⟩
  generalize n / 2 = m at hk
  omega

theorem lostRegs_pair (hr : Keys.pair K n) (hn : n < 48) : ∀ f ∈ lostRegs (n / 2), K f.key := by
  have hodd : (2 * (n / 2) + 1) / 2 = n / 2 := by omega
  have hrx : Keys.rx K (2 * (n / 2) + 1) :=
    ⟨lane_of_pair hr (.inr rfl), hr.log, fun _ => ⟨by omega, hodd.symm ▸ hr.fur⟩⟩
  exact hodd ▸ lostRegs_rx hrx (by omega)

theorem linkFaultRegs_pair (hr : Keys.pair K n) : ∀ f ∈ linkFaultRegs n, K f.key := by
  unfold linkFaultRegs
  split
  · rename_i hn
    exact lostRegs_pair hr hn
  · simp

theorem huntRegs_pair (hr : Keys.pair K n) : ∀ f ∈ huntRegs n, K f.key :=
  List.forall_mem_cons.2 ⟨lane_of_pair hr (k := n) (by omega) _ (by simp [Fld.ofLane, Reg.GLK_STATUS_state]),
    linkFaultRegs_pair hr⟩

end

/-- What lies in the ranges of a pair of lanes and of their channel's furrow. -/
theorem pair_among (n : Nat) : Keys.pair (Fld.among eventRegs
    [(0x140000 + n / 2 * 0x800, 0x140800 + n / 2 * 0x800), (0x100000 + n / 2 * 0x1000, 0x101000 + n / 2 * 0x1000)]) n where
  lanes _ hf := among_of_range List.mem_cons_self hf.1 hf.2.1 hf.2.2
  log _ hf := among_of_mem (logRegs_event hf)
  fur _ hf := among_of_range (List.mem_cons_of_mem _ List.mem_cons_self) hf.1 hf.2.1 hf.2.2

/-! ### The fields -/

/-- The fields of GLK_n_CTL taken from a written word: on the second lane of a pair the rate is the first lane's. -/
def ctlTaken (n v : Nat) (c : Chip) : Chip :=
  wr (Reg.GLK_CTL_enable n) (v % 2) (when (n % 2 == 0) (wr (Reg.GLK_CTL_rate n) (v / 2 % 4))
    (wr (Reg.GLK_CTL_polarity n) (v / 256 % 2) (wr (Reg.GLK_CTL_err_limit n) (v / 65536 % 16) c)))

/-- The uplink's rate is the downlink's (R180). -/
def rateCopied (n : Nat) (c : Chip) : Chip :=
  if n % 2 = 0 then wr (Reg.GLK_CTL_rate (n + 1)) (c.rd (Reg.GLK_CTL_rate n)) c else c

/-- The fields of GLK_n_CTL after a write. -/
def ctlSet (n v : Nat) (c : Chip) : Chip := rateCopied n (ctlTaken n v c)

/-- A field of GLK_n_CTL, or the rate that follows it. -/
def Fld.ofCtl (n : Nat) (f : Fld) : Prop :=
  f ∈ [Reg.GLK_CTL_err_limit n, Reg.GLK_CTL_polarity n, Reg.GLK_CTL_rate n, Reg.GLK_CTL_enable n] ∨
    n % 2 = 0 ∧ f = Reg.GLK_CTL_rate (n + 1)

section
variable {n v : Nat} {c : Chip}

theorem ofCtl_own {f : Fld}
    (h : f ∈ [Reg.GLK_CTL_err_limit n, Reg.GLK_CTL_polarity n, Reg.GLK_CTL_rate n, Reg.GLK_CTL_enable n]) : Fld.ofCtl n f :=
  .inl h

theorem onLinks_ctlSet {α β : Type} {p : Lane → α} {q : Link → β} {parts : List Part} {K : Nat → Prop}
    (hr : ∀ f, Fld.ofCtl n f → K f.key) : Chip.onLinks p q parts K c (ctlSet n v c) := by
  have htaken : Chip.onLinks p q parts K c (ctlTaken n v c) :=
    onLinks_trans (onLinks_wr (hr _ (ofCtl_own (by simp))) _ c) <|
    onLinks_trans (onLinks_wr (hr _ (ofCtl_own (by simp))) _ _) <|
    onLinks_trans (onLinks_when (onLinks_wr (hr _ (ofCtl_own (by simp))) _ _)) <|
    onLinks_wr (hr _ (ofCtl_own (by simp))) _ _
  refine onLinks_trans htaken ?_
  unfold ctlSet rateCopied
  split
  · rename_i heven
    exact onLinks_wr (hr _ (.inr ⟨heven, rfl⟩)) _ _
  · exact onLinks_refl _

theorem ofCtl_addr {f : Fld} (h : Fld.ofCtl n f) :
    f.lo < 32 ∧ (f.addr = 0x140000 + n * 0x400 ∨ n % 2 = 0 ∧ f.addr = 0x140400 + n * 0x400) := by
  rcases h with h | ⟨heven, rfl⟩
  · simp only [List.mem_cons, List.not_mem_nil, or_false] at h
    rcases h with rfl | rfl | rfl | rfl <;>
      simp [Reg.GLK_CTL_err_limit, Reg.GLK_CTL_polarity, Reg.GLK_CTL_rate, Reg.GLK_CTL_enable]
  · simp only [Reg.GLK_CTL_rate]
    omega

theorem ctlSet_rd {g : Fld} (hlo : g.lo < 32) (hg : ∀ k, g.addr ≠ 0x140000 + k * 0x400) : (ctlSet n v c).rd g = c.rd g := by
  refine rd_of_onLinks (onLinks_ctlSet (p := id) (q := id) (parts := []) fun f hf => ?_)
  have hown := hg n
  have hup := hg (n + 1)
  have haddr := ofCtl_addr hf
  simp only [Fld.key]
  omega

theorem rateCopied_rd {g : Fld} (hg : g.key ≠ (Reg.GLK_CTL_rate (n + 1)).key) : (rateCopied n c).rd g = c.rd g := by
  unfold rateCopied
  split
  · exact rd_wr_ne hg _ c
  · rfl

theorem ctlSet_beam : (ctlSet n v c).beam = c.beam := by
  unfold ctlSet rateCopied ctlTaken when
  split <;> split <;> rfl

theorem ctlSet_enable : (ctlSet n v c).rd (Reg.GLK_CTL_enable n) = v % 2 := by
  rw [ctlSet, rateCopied_rd (by simp only [Fld.key, Reg.GLK_CTL_enable, Reg.GLK_CTL_rate]; omega), ctlTaken, rd_wr_same]
  exact Nat.mod_mod _ _

theorem rateTaken_rd {b : Bool} {g : Fld} (hg : g.key ≠ (Reg.GLK_CTL_rate n).key) (d : Chip) :
    (when b (wr (Reg.GLK_CTL_rate n) (v / 2 % 4)) d).rd g = d.rd g := by
  cases b
  · rfl
  · exact rd_wr_ne hg _ d

theorem ctlSet_polarity : (ctlSet n v c).rd (Reg.GLK_CTL_polarity n) = v / 256 % 2 := by
  rw [ctlSet, rateCopied_rd (by simp only [Fld.key, Reg.GLK_CTL_polarity, Reg.GLK_CTL_rate]; omega), ctlTaken,
    rd_wr_ne (by simp only [Fld.key, Reg.GLK_CTL_polarity, Reg.GLK_CTL_enable]; omega),
    rateTaken_rd (by simp only [Fld.key, Reg.GLK_CTL_polarity, Reg.GLK_CTL_rate]; omega), rd_wr_same]
  exact Nat.mod_mod _ _

theorem ctlSet_errLimit : (ctlSet n v c).rd (Reg.GLK_CTL_err_limit n) = v / 65536 % 16 := by
  rw [ctlSet, rateCopied_rd (by simp only [Fld.key, Reg.GLK_CTL_err_limit, Reg.GLK_CTL_rate]; omega), ctlTaken,
    rd_wr_ne (by simp only [Fld.key, Reg.GLK_CTL_err_limit, Reg.GLK_CTL_enable]; omega),
    rateTaken_rd (by simp only [Fld.key, Reg.GLK_CTL_err_limit, Reg.GLK_CTL_rate]; omega),
    rd_wr_ne (by simp only [Fld.key, Reg.GLK_CTL_err_limit, Reg.GLK_CTL_polarity]; omega), rd_wr_same]
  exact Nat.mod_mod _ _

theorem ctlTaken_rate (heven : n % 2 = 0) : (ctlTaken n v c).rd (Reg.GLK_CTL_rate n) = v / 2 % 4 := by
  rw [ctlTaken, rd_wr_ne (by simp only [Fld.key, Reg.GLK_CTL_rate, Reg.GLK_CTL_enable]; omega), beq_iff_eq.2 heven, when_true,
    rd_wr_same]
  exact Nat.mod_mod _ _

theorem ctlSet_rate (heven : n % 2 = 0) : (ctlSet n v c).rd (Reg.GLK_CTL_rate n) = v / 2 % 4 :=
  (rateCopied_rd (by simp only [Fld.key, Reg.GLK_CTL_rate]; omega)).trans (ctlTaken_rate heven)

theorem ctlSet_rateUp (heven : n % 2 = 0) : (ctlSet n v c).rd (Reg.GLK_CTL_rate (n + 1)) = v / 2 % 4 := by
  simp only [ctlSet, rateCopied, heven, if_true, rd_wr_same, ctlTaken_rate]
  exact Nat.mod_mod _ _

end

/-! ### A lane starts and stops -/

/-- The counters and records of a lane that an enable clears (R213). -/
def laneClearRegs (n : Nat) : List Fld :=
  [Reg.GLK_FRAMES_count n, Reg.GLK_CRC_ERR_count n, Reg.GLK_MISS_count n, Reg.GLK_STUFF_ERR_count n,
    Reg.GLK_POS_ERR_count n, Reg.GLK_ECHO_ERR_count n, Reg.GLK_KILLED_count n, Reg.GLK_DOWN_BAD_count n,
    Reg.GLK_FILL_last n, Reg.GLK_LAT_worst n, Reg.GLK_LAT_last n, Reg.GLK_STATUS_bad_run n, Reg.GLK_PRBS_ERR_count n,
    Reg.GLK_PRBS_STATUS_sync_losses n]

/-- The registers that an enable of a lane changes. -/
def laneStartRegs (n : Nat) : List Fld := Reg.GLK_STATUS_state n :: Reg.GLK_FILL_least n :: laneClearRegs n

/-- An enabled lane starts with cleared counters, in a test where its mode names one. -/
def laneStart (n : Nat) (c : Chip) : Chip :=
  when (decide (c.rd (Reg.GLK_TEST_mode n) ≠ 0)) (testStart n (c.rd (Reg.GLK_TEST_mode n)))
    (wr (Reg.GLK_STATUS_state n) (laneEnabledState n (c.rd (Reg.GLK_TEST_mode n))) (laneClear n c))

/-- A lane stops: a head lane's link faults. -/
def laneStop (n : Nat) (c : Chip) : Chip :=
  modLane n (fun _ => Lane.init) (wr (Reg.GLK_STATUS_state n) 0
    (if n < 48 then linkLost (n / 2) (if n % 2 = 0 then 6 else 1) c else c))

/-- A lane with its enable as it is now and as it was. -/
def laneTurned (n : Nat) (was : Bool) (c : Chip) : Chip :=
  if c.flag (Reg.GLK_CTL_enable n) && !was then laneStart n c
  else if was && !c.flag (Reg.GLK_CTL_enable n) then laneStop n c else c

theorem laneCtl_eq (n : Nat) (was : Bool) (c : Chip) : laneCtl n was c = laneTurned n was (rateCopied n c) := rfl

section
variable {n : Nat} {c : Chip}

/-- Fields that lie apart read 0 once all of them have been cleared. -/
theorem rd_cleared {l : List Fld} (hl : l.Pairwise fun f g => f.key ≠ g.key) {g : Fld} (hg : g ∈ l) :
    (forEach l (fun f => wr f 0) c).rd g = 0 := by
  induction l generalizing c with
  | nil => cases hg
  | cons f l ih =>
    obtain ⟨hf, hl⟩ := List.pairwise_cons.1 hl
    rcases List.mem_cons.1 hg with rfl | hg
    · exact forEach_keeps (p := fun d => d.rd g = 0) l (fun x hx d hd => (rd_wr_ne (hf x hx) 0 d).trans hd)
        ((rd_wr_same g 0 c).trans (Nat.zero_mod _))
    · exact ih hl hg

theorem laneClearRegs_apart : (laneClearRegs n).Pairwise fun f g => f.key ≠ g.key := by
  simp [laneClearRegs, Fld.key, Reg.GLK_FRAMES_count, Reg.GLK_CRC_ERR_count, Reg.GLK_MISS_count, Reg.GLK_STUFF_ERR_count,
    Reg.GLK_POS_ERR_count, Reg.GLK_ECHO_ERR_count, Reg.GLK_KILLED_count, Reg.GLK_DOWN_BAD_count,
    Reg.GLK_FILL_last, Reg.GLK_LAT_worst, Reg.GLK_LAT_last, Reg.GLK_STATUS_bad_run, Reg.GLK_PRBS_ERR_count,
    Reg.GLK_PRBS_STATUS_sync_losses]
  omega

theorem laneStartRegs_ofLane : ∀ f ∈ laneStartRegs n, Fld.ofLane n f ∧ f.addr ≠ 0x140000 + n * 0x400 := by
  simp [laneStartRegs, laneClearRegs, Fld.ofLane, Reg.GLK_STATUS_state, Reg.GLK_FILL_least, Reg.GLK_FRAMES_count,
    Reg.GLK_CRC_ERR_count, Reg.GLK_MISS_count, Reg.GLK_STUFF_ERR_count, Reg.GLK_POS_ERR_count, Reg.GLK_ECHO_ERR_count,
    Reg.GLK_KILLED_count, Reg.GLK_DOWN_BAD_count, Reg.GLK_FILL_last, Reg.GLK_LAT_worst, Reg.GLK_LAT_last,
    Reg.GLK_STATUS_bad_run, Reg.GLK_PRBS_ERR_count, Reg.GLK_PRBS_STATUS_sync_losses]

section
variable {α β : Type} {q : Link → β} {parts : List Part} {K : Nat → Prop}

theorem onLinks_testStart (hf : Part.fresh ∈ parts) (hb : Part.beam ∈ parts) (mode : Nat) :
    Chip.onLinks (fun _ => ()) q parts K c (testStart n mode c) :=
  onLinks_trans (onLinks_draw hf c) (onLinks_modLane hb (by intro _; rfl) _)

theorem onLinks_laneClear (hb : Part.beam ∈ parts) (hr : ∀ f ∈ laneStartRegs n, K f.key) :
    Chip.onLinks (fun _ => ()) q parts K c (laneClear n c) := by
  obtain ⟨-, hr⟩ := List.forall_mem_cons.1 hr
  obtain ⟨hleast, hclear⟩ := List.forall_mem_cons.1 hr
  exact onLinks_trans (onLinks_forEach (laneClearRegs n) (fun f hf d => onLinks_wr (hclear f hf) 0 d) c) <|
    onLinks_trans (onLinks_wr hleast _ _) (onLinks_modLane hb (by intro _; rfl) _)

theorem onLinks_laneStart (hf : Part.fresh ∈ parts) (hb : Part.beam ∈ parts) (hr : ∀ f ∈ laneStartRegs n, K f.key) :
    Chip.onLinks (fun _ => ()) q parts K c (laneStart n c) :=
  onLinks_trans (onLinks_laneClear hb hr) <|
    onLinks_trans (onLinks_wr (hr _ List.mem_cons_self) _ _) (onLinks_when (onLinks_testStart hf hb _))

theorem onLinks_laneStop (hb : Part.beam ∈ parts) (hs : Part.sys ∈ parts) (hr : ∀ f ∈ huntRegs n, K f.key) :
    Chip.onLinks (fun _ => ()) q parts K c (laneStop n c) := by
  obtain ⟨hstate, hfault⟩ := List.forall_mem_cons.1 hr
  have hlost : Chip.onLinks (fun _ => ()) q parts K c
      (if n < 48 then linkLost (n / 2) (if n % 2 = 0 then 6 else 1) c else c) := by
    split
    · rename_i hn
      exact onLinks_linkLost hb hs (linkFaultRegs_head hn ▸ hfault) _ c
    · exact onLinks_refl c
  exact onLinks_trans hlost (onLinks_trans (onLinks_wr hstate _ _) (onLinks_modLane hb (by intro _; rfl) _))

theorem onLinks_laneTurned (hf : Part.fresh ∈ parts) (hb : Part.beam ∈ parts) (hs : Part.sys ∈ parts)
    (hstart : ∀ f ∈ laneStartRegs n, K f.key) (hstop : ∀ f ∈ huntRegs n, K f.key) (was : Bool) :
    Chip.onLinks (fun _ => ()) q parts K c (laneTurned n was c) :=
  onLinks_ite (onLinks_laneStart hf hb hstart) (onLinks_ite (onLinks_laneStop hb hs hstop) (onLinks_refl c))

end

/-! ### What a lane shows after it has started or stopped -/

theorem laneTurned_kept : laneTurned n (c.flag (Reg.GLK_CTL_enable n)) c = c := by
  unfold laneTurned
  cases c.flag (Reg.GLK_CTL_enable n) <;> rfl

theorem laneTurned_start (h : c.flag (Reg.GLK_CTL_enable n) = true) : laneTurned n false c = laneStart n c := by
  simp only [laneTurned, h]
  rfl

theorem laneTurned_stop (h : c.flag (Reg.GLK_CTL_enable n) = false) : laneTurned n true c = laneStop n c := by
  simp only [laneTurned, h]
  rfl

/-- The fields of GLK_n_CTL are not among the registers that a start or a stop of a lane changes. -/
theorem laneTurned_rd {g : Fld} (hn : n < 64) (was : Bool) (hg : Fld.ofCtl n g) : (laneTurned n was c).rd g = c.rd g := by
  have hctl := ofCtl_addr hg
  refine rd_of_onLinks (onLinks_laneTurned (q := id) (parts := [.fresh, .beam, .sys]) (by simp) (by simp) (by simp) ?_ ?_ was)
  · intro f hf
    obtain ⟨hlane, hother⟩ := laneStartRegs_ofLane f hf
    simp only [Fld.key]
    omega
  · refine List.forall_mem_cons.2 ⟨?_, linkFaultRegs_of_lost (lane_not_lost (by omega) (.inl (by omega)) (by omega))⟩
    simp only [Fld.key, Reg.GLK_STATUS_state]
    omega

theorem startTested_rd (mode : Nat) (g : Fld) (b : Bool) : (when b (testStart n mode) c).rd g = c.rd g := by
  cases b <;> rfl

theorem laneStart_state : (laneStart n c).laneState n = laneEnabledState n (c.rd (Reg.GLK_TEST_mode n)) := by
  have hsmall (mode : Nat) : laneEnabledState n mode < 8 := by
    unfold laneEnabledState
    split
    · decide
    · split <;> decide
  rw [laneStart, Chip.laneState, startTested_rd, rd_wr_same]
  exact Nat.mod_eq_of_lt (hsmall _)

theorem laneClear_eq (n : Nat) (c : Chip) : laneClear n c = modLane n (fun _ => Lane.init)
    (wr (Reg.GLK_FILL_least n) 0xFFFF (forEach (laneClearRegs n) (fun f => wr f 0) c)) := rfl

theorem laneStart_cleared {g : Fld} (hg : g ∈ laneClearRegs n) : (laneStart n c).rd g = 0 := by
  have hapart : g.key ≠ (Reg.GLK_STATUS_state n).key ∧ g.key ≠ (Reg.GLK_FILL_least n).key := by
    revert g
    simp [laneClearRegs, Fld.key, Reg.GLK_STATUS_state, Reg.GLK_FILL_least, Reg.GLK_FRAMES_count, Reg.GLK_CRC_ERR_count,
      Reg.GLK_MISS_count, Reg.GLK_STUFF_ERR_count, Reg.GLK_POS_ERR_count, Reg.GLK_ECHO_ERR_count, Reg.GLK_KILLED_count,
      Reg.GLK_DOWN_BAD_count, Reg.GLK_FILL_last, Reg.GLK_LAT_worst, Reg.GLK_LAT_last, Reg.GLK_STATUS_bad_run,
      Reg.GLK_PRBS_ERR_count, Reg.GLK_PRBS_STATUS_sync_losses]
    omega
  rw [laneStart, startTested_rd, rd_wr_ne hapart.1, laneClear_eq, modLane_rd, rd_wr_ne hapart.2, rd_cleared laneClearRegs_apart hg]

theorem laneClear_lane (hlen : n < c.beam.lanes.length) : (laneClear n c).lane n = Lane.init := by
  rw [laneClear_eq]
  have hframe : Chip.onLinks id id [] Keys.all c (wr (Reg.GLK_FILL_least n) 0xFFFF
      (forEach (laneClearRegs n) (fun f => wr f 0) c)) :=
    onLinks_trans (onLinks_forEach _ (fun f _ d => onLinks_wr trivial 0 d) c) (onLinks_wr trivial _ _)
  exact lane_modLane_same (Nat.lt_of_lt_of_eq hlen hframe.lanesLength.symm) fun _ => Lane.init

theorem laneStart_lane (hlen : n < c.beam.lanes.length) (hmode : c.rd (Reg.GLK_TEST_mode n) = 0) :
    (laneStart n c).lane n = Lane.init := by
  have hstart : laneStart n c = wr (Reg.GLK_STATUS_state n) (laneEnabledState n 0) (laneClear n c) := by
    simp only [laneStart, hmode, ne_eq, not_true_eq_false, decide_false, when_false]
  rw [hstart, Chip.lane, wr_beam]
  exact laneClear_lane hlen

theorem laneStop_state : (laneStop n c).laneState n = 0 := by
  rw [Chip.laneState, laneStop, modLane_rd, rd_wr_same]
  exact Nat.zero_mod _

theorem laneStop_lane (hlen : n < c.beam.lanes.length) : (laneStop n c).lane n = Lane.init := by
  have hframe : Chip.onLinks id id [.beam, .sys] Keys.all c (wr (Reg.GLK_STATUS_state n) 0
      (if n < 48 then linkLost (n / 2) (if n % 2 = 0 then 6 else 1) c else c)) :=
    onLinks_trans (onLinks_ite (onLinks_linkLost (by simp) (by simp) (fun _ _ => trivial) _ c) (onLinks_refl c))
      (onLinks_wr trivial _ _)
  exact lane_modLane_same (Nat.lt_of_lt_of_eq hlen hframe.lanesLength.symm) fun _ => Lane.init

theorem laneStop_fault (hn : n < 48) (hup : c.linkUp (n / 2) = true) : (laneStop n c).linkUp (n / 2) = false ∧
    (laneStop n c).flag (Reg.GLK_STATUS_link_fault (2 * (n / 2) + 1)) = true := by
  have hrd (g : Fld) (hg : g.key ≠ (Reg.GLK_STATUS_state n).key) :
      (laneStop n c).rd g = (linkLost (n / 2) (if n % 2 = 0 then 6 else 1) c).rd g := by
    rw [laneStop, modLane_rd, if_pos hn, rd_wr_ne hg]
  obtain ⟨hdown, hfault⟩ := linkLost_fault (by omega) (if n % 2 = 0 then 6 else 1) hup
  exact ⟨(congrArg (· != 0) (hrd _ (by simp only [Fld.key, Reg.GLK_STATUS_up, Reg.GLK_STATUS_state]; omega))).trans hdown,
    (congrArg (· != 0) (hrd _ (by simp only [Fld.key, Reg.GLK_STATUS_link_fault, Reg.GLK_STATUS_state]; omega))).trans hfault⟩

end

end Sys2Proof.Machine
end

section
/-! GLK_n_CTL on the register fabric (06_glelin_links.md, R180, R203, R205, R213). -/

namespace Sys2Proof.Machine

open Sys2Proof

/-- A write of GLK_n_CTL that is taken. -/
def ctlWritten (n v : Nat) (c : Chip) : Chip := laneTurned n (c.flag (Reg.GLK_CTL_enable n)) (ctlSet n v c)

section
variable {n v : Nat} {c : Chip}

theorem fieldsWritten_ctl : fieldsWritten (ctlHit n) v c = ctlTaken n v c := by
  rcases Nat.mod_two_eq_zero_or_one n with heven | hodd
  · simp [fieldsWritten, forEach, Hit.mirror, heven, ctlTaken, when, FieldDesc.of, Hit.fld, ctlHit, ctlReg,
      Reg.GLK_CTL_rate, Reg.GLK_CTL_enable, Reg.GLK_CTL_polarity, Reg.GLK_CTL_err_limit]
  · simp [fieldsWritten, forEach, Hit.mirror, hodd, ctlTaken, when, FieldDesc.of, Hit.fld, ctlHit, ctlReg,
      Reg.GLK_CTL_enable, Reg.GLK_CTL_polarity, Reg.GLK_CTL_err_limit]

/-- The polarity is fixed while the lane is enabled, and on the first lane of a pair the rate. -/
theorem rwiChange_ctl : c.rwiChange (ctlHit n) v = (v / 256 % 2 != c.rd (Reg.GLK_CTL_polarity n) ||
    (n % 2 == 0 && v / 2 % 4 != c.rd (Reg.GLK_CTL_rate n))) := by
  have hrw : (FTy.rw == FTy.rwi) = false := rfl
  rcases Nat.mod_two_eq_zero_or_one n with heven | hodd
  · simp [Chip.rwiChange, Hit.mirror, heven, FieldDesc.of, Hit.fld, ctlHit, ctlReg, Reg.GLK_CTL_rate,
      Reg.GLK_CTL_polarity, hrw]
  · simp [Chip.rwiChange, Hit.mirror, hodd, FieldDesc.of, Hit.fld, ctlHit, ctlReg, Reg.GLK_CTL_polarity, hrw]

/-- A write of GLK_n_CTL with a limit of bad frames is taken, where an enabled lane keeps its polarity and rate. -/
theorem regWrite_ctl {m : Master} {k : Nat} (hlimit : v / 65536 % 16 ≠ 0)
    (hidle : c.flag (Reg.GLK_CTL_enable n) = true → v / 256 % 2 = c.rd (Reg.GLK_CTL_polarity n) ∧
      (n % 2 = 0 → v / 2 % 4 = c.rd (Reg.GLK_CTL_rate n))) :
    regWrite m (ctlHit n) v k c = ⟨.ok, false, ctlWritten n v c⟩ := by
  refine regWrite_taken rfl rfl (fun hbusy => ?_) ?_ rfl rfl ?_
  · obtain ⟨hpol, hrate⟩ := hidle hbusy
    rw [rwiChange_ctl, hpol, bne_self_eq_false, Bool.false_or]
    by_cases heven : n % 2 = 0
    · rw [hrate heven, bne_self_eq_false, Bool.and_false]
    · rw [beq_eq_false_iff_ne.2 heven, Bool.false_and]
  · have hhigh : ¬ 15 < v / 65536 % 16 := by omega
    simp [Hit.reservedValue, ctlHit, ctlReg, FieldDesc.of, Hit.mirror, hlimit, hhigh]
  · show (Resp.ok, laneCtl n (c.flag (Reg.GLK_CTL_enable n)) (fieldsWritten (ctlHit n) v c)) = _
    rw [fieldsWritten_ctl, laneCtl_eq]
    rfl

/-! ### What the device shows after the write -/

theorem onLinks_ctlWritten {β : Type} {q : Link → β} {parts : List Part} {K : Nat → Prop} (hf : Part.fresh ∈ parts)
    (hb : Part.beam ∈ parts) (hs : Part.sys ∈ parts) (hr : Keys.pair K n) :
    Chip.onLinks (fun _ => ()) q parts K c (ctlWritten n v c) := by
  have hctl : ∀ f, Fld.ofCtl n f → K f.key := fun f hf => hr.lanes f (by
    have := ofCtl_addr hf
    omega)
  exact onLinks_trans (onLinks_ctlSet hctl) (onLinks_laneTurned hf hb hs
    (fun f hf => lane_of_pair hr (k := n) (by omega) f (laneStartRegs_ofLane f hf).1) (huntRegs_pair hr) _)

/-- A field of GLK_n_CTL keeps what the write gave it. -/
theorem ctlWritten_ctl {g : Fld} (hn : n < 64) (hg : Fld.ofCtl n g) : (ctlWritten n v c).rd g = (ctlSet n v c).rd g :=
  laneTurned_rd hn _ hg

theorem ctlSet_flag : (ctlSet n v c).flag (Reg.GLK_CTL_enable n) = bit v 0 := by
  rw [flag_of_rd ctlSet_enable, bit, Nat.testBit_zero]
  rcases Nat.mod_two_eq_zero_or_one v with h | h <;> simp [h]

theorem ctlSet_lane (k : Nat) : (ctlSet n v c).lane k = c.lane k := by rw [Chip.lane, ctlSet_beam, Chip.lane]

theorem ctlWritten_same (h : c.flag (Reg.GLK_CTL_enable n) = bit v 0) : ctlWritten n v c = ctlSet n v c := by
  rw [ctlWritten, h, ← ctlSet_flag (c := c) (n := n), laneTurned_kept]

theorem ctlWritten_start (hwas : c.flag (Reg.GLK_CTL_enable n) = false) (his : bit v 0 = true) :
    ctlWritten n v c = laneStart n (ctlSet n v c) := by
  rw [ctlWritten, hwas, laneTurned_start (ctlSet_flag.trans his)]

theorem ctlWritten_stop (hwas : c.flag (Reg.GLK_CTL_enable n) = true) (his : bit v 0 = false) :
    ctlWritten n v c = laneStop n (ctlSet n v c) := by
  rw [ctlWritten, hwas, laneTurned_stop (ctlSet_flag.trans his)]

theorem ctlSet_mode : (ctlSet n v c).rd (Reg.GLK_TEST_mode n) = c.rd (Reg.GLK_TEST_mode n) :=
  ctlSet_rd (by simp [Reg.GLK_TEST_mode]) (fun k => by simp only [Reg.GLK_TEST_mode]; omega)

theorem ctlSet_laneState (k : Nat) : (ctlSet n v c).laneState k = c.laneState k :=
  ctlSet_rd (by simp [Reg.GLK_STATUS_state]) (fun j => by simp only [Reg.GLK_STATUS_state]; omega)

theorem ctlSet_linkUp (ch : Nat) : (ctlSet n v c).linkUp ch = c.linkUp ch :=
  congrArg (· != 0) (ctlSet_rd (by simp [Reg.GLK_STATUS_up]) (fun j => by simp only [Reg.GLK_STATUS_up]; omega))

theorem laneEnabledState_eq (mode : Nat) :
    laneEnabledState n mode = if mode ≠ 0 then 4 else if n % 2 = 1 ∨ 48 ≤ n then 1 else 3 := by
  have hrx : laneRx n = true ↔ n % 2 = 1 ∨ 48 ≤ n := by
    simp only [laneRx, Bool.or_eq_true, decide_eq_true_eq]
    omega
  simp only [laneEnabledState, hrx]

end

/-! ### The command -/

theorem ctl_ends {s : State} {m : Master} {lane : Fin 52} {value : Word}
    (hlets : s.core.lets m (laneDom lane.val) (0x140000 + lane.val * 0x400) true) (hlimit : value.toNat / 65536 % 16 ≠ 0)
    {l : Lane} (hl : s.core.beam.lanes[lane.val]? = some l)
    (hidle : s.core.flag (Reg.GLK_CTL_enable lane.val) = true →
      value.toNat / 256 % 2 = s.core.rd (Reg.GLK_CTL_polarity lane.val) ∧
        (lane.val % 2 = 0 → value.toNat / 2 % 4 = s.core.rd (Reg.GLK_CTL_rate lane.val))) :
    Ends (.glkEnableWrite m lane value) s fun t =>
      let c := s.core
      let n := lane.val
      let v := value.toNat
      let d := t.core
      let was := c.flag (Reg.GLK_CTL_enable n)
      let is := bit v 0
      d.out = [.bus m .ok []] ∧ d.rd (Reg.GLK_CTL_err_limit n) = v / 65536 % 16 ∧
      d.rd (Reg.GLK_CTL_polarity n) = v / 256 % 2 ∧ d.flag (Reg.GLK_CTL_enable n) = is ∧
      (n % 2 = 0 → d.rd (Reg.GLK_CTL_rate n) = v / 2 % 4 ∧ d.rd (Reg.GLK_CTL_rate (n + 1)) = v / 2 % 4) ∧
      (was = is → d.lane n = l ∧ d.laneState n = c.laneState n) ∧
      (was = false → is = true → (c.rd (Reg.GLK_TEST_mode n) = 0 → d.lane n = Lane.init) ∧
        d.laneState n = (if c.rd (Reg.GLK_TEST_mode n) ≠ 0 then 4 else if n % 2 = 1 ∨ 48 ≤ n then 1 else 3) ∧
        (∀ f ∈ [Reg.GLK_FRAMES_count n, Reg.GLK_CRC_ERR_count n, Reg.GLK_MISS_count n, Reg.GLK_STUFF_ERR_count n,
          Reg.GLK_POS_ERR_count n, Reg.GLK_ECHO_ERR_count n, Reg.GLK_KILLED_count n, Reg.GLK_DOWN_BAD_count n],
          d.rd f = 0)) ∧
      (was = true → is = false → d.lane n = Lane.init ∧ d.laneState n = 0 ∧
        (n < 48 → c.linkUp (n / 2) = true → d.linkUp (n / 2) = false ∧
          d.flag (Reg.GLK_STATUS_link_fault (2 * (n / 2) + 1)) = true)) ∧
      Chip.only [.fresh, .beam, .sys] c d ∧ Chip.regsWithin eventRegs
        [(0x140000 + n / 2 * 0x800, 0x140800 + n / 2 * 0x800), (0x100000 + n / 2 * 0x1000, 0x101000 + n / 2 * 0x1000)] c d := by
  obtain ⟨hlane, hlen⟩ := lane_of_get hl
  have hn : lane.val < 64 := by omega
  refine ends_laneWrite (f := ctlWritten lane.val value.toNat) (p := fun _ => ()) (q := id) (parts := [.fresh, .beam, .sys])
    (K := Fld.among eventRegs [(0x140000 + lane.val / 2 * 0x800, 0x140800 + lane.val / 2 * 0x800),
      (0x100000 + lane.val / 2 * 0x1000, 0x101000 + lane.val / 2 * 0x1000)])
    rfl hlets (by omega) (route_ctl lane hlets.2.1) (fun k x => regWrite_ctl hlimit hidle)
    (fun x => onLinks_ctlWritten (by simp) (by simp) (by simp) (pair_among lane.val)) (by simp) permit_among
    fun t x hleft hout hparts hkept => ?_
  have hrd (g : Fld) (k : Nat) (hk : k < 64) (hg : Fld.ofLane k g) :
      t.core.rd g = (ctlWritten lane.val value.toNat (s.core.found x)).rd g := leaves_rd hleft (permit_not_lane hk hg)
  have hctl (g : Fld) (hg : Fld.ofCtl lane.val g) :
      t.core.rd g = (ctlSet lane.val value.toNat (s.core.found x)).rd g := by
    have haddr := ofCtl_addr hg
    refine (leaves_rd hleft ?_).trans (ctlWritten_ctl hn hg)
    simp only [Fld.key, Reg.GIO_STATUS_permit]
    omega
  refine ⟨hout, (hctl _ (ofCtl_own (by simp))).trans ctlSet_errLimit, (hctl _ (ofCtl_own (by simp))).trans ctlSet_polarity,
    (congrArg (· != 0) (hctl _ (ofCtl_own (by simp)))).trans ctlSet_flag, fun heven => ?_, fun hsame => ?_,
    fun hwas his => ?_, fun hwas his => ?_, hparts, regsWithin_of_regsBut hkept⟩
  · exact ⟨(hctl _ (ofCtl_own (by simp))).trans (ctlSet_rate heven),
      (hctl _ (.inr ⟨heven, rfl⟩)).trans (ctlSet_rateUp heven)⟩
  · rw [leaves_lane hleft, Chip.laneState, hrd _ lane.val hn (by simp [Fld.ofLane, Reg.GLK_STATUS_state]),
      ctlWritten_same (c := s.core.found x) hsame]
    exact ⟨(ctlSet_lane _).trans hlane, ctlSet_laneState _⟩
  · have hstart := ctlWritten_start (c := s.core.found x) hwas his
    rw [leaves_lane hleft, Chip.laneState, hrd _ lane.val hn (by simp [Fld.ofLane, Reg.GLK_STATUS_state]), hstart]
    have hlen' : lane.val < (ctlSet lane.val value.toNat (s.core.found x)).beam.lanes.length := ctlSet_beam.symm ▸ hlen
    refine ⟨fun hmode => laneStart_lane hlen' (ctlSet_mode.trans hmode), ?_, fun f hf => ?_⟩
    · exact laneStart_state.trans ((congrArg _ ctlSet_mode).trans (laneEnabledState_eq _))
    · have hclear : f ∈ laneClearRegs lane.val := List.mem_append_left [Reg.GLK_FILL_last lane.val, Reg.GLK_LAT_worst lane.val,
        Reg.GLK_LAT_last lane.val, Reg.GLK_STATUS_bad_run lane.val, Reg.GLK_PRBS_ERR_count lane.val,
        Reg.GLK_PRBS_STATUS_sync_losses lane.val] hf
      rw [hrd f lane.val hn (laneStartRegs_ofLane f (List.mem_cons_of_mem _ (List.mem_cons_of_mem _ hclear))).1, hstart]
      exact laneStart_cleared hclear
  · have hstop := ctlWritten_stop (c := s.core.found x) hwas his
    rw [leaves_lane hleft, Chip.laneState, hrd _ lane.val hn (by simp [Fld.ofLane, Reg.GLK_STATUS_state]), hstop]
    have hlen' : lane.val < (ctlSet lane.val value.toNat (s.core.found x)).beam.lanes.length := ctlSet_beam.symm ▸ hlen
    refine ⟨laneStop_lane hlen', laneStop_state, fun hhead hup => ?_⟩
    obtain ⟨hdown, hfault⟩ := laneStop_fault (c := ctlSet lane.val value.toNat (s.core.found x)) hhead
      ((ctlSet_linkUp _).trans hup)
    have hodd : 2 * (lane.val / 2) + 1 < 64 := by omega
    have hflag (g : Fld) (hg : Fld.ofLane (2 * (lane.val / 2) + 1) g) :
        t.core.flag g = (laneStop lane.val (ctlSet lane.val value.toNat (s.core.found x))).flag g :=
      congrArg (· != 0) ((hrd g _ hodd hg).trans (congrArg (Chip.rd · g) hstop))
    exact ⟨(hflag _ (by simp [Fld.ofLane, Reg.GLK_STATUS_up])).trans hdown,
      (hflag _ (by simp [Fld.ofLane, Reg.GLK_STATUS_link_fault])).trans hfault⟩

end Sys2Proof.Machine
end

section
/-! A write of GLK_n_TEST (06_glelin_links.md, R203, R210, R211): its fields, the test mode that it starts or ends, and
inject_once. -/

namespace Sys2Proof.Machine

open Sys2Proof

/-- The fields of GLK_n_TEST taken from a written word. -/
def testTaken (n v : Nat) (c : Chip) : Chip :=
  wr (Reg.GLK_TEST_mode n) (v % 8) (wr (Reg.GLK_TEST_inject n) (v / 16 % 4) (wr (Reg.GLK_TEST_inj_exp n) (v / 256 % 32) c))

/-- The fields of GLK_n_TEST. -/
def testRegs (n : Nat) : List Fld := [Reg.GLK_TEST_mode n, Reg.GLK_TEST_inject n, Reg.GLK_TEST_inj_exp n]

section
variable {n v : Nat} {c : Chip}

theorem testTaken_mode : (testTaken n v c).rd (Reg.GLK_TEST_mode n) = v % 8 := (rd_wr_same _ _ _).trans (Nat.mod_mod _ _)

theorem testTaken_inject : (testTaken n v c).rd (Reg.GLK_TEST_inject n) = v / 16 % 4 := by
  rw [testTaken, rd_wr_ne (by simp [Fld.key, Reg.GLK_TEST_inject, Reg.GLK_TEST_mode]), rd_wr_same]
  exact Nat.mod_mod _ _

theorem testTaken_injExp : (testTaken n v c).rd (Reg.GLK_TEST_inj_exp n) = v / 256 % 32 := by
  rw [testTaken, rd_wr_ne (by simp [Fld.key, Reg.GLK_TEST_inj_exp, Reg.GLK_TEST_mode]),
    rd_wr_ne (by simp [Fld.key, Reg.GLK_TEST_inj_exp, Reg.GLK_TEST_inject]), rd_wr_same]
  exact Nat.mod_mod _ _

theorem onLinks_testTaken {α β : Type} {p : Lane → α} {q : Link → β} {parts : List Part} {K : Nat → Prop}
    (hr : ∀ f ∈ testRegs n, K f.key) : Chip.onLinks p q parts K c (testTaken n v c) := by
  simp only [testRegs, List.forall_mem_cons] at hr
  obtain ⟨hmode, hinject, hexp, -⟩ := hr
  exact onLinks_trans (onLinks_wr hexp _ c) (onLinks_trans (onLinks_wr hinject _ _) (onLinks_wr hmode _ _))

/-! ### The write on the register fabric -/

theorem fieldsWritten_test : fieldsWritten (testHit n) v c = testTaken n v c := by
  have hfields : fieldsWritten (testHit n) v c = wr (Reg.GLK_TEST_mode n) (v / 1 % 8)
      (wr (Reg.GLK_TEST_inject n) (v / 16 % 4) (wr (Reg.GLK_TEST_inj_exp n) (v / 256 % 32) c)) := rfl
  rw [hfields, Nat.div_one]
  rfl

/-- What a write of GLK_n_TEST starts once its fields are taken. -/
def testStarted (n v : Nat) (c : Chip) : Chip :=
  when (bit v 16) (laneInject n) (when (!bit v 16 || (testTaken n v c).rd (Reg.GLK_TEST_mode n) != c.rd (Reg.GLK_TEST_mode n))
    (laneTest n) (testTaken n v c))

/-- A write of GLK_n_TEST with values of the map, and with a mode only on a lane whose unit is idle, is taken. -/
theorem regWrite_test {m : Master} {k : Nat} (hmode : v % 8 ≤ 5) (hinject : v / 16 % 4 ≤ 1) (hlow : 10 ≤ v / 256 % 32)
    (hhigh : v / 256 % 32 ≤ 30) (hidle : v % 8 ≠ 0 → c.laneBusy n = none) :
    regWrite m (testHit n) v k c = ⟨.ok, false, testStarted n v c⟩ := by
  refine regWrite_taken rfl rfl (fun _ => ?_) ?_ rfl ?_ ?_
  · have hrw : (FTy.rw == FTy.rwi) = false := rfl
    have hwo : (FTy.wo == FTy.rwi) = false := rfl
    simp [Chip.rwiChange, testHit, testReg, hrw, hwo]
  · have hmode' : ¬ 5 < v % 8 := by omega
    have hinject' : ¬ 1 < v / 16 % 4 := by omega
    have hlow' : ¬ v / 256 % 32 < 10 := by omega
    have hhigh' : ¬ 30 < v / 256 % 32 := by omega
    simp [Hit.reservedValue, testHit, testReg, FieldDesc.of, Hit.mirror, hmode', hinject', hlow', hhigh']
  · show ((fieldsWritten (testHit n) v c).rd (Reg.GLK_TEST_mode n) == 0 || (c.laneBusy n).isNone) = true
    rw [fieldsWritten_test, testTaken_mode]
    by_cases h : v % 8 = 0
    · rw [beq_iff_eq.2 h, Bool.true_or]
    · rw [hidle h]
      exact Bool.or_true _
  · rw [fieldsWritten_test]
    rfl

/-- A write of a mode: its fields, then its effect. -/
def modeWritten (n v : Nat) (c : Chip) : Chip := laneTest n (testTaken n v c)

theorem testStarted_mode (h : bit v 16 = false) : testStarted n v c = modeWritten n v c := by
  rw [testStarted, h]
  rfl

theorem regWrite_mode {m : Master} {k : Nat} (hmode : v % 8 ≤ 5) (hinject : v / 16 % 4 ≤ 1) (hlow : 10 ≤ v / 256 % 32)
    (hhigh : v / 256 % 32 ≤ 30) (hidle : v % 8 ≠ 0 → c.laneBusy n = none) (hbit : bit v 16 = false) :
    regWrite m (testHit n) v k c = ⟨.ok, false, modeWritten n v c⟩ := by
  rw [regWrite_test hmode hinject hlow hhigh hidle, testStarted_mode hbit]

/-- With the mode left OFF, inject_once alone acts. -/
theorem testStarted_inject (h : bit v 16 = true) (hmode : v % 8 = 0) (hoff : c.rd (Reg.GLK_TEST_mode n) = 0) :
    testStarted n v c = laneInject n (testTaken n v c) := by
  rw [testStarted, h, testTaken_mode, hmode, hoff]
  rfl

/-! ### inject_once -/

theorem laneInject_idle (hn : n < 48) (heven : n % 2 = 0) (hch : c.chState (n / 2) = 0) :
    laneInject n c = modLane n (fun l => { l with inject := true }) c := by
  have hrx : laneRx n = false := by
    simp only [laneRx, Bool.or_eq_false_iff, decide_eq_false_iff_not]
    omega
  simp only [laneInject, hrx, hn, hch, Bool.not_false, true_and, or_true, if_true]

end

/-! ### The steps of a test mode's write -/

/-- The registers of a checker that a new test mode clears. -/
def testClearRegs (n : Nat) : List Fld :=
  [Reg.GLK_PRBS_ERR_count n, Reg.GLK_PRBS_BITS_LO_bits n, Reg.GLK_PRBS_BITS_HI_bits n, Reg.GLK_PRBS_STATUS_sync n]

/-- A lane's test begins anew: the checker's counters are cleared, and the mode is logged. -/
def testLogged (n : Nat) (c : Chip) : Chip :=
  laneEvent 0x0505 n (c.rd (Reg.GLK_TEST_mode n)) 0 c.now (forEach (testClearRegs n) (fun f => wr f 0) c)

/-- The state of a lane with a test mode. -/
def testState (n mode : Nat) (c : Chip) : Nat := if c.flag (Reg.GLK_CTL_enable n) then laneEnabledState n mode else 0

/-- A downlink in test takes its link down. -/
def linkTested (n mode : Nat) (c : Chip) : Chip :=
  if n < 48 ∧ n % 2 = 0 ∧ mode ≠ 0 then wr (Reg.GLK_STATUS_up (n + 1)) 0 c else c

/-- A lane leaves its state: a LOCKED receiver loses its frames. -/
def testLeft (n mode : Nat) (c : Chip) : Chip := linkTested n mode (if c.laneState n = 3 ∧ laneRx n then laneHunt n c else c)

/-- A lane takes the state of its test mode. -/
def testMoved (n mode st : Nat) (c : Chip) : Chip :=
  if c.laneState n = st ∨ (mode = 0 ∧ c.laneState n ≠ 4) then c
  else modLane n (fun l => { l with good := 0, miss := 0 }) (wr (Reg.GLK_STATUS_state n) st (testLeft n mode c))

/-- A lane in test begins its pattern. -/
def testBegun (n mode st : Nat) (c : Chip) : Chip := testMoved n mode st (when (decide (st = 4)) (testStart n mode) c)

theorem laneTest_eq (n : Nat) (c : Chip) : laneTest n c =
    testBegun n (c.rd (Reg.GLK_TEST_mode n)) (testState n (c.rd (Reg.GLK_TEST_mode n)) (testLogged n c)) (testLogged n c) := rfl

section
variable {β : Type} {q : Link → β} {parts : List Part} {K : Nat → Prop} {n : Nat} {c : Chip}

theorem testClearRegs_prbs : testClearRegs n ⊆ prbsRegs n := by simp [testClearRegs, prbsRegs]

theorem onLinks_testLogged {α : Type} {p : Lane → α} (hs : Part.sys ∈ parts) (hr : ∀ f ∈ prbsRegs n, K f.key)
    (hlog : ∀ f ∈ logRegs, K f.key) : Chip.onLinks p q parts K c (testLogged n c) := by
  exact onLinks_trans (onLinks_forEach _ (fun f hf d => onLinks_wr (hr f (testClearRegs_prbs hf)) 0 d) c)
    (onLinks_log hs hlog _ _ _ _)

theorem onLinks_testBegun (hf : Part.fresh ∈ parts) (hb : Part.beam ∈ parts) (hs : Part.sys ∈ parts)
    (hhunt : ∀ f ∈ huntRegs n, K f.key) (hup : n % 2 = 0 → K (Reg.GLK_STATUS_up (n + 1)).key) (mode st : Nat) :
    Chip.onLinks (fun _ => ()) q parts K c (testBegun n mode st c) := by
  have hlost (d : Chip) : Chip.onLinks (fun _ => ()) q parts K d (if d.laneState n = 3 ∧ laneRx n then laneHunt n d else d) :=
    onLinks_ite (onLinks_laneHunt (by intro _ _ _; rfl) hb hs hhunt d) (onLinks_refl d)
  have hlink (d : Chip) : Chip.onLinks (fun _ => ()) q parts K d (linkTested n mode d) := by
    unfold linkTested
    split
    · rename_i h
      exact onLinks_wr (hup h.2.1) _ _
    · exact onLinks_refl _
  have hmoved (d : Chip) : Chip.onLinks (fun _ => ()) q parts K d (testMoved n mode st d) :=
    onLinks_ite (onLinks_refl d) (onLinks_trans (onLinks_trans (hlost d) (hlink _))
      (onLinks_trans (onLinks_wr (hhunt _ List.mem_cons_self) _ _) (onLinks_modLane hb (by intro _; rfl) _)))
  exact onLinks_trans (onLinks_when (onLinks_testStart hf hb mode)) (hmoved _)

/-- The registers of a pair of lanes hold what a write of a test mode changes. -/
theorem onLinks_laneTest (hf : Part.fresh ∈ parts) (hb : Part.beam ∈ parts) (hs : Part.sys ∈ parts) (hr : Keys.pair K n) :
    Chip.onLinks (fun _ => ()) q parts K c (laneTest n c) := by
  rw [laneTest_eq]
  refine onLinks_trans (onLinks_testLogged hs (fun f hf => lane_of_pair hr (k := n) (by omega) f (prbs_ofLane f hf)) hr.log)
    (onLinks_testBegun hf hb hs (huntRegs_pair hr) (fun heven => ?_) _ _)
  exact lane_of_pair hr (k := n + 1) (by omega) _ (by simp [Fld.ofLane, Reg.GLK_STATUS_up])

/-! ### What the steps leave -/

/-- A register of the lane other than its status. -/
theorem testBegun_rd {g : Fld} (hn : n < 64) (hg : Fld.ofLane n g) (hstatus : g.addr ≠ 0x140004 + n * 0x400) (mode st : Nat) :
    (testBegun n mode st c).rd g = c.rd g := by
  refine rd_of_onLinks (onLinks_testBegun (q := id) (parts := [.fresh, .beam, .sys]) (by simp) (by simp) (by simp) ?_ ?_ mode st)
  · refine List.forall_mem_cons.2 ⟨?_, linkFaultRegs_of_lost (lane_not_lost (by omega) (.inl (by omega)) (by omega))⟩
    simp only [Fld.key, Reg.GLK_STATUS_state]
    omega
  · intro _
    simp only [Fld.key, Reg.GLK_STATUS_up]
    omega

theorem testBegun_state (mode : Nat) (hmode : mode ≠ 0) : (testBegun n mode 4 c).laneState n = 4 := by
  rw [testBegun, testMoved]
  split
  · rename_i h
    exact h.resolve_right fun h => hmode h.1
  · rw [Chip.laneState, modLane_rd, rd_wr_same]
    rfl

theorem testLogged_rd {g : Fld} (hg : ∀ f ∈ prbsRegs n ++ logRegs, f.key ≠ g.key) : (testLogged n c).rd g = c.rd g :=
  rd_of_onLinks (onLinks_testLogged (p := id) (q := id) (parts := [.sys]) (by simp)
    (fun f hf => hg f (List.mem_append_left _ hf)) (fun f hf => hg f (List.mem_append_right _ hf)))

theorem testLogged_logged (h : c.roomToLog) : (testLogged n c).logged 0x0505 n
    (u8 n ++ u8 (c.rd (Reg.GLK_TEST_mode n)) ++ u16 0 ++ u32 c.now) := by
  have hroom : (forEach (testClearRegs n) (fun f => wr f 0) c).roomToLog :=
    forEach_keeps (p := fun d => d.roomToLog) (f := fun g => wr g 0) _ (fun _ _ _ hd => hd) h
  rw [testLogged, laneEvent]
  exact logged_log hroom _ _ _

theorem testClearRegs_apart : (testClearRegs n).Pairwise fun f g => f.key ≠ g.key := by
  simp [testClearRegs, Fld.key, Reg.GLK_PRBS_ERR_count, Reg.GLK_PRBS_BITS_LO_bits, Reg.GLK_PRBS_BITS_HI_bits,
    Reg.GLK_PRBS_STATUS_sync]

theorem testLogged_cleared {g : Fld} (hg : g ∈ testClearRegs n) : (testLogged n c).rd g = 0 := by
  have hlane := prbs_ofLane g (testClearRegs_prbs hg)
  have hlog : ∀ f ∈ logRegs, f.key ≠ g.key := fun f hf => (chanReg_not_logged ⟨hlane.1, by omega⟩ f hf).symm
  rw [testLogged, laneEvent, rd_of_onLinks (onLinks_log (p := id) (q := id) (parts := [.sys]) (by simp) hlog _ _ _ _)]
  exact rd_cleared testClearRegs_apart hg

/-! ### What the device shows after a mode is written -/

/-- The fields of a lane but its status, after a mode is written: those of the checker are cleared, the others kept. -/
theorem laneTest_rd {g : Fld} (hn : n < 64) (hg : Fld.ofLane n g) (hstatus : g.addr ≠ 0x140004 + n * 0x400)
    (hprbs : ∀ f ∈ prbsRegs n, f.key ≠ g.key) : (laneTest n c).rd g = c.rd g := by
  have hlog : ∀ f ∈ logRegs, f.key ≠ g.key := fun f hf => (chanReg_not_logged ⟨hg.1, by omega⟩ f hf).symm
  rw [laneTest_eq, testBegun_rd hn hg hstatus]
  exact testLogged_rd (List.forall_mem_append.2 ⟨hprbs, hlog⟩)

theorem laneTest_cleared {g : Fld} (hn : n < 64) (hg : g ∈ testClearRegs n) : (laneTest n c).rd g = 0 := by
  have hlane : Fld.ofLane n g ∧ g.addr ≠ 0x140004 + n * 0x400 := by
    revert g
    simp [testClearRegs, Fld.ofLane, Reg.GLK_PRBS_ERR_count, Reg.GLK_PRBS_BITS_LO_bits, Reg.GLK_PRBS_BITS_HI_bits,
      Reg.GLK_PRBS_STATUS_sync]
  rw [laneTest_eq, testBegun_rd hn hlane.1 hlane.2, testLogged_cleared hg]

theorem testRegs_ofLane : ∀ g ∈ testRegs n,
    Fld.ofLane n g ∧ g.addr ≠ 0x140004 + n * 0x400 ∧ ∀ f ∈ prbsRegs n, f.key ≠ g.key := by
  simp [testRegs, prbsRegs, Fld.ofLane, Fld.key, Reg.GLK_TEST_mode, Reg.GLK_TEST_inject, Reg.GLK_TEST_inj_exp,
    Reg.GLK_PRBS_STATUS_sync, Reg.GLK_PRBS_BITS_LO_bits, Reg.GLK_PRBS_BITS_HI_bits, Reg.GLK_PRBS_ERR_count,
    Reg.GLK_PRBS_STATUS_sync_losses]
  omega

/-- The fields of GLK_n_TEST keep what the write gave them. -/
theorem laneTest_test {g : Fld} (hn : n < 64) (hg : g ∈ testRegs n) : (laneTest n c).rd g = c.rd g := by
  obtain ⟨hlane, hstatus, hprbs⟩ := testRegs_ofLane g hg
  exact laneTest_rd hn hlane hstatus hprbs

theorem laneTest_state (hn : n < 64) (hon : c.flag (Reg.GLK_CTL_enable n) = true)
    (hmode : c.rd (Reg.GLK_TEST_mode n) ≠ 0) : (laneTest n c).laneState n = 4 := by
  have hlane : Fld.ofLane n (Reg.GLK_CTL_enable n) := by simp [Fld.ofLane, Reg.GLK_CTL_enable]
  have hflag : (testLogged n c).flag (Reg.GLK_CTL_enable n) = true := by
    refine (congrArg (· != 0) (testLogged_rd (List.forall_mem_append.2 ⟨?_,
      fun f hf => (chanReg_not_logged ⟨hlane.1, by omega⟩ f hf).symm⟩))).trans hon
    simp [prbsRegs, Fld.key, Reg.GLK_CTL_enable, Reg.GLK_PRBS_STATUS_sync, Reg.GLK_PRBS_BITS_LO_bits,
      Reg.GLK_PRBS_BITS_HI_bits, Reg.GLK_PRBS_ERR_count, Reg.GLK_PRBS_STATUS_sync_losses]
    omega
  have hst : testState n (c.rd (Reg.GLK_TEST_mode n)) (testLogged n c) = 4 := by
    rw [testState, hflag, if_pos rfl, laneEnabledState, if_pos hmode]
  rw [laneTest_eq, hst]
  exact testBegun_state _ hmode

theorem laneTest_logged (h : c.roomToLog) : (laneTest n c).logged 0x0505 n
    (u8 n ++ u8 (c.rd (Reg.GLK_TEST_mode n)) ++ u16 0 ++ u32 c.now) := by
  rw [laneTest_eq]
  exact logged_of_kept (testLogged_logged h) (onLinks_testBegun (q := id) (parts := [.fresh, .beam, .sys]) (K := Keys.all)
    (by simp) (by simp) (by simp) (fun _ _ => trivial) (fun _ => trivial) _ _).events

theorem onLinks_modeWritten (hf : Part.fresh ∈ parts) (hb : Part.beam ∈ parts) (hs : Part.sys ∈ parts) (hr : Keys.pair K n)
    (v : Nat) : Chip.onLinks (fun _ => ()) q parts K c (modeWritten n v c) :=
  onLinks_trans (onLinks_testTaken fun f hf => lane_of_pair hr (k := n) (by omega) f (testRegs_ofLane f hf).1)
    (onLinks_laneTest hf hb hs hr)

end

/-! ### The commands -/

theorem testMode_ends {s : State} {m : Master} {lane : Fin 52} {value : Word}
    (hlets : s.core.lets m (laneDom lane.val) (0x140080 + lane.val * 0x400) true) (hmode : value.toNat % 8 ≤ 5)
    (hinject : value.toNat / 16 % 4 ≤ 1) (hlow : 10 ≤ value.toNat / 256 % 32) (hhigh : value.toNat / 256 % 32 ≤ 30)
    (hidle : value.toNat % 8 ≠ 0 → s.core.laneBusy lane.val = none) (hbit : bit value.toNat 16 = false)
    (hroom : s.core.roomToLog) : Ends (.glkTestModeWrite m lane value) s fun t =>
      let c := s.core
      let n := lane.val
      let v := value.toNat
      let d := t.core
      d.out = [.bus m .ok []] ∧ d.rd (Reg.GLK_TEST_mode n) = v % 8 ∧ d.rd (Reg.GLK_TEST_inject n) = v / 16 % 4 ∧
      d.rd (Reg.GLK_TEST_inj_exp n) = v / 256 % 32 ∧ d.rd (Reg.GLK_PRBS_ERR_count n) = 0 ∧
      d.rd2 (Reg.GLK_PRBS_BITS_LO_bits n) (Reg.GLK_PRBS_BITS_HI_bits n) = 0 ∧
      (c.flag (Reg.GLK_CTL_enable n) = true → v % 8 ≠ 0 → d.laneState n = 4) ∧
      d.logged 0x0505 n (u8 n ++ u8 (v % 8) ++ u16 0 ++ u32 c.now) ∧ Chip.only [.fresh, .beam, .sys] c d ∧
      Chip.regsWithin eventRegs [(0x140000 + n / 2 * 0x800, 0x140800 + n / 2 * 0x800),
        (0x100000 + n / 2 * 0x1000, 0x101000 + n / 2 * 0x1000)] c d := by
  have hn : lane.val < 64 := by omega
  refine ends_laneWrite (f := modeWritten lane.val value.toNat) (p := fun _ => ()) (q := id)
    (parts := [.fresh, .beam, .sys])
    (K := Fld.among eventRegs [(0x140000 + lane.val / 2 * 0x800, 0x140800 + lane.val / 2 * 0x800),
      (0x100000 + lane.val / 2 * 0x1000, 0x101000 + lane.val / 2 * 0x1000)])
    rfl hlets (by omega) (route_test lane hlets.2.1)
    (fun k x => regWrite_mode hmode hinject hlow hhigh hidle hbit)
    (fun x => onLinks_modeWritten (by simp) (by simp) (by simp) (pair_among lane.val) _) (by simp) permit_among
    fun t x hleft hout hparts hkept => ?_
  have hrd (g : Fld) (hg : Fld.ofLane lane.val g) :
      t.core.rd g = (modeWritten lane.val value.toNat (s.core.found x)).rd g :=
    leaves_rd hleft (permit_not_lane hn hg)
  have htest (g : Fld) (hg : g ∈ testRegs lane.val) :
      t.core.rd g = (testTaken lane.val value.toNat (s.core.found x)).rd g :=
    (hrd g (testRegs_ofLane g hg).1).trans (laneTest_test hn hg)
  have hclear (g : Fld) (hg : g ∈ testClearRegs lane.val) : t.core.rd g = 0 :=
    (hrd g (prbs_ofLane g (testClearRegs_prbs hg))).trans (laneTest_cleared hn hg)
  refine ⟨hout, (htest _ (by simp [testRegs])).trans testTaken_mode, (htest _ (by simp [testRegs])).trans testTaken_inject,
    (htest _ (by simp [testRegs])).trans testTaken_injExp, hclear _ (by simp [testClearRegs]), ?_, fun hon hstart => ?_, ?_,
    hparts, regsWithin_of_regsBut hkept⟩
  · rw [Chip.rd2, hclear _ (by simp [testClearRegs]), hclear _ (by simp [testClearRegs])]
    simp
  · have henable : (testTaken lane.val value.toNat (s.core.found x)).flag (Reg.GLK_CTL_enable lane.val) = true := by
      refine (congrArg (· != 0) (rd_of_onLinks (onLinks_testTaken (p := id) (q := id) (parts := []) ?_))).trans hon
      simp [testRegs, Fld.key, Reg.GLK_CTL_enable, Reg.GLK_TEST_mode, Reg.GLK_TEST_inject, Reg.GLK_TEST_inj_exp]
      omega
    exact (hrd _ (by simp [Fld.ofLane, Reg.GLK_STATUS_state])).trans
      (laneTest_state hn henable (by rwa [testTaken_mode]))
  · have hlogged := laneTest_logged (n := lane.val) (c := testTaken lane.val value.toNat (s.core.found x)) hroom
    have hnow : (testTaken lane.val value.toNat (s.core.found x)).now = s.core.now := rfl
    rw [testTaken_mode, hnow] at hlogged
    exact leaves_logged hleft hlogged

theorem injectOnce_ends {s : State} {m : Master} {lane : Fin 52} {value : Word} (hn : lane.val < 48)
    (heven : lane.val % 2 = 0) (hlets : s.core.lets m (laneDom lane.val) (0x140080 + lane.val * 0x400) true)
    (hoff : s.core.flag (Reg.GLK_TEST_mode lane.val) = false) (hmode : value.toNat % 8 = 0)
    (hinject : value.toNat / 16 % 4 ≤ 1) (hlow : 10 ≤ value.toNat / 256 % 32) (hhigh : value.toNat / 256 % 32 ≤ 30)
    (hbit : bit value.toNat 16 = true) (hch : s.core.chState (lane.val / 2) = 0)
    {l : Lane} (hl : s.core.beam.lanes[lane.val]? = some l) :
    Wrote (.glkInjectOnce m lane value) s m [.beam] (testRegs lane.val) fun d =>
      d.lane lane.val = { l with inject := true } ∧ d.rd (Reg.GLK_TEST_mode lane.val) = 0 ∧
      d.rd (Reg.GLK_TEST_inject lane.val) = value.toNat / 16 % 4 := by
  obtain ⟨hlane, hlen⟩ := lane_of_get hl
  have hoff' : s.core.rd (Reg.GLK_TEST_mode lane.val) = 0 := by simpa [Chip.flag] using hoff
  have hinjected (x : Nat) : testStarted lane.val value.toNat (s.core.found x) =
      modLane lane.val (fun l => { l with inject := true }) (testTaken lane.val value.toNat (s.core.found x)) := by
    have hidle : (testTaken lane.val value.toNat (s.core.found x)).chState (lane.val / 2) = 0 := by
      refine (rd_of_onLinks (onLinks_testTaken (p := id) (q := id) (parts := []) ?_)).trans hch
      simp only [testRegs, List.forall_mem_cons, Fld.key, Reg.FUR_STATE_state, Reg.GLK_TEST_mode, Reg.GLK_TEST_inject,
        Reg.GLK_TEST_inj_exp]
      refine ⟨by omega, by omega, by omega, by simp⟩
    rw [testStarted_inject (c := s.core.found x) hbit hmode hoff', laneInject_idle hn heven hidle]
  refine wrote_laneWrite (f := testStarted lane.val value.toNat) (p := fun _ => ()) (q := id) rfl hlets (by omega)
    (route_test lane hlets.2.1)
    (fun k x => regWrite_test (by omega) hinject hlow hhigh fun h => absurd hmode h) (fun x => ?_) fun d x hleft => ?_
  · rw [hinjected]
    exact onLinks_trans (onLinks_testTaken fun f hf => among_of_mem (List.mem_cons_of_mem _ hf))
      (onLinks_modLane (by simp) (by intro _; rfl) _)
  · rw [hinjected] at hleft
    have hrd (g : Fld) (hg : g ∈ testRegs lane.val) :
        d.rd g = (testTaken lane.val value.toNat (s.core.found x)).rd g :=
      leaves_rd hleft (permit_not_lane (by omega) (testRegs_ofLane g hg).1)
    refine ⟨?_, (hrd _ (by simp [testRegs])).trans (testTaken_mode.trans hmode),
      (hrd _ (by simp [testRegs])).trans testTaken_inject⟩
    rw [leaves_lane hleft, ← hlane]
    exact lane_modLane_same (c := testTaken lane.val value.toNat (s.core.found x)) hlen _

end Sys2Proof.Machine
end

section
/-! Writes of the head links' registers (06_glelin_links.md): obligation O52. -/

namespace Sys2Proof.Machine

open Sys2Proof

/-- Settles O52: each write gets through the checks of R553, and its effect stays within the frame of its lanes, their link
and their channel's fault. -/
theorem headLinkWrites : Obligations.HeadLinkWrites := by
  unfold Obligations.HeadLinkWrites
  intro s m lane value
  refine ⟨fun hn heven hlets hbusy hop l hl => mbxCmd_ends hn heven hlets hbusy hop hl,
    fun hlets hlimit l hl hidle => ctl_ends hlets hlimit hl hidle, fun hlets hmode hinject hlow hhigh hidle hbit hroom =>
      testMode_ends hlets hmode hinject hlow hhigh hidle hbit hroom,
    fun hn heven hlets hoff hmode hinject hlow hhigh hbit hch l hl =>
      injectOnce_ends hn heven hlets hoff hmode hinject hlow hhigh hbit hch hl⟩

end Sys2Proof.Machine
end

section
/-! A change of one context of the Sieves (07_sieve_pipeline.md, R214–R216): what it leaves of the device, and the context as
a request finds it. -/

namespace Sys2Proof.Machine

open Sys2Proof

/-! ### The frame of one context -/

/-- `d` is `c` changed at most in the listed parts, of the contexts in context `n` alone, and in the listed registers; nothing
is sent and the host side stays. -/
structure Chip.onCtx (n : Nat) (parts : List Part) (regs : List Fld) (c d : Chip) : Prop where
  out : d.out = c.out
  host : d.host = c.host
  parts : Chip.only parts c d
  regs : Chip.regsKept regs c d
  others : ∀ k, k ≠ n → d.ctx k = c.ctx k

theorem ctx_modCtx_ne {n k : Nat} (h : k ≠ n) (f : Ctx → Ctx) (c : Chip) : (modCtx n f c).ctx k = c.ctx k :=
  modAt_getD_ne _ h f _

section
variable {n : Nat} {parts : List Part} {regs : List Fld}

theorem onCtx_refl (c : Chip) : Chip.onCtx n parts regs c c :=
  ⟨rfl, rfl, only_refl _ c, regsKept_refl _ c, fun _ _ => rfl⟩

theorem onCtx_trans {a b c : Chip} (h : Chip.onCtx n parts regs a b) (k : Chip.onCtx n parts regs b c) :
    Chip.onCtx n parts regs a c where
  out := k.out.trans h.out
  host := k.host.trans h.host
  parts := only_trans h.parts k.parts
  regs := regsKept_trans h.regs k.regs
  others j hj := (k.others j hj).trans (h.others j hj)

theorem onCtx_wr {f : Fld} (hf : f ∈ regs) (v : Nat) (c : Chip) : Chip.onCtx n parts regs c (wr f v c) :=
  ⟨rfl, rfl, only_wr _ f v c, regsKept_wr (regsKept_refl _ c) hf v, fun _ _ => rfl⟩

theorem onCtx_modCtx (hi : Part.img ∈ parts) (f : Ctx → Ctx) (c : Chip) : Chip.onCtx n parts regs c (modCtx n f c) :=
  ⟨rfl, rfl, only_img hi c _, regsKept_refl _ c, fun _ hk => ctx_modCtx_ne hk f c⟩

theorem onCtx_modLink (hb : Part.beam ∈ parts) (ch : Nat) (f : Link → Link) (c : Chip) :
    Chip.onCtx n parts regs c (modLink ch f c) :=
  ⟨rfl, rfl, only_beam hb c _, regsKept_refl _ c, fun _ _ => rfl⟩

theorem onCtx_ite {P : Prop} [Decidable P] {c a b : Chip} (ha : P → Chip.onCtx n parts regs c a)
    (hb : ¬ P → Chip.onCtx n parts regs c b) : Chip.onCtx n parts regs c (if P then a else b) := by
  split
  · exact ha ‹_›
  · exact hb ‹_›

theorem onCtx_when {b : Bool} {f : Chip → Chip} {c : Chip} (h : Chip.onCtx n parts regs c (f c)) :
    Chip.onCtx n parts regs c (when b f c) := by
  cases b
  · exact onCtx_refl c
  · exact h

/-- The effect of a request that changes one context. -/
theorem onCtx_endsIn {o : Origin} {c d e : Chip} (h : Chip.Arrived o c d) (k : Chip.onCtx n parts regs d e) :
    Chip.EndsIn o (.host :: parts) (replyRegs o ++ regs) c e where
  out := k.out.trans h.out
  id := (congrArg Session.id (session_congr k.host _)).trans (arrived_id h _)
  key := (congrArg Session.key (session_congr k.host _)).trans (arrived_key h _)
  parts := only_trans (only_mono h.parts (by simp)) (only_mono k.parts (List.subset_cons_self _ _))
  regs := regsKept_trans (regsKept_mono (arrived_regsKept h) (List.subset_append_left _ _))
    (regsKept_mono k.regs (List.subset_append_right _ _))

end

theorem ctx_congr {c d : Chip} (h : d.img = c.img) (n : Nat) : d.ctx n = c.ctx n := by rw [Chip.ctx, h, Chip.ctx]

theorem svOf_congr {c d : Chip} {n : Nat} (h : d.ctx n = c.ctx n) : d.svOf n = c.svOf n := by rw [Chip.svOf, h, Chip.svOf]

theorem told_ctx {o : Origin} {d e : Chip} (h : Chip.Told o d e) (n : Nat) : e.ctx n = d.ctx n :=
  ctx_congr (h.parts .img (by simp)) n

/-- No reply changes how a context runs. -/
theorem told_ctxRun {o : Origin} {d e : Chip} (h : Chip.Told o d e) (n : Nat) : e.ctxRun n = d.ctxRun n := by
  rw [Chip.ctxRun, svOf_congr (told_ctx h n), Chip.ctxRun]
  exact told_rd h (by simp only [Fld.untold, Reg.SVX_STATUS_run]; omega)

/-! ### A context as a request finds it -/

section
variable {o : Origin} {c d : Chip} (h : Chip.Arrived o c d)
include h

theorem arrived_running : d.running = c.running := by rw [Chip.running, h.jobs, Chip.running]

theorem arrived_ctxInJob (n : Nat) : d.ctxInJob n = c.ctxInJob n := by rw [Chip.ctxInJob, h.jobs, Chip.ctxInJob]

theorem arrived_ctxRun (n : Nat) : d.ctxRun n = c.ctxRun n := by
  rw [Chip.ctxRun, arrived_svOf h, Chip.ctxRun]
  exact arrived_above h (by simp only [Fld.above, Reg.SVX_STATUS_run]; omega)

theorem arrived_ctxBusy (n : Nat) : d.ctxBusy n = c.ctxBusy n := by
  rw [Chip.ctxBusy, arrived_ctxRun h, arrived_ctx h, Chip.ctxBusy]

theorem arrived_ctxF (n : Nat) : d.ctxF n = c.ctxF n := by
  rw [Chip.ctxF, arrived_svOf h, Chip.ctxF]
  exact arrived_above h (by simp only [Fld.above, Reg.SVX_PERIOD_beats]; omega)

theorem arrived_ctxW (n : Nat) : d.ctxW n = c.ctxW n := by
  rw [Chip.ctxW, arrived_svOf h, Chip.ctxW]
  exact arrived_above h (by simp only [Fld.above, Reg.SVX_SIZE_width]; omega)

theorem arrived_ctxH (n : Nat) : d.ctxH n = c.ctxH n := by
  rw [Chip.ctxH, arrived_svOf h, Chip.ctxH]
  exact arrived_above h (by simp only [Fld.above, Reg.SVX_SIZE_height]; omega)

theorem arrived_phase (v n : Nat) : d.rd (Reg.SVX_PHASE_beats v n) = c.rd (Reg.SVX_PHASE_beats v n) :=
  arrived_above h (by simp only [Fld.above, Reg.SVX_PHASE_beats]; omega)

theorem arrived_ctxPeriodOk (n : Nat) : d.ctxPeriodOk n = c.ctxPeriodOk n := by
  rw [Chip.ctxPeriodOk, arrived_ctxF h, arrived_svOf h, arrived_phase h, Chip.ctxPeriodOk]

theorem arrived_sieveDemand (v but : Nat) : d.sieveDemand v but = c.sieveDemand v but := by
  simp only [Chip.sieveDemand, arrived_svOf h, arrived_ctxBusy h, arrived_ctxW h, arrived_ctxH h, arrived_ctxF h]

theorem arrived_alignedFrom (n b : Nat) : d.alignedFrom n b = c.alignedFrom n b := by
  simp only [Chip.alignedFrom, arrived_ctxF h, arrived_svOf h, arrived_phase h]

theorem arrived_ctxsLength : d.img.ctxs.length = c.img.ctxs.length := congrArg (fun x => x.ctxs.length) (h.parts .img (by simp))

end

end Sys2Proof.Machine
end

section
/-! CTX_BIND and CTX_RUN (03_serair_commands.md, R92; 07_sieve_pipeline.md, R215, R216, R249): obligation O29. -/

namespace Sys2Proof.Machine

open Sys2Proof

/-! ### The first aligned beat (R216) -/

/-- From a beat on, the first beat at a context's phase lies less than a period away. -/
theorem alignedFrom_spec {c : Chip} {n : Nat} (hphase : c.rd (Reg.SVX_PHASE_beats (c.svOf n) n) < c.ctxF n) (b : Nat) :
    b ≤ c.alignedFrom n b ∧ c.alignedFrom n b < b + c.ctxF n ∧
      c.alignedFrom n b % c.ctxF n = c.rd (Reg.SVX_PHASE_beats (c.svOf n) n) := by
  unfold Chip.alignedFrom
  dsimp only
  generalize c.rd (Reg.SVX_PHASE_beats (c.svOf n) n) = x at *
  generalize c.ctxF n = f at *
  have hpos : 0 < f := by omega
  have hnext : b < f * (b / f + 1) := Nat.lt_mul_div_succ b hpos
  refine ⟨Nat.le_add_right _ _, Nat.add_lt_add_left (Nat.mod_lt _ hpos) b, ?_⟩
  have hsum : b + (x + f * (b / f + 1) - b) = x + f * (b / f + 1) := by omega
  rw [Nat.add_mod_mod, hsum, Nat.add_mul_mod_self_left, Nat.mod_eq_of_lt hphase]

/-! ### CTX_BIND (R215) -/

/-- The registers that a bind changes: how the context runs, in its old Sieve and in its new one. -/
def bindRegs (n v : Nat) (c : Chip) : List Fld :=
  if c.ctxRun n = 0 then [] else [Reg.SVX_STATUS_run (c.svOf n) n, Reg.SVX_STATUS_run v n]

theorem onCtx_ctxBind (n v : Nat) (c : Chip) : Chip.onCtx n [.img] (bindRegs n v c) c (ctxBind n v c) := by
  unfold ctxBind
  dsimp only
  have hmod (f g : Ctx → Ctx) : Chip.onCtx n [.img] (bindRegs n v c) c (modCtx n g (modCtx n f c)) :=
    onCtx_trans (onCtx_modCtx (by simp) f c) (onCtx_modCtx (by simp) g _)
  refine onCtx_ite (fun _ => hmod _ _) fun hrun => ?_
  have hregs : bindRegs n v c = [Reg.SVX_STATUS_run (c.svOf n) n, Reg.SVX_STATUS_run v n] := if_neg (not_or.1 hrun).2
  exact onCtx_trans (onCtx_trans (hmod _ _) (onCtx_modCtx (by simp) _ _))
    (onCtx_trans (onCtx_wr (by simp [hregs]) _ _) (onCtx_wr (by simp [hregs]) _ _))

/-- A bound context belongs to its new Sieve and has no history. -/
theorem ctxBind_ctx {n : Nat} {c : Chip} (hn : n < c.img.ctxs.length) (v : Nat) :
    ((ctxBind n v c).ctx n).sieve = v ∧ ((ctxBind n v c).ctx n).hist = none := by
  have hlen (f : Ctx → Ctx) (d : Chip) (hd : n < d.img.ctxs.length) : n < (modCtx n f d).img.ctxs.length :=
    (modAt_length d.img.ctxs n f).symm ▸ hd
  unfold ctxBind
  dsimp only
  split
  · rw [ctx_modCtx_same (hlen _ _ hn), ctx_modCtx_same hn]
    exact ⟨rfl, rfl⟩
  · rw [ctx_congr (wr_img _ _ _), ctx_congr (wr_img _ _ _), ctx_modCtx_same (hlen _ _ (hlen _ _ hn)),
      ctx_modCtx_same (hlen _ _ hn), ctx_modCtx_same hn]
    exact ⟨rfl, rfl⟩

/-! ### The start of a context alone (R216, R241) -/

/-- The registers that a start block of a context changes. -/
def startRegs (v n : Nat) : List Fld := [Reg.SVX_EXP_STATUS_dirty v n, Reg.SVX_EXP_STATUS_active v n]

section
variable {n : Nat} {regs : List Fld} {c : Chip}

theorem onCtx_expPump (n : Nat) (c : Chip) : Chip.onCtx n [.img, .beam] regs c (expPump n c) := by
  unfold expPump
  split
  · exact onCtx_refl c
  · split
    · exact onCtx_modLink (by simp) _ _ c
    · exact onCtx_trans (onCtx_modCtx (by simp) _ c) (onCtx_modLink (by simp) _ _ _)

theorem onCtx_expBegin {seq : Nat} {todo : List (Nat × Nat)} {start : Bool} (hr : startRegs (c.svOf n) n ⊆ regs) :
    Chip.onCtx n [.img, .beam] regs c (expBegin n seq todo start c) :=
  onCtx_trans (onCtx_modLink (by simp) _ _ c) <| onCtx_trans (onCtx_modCtx (by simp) _ _) <|
    onCtx_trans (onCtx_wr (hr (by simp [startRegs])) _ _) <| onCtx_trans (onCtx_wr (hr (by simp [startRegs])) _ _)
    (onCtx_expPump n _)

theorem onCtx_expStart (hr : startRegs (c.svOf n) n ⊆ regs) : Chip.onCtx n [.img, .beam] regs c (expStart n c) :=
  onCtx_ite (fun _ => onCtx_refl c) fun _ => onCtx_expBegin hr

end

/-- What a change of a context's block leaves of the context. -/
theorem startAt_modCtx {n : Nat} {f : Ctx → Ctx} (hf : ∀ x, (f x).startAt = x.startAt) (c : Chip) :
    ((modCtx n f c).ctx n).startAt = (c.ctx n).startAt := modAt_getD_field (p := Ctx.startAt) hf _ _ _ _

theorem expPump_startAt (n : Nat) (c : Chip) : ((expPump n c).ctx n).startAt = (c.ctx n).startAt := by
  unfold expPump
  split
  · rfl
  · split
    · rfl
    · exact startAt_modCtx (by intro _; rfl) c

theorem expStart_startAt (n : Nat) (c : Chip) : ((expStart n c).ctx n).startAt = (c.ctx n).startAt := by
  unfold expStart
  dsimp only
  split
  · rfl
  · exact (expPump_startAt n _).trans (startAt_modCtx (by intro _; rfl) (mailDrop n c))

/-- A context told to run alone that its Sieve can carry: its start beat is set and its start block begins. -/
def startedAlone (n b : Nat) (c : Chip) : Chip := expStart n (modCtx n (fun x => { x with startAt := some b }) c)

theorem startedAlone_startAt {n : Nat} {c : Chip} (hn : n < c.img.ctxs.length) (b : Nat) :
    ((startedAlone n b c).ctx n).startAt = some b := by
  rw [startedAlone, expStart_startAt, ctx_modCtx_same hn]

theorem onCtx_startedAlone (n b : Nat) (c : Chip) :
    Chip.onCtx n [.img, .beam] (startRegs (c.svOf n) n) c (startedAlone n b c) := by
  refine onCtx_trans (onCtx_modCtx (by simp) _ c) (onCtx_expStart ?_)
  have hsv : (modCtx n (fun x => { x with startAt := some b }) c).svOf n = c.svOf n :=
    modAt_getD_field (p := Ctx.sieve) (by intro _; rfl) _ _ _ _
  rw [hsv]
  exact List.Subset.refl _

theorem ctxRunAlone_starts {n : Nat} {c : Chip} (hrun : c.ctxRun n ≠ 2) (hidle : (c.ctx n).startAt = none)
    (hperiod : c.ctxPeriodOk n = true)
    (hload : c.sieveDemand (c.svOf n) n + sieveLoad (c.ctxW n) (c.ctxH n) (c.ctxF n) ≤ 950) :
    ctxRunAlone n c = (done [], startedAlone n (c.alignedFrom n (c.host.hg.rcvd + 2000)) c) := by
  simp only [ctxRunAlone, hrun, hidle, hperiod, not_lt.2 hload, Option.isSome_none, Bool.false_eq_true, or_self,
    Bool.not_true, if_false]
  rfl

theorem phase_of_ctxPeriodOk {n : Nat} {c : Chip} (h : c.ctxPeriodOk n = true) :
    c.rd (Reg.SVX_PHASE_beats (c.svOf n) n) < c.ctxF n := by
  simp only [Chip.ctxPeriodOk, Bool.and_eq_true, decide_eq_true_eq] at h
  exact h.2

/-! ### The end of a context alone (R216) -/

/-- A context that was told to run alone no longer waits for its start beat. -/
def startDropped (n : Nat) (c : Chip) : Chip := modCtx n (fun x => { x with startAt := none }) c

section
variable {n : Nat} {c : Chip}

theorem startDropped_svOf : (startDropped n c).svOf n = c.svOf n :=
  modAt_getD_field (p := Ctx.sieve) (by intro _; rfl) _ _ _ _

theorem startDropped_startAt (hn : n < c.img.ctxs.length) : ((startDropped n c).ctx n).startAt = none :=
  congrArg Ctx.startAt (ctx_modCtx_same hn _)

/-- A context that opens frames stops, at once where no work is left; any other only drops its start. -/
theorem ctxEnd_cases (n : Nat) (c : Chip) :
    (startDropped n c).ctxOpens n = false ∧ ctxEnd n c = startDropped n c ∨
      ctxEnd n c = wr (Reg.SVX_STATUS_run (c.svOf n) n) 3 (startDropped n c) ∨
      ctxEnd n c = wr (Reg.SVX_STATUS_run (c.svOf n) n) 0 (wr (Reg.SVX_STATUS_run (c.svOf n) n) 3 (startDropped n c)) := by
  have hend : ctxEnd n c = if (startDropped n c).ctxOpens n then
      ctxSettle n (wr (Reg.SVX_STATUS_run ((startDropped n c).svOf n) n) 3 (startDropped n c)) else startDropped n c := rfl
  have hstill : (wr (Reg.SVX_STATUS_run (c.svOf n) n) 3 (startDropped n c)).svOf n = c.svOf n := startDropped_svOf
  rw [hend, startDropped_svOf]
  split
  · unfold ctxSettle
    rw [hstill]
    split
    · exact .inr (.inr rfl)
    · exact .inr (.inl rfl)
  · exact .inl ⟨Bool.eq_false_iff.2 ‹_›, rfl⟩

theorem onCtx_ctxEnd (n : Nat) (c : Chip) :
    Chip.onCtx n [.img] [Reg.SVX_STATUS_run (c.svOf n) n] c (ctxEnd n c) := by
  have hmod : Chip.onCtx n [.img] [Reg.SVX_STATUS_run (c.svOf n) n] c (startDropped n c) := onCtx_modCtx (by simp) _ c
  rcases ctxEnd_cases n c with ⟨-, hend⟩ | hend | hend <;> rw [hend]
  · exact hmod
  · exact onCtx_trans hmod (onCtx_wr (by simp) _ _)
  · exact onCtx_trans hmod (onCtx_trans (onCtx_wr (by simp) _ _) (onCtx_wr (by simp) _ _))

/-- Neither a stopped nor a stopping context opens frames. -/
theorem stopped_ctxOpens {u v : Nat} (hv : v = 0 ∨ v = 3) (hu : c.svOf n = u) :
    (wr (Reg.SVX_STATUS_run u n) v c).ctxOpens n = false := by
  have hstill : (wr (Reg.SVX_STATUS_run u n) v c).svOf n = u := hu
  rw [Chip.ctxOpens, Chip.ctxRun, hstill, rd_wr_same]
  rcases hv with rfl | rfl <;> rfl

theorem ctxEnd_startAt (hn : n < c.img.ctxs.length) : ((ctxEnd n c).ctx n).startAt = none := by
  have hdropped := startDropped_startAt hn
  rcases ctxEnd_cases n c with ⟨-, hend⟩ | hend | hend <;> rw [hend]
  · exact hdropped
  · exact hdropped
  · exact hdropped

theorem ctxEnd_ctxOpens (n : Nat) (c : Chip) : (ctxEnd n c).ctxOpens n = false := by
  rcases ctxEnd_cases n c with ⟨hopens, hend⟩ | hend | hend <;> rw [hend]
  · exact hopens
  · exact stopped_ctxOpens (.inr rfl) startDropped_svOf
  · exact stopped_ctxOpens (.inl rfl) startDropped_svOf

end

/-! ### The commands -/

section
variable {s : State} {o : Origin} {ctx : BitVec 8} (ha : s.core.obeys o 1) (hfree : s.core.free) (hn : ctx.toNat < 32)
  (hjob : s.core.ctxInJob ctx.toNat = false)
include ha hfree hn hjob

theorem ends_ctxBind (hctx : ctx.toNat < s.core.img.ctxs.length) {sieve : BitVec 8} (hv : sieve.toNat < 2)
    (hon : s.core.on (sieveDom sieve.toNat) = true) : Ends (.ctxBind o ctx sieve) s fun t =>
      Replied o 0x80 0 [] s.core t.core ∧ t.core.svOf ctx.toNat = sieve.toNat ∧ (t.core.ctx ctx.toNat).hist = none ∧
      (∀ k, k ≠ ctx.toNat → t.core.ctx k = s.core.ctx k) ∧ Chip.only [.host, .img] s.core t.core ∧
      Chip.regsKept (replyRegs o ++ bindRegs ctx.toNat sieve.toNat s.core) s.core t.core := by
  have h := arrived_finds true o s.core
  have hbind := onCtx_ctxBind ctx.toNat sieve.toNat (s.core.finds true o)
  have hbound := ctxBind_ctx ((arrived_ctxsLength h).symm ▸ hctx) sieve.toNat
  have hregs : bindRegs ctx.toNat sieve.toNat (s.core.finds true o) = bindRegs ctx.toNat sieve.toNat s.core := by
    simp only [bindRegs, arrived_ctxRun h, arrived_svOf h]
  have hform : (if ctx.toNat ≥ 32 then some 0 else if sieve.toNat ≥ 2 then some 1 else none) = none := by
    rw [if_neg (by omega), if_neg (by omega)]
  rw [hregs] at hbind
  refine ends_served (.inl rfl) (ready_free (op := 0x80) (info := ⟨2, 1, true⟩) rfl ha hfree hform (by simpa using hon))
    (d := ctxBind ctx.toNat sieve.toNat (s.core.finds true o)) (a := done []) ?_ (by decide) (by decide)
    (onCtx_endsIn h hbind) (by simp) (List.subset_append_left _ _) fun t ht =>
      ⟨ht.reply, ?_, ?_, fun k hk => ?_, ht.parts, ht.regs⟩
  · simp only [arrived_ctxInJob h, hjob, Bool.false_eq_true, if_false]
  · rw [Chip.svOf, told_ctx ht.told, hbound.1]
  · rw [told_ctx ht.told, hbound.2]
  · rw [told_ctx ht.told, hbind.others k hk, arrived_ctx h]

/-- What CTX_RUN answers where its checks let it through. -/
theorem ends_ctxRun {on : BitVec 8} {d : Chip} {parts : List Part} {regs : List Fld} {Q : State → Prop}
    (hon : s.core.on (sieveDom (s.core.svOf ctx.toNat)) = true) (hform : on.toNat < 2)
    (hrun : on.toNat ≠ 0 → (26 ≤ ctx.toNat → s.core.admitted = none ∧ s.core.running = none ∧
      s.core.ctxBusy (ctx.toNat - 26) = false) ∧ (ctx.toNat < 6 → s.core.ctxBusy (ctx.toNat + 26) = false))
    (hd : (if on.toNat = 0 then (done [], ctxEnd ctx.toNat (s.core.finds true o))
      else ctxRunAlone ctx.toNat (s.core.finds true o)) = (done [], d))
    (hframe : Chip.onCtx ctx.toNat parts regs (s.core.finds true o) d)
    (hQ : ∀ t : State, Chip.Told o d t.core → Replied o 0x81 0 [] s.core t.core →
      (∀ k, k ≠ ctx.toNat → t.core.ctx k = s.core.ctx k) → Chip.only (.host :: parts) s.core t.core →
      Chip.regsKept (replyRegs o ++ regs) s.core t.core → Q t) : Ends (.ctxRun o ctx on) s Q := by
  have h := arrived_finds true o s.core
  have hbytes : (if ctx.toNat ≥ 32 then some 0 else if on.toNat ≥ 2 then some 1 else none) = none := by
    rw [if_neg (by omega), if_neg (by omega)]
  refine ends_served (.inl rfl) (ready_free (op := 0x81) (info := ⟨2, 1, true⟩) rfl ha hfree hbytes (by simp))
    (d := d) (a := done []) ?_ (by decide) (by decide) (onCtx_endsIn h hframe) (by simp) (List.subset_append_left _ _)
    fun t ht => hQ t ht.told ht.reply (fun k hk => ?_) ht.parts ht.regs
  · have hon' : (s.core.finds true o).on (sieveDom ((s.core.finds true o).svOf ctx.toNat)) = true := by
      rw [arrived_svOf h, arrived_on h, hon]
    simp only [hon', arrived_ctxInJob h, arrived_admitted h, arrived_running h, arrived_ctxBusy h, hjob, Bool.not_true,
      Bool.false_eq_true, if_false]
    split at hd
    · rename_i hzero
      rw [if_pos hzero, hd]
    · rename_i hone
      obtain ⟨htest, hmelt⟩ := hrun hone
      rw [if_neg hone, if_neg, if_neg, hd]
      · rintro ⟨h6, hbusy⟩
        simp [hmelt h6] at hbusy
      · rintro ⟨h26, hbusy⟩
        obtain ⟨hadm, hrunning, hidle⟩ := htest h26
        simp [hadm, hrunning, hidle] at hbusy
  · rw [told_ctx ht.told, hframe.others k hk, arrived_ctx h]

theorem ends_ctxRunOn (hctx : ctx.toNat < s.core.img.ctxs.length)
    (hon : s.core.on (sieveDom (s.core.svOf ctx.toNat)) = true) (hrun : s.core.ctxRun ctx.toNat ≠ 2)
    (hidle : (s.core.ctx ctx.toNat).startAt = none) (hperiod : s.core.ctxPeriodOk ctx.toNat = true)
    (hload : s.core.sieveDemand (s.core.svOf ctx.toNat) ctx.toNat +
      sieveLoad (s.core.ctxW ctx.toNat) (s.core.ctxH ctx.toNat) (s.core.ctxF ctx.toNat) ≤ 950)
    (htest : 26 ≤ ctx.toNat → s.core.admitted = none ∧ s.core.running = none ∧ s.core.ctxBusy (ctx.toNat - 26) = false)
    (hmelt : ctx.toNat < 6 → s.core.ctxBusy (ctx.toNat + 26) = false) : Ends (.ctxRun o ctx 1) s fun t =>
      Replied o 0x81 0 [] s.core t.core ∧
      (∃ b, (t.core.ctx ctx.toNat).startAt = some b ∧ s.core.now + 2000 ≤ b ∧
        b < s.core.now + 2000 + s.core.ctxF ctx.toNat ∧
        b % s.core.ctxF ctx.toNat = s.core.rd (Reg.SVX_PHASE_beats (s.core.svOf ctx.toNat) ctx.toNat)) ∧
      (∀ k, k ≠ ctx.toNat → t.core.ctx k = s.core.ctx k) ∧ Chip.only [.host, .img, .beam] s.core t.core ∧
      Chip.regsKept (replyRegs o ++ startRegs (s.core.svOf ctx.toNat) ctx.toNat) s.core t.core := by
  have h := arrived_finds true o s.core
  have hrcvd : (s.core.finds true o).host.hg.rcvd = s.core.now := rfl
  have hstart := ctxRunAlone_starts (n := ctx.toNat) (c := s.core.finds true o) (by rwa [arrived_ctxRun h])
    (by rwa [arrived_ctx h]) (by rwa [arrived_ctxPeriodOk h])
    (by rwa [arrived_sieveDemand h, arrived_svOf h, arrived_ctxW h, arrived_ctxH h, arrived_ctxF h])
  rw [hrcvd, arrived_alignedFrom h] at hstart
  have hframe := onCtx_startedAlone ctx.toNat (s.core.alignedFrom ctx.toNat (s.core.now + 2000)) (s.core.finds true o)
  rw [arrived_svOf h] at hframe
  refine ends_ctxRun ha hfree hn hjob hon (by decide) (fun _ => ⟨htest, hmelt⟩) hstart hframe
    fun t ht hreply hothers hparts hregs =>
      ⟨hreply, ⟨_, ?_, alignedFrom_spec (phase_of_ctxPeriodOk hperiod) _⟩, hothers, hparts, hregs⟩
  rw [told_ctx ht, startedAlone_startAt ((arrived_ctxsLength h).symm ▸ hctx)]

theorem ends_ctxRunOff (hctx : ctx.toNat < s.core.img.ctxs.length)
    (hon : s.core.on (sieveDom (s.core.svOf ctx.toNat)) = true) : Ends (.ctxRun o ctx 0) s fun t =>
    Replied o 0x81 0 [] s.core t.core ∧ (t.core.ctx ctx.toNat).startAt = none ∧ t.core.ctxOpens ctx.toNat = false ∧
    (∀ k, k ≠ ctx.toNat → t.core.ctx k = s.core.ctx k) ∧ Chip.only [.host, .img] s.core t.core ∧
    Chip.regsKept (replyRegs o ++ [Reg.SVX_STATUS_run (s.core.svOf ctx.toNat) ctx.toNat]) s.core t.core := by
  have h := arrived_finds true o s.core
  have hframe := onCtx_ctxEnd ctx.toNat (s.core.finds true o)
  rw [arrived_svOf h] at hframe
  refine ends_ctxRun ha hfree hn hjob hon (by decide) (fun hone => absurd rfl hone) rfl hframe
    fun t ht hreply hothers hparts hregs => ⟨hreply, ?_, ?_, hothers, hparts, hregs⟩
  · rw [told_ctx ht, ctxEnd_startAt ((arrived_ctxsLength h).symm ▸ hctx)]
  · rw [Chip.ctxOpens, told_ctxRun ht]
    exact ctxEnd_ctxOpens _ _

end

/-- Settles O29: each command changes its context alone, and the first checks let it through. -/
theorem contextCommands : Obligations.ContextCommands := by
  unfold Obligations.ContextCommands
  intro s o ctx ha hfree hn hjob hsome
  have hctx : ctx.toNat < s.core.img.ctxs.length := by simpa using hsome
  exact ⟨fun sieve hv hon => ends_ctxBind ha hfree hn hjob hctx hv hon,
    fun hon hrun hidle hperiod hload htest hmelt =>
      ends_ctxRunOn ha hfree hn hjob hctx hon hrun hidle hperiod hload htest hmelt,
    fun hon => ends_ctxRunOff ha hfree hn hjob hctx hon⟩

end Sys2Proof.Machine
end

section
/-! Writes of a register that is no half of a pair, on any block (00_scope.md, R9, R12, R553; 01_architecture.md, R33): where it
lies, how far a write of it gets, and how its fields act. -/

namespace Sys2Proof.Machine

open Sys2Proof

/-! ### The address map (R33) -/

theorem addrMap_rising : addrMap.Pairwise fun q r => q.fin ≤ r.base := by decide

/-- An address in the range of a row of the map lies in that row's block. -/
theorem placeOf_row {a : Nat} {r : MapRow} (hr : r ∈ addrMap) (hlo : r.base ≤ a) (hhi : a < r.fin)
    (hi : (a - r.base) / r.stride < r.count) :
    placeOf a = some ⟨r.blk, (a - r.base) / r.stride, (a - r.base) % r.stride⟩ := by
  have hfound : addrMap.find? (fun q => decide (q.base ≤ a) && decide (a < q.fin)) = some r := by
    obtain ⟨as, bs, hmap⟩ := List.append_of_mem hr
    refine List.find?_eq_some_iff_append.2 ⟨by simp [hlo, hhi], as, bs, hmap, fun q hq => ?_⟩
    have hbelow := (List.pairwise_append.1 (hmap ▸ addrMap_rising)).2.2 q hq r List.mem_cons_self
    simp
    omega
  simp [placeOf, hfound, hi]

theorem fields_apart (b : Blk) : ∀ r ∈ b.regs, r.fields.Pairwise fun f g => f.lo ≠ g.lo := by
  cases b <;> decide +kernel

theorem fields_low (b : Blk) : ∀ r ∈ b.regs, ∀ f ∈ r.fields, f.lo < 32 := by
  cases b <;> decide +kernel

/-! ### The checks of R553 -/

theorem rwiChange_none {h : Hit} (hf : ∀ f ∈ h.r.fields, f.ty ≠ .rwi) (c : Chip) (v : Nat) : c.rwiChange h v = false := by
  rw [Chip.rwiChange, List.any_eq_false]
  intro f hmem
  simp [hf f hmem]

/-- A write that gets through to a register ends as the register answers. -/
theorem busWriteBy_reg {m : Master} {dom a v k : Nat} {c : Chip} {h : Hit} (hl : c.lets m dom a true)
    (ha : 0x70000 ≤ a ∧ a < 0x1000000) (hr : c.route a = .reg h) :
    busWriteBy m a v k c = send (.bus m (regWrite m h v k c).resp []) (regWrite m h v k c).chip := by
  obtain ⟨-, -, hm, hspi⟩ := hl
  have hbarred : barred a = false := by
    simp only [barred, Bool.and_eq_false_iff, decide_eq_false_iff_not]
    omega
  have hdenied : (m = .spi ∧ (c.spiBars a true || makerOnly a || barred a) = true) = False :=
    eq_false fun ⟨he, hb⟩ => by simp [hspi he, hbarred] at hb
  simp only [busWriteBy, busWrite, hdenied, if_false, show ¬ 0x1000000 ≤ a by omega, hm, hr]

/-- What a write starts may refuse it still. -/
theorem regWrite_refused {m : Master} {h : Hit} {v k : Nat} {c d : Chip} (hblk : (h.p.blk == .sec || h.p.blk == .crk) = false)
    (hpair : h.r.pair = .none) (hrwi : ∀ f ∈ h.r.fields, f.ty ≠ .rwi) (hlegal : h.reservedValue v = false)
    (hfree : c.refusesWrite m h = false) (hok : writeOk m h v c (fieldsWritten h v c) = true)
    (hstarts : writeStarts m h v k c (fieldsWritten h v c) = (.slaveErr, d)) : regWrite m h v k c = ⟨.slaveErr, false, c⟩ := by
  simp [regWrite, hblk, Hit.holds, hpair, rwiChange_none hrwi, hlegal, hfree, hok, hstarts]

section
variable {i : Instr} {s : State} {m : Master} {dom a v : Nat} {h : Hit}

/-- A command that writes a register, whose effect stays within the listed parts and fields. -/
theorem wrote_reg {α β : Type} {p : Lane → α} {q : Link → β} {f : Chip → Chip} {parts : List Part} {regs : List Fld}
    {P : Chip → Prop} (hi : busWriteOf i = some (m, a, v)) (hl : s.core.lets m dom a true)
    (ha : 0x70000 ≤ a ∧ a < 0x1000000) (hr : s.core.route a = .reg h)
    (hw : ∀ k x, regWrite m h v k (s.core.found x) = ⟨.ok, false, f (s.core.found x)⟩)
    (hframe : ∀ c, Chip.onLinks p q (.fresh :: parts) (Fld.among (Reg.GIO_STATUS_permit :: regs) []) c (f c))
    (hP : ∀ d x, Chip.Leaves s.core (f (s.core.found x)) d → P d) : Wrote i s m parts regs P := by
  obtain ⟨g, k, x, he, hg⟩ := exec_busWriteOf hi s
  have hsent : g { s.core with out := [] } = send (.bus m .ok []) (f (s.core.found x)) := by
    rw [hg, busWriteBy_reg (c := s.core.found x) hl ha hr, hw]
  have hf := hframe (s.core.found x)
  exact wrote_of_sending he hl.1 hsent hf.out (only_trans (only_found List.mem_cons_self x _) hf.parts)
    (regsKept_of_regsBut hf.regs) fun e he => hP e x he

/-- A command whose write of a register is refused. -/
theorem ends_regRefused (hi : busWriteOf i = some (m, a, v)) (hl : s.core.lets m dom a true)
    (ha : 0x70000 ≤ a ∧ a < 0x1000000) (hr : s.core.route a = .reg h)
    (hw : ∀ k x, regWrite m h v k (s.core.found x) = ⟨.slaveErr, false, s.core.found x⟩) :
    Ends i s fun t => t.core.out = [.bus m .slaveErr []] ∧ Chip.only [.fresh] s.core t.core ∧
      Chip.regsKept [Reg.GIO_STATUS_permit] s.core t.core := by
  obtain ⟨g, k, x, he, hg⟩ := exec_busWriteOf hi s
  exact ends_refused he hl.1 (by rw [hg, busWriteBy_reg (c := s.core.found x) hl ha hr, hw])

end

/-! ### The fields act (R9) -/

/-- What a field of a register reads after a write of a word, from what it read before. -/
def FieldDesc.after (f : FieldDesc) (v x : Nat) : Nat :=
  match f.ty with
  | .rw | .rwi => f.of v
  | .w1c => x &&& (f.of v ^^^ (2 ^ f.w - 1))
  | _ => x

/-- One field of a register after a write of a word. -/
def fieldWritten (h : Hit) (v : Nat) (f : FieldDesc) (c : Chip) : Chip :=
  match f.ty with
  | .rw | .rwi => if h.mirror f then c else wr (h.fld f) (f.of v) c
  | .w1c => wr (h.fld f) (c.rd (h.fld f) &&& (f.of v ^^^ (2 ^ f.w - 1))) c
  | _ => c

theorem fieldsWritten_eq (h : Hit) (v : Nat) (c : Chip) : fieldsWritten h v c = forEach h.r.fields (fieldWritten h v) c := rfl

theorem took_iff {h : Hit} {v : Nat} {c d : Chip} :
    h.took v c d ↔ ∀ f ∈ h.r.fields, d.rd (h.fld f) = f.after v (c.rd (h.fld f)) := Iff.rfl

/-- Clearing by ones keeps a field within its width. -/
theorem cleared_lt {x y w : Nat} (hy : y < 2 ^ w) : x &&& (y ^^^ (2 ^ w - 1)) < 2 ^ w :=
  Nat.lt_of_le_of_lt Nat.and_le_right (Nat.xor_lt_two_pow hy (Nat.sub_lt (Nat.two_pow_pos w) Nat.one_pos))

section
variable {h : Hit} {v : Nat} {f : FieldDesc} {c : Chip}

theorem fieldWritten_same (hm : h.mirror f = false) : (fieldWritten h v f c).rd (h.fld f) = f.after v (c.rd (h.fld f)) := by
  have hof : f.of v < 2 ^ f.w := Nat.mod_lt _ (Nat.two_pow_pos _)
  have htaken : (wr (h.fld f) (f.of v) c).rd (h.fld f) = f.of v := (rd_wr_same _ _ _).trans (Nat.mod_eq_of_lt hof)
  unfold fieldWritten FieldDesc.after
  cases f.ty
  case rw => simpa [hm] using htaken
  case rwi => simpa [hm] using htaken
  case w1c => exact (rd_wr_same _ _ _).trans (Nat.mod_eq_of_lt (cleared_lt hof))
  all_goals rfl

theorem onLinks_fieldWritten {α β : Type} {p : Lane → α} {q : Link → β} {parts : List Part} {K : Nat → Prop}
    (hK : K (h.fld f).key) (v : Nat) (c : Chip) : Chip.onLinks p q parts K c (fieldWritten h v f c) := by
  unfold fieldWritten
  split
  · exact onLinks_ite (onLinks_refl c) (onLinks_wr hK _ c)
  · exact onLinks_ite (onLinks_refl c) (onLinks_wr hK _ c)
  · exact onLinks_wr hK _ c
  · exact onLinks_refl c

theorem onLinks_fieldsWritten {α β : Type} {p : Lane → α} {q : Link → β} {parts : List Part} {K : Nat → Prop}
    (hK : ∀ f ∈ h.r.fields, K (h.fld f).key) (v : Nat) (c : Chip) : Chip.onLinks p q parts K c (fieldsWritten h v c) :=
  onLinks_forEach _ (fun f hf d => onLinks_fieldWritten (hK f hf) v d) c

theorem fieldWritten_ne {g : Fld} (hg : (h.fld f).key ≠ g.key) : (fieldWritten h v f c).rd g = c.rd g :=
  rd_of_onLinks (onLinks_fieldWritten (p := id) (q := id) (parts := []) (K := (· ≠ g.key)) hg v c)

theorem fieldsWritten_ne {g : Fld} (hg : ∀ f ∈ h.r.fields, (h.fld f).key ≠ g.key) : (fieldsWritten h v c).rd g = c.rd g :=
  rd_of_onLinks (onLinks_fieldsWritten (p := id) (q := id) (parts := []) (K := (· ≠ g.key)) hg v c)

theorem fld_key (h : Hit) (f : FieldDesc) : (h.fld f).key = h.addr * 32 + f.lo := rfl

/-- Of fields that lie apart each acts once. -/
theorem forEach_fieldWritten {l : List FieldDesc} (hl : l.Pairwise fun f g => f.lo ≠ g.lo) (hm : ∀ f ∈ l, h.mirror f = false)
    (hf : f ∈ l) : (forEach l (fieldWritten h v) c).rd (h.fld f) = f.after v (c.rd (h.fld f)) := by
  induction l generalizing c with
  | nil => cases hf
  | cons g l ih =>
    obtain ⟨hg, hl⟩ := List.pairwise_cons.1 hl
    rcases List.mem_cons.1 hf with rfl | hmem
    · refine forEach_keeps (p := fun d => d.rd (h.fld f) = f.after v (c.rd (h.fld f))) l (fun e he d hd => ?_)
        (fieldWritten_same (hm f List.mem_cons_self))
      rw [fieldWritten_ne (by simpa [fld_key] using (hg e he).symm), hd]
    · have hkept : (fieldWritten h v g c).rd (h.fld f) = c.rd (h.fld f) :=
        fieldWritten_ne (by simpa [fld_key] using hg f hmem)
      exact (ih hl (fun e he => hm e (List.mem_cons_of_mem _ he)) hmem).trans (congrArg (f.after v) hkept)

/-- Every field of a register acts as its type states. -/
theorem fieldsWritten_took (hr : h.r ∈ h.p.blk.regs) (hm : ∀ f, h.mirror f = false) : h.took v c (fieldsWritten h v c) :=
  took_iff.2 fun _ hf => forEach_fieldWritten (fields_apart _ _ hr) (fun g _ => hm g) hf

theorem took_congr {d e : Chip} (hd : h.took v c d) (he : ∀ f ∈ h.r.fields, e.rd (h.fld f) = d.rd (h.fld f)) :
    h.took v c e := fun f hf => (he f hf).trans (hd f hf)

end

/-- A field of one bit is set when its bit of the written word is. -/
theorem flag_of_bit {c : Chip} {f : Fld} {v k : Nat} (h : c.rd f = v / 2 ^ k % 2 ^ 1) : c.flag f = bit v k := by
  have hk : v / 2 ^ k % 2 = 0 ∨ v / 2 ^ k % 2 = 1 := by omega
  rw [flag_of_rd h, bit, Nat.testBit_eq_decide_div_mod_eq, pow_one]
  rcases hk with hk | hk <;> simp [hk]

end Sys2Proof.Machine
end

section
/-! Writes of a context's registers in a Sieve (07_sieve_pipeline.md, R228–R230, R239, R252). -/

namespace Sys2Proof.Machine

open Sys2Proof

/-! ### Where they lie -/

/-- A register of a context in a Sieve as the one that answers to its address. -/
def ctxHit (v n o : Nat) (r : RegDesc) : Hit := ⟨svAddr v n o, ⟨.sv, v, 0x10000 + n * 0x800 + o⟩, r, [n]⟩

/-- SVX_CTL in the map (R252). -/
def ctxCtlReg : RegDesc := ⟨0x10014, [(0x800, 32)], .none,
  [⟨2, 1, .val 0, .wo, false, none⟩, ⟨1, 1, .val 0, .wo, false, none⟩, ⟨0, 1, .val 0, .rw, false, none⟩]⟩

/-- SVX_EXP_TIME in the map (R252). -/
def expTimeReg : RegDesc := ⟨0x10080, [(0x800, 32)], .none, [⟨0, 32, .val 0x2710, .rw, false, none⟩]⟩

/-- SVX_EXP_GAIN in the map (R252). -/
def expGainReg : RegDesc := ⟨0x10084, [(0x800, 32)], .none, [⟨0, 16, .val 256, .rw, false, none⟩]⟩

theorem svAddr_range {v n : Nat} (hv : v < 2) (hn : n < 32) (o : Nat) : 0x70000 ≤ svAddr v n o ∧ svAddr v n o < 0x1000000 := by
  unfold svAddr
  omega

theorem placeOf_ctx {v n : Nat} (hv : v < 2) (hn : n < 32) (o : Nat) :
    placeOf (svAddr v n o) = some ⟨.sv, v, 0x10000 + n * 0x800 + o % 0x800⟩ := by
  have hinst : (svAddr v n o - 0x180000) / 0x20000 = v := by
    unfold svAddr
    omega
  have hoff : (svAddr v n o - 0x180000) % 0x20000 = 0x10000 + n * 0x800 + o % 0x800 := by
    unfold svAddr
    omega
  have hplace := placeOf_row (a := svAddr v n o) (r := ⟨0x180000, 0x1C0000, .sv, 2, 0x20000⟩) (by simp [addrMap])
    (by unfold svAddr; dsimp only; omega) (by unfold svAddr; dsimp only; omega) (by rw [hinst]; exact hv)
  rwa [hinst, hoff] at hplace

theorem find_ctxCtl : ∀ n : Fin 32, Place.find ⟨.sv, 0, 0x10000 + n.val * 0x800 + 0x14⟩ = some (ctxCtlReg, [n.val]) := by
  decide +kernel

theorem find_expTime : ∀ n : Fin 32, Place.find ⟨.sv, 0, 0x10000 + n.val * 0x800 + 0x80⟩ = some (expTimeReg, [n.val]) := by
  decide +kernel

theorem find_expGain : ∀ n : Fin 32, Place.find ⟨.sv, 0, 0x10000 + n.val * 0x800 + 0x84⟩ = some (expGainReg, [n.val]) := by
  decide +kernel

/-- The P registers of a context are no halves of pairs, and software writes every field of them (R229, R252). -/
theorem find_param : ∀ n : Fin 32, ∀ o : Fin 29, ∀ x ∈ Place.find ⟨.sv, 0, 0x10000 + n.val * 0x800 + (0x18 + o.val)⟩,
    x.2 = [n.val] ∧ x.1.pair = .none ∧ ∀ f ∈ x.1.fields, f.ty = .rw := by
  decide +kernel

/-- A register of a context that every context of its offset has. -/
theorem route_ctx {c : Chip} {v n o : Nat} {r : RegDesc} (hv : v < 2) (hn : n < 32) (ho : o < 0x800) (h4 : o % 4 = 0)
    (hthere : (Place.mk .sv v (0x10000 + n * 0x800 + o)).there = true) (hon : c.on (sieveDom v) = true)
    (hfind : Place.find ⟨.sv, 0, 0x10000 + n * 0x800 + o⟩ = some (r, [n])) :
    c.route (svAddr v n o) = .reg (ctxHit v n o r) := by
  have hplace := placeOf_ctx hv hn o
  rw [Nat.mod_eq_of_lt ho] at hplace
  exact route_of_place hplace hthere hon (by unfold svAddr; omega) ((find_inst _ _ _).trans hfind)

/-! ### What a write of one starts -/

/-- A write of a context's register that no check of R553 turns away. -/
theorem regWrite_ctx {m : Master} {v n o x k : Nat} {r : RegDesc} {c : Chip} (ho : o < 0x800) (hcfg : o ≠ 0)
    (hpair : r.pair = .none) (hrwi : ∀ f ∈ r.fields, f.ty ≠ .rwi) (hlegal : (ctxHit v n o r).reservedValue x = false)
    (htime : o = 0x80 → 100 ≤ x ∧ x + 100 ≤ c.rd (Reg.SVX_PERIOD_beats v n) * 250) :
    regWrite m (ctxHit v n o r) x k c = ⟨.ok, false, ctxStarts v n o x (fieldsWritten (ctxHit v n o r) x c)⟩ := by
  have hoff : (0x10000 + n * 0x800 + o) % 0x800 = o := by omega
  have hpage : ¬ 0x10000 + n * 0x800 + o < 0x10000 := by omega
  refine regWrite_taken rfl hpair (fun _ => rwiChange_none hrwi _ _) hlegal rfl ?_ ?_
  · simp only [writeOk, ctxHit, hoff, hpage, hcfg, if_false, List.getD_cons_zero]
    split
    · rename_i h80
      simp [htime h80]
    · rfl
  · simp only [writeStarts, ctxHit, hoff, List.getD_cons_zero, Nat.not_lt.1 hpage, decide_true, when_true]

/-! ### SVX_CTL (R228, R230) -/

section
variable {α β : Type} {p : Lane → α} {q : Link → β} {parts : List Part} {K : Nat → Prop} {n : Nat} {c : Chip}

theorem onLinks_fpnAsk (hi : Part.img ∈ parts) (hK : K (Reg.SVX_GEN_pending (c.svOf n) n).key) :
    Chip.onLinks p q parts K c (fpnAsk n c) := by
  have hmod : Chip.onLinks p q parts K c (modCtx n (fun x => { x with fpnWait := true }) c) :=
    onLinks_modCtx hi (by intro _; rfl) c
  exact onLinks_next rfl hmod fun hv => onLinks_when (onLinks_wr (by rw [hv]; exact hK) _ _)

theorem fpnAsk_ctx (hn : n < c.img.ctxs.length) : (fpnAsk n c).ctx n = { c.ctx n with fpnWait := true } := by
  rw [fpnAsk, ctx_congr (only_genShow [] n _ .img (by simp)), ctx_modCtx_same hn]

/-- A commit that waits shows, where the context's Sieve is on. -/
theorem fpnAsk_pending {v : Nat} (hn : n < c.img.ctxs.length) (hv : c.svOf n = v) (hon : c.on (sieveDom v) = true) :
    (fpnAsk n c).flag (Reg.SVX_GEN_pending v n) = true := by
  let d := modCtx n (fun x => { x with fpnWait := true }) c
  have hsv : d.svOf n = v := (modAt_getD_field (p := Ctx.sieve) (by intro _; rfl) _ _ _ _).trans hv
  have hwait : (d.ctx n).fpnWait = true := congrArg Ctx.fpnWait (ctx_modCtx_same hn _)
  have hon' : d.on (sieveDom v) = true := hon
  have hask : fpnAsk n c = wrB (Reg.SVX_GEN_pending v n) true d := by
    show genShow n d = _
    simp only [genShow, hsv, hwait, hon', Bool.true_or, when_true]
  rw [hask]
  exact flag_of_rd (rd_wrB_same _ (by decide : 0 < 1) true d)

end

theorem on_wr {f : Fld} (hf : f.key ≠ Reg.TOP_DOMAIN_ON_on.key) (v : Nat) (c : Chip) (k : Nat) :
    (wr f v c).on k = c.on k := by
  simp only [Chip.on, Chip.shown, Chip.heldReset, rd_wr_ne hf.symm, wr_sys]

/-- The hold bit of SVX_CTL taken from a written word. -/
def holdTaken (v n x : Nat) (c : Chip) : Chip := wr (Reg.SVX_CTL_hold v n) (x % 2) c

/-- The fault of a context cleared where a word written to SVX_CTL says so. -/
def faultCleared (v n x : Nat) (c : Chip) : Chip := when (bit x 2) (wr (Reg.SVX_STATUS_fault v n) 0) c

/-- A write of SVX_CTL that is taken: its commands act in the Sieve that the context is bound to. -/
def ctxCtlWritten (v n x : Nat) (c : Chip) : Chip :=
  if c.svOf n = v then when (bit x 1) (fpnAsk n) (faultCleared v n x (holdTaken v n x c)) else holdTaken v n x c

/-- The registers that a write of SVX_CTL changes. -/
def ctxCtlRegs (v n : Nat) : List Fld := [Reg.SVX_CTL_hold v n, Reg.SVX_STATUS_fault v n, Reg.SVX_GEN_pending v n]

theorem regWrite_ctxCtl {m : Master} {v n x k : Nat} {c : Chip} :
    regWrite m (ctxHit v n 0x14 ctxCtlReg) x k c = ⟨.ok, false, ctxCtlWritten v n x c⟩ := by
  have hfields : fieldsWritten (ctxHit v n 0x14 ctxCtlReg) x c = holdTaken v n x c := by
    have hwr : fieldsWritten (ctxHit v n 0x14 ctxCtlReg) x c = wr ⟨svAddr v n 0x14, 0, 1, 0⟩ (x / 1 % 2) c := rfl
    rw [hwr, Nat.div_one, show svAddr v n 0x14 = 0x190014 + v * 0x20000 + n * 0x800 by simp only [svAddr]; omega]
    rfl
  have hstarts : ctxStarts v n 0x14 x (holdTaken v n x c) = ctxCtlWritten v n x c := by
    have hsv : (holdTaken v n x c).svOf n = c.svOf n := rfl
    simp only [ctxStarts, ctxCtlWritten, hsv, ite_not, show ¬ (0x18 ≤ 0x14 ∧ 0x14 ≤ 0x34) by decide, if_false, if_true]
    rfl
  have hlegal : (ctxHit v n 0x14 ctxCtlReg).reservedValue x = false := by
    have hoff : (0x10000 + n * 0x800 + 0x14) % 0x800 = 0x14 := by omega
    simp [Hit.reservedValue, ctxHit, ctxCtlReg, hoff]
  rw [regWrite_ctx (by decide) (by decide) rfl (by decide) hlegal (fun h => absurd h (by decide)), hfields, hstarts]

section
variable {v n x : Nat} {c : Chip}

theorem ctxCtlWritten_own (hv : c.svOf n = v) :
    ctxCtlWritten v n x c = when (bit x 1) (fpnAsk n) (faultCleared v n x (holdTaken v n x c)) := if_pos hv

theorem ctxCtlWritten_other (hv : c.svOf n ≠ v) : ctxCtlWritten v n x c = holdTaken v n x c := if_neg hv

theorem faultCleared_img (v n x : Nat) (c : Chip) : (faultCleared v n x c).img = c.img := by
  unfold faultCleared
  cases bit x 2 <;> rfl

theorem faultCleared_on (v n x : Nat) (c : Chip) (k : Nat) : (faultCleared v n x c).on k = c.on k := by
  unfold faultCleared
  cases bit x 2
  · rfl
  · exact on_wr (by simp only [Fld.key, Reg.SVX_STATUS_fault, Reg.TOP_DOMAIN_ON_on]; omega) 0 c k

theorem faultCleared_svOf (v n x : Nat) (c : Chip) (k : Nat) : (faultCleared v n x c).svOf k = c.svOf k :=
  svOf_congr (ctx_congr (faultCleared_img v n x c) k)

theorem onLinks_ctxCtlWritten {α β : Type} {p : Lane → α} {q : Link → β} {parts : List Part} {K : Nat → Prop}
    (hi : Part.img ∈ parts) (hr : ∀ f ∈ ctxCtlRegs v n, K f.key) :
    Chip.onLinks p q parts K c (ctxCtlWritten v n x c) := by
  simp only [ctxCtlRegs, List.forall_mem_cons] at hr
  obtain ⟨hhold, hfault, hpending, -⟩ := hr
  have htaken : Chip.onLinks p q parts K c (holdTaken v n x c) := onLinks_wr hhold _ c
  by_cases hv : c.svOf n = v
  · rw [ctxCtlWritten_own hv]
    have hcleared : Chip.onLinks p q parts K c (faultCleared v n x (holdTaken v n x c)) :=
      onLinks_trans htaken (onLinks_when (onLinks_wr hfault 0 _))
    exact onLinks_next hv hcleared fun hv => onLinks_when (onLinks_fpnAsk hi (hv.symm ▸ hpending))
  · rwa [ctxCtlWritten_other hv]

theorem fpnAsked_rd {b : Bool} {g : Fld} (hg : (Reg.SVX_GEN_pending (c.svOf n) n).key ≠ g.key) :
    (when b (fpnAsk n) c).rd g = c.rd g :=
  rd_of_onLinks (onLinks_when (onLinks_fpnAsk (p := id) (q := id) (parts := [.img]) (K := (· ≠ g.key)) (by simp) hg))

theorem ctxCtlWritten_hold : (ctxCtlWritten v n x c).flag (Reg.SVX_CTL_hold v n) = bit x 0 := by
  have htaken : (holdTaken v n x c).rd (Reg.SVX_CTL_hold v n) = x / 2 ^ 0 % 2 ^ 1 := by
    rw [holdTaken, rd_wr_same]
    simp [Reg.SVX_CTL_hold]
  refine flag_of_bit (Eq.trans ?_ htaken)
  by_cases hv : c.svOf n = v
  · rw [ctxCtlWritten_own hv, fpnAsked_rd (by simp only [Fld.key, Reg.SVX_GEN_pending, Reg.SVX_CTL_hold, faultCleared_svOf]; omega)]
    unfold faultCleared
    cases bit x 2
    · rfl
    · exact rd_wr_ne (by simp only [Fld.key, Reg.SVX_STATUS_fault, Reg.SVX_CTL_hold]; omega) _ _
  · rw [ctxCtlWritten_other hv]

theorem holdTaken_fault : (holdTaken v n x c).rd (Reg.SVX_STATUS_fault v n) = c.rd (Reg.SVX_STATUS_fault v n) :=
  rd_wr_ne (by simp only [Fld.key, Reg.SVX_STATUS_fault, Reg.SVX_CTL_hold]; omega) _ c

/-- In the context's own Sieve, fault_clear decides its fault. -/
theorem ctxCtlWritten_fault (hv : c.svOf n = v) : (ctxCtlWritten v n x c).rd (Reg.SVX_STATUS_fault v n) =
    if bit x 2 then 0 else c.rd (Reg.SVX_STATUS_fault v n) := by
  rw [ctxCtlWritten_own hv,
    fpnAsked_rd (by simp only [Fld.key, Reg.SVX_GEN_pending, Reg.SVX_STATUS_fault, faultCleared_svOf]; omega)]
  unfold faultCleared
  cases bit x 2
  · exact holdTaken_fault
  · exact (rd_wr_same _ _ _).trans (Nat.zero_mod _)

/-- In the context's own Sieve, fpn_commit decides what changes of it. -/
theorem ctxCtlWritten_ctx (hv : c.svOf n = v) (hn : n < c.img.ctxs.length) : (ctxCtlWritten v n x c).ctx n =
    if bit x 1 then { c.ctx n with fpnWait := true } else c.ctx n := by
  have himg := faultCleared_img v n x (holdTaken v n x c)
  rw [ctxCtlWritten_own hv]
  cases bit x 1
  · exact ctx_congr himg n
  · refine (fpnAsk_ctx (himg.symm ▸ hn)).trans ?_
    rw [ctx_congr himg n]
    rfl

theorem ctxCtlWritten_pending (hv : c.svOf n = v) (hn : n < c.img.ctxs.length) (hon : c.on (sieveDom v) = true)
    (hb : bit x 1 = true) : (ctxCtlWritten v n x c).flag (Reg.SVX_GEN_pending v n) = true := by
  rw [ctxCtlWritten_own hv, hb]
  refine fpnAsk_pending ((faultCleared_img v n x _).symm ▸ hn) ((faultCleared_svOf v n x _ n).trans hv) ?_
  rw [faultCleared_on]
  exact (on_wr (by simp only [Fld.key, Reg.SVX_CTL_hold, Reg.TOP_DOMAIN_ON_on]; omega) _ c _).trans hon

end

end Sys2Proof.Machine
end

section
/-! The commands that write a context's registers (07_sieve_pipeline.md, R228–R230, R239): the Sieve's part of obligation
O53. -/

namespace Sys2Proof.Machine

open Sys2Proof

theorem permit_not_ctx {v n : Nat} (hn : n < 32) {g : Fld} (hg : Fld.ofCtx v n g) :
    g.key ≠ Reg.GIO_STATUS_permit.key := by
  obtain ⟨hlo, hlow, hhigh⟩ := hg
  simp only [Fld.key, Reg.GIO_STATUS_permit]
  omega

theorem ctxCtl_there : ∀ n : Fin 32, (Place.mk .sv 0 (0x10000 + n.val * 0x800 + 0x14)).there = true := by decide

theorem expTime_there : ∀ n : Fin 24, (Place.mk .sv 0 (0x10000 + n.val * 0x800 + 0x80)).there = true := by decide

theorem expGain_there : ∀ n : Fin 24, (Place.mk .sv 0 (0x10000 + n.val * 0x800 + 0x84)).there = true := by decide

section
variable {i : Instr} {s : State} {m : Master} {v n x : Nat} (hv : v < 2) (hn : n < 32)
include hv hn

/-! ### SVX_CTL -/

theorem ends_ctxCtl (hi : busWriteOf i = some (m, svAddr v n 0x14, x))
    (hl : s.core.lets m (sieveDom v) (svAddr v n 0x14) true) {y : Ctx} (hy : s.core.img.ctxs[n]? = some y) :
    Wrote i s m [.img] (ctxCtlRegs v n) fun d => d.flag (Reg.SVX_CTL_hold v n) = bit x 0 ∧
      (y.sieve = v → (bit x 2 = true → d.flag (Reg.SVX_STATUS_fault v n) = false) ∧
        (bit x 1 = true → d.ctx n = { y with fpnWait := true } ∧ d.flag (Reg.SVX_GEN_pending v n) = true)) ∧
      (y.sieve ≠ v ∨ bit x 2 = false → d.rd (Reg.SVX_STATUS_fault v n) = s.core.rd (Reg.SVX_STATUS_fault v n)) ∧
      (y.sieve ≠ v ∨ bit x 1 = false → d.ctx n = y) := by
  obtain ⟨rfl, hlen⟩ := ctx_of_get hy
  refine wrote_reg (p := fun _ => ()) (q := fun _ => ()) hi hl (svAddr_range hv hn _)
    (route_ctx hv hn (by decide) rfl (ctxCtl_there ⟨n, hn⟩) hl.2.1 (find_ctxCtl ⟨n, hn⟩)) (fun _ _ => regWrite_ctxCtl)
    (fun c => onLinks_ctxCtlWritten (by simp) fun f hf => among_of_mem (List.mem_cons_of_mem _ hf)) fun d k hleft => ?_
  have hfault : d.rd (Reg.SVX_STATUS_fault v n) = (ctxCtlWritten v n x (s.core.found k)).rd (Reg.SVX_STATUS_fault v n) :=
    leaves_rd hleft (permit_not_ctx (v := v) hn (by simp [Fld.ofCtx, Reg.SVX_STATUS_fault]))
  have hother (h : (s.core.ctx n).sieve ≠ v) : ctxCtlWritten v n x (s.core.found k) = holdTaken v n x (s.core.found k) :=
    ctxCtlWritten_other h
  refine ⟨?_, fun hsv => ⟨fun h2 => ?_, fun h1 => ⟨?_, ?_⟩⟩, fun h => ?_, fun h => ?_⟩
  · exact (congrArg (· != 0) (leaves_rd hleft (permit_not_ctx (v := v) hn (by simp [Fld.ofCtx, Reg.SVX_CTL_hold])))).trans
      ctxCtlWritten_hold
  · exact flag_of_rd (v := 0) (by rw [hfault, ctxCtlWritten_fault (c := s.core.found k) hsv, h2, if_pos rfl])
  · rw [leaves_ctx hleft, ctxCtlWritten_ctx (c := s.core.found k) hsv hlen, if_pos h1]
    rfl
  · exact (congrArg (· != 0) (leaves_rd hleft (permit_not_ctx (v := v) hn (by simp [Fld.ofCtx, Reg.SVX_GEN_pending])))).trans
      (ctxCtlWritten_pending (c := s.core.found k) hsv hlen hl.2.1 h1)
  · rw [hfault]
    by_cases hsv : (s.core.ctx n).sieve = v
    · rw [ctxCtlWritten_fault (c := s.core.found k) hsv, h.resolve_left (not_not.2 hsv)]
      rfl
    · rw [hother hsv, holdTaken_fault]
      rfl
  · rw [leaves_ctx hleft]
    by_cases hsv : (s.core.ctx n).sieve = v
    · rw [ctxCtlWritten_ctx (c := s.core.found k) hsv hlen, h.resolve_left (not_not.2 hsv)]
      rfl
    · rw [hother hsv]
      rfl

/-! ### The P registers (R229) -/

/-- A register in the range of the P registers is one of them. -/
theorem param_hit {off : Nat} {h : Hit} {c : Chip} (hlow : 0x18 ≤ off % 0x800) (hhigh : off % 0x800 ≤ 0x34)
    (hr : c.route (svAddr v n off) = .reg h) : ∃ r, h = ctxHit v n (off % 0x800) r ∧ r ∈ svaRegs ∧ r.pair = .none ∧
      ∀ f ∈ r.fields, f.ty = .rw := by
  obtain ⟨a, p, r, l⟩ := h
  obtain ⟨hplace, haddr, hfind⟩ := route_reg hr
  obtain rfl : p = ⟨.sv, v, 0x10000 + n * 0x800 + off % 0x800⟩ :=
    Option.some.inj (hplace.symm.trans (placeOf_ctx hv hn off))
  obtain ⟨o, ho⟩ : ∃ o : Fin 29, off % 0x800 = 0x18 + o.val := ⟨⟨off % 0x800 - 0x18, by omega⟩, by simp only; omega⟩
  obtain ⟨hidx, hpair, hrw⟩ := find_param ⟨n, hn⟩ o (r, l) (by rw [← ho]; exact hfind)
  refine ⟨r, ?_, find_mem hfind, hpair, hrw⟩
  have hat : a = svAddr v n (off % 0x800) := haddr.trans (by simp only [svAddr, Nat.mod_mod])
  have hl : l = [n] := hidx
  rw [hat, hl]
  rfl

theorem ends_param {off : Nat} {h : Hit} (hi : busWriteOf i = some (m, svAddr v n off, x)) (hlow : 0x18 ≤ off % 0x800)
    (hhigh : off % 0x800 ≤ 0x34) (hl : s.core.lets m (sieveDom v) (svAddr v n off) true)
    (hr : s.core.route (svAddr v n off) = .reg h) (hlegal : h.reservedValue x = false) :
    Wrote i s m [] (Reg.SVX_PGEN_shadow v n :: h.r.fields.map h.fld) fun d => h.took x s.core d ∧
      d.rd (Reg.SVX_PGEN_shadow v n) = (s.core.rd (Reg.SVX_PGEN_shadow v n) + 1) % 65536 := by
  obtain ⟨r, rfl, hmem, hpair, hrw⟩ := param_hit hv hn hlow hhigh hr
  have hlt : off % 0x800 < 0x800 := Nat.mod_lt _ (by decide)
  have haddr : svAddr v n (off % 0x800) = 0x190000 + v * 0x20000 + n * 0x800 + off % 0x800 := by
    rw [svAddr, Nat.mod_mod]
  have hfld : ∀ f ∈ r.fields, Fld.ofCtx v n ((ctxHit v n (off % 0x800) r).fld f) ∧
      ((ctxHit v n (off % 0x800) r).fld f).key ≠ (Reg.SVX_PGEN_shadow v n).key := by
    intro f hf
    have hlo := fields_low .sv r hmem f hf
    simp only [Fld.ofCtx, Hit.fld, ctxHit, Fld.key, Reg.SVX_PGEN_shadow, haddr]
    omega
  have hwritten (c : Chip) : ctxStarts v n (off % 0x800) x c = pWritten v n c := by
    simp only [ctxStarts, hlow, hhigh, and_self, if_true]
  refine wrote_reg (p := fun _ => ()) (q := fun _ => ()) hi hl (svAddr_range hv hn _) hr
    (f := fun c => pWritten v n (fieldsWritten (ctxHit v n (off % 0x800) r) x c)) (fun k y => ?_) (fun c => ?_)
    fun d y hleft => ⟨?_, ?_⟩
  · rw [regWrite_ctx hlt (by omega) hpair (fun f hf => by rw [hrw f hf]; decide) hlegal fun h => by omega, hwritten]
  · refine onLinks_trans (onLinks_fieldsWritten (fun f hf => among_of_mem ?_) x c)
      (onLinks_incWrap (among_of_mem (List.mem_cons_of_mem _ List.mem_cons_self)) _)
    exact List.mem_cons_of_mem _ (List.mem_cons_of_mem _ (List.mem_map_of_mem hf))
  · refine took_congr (fieldsWritten_took (c := s.core.found y) hmem fun _ => rfl) fun f hf => ?_
    exact (leaves_rd hleft (permit_not_ctx (v := v) hn (hfld f hf).1)).trans (rd_wr_ne (hfld f hf).2 _ _)
  · rw [leaves_rd hleft (permit_not_ctx (v := v) hn (by simp [Fld.ofCtx, Reg.SVX_PGEN_shadow])), pWritten, incWrap, rd_wr_same,
      fieldsWritten_ne fun f hf => (hfld f hf).2]
    rfl

/-! ### The exposure settings (R239) -/

/-- A write of EXP_TIME or EXP_GAIN: the field takes the word, and the exposure is dirty. -/
theorem ends_exposure {o : Nat} {r : RegDesc} {g : Fld} (hi : busWriteOf i = some (m, svAddr v n o, x))
    (ho : o = 0x80 ∨ o = 0x84) (hl : s.core.lets m (sieveDom v) (svAddr v n o) true)
    (hr : s.core.route (svAddr v n o) = .reg (ctxHit v n o r)) (hpair : r.pair = .none)
    (hrwi : ∀ f ∈ r.fields, f.ty ≠ .rwi) (hlegal : (ctxHit v n o r).reservedValue x = false)
    (hfields : ∀ c, fieldsWritten (ctxHit v n o r) x c = wr g x c) (hg : g.addr = svAddr v n o ∧ g.lo = 0)
    (htime : o = 0x80 → 100 ≤ x ∧ x + 100 ≤ s.core.rd (Reg.SVX_PERIOD_beats v n) * 250) (hsv : s.core.svOf n = v) :
    Wrote i s m [] [g, Reg.SVX_EXP_STATUS_dirty v n] fun d =>
      d.rd g = x % 2 ^ g.w ∧ d.flag (Reg.SVX_EXP_STATUS_dirty v n) = true := by
  obtain ⟨haddr, hlo⟩ := hg
  have hplace : g.addr = 0x190000 + v * 0x20000 + n * 0x800 + o := by
    rw [haddr, svAddr, Nat.mod_eq_of_lt (by omega)]
  have hctx : Fld.ofCtx v n g ∧ g.key ≠ (Reg.SVX_EXP_STATUS_dirty v n).key := by
    simp only [Fld.ofCtx, Fld.key, Reg.SVX_EXP_STATUS_dirty]
    omega
  refine wrote_reg (p := fun _ => ()) (q := fun _ => ()) hi hl (svAddr_range hv hn _) hr
    (f := fun c => wr (Reg.SVX_EXP_STATUS_dirty v n) 1 (wr g x c)) (fun k y => ?_)
    (fun c => onLinks_trans (onLinks_wr (among_of_mem (by simp)) _ c) (onLinks_wr (among_of_mem (by simp)) _ _))
    fun d y hleft => ⟨?_, ?_⟩
  · have hstarts : ctxStarts v n o x (wr g x (s.core.found y)) = wr (Reg.SVX_EXP_STATUS_dirty v n) 1 (wr g x (s.core.found y)) := by
      have hown : (wr g x (s.core.found y)).svOf n = v := hsv
      rcases ho with rfl | rfl <;> simp [ctxStarts, hown]
    rw [regWrite_ctx (c := s.core.found y) (by omega) (by omega) hpair hrwi hlegal htime, hfields, hstarts]
  · rw [leaves_rd hleft (permit_not_ctx (v := v) hn hctx.1), rd_wr_ne hctx.2, rd_wr_same]
  · refine flag_of_rd (v := 1) ?_
    rw [leaves_rd hleft (permit_not_ctx (v := v) hn (by simp [Fld.ofCtx, Reg.SVX_EXP_STATUS_dirty])), rd_wr_same]
    rfl

end

section
variable {i : Instr} {s : State} {m : Master} {v n x : Nat} (hv : v < 2) (hn : n < 24) (hsv : s.core.svOf n = v)
include hv hn hsv

theorem ends_expTime (hi : busWriteOf i = some (m, svAddr v n 0x80, x)) (hx : x < 2 ^ 32)
    (hl : s.core.lets m (sieveDom v) (svAddr v n 0x80) true) (hlow : 100 ≤ x)
    (hhigh : x + 100 ≤ s.core.rd (Reg.SVX_PERIOD_beats v n) * 250) :
    Wrote i s m [] [Reg.SVX_EXP_TIME_value v n, Reg.SVX_EXP_STATUS_dirty v n] fun d =>
      d.rd (Reg.SVX_EXP_TIME_value v n) = x ∧ d.flag (Reg.SVX_EXP_STATUS_dirty v n) = true := by
  have haddr : svAddr v n 0x80 = 0x190080 + v * 0x20000 + n * 0x800 := by simp only [svAddr]; omega
  have hfields (c : Chip) : fieldsWritten (ctxHit v n 0x80 expTimeReg) x c = wr (Reg.SVX_EXP_TIME_value v n) x c := by
    have hwr : fieldsWritten (ctxHit v n 0x80 expTimeReg) x c =
        wr ⟨svAddr v n 0x80, 0, 32, 0x2710⟩ (x / 1 % 2 ^ 32) c := rfl
    rw [hwr, Nat.div_one, Nat.mod_eq_of_lt hx, haddr]
    rfl
  have hlegal : (ctxHit v n 0x80 expTimeReg).reservedValue x = false := by
    have hoff : (0x10000 + n * 0x800 + 0x80) % 0x800 = 0x80 := by omega
    simp [Hit.reservedValue, ctxHit, expTimeReg, hoff]
  have hwrote := ends_exposure hv (by omega : n < 32) hi (.inl rfl) hl (route_ctx hv (by omega) (by decide) rfl
    (expTime_there ⟨n, hn⟩) hl.2.1 (find_expTime ⟨n, by omega⟩)) rfl (by decide) hlegal hfields ⟨haddr.symm, rfl⟩
    (fun _ => ⟨hlow, hhigh⟩) hsv
  rwa [show x % 2 ^ (Reg.SVX_EXP_TIME_value v n).w = x from Nat.mod_eq_of_lt hx] at hwrote

theorem ends_expGain (hi : busWriteOf i = some (m, svAddr v n 0x84, x))
    (hl : s.core.lets m (sieveDom v) (svAddr v n 0x84) true) :
    Wrote i s m [] [Reg.SVX_EXP_GAIN_value v n, Reg.SVX_EXP_STATUS_dirty v n] fun d =>
      d.rd (Reg.SVX_EXP_GAIN_value v n) = x % 65536 ∧ d.flag (Reg.SVX_EXP_STATUS_dirty v n) = true := by
  have haddr : svAddr v n 0x84 = 0x190084 + v * 0x20000 + n * 0x800 := by simp only [svAddr]; omega
  have hfields (c : Chip) : fieldsWritten (ctxHit v n 0x84 expGainReg) x c = wr (Reg.SVX_EXP_GAIN_value v n) x c := by
    have hwr : fieldsWritten (ctxHit v n 0x84 expGainReg) x c =
        wr ⟨svAddr v n 0x84, 0, 16, 256⟩ (x / 1 % 2 ^ 16) c := rfl
    rw [hwr, Nat.div_one, haddr]
    simp only [wr, Nat.mod_mod, Reg.SVX_EXP_GAIN_value]
  have hlegal : (ctxHit v n 0x84 expGainReg).reservedValue x = false := by
    have hoff : (0x10000 + n * 0x800 + 0x84) % 0x800 = 0x84 := by omega
    simp [Hit.reservedValue, ctxHit, expGainReg, hoff]
  exact ends_exposure hv (by omega : n < 32) hi (.inr rfl) hl (route_ctx hv (by omega) (by decide) rfl
    (expGain_there ⟨n, hn⟩) hl.2.1 (find_expGain ⟨n, by omega⟩)) rfl (by decide) hlegal hfields ⟨haddr.symm, rfl⟩
    (fun h => absurd h (by decide)) hsv

end

theorem sieveWrites : Claim.SieveWrites := by
  unfold Claim.SieveWrites
  intro s m sieve ctx value
  have hv := sieve.isLt
  have hn := ctx.isLt
  refine ⟨fun i hi hl y hy => ends_ctxCtl hv hn (by rcases hi with rfl | rfl <;> rfl) hl hy,
    fun off h hlow hhigh hl hr hlegal => ends_param hv hn rfl hlow hhigh hl hr hlegal,
    fun h24 htime hgain hsv => ⟨fun hlow hhigh => ends_expTime hv h24 hsv rfl value.isLt htime hlow hhigh,
      ends_expGain hv h24 hsv rfl hgain⟩⟩

end Sys2Proof.Machine
end

section
/-! Writes of a Ladle engine's registers (09_ladle_engines.md, R273, R288): the microcode and its ready bits, the commands of the
repetitive stages, and the registers of a loop. -/

namespace Sys2Proof.Machine

open Sys2Proof

/-! ### Where they lie -/

/-- The address of a register of a Ladle engine. -/
def ladAddr (n o : Nat) : Nat := 0x200000 + n * 0x2000 + o

/-- A register of a Ladle engine as the one that answers to its address. -/
def ladHit (n o : Nat) (r : RegDesc) (idx : List Nat) : Hit := ⟨ladAddr n o, ⟨.lad, n, o⟩, r, idx⟩

/-- LAD_c_UCODE in the map (R268). -/
def ucodeReg : RegDesc := ⟨0x0, [], .none, [⟨18, 1, .val 0, .rwi, false, none⟩, ⟨17, 1, .val 0, .rwi, false, none⟩,
  ⟨16, 1, .val 0, .rwi, false, none⟩, ⟨8, 2, .val 0, .rwi, false, some (0, 2)⟩, ⟨4, 2, .val 0, .rwi, false, some (0, 2)⟩,
  ⟨0, 2, .val 0, .rwi, false, some (0, 2)⟩]⟩

/-- LAD_c_RC_CMD in the map (R268). -/
def rcCmdReg : RegDesc := ⟨0x14, [], .none, [⟨4, 3, .val 0, .wo, false, none⟩, ⟨0, 3, .val 0, .wo, false, none⟩]⟩

/-- No job bars a write of LAD_c_RC_CMD (R9). -/
theorem rcCmdReg_noRwi : ∀ f ∈ rcCmdReg.fields, f.ty ≠ .rwi := by decide

theorem find_ucode : Place.find ⟨.lad, 0, 0⟩ = some (ucodeReg, []) := by decide +kernel

theorem find_rcCmd : Place.find ⟨.lad, 0, 0x14⟩ = some (rcCmdReg, []) := by decide +kernel

section
variable {n o : Nat} (hn : n < 24) (ho : o < 0x2000)
include hn ho

theorem ladAddr_range : 0x70000 ≤ ladAddr n o ∧ ladAddr n o < 0x1000000 := by
  unfold ladAddr
  omega

theorem placeOf_lad : placeOf (ladAddr n o) = some ⟨.lad, n, o⟩ := by
  have hinst : (ladAddr n o - 0x200000) / 0x2000 = n := by
    unfold ladAddr
    omega
  have hoff : (ladAddr n o - 0x200000) % 0x2000 = o := by
    unfold ladAddr
    omega
  have hplace := placeOf_row (a := ladAddr n o) (r := ⟨0x200000, 0x240000, .lad, 24, 0x2000⟩) (by simp [addrMap])
    (by unfold ladAddr; dsimp only; omega) (by unfold ladAddr; dsimp only; omega) (by rw [hinst]; exact hn)
  rwa [hinst, hoff] at hplace

theorem route_lad {c : Chip} {r : RegDesc} {idx : List Nat} (h4 : o % 4 = 0) (hon : c.on (chanDom n) = true)
    (hfind : Place.find ⟨.lad, 0, o⟩ = some (r, idx)) : c.route (ladAddr n o) = .reg (ladHit n o r idx) :=
  route_of_place (placeOf_lad hn ho) rfl hon (by unfold ladAddr; omega) ((find_inst _ _ _).trans hfind)

theorem permit_not_lad {g : Fld} (haddr : g.addr = ladAddr n o) (hlo : g.lo < 32) :
    g.key ≠ Reg.GIO_STATUS_permit.key := by
  simp only [Fld.key, Reg.GIO_STATUS_permit, haddr, ladAddr]
  omega

end

/-- A write of a Ladle register ends as what it starts. -/
theorem regWrite_lad {m : Master} {n o x k : Nat} {r : RegDesc} {idx : List Nat} {c d : Chip} (hpair : r.pair = .none)
    (hrwi : c.inJob n = true → c.rwiChange (ladHit n o r idx) x = false)
    (hlegal : (ladHit n o r idx).reservedValue x = false)
    (hstarts : ladStarts n o x c (fieldsWritten (ladHit n o r idx) x c) = (.ok, d)) :
    regWrite m (ladHit n o r idx) x k c = ⟨.ok, false, d⟩ :=
  regWrite_taken rfl hpair hrwi hlegal rfl rfl hstarts

/-! ### Loops -/

theorem only_lad {l : List Part} (hl : Part.lad ∈ l) (c : Chip) (x : List Ladle) : Chip.only l c { c with lad := x } := by
  intro p hp
  by_cases h : p = .lad
  · exact absurd (h ▸ hl) hp
  · cases p <;> simp_all [Chip.same]

theorem onLinks_modLoop {α β : Type} {p : Lane → α} {q : Link → β} {parts : List Part} {K : Nat → Prop}
    (hl : Part.lad ∈ parts) (n l : Nat) (f : Loop → Loop) (c : Chip) : Chip.onLinks p q parts K c (modLoop n l f c) :=
  ⟨rfl, rfl, only_lad hl c _, fun _ _ => rfl, fun _ he => he, rfl, fun _ => rfl, rfl, rfl, fun _ => rfl, fun _ => rfl⟩

theorem leaves_loop {c d e : Chip} (h : Chip.Leaves c d e) (n l : Nat) : e.loop n l = d.loop n l := by
  have hlad : e.lad = d.lad := h.parts .lad List.not_mem_nil
  rw [Chip.loop, Chip.ladle, hlad, Chip.loop, Chip.ladle]

/-- The device has loop `l` of engine `n`. -/
def Chip.hasLoop (c : Chip) (n l : Nat) : Prop := n < c.lad.length ∧ l < (c.ladle n).loops.length

theorem hasLoop_of_get {c : Chip} {n l : Nat} {e : Ladle} (he : c.lad[n]? = some e) (hl : l < e.loops.length) :
    c.hasLoop n l := by
  have hladle : c.ladle n = e := by rw [Chip.ladle, List.getD_eq_getElem?_getD, he, Option.getD_some]
  exact ⟨(List.getElem?_eq_some_iff.1 he).1, hladle ▸ hl⟩

section
variable {c : Chip} {n l k : Nat} {f : Loop → Loop}

theorem ladle_modLoop (hn : n < c.lad.length) :
    (modLoop n l f c).ladle n = { c.ladle n with loops := modAt (c.ladle n).loops l f } := modAt_getD_same hn _ _

theorem loop_modLoop_same (h : c.hasLoop n l) : (modLoop n l f c).loop n l = f (c.loop n l) := by
  rw [Chip.loop, ladle_modLoop h.1]
  exact modAt_getD_same h.2 f _

theorem loop_modLoop_ne (h : k ≠ l) : (modLoop n l f c).loop n k = c.loop n k :=
  modAt_getD_field (p := fun e : Ladle => e.loops.getD k Loop.init) (fun e => modAt_getD_ne e.loops h f _) c.lad n n _

theorem hasLoop_modLoop (h : c.hasLoop n k) : (modLoop n l f c).hasLoop n k := by
  obtain ⟨hn, hk⟩ := h
  refine ⟨(modAt_length c.lad n _).symm ▸ hn, ?_⟩
  rwa [ladle_modLoop hn, modAt_length]

/-- Each of the listed loops is changed once, the others stay. -/
theorem loop_forEach_modLoop {ls : List Nat} {g : Nat → Loop → Loop} (hls : ls.Nodup) (h : c.hasLoop n k) :
    (forEach ls (fun l => modLoop n l (g l)) c).loop n k = if k ∈ ls then g k (c.loop n k) else c.loop n k := by
  induction ls generalizing c with
  | nil => rfl
  | cons l ls ih =>
    obtain ⟨hl, hls⟩ := List.nodup_cons.1 hls
    refine (ih hls (hasLoop_modLoop h)).trans ?_
    by_cases hk : k = l
    · subst hk
      rw [if_neg hl, if_pos List.mem_cons_self, loop_modLoop_same h]
    · simp only [loop_modLoop_ne hk, List.mem_cons, hk, false_or]

end

/-! ### LAD_c_RC_CMD (R288) -/

theorem bit_bits {v hi lo l : Nat} (h : l ≤ hi - lo) : bit (bits v hi lo) l = bit v (lo + l) := by
  rw [bits, bit_mod (by omega), bit, Nat.testBit_shiftRight, bit]

/-- The loops that a word written to LAD_c_RC_CMD names. -/
def rcNamed (v : Nat) : List Nat := bitList 3 (bits v 2 0 ||| bits v 6 4)

/-- The switches that a word written to LAD_c_RC_CMD asks for, at the present beat. -/
def rcAsked (n v : Nat) (c : Chip) : Chip :=
  forEach (rcNamed v) (fun l => modLoop n l fun s => { s with switch := some (bit (bits v 2 0) l, true, c.now) }) c

/-- A word names a loop twice. -/
def rcBoth (v l : Nat) : Prop := bit v l = true ∧ bit v (4 + l) = true

section
variable {n v l : Nat} {c : Chip}

theorem bit_ins (hl : l < 3) : bit (bits v 2 0) l = bit v l := (bit_bits (by omega)).trans (by rw [Nat.zero_add])

theorem bit_outs (hl : l < 3) : bit (bits v 6 4) l = bit v (4 + l) := bit_bits (by omega)

theorem mem_rcNamed : l ∈ rcNamed v ↔ l < 3 ∧ (bit v l = true ∨ bit v (4 + l) = true) := by
  have hor : (bits v 2 0 ||| bits v 6 4).testBit l = (bit (bits v 2 0) l || bit (bits v 6 4) l) := Nat.testBit_or ..
  rw [rcNamed, bitList, List.mem_filter, List.mem_range, hor, Bool.or_eq_true]
  exact and_congr_right fun hl => by rw [bit_ins hl, bit_outs hl]

theorem rcNamed_nodup (v : Nat) : (rcNamed v).Nodup := List.Nodup.filter _ List.nodup_range

/-- The two reasons to refuse a command of the repetitive stages. -/
theorem rcRefused_iff : ((List.range 3).any (fun l => bit (bits v 2 0) l && bit (bits v 6 4) l) ||
      (rcNamed v).any (fun l => c.ucode n l == 0)) = true ↔
    ∃ l < 3, rcBoth v l ∨ ((bit v l = true ∨ bit v (4 + l) = true) ∧ c.ucode n l = 0) := by
  simp only [Bool.or_eq_true, List.any_eq_true, List.mem_range, Bool.and_eq_true, mem_rcNamed, beq_iff_eq]
  constructor
  · rintro (⟨l, hl, hin, hout⟩ | ⟨l, ⟨hl, hnamed⟩, hoff⟩)
    · exact ⟨l, hl, .inl ⟨(bit_ins hl).symm.trans hin, (bit_outs hl).symm.trans hout⟩⟩
    · exact ⟨l, hl, .inr ⟨hnamed, hoff⟩⟩
  · rintro ⟨l, hl, ⟨hin, hout⟩ | ⟨hnamed, hoff⟩⟩
    · exact .inl ⟨l, hl, (bit_ins hl).trans hin, (bit_outs hl).trans hout⟩
    · exact .inr ⟨l, ⟨hl, hnamed⟩, hoff⟩

theorem rcCommand_refused (hl : l < 3) (h : rcBoth v l ∨ ((bit v l = true ∨ bit v (4 + l) = true) ∧ c.ucode n l = 0)) :
    rcCommand n v c = (.slaveErr, c) := if_pos (rcRefused_iff.2 ⟨l, hl, h⟩)

theorem rcCommand_taken (h : ∀ l < 3, ¬ rcBoth v l ∧ (bit v l = true ∨ bit v (4 + l) = true → c.ucode n l ≠ 0)) :
    rcCommand n v c = (.ok, rcAsked n v c) := by
  refine if_neg fun hrefused => ?_
  obtain ⟨l, hl, hboth | ⟨hnamed, hoff⟩⟩ := rcRefused_iff.1 hrefused
  · exact (h l hl).1 hboth
  · exact (h l hl).2 hnamed hoff

theorem loop_rcAsked (hl : l < 3) (h : c.hasLoop n l) : (rcAsked n v c).loop n l =
    if bit v l = true ∨ bit v (4 + l) = true then { c.loop n l with switch := some (bit v l, true, c.now) }
    else c.loop n l := by
  refine (loop_forEach_modLoop (rcNamed_nodup v) h).trans ?_
  simp only [mem_rcNamed, hl, true_and, bit_ins hl]

end

/-! ### LAD_c_UCODE (R273) -/

/-- The microcode field of a loop. -/
def ladUcodeFld (n l : Nat) : Fld :=
  match l with
  | 0 => Reg.LAD_UCODE_ucode_x n
  | 1 => Reg.LAD_UCODE_ucode_y n
  | _ => Reg.LAD_UCODE_ucode_p n

/-- The registers that a write of LAD_c_UCODE changes. -/
def ucodeRegs (n : Nat) : List Fld := [Reg.LAD_UCODE_ucode_x n, Reg.LAD_UCODE_ucode_y n, Reg.LAD_UCODE_ucode_p n,
  Reg.LAD_UCODE_ready_x n, Reg.LAD_UCODE_ready_y n, Reg.LAD_UCODE_ready_p n]

/-- The ready bit of one loop after a write of LAD_c_UCODE that found the microcode word `old`. -/
def ucodeChecked (n old l : Nat) (c : Chip) : Chip :=
  if c.ucode n l = bits old (4 * l + 1) (4 * l) then c else wr (ladReadyFld n l) 0 c

theorem ucodeReady_eq (n old : Nat) (c : Chip) : ucodeReady n old c = forEach (List.range 3) (ucodeChecked n old) c := rfl

section
variable {n old l j : Nat} {c : Chip}

theorem ucode_eq (n l : Nat) (c : Chip) : c.ucode n l = c.rd (ladUcodeFld n l) :=
  match l with
  | 0 | 1 | _ + 2 => rfl

theorem ready_lo (n : Nat) (hl : l < 3) : (ladReadyFld n l).lo = 16 + l := by
  interval_cases l <;> rfl

theorem ready_addr (n l : Nat) : (ladReadyFld n l).addr = ladAddr n 0 := by
  unfold ladReadyFld
  split <;> rfl

theorem ready_lt (n l : Nat) : (ladReadyFld n l).lo < 32 := by
  unfold ladReadyFld
  split <;> simp [Reg.LAD_UCODE_ready_x, Reg.LAD_UCODE_ready_y, Reg.LAD_UCODE_ready_p]

theorem ucode_lo (n l : Nat) : (ladUcodeFld n l).lo < 16 := by
  unfold ladUcodeFld
  split <;> simp [Reg.LAD_UCODE_ucode_x, Reg.LAD_UCODE_ucode_y, Reg.LAD_UCODE_ucode_p]

theorem ucode_addr (n l : Nat) : (ladUcodeFld n l).addr = ladAddr n 0 := by
  unfold ladUcodeFld
  split <;> rfl

theorem ready_mem (n l : Nat) : ladReadyFld n l ∈ ucodeRegs n := by
  unfold ladReadyFld
  split <;> simp [ucodeRegs]

theorem ready_ne_ucode (hl : l < 3) : (ladReadyFld n l).key ≠ (ladUcodeFld n j).key := by
  have hj := ucode_lo n j
  simp only [Fld.key, ready_addr, ucode_addr, ready_lo n hl]
  omega

theorem ready_ne_ready (hl : l < 3) (hj : j < 3) (h : l ≠ j) : (ladReadyFld n l).key ≠ (ladReadyFld n j).key := by
  simp only [Fld.key, ready_addr, ready_lo n hl, ready_lo n hj]
  omega

theorem ucode_ucodeChecked (hl : l < 3) : (ucodeChecked n old l c).ucode n j = c.ucode n j := by
  unfold ucodeChecked
  split
  · rfl
  · rw [ucode_eq, rd_wr_ne (ready_ne_ucode hl).symm, ucode_eq]

theorem ready_ucodeChecked_ne (hl : l < 3) (hj : j < 3) (h : l ≠ j) :
    (ucodeChecked n old l c).flag (ladReadyFld n j) = c.flag (ladReadyFld n j) := by
  unfold ucodeChecked
  split
  · rfl
  · rw [Chip.flag, rd_wr_ne (ready_ne_ready hj hl h.symm), Chip.flag]

theorem ready_ucodeChecked_same : (ucodeChecked n old l c).flag (ladReadyFld n l) =
    (c.flag (ladReadyFld n l) && decide (c.ucode n l = bits old (4 * l + 1) (4 * l))) := by
  unfold ucodeChecked
  split
  · simp_all
  · rw [Chip.flag, rd_wr_same]
    simp_all

theorem onLinks_ucodeReady {α β : Type} {p : Lane → α} {q : Link → β} {parts : List Part} {K : Nat → Prop}
    (hK : ∀ f ∈ ucodeRegs n, K f.key) : Chip.onLinks p q parts K c (ucodeReady n old c) :=
  onLinks_forEach _ (fun l _ d => onLinks_ite (onLinks_refl d) (onLinks_wr (hK _ (ready_mem n l)) 0 d)) c

theorem ucode_ucodeReady : (ucodeReady n old c).ucode n j = c.ucode n j :=
  forEach_keeps (p := fun d => d.ucode n j = c.ucode n j) _
    (fun _ hl _ hd => (ucode_ucodeChecked (List.mem_range.1 hl)).trans hd) rfl

/-- A ready bit stays where the loop's microcode is the one found. -/
theorem ready_ucodeReady (hj : j < 3) : (ucodeReady n old c).flag (ladReadyFld n j) =
    (c.flag (ladReadyFld n j) && decide (c.ucode n j = bits old (4 * j + 1) (4 * j))) := by
  show (ucodeChecked n old 2 (ucodeChecked n old 1 (ucodeChecked n old 0 c))).flag _ = _
  interval_cases j
  · rw [ready_ucodeChecked_ne (by decide) (by decide) (by decide), ready_ucodeChecked_ne (by decide) (by decide) (by decide),
      ready_ucodeChecked_same]
  · rw [ready_ucodeChecked_ne (by decide) (by decide) (by decide), ready_ucodeChecked_same,
      ready_ucodeChecked_ne (by decide) (by decide) (by decide), ucode_ucodeChecked (by decide)]
  · rw [ready_ucodeChecked_same, ready_ucodeChecked_ne (by decide) (by decide) (by decide),
      ready_ucodeChecked_ne (by decide) (by decide) (by decide), ucode_ucodeChecked (by decide), ucode_ucodeChecked (by decide)]

/-- The word of microcode fields shows each, while each holds its two bits. -/
theorem bits_ucodeWord (h : ∀ j < 3, c.ucode n j < 4) (hl : l < 3) :
    bits (c.ucodeWord n) (4 * l + 1) (4 * l) = c.ucode n l := by
  have hx := h 0 (by decide)
  have hy := h 1 (by decide)
  have hp := h 2 (by decide)
  have hword : bits (c.ucodeWord n) (4 * l + 1) (4 * l) = c.ucodeWord n / 2 ^ (4 * l) % 4 := by
    rw [bits, Nat.shiftRight_eq_div_pow, Nat.add_sub_cancel_left]
    rfl
  rw [hword, Chip.ucodeWord]
  interval_cases l <;> simp only [Nat.mul_zero, Nat.pow_zero, Nat.div_one, Nat.reduceMul, Nat.reducePow] <;> omega

end

section
variable {n x l : Nat} {c : Chip}

/-- The fields of LAD_c_UCODE with a word taken. -/
def ucodeTaken (n x : Nat) (c : Chip) : Chip := fieldsWritten (ladHit n 0 ucodeReg []) x c

theorem ucodeTaken_fld : ∀ f ∈ ucodeReg.fields, (ucodeTaken n x c).rd ((ladHit n 0 ucodeReg []).fld f) = f.of x := by
  intro f hf
  have htook := took_iff.1 (fieldsWritten_took (h := ladHit n 0 ucodeReg []) (v := x) (c := c) (find_mem find_ucode)
    fun _ => rfl) f hf
  have hrwi : f.ty = .rwi := (by decide : ∀ f ∈ ucodeReg.fields, f.ty = .rwi) f hf
  rwa [FieldDesc.after, hrwi] at htook

theorem ucode_ucodeTaken (hl : l < 3) : (ucodeTaken n x c).ucode n l = x / 2 ^ (4 * l) % 4 := by
  interval_cases l
  · exact ucodeTaken_fld ⟨0, 2, .val 0, .rwi, false, some (0, 2)⟩ (by decide)
  · exact ucodeTaken_fld ⟨4, 2, .val 0, .rwi, false, some (0, 2)⟩ (by decide)
  · exact ucodeTaken_fld ⟨8, 2, .val 0, .rwi, false, some (0, 2)⟩ (by decide)

theorem ready_ucodeTaken (hl : l < 3) : (ucodeTaken n x c).flag (ladReadyFld n l) = bit x (16 + l) := by
  interval_cases l
  · exact flag_of_bit (ucodeTaken_fld ⟨16, 1, .val 0, .rwi, false, none⟩ (by decide))
  · exact flag_of_bit (ucodeTaken_fld ⟨17, 1, .val 0, .rwi, false, none⟩ (by decide))
  · exact flag_of_bit (ucodeTaken_fld ⟨18, 1, .val 0, .rwi, false, none⟩ (by decide))

theorem ucodeReg_fields : ∀ f ∈ ucodeReg.fields, (ladHit n 0 ucodeReg []).fld f ∈ ucodeRegs n := by
  simp [ucodeReg, ucodeRegs, ladHit, ladAddr, Hit.fld, Reg.LAD_UCODE_ucode_x, Reg.LAD_UCODE_ucode_y, Reg.LAD_UCODE_ucode_p,
    Reg.LAD_UCODE_ready_x, Reg.LAD_UCODE_ready_y, Reg.LAD_UCODE_ready_p]

theorem ucodeReg_legal (hx : x % 4 ≤ 2) (hy : x / 16 % 4 ≤ 2) (hp : x / 256 % 4 ≤ 2) :
    (ladHit n 0 ucodeReg []).reservedValue x = false := by
  simp [Hit.reservedValue, ladHit, ucodeReg, FieldDesc.of, Hit.mirror, Nat.not_lt.2 hx, Nat.not_lt.2 hy, Nat.not_lt.2 hp]

end

/-! ### The commands -/

section
variable {i : Instr} {s : State} {m : Master} {n x : Nat} (hn : n < 24)
include hn

theorem route_rcCmd (hl : s.core.lets m (chanDom n) (ladAddr n 0x14) true) :
    s.core.route (ladAddr n 0x14) = .reg (ladHit n 0x14 rcCmdReg []) :=
  route_lad hn (by decide) rfl hl.2.1 find_rcCmd

theorem ends_rcAsked {e : Ladle} (hi : busWriteOf i = some (m, ladAddr n 0x14, x))
    (hl : s.core.lets m (chanDom n) (ladAddr n 0x14) true) (he : s.core.lad[n]? = some e) (h3 : e.loops.length = 3)
    (h : ∀ l < 3, ¬ rcBoth x l ∧ (bit x l = true ∨ bit x (4 + l) = true → s.core.ucode n l ≠ 0)) :
    Wrote i s m [.lad] [] fun d => ∀ l < 3, d.loop n l = if bit x l = true ∨ bit x (4 + l) = true then
      { s.core.loop n l with switch := some (bit x l, true, s.core.now) } else s.core.loop n l := by
  refine wrote_reg (p := fun _ => ()) (q := fun _ => ()) hi hl (ladAddr_range hn (by decide)) (route_rcCmd hn hl)
    (f := rcAsked n x) (fun k y => ?_) (fun c => ?_) fun d y hleft l hlt => ?_
  · exact regWrite_lad rfl (fun _ => rwiChange_none rcCmdReg_noRwi _ _) (by simp [Hit.reservedValue, ladHit, rcCmdReg])
      (rcCommand_taken (c := s.core.found y) h)
  · exact onLinks_forEach _ (fun l _ d => onLinks_modLoop (by simp) n l _ d) c
  · exact (leaves_loop hleft n l).trans (loop_rcAsked (c := s.core.found y) hlt (hasLoop_of_get he (h3 ▸ hlt)))

theorem ends_rcRefused {l : Nat} (hi : busWriteOf i = some (m, ladAddr n 0x14, x))
    (hl : s.core.lets m (chanDom n) (ladAddr n 0x14) true) (hlt : l < 3)
    (h : rcBoth x l ∨ ((bit x l = true ∨ bit x (4 + l) = true) ∧ s.core.ucode n l = 0)) :
    Ends i s fun t => t.core.out = [.bus m .slaveErr []] ∧ Chip.only [.fresh] s.core t.core ∧
      Chip.regsKept [Reg.GIO_STATUS_permit] s.core t.core :=
  ends_regRefused hi hl (ladAddr_range hn (by decide)) (route_rcCmd hn hl) fun _ y =>
    regWrite_refused rfl rfl rcCmdReg_noRwi (by simp [Hit.reservedValue, ladHit, rcCmdReg]) rfl rfl
      (rcCommand_refused (c := s.core.found y) hlt h)

theorem ends_ucode (hi : busWriteOf i = some (m, ladAddr n 0, x)) (hl : s.core.lets m (chanDom n) (ladAddr n 0) true)
    (hjob : s.core.inJob n = false) (hx : x % 4 ≤ 2) (hy : x / 16 % 4 ≤ 2) (hp : x / 256 % 4 ≤ 2) :
    Wrote i s m [] (ucodeRegs n) fun d => ∀ l < 3, d.ucode n l = x / 2 ^ (4 * l) % 4 ∧
      ((∀ j < 3, s.core.ucode n j < 4) →
        d.flag (ladReadyFld n l) = (bit x (16 + l) && decide (d.ucode n l = s.core.ucode n l))) := by
  refine wrote_reg (p := fun _ => ()) (q := fun _ => ()) hi hl (ladAddr_range hn (by decide))
    (route_lad hn (by decide) rfl hl.2.1 find_ucode) (f := fun c => ucodeReady n (c.ucodeWord n) (ucodeTaken n x c))
    (fun k y => ?_) (fun c => ?_) fun d y hleft l hlt => ?_
  · exact regWrite_lad rfl (fun hbusy => absurd (hjob.symm.trans hbusy) (by decide)) (ucodeReg_legal hx hy hp) rfl
  · have hK : ∀ f ∈ ucodeRegs n, Fld.among (Reg.GIO_STATUS_permit :: ucodeRegs n) [] f.key :=
      fun f hf => among_of_mem (List.mem_cons_of_mem _ hf)
    exact onLinks_trans (onLinks_fieldsWritten (fun f hf => hK _ (ucodeReg_fields f hf)) x c) (onLinks_ucodeReady hK)
  · have hucode : d.ucode n l = (ucodeTaken n x (s.core.found y)).ucode n l := by
      have hkept : d.rd (ladUcodeFld n l) = _ := leaves_rd hleft
        (permit_not_lad hn (by decide) (ucode_addr n l) (Nat.lt_trans (ucode_lo n l) (by decide)))
      rw [ucode_eq, hkept, ← ucode_eq, ucode_ucodeReady]
    have hready : d.flag (ladReadyFld n l) = _ :=
      congrArg (· != 0) (leaves_rd hleft (permit_not_lad hn (by decide) (ready_addr n l) (ready_lt n l)))
    refine ⟨hucode.trans (ucode_ucodeTaken hlt), fun hold => ?_⟩
    rw [hready, hucode]
    refine (ready_ucodeReady hlt).trans ?_
    rw [ready_ucodeTaken hlt, bits_ucodeWord (c := s.core.found y) hold hlt]
    rfl

/-! ### The registers of a loop -/

theorem lad_hit {o : Nat} {h : Hit} {c : Chip} (ho : o < 0x2000) (hr : c.route (ladAddr n o) = .reg h) :
    ∃ r idx, h = ladHit n o r idx ∧ r ∈ ladRegs := by
  obtain ⟨a, p, r, idx⟩ := h
  obtain ⟨hplace, rfl, hfind⟩ := route_reg hr
  obtain rfl : p = ⟨.lad, n, o⟩ := Option.some.inj (hplace.symm.trans (placeOf_lad hn ho))
  exact ⟨r, idx, rfl, find_mem hfind⟩

theorem ends_loopReg {o : Nat} {h : Hit} (hi : busWriteOf i = some (m, ladAddr n o, x)) (hlow : 0x100 ≤ o)
    (hhigh : o < 0x700) (hl : s.core.lets m (chanDom n) (ladAddr n o) true) (hr : s.core.route (ladAddr n o) = .reg h)
    (hpair : h.r.pair = .none) (hjob : s.core.inJob n = false) (hlegal : h.reservedValue x = false) :
    Wrote i s m [] (ladReadyFld n ((o - 0x100) / 0x200) :: h.r.fields.map h.fld) fun d =>
      h.took x s.core d ∧ d.flag (ladReadyFld n ((o - 0x100) / 0x200)) = false := by
  have ho : o < 0x2000 := by omega
  obtain ⟨r, idx, rfl, hmem⟩ := lad_hit hn ho hr
  have hlo : ∀ f ∈ r.fields, f.lo < 32 := fields_low .lad r hmem
  have happart (l : Nat) : ∀ f ∈ r.fields, ((ladHit n o r idx).fld f).key ≠ (ladReadyFld n l).key := by
    intro f hf
    have hready := ready_lt n l
    have hfield := hlo f hf
    simp only [fld_key, Fld.key, ready_addr, ladHit, ladAddr]
    omega
  have hstarts (c : Chip) : ladStarts n o x c (fieldsWritten (ladHit n o r idx) x c) =
      (.ok, loopRegWritten n ((o - 0x100) / 0x200) (fieldsWritten (ladHit n o r idx) x c)) := by
    simp only [ladStarts, show o ≠ 0 by omega, show o ≠ 0x14 by omega, hlow, hhigh, and_self, if_true, if_false]
  refine wrote_reg (p := fun _ => ()) (q := fun _ => ()) hi hl (ladAddr_range hn ho) hr
    (f := fun c => loopRegWritten n ((o - 0x100) / 0x200) (fieldsWritten (ladHit n o r idx) x c)) (fun k y => ?_) (fun c => ?_)
    fun d y hleft => ⟨?_, ?_⟩
  · exact regWrite_lad hpair (fun hbusy => absurd (hjob.symm.trans hbusy) (by decide)) hlegal (hstarts _)
  · refine onLinks_trans (onLinks_fieldsWritten (fun f hf => among_of_mem ?_) x c) (onLinks_wr (among_of_mem (by simp)) 0 _)
    exact List.mem_cons_of_mem _ (List.mem_cons_of_mem _ (List.mem_map_of_mem hf))
  · refine took_congr (fieldsWritten_took (c := s.core.found y) hmem fun _ => rfl) fun f hf => ?_
    exact (leaves_rd hleft (permit_not_lad hn ho rfl (hlo f hf))).trans (rd_wr_ne (happart _ f hf) _ _)
  · refine flag_of_rd (v := 0) ?_
    rw [leaves_rd hleft (permit_not_lad hn (by decide) (ready_addr n _) (ready_lt n _)), loopRegWritten, rd_wr_same,
      Nat.zero_mod]

end

theorem ladleWrites : Claim.LadleWrites := by
  unfold Claim.LadleWrites
  intro s m ch value
  have hn := ch.isLt
  have hrc : 0x200014 + ch.val * 0x2000 = ladAddr ch.val 0x14 := by
    unfold ladAddr
    omega
  refine ⟨fun i e hi hl he h3 => ?_, fun hl hjob hx hy hp => ends_ucode hn rfl hl hjob hx hy hp,
    fun off h hlow hhigh hl hr hpair hjob hlegal => ends_loopReg hn rfl hlow hhigh hl hr hpair hjob hlegal⟩
  have hw : busWriteOf i = some (m, ladAddr ch.val 0x14, value.toNat) := by
    rw [← hrc]
    rcases hi with rfl | rfl <;> rfl
  rw [hrc] at hl
  exact ⟨fun h => ends_rcAsked hn hw hl he h3 h, fun l hlt h => ends_rcRefused hn hw hl hlt h⟩

/-- Settles O53: a write that R553 lets through ends as its fields and what the written value starts leave the device. -/
theorem imageAndLoopWrites : Obligations.ImageAndLoopWrites := by
  unfold Obligations.ImageAndLoopWrites
  exact ⟨sieveWrites, ladleWrites⟩

end Sys2Proof.Machine
end
